-- ==== Sys2Proof/Word.lean ====
section
/-!
DEFINITION. Sys2Proof/Word.lean: the word types of the module and their plainest arithmetic.
Rules R7 (little-endian words), R18 (64-bit registers), R22 (32-bit lanes).
-/
namespace Sys2Proof

/-- A general register, a double word of memory, a device register. -/
abbrev W64 := BitVec 64
/-- One lane of a vector register, one instruction word. -/
abbrev W32 := BitVec 32
/-- The smallest addressable unit of memory. -/
abbrev Byte := BitVec 8

/-- A finite table: pairs of a key and an entry, keys rising. A key that is not listed has the table's default entry. -/
abbrev Map (α : Type) := List (Nat × α)

/-- A set of natural numbers, listed rising. -/
abbrev NatSet := List Nat

/-- Bits `hi` down to `lo` of a natural number (the spec's `v[hi:lo]`). -/
def bitsOf (w hi lo : Nat) : Nat := w / 2 ^ lo % 2 ^ (hi - lo + 1)

/-- One bit of a natural number. -/
def bitOf (w i : Nat) : Bool := w / 2 ^ i % 2 == 1

/-- The low `n` bits of `v` read as a two's-complement integer. -/
def sgnOf (n v : Nat) : Int :=
  let u := v % 2 ^ n
  if 2 * u < 2 ^ n then (u : Int) else (u : Int) - (2 ^ n : Nat)

/-- An integer reduced to `n` bits. -/
def wrapInt (n : Nat) (i : Int) : Nat := (i % (2 ^ n : Nat)).toNat

/-- The 64-bit word of a natural number (R42, R106: zero extension). -/
def w64 (n : Nat) : W64 := BitVec.ofNat 64 n

/-- `sext(v, n)` of R106, as a 64-bit word. -/
def sext64 (n v : Nat) : W64 := BitVec.ofInt 64 (sgnOf n v)

end Sys2Proof
end

