-- ==== Sys2Proof/Machine/Formats.lean ====
section
/-!
DEFINITION. Sys2Proof/Machine/Formats.lean: the number formats of spec/03 and their exact arithmetic (R37 to R65):
exact values, `val`, `rnd`, `mx_block`, the five special functions, and the AMAX fold.
-/
namespace Sys2Proof.Fp

/-- An exact value: NaN, a signed infinity, or `(-1)^neg * num / den` with a signed zero (R55). -/
inductive Exact where
  | nan
  | inf (neg : Bool)
  | fin (neg : Bool) (num den : Nat)
  deriving DecidableEq, Repr

/-- The four rounding modes of R53. -/
inductive Rm where
  | rne | rtz | rdn | rup
  deriving DecidableEq, Repr

/-- The 2-bit encoding of R53. -/
def Rm.ofBits (n : Nat) : Rm :=
  match n % 4 with
  | 0 => .rne
  | 1 => .rtz
  | 2 => .rdn
  | _ => .rup

/-- A floating-point layout of R39: exponent bits are implied by `inf` and `maxFin`. `bias` and `fbits` as the table
gives them; `maxFin` the magnitude code of the largest finite value; `inf` the code of infinity where the format has
one; `nan` the canonical NaN of R40. -/
structure Layout where
  width  : Nat
  bias   : Nat
  fbits  : Nat
  maxFin : Nat
  inf    : Option Nat
  nan    : Nat
  deriving DecidableEq, Repr

def fp32 : Layout := ⟨32, 127, 23, 0x7F7FFFFF, some 0x7F800000, 0x7FC00000⟩
def fp16 : Layout := ⟨16, 15, 10, 0x7BFF, some 0x7C00, 0x7E00⟩
def bf16 : Layout := ⟨16, 127, 7, 0x7F7F, some 0x7F80, 0x7FC0⟩
def e4m3 : Layout := ⟨8, 7, 3, 0x7E, none, 0x7F⟩
def e5m2 : Layout := ⟨8, 15, 2, 0x7B, some 0x7C, 0x7E⟩
def e2m1 : Layout := ⟨4, 1, 1, 7, none, 0⟩

/-- The exact value of an encoding of a floating-point layout (R39). -/
def Layout.val (f : Layout) (b : Nat) : Exact :=
  let mag := b % 2 ^ (f.width - 1)
  let neg := bitOf b (f.width - 1)
  if f.maxFin < mag then (if f.inf = some mag then .inf neg else .nan)
  else
    let e := mag / 2 ^ f.fbits
    let q := mag % 2 ^ f.fbits
    let sig := if e = 0 then q else q + 2 ^ f.fbits
    let ex := (if e = 0 then 1 else e)
    if f.bias + f.fbits ≤ ex then .fin neg (sig * 2 ^ (ex - f.bias - f.fbits)) 1
    else .fin neg sig (2 ^ (f.bias + f.fbits - ex))

/-- `floor(log2(n / d))` for positive `n` and `d`. -/
def floorLog2 (n d : Nat) : Int :=
  let k : Int := (Nat.log2 n : Int) - Nat.log2 d
  let lt := if 0 ≤ k then n < d * 2 ^ k.toNat else n * 2 ^ (-k).toNat < d
  if lt then k - 1 else k

/-- `n / (d * 2^s)` as quotient, remainder and divisor. -/
def scaledDiv (n d : Nat) (s : Int) : Nat × Nat × Nat :=
  let n' := if 0 ≤ s then n else n * 2 ^ (-s).toNat
  let d' := if 0 ≤ s then d * 2 ^ s.toNat else d
  (n' / d', n' % d', d')

/-- Whether a magnitude with quotient `q` and remainder `r` of `d` is rounded away from zero (R53). -/
def roundsUp (rm : Rm) (neg : Bool) (q r d : Nat) : Bool :=
  match rm with
  | .rne => d < 2 * r || (2 * r = d && q % 2 = 1)
  | .rtz => false
  | .rdn => neg && r != 0
  | .rup => !neg && r != 0

/-- Rounds a magnitude to an integer in a mode. -/
def roundNat (rm : Rm) (neg : Bool) (n d : Nat) : Nat :=
  if roundsUp rm neg (n / d) (n % d) d then n / d + 1 else n / d

/-- Whether an overflow of this sign gives an infinity under IEEE 754-2019 in a mode (R55). -/
def overflowsToInf (rm : Rm) (neg : Bool) : Bool :=
  match rm with
  | .rne => true
  | .rtz => false
  | .rdn => neg
  | .rup => !neg

/-- The sign bit of a layout. -/
def Layout.sign (f : Layout) (neg : Bool) : Nat := if neg then 2 ^ (f.width - 1) else 0

/-- `rnd` of R55 for a floating-point layout. -/
def Layout.rnd (f : Layout) (v : Exact) (rm : Rm) (sat : Bool) : Nat :=
  match v with
  | .nan => f.nan
  | .inf neg =>
    match f.inf with
    | some i => f.sign neg + i
    | none => if sat then f.sign neg + f.maxFin else f.nan
  | .fin neg n d =>
    if n = 0 then f.sign neg
    else
      let emin : Int := 1 - (f.bias : Int)
      let e := max (floorLog2 n d) emin
      let (q, r, d') := scaledDiv n d (e - f.fbits)
      let q' := if roundsUp rm neg q r d' then q + 1 else q
      let mag := (e - emin).toNat * 2 ^ f.fbits + q'
      if mag ≤ f.maxFin then f.sign neg + mag
      else if sat then f.sign neg + f.maxFin
      else if overflowsToInf rm neg then
        match f.inf with
        | some i => f.sign neg + i
        | none => f.nan
      else f.sign neg + f.maxFin

/-! ### The g8 gauge format (R46 to R48) -/

/-- The bands of R46, highest first: the least code of the band, the exponent base, and the bits of E and F. -/
def g8Bands : List (Nat × Int × Nat × Nat) :=
  [(127, 17, 0, 0), (126, 16, 0, 0), (124, 14, 1, 0), (120, 10, 2, 0), (112, 6, 2, 1), (96, 2, 2, 2), (64, 0, 1, 4),
   (32, -2, 1, 4), (16, -6, 2, 2), (8, -10, 2, 1), (4, -14, 2, 0), (2, -16, 1, 0), (1, -17, 0, 0)]

/-- The value of a non-zero magnitude code, in units of `2^-17` times `2^-4` (every g8 value is a multiple of 2^-21). -/
def g8Mag (m : Nat) : Nat :=
  match g8Bands.find? (fun b => b.1 ≤ m) with
  | none => 0
  | some (lo, base, _, fb) =>
    let k := m - lo
    let e := base + (k / 2 ^ fb : Nat)
    (2 ^ fb + k % 2 ^ fb) * 2 ^ (e + 21 - fb).toNat

/-- The exact value of a g8 byte; NaV reads as NaN (R55). -/
def g8Val (b : Nat) : Exact :=
  let b := b % 256
  if b = 0x80 then .nan else .fin (b / 128 = 1) (g8Mag (b % 128)) (2 ^ 21)

/-- The largest magnitude code whose value is at most `n / d`, at most `m`. -/
def g8Floor (n d : Nat) : Nat → Nat
  | 0 => 0
  | m + 1 => if g8Mag (m + 1) * d ≤ n * 2 ^ 21 then m + 1 else g8Floor n d m

/-- `rnd` for a g8 target (R48). -/
def g8Rnd (v : Exact) (rm : Rm) : Nat :=
  match v with
  | .nan => 0x80
  | .inf _ => 0x80
  | .fin neg n d =>
    let m := g8Floor n d 127
    let lo := g8Mag m * d
    let x := n * 2 ^ 21
    let m' :=
      if m = 127 then 127
      else if roundsUp rm neg m (x - lo) (g8Mag (m + 1) * d - lo) then m + 1 else m
    if m' = 0 then 0 else (if neg then 128 else 0) + m'

/-! ### Integer formats (R51, R52) -/

/-- A rounded exact value as an integer; NaN gives 0 (R52). -/
def roundInt (rm : Rm) : Exact → Int
  | .fin neg n d => if neg then -(roundNat rm neg n d : Int) else (roundNat rm neg n d : Int)
  | _ => 0

/-- The least and the greatest value of an integer format. -/
def intRange (signed : Bool) (n : Nat) : Int × Int :=
  if signed then (-((2 ^ (n - 1) : Nat) : Int), ((2 ^ (n - 1) : Nat) : Int) - 1) else (0, ((2 ^ n : Nat) : Int) - 1)

/-- `rnd` for an integer target: rounds, then saturates (R52). -/
def intRnd (signed : Bool) (n : Nat) (v : Exact) (rm : Rm) : Nat :=
  let (lo, hi) := intRange signed n
  match v with
  | .nan => 0
  | .inf neg => wrapInt n (if neg then lo else hi)
  | .fin .. => wrapInt n (max lo (min hi (roundInt rm v)))

/-- The exact value of an integer. -/
def ofInt (i : Int) : Exact := .fin (decide (i < 0)) i.natAbs 1

/-! ### Format codes (R37) -/

/-- Bits per element of a format code. -/
def fmtBits (f : Nat) : Nat :=
  match f with
  | 0x0 => 32
  | 0x1 => 16
  | 0x2 => 16
  | 0x3 => 8
  | 0x4 => 8
  | 0x5 => 8
  | 0x6 => 8
  | 0x7 => 4
  | 0x8 => 4
  | 0x9 => 8
  | 0xA => 16
  | 0xB => 32
  | 0xC => 8
  | 0xD => 16
  | 0xE => 32
  | _ => 0

/-- Whether a code names a format of the float class (R37). -/
def fmtIsFloat (f : Nat) : Bool := f ≤ 7

/-- Whether a code is accepted as a hire operand (R37). -/
def fmtHireOperand (f : Nat) : Bool := (1 ≤ f && f ≤ 9)

/-- Whether a code is accepted as a landing format (R37). -/
def fmtLanding (f : Nat) : Bool := f ≤ 5 || (9 ≤ f && f ≤ 11)

/-- Whether a code is accepted as a `vcvt` source (R37). -/
def fmtCvtSource (f : Nat) : Bool := f ≤ 5 || (9 ≤ f && f ≤ 14)

/-- Whether a code is accepted as a `vcvt` target (R37). -/
def fmtCvtTarget (f : Nat) : Bool := f ≤ 7 || (9 ≤ f && f ≤ 14)

/-- `val(f, b)` of R55 for the codes that need no scale and no table: an mx element reads as its bare element. -/
def val (f b : Nat) : Exact :=
  match f with
  | 0x0 => fp32.val b
  | 0x1 => bf16.val b
  | 0x2 => fp16.val b
  | 0x3 => e4m3.val b
  | 0x4 => e5m2.val b
  | 0x5 => g8Val b
  | 0x6 => e4m3.val b
  | 0x7 => e2m1.val b
  | 0x8 => ofInt (sgnOf 4 b)
  | 0x9 => ofInt (sgnOf 8 b)
  | 0xA => ofInt (sgnOf 16 b)
  | 0xB => ofInt (sgnOf 32 b)
  | 0xC => ofInt (b % 2 ^ 8 : Nat)
  | 0xD => ofInt (b % 2 ^ 16 : Nat)
  | 0xE => ofInt (b % 2 ^ 32 : Nat)
  | _ => .nan

/-- `rnd(f, v, rm, sat)` of R55; an mx code stands for its element. -/
def rnd (f : Nat) (v : Exact) (rm : Rm) (sat : Bool) : Nat :=
  match f with
  | 0x0 => fp32.rnd v rm sat
  | 0x1 => bf16.rnd v rm sat
  | 0x2 => fp16.rnd v rm sat
  | 0x3 => e4m3.rnd v rm sat
  | 0x4 => e5m2.rnd v rm sat
  | 0x5 => g8Rnd v rm
  | 0x6 => e4m3.rnd v rm sat
  | 0x7 => e2m1.rnd v rm sat
  | 0x9 => intRnd true 8 v rm
  | 0xA => intRnd true 16 v rm
  | 0xB => intRnd true 32 v rm
  | 0xC => intRnd false 8 v rm
  | 0xD => intRnd false 16 v rm
  | 0xE => intRnd false 32 v rm
  | _ => 0

/-- The entry of a c4 table held in two 64-bit words (R49). -/
def c4Entry (t0 t1 i : Nat) : Int :=
  let i := i % 16
  sgnOf 8 ((if i < 8 then t0 else t1) / 2 ^ (8 * (i % 8)))

/-! ### Exact arithmetic under the IEEE 754-2019 rules for special values (R56, R59, R63) -/

def Exact.isNan : Exact → Bool
  | .nan => true
  | _ => false

def Exact.isZero : Exact → Bool
  | .fin _ n _ => n = 0
  | _ => false

def Exact.neg : Exact → Exact
  | .nan => .nan
  | .inf s => .inf (!s)
  | .fin s n d => .fin (!s) n d

def Exact.abs : Exact → Exact
  | .nan => .nan
  | .inf _ => .inf false
  | .fin _ n d => .fin false n d

/-- The exact sum. An exact zero of operands of unlike signs is −0 under RDN and +0 in the other modes. -/
def Exact.add (rm : Rm) : Exact → Exact → Exact
  | .nan, _ => .nan
  | _, .nan => .nan
  | .inf s, .inf t => if s = t then .inf s else .nan
  | .inf s, .fin .. => .inf s
  | .fin .., .inf t => .inf t
  | .fin s n d, .fin t m e =>
    let (a, b, k) := if d = e then (n, m, d) else (n * e, m * d, d * e)
    if s = t then .fin s (a + b) k
    else if b < a then .fin s (a - b) k
    else if a < b then .fin t (b - a) k
    else .fin (rm = .rdn) 0 1

def Exact.mul : Exact → Exact → Exact
  | .nan, _ => .nan
  | _, .nan => .nan
  | .inf s, .inf t => .inf (s != t)
  | .inf s, .fin t m _ => if m = 0 then .nan else .inf (s != t)
  | .fin s n _, .inf t => if n = 0 then .nan else .inf (s != t)
  | .fin s n d, .fin t m e => .fin (s != t) (n * m) (d * e)

def Exact.div : Exact → Exact → Exact
  | .nan, _ => .nan
  | _, .nan => .nan
  | .inf _, .inf _ => .nan
  | .inf s, .fin t _ _ => .inf (s != t)
  | .fin s _ _, .inf t => .fin (s != t) 0 1
  | .fin s n d, .fin t m e =>
    if m = 0 then (if n = 0 then .nan else .inf (s != t))
    else .fin (s != t) (n * e) (d * m)

/-- Multiplies by a power of two (R43). -/
def Exact.scale2 (e : Int) : Exact → Exact
  | .fin s n d => if 0 ≤ e then .fin s (n * 2 ^ e.toNat) d else .fin s n (d * 2 ^ (-e).toNat)
  | v => v

/-- The order of two values neither of which is NaN, −0 equal to +0: less, equal or greater. -/
def Exact.cmp : Exact → Exact → Ordering
  | .inf s, .inf t => if s = t then .eq else if s then .lt else .gt
  | .inf s, _ => if s then .lt else .gt
  | _, .inf t => if t then .gt else .lt
  | .fin s n d, .fin t m e =>
    let a : Int := if s then -((n * e : Nat) : Int) else ((n * e : Nat) : Int)
    let b : Int := if t then -((m * d : Nat) : Int) else ((m * d : Nat) : Int)
    compare a b
  | _, _ => .eq

/-- Whether a value carries a minus sign (−0 included). -/
def Exact.signBit : Exact → Bool
  | .nan => false
  | .inf s => s
  | .fin s _ _ => s

/-! ### FP32 operations (R56) -/

def f32 (b : Nat) : Exact := fp32.val b

/-- `rnd(fp32, v, rm, 0)`. -/
def r32 (v : Exact) (rm : Rm) : Nat := fp32.rnd v rm false

def fAdd (rm : Rm) (a b : Nat) : Nat := r32 ((f32 a).add rm (f32 b)) rm
def fSub (rm : Rm) (a b : Nat) : Nat := r32 ((f32 a).add rm (f32 b).neg) rm
def fMul (rm : Rm) (a b : Nat) : Nat := r32 ((f32 a).mul (f32 b)) rm
def fDiv (rm : Rm) (a b : Nat) : Nat := r32 ((f32 a).div (f32 b)) rm

/-- `a × b + c`, rounded once. -/
def fFma (rm : Rm) (a b c : Nat) : Nat := r32 (((f32 a).mul (f32 b)).add rm (f32 c)) rm

/-- `−(a × b) + c`, rounded once. -/
def fFnma (rm : Rm) (a b c : Nat) : Nat := r32 (((f32 a).mul (f32 b)).neg.add rm (f32 c)) rm

/-- Whether the first value orders before the second, −0 before +0 (R56). -/
def fLess (a b : Exact) : Bool :=
  match a.cmp b with
  | .lt => true
  | .eq => a.signBit && !b.signBit
  | .gt => false

def fMin (a b : Nat) : Nat :=
  if (f32 a).isNan || (f32 b).isNan then fp32.nan
  else (if fLess (f32 b) (f32 a) then b else a) % 2 ^ 32

def fMax (a b : Nat) : Nat :=
  if (f32 a).isNan || (f32 b).isNan then fp32.nan
  else (if fLess (f32 a) (f32 b) then b else a) % 2 ^ 32

/-- The three ordered comparisons; false for an unordered pair (R56). -/
def fEq (a b : Nat) : Bool := !(f32 a).isNan && !(f32 b).isNan && (f32 a).cmp (f32 b) == .eq
def fLt (a b : Nat) : Bool := !(f32 a).isNan && !(f32 b).isNan && (f32 a).cmp (f32 b) == .lt
def fLe (a b : Nat) : Bool := !(f32 a).isNan && !(f32 b).isNan && (f32 a).cmp (f32 b) != .gt

/-! ### Square root and the special functions (R57) -/

/-- The integer square root of `n` where the answer is below `2^k`, found a bit at a time from bit `k - 1`. -/
def isqrtFrom (n : Nat) : Nat → Nat → Nat
  | 0, r => r
  | k + 1, r => isqrtFrom n k (if (r + 2 ^ k) * (r + 2 ^ k) ≤ n then r + 2 ^ k else r)

/-- The integer square root. -/
def isqrt (n : Nat) : Nat := isqrtFrom n (Nat.log2 n / 2 + 1) 0

/-- `r / 2^k` where it is exact, else the value half way to the next: it rounds as any value strictly between does. -/
def stickyFin (neg exact : Bool) (r k : Nat) : Exact :=
  if exact then .fin neg r (2 ^ k) else .fin neg (2 * r + 1) (2 ^ (k + 1))

/-- `sqrt(n / d)`, as an exact value or one that rounds to fp32 alike in every mode. -/
def sqrtPos (n d : Nat) : Exact :=
  let x := n * 2 ^ 400 / d
  let r := isqrt x
  stickyFin false (r * r * d = n * 2 ^ 400) r 200

def Exact.sqrt : Exact → Exact
  | .nan => .nan
  | .inf s => if s then .nan else .inf false
  | .fin s n d => if n = 0 then .fin s 0 1 else if s then .nan else sqrtPos n d

/-- `1 / sqrt(v)` with the special values of R57. -/
def Exact.rsqrt : Exact → Exact
  | .nan => .nan
  | .inf s => if s then .nan else .fin false 0 1
  | .fin s n d => if n = 0 then .inf s else if s then .nan else sqrtPos d n

/-- `1 / v` with the special values of R57. -/
def Exact.rcp (v : Exact) : Exact := (Exact.fin false 1 1).div v

/-- The working precision of `exp2`, in bits. -/
def expPrec : Nat := 256

/-- The product of `2^(2^-i)` over the bits of the fraction `f / 2^k`, highest first, in units of `2^-expPrec`:
`c` is `2^(2^-i)` for the next bit. -/
def exp2Bits (f : Nat) : Nat → Nat → Nat → Nat
  | 0, _, acc => acc
  | k + 1, c, acc =>
    let c' := isqrt (c * 2 ^ expPrec)
    exp2Bits f k c' (if bitOf f k then acc * c' / 2 ^ expPrec else acc)

/-- `2^v` with the special values of R57. A power that is an integer is exact; any other is irrational, and the
value given is within `2^-240` of it, relative, so that it rounds to fp32 as the exact power does (log entry 14). -/
def Exact.exp2 : Exact → Exact
  | .nan => .nan
  | .inf s => if s then .fin false 0 1 else .inf false
  | .fin s n d =>
    let v : Int := if s then -(n : Int) else n
    let i := v / (d : Int)
    let f := (v % (d : Int)).toNat
    if f = 0 then
      if 0 ≤ i then (if i < 1024 then .fin false (2 ^ i.toNat) 1 else .fin false (2 ^ 1024) 1)
      else (if -1024 < i then .fin false 1 (2 ^ (-i).toNat) else .fin false 1 (2 ^ 1024))
    else
      let i' := max (-1024) (min 1024 i)
      let m := exp2Bits f (Nat.log2 d) (2 * 2 ^ expPrec) (2 ^ expPrec)
      (Exact.fin false m (2 ^ expPrec)).scale2 i'

/-- The working precision of `log2`, in bits. -/
def logPrec : Nat := 384

/-- `k` bits of `log2 m` for `m` in `[1, 2)`, in units of `2^-logPrec`, by repeated squaring. -/
def log2Bits : Nat → Nat → Nat → Nat
  | 0, _, acc => acc
  | k + 1, m, acc =>
    let q := m * m / 2 ^ logPrec
    if 2 * 2 ^ logPrec ≤ q then log2Bits k (q / 2) (2 * acc + 1) else log2Bits k q (2 * acc)

/-- `log2(v)` with the special values of R57. The logarithm of a power of two is exact; any other is irrational, and
128 bits of it with a sticky bit round to fp32 as the exact logarithm does (log entry 14). -/
def Exact.log2 : Exact → Exact
  | .nan => .nan
  | .inf s => if s then .nan else .inf false
  | .fin s n d =>
    if n = 0 then .inf true
    else if s then .nan
    else
      let e := floorLog2 n d
      let (q, r, _) := scaledDiv n d (e - logPrec)
      if q = 2 ^ logPrec ∧ r = 0 then ofInt e
      else
        let bits := log2Bits 128 q 0
        let v : Int := (e * (2 ^ 128 : Nat) + bits) * 2 + 1
        .fin (v < 0) v.natAbs (2 ^ 129)

/-! ### mx_block (R45) and the AMAX fold (R61) -/

def Exact.isFin : Exact → Bool
  | .fin .. => true
  | _ => false

/-- The larger of two magnitudes. -/
def maxAbs (a b : Exact) : Exact := if a.abs.cmp b.abs == .lt then b.abs else a.abs

/-- `mx_block(dst, x, rm)` of R45: the scale byte and the elements. -/
def mxBlock (dst : Nat) (x : List Exact) (rm : Rm) : Nat × List Nat :=
  let emax : Int := if dst = 6 then 8 else 2
  if x.all Exact.isFin then
    let a := x.foldl maxAbs (.fin false 0 1)
    let e2 : Int :=
      match a with
      | .fin _ n d => if n = 0 then -127 else max (-127) (floorLog2 n d - emax)
      | _ => -127
    ((e2 + 127).toNat, x.map (fun v => rnd dst (v.scale2 (-e2)) rm true))
  else (0xFF, x.map (fun _ => 0))

/-- The value of an mx element under its scale byte (R43). -/
def mxVal (f c b : Nat) : Exact := if c = 0xFF then .nan else (val f b).scale2 ((c : Int) - 127)

/-- One fold of a value into AMAX (R60, R61). -/
def amaxFold (amax : W64) (v : Exact) : W64 :=
  match v with
  | .nan => amax ||| (1#64 <<< 63)
  | _ =>
    let m := fp32.rnd v.abs .rup true % 2 ^ 31
    if amax.toNat % 2 ^ 31 < m then w64 (amax.toNat / 2 ^ 31 * 2 ^ 31 + m) else amax

end Sys2Proof.Fp
end

