-- ==== Sys2Proof/Syntax.lean ====
section
/-!
DEFINITION. Sys2Proof/Syntax.lean: the instructions of the table of operations and events (spec/opcode_table.json),
one constructor per row: the 241 encoded instructions with the fields of R93 in the order of the table, then the
121 steps of the machine that have no encoding, with the unit numbers and outside data they need.
-/
namespace Sys2Proof

/-- A source agent of the ordering machine (R153): each has channels of its own. -/
inductive Agent where
  /-- Home core `c` (0 to 1,535). -/
  | core (c : Nat)
  /-- Copy channel `ch` (0 to 3) of core `c`. -/
  | copyCh (c ch : Nat)
  /-- The operand-push engine of core `c`. -/
  | push (c : Nat)
  /-- Dense array `a` (0 to 143). -/
  | array (a : Nat)
  /-- Video decode engine `v` (0 to 31). -/
  | video (v : Nat)
  /-- Copy channel `ch` (0 to 15) of the BDE of stack `b` (0 to 7). -/
  | bde (b ch : Nat)
  /-- Ring subscription `r` (0 to 63) of the BDE of stack `b`. -/
  | ring (b r : Nat)
  /-- Landing-zone read-out of the BDE of stack `b`. -/
  | zone (b : Nat)
  /-- Queue agent of die `d`. -/
  | queueAgent (d : Nat)
  /-- L2 slice `s`, which sends a group's adjustment and a barrier's continuation (R229, R231). -/
  | slice (s : Nat)
  /-- Octant agent `o` (0 to 191). -/
  | octAgent (o : Nat)
  /-- The CXL.mem agent and the I/O agent of the host port (R181, R470). -/
  | hostMem
  | hostIo
  /-- Source agent `a` of module `m` of the load-store domain, whose requests its session delivers (R478). -/
  | fabricIn (m a : Nat)
  deriving DecidableEq, Repr

/-- Where requests are performed (R149, R161, R331, R470). -/
inductive Home where
  /-- L2 slice `s` (0 to 1,535). -/
  | slice (s : Nat)
  /-- The scratchpad of core `c`. -/
  | spad (c : Nat)
  /-- The incumbent hub. -/
  | hub
  /-- The queue agent of die `d`. -/
  | queueAgent (d : Nat)
  /-- The landing zones of the BDE of stack `b`. -/
  | bde (b : Nat)
  /-- The device registers of die `d`. -/
  | device (d : Nat)
  /-- The host port's aperture (R472). -/
  | hostPort
  /-- Module `m` of the load-store domain (R475). -/
  | remote (m : Nat)
  deriving DecidableEq, Repr

/-- One row of the table of operations and events. A register field is a number of its width; immediates are bits. -/
inductive Instr where
  /-- ADD (R184): Adds two registers modulo 2^64. -/
  | add (st : Fin 8) (rd rs1 rs2 : Fin 32)
  /-- SUB (R184): Subtracts rs2 from rs1 modulo 2^64. -/
  | sub (st : Fin 8) (rd rs1 rs2 : Fin 32)
  /-- AND (R184): Bitwise AND of two registers. -/
  | and (st : Fin 8) (rd rs1 rs2 : Fin 32)
  /-- OR (R184): Bitwise OR of two registers. -/
  | or (st : Fin 8) (rd rs1 rs2 : Fin 32)
  /-- XOR (R184): Bitwise XOR of two registers. -/
  | xor (st : Fin 8) (rd rs1 rs2 : Fin 32)
  /-- SLL (R184): Shifts left by the whole unsigned value of rs2; 64 or more gives 0. -/
  | sll (st : Fin 8) (rd rs1 rs2 : Fin 32)
  /-- SRL (R184): Logical right shift by the whole unsigned value of rs2. -/
  | srl (st : Fin 8) (rd rs1 rs2 : Fin 32)
  /-- SRA (R184): Arithmetic right shift, saturating the amount at 63. -/
  | sra (st : Fin 8) (rd rs1 rs2 : Fin 32)
  /-- MIN (R184): Signed lesser of two registers. -/
  | min (st : Fin 8) (rd rs1 rs2 : Fin 32)
  /-- MAX (R184): Signed greater of two registers. -/
  | max (st : Fin 8) (rd rs1 rs2 : Fin 32)
  /-- MINU (R184): Unsigned lesser of two registers. -/
  | minu (st : Fin 8) (rd rs1 rs2 : Fin 32)
  /-- MAXU (R184): Unsigned greater of two registers. -/
  | maxu (st : Fin 8) (rd rs1 rs2 : Fin 32)
  /-- CLZ (R184): Counts leading zero bits, 64 for zero. -/
  | clz (st : Fin 8) (rd rs1 : Fin 32)
  /-- CTZ (R184): Counts trailing zero bits, 64 for zero. -/
  | ctz (st : Fin 8) (rd rs1 : Fin 32)
  /-- POPC (R184): Counts set bits. -/
  | popc (st : Fin 8) (rd rs1 : Fin 32)
  /-- CSET (R184): Writes 1 when condition cc holds between rs1 and rs2, else 0. -/
  | cset (st : Fin 8) (rd rs1 rs2 : Fin 32) (cond : Fin 8)
  /-- CSETM (R184): Writes all ones when condition cc holds, else 0. -/
  | csetm (st : Fin 8) (rd rs1 rs2 : Fin 32) (cond : Fin 8)
  /-- ADD32 (R184): 32-bit add, sign-extended. -/
  | add32 (st : Fin 8) (rd rs1 rs2 : Fin 32)
  /-- SUB32 (R184): 32-bit subtract, sign-extended. -/
  | sub32 (st : Fin 8) (rd rs1 rs2 : Fin 32)
  /-- SLL32 (R184): 32-bit left shift, sign-extended. -/
  | sll32 (st : Fin 8) (rd rs1 rs2 : Fin 32)
  /-- SRL32 (R184): 32-bit logical right shift, sign-extended. -/
  | srl32 (st : Fin 8) (rd rs1 rs2 : Fin 32)
  /-- SRA32 (R184): 32-bit arithmetic right shift, sign-extended. -/
  | sra32 (st : Fin 8) (rd rs1 rs2 : Fin 32)
  /-- ADD32Z (R184): 32-bit add, zero-extended. -/
  | add32z (st : Fin 8) (rd rs1 rs2 : Fin 32)
  /-- SUB32Z (R184): 32-bit subtract, zero-extended. -/
  | sub32z (st : Fin 8) (rd rs1 rs2 : Fin 32)
  /-- SLL32Z (R184): 32-bit left shift, zero-extended. -/
  | sll32z (st : Fin 8) (rd rs1 rs2 : Fin 32)
  /-- SRL32Z (R184): 32-bit logical right shift, zero-extended. -/
  | srl32z (st : Fin 8) (rd rs1 rs2 : Fin 32)
  /-- SRA32Z (R184): 32-bit arithmetic right shift, zero-extended. -/
  | sra32z (st : Fin 8) (rd rs1 rs2 : Fin 32)
  /-- MUL (R184): Low 64 bits of the product. -/
  | mul (st : Fin 8) (rd rs1 rs2 : Fin 32)
  /-- MULH (R184): High 64 bits of the signed product. -/
  | mulh (st : Fin 8) (rd rs1 rs2 : Fin 32)
  /-- MULHU (R184): High 64 bits of the unsigned product. -/
  | mulhu (st : Fin 8) (rd rs1 rs2 : Fin 32)
  /-- DIV (R184): Signed division truncating toward zero, with fixed results for zero and overflow. -/
  | div (st : Fin 8) (rd rs1 rs2 : Fin 32)
  /-- DIVU (R184): Unsigned division; a zero divisor gives all ones. -/
  | divu (st : Fin 8) (rd rs1 rs2 : Fin 32)
  /-- REM (R184): Signed remainder with fixed results for zero and overflow. -/
  | rem (st : Fin 8) (rd rs1 rs2 : Fin 32)
  /-- REMU (R184): Unsigned remainder; a zero divisor gives the dividend. -/
  | remu (st : Fin 8) (rd rs1 rs2 : Fin 32)
  /-- BEXT (R187): Extracts a zero-extended bit field. -/
  | bext (st : Fin 8) (rd rs1 : Fin 32) (lo len1 : Fin 64)
  /-- BINS (R187): Inserts low bits of rs1 into a field of rd. -/
  | bins (st : Fin 8) (rd rs1 : Fin 32) (lo len1 : Fin 64)
  /-- ADDI (R185): Adds a sign-extended 13-bit immediate. -/
  | addi (st : Fin 8) (rd rs1 : Fin 32) (imm : BitVec 13)
  /-- ANDI (R185): AND with a sign-extended immediate. -/
  | andi (st : Fin 8) (rd rs1 : Fin 32) (imm : BitVec 13)
  /-- ORI (R185): OR with a sign-extended immediate. -/
  | ori (st : Fin 8) (rd rs1 : Fin 32) (imm : BitVec 13)
  /-- XORI (R185): XOR with a sign-extended immediate. -/
  | xori (st : Fin 8) (rd rs1 : Fin 32) (imm : BitVec 13)
  /-- SLLI (R186): Shifts left by a 6-bit immediate. -/
  | slli (st : Fin 8) (rd rs1 : Fin 32) (sh : Fin 64)
  /-- SRLI (R186): Logical right shift by a 6-bit immediate. -/
  | srli (st : Fin 8) (rd rs1 : Fin 32) (sh : Fin 64)
  /-- SRAI (R186): Arithmetic right shift by a 6-bit immediate. -/
  | srai (st : Fin 8) (rd rs1 : Fin 32) (sh : Fin 64)
  /-- CLTI (R185): Signed compare less than an immediate. -/
  | clti (st : Fin 8) (rd rs1 : Fin 32) (imm : BitVec 13)
  /-- CLTIU (R185): Unsigned compare less than a sign-extended immediate. -/
  | cltiu (st : Fin 8) (rd rs1 : Fin 32) (imm : BitVec 13)
  /-- ADDI32 (R185): 32-bit add of an immediate, sign-extended. -/
  | addi32 (st : Fin 8) (rd rs1 : Fin 32) (imm : BitVec 13)
  /-- IMMHI (R185): Places a signed 18-bit value at bit 13. -/
  | immhi (st : Fin 8) (rd : Fin 32) (imm : BitVec 18)
  /-- PCOFS (R185): Writes a pc-relative instruction-store offset. -/
  | pcofs (st : Fin 8) (rd : Fin 32) (imm : BitVec 18)
  /-- FADD (R188): FP32 add rounded once. -/
  | fadd (st : Fin 8) (rd rs1 rs2 : Fin 32)
  /-- FSUB (R188): FP32 subtract rounded once. -/
  | fsub (st : Fin 8) (rd rs1 rs2 : Fin 32)
  /-- FMUL (R188): FP32 multiply rounded once. -/
  | fmul (st : Fin 8) (rd rs1 rs2 : Fin 32)
  /-- FMIN (R188): FP32 lesser under R56. -/
  | fmin (st : Fin 8) (rd rs1 rs2 : Fin 32)
  /-- FMAX (R188): FP32 greater under R56. -/
  | fmax (st : Fin 8) (rd rs1 rs2 : Fin 32)
  /-- FEQ (R188): FP32 equality compare. -/
  | feq (st : Fin 8) (rd rs1 rs2 : Fin 32)
  /-- FLT (R188): FP32 less-than compare. -/
  | flt (st : Fin 8) (rd rs1 rs2 : Fin 32)
  /-- FLE (R188): FP32 less-or-equal compare. -/
  | fle (st : Fin 8) (rd rs1 rs2 : Fin 32)
  /-- FCLASS (R190): Writes the class code of an FP32 operand. -/
  | fclass (st : Fin 8) (rd rs1 : Fin 32)
  /-- FSIGN (R188): Copies the sign of rs2 onto the magnitude of rs1. -/
  | fsign (st : Fin 8) (rd rs1 rs2 : Fin 32)
  /-- FDIV (R188): FP32 divide rounded once, variable latency. -/
  | fdiv (st : Fin 8) (rd rs1 rs2 : Fin 32)
  /-- FSQRT (R188): FP32 square root rounded once, variable latency. -/
  | fsqrt (st : Fin 8) (rd rs1 : Fin 32)
  /-- FABS (R188): FP32 absolute value. -/
  | fabs (st : Fin 8) (rd rs1 : Fin 32)
  /-- FNEG (R188): FP32 negation. -/
  | fneg (st : Fin 8) (rd rs1 : Fin 32)
  /-- FCVT (R191): Performs scalar conversion k between integer and float formats. -/
  | fcvt (st : Fin 8) (rd rs1 : Fin 32) (k : Fin 16)
  /-- FMADD (R188): FP32 fused multiply-add rounded once. -/
  | fmadd (st : Fin 8) (rd rs1 rs2 rs3 : Fin 32)
  /-- BEQ (R192): Branches when the registers are equal. -/
  | beq (st : Fin 8) (rs1 rs2 : Fin 32) (off : BitVec 13)
  /-- BNE (R192): Branches when the registers differ. -/
  | bne (st : Fin 8) (rs1 rs2 : Fin 32) (off : BitVec 13)
  /-- BLT (R192): Branches on signed less than. -/
  | blt (st : Fin 8) (rs1 rs2 : Fin 32) (off : BitVec 13)
  /-- BGE (R192): Branches on signed greater or equal. -/
  | bge (st : Fin 8) (rs1 rs2 : Fin 32) (off : BitVec 13)
  /-- BLTU (R192): Branches on unsigned less than. -/
  | bltu (st : Fin 8) (rs1 rs2 : Fin 32) (off : BitVec 13)
  /-- BGEU (R192): Branches on unsigned greater or equal. -/
  | bgeu (st : Fin 8) (rs1 rs2 : Fin 32) (off : BitVec 13)
  /-- JAL (R193): Jumps pc-relative and writes the link. -/
  | jal (st : Fin 8) (rd : Fin 32) (off : BitVec 18)
  /-- JALR (R194): Jumps to a register plus offset and writes the link. -/
  | jalr (st : Fin 8) (rd rs1 : Fin 32) (imm : BitVec 13)
  /-- LB (R195): Loads a sign-extended byte at core scope. -/
  | lb (st : Fin 8) (rd rs1 : Fin 32) (imm : BitVec 13)
  /-- LH (R195): Loads a sign-extended half at core scope. -/
  | lh (st : Fin 8) (rd rs1 : Fin 32) (imm : BitVec 13)
  /-- LW (R195): Loads a sign-extended word at core scope. -/
  | lw (st : Fin 8) (rd rs1 : Fin 32) (imm : BitVec 13)
  /-- LD (R195): Loads a double at core scope. -/
  | ld (st : Fin 8) (rd rs1 : Fin 32) (imm : BitVec 13)
  /-- LBU (R195): Loads a zero-extended byte. -/
  | lbu (st : Fin 8) (rd rs1 : Fin 32) (imm : BitVec 13)
  /-- LHU (R195): Loads a zero-extended half. -/
  | lhu (st : Fin 8) (rd rs1 : Fin 32) (imm : BitVec 13)
  /-- LWU (R195): Loads a zero-extended word. -/
  | lwu (st : Fin 8) (rd rs1 : Fin 32) (imm : BitVec 13)
  /-- LDX (R200): Ordered and scoped load with optional acquire. -/
  | ldx (st : Fin 8) (rd rs1 : Fin 32) (ord : Fin 2) (scope : Fin 8) (uns : Fin 2) (size : Fin 4)
  /-- SB (R195): Stores a byte at core scope. -/
  | sb (st : Fin 8) (rs1 rs2 : Fin 32) (imm : BitVec 13)
  /-- SH (R195): Stores a half at core scope. -/
  | sh (st : Fin 8) (rs1 rs2 : Fin 32) (imm : BitVec 13)
  /-- SW (R195): Stores a word at core scope. -/
  | sw (st : Fin 8) (rs1 rs2 : Fin 32) (imm : BitVec 13)
  /-- SD (R195): Stores a double at core scope. -/
  | sd (st : Fin 8) (rs1 rs2 : Fin 32) (imm : BitVec 13)
  /-- STX (R200): Ordered and scoped store with optional release. -/
  | stx (st : Fin 8) (rs1 rs2 : Fin 32) (ord : Fin 2) (scope : Fin 8) (size : Fin 4)
  /-- AMOADD (R238): Atomic add on a double at its home. -/
  | amoadd (st : Fin 8) (rd rs1 rs2 : Fin 32) (ord : Fin 8)
  /-- AMOADDW (R238): Atomic add on a word at its home. -/
  | amoaddw (st : Fin 8) (rd rs1 rs2 : Fin 32) (ord : Fin 8)
  /-- AMOAND (R238): Atomic AND on a double. -/
  | amoand (st : Fin 8) (rd rs1 rs2 : Fin 32) (ord : Fin 8)
  /-- AMOANDW (R238): Atomic AND on a word. -/
  | amoandw (st : Fin 8) (rd rs1 rs2 : Fin 32) (ord : Fin 8)
  /-- AMOOR (R238): Atomic OR on a double. -/
  | amoor (st : Fin 8) (rd rs1 rs2 : Fin 32) (ord : Fin 8)
  /-- AMOORW (R238): Atomic OR on a word. -/
  | amoorw (st : Fin 8) (rd rs1 rs2 : Fin 32) (ord : Fin 8)
  /-- AMOXOR (R238): Atomic XOR on a double. -/
  | amoxor (st : Fin 8) (rd rs1 rs2 : Fin 32) (ord : Fin 8)
  /-- AMOXORW (R238): Atomic XOR on a word. -/
  | amoxorw (st : Fin 8) (rd rs1 rs2 : Fin 32) (ord : Fin 8)
  /-- AMOMIN (R238): Atomic signed minimum on a double. -/
  | amomin (st : Fin 8) (rd rs1 rs2 : Fin 32) (ord : Fin 8)
  /-- AMOMINW (R238): Atomic signed minimum on a word. -/
  | amominw (st : Fin 8) (rd rs1 rs2 : Fin 32) (ord : Fin 8)
  /-- AMOMAX (R238): Atomic signed maximum on a double. -/
  | amomax (st : Fin 8) (rd rs1 rs2 : Fin 32) (ord : Fin 8)
  /-- AMOMAXW (R238): Atomic signed maximum on a word. -/
  | amomaxw (st : Fin 8) (rd rs1 rs2 : Fin 32) (ord : Fin 8)
  /-- AMOMINU (R238): Atomic unsigned minimum on a double. -/
  | amominu (st : Fin 8) (rd rs1 rs2 : Fin 32) (ord : Fin 8)
  /-- AMOMINUW (R238): Atomic unsigned minimum on a word. -/
  | amominuw (st : Fin 8) (rd rs1 rs2 : Fin 32) (ord : Fin 8)
  /-- AMOMAXU (R238): Atomic unsigned maximum on a double. -/
  | amomaxu (st : Fin 8) (rd rs1 rs2 : Fin 32) (ord : Fin 8)
  /-- AMOMAXUW (R238): Atomic unsigned maximum on a word. -/
  | amomaxuw (st : Fin 8) (rd rs1 rs2 : Fin 32) (ord : Fin 8)
  /-- AMOSWAP (R238): Atomic swap on a double. -/
  | amoswap (st : Fin 8) (rd rs1 rs2 : Fin 32) (ord : Fin 8)
  /-- AMOSWAPW (R238): Atomic swap on a word. -/
  | amoswapw (st : Fin 8) (rd rs1 rs2 : Fin 32) (ord : Fin 8)
  /-- AMOFADD (R238): Atomic FP32 add on a word. -/
  | amofadd (st : Fin 8) (rd rs1 rs2 : Fin 32) (ord : Fin 8)
  /-- CAS (R239): Compare-and-swap on a double at its home. -/
  | cas (st : Fin 8) (rd rs1 rs2 : Fin 32) (ord : Fin 8) (rs3 : Fin 32)
  /-- RED (R241): Reduce-on-write to a location, acknowledged without a result. -/
  | red (st ord : Fin 8) (rs1 rs2 : Fin 32) (rop fcode : Fin 16)
  /-- FENCE (R234): Release, acquire or both at a scope. -/
  | fence (st : Fin 8) (rel acq : Fin 2) (scope : Fin 8)
  /-- CLN (R235): Writes back dirty L1 bytes of a region. -/
  | cln (st : Fin 8) (rs1 rs2 : Fin 32)
  /-- INV (R235): Invalidates clean L1 bytes of a region. -/
  | inv (st : Fin 8) (rs1 rs2 : Fin 32)
  /-- WAITA (R236): Parks on a global or remote-scratchpad word until it differs or is written. -/
  | waita (st : Fin 8) (rd rs1 rs2 : Fin 32) (scope : Fin 8)
  /-- LDF (R243): Reads a future cell, deferring at the home while it is empty. -/
  | ldf (st : Fin 8) (rd rs1 : Fin 32) (ord : Fin 8)
  /-- STF (R244): Fills a future cell and answers deferred readers. -/
  | stf (st : Fin 8) (rd rs1 rs2 : Fin 32) (ord : Fin 8)
  /-- SPAWN (R217): Sends a task message from the scratchpad and parks until it is accepted. -/
  | spawn (st : Fin 8) (rs1 rs2 : Fin 32)
  /-- END (R218): Ends the task and frees its context. -/
  | endTask (st : Fin 8)
  /-- PARK (R219): Parks on an own-scratchpad word until a write. -/
  | park (st : Fin 8) (rd rs1 rs2 : Fin 32)
  /-- YIELD (R220): Resets the context's age. -/
  | yield (st : Fin 8)
  /-- QPUT (R221): Places a launch record in a hardware queue. -/
  | qput (st : Fin 8) (rd rs1 rs2 : Fin 32)
  /-- CANCEL (R223): Cancels jobs of an id at every queue agent. -/
  | cancel (st : Fin 8) (rd rs1 : Fin 32)
  /-- JOIN (R229): Joins a group object and adjusts its linked barrier. -/
  | join (st : Fin 8) (rd rs1 : Fin 32)
  /-- LEAVE (R229): Leaves a group object and adjusts its linked barrier. -/
  | leave (st : Fin 8) (rd rs1 : Fin 32)
  /-- BARI (R230): Configures a barrier object. -/
  | bari (st : Fin 8) (rd rs1 rs2 : Fin 32)
  /-- BARV (R231): Arrives at a barrier at a scope. -/
  | barv (st : Fin 8) (rd rs1 : Fin 32) (scope : Fin 8)
  /-- BARW (R232): Parks until a barrier's generation changes. -/
  | barw (st : Fin 8) (rd rs1 rs2 : Fin 32)
  /-- SPAWNB (R342): Sends a bounded task message unless pruned by the shadow. -/
  | spawnb (st : Fin 8) (rd rs1 rs2 : Fin 32)
  /-- SETBND (R343): Sets or tightens the task's own bound. -/
  | setbnd (st : Fin 8) (rd rs1 : Fin 32) (inc : Fin 16)
  /-- KILLPT (R344): Kill point that takes pending kills and bound kills. -/
  | killpt (st : Fin 8)
  /-- IMPROVE (R345): Offers a key to an incumbent register at the hub. -/
  | improve (st : Fin 8) (rd rs1 : Fin 32) (inc : Fin 16)
  /-- RDINC (R346): Reads an incumbent key from the shadow or the hub. -/
  | rdinc (st : Fin 8) (rd : Fin 32) (inc : Fin 16) (acq hub : Fin 2)
  /-- INCSET (R347): Supervisor rebinding of an incumbent register. -/
  | incset (st : Fin 8) (rd rs1 rs2 : Fin 32)
  /-- HIRE (R322): Checks the geometry and issues a hire to a dense array. -/
  | hire (st : Fin 8) (rd rs1 rs2 : Fin 32)
  /-- HGW (R324): Writes a hire geometry register. -/
  | hgw (st : Fin 8) (rs1 : Fin 32) (hg : Fin 8)
  /-- HGR (R324): Reads a hire geometry register. -/
  | hgr (st : Fin 8) (rd : Fin 32) (hg : Fin 8)
  /-- HWAIT (R325): Parks until a hire slot is final or pushed. -/
  | hwait (st : Fin 8) (rd rs1 : Fin 32) (e : Fin 2)
  /-- HSTAT (R325): Reads a hire slot's status word without waiting. -/
  | hstat (st : Fin 8) (rd rs1 : Fin 32)
  /-- BIND (R326): Issues the load of a resident B tile into an array. -/
  | bind (st : Fin 8) (rd rs1 rs2 : Fin 32)
  /-- UNBIND (R327): Requests the freeing of resident slots by tag. -/
  | unbind (st : Fin 8) (rd rs1 rs2 : Fin 32)
  /-- BURST (R328): Sends a warm-up burst to an array. -/
  | burst (st : Fin 8) (rs1 rs2 : Fin 32)
  /-- CPWAIT (R401): Waits for a copy's source-free or visible event. -/
  | cpwait (st : Fin 8) (rd rs1 : Fin 32) (e : Fin 2)
  /-- CPST (R401): Reads a transfer's status word. -/
  | cpst (st : Fin 8) (rd rs1 : Fin 32)
  /-- RINGSUB (R402): Subscribes a scratchpad ring to a BDE ring engine. -/
  | ringsub (st : Fin 8) (rd rs1 : Fin 32)
  /-- RINGSTOP (R403): Stops a ring subscription. -/
  | ringstop (st : Fin 8) (rd rs1 : Fin 32)
  /-- MROW_COPY (R404): Enqueues an in-DRAM page copy. -/
  | mrowCopy (st : Fin 8) (rd rs1 rs2 : Fin 32)
  /-- MROW_ZERO (R404): Enqueues an in-DRAM page zero-fill. -/
  | mrowZero (st : Fin 8) (rd rs1 : Fin 32)
  /-- LZPUT (R405): Sends scratchpad elements as contributions to a landing zone. -/
  | lzput (st : Fin 8) (rd rs1 rs2 : Fin 32)
  /-- COLL (R406): Enqueues a collective. -/
  | coll (st : Fin 8) (rd rs1 : Fin 32)
  /-- VCLAIM_TRY (R253): Requests a vector claim without waiting. -/
  | vclaimTry (st : Fin 8) (lmax lmin : Fin 4) (xd : Fin 32)
  /-- VCLAIM_WAIT (R253): Requests a vector claim, parking in the pool queue when needed. -/
  | vclaimWait (st : Fin 8) (lmax lmin : Fin 4) (xd : Fin 32)
  /-- VREN (R254): Renegotiates the lane count of the claim. -/
  | vren (st : Fin 8) (lmax lmin : Fin 4) (xd : Fin 32)
  /-- VREL (R255): Releases the vector claim. -/
  | vrel (st : Fin 8)
  /-- VLD (R260): Unit-stride vector load from the own scratchpad. -/
  | vld (st : Fin 8) (v : Fin 16) (xs1 : Fin 32) (mk sz : Fin 4)
  /-- VLDS (R260): Strided vector load from the own scratchpad. -/
  | vlds (st : Fin 8) (v : Fin 16) (xs1 xs2 : Fin 32) (mk sz : Fin 4)
  /-- VLDX (R260): Indexed vector load from the own scratchpad. -/
  | vldx (st : Fin 8) (v : Fin 16) (xs1 : Fin 32) (vi : Fin 16) (mk sz : Fin 4)
  /-- VST (R260): Unit-stride vector store to the own scratchpad. -/
  | vst (st : Fin 8) (v : Fin 16) (xs1 : Fin 32) (mk sz : Fin 4)
  /-- VSTS (R260): Strided vector store to the own scratchpad. -/
  | vsts (st : Fin 8) (v : Fin 16) (xs1 xs2 : Fin 32) (mk sz : Fin 4)
  /-- VSTX (R260): Indexed vector store to the own scratchpad. -/
  | vstx (st : Fin 8) (v : Fin 16) (xs1 : Fin 32) (vi : Fin 16) (mk sz : Fin 4)
  /-- VADD_VV (R262): Lane-wise 32-bit add of two vectors. -/
  | vaddVv (st : Fin 8) (vd vs1 vs2 : Fin 16) (mk : Fin 4)
  /-- VADD_VX (R262): Lane-wise 32-bit add of a scalar. -/
  | vaddVx (st : Fin 8) (vd vs1 : Fin 16) (xs : Fin 32) (mk : Fin 4)
  /-- VSUB_VV (R262): Lane-wise subtract of two vectors. -/
  | vsubVv (st : Fin 8) (vd vs1 vs2 : Fin 16) (mk : Fin 4)
  /-- VSUB_VX (R262): Lane-wise subtract of a scalar. -/
  | vsubVx (st : Fin 8) (vd vs1 : Fin 16) (xs : Fin 32) (mk : Fin 4)
  /-- VMUL_VV (R262): Lane-wise low product of two vectors. -/
  | vmulVv (st : Fin 8) (vd vs1 vs2 : Fin 16) (mk : Fin 4)
  /-- VMUL_VX (R262): Lane-wise low product with a scalar. -/
  | vmulVx (st : Fin 8) (vd vs1 : Fin 16) (xs : Fin 32) (mk : Fin 4)
  /-- VMULH_VV (R262): Lane-wise signed high product of two vectors. -/
  | vmulhVv (st : Fin 8) (vd vs1 vs2 : Fin 16) (mk : Fin 4)
  /-- VMULH_VX (R262): Lane-wise signed high product with a scalar. -/
  | vmulhVx (st : Fin 8) (vd vs1 : Fin 16) (xs : Fin 32) (mk : Fin 4)
  /-- VMIN_VV (R262): Lane-wise signed minimum of two vectors. -/
  | vminVv (st : Fin 8) (vd vs1 vs2 : Fin 16) (mk : Fin 4)
  /-- VMIN_VX (R262): Lane-wise signed minimum with a scalar. -/
  | vminVx (st : Fin 8) (vd vs1 : Fin 16) (xs : Fin 32) (mk : Fin 4)
  /-- VMAX_VV (R262): Lane-wise signed maximum of two vectors. -/
  | vmaxVv (st : Fin 8) (vd vs1 vs2 : Fin 16) (mk : Fin 4)
  /-- VMAX_VX (R262): Lane-wise signed maximum with a scalar. -/
  | vmaxVx (st : Fin 8) (vd vs1 : Fin 16) (xs : Fin 32) (mk : Fin 4)
  /-- VMINU_VV (R262): Lane-wise unsigned minimum of two vectors. -/
  | vminuVv (st : Fin 8) (vd vs1 vs2 : Fin 16) (mk : Fin 4)
  /-- VMINU_VX (R262): Lane-wise unsigned minimum with a scalar. -/
  | vminuVx (st : Fin 8) (vd vs1 : Fin 16) (xs : Fin 32) (mk : Fin 4)
  /-- VMAXU_VV (R262): Lane-wise unsigned maximum of two vectors. -/
  | vmaxuVv (st : Fin 8) (vd vs1 vs2 : Fin 16) (mk : Fin 4)
  /-- VMAXU_VX (R262): Lane-wise unsigned maximum with a scalar. -/
  | vmaxuVx (st : Fin 8) (vd vs1 : Fin 16) (xs : Fin 32) (mk : Fin 4)
  /-- VAND_VV (R262): Lane-wise AND of two vectors. -/
  | vandVv (st : Fin 8) (vd vs1 vs2 : Fin 16) (mk : Fin 4)
  /-- VAND_VX (R262): Lane-wise AND with a scalar. -/
  | vandVx (st : Fin 8) (vd vs1 : Fin 16) (xs : Fin 32) (mk : Fin 4)
  /-- VOR_VV (R262): Lane-wise OR of two vectors. -/
  | vorVv (st : Fin 8) (vd vs1 vs2 : Fin 16) (mk : Fin 4)
  /-- VOR_VX (R262): Lane-wise OR with a scalar. -/
  | vorVx (st : Fin 8) (vd vs1 : Fin 16) (xs : Fin 32) (mk : Fin 4)
  /-- VXOR_VV (R262): Lane-wise XOR of two vectors. -/
  | vxorVv (st : Fin 8) (vd vs1 vs2 : Fin 16) (mk : Fin 4)
  /-- VXOR_VX (R262): Lane-wise XOR with a scalar. -/
  | vxorVx (st : Fin 8) (vd vs1 : Fin 16) (xs : Fin 32) (mk : Fin 4)
  /-- VSLL_VV (R262): Lane-wise left shift by vector amounts. -/
  | vsllVv (st : Fin 8) (vd vs1 vs2 : Fin 16) (mk : Fin 4)
  /-- VSLL_VX (R262): Lane-wise left shift by a scalar amount. -/
  | vsllVx (st : Fin 8) (vd vs1 : Fin 16) (xs : Fin 32) (mk : Fin 4)
  /-- VSRL_VV (R262): Lane-wise logical right shift by vector amounts. -/
  | vsrlVv (st : Fin 8) (vd vs1 vs2 : Fin 16) (mk : Fin 4)
  /-- VSRL_VX (R262): Lane-wise logical right shift by a scalar amount. -/
  | vsrlVx (st : Fin 8) (vd vs1 : Fin 16) (xs : Fin 32) (mk : Fin 4)
  /-- VSRA_VV (R262): Lane-wise arithmetic right shift by vector amounts. -/
  | vsraVv (st : Fin 8) (vd vs1 vs2 : Fin 16) (mk : Fin 4)
  /-- VSRA_VX (R262): Lane-wise arithmetic right shift by a scalar amount. -/
  | vsraVx (st : Fin 8) (vd vs1 : Fin 16) (xs : Fin 32) (mk : Fin 4)
  /-- VFADD_VV (R263): Lane-wise FP32 add of two vectors. -/
  | vfaddVv (st : Fin 8) (vd vs1 vs2 : Fin 16) (mk : Fin 4)
  /-- VFADD_VX (R263): Lane-wise FP32 add of a scalar. -/
  | vfaddVx (st : Fin 8) (vd vs1 : Fin 16) (xs : Fin 32) (mk : Fin 4)
  /-- VFSUB_VV (R263): Lane-wise FP32 subtract of two vectors. -/
  | vfsubVv (st : Fin 8) (vd vs1 vs2 : Fin 16) (mk : Fin 4)
  /-- VFSUB_VX (R263): Lane-wise FP32 subtract of a scalar. -/
  | vfsubVx (st : Fin 8) (vd vs1 : Fin 16) (xs : Fin 32) (mk : Fin 4)
  /-- VFMUL_VV (R263): Lane-wise FP32 multiply of two vectors. -/
  | vfmulVv (st : Fin 8) (vd vs1 vs2 : Fin 16) (mk : Fin 4)
  /-- VFMUL_VX (R263): Lane-wise FP32 multiply by a scalar. -/
  | vfmulVx (st : Fin 8) (vd vs1 : Fin 16) (xs : Fin 32) (mk : Fin 4)
  /-- VFMA_VV (R263): Lane-wise FP32 fused multiply-add into vd. -/
  | vfmaVv (st : Fin 8) (vd vs1 vs2 : Fin 16) (mk : Fin 4)
  /-- VFMA_VX (R263): Lane-wise FP32 fused multiply-add with a scalar. -/
  | vfmaVx (st : Fin 8) (vd vs1 : Fin 16) (xs : Fin 32) (mk : Fin 4)
  /-- VFNMA_VV (R263): Lane-wise FP32 fused negative multiply-add. -/
  | vfnmaVv (st : Fin 8) (vd vs1 vs2 : Fin 16) (mk : Fin 4)
  /-- VFNMA_VX (R263): Lane-wise FP32 fused negative multiply-add with a scalar. -/
  | vfnmaVx (st : Fin 8) (vd vs1 : Fin 16) (xs : Fin 32) (mk : Fin 4)
  /-- VFMIN_VV (R263): Lane-wise FP32 minimum of two vectors. -/
  | vfminVv (st : Fin 8) (vd vs1 vs2 : Fin 16) (mk : Fin 4)
  /-- VFMIN_VX (R263): Lane-wise FP32 minimum with a scalar. -/
  | vfminVx (st : Fin 8) (vd vs1 : Fin 16) (xs : Fin 32) (mk : Fin 4)
  /-- VFMAX_VV (R263): Lane-wise FP32 maximum of two vectors. -/
  | vfmaxVv (st : Fin 8) (vd vs1 vs2 : Fin 16) (mk : Fin 4)
  /-- VFMAX_VX (R263): Lane-wise FP32 maximum with a scalar. -/
  | vfmaxVx (st : Fin 8) (vd vs1 : Fin 16) (xs : Fin 32) (mk : Fin 4)
  /-- VCMP_VV (R265): Lane-wise compare of two vectors into a mask. -/
  | vcmpVv (st : Fin 8) (kd : Fin 4) (vs1 vs2 : Fin 16) (mk : Fin 4) (cc : Fin 16)
  /-- VCMP_VX (R265): Lane-wise compare against a scalar into a mask. -/
  | vcmpVx (st : Fin 8) (kd : Fin 4) (vs1 : Fin 16) (xs : Fin 32) (mk : Fin 4) (cc : Fin 16)
  /-- VSEL_VV (R266): Selects lanes from two vectors by a mask. -/
  | vselVv (st : Fin 8) (vd vs1 vs2 : Fin 16) (mk : Fin 4)
  /-- VSEL_VX (R266): Selects lanes from a vector or a scalar by a mask. -/
  | vselVx (st : Fin 8) (vd vs1 : Fin 16) (xs : Fin 32) (mk : Fin 4)
  /-- VMAND (R266): AND of two masks. -/
  | vmand (st : Fin 8) (kd ka kb : Fin 4)
  /-- VMOR (R266): OR of two masks. -/
  | vmor (st : Fin 8) (kd ka kb : Fin 4)
  /-- VPERM (R266): Permutes lanes by an index vector. -/
  | vperm (st : Fin 8) (vd vs1 vs2 : Fin 16) (mk : Fin 4)
  /-- VSLIDE (R266): Slides lanes by a signed scalar amount. -/
  | vslide (st : Fin 8) (vd vs1 : Fin 16) (xs : Fin 32) (mk : Fin 4)
  /-- VBCAST (R266): Broadcasts a scalar to active lanes. -/
  | vbcast (st : Fin 8) (vd : Fin 16) (xs : Fin 32) (mk : Fin 4)
  /-- VMVXV (R266): Moves a scalar into lane 0. -/
  | vmvxv (st : Fin 8) (vd : Fin 16) (xs : Fin 32)
  /-- VMVVX (R266): Moves lane 0 into an x register, sign-extended. -/
  | vmvvx (st : Fin 8) (vs1 : Fin 16) (xd : Fin 32)
  /-- VRED (R267): Reduces the lanes of a vector in a fixed pairwise tree. -/
  | vred (st : Fin 8) (vd vs1 : Fin 16) (mk : Fin 4) (rop : Fin 16)
  /-- VEXP2 (R268): Lane-wise 2^x correctly rounded. -/
  | vexp2 (st : Fin 8) (vd vs1 : Fin 16) (mk : Fin 4)
  /-- VLOG2 (R268): Lane-wise log2 correctly rounded. -/
  | vlog2 (st : Fin 8) (vd vs1 : Fin 16) (mk : Fin 4)
  /-- VRCP (R268): Lane-wise reciprocal correctly rounded. -/
  | vrcp (st : Fin 8) (vd vs1 : Fin 16) (mk : Fin 4)
  /-- VRSQ (R268): Lane-wise reciprocal square root correctly rounded. -/
  | vrsq (st : Fin 8) (vd vs1 : Fin 16) (mk : Fin 4)
  /-- VSQRT (R268): Lane-wise square root correctly rounded. -/
  | vsqrt (st : Fin 8) (vd vs1 : Fin 16) (mk : Fin 4)
  /-- VCVT (R271): Lane-wise format conversion with optional scaling, folding sources into AMAX. -/
  | vcvt (st : Fin 8) (vd vs1 : Fin 16) (xs : Fin 32) (mk : Fin 4) (src dst : Fin 16)
  /-- FMT (R104): Prefix that loads format, rounding and scaling state for the next instruction. -/
  | fmt (fa fb fd : Fin 16) (sc : Fin 8) (rm : Fin 4) (sat amax : Fin 2)
  /-- WAALLOC (R287): Allocates a window-accumulator slot over a scratchpad region. -/
  | waalloc (st : Fin 8) (xs : Fin 32) (wa : Fin 8)
  /-- WAFREE (R288): Frees a window-accumulator slot. -/
  | wafree (st wa : Fin 8)
  /-- WASET (R289): Configures and resets a window-accumulator slot. -/
  | waset (st : Fin 8) (xs : Fin 32) (wa : Fin 8)
  /-- WAPUSH (R278): Pushes an element vector into a window, with expiry and flip. -/
  | wapush (st : Fin 8) (vs1 : Fin 16) (w : Fin 8)
  /-- WAREAD (R291): Reads the window's reduction. -/
  | waread (st : Fin 8) (vd : Fin 16) (w : Fin 8)
  /-- WACLR (R292): Resets a window while keeping its configuration. -/
  | waclr (st wa : Fin 8)
  /-- KVHOME (R412): Returns the home core of a block from the ring table. -/
  | kvhome (st : Fin 8) (rd rs1 rs2 : Fin 32)
  /-- STUB (R419): Installs or removes a forwarding stub in the home table. -/
  | stub (st : Fin 8) (rd rs1 rs2 : Fin 32)
  /-- MIGRATE (R422): Moves the task to another core with selected registers. -/
  | migrate (st : Fin 8) (rs1 rs2 : Fin 32)
  /-- VSGN (R424): Shifts each lane's sign bit into its signature. -/
  | vsgn (st : Fin 8) (vd vs1 : Fin 16) (mk : Fin 4)
  /-- VHAM (R425): Marks lanes whose signature lies within a Hamming radius. -/
  | vham (st : Fin 8) (kd : Fin 4) (vs1 vs2 : Fin 16) (mk : Fin 4) (r : Fin 64)
  /-- VDEC (R442): Submits a decode job to a video engine. -/
  | vdec (st : Fin 8) (rd rs1 rs2 : Fin 32)
  /-- VDSTAT (R443): Reads or waits for a decode job's status. -/
  | vdstat (st : Fin 8) (rd rs1 : Fin 32) (e : Fin 2)
  /-- CSRR (R202): Reads a CSR. -/
  | csrr (st : Fin 8) (rd : Fin 32) (num : Fin 2048)
  /-- CSRW (R202): Writes a CSR and returns the old value. -/
  | csrw (st : Fin 8) (rd rs1 : Fin 32) (num : Fin 2048)
  /-- CSRS (R202): Sets CSR bits and returns the old value. -/
  | csrs (st : Fin 8) (rd rs1 : Fin 32) (num : Fin 2048)
  /-- CSRC (R202): Clears CSR bits and returns the old value. -/
  | csrc (st : Fin 8) (rd rs1 : Fin 32) (num : Fin 2048)
  /-- TRAP (R210): Always traps with cause trap and code n. -/
  | trap (st : Fin 8) (code : Fin 1024)
  /-- ERET (R211): Returns from the in-task handler. -/
  | eret (st : Fin 8)
  /-- BRK (R210): Always traps with breakpoint and code n. -/
  | brk (st : Fin 8) (code : Fin 1024)
  /-- IFENCE (R213): Discards fetched words and jumps. -/
  | ifence (st : Fin 8) (rs1 : Fin 32)
  /-- OVLD (R212): Loads an overlay of the task's image once the task is alone on its core. -/
  | ovld (st : Fin 8) (rd rs1 : Fin 32)
  /-- LWAIT (R372): Parks until domain time reaches a value. -/
  | lwait (st : Fin 8) (rd rs1 : Fin 32)
  /-- RESUME (R453): Supervisor return of a faulted task to issue. -/
  | resume (st : Fin 8) (rd rs1 rs2 : Fin 32)
  /-- TKILL (R454): Supervisor kill of a faulted task or discard of a saved launch. -/
  | tkill (st : Fin 8) (rd rs1 rs2 : Fin 32)
  /-- DRAIN (R154): Moves the head of an outbound queue onto its home channel. -/
  | drain (core : Nat)
  /-- ANSWER (R154): An RDC portion answers a load from its copy. -/
  | answer (core : Nat) (home : Home)
  /-- PERFORM (R154): A home performs the head request of a channel atomically. -/
  | perform (agent : Agent) (home : Home)
  /-- RESPOND (R154): The head of a response channel is delivered. -/
  | respond (home : Home) (agent : Agent)
  /-- EVICT (R154): An L1 line is evicted, its dirty bytes written back. -/
  | evict (core line : Nat)
  /-- DROP (R154): An RDC line becomes invalid. -/
  | drop (portion line : Nat)
  /-- ENGINE_ISSUE (R154): An engine appends the reads and writes of its head operation. -/
  | engineIssue (agent : Agent)
  /-- ENGINE_EVENT (R173): An engine signals an event once its covered requests are acknowledged. -/
  | engineEvent (agent : Agent)
  /-- BARRIER_ADJUST (R229): A group adjustment of EXPECT performed at the barrier's home. -/
  | barrierAdjust (agent : Agent) (home : Home)
  /-- FUTURE_WITHDRAW (R245): The home performs the withdrawal of a deferred ldf. -/
  | futureWithdraw (agent : Agent) (home : Home)
  /-- QTAIL_WRITE (R116): Doorbell write that makes queue records valid. -/
  | qtailWrite (queue : Nat) (value : W64)
  /-- LAUNCH_TAKE (R120): The queue agent reads and checks a launch record. -/
  | launchTake (queue : Nat)
  /-- LAUNCH_START (R124): A launch whose barrier and edge waits are over begins sending. -/
  | launchStart (queue : Nat)
  /-- TASK_MESSAGE_SEND (R126): The agent sends one task message of a launch. -/
  | taskMessageSend (die : Nat)
  /-- MESSAGE_RESEND (R127): A held message is sent again when room appears. -/
  | messageResend (agent : Agent)
  /-- COMPLETION_RECORD_WRITE (R144): The agent writes the completion record once the outstanding count reaches zero. -/
  | completionRecordWrite (launch : Nat)
  /-- CANCEL_MARK (R223): A queue agent marks the cancelled jobs it finds. -/
  | cancelMark (die : Nat)
  /-- CANCEL_ARRIVE (R146): A cancel arrives at a core and drops or kills the job's tasks there. -/
  | cancelArrive (core launch : Nat)
  /-- MESSAGE_ARRIVE (R136): A task message arrives at a core and enters its run queue or overflow area. -/
  | messageArrive (msg : Nat)
  /-- REHOME_HINT (R416): A re-home hint updates the spawner's home-table header. -/
  | rehomeHint (hint : Nat)
  /-- CONTEXT_ALLOCATE (R137): The core chooses a run-queue entry and gives it a context. -/
  | contextAllocate (core : Nat)
  /-- CORE_RECONFIGURE (R129): An empty core changes overlay, image, address space or scratchpad split. -/
  | coreReconfigure (core : Nat)
  /-- RQAGE_EXPIRE (R137): A run-queue entry reaches RQAGE cycles and becomes the aged entry. -/
  | rqageExpire (core : Nat)
  /-- AGE_PROMOTION (R140): A ready context reaches AGELIM.LIM − 16 and is promoted. -/
  | agePromotion (core ctx : Nat)
  /-- RUN_QUEUE_SCRUB (R339): Drops bounded run-queue entries and parked tasks that fail after a shadow update. -/
  | runQueueScrub (core : Nat)
  /-- OVERFLOW_SCRUB (R339): Drops failing bounded entries from the die's overflow areas. -/
  | overflowScrub (die : Nat)
  /-- INCUMBENT_BROADCAST (R334): A key broadcast reaches a shadow, which applies it if better. -/
  | incumbentBroadcast (shadow bcast : Nat)
  /-- SHADOW_UNBIND (R336): A shadow receives an unbind of a register and acknowledges it. -/
  | shadowUnbind (shadow : Nat)
  /-- SHADOW_STATE_INSTALL (R336): A shadow replaces its state for a register with the hub's. -/
  | shadowStateInstall (shadow : Nat)
  /-- SHADOW_LAG (R335): A shadow silent for 1 µs is reported by the hub. -/
  | shadowLag (shadow inc : Nat)
  /-- HIRE_ADMIT (R306): An array admits a hire or bind into its queue. -/
  | hireAdmit (array : Nat) (agent : Agent)
  /-- OPERAND_PUSH (R307): The push engine reads and sends a hire's operands. -/
  | operandPush (core : Nat)
  /-- HIRE_READY (R309): A queued hire becomes ready once its operands arrive. -/
  | hireReady (array entry : Nat)
  /-- ARRAY_START (R310): The array chooses and starts an eligible hire. -/
  | arrayStart (array : Nat)
  /-- HIRE_COMPUTE_END (R312): A hire's accumulation ends. -/
  | hireComputeEnd (array : Nat)
  /-- HIRE_LANDING (R314): A hire begins landing once its leases are long enough. -/
  | hireLanding (array : Nat)
  /-- LANDING_ARRIVE (R314): A store-and-arrive hire arrives at its barrier after its writes are acknowledged. -/
  | landingArrive (array : Nat)
  /-- CHAIN_IDLE_EXPIRE (R312): A chain idle for IDLE µs is aborted. -/
  | chainIdleExpire (array bank : Nat)
  /-- BIND_STORE (R326): The array stores a bound tile or bounces the bind. -/
  | bindStore (array : Nat)
  /-- UNBIND_PERFORM (R327): The array frees resident slots for an unbind. -/
  | unbindPerform (array : Nat) (agent : Agent)
  /-- ARRAY_COOL (R320): An array idle 512 cycles runs filler cycles and becomes cold. -/
  | arrayCool (array : Nat)
  /-- BURST_ARRIVE (R320): A burst begins filler cycles and holds the array warm. -/
  | burstArrive (array : Nat) (agent : Agent)
  /-- WARM_HOLD_EXPIRE (R320): A burst's warm hold ends. -/
  | warmHoldExpire (array : Nat)
  /-- TRANSLATION_WALK (R354): A slice walks the page table and grants a lease. -/
  | translationWalk (slice asid : Nat) (va : W64)
  /-- LEASE_EXPIRE (R357): A cached translation lease expires. -/
  | leaseExpire (slice asid page : Nat)
  /-- LEASE_RENEW (R362): An agent re-walks to keep a translation. -/
  | leaseRenew (agent : Agent)
  /-- L1_LEASE_WRITEBACK (R356): A dirty L1 line is written back before its lease expiry. -/
  | l1LeaseWriteback (core line : Nat)
  /-- SKEW_COMPARE (R363): Periodic comparison of domain-time copies. -/
  | skewCompare (die unit measured : Nat)
  /-- LHZN_READ (R360): Queries every keeper for the lease horizon. -/
  | lhznRead (core ctx : Nat)
  /-- DTIME_READ (R203): Returns non-decreasing domain time. -/
  | dtimeRead (core ctx : Nat)
  /-- DLCFG_WRITE (R365): Configures a dirty log and resets HEAD and TAIL. -/
  | dlcfgWrite (core : Nat) (value : W64)
  /-- DIRTY_LOG_MERGE (R366): The octant agent merges logged entries into the page tables. -/
  | dirtyLogMerge (octant : Nat)
  /-- HARVEST (R367): A GO write starts a harvest of the octant's logs. -/
  | harvest (octant : Nat) (value : W64)
  /-- HARVEST_DONE (R367): A harvest finishes and BUSY clears. -/
  | harvestDone (octant : Nat)
  /-- CPGO_READ (R375): Launches a copy from the shadow CSRs and returns its transfer id. -/
  | cpgoRead (core ctx : Nat)
  /-- COPY_START (R373): A channel starts its next copy after the previous one is final. -/
  | copyStart (agent : Agent)
  /-- RING_SLOT (R389): A ring engine fills or drains one slot and advances its counter. -/
  | ringSlot (stack ring : Nat)
  /-- RING_COUNTER_REREAD (R389): A ring engine rereads the task-owned counter at least every 1 µs. -/
  | ringCounterReread (stack ring : Nat)
  /-- MROW_START (R394): A BDE channel runs an in-DRAM row operation. -/
  | mrowStart (agent : Agent)
  /-- RCP (R392): Copies one row to another in the same subarray. -/
  | rcp (stack src dst : Nat)
  /-- RZF (R392): Copies the subarray's zero row into a row. -/
  | rzf (stack dst : Nat)
  /-- RBR (R392): Reads a row into the pseudo-channel's row buffer. -/
  | rbr (stack row : Nat)
  /-- RBW (R392): Writes the row buffer to a row. -/
  | rbw (stack row : Nat)
  /-- ZONE_CONTRIBUTION (R396): Contributions are added to landing-zone accumulators. -/
  | zoneContribution (agent : Agent) (home : Home)
  /-- ZONE_READOUT (R396): A full zone writes its elements to DST. -/
  | zoneReadout (stack zone : Nat)
  /-- COLL_START (R398): A collective reads its descriptor and begins. -/
  | collStart (agent : Agent)
  /-- COLL_TIMEOUT (R398): A collective's TOUT expires. -/
  | collTimeout (agent : Agent)
  /-- COLL_COMPLETE (R176): A collective completes at every participant. -/
  | collComplete (agent : Agent) (srcs : List (List Byte))
  /-- DECODE_JOB_START (R432): An engine reads and checks a decode-job record. -/
  | decodeJobStart (engine : Nat)
  /-- FRAME_DECODE (R430): An engine decodes one output frame and appends its writes. -/
  | frameDecode (engine : Nat)
  /-- FRAME_STATUS (R436): A frame's status word is written and its arrival made. -/
  | frameStatus (engine : Nat)
  /-- DECODE_RING_REREAD (R437): An engine rereads the ring's CONS at least every 1 µs. -/
  | decodeRingReread (engine : Nat)
  /-- FAULT_RECORD_WRITE (R451): The fault queue writes a record and its notify word. -/
  | faultRecordWrite (asid : Nat)
  /-- HELD_RECORD_WRITE (R451): A held fault record is written once room appears. -/
  | heldRecordWrite (core : Nat)
  /-- WATCHDOG (R461): A wait beyond LIM µs traps with watchdog. -/
  | watchdog (core ctx : Nat)
  /-- CORRECTED_ERROR (R458): ECC corrects an error and folds it into a report. -/
  | correctedError (die unit index : Nat)
  /-- UNCORRECTABLE_ERROR (R458): An uncorrectable error poisons bytes, a context or an operation. -/
  | uncorrectableError (die unit index detail : Nat)
  /-- PREEMPTION (R463): A core saves a lower-priority launch for a pre-empting message. -/
  | preemption (core : Nat)
  /-- LAUNCH_RESUME (R466): A core restores a saved launch. -/
  | launchResume (core : Nat)
  /-- LWAIT_WAKE (R372): Domain time reaches an lwait target and the task wakes. -/
  | lwaitWake (core ctx : Nat)
  /-- GOVERNOR_WINDOW (R36): At the end of each 1 ms window the governor steps the clock. -/
  | governorWindow (average : Nat)
  /-- LINK_CHANGE (R473): A port loses or gains link. -/
  | linkChange (port : Nat) (up : Bool)
  /-- FLIT_REPLAY (R473): A flit failing its CRC is replayed by the link. -/
  | flitReplay (port : Nat)
  /-- FABRIC_PACKET_ARRIVE (R478): A session packet is delivered, held or dropped by sequence. -/
  | fabricPacketArrive (module epoch seq src kind addr size : Nat) (data : List Byte)
  /-- FABRIC_ACK (R478): A cumulative acknowledgement reaches the sender. -/
  | fabricAck (module epoch seq : Nat)
  /-- FABRIC_RESEND (R480): An unacknowledged packet is sent again on another port. -/
  | fabricResend (module seq port : Nat)
  /-- SESSION_FAIL (R480): No route port up for FTO µs fails the session. -/
  | sessionFail (module : Nat)
  /-- FABSYNC_READ (R474): Returns once earlier import-entry requests have drained. -/
  | fabsyncRead
  /-- FABCTL_WRITE (R474): Writes fabric control, judging EN against MODID. -/
  | fabctlWrite (value : W64)
  /-- TIME_PACKET_SEND (R481): A time master sends time packets every 1 µs. -/
  | timePacketSend (die : Nat)
  /-- TIME_PACKET_ARRIVE (R481): A follower steers its rate toward the master. -/
  | timePacketArrive (die offset : Nat)
  /-- TIME_HOLDOVER (R481): No time packet for 100 µs clears LOCK with a report. -/
  | timeHoldover (die : Nat)
  /-- CXL_MEM_READ (R471): A host CXL.mem read performed at its home. -/
  | cxlMemRead (pa size : Nat)
  /-- CXL_MEM_WRITE (R471): A host CXL.mem write completed after it is performed. -/
  | cxlMemWrite (pa : Nat) (data : List Byte)
  /-- CXL_IO_ACCESS (R470): A BAR0 access performed by the host port's I/O agent. -/
  | cxlIoAccess (pa size : Nat) (write : Bool) (data : List Byte)
  /-- MODULE_RESET (R486): Reset runs the boot stages. -/
  | moduleReset
  /-- FW_GO (R489): Checks a staged image and writes it to a slot. -/
  | fwGo (value : W64)
  /-- FW_COMMIT (R489): Sets fused MINSVN to the running SVN. -/
  | fwCommit (value : W64)
  /-- FW_CHECK_DONE (R489): A firmware check or flash write finishes and BUSY clears. -/
  | fwCheckDone
  /-- DISMASK_WRITE (R494): Disables or restores units. -/
  | dismaskWrite (die reg : Nat) (value : W64)
  /-- DISMASK_READ (R494): Returns once earlier disable effects are in force. -/
  | dismaskRead (die reg : Nat)
  /-- SKEWCLR (R495): Compares clocks again and leaves skew mode if within 8 ns. -/
  | skewclr (die : Nat) (value : W64)
  /-- LAGCLR (R495): Sends the hub's full state to a lagging shadow. -/
  | lagclr (die : Nat) (value : W64)
  /-- SPDM_VERSION (R490): SPDM version negotiation request. -/
  | spdmVersion (req : List Byte)
  /-- SPDM_CAPABILITIES (R490): SPDM capability negotiation request. -/
  | spdmCapabilities (req : List Byte)
  /-- SPDM_ALGORITHMS (R490): SPDM algorithm negotiation request. -/
  | spdmAlgorithms (req : List Byte)
  /-- SPDM_DIGESTS (R490): SPDM certificate digests request. -/
  | spdmDigests (req : List Byte)
  /-- SPDM_CERTIFICATE (R490): SPDM certificate request. -/
  | spdmCertificate (req : List Byte)
  /-- CHALLENGE (R490): SPDM challenge request. -/
  | challenge (req : List Byte)
  /-- SPDM_MEASUREMENTS (R490): Returns the measurement digests. -/
  | spdmMeasurements (req : List Byte)
  /-- KEY_EXCHANGE (R490): SPDM ECDHE key exchange. -/
  | keyExchange (req : List Byte)
  /-- FINISH (R490): SPDM session finish. -/
  | finish (req : List Byte)
  /-- KEY_UPDATE (R490): SPDM session key update. -/
  | keyUpdate (req : List Byte)
  /-- END_SESSION (R490): Ends an SPDM secure session. -/
  | endSession (req : List Byte)
  /-- DEVICE_REGISTER_WRITE (R9): A write to a device register without behaviour of its own. -/
  | deviceRegisterWrite (pa : Nat) (value : W64)
  /-- ILLEGAL_ENCODING (R97): Issue of an instruction word whose OP is 0x00 or 0x3D to 0x3F, including the zero word fetched beyond TSIZE, which traps with illegal-encoding. -/
  | illegalEncoding (word : W32)
  /-- HOST_APERTURE_COMPLETION (R472): The host answers a host-aperture request with read data or a signal of global observation, after which the host port acknowledges it. -/
  | hostApertureCompletion (id : Nat) (data : List Byte)
  /-- SNOOP (R469): A CXL.cache snoop from the host arrives and is answered with RspIHitI. -/
  | snoop (addr : W64)
  /-- CXL_LINK_TRAINING (R469): The CXL host link trains, or trains down to a narrower width or a lower rate. -/
  | cxlLinkTraining (width rate : Nat)
  /-- IDE_KEY_PROGRAMMING (R490): IDE keys for CXL.io and CXL.cachemem are programmed within an SPDM secure session. -/
  | ideKeyProgramming (stream : Nat) (key : List Byte)
  /-- DEVICE_REGISTER_READ (R9): A read of a device register whose access code gives the read a behaviour of its own, such as RQLOST or the per-core ISSUED, SPOOB and CORR counters, which clear on read. -/
  | deviceRegisterRead (pa : Nat)
  deriving DecidableEq, Repr

end Sys2Proof
end

