-- ==== Sys2Proof/WellFormed.lean ====
section
/-!
DEFINITION. Sys2Proof/WellFormed.lean: which instructions have a word (R95, R97 and the encoding tables of the
instruction chapters): the subfield values that a group assigns. A step without an encoding is well formed as it is.
-/
namespace Sys2Proof

/-- The ORD codes that `red` and `stf` accept (R240, R242). -/
def ordRed (ord : Nat) : Bool := ord == 0 || ord == 4 || ord == 5 || ord == 6

/-- The pairs of ROP and format code that R240 assigns. -/
def redPair (rop fmt : Nat) : Bool :=
  (rop ≤ 2 && (fmt == 0 || fmt == 1 || fmt == 2 || fmt == 0xB || fmt == 0xE)) ||
    (3 ≤ rop && rop ≤ 5 && (fmt == 0xB || fmt == 0xE))

/-- The CSR numbers that R204 assigns. -/
def csrNumbers : List Nat :=
  [0x000, 0x001, 0x002, 0x003, 0x004, 0x005, 0x006, 0x010, 0x011, 0x012, 0x013, 0x014, 0x020, 0x021, 0x030, 0x031] ++
    [0x040, 0x041, 0x042, 0x043, 0x044, 0x045, 0x048, 0x049, 0x04A, 0x04B, 0x050, 0x060, 0x070, 0x400]

/-- Whether a CSR number is assigned (R204). -/
def csrAssigned (num : Nat) : Bool := csrNumbers.any (· == num)

/-- The checks that the encoding of an instruction must pass beyond its fixed bits. -/
def Instr.wellFormed : Instr → Bool
  | .add _ _ _ _ => true
  | .sub _ _ _ _ => true
  | .and _ _ _ _ => true
  | .or _ _ _ _ => true
  | .xor _ _ _ _ => true
  | .sll _ _ _ _ => true
  | .srl _ _ _ _ => true
  | .sra _ _ _ _ => true
  | .min _ _ _ _ => true
  | .max _ _ _ _ => true
  | .minu _ _ _ _ => true
  | .maxu _ _ _ _ => true
  | .clz _ _ _ => true
  | .ctz _ _ _ => true
  | .popc _ _ _ => true
  | .cset _ _ _ _ _ => true
  | .csetm _ _ _ _ _ => true
  | .add32 _ _ _ _ => true
  | .sub32 _ _ _ _ => true
  | .sll32 _ _ _ _ => true
  | .srl32 _ _ _ _ => true
  | .sra32 _ _ _ _ => true
  | .add32z _ _ _ _ => true
  | .sub32z _ _ _ _ => true
  | .sll32z _ _ _ _ => true
  | .srl32z _ _ _ _ => true
  | .sra32z _ _ _ _ => true
  | .mul _ _ _ _ => true
  | .mulh _ _ _ _ => true
  | .mulhu _ _ _ _ => true
  | .div _ _ _ _ => true
  | .divu _ _ _ _ => true
  | .rem _ _ _ _ => true
  | .remu _ _ _ _ => true
  | .bext _ _ _ lo len1 => decide (lo.val + len1.val ≤ 63)
  | .bins _ _ _ lo len1 => decide (lo.val + len1.val ≤ 63)
  | .addi _ _ _ _ => true
  | .andi _ _ _ _ => true
  | .ori _ _ _ _ => true
  | .xori _ _ _ _ => true
  | .slli _ _ _ _ => true
  | .srli _ _ _ _ => true
  | .srai _ _ _ _ => true
  | .clti _ _ _ _ => true
  | .cltiu _ _ _ _ => true
  | .addi32 _ _ _ _ => true
  | .immhi _ _ _ => true
  | .pcofs _ _ _ => true
  | .fadd _ _ _ _ => true
  | .fsub _ _ _ _ => true
  | .fmul _ _ _ _ => true
  | .fmin _ _ _ _ => true
  | .fmax _ _ _ _ => true
  | .feq _ _ _ _ => true
  | .flt _ _ _ _ => true
  | .fle _ _ _ _ => true
  | .fclass _ _ _ => true
  | .fsign _ _ _ _ => true
  | .fdiv _ _ _ _ => true
  | .fsqrt _ _ _ => true
  | .fabs _ _ _ => true
  | .fneg _ _ _ => true
  | .fcvt _ _ _ k => decide (k.val ≤ 9)
  | .fmadd _ _ _ _ _ => true
  | .beq _ _ _ _ => true
  | .bne _ _ _ _ => true
  | .blt _ _ _ _ => true
  | .bge _ _ _ _ => true
  | .bltu _ _ _ _ => true
  | .bgeu _ _ _ _ => true
  | .jal _ _ _ => true
  | .jalr _ _ _ _ => true
  | .lb _ _ _ _ => true
  | .lh _ _ _ _ => true
  | .lw _ _ _ _ => true
  | .ld _ _ _ _ => true
  | .lbu _ _ _ _ => true
  | .lhu _ _ _ _ => true
  | .lwu _ _ _ _ => true
  | .ldx _ _ _ _ scope uns size => decide (scope.val ≤ 4 ∧ ¬(uns.val = 1 ∧ size.val = 3))
  | .sb _ _ _ _ => true
  | .sh _ _ _ _ => true
  | .sw _ _ _ _ => true
  | .sd _ _ _ _ => true
  | .stx _ _ _ _ scope _ => decide (scope.val ≤ 4)
  | .amoadd _ _ _ _ ord => decide (ord.val ≠ 7)
  | .amoaddw _ _ _ _ ord => decide (ord.val ≠ 7)
  | .amoand _ _ _ _ ord => decide (ord.val ≠ 7)
  | .amoandw _ _ _ _ ord => decide (ord.val ≠ 7)
  | .amoor _ _ _ _ ord => decide (ord.val ≠ 7)
  | .amoorw _ _ _ _ ord => decide (ord.val ≠ 7)
  | .amoxor _ _ _ _ ord => decide (ord.val ≠ 7)
  | .amoxorw _ _ _ _ ord => decide (ord.val ≠ 7)
  | .amomin _ _ _ _ ord => decide (ord.val ≠ 7)
  | .amominw _ _ _ _ ord => decide (ord.val ≠ 7)
  | .amomax _ _ _ _ ord => decide (ord.val ≠ 7)
  | .amomaxw _ _ _ _ ord => decide (ord.val ≠ 7)
  | .amominu _ _ _ _ ord => decide (ord.val ≠ 7)
  | .amominuw _ _ _ _ ord => decide (ord.val ≠ 7)
  | .amomaxu _ _ _ _ ord => decide (ord.val ≠ 7)
  | .amomaxuw _ _ _ _ ord => decide (ord.val ≠ 7)
  | .amoswap _ _ _ _ ord => decide (ord.val ≠ 7)
  | .amoswapw _ _ _ _ ord => decide (ord.val ≠ 7)
  | .amofadd _ _ _ _ ord => decide (ord.val ≠ 7)
  | .cas _ _ _ _ ord _ => decide (ord.val ≠ 7)
  | .red _ ord _ _ rop fcode => decide (ordRed ord.val ∧ redPair rop.val fcode.val)
  | .fence _ rel acq scope => decide (rel.val + acq.val ≠ 0 ∧ scope.val ≤ 4)
  | .cln _ _ _ => true
  | .inv _ _ _ => true
  | .waita _ _ _ _ scope => decide (scope.val ≤ 4)
  | .ldf _ _ _ ord => decide (ord.val ≤ 3)
  | .stf _ _ _ _ ord => decide (ordRed ord.val)
  | .spawn _ _ _ => true
  | .endTask _ => true
  | .park _ _ _ _ => true
  | .yield _ => true
  | .qput _ _ _ _ => true
  | .cancel _ _ _ => true
  | .join _ _ _ => true
  | .leave _ _ _ => true
  | .bari _ _ _ _ => true
  | .barv _ _ _ scope => decide (scope.val ≤ 4)
  | .barw _ _ _ _ => true
  | .spawnb _ _ _ _ => true
  | .setbnd _ _ _ _ => true
  | .killpt _ => true
  | .improve _ _ _ _ => true
  | .rdinc _ _ _ _ _ => true
  | .incset _ _ _ _ => true
  | .hire _ _ _ _ => true
  | .hgw _ _ _ => true
  | .hgr _ _ _ => true
  | .hwait _ _ _ _ => true
  | .hstat _ _ _ => true
  | .bind _ _ _ _ => true
  | .unbind _ _ _ _ => true
  | .burst _ _ _ => true
  | .cpwait _ _ _ _ => true
  | .cpst _ _ _ => true
  | .ringsub _ _ _ => true
  | .ringstop _ _ _ => true
  | .mrowCopy _ _ _ _ => true
  | .mrowZero _ _ _ => true
  | .lzput _ _ _ _ => true
  | .coll _ _ _ => true
  | .vclaimTry _ lmax lmin _ => decide (lmin.val ≤ lmax.val)
  | .vclaimWait _ lmax lmin _ => decide (lmin.val ≤ lmax.val)
  | .vren _ lmax lmin _ => decide (lmin.val ≤ lmax.val)
  | .vrel _ => true
  | .vld _ _ _ _ sz => decide (sz.val ≤ 2)
  | .vlds _ _ _ _ _ sz => decide (sz.val ≤ 2)
  | .vldx _ _ _ _ _ sz => decide (sz.val ≤ 2)
  | .vst _ _ _ _ sz => decide (sz.val ≤ 2)
  | .vsts _ _ _ _ _ sz => decide (sz.val ≤ 2)
  | .vstx _ _ _ _ _ sz => decide (sz.val ≤ 2)
  | .vaddVv _ _ _ _ _ => true
  | .vaddVx _ _ _ _ _ => true
  | .vsubVv _ _ _ _ _ => true
  | .vsubVx _ _ _ _ _ => true
  | .vmulVv _ _ _ _ _ => true
  | .vmulVx _ _ _ _ _ => true
  | .vmulhVv _ _ _ _ _ => true
  | .vmulhVx _ _ _ _ _ => true
  | .vminVv _ _ _ _ _ => true
  | .vminVx _ _ _ _ _ => true
  | .vmaxVv _ _ _ _ _ => true
  | .vmaxVx _ _ _ _ _ => true
  | .vminuVv _ _ _ _ _ => true
  | .vminuVx _ _ _ _ _ => true
  | .vmaxuVv _ _ _ _ _ => true
  | .vmaxuVx _ _ _ _ _ => true
  | .vandVv _ _ _ _ _ => true
  | .vandVx _ _ _ _ _ => true
  | .vorVv _ _ _ _ _ => true
  | .vorVx _ _ _ _ _ => true
  | .vxorVv _ _ _ _ _ => true
  | .vxorVx _ _ _ _ _ => true
  | .vsllVv _ _ _ _ _ => true
  | .vsllVx _ _ _ _ _ => true
  | .vsrlVv _ _ _ _ _ => true
  | .vsrlVx _ _ _ _ _ => true
  | .vsraVv _ _ _ _ _ => true
  | .vsraVx _ _ _ _ _ => true
  | .vfaddVv _ _ _ _ _ => true
  | .vfaddVx _ _ _ _ _ => true
  | .vfsubVv _ _ _ _ _ => true
  | .vfsubVx _ _ _ _ _ => true
  | .vfmulVv _ _ _ _ _ => true
  | .vfmulVx _ _ _ _ _ => true
  | .vfmaVv _ _ _ _ _ => true
  | .vfmaVx _ _ _ _ _ => true
  | .vfnmaVv _ _ _ _ _ => true
  | .vfnmaVx _ _ _ _ _ => true
  | .vfminVv _ _ _ _ _ => true
  | .vfminVx _ _ _ _ _ => true
  | .vfmaxVv _ _ _ _ _ => true
  | .vfmaxVx _ _ _ _ _ => true
  | .vcmpVv _ kd _ _ _ cc => decide (kd.val ≠ 0 ∧ cc.val ≤ 9)
  | .vcmpVx _ kd _ _ _ cc => decide (kd.val ≠ 0 ∧ cc.val ≤ 9)
  | .vselVv _ _ _ _ mk => decide (mk.val ≠ 0)
  | .vselVx _ _ _ _ mk => decide (mk.val ≠ 0)
  | .vmand _ kd ka kb => decide (kd.val ≠ 0 ∧ ka.val ≠ 0 ∧ kb.val ≠ 0)
  | .vmor _ kd ka kb => decide (kd.val ≠ 0 ∧ ka.val ≠ 0 ∧ kb.val ≠ 0)
  | .vperm _ _ _ _ _ => true
  | .vslide _ _ _ _ _ => true
  | .vbcast _ _ _ _ => true
  | .vmvxv _ _ _ => true
  | .vmvvx _ _ _ => true
  | .vred _ _ _ _ rop => decide (rop.val ≤ 10)
  | .vexp2 _ _ _ _ => true
  | .vlog2 _ _ _ _ => true
  | .vrcp _ _ _ _ => true
  | .vrsq _ _ _ _ => true
  | .vsqrt _ _ _ _ => true
  | .vcvt _ _ _ _ _ _ _ => true
  | .fmt _ _ _ _ _ _ _ => true
  | .waalloc _ _ _ => true
  | .wafree _ _ => true
  | .waset _ _ _ => true
  | .wapush _ _ _ => true
  | .waread _ _ _ => true
  | .waclr _ _ => true
  | .kvhome _ _ _ _ => true
  | .stub _ _ _ _ => true
  | .migrate _ _ _ => true
  | .vsgn _ _ _ _ => true
  | .vham _ kd _ _ _ r => decide (kd.val ≠ 0 ∧ r.val ≤ 32)
  | .vdec _ _ _ _ => true
  | .vdstat _ _ _ _ => true
  | .csrr _ _ num => decide (csrAssigned num.val)
  | .csrw _ _ _ num => decide (csrAssigned num.val)
  | .csrs _ _ _ num => decide (csrAssigned num.val)
  | .csrc _ _ _ num => decide (csrAssigned num.val)
  | .trap _ _ => true
  | .eret _ => true
  | .brk _ _ => true
  | .ifence _ _ => true
  | .ovld _ _ _ => true
  | .lwait _ _ _ => true
  | .resume _ _ _ _ => true
  | .tkill _ _ _ _ => true
  | .drain _ => true
  | .answer _ _ => true
  | .perform _ _ => true
  | .respond _ _ => true
  | .evict _ _ => true
  | .drop _ _ => true
  | .engineIssue _ => true
  | .engineEvent _ => true
  | .barrierAdjust _ _ => true
  | .futureWithdraw _ _ => true
  | .qtailWrite _ _ => true
  | .launchTake _ => true
  | .launchStart _ => true
  | .taskMessageSend _ => true
  | .messageResend _ => true
  | .completionRecordWrite _ => true
  | .cancelMark _ => true
  | .cancelArrive _ _ => true
  | .messageArrive _ => true
  | .rehomeHint _ => true
  | .contextAllocate _ => true
  | .coreReconfigure _ => true
  | .rqageExpire _ => true
  | .agePromotion _ _ => true
  | .runQueueScrub _ => true
  | .overflowScrub _ => true
  | .incumbentBroadcast _ _ => true
  | .shadowUnbind _ => true
  | .shadowStateInstall _ => true
  | .shadowLag _ _ => true
  | .hireAdmit _ _ => true
  | .operandPush _ => true
  | .hireReady _ _ => true
  | .arrayStart _ => true
  | .hireComputeEnd _ => true
  | .hireLanding _ => true
  | .landingArrive _ => true
  | .chainIdleExpire _ _ => true
  | .bindStore _ => true
  | .unbindPerform _ _ => true
  | .arrayCool _ => true
  | .burstArrive _ _ => true
  | .warmHoldExpire _ => true
  | .translationWalk _ _ _ => true
  | .leaseExpire _ _ _ => true
  | .leaseRenew _ => true
  | .l1LeaseWriteback _ _ => true
  | .skewCompare _ _ _ => true
  | .lhznRead _ _ => true
  | .dtimeRead _ _ => true
  | .dlcfgWrite _ _ => true
  | .dirtyLogMerge _ => true
  | .harvest _ _ => true
  | .harvestDone _ => true
  | .cpgoRead _ _ => true
  | .copyStart _ => true
  | .ringSlot _ _ => true
  | .ringCounterReread _ _ => true
  | .mrowStart _ => true
  | .rcp _ _ _ => true
  | .rzf _ _ => true
  | .rbr _ _ => true
  | .rbw _ _ => true
  | .zoneContribution _ _ => true
  | .zoneReadout _ _ => true
  | .collStart _ => true
  | .collTimeout _ => true
  | .collComplete _ _ => true
  | .decodeJobStart _ => true
  | .frameDecode _ => true
  | .frameStatus _ => true
  | .decodeRingReread _ => true
  | .faultRecordWrite _ => true
  | .heldRecordWrite _ => true
  | .watchdog _ _ => true
  | .correctedError _ _ _ => true
  | .uncorrectableError _ _ _ _ => true
  | .preemption _ => true
  | .launchResume _ => true
  | .lwaitWake _ _ => true
  | .governorWindow _ => true
  | .linkChange _ _ => true
  | .flitReplay _ => true
  | .fabricPacketArrive _ _ _ _ _ _ _ _ => true
  | .fabricAck _ _ _ => true
  | .fabricResend _ _ _ => true
  | .sessionFail _ => true
  | .fabsyncRead => true
  | .fabctlWrite _ => true
  | .timePacketSend _ => true
  | .timePacketArrive _ _ => true
  | .timeHoldover _ => true
  | .cxlMemRead _ _ => true
  | .cxlMemWrite _ _ => true
  | .cxlIoAccess _ _ _ _ => true
  | .moduleReset => true
  | .fwGo _ => true
  | .fwCommit _ => true
  | .fwCheckDone => true
  | .dismaskWrite _ _ _ => true
  | .dismaskRead _ _ => true
  | .skewclr _ _ => true
  | .lagclr _ _ => true
  | .spdmVersion _ => true
  | .spdmCapabilities _ => true
  | .spdmAlgorithms _ => true
  | .spdmDigests _ => true
  | .spdmCertificate _ => true
  | .challenge _ => true
  | .spdmMeasurements _ => true
  | .keyExchange _ => true
  | .finish _ => true
  | .keyUpdate _ => true
  | .endSession _ => true
  | .deviceRegisterWrite _ _ => true
  | .illegalEncoding _ => true
  | .hostApertureCompletion _ _ => true
  | .snoop _ => true
  | .cxlLinkTraining _ _ => true
  | .ideKeyProgramming _ _ => true
  | .deviceRegisterRead _ => true

/-- An instruction is well formed when its checks hold. -/
abbrev Instr.WellFormed (i : Instr) : Prop := i.wellFormed = true

end Sys2Proof
end

