-- ==== Sys2Proof/Decode.lean ====
section
/-!
DEFINITION. Sys2Proof/Decode.lean: the decoder, total on every word, and the encoder, both from the encoding tables
(R91 to R97, spec/opcode_table.json). A word decodes to an instruction, or is rejected as an illegal encoding (an OP,
fn, subop or subfield value that is not assigned, R97) or for a reserved field (R95, R103); the first comes first (R105).
-/
namespace Sys2Proof

/-- What the decoder makes of a word. -/
inductive Decoded where
  /-- An instruction. -/
  | ok (i : Instr)
  /-- An unassigned OP, fn, subop or subfield (R97). -/
  | illegal
  /-- A reserved field that is not zero (R95, R103). -/
  | reserved
  deriving DecidableEq, Repr

/-- Decodes one form: illegal unless its subfields are assigned, then reserved unless its reserved bits are zero. -/
def form (assigned zero : Bool) (i : Instr) : Decoded :=
  if assigned then (if zero then .ok i else .reserved) else .illegal

/-- OP 0x01. -/
def decodeAlu (w : Nat) : Decoded :=
  if bitsOf w 7 0 = 0 then
    form true true
      (.add (Fin.ofNat 8 (bitsOf w 31 29)) (Fin.ofNat 32 (bitsOf w 22 18)) (Fin.ofNat 32 (bitsOf w 17 13)) (Fin.ofNat 32 (bitsOf w 12 8)))
  else if bitsOf w 7 0 = 1 then
    form true true
      (.sub (Fin.ofNat 8 (bitsOf w 31 29)) (Fin.ofNat 32 (bitsOf w 22 18)) (Fin.ofNat 32 (bitsOf w 17 13)) (Fin.ofNat 32 (bitsOf w 12 8)))
  else if bitsOf w 7 0 = 2 then
    form true true
      (.and (Fin.ofNat 8 (bitsOf w 31 29)) (Fin.ofNat 32 (bitsOf w 22 18)) (Fin.ofNat 32 (bitsOf w 17 13)) (Fin.ofNat 32 (bitsOf w 12 8)))
  else if bitsOf w 7 0 = 3 then
    form true true
      (.or (Fin.ofNat 8 (bitsOf w 31 29)) (Fin.ofNat 32 (bitsOf w 22 18)) (Fin.ofNat 32 (bitsOf w 17 13)) (Fin.ofNat 32 (bitsOf w 12 8)))
  else if bitsOf w 7 0 = 4 then
    form true true
      (.xor (Fin.ofNat 8 (bitsOf w 31 29)) (Fin.ofNat 32 (bitsOf w 22 18)) (Fin.ofNat 32 (bitsOf w 17 13)) (Fin.ofNat 32 (bitsOf w 12 8)))
  else if bitsOf w 7 0 = 5 then
    form true true
      (.sll (Fin.ofNat 8 (bitsOf w 31 29)) (Fin.ofNat 32 (bitsOf w 22 18)) (Fin.ofNat 32 (bitsOf w 17 13)) (Fin.ofNat 32 (bitsOf w 12 8)))
  else if bitsOf w 7 0 = 6 then
    form true true
      (.srl (Fin.ofNat 8 (bitsOf w 31 29)) (Fin.ofNat 32 (bitsOf w 22 18)) (Fin.ofNat 32 (bitsOf w 17 13)) (Fin.ofNat 32 (bitsOf w 12 8)))
  else if bitsOf w 7 0 = 7 then
    form true true
      (.sra (Fin.ofNat 8 (bitsOf w 31 29)) (Fin.ofNat 32 (bitsOf w 22 18)) (Fin.ofNat 32 (bitsOf w 17 13)) (Fin.ofNat 32 (bitsOf w 12 8)))
  else if bitsOf w 7 0 = 10 then
    form true true
      (.min (Fin.ofNat 8 (bitsOf w 31 29)) (Fin.ofNat 32 (bitsOf w 22 18)) (Fin.ofNat 32 (bitsOf w 17 13)) (Fin.ofNat 32 (bitsOf w 12 8)))
  else if bitsOf w 7 0 = 11 then
    form true true
      (.max (Fin.ofNat 8 (bitsOf w 31 29)) (Fin.ofNat 32 (bitsOf w 22 18)) (Fin.ofNat 32 (bitsOf w 17 13)) (Fin.ofNat 32 (bitsOf w 12 8)))
  else if bitsOf w 7 0 = 12 then
    form true true
      (.minu (Fin.ofNat 8 (bitsOf w 31 29)) (Fin.ofNat 32 (bitsOf w 22 18)) (Fin.ofNat 32 (bitsOf w 17 13)) (Fin.ofNat 32 (bitsOf w 12 8)))
  else if bitsOf w 7 0 = 13 then
    form true true
      (.maxu (Fin.ofNat 8 (bitsOf w 31 29)) (Fin.ofNat 32 (bitsOf w 22 18)) (Fin.ofNat 32 (bitsOf w 17 13)) (Fin.ofNat 32 (bitsOf w 12 8)))
  else if bitsOf w 7 0 = 16 then
    form true (bitsOf w 12 8 == 0)
      (.clz (Fin.ofNat 8 (bitsOf w 31 29)) (Fin.ofNat 32 (bitsOf w 22 18)) (Fin.ofNat 32 (bitsOf w 17 13)))
  else if bitsOf w 7 0 = 17 then
    form true (bitsOf w 12 8 == 0)
      (.ctz (Fin.ofNat 8 (bitsOf w 31 29)) (Fin.ofNat 32 (bitsOf w 22 18)) (Fin.ofNat 32 (bitsOf w 17 13)))
  else if bitsOf w 7 0 = 18 then
    form true (bitsOf w 12 8 == 0)
      (.popc (Fin.ofNat 8 (bitsOf w 31 29)) (Fin.ofNat 32 (bitsOf w 22 18)) (Fin.ofNat 32 (bitsOf w 17 13)))
  else if bitsOf w 7 3 = 3 then
    form true true
      (.cset (Fin.ofNat 8 (bitsOf w 31 29)) (Fin.ofNat 32 (bitsOf w 22 18)) (Fin.ofNat 32 (bitsOf w 17 13)) (Fin.ofNat 32 (bitsOf w 12 8)) (Fin.ofNat 8 (bitsOf w 2 0)))
  else if bitsOf w 7 3 = 4 then
    form true true
      (.csetm (Fin.ofNat 8 (bitsOf w 31 29)) (Fin.ofNat 32 (bitsOf w 22 18)) (Fin.ofNat 32 (bitsOf w 17 13)) (Fin.ofNat 32 (bitsOf w 12 8)) (Fin.ofNat 8 (bitsOf w 2 0)))
  else .illegal

/-- OP 0x02. -/
def decodeAlu32 (w : Nat) : Decoded :=
  if bitsOf w 7 0 = 0 then
    form true true
      (.add32 (Fin.ofNat 8 (bitsOf w 31 29)) (Fin.ofNat 32 (bitsOf w 22 18)) (Fin.ofNat 32 (bitsOf w 17 13)) (Fin.ofNat 32 (bitsOf w 12 8)))
  else if bitsOf w 7 0 = 1 then
    form true true
      (.sub32 (Fin.ofNat 8 (bitsOf w 31 29)) (Fin.ofNat 32 (bitsOf w 22 18)) (Fin.ofNat 32 (bitsOf w 17 13)) (Fin.ofNat 32 (bitsOf w 12 8)))
  else if bitsOf w 7 0 = 5 then
    form true true
      (.sll32 (Fin.ofNat 8 (bitsOf w 31 29)) (Fin.ofNat 32 (bitsOf w 22 18)) (Fin.ofNat 32 (bitsOf w 17 13)) (Fin.ofNat 32 (bitsOf w 12 8)))
  else if bitsOf w 7 0 = 6 then
    form true true
      (.srl32 (Fin.ofNat 8 (bitsOf w 31 29)) (Fin.ofNat 32 (bitsOf w 22 18)) (Fin.ofNat 32 (bitsOf w 17 13)) (Fin.ofNat 32 (bitsOf w 12 8)))
  else if bitsOf w 7 0 = 7 then
    form true true
      (.sra32 (Fin.ofNat 8 (bitsOf w 31 29)) (Fin.ofNat 32 (bitsOf w 22 18)) (Fin.ofNat 32 (bitsOf w 17 13)) (Fin.ofNat 32 (bitsOf w 12 8)))
  else if bitsOf w 7 0 = 16 then
    form true true
      (.add32z (Fin.ofNat 8 (bitsOf w 31 29)) (Fin.ofNat 32 (bitsOf w 22 18)) (Fin.ofNat 32 (bitsOf w 17 13)) (Fin.ofNat 32 (bitsOf w 12 8)))
  else if bitsOf w 7 0 = 17 then
    form true true
      (.sub32z (Fin.ofNat 8 (bitsOf w 31 29)) (Fin.ofNat 32 (bitsOf w 22 18)) (Fin.ofNat 32 (bitsOf w 17 13)) (Fin.ofNat 32 (bitsOf w 12 8)))
  else if bitsOf w 7 0 = 21 then
    form true true
      (.sll32z (Fin.ofNat 8 (bitsOf w 31 29)) (Fin.ofNat 32 (bitsOf w 22 18)) (Fin.ofNat 32 (bitsOf w 17 13)) (Fin.ofNat 32 (bitsOf w 12 8)))
  else if bitsOf w 7 0 = 22 then
    form true true
      (.srl32z (Fin.ofNat 8 (bitsOf w 31 29)) (Fin.ofNat 32 (bitsOf w 22 18)) (Fin.ofNat 32 (bitsOf w 17 13)) (Fin.ofNat 32 (bitsOf w 12 8)))
  else if bitsOf w 7 0 = 23 then
    form true true
      (.sra32z (Fin.ofNat 8 (bitsOf w 31 29)) (Fin.ofNat 32 (bitsOf w 22 18)) (Fin.ofNat 32 (bitsOf w 17 13)) (Fin.ofNat 32 (bitsOf w 12 8)))
  else .illegal

/-- OP 0x03. -/
def decodeMulDiv (w : Nat) : Decoded :=
  if bitsOf w 7 0 = 0 then
    form true true
      (.mul (Fin.ofNat 8 (bitsOf w 31 29)) (Fin.ofNat 32 (bitsOf w 22 18)) (Fin.ofNat 32 (bitsOf w 17 13)) (Fin.ofNat 32 (bitsOf w 12 8)))
  else if bitsOf w 7 0 = 1 then
    form true true
      (.mulh (Fin.ofNat 8 (bitsOf w 31 29)) (Fin.ofNat 32 (bitsOf w 22 18)) (Fin.ofNat 32 (bitsOf w 17 13)) (Fin.ofNat 32 (bitsOf w 12 8)))
  else if bitsOf w 7 0 = 2 then
    form true true
      (.mulhu (Fin.ofNat 8 (bitsOf w 31 29)) (Fin.ofNat 32 (bitsOf w 22 18)) (Fin.ofNat 32 (bitsOf w 17 13)) (Fin.ofNat 32 (bitsOf w 12 8)))
  else if bitsOf w 7 0 = 4 then
    form true true
      (.div (Fin.ofNat 8 (bitsOf w 31 29)) (Fin.ofNat 32 (bitsOf w 22 18)) (Fin.ofNat 32 (bitsOf w 17 13)) (Fin.ofNat 32 (bitsOf w 12 8)))
  else if bitsOf w 7 0 = 5 then
    form true true
      (.divu (Fin.ofNat 8 (bitsOf w 31 29)) (Fin.ofNat 32 (bitsOf w 22 18)) (Fin.ofNat 32 (bitsOf w 17 13)) (Fin.ofNat 32 (bitsOf w 12 8)))
  else if bitsOf w 7 0 = 6 then
    form true true
      (.rem (Fin.ofNat 8 (bitsOf w 31 29)) (Fin.ofNat 32 (bitsOf w 22 18)) (Fin.ofNat 32 (bitsOf w 17 13)) (Fin.ofNat 32 (bitsOf w 12 8)))
  else if bitsOf w 7 0 = 7 then
    form true true
      (.remu (Fin.ofNat 8 (bitsOf w 31 29)) (Fin.ofNat 32 (bitsOf w 22 18)) (Fin.ofNat 32 (bitsOf w 17 13)) (Fin.ofNat 32 (bitsOf w 12 8)))
  else .illegal

/-- OP 0x04. -/
def decodeBits (w : Nat) : Decoded :=
  if bitsOf w 12 12 = 0 then
    form (decide ((bitsOf w 11 6) + (bitsOf w 5 0) ≤ 63)) true
      (.bext (Fin.ofNat 8 (bitsOf w 31 29)) (Fin.ofNat 32 (bitsOf w 22 18)) (Fin.ofNat 32 (bitsOf w 17 13)) (Fin.ofNat 64 (bitsOf w 11 6)) (Fin.ofNat 64 (bitsOf w 5 0)))
  else if bitsOf w 12 12 = 1 then
    form (decide ((bitsOf w 11 6) + (bitsOf w 5 0) ≤ 63)) true
      (.bins (Fin.ofNat 8 (bitsOf w 31 29)) (Fin.ofNat 32 (bitsOf w 22 18)) (Fin.ofNat 32 (bitsOf w 17 13)) (Fin.ofNat 64 (bitsOf w 11 6)) (Fin.ofNat 64 (bitsOf w 5 0)))
  else .illegal

/-- OP 0x05. -/
def decodeOpAddi (w : Nat) : Decoded :=
  form true true
      (.addi (Fin.ofNat 8 (bitsOf w 31 29)) (Fin.ofNat 32 (bitsOf w 22 18)) (Fin.ofNat 32 (bitsOf w 17 13)) (BitVec.ofNat 13 (bitsOf w 12 0)))

/-- OP 0x06. -/
def decodeOpAndi (w : Nat) : Decoded :=
  form true true
      (.andi (Fin.ofNat 8 (bitsOf w 31 29)) (Fin.ofNat 32 (bitsOf w 22 18)) (Fin.ofNat 32 (bitsOf w 17 13)) (BitVec.ofNat 13 (bitsOf w 12 0)))

/-- OP 0x07. -/
def decodeOpOri (w : Nat) : Decoded :=
  form true true
      (.ori (Fin.ofNat 8 (bitsOf w 31 29)) (Fin.ofNat 32 (bitsOf w 22 18)) (Fin.ofNat 32 (bitsOf w 17 13)) (BitVec.ofNat 13 (bitsOf w 12 0)))

/-- OP 0x08. -/
def decodeOpXori (w : Nat) : Decoded :=
  form true true
      (.xori (Fin.ofNat 8 (bitsOf w 31 29)) (Fin.ofNat 32 (bitsOf w 22 18)) (Fin.ofNat 32 (bitsOf w 17 13)) (BitVec.ofNat 13 (bitsOf w 12 0)))

/-- OP 0x09. -/
def decodeShiftImm (w : Nat) : Decoded :=
  if bitsOf w 12 11 = 0 then
    form true (bitsOf w 10 6 == 0)
      (.slli (Fin.ofNat 8 (bitsOf w 31 29)) (Fin.ofNat 32 (bitsOf w 22 18)) (Fin.ofNat 32 (bitsOf w 17 13)) (Fin.ofNat 64 (bitsOf w 5 0)))
  else if bitsOf w 12 11 = 1 then
    form true (bitsOf w 10 6 == 0)
      (.srli (Fin.ofNat 8 (bitsOf w 31 29)) (Fin.ofNat 32 (bitsOf w 22 18)) (Fin.ofNat 32 (bitsOf w 17 13)) (Fin.ofNat 64 (bitsOf w 5 0)))
  else if bitsOf w 12 11 = 2 then
    form true (bitsOf w 10 6 == 0)
      (.srai (Fin.ofNat 8 (bitsOf w 31 29)) (Fin.ofNat 32 (bitsOf w 22 18)) (Fin.ofNat 32 (bitsOf w 17 13)) (Fin.ofNat 64 (bitsOf w 5 0)))
  else .illegal

/-- OP 0x0a. -/
def decodeOpClti (w : Nat) : Decoded :=
  form true true
      (.clti (Fin.ofNat 8 (bitsOf w 31 29)) (Fin.ofNat 32 (bitsOf w 22 18)) (Fin.ofNat 32 (bitsOf w 17 13)) (BitVec.ofNat 13 (bitsOf w 12 0)))

/-- OP 0x0b. -/
def decodeOpCltiu (w : Nat) : Decoded :=
  form true true
      (.cltiu (Fin.ofNat 8 (bitsOf w 31 29)) (Fin.ofNat 32 (bitsOf w 22 18)) (Fin.ofNat 32 (bitsOf w 17 13)) (BitVec.ofNat 13 (bitsOf w 12 0)))

/-- OP 0x0c. -/
def decodeOpAddi32 (w : Nat) : Decoded :=
  form true true
      (.addi32 (Fin.ofNat 8 (bitsOf w 31 29)) (Fin.ofNat 32 (bitsOf w 22 18)) (Fin.ofNat 32 (bitsOf w 17 13)) (BitVec.ofNat 13 (bitsOf w 12 0)))

/-- OP 0x0d. -/
def decodeOpImmhi (w : Nat) : Decoded :=
  form true true
      (.immhi (Fin.ofNat 8 (bitsOf w 31 29)) (Fin.ofNat 32 (bitsOf w 22 18)) (BitVec.ofNat 18 (bitsOf w 17 0)))

/-- OP 0x0e. -/
def decodeOpPcofs (w : Nat) : Decoded :=
  form true true
      (.pcofs (Fin.ofNat 8 (bitsOf w 31 29)) (Fin.ofNat 32 (bitsOf w 22 18)) (BitVec.ofNat 18 (bitsOf w 17 0)))

/-- OP 0x0f. -/
def decodeFp32 (w : Nat) : Decoded :=
  if bitsOf w 7 0 = 0 then
    form true true
      (.fadd (Fin.ofNat 8 (bitsOf w 31 29)) (Fin.ofNat 32 (bitsOf w 22 18)) (Fin.ofNat 32 (bitsOf w 17 13)) (Fin.ofNat 32 (bitsOf w 12 8)))
  else if bitsOf w 7 0 = 1 then
    form true true
      (.fsub (Fin.ofNat 8 (bitsOf w 31 29)) (Fin.ofNat 32 (bitsOf w 22 18)) (Fin.ofNat 32 (bitsOf w 17 13)) (Fin.ofNat 32 (bitsOf w 12 8)))
  else if bitsOf w 7 0 = 2 then
    form true true
      (.fmul (Fin.ofNat 8 (bitsOf w 31 29)) (Fin.ofNat 32 (bitsOf w 22 18)) (Fin.ofNat 32 (bitsOf w 17 13)) (Fin.ofNat 32 (bitsOf w 12 8)))
  else if bitsOf w 7 0 = 3 then
    form true true
      (.fmin (Fin.ofNat 8 (bitsOf w 31 29)) (Fin.ofNat 32 (bitsOf w 22 18)) (Fin.ofNat 32 (bitsOf w 17 13)) (Fin.ofNat 32 (bitsOf w 12 8)))
  else if bitsOf w 7 0 = 4 then
    form true true
      (.fmax (Fin.ofNat 8 (bitsOf w 31 29)) (Fin.ofNat 32 (bitsOf w 22 18)) (Fin.ofNat 32 (bitsOf w 17 13)) (Fin.ofNat 32 (bitsOf w 12 8)))
  else if bitsOf w 7 0 = 5 then
    form true true
      (.feq (Fin.ofNat 8 (bitsOf w 31 29)) (Fin.ofNat 32 (bitsOf w 22 18)) (Fin.ofNat 32 (bitsOf w 17 13)) (Fin.ofNat 32 (bitsOf w 12 8)))
  else if bitsOf w 7 0 = 6 then
    form true true
      (.flt (Fin.ofNat 8 (bitsOf w 31 29)) (Fin.ofNat 32 (bitsOf w 22 18)) (Fin.ofNat 32 (bitsOf w 17 13)) (Fin.ofNat 32 (bitsOf w 12 8)))
  else if bitsOf w 7 0 = 7 then
    form true true
      (.fle (Fin.ofNat 8 (bitsOf w 31 29)) (Fin.ofNat 32 (bitsOf w 22 18)) (Fin.ofNat 32 (bitsOf w 17 13)) (Fin.ofNat 32 (bitsOf w 12 8)))
  else if bitsOf w 7 0 = 8 then
    form true (bitsOf w 12 8 == 0)
      (.fclass (Fin.ofNat 8 (bitsOf w 31 29)) (Fin.ofNat 32 (bitsOf w 22 18)) (Fin.ofNat 32 (bitsOf w 17 13)))
  else if bitsOf w 7 0 = 9 then
    form true true
      (.fsign (Fin.ofNat 8 (bitsOf w 31 29)) (Fin.ofNat 32 (bitsOf w 22 18)) (Fin.ofNat 32 (bitsOf w 17 13)) (Fin.ofNat 32 (bitsOf w 12 8)))
  else if bitsOf w 7 0 = 10 then
    form true true
      (.fdiv (Fin.ofNat 8 (bitsOf w 31 29)) (Fin.ofNat 32 (bitsOf w 22 18)) (Fin.ofNat 32 (bitsOf w 17 13)) (Fin.ofNat 32 (bitsOf w 12 8)))
  else if bitsOf w 7 0 = 11 then
    form true (bitsOf w 12 8 == 0)
      (.fsqrt (Fin.ofNat 8 (bitsOf w 31 29)) (Fin.ofNat 32 (bitsOf w 22 18)) (Fin.ofNat 32 (bitsOf w 17 13)))
  else if bitsOf w 7 0 = 12 then
    form true (bitsOf w 12 8 == 0)
      (.fabs (Fin.ofNat 8 (bitsOf w 31 29)) (Fin.ofNat 32 (bitsOf w 22 18)) (Fin.ofNat 32 (bitsOf w 17 13)))
  else if bitsOf w 7 0 = 13 then
    form true (bitsOf w 12 8 == 0)
      (.fneg (Fin.ofNat 8 (bitsOf w 31 29)) (Fin.ofNat 32 (bitsOf w 22 18)) (Fin.ofNat 32 (bitsOf w 17 13)))
  else if bitsOf w 7 4 = 1 then
    form (decide ((bitsOf w 3 0) ≤ 9)) (bitsOf w 12 8 == 0)
      (.fcvt (Fin.ofNat 8 (bitsOf w 31 29)) (Fin.ofNat 32 (bitsOf w 22 18)) (Fin.ofNat 32 (bitsOf w 17 13)) (Fin.ofNat 16 (bitsOf w 3 0)))
  else if bitsOf w 7 5 = 7 then
    form true true
      (.fmadd (Fin.ofNat 8 (bitsOf w 31 29)) (Fin.ofNat 32 (bitsOf w 22 18)) (Fin.ofNat 32 (bitsOf w 17 13)) (Fin.ofNat 32 (bitsOf w 12 8)) (Fin.ofNat 32 (bitsOf w 4 0)))
  else .illegal

/-- OP 0x10. -/
def decodeOpBeq (w : Nat) : Decoded :=
  form true true
      (.beq (Fin.ofNat 8 (bitsOf w 31 29)) (Fin.ofNat 32 (bitsOf w 22 18)) (Fin.ofNat 32 (bitsOf w 17 13)) (BitVec.ofNat 13 (bitsOf w 12 0)))

/-- OP 0x11. -/
def decodeOpBne (w : Nat) : Decoded :=
  form true true
      (.bne (Fin.ofNat 8 (bitsOf w 31 29)) (Fin.ofNat 32 (bitsOf w 22 18)) (Fin.ofNat 32 (bitsOf w 17 13)) (BitVec.ofNat 13 (bitsOf w 12 0)))

/-- OP 0x12. -/
def decodeOpBlt (w : Nat) : Decoded :=
  form true true
      (.blt (Fin.ofNat 8 (bitsOf w 31 29)) (Fin.ofNat 32 (bitsOf w 22 18)) (Fin.ofNat 32 (bitsOf w 17 13)) (BitVec.ofNat 13 (bitsOf w 12 0)))

/-- OP 0x13. -/
def decodeOpBge (w : Nat) : Decoded :=
  form true true
      (.bge (Fin.ofNat 8 (bitsOf w 31 29)) (Fin.ofNat 32 (bitsOf w 22 18)) (Fin.ofNat 32 (bitsOf w 17 13)) (BitVec.ofNat 13 (bitsOf w 12 0)))

/-- OP 0x14. -/
def decodeOpBltu (w : Nat) : Decoded :=
  form true true
      (.bltu (Fin.ofNat 8 (bitsOf w 31 29)) (Fin.ofNat 32 (bitsOf w 22 18)) (Fin.ofNat 32 (bitsOf w 17 13)) (BitVec.ofNat 13 (bitsOf w 12 0)))

/-- OP 0x15. -/
def decodeOpBgeu (w : Nat) : Decoded :=
  form true true
      (.bgeu (Fin.ofNat 8 (bitsOf w 31 29)) (Fin.ofNat 32 (bitsOf w 22 18)) (Fin.ofNat 32 (bitsOf w 17 13)) (BitVec.ofNat 13 (bitsOf w 12 0)))

/-- OP 0x16. -/
def decodeOpJal (w : Nat) : Decoded :=
  form true true
      (.jal (Fin.ofNat 8 (bitsOf w 31 29)) (Fin.ofNat 32 (bitsOf w 22 18)) (BitVec.ofNat 18 (bitsOf w 17 0)))

/-- OP 0x17. -/
def decodeOpJalr (w : Nat) : Decoded :=
  form true true
      (.jalr (Fin.ofNat 8 (bitsOf w 31 29)) (Fin.ofNat 32 (bitsOf w 22 18)) (Fin.ofNat 32 (bitsOf w 17 13)) (BitVec.ofNat 13 (bitsOf w 12 0)))

/-- OP 0x18. -/
def decodeOpLb (w : Nat) : Decoded :=
  form true true
      (.lb (Fin.ofNat 8 (bitsOf w 31 29)) (Fin.ofNat 32 (bitsOf w 22 18)) (Fin.ofNat 32 (bitsOf w 17 13)) (BitVec.ofNat 13 (bitsOf w 12 0)))

/-- OP 0x19. -/
def decodeOpLh (w : Nat) : Decoded :=
  form true true
      (.lh (Fin.ofNat 8 (bitsOf w 31 29)) (Fin.ofNat 32 (bitsOf w 22 18)) (Fin.ofNat 32 (bitsOf w 17 13)) (BitVec.ofNat 13 (bitsOf w 12 0)))

/-- OP 0x1a. -/
def decodeOpLw (w : Nat) : Decoded :=
  form true true
      (.lw (Fin.ofNat 8 (bitsOf w 31 29)) (Fin.ofNat 32 (bitsOf w 22 18)) (Fin.ofNat 32 (bitsOf w 17 13)) (BitVec.ofNat 13 (bitsOf w 12 0)))

/-- OP 0x1b. -/
def decodeOpLd (w : Nat) : Decoded :=
  form true true
      (.ld (Fin.ofNat 8 (bitsOf w 31 29)) (Fin.ofNat 32 (bitsOf w 22 18)) (Fin.ofNat 32 (bitsOf w 17 13)) (BitVec.ofNat 13 (bitsOf w 12 0)))

/-- OP 0x1c. -/
def decodeOpLbu (w : Nat) : Decoded :=
  form true true
      (.lbu (Fin.ofNat 8 (bitsOf w 31 29)) (Fin.ofNat 32 (bitsOf w 22 18)) (Fin.ofNat 32 (bitsOf w 17 13)) (BitVec.ofNat 13 (bitsOf w 12 0)))

/-- OP 0x1d. -/
def decodeOpLhu (w : Nat) : Decoded :=
  form true true
      (.lhu (Fin.ofNat 8 (bitsOf w 31 29)) (Fin.ofNat 32 (bitsOf w 22 18)) (Fin.ofNat 32 (bitsOf w 17 13)) (BitVec.ofNat 13 (bitsOf w 12 0)))

/-- OP 0x1e. -/
def decodeOpLwu (w : Nat) : Decoded :=
  form true true
      (.lwu (Fin.ofNat 8 (bitsOf w 31 29)) (Fin.ofNat 32 (bitsOf w 22 18)) (Fin.ofNat 32 (bitsOf w 17 13)) (BitVec.ofNat 13 (bitsOf w 12 0)))

/-- OP 0x1f. -/
def decodeLdx (w : Nat) : Decoded :=
  form (decide ((bitsOf w 6 4) ≤ 4 ∧ ¬((bitsOf w 2 2) = 1 ∧ (bitsOf w 1 0) = 3))) (bitsOf w 12 8 == 0 && bitsOf w 3 3 == 0)
      (.ldx (Fin.ofNat 8 (bitsOf w 31 29)) (Fin.ofNat 32 (bitsOf w 22 18)) (Fin.ofNat 32 (bitsOf w 17 13)) (Fin.ofNat 2 (bitsOf w 7 7)) (Fin.ofNat 8 (bitsOf w 6 4)) (Fin.ofNat 2 (bitsOf w 2 2)) (Fin.ofNat 4 (bitsOf w 1 0)))

/-- OP 0x20. -/
def decodeOpSb (w : Nat) : Decoded :=
  form true true
      (.sb (Fin.ofNat 8 (bitsOf w 31 29)) (Fin.ofNat 32 (bitsOf w 22 18)) (Fin.ofNat 32 (bitsOf w 17 13)) (BitVec.ofNat 13 (bitsOf w 12 0)))

/-- OP 0x21. -/
def decodeOpSh (w : Nat) : Decoded :=
  form true true
      (.sh (Fin.ofNat 8 (bitsOf w 31 29)) (Fin.ofNat 32 (bitsOf w 22 18)) (Fin.ofNat 32 (bitsOf w 17 13)) (BitVec.ofNat 13 (bitsOf w 12 0)))

/-- OP 0x22. -/
def decodeOpSw (w : Nat) : Decoded :=
  form true true
      (.sw (Fin.ofNat 8 (bitsOf w 31 29)) (Fin.ofNat 32 (bitsOf w 22 18)) (Fin.ofNat 32 (bitsOf w 17 13)) (BitVec.ofNat 13 (bitsOf w 12 0)))

/-- OP 0x23. -/
def decodeOpSd (w : Nat) : Decoded :=
  form true true
      (.sd (Fin.ofNat 8 (bitsOf w 31 29)) (Fin.ofNat 32 (bitsOf w 22 18)) (Fin.ofNat 32 (bitsOf w 17 13)) (BitVec.ofNat 13 (bitsOf w 12 0)))

/-- OP 0x24. -/
def decodeStx (w : Nat) : Decoded :=
  form (decide ((bitsOf w 6 4) ≤ 4)) (bitsOf w 22 18 == 0 && bitsOf w 3 2 == 0)
      (.stx (Fin.ofNat 8 (bitsOf w 31 29)) (Fin.ofNat 32 (bitsOf w 17 13)) (Fin.ofNat 32 (bitsOf w 12 8)) (Fin.ofNat 2 (bitsOf w 7 7)) (Fin.ofNat 8 (bitsOf w 6 4)) (Fin.ofNat 4 (bitsOf w 1 0)))

/-- OP 0x25. -/
def decodeAtomic (w : Nat) : Decoded :=
  if bitsOf w 7 3 = 1 then
    form (decide ((bitsOf w 2 0) ≠ 7)) true
      (.amoadd (Fin.ofNat 8 (bitsOf w 31 29)) (Fin.ofNat 32 (bitsOf w 22 18)) (Fin.ofNat 32 (bitsOf w 17 13)) (Fin.ofNat 32 (bitsOf w 12 8)) (Fin.ofNat 8 (bitsOf w 2 0)))
  else if bitsOf w 7 3 = 0 then
    form (decide ((bitsOf w 2 0) ≠ 7)) true
      (.amoaddw (Fin.ofNat 8 (bitsOf w 31 29)) (Fin.ofNat 32 (bitsOf w 22 18)) (Fin.ofNat 32 (bitsOf w 17 13)) (Fin.ofNat 32 (bitsOf w 12 8)) (Fin.ofNat 8 (bitsOf w 2 0)))
  else if bitsOf w 7 3 = 3 then
    form (decide ((bitsOf w 2 0) ≠ 7)) true
      (.amoand (Fin.ofNat 8 (bitsOf w 31 29)) (Fin.ofNat 32 (bitsOf w 22 18)) (Fin.ofNat 32 (bitsOf w 17 13)) (Fin.ofNat 32 (bitsOf w 12 8)) (Fin.ofNat 8 (bitsOf w 2 0)))
  else if bitsOf w 7 3 = 2 then
    form (decide ((bitsOf w 2 0) ≠ 7)) true
      (.amoandw (Fin.ofNat 8 (bitsOf w 31 29)) (Fin.ofNat 32 (bitsOf w 22 18)) (Fin.ofNat 32 (bitsOf w 17 13)) (Fin.ofNat 32 (bitsOf w 12 8)) (Fin.ofNat 8 (bitsOf w 2 0)))
  else if bitsOf w 7 3 = 5 then
    form (decide ((bitsOf w 2 0) ≠ 7)) true
      (.amoor (Fin.ofNat 8 (bitsOf w 31 29)) (Fin.ofNat 32 (bitsOf w 22 18)) (Fin.ofNat 32 (bitsOf w 17 13)) (Fin.ofNat 32 (bitsOf w 12 8)) (Fin.ofNat 8 (bitsOf w 2 0)))
  else if bitsOf w 7 3 = 4 then
    form (decide ((bitsOf w 2 0) ≠ 7)) true
      (.amoorw (Fin.ofNat 8 (bitsOf w 31 29)) (Fin.ofNat 32 (bitsOf w 22 18)) (Fin.ofNat 32 (bitsOf w 17 13)) (Fin.ofNat 32 (bitsOf w 12 8)) (Fin.ofNat 8 (bitsOf w 2 0)))
  else if bitsOf w 7 3 = 7 then
    form (decide ((bitsOf w 2 0) ≠ 7)) true
      (.amoxor (Fin.ofNat 8 (bitsOf w 31 29)) (Fin.ofNat 32 (bitsOf w 22 18)) (Fin.ofNat 32 (bitsOf w 17 13)) (Fin.ofNat 32 (bitsOf w 12 8)) (Fin.ofNat 8 (bitsOf w 2 0)))
  else if bitsOf w 7 3 = 6 then
    form (decide ((bitsOf w 2 0) ≠ 7)) true
      (.amoxorw (Fin.ofNat 8 (bitsOf w 31 29)) (Fin.ofNat 32 (bitsOf w 22 18)) (Fin.ofNat 32 (bitsOf w 17 13)) (Fin.ofNat 32 (bitsOf w 12 8)) (Fin.ofNat 8 (bitsOf w 2 0)))
  else if bitsOf w 7 3 = 9 then
    form (decide ((bitsOf w 2 0) ≠ 7)) true
      (.amomin (Fin.ofNat 8 (bitsOf w 31 29)) (Fin.ofNat 32 (bitsOf w 22 18)) (Fin.ofNat 32 (bitsOf w 17 13)) (Fin.ofNat 32 (bitsOf w 12 8)) (Fin.ofNat 8 (bitsOf w 2 0)))
  else if bitsOf w 7 3 = 8 then
    form (decide ((bitsOf w 2 0) ≠ 7)) true
      (.amominw (Fin.ofNat 8 (bitsOf w 31 29)) (Fin.ofNat 32 (bitsOf w 22 18)) (Fin.ofNat 32 (bitsOf w 17 13)) (Fin.ofNat 32 (bitsOf w 12 8)) (Fin.ofNat 8 (bitsOf w 2 0)))
  else if bitsOf w 7 3 = 11 then
    form (decide ((bitsOf w 2 0) ≠ 7)) true
      (.amomax (Fin.ofNat 8 (bitsOf w 31 29)) (Fin.ofNat 32 (bitsOf w 22 18)) (Fin.ofNat 32 (bitsOf w 17 13)) (Fin.ofNat 32 (bitsOf w 12 8)) (Fin.ofNat 8 (bitsOf w 2 0)))
  else if bitsOf w 7 3 = 10 then
    form (decide ((bitsOf w 2 0) ≠ 7)) true
      (.amomaxw (Fin.ofNat 8 (bitsOf w 31 29)) (Fin.ofNat 32 (bitsOf w 22 18)) (Fin.ofNat 32 (bitsOf w 17 13)) (Fin.ofNat 32 (bitsOf w 12 8)) (Fin.ofNat 8 (bitsOf w 2 0)))
  else if bitsOf w 7 3 = 13 then
    form (decide ((bitsOf w 2 0) ≠ 7)) true
      (.amominu (Fin.ofNat 8 (bitsOf w 31 29)) (Fin.ofNat 32 (bitsOf w 22 18)) (Fin.ofNat 32 (bitsOf w 17 13)) (Fin.ofNat 32 (bitsOf w 12 8)) (Fin.ofNat 8 (bitsOf w 2 0)))
  else if bitsOf w 7 3 = 12 then
    form (decide ((bitsOf w 2 0) ≠ 7)) true
      (.amominuw (Fin.ofNat 8 (bitsOf w 31 29)) (Fin.ofNat 32 (bitsOf w 22 18)) (Fin.ofNat 32 (bitsOf w 17 13)) (Fin.ofNat 32 (bitsOf w 12 8)) (Fin.ofNat 8 (bitsOf w 2 0)))
  else if bitsOf w 7 3 = 15 then
    form (decide ((bitsOf w 2 0) ≠ 7)) true
      (.amomaxu (Fin.ofNat 8 (bitsOf w 31 29)) (Fin.ofNat 32 (bitsOf w 22 18)) (Fin.ofNat 32 (bitsOf w 17 13)) (Fin.ofNat 32 (bitsOf w 12 8)) (Fin.ofNat 8 (bitsOf w 2 0)))
  else if bitsOf w 7 3 = 14 then
    form (decide ((bitsOf w 2 0) ≠ 7)) true
      (.amomaxuw (Fin.ofNat 8 (bitsOf w 31 29)) (Fin.ofNat 32 (bitsOf w 22 18)) (Fin.ofNat 32 (bitsOf w 17 13)) (Fin.ofNat 32 (bitsOf w 12 8)) (Fin.ofNat 8 (bitsOf w 2 0)))
  else if bitsOf w 7 3 = 17 then
    form (decide ((bitsOf w 2 0) ≠ 7)) true
      (.amoswap (Fin.ofNat 8 (bitsOf w 31 29)) (Fin.ofNat 32 (bitsOf w 22 18)) (Fin.ofNat 32 (bitsOf w 17 13)) (Fin.ofNat 32 (bitsOf w 12 8)) (Fin.ofNat 8 (bitsOf w 2 0)))
  else if bitsOf w 7 3 = 16 then
    form (decide ((bitsOf w 2 0) ≠ 7)) true
      (.amoswapw (Fin.ofNat 8 (bitsOf w 31 29)) (Fin.ofNat 32 (bitsOf w 22 18)) (Fin.ofNat 32 (bitsOf w 17 13)) (Fin.ofNat 32 (bitsOf w 12 8)) (Fin.ofNat 8 (bitsOf w 2 0)))
  else if bitsOf w 7 3 = 18 then
    form (decide ((bitsOf w 2 0) ≠ 7)) true
      (.amofadd (Fin.ofNat 8 (bitsOf w 31 29)) (Fin.ofNat 32 (bitsOf w 22 18)) (Fin.ofNat 32 (bitsOf w 17 13)) (Fin.ofNat 32 (bitsOf w 12 8)) (Fin.ofNat 8 (bitsOf w 2 0)))
  else .illegal

/-- OP 0x26. -/
def decodeCas (w : Nat) : Decoded :=
  form (decide ((bitsOf w 7 5) ≠ 7)) true
      (.cas (Fin.ofNat 8 (bitsOf w 31 29)) (Fin.ofNat 32 (bitsOf w 22 18)) (Fin.ofNat 32 (bitsOf w 17 13)) (Fin.ofNat 32 (bitsOf w 12 8)) (Fin.ofNat 8 (bitsOf w 7 5)) (Fin.ofNat 32 (bitsOf w 4 0)))

/-- OP 0x27. -/
def decodeRed (w : Nat) : Decoded :=
  form (decide (ordRed (bitsOf w 22 20) ∧ redPair (bitsOf w 7 4) (bitsOf w 3 0))) (bitsOf w 19 18 == 0)
      (.red (Fin.ofNat 8 (bitsOf w 31 29)) (Fin.ofNat 8 (bitsOf w 22 20)) (Fin.ofNat 32 (bitsOf w 17 13)) (Fin.ofNat 32 (bitsOf w 12 8)) (Fin.ofNat 16 (bitsOf w 7 4)) (Fin.ofNat 16 (bitsOf w 3 0)))

/-- OP 0x28. -/
def decodeFence (w : Nat) : Decoded :=
  if bitsOf w 7 5 = 0 then
    form (decide ((bitsOf w 4 4) + (bitsOf w 3 3) ≠ 0 ∧ (bitsOf w 2 0) ≤ 4)) (bitsOf w 22 8 == 0)
      (.fence (Fin.ofNat 8 (bitsOf w 31 29)) (Fin.ofNat 2 (bitsOf w 4 4)) (Fin.ofNat 2 (bitsOf w 3 3)) (Fin.ofNat 8 (bitsOf w 2 0)))
  else if bitsOf w 7 0 = 32 then
    form true (bitsOf w 22 18 == 0)
      (.cln (Fin.ofNat 8 (bitsOf w 31 29)) (Fin.ofNat 32 (bitsOf w 17 13)) (Fin.ofNat 32 (bitsOf w 12 8)))
  else if bitsOf w 7 0 = 33 then
    form true (bitsOf w 22 18 == 0)
      (.inv (Fin.ofNat 8 (bitsOf w 31 29)) (Fin.ofNat 32 (bitsOf w 17 13)) (Fin.ofNat 32 (bitsOf w 12 8)))
  else if bitsOf w 7 3 = 6 then
    form (decide ((bitsOf w 2 0) ≤ 4)) true
      (.waita (Fin.ofNat 8 (bitsOf w 31 29)) (Fin.ofNat 32 (bitsOf w 22 18)) (Fin.ofNat 32 (bitsOf w 17 13)) (Fin.ofNat 32 (bitsOf w 12 8)) (Fin.ofNat 8 (bitsOf w 2 0)))
  else .illegal

/-- OP 0x29. -/
def decodeFuture (w : Nat) : Decoded :=
  if bitsOf w 7 3 = 0 then
    form (decide ((bitsOf w 2 0) ≤ 3)) (bitsOf w 12 8 == 0)
      (.ldf (Fin.ofNat 8 (bitsOf w 31 29)) (Fin.ofNat 32 (bitsOf w 22 18)) (Fin.ofNat 32 (bitsOf w 17 13)) (Fin.ofNat 8 (bitsOf w 2 0)))
  else if bitsOf w 7 3 = 1 then
    form (decide (ordRed (bitsOf w 2 0))) true
      (.stf (Fin.ofNat 8 (bitsOf w 31 29)) (Fin.ofNat 32 (bitsOf w 22 18)) (Fin.ofNat 32 (bitsOf w 17 13)) (Fin.ofNat 32 (bitsOf w 12 8)) (Fin.ofNat 8 (bitsOf w 2 0)))
  else .illegal

/-- OP 0x2a. -/
def decodeTask (w : Nat) : Decoded :=
  if bitsOf w 7 0 = 0 then
    form true (bitsOf w 22 18 == 0)
      (.spawn (Fin.ofNat 8 (bitsOf w 31 29)) (Fin.ofNat 32 (bitsOf w 17 13)) (Fin.ofNat 32 (bitsOf w 12 8)))
  else if bitsOf w 7 0 = 1 then
    form true (bitsOf w 22 8 == 0)
      (.endTask (Fin.ofNat 8 (bitsOf w 31 29)))
  else if bitsOf w 7 0 = 2 then
    form true true
      (.park (Fin.ofNat 8 (bitsOf w 31 29)) (Fin.ofNat 32 (bitsOf w 22 18)) (Fin.ofNat 32 (bitsOf w 17 13)) (Fin.ofNat 32 (bitsOf w 12 8)))
  else if bitsOf w 7 0 = 3 then
    form true (bitsOf w 22 8 == 0)
      (.yield (Fin.ofNat 8 (bitsOf w 31 29)))
  else if bitsOf w 7 0 = 4 then
    form true true
      (.qput (Fin.ofNat 8 (bitsOf w 31 29)) (Fin.ofNat 32 (bitsOf w 22 18)) (Fin.ofNat 32 (bitsOf w 17 13)) (Fin.ofNat 32 (bitsOf w 12 8)))
  else if bitsOf w 7 0 = 5 then
    form true (bitsOf w 12 8 == 0)
      (.cancel (Fin.ofNat 8 (bitsOf w 31 29)) (Fin.ofNat 32 (bitsOf w 22 18)) (Fin.ofNat 32 (bitsOf w 17 13)))
  else .illegal

/-- OP 0x2b. -/
def decodeGroup (w : Nat) : Decoded :=
  if bitsOf w 7 0 = 0 then
    form true (bitsOf w 12 8 == 0)
      (.join (Fin.ofNat 8 (bitsOf w 31 29)) (Fin.ofNat 32 (bitsOf w 22 18)) (Fin.ofNat 32 (bitsOf w 17 13)))
  else if bitsOf w 7 0 = 8 then
    form true (bitsOf w 12 8 == 0)
      (.leave (Fin.ofNat 8 (bitsOf w 31 29)) (Fin.ofNat 32 (bitsOf w 22 18)) (Fin.ofNat 32 (bitsOf w 17 13)))
  else if bitsOf w 7 0 = 16 then
    form true true
      (.bari (Fin.ofNat 8 (bitsOf w 31 29)) (Fin.ofNat 32 (bitsOf w 22 18)) (Fin.ofNat 32 (bitsOf w 17 13)) (Fin.ofNat 32 (bitsOf w 12 8)))
  else if bitsOf w 7 3 = 3 then
    form (decide ((bitsOf w 2 0) ≤ 4)) (bitsOf w 12 8 == 0)
      (.barv (Fin.ofNat 8 (bitsOf w 31 29)) (Fin.ofNat 32 (bitsOf w 22 18)) (Fin.ofNat 32 (bitsOf w 17 13)) (Fin.ofNat 8 (bitsOf w 2 0)))
  else if bitsOf w 7 0 = 32 then
    form true true
      (.barw (Fin.ofNat 8 (bitsOf w 31 29)) (Fin.ofNat 32 (bitsOf w 22 18)) (Fin.ofNat 32 (bitsOf w 17 13)) (Fin.ofNat 32 (bitsOf w 12 8)))
  else .illegal

/-- OP 0x2c. -/
def decodeBound (w : Nat) : Decoded :=
  if bitsOf w 7 0 = 0 then
    form true true
      (.spawnb (Fin.ofNat 8 (bitsOf w 31 29)) (Fin.ofNat 32 (bitsOf w 22 18)) (Fin.ofNat 32 (bitsOf w 17 13)) (Fin.ofNat 32 (bitsOf w 12 8)))
  else if bitsOf w 7 0 = 1 then
    form true (bitsOf w 12 12 == 0)
      (.setbnd (Fin.ofNat 8 (bitsOf w 31 29)) (Fin.ofNat 32 (bitsOf w 22 18)) (Fin.ofNat 32 (bitsOf w 17 13)) (Fin.ofNat 16 (bitsOf w 11 8)))
  else if bitsOf w 7 0 = 2 then
    form true (bitsOf w 22 8 == 0)
      (.killpt (Fin.ofNat 8 (bitsOf w 31 29)))
  else if bitsOf w 7 0 = 3 then
    form true (bitsOf w 12 12 == 0)
      (.improve (Fin.ofNat 8 (bitsOf w 31 29)) (Fin.ofNat 32 (bitsOf w 22 18)) (Fin.ofNat 32 (bitsOf w 17 13)) (Fin.ofNat 16 (bitsOf w 11 8)))
  else if bitsOf w 7 2 = 1 then
    form true (bitsOf w 17 12 == 0)
      (.rdinc (Fin.ofNat 8 (bitsOf w 31 29)) (Fin.ofNat 32 (bitsOf w 22 18)) (Fin.ofNat 16 (bitsOf w 11 8)) (Fin.ofNat 2 (bitsOf w 1 1)) (Fin.ofNat 2 (bitsOf w 0 0)))
  else if bitsOf w 7 0 = 8 then
    form true true
      (.incset (Fin.ofNat 8 (bitsOf w 31 29)) (Fin.ofNat 32 (bitsOf w 22 18)) (Fin.ofNat 32 (bitsOf w 17 13)) (Fin.ofNat 32 (bitsOf w 12 8)))
  else .illegal

/-- OP 0x2d. -/
def decodeHire (w : Nat) : Decoded :=
  if bitsOf w 7 0 = 0 then
    form true true
      (.hire (Fin.ofNat 8 (bitsOf w 31 29)) (Fin.ofNat 32 (bitsOf w 22 18)) (Fin.ofNat 32 (bitsOf w 17 13)) (Fin.ofNat 32 (bitsOf w 12 8)))
  else .illegal

/-- OP 0x2e. -/
def decodeHirex (w : Nat) : Decoded :=
  if bitsOf w 7 3 = 0 then
    form true (bitsOf w 22 18 == 0 && bitsOf w 12 8 == 0)
      (.hgw (Fin.ofNat 8 (bitsOf w 31 29)) (Fin.ofNat 32 (bitsOf w 17 13)) (Fin.ofNat 8 (bitsOf w 2 0)))
  else if bitsOf w 7 3 = 2 then
    form true (bitsOf w 17 8 == 0)
      (.hgr (Fin.ofNat 8 (bitsOf w 31 29)) (Fin.ofNat 32 (bitsOf w 22 18)) (Fin.ofNat 8 (bitsOf w 2 0)))
  else if bitsOf w 7 1 = 16 then
    form true (bitsOf w 12 8 == 0)
      (.hwait (Fin.ofNat 8 (bitsOf w 31 29)) (Fin.ofNat 32 (bitsOf w 22 18)) (Fin.ofNat 32 (bitsOf w 17 13)) (Fin.ofNat 2 (bitsOf w 0 0)))
  else if bitsOf w 7 0 = 48 then
    form true (bitsOf w 12 8 == 0)
      (.hstat (Fin.ofNat 8 (bitsOf w 31 29)) (Fin.ofNat 32 (bitsOf w 22 18)) (Fin.ofNat 32 (bitsOf w 17 13)))
  else if bitsOf w 7 0 = 64 then
    form true true
      (.bind (Fin.ofNat 8 (bitsOf w 31 29)) (Fin.ofNat 32 (bitsOf w 22 18)) (Fin.ofNat 32 (bitsOf w 17 13)) (Fin.ofNat 32 (bitsOf w 12 8)))
  else if bitsOf w 7 0 = 80 then
    form true true
      (.unbind (Fin.ofNat 8 (bitsOf w 31 29)) (Fin.ofNat 32 (bitsOf w 22 18)) (Fin.ofNat 32 (bitsOf w 17 13)) (Fin.ofNat 32 (bitsOf w 12 8)))
  else if bitsOf w 7 0 = 96 then
    form true (bitsOf w 22 18 == 0)
      (.burst (Fin.ofNat 8 (bitsOf w 31 29)) (Fin.ofNat 32 (bitsOf w 17 13)) (Fin.ofNat 32 (bitsOf w 12 8)))
  else .illegal

/-- OP 0x2f. -/
def decodeCopyx (w : Nat) : Decoded :=
  if bitsOf w 7 1 = 0 then
    form true (bitsOf w 12 8 == 0)
      (.cpwait (Fin.ofNat 8 (bitsOf w 31 29)) (Fin.ofNat 32 (bitsOf w 22 18)) (Fin.ofNat 32 (bitsOf w 17 13)) (Fin.ofNat 2 (bitsOf w 0 0)))
  else if bitsOf w 7 0 = 16 then
    form true (bitsOf w 12 8 == 0)
      (.cpst (Fin.ofNat 8 (bitsOf w 31 29)) (Fin.ofNat 32 (bitsOf w 22 18)) (Fin.ofNat 32 (bitsOf w 17 13)))
  else if bitsOf w 7 0 = 32 then
    form true (bitsOf w 12 8 == 0)
      (.ringsub (Fin.ofNat 8 (bitsOf w 31 29)) (Fin.ofNat 32 (bitsOf w 22 18)) (Fin.ofNat 32 (bitsOf w 17 13)))
  else if bitsOf w 7 0 = 33 then
    form true (bitsOf w 12 8 == 0)
      (.ringstop (Fin.ofNat 8 (bitsOf w 31 29)) (Fin.ofNat 32 (bitsOf w 22 18)) (Fin.ofNat 32 (bitsOf w 17 13)))
  else if bitsOf w 7 0 = 48 then
    form true true
      (.mrowCopy (Fin.ofNat 8 (bitsOf w 31 29)) (Fin.ofNat 32 (bitsOf w 22 18)) (Fin.ofNat 32 (bitsOf w 17 13)) (Fin.ofNat 32 (bitsOf w 12 8)))
  else if bitsOf w 7 0 = 49 then
    form true (bitsOf w 12 8 == 0)
      (.mrowZero (Fin.ofNat 8 (bitsOf w 31 29)) (Fin.ofNat 32 (bitsOf w 22 18)) (Fin.ofNat 32 (bitsOf w 17 13)))
  else if bitsOf w 7 0 = 64 then
    form true true
      (.lzput (Fin.ofNat 8 (bitsOf w 31 29)) (Fin.ofNat 32 (bitsOf w 22 18)) (Fin.ofNat 32 (bitsOf w 17 13)) (Fin.ofNat 32 (bitsOf w 12 8)))
  else if bitsOf w 7 0 = 80 then
    form true (bitsOf w 12 8 == 0)
      (.coll (Fin.ofNat 8 (bitsOf w 31 29)) (Fin.ofNat 32 (bitsOf w 22 18)) (Fin.ofNat 32 (bitsOf w 17 13)))
  else .illegal

/-- OP 0x30. -/
def decodeVctl (w : Nat) : Decoded :=
  if bitsOf w 6 0 = 0 then
    form (decide ((bitsOf w 20 19) ≤ (bitsOf w 22 21))) (bitsOf w 13 7 == 0)
      (.vclaimTry (Fin.ofNat 8 (bitsOf w 31 29)) (Fin.ofNat 4 (bitsOf w 22 21)) (Fin.ofNat 4 (bitsOf w 20 19)) (Fin.ofNat 32 (bitsOf w 18 14)))
  else if bitsOf w 6 0 = 1 then
    form (decide ((bitsOf w 20 19) ≤ (bitsOf w 22 21))) (bitsOf w 13 7 == 0)
      (.vclaimWait (Fin.ofNat 8 (bitsOf w 31 29)) (Fin.ofNat 4 (bitsOf w 22 21)) (Fin.ofNat 4 (bitsOf w 20 19)) (Fin.ofNat 32 (bitsOf w 18 14)))
  else if bitsOf w 6 0 = 2 then
    form (decide ((bitsOf w 20 19) ≤ (bitsOf w 22 21))) (bitsOf w 13 7 == 0)
      (.vren (Fin.ofNat 8 (bitsOf w 31 29)) (Fin.ofNat 4 (bitsOf w 22 21)) (Fin.ofNat 4 (bitsOf w 20 19)) (Fin.ofNat 32 (bitsOf w 18 14)))
  else if bitsOf w 6 0 = 3 then
    form true (bitsOf w 22 7 == 0)
      (.vrel (Fin.ofNat 8 (bitsOf w 31 29)))
  else .illegal

/-- OP 0x31. -/
def decodeVmem (w : Nat) : Decoded :=
  if bitsOf w 6 4 = 0 then
    form (decide ((bitsOf w 1 0) ≤ 2)) (bitsOf w 13 9 == 0 && bitsOf w 3 2 == 0)
      (.vld (Fin.ofNat 8 (bitsOf w 31 29)) (Fin.ofNat 16 (bitsOf w 22 19)) (Fin.ofNat 32 (bitsOf w 18 14)) (Fin.ofNat 4 (bitsOf w 8 7)) (Fin.ofNat 4 (bitsOf w 1 0)))
  else if bitsOf w 6 4 = 1 then
    form (decide ((bitsOf w 1 0) ≤ 2)) (bitsOf w 3 2 == 0)
      (.vlds (Fin.ofNat 8 (bitsOf w 31 29)) (Fin.ofNat 16 (bitsOf w 22 19)) (Fin.ofNat 32 (bitsOf w 18 14)) (Fin.ofNat 32 (bitsOf w 13 9)) (Fin.ofNat 4 (bitsOf w 8 7)) (Fin.ofNat 4 (bitsOf w 1 0)))
  else if bitsOf w 6 4 = 2 then
    form (decide ((bitsOf w 1 0) ≤ 2)) (bitsOf w 13 13 == 0 && bitsOf w 3 2 == 0)
      (.vldx (Fin.ofNat 8 (bitsOf w 31 29)) (Fin.ofNat 16 (bitsOf w 22 19)) (Fin.ofNat 32 (bitsOf w 18 14)) (Fin.ofNat 16 (bitsOf w 12 9)) (Fin.ofNat 4 (bitsOf w 8 7)) (Fin.ofNat 4 (bitsOf w 1 0)))
  else if bitsOf w 6 4 = 4 then
    form (decide ((bitsOf w 1 0) ≤ 2)) (bitsOf w 13 9 == 0 && bitsOf w 3 2 == 0)
      (.vst (Fin.ofNat 8 (bitsOf w 31 29)) (Fin.ofNat 16 (bitsOf w 22 19)) (Fin.ofNat 32 (bitsOf w 18 14)) (Fin.ofNat 4 (bitsOf w 8 7)) (Fin.ofNat 4 (bitsOf w 1 0)))
  else if bitsOf w 6 4 = 5 then
    form (decide ((bitsOf w 1 0) ≤ 2)) (bitsOf w 3 2 == 0)
      (.vsts (Fin.ofNat 8 (bitsOf w 31 29)) (Fin.ofNat 16 (bitsOf w 22 19)) (Fin.ofNat 32 (bitsOf w 18 14)) (Fin.ofNat 32 (bitsOf w 13 9)) (Fin.ofNat 4 (bitsOf w 8 7)) (Fin.ofNat 4 (bitsOf w 1 0)))
  else if bitsOf w 6 4 = 6 then
    form (decide ((bitsOf w 1 0) ≤ 2)) (bitsOf w 13 13 == 0 && bitsOf w 3 2 == 0)
      (.vstx (Fin.ofNat 8 (bitsOf w 31 29)) (Fin.ofNat 16 (bitsOf w 22 19)) (Fin.ofNat 32 (bitsOf w 18 14)) (Fin.ofNat 16 (bitsOf w 12 9)) (Fin.ofNat 4 (bitsOf w 8 7)) (Fin.ofNat 4 (bitsOf w 1 0)))
  else .illegal

/-- OP 0x32. -/
def decodeVint (w : Nat) : Decoded :=
  if bitsOf w 7 0 = 0 then
    form true (bitsOf w 10 10 == 0)
      (.vaddVv (Fin.ofNat 8 (bitsOf w 31 29)) (Fin.ofNat 16 (bitsOf w 22 19)) (Fin.ofNat 16 (bitsOf w 18 15)) (Fin.ofNat 16 (bitsOf w 14 11)) (Fin.ofNat 4 (bitsOf w 9 8)))
  else if bitsOf w 7 0 = 128 then
    form true true
      (.vaddVx (Fin.ofNat 8 (bitsOf w 31 29)) (Fin.ofNat 16 (bitsOf w 22 19)) (Fin.ofNat 16 (bitsOf w 18 15)) (Fin.ofNat 32 (bitsOf w 14 10)) (Fin.ofNat 4 (bitsOf w 9 8)))
  else if bitsOf w 7 0 = 1 then
    form true (bitsOf w 10 10 == 0)
      (.vsubVv (Fin.ofNat 8 (bitsOf w 31 29)) (Fin.ofNat 16 (bitsOf w 22 19)) (Fin.ofNat 16 (bitsOf w 18 15)) (Fin.ofNat 16 (bitsOf w 14 11)) (Fin.ofNat 4 (bitsOf w 9 8)))
  else if bitsOf w 7 0 = 129 then
    form true true
      (.vsubVx (Fin.ofNat 8 (bitsOf w 31 29)) (Fin.ofNat 16 (bitsOf w 22 19)) (Fin.ofNat 16 (bitsOf w 18 15)) (Fin.ofNat 32 (bitsOf w 14 10)) (Fin.ofNat 4 (bitsOf w 9 8)))
  else if bitsOf w 7 0 = 2 then
    form true (bitsOf w 10 10 == 0)
      (.vmulVv (Fin.ofNat 8 (bitsOf w 31 29)) (Fin.ofNat 16 (bitsOf w 22 19)) (Fin.ofNat 16 (bitsOf w 18 15)) (Fin.ofNat 16 (bitsOf w 14 11)) (Fin.ofNat 4 (bitsOf w 9 8)))
  else if bitsOf w 7 0 = 130 then
    form true true
      (.vmulVx (Fin.ofNat 8 (bitsOf w 31 29)) (Fin.ofNat 16 (bitsOf w 22 19)) (Fin.ofNat 16 (bitsOf w 18 15)) (Fin.ofNat 32 (bitsOf w 14 10)) (Fin.ofNat 4 (bitsOf w 9 8)))
  else if bitsOf w 7 0 = 3 then
    form true (bitsOf w 10 10 == 0)
      (.vmulhVv (Fin.ofNat 8 (bitsOf w 31 29)) (Fin.ofNat 16 (bitsOf w 22 19)) (Fin.ofNat 16 (bitsOf w 18 15)) (Fin.ofNat 16 (bitsOf w 14 11)) (Fin.ofNat 4 (bitsOf w 9 8)))
  else if bitsOf w 7 0 = 131 then
    form true true
      (.vmulhVx (Fin.ofNat 8 (bitsOf w 31 29)) (Fin.ofNat 16 (bitsOf w 22 19)) (Fin.ofNat 16 (bitsOf w 18 15)) (Fin.ofNat 32 (bitsOf w 14 10)) (Fin.ofNat 4 (bitsOf w 9 8)))
  else if bitsOf w 7 0 = 4 then
    form true (bitsOf w 10 10 == 0)
      (.vminVv (Fin.ofNat 8 (bitsOf w 31 29)) (Fin.ofNat 16 (bitsOf w 22 19)) (Fin.ofNat 16 (bitsOf w 18 15)) (Fin.ofNat 16 (bitsOf w 14 11)) (Fin.ofNat 4 (bitsOf w 9 8)))
  else if bitsOf w 7 0 = 132 then
    form true true
      (.vminVx (Fin.ofNat 8 (bitsOf w 31 29)) (Fin.ofNat 16 (bitsOf w 22 19)) (Fin.ofNat 16 (bitsOf w 18 15)) (Fin.ofNat 32 (bitsOf w 14 10)) (Fin.ofNat 4 (bitsOf w 9 8)))
  else if bitsOf w 7 0 = 5 then
    form true (bitsOf w 10 10 == 0)
      (.vmaxVv (Fin.ofNat 8 (bitsOf w 31 29)) (Fin.ofNat 16 (bitsOf w 22 19)) (Fin.ofNat 16 (bitsOf w 18 15)) (Fin.ofNat 16 (bitsOf w 14 11)) (Fin.ofNat 4 (bitsOf w 9 8)))
  else if bitsOf w 7 0 = 133 then
    form true true
      (.vmaxVx (Fin.ofNat 8 (bitsOf w 31 29)) (Fin.ofNat 16 (bitsOf w 22 19)) (Fin.ofNat 16 (bitsOf w 18 15)) (Fin.ofNat 32 (bitsOf w 14 10)) (Fin.ofNat 4 (bitsOf w 9 8)))
  else if bitsOf w 7 0 = 6 then
    form true (bitsOf w 10 10 == 0)
      (.vminuVv (Fin.ofNat 8 (bitsOf w 31 29)) (Fin.ofNat 16 (bitsOf w 22 19)) (Fin.ofNat 16 (bitsOf w 18 15)) (Fin.ofNat 16 (bitsOf w 14 11)) (Fin.ofNat 4 (bitsOf w 9 8)))
  else if bitsOf w 7 0 = 134 then
    form true true
      (.vminuVx (Fin.ofNat 8 (bitsOf w 31 29)) (Fin.ofNat 16 (bitsOf w 22 19)) (Fin.ofNat 16 (bitsOf w 18 15)) (Fin.ofNat 32 (bitsOf w 14 10)) (Fin.ofNat 4 (bitsOf w 9 8)))
  else if bitsOf w 7 0 = 7 then
    form true (bitsOf w 10 10 == 0)
      (.vmaxuVv (Fin.ofNat 8 (bitsOf w 31 29)) (Fin.ofNat 16 (bitsOf w 22 19)) (Fin.ofNat 16 (bitsOf w 18 15)) (Fin.ofNat 16 (bitsOf w 14 11)) (Fin.ofNat 4 (bitsOf w 9 8)))
  else if bitsOf w 7 0 = 135 then
    form true true
      (.vmaxuVx (Fin.ofNat 8 (bitsOf w 31 29)) (Fin.ofNat 16 (bitsOf w 22 19)) (Fin.ofNat 16 (bitsOf w 18 15)) (Fin.ofNat 32 (bitsOf w 14 10)) (Fin.ofNat 4 (bitsOf w 9 8)))
  else if bitsOf w 7 0 = 8 then
    form true (bitsOf w 10 10 == 0)
      (.vandVv (Fin.ofNat 8 (bitsOf w 31 29)) (Fin.ofNat 16 (bitsOf w 22 19)) (Fin.ofNat 16 (bitsOf w 18 15)) (Fin.ofNat 16 (bitsOf w 14 11)) (Fin.ofNat 4 (bitsOf w 9 8)))
  else if bitsOf w 7 0 = 136 then
    form true true
      (.vandVx (Fin.ofNat 8 (bitsOf w 31 29)) (Fin.ofNat 16 (bitsOf w 22 19)) (Fin.ofNat 16 (bitsOf w 18 15)) (Fin.ofNat 32 (bitsOf w 14 10)) (Fin.ofNat 4 (bitsOf w 9 8)))
  else if bitsOf w 7 0 = 9 then
    form true (bitsOf w 10 10 == 0)
      (.vorVv (Fin.ofNat 8 (bitsOf w 31 29)) (Fin.ofNat 16 (bitsOf w 22 19)) (Fin.ofNat 16 (bitsOf w 18 15)) (Fin.ofNat 16 (bitsOf w 14 11)) (Fin.ofNat 4 (bitsOf w 9 8)))
  else if bitsOf w 7 0 = 137 then
    form true true
      (.vorVx (Fin.ofNat 8 (bitsOf w 31 29)) (Fin.ofNat 16 (bitsOf w 22 19)) (Fin.ofNat 16 (bitsOf w 18 15)) (Fin.ofNat 32 (bitsOf w 14 10)) (Fin.ofNat 4 (bitsOf w 9 8)))
  else if bitsOf w 7 0 = 10 then
    form true (bitsOf w 10 10 == 0)
      (.vxorVv (Fin.ofNat 8 (bitsOf w 31 29)) (Fin.ofNat 16 (bitsOf w 22 19)) (Fin.ofNat 16 (bitsOf w 18 15)) (Fin.ofNat 16 (bitsOf w 14 11)) (Fin.ofNat 4 (bitsOf w 9 8)))
  else if bitsOf w 7 0 = 138 then
    form true true
      (.vxorVx (Fin.ofNat 8 (bitsOf w 31 29)) (Fin.ofNat 16 (bitsOf w 22 19)) (Fin.ofNat 16 (bitsOf w 18 15)) (Fin.ofNat 32 (bitsOf w 14 10)) (Fin.ofNat 4 (bitsOf w 9 8)))
  else if bitsOf w 7 0 = 11 then
    form true (bitsOf w 10 10 == 0)
      (.vsllVv (Fin.ofNat 8 (bitsOf w 31 29)) (Fin.ofNat 16 (bitsOf w 22 19)) (Fin.ofNat 16 (bitsOf w 18 15)) (Fin.ofNat 16 (bitsOf w 14 11)) (Fin.ofNat 4 (bitsOf w 9 8)))
  else if bitsOf w 7 0 = 139 then
    form true true
      (.vsllVx (Fin.ofNat 8 (bitsOf w 31 29)) (Fin.ofNat 16 (bitsOf w 22 19)) (Fin.ofNat 16 (bitsOf w 18 15)) (Fin.ofNat 32 (bitsOf w 14 10)) (Fin.ofNat 4 (bitsOf w 9 8)))
  else if bitsOf w 7 0 = 12 then
    form true (bitsOf w 10 10 == 0)
      (.vsrlVv (Fin.ofNat 8 (bitsOf w 31 29)) (Fin.ofNat 16 (bitsOf w 22 19)) (Fin.ofNat 16 (bitsOf w 18 15)) (Fin.ofNat 16 (bitsOf w 14 11)) (Fin.ofNat 4 (bitsOf w 9 8)))
  else if bitsOf w 7 0 = 140 then
    form true true
      (.vsrlVx (Fin.ofNat 8 (bitsOf w 31 29)) (Fin.ofNat 16 (bitsOf w 22 19)) (Fin.ofNat 16 (bitsOf w 18 15)) (Fin.ofNat 32 (bitsOf w 14 10)) (Fin.ofNat 4 (bitsOf w 9 8)))
  else if bitsOf w 7 0 = 13 then
    form true (bitsOf w 10 10 == 0)
      (.vsraVv (Fin.ofNat 8 (bitsOf w 31 29)) (Fin.ofNat 16 (bitsOf w 22 19)) (Fin.ofNat 16 (bitsOf w 18 15)) (Fin.ofNat 16 (bitsOf w 14 11)) (Fin.ofNat 4 (bitsOf w 9 8)))
  else if bitsOf w 7 0 = 141 then
    form true true
      (.vsraVx (Fin.ofNat 8 (bitsOf w 31 29)) (Fin.ofNat 16 (bitsOf w 22 19)) (Fin.ofNat 16 (bitsOf w 18 15)) (Fin.ofNat 32 (bitsOf w 14 10)) (Fin.ofNat 4 (bitsOf w 9 8)))
  else .illegal

/-- OP 0x33. -/
def decodeVfp (w : Nat) : Decoded :=
  if bitsOf w 7 0 = 0 then
    form true (bitsOf w 10 10 == 0)
      (.vfaddVv (Fin.ofNat 8 (bitsOf w 31 29)) (Fin.ofNat 16 (bitsOf w 22 19)) (Fin.ofNat 16 (bitsOf w 18 15)) (Fin.ofNat 16 (bitsOf w 14 11)) (Fin.ofNat 4 (bitsOf w 9 8)))
  else if bitsOf w 7 0 = 128 then
    form true true
      (.vfaddVx (Fin.ofNat 8 (bitsOf w 31 29)) (Fin.ofNat 16 (bitsOf w 22 19)) (Fin.ofNat 16 (bitsOf w 18 15)) (Fin.ofNat 32 (bitsOf w 14 10)) (Fin.ofNat 4 (bitsOf w 9 8)))
  else if bitsOf w 7 0 = 1 then
    form true (bitsOf w 10 10 == 0)
      (.vfsubVv (Fin.ofNat 8 (bitsOf w 31 29)) (Fin.ofNat 16 (bitsOf w 22 19)) (Fin.ofNat 16 (bitsOf w 18 15)) (Fin.ofNat 16 (bitsOf w 14 11)) (Fin.ofNat 4 (bitsOf w 9 8)))
  else if bitsOf w 7 0 = 129 then
    form true true
      (.vfsubVx (Fin.ofNat 8 (bitsOf w 31 29)) (Fin.ofNat 16 (bitsOf w 22 19)) (Fin.ofNat 16 (bitsOf w 18 15)) (Fin.ofNat 32 (bitsOf w 14 10)) (Fin.ofNat 4 (bitsOf w 9 8)))
  else if bitsOf w 7 0 = 2 then
    form true (bitsOf w 10 10 == 0)
      (.vfmulVv (Fin.ofNat 8 (bitsOf w 31 29)) (Fin.ofNat 16 (bitsOf w 22 19)) (Fin.ofNat 16 (bitsOf w 18 15)) (Fin.ofNat 16 (bitsOf w 14 11)) (Fin.ofNat 4 (bitsOf w 9 8)))
  else if bitsOf w 7 0 = 130 then
    form true true
      (.vfmulVx (Fin.ofNat 8 (bitsOf w 31 29)) (Fin.ofNat 16 (bitsOf w 22 19)) (Fin.ofNat 16 (bitsOf w 18 15)) (Fin.ofNat 32 (bitsOf w 14 10)) (Fin.ofNat 4 (bitsOf w 9 8)))
  else if bitsOf w 7 0 = 3 then
    form true (bitsOf w 10 10 == 0)
      (.vfmaVv (Fin.ofNat 8 (bitsOf w 31 29)) (Fin.ofNat 16 (bitsOf w 22 19)) (Fin.ofNat 16 (bitsOf w 18 15)) (Fin.ofNat 16 (bitsOf w 14 11)) (Fin.ofNat 4 (bitsOf w 9 8)))
  else if bitsOf w 7 0 = 131 then
    form true true
      (.vfmaVx (Fin.ofNat 8 (bitsOf w 31 29)) (Fin.ofNat 16 (bitsOf w 22 19)) (Fin.ofNat 16 (bitsOf w 18 15)) (Fin.ofNat 32 (bitsOf w 14 10)) (Fin.ofNat 4 (bitsOf w 9 8)))
  else if bitsOf w 7 0 = 4 then
    form true (bitsOf w 10 10 == 0)
      (.vfnmaVv (Fin.ofNat 8 (bitsOf w 31 29)) (Fin.ofNat 16 (bitsOf w 22 19)) (Fin.ofNat 16 (bitsOf w 18 15)) (Fin.ofNat 16 (bitsOf w 14 11)) (Fin.ofNat 4 (bitsOf w 9 8)))
  else if bitsOf w 7 0 = 132 then
    form true true
      (.vfnmaVx (Fin.ofNat 8 (bitsOf w 31 29)) (Fin.ofNat 16 (bitsOf w 22 19)) (Fin.ofNat 16 (bitsOf w 18 15)) (Fin.ofNat 32 (bitsOf w 14 10)) (Fin.ofNat 4 (bitsOf w 9 8)))
  else if bitsOf w 7 0 = 5 then
    form true (bitsOf w 10 10 == 0)
      (.vfminVv (Fin.ofNat 8 (bitsOf w 31 29)) (Fin.ofNat 16 (bitsOf w 22 19)) (Fin.ofNat 16 (bitsOf w 18 15)) (Fin.ofNat 16 (bitsOf w 14 11)) (Fin.ofNat 4 (bitsOf w 9 8)))
  else if bitsOf w 7 0 = 133 then
    form true true
      (.vfminVx (Fin.ofNat 8 (bitsOf w 31 29)) (Fin.ofNat 16 (bitsOf w 22 19)) (Fin.ofNat 16 (bitsOf w 18 15)) (Fin.ofNat 32 (bitsOf w 14 10)) (Fin.ofNat 4 (bitsOf w 9 8)))
  else if bitsOf w 7 0 = 6 then
    form true (bitsOf w 10 10 == 0)
      (.vfmaxVv (Fin.ofNat 8 (bitsOf w 31 29)) (Fin.ofNat 16 (bitsOf w 22 19)) (Fin.ofNat 16 (bitsOf w 18 15)) (Fin.ofNat 16 (bitsOf w 14 11)) (Fin.ofNat 4 (bitsOf w 9 8)))
  else if bitsOf w 7 0 = 134 then
    form true true
      (.vfmaxVx (Fin.ofNat 8 (bitsOf w 31 29)) (Fin.ofNat 16 (bitsOf w 22 19)) (Fin.ofNat 16 (bitsOf w 18 15)) (Fin.ofNat 32 (bitsOf w 14 10)) (Fin.ofNat 4 (bitsOf w 9 8)))
  else .illegal

/-- OP 0x34. -/
def decodeVmisc (w : Nat) : Decoded :=
  if bitsOf w 7 4 = 0 then
    form (decide ((bitsOf w 20 19) ≠ 0 ∧ (bitsOf w 3 0) ≤ 9)) (bitsOf w 22 21 == 0 && bitsOf w 10 10 == 0)
      (.vcmpVv (Fin.ofNat 8 (bitsOf w 31 29)) (Fin.ofNat 4 (bitsOf w 20 19)) (Fin.ofNat 16 (bitsOf w 18 15)) (Fin.ofNat 16 (bitsOf w 14 11)) (Fin.ofNat 4 (bitsOf w 9 8)) (Fin.ofNat 16 (bitsOf w 3 0)))
  else if bitsOf w 7 4 = 8 then
    form (decide ((bitsOf w 20 19) ≠ 0 ∧ (bitsOf w 3 0) ≤ 9)) (bitsOf w 22 21 == 0)
      (.vcmpVx (Fin.ofNat 8 (bitsOf w 31 29)) (Fin.ofNat 4 (bitsOf w 20 19)) (Fin.ofNat 16 (bitsOf w 18 15)) (Fin.ofNat 32 (bitsOf w 14 10)) (Fin.ofNat 4 (bitsOf w 9 8)) (Fin.ofNat 16 (bitsOf w 3 0)))
  else if bitsOf w 7 0 = 16 then
    form (decide ((bitsOf w 9 8) ≠ 0)) (bitsOf w 10 10 == 0)
      (.vselVv (Fin.ofNat 8 (bitsOf w 31 29)) (Fin.ofNat 16 (bitsOf w 22 19)) (Fin.ofNat 16 (bitsOf w 18 15)) (Fin.ofNat 16 (bitsOf w 14 11)) (Fin.ofNat 4 (bitsOf w 9 8)))
  else if bitsOf w 7 0 = 144 then
    form (decide ((bitsOf w 9 8) ≠ 0)) true
      (.vselVx (Fin.ofNat 8 (bitsOf w 31 29)) (Fin.ofNat 16 (bitsOf w 22 19)) (Fin.ofNat 16 (bitsOf w 18 15)) (Fin.ofNat 32 (bitsOf w 14 10)) (Fin.ofNat 4 (bitsOf w 9 8)))
  else if bitsOf w 7 0 = 17 then
    form (decide ((bitsOf w 20 19) ≠ 0 ∧ (bitsOf w 16 15) ≠ 0 ∧ (bitsOf w 12 11) ≠ 0)) (bitsOf w 22 21 == 0 && bitsOf w 18 17 == 0 && bitsOf w 14 13 == 0 && bitsOf w 10 8 == 0)
      (.vmand (Fin.ofNat 8 (bitsOf w 31 29)) (Fin.ofNat 4 (bitsOf w 20 19)) (Fin.ofNat 4 (bitsOf w 16 15)) (Fin.ofNat 4 (bitsOf w 12 11)))
  else if bitsOf w 7 0 = 18 then
    form (decide ((bitsOf w 20 19) ≠ 0 ∧ (bitsOf w 16 15) ≠ 0 ∧ (bitsOf w 12 11) ≠ 0)) (bitsOf w 22 21 == 0 && bitsOf w 18 17 == 0 && bitsOf w 14 13 == 0 && bitsOf w 10 8 == 0)
      (.vmor (Fin.ofNat 8 (bitsOf w 31 29)) (Fin.ofNat 4 (bitsOf w 20 19)) (Fin.ofNat 4 (bitsOf w 16 15)) (Fin.ofNat 4 (bitsOf w 12 11)))
  else if bitsOf w 7 0 = 19 then
    form true (bitsOf w 10 10 == 0)
      (.vperm (Fin.ofNat 8 (bitsOf w 31 29)) (Fin.ofNat 16 (bitsOf w 22 19)) (Fin.ofNat 16 (bitsOf w 18 15)) (Fin.ofNat 16 (bitsOf w 14 11)) (Fin.ofNat 4 (bitsOf w 9 8)))
  else if bitsOf w 7 0 = 148 then
    form true true
      (.vslide (Fin.ofNat 8 (bitsOf w 31 29)) (Fin.ofNat 16 (bitsOf w 22 19)) (Fin.ofNat 16 (bitsOf w 18 15)) (Fin.ofNat 32 (bitsOf w 14 10)) (Fin.ofNat 4 (bitsOf w 9 8)))
  else if bitsOf w 7 0 = 149 then
    form true (bitsOf w 18 15 == 0)
      (.vbcast (Fin.ofNat 8 (bitsOf w 31 29)) (Fin.ofNat 16 (bitsOf w 22 19)) (Fin.ofNat 32 (bitsOf w 14 10)) (Fin.ofNat 4 (bitsOf w 9 8)))
  else if bitsOf w 7 0 = 150 then
    form true (bitsOf w 18 15 == 0 && bitsOf w 9 8 == 0)
      (.vmvxv (Fin.ofNat 8 (bitsOf w 31 29)) (Fin.ofNat 16 (bitsOf w 22 19)) (Fin.ofNat 32 (bitsOf w 14 10)))
  else if bitsOf w 7 0 = 151 then
    form true (bitsOf w 22 19 == 0 && bitsOf w 9 8 == 0)
      (.vmvvx (Fin.ofNat 8 (bitsOf w 31 29)) (Fin.ofNat 16 (bitsOf w 18 15)) (Fin.ofNat 32 (bitsOf w 14 10)))
  else if bitsOf w 7 4 = 2 then
    form (decide ((bitsOf w 3 0) ≤ 10)) (bitsOf w 14 10 == 0)
      (.vred (Fin.ofNat 8 (bitsOf w 31 29)) (Fin.ofNat 16 (bitsOf w 22 19)) (Fin.ofNat 16 (bitsOf w 18 15)) (Fin.ofNat 4 (bitsOf w 9 8)) (Fin.ofNat 16 (bitsOf w 3 0)))
  else .illegal

/-- OP 0x35. -/
def decodeVsfu (w : Nat) : Decoded :=
  if bitsOf w 7 0 = 0 then
    form true (bitsOf w 14 10 == 0)
      (.vexp2 (Fin.ofNat 8 (bitsOf w 31 29)) (Fin.ofNat 16 (bitsOf w 22 19)) (Fin.ofNat 16 (bitsOf w 18 15)) (Fin.ofNat 4 (bitsOf w 9 8)))
  else if bitsOf w 7 0 = 1 then
    form true (bitsOf w 14 10 == 0)
      (.vlog2 (Fin.ofNat 8 (bitsOf w 31 29)) (Fin.ofNat 16 (bitsOf w 22 19)) (Fin.ofNat 16 (bitsOf w 18 15)) (Fin.ofNat 4 (bitsOf w 9 8)))
  else if bitsOf w 7 0 = 2 then
    form true (bitsOf w 14 10 == 0)
      (.vrcp (Fin.ofNat 8 (bitsOf w 31 29)) (Fin.ofNat 16 (bitsOf w 22 19)) (Fin.ofNat 16 (bitsOf w 18 15)) (Fin.ofNat 4 (bitsOf w 9 8)))
  else if bitsOf w 7 0 = 3 then
    form true (bitsOf w 14 10 == 0)
      (.vrsq (Fin.ofNat 8 (bitsOf w 31 29)) (Fin.ofNat 16 (bitsOf w 22 19)) (Fin.ofNat 16 (bitsOf w 18 15)) (Fin.ofNat 4 (bitsOf w 9 8)))
  else if bitsOf w 7 0 = 4 then
    form true (bitsOf w 14 10 == 0)
      (.vsqrt (Fin.ofNat 8 (bitsOf w 31 29)) (Fin.ofNat 16 (bitsOf w 22 19)) (Fin.ofNat 16 (bitsOf w 18 15)) (Fin.ofNat 4 (bitsOf w 9 8)))
  else .illegal

/-- OP 0x36. -/
def decodeVcvt (w : Nat) : Decoded :=
  form true true
      (.vcvt (Fin.ofNat 8 (bitsOf w 31 29)) (Fin.ofNat 16 (bitsOf w 22 19)) (Fin.ofNat 16 (bitsOf w 18 15)) (Fin.ofNat 32 (bitsOf w 14 10)) (Fin.ofNat 4 (bitsOf w 9 8)) (Fin.ofNat 16 (bitsOf w 7 4)) (Fin.ofNat 16 (bitsOf w 3 0)))

/-- OP 0x37. -/
def decodePrefix (w : Nat) : Decoded :=
  form true (bitsOf w 31 29 == 0 && bitsOf w 3 0 == 0)
      (.fmt (Fin.ofNat 16 (bitsOf w 22 19)) (Fin.ofNat 16 (bitsOf w 18 15)) (Fin.ofNat 16 (bitsOf w 14 11)) (Fin.ofNat 8 (bitsOf w 10 8)) (Fin.ofNat 4 (bitsOf w 7 6)) (Fin.ofNat 2 (bitsOf w 5 5)) (Fin.ofNat 2 (bitsOf w 4 4)))

/-- OP 0x38. -/
def decodeWacc (w : Nat) : Decoded :=
  if bitsOf w 7 3 = 0 then
    form true (bitsOf w 22 15 == 0 && bitsOf w 9 8 == 0)
      (.waalloc (Fin.ofNat 8 (bitsOf w 31 29)) (Fin.ofNat 32 (bitsOf w 14 10)) (Fin.ofNat 8 (bitsOf w 2 0)))
  else if bitsOf w 7 3 = 2 then
    form true (bitsOf w 22 8 == 0)
      (.wafree (Fin.ofNat 8 (bitsOf w 31 29)) (Fin.ofNat 8 (bitsOf w 2 0)))
  else if bitsOf w 7 3 = 4 then
    form true (bitsOf w 22 15 == 0 && bitsOf w 9 8 == 0)
      (.waset (Fin.ofNat 8 (bitsOf w 31 29)) (Fin.ofNat 32 (bitsOf w 14 10)) (Fin.ofNat 8 (bitsOf w 2 0)))
  else if bitsOf w 7 3 = 6 then
    form true (bitsOf w 22 19 == 0 && bitsOf w 14 8 == 0)
      (.wapush (Fin.ofNat 8 (bitsOf w 31 29)) (Fin.ofNat 16 (bitsOf w 18 15)) (Fin.ofNat 8 (bitsOf w 2 0)))
  else if bitsOf w 7 3 = 8 then
    form true (bitsOf w 18 8 == 0)
      (.waread (Fin.ofNat 8 (bitsOf w 31 29)) (Fin.ofNat 16 (bitsOf w 22 19)) (Fin.ofNat 8 (bitsOf w 2 0)))
  else if bitsOf w 7 3 = 10 then
    form true (bitsOf w 22 8 == 0)
      (.waclr (Fin.ofNat 8 (bitsOf w 31 29)) (Fin.ofNat 8 (bitsOf w 2 0)))
  else .illegal

/-- OP 0x39. -/
def decodeKv (w : Nat) : Decoded :=
  if bitsOf w 7 0 = 0 then
    form true true
      (.kvhome (Fin.ofNat 8 (bitsOf w 31 29)) (Fin.ofNat 32 (bitsOf w 22 18)) (Fin.ofNat 32 (bitsOf w 17 13)) (Fin.ofNat 32 (bitsOf w 12 8)))
  else if bitsOf w 7 0 = 1 then
    form true true
      (.stub (Fin.ofNat 8 (bitsOf w 31 29)) (Fin.ofNat 32 (bitsOf w 22 18)) (Fin.ofNat 32 (bitsOf w 17 13)) (Fin.ofNat 32 (bitsOf w 12 8)))
  else if bitsOf w 7 0 = 2 then
    form true (bitsOf w 22 18 == 0)
      (.migrate (Fin.ofNat 8 (bitsOf w 31 29)) (Fin.ofNat 32 (bitsOf w 17 13)) (Fin.ofNat 32 (bitsOf w 12 8)))
  else if bitsOf w 7 0 = 128 then
    form true (bitsOf w 14 10 == 0)
      (.vsgn (Fin.ofNat 8 (bitsOf w 31 29)) (Fin.ofNat 16 (bitsOf w 22 19)) (Fin.ofNat 16 (bitsOf w 18 15)) (Fin.ofNat 4 (bitsOf w 9 8)))
  else if bitsOf w 7 6 = 3 then
    form (decide ((bitsOf w 20 19) ≠ 0 ∧ (bitsOf w 5 0) ≤ 32)) (bitsOf w 22 21 == 0 && bitsOf w 10 10 == 0)
      (.vham (Fin.ofNat 8 (bitsOf w 31 29)) (Fin.ofNat 4 (bitsOf w 20 19)) (Fin.ofNat 16 (bitsOf w 18 15)) (Fin.ofNat 16 (bitsOf w 14 11)) (Fin.ofNat 4 (bitsOf w 9 8)) (Fin.ofNat 64 (bitsOf w 5 0)))
  else .illegal

/-- OP 0x3a. -/
def decodeVideo (w : Nat) : Decoded :=
  if bitsOf w 7 0 = 0 then
    form true true
      (.vdec (Fin.ofNat 8 (bitsOf w 31 29)) (Fin.ofNat 32 (bitsOf w 22 18)) (Fin.ofNat 32 (bitsOf w 17 13)) (Fin.ofNat 32 (bitsOf w 12 8)))
  else if bitsOf w 7 1 = 8 then
    form true (bitsOf w 12 8 == 0)
      (.vdstat (Fin.ofNat 8 (bitsOf w 31 29)) (Fin.ofNat 32 (bitsOf w 22 18)) (Fin.ofNat 32 (bitsOf w 17 13)) (Fin.ofNat 2 (bitsOf w 0 0)))
  else .illegal

/-- OP 0x3b. -/
def decodeCsr (w : Nat) : Decoded :=
  if bitsOf w 12 11 = 0 then
    form (decide (csrAssigned (bitsOf w 10 0))) (bitsOf w 17 13 == 0)
      (.csrr (Fin.ofNat 8 (bitsOf w 31 29)) (Fin.ofNat 32 (bitsOf w 22 18)) (Fin.ofNat 2048 (bitsOf w 10 0)))
  else if bitsOf w 12 11 = 1 then
    form (decide (csrAssigned (bitsOf w 10 0))) true
      (.csrw (Fin.ofNat 8 (bitsOf w 31 29)) (Fin.ofNat 32 (bitsOf w 22 18)) (Fin.ofNat 32 (bitsOf w 17 13)) (Fin.ofNat 2048 (bitsOf w 10 0)))
  else if bitsOf w 12 11 = 2 then
    form (decide (csrAssigned (bitsOf w 10 0))) true
      (.csrs (Fin.ofNat 8 (bitsOf w 31 29)) (Fin.ofNat 32 (bitsOf w 22 18)) (Fin.ofNat 32 (bitsOf w 17 13)) (Fin.ofNat 2048 (bitsOf w 10 0)))
  else if bitsOf w 12 11 = 3 then
    form (decide (csrAssigned (bitsOf w 10 0))) true
      (.csrc (Fin.ofNat 8 (bitsOf w 31 29)) (Fin.ofNat 32 (bitsOf w 22 18)) (Fin.ofNat 32 (bitsOf w 17 13)) (Fin.ofNat 2048 (bitsOf w 10 0)))
  else .illegal

/-- OP 0x3c. -/
def decodeSys (w : Nat) : Decoded :=
  if bitsOf w 7 0 = 0 then
    form true (bitsOf w 12 8 == 0)
      (.trap (Fin.ofNat 8 (bitsOf w 31 29)) (Fin.ofNat 1024 (bitsOf w 22 13)))
  else if bitsOf w 7 0 = 1 then
    form true (bitsOf w 22 8 == 0)
      (.eret (Fin.ofNat 8 (bitsOf w 31 29)))
  else if bitsOf w 7 0 = 2 then
    form true (bitsOf w 12 8 == 0)
      (.brk (Fin.ofNat 8 (bitsOf w 31 29)) (Fin.ofNat 1024 (bitsOf w 22 13)))
  else if bitsOf w 7 0 = 3 then
    form true (bitsOf w 22 18 == 0 && bitsOf w 12 8 == 0)
      (.ifence (Fin.ofNat 8 (bitsOf w 31 29)) (Fin.ofNat 32 (bitsOf w 17 13)))
  else if bitsOf w 7 0 = 4 then
    form true (bitsOf w 12 8 == 0)
      (.ovld (Fin.ofNat 8 (bitsOf w 31 29)) (Fin.ofNat 32 (bitsOf w 22 18)) (Fin.ofNat 32 (bitsOf w 17 13)))
  else if bitsOf w 7 0 = 8 then
    form true (bitsOf w 12 8 == 0)
      (.lwait (Fin.ofNat 8 (bitsOf w 31 29)) (Fin.ofNat 32 (bitsOf w 22 18)) (Fin.ofNat 32 (bitsOf w 17 13)))
  else if bitsOf w 7 0 = 16 then
    form true true
      (.resume (Fin.ofNat 8 (bitsOf w 31 29)) (Fin.ofNat 32 (bitsOf w 22 18)) (Fin.ofNat 32 (bitsOf w 17 13)) (Fin.ofNat 32 (bitsOf w 12 8)))
  else if bitsOf w 7 0 = 17 then
    form true true
      (.tkill (Fin.ofNat 8 (bitsOf w 31 29)) (Fin.ofNat 32 (bitsOf w 22 18)) (Fin.ofNat 32 (bitsOf w 17 13)) (Fin.ofNat 32 (bitsOf w 12 8)))
  else .illegal

/-- The instruction that a 32-bit word holds (R91, R96, R97). -/
def decodeWord (w : Nat) : Decoded :=
  match bitsOf w 28 23 with
  | 0x01 => decodeAlu w
  | 0x02 => decodeAlu32 w
  | 0x03 => decodeMulDiv w
  | 0x04 => decodeBits w
  | 0x05 => decodeOpAddi w
  | 0x06 => decodeOpAndi w
  | 0x07 => decodeOpOri w
  | 0x08 => decodeOpXori w
  | 0x09 => decodeShiftImm w
  | 0x0a => decodeOpClti w
  | 0x0b => decodeOpCltiu w
  | 0x0c => decodeOpAddi32 w
  | 0x0d => decodeOpImmhi w
  | 0x0e => decodeOpPcofs w
  | 0x0f => decodeFp32 w
  | 0x10 => decodeOpBeq w
  | 0x11 => decodeOpBne w
  | 0x12 => decodeOpBlt w
  | 0x13 => decodeOpBge w
  | 0x14 => decodeOpBltu w
  | 0x15 => decodeOpBgeu w
  | 0x16 => decodeOpJal w
  | 0x17 => decodeOpJalr w
  | 0x18 => decodeOpLb w
  | 0x19 => decodeOpLh w
  | 0x1a => decodeOpLw w
  | 0x1b => decodeOpLd w
  | 0x1c => decodeOpLbu w
  | 0x1d => decodeOpLhu w
  | 0x1e => decodeOpLwu w
  | 0x1f => decodeLdx w
  | 0x20 => decodeOpSb w
  | 0x21 => decodeOpSh w
  | 0x22 => decodeOpSw w
  | 0x23 => decodeOpSd w
  | 0x24 => decodeStx w
  | 0x25 => decodeAtomic w
  | 0x26 => decodeCas w
  | 0x27 => decodeRed w
  | 0x28 => decodeFence w
  | 0x29 => decodeFuture w
  | 0x2a => decodeTask w
  | 0x2b => decodeGroup w
  | 0x2c => decodeBound w
  | 0x2d => decodeHire w
  | 0x2e => decodeHirex w
  | 0x2f => decodeCopyx w
  | 0x30 => decodeVctl w
  | 0x31 => decodeVmem w
  | 0x32 => decodeVint w
  | 0x33 => decodeVfp w
  | 0x34 => decodeVmisc w
  | 0x35 => decodeVsfu w
  | 0x36 => decodeVcvt w
  | 0x37 => decodePrefix w
  | 0x38 => decodeWacc w
  | 0x39 => decodeKv w
  | 0x3a => decodeVideo w
  | 0x3b => decodeCsr w
  | 0x3c => decodeSys w
  | _ => .illegal

/-- A word: its fixed bits, and fields each at its lowest bit. -/
def pack (fixed : Nat) : List (Nat × Nat) → Nat
  | [] => fixed
  | (v, lo) :: fs => v * 2 ^ lo + pack fixed fs

/-- The word of an instruction; a step of the machine has none. -/
def encode : Instr → Option Nat
  | .add st rd rs1 rs2 => some (pack 0x00800000 [(st.val, 29), (rd.val, 18), (rs1.val, 13), (rs2.val, 8)])
  | .sub st rd rs1 rs2 => some (pack 0x00800001 [(st.val, 29), (rd.val, 18), (rs1.val, 13), (rs2.val, 8)])
  | .and st rd rs1 rs2 => some (pack 0x00800002 [(st.val, 29), (rd.val, 18), (rs1.val, 13), (rs2.val, 8)])
  | .or st rd rs1 rs2 => some (pack 0x00800003 [(st.val, 29), (rd.val, 18), (rs1.val, 13), (rs2.val, 8)])
  | .xor st rd rs1 rs2 => some (pack 0x00800004 [(st.val, 29), (rd.val, 18), (rs1.val, 13), (rs2.val, 8)])
  | .sll st rd rs1 rs2 => some (pack 0x00800005 [(st.val, 29), (rd.val, 18), (rs1.val, 13), (rs2.val, 8)])
  | .srl st rd rs1 rs2 => some (pack 0x00800006 [(st.val, 29), (rd.val, 18), (rs1.val, 13), (rs2.val, 8)])
  | .sra st rd rs1 rs2 => some (pack 0x00800007 [(st.val, 29), (rd.val, 18), (rs1.val, 13), (rs2.val, 8)])
  | .min st rd rs1 rs2 => some (pack 0x0080000a [(st.val, 29), (rd.val, 18), (rs1.val, 13), (rs2.val, 8)])
  | .max st rd rs1 rs2 => some (pack 0x0080000b [(st.val, 29), (rd.val, 18), (rs1.val, 13), (rs2.val, 8)])
  | .minu st rd rs1 rs2 => some (pack 0x0080000c [(st.val, 29), (rd.val, 18), (rs1.val, 13), (rs2.val, 8)])
  | .maxu st rd rs1 rs2 => some (pack 0x0080000d [(st.val, 29), (rd.val, 18), (rs1.val, 13), (rs2.val, 8)])
  | .clz st rd rs1 => some (pack 0x00800010 [(st.val, 29), (rd.val, 18), (rs1.val, 13)])
  | .ctz st rd rs1 => some (pack 0x00800011 [(st.val, 29), (rd.val, 18), (rs1.val, 13)])
  | .popc st rd rs1 => some (pack 0x00800012 [(st.val, 29), (rd.val, 18), (rs1.val, 13)])
  | .cset st rd rs1 rs2 cond => some (pack 0x00800018 [(st.val, 29), (rd.val, 18), (rs1.val, 13), (rs2.val, 8), (cond.val, 0)])
  | .csetm st rd rs1 rs2 cond => some (pack 0x00800020 [(st.val, 29), (rd.val, 18), (rs1.val, 13), (rs2.val, 8), (cond.val, 0)])
  | .add32 st rd rs1 rs2 => some (pack 0x01000000 [(st.val, 29), (rd.val, 18), (rs1.val, 13), (rs2.val, 8)])
  | .sub32 st rd rs1 rs2 => some (pack 0x01000001 [(st.val, 29), (rd.val, 18), (rs1.val, 13), (rs2.val, 8)])
  | .sll32 st rd rs1 rs2 => some (pack 0x01000005 [(st.val, 29), (rd.val, 18), (rs1.val, 13), (rs2.val, 8)])
  | .srl32 st rd rs1 rs2 => some (pack 0x01000006 [(st.val, 29), (rd.val, 18), (rs1.val, 13), (rs2.val, 8)])
  | .sra32 st rd rs1 rs2 => some (pack 0x01000007 [(st.val, 29), (rd.val, 18), (rs1.val, 13), (rs2.val, 8)])
  | .add32z st rd rs1 rs2 => some (pack 0x01000010 [(st.val, 29), (rd.val, 18), (rs1.val, 13), (rs2.val, 8)])
  | .sub32z st rd rs1 rs2 => some (pack 0x01000011 [(st.val, 29), (rd.val, 18), (rs1.val, 13), (rs2.val, 8)])
  | .sll32z st rd rs1 rs2 => some (pack 0x01000015 [(st.val, 29), (rd.val, 18), (rs1.val, 13), (rs2.val, 8)])
  | .srl32z st rd rs1 rs2 => some (pack 0x01000016 [(st.val, 29), (rd.val, 18), (rs1.val, 13), (rs2.val, 8)])
  | .sra32z st rd rs1 rs2 => some (pack 0x01000017 [(st.val, 29), (rd.val, 18), (rs1.val, 13), (rs2.val, 8)])
  | .mul st rd rs1 rs2 => some (pack 0x01800000 [(st.val, 29), (rd.val, 18), (rs1.val, 13), (rs2.val, 8)])
  | .mulh st rd rs1 rs2 => some (pack 0x01800001 [(st.val, 29), (rd.val, 18), (rs1.val, 13), (rs2.val, 8)])
  | .mulhu st rd rs1 rs2 => some (pack 0x01800002 [(st.val, 29), (rd.val, 18), (rs1.val, 13), (rs2.val, 8)])
  | .div st rd rs1 rs2 => some (pack 0x01800004 [(st.val, 29), (rd.val, 18), (rs1.val, 13), (rs2.val, 8)])
  | .divu st rd rs1 rs2 => some (pack 0x01800005 [(st.val, 29), (rd.val, 18), (rs1.val, 13), (rs2.val, 8)])
  | .rem st rd rs1 rs2 => some (pack 0x01800006 [(st.val, 29), (rd.val, 18), (rs1.val, 13), (rs2.val, 8)])
  | .remu st rd rs1 rs2 => some (pack 0x01800007 [(st.val, 29), (rd.val, 18), (rs1.val, 13), (rs2.val, 8)])
  | .bext st rd rs1 lo len1 => some (pack 0x02000000 [(st.val, 29), (rd.val, 18), (rs1.val, 13), (lo.val, 6), (len1.val, 0)])
  | .bins st rd rs1 lo len1 => some (pack 0x02001000 [(st.val, 29), (rd.val, 18), (rs1.val, 13), (lo.val, 6), (len1.val, 0)])
  | .addi st rd rs1 imm => some (pack 0x02800000 [(st.val, 29), (rd.val, 18), (rs1.val, 13), (imm.toNat, 0)])
  | .andi st rd rs1 imm => some (pack 0x03000000 [(st.val, 29), (rd.val, 18), (rs1.val, 13), (imm.toNat, 0)])
  | .ori st rd rs1 imm => some (pack 0x03800000 [(st.val, 29), (rd.val, 18), (rs1.val, 13), (imm.toNat, 0)])
  | .xori st rd rs1 imm => some (pack 0x04000000 [(st.val, 29), (rd.val, 18), (rs1.val, 13), (imm.toNat, 0)])
  | .slli st rd rs1 sh => some (pack 0x04800000 [(st.val, 29), (rd.val, 18), (rs1.val, 13), (sh.val, 0)])
  | .srli st rd rs1 sh => some (pack 0x04800800 [(st.val, 29), (rd.val, 18), (rs1.val, 13), (sh.val, 0)])
  | .srai st rd rs1 sh => some (pack 0x04801000 [(st.val, 29), (rd.val, 18), (rs1.val, 13), (sh.val, 0)])
  | .clti st rd rs1 imm => some (pack 0x05000000 [(st.val, 29), (rd.val, 18), (rs1.val, 13), (imm.toNat, 0)])
  | .cltiu st rd rs1 imm => some (pack 0x05800000 [(st.val, 29), (rd.val, 18), (rs1.val, 13), (imm.toNat, 0)])
  | .addi32 st rd rs1 imm => some (pack 0x06000000 [(st.val, 29), (rd.val, 18), (rs1.val, 13), (imm.toNat, 0)])
  | .immhi st rd imm => some (pack 0x06800000 [(st.val, 29), (rd.val, 18), (imm.toNat, 0)])
  | .pcofs st rd imm => some (pack 0x07000000 [(st.val, 29), (rd.val, 18), (imm.toNat, 0)])
  | .fadd st rd rs1 rs2 => some (pack 0x07800000 [(st.val, 29), (rd.val, 18), (rs1.val, 13), (rs2.val, 8)])
  | .fsub st rd rs1 rs2 => some (pack 0x07800001 [(st.val, 29), (rd.val, 18), (rs1.val, 13), (rs2.val, 8)])
  | .fmul st rd rs1 rs2 => some (pack 0x07800002 [(st.val, 29), (rd.val, 18), (rs1.val, 13), (rs2.val, 8)])
  | .fmin st rd rs1 rs2 => some (pack 0x07800003 [(st.val, 29), (rd.val, 18), (rs1.val, 13), (rs2.val, 8)])
  | .fmax st rd rs1 rs2 => some (pack 0x07800004 [(st.val, 29), (rd.val, 18), (rs1.val, 13), (rs2.val, 8)])
  | .feq st rd rs1 rs2 => some (pack 0x07800005 [(st.val, 29), (rd.val, 18), (rs1.val, 13), (rs2.val, 8)])
  | .flt st rd rs1 rs2 => some (pack 0x07800006 [(st.val, 29), (rd.val, 18), (rs1.val, 13), (rs2.val, 8)])
  | .fle st rd rs1 rs2 => some (pack 0x07800007 [(st.val, 29), (rd.val, 18), (rs1.val, 13), (rs2.val, 8)])
  | .fclass st rd rs1 => some (pack 0x07800008 [(st.val, 29), (rd.val, 18), (rs1.val, 13)])
  | .fsign st rd rs1 rs2 => some (pack 0x07800009 [(st.val, 29), (rd.val, 18), (rs1.val, 13), (rs2.val, 8)])
  | .fdiv st rd rs1 rs2 => some (pack 0x0780000a [(st.val, 29), (rd.val, 18), (rs1.val, 13), (rs2.val, 8)])
  | .fsqrt st rd rs1 => some (pack 0x0780000b [(st.val, 29), (rd.val, 18), (rs1.val, 13)])
  | .fabs st rd rs1 => some (pack 0x0780000c [(st.val, 29), (rd.val, 18), (rs1.val, 13)])
  | .fneg st rd rs1 => some (pack 0x0780000d [(st.val, 29), (rd.val, 18), (rs1.val, 13)])
  | .fcvt st rd rs1 k => some (pack 0x07800010 [(st.val, 29), (rd.val, 18), (rs1.val, 13), (k.val, 0)])
  | .fmadd st rd rs1 rs2 rs3 => some (pack 0x078000e0 [(st.val, 29), (rd.val, 18), (rs1.val, 13), (rs2.val, 8), (rs3.val, 0)])
  | .beq st rs1 rs2 off => some (pack 0x08000000 [(st.val, 29), (rs1.val, 18), (rs2.val, 13), (off.toNat, 0)])
  | .bne st rs1 rs2 off => some (pack 0x08800000 [(st.val, 29), (rs1.val, 18), (rs2.val, 13), (off.toNat, 0)])
  | .blt st rs1 rs2 off => some (pack 0x09000000 [(st.val, 29), (rs1.val, 18), (rs2.val, 13), (off.toNat, 0)])
  | .bge st rs1 rs2 off => some (pack 0x09800000 [(st.val, 29), (rs1.val, 18), (rs2.val, 13), (off.toNat, 0)])
  | .bltu st rs1 rs2 off => some (pack 0x0a000000 [(st.val, 29), (rs1.val, 18), (rs2.val, 13), (off.toNat, 0)])
  | .bgeu st rs1 rs2 off => some (pack 0x0a800000 [(st.val, 29), (rs1.val, 18), (rs2.val, 13), (off.toNat, 0)])
  | .jal st rd off => some (pack 0x0b000000 [(st.val, 29), (rd.val, 18), (off.toNat, 0)])
  | .jalr st rd rs1 imm => some (pack 0x0b800000 [(st.val, 29), (rd.val, 18), (rs1.val, 13), (imm.toNat, 0)])
  | .lb st rd rs1 imm => some (pack 0x0c000000 [(st.val, 29), (rd.val, 18), (rs1.val, 13), (imm.toNat, 0)])
  | .lh st rd rs1 imm => some (pack 0x0c800000 [(st.val, 29), (rd.val, 18), (rs1.val, 13), (imm.toNat, 0)])
  | .lw st rd rs1 imm => some (pack 0x0d000000 [(st.val, 29), (rd.val, 18), (rs1.val, 13), (imm.toNat, 0)])
  | .ld st rd rs1 imm => some (pack 0x0d800000 [(st.val, 29), (rd.val, 18), (rs1.val, 13), (imm.toNat, 0)])
  | .lbu st rd rs1 imm => some (pack 0x0e000000 [(st.val, 29), (rd.val, 18), (rs1.val, 13), (imm.toNat, 0)])
  | .lhu st rd rs1 imm => some (pack 0x0e800000 [(st.val, 29), (rd.val, 18), (rs1.val, 13), (imm.toNat, 0)])
  | .lwu st rd rs1 imm => some (pack 0x0f000000 [(st.val, 29), (rd.val, 18), (rs1.val, 13), (imm.toNat, 0)])
  | .ldx st rd rs1 ord scope uns size => some (pack 0x0f800000 [(st.val, 29), (rd.val, 18), (rs1.val, 13), (ord.val, 7), (scope.val, 4), (uns.val, 2), (size.val, 0)])
  | .sb st rs1 rs2 imm => some (pack 0x10000000 [(st.val, 29), (rs1.val, 18), (rs2.val, 13), (imm.toNat, 0)])
  | .sh st rs1 rs2 imm => some (pack 0x10800000 [(st.val, 29), (rs1.val, 18), (rs2.val, 13), (imm.toNat, 0)])
  | .sw st rs1 rs2 imm => some (pack 0x11000000 [(st.val, 29), (rs1.val, 18), (rs2.val, 13), (imm.toNat, 0)])
  | .sd st rs1 rs2 imm => some (pack 0x11800000 [(st.val, 29), (rs1.val, 18), (rs2.val, 13), (imm.toNat, 0)])
  | .stx st rs1 rs2 ord scope size => some (pack 0x12000000 [(st.val, 29), (rs1.val, 13), (rs2.val, 8), (ord.val, 7), (scope.val, 4), (size.val, 0)])
  | .amoadd st rd rs1 rs2 ord => some (pack 0x12800008 [(st.val, 29), (rd.val, 18), (rs1.val, 13), (rs2.val, 8), (ord.val, 0)])
  | .amoaddw st rd rs1 rs2 ord => some (pack 0x12800000 [(st.val, 29), (rd.val, 18), (rs1.val, 13), (rs2.val, 8), (ord.val, 0)])
  | .amoand st rd rs1 rs2 ord => some (pack 0x12800018 [(st.val, 29), (rd.val, 18), (rs1.val, 13), (rs2.val, 8), (ord.val, 0)])
  | .amoandw st rd rs1 rs2 ord => some (pack 0x12800010 [(st.val, 29), (rd.val, 18), (rs1.val, 13), (rs2.val, 8), (ord.val, 0)])
  | .amoor st rd rs1 rs2 ord => some (pack 0x12800028 [(st.val, 29), (rd.val, 18), (rs1.val, 13), (rs2.val, 8), (ord.val, 0)])
  | .amoorw st rd rs1 rs2 ord => some (pack 0x12800020 [(st.val, 29), (rd.val, 18), (rs1.val, 13), (rs2.val, 8), (ord.val, 0)])
  | .amoxor st rd rs1 rs2 ord => some (pack 0x12800038 [(st.val, 29), (rd.val, 18), (rs1.val, 13), (rs2.val, 8), (ord.val, 0)])
  | .amoxorw st rd rs1 rs2 ord => some (pack 0x12800030 [(st.val, 29), (rd.val, 18), (rs1.val, 13), (rs2.val, 8), (ord.val, 0)])
  | .amomin st rd rs1 rs2 ord => some (pack 0x12800048 [(st.val, 29), (rd.val, 18), (rs1.val, 13), (rs2.val, 8), (ord.val, 0)])
  | .amominw st rd rs1 rs2 ord => some (pack 0x12800040 [(st.val, 29), (rd.val, 18), (rs1.val, 13), (rs2.val, 8), (ord.val, 0)])
  | .amomax st rd rs1 rs2 ord => some (pack 0x12800058 [(st.val, 29), (rd.val, 18), (rs1.val, 13), (rs2.val, 8), (ord.val, 0)])
  | .amomaxw st rd rs1 rs2 ord => some (pack 0x12800050 [(st.val, 29), (rd.val, 18), (rs1.val, 13), (rs2.val, 8), (ord.val, 0)])
  | .amominu st rd rs1 rs2 ord => some (pack 0x12800068 [(st.val, 29), (rd.val, 18), (rs1.val, 13), (rs2.val, 8), (ord.val, 0)])
  | .amominuw st rd rs1 rs2 ord => some (pack 0x12800060 [(st.val, 29), (rd.val, 18), (rs1.val, 13), (rs2.val, 8), (ord.val, 0)])
  | .amomaxu st rd rs1 rs2 ord => some (pack 0x12800078 [(st.val, 29), (rd.val, 18), (rs1.val, 13), (rs2.val, 8), (ord.val, 0)])
  | .amomaxuw st rd rs1 rs2 ord => some (pack 0x12800070 [(st.val, 29), (rd.val, 18), (rs1.val, 13), (rs2.val, 8), (ord.val, 0)])
  | .amoswap st rd rs1 rs2 ord => some (pack 0x12800088 [(st.val, 29), (rd.val, 18), (rs1.val, 13), (rs2.val, 8), (ord.val, 0)])
  | .amoswapw st rd rs1 rs2 ord => some (pack 0x12800080 [(st.val, 29), (rd.val, 18), (rs1.val, 13), (rs2.val, 8), (ord.val, 0)])
  | .amofadd st rd rs1 rs2 ord => some (pack 0x12800090 [(st.val, 29), (rd.val, 18), (rs1.val, 13), (rs2.val, 8), (ord.val, 0)])
  | .cas st rd rs1 rs2 ord rs3 => some (pack 0x13000000 [(st.val, 29), (rd.val, 18), (rs1.val, 13), (rs2.val, 8), (ord.val, 5), (rs3.val, 0)])
  | .red st ord rs1 rs2 rop fcode => some (pack 0x13800000 [(st.val, 29), (ord.val, 20), (rs1.val, 13), (rs2.val, 8), (rop.val, 4), (fcode.val, 0)])
  | .fence st rel acq scope => some (pack 0x14000000 [(st.val, 29), (rel.val, 4), (acq.val, 3), (scope.val, 0)])
  | .cln st rs1 rs2 => some (pack 0x14000020 [(st.val, 29), (rs1.val, 13), (rs2.val, 8)])
  | .inv st rs1 rs2 => some (pack 0x14000021 [(st.val, 29), (rs1.val, 13), (rs2.val, 8)])
  | .waita st rd rs1 rs2 scope => some (pack 0x14000030 [(st.val, 29), (rd.val, 18), (rs1.val, 13), (rs2.val, 8), (scope.val, 0)])
  | .ldf st rd rs1 ord => some (pack 0x14800000 [(st.val, 29), (rd.val, 18), (rs1.val, 13), (ord.val, 0)])
  | .stf st rd rs1 rs2 ord => some (pack 0x14800008 [(st.val, 29), (rd.val, 18), (rs1.val, 13), (rs2.val, 8), (ord.val, 0)])
  | .spawn st rs1 rs2 => some (pack 0x15000000 [(st.val, 29), (rs1.val, 13), (rs2.val, 8)])
  | .endTask st => some (pack 0x15000001 [(st.val, 29)])
  | .park st rd rs1 rs2 => some (pack 0x15000002 [(st.val, 29), (rd.val, 18), (rs1.val, 13), (rs2.val, 8)])
  | .yield st => some (pack 0x15000003 [(st.val, 29)])
  | .qput st rd rs1 rs2 => some (pack 0x15000004 [(st.val, 29), (rd.val, 18), (rs1.val, 13), (rs2.val, 8)])
  | .cancel st rd rs1 => some (pack 0x15000005 [(st.val, 29), (rd.val, 18), (rs1.val, 13)])
  | .join st rd rs1 => some (pack 0x15800000 [(st.val, 29), (rd.val, 18), (rs1.val, 13)])
  | .leave st rd rs1 => some (pack 0x15800008 [(st.val, 29), (rd.val, 18), (rs1.val, 13)])
  | .bari st rd rs1 rs2 => some (pack 0x15800010 [(st.val, 29), (rd.val, 18), (rs1.val, 13), (rs2.val, 8)])
  | .barv st rd rs1 scope => some (pack 0x15800018 [(st.val, 29), (rd.val, 18), (rs1.val, 13), (scope.val, 0)])
  | .barw st rd rs1 rs2 => some (pack 0x15800020 [(st.val, 29), (rd.val, 18), (rs1.val, 13), (rs2.val, 8)])
  | .spawnb st rd rs1 rs2 => some (pack 0x16000000 [(st.val, 29), (rd.val, 18), (rs1.val, 13), (rs2.val, 8)])
  | .setbnd st rd rs1 inc => some (pack 0x16000001 [(st.val, 29), (rd.val, 18), (rs1.val, 13), (inc.val, 8)])
  | .killpt st => some (pack 0x16000002 [(st.val, 29)])
  | .improve st rd rs1 inc => some (pack 0x16000003 [(st.val, 29), (rd.val, 18), (rs1.val, 13), (inc.val, 8)])
  | .rdinc st rd inc acq hub => some (pack 0x16000004 [(st.val, 29), (rd.val, 18), (inc.val, 8), (acq.val, 1), (hub.val, 0)])
  | .incset st rd rs1 rs2 => some (pack 0x16000008 [(st.val, 29), (rd.val, 18), (rs1.val, 13), (rs2.val, 8)])
  | .hire st rd rs1 rs2 => some (pack 0x16800000 [(st.val, 29), (rd.val, 18), (rs1.val, 13), (rs2.val, 8)])
  | .hgw st rs1 hg => some (pack 0x17000000 [(st.val, 29), (rs1.val, 13), (hg.val, 0)])
  | .hgr st rd hg => some (pack 0x17000010 [(st.val, 29), (rd.val, 18), (hg.val, 0)])
  | .hwait st rd rs1 e => some (pack 0x17000020 [(st.val, 29), (rd.val, 18), (rs1.val, 13), (e.val, 0)])
  | .hstat st rd rs1 => some (pack 0x17000030 [(st.val, 29), (rd.val, 18), (rs1.val, 13)])
  | .bind st rd rs1 rs2 => some (pack 0x17000040 [(st.val, 29), (rd.val, 18), (rs1.val, 13), (rs2.val, 8)])
  | .unbind st rd rs1 rs2 => some (pack 0x17000050 [(st.val, 29), (rd.val, 18), (rs1.val, 13), (rs2.val, 8)])
  | .burst st rs1 rs2 => some (pack 0x17000060 [(st.val, 29), (rs1.val, 13), (rs2.val, 8)])
  | .cpwait st rd rs1 e => some (pack 0x17800000 [(st.val, 29), (rd.val, 18), (rs1.val, 13), (e.val, 0)])
  | .cpst st rd rs1 => some (pack 0x17800010 [(st.val, 29), (rd.val, 18), (rs1.val, 13)])
  | .ringsub st rd rs1 => some (pack 0x17800020 [(st.val, 29), (rd.val, 18), (rs1.val, 13)])
  | .ringstop st rd rs1 => some (pack 0x17800021 [(st.val, 29), (rd.val, 18), (rs1.val, 13)])
  | .mrowCopy st rd rs1 rs2 => some (pack 0x17800030 [(st.val, 29), (rd.val, 18), (rs1.val, 13), (rs2.val, 8)])
  | .mrowZero st rd rs1 => some (pack 0x17800031 [(st.val, 29), (rd.val, 18), (rs1.val, 13)])
  | .lzput st rd rs1 rs2 => some (pack 0x17800040 [(st.val, 29), (rd.val, 18), (rs1.val, 13), (rs2.val, 8)])
  | .coll st rd rs1 => some (pack 0x17800050 [(st.val, 29), (rd.val, 18), (rs1.val, 13)])
  | .vclaimTry st lmax lmin xd => some (pack 0x18000000 [(st.val, 29), (lmax.val, 21), (lmin.val, 19), (xd.val, 14)])
  | .vclaimWait st lmax lmin xd => some (pack 0x18000001 [(st.val, 29), (lmax.val, 21), (lmin.val, 19), (xd.val, 14)])
  | .vren st lmax lmin xd => some (pack 0x18000002 [(st.val, 29), (lmax.val, 21), (lmin.val, 19), (xd.val, 14)])
  | .vrel st => some (pack 0x18000003 [(st.val, 29)])
  | .vld st v xs1 mk sz => some (pack 0x18800000 [(st.val, 29), (v.val, 19), (xs1.val, 14), (mk.val, 7), (sz.val, 0)])
  | .vlds st v xs1 xs2 mk sz => some (pack 0x18800010 [(st.val, 29), (v.val, 19), (xs1.val, 14), (xs2.val, 9), (mk.val, 7), (sz.val, 0)])
  | .vldx st v xs1 vi mk sz => some (pack 0x18800020 [(st.val, 29), (v.val, 19), (xs1.val, 14), (vi.val, 9), (mk.val, 7), (sz.val, 0)])
  | .vst st v xs1 mk sz => some (pack 0x18800040 [(st.val, 29), (v.val, 19), (xs1.val, 14), (mk.val, 7), (sz.val, 0)])
  | .vsts st v xs1 xs2 mk sz => some (pack 0x18800050 [(st.val, 29), (v.val, 19), (xs1.val, 14), (xs2.val, 9), (mk.val, 7), (sz.val, 0)])
  | .vstx st v xs1 vi mk sz => some (pack 0x18800060 [(st.val, 29), (v.val, 19), (xs1.val, 14), (vi.val, 9), (mk.val, 7), (sz.val, 0)])
  | .vaddVv st vd vs1 vs2 mk => some (pack 0x19000000 [(st.val, 29), (vd.val, 19), (vs1.val, 15), (vs2.val, 11), (mk.val, 8)])
  | .vaddVx st vd vs1 xs mk => some (pack 0x19000080 [(st.val, 29), (vd.val, 19), (vs1.val, 15), (xs.val, 10), (mk.val, 8)])
  | .vsubVv st vd vs1 vs2 mk => some (pack 0x19000001 [(st.val, 29), (vd.val, 19), (vs1.val, 15), (vs2.val, 11), (mk.val, 8)])
  | .vsubVx st vd vs1 xs mk => some (pack 0x19000081 [(st.val, 29), (vd.val, 19), (vs1.val, 15), (xs.val, 10), (mk.val, 8)])
  | .vmulVv st vd vs1 vs2 mk => some (pack 0x19000002 [(st.val, 29), (vd.val, 19), (vs1.val, 15), (vs2.val, 11), (mk.val, 8)])
  | .vmulVx st vd vs1 xs mk => some (pack 0x19000082 [(st.val, 29), (vd.val, 19), (vs1.val, 15), (xs.val, 10), (mk.val, 8)])
  | .vmulhVv st vd vs1 vs2 mk => some (pack 0x19000003 [(st.val, 29), (vd.val, 19), (vs1.val, 15), (vs2.val, 11), (mk.val, 8)])
  | .vmulhVx st vd vs1 xs mk => some (pack 0x19000083 [(st.val, 29), (vd.val, 19), (vs1.val, 15), (xs.val, 10), (mk.val, 8)])
  | .vminVv st vd vs1 vs2 mk => some (pack 0x19000004 [(st.val, 29), (vd.val, 19), (vs1.val, 15), (vs2.val, 11), (mk.val, 8)])
  | .vminVx st vd vs1 xs mk => some (pack 0x19000084 [(st.val, 29), (vd.val, 19), (vs1.val, 15), (xs.val, 10), (mk.val, 8)])
  | .vmaxVv st vd vs1 vs2 mk => some (pack 0x19000005 [(st.val, 29), (vd.val, 19), (vs1.val, 15), (vs2.val, 11), (mk.val, 8)])
  | .vmaxVx st vd vs1 xs mk => some (pack 0x19000085 [(st.val, 29), (vd.val, 19), (vs1.val, 15), (xs.val, 10), (mk.val, 8)])
  | .vminuVv st vd vs1 vs2 mk => some (pack 0x19000006 [(st.val, 29), (vd.val, 19), (vs1.val, 15), (vs2.val, 11), (mk.val, 8)])
  | .vminuVx st vd vs1 xs mk => some (pack 0x19000086 [(st.val, 29), (vd.val, 19), (vs1.val, 15), (xs.val, 10), (mk.val, 8)])
  | .vmaxuVv st vd vs1 vs2 mk => some (pack 0x19000007 [(st.val, 29), (vd.val, 19), (vs1.val, 15), (vs2.val, 11), (mk.val, 8)])
  | .vmaxuVx st vd vs1 xs mk => some (pack 0x19000087 [(st.val, 29), (vd.val, 19), (vs1.val, 15), (xs.val, 10), (mk.val, 8)])
  | .vandVv st vd vs1 vs2 mk => some (pack 0x19000008 [(st.val, 29), (vd.val, 19), (vs1.val, 15), (vs2.val, 11), (mk.val, 8)])
  | .vandVx st vd vs1 xs mk => some (pack 0x19000088 [(st.val, 29), (vd.val, 19), (vs1.val, 15), (xs.val, 10), (mk.val, 8)])
  | .vorVv st vd vs1 vs2 mk => some (pack 0x19000009 [(st.val, 29), (vd.val, 19), (vs1.val, 15), (vs2.val, 11), (mk.val, 8)])
  | .vorVx st vd vs1 xs mk => some (pack 0x19000089 [(st.val, 29), (vd.val, 19), (vs1.val, 15), (xs.val, 10), (mk.val, 8)])
  | .vxorVv st vd vs1 vs2 mk => some (pack 0x1900000a [(st.val, 29), (vd.val, 19), (vs1.val, 15), (vs2.val, 11), (mk.val, 8)])
  | .vxorVx st vd vs1 xs mk => some (pack 0x1900008a [(st.val, 29), (vd.val, 19), (vs1.val, 15), (xs.val, 10), (mk.val, 8)])
  | .vsllVv st vd vs1 vs2 mk => some (pack 0x1900000b [(st.val, 29), (vd.val, 19), (vs1.val, 15), (vs2.val, 11), (mk.val, 8)])
  | .vsllVx st vd vs1 xs mk => some (pack 0x1900008b [(st.val, 29), (vd.val, 19), (vs1.val, 15), (xs.val, 10), (mk.val, 8)])
  | .vsrlVv st vd vs1 vs2 mk => some (pack 0x1900000c [(st.val, 29), (vd.val, 19), (vs1.val, 15), (vs2.val, 11), (mk.val, 8)])
  | .vsrlVx st vd vs1 xs mk => some (pack 0x1900008c [(st.val, 29), (vd.val, 19), (vs1.val, 15), (xs.val, 10), (mk.val, 8)])
  | .vsraVv st vd vs1 vs2 mk => some (pack 0x1900000d [(st.val, 29), (vd.val, 19), (vs1.val, 15), (vs2.val, 11), (mk.val, 8)])
  | .vsraVx st vd vs1 xs mk => some (pack 0x1900008d [(st.val, 29), (vd.val, 19), (vs1.val, 15), (xs.val, 10), (mk.val, 8)])
  | .vfaddVv st vd vs1 vs2 mk => some (pack 0x19800000 [(st.val, 29), (vd.val, 19), (vs1.val, 15), (vs2.val, 11), (mk.val, 8)])
  | .vfaddVx st vd vs1 xs mk => some (pack 0x19800080 [(st.val, 29), (vd.val, 19), (vs1.val, 15), (xs.val, 10), (mk.val, 8)])
  | .vfsubVv st vd vs1 vs2 mk => some (pack 0x19800001 [(st.val, 29), (vd.val, 19), (vs1.val, 15), (vs2.val, 11), (mk.val, 8)])
  | .vfsubVx st vd vs1 xs mk => some (pack 0x19800081 [(st.val, 29), (vd.val, 19), (vs1.val, 15), (xs.val, 10), (mk.val, 8)])
  | .vfmulVv st vd vs1 vs2 mk => some (pack 0x19800002 [(st.val, 29), (vd.val, 19), (vs1.val, 15), (vs2.val, 11), (mk.val, 8)])
  | .vfmulVx st vd vs1 xs mk => some (pack 0x19800082 [(st.val, 29), (vd.val, 19), (vs1.val, 15), (xs.val, 10), (mk.val, 8)])
  | .vfmaVv st vd vs1 vs2 mk => some (pack 0x19800003 [(st.val, 29), (vd.val, 19), (vs1.val, 15), (vs2.val, 11), (mk.val, 8)])
  | .vfmaVx st vd vs1 xs mk => some (pack 0x19800083 [(st.val, 29), (vd.val, 19), (vs1.val, 15), (xs.val, 10), (mk.val, 8)])
  | .vfnmaVv st vd vs1 vs2 mk => some (pack 0x19800004 [(st.val, 29), (vd.val, 19), (vs1.val, 15), (vs2.val, 11), (mk.val, 8)])
  | .vfnmaVx st vd vs1 xs mk => some (pack 0x19800084 [(st.val, 29), (vd.val, 19), (vs1.val, 15), (xs.val, 10), (mk.val, 8)])
  | .vfminVv st vd vs1 vs2 mk => some (pack 0x19800005 [(st.val, 29), (vd.val, 19), (vs1.val, 15), (vs2.val, 11), (mk.val, 8)])
  | .vfminVx st vd vs1 xs mk => some (pack 0x19800085 [(st.val, 29), (vd.val, 19), (vs1.val, 15), (xs.val, 10), (mk.val, 8)])
  | .vfmaxVv st vd vs1 vs2 mk => some (pack 0x19800006 [(st.val, 29), (vd.val, 19), (vs1.val, 15), (vs2.val, 11), (mk.val, 8)])
  | .vfmaxVx st vd vs1 xs mk => some (pack 0x19800086 [(st.val, 29), (vd.val, 19), (vs1.val, 15), (xs.val, 10), (mk.val, 8)])
  | .vcmpVv st kd vs1 vs2 mk cc => some (pack 0x1a000000 [(st.val, 29), (kd.val, 19), (vs1.val, 15), (vs2.val, 11), (mk.val, 8), (cc.val, 0)])
  | .vcmpVx st kd vs1 xs mk cc => some (pack 0x1a000080 [(st.val, 29), (kd.val, 19), (vs1.val, 15), (xs.val, 10), (mk.val, 8), (cc.val, 0)])
  | .vselVv st vd vs1 vs2 mk => some (pack 0x1a000010 [(st.val, 29), (vd.val, 19), (vs1.val, 15), (vs2.val, 11), (mk.val, 8)])
  | .vselVx st vd vs1 xs mk => some (pack 0x1a000090 [(st.val, 29), (vd.val, 19), (vs1.val, 15), (xs.val, 10), (mk.val, 8)])
  | .vmand st kd ka kb => some (pack 0x1a000011 [(st.val, 29), (kd.val, 19), (ka.val, 15), (kb.val, 11)])
  | .vmor st kd ka kb => some (pack 0x1a000012 [(st.val, 29), (kd.val, 19), (ka.val, 15), (kb.val, 11)])
  | .vperm st vd vs1 vs2 mk => some (pack 0x1a000013 [(st.val, 29), (vd.val, 19), (vs1.val, 15), (vs2.val, 11), (mk.val, 8)])
  | .vslide st vd vs1 xs mk => some (pack 0x1a000094 [(st.val, 29), (vd.val, 19), (vs1.val, 15), (xs.val, 10), (mk.val, 8)])
  | .vbcast st vd xs mk => some (pack 0x1a000095 [(st.val, 29), (vd.val, 19), (xs.val, 10), (mk.val, 8)])
  | .vmvxv st vd xs => some (pack 0x1a000096 [(st.val, 29), (vd.val, 19), (xs.val, 10)])
  | .vmvvx st vs1 xd => some (pack 0x1a000097 [(st.val, 29), (vs1.val, 15), (xd.val, 10)])
  | .vred st vd vs1 mk rop => some (pack 0x1a000020 [(st.val, 29), (vd.val, 19), (vs1.val, 15), (mk.val, 8), (rop.val, 0)])
  | .vexp2 st vd vs1 mk => some (pack 0x1a800000 [(st.val, 29), (vd.val, 19), (vs1.val, 15), (mk.val, 8)])
  | .vlog2 st vd vs1 mk => some (pack 0x1a800001 [(st.val, 29), (vd.val, 19), (vs1.val, 15), (mk.val, 8)])
  | .vrcp st vd vs1 mk => some (pack 0x1a800002 [(st.val, 29), (vd.val, 19), (vs1.val, 15), (mk.val, 8)])
  | .vrsq st vd vs1 mk => some (pack 0x1a800003 [(st.val, 29), (vd.val, 19), (vs1.val, 15), (mk.val, 8)])
  | .vsqrt st vd vs1 mk => some (pack 0x1a800004 [(st.val, 29), (vd.val, 19), (vs1.val, 15), (mk.val, 8)])
  | .vcvt st vd vs1 xs mk src dst => some (pack 0x1b000000 [(st.val, 29), (vd.val, 19), (vs1.val, 15), (xs.val, 10), (mk.val, 8), (src.val, 4), (dst.val, 0)])
  | .fmt fa fb fd sc rm sat amax => some (pack 0x1b800000 [(fa.val, 19), (fb.val, 15), (fd.val, 11), (sc.val, 8), (rm.val, 6), (sat.val, 5), (amax.val, 4)])
  | .waalloc st xs wa => some (pack 0x1c000000 [(st.val, 29), (xs.val, 10), (wa.val, 0)])
  | .wafree st wa => some (pack 0x1c000010 [(st.val, 29), (wa.val, 0)])
  | .waset st xs wa => some (pack 0x1c000020 [(st.val, 29), (xs.val, 10), (wa.val, 0)])
  | .wapush st vs1 w => some (pack 0x1c000030 [(st.val, 29), (vs1.val, 15), (w.val, 0)])
  | .waread st vd w => some (pack 0x1c000040 [(st.val, 29), (vd.val, 19), (w.val, 0)])
  | .waclr st wa => some (pack 0x1c000050 [(st.val, 29), (wa.val, 0)])
  | .kvhome st rd rs1 rs2 => some (pack 0x1c800000 [(st.val, 29), (rd.val, 18), (rs1.val, 13), (rs2.val, 8)])
  | .stub st rd rs1 rs2 => some (pack 0x1c800001 [(st.val, 29), (rd.val, 18), (rs1.val, 13), (rs2.val, 8)])
  | .migrate st rs1 rs2 => some (pack 0x1c800002 [(st.val, 29), (rs1.val, 13), (rs2.val, 8)])
  | .vsgn st vd vs1 mk => some (pack 0x1c800080 [(st.val, 29), (vd.val, 19), (vs1.val, 15), (mk.val, 8)])
  | .vham st kd vs1 vs2 mk r => some (pack 0x1c8000c0 [(st.val, 29), (kd.val, 19), (vs1.val, 15), (vs2.val, 11), (mk.val, 8), (r.val, 0)])
  | .vdec st rd rs1 rs2 => some (pack 0x1d000000 [(st.val, 29), (rd.val, 18), (rs1.val, 13), (rs2.val, 8)])
  | .vdstat st rd rs1 e => some (pack 0x1d000010 [(st.val, 29), (rd.val, 18), (rs1.val, 13), (e.val, 0)])
  | .csrr st rd num => some (pack 0x1d800000 [(st.val, 29), (rd.val, 18), (num.val, 0)])
  | .csrw st rd rs1 num => some (pack 0x1d800800 [(st.val, 29), (rd.val, 18), (rs1.val, 13), (num.val, 0)])
  | .csrs st rd rs1 num => some (pack 0x1d801000 [(st.val, 29), (rd.val, 18), (rs1.val, 13), (num.val, 0)])
  | .csrc st rd rs1 num => some (pack 0x1d801800 [(st.val, 29), (rd.val, 18), (rs1.val, 13), (num.val, 0)])
  | .trap st code => some (pack 0x1e000000 [(st.val, 29), (code.val, 13)])
  | .eret st => some (pack 0x1e000001 [(st.val, 29)])
  | .brk st code => some (pack 0x1e000002 [(st.val, 29), (code.val, 13)])
  | .ifence st rs1 => some (pack 0x1e000003 [(st.val, 29), (rs1.val, 13)])
  | .ovld st rd rs1 => some (pack 0x1e000004 [(st.val, 29), (rd.val, 18), (rs1.val, 13)])
  | .lwait st rd rs1 => some (pack 0x1e000008 [(st.val, 29), (rd.val, 18), (rs1.val, 13)])
  | .resume st rd rs1 rs2 => some (pack 0x1e000010 [(st.val, 29), (rd.val, 18), (rs1.val, 13), (rs2.val, 8)])
  | .tkill st rd rs1 rs2 => some (pack 0x1e000011 [(st.val, 29), (rd.val, 18), (rs1.val, 13), (rs2.val, 8)])
  | .drain _ => none
  | .answer _ _ => none
  | .perform _ _ => none
  | .respond _ _ => none
  | .evict _ _ => none
  | .drop _ _ => none
  | .engineIssue _ => none
  | .engineEvent _ => none
  | .barrierAdjust _ _ => none
  | .futureWithdraw _ _ => none
  | .qtailWrite _ _ => none
  | .launchTake _ => none
  | .launchStart _ => none
  | .taskMessageSend _ => none
  | .messageResend _ => none
  | .completionRecordWrite _ => none
  | .cancelMark _ => none
  | .cancelArrive _ _ => none
  | .messageArrive _ => none
  | .rehomeHint _ => none
  | .contextAllocate _ => none
  | .coreReconfigure _ => none
  | .rqageExpire _ => none
  | .agePromotion _ _ => none
  | .runQueueScrub _ => none
  | .overflowScrub _ => none
  | .incumbentBroadcast _ _ => none
  | .shadowUnbind _ => none
  | .shadowStateInstall _ => none
  | .shadowLag _ _ => none
  | .hireAdmit _ _ => none
  | .operandPush _ => none
  | .hireReady _ _ => none
  | .arrayStart _ => none
  | .hireComputeEnd _ => none
  | .hireLanding _ => none
  | .landingArrive _ => none
  | .chainIdleExpire _ _ => none
  | .bindStore _ => none
  | .unbindPerform _ _ => none
  | .arrayCool _ => none
  | .burstArrive _ _ => none
  | .warmHoldExpire _ => none
  | .translationWalk _ _ _ => none
  | .leaseExpire _ _ _ => none
  | .leaseRenew _ => none
  | .l1LeaseWriteback _ _ => none
  | .skewCompare _ _ _ => none
  | .lhznRead _ _ => none
  | .dtimeRead _ _ => none
  | .dlcfgWrite _ _ => none
  | .dirtyLogMerge _ => none
  | .harvest _ _ => none
  | .harvestDone _ => none
  | .cpgoRead _ _ => none
  | .copyStart _ => none
  | .ringSlot _ _ => none
  | .ringCounterReread _ _ => none
  | .mrowStart _ => none
  | .rcp _ _ _ => none
  | .rzf _ _ => none
  | .rbr _ _ => none
  | .rbw _ _ => none
  | .zoneContribution _ _ => none
  | .zoneReadout _ _ => none
  | .collStart _ => none
  | .collTimeout _ => none
  | .collComplete _ _ => none
  | .decodeJobStart _ => none
  | .frameDecode _ => none
  | .frameStatus _ => none
  | .decodeRingReread _ => none
  | .faultRecordWrite _ => none
  | .heldRecordWrite _ => none
  | .watchdog _ _ => none
  | .correctedError _ _ _ => none
  | .uncorrectableError _ _ _ _ => none
  | .preemption _ => none
  | .launchResume _ => none
  | .lwaitWake _ _ => none
  | .governorWindow _ => none
  | .linkChange _ _ => none
  | .flitReplay _ => none
  | .fabricPacketArrive _ _ _ _ _ _ _ _ => none
  | .fabricAck _ _ _ => none
  | .fabricResend _ _ _ => none
  | .sessionFail _ => none
  | .fabsyncRead => none
  | .fabctlWrite _ => none
  | .timePacketSend _ => none
  | .timePacketArrive _ _ => none
  | .timeHoldover _ => none
  | .cxlMemRead _ _ => none
  | .cxlMemWrite _ _ => none
  | .cxlIoAccess _ _ _ _ => none
  | .moduleReset => none
  | .fwGo _ => none
  | .fwCommit _ => none
  | .fwCheckDone => none
  | .dismaskWrite _ _ _ => none
  | .dismaskRead _ _ => none
  | .skewclr _ _ => none
  | .lagclr _ _ => none
  | .spdmVersion _ => none
  | .spdmCapabilities _ => none
  | .spdmAlgorithms _ => none
  | .spdmDigests _ => none
  | .spdmCertificate _ => none
  | .challenge _ => none
  | .spdmMeasurements _ => none
  | .keyExchange _ => none
  | .finish _ => none
  | .keyUpdate _ => none
  | .endSession _ => none
  | .deviceRegisterWrite _ _ => none
  | .illegalEncoding _ => none
  | .hostApertureCompletion _ _ => none
  | .snoop _ => none
  | .cxlLinkTraining _ _ => none
  | .ideKeyProgramming _ _ => none
  | .deviceRegisterRead _ => none

/-- The instruction that the decoder reads from an instruction whose bits are `w` (bit 0 the least significant). Every
instruction is one 32-bit little-endian word, so bits above the first 32 belong to no instruction. -/
def decodeTableWord (nbits w : Nat) : Option Instr :=
  match decodeWord (w % 2 ^ nbits % 2 ^ 32) with
  | .ok i => some i
  | _ => none

end Sys2Proof
end

