-- ==== Sys2Proof/Machine/CoreTypes.lean ====
section
/-!
DEFINITION. Sys2Proof/Machine/CoreTypes.lean: the parts of the state that a home core holds: registers and pending
results, task contexts, L1 lines, requests and responses of the ordering machine (R100, R107 to R113, R153).
-/
namespace Sys2Proof.Machine

/-- A register that has pending counts (R100): x register `i` of a bank (R108), v register, mask register; and
STATUS.FUT, whose write by `stf` is interlocked as every write to a CSR is (R98). -/
inductive Reg where
  | x (bank i : Nat)
  | v (i : Nat)
  | k (i : Nat)
  | fut
  deriving DecidableEq, Repr

/-- The value of a register: 64 bits, the lanes of a v register, or the bits of a mask. -/
inductive RegVal where
  | word (w : W64)
  | lanes (l : List W32)
  | mask (m : List Bool)
  deriving DecidableEq, Repr

/-- A fixed-latency result that has not reached its register: `fix(r) = count` (R100). `val` is `none` when a later
write has discarded the result while the count still runs (R101). -/
structure Pend where
  reg   : Reg
  val   : Option RegVal
  count : Nat
  deriving DecidableEq, Repr

/-- The five scopes of R152. -/
inductive Scope where
  | task | core | die | package | fabric
  deriving DecidableEq, Repr

/-- The fields of a `fmt` prefix (R103). -/
structure Prefix where
  fa : Nat := 0
  fb : Nat := 0
  fd : Nat := 0
  sc : Nat := 0
  rm : Nat := 0
  sa : Nat := 0
  am : Nat := 0
  deriving DecidableEq, Repr

/-- A successful translation (R352, R354): the physical address, the rights, and the lease. -/
structure Tr where
  pa   : Nat
  w    : Bool
  d    : Bool
  rdc  : Bool
  mig  : Bool
  size : Nat
  leaf : Nat
  exp  : Nat
  /-- What the walk has read on its way to the leaf: the root register and the next table that each entry names (R362). -/
  path : List Nat := []
  /-- The translation serves only the request that has caused its walk (R354, R364). -/
  once : Bool := false
  deriving DecidableEq, Repr

/-- One byte of a memory image that carries its poison state (R458). -/
structure PByte where
  val : Byte
  bad : Bool
  deriving DecidableEq, Repr

/-- A byte held in an L1 line. `pos` is its position in the location's order, `none` while it is the value of a store of
the core that has not been acknowledged (R158); while it is dirty, `owners` are the tasks whose stores it holds, by instance,
with their launches, and those to which it has been returned (R158, R177). -/
structure L1Byte where
  val   : Byte
  dirty : Bool
  bad   : Bool
  pos   : Option Nat := none
  owners : List (Nat × Option Nat) := []
  deriving DecidableEq, Repr

/-- A line of L1(c) (R153, R355): `line` is the virtual address over 128; the bytes listed are the valid ones. It lies in a
way of the L1, which is a block of the unified array (R19). -/
structure L1Line where
  asid  : Nat
  line  : Nat
  /-- The translation of its first byte, as its fill or probe has returned it (R355). -/
  tr    : Tr
  tag   : Scope
  bytes : Map L1Byte
  way   : Nat := 0
  deriving DecidableEq, Repr

/-- A line of an RDC portion (R153, R169): its home and line number, and its bytes with the position of each in its
location's order. -/
structure RdcLine where
  home  : Home
  line  : Nat
  bytes : List (PByte × Nat)
  deriving DecidableEq, Repr

/-- A line that an L2 slice holds (R20): whether it is dirty, and what HBM holds beneath it where that differs. -/
structure L2Line where
  dirty : Bool := false
  under : Option (List PByte) := none
  deriving DecidableEq, Repr

/-- The read-modify-write operations of the atomics (R237). -/
inductive AmoOp where
  | add | and | or | xor | min | max | minu | maxu | swap | fadd
  deriving DecidableEq, Repr

/-- What a home performs for a request (R151, R154). -/
inductive HomeOp where
  /-- Read `size` bytes; a load that fills an L1 line reads the whole line. -/
  | read
  /-- Write the bytes. -/
  | write (data : List PByte)
  /-- A write-back of the dirty bytes of a line, each at its offset (R164). -/
  | writeBack (bytes : Map PByte)
  /-- R238. -/
  | amo (op : AmoOp) (d : W64)
  /-- R239: `old = expect` writes `new`. -/
  | cas (expect new : W64)
  /-- R241. -/
  | red (rop fmt : Nat) (d : W64)
  /-- R243, R244, R245. -/
  | ldf
  | stf (v : W64)
  | withdraw (target : Nat)
  /-- R236. -/
  | waita (expect : W64)
  /-- R229 to R232. -/
  | join
  | leave
  | adjust (up : Bool) (join : Nat)
  | bari (cfg : W64) (coreOk : Bool) (job launch : Nat)
  | barv
  | barw (gen : W64)
  /-- R333, R345, R346, R347. -/
  | improve (inc : Nat) (key : W64) (sup : Bool) (job : Nat)
  | rdinc (inc : Nat) (sup : Bool) (job : Nat)
  | incset (inc : Nat) (key : W64) (mode bind : Nat)
  /-- R221: a hardware-queue record. -/
  | qput (queue : Nat) (bytes : List PByte) (sup : Bool)
  /-- R396, R405: landing-zone contributions. -/
  | zone (z first : Nat) (vals : List W32) (bad : Bool)
  /-- R314: one element of an accumulate-mode landing (R64). -/
  | landAcc (lf : Nat) (v : W32) (int : Bool)
  /-- R231: an engine's arrival at a barrier. -/
  | arrive
  deriving DecidableEq, Repr

/-- What the answer to a request does at the requester (the Respond step of R154). -/
inductive Dest where
  /-- An acknowledgement only. -/
  | ack
  /-- A load: fills the L1 line and writes the register from `n` bytes at the address (R156, R195, R200). -/
  | load (reg : Reg) (n : Nat) (signed : Bool)
  /-- A load through the other-core window (R197): no fill. -/
  | direct (reg : Reg) (n : Nat) (signed : Bool)
  /-- The result of an atomic, truncated to `n` bytes and extended (R238). -/
  | value (reg : Reg) (n : Nat) (signed : Bool)
  /-- The result and STATUS.FUT of `ldf` and `stf` (R243, R244). -/
  | future (reg : Reg)
  /-- The result of an instruction that parks or blocks until it is answered. -/
  | answer (reg : Reg)
  /-- Joined (`up`) or left group, recorded in the context (R142, R229). -/
  | group (reg : Reg) (addr : Nat) (up : Bool)
  /-- The device's own leave of a recorded group (R142). -/
  | left
  deriving DecidableEq, Repr

/-- A request travelling to its home (R153). `ctx` and `uid` name the task instance that issued it; `va`, `asid` and
`exp` are those of its translation (R357), which `tr` holds whole for the L1 line that a load fills (R355). -/
structure Req where
  id    : Nat
  agent : Agent
  home  : Home
  ctx   : Nat := 0
  uid   : Nat := 0
  op    : HomeOp
  addr  : Nat
  size  : Nat
  scope : Scope := .core
  acq   : Option Scope := none
  rdc   : Bool := false
  va    : Nat := 0
  asid  : Nat := 0
  exp   : Option Nat := none
  tr    : Option Tr := none
  /-- The export window of its import entry (R475). -/
  fwin  : Nat := 0
  epc   : Nat := 0
  dest  : Dest := .ack
  deriving DecidableEq, Repr

/-- An answer travelling back (R153): `val` a result, `ok` its flag, `bytes` the line or bytes read with their
position in the location's order (`poss` where the bytes of a copy have each their own), `poison` a read-modify-write stopped by
poison (R238). -/
structure Resp where
  req    : Req
  val    : W64 := 0
  ok     : Bool := true
  bytes  : List PByte := []
  base   : Nat := 0
  pos    : Nat := 0
  poss   : List Nat := []
  poison : Bool := false
  /-- The scope of the acquire that a `barw` takes when it returns (R232). -/
  scope  : Option Scope := none
  deriving DecidableEq, Repr

/-- An outstanding request of a core: `write` says that it is a write-through, write-back, atomic or `red` (R165), `own`
that a task has issued it; `launches` are those of the tasks whose writes it carries (R177), and `writers` the tasks whose
stores a write-back carries, and those to which its bytes have been returned, by offset in its line (R158). -/
structure Out where
  req      : Req
  write    : Bool
  own      : Bool
  launches : List Nat := []
  writers  : Map (List Nat) := []
  deriving DecidableEq, Repr

/-- A task message (R111). -/
structure TaskMsg where
  bound : Nat := 0
  inc   : Nat := 0
  pair  : Bool := false
  bd    : Bool := false
  role  : Nat := 0
  ovl   : Nat := 0
  hnd   : Nat := 0
  group : Nat := 0
  job   : Nat := 0
  args  : List W64 := [0, 0, 0, 0]
  key   : W64 := 0
  deriving DecidableEq, Repr

/-- The phase of a task context: no task, the odd half of a pair (R107), issuing or held at issue, parked, parked
in the faulted state (R448), or held by a task that is over until its recorded groups are left (R142). -/
inductive Phase where
  | free | odd | running | parked | faulted | leaving
  deriving DecidableEq, Repr

/-- What a task that is not issuing waits for. -/
inductive Wait where
  /-- Nothing. -/
  | none
  /-- The gate of R165 at a scope: the requests that have not been answered. -/
  | gate (sc : Scope) (ids : List Nat)
  /-- The answer to a request; nothing issues until it comes. -/
  | answer (id : Nat)
  /-- `park`: a write to the own-scratchpad word at `off` (R219). -/
  | word (off : Nat) (reg : Reg)
  /-- After a trap or a resumption: the interlocked results still to come (R102). -/
  | settle
  /-- A message not yet accepted (R127); `spawnb` then writes 0 to its register (R342). -/
  | message (reg : Option Reg)
  /-- A trap that is taken once the interlocked results are there (R102, R444): the request whose answer has raised it, if one has,
  and what it records. -/
  | trap (req : Option Nat) (cause info : Nat) (fb : W64) (epc insn : Nat)
  /-- A vector claim (R253): the lane count granted goes to the register. -/
  | pool (reg : Reg)
  /-- The instruction at pc waits for a condition and is issued again when it holds: the waits of R146, which a cancel
  ends (`hwait`, `lwait`, `cpwait`, `vdstat`, `ovld`, a waiting `vclaim`, a full copy or decode queue). -/
  | cond
  /-- The same for `ovld` until its task is alone on its core (R131). -/
  | alone
  /-- The same for a wait that R146 does not list: below a copy watermark, for DTIME, for a hire slot. -/
  | stall
  deriving DecidableEq, Repr

/-- The vector claim of a task: its lanes and its registers (R246, R248). -/
structure Claim where
  lanes : Nat
  v     : Map (List W32) := []
  k     : Map (List Bool) := []
  deriving DecidableEq, Repr

/-- A request in a vector pool's queue (R247): the task, its limits, and the contents that a resumption restores (R251). -/
structure PoolReq where
  core  : Nat
  ctx   : Nat
  uid   : Nat
  lmin  : Nat
  lmax  : Nat
  saved : Option Claim := none
  deriving DecidableEq, Repr

/-- A hire slot of a context that has held a hire or bind (R293): which one, and its last status word once it is final
(R304, R325). -/
structure HireSlot where
  hid   : Nat
  final : Option W64 := none
  deriving DecidableEq, Repr

/-- A write that an engine has still to append: the bytes, or one accumulate-mode element (R314). -/
structure LandWrite where
  va  : Nat
  op  : HomeOp
  len : Nat
  deriving DecidableEq, Repr

/-- What an engine still has to read: bytes that it knows without a read, or `n` bytes at an address. -/
inductive EngUnit where
  | fill (bytes : List Byte)
  | read (va n : Nat)
  deriving DecidableEq, Repr

/-- What an engine has read: bytes that it knew, or a request for the bytes at an address, on its way to a home or answered. -/
inductive EngPiece where
  | bytes (b : List Byte)
  | req (id va : Nat) (home : Home)
  deriving DecidableEq, Repr

/-- A read of an engine, which covers `n` units of what it moves: the pieces that it has asked for, those still to ask for, and
the detail and the address of the translation that has failed (R382, R383). -/
structure EngLoad where
  n      : Nat := 0
  pieces : List EngPiece := []
  todo   : List EngUnit := []
  fault  : Option (Nat × Nat) := none
  deriving DecidableEq, Repr

/-- A hire or bind that has issued and is not final (R304, R322, R326). -/
structure Hire where
  /-- Its number in issue order, its master, and the master's job. -/
  hid    : Nat
  core   : Nat
  ctx    : Nat
  uid    : Nat
  launch : Nat
  asid   : Nat
  job    : Nat
  ovl    : Nat
  slot   : Nat
  isBind : Bool
  /-- The array of the die, 0xFF when none was enabled (R305, R306). -/
  arr    : Nat
  /-- What the issue has captured: hg0 to hg7, the c4 tables, the bases, the tag, the maps (R295, R301). -/
  hg     : List W64
  c4     : List W64
  abase  : Nat
  bbase  : Nat
  tag    : Nat
  idx    : List Nat := []
  dup    : List Nat := []
  land   : Nat
  /-- The status word (R305). -/
  state  : Nat := 0x01
  detail : Nat := 0
  off    : Nat := 0
  pushed : Bool := false
  pls    : Bool := false
  arf    : Bool := false
  /-- The state that a pre-emption froze (R318). -/
  frozen : Option Nat := none
  /-- The operand bytes that have arrived, and the next line to push (R307). -/
  opsA   : List Host.Cell := []
  opsB   : List Host.Cell := []
  nextLine : Nat := 0
  /-- The read of that line while it is on its way, and an uncorrectable error among the operand bytes (R458, R459). -/
  ask    : Option EngLoad := none
  bad    : Bool := false
  /-- The chain whose bank it uses, by the hire that opened it (R311, R312). -/
  bank   : Option Nat := none
  /-- The accumulator once compute has ended, row by row (R63). -/
  acc    : Option (List Nat) := none
  /-- The landing's translations by 64 KiB page (R308), the writes to append, those appended, the barrier arrival. -/
  leases : Map Tr := []
  todo   : List LandWrite := []
  sent   : List Nat := []
  arrival : Option Nat := none
  /-- The time by which its landing writes are to be performed (R314), and the detail and OFF with which a landing ends that a
  renewal of skew mode has stopped (R364). -/
  landBy : Option Nat := none
  stop   : Option (Nat × Nat) := none
  deriving DecidableEq, Repr

/-- A task context (R107): the task's registers and everything that the spec saves with it. Every field is what a
context holds at reset, when it holds no task (assumption log 8 for the registers whose reset the spec leaves open). -/
structure Ctx where
  /-- Whether a task holds the context. -/
  phase     : Phase := .free
  /-- R91. -/
  pc        : BitVec 16 := 0
  /-- The x registers of both banks (R108): bank `b`, register `i` at key `32 * b + i`; x0 is never listed. -/
  x         : Map W64 := []
  /-- STATUS (R205), VSHR excepted, which is computed at a read (R249). -/
  status    : W64 := 0
  /-- The prefix state of R104, and the copy that an in-task handler saves with STATUS.PP (R447). -/
  pfx       : Prefix := {}
  savedPP   : Bool := false
  savedPfx  : Prefix := {}
  /-- `fix(r)` with its pending result, and the registers with `var(r) = 1` (R100, R101). -/
  pend      : List Pend := []
  var       : List Reg := []
  /-- R208. -/
  tvec      : W64 := 0
  faulta    : W64 := 0
  faultb    : W64 := 0
  /-- R60, R49. -/
  amax      : W64 := 0
  c4ta0     : W64 := 0x0706050403020100
  c4ta1     : W64 := 0xFFFEFDFCFBFAF9F8
  c4tb0     : W64 := 0x0706050403020100
  c4tb1     : W64 := 0xFFFEFDFCFBFAF9F8
  /-- What a `hire` or `bind` that waits for a slot has captured at its issue (R322). -/
  hiring    : Option Hire := none
  /-- The copy shadow registers of R374. -/
  cpsrc     : W64 := 0
  cpdst     : W64 := 0
  cplen     : W64 := 0
  cpdesc    : W64 := 0
  cpflag    : W64 := 0
  /-- hg0 to hg7 (R295) and the hire slots (R293). -/
  hg        : Map W64 := []
  hires     : Map HireSlot := []
  /-- R246. -/
  claim     : Option Claim := none
  /-- The groups joined, in the order of joining (R142). -/
  groups    : List Nat := []
  /-- R337. -/
  bd        : Bool := false
  inc       : Nat := 0
  bound     : Nat := 0
  /-- The launch whose job the task belongs to, its address space and job id (R113, R348), its role and its pairing. -/
  launch    : Nat := 0
  asid      : Nat := 0
  job       : Nat := 0
  role      : Nat := 0
  paired    : Bool := false
  /-- R448. -/
  fseq      : Nat := 0
  /-- What the task waits for. -/
  wait      : Wait := .none
  /-- A cancel that has arrived (R146). -/
  killed    : Bool := false
  /-- R158: the newest positions that the task's loads have returned and its writes have taken, by physical address, for the
  locations that an RDC may hold. -/
  seen      : Map Nat := []
  /-- R203: the last domain time returned to the task. -/
  lastTime  : Nat := 0
  /-- The first cycle in which the task may issue (R99), its age and its promotion (R139, R140). -/
  readyAt   : Nat := 0
  age       : Nat := 0
  promoted  : Bool := false
  /-- The cycle in which the task last yielded (R220). -/
  yielded   : Option Nat := none
  /-- When the task's message arrived, kept for a migration (R370). -/
  arrival   : Nat := 0
  /-- Since when the waiting instruction waits, in ns (R461). -/
  waitFrom  : Option Nat := none
  /-- The watchdog has fired while an `ldf` was deferred: the trap follows the answer to its withdrawal (R245, R461). -/
  expired   : Bool := false
  /-- A pre-emption has withdrawn the `ldf` that the task waits in, which is issued again if it was still deferred (R245, R463). -/
  recalled  : Bool := false
  /-- The old instruction words that an `ovld` leaves to be fetched: the words after it, by offset, with their poison (R213). -/
  window    : Map (W32 × Bool) := []
  /-- The claim that a pre-emption saved is not granted again yet (R251). -/
  reclaim   : Bool := false
  /-- An uncorrectable error has poisoned the task (R460). -/
  poisoned  : Bool := false
  /-- The model's own: the number of this task instance, so that an answer to an earlier task is discarded. -/
  uid       : Nat := 0
  deriving DecidableEq, Repr

/-- A message that travels, waits in a run queue or is held by its sender (R126, R134): with the launch of its job, its
sender, and the whole context of a migrating task (R370, R422). -/
structure Flight where
  msg     : TaskMsg
  launch  : Nat
  target  : Nat
  sender  : Agent
  ctx     : Nat := 0
  uid     : Nat := 0
  /-- The task that migrates with this message. -/
  mig     : Option Ctx := none
  /-- The acquire of the child at its start (R173). -/
  acq     : Option Scope := none
  /-- Refused, and not accepted since: its sender holds it (R127); `back` says that it is not on its way again. -/
  held    : Bool := false
  back    : Bool := false
  /-- The outstanding count already counts this message (R143). -/
  counted : Bool := true
  /-- Domain time and cycle of its arrival at the core (R134), and the aged mark of R137. -/
  arrival : Nat := 0
  since   : Nat := 0
  aged    : Bool := false
  /-- The core that has forwarded it (R415). -/
  via     : Option Nat := none
  /-- The overflow area's address that holds the message (R134). -/
  addr    : Option Nat := none
  /-- The hire whose continuation this is (R316). -/
  hire    : Option Nat := none
  deriving DecidableEq, Repr

/-- How a task's use of its context, or a message that has had a task, ends (R110, R133, R145). -/
inductive TaskEnd where
  | ended | killed | lost
  deriving DecidableEq, Repr

/-- A task that is over and whose recorded groups are being left, the most recent first (R142): the context that it still holds,
the groups still to leave, and the request that leaves one now. -/
structure Leaving where
  core   : Nat
  ctx    : Option Nat
  uid    : Nat
  asid   : Nat
  launch : Nat
  groups : List Nat
  id     : Nat
  deriving DecidableEq, Repr

/-- A window-accumulator slot (R273): OWNER, OFF, SIZE, CFG (none before the first `waset`), P, FCNT, BCNT. -/
structure WaSlot where
  owner : Nat
  off   : Nat
  size  : Nat
  cfg   : Option Nat := none
  p     : Nat := 0
  fcnt  : Nat := 0
  bcnt  : Nat := 0
  /-- The owner's launch is saved (R284). -/
  saved : Bool := false
  /-- The cycle up to which the unit occupies the slot (R281). -/
  busyTo : Nat := 0
  deriving DecidableEq, Repr

/-- A B tile: its layout, the tables that its c4 codes read, and its bytes by scratchpad offset (R299, R302). -/
structure BTile where
  asid   : Nat := 0
  tag    : Nat := 0
  base   : Nat
  stride : Nat
  k      : Nat
  n      : Nat
  fb     : Nat
  bt     : Bool
  t0     : Nat
  t1     : Nat
  cells  : List Host.Cell
  bad    : Bool := false
  deriving DecidableEq, Repr

/-- An accumulator bank that a chain holds (R311, R312). -/
structure Chain where
  /-- The number of the hire that opened it. -/
  id     : Nat
  uid    : Nat
  cid    : Nat
  launch : Nat
  m      : Nat
  n      : Nat
  int    : Bool
  count  : Nat
  limit  : Nat
  idle   : Nat
  acc    : List Nat
  /-- An uncorrectable error among the accumulators or what they were computed from (R458, R459). -/
  bad    : Bool := false
  /-- Domain time at the end of its last hire, and whether its close has started. -/
  lastEnd : Nat
  closing : Bool := false
  deriving DecidableEq, Repr

/-- An `unbind` on its way (R327): who waits for it, and the master's earlier hires that must have started. -/
structure Unbind where
  core  : Nat
  ctx   : Nat
  uid   : Nat
  reg   : Reg
  asid  : Nat
  tag   : Nat
  before : List Nat
  deriving DecidableEq, Repr

/-- A dense array (R302 to R320). -/
structure ArrayUnit where
  /-- Requests not yet admitted, by hire number; bursts by core and cycles; unbinds. -/
  arrivals : List Nat := []
  bursts   : List (Nat × Nat) := []
  unbinds  : List Unbind := []
  /-- The hire queue in admission order (R306), the turn p, the running hire, and the hires that have started and are not
  final, in start order (R310). -/
  queue    : List Nat := []
  turn     : Nat := 0
  running  : Option Nat := none
  started  : List Nat := []
  chains   : List Chain := []
  tiles    : Map BTile := []
  /-- Marks of R316: the master's instance and the bounced hire. -/
  marks    : List (Nat × Nat) := []
  cold     : Bool := true
  lastBusy : Nat := 0
  warmTo   : Option Nat := none
  deriving DecidableEq, Repr

/-- A write that an engine has appended and that has not been acknowledged: its request and the end of what it covers. -/
structure EngWrite where
  id  : Nat
  fin : Nat
  deriving DecidableEq, Repr

/-- How far a copy or a slot of a ring is (R382, R388): the units of its source that it has asked for, the reads that it has not
used, the bytes of the linear side that it has read and not written, and the next byte or element of its destination. -/
structure Mover where
  ahead : Nat := 0
  loads : List EngLoad := []
  buf   : List Byte := []
  next  : Nat := 0
  deriving DecidableEq, Repr

/-- A copy on a channel (R374, R375, R381, R382): the registers as enqueued, who launched it, how far it is. -/
structure CopyOp where
  seq     : Nat
  src     : Nat
  dst     : Nat
  len     : Nat
  desc    : Nat
  flag    : Nat
  ctx     : Nat
  uid     : Nat
  launch  : Nat
  asid    : Nat
  job     : Nat
  ovl     : Nat
  /-- STATE, DETAIL, SIDE, PAGE, SF and VIS of the status word. -/
  state   : Nat := 0x01
  detail  : Nat := 0
  side    : Nat := 0
  page    : Nat := 0
  sf      : Bool := false
  vis     : Bool := false
  /-- A fault or the last write has been met; the final state waits for the acknowledgements (R175). -/
  stopped : Option Nat := none
  /-- The read of the layout record, and its words once they are checked (R377, R378). -/
  recAsk  : Option EngLoad := none
  record  : List W64 := []
  /-- Bytes of a linear copy, or elements of a layout; how far the copy is; its writes that are not acknowledged. -/
  units   : Nat := 0
  mov     : Mover := {}
  writes  : List EngWrite := []
  /-- The translations that the channel holds, by 64 KiB page and side (R382). -/
  leases  : Map Tr := []
  /-- Destination bytes that are all acknowledged (R385). -/
  acked   : Nat := 0
  deriving DecidableEq, Repr

/-- An operation that is final, as its channel keeps it: its address space, its status word, and the scope that a wait on
its visible event acquires (R380, R401). -/
structure DoneOp where
  seq    : Nat
  asid   : Nat
  status : W64
  scope  : Scope
  deriving DecidableEq, Repr

/-- A copy channel of a core (R373, R380): its queue, head running, the status words of its 16 latest operations by
sequence number, and its watermark register. -/
structure CopyChan where
  nextSeq : Nat := 0
  queue   : List CopyOp := []
  recent  : List DoneOp := []
  wm      : W64 := 0
  deriving DecidableEq, Repr

/-- An operation of a BDE channel: `mrow` (R404) or `coll` (R406). -/
inductive BdeKind where
  | rowCopy
  | rowZero
  | coll
  deriving DecidableEq, Repr

/-- An operation on a BDE channel, its status and how far it is (R380, R381, R394, R398). -/
structure BdeOp where
  seq     : Nat
  kind    : BdeKind
  core    : Nat
  uid     : Nat
  launch  : Nat
  asid    : Nat
  job     : Nat
  /-- The destination, the source and the count of pages (R404); the descriptor's address (R406) in `src`. -/
  dst     : Nat := 0
  src     : Nat := 0
  pages   : Nat := 0
  state   : Nat := 0x01
  detail  : Nat := 0
  side    : Nat := 0
  page    : Nat := 0
  sf      : Bool := false
  vis     : Bool := false
  ovf     : Bool := false
  /-- A fault has been met; this final state waits for the acknowledgements (R175). -/
  stopped : Option Nat := none
  /-- The pages' translations, how many of the steps 2 and 4 of R394 the slices have taken, and the rows that are finished,
  numbered from the first destination row. -/
  stage   : Nat := 0
  srcTr   : List Tr := []
  dstTr   : List Tr := []
  rows    : NatSet := []
  /-- The read on its way: of the descriptor, of the module list, then of SRC; and the writes of the issuing core to the named
  buffers that were not acknowledged when the collective took its part (R176). -/
  ask     : Option EngLoad := none
  flush   : List Nat := []
  /-- The descriptor's words, the module list, when it began, and whether the participants' parts are in (R397, R398). -/
  words   : List W64 := []
  plist   : List Nat := []
  began   : Nat := 0
  summed  : Bool := false
  /-- The zone that OP 4 has opened: its BDE and its entry (R399). -/
  zone    : Option (Nat × Nat) := none
  /-- The writes still to append, those appended, and the translations held. -/
  todo    : List LandWrite := []
  sent    : List Nat := []
  leases  : Map Tr := []
  deriving DecidableEq, Repr

/-- A channel of a BDE (R26, R380): its queue, head running, and the status words of its latest operations by sequence
number, with their address spaces. -/
structure BdeChan where
  nextSeq : Nat := 0
  queue   : List BdeOp := []
  recent  : List DoneOp := []
  deriving DecidableEq, Repr

/-- The row buffer of a pseudo-channel while it holds a row that RBR has read (R392). -/
structure RowBuf where
  row   : Nat
  bytes : List PByte
  deriving DecidableEq, Repr

/-- One accumulator of a landing zone (R395). -/
structure ZoneElem where
  a     : Int := 0
  count : Nat := 0
  nan   : Bool := false
  ovf   : Bool := false
  deriving DecidableEq, Repr

/-- An open landing zone (R395): the operation that opened it, its parameters and its accumulators. -/
structure Zone where
  unit  : Nat
  chan  : Nat
  seq   : Nat
  asid  : Nat
  first : Nat
  fmt   : Nat
  frac  : Nat
  e     : Nat
  dst   : Nat
  count : Nat
  elems : Map ZoneElem := []
  /-- Its read-out has begun (R396). -/
  out   : Bool := false
  deriving DecidableEq, Repr

/-- A ring subscription (R387 to R389, R402). -/
structure Ring where
  core    : Nat
  uid     : Nat
  launch  : Nat
  asid    : Nat
  job     : Nat
  ovl     : Nat
  /-- The scratchpad offset of the header and its words 0, 3, 4 and 5 as read at `ringsub`. -/
  hdr     : Nat
  word0   : Nat
  recVa   : Nat
  word4   : Nat
  word5   : Nat
  /-- The read of the layout record, and its words once they are checked. -/
  recAsk  : Option EngLoad := none
  record  : List W64 := []
  /-- The counter that the engine advances, the other one as it last read it, and the read of it on its way. -/
  own     : Nat := 0
  other   : Nat := 0
  reread  : Option EngLoad := none
  /-- The slot in progress: how far it is, and the writes appended. -/
  busy    : Bool := false
  mov     : Mover := {}
  sent    : List Nat := []
  leases  : Map Tr := []
  /-- The ring is to end once its writes are acknowledged: the word 6 to write (R387). -/
  ending  : Option W64 := none
  /-- The tasks that wait in `ringstop`. -/
  stop    : List (Nat × Nat × Nat × Reg) := []
  /-- That word has been appended. -/
  closing : Bool := false
  deriving DecidableEq, Repr

/-- A base-die engine (R26). -/
structure Bde where
  chans : Map BdeChan := []
  bufs  : Map RowBuf := []
  zones : Map Zone := []
  rings : Map Ring := []
  deriving DecidableEq, Repr

/-- What a frame that has been decoded still waits for (R436): its elements' acknowledgements, its status word's, its arrival's,
and, when the arrival is refused, that of the second write of its status word. -/
inductive FrameStep where
  | elements
  | status
  | arrival
  | refused
  deriving DecidableEq, Repr

/-- A frame that has been decoded and has not passed R436: its status word, whether a ring's slot carries it, and the writes
and the arrival that it waits for. -/
structure FrameOut where
  frame   : Nat
  status  : Nat
  step    : FrameStep := .elements
  sent    : List Nat := []
  arrival : Option Nat := none
  deriving DecidableEq, Repr

/-- What an engine does next for its running job: reads the job's record, its layout record and its ring's header (R429), begins
a frame, reads the stream for it, or waits for the end. -/
inductive JobStep where
  | record
  | layout
  | header
  | begin
  | stream
  deriving DecidableEq, Repr

/-- A decode job (R428 to R440). -/
structure DecJob where
  seq     : Nat
  recVa   : Nat
  core    : Nat
  uid     : Nat
  launch  : Nat
  asid    : Nat
  job     : Nat
  state   : Nat := 0x01
  detail  : Nat := 0
  nbad    : Nat := 0
  ndone   : Nat := 0
  /-- The engine was disabled when the job was submitted (R442). -/
  off     : Bool := false
  step    : JobStep := .record
  /-- The read on its way. -/
  ask     : Option EngLoad := none
  /-- The words of the job's record and of its layout record (R429), and the words of the job's record that cannot be read. -/
  words   : List W64 := []
  unread  : List Nat := []
  record  : List W64 := []
  /-- The layout record is at fault (R432). -/
  badRec  : Bool := false
  /-- The ring target (R437): its core, its header's offset, words 0 and 4; the counter written, the one last read, and the read
  of it on its way. -/
  ring    : Option (Nat × Nat) := none
  word0   : Nat := 0
  word4   : Nat := 0
  own     : Nat := 0
  other   : Nat := 0
  reread  : Option EngLoad := none
  /-- The bytes of the stream that have been read, and whether the next one cannot be. -/
  bs      : List Byte := []
  bsBad   : Bool := false
  /-- The next frame to decode, and those that have not passed R436, in their order. -/
  frame   : Nat := 0
  outs    : List FrameOut := []
  /-- The writes of the ring's header that are not acknowledged. -/
  sent    : List Nat := []
  /-- A corrupt frame without a key frame since; the class that every remaining frame takes (R434). -/
  corrupt : Bool := false
  stuck   : Option Nat := none
  /-- The job's end is decided before its last frame: its final state (R435, R438). -/
  ending  : Option Nat := none
  /-- The ring's counters have ended the job: the DETAIL of its header (R437). -/
  ringBad : Option Nat := none
  /-- The header's last write has been appended. -/
  closing : Bool := false
  /-- Frames by state, and the first that is not OK with its status word (R439). -/
  counts  : List Nat := [0, 0, 0, 0, 0]
  firstBad : Option (Nat × Nat) := none
  /-- The translations held for the frame in progress (R362, R431). -/
  leases  : Map Tr := []
  deriving DecidableEq, Repr

/-- A video decode engine (R427, R428, R440). -/
structure VideoUnit where
  nextSeq : Nat := 0
  queue   : List DecJob := []
  recent  : List DoneOp := []
  deriving DecidableEq, Repr

/-- The configuration K of a core (R128). -/
structure Conf where
  asid  : Nat
  image : Nat
  ovl   : Nat
  n     : Nat
  deriving DecidableEq, Repr

/-- The slot of a save area that a core has written for one launch (R464): where it lies, and the free-value counter from
which its bytes, the device's own encoding, were taken. -/
structure SaveArea where
  launch : Nat
  addr   : Nat
  size   : Nat
  bytes  : Nat
  deriving DecidableEq, Repr

/-- What a core has saved for launches that a pre-emption took off it (R463, R464), and when. -/
structure SaveRec where
  core       : Nat
  launches   : List Nat
  savedAt    : Nat
  conf       : Option Conf
  kvring     : W64
  ctxs       : Map Ctx
  wa         : Map WaSlot
  spad       : List Host.Cell
  spadPoison : NatSet
  areas      : List SaveArea
  deriving DecidableEq, Repr

/-- An incumbent shadow's state for one register (R334), or the hub's register itself (R330). -/
structure Shadow where
  key  : W64 := 0
  mode : Nat := 0
  bind : Nat := 0
  /-- A lag of this shadow is reported and not cleared (R335). -/
  lag  : Bool := false
  deriving DecidableEq, Repr

/-- A broadcast of the hub (R333, R335): the key, when it was sent, and the shadows that have acknowledged it. -/
structure Bcast where
  inc   : Nat
  key   : W64
  sent  : Nat
  acked : NatSet := []
  deriving DecidableEq, Repr

/-- An `incset` in progress at the hub (R336): its request, whether the new state is being installed, and the shadows
that have acknowledged the present part. -/
structure IncSet where
  req     : Req
  install : Bool := false
  acked   : NatSet := []
  deriving DecidableEq, Repr

/-- A `cancel` that has not reached every queue agent (R223): who waits for it, what it names, and the agents to come. -/
structure CancelOp where
  core  : Nat
  ctx   : Nat
  uid   : Nat
  reg   : Reg
  asid  : Nat
  job   : Nat
  todo  : List Nat
  found : Bool := false
  deriving DecidableEq, Repr

/-- A re-home hint on its way to the core that spawned a forwarded message (R416). -/
structure Hint where
  core   : Nat
  key    : W64
  target : Nat
  deriving DecidableEq, Repr

/-- What an octant agent does (R366, R367): the entry that it reads, and the merge whose atomic is not yet acknowledged (core,
index, request), and the harvest in progress: for each core of the octant, the TAIL at the write of GO. -/
structure OctAgent where
  reading : Option (Nat × Nat × Nat) := none
  merging : Option (Nat × Nat × Nat) := none
  harvest : Option (List Nat) := none
  deriving DecidableEq, Repr

/-- The errors of one unit (R458, R468): corrected errors not yet reported, when it last reported them, and the times of its
latest 16 corrections. -/
structure UnitErrs where
  pending  : Nat := 0
  reported : Option Nat := none
  times    : List Nat := []
  deriving DecidableEq, Repr

/-- A packet that a session has taken and not seen acknowledged (R478, R480). -/
structure Packet where
  seq  : Nat
  req  : Req
  port : Nat
  sent : Nat
  /-- The packet is the response to a request of the other module. -/
  resp : Option Resp := none
  deriving DecidableEq, Repr

/-- What a packet of another module asks for: who sent it, its kind, its fabric address and its bytes. -/
structure InPacket where
  src  : Nat
  kind : Nat
  addr : Nat
  size : Nat
  data : List Byte
  deriving DecidableEq, Repr

/-- The sessions with one other module (R478 to R480): the next sequence number, the packets not acknowledged, the requests
not answered by sequence number; the next sequence expected and the packets held; the epoch; whether it has failed. -/
structure Session where
  next    : Nat := 0
  unacked : List Packet := []
  waiting : List (Nat × Req) := []
  expect  : Nat := 0
  heldIn  : Map InPacket := []
  epoch   : Nat := 0
  failed  : Bool := false
  deriving DecidableEq, Repr

/-- A FABSYNC read (R474): its request, and the fabric requests that it waits for. -/
structure FabSync where
  req : Req
  ids : List Nat
  deriving DecidableEq, Repr

/-- The time discipline (R481): the last time packet sent and received, the last measured offset, and since when the offset
has stayed within 50 ns. -/
structure TimeLink where
  sent    : Option Nat := none
  got     : Nat := 0
  offset  : Nat := 0
  within  : Option Nat := none
  holding : Bool := false
  deriving DecidableEq, Repr

/-- What the module has handed to the host (R469 to R472, R490). -/
inductive HostOut where
  /-- Completions of CXL.mem and BAR0 reads and writes, by request number. -/
  | data (id : Nat) (bytes : List PByte)
  | done (id : Nat)
  | unsupported
  /-- The answer RspIHitI to a snoop. -/
  | rspIHitI (addr : W64)
  /-- A response on the DOE mailbox. -/
  | doe (bytes : List Byte)
  deriving DecidableEq, Repr

/-- The service controllers' state (R486 to R489): the fields of BOOTST, a check or flash write in progress with the word
written to FWCTL, the result of the last, and MINSVN once a COMMIT has fused it. -/
structure BootState where
  ready  : Bool := false
  stage  : Nat := 0
  slot   : Nat := 0
  err    : Nat := 0
  svn    : Nat := 0
  busy   : Bool := false
  res    : Nat := 0
  minSvn : Option Nat := none
  deriving DecidableEq, Repr

/-- The SPDM responder (R490): how far the negotiation has come, the messages exchanged, and the secure session. -/
structure SpdmState where
  version : Bool := false
  caps    : Bool := false
  algs    : Bool := false
  keyed   : Bool := false
  secure  : Bool := false
  epoch   : Nat := 0
  log     : List (List Byte) := []
  deriving DecidableEq, Repr

end Sys2Proof.Machine
end

