-- ==== Sys2Proof/Machine/Maps.lean ====
section
/-!
DEFINITION. Sys2Proof/Machine/Maps.lean: reading and writing finite tables, and sets of natural numbers.
-/
namespace Sys2Proof

/-- The entry of a key, or the default. -/
def Map.get {α : Type} (d : α) : Map α → Nat → α
  | [], _ => d
  | (k, v) :: m, i => if i = k then v else Map.get d m i

/-- The entry of a key where one is listed. -/
def Map.find? {α : Type} : Map α → Nat → Option α
  | [], _ => none
  | (k, v) :: m, i => if i = k then some v else Map.find? m i

/-- Replaces or inserts the entry of a key, keys staying in rising order. -/
def Map.set {α : Type} : Map α → Nat → α → Map α
  | [], i, v => [(i, v)]
  | (k, w) :: m, i, v =>
    if i < k then (i, v) :: (k, w) :: m
    else if i = k then (i, v) :: m
    else (k, w) :: Map.set m i v

/-- Removes the entry of a key. -/
def Map.erase {α : Type} (m : Map α) (i : Nat) : Map α := m.filter (fun e => e.1 != i)

/-- The entries listed, without their keys. -/
def Map.vals {α : Type} (m : Map α) : List α := m.map (·.2)

/-- The keys listed. -/
def Map.keys {α : Type} (m : Map α) : List Nat := m.map (·.1)

/-- Adds an element to a set, keeping it rising and without repeats. -/
def NatSet.add : NatSet → Nat → NatSet
  | [], i => [i]
  | k :: s, i => if i < k then i :: k :: s else if i = k then k :: s else k :: NatSet.add s i

/-- Removes an element from a set. -/
def NatSet.del (s : NatSet) (i : Nat) : NatSet := s.filter (· != i)

/-- Membership of a set. -/
def NatSet.has (s : NatSet) (i : Nat) : Bool := s.any (· == i)

/-- The natural numbers `n` below `k`, rising, `a` added to each. -/
def natsFrom (a k : Nat) : List Nat := (List.range k).map (a + ·)

/-- The entry of a list at an index, or the default. -/
def nth {α : Type} (d : α) : List α → Nat → α
  | [], _ => d
  | x :: _, 0 => x
  | _ :: l, n + 1 => nth d l n

/-- The list with the entry at an index replaced (unchanged past its end). -/
def setNth {α : Type} : List α → Nat → α → List α
  | [], _, _ => []
  | _ :: l, 0, v => v :: l
  | x :: l, n + 1, v => x :: setNth l n v

/-- The first index whose entry satisfies a test. -/
def findIdx {α : Type} (p : α → Bool) : List α → Option Nat
  | [] => none
  | x :: l => if p x then some 0 else (findIdx p l).map (· + 1)

/-- The list without its entry at an index. -/
def dropNth {α : Type} : List α → Nat → List α
  | [], _ => []
  | _ :: l, 0 => l
  | x :: l, n + 1 => x :: dropNth l n

end Sys2Proof
end

