-- ==== Sys2Proof/Machine/Mem.lean ====
section
/-!
DEFINITION. Sys2Proof/Machine/Mem.lean: bytes in canonical lists. A byte that is not listed reads zero: HBM is
zero-filled and SRAM zeroed at boot (34 R486; assumption log 4). Words are little-endian (R7).
-/
namespace Sys2Proof.Machine

/-- The byte at an address. -/
def Memory.byte : List Host.Cell → Nat → Byte
  | [], _ => 0
  | (k, v) :: m, a => if a = k then v else Memory.byte m a

/-- Writes one byte, keeping the canonical form: addresses rising, no zero listed. -/
def Memory.set (m : List Host.Cell) (a : Nat) (b : Byte) : List Host.Cell :=
  if b = 0 then Map.erase m a else Map.set m a b

/-- Addresses strictly above `lo` and rising, no zero listed. -/
def Memory.wfFrom : Option Nat → List Host.Cell → Bool
  | _, [] => true
  | lo, (k, v) :: m => (match lo with | none => true | some l => l < k) && v != 0 && Memory.wfFrom (some k) m

/-- The canonical form of a memory. -/
def Memory.wf (m : List Host.Cell) : Bool := Memory.wfFrom none m

/-- `n` bytes from an address. -/
def Memory.bytes (m : List Host.Cell) (a : Nat) : Nat → List Byte
  | 0 => []
  | n + 1 => Memory.byte m a :: Memory.bytes m (a + 1) n

/-- Writes bytes at consecutive addresses. -/
def Memory.setBytes (m : List Host.Cell) (a : Nat) : List Byte → List Host.Cell
  | [] => m
  | b :: bs => Memory.setBytes (Memory.set m a b) (a + 1) bs

/-- The little-endian value of bytes (R7). -/
def leNat : List Byte → Nat
  | [] => 0
  | b :: bs => b.toNat + 256 * leNat bs

/-- The `n` little-endian bytes of a value. -/
def leBytes (v : Nat) : Nat → List Byte
  | 0 => []
  | n + 1 => BitVec.ofNat 8 v :: leBytes (v / 256) n

/-- Whether one of `n` addresses is poisoned. -/
def poisonedIn (p : NatSet) (a n : Nat) : Bool := p.any (fun x => a ≤ x && x < a + n)

/-- Clears the poison of `n` addresses (R458). -/
def clearPoison (p : NatSet) (a n : Nat) : NatSet := p.filter (fun x => !(a ≤ x && x < a + n))

/-- `n` bytes with their poison. -/
def pbytes (m : List Host.Cell) (p : NatSet) (a : Nat) : Nat → List PByte
  | 0 => []
  | n + 1 => ⟨Memory.byte m a, p.has a⟩ :: pbytes m p (a + 1) n

/-- The values of bytes that carry poison. -/
def PByte.vals (l : List PByte) : List Byte := l.map (·.val)

/-- Whether one of the bytes is poisoned. -/
def PByte.anyBad (l : List PByte) : Bool := l.any (·.bad)

/-- Clean bytes. -/
def PByte.clean (l : List Byte) : List PByte := l.map (fun b => ⟨b, false⟩)

/-- Writes bytes and their poison: a clean byte clears the poison of its address, a poisoned one sets it. -/
def setPBytes (m : List Host.Cell) (p : NatSet) (a : Nat) : List PByte → List Host.Cell × NatSet
  | [] => (m, p)
  | b :: bs => setPBytes (Memory.set m a b.val) (if b.bad then p.add a else p.del a) (a + 1) bs

end Sys2Proof.Machine
end

