-- ==== Sys2Proof/Config.lean ====
section
/-!
DEFINITION. Sys2Proof/Config.lean: what an implementation fixes, and the free values: constants without a body, so that
nothing can be proved about the value they give (assumption log 2).
-/
namespace Sys2Proof.Config

/-- A value that the spec leaves open; the argument is the free-value counter of the state. -/
opaque freeWord : Nat → W64

/-- A byte that the spec leaves open. -/
opaque freeByte : Nat → Byte

/-- A choice that the spec leaves to the device, as a number. -/
opaque freeChoice : Nat → Nat

/-- What a cache chooses when a request reaches it, by the request's number: whether an L2 slice takes the line, and which
line of a full set an L2 slice or an RDC portion gives up (R20, R21; assumption log 110). -/
opaque l2Takes : Nat → Bool
opaque victim : Nat → Nat

/-! ### AV1 (R427; assumption log 12)

What an AV1 bitstream decodes to lies outside the spec. `bs` is the bytes of the stream that can be read, in order. -/

/-- Bytes of the stream that end with output frame `f`. -/
opaque av1End (bs : List Byte) (f : Nat) : Nat

/-- The error that the content of frame `f` meets: 1 SYNTAX, 3 REFERENCE, else none (R433). -/
opaque av1Error (bs : List Byte) (f : Nat) : Nat

/-- What the headers that frame `f` is decoded under say: the profile (0 Main), the chroma format (0 monochrome, 1 4:2:0,
2 4:2:2, 3 4:4:4), the bit depth, and the level X.Y as 10 X + Y. -/
opaque av1Profile (bs : List Byte) (f : Nat) : Nat
opaque av1Chroma (bs : List Byte) (f : Nat) : Nat
opaque av1Depth (bs : List Byte) (f : Nat) : Nat
opaque av1Level (bs : List Byte) (f : Nat) : Nat

/-- The frame type of R433, above 3 where it cannot be known. -/
opaque av1Type (bs : List Byte) (f : Nat) : Nat

/-- Width and height of frame `f`; whether the stream carries film grain for it. -/
opaque av1Width (bs : List Byte) (f : Nat) : Nat
opaque av1Height (bs : List Byte) (f : Nat) : Nat
opaque av1Grain (bs : List Byte) (f : Nat) : Bool

/-- The sample of plane `c` of frame `f` at column `x` and row `y`, with or without film grain. -/
opaque av1Sample (bs : List Byte) (grain : Bool) (f c x y : Nat) : Nat

/-! ### Boot and attestation (R486 to R490; assumption log 13) -/

/-- What the module's flash holds in slot 0 (A) or 1 (B) before any image is written to it. -/
opaque flashImage (slot : Nat) : List Byte

/-- The fused key digest, as four little-endian words, and the fused MINSVN. -/
opaque fusedDigest (i : Nat) : Nat
opaque fusedMinSvn : Nat

/-- The LMS public key whose digest is fused: its identifier of 16 bytes and its root of 32 bytes (RFC 8554). -/
opaque lmsKey : List Byte
opaque lmsRoot : List Byte

/-- The response of the SPDM responder: the code of the request, the request, and the messages exchanged before. -/
opaque spdmReply (code : Nat) (req : List Byte) (log : List (List Byte)) : List Byte

/-- Whether the SPDM responder accepts a request's contents (signatures, MACs and parameters). -/
opaque spdmAccepts (code : Nat) (req : List Byte) (log : List (List Byte)) : Bool

/-- A SHA-384 digest. -/
opaque sha384 (bytes : List Byte) : List Byte

/-- The bytes of the boot ROM and of the fused configuration. -/
opaque bootRom : List Byte
opaque fusedConfig : List Byte

end Sys2Proof.Config
end

