-- ==== Sys2Proof/Machine/State.lean ====
section
/-!
DEFINITION. Sys2Proof/Machine/State.lean: the state of one Ulucy D9 module as plain data, the state after reset, and the
reasons a step can stop. Every field's default is its value at module reset; assumption log 8 names the values that the
spec leaves open.
-/
namespace Sys2Proof.Machine

/-- The reasons for which the machine stops with a fault. -/
inductive Fault where
  /-- Raised by a step of the machine (a row without an encoding) that names a unit which the module does not have
  (R17). Safe: no such unit can take a step. -/
  | noSuchUnit
  deriving DecidableEq, Repr

/-- The reasons for which the model gives no meaning. -/
inductive Refusal where
  /-- Raised by an arm of `exec` whose instruction has no meaning yet. Safe: nothing is claimed of it. -/
  | notModelled (mnemonic : String)
  deriving DecidableEq, Repr

/-- One choice of R154 and R155: which enabled step the machine takes next, or how far time passes before one. -/
inductive Pick where
  /-- A core issues an instruction from one of its contexts (R139). -/
  | issue (core ctx : Nat)
  /-- A step of the machine that has no encoding. -/
  | event (i : Instr)
  /-- `cycles` clock cycles pass, and `ns` nanoseconds of domain time on each die (R6, R34). -/
  | tick (cycles : Nat) (ns : List Nat)
  deriving DecidableEq, Repr

/-- The requests that travel from an agent to a home (R153). -/
structure Chan where
  agent : Agent
  home  : Home
  reqs  : List Req
  deriving DecidableEq, Repr

/-- The answers that travel back (R153). -/
structure RChan where
  home  : Home
  agent : Agent
  resps : List Resp
  deriving DecidableEq, Repr

/-- A lease in the cache of a translating slice (R354): the pages of `size` from virtual address `base`. -/
structure Lease where
  slice : Nat
  asid  : Nat
  base  : Nat
  tr    : Tr
  deriving DecidableEq, Repr

/-- A fault record (R449) as its eight words, with the address space it goes to. -/
structure FaultRec where
  asid  : Nat
  core  : Nat
  words : List W64
  deriving DecidableEq, Repr

/-- A launch that a queue agent has taken (R118 to R127, R143, R144). -/
structure Launch where
  queue       : Nat
  index       : Nat
  words       : List W64
  asid        : Nat
  job         : Nat
  mask        : Nat
  n           : Nat
  /-- The index of the next task message (R126), and whether every message has been sent (R123). -/
  next        : Nat := 0
  started     : Bool := false
  sentAll     : Bool := false
  outstanding : Nat := 0
  lost        : Nat := 0
  killed      : Nat := 0
  cancelled   : Bool := false
  /-- The write-backs of an edge that have not been acknowledged (R178), once they are appended. -/
  flush       : Option (List Nat) := none
  /-- The final status once the completion record is written (R122), and the request that writes it. -/
  status      : Option Nat := none
  record      : Option Nat := none
  deriving DecidableEq, Repr

/-- A home core (R18). -/
structure HomeCore where
  ctxs        : Map Ctx := []
  conf        : Option Conf := none
  /-- The scratchpad's bytes by offset, canonical with default 0 (34 R486), and the offsets that are poisoned. -/
  spad        : List Host.Cell := []
  spadPoison  : NatSet := []
  /-- The instruction store by word number, default 0, and the word numbers that are poisoned (R18, R444). -/
  istore      : Map W32 := []
  istorePoison : NatSet := []
  l1          : List L1Line := []
  oq          : List Req := []
  out         : List Out := []
  runq        : List Flight := []
  ovf         : List Flight := []
  /-- The message chosen for a reconfiguration, no longer counted once a cancel has dropped it, and the overlay's text as
  checked (R129, R146). -/
  chosen      : Option Flight := none
  chosenText  : Option (List Byte) := none
  /-- R141. -/
  agelim      : W64 := 256
  /-- R409. -/
  kvring      : W64 := 0
  /-- R492. -/
  issued      : Nat := 0
  spoob       : Nat := 0
  corr        : Nat := 0
  /-- R334. -/
  shadow      : Map Shadow := []
  /-- wa0 to wa7 (R272); a slot that is not listed is free. -/
  wa          : Map WaSlot := []
  /-- Copy channels 0 to 3 (R373). -/
  copies      : Map CopyChan := []
  /-- Launches whose cancel has arrived (R146). -/
  cancels     : NatSet := []
  /-- The cycle in which the core last issued (R139). -/
  issuedAt    : Option Nat := none
  /-- The last cycle in which a task lived on the core (R148). -/
  lastLive    : Nat := 0
  deriving DecidableEq, Repr

/-- The state of the module. -/
structure State where
  /-- Home cores by core id; one that is not listed is as at reset. -/
  cores    : Map HomeCore := []
  /-- HBM bytes by device-physical address, canonical with default 0 (34 R486), and the poisoned addresses (R458). -/
  mem      : List Host.Cell := []
  poison   : NatSet := []
  /-- Positions in the locations' orders, per line of HBM (R151, R158). -/
  order    : Map Nat := []
  /-- The lines of each RDC portion (R153), and the lines that the L2 slices hold, by line number (R20). -/
  rdc      : Map (List RdcLine) := []
  l2       : Map L2Line := []
  chans    : List Chan := []
  rchans   : List RChan := []
  /-- Device registers by device-physical address; one that is not listed has its reset value (DevRegs.lean). -/
  dev      : Map W64 := []
  /-- CHAIN_MAX of each die (R313). -/
  chainMax : Map W64 := []
  /-- Domain time of each die in ns (R34), each keeper's horizon (R361), and the dies in skew mode (R364). -/
  time     : Map Nat := []
  horizon  : Map Nat := []
  skew     : NatSet := []
  leases   : List Lease := []
  /-- The queue of each octant's vector pool (R247), and the cycle and lanes that each has last accepted (R250). -/
  pools    : Map (List PoolReq) := []
  poolUse  : Map (Nat × Nat) := []
  /-- Hires and binds that are not final, in issue order (R304), and the dense arrays (R302 to R320). -/
  hires    : List Hire := []
  arrays   : Map ArrayUnit := []
  /-- The base-die engines, by stack (R26). -/
  bdes     : Map Bde := []
  /-- The video decode engines, by module id (R427). -/
  videos   : Map VideoUnit := []
  /-- What pre-emptions have saved (R463). -/
  saves    : List SaveRec := []
  /-- Requests of engines that have not been acknowledged, and those that were refused or skipped (R173, R231, R314). -/
  engOut   : NatSet := []
  engBad   : NatSet := []
  /-- The bytes that answers have brought to the reads of engines and that are not used yet, by request (R153, R172). -/
  engIn    : Map (List PByte) := []
  /-- Deferred `ldf` requests (R243) and registered `waita` and `barw` requests (R232, R236). -/
  deferred : List Req := []
  waiters  : List Req := []
  /-- Answers of `join` and `leave` that wait for their group's adjustment (R229), with the barrier's address. -/
  adjusts  : List (Resp × Nat) := []
  /-- The launch whose job a barrier's pending continuation counts toward, by the barrier's address (R230). -/
  barConts : Map Nat := []
  launches : Map Launch := []
  /-- The queue that each die's agent has last served at each priority (R125), at key 256 times the die plus the priority. -/
  served   : Map Nat := []
  /-- The records of each queue, by index, that `qput` has placed (R221). -/
  placed   : Map NatSet := []
  /-- Cancels on their way to the queue agents (R223), and the records marked in each queue by index. -/
  cancelOps : List CancelOp := []
  marks    : Map NatSet := []
  /-- The hub's registers (R330), its broadcasts, the `incset` in progress by register, the requests that wait for one
  (R336), and the shadows of the queue agents (R334). -/
  hub      : Map Shadow := []
  bcasts   : List Bcast := []
  incsets  : Map IncSet := []
  hubWait  : List Req := []
  agentShadow : Map (Map Shadow) := []
  /-- The tasks that are over and still leave their groups (R142). -/
  leaving  : List Leaving := []
  /-- Tasks that were killed or dropped, by instance: their continuations are dropped (R145). -/
  deadTasks : NatSet := []
  /-- Task messages in flight (R126, R136). -/
  msgs     : List Flight := []
  hints    : List Hint := []
  /-- Fault records on their way to their queue (R448), and those held at their cores (R451), in the order of their traps. -/
  faults   : List FaultRec := []
  heldFaults : List FaultRec := []
  /-- The errors of each unit, by die and unit (R458, R485). -/
  errs     : Map UnitErrs := []
  /-- The octant agents (R23), and the cores and agents that LAGCLR has named (R495). -/
  octs     : Map OctAgent := []
  lagSend  : NatSet := []
  /-- The end of the governor's last window (R36). -/
  window   : Nat := 0
  /-- The sessions by module (R478), the FABSYNC reads that wait (R474), since when the route of each module has had no port that is
  up (R480), and the time discipline (R481). -/
  sessions : Map Session := []
  fabsyncs : List FabSync := []
  routeDown : Map Nat := []
  timeLink : TimeLink := {}
  /-- The host port: its link, the requests that it has issued to the host (R472), what it has handed to the host, the
  SPDM responder and the IDE keys (R469, R490). -/
  cxlWidth : Nat := 16
  cxlRate  : Nat := 128
  hostReqs : List Req := []
  hostOut  : List HostOut := []
  spdm     : SpdmState := {}
  ideKeys  : Map (List Byte) := []
  /-- Boot (R486 to R489): the images that have been written to flash slots 0 and 1 since the module was made. -/
  boot     : BootState := {}
  flash    : Map (List Byte) := []
  /-- The model's own: the picks still to take, whose instruction `exec` runs, the cycle count, and the counters of
  request numbers, task instances and free values (assumption log 1 to 3). -/
  agenda   : List Pick := []
  curCore  : Nat := 0
  curCtx   : Nat := 0
  cycle    : Nat := 0
  nextId   : Nat := 0
  free     : Nat := 0
  deriving DecidableEq, Repr

/-- The module right after reset (34 R486): every field at the value its definition above names. -/
def State.reset : State := {}

end Sys2Proof.Machine
end

