-- ==== Sys2Proof/Machine/Ops.lean ====
section
/-!
DEFINITION. Sys2Proof/Machine/Ops.lean: the named operations on registers and contexts, the scoreboard (R99 to R102),
taking a trap (R444 to R448) and returning from one (R211), and the frame in which every encoded instruction runs
(R100, R104, R105, R215).
-/
namespace Sys2Proof.Machine

abbrev Out1 := Host.Outcome State Fault Refusal

/-! ### Cores and contexts -/

def State.core (s : State) (c : Nat) : HomeCore := s.cores.get {} c
def State.setCore (s : State) (c : Nat) (h : HomeCore) : State := { s with cores := s.cores.set c h }
def State.updCore (s : State) (c : Nat) (f : HomeCore → HomeCore) : State := s.setCore c (f (s.core c))

def HomeCore.ctx (h : HomeCore) (k : Nat) : Ctx := h.ctxs.get {} k
def HomeCore.setCtx (h : HomeCore) (k : Nat) (t : Ctx) : HomeCore := { h with ctxs := h.ctxs.set k t }

def State.ctx (s : State) (c k : Nat) : Ctx := (s.core c).ctx k
def State.setCtx (s : State) (c k : Nat) (t : Ctx) : State := s.updCore c (·.setCtx k t)
def State.updCtx (s : State) (c k : Nat) (f : Ctx → Ctx) : State := s.setCtx c k (f (s.ctx c k))

/-- The context whose instruction is at issue, and its core. -/
def State.cur (s : State) : Ctx := s.ctx s.curCore s.curCtx
def State.setCur (s : State) (t : Ctx) : State := s.setCtx s.curCore s.curCtx t
def State.updCur (s : State) (f : Ctx → Ctx) : State := s.setCur (f s.cur)
def State.here (s : State) : HomeCore := s.core s.curCore
def State.updHere (s : State) (f : HomeCore → HomeCore) : State := s.updCore s.curCore f

/-- The die of a core (R17), and the die of the task at issue. -/
def dieOf (core : Nat) : Nat := core / 384
def State.die (s : State) : Nat := dieOf s.curCore

/-- Domain time of a die (R34). -/
def State.timeOf (s : State) (d : Nat) : Nat := s.time.get 0 d
def State.now (s : State) : Nat := s.timeOf s.die

/-- A fresh number for a request, a task instance or an operation. -/
def State.fresh (s : State) : Nat × State := (s.nextId, { s with nextId := s.nextId + 1 })

/-- A free value and the state that has used it (assumption log 2). -/
def State.freeWord (s : State) : W64 × State := (Config.freeWord s.free, { s with free := s.free + 1 })
def State.freeChoice (s : State) : Nat × State := (Config.freeChoice s.free, { s with free := s.free + 1 })

/-- The launch of a task or message; one that is not listed has no cores in its mask. -/
def State.launch? (s : State) (id : Nat) : Option Launch := s.launches.find? id

/-! ### STATUS (R205) -/

def Ctx.sup (t : Ctx) : Bool := t.status.getLsbD 15
def Ctx.th (t : Ctx) : Bool := t.status.getLsbD 14
def Ctx.xb (t : Ctx) : Bool := t.status.getLsbD 9
def Ctx.sbchk (t : Ctx) : Bool := t.status.getLsbD 8
def Ctx.pp (t : Ctx) : Bool := t.status.getLsbD 7
def Ctx.rm (t : Ctx) : Nat := t.status.toNat / 2 ^ 10 % 4

/-- A word with bit `i` set to `b`. -/
def setBit (w : W64) (i : Nat) (b : Bool) : W64 :=
  if b then w ||| (1#64 <<< i) else w &&& ~~~(1#64 <<< i)

def Ctx.setPp (t : Ctx) (b : Bool) : Ctx := { t with status := setBit t.status 7 b }
def Ctx.setTh (t : Ctx) (b : Bool) : Ctx := { t with status := setBit t.status 14 b }
def Ctx.setFut (t : Ctx) (b : Bool) : Ctx := { t with status := setBit t.status 13 b }

/-! ### Registers (R18, R106, R108, R246) -/

/-- The bank that register fields name (R108). -/
def Ctx.bank (t : Ctx) : Nat := if t.paired && t.xb then 1 else 0

/-- `X(i)` of R106. -/
def Ctx.readX (t : Ctx) (i : Nat) : W64 := if i = 0 then 0 else t.x.get 0 (32 * t.bank + i)

/-- The lanes of the claim, 0 without one. -/
def Ctx.lanes (t : Ctx) : Nat := match t.claim with | some c => c.lanes | none => 0

/-- `V(i)` of R106: one value for each lane of the claim. A register that the claim has not written holds zero lanes. -/
def Ctx.readV (t : Ctx) (i : Nat) : List W32 :=
  match t.claim with
  | some c => (List.range c.lanes).map (nth 0 (c.v.get [] i))
  | none => []

/-- `K(j)` of R106. -/
def Ctx.readK (t : Ctx) (j : Nat) : List Bool :=
  match t.claim with
  | some c => (List.range c.lanes).map (nth false (c.k.get [] j))
  | none => []

/-- `active(l, mk)` of R106. -/
def Ctx.active (t : Ctx) (mk l : Nat) : Bool := mk == 0 || nth false (t.readK mk) l

/-- Writes a value to its register; x0 discards it. -/
def Ctx.put (t : Ctx) (r : Reg) (v : RegVal) : Ctx :=
  match r, v with
  | .x b i, .word w => if i = 0 then t else { t with x := t.x.set (32 * b + i) w }
  | .v i, .lanes l =>
    match t.claim with
    | some c => { t with claim := some { c with v := c.v.set i l } }
    | none => t
  | .k i, .mask m =>
    match t.claim with
    | some c => { t with claim := some { c with k := c.k.set i m } }
    | none => t
  | _, _ => t

/-- A register field of an instruction. -/
inductive RName where
  | x (i : Nat)
  | v (i : Nat)
  | k (i : Nat)
  | fut
  deriving DecidableEq, Repr

/-- The register that a field names in the task's bank (R108). -/
def RName.reg (t : Ctx) : RName → Reg
  | .x i => .x t.bank i
  | .v i => .v i
  | .k i => .k i
  | .fut => .fut

/-- The register number of R445's INFO. -/
def Reg.info : Reg → Nat
  | .x _ i => i
  | .v i => 32 + i
  | .k i => 48 + i
  | .fut => 0

/-- Whether a register keeps a pending count: every register but x0 (R100), and k0 is no register. -/
def Reg.counts : Reg → Bool
  | .x _ i => i != 0
  | .v _ => true
  | .k i => i != 0
  | .fut => true

/-! ### The scoreboard (R100 to R102) -/

/-- A register result of an instruction. -/
inductive Write where
  /-- A fixed-latency result. -/
  | fixed (r : RName) (v : RegVal) (lat : Nat)
  /-- A variable-latency result that is written in this step. -/
  | now (r : RName) (v : RegVal)
  /-- A variable-latency result that an answer brings: `var(r) := 1`. -/
  | later (r : RName)
  deriving DecidableEq, Repr

def Ctx.findPend (t : Ctx) (r : Reg) : Option Pend := t.pend.find? (fun p => p.reg == r)

/-- Discards the pending result of a register, its count running on (R101). -/
def Ctx.dropPend (t : Ctx) (r : Reg) : Ctx :=
  { t with pend := t.pend.map (fun p => if p.reg = r then { p with val := none } else p) }

/-- Takes one result into the scoreboard. -/
def Ctx.take (t : Ctx) : Write → Ctx
  | .fixed r v lat =>
    let r := r.reg t
    if r.counts then { t with pend := ⟨r, some v, lat⟩ :: t.pend.filter (fun p => p.reg != r) } else t
  | .now r v =>
    let r := r.reg t
    if r.counts then (t.dropPend r).put r v else t
  | .later r =>
    let r := r.reg t
    if r.counts then
      let t := t.dropPend r
      { t with var := if t.var.contains r then t.var else r :: t.var }
    else t

/-- Writes a pending result whose count has run out. -/
def Ctx.commit (t : Ctx) (p : Pend) : Ctx :=
  match p.val with
  | some v => t.put p.reg v
  | none => t

/-- Lets `n` cycles of stall count pass (R100): results whose count reaches zero reach their registers (R101). -/
def Ctx.elapse (t : Ctx) (n : Nat) : Ctx :=
  let t' := (t.pend.filter (fun p => p.count ≤ n)).foldl Ctx.commit t
  { t' with pend := (t.pend.filter (fun p => n < p.count)).map (fun p => { p with count := p.count - n }) }

/-- Settles every fixed-latency result (R102). -/
def Ctx.settle (t : Ctx) : Ctx := { t.pend.foldl Ctx.commit t with pend := [] }

/-- The answer to an interlocked result: writes it and clears `var(r)` (R100). -/
def Ctx.answerReg (t : Ctx) (r : Reg) (v : RegVal) : Ctx :=
  let t := t.put r v
  { t with var := t.var.filter (· != r) }

/-! ### Traps (R444 to R448) -/

/-- The instruction word at the pc of a context (R91), taken from the `ovld` window where one stands (R213). -/
def State.wordAt (s : State) (c : Nat) (t : Ctx) : W32 :=
  match t.window.find? t.pc.toNat with
  | some w => w.1
  | none => (s.core c).istore.get 0 (t.pc.toNat / 4)

/-- The Route column of R445: true for H. -/
def routeH (cause info : Nat) : Bool :=
  match cause with
  | 0x10 => false
  | 0x11 => !(info % 2 ^ 15 == 4 || info % 2 ^ 15 == 5)
  | 0x13 => info == 0
  | 0x30 => false
  | _ => true

/-- FAULTA of R208. -/
def faultaWord (nest : Bool) (info epc cause : Nat) : W64 :=
  w64 ((if nest then 2 ^ 40 else 0) + info % 2 ^ 16 * 2 ^ 24 + epc % 2 ^ 16 * 2 ^ 8 + cause % 256)

/-- The fault record of R449 for a task that has just been parked faulted. -/
def faultRecord (s : State) (c k : Nat) (t : Ctx) (insn : Nat) : FaultRec :=
  let a := t.faulta.toNat
  let token := t.fseq % 2 ^ 16 * 2 ^ 16 + (c * 16 + k)
  { asid := t.asid, core := c,
    words :=
      [w64 (bitsOf a 40 40 * 2 ^ 48 + bitsOf a 39 24 * 2 ^ 32 + bitsOf a 23 8 * 2 ^ 16 + bitsOf a 7 0), t.faultb,
        w64 (t.fseq % 2 ^ 16 * 2 ^ 32 + token), w64 (t.asid * 2 ^ 32 + t.job), w64 (s.timeOf (dieOf c)), w64 insn, 0, 0] }

/-- Handler entry (R447), the causes of the trap already recorded. -/
def Ctx.enterHandler (t : Ctx) : Ctx :=
  let t := { t with savedPP := t.pp, savedPfx := t.pfx }
  let t := (t.setPp false).setTh true
  { t with pc := BitVec.ofNat 16 (bitsOf t.tvec.toNat 15 2 * 4), wait := .settle, waitFrom := none, phase := .running,
           window := [] }

/-- `eret` (R211) in a task whose STATUS.TH is 1 and whose EPC is a multiple of 4: PP and the prefix state are restored,
TH clears, and control goes to FAULTA.EPC. -/
def Ctx.leaveHandler (t : Ctx) : Ctx :=
  let t := { t with pfx := t.savedPfx }
  (t.setPp t.savedPP).setTh false

/-- FAULTA.EPC. -/
def Ctx.epc (t : Ctx) : Nat := bitsOf t.faulta.toNat 23 8

end Sys2Proof.Machine
end

