-- ==== Sys2Proof/Machine/DevRegs.lean ====
section
/-!
DEFINITION. Sys2Proof/Machine/DevRegs.lean: the device register space (R27): where each unit's registers lie, their
reset values, and reading a register's stored value. What a write or a read does beyond storing is in Device.lean.
-/
namespace Sys2Proof.Machine

/-- The base of die `d`'s register space (R115). -/
def devBase (d : Nat) : Nat := 0x8000000000 + d * 0x2000000000

/-- The die and the offset of an address of device register space. -/
def devDie (pa : Nat) : Nat := (pa - 0x8000000000) / 0x2000000000
def devOff (pa : Nat) : Nat := (pa - 0x8000000000) % 0x2000000000

/-- The reset value of a register by its offset in the register space of its die; every other register's is 0. -/
def devReset (pa : Nat) : W64 :=
  match devOff pa with
  | 0x00800000 => if devDie pa = 0 then w64 (10000 * 2 ^ 24) else 0
  | 0x00D00210 => if devDie pa = 0 then w64 (19 * 2 ^ 16 + 3600) else 0
  | 0x00D00218 => if devDie pa = 0 then w64 (1900 * 2 ^ 16) else 0
  | _ => 0

/-- The stored value of a device register. -/
def State.reg (s : State) (pa : Nat) : W64 := s.dev.get (devReset pa) pa

/-- Stores a device register. -/
def State.setReg (s : State) (pa : Nat) (v : W64) : State := { s with dev := s.dev.set pa v }

/-- The bits `hi` to `lo` of a device register. -/
def State.regBits (s : State) (pa hi lo : Nat) : Nat := bitsOf (s.reg pa).toNat hi lo

/-- A word with bits `hi` to `lo` replaced. -/
def putBits (w : W64) (hi lo v : Nat) : W64 :=
  w64 (w.toNat / 2 ^ (hi + 1) * 2 ^ (hi + 1) + v % 2 ^ (hi - lo + 1) * 2 ^ lo + w.toNat % 2 ^ lo)

/-! ### Addresses of the registers -/

def queueBase (q : Nat) : Nat := devBase (q / 64) + 0x00100000 + q % 64 * 0x100
def pQctl (q : Nat) : Nat := queueBase q
def pQbase (q : Nat) : Nat := queueBase q + 0x08
def pQsize (q : Nat) : Nat := queueBase q + 0x10
def pQhead (q : Nat) : Nat := queueBase q + 0x18
def pQtail (q : Nat) : Nat := queueBase q + 0x20
def pQmask (q j : Nat) : Nat := queueBase q + 0x40 + 8 * j
def pDovb (d : Nat) : Nat := devBase d + 0x00200000
def pDovs (d : Nat) : Nat := devBase d + 0x00200008
def pAsroot (d a : Nat) : Nat := devBase d + 0x00300000 + 8 * a
/-- Octant `o` of the module, core `k` of the octant (R365). -/
def octBase (o : Nat) : Nat := devBase (o / 48) + 0x00400000 + o % 48 * 0x200
def pDlcfg (core : Nat) : Nat := octBase (core / 8) + core % 8 * 0x20
def pDlhead (core : Nat) : Nat := pDlcfg core + 8
def pDltail (core : Nat) : Nat := pDlcfg core + 0x10
def pDlharv (o : Nat) : Nat := octBase o + 0x100
def fqBase (a : Nat) : Nat := devBase 0 + 0x00500000 + a * 0x40
def pRq : Nat := devBase 0 + 0x00600000
def pWdctl (d : Nat) : Nat := devBase d + 0x00700000
def pFabctl : Nat := devBase 0 + 0x00800000
def pFabsync : Nat := devBase 0 + 0x00800008
def pPortst : Nat := devBase 0 + 0x00800010
def pTdctl : Nat := devBase 0 + 0x00800018
def pImport (d w : Nat) : Nat := devBase d + 0x00900000 + 8 * w
def pExport (w : Nat) : Nat := devBase 0 + 0x00A00000 + 8 * w
def pRoute (t : Nat) : Nat := devBase 0 + 0x00B00000 + 8 * t
def pHostAp (w : Nat) : Nat := devBase 0 + 0x00C00000 + 8 * w

/-- The address of DISMASKj of a die (R484). -/
def pDismask (d j : Nat) : Nat := devBase d + 0x00D00080 + 8 * j

/-- Whether unit `u` of a die is disabled (R485, R494). -/
def State.disabled (s : State) (d u : Nat) : Bool := bitOf (s.reg (pDismask d (u / 64))).toNat (u % 64)

/-! ### Regions and homes (R27, R29, R149, R472, R475) -/

/-- Whether `n` bytes lie wholly in the HBM region. -/
def inHbm (pa n : Nat) : Bool := pa + n ≤ 2 ^ 39

/-- The hash of R29. -/
def homeSlice (pa : Nat) : Nat :=
  let line := bitsOf pa 36 7
  let a := bitsOf line 6 0 ^^^ bitsOf line 13 7 ^^^ bitsOf line 20 14 ^^^ bitsOf line 27 21 ^^^ bitsOf line 29 28
  line % 3 * 128 + a

/-- The home core of an HBM address, which is also the number of its home slice (R17, R29). -/
def homeCore (pa : Nat) : Nat := bitsOf pa 38 37 * 384 + homeSlice pa

/-- The stack of an HBM address (R28). -/
def stackOf (pa : Nat) : Nat :=
  2 * bitsOf pa 38 37 + (bitsOf pa 12 12 ^^^ bitsOf pa 20 20 ^^^ bitsOf pa 28 28 ^^^ bitsOf pa 36 36)

/-- Whether an address lies in the fabric aperture of its die (R475). -/
def inFabric (pa : Nat) : Bool := 0x1000000000 ≤ devOff pa && 2 ^ 39 ≤ pa && pa < 2 ^ 40

/-- The export window that the import entry of an address names now (R475). -/
def State.fabWin (s : State) (pa : Nat) : Nat :=
  if inFabric pa then s.regBits (pImport (devDie pa) (bitsOf (devOff pa) 35 26)) 38 26 else 0

/-- Whether an address lies in the host aperture (R472). -/
def inHostAp (pa : Nat) : Bool := 2 ^ 39 ≤ pa && devDie pa = 0 && 0x800000000 ≤ devOff pa && devOff pa < 0x1000000000

/-- The home of a device-physical address. -/
def State.homeOf (s : State) (pa : Nat) : Home :=
  if pa < 2 ^ 39 then .slice (homeCore pa)
  else if inFabric pa then .remote (s.regBits (pImport (devDie pa) (bitsOf (devOff pa) 35 26)) 56 48)
  else if inHostAp pa then .hostPort
  else .device (devDie pa)

/-- Whether lines at an address may be held in an L1: HBM and other modules' memory are, device registers and the host
aperture are not (R472; assumption log 10). -/
def cacheable (pa : Nat) : Bool := pa < 2 ^ 39 || inFabric pa

/-- Whether the fabric window of an address admits an access (R475). -/
def State.fabricOk (s : State) (pa : Nat) (write : Bool) : Bool :=
  let e := (s.reg (pImport (devDie pa) (bitsOf (devOff pa) 35 26))).toNat
  bitOf e 63 && (!write || bitOf e 62) && bitsOf e 56 48 ≤ 431 && bitsOf e 56 48 != s.regBits pFabctl 16 8 &&
    s.regBits pFabctl 0 0 == 1

/-- Whether an access to an address is refused with detail REGION: a reserved region (R27), or a fabric window that does
not admit it (R475). -/
def State.badRegion (s : State) (pa : Nat) (write : Bool) : Bool := 2 ^ 40 ≤ pa || (inFabric pa && !s.fabricOk pa write)

end Sys2Proof.Machine
end

