-- ==== Sys2Proof/Machine/Write.lean ====
section
/-!
DEFINITION. Sys2Proof/Machine/Write.lean: performing reads and writes at the homes of memory: HBM and scratchpads, with the
answers that a write gives to registered waits (R151, R170, R219, R236, R244, R458).
-/
namespace Sys2Proof.Machine

/-! ### Response channels (R153) -/

/-- Appends an answer to the channel of its home and agent. -/
def addResp : List RChan → Home → Agent → Resp → List RChan
  | [], h, a, r => [⟨h, a, [r]⟩]
  | c :: cs, h, a, r => if c.home = h ∧ c.agent = a then { c with resps := c.resps ++ [r] } :: cs else c :: addResp cs h a r

def State.respond (s : State) (r : Resp) : State := { s with rchans := addResp s.rchans r.req.home r.req.agent r }

/-! ### Orders (R151) -/

/-- The position of an HBM line's order. -/
def State.posOf (s : State) (pa : Nat) : Nat := s.order.get 0 (pa / 128)

/-- One step of a line's order. -/
def State.bumpOrder (s : State) (pa : Nat) : State := { s with order := s.order.set (pa / 128) (s.posOf pa + 1) }

/-- The lines of `n` bytes at an address. -/
def linesOf (pa n : Nat) : List Nat := if n = 0 then [] else natsFrom (pa / 128) ((pa + n - 1) / 128 - pa / 128 + 1)

/-- One step of the order of every line of `n` bytes. -/
def State.bumpLines (s : State) (pa n : Nat) : State := (linesOf pa n).foldl (fun s l => s.bumpOrder (l * 128)) s

/-- Scratchpad bytes of a core (SPSIZE of R207, R129). -/
def HomeCore.spsize (h : HomeCore) : Nat := match h.conf with | some k => 16384 * k.n | none => 0

/-! ### Scratchpads -/

/-- The bytes of a scratchpad with their poison. -/
def HomeCore.spBytes (h : HomeCore) (off n : Nat) : List PByte := pbytes h.spad h.spadPoison off n

/-- A task parked in `park` on a word of which a byte is written becomes ready with the word's value (R219); where the write has left
a byte of it poisoned, the `park` traps with poison (R459; assumption log 19). -/
def Ctx.wakeWord (t : Ctx) (h : HomeCore) (off n : Nat) : Ctx :=
  match t.wait with
  | .word w r =>
    if off < w + 8 && w < off + n then
      let t := { t with waitFrom := none, phase := .running }
      if poisonedIn h.spadPoison w 8 then
        let pc : BitVec 16 := t.pc - 4
        { t with pc := pc, wait := .trap none 0x13 0 (w64 (0xFFFFFFFFFFF00000 + w)) pc.toNat (h.istore.get 0 (pc.toNat / 4)).toNat }
      else { t.put r (.word (w64 (leNat (Memory.bytes h.spad w 8)))) with wait := .settle }
    else t
  | _ => t

/-- Every task of the core that a write wakes (R219). -/
def HomeCore.wakeWords (h : HomeCore) (off n : Nat) : HomeCore :=
  { h with ctxs := h.ctxs.map (fun e => (e.1, e.2.wakeWord h off n)) }

/-- Sets bytes of a scratchpad. -/
def HomeCore.spSet (h : HomeCore) (off : Nat) (bs : List PByte) : HomeCore :=
  let (m, p) := setPBytes h.spad h.spadPoison off bs
  { h with spad := m, spadPoison := p }

/-- Writes bytes to a scratchpad, waking `park`. -/
def HomeCore.spWrite (h : HomeCore) (off : Nat) (bs : List PByte) : HomeCore := (h.spSet off bs).wakeWords off bs.length

/-- Whether two byte ranges overlap. -/
def overlap (a n b m : Nat) : Bool := a < b + m && b < a + n

/-- Whether a registered `waita` waits on a byte of a written range at a home (R236). -/
def Req.waitsOn (r : Req) (home : Home) (a n : Nat) : Bool :=
  match r.op with
  | .waita _ => r.home == home && overlap r.addr 8 a n
  | _ => false

/-- Answers every `waita` registered on a written range with the word it waits on; a poisoned one makes it trap (R236, R459). -/
def State.answerWaita (s : State) (home : Home) (a n : Nat) (word : Nat → List PByte) : State :=
  let hit := s.waiters.filter (fun r => r.waitsOn home a n)
  let s := { s with waiters := s.waiters.filter (fun r => !r.waitsOn home a n) }
  hit.foldl (fun s r =>
    let b := word r.addr
    s.respond { req := r, val := w64 (leNat (PByte.vals b)), poison := PByte.anyBad b }) s

/-- Answers the registered waits on a written range of a scratchpad. -/
def State.spAnswer (s : State) (c off n : Nat) : State :=
  s.answerWaita (.spad c) off n (fun a => (s.core c).spBytes a 8)

/-- A write performed at a scratchpad by any agent (R170, R219, R236). -/
def State.spWrite (s : State) (c off : Nat) (bs : List PByte) : State :=
  (s.updCore c (·.spWrite off bs)).spAnswer c off bs.length

/-- What the writes of one step to several ranges of a scratchpad wake, once every byte of the step is written (R283). -/
def State.spTouched (s : State) (c : Nat) (ranges : List (Nat × Nat)) : State :=
  ranges.foldl (fun s r => (s.updCore c (·.wakeWords r.1 r.2)).spAnswer c r.1 r.2) s

/-! ### HBM -/

/-- The 64-bit word at an HBM address. -/
def State.memWord (s : State) (pa : Nat) : W64 := w64 (leNat (Memory.bytes s.mem pa 8))

/-- The bytes at an HBM address with their poison. -/
def State.memBytes (s : State) (pa n : Nat) : List PByte := pbytes s.mem s.poison pa n

/-- Answers every deferred `ldf` of a cell that a write has left full, in deferral order (R244); a poisoned cell makes it trap
(R459). -/
def State.answerFutures (s : State) (a n : Nat) : State :=
  let hit := fun (r : Req) => overlap r.addr 16 a n && bitOf (s.memWord (r.addr + 8)).toNat 0
  let hits := s.deferred.filter hit
  let s' := { s with deferred := s.deferred.filter (fun r => !hit r) }
  hits.foldl (fun t r => t.respond { req := r, val := s.memWord r.addr, poison := poisonedIn s.poison r.addr 16 }) s'

/-- The answers that a write to `n` bytes at an HBM address gives. -/
def State.afterWrite (s : State) (pa n : Nat) : State :=
  (s.answerWaita (.slice (homeCore pa)) pa n (fun a => s.memBytes a 8)).answerFutures pa n

/-- A write performed at an HBM home: the bytes take their values and poison, the line's order goes on, and the waits that
the write ends are answered. -/
def State.memWrite (s : State) (pa : Nat) (bs : List PByte) : State :=
  let (m, p) := setPBytes s.mem s.poison pa bs
  (({ s with mem := m, poison := p } : State).bumpLines pa bs.length).afterWrite pa bs.length

/-- Writes a clean 64-bit word at an HBM home. -/
def State.memSetWord (s : State) (pa : Nat) (v : W64) : State := s.memWrite pa (PByte.clean (leBytes v.toNat 8))

/-- Writes scattered bytes of a line (a write-back, R164), as one performed write. -/
def State.memScatter (s : State) (base : Nat) (bs : Map PByte) : State :=
  let (m, p) := bs.foldl (fun (mp : List Host.Cell × NatSet) e => setPBytes mp.1 mp.2 (base + e.1) [e.2]) (s.mem, s.poison)
  let s := ({ s with mem := m, poison := p } : State).bumpOrder base
  bs.foldl (fun s e => s.afterWrite (base + e.1) 1) s

end Sys2Proof.Machine
end

