-- ==== Sys2Proof/Machine/Translate.lean ====
section
/-!
DEFINITION. Sys2Proof/Machine/Translate.lean: virtual addresses, page-table walks and leases (R348 to R368). A request is
translated in the step that issues it (assumption log 5).
-/
namespace Sys2Proof.Machine

/-- Where a virtual address leads (R149): the own-scratchpad window, the other-core window, or a translated address. -/
inductive Place where
  | own (off : Nat)
  | other (core off : Nat)
  | global
  deriving DecidableEq, Repr

/-- Classifies a virtual address (R149, R196). -/
def placeOf (va : Nat) : Place :=
  if 0xFFFFFFFFFFF00000 ≤ va then .own (va % 2 ^ 20)
  else if 0xFFFFFF0000000000 ≤ va then .other (va / 2 ^ 20 % 2 ^ 20) (va % 2 ^ 20)
  else .global

/-- Bits 63 to 57 all equal bit 56 (R348). -/
def canonical (va : Nat) : Bool := bitsOf va 63 56 == 0 || bitsOf va 63 56 == 255

/-- The details of R368. -/
def dAbsent : Nat := 1
def dBadEntry : Nat := 2
def dRoot : Nat := 3
def dWrite : Nat := 4
def dRegion : Nat := 5
def dCanon : Nat := 6
def dWalkPoison : Nat := 7
def dPoison : Nat := 9

/-- The cause code of a detail (R368). -/
def detailCause (d : Nat) : Nat := if d = dWrite ∨ d = dRegion ∨ d = dCanon then 0x11 else 0x10

/-- What a walk finds (R352): the page's physical base, its rights, the least lease class read, and what it has read on its way:
the root register, then the base of each next table (R362). -/
structure Leaf where
  base : Nat
  size : Nat
  w    : Bool
  rdc  : Bool
  mig  : Bool
  d    : Bool
  addr : Nat
  lc   : Nat
  path : List Nat := []
  deriving DecidableEq, Repr

/-- The bytes of a page of SIZE 1, 2 or 3 (R350). -/
def pageBytes (size : Nat) : Nat :=
  match size with
  | 1 => 2 ^ 16
  | 2 => 2 ^ 21
  | _ => 2 ^ 30

/-- The index of R350 at a level. -/
def walkIndex (va level : Nat) : Nat :=
  match level with
  | 4 => bitsOf va 56 48
  | 3 => bitsOf va 47 39
  | 2 => bitsOf va 38 30
  | 1 => bitsOf va 29 21
  | _ => bitsOf va 20 16

/-- What one entry of a table says. -/
inductive Entry where
  | bad (detail : Nat)
  | table (base lc : Nat)
  | leaf (l : Leaf)
  deriving DecidableEq, Repr

/-- Reads the entry that translates `va` in the table at `base`, at a level (R350 to R352); `lc` is the least lease
class read so far. -/
def State.readEntry (s : State) (va base lc level : Nat) : Entry :=
  let addr := base + 8 * walkIndex va level
  let e := leNat (Memory.bytes s.mem addr 8)
  let size := bitsOf e 12 11
  let lc := min lc (bitsOf e 10 8)
  let ppn := bitsOf e 55 16
  if poisonedIn s.poison addr 8 then .bad dWalkPoison
  else if !bitOf e 0 then .bad dAbsent
  else if size = 0 then
    let next := ppn * 2 ^ 16 + bitsOf e 15 13 * 2 ^ 13
    if bitsOf e 7 1 ≠ 0 ∨ !inHbm next (2 ^ 13) ∨ level = 0 then .bad dBadEntry else .table next lc
  else if bitOf e 7 || bitOf e 4 || bitOf e 2 || bitsOf e 15 13 != 0 || level + 1 != size ||
      (size == 2 && bitsOf ppn 4 0 != 0) || (size == 3 && bitsOf ppn 13 0 != 0) then .bad dBadEntry
  else .leaf ⟨ppn * 2 ^ 16, size, bitOf e 1, bitOf e 5, bitOf e 3, bitOf e 6, addr, lc, []⟩

/-- Walks from the table at `base` at a level downward, `path` being what it has read so far. -/
def State.walkFrom (s : State) (va base lc : Nat) (path : List Nat) : Nat → Except Nat Leaf
  | 0 =>
    match s.readEntry va base lc 0 with
    | .leaf l => .ok { l with path := path }
    | .bad d => .error d
    | .table .. => .error dBadEntry
  | level + 1 =>
    match s.readEntry va base lc (level + 1) with
    | .leaf l => .ok { l with path := path }
    | .bad d => .error d
    | .table b lc => State.walkFrom s va b lc (path ++ [b]) level

/-- The walk of a die's copy of an address space's root (R349, R352). -/
def State.walk (s : State) (die asid va : Nat) : Except Nat Leaf :=
  let root := (s.reg (pAsroot die asid)).toNat
  let base := bitsOf root 55 13 * 2 ^ 13
  if !bitOf root 63 || !inHbm base (2 ^ 13) then .error dRoot else s.walkFrom va base 7 [root] 4

/-- The translating slice of R353, as a slice id. -/
def transSlice (die asid va : Nat) : Nat :=
  let v := bitsOf va 56 21
  let a := bitsOf v 6 0 ^^^ bitsOf v 13 7 ^^^ bitsOf v 20 14 ^^^ bitsOf v 27 21 ^^^ bitsOf v 34 28 ^^^ bitsOf v 35 35 ^^^
    asid % 64
  die * 384 + (v % 3 * 128 + a)

/-- The first virtual address of the page of a SIZE that holds an address. -/
def pageBase (va size : Nat) : Nat := va / pageBytes size * pageBytes size

/-- Whether a lease translates an address at a time. -/
def Lease.covers (l : Lease) (slice asid va now : Nat) : Bool :=
  l.slice == slice && l.asid == asid && l.base == pageBase va l.tr.size && now < l.tr.exp

/-- The lease of a class from a start time (R354): its expiry, and whether the slice keeps it. -/
def leaseExpiry (t k : Nat) : Nat := t + 2 ^ (max k 1 + 1) * 1000

/-- The translation of a page that a walk at a time finds: one of class 0, and every one of a die in skew mode, serves one
request only (R354, R364). -/
def Leaf.tr (l : Leaf) (t : Nat) (skew : Bool) : Tr :=
  let lc := if skew then 0 else l.lc
  { pa := l.base, w := l.w, d := l.d, rdc := l.rdc, mig := l.mig, size := l.size, leaf := l.addr, exp := leaseExpiry t lc,
    path := l.path, once := lc = 0 }

/-- The physical address of `va` under a page's translation. -/
def Tr.at (t : Tr) (va : Nat) : Tr := { t with pa := t.pa + va % pageBytes t.size }

/-- Raises a die's horizon (R361); in skew mode nothing is added to it (R364). -/
def State.raiseHorizon (s : State) (die t : Nat) : State :=
  if s.skew.has die then s else { s with horizon := s.horizon.set die (max t (s.horizon.get 0 die)) }

/-- Sets D in a leaf at its home (R366). -/
def State.setDirtyBit (s : State) (leaf : Nat) : State :=
  let b := Memory.byte s.mem leaf
  s.memWrite leaf [⟨b ||| 0x40#8, s.poison.has leaf⟩]

/-- Whether core `c`'s dirty log takes another entry (R366). -/
def State.logHasRoom (s : State) (c : Nat) : Bool :=
  let cfg := (s.reg (pDlcfg c)).toNat
  let len := bitsOf cfg 35 32
  let used := (s.regBits (pDltail c) 31 0 + 2 ^ 32 - s.regBits (pDlhead c) 31 0) % 2 ^ 32
  len != 0 && bitsOf cfg 19 6 * 64 + 8 * 2 ^ len ≤ (s.core c).spsize && used < 2 ^ len

/-- Logs a first write to a page in core `c`'s dirty log, or sets D in the leaf (R366). -/
def State.logDirty (s : State) (c asid : Nat) (l : Tr) : State :=
  if s.logHasRoom c then
    let cfg := (s.reg (pDlcfg c)).toNat
    let tail := s.regBits (pDltail c) 31 0
    let off := bitsOf cfg 19 6 * 64 + 8 * (tail % 2 ^ bitsOf cfg 35 32)
    let word := asid * 2 ^ 58 + l.size * 2 ^ 56 + l.leaf
    let s := s.spWrite c off (PByte.clean (leBytes word 8))
    s.setReg (pDltail c) (w64 ((tail + 1) % 2 ^ 32))
  else s.setDirtyBit l.leaf

/-- Grants a lease that a walk has found, keeping it in the slice's cache unless it serves one request only (R354, R361,
R364). -/
def State.grant (s : State) (die slice asid va : Nat) (tr : Tr) : State :=
  let l : Lease := ⟨slice, asid, pageBase va tr.size, tr⟩
  let others := s.leases.filter (fun m => !(m.slice == slice && m.asid == asid && m.base == l.base))
  if s.skew.has die then s
  else
    let s := s.raiseHorizon die tr.exp
    if tr.once then s else { s with leases := l :: others }

/-- The translation that a die's slice holds for an address (R354); in skew mode it holds none (R364). -/
def State.cached (s : State) (die asid va : Nat) : Option Tr :=
  if s.skew.has die then none
  else (s.leases.find? (fun l => l.covers (transSlice die asid va) asid va (s.timeOf die))).map (·.tr)

/-- The translation that a walk by a die's slice finds for an address (R354); a disabled slice keeps none. -/
def State.walked (s : State) (die asid va : Nat) : Except Nat Tr :=
  match s.walk die asid va with
  | .error d => .error d
  | .ok f =>
    let f := if s.disabled die (384 + transSlice die asid va % 384) then { f with lc := 0 } else f
    .ok (f.tr (s.timeOf die) (s.skew.has die))

/-- The detail with which an access to an address under a page's translation fails (R368). -/
def State.refuses (s : State) (tr : Tr) (va : Nat) (write : Bool) : Option Nat :=
  if s.badRegion (tr.at va).pa write then some dRegion else if write && !tr.w then some dWrite else none

/-- The translation that serves an access: the one held, or what a walk finds; one held under which the access fails is walked
again (R354, R359). -/
def State.lookup (s : State) (die asid va : Nat) (write : Bool) : Except Nat Tr :=
  match s.cached die asid va with
  | some tr => if (s.refuses tr va write).isNone then .ok tr else s.walked die asid va
  | none => s.walked die asid va

/-- Translates an address for an access of the die, granting the lease (R354) and, for a write by core `c`, taking the
dirty action of R366. Answers the translation of the address, or the detail of R368. -/
def State.translate (s : State) (die asid va : Nat) (write : Bool) (c : Option Nat) : Except Nat Tr × State :=
  match s.lookup die asid va write with
  | .error d => (.error d, s)
  | .ok tr =>
    match s.refuses tr va write with
    | some d => (.error d, s)
    | none =>
      let here := tr.at va
      match c with
      | some c =>
        if write && !tr.d then
          let s := s.logDirty c asid tr
          let tr := { tr with d := true }
          (.ok { here with d := true }, s.grant die (transSlice die asid va) asid va tr)
        else (.ok here, s.grant die (transSlice die asid va) asid va tr)
      | none => (.ok here, s.grant die (transSlice die asid va) asid va tr)

end Sys2Proof.Machine
end

