-- ==== Sys2Proof/Machine/Access.lean ====
section
/-!
DEFINITION. Sys2Proof/Machine/Access.lean: L1(c), the outbound queue, the gates, and the checks of `load` and `store`
(R106, R149 to R170, R196, R197, R355).
-/
namespace Sys2Proof.Machine

/-! ### Scopes (R152) -/

def Scope.rank : Scope → Nat
  | .task => 0
  | .core => 1
  | .die => 2
  | .package => 3
  | .fabric => 4

/-- The scope of an encoded SCOPE field (R198, R233). -/
def Scope.ofBits (n : Nat) : Scope :=
  match n with
  | 0 => .task
  | 1 => .core
  | 2 => .die
  | 3 => .package
  | _ => .fabric

/-- Whether a scope is die or wider. -/
def Scope.wide (sc : Scope) : Bool := 2 ≤ sc.rank

/-- The bytes that a load brings to its register. -/
def Dest.width : Dest → Nat
  | .load _ n _ => n
  | .direct _ n _ => n
  | _ => 0

/-! ### The outbound queue (R153) -/

/-- Appends a request of core `c` to OQ(c), with a fresh number; `o` says the rest of what is kept until its answer. -/
def State.enqueueOut (s : State) (c : Nat) (o : Out) : State :=
  let (id, s) := s.fresh
  let r := { o.req with id := id, agent := .core c, fwin := s.fabWin o.req.addr }
  s.updCore c (fun h => { h with oq := h.oq ++ [r], out := h.out ++ [{ o with req := r }] })

/-- Appends a request of core `c` to OQ(c); `own` says that a task has issued it. -/
def State.enqueue (s : State) (c : Nat) (r : Req) (write own : Bool) : State :=
  s.enqueueOut c { req := r, write := write, own := own, launches := if own then [(s.ctx c r.ctx).launch] else [] }

/-- The number that the next request will have. -/
def State.upcoming (s : State) : Nat := s.nextId

/-! ### L1 lines (R19, R153, R355) -/

def L1Line.isFor (l : L1Line) (asid va : Nat) : Bool := l.asid == asid && l.line == va / 128

/-- The physical address of a line's first byte, the right to write, and the expiry of its translation. -/
def L1Line.pa (l : L1Line) : Nat := l.tr.pa
def L1Line.w (l : L1Line) : Bool := l.tr.w && l.tr.d
def L1Line.exp (l : L1Line) : Nat := l.tr.exp

def HomeCore.l1At (h : HomeCore) (asid va : Nat) : Option L1Line := h.l1.find? (·.isFor asid va)

/-- Replaces or adds a line; a line without valid bytes is removed. -/
def HomeCore.putL1 (h : HomeCore) (l : L1Line) : HomeCore :=
  let rest := h.l1.filter (fun m => !(m.asid == l.asid && m.line == l.line))
  { h with l1 := if l.bytes.isEmpty then rest else l :: rest }

/-- The dirty bytes of a line, by offset. -/
def L1Line.dirtyBytes (l : L1Line) : Map PByte :=
  (l.bytes.filter (fun e => e.2.dirty)).map (fun e => (e.1, ⟨e.2.val, e.2.bad⟩))

def L1Line.isDirty (l : L1Line) : Bool := l.bytes.any (fun e => e.2.dirty)

/-- The tasks whose stores the dirty bytes of a line hold, by offset, and their launches. -/
def L1Line.writers (l : L1Line) : Map (List Nat) :=
  (l.bytes.filter (fun e => e.2.dirty)).map (fun e => (e.1, e.2.owners.map (·.1)))
def L1Line.launches (l : L1Line) : List Nat :=
  (l.bytes.flatMap (fun e => if e.2.dirty then e.2.owners.filterMap (·.2) else [])).eraseDups

/-- The line with its dirty bytes clean. -/
def L1Line.clean (l : L1Line) : L1Line :=
  { l with bytes := l.bytes.map (fun e => (e.1, { e.2 with dirty := false, owners := [] })) }

/-- The line without its clean bytes. -/
def L1Line.dropClean (l : L1Line) : L1Line := { l with bytes := l.bytes.filter (fun e => e.2.dirty) }

/-- Whether `n` bytes at an offset are all valid. -/
def L1Line.hasAll (l : L1Line) (off n : Nat) : Bool := (natsFrom off n).all (fun i => (l.bytes.find? i).isSome)

/-- `n` bytes of a line at an offset. -/
def L1Line.read (l : L1Line) (off n : Nat) : List PByte :=
  (natsFrom off n).map (fun i => let b := l.bytes.get ⟨0, false, false, none, []⟩ i; ⟨b.val, b.bad⟩)

/-- Writes bytes of a task's store into a line at an offset and makes them dirty (R159). -/
def L1Line.write (l : L1Line) (off : Nat) (who : Nat × Option Nat) : List Byte → L1Line
  | [] => l
  | b :: bs =>
    let old := match l.bytes.find? off with | some x => x.owners | none => []
    let owners := if old.contains who then old else who :: old
    L1Line.write { l with bytes := l.bytes.set off { val := b, dirty := true, bad := false, owners := owners } } (off + 1) who bs

/-- Writes bytes only where the line already holds valid ones, leaving them clean (R160). -/
def L1Line.update (l : L1Line) (off : Nat) : List Byte → L1Line
  | [] => l
  | b :: bs =>
    L1Line.update
      (if (l.bytes.find? off).isSome then { l with bytes := l.bytes.set off { val := b, dirty := false, bad := false } } else l)
      (off + 1) bs

/-- Until when a write-back of a line may be performed: 2,000 ns before its translation expires (R356). One that its import entry does not
admit now is translated again before it is performed, as one past its lease is (R475, R477). -/
def State.backBy (s : State) (l : L1Line) : Nat := if s.badRegion l.pa true then 0 else l.exp - 1999

/-- Appends a line's dirty bytes to OQ(c) as one write-back and makes them clean (Evict of R154, R161, R164). -/
def State.writeBack (s : State) (c : Nat) (l : L1Line) : State :=
  if l.isDirty then
    let r : Req :=
      { id := 0, agent := .core c, home := s.homeOf l.pa, op := .writeBack l.dirtyBytes, addr := l.pa, size := 128,
        asid := l.asid, va := l.line * 128, rdc := l.tr.rdc, exp := some (s.backBy l) }
    (s.enqueueOut c { req := r, write := true, own := false, launches := l.launches, writers := l.writers }).updCore c
      (·.putL1 l.clean)
  else s

/-- Evict (R154): a line's dirty bytes are written back, and none of its bytes stays valid in L1(c). -/
def State.evictWhole (s : State) (c : Nat) (l : L1Line) : State :=
  (s.writeBack c l).updCore c (·.putL1 { l with bytes := [] })

/-- The lines that may share a set with an address: those of the same line number modulo 128 (R19; assumption log 109). -/
def HomeCore.l1Set (h : HomeCore) (va : Nat) : List L1Line := h.l1.filter (fun l => l.line % 128 == va / 128 % 128)

/-- The blocks of the unified array that a configuration gives to the scratchpad; the others are the L1's ways (R19). -/
def blocks (k : Option Conf) : Nat := match k with | some k => k.n | none => 0

/-- A way for a new line of an address: one that its set does not use, or that of a line which the core evicts first, chosen
freely (R19; assumption log 109). -/
def State.wayFor (s : State) (c va : Nat) : Nat × State :=
  let h := s.core c
  let set := h.l1Set va
  let n := blocks h.conf
  match (natsFrom n (20 - n)).find? (fun w => set.all (fun l => l.way != w)) with
  | some w => (w, s)
  | none =>
    let (v, s) := s.freeChoice
    match (set.drop (v % set.length)).head? with
    | some l => (l.way, s.evictWhole c l)
    | none => (n, s)

/-- Writes back the line that holds an address (R161). -/
def State.writeBackAt (s : State) (c asid va : Nat) : State :=
  match (s.core c).l1At asid va with
  | some l => s.writeBack c l
  | none => s

/-- Writes back every dirty line of L1(c) that a test selects. -/
def State.writeBackAll (s : State) (c : Nat) (p : L1Line → Bool) : State :=
  (s.core c).l1.foldl (fun s l => if p l then s.writeBack c l else s) s

/-- The L1 invalidation of an acquire at die scope or wider (R166). -/
def HomeCore.dropCleanL1 (h : HomeCore) : HomeCore :=
  { h with l1 := (h.l1.map L1Line.dropClean).filter (fun l => !l.bytes.isEmpty) }

/-- The invalidations of an acquire by core `c` (R166). -/
def State.acquire (s : State) (c : Nat) (sc : Scope) : State :=
  match sc with
  | .task => s
  | .core => s
  | .die => s.updCore c HomeCore.dropCleanL1
  | _ =>
    let s := s.updCore c HomeCore.dropCleanL1
    { s with rdc := s.rdc.filter (fun e => dieOf e.1 != dieOf c) }

/-! ### The writes of a core on their way (R158) -/

/-- Whether a request changes what it names. -/
def HomeOp.writes : HomeOp → Bool
  | .read => false
  | .waita _ => false
  | .barw _ => false
  | .withdraw _ => false
  | _ => true

/-- Whether a request writes to the line of an address at a home. -/
def Req.writesLine (r : Req) (pa : Nat) : Bool := r.op.writes && r.addr / 128 == pa / 128

/-- The writes of core `c` to a line that are not acknowledged, oldest first. -/
def State.writesTo (s : State) (c : Nat) (h : Home) (pa : Nat) : List Req :=
  ((s.core c).out.map (·.req)).filter (fun r => r.home == h && r.writesLine pa)

/-- The byte of a line that a request writes at an offset. -/
def Req.covers (r : Req) (off : Nat) : Option PByte :=
  match r.op with
  | .write data => if r.addr % 128 ≤ off then data[off - r.addr % 128]? else none
  | .writeBack bytes => bytes.find? off
  | _ => none

/-- Whether a request writes the byte of a line at an offset. -/
def Req.touches (r : Req) (off : Nat) : Bool :=
  match r.op with
  | .writeBack bytes => (bytes.find? off).isSome
  | _ => r.op.writes && r.addr % 128 ≤ off && off < r.addr % 128 + r.size

/-- Whether an outstanding request carries a write of a task to the byte of a line at an offset, or one that the task has
been returned. -/
def Out.wroteBy (o : Out) (uid off : Nat) : Bool :=
  (o.writers.get [] off).contains uid || (o.own && o.req.uid == uid && o.req.touches off)

/-- Whether a write of a task to the byte of a line at a home is not acknowledged (R158). -/
def State.writing (s : State) (c uid : Nat) (h : Home) (pa off : Nat) : Bool :=
  (s.core c).out.any (fun o => o.req.home == h && o.req.addr / 128 == pa / 128 && o.wroteBy uid off)

/-! ### Positions that a task has seen (R158) -/

/-- The newest position of a location that a task has returned or written. -/
def Ctx.seenAt (t : Ctx) (pa : Nat) : Nat := t.seen.get 0 pa

/-- A task's load has returned, or its write has taken, a position of a location. -/
def Ctx.saw (t : Ctx) (pa pos : Nat) : Ctx := if t.seenAt pa < pos then { t with seen := t.seen.set pa pos } else t

/-- The same for several locations. -/
def Ctx.sawAll (t : Ctx) (l : List (Nat × Nat)) : Ctx := l.foldl (fun t e => t.saw e.1 e.2) t

/-- Whether a copy of a location older than the newest that a task has seen could be read by core `c`: only lines homed off its
die have copies elsewhere than in its own L1. -/
def offDie (c : Nat) (h : Home) : Bool :=
  match h with
  | .slice i => dieOf i != dieOf c
  | .remote _ => true
  | _ => false

/-- Whether the byte of a line is poisoned once the writes before it are performed (R458). -/
def Req.badAfter (off : Nat) (bad : Bool) (r : Req) : Bool := match r.covers off with | some b => b.bad | none => bad

/-- Whether one of `n` bytes at a home is poisoned behind the writes of the core at issue to its line (R158, R458). -/
def State.poisonBehind (s : State) (h : Home) (a n : Nat) (bad : Nat → Bool) : Bool :=
  let ws := s.writesTo s.curCore h a
  (natsFrom a n).any (fun i => ws.foldl (Req.badAfter (i % 128)) (bad i))

/-! ### The gate of a release (R165) -/

/-- The outstanding requests of the task at issue, and of its core's writes. -/
def State.ownOut (s : State) : List Nat :=
  ((s.here.out).filter (fun o => o.own && o.req.ctx == s.curCtx && o.req.uid == s.cur.uid)).map (·.req.id)
def State.writesOut (s : State) : List Nat := ((s.here.out).filter (fun o => o.write)).map (·.req.id)

/-- Whether every request of a list has been answered. -/
def State.answered (s : State) (ids : List Nat) : Bool := ids.all (fun i => !(s.here.out).any (fun o => o.req.id == i))

/-- The release by the task at issue: for die scope or wider it first appends the write-backs of every dirty line. Answers
the state and the requests whose answers open the gate. -/
def State.release (s : State) (sc : Scope) : State × List Nat :=
  if sc.wide then
    let s := s.writeBackAll s.curCore (fun _ => true)
    (s, s.ownOut ++ s.writesOut)
  else (s, s.ownOut)

/-- What the gate says to the instruction at issue: open, with the state to go on from, or closed. -/
inductive Gate where
  | passed (s : State)
  | closed (s : State)
  deriving DecidableEq, Repr

/-- Raises the gate of R165 at a scope for the instruction at issue. -/
def State.raiseGate (s : State) (sc : Scope) : Gate :=
  let (s, ids) := s.release sc
  if s.answered ids then .passed s
  else .closed (s.updCur (fun t => { t with wait := .gate sc ids, waitFrom := some s.now }))

/-- The gate of R165 at a scope for the instruction at issue: raised at its first issue, tested at the next ones. A gate that
was raised at a narrower scope is raised again. -/
def State.gate (s : State) (sc : Scope) : Gate :=
  match s.cur.wait with
  | .gate old ids =>
    if !s.answered ids then .closed s
    else
      let s := s.updCur (fun t => { t with wait := .none, waitFrom := none })
      if old.rank < sc.rank then s.raiseGate sc else .passed s
  | _ => s.raiseGate sc

/-! ### Rights (R106, R114, R196) -/

/-- Whether a core lies in the effective mask of the launch of the task at issue. -/
def State.inMask (s : State) (t : Ctx) (core : Nat) : Bool :=
  match s.launch? t.launch with
  | some l => bitOf l.mask core
  | none => false

/-- What an access may do after the checks that need no translation. -/
inductive Reach where
  /-- The trap that the checks raise. -/
  | trap (cause info : Nat)
  /-- The own scratchpad at an offset. -/
  | own (off : Nat)
  /-- Another core's scratchpad, or the own through the other-core window (R149). -/
  | other (core off : Nat)
  /-- An address to translate. -/
  | global
  deriving DecidableEq, Repr

/-- The bit of R445 that marks a write in INFO. -/
def writeBit (write : Bool) : Nat := if write then 2 ^ 15 else 0

/-- The checks of `load` and `store` before translation (R106, R196), in their order, for an access of `n` bytes by the
task at issue that must be a multiple of `align`. -/
def State.reach (s : State) (va align : Nat) (write : Bool) : Reach :=
  if va % align ≠ 0 then .trap 0x04 0
  else
    match placeOf va with
    | .own off => if s.here.spsize ≤ off then .trap 0x14 0 else .own off
    | .other core off => if core ≤ 1535 && s.inMask s.cur core then .other core off else .trap 0x11 0
    | .global => if canonical va then .global else .trap 0x11 (dCanon + writeBit write)

/-- The translation of an address for the task at issue, or the cause and the INFO of its trap (R368). -/
def State.xlate (s : State) (va : Nat) (write : Bool) : Except (Nat × Nat) Tr × State :=
  match s.translate s.die s.cur.asid va write (some s.curCore) with
  | (.error d, s) => (.error (detailCause d, d + writeBit write), s)
  | (.ok tr, s) => (.ok tr, s)

/-- What the translation finds for an access of the task at issue, before any effect (R354, R369). -/
def State.peek (s : State) (va : Nat) (write : Bool) : Option Tr :=
  match s.lookup s.die s.cur.asid va write with
  | .ok tr => some (tr.at va)
  | .error _ => none

/-- Whether bytes at a physical address are poisoned at their home now (R106, R459; assumption log 6). -/
def State.homePoison (s : State) (pa n : Nat) : Bool := pa < 2 ^ 39 && poisonedIn s.poison pa n

/-! ### Loads and stores of one naturally aligned value -/

/-- A value extended to 64 bits (R106). -/
def extend (signed : Bool) (n v : Nat) : W64 := if signed then sext64 (8 * n) v else w64 (v % 2 ^ (8 * n))

/-- A request of the task at issue. -/
def State.taskReq (s : State) (home : Home) (op : HomeOp) (addr size : Nat) (sc : Scope) (dest : Dest) : Req :=
  { id := 0, agent := .core s.curCore, home := home, ctx := s.curCtx, uid := s.cur.uid, op := op, addr := addr,
    size := size, scope := sc, dest := dest, asid := s.cur.asid, epc := s.cur.pc.toNat }

/-- Holds every later access of the task at issue until the answer to a request (R166). -/
def State.holdFor (s : State) (id : Nat) : State := s.updCur (fun t => { t with wait := .answer id, waitFrom := some s.now })

/-- Whether core `c` may use a line's translation now (R354, R355, R363, R364). -/
def State.current (s : State) (c : Nat) (l : L1Line) : Bool :=
  s.timeOf (dieOf c) < l.exp && !l.tr.once && !s.skew.has (dieOf c)

/-- The translation of the first byte of a line, from that of an address in it. -/
def Tr.line (tr : Tr) : Tr := { tr with pa := tr.pa / 128 * 128 }

/-- Accepts a translation for the line of an address in L1(c) (R355): under another physical address or a narrower W the
old line's dirty bytes are written back and every byte of it becomes invalid. Clean bytes whose expiry has passed are invalid
(R356). -/
def State.acceptLine (s : State) (c asid va : Nat) (tr : Tr) : State :=
  match (s.core c).l1At asid va with
  | some l =>
    let l := if s.current c l then l else l.dropClean
    if l.pa != tr.line.pa || (l.w && !(tr.w && tr.d)) then
      (s.writeBack c l).updCore c (·.putL1 { l with bytes := [] })
    else s.updCore c (·.putL1 { l with tr := tr.line })
  | none => s

/-- A line that holds nothing yet. -/
def freshLine (asid va : Nat) (tr : Tr) (sc : Scope) (way : Nat) : L1Line :=
  { asid := asid, line := va / 128, tr := tr.line, tag := sc, bytes := [], way := way }

/-- The line of an address in L1(c), its translation accepted; a new one takes a way (R19, R355). -/
def State.lineFor (s : State) (c asid va : Nat) (tr : Tr) (sc : Scope) : L1Line × State :=
  let s := s.acceptLine c asid va tr
  match (s.core c).l1At asid va with
  | some l => (l, s)
  | none =>
    let (w, s) := s.wayFor c va
    (freshLine asid va tr sc w, s)

/-- Whether a byte of a line of L1(c) may be returned to a task: it is a store of the core on its way, or a copy no older than
what the task has seen, and no write of the task to it is on its way (R158). -/
def State.byteFor (s : State) (c : Nat) (t : Ctx) (l : L1Line) (h : Home) (off : Nat) : Bool :=
  match (l.bytes.find? off).map (·.pos) with
  | some (some p) => t.seenAt (l.pa + off) ≤ p && !s.writing c t.uid h l.pa off
  | some none => true
  | none => false

/-- What a load of the task at issue from L1(c) finds: `n` bytes of an address under a current translation, none of them older
than the task has seen (R156, R158, R355). -/
def State.l1Hit (s : State) (c asid va n : Nat) : Option (List PByte) :=
  match (s.core c).l1At asid va with
  | some l =>
    if s.current c l && (natsFrom (va % 128) n).all (s.byteFor c (s.ctx c s.curCtx) l (s.homeOf l.pa)) then
      some (l.read (va % 128) n)
    else none
  | none => none

/-- What a task sees by a hit in L1(c) (R158). -/
def State.hitSeen (s : State) (c asid va n : Nat) : List (Nat × Nat) :=
  match (s.core c).l1At asid va with
  | some l =>
    if offDie c (s.homeOf l.pa) then
      (natsFrom (va % 128) n).filterMap (fun i => ((l.bytes.find? i).bind (·.pos)).map (fun p => (l.pa + i, p)))
    else []
  | none => []

/-- A task is returned the byte of a line that holds a store on its way: it is held to that store as one that made it (R158). -/
def L1Byte.returnTo (b : L1Byte) (uid : Nat) : L1Byte :=
  if b.dirty && !b.owners.any (fun o => o.1 == uid) then { b with owners := (uid, none) :: b.owners } else b

def Out.returnTo (o : Out) (h : Home) (pa uid off : Nat) : Out :=
  if o.req.home == h && o.req.addr / 128 == pa / 128 && o.req.touches off && !o.wroteBy uid off then
    { o with writers := o.writers.set off (uid :: o.writers.get [] off) }
  else o

/-- What L1(c) returns to a task: the stores on their way among the `n` bytes of an address are the task's from then on
(R158). -/
def State.returned (s : State) (c uid asid va n : Nat) : State :=
  match (s.core c).l1At asid va with
  | none => s
  | some l =>
    let offs := (natsFrom (va % 128) n).filter (fun i => match l.bytes.find? i with | some b => b.pos.isNone | none => false)
    s.updCore c (fun h =>
      { h with
        l1 := h.l1.map (fun m => if m.isFor asid va then
          { m with bytes := m.bytes.map (fun e => if offs.contains e.1 then (e.1, e.2.returnTo uid) else e) } else m)
        out := h.out.map (fun o => offs.foldl (fun o i => o.returnTo (s.homeOf l.pa) l.pa uid i) o) })

/-- What a hit of the task at issue in L1(c) leaves: what the task has seen, and the stores on their way that it has been
returned (R158). -/
def State.hit (s : State) (va n : Nat) : State :=
  let saw := s.hitSeen s.curCore s.cur.asid va n
  (s.returned s.curCore s.cur.uid s.cur.asid va n).updCur (·.sawAll saw)

/-- Appends a load request of the task at issue for a translated address (R156, R157, R161, R197). -/
def State.sendLoad (s : State) (va n : Nat) (tr : Tr) (sc : Scope) (acq : Option Scope) (dest : Dest) : State :=
  let c := s.curCore
  let s := if sc.wide then s.writeBackAt c s.cur.asid va else s
  let whole := cacheable tr.pa
  let r := s.taskReq (s.homeOf tr.pa) .read (if whole then tr.pa / 128 * 128 else tr.pa) (if whole then 128 else n) sc dest
  s.enqueue c { r with va := va, exp := some tr.exp, tr := some tr.line, acq := acq, rdc := tr.rdc } false true

/-- A task as an L1 line names it: its instance and its launch. -/
def Ctx.who (t : Ctx) : Nat × Option Nat := (t.uid, some t.launch)

/-- Writes a store at task or core scope into L1(c) (R159), its translation accepted. -/
def State.storeL1 (s : State) (va : Nat) (tr : Tr) (sc : Scope) (bs : List Byte) : State :=
  let (l, s) := s.lineFor s.curCore s.cur.asid va tr sc
  s.updCore s.curCore (·.putL1 { (l.write (va % 128) s.cur.who bs) with tag := sc })

/-- Appends a store at die scope or wider (R160, R161), or a store to a location that no L1 holds. -/
def State.storeThrough (s : State) (va : Nat) (tr : Tr) (sc : Scope) (bs : List Byte) : State :=
  let c := s.curCore
  let s := s.writeBackAt c s.cur.asid va
  let s :=
    match (s.core c).l1At s.cur.asid va with
    | some l => s.updCore c (·.putL1 { (l.update (va % 128) bs) with tag := sc })
    | none => s
  let r := s.taskReq (s.homeOf tr.pa) (.write (PByte.clean bs)) tr.pa bs.length sc .ack
  s.enqueue c { r with va := va, exp := some tr.exp, rdc := tr.rdc } true true

end Sys2Proof.Machine
end

