-- ==== Sys2Proof/Machine/Pool.lean ====
section
/-!
DEFINITION. Sys2Proof/Machine/Pool.lean: the vector pools: claims, the wait queue, and the lanes accepted in a cycle
(R246 to R251).
-/
namespace Sys2Proof.Machine

/-- The lanes of every granted claim of an octant's pool (R246). -/
def State.granted (s : State) (o : Nat) : List Nat :=
  (natsFrom (8 * o) 8).flatMap (fun c => (s.core c).ctxs.filterMap (fun e => e.2.claim.map (·.lanes)))

/-- The lane budget that is free. -/
def State.poolFree (s : State) (o : Nat) : Nat := 256 - (s.granted o).foldl (· + ·) 0

def State.poolSlot (s : State) (o : Nat) : Bool := (s.granted o).length < 32

/-- The queue of an octant's pool. -/
def State.poolQueue (s : State) (o : Nat) : List PoolReq := s.pools.get [] o

/-- The lane count of a code (R246). -/
def lanesOf (code : Nat) : Nat := 8 * 2 ^ code

/-- The largest lane count within limits and a budget. -/
def pickLanes (lmin lmax avail : Nat) : Option Nat :=
  [64, 32, 16, 8].find? (fun l => lmin ≤ l && l ≤ lmax && l ≤ avail)

/-- The claim that a grant gives: lanes and masks of zeros (R248). -/
def newClaim (lanes : Nat) : Claim := { lanes := lanes }

/-- A task receives its claim: a waiting `vclaim` its result (R253), a resumed task its contents (R251). -/
def Ctx.receive (t : Ctx) (r : PoolReq) (lanes : Nat) : Ctx :=
  match r.saved with
  | some c => { t with claim := some c, reclaim := false }
  | none =>
    let t := { t with claim := some (newClaim lanes) }
    match t.wait with
    | .pool reg => { t.put reg (.word (w64 lanes)) with wait := .settle, waitFrom := none, phase := .running }
    | _ => t

/-- Grants from the head of a queue for as long as the head can be granted (R247). -/
def State.poolGrant (s : State) (o : Nat) : List PoolReq → State
  | [] => { s with pools := s.pools.set o [] }
  | r :: rest =>
    match (if s.poolSlot o then pickLanes r.lmin r.lmax (s.poolFree o) else none) with
    | some l => State.poolGrant (s.updCtx r.core r.ctx (·.receive r l)) o rest
    | none => { s with pools := s.pools.set o (r :: rest) }

/-- The procedure of R247. -/
def State.poolRun (s : State) (o : Nat) : State :=
  match s.poolQueue o with
  | [] => s
  | q => s.poolGrant o q

/-- Removes a task's request from its pool's queue (R251). -/
def State.leavePool (s : State) (c k uid : Nat) : State :=
  match s.poolQueue (c / 8) with
  | [] => s
  | q => { s with pools := s.pools.set (c / 8) (q.filter (fun r => !(r.core == c && r.ctx == k && r.uid == uid))) }

/-- STATUS.VSHR of a task of core `c` (R249). -/
def State.vshr (s : State) (c : Nat) (t : Ctx) : Bool := 8 < t.lanes && !(s.poolQueue (c / 8)).isEmpty

/-- The lanes that a pool has accepted in this cycle (R250). -/
def State.poolLanes (s : State) (o : Nat) : Nat :=
  match s.poolUse.find? o with
  | some (cycle, lanes) => if cycle = s.cycle then lanes else 0
  | none => 0

/-- Whether the pool accepts the instruction at issue (R250). -/
def State.poolFits (s : State) : Bool :=
  let used := s.poolLanes (s.curCore / 8)
  used == 0 || used + s.cur.lanes ≤ 64

/-- The pool has accepted the instruction at issue. -/
def State.poolTake (s : State) : State :=
  let o := s.curCore / 8
  { s with poolUse := s.poolUse.set o (s.cycle, s.poolLanes o + s.cur.lanes) }

end Sys2Proof.Machine
end

