-- ==== Sys2Proof/Machine/Tasks.lean ====
section
/-!
DEFINITION. Sys2Proof/Machine/Tasks.lean: task messages, the counts of a job, the end and the kill of a task, the bound
check, and migration (R107 to R114, R142 to R147, R337 to R340, R369, R370).
-/
namespace Sys2Proof.Machine

/-! ### Task messages in memory (R111) -/

/-- A message from its eight words. -/
def TaskMsg.ofWords (w : List W64) : TaskMsg :=
  let w0 := (nth 0 w 0).toNat
  let w1 := (nth 0 w 1).toNat
  { bound := bitsOf w0 63 32, inc := bitsOf w0 31 28, pair := bitOf w0 27, bd := bitOf w0 26, role := bitsOf w0 25 24,
    ovl := bitsOf w0 23 16, hnd := bitsOf w0 15 0, group := bitsOf w1 63 32, job := bitsOf w1 31 0,
    args := [nth 0 w 2, nth 0 w 3, nth 0 w 4, nth 0 w 5], key := nth 0 w 6 }

/-- The eight words of a message. -/
def TaskMsg.words (m : TaskMsg) : List W64 :=
  [w64 (m.bound % 2 ^ 32 * 2 ^ 32 + m.inc % 16 * 2 ^ 28 + (if m.pair then 2 ^ 27 else 0) + (if m.bd then 2 ^ 26 else 0) +
      m.role % 4 * 2 ^ 24 + m.ovl % 256 * 2 ^ 16 + m.hnd % 2 ^ 16), w64 (m.group % 2 ^ 32 * 2 ^ 32 + m.job % 2 ^ 32),
    nth 0 m.args 0, nth 0 m.args 1, nth 0 m.args 2, nth 0 m.args 3, m.key, 0]

/-- Words from little-endian bytes. -/
def wordsOf (bs : List Byte) : Nat → List W64
  | 0 => []
  | n + 1 => w64 (leNat (bs.take 8)) :: wordsOf (bs.drop 8) n

/-- Little-endian bytes of words. -/
def bytesOfWords (w : List W64) : List Byte := w.flatMap (fun v => leBytes v.toNat 8)

/-! ### The counts of a job (R143, R145) -/

def State.updLaunch (s : State) (id : Nat) (f : Launch → Launch) : State :=
  match s.launches.find? id with
  | some l => { s with launches := s.launches.set id (f l) }
  | none => s

def State.countUp (s : State) (id : Nat) : State := s.updLaunch id (fun l => { l with outstanding := l.outstanding + 1 })
def State.countDown (s : State) (id : Nat) : State := s.updLaunch id (fun l => { l with outstanding := l.outstanding - 1 })

/-- The count of a launch that the end of a task raises: KILLED or LOST (R145). -/
def State.tally (s : State) (id : Nat) : TaskEnd → State
  | .ended => s
  | .killed => s.updLaunch id (fun l => { l with killed := l.killed + 1 })
  | .lost => s.updLaunch id (fun l => { l with lost := l.lost + 1 })

/-! ### The bound check (R332, R338) -/

/-- `vo(r, x)` for a mode (R331, R332). -/
def vo (mode x : Nat) : Int := if bitOf mode 2 then sgnOf 32 x else ((x % 2 ^ 32 : Nat) : Int)

/-- `better(r, a, b)`. -/
def better (mode a b : Nat) : Bool := if bitOf mode 0 then vo mode a < vo mode b else vo mode b < vo mode a

/-- `fails(r, b, k)`. -/
def fails (mode b : Nat) (k : W64) : Bool :=
  better mode (bitsOf k.toNat 63 32) b || (bitOf mode 1 && vo mode b == vo mode (bitsOf k.toNat 63 32))

/-- `tighter(r, a, b)`. -/
def tighter (mode a b : Nat) : Nat := if better mode a b then b else a

/-- A BIND of R330: valid, address space, job. -/
def bindWord (asid job : Nat) : Nat := 2 ^ 38 + asid % 64 * 2 ^ 32 + job % 2 ^ 32

/-- The bound check of R338 against a shadow. -/
def boundCheck (sh : Shadow) (asid job bound : Nat) : Bool := sh.bind == bindWord asid job && fails sh.mode bound sh.key

/-- The check of a bounded task against its core's shadow. -/
def HomeCore.boundFails (h : HomeCore) (t : Ctx) : Bool :=
  t.bd && boundCheck (h.shadow.get {} t.inc) t.asid t.job t.bound

/-! ### The end of a task (R110, R142, R145) -/

/-- The context as it is when no task holds it; the fault sequence goes on (R448). -/
def Ctx.freed (t : Ctx) : Ctx := { ({} : Ctx) with fseq := t.fseq }

/-- Sends the `leave` of one recorded group (R142, R229): the number of its request. A group whose address no longer translates
is not left: the spec names no report for the device's own leave (assumption log 54). -/
def State.sendLeave (s : State) (c asid : Nat) (group : Nat) : Option Nat × State :=
  match s.translate (dieOf c) asid group false (some c) with
  | (.error _, s) => (none, s)
  | (.ok tr, s) =>
    let s := s.writeBackAt c asid group
    let id := s.nextId
    let r : Req :=
      { id := 0, agent := .core c, home := s.homeOf tr.pa, op := .leave, addr := tr.pa, size := 64, va := group,
        asid := asid, exp := some tr.exp, dest := .left }
    (some id, s.enqueue c r true false)

/-- Nothing is left to leave: the context, or the pair, is freed, and the job's outstanding count falls (R142, R143). -/
def State.finishLeaving (s : State) (l : Leaving) : State :=
  let s :=
    match l.ctx with
    | some k =>
      let t := s.ctx l.core k
      let s := s.setCtx l.core k t.freed
      if t.paired then s.updCtx l.core (k + 1) Ctx.freed else s
    | none => s
  s.countDown l.launch

/-- Leaves groups one after another, the first listed first: the next `leave` is sent once the one before it has been
performed (R142). -/
def State.leaveGroups (s : State) (l : Leaving) : List Nat → State
  | [] => s.finishLeaving l
  | g :: rest =>
    match s.sendLeave l.core l.asid g with
    | (some id, s) => { s with leaving := s.leaving ++ [{ l with groups := rest, id := id }] }
    | (none, s) => State.leaveGroups s l rest

/-- The answer to the device's own leave: the next one is sent, or the task is over; the result is discarded (R229). -/
def State.leftGroup (s : State) (id : Nat) : State :=
  match s.leaving.find? (fun l => l.id == id) with
  | none => s
  | some l => ({ s with leaving := s.leaving.filter (fun x => x.id != id) } : State).leaveGroups l l.groups

/-- What a task that holds no context leaves behind: one that is dropped on its way, or that is saved (R142). -/
def State.endAway (s : State) (c : Nat) (t : Ctx) (how : TaskEnd) : State :=
  let s := { s with deadTasks := NatSet.add s.deadTasks t.uid }
  (s.tally t.launch how).leaveGroups ⟨c, none, t.uid, t.asid, t.launch, t.groups.reverse, 0⟩ t.groups.reverse

/-- The requests of a core that have no answer yet: on queues and channels, on their way to another module, and those that a home has
registered. -/
def State.openReqs (s : State) (c : Nat) : List Req :=
  s.deferred ++ s.waiters ++ (s.core c).oq ++ (s.chans.filter (fun h => h.agent == .core c)).flatMap (·.reqs) ++
    s.sessions.flatMap (fun e => e.2.waiting.map (·.2))

/-- Whether a request goes to another module. -/
def Req.isRemote (r : Req) : Bool := match r.home with | .remote _ => true | _ => false

/-- Whether a request is an `ldf`. -/
def Req.isLdf (r : Req) : Bool := match r.op with | .ldf => true | _ => false

/-- The `ldf` that a task of core `c` waits for without an answer on its way (R243). -/
def State.waitingLdf (s : State) (c : Nat) (t : Ctx) : Option Req :=
  match t.wait with
  | .answer id => (s.openReqs c).find? (fun r => r.id == id && r.agent == .core c && r.isLdf)
  | _ => none

/-- Sends the withdrawal of a deferred `ldf` to its home (R245). -/
def State.sendWithdraw (s : State) (c : Nat) (r : Req) : State :=
  s.enqueue c { id := 0, agent := .core c, home := r.home, op := .withdraw r.id, addr := r.addr, size := 16 } false false

/-- Withdraws the registrations of a task at their homes (R215), and a deferred `ldf` (R245). -/
def State.withdraw (s : State) (c uid : Nat) (ldf : Option Req) : State :=
  let mine := fun (r : Req) => r.agent == .core c && r.uid == uid
  let ids := (s.waiters.filter mine).map (·.id)
  let s := { s with waiters := s.waiters.filter (fun r => !mine r) }
  let s := s.updCore c (fun h => { h with out := h.out.filter (fun o => !ids.contains o.req.id) })
  match ldf with
  | some r => s.sendWithdraw c r
  | none => s

/-- The marks of a master that ends or is killed are cleared (R316). -/
def State.clearMarksOf (s : State) (uid : Nat) : State :=
  { s with arrays := s.arrays.map (fun e => (e.1, { e.2 with marks := e.2.marks.filter (fun m => m.1 != uid) })) }

/-- A message that the task has sent and that no core has accepted is counted from now on (R143, R144). -/
def State.countMessages (s : State) (uid : Nat) : State :=
  let mine := fun (f : Flight) => f.uid == uid && !f.counted && f.mig.isNone
  let s := (s.msgs.filter mine).foldl (fun s f => s.countUp f.launch) s
  { s with msgs := s.msgs.map (fun f => if mine f then { f with counted := true } else f) }

/-- A task gives up its context for good: its registrations, its claim and its window slots go at once, and a kill is counted; the
context goes once its groups are left (R107, R110, R142, R145, R251, R284). -/
def State.closeTask (s : State) (c k : Nat) (how : TaskEnd) : State :=
  let t := s.ctx c k
  let s := ((s.withdraw c t.uid (s.waitingLdf c t)).clearMarksOf t.uid).countMessages t.uid
  let s := s.updCore c (fun h => { h with wa := h.wa.filter (fun e => e.2.owner != k || e.2.saved) })
  let s := s.setCtx c k { t with phase := .leaving, wait := .none, waitFrom := none, claim := none, reclaim := false, hires := [], hiring := none, pend := [], var := [] }
  let s := (s.leavePool c k t.uid).poolRun (c / 8)
  (s.tally t.launch how).leaveGroups ⟨c, some k, t.uid, t.asid, t.launch, t.groups.reverse, 0⟩ t.groups.reverse

/-- A task ends (R110, R143, R218). -/
def State.endTask (s : State) (c k : Nat) : State := s.closeTask c k .ended

/-- A task is killed (R110, R145): nothing that it did is undone; its continuations will be dropped. -/
def State.killTask (s : State) (c k : Nat) : State :=
  ({ s with deadTasks := NatSet.add s.deadTasks (s.ctx c k).uid } : State).closeTask c k .killed

/-! ### Traps (R444 to R448) -/

/-- The trap of a task that has no result outstanding (R444): records FAULTA and FAULTB, then enters the in-task handler or parks
the task faulted and sends a fault record (R446, R448). A task that a cancel has met is killed as it parks (R147). -/
def State.trapNow (s : State) (c k cause info : Nat) (fb : W64) (epc insn : Nat) : State :=
  let t := (s.ctx c k).settle
  let t := { t with faulta := faultaWord t.th info epc cause, faultb := fb, readyAt := 0, hiring := none }
  if routeH cause info && t.tvec.getLsbD 16 && !t.th then s.setCtx c k t.enterHandler
  else if t.killed then s.killTask c k
  else
    let t := { t with phase := .faulted, wait := .none, waitFrom := none, fseq := (t.fseq + 1) % 2 ^ 16 }
    let s := s.setCtx c k t
    { s with faults := s.faults ++ [faultRecord s c k t insn] }

/-- A trap of context `k` of core `c` (R444), with `epc` the offset that FAULTA keeps: it is taken once the results that the task
still awaits are there (R102). -/
def State.raise (s : State) (c k : Nat) (req : Option Nat) (cause info : Nat) (fb : W64) (epc insn : Nat) : State :=
  if (s.ctx c k).var.isEmpty then s.trapNow c k cause info fb epc insn
  else s.updCtx c k (fun t => { t with wait := .trap req cause info fb epc insn, waitFrom := none, phase := .running, hiring := none })

/-- A trap that an instruction raises at its issue. -/
def State.trapAt (s : State) (c k cause info : Nat) (fb : W64) (epc insn : Nat) : State := s.raise c k none cause info fb epc insn

/-- The registers that the answer of a registered request writes. -/
def Req.waitRegs (r : Req) : List Reg :=
  match r.dest with
  | .answer reg => [reg]
  | .future reg => [reg, .fut]
  | _ => []

/-- Whether a request registers its task at its home. -/
def Req.registers (r : Req) : Bool :=
  match r.op with
  | .waita _ => true
  | .barw _ => true
  | _ => false

/-- The request of a core that a number names, when it registers its task and its answer has not reached the core. -/
def HomeCore.registered (h : HomeCore) (id : Nat) : Option Req :=
  (h.out.find? (fun o => o.req.id == id && o.req.registers)).map (·.req)

/-- A waiting task gives up its wait for a trap: registrations and a deferred `ldf` are withdrawn, a request for lanes and a message
that no core has accepted are taken back (R215, R245, R401, R443). -/
def State.unwait (s : State) (c k : Nat) : State :=
  let t := s.ctx c k
  let gone :=
    match t.wait with
    | .answer id => (match (s.core c).registered id with | some r => r.waitRegs | none => [])
    | _ => []
  let s := s.withdraw c t.uid (s.waitingLdf c t)
  let s := (s.leavePool c k t.uid).poolRun (c / 8)
  let s := { s with msgs := s.msgs.filter (fun f => !(f.uid == t.uid && (!f.counted || f.mig.isSome))) }
  s.updCtx c k (fun t => { t with var := t.var.filter (fun r => !gone.contains r), expired := false, recalled := false })

/-- A trap of the task at issue, at its own pc. -/
def State.trapCur (s : State) (cause info : Nat) (fb : W64) : State :=
  s.trapAt s.curCore s.curCtx cause info fb s.cur.pc.toNat (s.wordAt s.curCore s.cur).toNat

/-! ### Migration (R370) -/

/-- Whether a core has a task of its own on it. -/
def HomeCore.live (h : HomeCore) : Bool := h.ctxs.any (fun e => e.2.phase != .free)

/-- Whether a copy of a task has not reached a final state (R369). -/
def HomeCore.copying (h : HomeCore) (uid : Nat) : Bool :=
  h.copies.any (fun e => e.2.queue.any (fun o => o.uid == uid && o.state < 0x10))

/-- Whether a task holds what keeps it on its core: a pair, a claim, a window slot, a hire or bind that is not final, or
an outstanding copy (R369, R421). -/
def HomeCore.pinned (h : HomeCore) (k : Nat) (t : Ctx) : Bool :=
  t.paired || t.claim.isSome || h.wa.any (fun e => e.2.owner == k && !e.2.saved) || t.hires.any (fun e => e.2.final.isNone) ||
    h.copying t.uid

/-- The narrowest scope that holds two cores (R152). -/
def scopeOf (c d : Nat) : Scope := if c = d then .core else if dieOf c = dieOf d then .die else .package

/-- The message that carries a migrating task to another core. -/
def Ctx.flight (t : Ctx) (target : Nat) (core : Nat) : Flight :=
  { msg := { bound := t.bound, inc := t.inc, bd := t.bd, role := t.role, hnd := t.pc.toNat, job := t.job },
    launch := t.launch, target := target, sender := .core core, uid := t.uid, mig := some t.settle, arrival := t.arrival,
    acq := some (scopeOf core target) }

/-- The task of context `k` of core `c` leaves for another core, its results settled (R102, R370, R422). Its context stays
until the target accepts it (R127). -/
def State.migrateTask (s : State) (c k : Nat) (f : Flight) : State :=
  let ovl := match (s.core c).conf with | some conf => conf.ovl | none => 0
  let s := { s with msgs := s.msgs ++ [{ f with ctx := k, msg := { f.msg with ovl := ovl } }] }
  s.updCtx c k (fun t => { t.settle with phase := .parked, wait := .message none, waitFrom := some (s.timeOf (dieOf c)) })

end Sys2Proof.Machine
end

