-- ==== Sys2Proof/Machine/Run.lean ====
section
/-!
DEFINITION. Sys2Proof/Machine/Run.lean: the frame in which every encoded instruction runs: the order of its causes
(R105), the interlock and the stall-short check (R100), the kill points (R215), and what an issue leaves (R91, R99).
-/
namespace Sys2Proof.Machine

/-- What the frame must know of an instruction before its own operation. -/
structure Desc where
  /-- Stall count. -/
  st      : Nat
  /-- Registers read and written, in the order of their fields from the highest bits down (R445), the mask that mk
  names, and registers that no field names. -/
  reads   : List RName := []
  mask    : Nat := 0
  writes  : List RName := []
  extra   : List RName := []
  /-- A cause of priority 1 or 2 that depends on the state (R202, R269). -/
  early   : Option Nat := none
  /-- Supervisor mode is required (R105, R106), and the INFO of the trap. -/
  sup     : Bool := false
  supInfo : Nat := 0
  /-- A target of the prefix (R104). -/
  target  : Bool := false
  /-- Calls lanes() first (R105). -/
  lanes   : Bool := false
  /-- Offered to the vector pool (R250). -/
  pool    : Bool := false
  /-- A kill point (R146), and one that checks the bound (R339). -/
  kill    : Bool := false
  bound   : Bool := false
  deriving DecidableEq, Repr

/-- What the operation of an instruction comes to. -/
inductive Res where
  /-- It is performed: the state with its effects, its register results, and the target of a transfer of control. -/
  | done (s : State) (ws : List Write) (next : Option Nat)
  /-- A cause of its own description (priority 7 of R105). -/
  | trap (cause info : Nat) (fb : W64)
  /-- It waits at issue, without effect beyond what the state holds; it is issued again later. -/
  | hold (s : State)
  /-- The task no longer holds the context. -/
  | gone (s : State)
  deriving DecidableEq, Repr

/-- The registers with pending counts that an instruction names, in the order of R445. -/
def Desc.regs (d : Desc) (t : Ctx) : List Reg :=
  ((d.reads ++ (if d.mask = 0 then [] else [RName.k d.mask]) ++ d.writes ++ d.extra).map (RName.reg t)).filter Reg.counts

/-- Whether an interlock holds the instruction (R100). -/
def Desc.interlocked (d : Desc) (t : Ctx) : Bool := (d.regs t).any (fun r => t.var.contains r)

/-- The first register that makes the instruction stall-short (R100, R445). -/
def Desc.stallShort (d : Desc) (t : Ctx) : Option Reg :=
  if t.sbchk then (d.regs t).find? (fun r => t.pend.any (fun p => p.reg == r)) else none

/-- The wait of a condition for the instruction at issue, parked, with its results settled, or held (R102, R146, R461). -/
def State.waitCond (s : State) (parks : Bool) : State :=
  s.updCur (fun t =>
    let t := if parks then { t.settle with phase := .parked } else t
    { t with wait := .cond, waitFrom := some (t.waitFrom.getD s.now) })

/-- A wait of the instruction at issue that a cancel does not end. -/
def State.waitStall (s : State) : State :=
  s.updCur (fun t => { t with wait := .stall, waitFrom := some (t.waitFrom.getD s.now) })

/-- Whether an instruction waits at its issue, and issues again. -/
def Wait.held : Wait → Bool
  | .gate .. => true
  | .cond => true
  | .stall => true
  | .alone => true
  | _ => false

/-- The context after an instruction has been performed: results into the scoreboard, stall count elapsed, pc and fetch
window moved, PP settled, and the results of a task that parks (R91, R99, R100, R102, R104, R213). -/
def Ctx.retire (t : Ctx) (d : Desc) (ws : List Write) (next : Option Nat) (cycle : Nat) : Ctx :=
  let t := (ws.foldl Ctx.take t).elapse (d.st + 1)
  let t := if t.wait.held then { t with wait := .none, phase := .running, waitFrom := none } else t
  let t := if d.target then t.setPp false else t
  let t := if t.phase = .parked then t.settle else t
  let pc := t.pc.toNat
  { t with
    pc := BitVec.ofNat 16 (next.getD (pc + 4)),
    window := (if next.isSome then [] else t.window.filter (fun e => e.1 != pc)),
    readyAt := if t.phase = .parked then cycle + 1 else cycle + d.st + 1,
    hiring := none,
    age := 0,
    promoted := false }

/-- Records that the core has issued in this cycle (R139, R492). -/
def State.slotUsed (s : State) : State :=
  s.updHere (fun h => { h with issuedAt := some s.cycle, issued := h.issued + 1 })

/-- The vector pool has not taken the instruction chosen in this cycle: the core issues nothing (R139, R250). -/
def State.slotLost (s : State) : State := s.updHere (fun h => { h with issuedAt := some s.cycle })

/-- The instruction has been performed. -/
def State.retire (s : State) (d : Desc) (ws : List Write) (next : Option Nat) : State :=
  (s.updCur (fun t => t.retire d ws next s.cycle)).slotUsed

/-- A trap of the task at issue, in the issue slot of its instruction; `consumed` says that the causes of R104 clear PP. -/
def State.takeTrap (s : State) (consumed : Bool) (cause info : Nat) (fb : W64) : State :=
  let s := if consumed then s.updCur (·.setPp false) else s
  (s.trapCur cause info fb).slotLost

/-- The task at issue is killed (R146, R339), in the issue slot of its instruction. -/
def State.takeKill (s : State) : State := (s.killTask s.curCore s.curCtx).slotLost

/-- Runs an operation in the frame: the causes of priorities 1 to 6 in their order, the interlock, the kill point, then the
operation itself (R100, R104, R105, R215, R339). -/
def State.run (s : State) (d : Desc) (body : State → Res) : State :=
  let t := s.cur
  if d.interlocked t then s
  else
    match d.early with
    | some cause => s.takeTrap false cause 0 0
    | none =>
      if d.sup && !t.sup then s.takeTrap false 0x03 d.supInfo 0
      else if t.pp && !d.target then s.takeTrap false 0x06 0 0
      else
        match d.stallShort t with
        | some r => s.takeTrap d.target 0x05 r.info 0
        | none =>
          if d.lanes && t.claim.isNone then s.takeTrap d.target 0x1A 0 0
          else if d.pool && !s.poolFits then s.slotLost
          else
            let pool := fun (s : State) => if d.pool then s.poolTake else s
            if d.kill && t.killed then (pool s).takeKill
            else if d.bound && t.hiring.isNone && s.here.boundFails t then (pool s).takeKill
            else
              match body s with
              | .done s ws next => (pool s).retire d ws next
              | .trap cause info fb => (pool s).takeTrap d.target cause info fb
              | .hold s => s
              | .gone s => s

/-- An instruction's meaning: its frame never stops the machine. -/
def State.issueWith (s : State) (d : Desc) (body : State → Res) : Out1 := .next (s.run d body)

end Sys2Proof.Machine
end

