-- ==== Sys2Proof/Machine/Operands.lean ====
section
/-!
DEFINITION. Sys2Proof/Machine/Operands.lean: the operand forms: immediates (R94), transfer targets (R92, R94), conditions
(R183), the operands that a prefix supplies (R189, R258), and the two-operand frames that families share.
-/
namespace Sys2Proof.Machine

/-- `sext(imm13, 13)` (R94). -/
def imm13 (i : BitVec 13) : W64 := sext64 13 i.toNat

/-- `sext(imm18, 18)`. -/
def imm18 (i : BitVec 18) : W64 := sext64 18 i.toNat

/-- A target pc + 4 × offset, modulo 65,536 (R92, R94). -/
def target (pc : BitVec 16) (off : W64) : Nat := ((w64 pc.toNat) + 4 * off).toNat % 65536

/-- The offset after the instruction (R91). -/
def nextPc (pc : BitVec 16) : Nat := (pc.toNat + 4) % 65536

/-- `cond(cc, a, b)` of R183. -/
def cond (cc : Nat) (a b : W64) : Bool :=
  match cc with
  | 0 => a == b
  | 1 => a != b
  | 2 => a.slt b
  | 3 => b.sle a
  | 4 => a.ult b
  | 5 => b.ule a
  | 6 => (a &&& b) != 0
  | _ => (a &&& b) == 0

/-- Rounding mode, saturation and AMAX update of an instruction that takes a prefix (R189, R258). -/
structure Rounding where
  rm  : Fp.Rm
  sat : Bool
  am  : Bool
  deriving DecidableEq, Repr

/-- The operands that the prefix or STATUS.RM supplies; `none` where the prefix names a format or a scale (R189, R258). -/
def Ctx.rounding (t : Ctx) : Option Rounding :=
  if t.pp then
    if t.pfx.fa ≠ 0 ∨ t.pfx.fb ≠ 0 ∨ t.pfx.fd ≠ 0 ∨ t.pfx.sc ≠ 0 then none
    else some ⟨Fp.Rm.ofBits t.pfx.rm, t.pfx.sa == 1, t.pfx.am == 1⟩
  else some ⟨Fp.Rm.ofBits t.rm, false, false⟩

/-- A result for an x register of the fixed latency `lat`. -/
def fixedX (rd : Nat) (v : W64) (lat : Nat) : List Write := [.fixed (.x rd) (.word v) lat]

/-- A variable-latency result for an x register, written in this step. -/
def nowX (rd : Nat) (v : W64) : List Write := [.now (.x rd) (.word v)]

/-- An instruction `rd := f(X(rs1), X(rs2))` that never traps (R182, R184). -/
def rrr (st rd rs1 rs2 : Nat) (lat : Option Nat) (f : W64 → W64 → W64) (s : State) : Out1 :=
  s.issueWith { st := st, reads := [.x rs1, .x rs2], writes := [.x rd] } fun s =>
    let v := f (s.cur.readX rs1) (s.cur.readX rs2)
    match lat with
    | some l => .done s (fixedX rd v l) none
    | none => .done s (nowX rd v) none

/-- An instruction `rd := f(X(rs1))` of latency 1 that never traps (R184 to R187). -/
def rr (st rd rs1 : Nat) (f : W64 → W64) (s : State) : Out1 :=
  s.issueWith { st := st, reads := [.x rs1], writes := [.x rd] } fun s =>
    .done s (fixedX rd (f (s.cur.readX rs1)) 1) none

end Sys2Proof.Machine
end

