-- ==== Sys2Proof/Machine/Flags.lean ====
section
/-!
DEFINITION. Sys2Proof/Machine/Flags.lean: what instructions record beside their results: the AMAX fold (R61), the class
code of `fclass` (R190), the future flag (R243, R244) and the fields of STATUS that software writes (R205).
-/
namespace Sys2Proof.Machine

/-- Folds results into AMAX when the prefix asks for it (R61, R189, R258). -/
def Ctx.fold (t : Ctx) (am : Bool) (vs : List Fp.Exact) : Ctx :=
  if am then { t with amax := vs.foldl Fp.amaxFold t.amax } else t

/-- The class code of R190. -/
def fclassOf (b : Nat) : Nat :=
  let e := bitsOf b 30 23
  let f := bitsOf b 22 0
  let kind :=
    if e = 255 then (if f = 0 then 3 else if bitOf f 22 then 4 else 5) else if e = 0 then (if f = 0 then 0 else 1) else 2
  e * 256 + bitsOf b 31 31 * 8 + kind

/-- A write of STATUS by a CSR instruction: RM and SBCHK, and XB in a paired task (R108, R205); every other field is
read only. -/
def Ctx.writeStatus (t : Ctx) (v : W64) : Ctx :=
  let keep := if t.paired then 0x0F00#64 else 0x0D00#64
  { t with status := (t.status &&& ~~~keep) ||| (v &&& keep) }

/-- FAULTA and TVEC as software writes them (R208): EPC alone, and EN with HND. -/
def Ctx.writeFaulta (t : Ctx) (v : W64) : Ctx := { t with faulta := (t.faulta &&& ~~~0xFFFF00#64) ||| (v &&& 0xFFFF00#64) }
def Ctx.writeTvec (t : Ctx) (v : W64) : Ctx := { t with tvec := v &&& 0x1FFFC#64 }

/-- AMAX as software writes it (R60). -/
def Ctx.writeAmax (t : Ctx) (v : W64) : Ctx := { t with amax := v &&& 0x800000007FFFFFFF#64 }

end Sys2Proof.Machine
end

