-- ==== Sys2Proof/Machine/Alu.lean ====
section
/-!
DEFINITION. Sys2Proof/Machine/Alu.lean: the ALU, ALU32 and MULDIV groups (R183, R184).
-/
namespace Sys2Proof.Machine

/-! ### The functions of R184 -/

/-- Shift amounts are never reduced modulo the width. -/
def sllOf (a b : W64) : W64 := if 64 ≤ b.toNat then 0 else a <<< b.toNat
def srlOf (a b : W64) : W64 := if 64 ≤ b.toNat then 0 else a >>> b.toNat
def sraOf (a b : W64) : W64 := a.sshiftRight (min b.toNat 63)
def minOf (a b : W64) : W64 := if b.slt a then b else a
def maxOf (a b : W64) : W64 := if a.slt b then b else a
def minuOf (a b : W64) : W64 := if b.ult a then b else a
def maxuOf (a b : W64) : W64 := if a.ult b then b else a

/-- Zero bits above the highest set bit. -/
def clzOf (a : W64) : W64 := if a = 0 then 64 else w64 (63 - Nat.log2 a.toNat)

/-- Zero bits below the lowest set bit, from bit `i` on, at most `n` more. -/
def ctzFrom (a : Nat) : Nat → Nat → Nat
  | 0, i => i
  | n + 1, i => if bitOf a i then i else ctzFrom a n (i + 1)
def ctzOf (a : W64) : W64 := w64 (ctzFrom a.toNat 64 0)

/-- Set bits among the low `n`. -/
def popFrom (a : Nat) : Nat → Nat
  | 0 => 0
  | n + 1 => (if bitOf a n then 1 else 0) + popFrom a n
def popcOf (a : W64) : W64 := w64 (popFrom a.toNat 64)

/-- `ext(v)` of R184. -/
def ext32 (v : W64) : W64 := (v.setWidth 32).signExtend 64
def ext32z (v : W64) : W64 := (v.setWidth 32).setWidth 64

/-- The 32-bit shifts, before extension; the shift amount is the whole of rs2. -/
def sll32Of (a b : W64) : W32 := if 32 ≤ b.toNat then 0 else a.setWidth 32 <<< b.toNat
def srl32Of (a b : W64) : W32 := if 32 ≤ b.toNat then 0 else a.setWidth 32 >>> b.toNat
def sra32Of (a b : W64) : W32 := (a.setWidth 32).sshiftRight (min b.toNat 31)

def mulhOf (a b : W64) : W64 := BitVec.ofInt 64 (a.toInt * b.toInt / (2 ^ 64 : Nat))
def mulhuOf (a b : W64) : W64 := w64 (a.toNat * b.toNat / 2 ^ 64)
def divOf (a b : W64) : W64 :=
  if b = 0 then BitVec.allOnes 64 else BitVec.ofInt 64 (a.toInt.tdiv b.toInt)
def divuOf (a b : W64) : W64 := if b = 0 then BitVec.allOnes 64 else a / b
def remOf (a b : W64) : W64 := if b = 0 then a else BitVec.ofInt 64 (a.toInt.tmod b.toInt)
def remuOf (a b : W64) : W64 := if b = 0 then a else a % b

/-! ### The instructions -/

/-- `add` (R184). -/
def execAdd (st : Fin 8) (rd rs1 rs2 : Fin 32) (s : State) : Out1 := rrr st rd rs1 rs2 (some 1) (fun a b => a + b) s

/-- `sub` (R184). -/
def execSub (st : Fin 8) (rd rs1 rs2 : Fin 32) (s : State) : Out1 := rrr st rd rs1 rs2 (some 1) (fun a b => a - b) s

/-- `and` (R184). -/
def execAnd (st : Fin 8) (rd rs1 rs2 : Fin 32) (s : State) : Out1 := rrr st rd rs1 rs2 (some 1) (fun a b => a &&& b) s

/-- `or` (R184). -/
def execOr (st : Fin 8) (rd rs1 rs2 : Fin 32) (s : State) : Out1 := rrr st rd rs1 rs2 (some 1) (fun a b => a ||| b) s

/-- `xor` (R184). -/
def execXor (st : Fin 8) (rd rs1 rs2 : Fin 32) (s : State) : Out1 := rrr st rd rs1 rs2 (some 1) (fun a b => a ^^^ b) s

/-- `sll` (R184). -/
def execSll (st : Fin 8) (rd rs1 rs2 : Fin 32) (s : State) : Out1 := rrr st rd rs1 rs2 (some 1) sllOf s

/-- `srl` (R184). -/
def execSrl (st : Fin 8) (rd rs1 rs2 : Fin 32) (s : State) : Out1 := rrr st rd rs1 rs2 (some 1) srlOf s

/-- `sra` (R184). -/
def execSra (st : Fin 8) (rd rs1 rs2 : Fin 32) (s : State) : Out1 := rrr st rd rs1 rs2 (some 1) sraOf s

/-- `min` (R184). -/
def execMin (st : Fin 8) (rd rs1 rs2 : Fin 32) (s : State) : Out1 := rrr st rd rs1 rs2 (some 1) minOf s

/-- `max` (R184). -/
def execMax (st : Fin 8) (rd rs1 rs2 : Fin 32) (s : State) : Out1 := rrr st rd rs1 rs2 (some 1) maxOf s

/-- `minu` (R184). -/
def execMinu (st : Fin 8) (rd rs1 rs2 : Fin 32) (s : State) : Out1 := rrr st rd rs1 rs2 (some 1) minuOf s

/-- `maxu` (R184). -/
def execMaxu (st : Fin 8) (rd rs1 rs2 : Fin 32) (s : State) : Out1 := rrr st rd rs1 rs2 (some 1) maxuOf s

/-- `clz` (R184). -/
def execClz (st : Fin 8) (rd rs1 : Fin 32) (s : State) : Out1 := rr st rd rs1 clzOf s

/-- `ctz` (R184). -/
def execCtz (st : Fin 8) (rd rs1 : Fin 32) (s : State) : Out1 := rr st rd rs1 ctzOf s

/-- `popc` (R184). -/
def execPopc (st : Fin 8) (rd rs1 : Fin 32) (s : State) : Out1 := rr st rd rs1 popcOf s

/-- `cset` (R184). -/
def execCset (st : Fin 8) (rd rs1 rs2 : Fin 32) (cc : Fin 8) (s : State) : Out1 :=
  rrr st rd rs1 rs2 (some 1) (fun a b => if cond cc a b then 1 else 0) s

/-- `csetm` (R184). -/
def execCsetm (st : Fin 8) (rd rs1 rs2 : Fin 32) (cc : Fin 8) (s : State) : Out1 :=
  rrr st rd rs1 rs2 (some 1) (fun a b => if cond cc a b then BitVec.allOnes 64 else 0) s

/-- `add32` (R184). -/
def execAdd32 (st : Fin 8) (rd rs1 rs2 : Fin 32) (s : State) : Out1 := rrr st rd rs1 rs2 (some 1) (fun a b => ext32 (a + b)) s

/-- `sub32` (R184). -/
def execSub32 (st : Fin 8) (rd rs1 rs2 : Fin 32) (s : State) : Out1 := rrr st rd rs1 rs2 (some 1) (fun a b => ext32 (a - b)) s

/-- `sll32` (R184). -/
def execSll32 (st : Fin 8) (rd rs1 rs2 : Fin 32) (s : State) : Out1 := rrr st rd rs1 rs2 (some 1) (fun a b => ext32 ((sll32Of a b).setWidth 64)) s

/-- `srl32` (R184). -/
def execSrl32 (st : Fin 8) (rd rs1 rs2 : Fin 32) (s : State) : Out1 := rrr st rd rs1 rs2 (some 1) (fun a b => ext32 ((srl32Of a b).setWidth 64)) s

/-- `sra32` (R184). -/
def execSra32 (st : Fin 8) (rd rs1 rs2 : Fin 32) (s : State) : Out1 := rrr st rd rs1 rs2 (some 1) (fun a b => ext32 ((sra32Of a b).setWidth 64)) s

/-- `add32z` (R184). -/
def execAdd32z (st : Fin 8) (rd rs1 rs2 : Fin 32) (s : State) : Out1 := rrr st rd rs1 rs2 (some 1) (fun a b => ext32z (a + b)) s

/-- `sub32z` (R184). -/
def execSub32z (st : Fin 8) (rd rs1 rs2 : Fin 32) (s : State) : Out1 := rrr st rd rs1 rs2 (some 1) (fun a b => ext32z (a - b)) s

/-- `sll32z` (R184). -/
def execSll32z (st : Fin 8) (rd rs1 rs2 : Fin 32) (s : State) : Out1 := rrr st rd rs1 rs2 (some 1) (fun a b => ext32z ((sll32Of a b).setWidth 64)) s

/-- `srl32z` (R184). -/
def execSrl32z (st : Fin 8) (rd rs1 rs2 : Fin 32) (s : State) : Out1 := rrr st rd rs1 rs2 (some 1) (fun a b => ext32z ((srl32Of a b).setWidth 64)) s

/-- `sra32z` (R184). -/
def execSra32z (st : Fin 8) (rd rs1 rs2 : Fin 32) (s : State) : Out1 := rrr st rd rs1 rs2 (some 1) (fun a b => ext32z ((sra32Of a b).setWidth 64)) s

/-- `mul` (R184). -/
def execMul (st : Fin 8) (rd rs1 rs2 : Fin 32) (s : State) : Out1 := rrr st rd rs1 rs2 (some 3) (fun a b => a * b) s

/-- `mulh` (R184). -/
def execMulh (st : Fin 8) (rd rs1 rs2 : Fin 32) (s : State) : Out1 := rrr st rd rs1 rs2 (some 3) mulhOf s

/-- `mulhu` (R184). -/
def execMulhu (st : Fin 8) (rd rs1 rs2 : Fin 32) (s : State) : Out1 := rrr st rd rs1 rs2 (some 3) mulhuOf s

/-- `div` (R184). -/
def execDiv (st : Fin 8) (rd rs1 rs2 : Fin 32) (s : State) : Out1 := rrr st rd rs1 rs2 none divOf s

/-- `divu` (R184). -/
def execDivu (st : Fin 8) (rd rs1 rs2 : Fin 32) (s : State) : Out1 := rrr st rd rs1 rs2 none divuOf s

/-- `rem` (R184). -/
def execRem (st : Fin 8) (rd rs1 rs2 : Fin 32) (s : State) : Out1 := rrr st rd rs1 rs2 none remOf s

/-- `remu` (R184). -/
def execRemu (st : Fin 8) (rd rs1 rs2 : Fin 32) (s : State) : Out1 := rrr st rd rs1 rs2 none remuOf s

end Sys2Proof.Machine
end

