-- ==== Sys2Proof/Machine/HireMath.lean ====
section
/-!
DEFINITION. Sys2Proof/Machine/HireMath.lean: what a hire computes from its operands (R62 to R64, R298 to R301).
-/
namespace Sys2Proof.Machine
open Sys2Proof.Fp

/-! ### Geometry (R296, R297) -/

/-- Bits `hi` to `lo` of captured register hg`i`. -/
def Hire.g (h : Hire) (i hi lo : Nat) : Nat := bitsOf (nth 0 h.hg i).toNat hi lo

def Hire.m (h : Hire) : Nat := h.g 0 7 0 + 1
def Hire.n (h : Hire) : Nat := h.g 0 15 8 + 1
def Hire.k (h : Hire) : Nat := h.g 0 31 16
def Hire.fa (h : Hire) : Nat := h.g 0 35 32
def Hire.fb (h : Hire) : Nat := h.g 0 39 36
def Hire.lf (h : Hire) : Nat := h.g 0 43 40
def Hire.sparse (h : Hire) : Bool := h.g 0 45 44 == 1
def Hire.at (h : Hire) : Bool := h.g 0 46 46 == 1
def Hire.bt (h : Hire) : Bool := h.g 0 47 47 == 1
def Hire.lmode (h : Hire) : Nat := h.g 0 49 48
def Hire.chain (h : Hire) : Nat := h.g 0 51 50
def Hire.res (h : Hire) : Bool := h.g 0 52 52 == 1
def Hire.gath (h : Hire) : Bool := h.g 0 53 53 == 1
def Hire.usesDup (h : Hire) : Bool := h.g 0 54 54 == 1
def Hire.astr (h : Hire) : Nat := h.g 3 43 24
def Hire.bstr (h : Hire) : Nat := h.g 3 63 44
def Hire.lstr (h : Hire) : Nat := h.g 3 23 0
def Hire.cls (h : Hire) : Nat := h.g 4 20 19
def Hire.hen (h : Hire) : Bool := h.g 4 16 16 == 1
def Hire.bar (h : Hire) : Nat := (nth 0 h.hg 6).toNat
def Hire.cid (h : Hire) : Nat := h.g 7 15 0

/-- `eb(f) ÷ 8` for a landing format. -/
def landBytes (lf : Nat) : Nat := fmtBits lf / 8

/-- MX formats (R37). -/
def isMx (f : Nat) : Bool := f == 6 || f == 7

/-- The accepted pairs of R298. -/
def hirePair (fa fb : Nat) : Bool :=
  (1 ≤ fa && fa ≤ 7 && 1 ≤ fb && fb ≤ 7) || ((fa == 8 || fa == 9) && (fb == 8 || fb == 9))

/-- The integer class (R298). -/
def intClass (fa : Nat) : Bool := 8 ≤ fa

/-- The K-group size (R62, R298). -/
def groupSize (fa fb : Nat) : Nat :=
  if fa = 1 ∨ fa = 2 ∨ fb = 1 ∨ fb = 2 then 1
  else if (fa = 7 ∧ fb = 7) ∨ (fa = 8 ∧ fb = 8) then 8
  else 2

/-- Bytes of a line of `n` elements. -/
def lineBytes (n f : Nat) : Nat := n * fmtBits f / 8

/-! ### Lines of the tiles (R299) -/

/-- Lines of the A tile, elements per line. -/
def Hire.aLines (h : Hire) : Nat := if h.at then h.k else if h.gath then h.g 5 51 40 else h.m
def Hire.aElems (h : Hire) : Nat := if h.at then h.m else if h.sparse then h.k / 2 else h.k

/-- Bytes per line of the A tile's scale plane and of its metadata plane. -/
def Hire.aScale (h : Hire) : Nat := if isMx h.fa then h.k / 32 else 0
def Hire.aMeta (h : Hire) : Nat := if h.sparse then (h.k + 7) / 8 else 0

/-- `K0` of R299. -/
def Hire.k0 (h : Hire) : Nat := h.k - h.dup.length

/-- The B tile of a hire, its bytes those that have been pushed. -/
def Hire.bTile (h : Hire) : BTile :=
  { asid := h.asid, tag := h.tag, base := h.bbase, stride := h.bstr, k := h.k0, n := h.n, fb := h.fb, bt := h.bt,
    t0 := (nth 0 h.c4 2).toNat, t1 := (nth 0 h.c4 3).toNat, cells := h.opsB }

def BTile.lines (b : BTile) : Nat := if b.bt then b.n else b.k
def BTile.elems (b : BTile) : Nat := if b.bt then b.k else b.n
def BTile.scale (b : BTile) : Nat := if isMx b.fb then b.k / 32 else 0

/-- The tile's bytes with its scale plane (R326). -/
def BTile.size (b : BTile) : Nat := b.lines * (lineBytes b.elems b.fb + b.scale)

/-! ### The push of the operands (R307, R309) -/

/-- The stored K position of each pushed position: those that the map lists are pushed twice (R301). -/
def dupPositions (dup : List Nat) (k0 : Nat) : List Nat :=
  (natsFrom 0 k0).flatMap (fun p => if dup.contains p then [p, p] else [p])

/-- Operand bytes that one read of the push engine brings: of A or of B, `len` bytes at a scratchpad offset; `kept` says that
the array has a use for them, which a gathered line that no index names has not (R301). -/
structure PushRange where
  isA  : Bool
  off  : Nat
  len  : Nat
  kept : Bool := true
  deriving DecidableEq, Repr

/-- A line or a line's part of a plane: its bytes, and how many of them the first min(K, 512) K positions need. -/
structure PushPart where
  range : PushRange
  first : Nat
  deriving DecidableEq, Repr

/-- The K positions that a hire needs before it is READY (R309). -/
def Hire.firstK (h : Hire) : Nat := min h.k 512

/-- How many stored B positions feed the first pushed ones (R301). -/
def Hire.firstB (h : Hire) : Nat :=
  if h.isBind || !h.usesDup then h.firstK else nth 0 (dupPositions h.dup h.k0) (h.firstK - 1) + 1

/-- The bytes that hold `n` elements. -/
def bytesFor (n f : Nat) : Nat := (n * fmtBits f + 7) / 8

/-- The lines of A and of its planes. -/
def Hire.aParts (h : Hire) : List PushPart :=
  let c := h.firstK
  let plane := h.abase + h.aLines * h.astr
  let kept := fun (j : Nat) => !h.gath || h.idx.contains j
  let lines := natsFrom 0 h.aLines
  lines.map (fun j =>
    ⟨⟨true, h.abase + j * h.astr, lineBytes h.aElems h.fa, kept j⟩,
      if h.at then (if j < c then lineBytes h.aElems h.fa else 0) else bytesFor (if h.sparse then c / 2 else c) h.fa⟩) ++
    lines.map (fun j => ⟨⟨true, plane + j * h.aScale, h.aScale, kept j⟩, c / 32⟩) ++
    lines.map (fun j => ⟨⟨true, plane + j * h.aMeta, h.aMeta, kept j⟩, (c + 7) / 8⟩)

/-- The lines of B and of its plane. -/
def Hire.bParts (h : Hire) : List PushPart :=
  let t := h.bTile
  let c := h.firstB
  let lines := natsFrom 0 t.lines
  lines.map (fun j =>
    ⟨⟨false, h.bbase + j * h.bstr, lineBytes t.elems h.fb, true⟩,
      if h.bt then bytesFor c h.fb else if j < c then lineBytes t.elems h.fb else 0⟩) ++
    lines.map (fun j => ⟨⟨false, h.bbase + t.lines * h.bstr + j * t.scale, t.scale, true⟩, c / 32⟩)

def Hire.parts (h : Hire) : List PushPart :=
  (if h.isBind then [] else h.aParts) ++ (if h.res && !h.isBind then [] else h.bParts)

/-- What the first K positions need of a part, and the rest of it. -/
def PushPart.head (p : PushPart) : PushRange := { p.range with len := min p.first p.range.len }
def PushPart.tail (p : PushPart) : PushRange :=
  { p.range with off := p.range.off + min p.first p.range.len, len := p.range.len - p.first }

/-- The reads that the first min(K, 512) K positions need, and all the others. -/
def Hire.needed (h : Hire) : List PushRange := (h.parts.map PushPart.head).filter (fun r => r.len != 0)
def Hire.others (h : Hire) : List PushRange := (h.parts.map PushPart.tail).filter (fun r => r.len != 0)

/-- The reads of a hire in the order in which its core's push engine takes them: first those that READY waits for. The spec
gives no order (assumption log 115). -/
def Hire.reads (h : Hire) : List PushRange := h.needed ++ h.others

/-- The bytes that reads keep at the array. -/
def keptBytes (l : List PushRange) : Nat := ((l.filter (·.kept)).map (·.len)).sum

/-! ### Elements (R44, R49, R300) -/

/-- The bits of element `e` of a line. -/
def tileBits (m : List Host.Cell) (start e f : Nat) : Nat :=
  let w := fmtBits f
  let v := leNat (Memory.bytes m (start + e * w / 8) (max 1 (w / 8)))
  (if w = 4 ∧ e % 2 = 1 then v / 16 else v) % 2 ^ w

/-- The value of an operand element: under its block scale, or through its table. -/
def elemVal (f bits scale t0 t1 : Nat) : Exact :=
  if f = 8 then ofInt (c4Entry t0 t1 bits)
  else if isMx f then mxVal f scale bits
  else val f bits

/-- The stored line of A for row `i` (R301). -/
def Hire.aLine (h : Hire) (i : Nat) : Nat := if h.gath then nth 0 h.idx i else i

/-- `A[i][k]`; `none` at a pruned position (R300). -/
def Hire.aVal (h : Hire) (i k : Nat) : Option Exact :=
  let t0 := (nth 0 h.c4 0).toNat
  let t1 := (nth 0 h.c4 1).toNat
  if h.at then some (elemVal h.fa (tileBits h.opsA (h.abase + k * h.astr) i h.fa) 0 t0 t1)
  else
    let line := h.aLine i
    let start := h.abase + line * h.astr
    let plane := h.abase + h.aLines * h.astr
    if h.sparse then
      let code := tileBits h.opsA (plane + line * h.aMeta) (k / 4) 8
      let at? := fun (p : Nat) => some (elemVal h.fa (tileBits h.opsA start (2 * (k / 4) + p) h.fa) 0 t0 t1)
      if code / 4 = k % 4 then at? 1 else if code % 4 = k % 4 then at? 0 else none
    else
      let scale := (Memory.byte h.opsA (plane + line * h.aScale + k / 32)).toNat
      some (elemVal h.fa (tileBits h.opsA start k h.fa) scale t0 t1)

/-- Element `j` at stored K position `k` of a B tile. -/
def BTile.at (b : BTile) (k j : Nat) : Exact :=
  if b.bt then
    let scale := (Memory.byte b.cells (b.base + b.n * b.stride + j * b.scale + k / 32)).toNat
    elemVal b.fb (tileBits b.cells (b.base + j * b.stride) k b.fb) scale b.t0 b.t1
  else elemVal b.fb (tileBits b.cells (b.base + k * b.stride) j b.fb) 0 b.t0 b.t1

/-! ### Accumulation (R63) -/

/-- The exact sum of one K-group. -/
def groupSum (a : Nat → Option Exact) (b : Nat → Exact) (first n : Nat) : Exact :=
  (natsFrom first n).foldl (fun s k =>
    match a k with
    | some x => s.add .rne (x.mul (b k))
    | none => s) (.fin false 0 1)

/-- One output element: the K-groups in order onto `acc`. -/
def accumulate (int : Bool) (g groups : Nat) (a : Nat → Option Exact) (b : Nat → Exact) (acc : Nat) : Nat :=
  (natsFrom 0 groups).foldl (fun acc i =>
    let s := groupSum a b (i * g) g
    if int then wrapInt 32 (sgnOf 32 acc + roundInt .rne s)
    else r32 ((f32 acc).add .rne s) .rne) acc

/-- The accumulators of a hire, row by row, from those it starts with. -/
def Hire.compute (h : Hire) (b : BTile) (acc : List Nat) : List Nat :=
  let g := groupSize h.fa h.fb
  let pos := if h.res then natsFrom 0 h.k else dupPositions h.dup h.k0
  (natsFrom 0 (h.m * h.n)).map (fun e =>
    let i := e / h.n
    let j := e % h.n
    accumulate (intClass h.fa) g (h.k / g) (h.aVal i) (fun k => b.at (nth 0 pos k) j) (nth 0 acc e))

/-! ### Landing (R64) -/

/-- `v` of R64: the bits that the landing converts, s32 or fp32. -/
def landValue (int : Bool) (lf acc sa sb : Nat) : Nat :=
  if int ∧ lf = 0xB then acc
  else
    let a := if int then r32 (ofInt (sgnOf 32 acc)) .rne else acc
    let sc := r32 ((f32 sa).mul (f32 sb)) .rne
    r32 ((f32 a).mul (f32 sc)) .rne

/-- `satl` of R64. -/
def satl (lf : Nat) : Bool := 3 ≤ lf

/-- `out` of store mode. -/
def landStore (int : Bool) (lf v : Nat) : Nat := if int ∧ lf = 0xB then v else rnd lf (f32 v) .rne (satl lf)

/-- `out` of accumulate mode over the old element. -/
def landAdd (int : Bool) (lf old v : Nat) : Nat :=
  if int ∧ lf = 0xB then (old + v) % 2 ^ 32
  else rnd lf (f32 (r32 ((val lf old).add .rne (f32 v)) .rne)) .rne (satl lf)

end Sys2Proof.Machine
end

