-- ==== Sys2Proof/Machine/ArrayOps.lean ====
section
/-!
DEFINITION. Sys2Proof/Machine/ArrayOps.lean: hires and arrays as state: status words, final states with their
continuations, bounces and marks (R304, R305, R312, R315, R316), and unit disabling (R485, R494).
-/
namespace Sys2Proof.Machine

/-! ### Arrays by number -/

/-- The array id of array `a` of a die (R293). -/
def arrayId (die a : Nat) : Nat := die * 36 + a

/-- Whether an array is disabled. -/
def State.arrayOff (s : State) (id : Nat) : Bool := s.disabled (id / 36) (768 + id % 36)

/-! ### Hires by number -/

def State.hire? (s : State) (hid : Nat) : Option Hire := s.hires.find? (fun h => h.hid == hid)

def State.updHire (s : State) (hid : Nat) (f : Hire → Hire) : State :=
  { s with hires := s.hires.map (fun h => if h.hid = hid then f h else h) }

def State.array (s : State) (id : Nat) : ArrayUnit := s.arrays.get {} id
def State.updArray (s : State) (id : Nat) (f : ArrayUnit → ArrayUnit) : State :=
  { s with arrays := s.arrays.set id (f (s.array id)) }

/-- The array id that a hire is placed on; a hire with no array stands at array 0 of its die. -/
def Hire.arrayId (h : Hire) : Nat := dieOf h.core * 36 + (if h.arr = 0xFF then 0 else h.arr)

/-- Whether a hire has started (R310). -/
def ArrayUnit.hasStarted (a : ArrayUnit) (hid : Nat) : Bool := a.started.contains hid

/-- The status word of a hire (R305). -/
def Hire.status (h : Hire) : W64 :=
  w64 (h.off % 2 ^ 32 * 2 ^ 32 + h.arr % 256 * 2 ^ 24 + (if h.pls then 2 ^ 19 else 0) + (if h.arf then 2 ^ 18 else 0) +
    (if h.pushed then 2 ^ 17 else 0) + h.detail % 256 * 2 ^ 8 + h.state % 256)

/-- The ticket of a hire (R294). -/
def Hire.ticket (h : Hire) : Nat := h.ctx * 8 + h.slot

/-- The status word of slot `i` of a context (R304, R305). -/
def State.slotStatus (s : State) (t : Ctx) (i : Nat) : W64 :=
  match t.hires.find? i with
  | none => 0
  | some e =>
    match e.final with
    | some w => w
    | none =>
      match s.hire? e.hid with
      | some h => h.status
      | none => 0

/-- Whether a slot is NONE or final (R325). -/
def Ctx.slotFree (t : Ctx) (i : Nat) : Bool :=
  match t.hires.find? i with
  | none => true
  | some e => e.final.isSome

/-! ### Marks (R316) -/

/-- Clears the mark that a hire placed. -/
def State.clearMark (s : State) (hid : Nat) : State :=
  { s with arrays := s.arrays.map (fun e => (e.1, { e.2 with marks := e.2.marks.filter (fun m => m.2 != hid) })) }

/-- Whether a mark turns a hire of a master away. -/
def ArrayUnit.marked (a : ArrayUnit) (uid hid : Nat) : Bool := a.marks.any (fun m => m.1 == uid && m.2 < hid)

/-! ### Final states (R304, R315) -/

/-- The status word in the slot of the hire, where it still stands for that hire. -/
def Ctx.finalSlot (t : Ctx) (h : Hire) (w : W64) : Ctx :=
  match t.hires.find? h.slot with
  | some e => if t.uid = h.uid ∧ e.hid = h.hid then { t with hires := t.hires.set h.slot ⟨h.hid, some w⟩ } else t
  | none => t

/-- The status word reaches the slot, where the master still holds it, on its core or in a save area. -/
def State.setFinal (s : State) (h : Hire) (w : W64) : State :=
  let t := s.ctx h.core h.ctx
  let s := if t.uid = h.uid ∧ t.phase ≠ .free then s.setCtx h.core h.ctx (t.finalSlot h w) else s
  { s with saves := s.saves.map (fun r => { r with ctxs := r.ctxs.map (fun e => (e.1, e.2.finalSlot h w)) }) }

/-- The continuation of a hire (R315). -/
def Hire.continuation (h : Hire) (w : W64) : Flight :=
  { msg :=
      { role := h.g 4 18 17, ovl := h.ovl, hnd := h.g 4 15 0, job := h.job,
        args := [w64 h.ticket, w, w64 (h.g 4 63 32), w64 h.land] },
    launch := h.launch, target := h.core, sender := .array h.arrayId, uid := h.uid, acq := some .package,
    hire := some h.hid }

/-- Sends a continuation, or drops it because the task that named it was killed or dropped (R110, R145). -/
def State.sendContinuation (s : State) (f : Flight) : State :=
  if NatSet.has s.deadTasks f.uid then
    let s := s.countDown f.launch
    match f.hire with
    | some hid => s.clearMark hid
    | none => s
  else { s with msgs := s.msgs ++ [f] }

/-- Whether a hire that is running or queued on an array reads its resident tile (R302, R303). -/
def State.tileRead (s : State) (a : ArrayUnit) (t : BTile) : Bool :=
  (a.running.toList ++ a.queue).any (fun hid =>
    match s.hire? hid with
    | some h => !h.isBind && h.res && h.asid == t.asid && h.tag == t.tag
    | none => false)

/-- A disabled array frees its resident slots after the last hire that reads each (R302, R494). -/
def State.sweepTiles (s : State) (id : Nat) : State :=
  if s.arrayOff id then s.updArray id (fun a => { a with tiles := a.tiles.filter (fun e => s.tileRead a e.2) }) else s

/-- A hire reaches a final state: its slot, its queue entry and its continuation. -/
def State.finishHire (s : State) (hid state : Nat) : State :=
  match s.hire? hid with
  | none => s
  | some h =>
    let h := { h with state := state }
    let w := h.status
    let s := { s with hires := s.hires.filter (fun x => x.hid != hid) }
    let s := s.updArray h.arrayId (fun a =>
      { a with arrivals := a.arrivals.filter (· != hid), queue := a.queue.filter (· != hid),
               started := a.started.filter (· != hid),
               lastBusy := if a.running = some hid then s.cycle else a.lastBusy,
               running := if a.running = some hid then none else a.running })
    let s := (s.sweepTiles h.arrayId).setFinal h w
    if h.hen then s.sendContinuation (h.continuation w) else s

/-! ### Chains and bounces (R312, R316) -/

/-- The open chain of a key (R312). -/
def ArrayUnit.openChain (a : ArrayUnit) (uid cid : Nat) : Option Chain :=
  a.chains.find? (fun c => c.uid == uid && c.cid == cid && !c.closing)

/-- Frees the bank of the chain that a hire has opened. -/
def ArrayUnit.dropBank (a : ArrayUnit) (id : Nat) : ArrayUnit := { a with chains := a.chains.filter (fun c => c.id != id) }

/-- Whether an earlier hire of the master that has not started opens or closes a chain of the key: the chain that is open now is
then not that of the hire. -/
def State.chainTurns (s : State) (h : Hire) : Bool :=
  s.hires.any (fun x => x.uid == h.uid && x.arrayId == h.arrayId && x.cid == h.cid && x.hid < h.hid && !x.isBind &&
    (x.chain == 1 || x.chain == 3) && !(s.array h.arrayId).hasStarted x.hid)

/-- The chain of a hire: the one whose bank it uses, or before it starts the one that its key has open (R312). -/
def State.chainOf (s : State) (h : Hire) : Option Nat :=
  match h.bank with
  | some id => some id
  | none =>
    if h.chain < 2 ∨ h.isBind ∨ s.chainTurns h then none
    else ((s.array h.arrayId).openChain h.uid h.cid).map (·.id)

/-- The chain of a bounced hire is aborted (R312). -/
def State.abortChain (s : State) (h : Hire) : State :=
  match s.chainOf h with
  | some id => s.updArray h.arrayId (·.dropBank id)
  | none => s

/-- A hire ends BOUNCED-ORDER (R316). -/
def State.bounceOrder (s : State) (hid : Nat) : State :=
  match s.hire? hid with
  | none => s
  | some h => (s.abortChain h).finishHire hid 0x21

/-- A hire ends BOUNCED-FAULT: its array marks its master, whose later hires there that have not started end
BOUNCED-ORDER (R316). -/
def State.bounce (s : State) (hid detail off : Nat) : State :=
  match s.hire? hid with
  | none => s
  | some h =>
    let s := s.updHire hid (fun h => { h with detail := detail, off := off })
    let s := s.updArray h.arrayId (fun a => { a with marks := (h.uid, hid) :: a.marks })
    let later := s.hires.filter (fun x =>
      x.uid == h.uid && x.arrayId == h.arrayId && hid < x.hid && !(s.array h.arrayId).hasStarted x.hid && x.state != 0x01)
    let s := (s.abortChain h).finishHire hid 0x20
    later.foldl (fun s x => s.bounceOrder x.hid) s

end Sys2Proof.Machine
end

