-- ==== Sys2Proof/Machine/LoadStore.lean ====
section
/-!
DEFINITION. Sys2Proof/Machine/LoadStore.lean: the scalar loads and stores (R195 to R200), the wait below a copy watermark
(R386), and the migration of an access to a migratory page (R369).
-/
namespace Sys2Proof.Machine

/-! ### Copy watermarks (R385, R386) -/

/-- The other-core window address of core `c` (R149). -/
def otherVa (c off : Nat) : Nat := 0xFFFFFF0000000000 + c * 2 ^ 20 + off

/-- An address with the own-scratchpad window replaced by the other-core window of core `c` (R375). -/
def normVa (c va : Nat) : Nat :=
  match placeOf va with
  | .own off => otherVa c off
  | _ => va

/-- The bytes of a copy's active destination range: none in mode 2 (R385). Until the record of a layout has been read, it takes
in what follows CPDST in its scratchpad, or in memory (assumption log 126). -/
def CopyOp.rangeLen (o : CopyOp) : Nat :=
  match bitsOf o.flag 3 2 with
  | 0 => o.len
  | 1 =>
    if o.record.isEmpty then (if 0xFFFFFF0000000000 ≤ o.dst then 2 ^ 20 - o.dst % 2 ^ 20 else 2 ^ 57)
    else o.units * (Fp.fmtBits (if bitOf o.flag 8 then bitsOf o.flag 7 4 else bitsOf (nth 0 o.record 11).toNat 3 0) / 8)
  | _ => 0

/-- Whether a running copy makes an access of `n` bytes wait: it touches the range at or above the watermark. -/
def CopyOp.covers (o : CopyOp) (asid va n : Nat) : Bool :=
  o.state == 0x02 && (o.asid == asid || 0xFFFFFF0000000000 ≤ o.dst) && o.dst + o.acked < va + n &&
    va < o.dst + o.rangeLen && o.acked < o.rangeLen

/-- Whether a range of a core's scratchpad touches the region of a window accumulator that its unit works on (R281, R283). -/
def HomeCore.waBusy (h : HomeCore) (cycle off n : Nat) : Bool :=
  h.wa.any (fun e => cycle < e.2.busyTo && overlap off n e.2.off e.2.size)

/-- Whether an access by a task of core `c` waits: for a watermark (R386), or for a window accumulator of the core (R283). -/
def State.belowWatermark (s : State) (c asid va n : Nat) : Bool :=
  (s.core c).copies.any (fun e => e.2.queue.any (fun o => o.covers asid (normVa c va) n)) ||
    (match placeOf (normVa c va) with
     | .other d off => d == c && (s.core c).waBusy s.cycle off n
     | _ => false)

/-! ### Migratory pages (R369, R370) -/

/-- The core to which an access through this translation takes the task, if it migrates. -/
def State.migrateTo (s : State) (va : Nat) (tr : Tr) : Option Nat :=
  let first := tr.pa - va % pageBytes tr.size
  let home := homeCore first
  if tr.mig && inHbm first 1 && home / 8 != s.curCore / 8 && s.inMask s.cur home && !s.here.pinned s.curCtx s.cur then
    some home
  else none

/-- The core to which an access of the task at issue takes it before it has any effect: its translation is there and names a
migratory page (R369). -/
def State.movesTo (s : State) (va : Nat) (write : Bool) : Option Nat :=
  match s.lookup s.die s.cur.asid va write with
  | .ok tr => if (s.refuses tr va write).isNone then s.migrateTo va (tr.at va) else none
  | .error _ => none

/-- The translation that the access of a task finds before it moves is granted as every other one (R354, R361). -/
def State.peeked (s : State) (va : Nat) : State := (s.translate s.die s.cur.asid va false none).2

/-- Waits for the gate at the narrowest scope that holds both cores, then leaves for the page's home core. -/
def State.leaveFor (s : State) (home : Nat) : Res :=
  match s.gate (scopeOf s.curCore home) with
  | .closed s => .hold s
  | .passed s =>
    if !s.cur.var.isEmpty then .hold s
    else .gone (s.migrateTask s.curCore s.curCtx (s.cur.flight home s.curCore))

/-! ### Loads -/

/-- Whether a byte of the access is poisoned where it would be read: dirty bytes in the L1, the others at the home. -/
def State.loadPoison (s : State) (va n pa : Nat) : Bool :=
  let l := (s.here.l1At s.cur.asid va).map (·.bytes)
  let home := fun (i : Nat) => s.poisonBehind (s.homeOf pa) i 1 (fun j => s.homePoison j 1)
  (natsFrom pa n).any (fun i =>
    match l.bind (·.find? (i % 128)) with
    | some x => if x.dirty then x.bad else home i
    | none => home i)

/-- Whether a byte of another core's scratchpad is poisoned where it would be read. -/
def State.otherPoison (s : State) (core off n : Nat) : Bool :=
  s.poisonBehind (.spad core) off n (fun i => poisonedIn (s.core core).spadPoison i 1)

/-- Whether an earlier load of the task at issue of one of these locations is not answered yet: a hit in the L1 follows it
(R158). -/
def State.loading (s : State) (va n : Nat) : Bool :=
  s.here.out.any (fun o => o.req.op == .read && o.req.uid == s.cur.uid && o.req.asid == s.cur.asid &&
    overlap o.req.va o.req.dest.width va n)

/-- A load that misses: its request is sent (R156, R157). -/
def State.loadMiss (s : State) (rd n : Nat) (signed : Bool) (sc : Scope) (acq : Option Scope) (va : W64) : Res :=
  let a := va.toNat
  let reg := Reg.x s.cur.bank rd
  match s.movesTo a false with
  | some home => (s.peeked a).leaveFor home
  | none =>
    match s.xlate a false with
    | (.error (cause, info), _) => .trap cause info va
    | (.ok tr, s) =>
      if s.loadPoison a n tr.pa then .trap 0x13 0 va
      else
        let dest := if cacheable tr.pa then Dest.load reg n signed else Dest.direct reg n signed
        let s := s.sendLoad a n tr sc acq dest
        .done (if acq.isSome then s.holdFor (s.nextId - 1) else s) [.later (.x rd)] none

/-- `setX(rd, load(va, n, ord, sc))` (R106, R156, R157, R166, R170, R195 to R197, R200). -/
def State.load (s : State) (rd n : Nat) (signed : Bool) (sc : Scope) (acq : Bool) (va : W64) : Res :=
  let a := va.toNat
  let reg := Reg.x s.cur.bank rd
  let acq? := if acq then some sc else none
  match s.reach a n false with
  | .trap cause info => .trap cause info va
  | .own off =>
    let b := s.here.spBytes off n
    if s.belowWatermark s.curCore s.cur.asid a n then .hold s.waitStall
    else if PByte.anyBad b then .trap 0x13 0 va
    else .done (if acq then s.acquire s.curCore sc else s) (nowX rd (extend signed n (leNat (PByte.vals b)))) none
  | .other core off =>
    if s.belowWatermark s.curCore s.cur.asid a n then .hold s.waitStall
    else if s.otherPoison core off n then .trap 0x13 0 va
    else
      let id := s.upcoming
      let s := s.enqueue s.curCore
        { s.taskReq (.spad core) .read off n sc (.direct reg n signed) with va := a, acq := acq? } false true
      .done (if acq then s.holdFor id else s) [.later (.x rd)] none
  | .global =>
    if s.belowWatermark s.curCore s.cur.asid a n then .hold s.waitStall
    else
      match (if sc.wide then none else s.l1Hit s.curCore s.cur.asid a n) with
      | some b =>
        if s.loading a n then .hold s
        else if PByte.anyBad b then .trap 0x13 0 va
        else
          let s := s.hit a n
          .done (if acq then s.acquire s.curCore sc else s) (nowX rd (extend signed n (leNat (PByte.vals b)))) none
      | none => s.loadMiss rd n signed sc acq? va

/-! ### Stores -/

/-- A store whose line has no current translation in the L1, or one that is wider than core scope: it is translated first
(R160, R355). -/
def State.storeMiss (s : State) (sc : Scope) (va : W64) (bs : List Byte) : Res :=
  let a := va.toNat
  match s.movesTo a true with
  | some home => (s.peeked a).leaveFor home
  | none =>
    match s.xlate a true with
    | (.error (cause, info), _) => .trap cause info va
    | (.ok tr, s) =>
      if sc.wide || !cacheable tr.pa then .done (s.storeThrough a tr sc bs) [] none
      else .done (s.storeL1 a tr sc bs) [] none

/-- `store(va, n, v, ord, sc)` once the gate of a release is open (R106, R159, R160, R170, R197). -/
def State.store (s : State) (n : Nat) (sc : Scope) (va v : W64) : Res :=
  let a := va.toNat
  let bs := leBytes v.toNat n
  match s.reach a n true with
  | .trap cause info => .trap cause info va
  | .own off =>
    if s.belowWatermark s.curCore s.cur.asid a n then .hold s.waitStall
    else .done (s.spWrite s.curCore off (PByte.clean bs)) [] none
  | .other core off =>
    if s.belowWatermark s.curCore s.cur.asid a n then .hold s.waitStall
    else
      .done (s.enqueue s.curCore { s.taskReq (.spad core) (.write (PByte.clean bs)) off n sc .ack with va := a } true true)
        [] none
  | .global =>
    if s.belowWatermark s.curCore s.cur.asid a n then .hold s.waitStall
    else
      match (if sc.wide then none else (s.here.l1At s.cur.asid a).filter (fun l => s.current s.curCore l && l.w)) with
      | some l => .done (s.updHere (·.putL1 { (l.write (a % 128) s.cur.who bs) with tag := sc })) [] none
      | none => s.storeMiss sc va bs

/-- Whether an outcome comes before the gate of a release: a trap of the checks, or a task that leaves. Poison is met in the
step that the gate holds back (R238). -/
def Res.beforeGate : Res → Bool
  | .trap cause _ _ => cause != 0x13
  | .gone _ => true
  | _ => false

/-- A release store: its own checks come first, then the gate of R165 at its scope, then the store. -/
def State.storeRel (s : State) (n : Nat) (sc : Scope) (va v : W64) : Res :=
  let r := s.store n sc va v
  if r.beforeGate then r
  else
    match s.gate sc with
    | .closed s => .hold s
    | .passed s => s.store n sc va v

/-! ### The instructions -/

/-- A plain load (R195). -/
def loadOp (st rd rs1 : Nat) (imm : BitVec 13) (n : Nat) (signed : Bool) (s : State) : Out1 :=
  s.issueWith { st := st, reads := [.x rs1], writes := [.x rd] } fun s =>
    s.load rd n signed .core false (s.cur.readX rs1 + imm13 imm)

/-- A plain store (R195). -/
def storeOp (st rs1 rs2 : Nat) (imm : BitVec 13) (n : Nat) (s : State) : Out1 :=
  s.issueWith { st := st, reads := [.x rs1, .x rs2] } fun s =>
    s.store n .core (s.cur.readX rs1 + imm13 imm) (s.cur.readX rs2)

/-- `lb` (R195). -/
def execLb (st : Fin 8) (rd rs1 : Fin 32) (imm : BitVec 13) (s : State) : Out1 := loadOp st rd rs1 imm 1 true s
/-- `lh` (R195). -/
def execLh (st : Fin 8) (rd rs1 : Fin 32) (imm : BitVec 13) (s : State) : Out1 := loadOp st rd rs1 imm 2 true s
/-- `lw` (R195). -/
def execLw (st : Fin 8) (rd rs1 : Fin 32) (imm : BitVec 13) (s : State) : Out1 := loadOp st rd rs1 imm 4 true s
/-- `ld` (R195). -/
def execLd (st : Fin 8) (rd rs1 : Fin 32) (imm : BitVec 13) (s : State) : Out1 := loadOp st rd rs1 imm 8 true s
/-- `lbu` (R195). -/
def execLbu (st : Fin 8) (rd rs1 : Fin 32) (imm : BitVec 13) (s : State) : Out1 := loadOp st rd rs1 imm 1 false s
/-- `lhu` (R195). -/
def execLhu (st : Fin 8) (rd rs1 : Fin 32) (imm : BitVec 13) (s : State) : Out1 := loadOp st rd rs1 imm 2 false s
/-- `lwu` (R195). -/
def execLwu (st : Fin 8) (rd rs1 : Fin 32) (imm : BitVec 13) (s : State) : Out1 := loadOp st rd rs1 imm 4 false s

/-- LDX (R198, R200): an ordered or scoped load. -/
def execLdx (st : Fin 8) (rd rs1 : Fin 32) (ord : Fin 2) (scope : Fin 8) (uns : Fin 2) (size : Fin 4) (s : State) : Out1 :=
  s.issueWith { st := st, reads := [.x rs1], writes := [.x rd] } fun s =>
    s.load rd (2 ^ size.val) (uns == 0) (Scope.ofBits scope) (ord == 1) (s.cur.readX rs1)

/-- `sb` (R195). -/
def execSb (st : Fin 8) (rs1 rs2 : Fin 32) (imm : BitVec 13) (s : State) : Out1 := storeOp st rs1 rs2 imm 1 s
/-- `sh` (R195). -/
def execSh (st : Fin 8) (rs1 rs2 : Fin 32) (imm : BitVec 13) (s : State) : Out1 := storeOp st rs1 rs2 imm 2 s
/-- `sw` (R195). -/
def execSw (st : Fin 8) (rs1 rs2 : Fin 32) (imm : BitVec 13) (s : State) : Out1 := storeOp st rs1 rs2 imm 4 s
/-- `sd` (R195). -/
def execSd (st : Fin 8) (rs1 rs2 : Fin 32) (imm : BitVec 13) (s : State) : Out1 := storeOp st rs1 rs2 imm 8 s

/-- STX (R198, R200): an ordered or scoped store. -/
def execStx (st : Fin 8) (rs1 rs2 : Fin 32) (ord : Fin 2) (scope : Fin 8) (size : Fin 4) (s : State) : Out1 :=
  s.issueWith { st := st, reads := [.x rs1, .x rs2] } fun s =>
    let sc := Scope.ofBits scope
    if ord == 1 then s.storeRel (2 ^ size.val) sc (s.cur.readX rs1) (s.cur.readX rs2)
    else s.store (2 ^ size.val) sc (s.cur.readX rs1) (s.cur.readX rs2)

end Sys2Proof.Machine
end

