-- ==== Sys2Proof/Machine/CopyGo.lean ====
section
/-!
DEFINITION. Sys2Proof/Machine/CopyGo.lean: the status words and transfer ids of copy channels, and launching a copy
(R373 to R375, R380, R381).
-/
namespace Sys2Proof.Machine

/-- The copy formats (R376). -/
def copyFormat (f : Nat) : Bool := Fp.fmtCvtSource f

/-- The status word of a copy (R381). -/
def CopyOp.status (o : CopyOp) : W64 :=
  w64 (o.page % 2 ^ 32 * 2 ^ 32 + o.side % 2 * 2 ^ 18 + (if o.vis then 2 ^ 17 else 0) + (if o.sf then 2 ^ 16 else 0) +
    o.detail % 256 * 2 ^ 8 + o.state % 256)

/-- The transfer id of an operation of copy channel `ch` (R380). -/
def copyId (ch seq : Nat) : W64 := w64 (ch % 4 * 2 ^ 16 + seq % 2 ^ 16)

/-- Whether a sequence number is among the 16 latest of a channel that has given out `n` (R380). -/
def latest (n seq : Nat) : Bool :=
  let back := (n + 2 ^ 16 - 1 - seq) % 2 ^ 16
  back < 16 && back < n

/-- The scope of a copy's visible event (R374). -/
def CopyOp.scope (o : CopyOp) : Scope :=
  match bitsOf o.flag 11 9 with
  | 1 => .core
  | 2 => .die
  | 3 => .package
  | _ => .fabric

/-- A copy as its channel keeps it once it is final. -/
def CopyOp.done (o : CopyOp) : DoneOp := ⟨o.seq, o.asid, o.status, o.scope⟩

/-- What an id of a channel names, where the channel still keeps it (R380, R381). -/
def CopyChan.find (c : CopyChan) (seq : Nat) : Option DoneOp :=
  if latest c.nextSeq seq then
    ((c.queue.find? (fun o => o.seq == seq)).map CopyOp.done).or (c.recent.find? (fun e => e.seq == seq))
  else none

/-- Whether CPFLAG names a copy that may not be launched (R375). -/
def badFlag (f : Nat) : Bool :=
  let mode := bitsOf f 3 2
  let scope := bitsOf f 11 9
  mode == 3 || scope == 0 || 4 < scope || bitsOf f 15 14 == 3 || bitOf f 13 || (bitOf f 12 && bitsOf f 31 16 % 4 != 0) ||
    (mode == 0 && bitOf f 8) || (bitOf f 8 && !copyFormat (bitsOf f 7 4))

/-- A copy that has started (R373); of one with a layout the count of elements is still to be read (R378). -/
def CopyOp.begun (o : CopyOp) : CopyOp := { o with state := 0x02, units := if bitsOf o.flag 3 2 = 0 then o.len else 0 }

/-- A `csrr` of CPGO (R375): launches the copy that the shadow registers describe, which starts where its channel is free (R373). -/
def State.cpgo (s : State) (rd : Nat) : Res :=
  let t := s.cur
  let f := t.cpflag.toNat
  let ch := bitsOf f 1 0
  let chan := s.here.copies.get {} ch
  if badFlag f then .trap 0x02 0 0
  else if bitsOf f 3 2 ≠ 0 ∧ t.cpdesc.toNat % 32 ≠ 0 then .trap 0x04 0 t.cpdesc
  else if 8 ≤ chan.queue.length then .hold (s.waitCond false)
  else
    let seq := chan.nextSeq % 2 ^ 16
    let norm := fun (w : W64) => normVa s.curCore w.toNat
    let op : CopyOp :=
      { seq := seq, src := norm t.cpsrc, dst := norm t.cpdst, len := t.cplen.toNat, desc := norm t.cpdesc, flag := f,
        ctx := s.curCtx, uid := t.uid, launch := t.launch, asid := t.asid, job := t.job,
        ovl := (s.here.conf.map (·.ovl)).getD 0 }
    let chan :=
      if chan.queue.isEmpty then { chan with nextSeq := chan.nextSeq + 1, queue := [op.begun], wm := w64 op.dst }
      else { chan with nextSeq := chan.nextSeq + 1, queue := chan.queue ++ [op] }
    let s := s.updHere (fun h => { h with copies := h.copies.set ch chan })
    let s := if bitOf f 12 then s.countUp t.launch else s
    .done s (nowX rd (copyId ch seq)) none

end Sys2Proof.Machine
end

