-- ==== Sys2Proof/Machine/Csr.lean ====
section
/-!
DEFINITION. Sys2Proof/Machine/Csr.lean: the CSRs and the CSR instructions (R201 to R208, R331, R360, R374, R409, R313).
-/
namespace Sys2Proof.Machine

/-- The CSRs marked supervisor (R204). -/
def csrSup (num : Nat) : Bool := num == 0x060 || num == 0x070 || num == 0x400

/-- TASKID (R206). -/
def taskId (core ctx : Nat) : Nat := core * 16 + ctx

/-- LHZN (R360): the greatest horizon of the four keepers, plus 16 ns. -/
def State.lhzn (s : State) : Nat := (natsFrom 0 4).foldl (fun m d => max m (s.horizon.get 0 d)) 0 + 16

/-- INCMODE as a core's shadow shows it (R331). -/
def HomeCore.incmode (h : HomeCore) : Nat :=
  (natsFrom 0 16).foldl (fun w r =>
    let sh := h.shadow.get {} r
    if bitOf sh.bind 38 then w + sh.mode % 8 * 2 ^ (4 * r) else w) 0

/-- CHAIN_MAX of a die (R313). -/
def State.chainMaxOf (s : State) (d : Nat) : W64 := s.chainMax.get (w64 (1000 * 2 ^ 32 + 1024)) d

/-- `csrread` (R106, R204 to R208), CPGO excepted, whose read launches a copy. -/
def State.csrRead (s : State) (num : Nat) : W64 :=
  let t := s.cur
  let h := s.here
  match num with
  | 0x000 => setBit t.status 12 (s.vshr s.curCore t)
  | 0x001 => w64 (taskId s.curCore s.curCtx)
  | 0x002 => w64 (s.regBits pFabctl 16 8 * 2 ^ 16 + s.curCore)
  | 0x003 => w64 t.job
  | 0x004 => t.tvec
  | 0x005 => t.faulta
  | 0x006 => t.faultb
  | 0x010 => t.amax
  | 0x011 => t.c4ta0
  | 0x012 => t.c4ta1
  | 0x013 => t.c4tb0
  | 0x014 => t.c4tb1
  | 0x020 => w64 s.now
  | 0x021 => w64 s.lhzn
  | 0x030 => 0xFFFFFFFFFFF00000
  | 0x031 => w64 h.spsize
  | 0x040 => t.cpsrc
  | 0x041 => t.cpdst
  | 0x042 => t.cplen
  | 0x043 => t.cpdesc
  | 0x044 => t.cpflag
  | 0x048 => (h.copies.get {} 0).wm
  | 0x049 => (h.copies.get {} 1).wm
  | 0x04A => (h.copies.get {} 2).wm
  | 0x04B => (h.copies.get {} 3).wm
  | 0x050 => h.kvring
  | 0x060 => w64 h.incmode
  | 0x070 => s.chainMaxOf s.die
  | 0x400 => h.agelim
  | _ => 0

/-- KVRING as software writes it (R409). -/
def kvringOf (v : W64) : W64 :=
  let hlog := bitsOf v.toNat 43 40
  let v := v &&& 0x0FFFFFFFFFFFFFFF#64
  if hlog = 0 ∨ (4 ≤ hlog ∧ hlog ≤ 12) then v else putBits v 43 40 0

/-- AGELIM as software writes it (R141), and CHAIN_MAX (R313). -/
def agelimOf (v : W64) : W64 := w64 (max 16 (v.toNat % 2 ^ 16))
def chainMaxWord (v : W64) : W64 := w64 (bitsOf v.toNat 47 32 * 2 ^ 32 + max 1 (bitsOf v.toNat 15 0))

/-- `csrwrite` (R106, R202): read-only fields and registers keep their values. -/
def State.csrWrite (s : State) (num : Nat) (v : W64) : State :=
  match num with
  | 0x000 => s.updCur (·.writeStatus v)
  | 0x004 => s.updCur (·.writeTvec v)
  | 0x005 => s.updCur (·.writeFaulta v)
  | 0x010 => s.updCur (·.writeAmax v)
  | 0x011 => s.updCur (fun t => { t with c4ta0 := v })
  | 0x012 => s.updCur (fun t => { t with c4ta1 := v })
  | 0x013 => s.updCur (fun t => { t with c4tb0 := v })
  | 0x014 => s.updCur (fun t => { t with c4tb1 := v })
  | 0x040 => s.updCur (fun t => { t with cpsrc := v })
  | 0x041 => s.updCur (fun t => { t with cpdst := v })
  | 0x042 => s.updCur (fun t => { t with cplen := w64 (v.toNat % 2 ^ 40) })
  | 0x043 => s.updCur (fun t => { t with cpdesc := v })
  | 0x044 => s.updCur (fun t => { t with cpflag := v })
  | 0x050 => s.updHere (fun h => { h with kvring := kvringOf v })
  | 0x070 => { s with chainMax := s.chainMax.set s.die (chainMaxWord v) }
  | 0x400 => s.updHere (fun h => { h with agelim := agelimOf v })
  | _ => s

/-- The frame of a CSR instruction (R202): `upd` is the new value from the old one, `none` for `csrr`. A read of DTIME
waits for the time that the task has seen; a write takes effect for the next instruction, so that rd is of the bank
before it (R108, R203). -/
def csrOp (st rd : Nat) (rs1 : Option Nat) (num : Nat) (upd : Option (W64 → W64 → W64)) (s : State) : Out1 :=
  s.issueWith
    { st := st, reads := (match rs1 with | some r => [RName.x r] | none => []), writes := [.x rd],
      extra := if num = 0 then [.fut] else [], sup := csrSup num, supInfo := num,
      early := if csrAssigned num then none else some 0x01 } fun s =>
    match upd with
    | none =>
      if num = 0x045 then s.cpgo rd
      else if num = 0x020 ∧ s.now < s.cur.lastTime then .hold s.waitStall
      else
        let v := s.csrRead num
        .done (if num = 0x020 then s.updCur (fun t => { t with lastTime := s.now }) else s) (nowX rd v) none
    | some f =>
      if num = 0x045 then .done s (nowX rd 0) none
      else if num = 0x020 ∧ s.now < s.cur.lastTime then .hold s.waitStall
      else
        let old := s.csrRead num
        let s := if num = 0x020 then s.updCur (fun t => { t with lastTime := s.now }) else s
        let v := f old (s.cur.readX (rs1.getD 0))
        .done ((s.updCur (fun t => (nowX rd old).foldl Ctx.take t)).csrWrite num v) [] none

/-- `csrr` (R201, R202). -/
def execCsrr (st : Fin 8) (rd : Fin 32) (num : Fin 2048) (s : State) : Out1 := csrOp st rd none num none s
/-- `csrw` (R201, R202). -/
def execCsrw (st : Fin 8) (rd rs1 : Fin 32) (num : Fin 2048) (s : State) : Out1 :=
  csrOp st rd (some rs1) num (some (fun _ x => x)) s
/-- `csrs` (R201, R202). -/
def execCsrs (st : Fin 8) (rd rs1 : Fin 32) (num : Fin 2048) (s : State) : Out1 :=
  csrOp st rd (some rs1) num (some (fun old x => old ||| x)) s
/-- `csrc` (R201, R202). -/
def execCsrc (st : Fin 8) (rd rs1 : Fin 32) (num : Fin 2048) (s : State) : Out1 :=
  csrOp st rd (some rs1) num (some (fun old x => old &&& ~~~x)) s

end Sys2Proof.Machine
end

