-- ==== Sys2Proof/Machine/Reports.lean ====
section
/-!
DEFINITION. Sys2Proof/Machine/Reports.lean: the device report queue and the fault queues (R449 to R451, R456, R457).
-/
namespace Sys2Proof.Machine

/-- Writes a 64-byte record at the tail of a queue whose registers start at `q` (BASE, SIZE, HEAD, TAIL, NOTE), advances
TAIL and writes the notify word (R451). An address outside HBM is not written (assumption log 22). -/
def State.writeRecord (s : State) (q : Nat) (words : List W64) : State :=
  let log2n := s.regBits (q + 0x08) 4 0
  let tail := s.regBits (q + 0x18) 31 0
  let addr := s.regBits q 55 6 * 64 + tail % 2 ^ log2n * 64
  let bytes := PByte.clean (words.flatMap (fun w => leBytes w.toNat 8))
  let s := if inHbm addr 64 then s.memWrite addr bytes else s
  let tail := (tail + 1) % 2 ^ 32
  let s := s.setReg (q + 0x18) (w64 tail)
  let note := s.regBits (q + 0x20) 55 3 * 8
  if note = 0 ∨ !inHbm note 8 then s else s.memSetWord note (w64 tail)

/-- Whether a queue takes no record now: it is off or full (R451, R456). -/
def State.queueFull (s : State) (q : Nat) : Bool :=
  let log2n := s.regBits (q + 0x08) 4 0
  log2n == 0 || (s.regBits (q + 0x18) 31 0 + 2 ^ 32 - s.regBits (q + 0x10) 31 0) % 2 ^ 32 == 2 ^ log2n

/-- A report of R457 that folds `n` events, written to the device report queue or dropped with LOST counted, saturating
(R456). -/
def State.reportOf (s : State) (kind unitType unit die n : Nat) (words : List W64) : State :=
  if s.queueFull pRq then
    let lost := s.regBits (pRq + 0x28) 31 0
    s.setReg (pRq + 0x28) (w64 (min (lost + 1) (2 ^ 32 - 1)))
  else
    s.writeRecord pRq
      [w64 (kind % 2 ^ 16 + unitType % 2 ^ 8 * 2 ^ 16 + unit % 2 ^ 16 * 2 ^ 24 + die % 4 * 2 ^ 40), w64 (s.timeOf die),
        nth 0 words 0, nth 0 words 1, nth 0 words 2, nth 0 words 3, w64 n, 0]

/-- A report of one event. -/
def State.report (s : State) (kind unitType unit die : Nat) (words : List W64) : State :=
  s.reportOf kind unitType unit die 1 words

end Sys2Proof.Machine
end

