-- ==== Sys2Proof/Machine/DevRead.lean ====
section
/-!
DEFINITION. Sys2Proof/Machine/DevRead.lean: which register lies where in device register space, and reading one (R9, R27):
queue registers (R115), roots (R349), dirty logs (R365), fault and report queues (R450, R456), fabric and host windows (R472
to R476), and management (R484 to R495).
-/
namespace Sys2Proof.Machine

/-- A word of the bits `hi` to `lo`. -/
def maskBits (hi lo : Nat) : W64 := w64 ((2 ^ (hi - lo + 1) - 1) * 2 ^ lo)

/-! ### Which register lies at an address -/

/-- The registers by their behaviour. An offset that no rule assigns reads 0 and ignores a write (assumption log 21). -/
inductive DevReg where
  | none
  /-- Software reads the stored value and cannot write it. -/
  | ro
  /-- Software reads and writes the masked bits. -/
  | rw (mask : W64)
  | qctl (q : Nat)
  | qsize
  | qtail (q : Nat)
  | dov (die : Nat)
  | dovs (die : Nat)
  | dlcfg (core : Nat)
  | dlharv (octant : Nat)
  /-- FQSIZE and RQSIZE. -/
  | logSize
  | fqstat (asid : Nat)
  | rqlost
  | fabctl
  | fabsync
  | tdctl
  | route (module : Nat)
  | svcst
  | dismask (die j : Nat)
  | mgmtst (die : Nat)
  | skewclr (die : Nat)
  | lagclr (die : Nat)
  | bootst
  | fwctl
  | govctl
  | issued (core : Nat)
  | spoob (core : Nat)
  | corr (core : Nat)
  deriving DecidableEq, Repr

/-- The registers of queue `q` (R115). -/
def queueReg (q o : Nat) : DevReg :=
  match o with
  | 0x00 => .qctl q
  | 0x08 => .rw (maskBits 55 7)
  | 0x10 => .qsize
  | 0x18 => .ro
  | 0x20 => .qtail q
  | _ => if 0x40 ≤ o then .rw (maskBits 63 0) else .none

/-- The registers of octant `oct` of the module (R365). -/
def octantReg (oct o : Nat) : DevReg :=
  if o = 0x100 then .dlharv oct
  else if 0x100 < o then .none
  else
    match o % 0x20 with
    | 0x00 => .dlcfg (oct * 8 + o / 0x20)
    | 0x08 => .ro
    | 0x10 => .ro
    | _ => .none

/-- The registers of a fault queue, and of the device report queue, by offset (R450, R456). -/
def recordReg (o : Nat) (last : DevReg) : DevReg :=
  match o with
  | 0x00 => .rw (maskBits 55 6)
  | 0x08 => .logSize
  | 0x10 => .rw (maskBits 31 0)
  | 0x18 => .ro
  | 0x20 => .rw (maskBits 55 3)
  | 0x28 => last
  | _ => .none

/-- The registers that only die 0 has. -/
def dieZeroReg (o : Nat) : DevReg :=
  if 0x00500000 ≤ o ∧ o < 0x00501000 then recordReg ((o - 0x00500000) % 0x40) (.fqstat ((o - 0x00500000) / 0x40))
  else if 0x00600000 ≤ o ∧ o < 0x00600030 then recordReg (o - 0x00600000) .rqlost
  else if o = 0x00800000 then .fabctl
  else if o = 0x00800008 then .fabsync
  else if o = 0x00800010 then .ro
  else if o = 0x00800018 then .tdctl
  else if 0x00A00000 ≤ o ∧ o < 0x00A10000 then .rw (maskBits 63 62 ||| maskBits 12 0)
  else if 0x00B00000 ≤ o ∧ o < 0x00B00D80 then .route ((o - 0x00B00000) / 8)
  else if 0x00C00000 ≤ o ∧ o < 0x00C01000 then .rw (maskBits 63 62 ||| maskBits 51 26)
  else if o = 0x00D00200 then .bootst
  else if o = 0x00D00208 then .fwctl
  else if o = 0x00D00210 then .govctl
  else if o = 0x00D00218 then .ro
  else if 0x01000000 ≤ o ∧ o < 0x02000000 then .rw (maskBits 63 0)
  else .none

/-- The registers that every die has. -/
def anyDieReg (d o : Nat) : DevReg :=
  if 0x00100000 ≤ o ∧ o < 0x00104000 then queueReg (64 * d + (o - 0x00100000) / 0x100) (o % 0x100)
  else if o = 0x00200000 then .dov d
  else if o = 0x00200008 then .dovs d
  else if 0x00300000 ≤ o ∧ o < 0x00300200 then .rw (maskBits 63 63 ||| maskBits 55 13)
  else if 0x00400000 ≤ o ∧ o < 0x00406000 then octantReg (48 * d + (o - 0x00400000) / 0x200) (o % 0x200)
  else if o = 0x00700000 then .rw (maskBits 31 0)
  else if 0x00900000 ≤ o ∧ o < 0x00902000 then .rw (maskBits 63 62 ||| maskBits 56 48 ||| maskBits 38 26)
  else if 0x00D00000 ≤ o ∧ o < 0x00D00080 then .svcst
  else if 0x00D00080 ≤ o ∧ o < 0x00D00100 then .dismask d ((o - 0x00D00080) / 8)
  else if o = 0x00D00100 then .mgmtst d
  else if o = 0x00D00108 then .skewclr d
  else if o = 0x00D00110 then .lagclr d
  else if 0x00E00000 ≤ o ∧ o < 0x00E03000 then
    let c := 384 * d + (o - 0x00E00000) / 0x20
    match o % 0x20 with
    | 0x00 => .issued c
    | 0x08 => .spoob c
    | 0x10 => .corr c
    | _ => .none
  else .none

/-- The register at an address that is a multiple of 8. -/
def devRegAt (pa : Nat) : DevReg :=
  match anyDieReg (devDie pa) (devOff pa) with
  | .none => if devDie pa = 0 then dieZeroReg (devOff pa) else .none
  | r => r

/-! ### Reads -/

/-- A counter as it is read: it saturates (R492). -/
def satWord (n : Nat) : W64 := w64 (min n (2 ^ 64 - 1))

/-- FQSTAT (R450): OVF, and the records of the address space now held at cores. -/
def State.fqstat (s : State) (a : Nat) : W64 :=
  let held := (s.heldFaults.filter (fun f => f.asid == a)).length
  w64 (bitsOf (s.reg (fqBase a + 0x28)).toNat 16 16 * 2 ^ 16 + min held (2 ^ 16 - 1))

/-- MGMTST (R493). -/
def State.mgmtst (s : State) (d : Nat) : W64 :=
  let sr := (natsFrom 0 16).any (fun j => s.reg (devBase d + 0x00D00000 + 8 * j) != 0)
  w64 ((if s.skew.has d then 2 else 0) + (if sr then 1 else 0))

/-- BOOTST (R488) and FWCTL (R489). -/
def BootState.word (b : BootState) : W64 :=
  w64 (b.svn % 2 ^ 32 * 2 ^ 32 + b.err % 16 * 2 ^ 12 + b.slot % 2 * 2 ^ 8 + b.stage % 16 * 2 ^ 4 + (if b.ready then 1 else 0))
def BootState.fwctl (b : BootState) : W64 := w64 (b.res % 16 * 2 ^ 4 + (if b.busy then 8 else 0))

/-- Reads the register at `pa`, a multiple of 8, with what the read changes (RC fields). -/
def State.devRead (s : State) (pa : Nat) : W64 × State :=
  match devRegAt pa with
  | .none => (0, s)
  | .dlharv o => (if (s.octs.get {} o).harvest.isSome then 2 else 0, s)
  | .fqstat a => (s.fqstat a, s)
  | .rqlost => (s.reg pa, s.setReg pa 0)
  | .fabsync => (0, s)
  | .mgmtst d => (s.mgmtst d, s)
  | .skewclr _ => (0, s)
  | .lagclr _ => (0, s)
  | .bootst => (s.boot.word, s)
  | .fwctl => (s.boot.fwctl, s)
  | .issued c => (satWord (s.core c).issued, s.updCore c (fun h => { h with issued := 0 }))
  | .spoob c => (satWord (s.core c).spoob, s.updCore c (fun h => { h with spoob := 0 }))
  | .corr c => (satWord (s.core c).corr, s.updCore c (fun h => { h with corr := 0 }))
  | _ => (s.reg pa, s)

/-- A read of `n` bytes within one register. -/
def State.devLoad (s : State) (pa n : Nat) : List Byte × State :=
  let (v, s) := s.devRead (pa / 8 * 8)
  (leBytes (v.toNat / 2 ^ (8 * (pa % 8))) n, s)

/-- `n` bytes of device register space from an address, each register that they touch read once. -/
def State.devBytes (s : State) (pa n : Nat) : Nat → List Byte × State
  | 0 => ([], s)
  | fuel + 1 =>
    let k := min n (8 - pa % 8)
    if n = 0 then ([], s)
    else
      let (b, s) := s.devLoad pa k
      let (bs, s) := State.devBytes s (pa + k) (n - k) fuel
      (b ++ bs, s)

end Sys2Proof.Machine
end

