-- ==== Sys2Proof/Machine/Engine.lean ====
section
/-!
DEFINITION. Sys2Proof/Machine/Engine.lean: engines as memory agents: their channels, their translations and the leases
they hold and renew (R153, R172, R308, R357, R362, R379, R382).
-/
namespace Sys2Proof.Machine

/-! ### Channels (R153) -/

/-- Appends a request to the channel of its agent and home. -/
def addReq : List Chan → Agent → Home → Req → List Chan
  | [], a, h, r => [⟨a, h, [r]⟩]
  | c :: cs, a, h, r => if c.agent = a ∧ c.home = h then { c with reqs := c.reqs ++ [r] } :: cs else c :: addReq cs a h r

/-- The requests of a channel. -/
def State.chan (s : State) (a : Agent) (h : Home) : List Req :=
  match s.chans.find? (fun c => c.agent == a && c.home == h) with
  | some c => c.reqs
  | none => []

/-- Whether an agent has no request on its way to a home. -/
def State.chanEmpty (s : State) (a : Agent) (h : Home) : Bool := (s.chan a h).isEmpty

/-- Removes the head of a channel; an empty channel is not listed. -/
def popReq : List Chan → Agent → Home → List Chan
  | [], _, _ => []
  | c :: cs, a, h =>
    if c.agent = a ∧ c.home = h then
      match c.reqs.drop 1 with
      | [] => cs
      | rest => { c with reqs := rest } :: cs
    else c :: popReq cs a h

/-- Appends a request of an engine to its channel, and counts it until it is acknowledged (R172). Answers its number. -/
def State.engineSend (s : State) (agent : Agent) (home : Home) (op : HomeOp) (addr size va asid : Nat) (exp : Option Nat) :
    Nat × State :=
  let (id, s) := s.fresh
  let r : Req :=
    { id := id, agent := agent, home := home, op := op, addr := addr, size := size, scope := .package, va := va, asid := asid,
      exp := exp, fwin := s.fabWin addr }
  (id, { s with chans := addReq s.chans agent home r, engOut := NatSet.add s.engOut id })

/-- Whether every request of a list has been acknowledged. -/
def State.acked (s : State) (ids : List Nat) : Bool := ids.all (fun i => !NatSet.has s.engOut i)

/-- Whether an agent holds a message of a master that has not been accepted: it issues nothing more for that master (R127). -/
def State.holdsFor (s : State) (agent : Agent) (uid : Nat) : Bool := s.msgs.any (fun f => f.held && f.sender == agent && f.uid == uid)

/-! ### Translations that an engine holds (R308, R362) -/

/-- The detail of a renewal that finds the entry changed, narrowed or absent (R381). -/
def dLease : Nat := 0xA
def dBounds : Nat := 0x8
def dMask : Nat := 0xF

/-- The die of an agent: its requests are translated there, and its leases run on that die's time (R353). -/
def agentDie : Agent → Nat
  | .core c => dieOf c
  | .copyCh c _ => dieOf c
  | .push c => dieOf c
  | .array a => a / 36
  | .video v => v / 8
  | .bde b _ => b / 2
  | .ring b _ => b / 2
  | .zone b => b / 2
  | .queueAgent d => d
  | .slice i => dieOf i
  | .octAgent o => o / 48
  | _ => 0

/-- Whether what a renewal finds keeps the translation that is held: every entry on the way and the leaf are as they were, or
have only been widened (R358, R362). -/
def Tr.keeps (held new : Tr) : Bool :=
  new.pa == held.pa && new.size == held.size && new.mig == held.mig && (new.w || !held.w) && (new.rdc || !held.rdc) &&
    new.path == held.path

/-- Walks again for a page that is held (R362): the new translation, or `none` when the held one is dropped. -/
def State.renew (s : State) (die asid va : Nat) (held : Tr) : Option Tr :=
  match s.walked die asid va with
  | .error _ => none
  | .ok tr => if held.keeps (tr.at va) then some (tr.at va) else none

/-- The key under which an engine holds the translation of an address for one of its sides: reads (0) or writes (1). -/
def heldKey (va : Nat) (write : Bool) : Nat := va / 65536 * 2 + (if write then 1 else 0)

/-- The side and the first address of a page that is held. -/
def heldSide (k : Nat) : Nat := k % 2
def heldVa (k : Nat) : Nat := k / 2 * 65536

/-- The translation of a page by a walk, granted (R354). -/
def State.walkPage (s : State) (die asid va : Nat) (write : Bool) : Except Nat Tr × State :=
  match s.walked die asid va with
  | .error d => (.error d, s)
  | .ok tr =>
    match s.refuses tr va write with
    | some d => (.error d, s)
    | none => (.ok (tr.at va), s.grant die (transSlice die asid va) asid va tr)

/-- The translation of the 64 KiB page of an address for an engine of a die, from those it holds, renewed when it does not last
`need` ns more or the die is in skew mode (R362, R364), or from its slice, by a walk where the slice's lease does not last
(R357); one that does not admit a write is walked again (R354, R359). A translation that serves one request only is not
held, unless `keep` says that it is a landing's reservation, which holds one as a lease of class 1 (R308, R361). Answers it, or
a detail of R368 or LEASE, with the translations then held. -/
def State.engineTr (s : State) (held : Map Tr) (die asid va : Nat) (write : Bool) (need : Nat) (keep : Bool) :
    Except Nat Tr × Map Tr × State :=
  let key := heldKey va write
  let first := va / 65536 * 65536
  let now := s.timeOf die
  let use := fun (tr : Tr) => ({ tr with pa := tr.pa + va % 65536 } : Tr)
  let take := fun (x : Except Nat Tr × State) =>
    match x with
    | (.error d, s) => (Except.error d, held, s)
    | (.ok tr, s) => (.ok (use tr), (if tr.once && !keep && !s.skew.has die then held else held.set key tr), s)
  match held.find? key with
  | some tr =>
    if write && !tr.w then take (s.walkPage die asid first write)
    else if !s.skew.has die && (keep || !tr.once) && now + need < tr.exp then (.ok (use tr), held, s)
    else
      match s.renew die asid first tr with
      | some new => (.ok (use new), held.set key new, s.raiseHorizon die new.exp)
      | none => (.error dLease, held.erase key, s)
  | none =>
    match s.translate die asid first write none with
    | (.ok tr, s) => take (if now + need < tr.exp then (.ok tr, s) else s.walkPage die asid first write)
    | r => take r

/-- Where an engine's access goes: a scratchpad, or a translated address (R379, R382). -/
inductive EngPlace where
  | spad (core off : Nat)
  | mem (tr : Tr)
  deriving DecidableEq, Repr

/-- Whether a core lies in a launch's effective mask. -/
def State.maskHas (s : State) (launch core : Nat) : Bool :=
  match s.launch? launch with
  | some l => core ≤ 1535 && bitOf l.mask core
  | none => false

/-- The place of `n` bytes at an address for an engine of die `die` that works for core `core`; an own-window address
means that core's scratchpad (R375, R379). The detail is one of R381. -/
def State.enginePlace (s : State) (held : Map Tr) (die core asid launch va n : Nat) (write keep : Bool) :
    Except Nat EngPlace × Map Tr × State :=
  match placeOf (normVa core va) with
  | .other c off =>
    if !s.maskHas launch c then (.error dMask, held, s)
    else if (s.core c).spsize < off + n then (.error dBounds, held, s)
    else (.ok (.spad c off), held, s)
  | _ =>
    if !canonical va then (.error dCanon, held, s)
    else
      match s.engineTr held die asid va write (if write then 3000 else 0) keep with
      | (.error d, held, s) => (.error d, held, s)
      | (.ok tr, held, s) => (.ok (.mem tr), held, s)

/-- The home of a place, and its address there. -/
def State.placeHome (s : State) : EngPlace → Home
  | .spad c _ => .spad c
  | .mem tr => s.homeOf tr.pa

def EngPlace.addr : EngPlace → Nat
  | .spad _ off => off
  | .mem tr => tr.pa

def EngPlace.exp : EngPlace → Option Nat
  | .spad .. => none
  | .mem tr => some tr.exp

/-- Bytes cut at naturally aligned units of 8 (R164): each piece with its address. -/
def cutUnits (a : Nat) (bs : List PByte) : Nat → List (Nat × List PByte)
  | 0 => []
  | fuel + 1 =>
    match bs with
    | [] => []
    | _ =>
      let n := 8 - a % 8
      (a, bs.take n) :: cutUnits (a + n) (bs.drop n) fuel

end Sys2Proof.Machine
end

