-- ==== Sys2Proof/Machine/Tensor.lean ====
section
/-!
DEFINITION. Sys2Proof/Machine/Tensor.lean: tensor layout records, their windows and addresses, the conversions of copies, and
the reads and writes that an engine makes at its places (R376 to R379, R382, R383).
-/
namespace Sys2Proof.Machine
open Sys2Proof.Fp

/-! ### The fields of a record (R377) -/

/-- A bit field of word `i` of a record. -/
def recBits (r : List W64) (i hi lo : Nat) : Nat := bitsOf (nth 0 r i).toNat hi lo

def recBase (r : List W64) : Nat := (nth 0 r 0).toNat
def recFmt (r : List W64) : Nat := recBits r 11 3 0
def recNdim (r : List W64) : Nat := recBits r 11 6 4
def recFill (r : List W64) : Nat := recBits r 3 63 32
def recSwu (r : List W64) : Nat := recBits r 11 28 27
def recSwb (r : List W64) : Nat := recBits r 11 30 29
def recSws (r : List W64) : Nat := recBits r 11 33 31

/-- SIZEj. -/
def recSize (r : List W64) (j : Nat) : Nat :=
  match j with
  | 0 => recBits r 1 31 0
  | 1 => recBits r 1 63 32
  | 2 => recBits r 2 31 0
  | 3 => recBits r 2 63 32
  | _ => recBits r 3 31 0

/-- WINj. -/
def recWin (r : List W64) (j : Nat) : Nat := if j = 0 then recBits r 10 47 32 else recBits r (3 + j) 55 40

/-- STRIDEj of a dimension above 0. -/
def recStride (r : List W64) (j : Nat) : Nat := recBits r (3 + j) 39 0

/-- The bits of ORIGj. -/
def recOrigBits (r : List W64) (j : Nat) : Nat :=
  match j with
  | 0 => recBits r 8 31 0
  | 1 => recBits r 8 63 32
  | 2 => recBits r 9 31 0
  | 3 => recBits r 9 63 32
  | _ => recBits r 10 31 0

def recOrig (r : List W64) (j : Nat) : Int := sgnOf 32 (recOrigBits r j)

/-- ORDj. -/
def recOrd (r : List W64) (j : Nat) : Nat := recBits r 11 (3 * j + 10) (3 * j + 8)

/-- The used dimensions, in the order of their numbers (R377). -/
def recDims (r : List W64) : List Nat := natsFrom 0 (min (recNdim r) 4 + 1)

/-- Bytes of an element. -/
def recEb (r : List W64) : Nat := fmtBits (recFmt r) / 8

/-- A record with ORIG of one dimension and BASE replaced (R388, R431). -/
def recSetBase (r : List W64) (base : Nat) : List W64 := setNth r 0 (w64 base)

/-! ### Bad records (R378) -/

/-- A size or a window of a dimension is bad: zero when used, not zero when unused. -/
def badCount (used : Bool) (v : Nat) : Bool := if used then v == 0 else v != 0

/-- Whether a word of a record holds a bad field. -/
def recBadWord (r : List W64) (i : Nat) : Bool :=
  let fmtOk := fmtCvtSource (recFmt r)
  let used := fun (j : Nat) => decide (j ≤ recNdim r)
  let origBad := fun (j : Nat) => !used j && recOrigBits r j != 0
  match i with
  | 0 => false
  | 1 => badCount true (recSize r 0) || badCount (used 1) (recSize r 1)
  | 2 => badCount (used 2) (recSize r 2) || badCount (used 3) (recSize r 3)
  | 3 => badCount (used 4) (recSize r 4) || (fmtOk && 2 ^ fmtBits (recFmt r) ≤ recFill r)
  | 8 => origBad 1
  | 9 => origBad 2 || origBad 3
  | 10 => recBits r 10 63 48 != 0 || recWin r 0 == 0 || origBad 4
  | 11 =>
    let n := recNdim r
    let ords := (natsFrom 0 (n + 1)).map (recOrd r)
    recBits r 11 63 34 != 0 || recBits r 11 26 23 != 0 || recBits r 11 7 7 != 0 || !fmtOk || 4 < n ||
      (natsFrom 0 (n + 1)).any (fun d => !ords.contains d) ||
      (natsFrom 0 5).any (fun j => !used j && recOrd r j != 0) ||
      (recSwb r != 0 && recSws r + 7 < 4 + recSwu r + recSwb r)
  | _ =>
    let j := i - 3
    recBits r i 63 56 != 0 || badCount (used j) (recWin r j) ||
      (if used j then fmtOk && recStride r j % recEb r != 0 else recStride r j != 0)

/-- The lowest word that holds a bad field, where the record is bad. -/
def recBad (r : List W64) : Option Nat := (natsFrom 1 11).find? (recBadWord r)

/-! ### Windows (R379) -/

/-- A window of a record: its origin along one dimension is moved (R388). -/
structure Win where
  r     : List W64
  dim   : Nat := 0
  delta : Int := 0
  deriving DecidableEq, Repr

/-- Elements of the window: Π WINj. -/
def recCount (r : List W64) : Nat := (recDims r).foldl (fun n j => n * recWin r j) 1

/-- The dimensions in traversal order, innermost first. -/
def recOrder (r : List W64) : List Nat := (recDims r).map (recOrd r)

/-- The indices of the `k`-th element, by dimension in traversal order. -/
def Win.indices (w : Win) : List Nat → Nat → List (Nat × Int)
  | [], _ => []
  | d :: ds, k =>
    let n := max 1 (recWin w.r d)
    (d, recOrig w.r d + (if d = w.dim then w.delta else 0) + ((k % n : Nat) : Int)) :: w.indices ds (k / n)

/-- The distance from BASE along a dimension for each index. -/
def recStep (r : List W64) (d : Nat) : Nat := if d = 0 then recEb r else recStride r d

/-- The address of an element, where it lies inside (R379). -/
def Win.addr (w : Win) (k : Nat) : Option Nat :=
  let r := w.r
  let ix := w.indices (recOrder r) k
  if ix.all (fun e => 0 ≤ e.2 && e.2 < ((recSize r e.1 : Nat) : Int)) then
    let off := ix.foldl (fun o e => o + e.2.toNat * recStep r e.1) 0
    let off := if recSwb r = 0 then off
      else off ^^^ ((off / 2 ^ (recSws r + 7) % 2 ^ recSwb r) * 2 ^ (4 + recSwu r))
    some ((recBase r + off) % 2 ^ 64)
  else none

/-- Where the first element of the window would stand, inside or not: a ring counts PAGE from it (R389). -/
def Win.firstAddr (w : Win) : Nat :=
  match w.addr 0 with
  | some a => a
  | none =>
    wrapInt 64 ((recBase w.r : Int) +
      (w.indices (recOrder w.r) 0).foldl (fun (o : Int) e => o + e.2 * ((recStep w.r e.1 : Nat) : Int)) 0)

/-! ### Conversion (R376) -/

/-- The format of the linear side: CVT when the copy converts, else the record's. -/
def linearFmt (r : List W64) (cvt : Option Nat) : Nat := cvt.getD (recFmt r)

/-- One element converted from a format to another, to nearest and saturating; unchanged without a conversion. -/
def convert (src dst : Nat) (cvt : Option Nat) (x : Nat) : Nat := if cvt.isNone then x else rnd dst (val src x) .rne true

/-! ### An engine at its places (R172, R379, R382, R383) -/

/-- Who an engine works for: its channel, the core, the address space and the launch of its operation. -/
structure Worker where
  agent  : Agent
  core   : Nat
  asid   : Nat
  launch : Nat
  deriving DecidableEq, Repr

/-- The place of `n` bytes at an address for an engine, translated on its own die (R353). -/
def State.workPlace (s : State) (w : Worker) (held : Map Tr) (va n : Nat) (write : Bool) : Except Nat EngPlace × Map Tr × State :=
  s.enginePlace held (agentDie w.agent) w.core w.asid w.launch va n write false

/-! #### Reads -/

/-- The reads of `n` bytes at an address, cut at naturally aligned units of 8 bytes (R164). -/
def readUnits (a n : Nat) : Nat → List EngUnit
  | 0 => []
  | fuel + 1 =>
    if n = 0 then []
    else
      let m := min n (8 - a % 8)
      .read (a % 2 ^ 64) m :: readUnits (a + m) (n - m) fuel

/-- A read of `n` bytes at an address, of which nothing is asked for yet. -/
def loadOf (a n : Nat) : EngLoad := { n := n, todo := readUnits a n (n / 8 + 2) }

/-- Asks for the next unit of a read: its request goes to its home, or its translation is the read's fault. -/
def State.askUnit (s : State) (w : Worker) (held : Map Tr) (l : EngLoad) : EngLoad × Map Tr × State :=
  match l.todo with
  | [] => (l, held, s)
  | .fill b :: rest => ({ l with todo := rest, pieces := l.pieces ++ [.bytes b] }, held, s)
  | .read va n :: rest =>
    let va := normVa w.core va
    match s.workPlace w held va n false with
    | (.error d, held, s) => ({ l with todo := [], fault := some (d, va) }, held, s)
    | (.ok p, held, s) =>
      let (id, s) := s.engineSend w.agent (s.placeHome p) .read p.addr n va w.asid p.exp
      ({ l with todo := rest, pieces := l.pieces ++ [.req id va (s.placeHome p)] }, held, s)

/-- Asks for every unit of a read. -/
def State.askAll (s : State) (w : Worker) (held : Map Tr) (l : EngLoad) : Nat → EngLoad × Map Tr × State
  | 0 => (l, held, s)
  | fuel + 1 =>
    if l.todo.isEmpty then (l, held, s)
    else
      match s.askUnit w held l with
      | (l, held, s) => State.askAll s w held l fuel

/-- Reads `n` bytes at an address. -/
def State.engineAsk (s : State) (w : Worker) (held : Map Tr) (va n : Nat) : EngLoad × Map Tr × State :=
  s.askAll w held (loadOf va n) (n / 8 + 2)

/-- The home of a piece that is not answered. -/
def State.pieceHome (s : State) : EngPiece → Option Home
  | .bytes _ => none
  | .req id _ h => if (s.engIn.find? id).isNone then some h else none

/-- The homes that have still to answer a read. -/
def State.awaited (s : State) (l : EngLoad) : List Home := l.pieces.filterMap s.pieceHome

/-- Whether every request of a read has been answered. -/
def State.allIn (s : State) (l : EngLoad) : Bool := (s.awaited l).isEmpty

/-- What a read of an engine comes to. -/
inductive EngRead where
  /-- It is not answered. -/
  | wait
  /-- The detail of R381 and the first faulting address. -/
  | fault (detail va : Nat)
  | ok (bytes : List Byte)
  deriving DecidableEq, Repr

/-- Bytes that stand before what else a read brings. -/
def EngRead.after (b : List Byte) : EngRead → EngRead
  | .ok rest => .ok (b ++ rest)
  | r => r

/-- What the pieces of a read have brought: a poisoned byte is a fault (R383). -/
def State.collect (s : State) : List EngPiece → EngRead
  | [] => .ok []
  | .bytes b :: rest => (State.collect s rest).after b
  | .req id va _ :: rest =>
    match s.engIn.find? id with
    | none => .wait
    | some b =>
      match findIdx (·.bad) b with
      | some i => .fault 0x9 (va + i)
      | none => (State.collect s rest).after (PByte.vals b)

/-- What a read has brought. -/
def State.loadRead (s : State) (l : EngLoad) : EngRead :=
  match s.collect l.pieces with
  | .ok b =>
    match l.fault with
    | some (d, va) => .fault d va
    | none => if l.todo.isEmpty then .ok b else .wait
  | r => r

/-- The answers of a read are used. -/
def State.dropLoad (s : State) (l : EngLoad) : State :=
  l.pieces.foldl (fun s p => match p with | .req id _ _ => { s with engIn := s.engIn.erase id } | .bytes _ => s) s
def State.dropLoads (s : State) (l : List EngLoad) : State := l.foldl State.dropLoad s

/-! #### Writes -/

/-- Appends writes at addresses, each cut at naturally aligned units of 8 bytes (R164): the numbers of the requests, or the
detail and address of the first fault, before which nothing of that unit is appended. -/
def State.engineWrite (s : State) (w : Worker) (held : Map Tr) (ids : List Nat) :
    List (Nat × List PByte) → Option (Nat × Nat) × List Nat × Map Tr × State
  | [] => (none, ids, held, s)
  | (va, b) :: rest =>
    let va := normVa w.core (va % 2 ^ 64)
    match s.workPlace w held va b.length true with
    | (.error d, held, s) => (some (d, va), ids, held, s)
    | (.ok p, held, s) =>
      let (id, s) := s.engineSend w.agent (s.placeHome p) (.write b) p.addr b.length va w.asid p.exp
      State.engineWrite s w held (ids ++ [id]) rest

/-! ### Moving from a source to a destination (R164, R379, R382) -/

/-- What a copy or a slot of a ring moves: linear bytes, a layout's window to the linear side (mode 1), or the linear side to a
layout's window (mode 2). -/
inductive Plan where
  | linear (src dst len : Nat)
  | gather (v : Win) (cvt : Option Nat) (dst : Nat)
  | scatter (v : Win) (cvt : Option Nat) (src : Nat)
  deriving DecidableEq, Repr

/-- Bytes of an element of the linear side. -/
def linearEb (r : List W64) (cvt : Option Nat) : Nat := fmtBits (linearFmt r cvt) / 8

/-- The units of a plan's source: bytes of a linear side, elements of a layout. -/
def Plan.sources : Plan → Nat
  | .linear _ _ n => n
  | .gather v _ _ => recCount v.r
  | .scatter v cvt _ => recCount v.r * linearEb v.r cvt

/-- The units of its destination. -/
def Plan.targets : Plan → Nat
  | .linear _ _ n => n
  | .gather v cvt _ => recCount v.r * linearEb v.r cvt
  | .scatter v _ _ => recCount v.r

/-- The read of linear bytes from the `k`-th on: those of one aligned unit of 8. -/
def linearLoad (src n k : Nat) : EngLoad :=
  let a := (src + k) % 2 ^ 64
  loadOf a (min (n - k) (8 - a % 8))

/-- The read of a plan's source from unit `k` on, in traversal order; an element that lies outside is FILL (R379). -/
def Plan.load (p : Plan) (k : Nat) : EngLoad :=
  match p with
  | .linear src _ n => linearLoad src n k
  | .gather v _ _ =>
    match v.addr k with
    | none => { n := 1, todo := [.fill (leBytes (recFill v.r) (recEb v.r))] }
    | some a => { loadOf a (recEb v.r) with n := 1 }
  | .scatter _ _ src => linearLoad src p.sources k

/-- What the source's bytes are on the linear side. -/
def Plan.take (p : Plan) (b : List Byte) : List Byte :=
  match p with
  | .gather v cvt _ =>
    let lf := linearFmt v.r cvt
    leBytes (convert (recFmt v.r) lf cvt (leNat b)) (fmtBits lf / 8)
  | _ => b

/-- How many elements from `k` lie inside and follow one another in the layout within the same aligned 8 bytes, at most
`fuel`. -/
def runLen (w : Win) (k a : Nat) : Nat → Nat
  | 0 => 0
  | fuel + 1 =>
    match w.addr k with
    | some b => if b = a ∧ b % 8 ≠ 0 then 1 + runLen w (k + 1) (a + recEb w.r) fuel else 0
    | none => 0

/-- The elements of linear bytes, converted to the record's format. -/
def scatterBytes (r : List W64) (cvt : Option Nat) : Nat → List Byte → List Byte
  | 0, _ => []
  | m + 1, b =>
    let lf := linearFmt r cvt
    let eb := fmtBits lf / 8
    leBytes (convert lf (recFmt r) cvt (leNat (b.take eb))) (recEb r) ++ scatterBytes r cvt m (b.drop eb)

/-- How many elements from `k` go to the layout side together. -/
def scatterLen (v : Win) (n k : Nat) : Nat :=
  match v.addr k with
  | none => 1
  | some a => 1 + runLen v (k + 1) (a + recEb v.r) (min 7 (n - k - 1))

/-- The next writes of linear bytes: those of one aligned unit of 8 of the destination, once they are all read. -/
def linearWrite (dst n : Nat) (m : Mover) : Option (Mover × List (Nat × List PByte)) :=
  let a := (dst + m.next) % 2 ^ 64
  let k := min (n - m.next) (8 - a % 8)
  if k = 0 || m.buf.length < k then none
  else some ({ m with next := m.next + k, buf := m.buf.drop k }, [(a, PByte.clean (m.buf.take k))])

/-- The next writes of a plan whose bytes are read, in increasing linear position (R382). -/
def Plan.write (p : Plan) (m : Mover) : Option (Mover × List (Nat × List PByte)) :=
  match p with
  | .linear _ dst n => linearWrite dst n m
  | .gather _ _ dst => linearWrite dst p.targets m
  | .scatter v cvt _ =>
    let k := scatterLen v (recCount v.r) m.next
    let n := k * linearEb v.r cvt
    if recCount v.r ≤ m.next || m.buf.length < n then none
    else
      let b := scatterBytes v.r cvt k m.buf
      some ({ m with next := m.next + k, buf := m.buf.drop n },
        match v.addr m.next with
        | none => []
        | some a => cutUnits a (PByte.clean b) (b.length + 1))

/-- What a step of moving comes to: it waits, it faults on a side at an address, or it goes on, with the writes appended. -/
inductive Moved where
  | wait
  | fault (side detail va : Nat) (ids : List Nat)
  | ok (m : Mover) (ids : List Nat)
  deriving DecidableEq, Repr

/-- Asks for the next unit of the source. The reads are performed in traversal order: one goes out when those before it are
answered or on their way to the same home (R382). -/
def State.moveAsk (s : State) (w : Worker) (held : Map Tr) (p : Plan) (m : Mover) : Moved × Map Tr × State :=
  let busy := m.loads.flatMap s.awaited
  let go := fun (rest : List EngLoad) (l : EngLoad) (ahead : Nat) =>
    match s.askUnit w held l with
    | (l', held', s') =>
      let free : Bool := match l'.pieces.getLast? with | some (.req _ _ h) => busy.all (· == h) | _ => true
      if free then (Moved.ok { m with loads := rest ++ [l'], ahead := ahead } [], held', s') else (.wait, held, s)
  match m.loads.getLast? with
  | some l =>
    if l.fault.isSome then (.wait, held, s)
    else if !l.todo.isEmpty then go m.loads.dropLast l m.ahead
    else if m.ahead < p.sources then go m.loads (p.load m.ahead) (m.ahead + (p.load m.ahead).n)
    else (.wait, held, s)
  | none =>
    if m.ahead < p.sources then go [] (p.load m.ahead) (m.ahead + (p.load m.ahead).n) else (.wait, held, s)

/-- One step of moving: writes what is read, takes the answer to the oldest read, or asks for the next one. -/
def State.moveStep (s : State) (w : Worker) (held : Map Tr) (p : Plan) (m : Mover) : Moved × Map Tr × State :=
  match p.write m with
  | some (m, ws) =>
    match s.engineWrite w held [] ws with
    | (some (d, va), ids, held, s) => (.fault 1 d va ids, held, s)
    | (none, ids, held, s) => (.ok m ids, held, s)
  | none =>
    match m.loads with
    | [] => s.moveAsk w held p m
    | l :: rest =>
      match s.loadRead l with
      | .wait => s.moveAsk w held p m
      | .fault d va => (.fault 0 d va [], held, s)
      | .ok b => (.ok { m with loads := rest, buf := m.buf ++ p.take b } [], held, s.dropLoad l)

/-- Whether every read of a plan's source has been performed and answered. -/
def State.moveRead (s : State) (p : Plan) (m : Mover) : Bool :=
  p.sources ≤ m.ahead && m.loads.all (fun l => l.todo.isEmpty && s.allIn l)

end Sys2Proof.Machine
end

