-- ==== Sys2Proof/Machine/Arrays.lean ====
section
/-!
DEFINITION. Sys2Proof/Machine/Arrays.lean: the steps of the dense arrays and of the operand-push engines (R302 to R320,
R326, R327). A step that is not enabled changes nothing.
-/
namespace Sys2Proof.Machine

/-- Guards a step of a unit: a unit that the module does not have is the model's own fault. -/
def stepOf (ok : Bool) (s : State) (f : State → State) : Out1 := if ok then .next (f s) else .fault .noSuchUnit

/-! ### Admission (R306, R308) -/

/-- The landing bytes of row `r` (R308). -/
def Hire.rowAt (h : Hire) (r : Nat) : Nat := (h.land + r * h.lstr) % 2 ^ 64
def Hire.rowLen (h : Hire) : Nat := h.n * landBytes h.lf

/-- The landing bytes row by row, each row cut at its 64 KiB pages: addresses and lengths. -/
def Hire.segments (h : Hire) : List (Nat × Nat) :=
  (natsFrom 0 h.m).flatMap (fun r =>
    let a := h.rowAt r
    let e := a + h.rowLen
    (natsFrom (a / 65536) ((e - 1) / 65536 - a / 65536 + 1)).map (fun p =>
      (max a (p * 65536), min e (p * 65536 + 65536) - max a (p * 65536))))

/-- The array as an agent of its own die that works for the master of a hire. -/
def Hire.worker (h : Hire) : Worker := ⟨.array h.arrayId, h.core, h.asid, h.launch⟩

/-- The place of `n` bytes for an array, which holds every translation that it takes until the landing ends (R308). -/
def State.landPlace (s : State) (h : Hire) (held : Map Tr) (va n : Nat) (write : Bool) : Except Nat EngPlace × Map Tr × State :=
  s.enginePlace held (agentDie (.array h.arrayId)) h.core h.asid h.launch va n write true

/-- The bounce detail of a failed reservation (R305). -/
def landDetail (d : Nat) : Nat :=
  if d = dWrite ∨ d = dRegion ∨ d = dCanon ∨ d = dMask then 0x02
  else if d = dBounds then 0x03
  else if d = dLease then 0x0B
  else 0x01

/-- The first byte of `n` landing bytes at an address that a detail of R381 finds at fault: one beyond SPSIZE, or the first. -/
def State.firstBad (s : State) (h : Hire) (d va : Nat) : Nat :=
  match placeOf (normVa h.core va) with
  | .other c off => if d = dBounds then va + ((s.core c).spsize - off) else va
  | _ => va

/-- Reserves the landing's segments one after another: the translations held, or the bounce detail and OFF (R305). -/
def State.reserve (s : State) (h : Hire) (held : Map Tr) : List (Nat × Nat) → Except (Nat × Nat) (Map Tr) × State
  | [] => (.ok held, s)
  | (va, n) :: rest =>
    match s.landPlace h held va n true with
    | (.error d, _, s) => (.error (landDetail d, (s.firstBad h d va - h.land) / 65536), s)
    | (.ok _, held, s) => State.reserve s h held rest

/-- OFF when the barrier object faulted (R305). -/
def offBarrier : Nat := 0xFFFFFFFF

/-- Reserves the line of the barrier object of a store-and-arrive hire. -/
def State.reserveBar (s : State) (h : Hire) (held : Map Tr) : Except (Nat × Nat) (Map Tr) × State :=
  match placeOf h.bar with
  | .global =>
    match s.landPlace h held h.bar 128 false with
    | (.error d, _, s) => (.error (landDetail d, offBarrier), s)
    | (.ok _, held, s) => (.ok held, s)
  | _ => (.error (0x02, offBarrier), s)

/-- The reservation of a single or close hire, at its admission and again when its landing begins (R308). -/
def State.reserveHire (s : State) (h : Hire) : Except (Nat × Nat) (Map Tr) × State :=
  match s.reserve h h.leases h.segments with
  | (.error e, s) => (.error e, s)
  | (.ok held, s) => if h.lmode = 2 then s.reserveBar h held else (.ok held, s)

/-- Entries of the hire queue in use (R306). -/
def State.queueUse (s : State) (a : ArrayUnit) : Nat :=
  (a.queue.filter (fun hid => !a.hasStarted hid && (s.hire? hid).isSome)).length

/-- Admits the first waiting request of a core (R306, R308, R316). -/
def State.admitHire (s : State) (id c : Nat) : State :=
  let a := s.array id
  match a.arrivals.find? (fun hid => match s.hire? hid with | some h => h.core == c && h.frozen.isNone | none => false) with
  | none => s
  | some hid =>
    match s.hire? hid with
    | none => s
    | some h =>
      if 64 ≤ s.queueUse a then s
      else
        let s := s.updArray id (fun a =>
          { a with arrivals := a.arrivals.filter (· != hid), queue := a.queue ++ [hid] })
        let s := s.updHire hid (fun h => { h with state := 0x02 })
        if a.marked h.uid hid then s.bounceOrder hid
        else if h.arr = 0xFF ∨ s.arrayOff id then s.bounce hid 0x08 0
        else if h.isBind ∨ h.chain = 1 ∨ h.chain = 2 then s
        else
          match s.reserveHire h with
          | (.error (d, off), s) => s.bounce hid d off
          | (.ok held, s) => s.updHire hid (fun h => { h with leases := held })

/-- HIRE_ADMIT (R306). -/
def execHireAdmit (array : Nat) (agent : Agent) (s : State) : Out1 :=
  stepOf (array < 144) s fun s =>
    match agent with
    | .core c => s.admitHire array c
    | _ => s

/-! ### Operand push (R24, R299, R307, R317) -/

/-- What a hire takes of its array's operand buffer: the bytes that are there, and once its push has begun the room for all
that READY waits for. A running hire consumes what arrives. -/
def Hire.buffered (h : Hire) (running : Option Nat) : Nat :=
  if running = some h.hid ∨ (h.nextLine = 0 ∧ h.ask.isNone) then 0
  else max (keptBytes h.needed) (keptBytes (h.reads.take (h.nextLine + (if h.ask.isSome then 1 else 0))))

/-- Whether every earlier hire and bind of the master at the array has started. -/
def State.heads (s : State) (h : Hire) : Bool :=
  s.hires.all (fun x => !(x.uid == h.uid && x.arrayId == h.arrayId && x.hid < h.hid) || (s.array h.arrayId).hasStarted x.hid)

/-- Whether the operand buffer of 1 MiB has room for the next read of a hire (R24). Half of it is left to the hires that
may start whatever others wait for: those at the head of their master's order that open no chain. The spec does not say how
hires share the buffer (assumption log 115). -/
def State.bufferRoom (s : State) (h : Hire) : Bool :=
  let a := s.array h.arrayId
  let limit := if s.heads h && (h.isBind || h.chain != 1) then 2 ^ 20 else 2 ^ 19
  let others := (s.hires.filter (fun x => x.arrayId == h.arrayId && x.hid != h.hid && x.frozen.isNone)).map (·.buffered a.running)
  a.running == some h.hid ||
    others.sum + max (keptBytes h.needed) (keptBytes (h.reads.take (h.nextLine + 1))) ≤ limit

/-- The admitted hires and binds of a core whose operands are not all read, in the order of their issue. -/
def State.unpushed (s : State) (c : Nat) : List Hire :=
  s.hires.filter (fun h => h.core == c && !h.pushed && h.frozen.isNone && 2 ≤ h.state && h.state ≤ 4)

/-- The hire that the push engine of a core works on: the first one in the order of issue that waits neither for an answer nor
for room, where none before it goes to the same array. The spec gives no order (R306, R307; assumption log 115). -/
def State.pushing (s : State) (c : Nat) : Option Hire :=
  let l := s.unpushed c
  l.find? (fun h =>
    match h.ask with
    | some r => s.allIn r
    | none => !(l.any (fun x => x.hid < h.hid && x.arrayId == h.arrayId)) && (h.nextLine ≥ h.reads.length || s.bufferRoom h))

/-- The answer to a read of the push engine: a poisoned byte bounces the hire (R317); the answer to a read that a pre-emption has
made void is dropped (R318). -/
def State.pushTake (s : State) (h : Hire) (r : EngLoad) : State :=
  let b := s.loadRead r
  let s := (s.dropLoad r).updHire h.hid (fun h => { h with ask := none })
  if r.n = 0 then s
  else
    match b, (h.reads.drop h.nextLine).head? with
    | .ok b, some x =>
      s.updHire h.hid (fun h =>
        let h := { h with nextLine := h.nextLine + 1, pushed := h.reads.length ≤ h.nextLine + 1 }
        if x.isA then { h with opsA := Memory.setBytes h.opsA x.off b } else { h with opsB := Memory.setBytes h.opsB x.off b })
    | .fault .., _ => s.bounce h.hid 0x04 0
    | _, _ => s

/-- A step of the push engine of a core: it takes the answer to a read, or sends the next one to the scratchpad, in whose single
order it is performed (R170, R307). -/
def State.pushStep (s : State) (c : Nat) : State :=
  match s.pushing c with
  | none => s
  | some h =>
    match h.ask with
    | some r => s.pushTake h r
    | none =>
      match (h.reads.drop h.nextLine).head? with
      | none => s.updHire h.hid (fun h => { h with pushed := true })
      | some x =>
        let (id, s) := s.engineSend (.push c) (.spad c) .read x.off x.len (otherVa c x.off) h.asid none
        s.updHire h.hid (fun h => { h with ask := some { n := 1, pieces := [.req id (otherVa c x.off) (.spad c)] } })

/-- OPERAND_PUSH (R307). -/
def execOperandPush (core : Nat) (s : State) : Out1 := stepOf (core < 1536) s (·.pushStep core)

/-! ### Ready and start (R309 to R312) -/

/-- The first min(K, 512) K positions of the operands have arrived (R309). -/
def Hire.arrived (h : Hire) : Bool := h.pushed || h.needed.length ≤ h.nextLine

/-- The resident tile of a tag (R303). -/
def ArrayUnit.tile? (a : ArrayUnit) (asid tag : Nat) : Option BTile :=
  (Map.vals a.tiles).find? (fun t => t.asid == asid && t.tag == tag)

/-- HIRE_READY (R309). -/
def State.makeReady (s : State) (id entry : Nat) : State :=
  let a := s.array id
  match (a.queue.drop entry).head? with
  | none => s
  | some hid =>
    match s.hire? hid with
    | none => s
    | some h =>
      if h.state = 0x02 && h.frozen.isNone && !h.isBind && h.arrived && (!h.res || (a.tile? h.asid h.tag).isSome) then
        s.updHire hid (fun h => { h with state := 0x03 })
      else s

def execHireReady (array entry : Nat) (s : State) : Out1 := stepOf (array < 144) s (·.makeReady array entry)

/-- Banks in use: chains, and single hires from their start to the end of their landing (R311). -/
def State.banksUsed (s : State) (a : ArrayUnit) : Nat :=
  a.chains.length +
    (a.started.filter (fun hid => match s.hire? hid with | some h => h.chain == 0 && !h.isBind | none => false)).length

/-- A bank is available to a hire (R311). -/
def State.bankFor (s : State) (a : ArrayUnit) (h : Hire) : Bool :=
  match h.chain with
  | 0 => s.banksUsed a < 4
  | 1 => s.banksUsed a < 4 && (a.chains.filter (fun c => !c.closing)).length < 3
  | _ => true

/-- Whether a hire is eligible (R309). -/
def State.eligible (s : State) (a : ArrayUnit) (h : Hire) : Bool :=
  h.state == 0x03 && h.frozen.isNone && s.bankFor a h &&
    !(a.queue.any (fun q =>
      q < h.hid && !a.hasStarted q && (match s.hire? q with | some x => x.uid == h.uid | none => false)))

/-- The class that a turn prefers (R310). -/
def classTurn (p : Nat) : Nat := nth 0 [2, 1, 2, 0, 2, 1, 2] p

/-- The hire that the array starts: of the preferred class, else of the highest class that has one, the first admitted
(R310). -/
def State.chooseHire (s : State) (a : ArrayUnit) : Option Hire :=
  let el := (a.queue.filterMap s.hire?).filter (s.eligible a)
  let of := fun (c : Nat) => el.find? (fun h => h.cls == c)
  ((of (classTurn a.turn)).or (of 2)).or ((of 1).or (of 0))

/-- The bounce of a starting hire: its chain (R312), then its resident tile (R303). -/
def startDetail (a : ArrayUnit) (h : Hire) : Option Nat :=
  let ch := a.openChain h.uid h.cid
  let chainBad :=
    match h.chain, ch with
    | 0, _ => false
    | 1, some _ => true
    | 1, none => false
    | _, none => true
    | _, some c => c.m != h.m || c.n != h.n || c.int != intClass h.fa || c.limit ≤ c.count
  if chainBad then some 0x07
  else if !h.res then none
  else
    match a.tile? h.asid h.tag with
    | none => some 0x05
    | some t => if t.k != h.k || t.n != h.n || t.fb != h.fb || t.bt != h.bt then some 0x06 else none

/-- A new bank of a chain (R312, R313). -/
def State.newChain (s : State) (h : Hire) : Chain :=
  let cm := (s.chainMaxOf (dieOf h.core)).toNat
  { id := h.hid, uid := h.uid, cid := h.cid, launch := h.launch, m := h.m, n := h.n, int := intClass h.fa, count := 1,
    limit := bitsOf cm 15 0, idle := bitsOf cm 47 32, acc := List.replicate (h.m * h.n) 0, lastEnd := s.timeOf (dieOf h.core) }

/-- The chain that a starting hire uses (R311). -/
def ArrayUnit.bankOf (a : ArrayUnit) (h : Hire) : Option Nat :=
  match h.chain with
  | 0 => none
  | 1 => some h.hid
  | _ => (a.openChain h.uid h.cid).map (·.id)

/-- The chains after a hire has started. -/
def State.chainsAt (s : State) (a : ArrayUnit) (h : Hire) : List Chain :=
  match h.chain with
  | 0 => a.chains
  | 1 => a.chains ++ [s.newChain h]
  | k => a.chains.map (fun c => if a.bankOf h = some c.id then { c with count := c.count + 1, closing := k == 3 } else c)

/-- ARRAY_START (R310). -/
def State.arrayStart (s : State) (id : Nat) : State :=
  let a := s.array id
  if a.running.isSome then s
  else
    match s.chooseHire a with
    | none => s
    | some h =>
      let s := s.updArray id (fun a => { a with turn := (a.turn + 1) % 7 })
      match startDetail a h with
      | some d => s.bounce h.hid d 0
      | none =>
        let chains := s.chainsAt a h
        let s := s.updArray id (fun a =>
          { a with chains := chains, running := some h.hid, started := a.started ++ [h.hid], cold := false })
        s.updHire h.hid (fun h => { h with state := 0x04, bank := a.bankOf h })

def execArrayStart (array : Nat) (s : State) : Out1 := stepOf (array < 144) s (·.arrayStart array)

/-! ### Compute (R63, R312) -/

/-- The B tile that a hire reads: the resident one of its tag, or what it has pushed. A resident tile's c4 codes go through the
tables that its `bind` has captured (assumption log 116). -/
def ArrayUnit.operandB (a : ArrayUnit) (h : Hire) : BTile :=
  if h.res then (a.tile? h.asid h.tag).getD h.bTile else h.bTile

/-- HIRE_COMPUTE_END (R312): the running hire, its operands all there, has accumulated. An uncorrectable error among them, or among
the accumulators, bounces it (R459; assumption log 117). -/
def State.computeEnd (s : State) (id : Nat) : State :=
  let a := s.array id
  match a.running.bind s.hire? with
  | none => s
  | some h =>
    if !h.pushed then s
    else
      let b := a.operandB h
      let bank := h.bank.bind (fun i => a.chains.find? (fun c => c.id == i))
      if h.bad || b.bad || (bank.map (·.bad)).getD false then s.bounce h.hid 0x04 0
      else
        let acc0 := if h.chain = 0 then List.replicate (h.m * h.n) 0 else (bank.map (·.acc)).getD []
        let acc := h.compute b acc0
        let t := s.timeOf (dieOf h.core)
        let s := s.updArray id (fun a =>
          { a with running := none, lastBusy := s.cycle,
                   chains := a.chains.map (fun c => if h.bank = some c.id then { c with acc := acc, lastEnd := t } else c) })
        if h.chain = 1 ∨ h.chain = 2 then s.finishHire h.hid 0x10
        else s.updHire h.hid (fun h => { h with acc := some acc })

def execHireComputeEnd (array : Nat) (s : State) : Out1 := stepOf (array < 144) s (fun s => (s.computeEnd array).sweepTiles array)

/-! ### Landing (R314) -/

/-- The writes of a landing: row by row, a store in units of 8 bytes, an accumulation element by element (R164). -/
def Hire.landWrites (h : Hire) (acc : List Nat) : List LandWrite :=
  let int := intClass h.fa
  let lb := landBytes h.lf
  let v := fun (e : Nat) => landValue int h.lf (nth 0 acc e) (h.g 1 31 0) (h.g 1 63 32)
  (natsFrom 0 h.m).flatMap (fun i =>
    if h.lmode = 1 then
      (natsFrom 0 h.n).map (fun j =>
        ⟨(h.rowAt i + j * lb) % 2 ^ 64, .landAcc h.lf (BitVec.ofNat 32 (v (i * h.n + j))) int, lb⟩)
    else
      let bytes := (natsFrom 0 h.n).flatMap (fun j => leBytes (landStore int h.lf (v (i * h.n + j))) lb)
      (cutUnits (h.rowAt i) (PByte.clean bytes) (bytes.length + 1)).map (fun u => ⟨u.1, .write u.2, u.2.length⟩))

/-- Whether a hire comes before another one of its master (R310). -/
def Hire.leads (x h : Hire) : Bool := x.uid == h.uid && x.hid < h.hid

/-- The hires of an array whose computation has ended, in start order. -/
def State.computed (s : State) (a : ArrayUnit) : List Hire := (a.started.filterMap s.hire?).filter (fun h => h.acc.isSome)

/-- The hires that may begin to land: of each master the earliest that has not begun, once the earlier ones have appended their
writes (R310) and the array holds no message of the master (R127). -/
def State.nextLandings (s : State) (id : Nat) : List Hire :=
  let l := s.computed (s.array id)
  l.filter (fun h =>
    h.state == 0x04 && !s.holdsFor (.array id) h.uid && l.all (fun x => !x.leads h || (x.state == 0x05 && x.todo.isEmpty)))

/-- A landing begins: its leases last 3,000 ns more, being renewed where they do not, and its bounds still hold (R308, R314). -/
def State.beginLanding (s : State) (h : Hire) : State :=
  if h.bad then s.bounce h.hid 0x04 0
  else
    match s.reserveHire h with
    | (.error (d, off), s) => s.bounce h.hid d off
    | (.ok held, s) =>
      s.updHire h.hid (fun h =>
        { h with state := 0x05, leases := held, todo := h.landWrites (h.acc.getD []),
                 landBy := some (s.timeOf (agentDie (.array h.arrayId)) + 3000) })

/-- HIRE_LANDING (R308, R314): of the first master in start order whose hire's landing may begin. -/
def State.landBegin (s : State) (id : Nat) : State :=
  match (s.nextLandings id).head? with
  | none => s
  | some h => s.beginLanding h

def execHireLanding (array : Nat) (s : State) : Out1 := stepOf (array < 144) s (·.landBegin array)

/-- The hires that have landing writes to append: of each master the first. -/
def State.landings (s : State) (id : Nat) : List Hire :=
  let l := (s.computed (s.array id)).filter (fun h => h.state == 0x05 && !h.todo.isEmpty)
  l.filter (fun h => l.all (fun x => !x.leads h))

/-- The first landing byte of a page that a hire holds, as OFF counts (R305). -/
def Hire.pageOff (h : Hire) (key : Nat) : Nat :=
  if heldSide key = 0 then offBarrier
  else (((h.segments.find? (fun x => x.1 / 65536 == key / 2)).map (·.1)).getD h.land - h.land) / 65536

/-- A landing that a renewal stops appends nothing more, and bounces once its writes are acknowledged. -/
def Hire.stopped (h : Hire) (off : Nat) : Hire := { h with todo := [], stop := some (0x0B, off) }

/-- The place of the next landing write: under the translation that is held, walked again in skew mode (R314, R364). -/
def State.landTarget (s : State) (h : Hire) (w : LandWrite) : Option EngPlace × Map Tr :=
  let key := heldKey w.va true
  let die := agentDie (.array h.arrayId)
  match placeOf (normVa h.core w.va) with
  | .other c off => (some (.spad c off), h.leases)
  | _ =>
    match h.leases.find? key with
    | none => (none, h.leases)
    | some tr =>
      let use := fun (tr : Tr) => ({ tr with pa := tr.pa + w.va % 65536 } : Tr)
      if s.skew.has die then
        match s.renew die h.asid (heldVa key) tr with
        | some new => (some (.mem (use new)), h.leases.set key new)
        | none => (none, h.leases)
      else (some (.mem (use tr)), h.leases)

/-- The time by which a landing write is performed: within 3,000 ns of the landing's begin, and within its lease (R314, R357). -/
def Hire.landExp (h : Hire) (p : EngPlace) : Option Nat :=
  match h.landBy, p.exp with
  | some b, some e => some (min b e)
  | some b, none => some b
  | none, e => e

/-- The next landing write of a hire joins its channel. -/
def State.landOne (s : State) (id : Nat) (h : Hire) : State :=
  match h.todo with
  | [] => s
  | w :: rest =>
    match s.landTarget h w with
    | (none, _) => s.updHire h.hid (·.stopped (h.pageOff (heldKey w.va true)))
    | (some p, held) =>
      let (rid, s) := s.engineSend (.array id) (s.placeHome p) w.op p.addr w.len w.va h.asid (h.landExp p)
      s.updHire h.hid (fun h => { h with todo := rest, leases := held, sent := rid :: h.sent })

/-- Engine issue of an array (R154). Which of several masters' landings goes on is open (R314). -/
def State.landIssue (s : State) (id : Nat) : State :=
  match s.landings id with
  | [] => s
  | [h] => s.landOne id h
  | h :: l =>
    let (n, s) := s.freeChoice
    s.landOne id (nth h (h :: l) (n % (l.length + 1)))

/-- The hires that have landed everything: of each master the first in start order (R310). -/
def State.landed (s : State) (id : Nat) : List Hire :=
  let l := s.computed (s.array id)
  l.filter (fun h => h.state == 0x05 && h.todo.isEmpty && s.acked h.sent && l.all (fun x => !x.leads h))

/-- LANDING_ARRIVE (R314): the arrival at the barrier of a store-and-arrive hire is on its way. Where the barrier's line is no
longer translated, the arrival counts as refused (assumption log 118). -/
def State.landArrive (s : State) (id : Nat) : State :=
  match (s.landed id).find? (fun h => h.lmode == 2 && h.arrival.isNone && !h.arf && h.stop.isNone) with
  | none => s
  | some h =>
    match s.landPlace h h.leases h.bar 128 false with
    | (.error _, _, s) => s.updHire h.hid (fun h => { h with arf := true })
    | (.ok p, held, s) =>
      let (rid, s) := s.engineSend (.array id) (s.placeHome p) .arrive p.addr 128 h.bar h.asid p.exp
      s.updHire h.hid (fun h => { h with arrival := some rid, leases := held })

def execLandingArrive (array : Nat) (s : State) : Out1 := stepOf (array < 144) s (·.landArrive array)

/-- Whether a landed hire has arrived at its barrier, or has none to arrive at. -/
def State.arrivedAt (s : State) (h : Hire) : Bool :=
  h.lmode != 2 || h.arf || h.stop.isSome || (match h.arrival with | some r => s.acked [r] | none => false)

/-- Engine event of an array (R173, R314): the landing event, with PLS and ARF. -/
def State.landEvent (s : State) (id : Nat) : State :=
  match (s.landed id).find? s.arrivedAt with
  | none => s
  | some h =>
    match h.stop with
    | some (d, off) => s.bounce h.hid d off
    | none =>
      let bad := fun (r : Nat) => NatSet.has s.engBad r
      let arf := match h.arrival with | some r => bad r | none => h.arf
      let s := s.updHire h.hid (fun h => { h with pls := h.sent.any bad, arf := arf })
      let s := match h.bank with | some b => s.updArray id (·.dropBank b) | none => s
      s.finishHire h.hid 0x10

/-! ### Renewals (R308, R361, R362) -/

/-- The translations that an array renews for a hire: all of them until the landing begins, those of lease class 0 until it
ends (R308, R361). -/
def Hire.renews (h : Hire) : Map Tr := if h.state = 0x05 then h.leases.filter (fun e => e.2.once) else h.leases

/-- Renews the translations of a hire; one that is dropped bounces it with LEASE, or stops its landing. -/
def State.renewHire (s : State) (h : Hire) : State :=
  let die := agentDie (.array h.arrayId)
  match List.find? (fun (e : Nat × Tr) => (s.renew die h.asid (heldVa e.1) e.2).isNone) h.renews with
  | some e =>
    if h.state = 0x05 then s.updHire h.hid (·.stopped (h.pageOff e.1)) else s.bounce h.hid 0x0B (h.pageOff e.1)
  | none =>
    let held := h.renews.foldl (fun m e => m.set e.1 ((s.renew die h.asid (heldVa e.1) e.2).getD e.2)) h.leases
    let s := (Map.vals held).foldl (fun s t => s.raiseHorizon die t.exp) s
    s.updHire h.hid (fun h => { h with leases := held })

/-- The hires of an array that hold leases. -/
def State.reserved (s : State) (id : Nat) : List Hire := s.hires.filter (fun h => h.arrayId == id && !h.leases.isEmpty)

/-- Lease renewal of an array (R308), frozen hires among them. -/
def State.renewArray (s : State) (id : Nat) : State :=
  (s.reserved id).foldl (fun s h => match s.hire? h.hid with | some h => s.renewHire h | none => s) s

/-! ### Chains, tiles and bursts (R312, R320, R326, R327) -/

/-- CHAIN_IDLE_EXPIRE (R312): an open chain without an admitted hire is aborted after IDLE µs. -/
def State.chainExpire (s : State) (id bank : Nat) : State :=
  let a := s.array id
  match (a.chains.drop bank).head? with
  | none => s
  | some c =>
    let busy := s.hires.any (fun h =>
      h.arrayId == id && h.uid == c.uid && h.chain != 0 && h.cid == c.cid && !h.isBind && 2 ≤ h.state)
    let saved := s.saves.any (fun r => r.ctxs.any (fun e => e.2.uid == c.uid))
    if c.idle ≠ 0 ∧ !c.closing ∧ !busy ∧ !saved ∧ c.lastEnd + c.idle * 1000 ≤ s.timeOf (id / 36) then
      s.updArray id (·.dropBank c.id)
    else s

def execChainIdleExpire (array bank : Nat) (s : State) : Out1 := stepOf (array < 144) s (·.chainExpire array bank)

/-- The first free resident slot (R302). -/
def ArrayUnit.freeTile (a : ArrayUnit) : Option Nat := (natsFrom 0 8).find? (fun i => (a.tiles.find? i).isNone)

/-- BIND_STORE (R326): the first bind that heads its master's order and whose tile has arrived. The tile keeps the c4 tables that
the `bind` has captured (R295; assumption log 116). -/
def State.bindStore (s : State) (id : Nat) : State :=
  let a := s.array id
  let ok := fun (h : Hire) =>
    h.isBind && h.pushed && h.frozen.isNone &&
      !(a.queue.any (fun q =>
        q < h.hid && !a.hasStarted q && (match s.hire? q with | some x => x.uid == h.uid | none => false)))
  match (a.queue.filterMap s.hire?).find? ok with
  | none => s
  | some h =>
    if h.bad then s.bounce h.hid 0x04 0
    else if (a.tile? h.asid h.tag).isSome then s.bounce h.hid 0x09 0
    else
      match a.freeTile with
      | none => s.bounce h.hid 0x0A 0
      | some i =>
        let s := s.updArray id (fun a => { a with tiles := a.tiles.set i { h.bTile with k := h.k } })
        s.finishHire h.hid 0x10

def execBindStore (array : Nat) (s : State) : Out1 := stepOf (array < 144) s (·.bindStore array)

/-- The result of an operation that a task waits for reaches its register, where the task still is. -/
def State.deliver (s : State) (c k uid : Nat) (reg : Reg) (v : W64) : State :=
  let t := s.ctx c k
  if t.uid = uid ∧ t.phase ≠ .free then s.setCtx c k (t.answerReg reg (.word v)) else s

/-- Whether an unbind frees a tile. -/
def Unbind.hits (u : Unbind) (asid tag : Nat) : Bool := asid == u.asid && (u.tag == 0xFFFFFFFF || tag == u.tag)

/-- Whether an unbind may be performed: the earlier hires of its master have started, no earlier unbind of the master waits, and
no running hire reads what it frees (R303, R327). -/
def State.unbindReady (s : State) (a : ArrayUnit) (u : Unbind) : Bool :=
  u.before.all (fun hid => a.hasStarted hid || (s.hire? hid).isNone) &&
    (a.unbinds.takeWhile (· != u)).all (fun x => x.uid != u.uid) &&
    (match a.running.bind s.hire? with
    | some h => !(h.res && u.hits h.asid h.tag)
    | none => true)

/-- UNBIND_PERFORM (R327): the first unbind of a core that may be performed. -/
def State.unbindStep (s : State) (id c : Nat) : State :=
  let a := s.array id
  match a.unbinds.find? (fun u => u.core == c && s.unbindReady a u) with
  | none => s
  | some u =>
    let n := (a.tiles.filter (fun e => u.hits e.2.asid e.2.tag)).length
    let s := s.updArray id (fun a =>
      { a with tiles := a.tiles.filter (fun e => !u.hits e.2.asid e.2.tag), unbinds := a.unbinds.filter (fun x => x != u) })
    s.deliver u.core u.ctx u.uid u.reg (w64 n)

/-- UNBIND_PERFORM (R327). -/
def execUnbindPerform (array : Nat) (agent : Agent) (s : State) : Out1 :=
  stepOf (array < 144) s fun s =>
    match agent with
    | .core c => s.unbindStep array c
    | _ => s

/-- ARRAY_COOL (R320): 512 cycles without compute, not held warm. -/
def State.arrayCool (s : State) (id : Nat) : State :=
  let a := s.array id
  if a.running.isNone && a.warmTo.isNone && a.lastBusy + 512 ≤ s.cycle then s.updArray id (fun a => { a with cold := true })
  else s

def execArrayCool (array : Nat) (s : State) : Out1 := stepOf (array < 144) s (·.arrayCool array)

/-- BURST_ARRIVE (R320): an array that is not disabled is warm until the cycles after the arrival. -/
def State.burstArrive (s : State) (id c : Nat) : State :=
  let a := s.array id
  match a.bursts.find? (fun b => b.1 == c) with
  | none => s
  | some b =>
    let s := s.updArray id (fun a => { a with bursts := a.bursts.erase b })
    if s.arrayOff id then s
    else s.updArray id (fun a => { a with cold := false, warmTo := some (max (s.cycle + b.2) (a.warmTo.getD 0)) })

/-- BURST_ARRIVE (R320). -/
def execBurstArrive (array : Nat) (agent : Agent) (s : State) : Out1 :=
  stepOf (array < 144) s fun s =>
    match agent with
    | .core c => s.burstArrive array c
    | _ => s

/-- WARM_HOLD_EXPIRE (R320). -/
def State.warmExpire (s : State) (id : Nat) : State :=
  match (s.array id).warmTo with
  | some t => if t ≤ s.cycle then s.updArray id (fun a => { a with warmTo := none }) else s
  | none => s

def execWarmHoldExpire (array : Nat) (s : State) : Out1 := stepOf (array < 144) s (·.warmExpire array)

end Sys2Proof.Machine
end

