-- ==== Sys2Proof/Machine/Atomic.lean ====
section
/-!
DEFINITION. Sys2Proof/Machine/Atomic.lean: the atomics, `cas` and `red` (R214, R237 to R241).
-/
namespace Sys2Proof.Machine

/-! ### Orderings (R214) -/

/-- The scope of an acquire code. -/
def ordAcquire (ord : Nat) : Option Scope :=
  match ord with
  | 1 => some .die
  | 2 => some .package
  | 3 => some .fabric
  | _ => none

/-- The scope of a release code. -/
def ordRelease (ord : Nat) : Option Scope :=
  match ord with
  | 4 => some .die
  | 5 => some .package
  | 6 => some .fabric
  | _ => none

/-- Runs an operation behind the gate of a release (R165, R214): the operation's own checks come first. -/
def State.afterGate (s : State) (sc : Option Scope) (act : State → Res) : Res :=
  match sc with
  | none => act s
  | some sc =>
    let r := act s
    if r.beforeGate then r
    else
      match s.gate sc with
      | .closed s => .hold s
      | .passed s => act s

/-! ### The operations at the home (R237, R239, R240) -/

/-- `op(old, d)` of R237 on `n` bytes. -/
def AmoOp.apply (op : AmoOp) (n old d : Nat) : Nat :=
  let b := 8 * n
  match op with
  | .add => (old + d) % 2 ^ b
  | .and => old &&& d
  | .or => old ||| d
  | .xor => old ^^^ d
  | .min => if sgnOf b d < sgnOf b old then d else old
  | .max => if sgnOf b old < sgnOf b d then d else old
  | .minu => if d < old then d else old
  | .maxu => if old < d then d else old
  | .swap => d
  | .fadd => Fp.fAdd .rne old d

/-- Lesser and greater values of a float format under R56: NaN wins, −0 orders below +0. -/
def floatMinMax (f : Nat) (greater : Bool) (a b : Nat) : Nat :=
  let x := Fp.val f a
  let y := Fp.val f b
  if x.isNan || y.isNan then Fp.rnd f .nan .rne false
  else if greater then (if Fp.fLess x y then b else a)
  else if Fp.fLess y x then b else a

/-- The new value of a `red` (R240). -/
def redApply (rop f old d : Nat) : Nat :=
  let float := f ≤ 2
  let signed := f = 0xB
  match rop with
  | 0 => if float then Fp.rnd f ((Fp.val f old).add .rne (Fp.val f d)) .rne false else (old + d) % 2 ^ 32
  | 1 => if float then floatMinMax f false old d else if signed then AmoOp.min.apply 4 old d else AmoOp.minu.apply 4 old d
  | 2 => if float then floatMinMax f true old d else if signed then AmoOp.max.apply 4 old d else AmoOp.maxu.apply 4 old d
  | 3 => old &&& d
  | 4 => old ||| d
  | _ => old ^^^ d

/-- What a read-modify-write leaves for an old value: `none` writes nothing (R238, R239). -/
def HomeOp.newValue (op : HomeOp) (n old : Nat) : Option Nat :=
  match op with
  | .amo op d => some (op.apply n old (d.toNat % 2 ^ (8 * n)))
  | .cas expect new => if old = expect.toNat then some new.toNat else none
  | .red rop f d => some (redApply rop f old (d.toNat % 2 ^ (8 * n)))
  | _ => none

/-! ### Atomics and `cas` at issue -/

/-- The bytes that a line of L1(c) holds become invalid (R162). -/
def State.dropLine (s : State) (c asid va : Nat) : State :=
  match (s.core c).l1At asid va with
  | some l => s.updCore c (·.putL1 { l with bytes := [] })
  | none => s

/-- Appends a read-modify-write for a translated address, behind the write-back of its line (R161, R162). -/
def State.sendRmw (s : State) (va n : Nat) (tr : Tr) (op : HomeOp) (sc : Scope) (acq : Option Scope) (dest : Dest) : State :=
  let c := s.curCore
  let s := (s.writeBackAt c s.cur.asid va).dropLine c s.cur.asid va
  let r := s.taskReq (s.homeOf tr.pa) op tr.pa n sc dest
  s.enqueue c { r with va := va, exp := some tr.exp, acq := acq, rdc := tr.rdc } true true

/-- A read-modify-write on the own scratchpad, performed at issue (R170). -/
def State.ownRmw (s : State) (off n : Nat) (op : HomeOp) : State :=
  match op.newValue n (leNat (PByte.vals (s.here.spBytes off n))) with
  | some v => s.spWrite s.curCore off (PByte.clean (leBytes v n))
  | none => s

/-- Every atomic and `cas` once the gate of a release is open (R238, R239). -/
def State.rmw (s : State) (rd n : Nat) (signed : Bool) (op : HomeOp) (ord : Nat) (va : W64) : Res :=
  let a := va.toNat
  let acq := ordAcquire ord
  let sc := (acq.or (ordRelease ord)).getD .core
  let dest := Dest.value (.x s.cur.bank rd) n signed
  match s.reach a n true with
  | .trap cause info => .trap cause info va
  | .own off =>
    let b := s.here.spBytes off n
    if s.belowWatermark s.curCore s.cur.asid a n then .hold s.waitStall
    else if PByte.anyBad b then .trap 0x13 0 va
    else
      let s := s.ownRmw off n op
      let s := match acq with | some sc => s.acquire s.curCore sc | none => s
      .done s (nowX rd (extend signed n (leNat (PByte.vals b)))) none
  | .other core off =>
    if s.belowWatermark s.curCore s.cur.asid a n then .hold s.waitStall
    else
      let id := s.upcoming
      let s := s.enqueue s.curCore { s.taskReq (.spad core) op off n sc dest with va := a, acq := acq } true true
      .done (if acq.isSome then s.holdFor id else s) [.later (.x rd)] none
  | .global =>
    if s.belowWatermark s.curCore s.cur.asid a n then .hold s.waitStall
    else
      match s.movesTo a true with
      | some home => (s.peeked a).leaveFor home
      | none =>
        match s.xlate a true with
        | (.error (cause, info), _) => .trap cause info va
        | (.ok tr, s) =>
          let s := s.sendRmw a n tr op sc acq dest
          .done (if acq.isSome then s.holdFor (s.nextId - 1) else s) [.later (.x rd)] none

/-- An ATOMIC instruction (R237, R238). -/
def atomicOp (st rd rs1 rs2 ord : Nat) (op : AmoOp) (n : Nat) (signed : Bool) (s : State) : Out1 :=
  s.issueWith { st := st, reads := [.x rs1, .x rs2], writes := [.x rd] } fun s =>
    s.afterGate (ordRelease ord) fun s =>
      s.rmw rd n signed (.amo op (s.cur.readX rs2)) ord (s.cur.readX rs1)

/-- `amoadd` (R237). -/
def execAmoadd (st : Fin 8) (rd rs1 rs2 : Fin 32) (ord : Fin 8) (s : State) : Out1 := atomicOp st rd rs1 rs2 ord .add 8 false s
/-- `amoaddw` (R237). -/
def execAmoaddw (st : Fin 8) (rd rs1 rs2 : Fin 32) (ord : Fin 8) (s : State) : Out1 := atomicOp st rd rs1 rs2 ord .add 4 true s
/-- `amoand` (R237). -/
def execAmoand (st : Fin 8) (rd rs1 rs2 : Fin 32) (ord : Fin 8) (s : State) : Out1 := atomicOp st rd rs1 rs2 ord .and 8 false s
/-- `amoandw` (R237). -/
def execAmoandw (st : Fin 8) (rd rs1 rs2 : Fin 32) (ord : Fin 8) (s : State) : Out1 := atomicOp st rd rs1 rs2 ord .and 4 true s
/-- `amoor` (R237). -/
def execAmoor (st : Fin 8) (rd rs1 rs2 : Fin 32) (ord : Fin 8) (s : State) : Out1 := atomicOp st rd rs1 rs2 ord .or 8 false s
/-- `amoorw` (R237). -/
def execAmoorw (st : Fin 8) (rd rs1 rs2 : Fin 32) (ord : Fin 8) (s : State) : Out1 := atomicOp st rd rs1 rs2 ord .or 4 true s
/-- `amoxor` (R237). -/
def execAmoxor (st : Fin 8) (rd rs1 rs2 : Fin 32) (ord : Fin 8) (s : State) : Out1 := atomicOp st rd rs1 rs2 ord .xor 8 false s
/-- `amoxorw` (R237). -/
def execAmoxorw (st : Fin 8) (rd rs1 rs2 : Fin 32) (ord : Fin 8) (s : State) : Out1 := atomicOp st rd rs1 rs2 ord .xor 4 true s
/-- `amomin` (R237). -/
def execAmomin (st : Fin 8) (rd rs1 rs2 : Fin 32) (ord : Fin 8) (s : State) : Out1 := atomicOp st rd rs1 rs2 ord .min 8 false s
/-- `amominw` (R237). -/
def execAmominw (st : Fin 8) (rd rs1 rs2 : Fin 32) (ord : Fin 8) (s : State) : Out1 := atomicOp st rd rs1 rs2 ord .min 4 true s
/-- `amomax` (R237). -/
def execAmomax (st : Fin 8) (rd rs1 rs2 : Fin 32) (ord : Fin 8) (s : State) : Out1 := atomicOp st rd rs1 rs2 ord .max 8 false s
/-- `amomaxw` (R237). -/
def execAmomaxw (st : Fin 8) (rd rs1 rs2 : Fin 32) (ord : Fin 8) (s : State) : Out1 := atomicOp st rd rs1 rs2 ord .max 4 true s
/-- `amominu` (R237). -/
def execAmominu (st : Fin 8) (rd rs1 rs2 : Fin 32) (ord : Fin 8) (s : State) : Out1 := atomicOp st rd rs1 rs2 ord .minu 8 false s
/-- `amominuw` (R237). -/
def execAmominuw (st : Fin 8) (rd rs1 rs2 : Fin 32) (ord : Fin 8) (s : State) : Out1 := atomicOp st rd rs1 rs2 ord .minu 4 true s
/-- `amomaxu` (R237). -/
def execAmomaxu (st : Fin 8) (rd rs1 rs2 : Fin 32) (ord : Fin 8) (s : State) : Out1 := atomicOp st rd rs1 rs2 ord .maxu 8 false s
/-- `amomaxuw` (R237). -/
def execAmomaxuw (st : Fin 8) (rd rs1 rs2 : Fin 32) (ord : Fin 8) (s : State) : Out1 := atomicOp st rd rs1 rs2 ord .maxu 4 true s
/-- `amoswap` (R237). -/
def execAmoswap (st : Fin 8) (rd rs1 rs2 : Fin 32) (ord : Fin 8) (s : State) : Out1 := atomicOp st rd rs1 rs2 ord .swap 8 false s
/-- `amoswapw` (R237). -/
def execAmoswapw (st : Fin 8) (rd rs1 rs2 : Fin 32) (ord : Fin 8) (s : State) : Out1 := atomicOp st rd rs1 rs2 ord .swap 4 true s
/-- `amofadd` (R237). -/
def execAmofadd (st : Fin 8) (rd rs1 rs2 : Fin 32) (ord : Fin 8) (s : State) : Out1 := atomicOp st rd rs1 rs2 ord .fadd 4 false s

/-- `cas` (R239). -/
def execCas (st : Fin 8) (rd rs1 rs2 : Fin 32) (ord : Fin 8) (rs3 : Fin 32) (s : State) : Out1 :=
  s.issueWith { st := st, reads := [.x rs1, .x rs2, .x rs3], writes := [.x rd] } fun s =>
    s.afterGate (ordRelease ord) fun s =>
      s.rmw rd 8 false (.cas (s.cur.readX rs3) (s.cur.readX rs2)) ord (s.cur.readX rs1)

/-! ### Reduce-on-write -/

/-- The report of a `red` that is not performed (R241, R457 KIND 0x04): by the translating slice under its own slice index
(R368), or by the home that meets poison under its unit's index (R485). -/
def State.redReport (s : State) (slice : Nat) (va detail : Nat) : State :=
  s.report 0x04 1 (if detail = dPoison then 384 + slice % 384 else slice % 384) (dieOf slice) [w64 va, w64 detail]

/-- `red` once the gate of a release is open (R241). -/
def State.red (s : State) (rop f : Nat) (sc : Scope) (va d : W64) : Res :=
  let a := va.toNat
  let n := Fp.fmtBits f / 8
  let op := HomeOp.red rop f d
  match s.reach a n true with
  | .trap cause info => .trap cause info va
  | .own off =>
    if s.belowWatermark s.curCore s.cur.asid a n then .hold s.waitStall
    else if PByte.anyBad (s.here.spBytes off n) then .done (s.report 0x04 0 (s.curCore % 384) s.die [w64 (otherVa s.curCore off), w64 dPoison]) [] none
    else .done (s.ownRmw off n op) [] none
  | .other core off =>
    if s.belowWatermark s.curCore s.cur.asid a n then .hold s.waitStall
    else .done (s.enqueue s.curCore { s.taskReq (.spad core) op off n sc .ack with va := a } true true) [] none
  | .global =>
    if s.belowWatermark s.curCore s.cur.asid a n then .hold s.waitStall
    else
      match s.movesTo a true with
      | some home => (s.peeked a).leaveFor home
      | none =>
        match s.translate s.die s.cur.asid a true (some s.curCore) with
        | (.error d, s) =>
          .done ((s.writeBackAt s.curCore s.cur.asid a).redReport (transSlice s.die s.cur.asid a) a d) [] none
        | (.ok tr, s) =>
          let s := s.writeBackAt s.curCore s.cur.asid a
          let r := s.taskReq (s.homeOf tr.pa) op tr.pa n sc .ack
          .done (s.enqueue s.curCore { r with va := a, exp := some tr.exp, rdc := tr.rdc } true true) [] none

/-- `red` (R240, R241). -/
def execRed (st ord : Fin 8) (rs1 rs2 : Fin 32) (rop fcode : Fin 16) (s : State) : Out1 :=
  s.issueWith { st := st, reads := [.x rs1, .x rs2] } fun s =>
    s.afterGate (ordRelease ord) fun s =>
      s.red rop fcode ((ordRelease ord).getD .core) (s.cur.readX rs1) (s.cur.readX rs2)

end Sys2Proof.Machine
end

