-- ==== Sys2Proof/Machine/Copy.lean ====
section
/-!
DEFINITION. Sys2Proof/Machine/Copy.lean: the steps of the copy channels, transfer ids as tasks read them, `cpst` and `cpwait`
(R373 to R385, R401).
-/
namespace Sys2Proof.Machine

/-! ### Channels -/

def State.copyChan (s : State) (c ch : Nat) : CopyChan := (s.core c).copies.get {} ch
def State.updCopy (s : State) (c ch : Nat) (f : CopyChan → CopyChan) : State :=
  s.updCore c (fun h => { h with copies := h.copies.set ch (f (h.copies.get {} ch)) })

/-- Replaces the head of a channel's queue. -/
def CopyChan.setHead (k : CopyChan) (o : CopyOp) : CopyChan := { k with queue := o :: k.queue.drop 1 }

/-- The fields of a copy's flag register. -/
def CopyOp.mode (o : CopyOp) : Nat := bitsOf o.flag 3 2
def CopyOp.cvt (o : CopyOp) : Option Nat := if bitOf o.flag 8 then some (bitsOf o.flag 7 4) else none
def CopyOp.worker (o : CopyOp) (c ch : Nat) : Worker := ⟨.copyCh c ch, c, o.asid, o.launch⟩

/-- The start of a side of a copy, from which PAGE counts: BASE for the layout side (R381). -/
def CopyOp.start (o : CopyOp) (side : Nat) : Nat :=
  match o.mode, side with
  | 1, 0 => if o.record.isEmpty then o.desc else recBase o.record
  | 2, 1 => recBase o.record
  | _, 0 => if o.mode = 2 ∧ o.record.isEmpty then o.desc else o.src
  | _, _ => o.dst

/-- PAGE of a faulting address on a side. -/
def faultPage (va start : Nat) : Nat := (va + 2 ^ 64 - start % 2 ^ 64) % 2 ^ 64 / 65536

/-- A copy that has met its first fault (R383). -/
def CopyOp.fault (o : CopyOp) (side detail va : Nat) : CopyOp :=
  { o with stopped := some 0x20, side := side, detail := detail, page := faultPage va (o.start side) }

/-! ### Final states and continuations (R384) -/

/-- The continuation of a copy. -/
def CopyOp.continuation (o : CopyOp) (c ch : Nat) : Flight :=
  { msg :=
      { role := bitsOf o.flag 15 14, ovl := o.ovl, hnd := bitsOf o.flag 31 16, job := o.job,
        args := [copyId ch o.seq, o.status, w64 (bitsOf o.flag 63 32), w64 o.dst] },
    launch := o.launch, target := c, sender := .copyCh c ch, uid := o.uid,
    acq := if o.vis then some o.scope else none }

/-- The copy at the head of a channel reaches its final state. -/
def State.finishCopy (s : State) (c ch : Nat) (o : CopyOp) : State :=
  let s := s.updCopy c ch (fun k =>
    { k with queue := k.queue.drop 1, recent := (o.done :: k.recent).take 16 })
  if bitOf o.flag 12 then s.sendContinuation (o.continuation c ch) else s

/-- What a copy moves. -/
def CopyOp.plan (o : CopyOp) : Plan :=
  match o.mode with
  | 0 => .linear o.src o.dst o.len
  | 1 => .gather { r := o.record } o.cvt o.dst
  | _ => .scatter { r := o.record } o.cvt o.src

/-! ### Starting (R373, R375, R378, R385) -/

/-- COPY_START (R373): the copy at the head of a channel begins to run, and the watermark is its CPDST (R385). -/
def State.copyStart (s : State) (c ch : Nat) : State :=
  match (s.copyChan c ch).queue with
  | o :: _ => if o.state = 0x01 then s.updCopy c ch (fun k => { (k.setHead o.begun) with wm := w64 o.dst }) else s
  | [] => s

/-- Whether a copy has its layout record still to read (R378). -/
def CopyOp.unread (o : CopyOp) : Bool := o.mode != 0 && o.record.isEmpty

/-- A copy with a layout asks for its record. -/
def State.copyAsk (s : State) (c ch : Nat) (o : CopyOp) : State :=
  let (l, _, s) := s.engineAsk (o.worker c ch) [] o.desc 96
  s.updCopy c ch (·.setHead { o with recAsk := some l })

/-- The record has been read: it is checked before a byte moves (R378, R379). -/
def CopyOp.withRecord (o : CopyOp) (c : Nat) (r : List W64) : CopyOp :=
  match recBad r with
  | some word => { o with recAsk := none, stopped := some 0x21, detail := word }
  | none =>
    let r := recSetBase r (normVa c (recBase r))
    { o with recAsk := none, record := r, units := recCount r }

/-! ### Moving (R164, R172, R382, R383) -/

/-- The answer to the read of the record. -/
def State.copyRecord (s : State) (c ch : Nat) (o : CopyOp) (l : EngLoad) : State :=
  match s.loadRead l with
  | .wait => s
  | .fault d va => s.updCopy c ch (·.setHead (o.fault 0 d va))
  | .ok b => (s.dropLoad l).updCopy c ch (·.setHead (o.withRecord c (wordsOf b 12)))

/-- The writes of a step of moving, with the bytes of the active range that they end (R385). -/
def CopyOp.appended (o : CopyOp) (next : Nat) (ids : List Nat) : List EngWrite :=
  o.writes ++ ids.map (fun i => ⟨i, if o.mode = 2 then 0 else next⟩)

/-- Engine issue of a copy channel (R154): its next reads and writes. -/
def State.copyIssue (s : State) (c ch : Nat) : State :=
  match (s.copyChan c ch).queue with
  | [] => s
  | o :: _ =>
    if o.state != 0x02 || o.stopped.isSome || s.holdsFor (.copyCh c ch) o.uid then s
    else
      match o.recAsk with
      | some l => s.copyRecord c ch o l
      | none =>
        if o.unread then s.copyAsk c ch o
        else
          match s.moveStep (o.worker c ch) o.leases o.plan o.mov with
          | (.wait, _, _) => s
          | (.fault side d va ids, held, s) =>
            s.updCopy c ch (·.setHead ({ o with leases := held, writes := o.appended o.mov.next ids }.fault side d va))
          | (.ok m ids, held, s) => s.updCopy c ch (·.setHead { o with leases := held, mov := m, writes := o.appended m.next ids })

/-! ### Acknowledgements, the watermark and the end (R175, R382, R385) -/

/-- Drops the acknowledged writes at the front, answering the bytes below the first that is not. -/
def settledTo (acked : Nat → Bool) (b : Nat) : List EngWrite → Nat × List EngWrite
  | [] => (b, [])
  | w :: ws => if acked w.id then settledTo acked (max b w.fin) ws else (b, w :: ws)

/-- A channel takes an acknowledgement: its watermark passes the destination bytes that are all acknowledged. -/
def State.copyAck (s : State) (c ch : Nat) : State :=
  match (s.copyChan c ch).queue with
  | [] => s
  | o :: _ =>
    let (b, ws) := settledTo (fun i => s.acked [i]) o.acked o.writes
    let b := if o.mode = 2 then 0 else b
    s.updCopy c ch (fun k =>
      { (k.setHead { o with writes := ws, acked := b }) with wm := if o.state = 0x02 then w64 (o.dst + b) else k.wm })

/-- The reads of a copy that have not been used. -/
def CopyOp.reads (o : CopyOp) : List EngLoad := o.recAsk.toList ++ o.mov.loads

/-- Whether every write that a copy makes has been appended and acknowledged (R382). -/
def CopyOp.written (o : CopyOp) : Bool := !o.unread && o.plan.targets ≤ o.mov.next && o.writes.isEmpty

/-- One of the events of a copy is signalled; with both it is DONE (R174, R382). -/
def State.copySignal (s : State) (c ch : Nat) (o : CopyOp) : State :=
  if o.sf && o.vis then s.finishCopy c ch { o with state := 0x10 } else s.updCopy c ch (·.setHead o)

/-- Engine event of a copy channel (R173 to R175, R382): the source-free event once every read has been performed, the visible
event once every write has been acknowledged, in either order; a copy that has faulted reaches its final state. -/
def State.copyEvent (s : State) (c ch : Nat) : State :=
  match (s.copyChan c ch).queue with
  | [] => s
  | o :: _ =>
    if o.state != 0x02 then s
    else
      match o.stopped with
      | some st =>
        if o.writes.isEmpty && o.reads.all s.allIn then (s.dropLoads o.reads).finishCopy c ch { o with state := st } else s
      | none =>
        let sf : Bool := !o.sf && !o.unread && s.moveRead o.plan o.mov
        let vis : Bool := !o.vis && o.written
        if sf && vis then
          let (k, s) := s.freeChoice
          if k % 2 = 0 then s.copySignal c ch { o with sf := true } else s.copySignal c ch { o with vis := true }
        else if sf then s.copySignal c ch { o with sf := true }
        else if vis then s.copySignal c ch { o with vis := true }
        else s

/-! ### Renewal (R362) -/

/-- Renews a held set of translations of an engine: the first page that is dropped is the fault, by its key. -/
def State.renewHeld (s : State) (die asid : Nat) (held : Map Tr) : Except Nat (Map Tr) × State :=
  match List.find? (fun (e : Nat × Tr) => (s.renew die asid (heldVa e.1) e.2).isNone) held with
  | some e => (.error e.1, s)
  | none =>
    let new := held.map (fun e => (e.1, (s.renew die asid (heldVa e.1) e.2).getD e.2))
    (.ok new, (Map.vals new).foldl (fun s t => s.raiseHorizon die t.exp) s)

/-- Lease renewal of a copy channel: a failing renewal stops the running copy at that page (R362, R383). -/
def State.copyRenew (s : State) (c ch : Nat) : State :=
  match (s.copyChan c ch).queue with
  | [] => s
  | o :: _ =>
    if o.state != 0x02 || o.stopped.isSome then s
    else
      match s.renewHeld (dieOf c) o.asid o.leases with
      | (.ok held, s) => s.updCopy c ch (·.setHead { o with leases := held })
      | (.error k, s) =>
        s.updCopy c ch (·.setHead (o.fault (heldSide k) dLease (max (heldVa k) (o.start (heldSide k)))))

/-- COPY_START (R373). -/
def execCopyStart (agent : Agent) (s : State) : Out1 :=
  match agent with
  | .copyCh c ch => stepOf (c < 1536 && ch < 4) s (·.copyStart c ch)
  | _ => .fault .noSuchUnit

/-! ### Transfer ids (R380, R401) -/

/-- The id of an operation of a BDE channel (R380). -/
def bdeId (unit ch seq : Nat) : W64 := w64 (2 ^ 23 + unit % 8 * 2 ^ 20 + ch % 16 * 2 ^ 16 + seq % 2 ^ 16)

/-- The status word of a BDE operation (R381). -/
def BdeOp.status (o : BdeOp) : W64 :=
  w64 (o.page % 2 ^ 32 * 2 ^ 32 + (if o.ovf then 2 ^ 19 else 0) + o.side % 2 * 2 ^ 18 + (if o.vis then 2 ^ 17 else 0) +
    (if o.sf then 2 ^ 16 else 0) + o.detail % 256 * 2 ^ 8 + o.state % 256)

def State.bde (s : State) (u : Nat) : Bde := s.bdes.get {} u
def State.updBde (s : State) (u : Nat) (f : Bde → Bde) : State := { s with bdes := s.bdes.set u (f (s.bde u)) }
def State.bdeChan (s : State) (u ch : Nat) : BdeChan := (s.bde u).chans.get {} ch
def State.updBdeChan (s : State) (u ch : Nat) (f : BdeChan → BdeChan) : State :=
  s.updBde u (fun b => { b with chans := b.chans.set ch (f (b.chans.get {} ch)) })

/-- The scope of the visible event of a BDE operation (R173). -/
def BdeOp.scope (o : BdeOp) : Scope := if o.kind = .coll then .fabric else .package

def BdeOp.done (o : BdeOp) : DoneOp := ⟨o.seq, o.asid, o.status, o.scope⟩

/-- What an id of a BDE channel names for an address space, where the channel still keeps it. -/
def BdeChan.find (k : BdeChan) (seq asid : Nat) : Option DoneOp :=
  let d := ((k.queue.find? (fun o => o.seq == seq)).map BdeOp.done).or (k.recent.find? (fun e => e.seq == seq))
  if latest k.nextSeq seq then d.filter (fun e => e.asid == asid) else none

/-- The operation that an id of a BDE names. -/
def State.bdeOp? (s : State) (t : Nat) : Option BdeOp :=
  (s.bdeChan (bitsOf t 22 20) (bitsOf t 19 16)).queue.find? (fun o => o.seq == bitsOf t 15 0)

/-- What an id names for the task at issue (R380). -/
def State.idOp (s : State) (t : Nat) : Option DoneOp :=
  if bitOf t 23 then (s.bdeChan (bitsOf t 22 20) (bitsOf t 19 16)).find (bitsOf t 15 0) s.cur.asid
  else (s.here.copies.get {} (bitsOf t 17 16)).find (bitsOf t 15 0)

/-- Its status word, EXPIRED for an id that names nothing (R381). -/
def State.idStatus (s : State) (t : Nat) : W64 := ((s.idOp t).map (·.status)).getD 0x30

/-- Whether a status word is final or expired (R381). -/
def finalState (w : W64) : Bool := 0x10 ≤ bitsOf w.toNat 7 0

/-- The checks of R401 on an id. -/
def badId (t : Nat) : Bool := bitsOf t 63 24 != 0 || (!bitOf t 23 && bitsOf t 22 18 != 0)

/-- `cpst` (R401). -/
def execCpst (st : Fin 8) (rd rs1 : Fin 32) (s : State) : Out1 :=
  s.issueWith { st := st, reads := [.x rs1], writes := [.x rd] } fun s =>
    let t := s.cur.readX rs1
    if badId t.toNat then .trap 0x11 0 t else .done s (nowX rd (s.idStatus t.toNat)) none

/-- `cpwait` (R401): `e` waits for the visible event, and acquires at its scope. -/
def execCpwait (st : Fin 8) (rd rs1 : Fin 32) (e : Fin 2) (s : State) : Out1 :=
  s.issueWith { st := st, reads := [.x rs1], writes := [.x rd] } fun s =>
    let t := s.cur.readX rs1
    let w := s.idStatus t.toNat
    let vis := w.getLsbD 17
    if badId t.toNat then .trap 0x11 0 t
    else if finalState w || (if e == 1 then vis else w.getLsbD 16) then
      let s := if e == 1 && vis then s.acquire s.curCore (((s.idOp t.toNat).map (·.scope)).getD .package) else s
      .done s (nowX rd w) none
    else .hold (s.waitCond false)

end Sys2Proof.Machine
end

