-- ==== Sys2Proof/Machine/Sync.lean ====
section
/-!
DEFINITION. Sys2Proof/Machine/Sync.lean: fences, `cln`, `inv`, `waita`, futures, groups and barriers as an issuing task
performs them (R228 to R236, R242 to R244); what the homes do with the requests is in Homes.lean.
-/
namespace Sys2Proof.Machine

/-! ### Fences and regions (R233 to R235) -/

/-- `fence` (R167, R234). -/
def execFence (st : Fin 8) (rel acq : Fin 2) (scope : Fin 8) (s : State) : Out1 :=
  s.issueWith { st := st } fun s =>
    let sc := Scope.ofBits scope
    s.afterGate (if rel == 1 then some sc else none) fun s =>
      .done (if acq == 1 then s.acquire s.curCore sc else s) [] none

/-- Whether a line of the task's address space overlaps a region (R235). -/
def L1Line.inRegion (l : L1Line) (asid base len : Nat) : Bool :=
  l.asid == asid && len != 0 && overlap (l.line * 128) 128 base (min len (2 ^ 64 - base))

/-- `cln` (R235). -/
def execCln (st : Fin 8) (rs1 rs2 : Fin 32) (s : State) : Out1 :=
  s.issueWith { st := st, reads := [.x rs1, .x rs2] } fun s =>
    .done (s.writeBackAll s.curCore
      (fun l => l.inRegion s.cur.asid (s.cur.readX rs1).toNat (s.cur.readX rs2).toNat)) [] none

/-- The clean bytes of the lines in a region become invalid (R235, R178). -/
def HomeCore.invRegion (h : HomeCore) (asid base len : Nat) : HomeCore :=
  { h with l1 := (h.l1.map (fun l => if l.inRegion asid base len then l.dropClean else l)).filter (fun l => !l.bytes.isEmpty) }

/-- `inv` (R235). -/
def execInv (st : Fin 8) (rs1 rs2 : Fin 32) (s : State) : Out1 :=
  s.issueWith { st := st, reads := [.x rs1, .x rs2] } fun s =>
    .done (s.updHere (·.invRegion s.cur.asid (s.cur.readX rs1).toNat (s.cur.readX rs2).toNat)) [] none

/-! ### `waita` (R236) -/

/-- The task at issue parks until the answer to a request. -/
def State.parkFor (s : State) (id : Nat) : State :=
  s.updCur (fun t => { t with wait := .answer id, phase := .parked, waitFrom := some s.now })

/-- `waita` (R236). -/
def execWaita (st : Fin 8) (rd rs1 rs2 : Fin 32) (scope : Fin 8) (s : State) : Out1 :=
  s.issueWith { st := st, reads := [.x rs1, .x rs2], writes := [.x rd], kill := true } fun s =>
    let va := s.cur.readX rs1
    let a := va.toNat
    let sc := Scope.ofBits scope
    let op := HomeOp.waita (s.cur.readX rs2)
    let dest := Dest.answer (.x s.cur.bank rd)
    match placeOf a with
    | .own _ => .trap 0x11 0 va
    | _ =>
      match s.reach a 8 false with
      | .trap cause info => .trap cause info va
      | .own _ => .trap 0x11 0 va
      | .other core off =>
        if s.belowWatermark s.curCore s.cur.asid a 8 then .hold s.waitStall
        else if s.otherPoison core off 8 then .trap 0x13 0 va
        else
          let id := s.upcoming
          let s := s.enqueue s.curCore { s.taskReq (.spad core) op off 8 sc dest with va := a, acq := some sc } false true
          .done (s.parkFor id) [.later (.x rd)] none
      | .global =>
        if s.belowWatermark s.curCore s.cur.asid a 8 then .hold s.waitStall
        else
          match s.movesTo a false with
          | some home => (s.peeked a).leaveFor home
          | none =>
            match s.xlate a false with
            | (.error (cause, info), _) => .trap cause info va
            | (.ok tr, s) =>
              if s.loadPoison a 8 tr.pa then .trap 0x13 0 va
              else
                let s := s.writeBackAt s.curCore s.cur.asid a
                let id := s.upcoming
                let r := s.taskReq (s.homeOf tr.pa) op tr.pa 8 sc dest
                let s := s.enqueue s.curCore { r with va := a, exp := some tr.exp, acq := some sc, rdc := tr.rdc } false true
                .done (s.parkFor id) [.later (.x rd)] none

/-! ### Objects in global memory (R226, R227, R242) -/

/-- The checks of an object's address (R228, R242): alignment, the scratchpad windows, then those of a translated
access; the poison of its `n` bytes is checked unless it is written. Alignment comes first, as in R106 (assumption log 129). -/
def State.objAddr (s : State) (va align n : Nat) (write : Bool) : Except (Nat × Nat) Tr × State :=
  if va % align ≠ 0 then (.error (0x04, 0), s)
  else
    match placeOf va with
    | .own _ => (.error (0x11, 0), s)
    | .other .. => (.error (0x11, 0), s)
    | .global =>
      if !canonical va then (.error (0x11, dCanon + writeBit write), s)
      else
        match s.xlate va write with
        | (.error e, s) => (.error e, s)
        | (.ok tr, s) => if !write && s.loadPoison va n tr.pa then (.error (0x13, 0), s) else (.ok tr, s)

/-- Appends a request to an object's home behind the write-back of its lines (R161). -/
def State.sendObj (s : State) (va n : Nat) (tr : Tr) (op : HomeOp) (sc : Scope) (acq : Option Scope) (dest : Dest)
    (write : Bool) : State :=
  let c := s.curCore
  let s := s.writeBackAt c s.cur.asid va
  let r := s.taskReq (s.homeOf tr.pa) op tr.pa n sc dest
  s.enqueue c { r with va := va, exp := some tr.exp, acq := acq } write true

/-! ### Futures (R243, R244) -/

/-- `ldf` (R243). Nothing of the task issues before the answer. -/
def execLdf (st : Fin 8) (rd rs1 : Fin 32) (ord : Fin 8) (s : State) : Out1 :=
  s.issueWith { st := st, reads := [.x rs1], writes := [.x rd], extra := [.fut] } fun s =>
    let va := s.cur.readX rs1
    let acq := ordAcquire ord
    if s.belowWatermark s.curCore s.cur.asid va.toNat 16 then .hold s.waitStall
    else
      match s.objAddr va.toNat 16 16 false with
      | (.error (cause, info), _) => .trap cause info va
      | (.ok tr, s') =>
        match s.movesTo va.toNat false with
        | some home => (s.peeked va.toNat).leaveFor home
        | none =>
          let s := s'.sendRmw va.toNat 16 tr .ldf (acq.getD .core) acq (.future (.x s.cur.bank rd))
          .done (s.holdFor (s.nextId - 1)) [.later (.x rd), .later .fut] none

/-- `stf` (R244). -/
def execStf (st : Fin 8) (rd rs1 rs2 : Fin 32) (ord : Fin 8) (s : State) : Out1 :=
  s.issueWith { st := st, reads := [.x rs1, .x rs2], writes := [.x rd], extra := [.fut] } fun s =>
    s.afterGate (ordRelease ord) fun s =>
      let va := s.cur.readX rs1
      if s.belowWatermark s.curCore s.cur.asid va.toNat 16 then .hold s.waitStall
      else
        match s.objAddr va.toNat 16 16 true with
        | (.error (cause, info), _) => .trap cause info va
        | (.ok tr, s') =>
          match s.movesTo va.toNat true with
          | some home => (s.peeked va.toNat).leaveFor home
          | none =>
            .done (s'.sendRmw va.toNat 16 tr (.stf (s.cur.readX rs2)) ((ordRelease ord).getD .core) none
              (.future (.x s.cur.bank rd))) [.later (.x rd), .later .fut] none

/-! ### Groups (R229) -/

/-- `join` (R229). The task issues nothing before the answer. -/
def execJoin (st : Fin 8) (rd rs1 : Fin 32) (s : State) : Out1 :=
  s.issueWith { st := st, reads := [.x rs1], writes := [.x rd] } fun s =>
    let va := s.cur.readX rs1
    match s.objAddr va.toNat 64 64 false with
    | (.error (cause, info), _) => .trap cause info va
    | (.ok tr, s) =>
      if s.cur.groups.contains va.toNat then .done s (nowX rd 3) none
      else if 4 ≤ s.cur.groups.length then .done s (nowX rd 2) none
      else
        let s := s.sendObj va.toNat 64 tr .join .core none (.group (.x s.cur.bank rd) va.toNat true) true
        .done (s.holdFor (s.nextId - 1)) [.later (.x rd)] none

/-- `leave` (R229). -/
def execLeave (st : Fin 8) (rd rs1 : Fin 32) (s : State) : Out1 :=
  s.issueWith { st := st, reads := [.x rs1], writes := [.x rd] } fun s =>
    let va := s.cur.readX rs1
    match s.objAddr va.toNat 64 64 false with
    | (.error (cause, info), _) => .trap cause info va
    | (.ok tr, s) =>
      if !s.cur.groups.contains va.toNat then .done s (nowX rd 3) none
      else
        let s := s.sendObj va.toNat 64 tr .leave .core none (.group (.x s.cur.bank rd) va.toNat false) true
        .done (s.holdFor (s.nextId - 1)) [.later (.x rd)] none

/-! ### Barriers (R230 to R232) -/

/-- `bari` (R230). -/
def execBari (st : Fin 8) (rd rs1 rs2 : Fin 32) (s : State) : Out1 :=
  s.issueWith { st := st, reads := [.x rs1, .x rs2], writes := [.x rd] } fun s =>
    s.afterGate (some .package) fun s =>
      let va := s.cur.readX rs1
      let c := s.cur.readX rs2
      match s.objAddr va.toNat 128 128 false with
      | (.error (cause, info), _) => .trap cause info va
      | (.ok tr, s) =>
        let core := bitsOf c.toNat 46 36
        let ok := core ≤ 1535 && s.inMask s.cur core
        .done (s.sendObj va.toNat 128 tr (.bari c ok s.cur.job s.cur.launch) .package none (.value (.x s.cur.bank rd) 8 false)
          true) [.later (.x rd)] none

/-- `barv` (R231). -/
def execBarv (st : Fin 8) (rd rs1 : Fin 32) (scope : Fin 8) (s : State) : Out1 :=
  s.issueWith { st := st, reads := [.x rs1], writes := [.x rd] } fun s =>
    let sc := Scope.ofBits scope
    s.afterGate (some sc) fun s =>
      let va := s.cur.readX rs1
      match s.objAddr va.toNat 128 128 false with
      | (.error (cause, info), _) => .trap cause info va
      | (.ok tr, s) =>
        .done (s.sendObj va.toNat 128 tr .barv sc none (.value (.x s.cur.bank rd) 8 false) true) [.later (.x rd)] none

/-- `barw` (R232). The task parks until the answer, whose scope its acquire takes. -/
def execBarw (st : Fin 8) (rd rs1 rs2 : Fin 32) (s : State) : Out1 :=
  s.issueWith { st := st, reads := [.x rs1, .x rs2], writes := [.x rd], kill := true } fun s =>
    let va := s.cur.readX rs1
    match s.objAddr va.toNat 128 128 false with
    | (.error (cause, info), _) => .trap cause info va
    | (.ok tr, s) =>
      let s := s.sendObj va.toNat 128 tr (.barw (w64 (bitsOf (s.cur.readX rs2).toNat 31 0))) .core none
        (.answer (.x s.cur.bank rd)) false
      .done (s.parkFor (s.nextId - 1)) [.later (.x rd)] none

end Sys2Proof.Machine
end

