-- ==== Sys2Proof/Machine/TaskOps.lean ====
section
/-!
DEFINITION. Sys2Proof/Machine/TaskOps.lean: the task instructions and the instructions of bounded tasks and incumbents as
an issuing task performs them (R216 to R223, R341 to R347).
-/
namespace Sys2Proof.Machine

/-! ### Objects in the own scratchpad (R217) -/

/-- The checks of an object of `n` bytes in the own scratchpad: the window, the alignment, the bounds. Answers its offset. -/
def State.ownObj (s : State) (va align n : Nat) : Except (Nat × Nat) Nat :=
  match placeOf va with
  | .own off =>
    if va % align ≠ 0 then .error (0x04, 0)
    else if s.here.spsize < off + n then .error (0x14, 0)
    else .ok off
  | _ => .error (0x11, 0)

/-! ### `spawn` and `spawnb` (R217, R342) -/

/-- What the checks of `spawn` come to: a trap, or the message and its target. -/
inductive Spawn where
  | trap (cause info : Nat) (fb : W64)
  | ok (m : TaskMsg) (target : Nat)
  deriving DecidableEq, Repr

/-- The checks of R217, the message's BD, INC and BOUND as read. A poisoned byte of the message traps (R459). -/
def State.spawnCheck (s : State) (va tgt : W64) : Spawn :=
  match s.ownObj va.toNat 64 64 with
  | .error (cause, info) => .trap cause info va
  | .ok off =>
    let b := s.here.spBytes off 64
    let w := wordsOf (PByte.vals b) 8
    let m := { TaskMsg.ofWords w with job := s.cur.job }
    let t := if tgt == BitVec.allOnes 64 then s.curCore else tgt.toNat
    if PByte.anyBad b then .trap 0x13 0 va
    else if m.hnd % 4 != 0 then .trap 0x04 0 va
    else if m.role == 3 || nth 0 w 7 != 0 then .trap 0x02 0 0
    else if 1535 < t || !s.inMask s.cur t then .trap 0x11 0 (w64 t)
    else .ok m t

/-- The scope at which a child's message is released and acquired (R173, R417). -/
def State.spawnScope (s : State) (m : TaskMsg) (target : Nat) : Scope :=
  if m.key = 0 then scopeOf s.curCore target else .package

/-- Sends a message for the task at issue, which parks until it is accepted (R127, R173); the acceptance then writes 0 to the
register of `spawnb` (R342). -/
def State.sendChild (s : State) (m : TaskMsg) (target : Nat) (reg : Option Reg) : State :=
  let f : Flight :=
    { msg := m, launch := s.cur.launch, target := target, sender := .core s.curCore, ctx := s.curCtx, uid := s.cur.uid,
      acq := some (s.spawnScope m target), counted := false }
  let s := { s with msgs := s.msgs ++ [f] }
  s.updCur (fun t => { t with wait := .message reg, phase := .parked, waitFrom := some s.now })

/-- `spawn` (R217). -/
def execSpawn (st : Fin 8) (rs1 rs2 : Fin 32) (s : State) : Out1 :=
  s.issueWith { st := st, reads := [.x rs1, .x rs2], kill := true, bound := true } fun s =>
    match s.spawnCheck (s.cur.readX rs1) (s.cur.readX rs2) with
    | .trap cause info fb => .trap cause info fb
    | .ok m target =>
      s.afterGate (some (s.spawnScope m target)) fun s =>
        .done (s.sendChild { m with bd := false, inc := 0, bound := 0 } target none) [] none

/-- `spawnb` (R342). -/
def execSpawnb (st : Fin 8) (rd rs1 rs2 : Fin 32) (s : State) : Out1 :=
  s.issueWith { st := st, reads := [.x rs1, .x rs2], writes := [.x rd], kill := true, bound := true } fun s =>
    match s.spawnCheck (s.cur.readX rs1) (s.cur.readX rs2) with
    | .trap cause info fb => .trap cause info fb
    | .ok m target =>
      if boundCheck (s.here.shadow.get {} m.inc) s.cur.asid s.cur.job m.bound then .done s (nowX rd 1) none
      else
        s.afterGate (some (s.spawnScope m target)) fun s =>
          .done (s.sendChild { m with bd := true } target (some (.x s.cur.bank rd))) [] none

/-! ### The other task instructions -/

/-- `end` (R218). The results that are still to come are written first (R102, R110). -/
def execEndTask (st : Fin 8) (s : State) : Out1 :=
  s.issueWith { st := st } fun s =>
    if s.cur.var.isEmpty then .gone (s.slotUsed.endTask s.curCore s.curCtx) else .hold s

/-- `park` (R219). -/
def execPark (st : Fin 8) (rd rs1 rs2 : Fin 32) (s : State) : Out1 :=
  s.issueWith { st := st, reads := [.x rs1, .x rs2], writes := [.x rd], kill := true, bound := true } fun s =>
    let va := s.cur.readX rs1
    match s.ownObj va.toNat 8 8 with
    | .error (cause, info) => .trap cause info va
    | .ok off =>
      let b := s.here.spBytes off 8
      let w := w64 (leNat (PByte.vals b))
      if PByte.anyBad b then .trap 0x13 0 va
      else if w ≠ s.cur.readX rs2 then .done s (nowX rd w) none
      else
        .done (s.updCur (fun t =>
          { t with wait := .word off (.x t.bank rd), phase := .parked, waitFrom := some s.now })) [] none

/-- `yield` (R220). -/
def execYield (st : Fin 8) (s : State) : Out1 :=
  s.issueWith { st := st } fun s => .done (s.updCur (fun t => { t with yielded := some s.cycle })) [] none

/-- Appends a request of the task at issue to a unit that is no memory: the hub or a queue agent. -/
def State.sendUnit (s : State) (home : Home) (op : HomeOp) (acq : Option Scope) (dest : Dest) : State :=
  s.enqueue s.curCore { s.taskReq home op 0 0 .package dest with acq := acq } false true

/-- `qput` (R221): the record's bytes are read at issue, their poison with them (R121). -/
def execQput (st : Fin 8) (rd rs1 rs2 : Fin 32) (s : State) : Out1 :=
  s.issueWith { st := st, reads := [.x rs1, .x rs2], writes := [.x rd] } fun s =>
    let va := s.cur.readX rs1
    match s.ownObj va.toNat 128 128 with
    | .error (cause, info) => .trap cause info va
    | .ok off =>
      let q := (s.cur.readX rs2).toNat
      s.afterGate (some .package) fun s =>
        if 255 < q then .done s (nowX rd 3) none
        else
          .done (s.sendUnit (.queueAgent (q / 64)) (.qput q (s.here.spBytes off 128) s.cur.sup) none
            (.value (.x s.cur.bank rd) 8 false)) [.later (.x rd)] none

/-- `cancel` (R223): on its way to the four queue agents. -/
def execCancel (st : Fin 8) (rd rs1 : Fin 32) (s : State) : Out1 :=
  s.issueWith { st := st, reads := [.x rs1], writes := [.x rd] } fun s =>
    let v := (s.cur.readX rs1).toNat
    let op : CancelOp :=
      { core := s.curCore, ctx := s.curCtx, uid := s.cur.uid, reg := .x s.cur.bank rd,
        asid := if s.cur.sup then bitsOf v 37 32 else s.cur.asid, job := bitsOf v 31 0, todo := [0, 1, 2, 3] }
    .done { s with cancelOps := s.cancelOps ++ [op] } [.later (.x rd)] none

/-! ### Bounds and incumbents -/

/-- `setbnd` (R343). -/
def execSetbnd (st : Fin 8) (rd rs1 : Fin 32) (inc : Fin 16) (s : State) : Out1 :=
  s.issueWith { st := st, reads := [.x rs1], writes := [.x rd] } fun s =>
    let b := bitsOf (s.cur.readX rs1).toNat 31 0
    let t := s.cur
    let sh := s.here.shadow.get {} inc
    if !t.bd then .done (s.updCur (fun t => { t with bd := true, inc := inc, bound := b })) (nowX rd 0) none
    else if t.inc ≠ inc then .done s (nowX rd 1) none
    else
      let b := if bitOf sh.bind 38 then tighter sh.mode t.bound b else b
      .done (s.updCur (fun t => { t with bound := b })) (nowX rd 0) none

/-- `killpt` (R344). -/
def execKillpt (st : Fin 8) (s : State) : Out1 :=
  s.issueWith { st := st, kill := true, bound := true } fun s => .done s [] none

/-- `improve` (R345). The task issues nothing before the hub's answer, which may be a trap. -/
def execImprove (st : Fin 8) (rd rs1 : Fin 32) (inc : Fin 16) (s : State) : Out1 :=
  s.issueWith { st := st, reads := [.x rs1], writes := [.x rd] } fun s =>
    s.afterGate (some .package) fun s =>
      let op := HomeOp.improve inc (s.cur.readX rs1) s.cur.sup s.cur.job
      let s := s.sendUnit .hub op none (.answer (.x s.cur.bank rd))
      .done (s.holdFor (s.nextId - 1)) [.later (.x rd)] none

/-- `rdinc` (R346). -/
def execRdinc (st : Fin 8) (rd : Fin 32) (inc : Fin 16) (acq hub : Fin 2) (s : State) : Out1 :=
  s.issueWith { st := st, writes := [.x rd] } fun s =>
    let acq? := if acq == 1 then some Scope.package else none
    if hub == 1 then
      let s := s.sendUnit .hub (.rdinc inc s.cur.sup s.cur.job) acq? (.answer (.x s.cur.bank rd))
      .done (s.holdFor (s.nextId - 1)) [.later (.x rd)] none
    else
      let sh := s.here.shadow.get {} inc
      if !s.cur.sup && sh.bind != bindWord s.cur.asid s.cur.job then .trap 0x11 0 (w64 inc.val)
      else .done (if acq == 1 then s.acquire s.curCore .package else s) (nowX rd sh.key) none

/-- `incset` (R347). -/
def execIncset (st : Fin 8) (rd rs1 rs2 : Fin 32) (s : State) : Out1 :=
  s.issueWith { st := st, reads := [.x rs1, .x rs2], writes := [.x rd], sup := true } fun s =>
    let c := (s.cur.readX rs2).toNat
    if bitsOf c 31 22 ≠ 0 ∨ bitsOf c 15 9 ≠ 0 ∨ bitsOf c 7 7 ≠ 0 then .done s (nowX rd 1) none
    else
      s.afterGate (some .package) fun s =>
        let bind := if bitOf c 8 then bindWord (bitsOf c 21 16) (bitsOf c 63 32) else 0
        .done (s.sendUnit .hub (.incset (bitsOf c 3 0) (s.cur.readX rs1) (bitsOf c 6 4) bind) none
          (.value (.x s.cur.bank rd) 8 false)) [.later (.x rd)] none

end Sys2Proof.Machine
end

