-- ==== Sys2Proof/Machine/Vector.lean ====
section
/-!
DEFINITION. Sys2Proof/Machine/Vector.lean: the `fmt` prefix (R103, R104), the claim instructions (R252 to R255) and the
vector groups VMEM, VINT, VFP, VMISC, VSFU and VCVT (R256 to R271).
-/
namespace Sys2Proof.Machine
open Sys2Proof.Fp

/-- `fmt` (R103, R104): loads the prefix state and sets PP. -/
def execFmt (fa fb fd : Fin 16) (sc : Fin 8) (rm : Fin 4) (sat amax : Fin 2) (s : State) : Out1 :=
  s.issueWith { st := 0 } fun s =>
    let p : Prefix := { fa := fa, fb := fb, fd := fd, sc := sc, rm := rm, sa := sat, am := amax }
    .done (s.updCur (fun t => { t with pfx := p }.setPp true)) [] none

/-! ### Claims (R253 to R255) -/

/-- `vclaim` (R253); `waits` tells the waiting form. -/
def claimOp (st lmax lmin xd : Nat) (waits : Bool) (s : State) : Out1 :=
  s.issueWith { st := st, writes := [.x xd] } fun s =>
    let o := s.curCore / 8
    match s.cur.claim with
    | some c => .done s (nowX xd (w64 c.lanes)) none
    | none =>
      match (if (s.poolQueue o).isEmpty && s.poolSlot o then pickLanes (lanesOf lmin) (lanesOf lmax) (s.poolFree o) else none) with
      | some l => .done (s.updCur (fun t => { t with claim := some (newClaim l) })) (nowX xd (w64 l)) none
      | none =>
        if !waits then .done s (nowX xd 0) none
        else if s.cur.killed then .gone s.takeKill
        else
          let r : PoolReq := { core := s.curCore, ctx := s.curCtx, uid := s.cur.uid, lmin := lanesOf lmin, lmax := lanesOf lmax }
          let s := { s with pools := s.pools.set o (s.poolQueue o ++ [r]) }
          let s := s.updCur (fun t =>
            { t with wait := .pool (.x t.bank xd), phase := .parked, waitFrom := some s.now })
          .done (s.poolRun o) [] none

/-- `vclaim` with a final 0 (R252, R253). -/
def execVclaimTry (st : Fin 8) (lmax lmin : Fin 4) (xd : Fin 32) (s : State) : Out1 := claimOp st lmax lmin xd false s
/-- `vclaim` with a final 1 (R252, R253). -/
def execVclaimWait (st : Fin 8) (lmax lmin : Fin 4) (xd : Fin 32) (s : State) : Out1 := claimOp st lmax lmin xd true s

/-- Whether a register belongs to the vector pool. -/
def Reg.isLane : Reg → Bool
  | .v _ => true
  | .k _ => true
  | _ => false

/-- An interlocked v or k result is still to come (R254, R255). -/
def Ctx.laneVar (t : Ctx) : Bool := t.var.any Reg.isLane

/-- Settles the pending v and k results (R254). -/
def Ctx.settleLanes (t : Ctx) : Ctx :=
  { (t.pend.filter (fun p => p.reg.isLane)).foldl Ctx.commit t with pend := t.pend.filter (fun p => !p.reg.isLane) }

/-- A claim at another lane count (R254). -/
def Claim.resize (c : Claim) (l : Nat) : Claim :=
  { lanes := l,
    v := c.v.map (fun e => (e.1, (natsFrom 0 l).map (fun j => if j < c.lanes then nth 0 e.2 j else 0))),
    k := c.k.map (fun e => (e.1, (natsFrom 0 l).map (fun j => j < c.lanes && nth false e.2 j))) }

/-- `vren` (R254). -/
def execVren (st : Fin 8) (lmax lmin : Fin 4) (xd : Fin 32) (s : State) : Out1 :=
  s.issueWith { st := st, writes := [.x xd], lanes := true } fun s =>
    let o := s.curCore / 8
    if s.cur.laneVar then .hold s
    else
      let s := s.updCur Ctx.settleLanes
      match s.cur.claim with
      | none => .done s (nowX xd 0) none
      | some c =>
        let avail := s.poolFree o + c.lanes
        let avail := if (s.poolQueue o).isEmpty then avail else min avail c.lanes
        match pickLanes (lanesOf lmin) (lanesOf lmax) avail with
        | none => .done s (nowX xd 0) none
        | some l =>
          let s := s.updCur (fun t => { t with claim := some (c.resize l) })
          .done (s.poolRun o) (nowX xd (w64 l)) none

/-- `vrel` (R255). -/
def execVrel (st : Fin 8) (s : State) : Out1 :=
  s.issueWith { st := st } fun s =>
    if s.cur.laneVar then .hold s
    else
      let s := s.updCur (fun t => { t.settleLanes with claim := none })
      .done (s.poolRun (s.curCore / 8)) [] none

/-! ### Lanes (R256, R257) -/

/-- The second operand of a lane instruction: a v register, or an x register given to every lane. -/
inductive VSrc where
  | v (i : Nat)
  | x (i : Nat)
  deriving DecidableEq, Repr

def VSrc.name : VSrc → RName
  | .v i => .v i
  | .x i => .x i

/-- The operand's lanes. -/
def VSrc.read (t : Ctx) : VSrc → List W32
  | .v i => t.readV i
  | .x i => List.replicate t.lanes ((t.readX i).setWidth 32)

/-- The lane numbers of the claim. -/
def Ctx.laneNos (t : Ctx) : List Nat := natsFrom 0 t.lanes

/-- The destination with the results of the active lanes (R257). -/
def Ctx.merge (t : Ctx) (mk : Nat) (old new : List W32) : List W32 :=
  t.laneNos.map (fun l => if t.active mk l then nth 0 new l else nth 0 old l)

/-- The results of the active lanes. -/
def Ctx.actives (t : Ctx) (mk : Nat) (vs : List W32) : List W32 :=
  (t.laneNos.filter (fun l => t.active mk l)).map (nth 0 vs)

/-- The frame of a lane instruction: its registers in field order, with the destination read when a mask is named. -/
def laneDesc (st vd mk : Nat) (srcs : List RName) (target : Bool) : Desc :=
  { st := st, reads := (if mk = 0 then [] else [RName.v vd]) ++ srcs, mask := mk, writes := [.v vd], target := target,
    lanes := true, pool := true }

/-- An integer lane instruction (R257, R262). -/
def vInt (st vd vs1 : Nat) (b : VSrc) (mk lat : Nat) (f : W32 → W32 → W32) (s : State) : Out1 :=
  s.issueWith (laneDesc st vd mk [.v vs1, b.name] false) fun s =>
    let t := s.cur
    let r := List.zipWith f (t.readV vs1) (b.read t)
    .done s [.fixed (.v vd) (.lanes (t.merge mk (t.readV vd) r)) lat] none

/-- A float lane instruction (R258, R263): `f` is given the rounding, a, b and the old lane of the destination. -/
def vFloat (st vd vs1 : Nat) (b : VSrc) (mk : Nat) (readsVd : Bool) (f : Rounding → Nat → Nat → Nat → Nat) (s : State) : Out1 :=
  let d := laneDesc st vd mk [.v vs1, b.name] true
  s.issueWith { d with reads := if readsVd && mk == 0 then .v vd :: d.reads else d.reads } fun s =>
    let t := s.cur
    match t.rounding with
    | none => .trap 0x02 0 0
    | some r =>
      let old := t.readV vd
      let new := List.zipWith (fun (ab : W32 × W32) c => BitVec.ofNat 32 (f r ab.1.toNat ab.2.toNat c.toNat))
        (List.zip (t.readV vs1) (b.read t)) old
      let s := s.updCur (·.fold r.am ((t.actives mk new).map (fun w => f32 w.toNat)))
      .done s [.fixed (.v vd) (.lanes (t.merge mk old new)) 6] none

/-- A special function (R268). -/
def vSfu (st vd vs1 mk : Nat) (f : Exact → Exact) (s : State) : Out1 :=
  s.issueWith (laneDesc st vd mk [.v vs1] true) fun s =>
    let t := s.cur
    match t.rounding with
    | none => .trap 0x02 0 0
    | some r =>
      let new := (t.readV vs1).map (fun w => BitVec.ofNat 32 (fp32.rnd (f (f32 w.toNat)) r.rm r.sat))
      let s := s.updCur (·.fold r.am ((t.actives mk new).map (fun w => f32 w.toNat)))
      .done s [.fixed (.v vd) (.lanes (t.merge mk (t.readV vd) new)) 12] none

/-! ### Vector memory (R259 to R261) -/

/-- The lane offsets of an addressing kind. -/
inductive VIdx where
  | unit
  | stride (xs : Nat)
  | index (vi : Nat)
  deriving DecidableEq, Repr

def VIdx.names : VIdx → List RName
  | .unit => []
  | .stride x => [.x x]
  | .index v => [.v v]

/-- The address of lane `l` for elements of `n` bytes (R260). -/
def VIdx.addr (t : Ctx) (base n : Nat) (ix : VIdx) (l : Nat) : Nat :=
  let b := t.readX base
  match ix with
  | .unit => (b + w64 (l * n)).toNat
  | .stride x => (b + w64 l * t.readX x).toNat
  | .index v => (b + (nth 0 (t.readV v) l).setWidth 64).toNat

/-- The first cause that the active lanes meet, in lane order. -/
def State.laneTrap (s : State) (n : Nat) : List Nat → Option (Nat × W64)
  | [] => none
  | va :: rest =>
    if va % n ≠ 0 then some (0x04, w64 va)
    else
      match placeOf va with
      | .own off => if s.here.spsize < off + n then some (0x14, w64 va) else s.laneTrap n rest
      | _ => some (0x11, w64 va)

/-- The address of the first active lane that reads a poisoned byte (R459). -/
def State.lanePoison (s : State) (n : Nat) (vas : List Nat) : Option Nat :=
  vas.find? (fun va => poisonedIn s.here.spadPoison (va % 2 ^ 20) n)

/-- Whether a lane lies below a copy watermark (R261, R386). -/
def State.laneWaits (s : State) (n : Nat) (vas : List Nat) : Bool :=
  vas.any (fun va => s.belowWatermark s.curCore s.cur.asid va n)

/-- A vector load (R260): the lanes of the own scratchpad, zero-extended, read in one step. -/
def vLoad (st vd base : Nat) (ix : VIdx) (mk sz : Nat) (s : State) : Out1 :=
  s.issueWith (laneDesc st vd mk (.x base :: ix.names) false) fun s =>
    let t := s.cur
    let n := 2 ^ sz
    let vas := (t.laneNos.filter (fun l => t.active mk l)).map (ix.addr t base n)
    match s.laneTrap n vas with
    | some (cause, fb) => .trap cause 0 fb
    | none =>
      if s.laneWaits n vas then .hold s.waitStall
      else
        match s.lanePoison n vas with
        | some va => .trap 0x13 0 (w64 va)
        | none =>
          let new := t.laneNos.map (fun l =>
            BitVec.ofNat 32 (leNat (Memory.bytes s.here.spad (ix.addr t base n l % 2 ^ 20) n)))
          .done s [.now (.v vd) (.lanes (t.merge mk (t.readV vd) new))] none

/-- A vector store (R260): the active lanes in increasing order. -/
def vStore (st vs base : Nat) (ix : VIdx) (mk sz : Nat) (s : State) : Out1 :=
  s.issueWith { st := st, reads := .v vs :: .x base :: ix.names, mask := mk, lanes := true, pool := true } fun s =>
    let t := s.cur
    let n := 2 ^ sz
    let act := t.laneNos.filter (fun l => t.active mk l)
    let vas := act.map (ix.addr t base n)
    match s.laneTrap n vas with
    | some (cause, fb) => .trap cause 0 fb
    | none =>
      if s.laneWaits n vas then .hold s.waitStall
      else
        .done (act.foldl (fun s l =>
          s.spWrite s.curCore (ix.addr t base n l % 2 ^ 20) (PByte.clean (leBytes (nth 0 (t.readV vs) l).toNat n))) s) [] none

/-- `vld` (R259). -/
def execVld (st : Fin 8) (v : Fin 16) (xs1 : Fin 32) (mk sz : Fin 4) (s : State) : Out1 := vLoad st v xs1 .unit mk sz s
/-- `vlds` (R259). -/
def execVlds (st : Fin 8) (v : Fin 16) (xs1 xs2 : Fin 32) (mk sz : Fin 4) (s : State) : Out1 :=
  vLoad st v xs1 (.stride xs2) mk sz s
/-- `vldx` (R259). -/
def execVldx (st : Fin 8) (v : Fin 16) (xs1 : Fin 32) (vi : Fin 16) (mk sz : Fin 4) (s : State) : Out1 :=
  vLoad st v xs1 (.index vi) mk sz s
/-- `vst` (R259). -/
def execVst (st : Fin 8) (v : Fin 16) (xs1 : Fin 32) (mk sz : Fin 4) (s : State) : Out1 := vStore st v xs1 .unit mk sz s
/-- `vsts` (R259). -/
def execVsts (st : Fin 8) (v : Fin 16) (xs1 xs2 : Fin 32) (mk sz : Fin 4) (s : State) : Out1 :=
  vStore st v xs1 (.stride xs2) mk sz s
/-- `vstx` (R259). -/
def execVstx (st : Fin 8) (v : Fin 16) (xs1 : Fin 32) (vi : Fin 16) (mk sz : Fin 4) (s : State) : Out1 :=
  vStore st v xs1 (.index vi) mk sz s

/-! ### Integer lanes (R262) -/

def vmulhLane (a b : W32) : W32 := BitVec.ofInt 32 (a.toInt * b.toInt / (2 ^ 32 : Nat))
def vsllLane (a b : W32) : W32 := a <<< (b.toNat % 32)
def vsrlLane (a b : W32) : W32 := a >>> (b.toNat % 32)
def vsraLane (a b : W32) : W32 := a.sshiftRight (b.toNat % 32)

/-- `vadd`, VV form (R262). -/
def execVaddVv (st : Fin 8) (vd vs1 vs2 : Fin 16) (mk : Fin 4) (s : State) : Out1 :=
  vInt st vd vs1 (.v vs2) mk 4 (fun a b => a + b) s
/-- `vadd`, VX form (R262). -/
def execVaddVx (st : Fin 8) (vd vs1 : Fin 16) (xs : Fin 32) (mk : Fin 4) (s : State) : Out1 :=
  vInt st vd vs1 (.x xs) mk 4 (fun a b => a + b) s
/-- `vsub`, VV form (R262). -/
def execVsubVv (st : Fin 8) (vd vs1 vs2 : Fin 16) (mk : Fin 4) (s : State) : Out1 :=
  vInt st vd vs1 (.v vs2) mk 4 (fun a b => a - b) s
/-- `vsub`, VX form (R262). -/
def execVsubVx (st : Fin 8) (vd vs1 : Fin 16) (xs : Fin 32) (mk : Fin 4) (s : State) : Out1 :=
  vInt st vd vs1 (.x xs) mk 4 (fun a b => a - b) s
/-- `vmul`, VV form (R262). -/
def execVmulVv (st : Fin 8) (vd vs1 vs2 : Fin 16) (mk : Fin 4) (s : State) : Out1 :=
  vInt st vd vs1 (.v vs2) mk 4 (fun a b => a * b) s
/-- `vmul`, VX form (R262). -/
def execVmulVx (st : Fin 8) (vd vs1 : Fin 16) (xs : Fin 32) (mk : Fin 4) (s : State) : Out1 :=
  vInt st vd vs1 (.x xs) mk 4 (fun a b => a * b) s
/-- `vmulh`, VV form (R262). -/
def execVmulhVv (st : Fin 8) (vd vs1 vs2 : Fin 16) (mk : Fin 4) (s : State) : Out1 :=
  vInt st vd vs1 (.v vs2) mk 4 vmulhLane s
/-- `vmulh`, VX form (R262). -/
def execVmulhVx (st : Fin 8) (vd vs1 : Fin 16) (xs : Fin 32) (mk : Fin 4) (s : State) : Out1 :=
  vInt st vd vs1 (.x xs) mk 4 vmulhLane s
/-- `vmin`, VV form (R262). -/
def execVminVv (st : Fin 8) (vd vs1 vs2 : Fin 16) (mk : Fin 4) (s : State) : Out1 :=
  vInt st vd vs1 (.v vs2) mk 4 (fun a b => if b.slt a then b else a) s
/-- `vmin`, VX form (R262). -/
def execVminVx (st : Fin 8) (vd vs1 : Fin 16) (xs : Fin 32) (mk : Fin 4) (s : State) : Out1 :=
  vInt st vd vs1 (.x xs) mk 4 (fun a b => if b.slt a then b else a) s
/-- `vmax`, VV form (R262). -/
def execVmaxVv (st : Fin 8) (vd vs1 vs2 : Fin 16) (mk : Fin 4) (s : State) : Out1 :=
  vInt st vd vs1 (.v vs2) mk 4 (fun a b => if a.slt b then b else a) s
/-- `vmax`, VX form (R262). -/
def execVmaxVx (st : Fin 8) (vd vs1 : Fin 16) (xs : Fin 32) (mk : Fin 4) (s : State) : Out1 :=
  vInt st vd vs1 (.x xs) mk 4 (fun a b => if a.slt b then b else a) s
/-- `vminu`, VV form (R262). -/
def execVminuVv (st : Fin 8) (vd vs1 vs2 : Fin 16) (mk : Fin 4) (s : State) : Out1 :=
  vInt st vd vs1 (.v vs2) mk 4 (fun a b => if b.ult a then b else a) s
/-- `vminu`, VX form (R262). -/
def execVminuVx (st : Fin 8) (vd vs1 : Fin 16) (xs : Fin 32) (mk : Fin 4) (s : State) : Out1 :=
  vInt st vd vs1 (.x xs) mk 4 (fun a b => if b.ult a then b else a) s
/-- `vmaxu`, VV form (R262). -/
def execVmaxuVv (st : Fin 8) (vd vs1 vs2 : Fin 16) (mk : Fin 4) (s : State) : Out1 :=
  vInt st vd vs1 (.v vs2) mk 4 (fun a b => if a.ult b then b else a) s
/-- `vmaxu`, VX form (R262). -/
def execVmaxuVx (st : Fin 8) (vd vs1 : Fin 16) (xs : Fin 32) (mk : Fin 4) (s : State) : Out1 :=
  vInt st vd vs1 (.x xs) mk 4 (fun a b => if a.ult b then b else a) s
/-- `vand`, VV form (R262). -/
def execVandVv (st : Fin 8) (vd vs1 vs2 : Fin 16) (mk : Fin 4) (s : State) : Out1 :=
  vInt st vd vs1 (.v vs2) mk 4 (fun a b => a &&& b) s
/-- `vand`, VX form (R262). -/
def execVandVx (st : Fin 8) (vd vs1 : Fin 16) (xs : Fin 32) (mk : Fin 4) (s : State) : Out1 :=
  vInt st vd vs1 (.x xs) mk 4 (fun a b => a &&& b) s
/-- `vor`, VV form (R262). -/
def execVorVv (st : Fin 8) (vd vs1 vs2 : Fin 16) (mk : Fin 4) (s : State) : Out1 :=
  vInt st vd vs1 (.v vs2) mk 4 (fun a b => a ||| b) s
/-- `vor`, VX form (R262). -/
def execVorVx (st : Fin 8) (vd vs1 : Fin 16) (xs : Fin 32) (mk : Fin 4) (s : State) : Out1 :=
  vInt st vd vs1 (.x xs) mk 4 (fun a b => a ||| b) s
/-- `vxor`, VV form (R262). -/
def execVxorVv (st : Fin 8) (vd vs1 vs2 : Fin 16) (mk : Fin 4) (s : State) : Out1 :=
  vInt st vd vs1 (.v vs2) mk 4 (fun a b => a ^^^ b) s
/-- `vxor`, VX form (R262). -/
def execVxorVx (st : Fin 8) (vd vs1 : Fin 16) (xs : Fin 32) (mk : Fin 4) (s : State) : Out1 :=
  vInt st vd vs1 (.x xs) mk 4 (fun a b => a ^^^ b) s
/-- `vsll`, VV form (R262). -/
def execVsllVv (st : Fin 8) (vd vs1 vs2 : Fin 16) (mk : Fin 4) (s : State) : Out1 :=
  vInt st vd vs1 (.v vs2) mk 4 vsllLane s
/-- `vsll`, VX form (R262). -/
def execVsllVx (st : Fin 8) (vd vs1 : Fin 16) (xs : Fin 32) (mk : Fin 4) (s : State) : Out1 :=
  vInt st vd vs1 (.x xs) mk 4 vsllLane s
/-- `vsrl`, VV form (R262). -/
def execVsrlVv (st : Fin 8) (vd vs1 vs2 : Fin 16) (mk : Fin 4) (s : State) : Out1 :=
  vInt st vd vs1 (.v vs2) mk 4 vsrlLane s
/-- `vsrl`, VX form (R262). -/
def execVsrlVx (st : Fin 8) (vd vs1 : Fin 16) (xs : Fin 32) (mk : Fin 4) (s : State) : Out1 :=
  vInt st vd vs1 (.x xs) mk 4 vsrlLane s
/-- `vsra`, VV form (R262). -/
def execVsraVv (st : Fin 8) (vd vs1 vs2 : Fin 16) (mk : Fin 4) (s : State) : Out1 :=
  vInt st vd vs1 (.v vs2) mk 4 vsraLane s
/-- `vsra`, VX form (R262). -/
def execVsraVx (st : Fin 8) (vd vs1 : Fin 16) (xs : Fin 32) (mk : Fin 4) (s : State) : Out1 :=
  vInt st vd vs1 (.x xs) mk 4 vsraLane s

/-! ### Float lanes (R263) -/

/-- `vfadd`, VV form (R263). -/
def execVfaddVv (st : Fin 8) (vd vs1 vs2 : Fin 16) (mk : Fin 4) (s : State) : Out1 :=
  vFloat st vd vs1 (.v vs2) mk false (fun r a b _ => fp32.rnd ((f32 a).add r.rm (f32 b)) r.rm r.sat) s
/-- `vfadd`, VX form (R263). -/
def execVfaddVx (st : Fin 8) (vd vs1 : Fin 16) (xs : Fin 32) (mk : Fin 4) (s : State) : Out1 :=
  vFloat st vd vs1 (.x xs) mk false (fun r a b _ => fp32.rnd ((f32 a).add r.rm (f32 b)) r.rm r.sat) s
/-- `vfsub`, VV form (R263). -/
def execVfsubVv (st : Fin 8) (vd vs1 vs2 : Fin 16) (mk : Fin 4) (s : State) : Out1 :=
  vFloat st vd vs1 (.v vs2) mk false (fun r a b _ => fp32.rnd ((f32 a).add r.rm (f32 b).neg) r.rm r.sat) s
/-- `vfsub`, VX form (R263). -/
def execVfsubVx (st : Fin 8) (vd vs1 : Fin 16) (xs : Fin 32) (mk : Fin 4) (s : State) : Out1 :=
  vFloat st vd vs1 (.x xs) mk false (fun r a b _ => fp32.rnd ((f32 a).add r.rm (f32 b).neg) r.rm r.sat) s
/-- `vfmul`, VV form (R263). -/
def execVfmulVv (st : Fin 8) (vd vs1 vs2 : Fin 16) (mk : Fin 4) (s : State) : Out1 :=
  vFloat st vd vs1 (.v vs2) mk false (fun r a b _ => fp32.rnd ((f32 a).mul (f32 b)) r.rm r.sat) s
/-- `vfmul`, VX form (R263). -/
def execVfmulVx (st : Fin 8) (vd vs1 : Fin 16) (xs : Fin 32) (mk : Fin 4) (s : State) : Out1 :=
  vFloat st vd vs1 (.x xs) mk false (fun r a b _ => fp32.rnd ((f32 a).mul (f32 b)) r.rm r.sat) s
/-- `vfma`, VV form (R263). -/
def execVfmaVv (st : Fin 8) (vd vs1 vs2 : Fin 16) (mk : Fin 4) (s : State) : Out1 :=
  vFloat st vd vs1 (.v vs2) mk true (fun r a b c => fp32.rnd (((f32 a).mul (f32 b)).add r.rm (f32 c)) r.rm r.sat) s
/-- `vfma`, VX form (R263). -/
def execVfmaVx (st : Fin 8) (vd vs1 : Fin 16) (xs : Fin 32) (mk : Fin 4) (s : State) : Out1 :=
  vFloat st vd vs1 (.x xs) mk true (fun r a b c => fp32.rnd (((f32 a).mul (f32 b)).add r.rm (f32 c)) r.rm r.sat) s
/-- `vfnma`, VV form (R263). -/
def execVfnmaVv (st : Fin 8) (vd vs1 vs2 : Fin 16) (mk : Fin 4) (s : State) : Out1 :=
  vFloat st vd vs1 (.v vs2) mk true (fun r a b c => fp32.rnd (((f32 a).mul (f32 b)).neg.add r.rm (f32 c)) r.rm r.sat) s
/-- `vfnma`, VX form (R263). -/
def execVfnmaVx (st : Fin 8) (vd vs1 : Fin 16) (xs : Fin 32) (mk : Fin 4) (s : State) : Out1 :=
  vFloat st vd vs1 (.x xs) mk true (fun r a b c => fp32.rnd (((f32 a).mul (f32 b)).neg.add r.rm (f32 c)) r.rm r.sat) s
/-- `vfmin`, VV form (R263). -/
def execVfminVv (st : Fin 8) (vd vs1 vs2 : Fin 16) (mk : Fin 4) (s : State) : Out1 :=
  vFloat st vd vs1 (.v vs2) mk false (fun _ a b _ => fMin a b) s
/-- `vfmin`, VX form (R263). -/
def execVfminVx (st : Fin 8) (vd vs1 : Fin 16) (xs : Fin 32) (mk : Fin 4) (s : State) : Out1 :=
  vFloat st vd vs1 (.x xs) mk false (fun _ a b _ => fMin a b) s
/-- `vfmax`, VV form (R263). -/
def execVfmaxVv (st : Fin 8) (vd vs1 vs2 : Fin 16) (mk : Fin 4) (s : State) : Out1 :=
  vFloat st vd vs1 (.v vs2) mk false (fun _ a b _ => fMax a b) s
/-- `vfmax`, VX form (R263). -/
def execVfmaxVx (st : Fin 8) (vd vs1 : Fin 16) (xs : Fin 32) (mk : Fin 4) (s : State) : Out1 :=
  vFloat st vd vs1 (.x xs) mk false (fun _ a b _ => fMax a b) s

/-! ### Compare, select, masks, permutes and moves (R264 to R266) -/

/-- The condition of R265. -/
def vcmpLane (cc : Nat) (a b : W32) : Bool :=
  match cc with
  | 0 => a == b
  | 1 => a != b
  | 2 => a.slt b
  | 3 => a.ult b
  | 4 => a.sle b
  | 5 => a.ule b
  | 6 => fEq a.toNat b.toNat
  | 7 => !fEq a.toNat b.toNat
  | 8 => fLt a.toNat b.toNat
  | _ => fLe a.toNat b.toNat

/-- `vcmp` (R265): writes the active bits of kd. -/
def vCmp (st kd vs1 : Nat) (b : VSrc) (mk cc : Nat) (s : State) : Out1 :=
  s.issueWith
    { st := st, reads := (if mk = 0 then [] else [RName.k kd]) ++ [.v vs1, b.name], mask := mk, writes := [.k kd],
      lanes := true, pool := true } fun s =>
    let t := s.cur
    let r := List.zipWith (vcmpLane cc) (t.readV vs1) (b.read t)
    let new := t.laneNos.map (fun l => if t.active mk l then nth false r l else nth false (t.readK kd) l)
    .done s [.fixed (.k kd) (.mask new) 6] none

/-- `vcmp`, VV form (R264). -/
def execVcmpVv (st : Fin 8) (kd : Fin 4) (vs1 vs2 : Fin 16) (mk : Fin 4) (cc : Fin 16) (s : State) : Out1 :=
  vCmp st kd vs1 (.v vs2) mk cc s
/-- `vcmp`, VX form (R264). -/
def execVcmpVx (st : Fin 8) (kd : Fin 4) (vs1 : Fin 16) (xs : Fin 32) (mk : Fin 4) (cc : Fin 16) (s : State) : Out1 :=
  vCmp st kd vs1 (.x xs) mk cc s

/-- `vsel` (R266): mk selects between the operands, lane by lane. -/
def vSel (st vd vs1 : Nat) (b : VSrc) (mk : Nat) (s : State) : Out1 :=
  s.issueWith
    { st := st, reads := [.v vs1, b.name], mask := mk, writes := [.v vd], lanes := true, pool := true } fun s =>
    let t := s.cur
    .done s [.fixed (.v vd) (.lanes (t.merge mk (b.read t) (t.readV vs1))) 6] none

/-- `vsel`, VV form (R264). -/
def execVselVv (st : Fin 8) (vd vs1 vs2 : Fin 16) (mk : Fin 4) (s : State) : Out1 := vSel st vd vs1 (.v vs2) mk s
/-- `vsel`, VX form (R264). -/
def execVselVx (st : Fin 8) (vd vs1 : Fin 16) (xs : Fin 32) (mk : Fin 4) (s : State) : Out1 := vSel st vd vs1 (.x xs) mk s

/-- `vmand` and `vmor` (R266). -/
def vMask (st kd ka kb : Nat) (f : Bool → Bool → Bool) (s : State) : Out1 :=
  s.issueWith { st := st, reads := [.k ka, .k kb], writes := [.k kd], lanes := true, pool := true } fun s =>
    let t := s.cur
    .done s [.fixed (.k kd) (.mask (List.zipWith f (t.readK ka) (t.readK kb))) 6] none

/-- `vmand` (R264). -/
def execVmand (st : Fin 8) (kd ka kb : Fin 4) (s : State) : Out1 := vMask st kd ka kb and s
/-- `vmor` (R264). -/
def execVmor (st : Fin 8) (kd ka kb : Fin 4) (s : State) : Out1 := vMask st kd ka kb or s

/-- A move of lanes (R266): `f` gives each lane's result. -/
def vMove (st vd mk : Nat) (srcs : List RName) (f : Ctx → Nat → W32) (s : State) : Out1 :=
  s.issueWith (laneDesc st vd mk srcs false) fun s =>
    let t := s.cur
    .done s [.fixed (.v vd) (.lanes (t.merge mk (t.readV vd) (t.laneNos.map (f t)))) 6] none

/-- `vperm` (R266). -/
def execVperm (st : Fin 8) (vd vs1 vs2 : Fin 16) (mk : Fin 4) (s : State) : Out1 :=
  vMove st vd mk [.v vs1, .v vs2] (fun t l => nth 0 (t.readV vs1) ((nth 0 (t.readV vs2) l).toNat % t.lanes)) s

/-- The lane `s` places above lane `l`, 0 beyond the claim. -/
def slideLane (vs : List W32) (lanes : Nat) (shift : Int) (l : Nat) : W32 :=
  let i : Int := (l : Int) + shift
  if 0 ≤ i ∧ i < (lanes : Int) then nth 0 vs i.toNat else 0

/-- `vslide` (R266). -/
def execVslide (st : Fin 8) (vd vs1 : Fin 16) (xs : Fin 32) (mk : Fin 4) (s : State) : Out1 :=
  vMove st vd mk [.v vs1, .x xs] (fun t l => slideLane (t.readV vs1) t.lanes (t.readX xs).toInt l) s

/-- `vbcast` (R266). -/
def execVbcast (st : Fin 8) (vd : Fin 16) (xs : Fin 32) (mk : Fin 4) (s : State) : Out1 :=
  vMove st vd mk [.x xs] (fun t _ => (t.readX xs).setWidth 32) s

/-- `vmvxv` (R266): lane 0 alone; reads vd. -/
def execVmvxv (st : Fin 8) (vd : Fin 16) (xs : Fin 32) (s : State) : Out1 :=
  s.issueWith { st := st, reads := [.v vd, .x xs], writes := [.v vd], lanes := true, pool := true } fun s =>
    let t := s.cur
    .done s [.fixed (.v vd) (.lanes (setNth (t.readV vd) 0 ((t.readX xs).setWidth 32))) 6] none

/-- `vmvvx` (R266). -/
def execVmvvx (st : Fin 8) (vs1 : Fin 16) (xd : Fin 32) (s : State) : Out1 :=
  s.issueWith { st := st, reads := [.v vs1], writes := [.x xd], lanes := true, pool := true } fun s =>
    .done s (fixedX xd ((nth 0 (s.cur.readV vs1) 0).signExtend 64) 6) none

/-! ### Reductions (R267, R58) -/

/-- One level of the tree. -/
def pairUp (op : W32 → W32 → W32) : List W32 → List W32
  | a :: b :: l => op a b :: pairUp op l
  | l => l

/-- The tree over at most `n` levels. -/
def treeFold (op : W32 → W32 → W32) : Nat → List W32 → List W32
  | 0, l => l
  | n + 1, l => treeFold op n (pairUp op l)

/-- The identity of R267. -/
def redIdentity (rop : Nat) : W32 :=
  match rop with
  | 0 => 0x80000000
  | 1 => 0xFF800000
  | 2 => 0x7F800000
  | 4 => 0x80000000
  | 5 => 0x7FFFFFFF
  | 7 => 0xFFFFFFFF
  | 8 => 0xFFFFFFFF
  | _ => 0

/-- One step of R267. -/
def redStep (rop : Nat) (r : Rounding) (a b : W32) : W32 :=
  match rop with
  | 0 => BitVec.ofNat 32 (fp32.rnd ((f32 a.toNat).add r.rm (f32 b.toNat)) r.rm r.sat)
  | 1 => BitVec.ofNat 32 (fMax a.toNat b.toNat)
  | 2 => BitVec.ofNat 32 (fMin a.toNat b.toNat)
  | 3 => a + b
  | 4 => if a.slt b then b else a
  | 5 => if b.slt a then b else a
  | 6 => if a.ult b then b else a
  | 7 => if b.ult a then b else a
  | 8 => a &&& b
  | 9 => a ||| b
  | _ => a ^^^ b

/-- The result of `vred`. -/
def redResult (rop : Nat) (r : Rounding) (lanes : List W32) : W32 := nth 0 (treeFold (redStep rop r) 6 lanes) 0

/-- `vred` (R267): lane 0 alone; reads vd. Only a float result is folded. -/
def execVred (st : Fin 8) (vd vs1 : Fin 16) (mk : Fin 4) (rop : Fin 16) (s : State) : Out1 :=
  s.issueWith
    { st := st, reads := [.v vd, .v vs1], mask := mk, writes := [.v vd], target := true, lanes := true, pool := true } fun s =>
    let t := s.cur
    match t.rounding with
    | none => .trap 0x02 0 0
    | some r =>
      let v := redResult rop r (t.laneNos.map (fun l => if t.active mk l then nth 0 (t.readV vs1) l else redIdentity rop))
      let s := s.updCur (·.fold (r.am && decide (rop.val ≤ 2)) [f32 v.toNat])
      .done s [.now (.v vd) (.lanes (setNth (t.readV vd) 0 v))] none

/-! ### Special functions (R268) -/

/-- `vexp2` (R268, R57). -/
def execVexp2 (st : Fin 8) (vd vs1 : Fin 16) (mk : Fin 4) (s : State) : Out1 := vSfu st vd vs1 mk Exact.exp2 s
/-- `vlog2` (R268, R57). -/
def execVlog2 (st : Fin 8) (vd vs1 : Fin 16) (mk : Fin 4) (s : State) : Out1 := vSfu st vd vs1 mk Exact.log2 s
/-- `vrcp` (R268, R57). -/
def execVrcp (st : Fin 8) (vd vs1 : Fin 16) (mk : Fin 4) (s : State) : Out1 := vSfu st vd vs1 mk Exact.rcp s
/-- `vrsq` (R268, R57). -/
def execVrsq (st : Fin 8) (vd vs1 : Fin 16) (mk : Fin 4) (s : State) : Out1 := vSfu st vd vs1 mk Exact.rsqrt s
/-- `vsqrt` (R268, R57). -/
def execVsqrt (st : Fin 8) (vd vs1 : Fin 16) (mk : Fin 4) (s : State) : Out1 := vSfu st vd vs1 mk Exact.sqrt s

/-! ### Conversions (R269 to R271) -/

/-- Where an element of a format stands in a lane (R270). -/
def placeElem (f e : Nat) : W32 :=
  match f with
  | 0x9 => BitVec.ofInt 32 (sgnOf 8 e)
  | 0xA => BitVec.ofInt 32 (sgnOf 16 e)
  | _ => BitVec.ofNat 32 (e % 2 ^ fmtBits f)

/-- An mx element with its block scale byte (R270). -/
def placeMx (f e c : Nat) : W32 := BitVec.ofNat 32 (c % 256 * 256 + e % 2 ^ fmtBits f)

/-- The element that a lane holds (R270). -/
def laneVal (f : Nat) (w : W32) : Exact := val f (w.toNat % 2 ^ fmtBits f)

/-- The mx blocks of the lanes (R271). -/
def mxLanes (dst : Nat) (rm : Rm) (xs : List Exact) : Nat → List W32
  | 0 => []
  | n + 1 =>
    let (c, es) := mxBlock dst (xs.take 32) rm
    es.map (fun e => placeMx dst e c) ++ mxLanes dst rm (xs.drop 32) n

/-- The operands of `vcvt` (R269). -/
structure Cvt where
  src : Nat
  dst : Nat
  sc  : Nat
  rm  : Rm
  sat : Bool
  deriving DecidableEq, Repr

/-- The operands of `vcvt` with its own causes (R269): `none` traps with reserved-field. -/
def Ctx.cvtOperands (t : Ctx) (xs mk src dst : Nat) : Option Cvt :=
  if t.pp then
    let p := t.pfx
    let mx := p.fd == 6 || p.fd == 7
    if src != 0 || dst != 0 || p.fb != 0 || !fmtCvtSource p.fa || !fmtCvtTarget p.fd || 3 < p.sc || (mx != (p.sc == 3)) ||
        (xs != 0 && (p.sc == 0 || p.sc == 3)) || (p.sc == 3 && (t.lanes < 32 || mk != 0)) then none
    else some ⟨p.fa, p.fd, p.sc, Rm.ofBits p.rm, p.sa == 1⟩
  else some ⟨src, dst, 0, Rm.ofBits t.rm, false⟩

/-- The causes of a plain `vcvt` at priorities 1 and 2 (R269). -/
def Ctx.cvtEarly (t : Ctx) (xs src dst : Nat) : Option Nat :=
  if t.pp then none
  else if src == 6 || src == 7 || src == 8 || src == 15 || dst == 6 || dst == 7 || dst == 8 || dst == 15 then some 0x01
  else if xs != 0 then some 0x02
  else none

/-- `vcvt` (R269 to R271). -/
def execVcvt (st : Fin 8) (vd vs1 : Fin 16) (xs : Fin 32) (mk : Fin 4) (src dst : Fin 16) (s : State) : Out1 :=
  let d := laneDesc st vd mk (if s.cur.pp then [.v vs1, .x xs] else [.v vs1]) true
  s.issueWith { d with early := s.cur.cvtEarly xs src dst } fun s =>
    let t := s.cur
    match t.cvtOperands xs mk src dst with
    | none => .trap 0x02 0 0
    | some o =>
      let x := (t.readV vs1).map (laneVal o.src)
      let scale := f32 ((t.readX xs).toNat % 2 ^ 32)
      let new :=
        if o.sc = 3 then mxLanes o.dst o.rm x (t.lanes / 32)
        else x.map (fun v =>
          let y := if o.sc = 1 then v.div scale else if o.sc = 2 then v.mul scale else v
          placeElem o.dst (rnd o.dst y o.rm o.sat))
      let s := s.updCur (·.fold true ((t.laneNos.filter (fun l => t.active mk l)).map (nth .nan x)))
      .done s [.fixed (.v vd) (.lanes (t.merge mk (t.readV vd) new)) 8] none

end Sys2Proof.Machine
end

