-- ==== Sys2Proof/Machine/Kv.lean ====
section
/-!
DEFINITION. Sys2Proof/Machine/Kv.lean: block keys, home tables, `kvhome`, `stub`, `migrate`, `vsgn` and `vham`
(R408 to R426).
-/
namespace Sys2Proof.Machine

/-! ### The hash and KVRING (R408, R409) -/

/-- `hkey` of R408. -/
def hkey (k seed : Nat) : Nat :=
  let m := 2 ^ 64
  let z := (k + seed * 0x9E3779B97F4A7C15) % m
  let z := (z ^^^ z / 2 ^ 30) * 0xBF58476D1CE4E5B9 % m
  let z := (z ^^^ z / 2 ^ 27) * 0x94D049BB133111EB % m
  let z := z ^^^ z / 2 ^ 31
  bitsOf z 63 32

def HomeCore.seed (h : HomeCore) : Nat := bitsOf h.kvring.toNat 59 44
def HomeCore.hlog (h : HomeCore) : Nat := bitsOf h.kvring.toNat 43 40
/-- T of R413. -/
def HomeCore.tableOff (h : HomeCore) : Nat := bitsOf h.kvring.toNat 39 26 * 64
def HomeCore.npt (h : HomeCore) : Nat := bitsOf h.kvring.toNat 25 14
def HomeCore.ringOff (h : HomeCore) : Nat := bitsOf h.kvring.toNat 13 0 * 64

/-- A 64-bit word of a scratchpad. -/
def HomeCore.word (h : HomeCore) (off : Nat) : Nat := leNat (Memory.bytes h.spad off 8)

/-! ### `kvhome` (R410, R412) -/

/-- The first ring point at or above a hash, from entry `i`; entry 0 where there is none. -/
def HomeCore.point (h : HomeCore) (hash i : Nat) : Nat → Nat
  | 0 => 0
  | n + 1 => if hash ≤ bitsOf (h.word (h.ringOff + 8 * i)) 63 32 then i else h.point hash (i + 1) n

/-- `kvhome` (R412). -/
def execKvhome (st : Fin 8) (rd rs1 rs2 : Fin 32) (s : State) : Out1 :=
  s.issueWith { st := st, reads := [.x rs1, .x rs2], writes := [.x rd] } fun s =>
    let h := s.here
    let k := bitsOf (s.cur.readX rs1).toNat 31 0 * 2 ^ 32 + bitsOf (s.cur.readX rs2).toNat 31 0
    let a := h.ringOff
    let n := 8 * h.npt
    let va := 0xFFFFFFFFFFF00000 + a
    if h.npt = 0 then .done s (nowX rd (BitVec.allOnes 64)) none
    else if h.spsize < a + n then .trap 0x14 0 (w64 va)
    else if s.belowWatermark s.curCore s.cur.asid va n then .hold s.waitStall
    else if poisonedIn h.spadPoison a n then .trap 0x13 0 (w64 va)
    else
      let j := h.point (hkey k h.seed) 0 h.npt
      .done s (nowX rd (w64 (j * 2 ^ 32 + bitsOf (h.word (a + 8 * j)) 10 0))) none

/-! ### Home tables (R413, R414) -/

/-- Whether the home table is usable (R413). -/
def HomeCore.tableOk (h : HomeCore) : Bool := h.hlog != 0 && h.tableOff + 64 + 16 * 2 ^ h.hlog ≤ h.spsize

/-- Where a lookup stops: at a match, at an empty entry, at a poisoned KEY, or nowhere. -/
inductive Probe where
  | bad (off : Nat)
  | hit (off : Nat)
  | empty (off : Nat)
  | full
  deriving DecidableEq, Repr

/-- The probes of a lookup from the `i`-th on (R414). -/
def HomeCore.probe (h : HomeCore) (k e0 i : Nat) : Nat → Probe
  | 0 => .full
  | n + 1 =>
    let off := h.tableOff + 64 + 16 * ((e0 + i) % 2 ^ h.hlog)
    let key := h.word off
    if poisonedIn h.spadPoison off 8 then .bad off
    else if key = k then .hit off else if key = 0 then .empty off else h.probe k e0 (i + 1) n

/-- A lookup of a key (R414). -/
def HomeCore.lookupKey (h : HomeCore) (k : Nat) : Probe := h.probe k (hkey k h.seed % 2 ^ h.hlog) 0 8

/-- Whether an entry is a forwarding stub. -/
def HomeCore.isStub (h : HomeCore) (off : Nat) : Bool := bitOf (h.word (off + 8)) 63

/-- The core to which a stub forwards a key, where a usable table has one that is not poisoned (R415, R459; assumption log 125). -/
def HomeCore.forward (h : HomeCore) (k : Nat) : Option Nat :=
  if h.tableOk then
    match h.lookupKey k with
    | .hit off => if h.isStub off && !poisonedIn h.spadPoison (off + 8) 8 then some (bitsOf (h.word (off + 8)) 10 0) else none
    | _ => none
  else none

/-! ### `stub` (R419) -/

/-- What `stub` writes and answers for a usable table: the words by offset, and the result. -/
def HomeCore.stubPlan (h : HomeCore) (k t : Nat) : List (Nat × W64) × Nat :=
  let fwd := w64 (2 ^ 63 + t % 2 ^ 63)
  if k = 0 then ([], 3)
  else if t = 2 ^ 64 - 1 then
    match h.lookupKey k with
    | .hit off => if h.isStub off then ([(off + 8, 0)], 0) else ([], 2)
    | _ => ([], 2)
  else
    match h.lookupKey k with
    | .hit off => ([(off + 8, fwd)], 0)
    | .empty off => ([(off, w64 k), (off + 8, fwd)], 0)
    | _ => ([], 1)

/-- A poisoned word that the lookup of `stub` reads (R459; assumption log 125). -/
def HomeCore.stubPoison (h : HomeCore) (k t : Nat) : Option Nat :=
  if k = 0 then none
  else
    match h.lookupKey k with
    | .bad off => some off
    | .hit off => if t = 2 ^ 64 - 1 && poisonedIn h.spadPoison (off + 8) 8 then some (off + 8) else none
    | _ => none

/-- Writes words of a scratchpad as one step (R170). -/
def State.spWords (s : State) (c : Nat) (ws : List (Nat × W64)) : State :=
  (s.updCore c (fun h => ws.foldl (fun h e => h.spSet e.1 (PByte.clean (leBytes e.2.toNat 8))) h)).spTouched c
    (ws.map (fun e => (e.1, 8)))

/-- `stub` (R419). -/
def execStub (st : Fin 8) (rd rs1 rs2 : Fin 32) (s : State) : Out1 :=
  s.issueWith { st := st, reads := [.x rs1, .x rs2], writes := [.x rd] } fun s =>
    let h := s.here
    let k := (s.cur.readX rs1).toNat
    let t := (s.cur.readX rs2).toNat
    if t ≠ 2 ^ 64 - 1 ∧ (1535 < t ∨ !s.inMask s.cur t) then .trap 0x11 0 (w64 t)
    else if h.hlog = 0 then .done s (nowX rd 4) none
    else if !h.tableOk then .trap 0x14 0 (w64 (0xFFFFFFFFFFF00000 + h.tableOff))
    else
      match h.stubPoison k t with
      | some off => .trap 0x13 0 (w64 (0xFFFFFFFFFFF00000 + off))
      | none =>
        let (ws, res) := h.stubPlan k t
        .done (s.spWords s.curCore ws) (nowX rd (w64 res)) none

/-! ### `migrate` (R420 to R423) -/

/-- The v registers that a descriptor ships. -/
def shippedV (d : Nat) : List Nat := (natsFrom 0 (bitsOf d 14 12)).map (fun i => bitsOf d (19 + 4 * i) (16 + 4 * i))

/-- The checks of R421: a cause, its INFO and FAULTB. -/
def State.migrateCheck (s : State) (d : Nat) : Option (Nat × Nat × W64) :=
  let t := s.cur
  let h := s.here
  let target := bitsOf d 10 0
  if bitsOf d 63 32 ≠ 0 ∨ bitOf d 15 ∨ bitOf d 11 ∨ 4 < bitsOf d 14 12 then some (0x1C, 1, 0)
  else if bitsOf d 14 12 ≠ 0 ∧ t.claim.isNone then some (0x1A, 0, 0)
  else if 1535 < target ∨ !s.inMask t target then some (0x11, 0, w64 target)
  else if t.paired then some (0x1C, 2, 0)
  else if h.wa.any (fun e => e.2.owner == s.curCtx && !e.2.saved) then some (0x1C, 3, 0)
  else if t.hires.any (fun e => e.2.final.isNone) then some (0x1C, 4, 0)
  else if h.copying t.uid then some (0x1C, 5, 0)
  else none

/-- The context that arrives at the target (R422). -/
def Ctx.shipped (t : Ctx) (d mask : Nat) : Ctx :=
  let vs := shippedV d
  let t := t.settle
  { t with
    pc := BitVec.ofNat 16 (t.pc.toNat + 4),
    x := t.x.filter (fun e => bitOf (mask % 2 ^ 32) e.1),
    claim := t.claim.map (fun c => { lanes := c.lanes, v := c.v.filter (fun e => vs.contains e.1) }),
    hires := [], hiring := none, window := [], wait := .none, waitFrom := none, phase := .running }

/-- `migrate` (R420 to R422). -/
def execMigrate (st : Fin 8) (rs1 rs2 : Fin 32) (s : State) : Out1 :=
  s.issueWith { st := st, reads := [.x rs1, .x rs2] } fun s =>
    let d := (s.cur.readX rs1).toNat
    let target := bitsOf d 10 0
    match s.migrateCheck d with
    | some (cause, info, fb) => .trap cause info fb
    | none =>
      if !s.cur.var.isEmpty then .hold s
      else
        match s.gate (scopeOf s.curCore target) with
        | .closed s => .hold s
        | .passed s =>
          let mask := (s.cur.settle.readX rs2).toNat
          let f := { (s.cur.flight target s.curCore) with mig := some (s.cur.shipped d mask) }
          .gone (s.slotUsed.migrateTask s.curCore s.curCtx f)

/-! ### Signatures (R424 to R426) -/

/-- `vsgn` (R424). -/
def execVsgn (st : Fin 8) (vd vs1 : Fin 16) (mk : Fin 4) (s : State) : Out1 :=
  s.issueWith { (laneDesc st vd mk [.v vs1] false) with reads := [.v vd, .v vs1] } fun s =>
    let t := s.cur
    let new := List.zipWith (fun (a b : W32) => a * 2 ||| b >>> 31) (t.readV vd) (t.readV vs1)
    .done s [.fixed (.v vd) (.lanes (t.merge mk (t.readV vd) new)) 4] none

/-- Bits of a lane that are one. -/
def popLane (w : W32) : Nat := (natsFrom 0 32).foldl (fun n i => if w.getLsbD i then n + 1 else n) 0

/-- `vham` (R425). -/
def execVham (st : Fin 8) (kd : Fin 4) (vs1 vs2 : Fin 16) (mk : Fin 4) (r : Fin 64) (s : State) : Out1 :=
  s.issueWith
    { st := st, reads := (if mk = 0 then [] else [RName.k kd]) ++ [.v vs1, .v vs2], mask := mk, writes := [.k kd],
      lanes := true, pool := true } fun s =>
    let t := s.cur
    let new := List.zipWith (fun (a b : W32) => decide (popLane (a ^^^ b) ≤ r.val)) (t.readV vs1) (t.readV vs2)
    let old := t.readK kd
    let res := t.laneNos.map (fun l => if t.active mk l then nth false new l else nth false old l)
    .done s [.fixed (.k kd) (.mask res) 4] none

end Sys2Proof.Machine
end

