-- ==== Sys2Proof/Machine/Overlay.lean ====
section
/-!
DEFINITION. Sys2Proof/Machine/Overlay.lean: overlay images: CRC-32, the check of an overlay and its load into an
instruction store (R87, R88, R90, R129, R131).
-/
namespace Sys2Proof.Machine

/-! ### CRC-32 (R90) -/

/-- `n` bit steps of the reflected polynomial. -/
def crcBits (crc : Nat) : Nat → Nat
  | 0 => crc
  | n + 1 => crcBits (if crc % 2 = 1 then (crc / 2) ^^^ 0xEDB88320 else crc / 2) n

/-- CRC-32 of bytes. -/
def crc32 (bs : List Byte) : Nat := (bs.foldl (fun c b => crcBits (c ^^^ b.toNat) 8) 0xFFFFFFFF) ^^^ 0xFFFFFFFF

/-! ### Images in memory -/

/-- `n` bytes at a device-physical address that the device reads for a load, unless one lies outside HBM or is poisoned. -/
def State.cleanBytes (s : State) (pa n : Nat) : Option (List Byte) :=
  if inHbm pa n && !poisonedIn s.poison pa n then some (Memory.bytes s.mem pa n) else none

/-- `n` 64-bit words at a device-physical address, as `cleanBytes`. -/
def State.cleanWords (s : State) (pa n : Nat) : Option (List Nat) :=
  (s.cleanBytes pa (8 * n)).map (fun b => (wordsOf b n).map (·.toNat))

/-- Whether a header of eight words is good (R87, R90). -/
def headerGood (w : List Nat) (bytes : List Byte) : Bool :=
  bitsOf (nth 0 w 0) 31 0 == 0x5A415331 && bitsOf (nth 0 w 0) 47 32 == 1 && bitsOf (nth 0 w 0) 63 48 == 0 &&
    bitsOf (nth 0 w 1) 63 24 == 0 && bitsOf (nth 0 w 2) 63 32 == 0 && bitsOf (nth 0 w 3) 63 48 == 0 &&
    bitsOf (nth 0 w 4) 63 48 == 0 && bitsOf (nth 0 w 7) 63 32 == 0 && bitsOf (nth 0 w 7) 31 0 == crc32 (bytes.take 56)

/-- Whether a directory entry's reserved fields are zero (R88). -/
def entryGood (w0 : Nat) : Bool := bitsOf w0 63 33 == 0 && bitsOf w0 15 8 == 0

/-- The directory entries from an address, `none` where one cannot be read or is bad. -/
def State.directory (s : State) (pa : Nat) : Nat → Option (List (Nat × Nat))
  | 0 => some []
  | n + 1 =>
    match s.cleanWords pa 2 with
    | some [w0, w1] => if entryGood w0 then (State.directory s (pa + 16) n).map ((w0, w1) :: ·) else none
    | _ => none

/-- The text of overlay `k` of the image at an address; `none` when the overlay is bad (R90). Of two entries with the id `k`, which
R88 forbids, the first one is its entry (assumption log 128). -/
def State.overlay (s : State) (image k : Nat) : Option (List Byte) :=
  match s.cleanBytes image 64 with
  | none => none
  | some hb =>
    let w := (wordsOf hb 8).map (·.toNat)
    if !headerGood w hb then none
    else
      match s.directory (image + bitsOf (nth 0 w 5) 31 0) (bitsOf (nth 0 w 1) 15 0) with
      | none => none
      | some es =>
        match es.find? (fun e => bitsOf e.1 7 0 == k) with
        | none => none
        | some e =>
          let size := bitsOf e.1 32 16
          if size < 4 || 65536 < size || size % 4 != 0 then none
          else
            match s.cleanBytes (image + bitsOf e.2 31 0) size with
            | none => none
            | some text => if crc32 text == bitsOf e.2 63 32 then some text else none

/-- SPAD of an image's header (R120 check 10). -/
def State.imageSpad (s : State) (image : Nat) : Nat := bitsOf (s.memWord (image + 16)).toNat 31 0

/-- The words of a text by word number; a zero word is not listed. -/
def textWords (i : Nat) : List Byte → Map W32
  | a :: b :: c :: d :: rest =>
    let w := BitVec.ofNat 32 (leNat [a, b, c, d])
    if w = 0 then textWords (i + 1) rest else (i, w) :: textWords (i + 1) rest
  | _ => []

/-- Loads a text at offset 0, every byte beyond it zero, as the resident overlay (R129 step 4, R131). -/
def HomeCore.loadText (h : HomeCore) (text : List Byte) (k : Nat) : HomeCore :=
  { h with istore := textWords 0 text, istorePoison := [], conf := h.conf.map (fun c => { c with ovl := k }) }

/-! ### Living tasks (R128, R131) -/

/-- Whether a task other than that of context `k` lives on the core. -/
def HomeCore.othersLive (h : HomeCore) (k : Nat) : Bool :=
  h.ctxs.any (fun e => e.1 != k && e.2.phase != .free && e.2.phase != .odd)

end Sys2Proof.Machine
end

