-- ==== Sys2Proof/Machine/L2.lean ====
section
/-!
DEFINITION. Sys2Proof/Machine/L2.lean: the lines that the L2 slices hold (R20, R30). A slice's line and HBM give every access
the same values, and only the row commands of R392 see HBM beneath a line: `mem` is what an access reads, and a line keeps
what HBM holds where that differs.
-/
namespace Sys2Proof.Machine

/-- The lines of the same set of the same slice as a line: those of the same line number modulo 1,024 (assumption log 110). -/
def State.l2Mates (s : State) (line : Nat) : List Nat :=
  s.l2.keys.filter (fun k => homeCore (k * 128) == homeCore (line * 128) && k % 1024 == line % 1024)

/-- What HBM holds at a line. -/
def State.hbmLine (s : State) (line : Nat) : List PByte :=
  match s.l2.find? line with
  | some e => e.under.getD (s.memBytes (line * 128) 128)
  | none => s.memBytes (line * 128) 128

/-- Bytes become what an access to a line reads. -/
def State.l2Show (s : State) (line : Nat) (b : List PByte) : State :=
  let (m, p) := setPBytes s.mem s.poison (line * 128) b
  ({ s with mem := m, poison := p } : State).bumpOrder (line * 128)

/-- A slice holds a line no more: the line is written back when it is dirty, or, where `lose` says so, its bytes are lost. -/
def State.l2Drop (s : State) (lose : Bool) (line : Nat) : State :=
  match s.l2.find? line with
  | none => s
  | some e =>
    let s := { s with l2 := s.l2.erase line }
    match e.under with
    | some b => if lose || !e.dirty then s.l2Show line b else s
    | none => s

/-- A slice writes a dirty line back and keeps it. -/
def State.l2Clean (s : State) (line : Nat) : State :=
  match s.l2.find? line with
  | some e => if e.dirty then { s with l2 := s.l2.set line {} } else s
  | none => s

/-- A request that writes to a line, or only reads it, reaches the slice that is its home: whether the slice takes a line that it
does not hold is free, and a full set gives one of its lines up first. -/
def State.l2Line (s : State) (n : Nat) (writes : Bool) (line : Nat) : State :=
  let entry := fun (e : L2Line) =>
    if writes then { dirty := true, under := some (e.under.getD (s.memBytes (line * 128) 128)) } else e
  match s.l2.find? line with
  | some e => { s with l2 := s.l2.set line (entry e) }
  | none =>
    let mates := s.l2Mates line
    if mates.length < 16 then { s with l2 := if Config.l2Takes n then s.l2.set line (entry {}) else s.l2 }
    else if Config.l2Takes n then
      let s := s.l2Drop false (nth 0 mates (Config.victim n % mates.length))
      { s with l2 := s.l2.set line (entry {}) }
    else s

/-- A write of the row commands to a line: HBM takes the bytes, beneath the line of a slice that holds one. -/
def State.hbmWrite (s : State) (line : Nat) (b : List PByte) : State :=
  match s.l2.find? line with
  | some e => { s with l2 := s.l2.set line { e with under := some b } }
  | none => s.memWrite (line * 128) b

/-- A slice that is disabled holds no line (R30). -/
def State.l2Flush (s : State) (slice : Nat) : State :=
  (s.l2.keys.filter (fun k => homeCore (k * 128) == slice)).foldl (State.l2Drop · false) s

end Sys2Proof.Machine
end

