-- ==== Sys2Proof/Machine/Rows.lean ====
section
/-!
DEFINITION. Sys2Proof/Machine/Rows.lean: the operations of BDE channels, `mrow`, and the row commands inside the stacks
(R391 to R394, R404). The row commands see HBM beneath the lines of the L2 slices (L2.lean).
-/
namespace Sys2Proof.Machine

/-! ### Channels of a BDE (R26, R380) -/

/-- Whether the BDE of a stack is disabled (R485, R494). -/
def State.bdeOff (s : State) (u : Nat) : Bool := s.disabled (u / 2) (816 + u % 2)

/-- Replaces the head of a channel's queue. -/
def State.setBdeOp (s : State) (u ch : Nat) (o : BdeOp) : State :=
  s.updBdeChan u ch (fun k => { k with queue := o :: k.queue.drop 1 })

/-- The operation at the head of a channel. -/
def State.bdeHead (s : State) (u ch : Nat) : Option BdeOp := (s.bdeChan u ch).queue.head?

/-- The head of a channel reaches its final state. -/
def State.finishBde (s : State) (u ch : Nat) (o : BdeOp) : State :=
  s.updBdeChan u ch (fun k => { k with queue := k.queue.drop 1, recent := (o.done :: k.recent).take 16 })

/-- An operation that has met its first fault (R383). -/
def BdeOp.fault (o : BdeOp) (side detail page : Nat) : BdeOp :=
  { o with stopped := some (if o.kind = .coll then 0x22 else 0x20), side := side, detail := detail, page := page }

/-- The head ends in its final fault state. -/
def State.failBde (s : State) (u ch : Nat) (o : BdeOp) (side detail page : Nat) : State :=
  let o := o.fault side detail page
  s.finishBde u ch { o with state := o.stopped.getD 0x20 }

/-- Enqueues an operation of the task at issue and answers its transfer id. -/
def State.enqueueBde (s : State) (u ch : Nat) (o : BdeOp) : W64 × State :=
  let k := s.bdeChan u ch
  let seq := k.nextSeq % 2 ^ 16
  (bdeId u ch seq, s.updBdeChan u ch (fun k => { k with nextSeq := k.nextSeq + 1, queue := k.queue ++ [{ o with seq := seq }] }))

/-- An operation of the task at issue. -/
def State.newBdeOp (s : State) (kind : BdeKind) : BdeOp :=
  { seq := 0, kind := kind, core := s.curCore, uid := s.cur.uid, launch := s.cur.launch, asid := s.cur.asid, job := s.cur.job }

/-! ### `mrow` at issue (R404) -/

/-- Whether an address lies in a scratchpad window (R149). -/
def inWindow (va : Nat) : Bool := placeOf va != .global

/-- The stack whose BDE takes an `mrow` to an address. -/
def State.mrowStack (s : State) (d : Nat) : Nat :=
  match s.lookup s.die s.cur.asid d false with
  | .ok tr => if inHbm (tr.at d).pa 1 then stackOf (tr.at d).pa else 2 * s.die
  | .error _ => 2 * s.die

/-- `mrow` (R404): `src` is the source of the copying form. -/
def mrowOp (st rd rs1 : Nat) (rs2 : Option Nat) (s : State) : Out1 :=
  s.issueWith { st := st, reads := .x rs1 :: (match rs2 with | some r => [RName.x r] | none => []), writes := [.x rd] } fun s =>
    let x := (s.cur.readX rs1).toNat
    let d := x / 65536 * 65536
    let src := rs2.map (fun r => (s.cur.readX r).toNat)
    let srcBad := match src with | some a => a % 65536 != 0 | none => false
    let srcWin := match src with | some a => inWindow a | none => false
    if srcBad then .trap 0x04 0 (w64 (src.getD 0))
    else if inWindow d then .trap 0x11 0 (w64 d)
    else if srcWin then .trap 0x11 0 (w64 (src.getD 0))
    else
      let u := s.mrowStack d
      let (c, s) := s.freeChoice
      let o := s.newBdeOp (if src.isSome then .rowCopy else .rowZero)
      let (id, s) := s.enqueueBde u (c % 16) { o with dst := d, src := src.getD 0, pages := x % 65536 + 1 }
      .done s (nowX rd id) none

/-- `mrow` with op 0 (R404). -/
def execMrowCopy (st : Fin 8) (rd rs1 rs2 : Fin 32) (s : State) : Out1 := mrowOp st rd rs1 (some rs2) s
/-- `mrow` with op 1 (R404). -/
def execMrowZero (st : Fin 8) (rd rs1 : Fin 32) (s : State) : Out1 := mrowOp st rd rs1 none s

/-! ### Step 1 of R394 -/

/-- The translations of pages `i` on of a range, or the detail and the number of the first that fails. -/
def State.mrowPages (s : State) (die asid va : Nat) (write : Bool) (i : Nat) : Nat → Except (Nat × Nat) (List Tr) × State
  | 0 => (.ok [], s)
  | n + 1 =>
    match s.translate die asid ((va + i * 65536) % 2 ^ 64) write none with
    | (.error d, s) => (.error (d, i), s)
    | (.ok tr, s) =>
      if !inHbm tr.pa 65536 then (.error (0xB, i), s)
      else
        match State.mrowPages s die asid va write (i + 1) n with
        | (.ok l, s) => (.ok (tr :: l), s)
        | e => e

/-- The die of a page in HBM. -/
def Tr.hbmDie (t : Tr) : Nat := bitsOf t.pa 38 37

/-- The checks of step 1 that follow the translations: a side, a detail and a page. A page of the source and the one that takes
it lie on one die (assumption log 111). -/
def mrowCheck (src dst : List Tr) : Option (Nat × Nat × Nat) :=
  match findIdx (fun (p : Tr × Tr) => p.1.hbmDie != p.2.hbmDie) (src.zip dst) with
  | some i => some (0, 0xB, i)
  | none => (findIdx (fun (t : Tr) => src.any (fun x => x.pa / 65536 == t.pa / 65536)) dst).map (fun i => (1, 0, i))

/-- The head of a channel starts as an `mrow` (R394). -/
def State.mrowBegin (s : State) (u ch : Nat) (o : BdeOp) : State :=
  let die := u / 2
  if s.bdeOff u then s.failBde u ch o 0 0 0
  else
    let o := { o with state := 0x02 }
    match s.mrowPages die o.asid o.src false 0 (if o.kind = .rowCopy then o.pages else 0) with
    | (.error (d, i), s) => s.failBde u ch o 0 d i
    | (.ok src, s) =>
      match s.mrowPages die o.asid o.dst true 0 o.pages with
      | (.error (d, i), s) => s.failBde u ch o 1 d i
      | (.ok dst, s) =>
        match mrowCheck src dst with
        | some (side, d, i) => s.failBde u ch o side d i
        | none => s.setBdeOp u ch { o with srcTr := src, dstTr := dst }

/-- MROW_START (R394). -/
def State.mrowStart (s : State) (u ch : Nat) : State :=
  match s.bdeHead u ch with
  | some o => if o.state = 0x01 ∧ o.kind ≠ .coll then s.mrowBegin u ch o else s
  | none => s

def execMrowStart (agent : Agent) (s : State) : Out1 :=
  match agent with
  | .bde u ch => stepOf (u < 8 && ch < 16) s (·.mrowStart u ch)
  | _ => .fault .noSuchUnit

/-! ### Rows (R391, R393) -/

/-- The offset within the stack of an HBM address (R28). -/
def stackOffset (pa : Nat) : Nat := bitsOf pa 36 13 * 4096 + bitsOf pa 11 0

/-- Pseudo-channel, bank and subarray of an HBM address (R391). -/
def rowPseudo (pa : Nat) : Nat := bitsOf (stackOffset pa) 15 10
def rowBank (pa : Nat) : Nat := bitsOf (stackOffset pa) 21 16
def rowSub (pa : Nat) : Nat := bitsOf (stackOffset pa) 35 31

/-- The classes of R393. -/
inductive RowClass where
  | zero
  | sub
  | buf
  | xfer
  deriving DecidableEq, Repr

/-- The addresses of row `i` of an operation. -/
def BdeOp.dstRow (o : BdeOp) (i : Nat) : Nat := (((o.dstTr.drop (i / 64)).head?.map (·.pa)).getD 0) + i % 64 * 1024
def BdeOp.srcRow (o : BdeOp) (i : Nat) : Nat := (((o.srcTr.drop (i / 64)).head?.map (·.pa)).getD 0) + i % 64 * 1024

/-- The class of row `i` (R393). -/
def BdeOp.rowClass (o : BdeOp) (i : Nat) : RowClass :=
  let d := o.dstRow i
  let a := o.srcRow i
  if o.kind = .rowZero then .zero
  else if stackOf d = stackOf a ∧ rowPseudo d = rowPseudo a then
    (if rowBank d = rowBank a ∧ rowSub d = rowSub a then .sub else .buf)
  else .xfer

/-- Whether row `i` of an operation of stack `u` may be worked on: step 2 is taken, it is not finished, and its leases last
(R362), or each write walks again (R354, R364). -/
def State.rowOpen (s : State) (u : Nat) (o : BdeOp) (i : Nat) : Bool :=
  let ok := fun (t : Tr) => s.skew.has (u / 2) || t.once || s.timeOf (u / 2) + 3000 ≤ t.exp
  o.state == 0x02 && o.stage == 1 && o.stopped.isNone && !NatSet.has o.rows i &&
    ((o.dstTr.drop (i / 64)).head?.map ok).getD false && (o.kind == .rowZero || ((o.srcTr.drop (i / 64)).head?.map ok).getD false)

/-- The rows of an operation whose destination (or, for `src`, source) is the device-physical row `row`. -/
def BdeOp.rowsAt (o : BdeOp) (src : Bool) (row : Nat) : List Nat :=
  let pages := if src then o.srcTr else o.dstTr
  (natsFrom 0 pages.length).filterMap (fun p =>
    if ((pages.drop p).head?.map (fun t => t.pa / 65536)).getD (2 ^ 40) = row / 64 then some (p * 64 + row % 64) else none)

/-- Every operation at the head of a BDE channel. -/
def State.bdeHeads (s : State) : List (Nat × Nat × BdeOp) :=
  s.bdes.flatMap (fun e => e.2.chans.filterMap (fun c => c.2.queue.head?.map (fun o => (e.1, c.1, o))))

/-- The first operation and row of a class with a destination row (or a source row) that may be worked on. -/
def State.findRow (s : State) (cls : RowClass) (src : Bool) (row : Nat) (ok : BdeOp → Nat → Bool) :
    Option (Nat × Nat × BdeOp × Nat) :=
  (s.bdeHeads.filterMap (fun e =>
    let o := e.2.2
    ((o.rowsAt src row).find? (fun i =>
      s.rowOpen e.1 o i && o.rowClass i == cls && ok o i)).map (fun i => (e.1, e.2.1, o, i)))).head?

/-- What HBM holds in the row at an address. -/
def State.rowBytes (s : State) (pa : Nat) : List PByte := (natsFrom (pa / 128) 8).flatMap s.hbmLine

/-- Writes a row in HBM, line by line, its poison with it. -/
def State.writeRow (s : State) (pa : Nat) (b : List PByte) : State :=
  (natsFrom 0 8).foldl (fun s l => s.hbmWrite (pa / 128 + l) ((b.drop (l * 128)).take 128)) s

/-- Whether a page of an operation is still what its translation says: one that serves one request only is walked again before
each write, as every one in skew mode (R354, R362, R364). -/
def State.pageHolds (s : State) (u asid va : Nat) (l : List Tr) (p : Nat) : Bool :=
  match (l.drop p).head? with
  | some t => !(t.once || s.skew.has (u / 2)) || (s.renew (u / 2) asid ((va + p * 65536) % 2 ^ 64) t).isSome
  | none => true

/-- Row `i` of an operation takes its bytes and is finished, unless a translation that is walked again has changed. -/
def State.rowWrite (s : State) (u ch : Nat) (o : BdeOp) (i : Nat) (b : List PByte) : State :=
  if !s.pageHolds u o.asid o.src o.srcTr (i / 64) then s.setBdeOp u ch (o.fault 0 dLease (i / 64))
  else if !s.pageHolds u o.asid o.dst o.dstTr (i / 64) then s.setBdeOp u ch (o.fault 1 dLease (i / 64))
  else (s.writeRow (o.dstRow i) b).setBdeOp u ch { o with rows := NatSet.add o.rows i }

/-- RCP (R392): copies a row to another of the same subarray. Rows are numbered by device-physical address over 1,024. -/
def State.rcp (s : State) (stack src dst : Nat) : State :=
  match s.findRow .sub false dst (fun o i => o.srcRow i == src * 1024 && stackOf (dst * 1024) == stack) with
  | some (u, ch, o, i) => s.rowWrite u ch o i (s.rowBytes (src * 1024))
  | none => s

def execRcp (stack src dst : Nat) (s : State) : Out1 := stepOf (stack < 8) s (·.rcp stack src dst)

/-- RZF (R392): writes a row with zeros. -/
def State.rzf (s : State) (stack dst : Nat) : State :=
  match s.findRow .zero false dst (fun _ _ => stackOf (dst * 1024) == stack) with
  | some (u, ch, o, i) => s.rowWrite u ch o i (PByte.clean (List.replicate 1024 0))
  | none => s

def execRzf (stack dst : Nat) (s : State) : Out1 := stepOf (stack < 8) s (·.rzf stack dst)

/-- Whether a row held in a buffer is still to be written somewhere. -/
def State.bufUsed (s : State) (b : RowBuf) : Bool := (s.findRow .buf true b.row (fun _ _ => true)).isSome

/-- RBR (R392): reads a row into the buffer of its pseudo-channel, when the buffer is free. -/
def State.rbr (s : State) (stack row : Nat) : State :=
  let pc := rowPseudo (row * 1024)
  let free := match (s.bde stack).bufs.find? pc with | some b => !s.bufUsed b | none => true
  if free && stackOf (row * 1024) == stack && (s.findRow .buf true row (fun _ _ => true)).isSome then
    s.updBde stack (fun b => { b with bufs := b.bufs.set pc ⟨row, s.rowBytes (row * 1024)⟩ })
  else s

def execRbr (stack row : Nat) (s : State) : Out1 := stepOf (stack < 8) s (·.rbr stack row)

/-- RBW (R392): writes the buffer of the row's pseudo-channel to the row. -/
def State.rbw (s : State) (stack row : Nat) : State :=
  let pc := rowPseudo (row * 1024)
  match (s.bde stack).bufs.find? pc with
  | none => s
  | some b =>
    match s.findRow .buf false row (fun o i => o.srcRow i == b.row * 1024 && stackOf (row * 1024) == stack) with
    | some (u, ch, o, i) =>
      let s := s.updBde stack (fun e => { e with bufs := e.bufs.erase pc })
      s.rowWrite u ch o i b.bytes
    | none => s

def execRbw (stack row : Nat) (s : State) : Out1 := stepOf (stack < 8) s (·.rbw stack row)

/-- The lines of the pages that a list translates. -/
def pageLines (l : List Tr) : List Nat := l.flatMap (fun t => natsFrom (t.pa / 128) 512)

/-- Step 2 of R394: the slices write back the dirty lines of the source, and hold no line of the destination. A dirty line of
the destination is written back first, so that a fault leaves the old state (assumption log 112). -/
def State.rowFlush (s : State) (u ch : Nat) (o : BdeOp) : State :=
  let s := (pageLines o.srcTr).foldl State.l2Clean s
  let s := (pageLines o.dstTr).foldl (State.l2Drop · false) s
  s.setBdeOp u ch { o with stage := 1 }

/-- Engine issue of a BDE channel whose `mrow` has a row of class XFER: the row moves through the memory controllers; a
poisoned source byte is a fault (R393, R459). -/
def State.rowTransfer (s : State) (u ch : Nat) (o : BdeOp) : State :=
  if o.stage = 0 && o.stopped.isNone then s.rowFlush u ch o
  else
    match (natsFrom 0 (64 * o.pages)).find? (fun i => s.rowOpen u o i && o.rowClass i == .xfer) with
    | none => s
    | some i =>
      let b := s.rowBytes (o.srcRow i)
      if PByte.anyBad b then s.setBdeOp u ch (o.fault 0 0x9 (i / 64)) else s.rowWrite u ch o i b

/-- Step 4 of R394: the slices hold no line of the destination again; what other agents have written there meanwhile and a slice
still holds is lost. -/
def State.rowClose (s : State) (u ch : Nat) (o : BdeOp) : State :=
  ((pageLines o.dstTr).foldl (State.l2Drop · true) s).setBdeOp u ch { o with stage := 2 }

/-- The end of an `mrow` (R394 steps 4 and 5), or of one that a fault has stopped. -/
def State.rowEvent (s : State) (u ch : Nat) (o : BdeOp) : State :=
  match o.stopped with
  | some st => s.finishBde u ch { o with state := st }
  | none =>
    if o.stage = 2 then s.finishBde u ch { o with state := 0x10, sf := true, vis := true }
    else if o.rows.length = 64 * o.pages then s.rowClose u ch o
    else s

/-- Renews the translations of one side of an `mrow`: those renewed, or the page that is dropped. -/
def State.renewPages (s : State) (die asid va i : Nat) : List Tr → Except Nat (List Tr) × State
  | [] => (.ok [], s)
  | t :: ts =>
    match s.renew die asid ((va + i * 65536) % 2 ^ 64) t with
    | none => (.error i, s)
    | some new =>
      match State.renewPages (s.raiseHorizon die new.exp) die asid va (i + 1) ts with
      | (.ok l, s) => (.ok (new :: l), s)
      | e => e

/-- Lease renewal of an `mrow` (R362). -/
def State.rowRenew (s : State) (u ch : Nat) (o : BdeOp) : State :=
  if o.state != 0x02 || o.stopped.isSome then s
  else
    match s.renewPages (u / 2) o.asid o.src 0 o.srcTr with
    | (.error i, s) => s.setBdeOp u ch (o.fault 0 dLease i)
    | (.ok src, s) =>
      match s.renewPages (u / 2) o.asid o.dst 0 o.dstTr with
      | (.error i, s) => s.setBdeOp u ch (o.fault 1 dLease i)
      | (.ok dst, s) => s.setBdeOp u ch { o with srcTr := src, dstTr := dst }

end Sys2Proof.Machine
end

