-- ==== Sys2Proof/Machine/Rings.lean ====
section
/-!
DEFINITION. Sys2Proof/Machine/Rings.lean: ring subscriptions and the ring engines of the BDEs (R387 to R390, R402, R403).
-/
namespace Sys2Proof.Machine

/-! ### Header fields (R387) -/

def Ring.nslot (r : Ring) : Nat := bitsOf r.word0 8 0
def Ring.slotsz (r : Ring) : Nat := bitsOf r.word0 39 16
def Ring.storer (r : Ring) : Bool := bitOf r.word0 40
def Ring.cvt (r : Ring) : Option Nat := if bitOf r.word0 41 then some (bitsOf r.word0 45 42) else none
def Ring.total (r : Ring) : Nat := bitsOf r.word4 31 0
def Ring.sdim (r : Ring) : Nat := bitsOf r.word4 34 32
def Ring.step (r : Ring) : Int := sgnOf 24 (bitsOf r.word4 59 36)
def Ring.hen (r : Ring) : Bool := bitOf r.word5 16

/-- The window of slot `k` (R388). -/
def Ring.win (r : Ring) (k : Nat) : Win := { r := r.record, dim := r.sdim, delta := (k : Int) * r.step }

/-- The scratchpad address of slot `k`, as the other-core window names it. -/
def Ring.slotVa (r : Ring) (k : Nat) : Nat := otherVa r.core (r.hdr + 64 + k % max 1 r.nslot * r.slotsz)

def Ring.worker (r : Ring) (u i : Nat) : Worker := ⟨.ring u i, r.core, r.asid, r.launch⟩

/-- Whether a header that `ringsub` or a decode job names is malformed (R402). -/
def badHeader (w : List W64) : Bool :=
  let w0 := (nth 0 w 0).toNat
  let w4 := (nth 0 w 4).toNat
  let w5 := (nth 0 w 5).toNat
  bitsOf w0 63 46 != 0 || bitsOf w0 15 9 != 0 || bitsOf w4 63 60 != 0 || bitOf w4 35 || bitsOf w5 31 19 != 0 ||
    nth 0 w 7 != 0 || bitsOf w0 8 0 == 0 || 256 < bitsOf w0 8 0 || bitsOf w0 39 16 == 0 || bitsOf w0 39 16 % 64 != 0 ||
    (nth 0 w 3).toNat % 32 != 0 || bitsOf w5 18 17 == 3 || (bitOf w5 16 && bitsOf w5 15 0 % 4 != 0) ||
    (bitOf w0 41 && !copyFormat (bitsOf w0 45 42))

/-- Bytes of a ring from its header on. -/
def ringBytes (w0 : Nat) : Nat := 64 + bitsOf w0 8 0 * bitsOf w0 39 16

/-! ### Subscriptions (R389, R402) -/

def State.ring? (s : State) (u i : Nat) : Option Ring := (s.bde u).rings.find? i
def State.setRing (s : State) (u i : Nat) (r : Ring) : State := s.updBde u (fun b => { b with rings := b.rings.set i r })

/-- The BDE that serves a core's rings. -/
def ringUnit (core : Nat) : Nat := 2 * dieOf core + core % 384 % 2

/-- The first free subscription of a BDE. -/
def Bde.freeRing (b : Bde) : Option Nat := (natsFrom 0 64).find? (fun i => (b.rings.find? i).isNone)

/-- `ringsub` (R402): the header is read and its counters and state are written in one step of the scratchpad. -/
def execRingsub (st : Fin 8) (rd rs1 : Fin 32) (s : State) : Out1 :=
  s.issueWith { st := st, reads := [.x rs1], writes := [.x rd] } fun s =>
    let h := s.cur.readX rs1
    match s.ownObj h.toNat 64 64 with
    | .error (cause, info) => .trap cause info h
    | .ok off =>
      let b := s.here.spBytes off 64
      let w := wordsOf (PByte.vals b) 8
      let w0 := (nth 0 w 0).toNat
      let u := ringUnit s.curCore
      if PByte.anyBad b then .trap 0x13 0 h
      else if s.here.spsize < off + ringBytes w0 then .trap 0x14 0 h
      else if badHeader w then .done s (nowX rd (w64 (2 ^ 63 + 2))) none
      else
        match (if s.bdeOff u then none else (s.bde u).freeRing) with
        | none => .done s (nowX rd (w64 (2 ^ 63 + 1))) none
        | some i =>
          let t := s.cur
          let r : Ring :=
            { core := s.curCore, uid := t.uid, launch := t.launch, asid := t.asid, job := t.job,
              ovl := (s.here.conf.map (·.ovl)).getD 0, hdr := off, word0 := w0, recVa := (nth 0 w 3).toNat,
              word4 := (nth 0 w 4).toNat, word5 := (nth 0 w 5).toNat }
          let s := s.spWrite s.curCore (off + 8) (PByte.clean (bytesOfWords [0, 0]))
          let s := s.spWrite s.curCore (off + 48) (PByte.clean (bytesOfWords [0x02]))
          .done (s.setRing u i r) (nowX rd (w64 (u * 64 + i))) none

/-- `ringstop` (R403): waits for the slot in progress. -/
def execRingstop (st : Fin 8) (rd rs1 : Fin 32) (s : State) : Out1 :=
  s.issueWith { st := st, reads := [.x rs1], writes := [.x rd] } fun s =>
    let n := bitsOf (s.cur.readX rs1).toNat 8 0
    match s.ring? (n / 64) (n % 64) with
    | none => .done s (nowX rd 1) none
    | some r =>
      if r.launch ≠ s.cur.launch ∨ r.ending.isSome then .done s (nowX rd 1) none
      else
        let r := { r with stop := r.stop ++ [(s.curCore, s.curCtx, s.cur.uid, Reg.x s.cur.bank rd)] }
        .done (s.setRing (n / 64) (n % 64) r) [.later (.x rd)] none

/-! ### The engine (R388, R389) -/

/-- Whether the launch of an operation is saved on a core (R390). -/
def State.savedOn (s : State) (core launch : Nat) : Bool :=
  s.saves.any (fun r => r.core == core && r.launches.contains launch)

/-- Word 6 of a header (R387). -/
def ringStatus (state detail page : Nat) : W64 := w64 (page % 2 ^ 32 * 2 ^ 32 + detail % 256 * 2 ^ 8 + state)

/-- Appends a write of a word of the header. -/
def State.ringWrite (s : State) (u i : Nat) (r : Ring) (word : Nat) (v : W64) : Ring × State :=
  let (id, s) :=
    s.engineSend (.ring u i) (.spad r.core) (.write (PByte.clean (leBytes v.toNat 8))) (r.hdr + 8 * word) 8 0 r.asid none
  ({ r with sent := r.sent ++ [id] }, s)

/-- The engine works on a slot when this holds (R389). -/
def Ring.slotReady (r : Ring) : Bool :=
  if r.storer then r.own < r.other && r.other ≤ r.total else r.own < r.total && r.own < r.other + r.nslot

/-- The continuation of slot `k`. -/
def Ring.continuation (r : Ring) (u i k : Nat) : Flight :=
  { msg :=
      { role := bitsOf r.word5 18 17, ovl := r.ovl, hnd := bitsOf r.word5 15 0, job := r.job,
        args := [w64 (u * 64 + i), w64 k, w64 (bitsOf r.word5 63 32), w64 (0xFFFFFFFFFFF00000 + r.hdr)] },
    launch := r.launch, target := r.core, sender := .ring u i, uid := r.uid,
    acq := some (if k + 1 = r.total then .package else .core) }

/-- The ring ends in a state once its writes are acknowledged; a slot in progress gives back its counted continuation. -/
def State.ringEnd (s : State) (u i : Nat) (r : Ring) (w : W64) : State :=
  let s := if r.busy && r.hen then s.countDown r.launch else s
  s.setRing u i { r with ending := some w, busy := false }

/-- The reads of a ring that have not been used. -/
def Ring.reads (r : Ring) : List EngLoad := r.recAsk.toList ++ r.reread.toList ++ r.mov.loads

/-- A fault at an address (R383, R389), PAGE counted from the first element of its side. -/
def State.ringFault (s : State) (u i : Nat) (r : Ring) (side detail va : Nat) : State :=
  let layout := (side == 1) == r.storer
  let start := if layout then (r.win r.own).firstAddr else r.slotVa r.own
  s.ringEnd u i r (ringStatus 0x20 detail (faultPage va start))

/-- What the slot in progress moves (R388). -/
def Ring.plan (r : Ring) : Plan :=
  if r.storer then .scatter (r.win r.own) r.cvt (r.slotVa r.own) else .gather (r.win r.own) r.cvt (r.slotVa r.own)

/-- Checks the record that has been read (R378, R388). -/
def State.ringChecked (s : State) (u i : Nat) (r : Ring) (rec0 : List W64) : State :=
  match recBad rec0 with
  | some word => s.ringEnd u i r (ringStatus 0x21 word 0)
  | none =>
    let rec1 := recSetBase rec0 (normVa r.core (recBase rec0))
    if r.slotsz < recCount rec1 * linearEb rec1 r.cvt || recNdim rec1 < r.sdim then s.ringEnd u i r (ringStatus 0x21 0 0)
    else s.setRing u i { r with record := rec1 }

/-- Reads the record, and checks it once it is answered. -/
def State.ringRecord (s : State) (u i : Nat) (r : Ring) : State :=
  match r.recAsk with
  | none =>
    let (l, _, s) := s.engineAsk (r.worker u i) [] r.recVa 96
    s.setRing u i { r with recAsk := some l }
  | some l =>
    match s.loadRead l with
    | .wait => s
    | .fault d va => s.ringEnd u i r (ringStatus 0x20 d (faultPage va (normVa r.core r.recVa)))
    | .ok b => (s.dropLoad l).ringChecked u i { r with recAsk := none } (wordsOf b 12)

/-- The slot in progress is finished: the counter advances, and the slot's continuation goes (R389). -/
def State.ringAdvance (s : State) (u i : Nat) (r : Ring) : State :=
  let k := r.own
  let (r, s) := s.ringWrite u i r (if r.storer then 2 else 1) (w64 (k + 1))
  let r := { r with own := k + 1, busy := false, mov := {}, leases := [] }
  let s := if k + 1 = r.total then s.ringEnd u i r (ringStatus 0x10 0 0) else s.setRing u i r
  if r.hen then s.sendContinuation (r.continuation u i k) else s

/-- The ring is over: the subscription is free, and `ringstop` returns. -/
def State.ringFree (s : State) (u i : Nat) (r : Ring) : State :=
  let s := (s.dropLoads r.reads).updBde u (fun b => { b with rings := b.rings.erase i })
  r.stop.foldl (fun s w => s.deliver w.1 w.2.1 w.2.2.1 w.2.2.2 0) s

/-- Whether a launch has been cancelled. -/
def State.cancelledLaunch (s : State) (launch : Nat) : Bool :=
  match s.launch? launch with
  | some l => l.cancelled
  | none => false

/-- A step of a ring engine between the moves of its elements (R389). -/
def State.ringStep (s : State) (u i : Nat) : State :=
  match s.ring? u i with
  | none => s
  | some r =>
    match r.ending with
    | some w =>
      if !s.acked r.sent || !r.reads.all s.allIn then s
      else if r.closing then s.ringFree u i r
      else
        let (r, s) := s.ringWrite u i r 6 w
        s.setRing u i { r with closing := true }
    | none =>
      if r.busy then (if r.plan.targets ≤ r.mov.next && s.acked r.sent then s.ringAdvance u i r else s)
      else if !r.stop.isEmpty || s.cancelledLaunch r.launch then s.ringEnd u i r (ringStatus 0x11 0 0)
      else if r.total ≤ r.own then s.ringEnd u i r (ringStatus 0x10 0 0)
      else if r.record.isEmpty then s.ringRecord u i r
      else if !r.slotReady || s.holdsFor (.ring u i) r.uid || s.savedOn r.core r.launch then s
      else
        let s := if r.hen then s.countUp r.launch else s
        s.setRing u i { r with busy := true, mov := {}, sent := r.sent.filter (fun x => !s.acked [x]) }

/-- RING_SLOT (R389). -/
def execRingSlot (stack ring : Nat) (s : State) : Out1 := stepOf (stack < 8 && ring < 64) s (·.ringStep stack ring)

/-- Engine issue of a ring (R154): the next reads and writes of the slot in progress. -/
def State.ringIssue (s : State) (u i : Nat) : State :=
  match s.ring? u i with
  | none => s
  | some r =>
    if !r.busy || r.ending.isSome || s.holdsFor (.ring u i) r.uid then s
    else
      match s.moveStep (r.worker u i) r.leases r.plan r.mov with
      | (.wait, _, _) => s
      | (.fault side d va ids, held, s) => s.ringFault u i { r with leases := held, sent := r.sent ++ ids } side d va
      | (.ok m ids, held, s) => s.setRing u i { r with leases := held, mov := m, sent := r.sent ++ ids }

/-- The counter of the task as a read at the ring's home has found it (R389): one that goes back or leaves the ring's range ends
the ring. -/
def State.ringCounted (s : State) (u i : Nat) (r : Ring) (v : Nat) : State :=
  let prod := if r.storer then v else r.own
  let cons := if r.storer then r.own else v
  if v < r.other || prod < cons || r.nslot < prod - cons then s.ringEnd u i r (ringStatus 0x20 0 0)
  else s.setRing u i { r with other := v }

/-- The counter of the task is read, and what the last read has brought is taken. -/
def State.ringReread (s : State) (u i : Nat) : State :=
  match s.ring? u i with
  | none => s
  | some r =>
    if r.ending.isSome then s
    else
      match r.reread with
      | none =>
        let (l, _, s) := s.engineAsk (r.worker u i) [] (otherVa r.core (r.hdr + (if r.storer then 8 else 16))) 8
        s.setRing u i { r with reread := some l }
      | some l =>
        match s.loadRead l with
        | .wait => s
        | .fault d _ => s.ringEnd u i r (ringStatus 0x20 d 0)
        | .ok b => (s.dropLoad l).ringCounted u i { r with reread := none } (leNat b)

/-- RING_COUNTER_REREAD (R389). -/
def execRingCounterReread (stack ring : Nat) (s : State) : Out1 := stepOf (stack < 8 && ring < 64) s (·.ringReread stack ring)

/-- Lease renewal of a ring (R362). -/
def State.ringRenew (s : State) (u i : Nat) : State :=
  match s.ring? u i with
  | none => s
  | some r =>
    if r.ending.isSome then s
    else
      match s.renewHeld (u / 2) r.asid r.leases with
      | (.ok held, s) => s.setRing u i { r with leases := held }
      | (.error k, s) =>
        if r.busy then s.ringFault u i r (heldSide k) dLease (max (heldVa k) (r.win r.own).firstAddr)
        else s.setRing u i { r with leases := [] }

end Sys2Proof.Machine
end

