-- ==== Sys2Proof/Machine/Zones.lean ====
section
/-!
DEFINITION. Sys2Proof/Machine/Zones.lean: landing zones and collectives (R176, R395 to R399, R405, R406).
-/
namespace Sys2Proof.Machine
open Sys2Proof.Fp

/-! ### Accumulators (R395, R396) -/

/-- The formats of a zone or a collective (R395). -/
def zoneFormat (f : Nat) : Bool := f ≤ 2 || f == 0xB

/-- One contribution `v` to an accumulator, its count aside (R396). -/
def ZoneElem.add (z : ZoneElem) (frac : Nat) (v : Exact) : ZoneElem :=
  if !v.isFin then { z with nan := true }
  else
    let t := roundInt .rne (v.scale2 frac)
    if 2 ^ 191 ≤ t.natAbs then { z with ovf := true }
    else
      let a := z.a + t
      if -(2 ^ 191 : Int) ≤ a ∧ a < 2 ^ 191 then { z with a := a } else { z with a := sgnOf 192 (wrapInt 192 a), ovf := true }

/-- The value that an accumulator is read out as (R396). -/
def ZoneElem.read (z : ZoneElem) (fmt frac : Nat) : Nat :=
  if z.nan then rnd fmt .nan .rne false
  else if z.ovf then (if fmt = 0xB then wrapInt 32 z.a else rnd fmt .nan .rne false)
  else rnd fmt (.fin (decide (z.a < 0)) z.a.natAbs (2 ^ frac)) .rne false

/-- Contributions to elements from `i` on, in increasing order: the zone, and whether one was refused. -/
def Zone.addAll (z : Zone) (i : Nat) : List W32 → Zone × Bool
  | [] => (z, false)
  | x :: xs =>
    let e := z.elems.get {} i
    if z.e ≤ e.count || z.out then
      let r := z.addAll (i + 1) xs
      (r.1, true)
    else
      { z with elems := z.elems.set i { (e.add z.frac (val z.fmt x.toNat)) with count := e.count + 1 } }.addAll (i + 1) xs

/-- Every element has its contributions. -/
def Zone.full (z : Zone) : Bool := (natsFrom 0 z.count).all (fun i => (z.elems.get {} i).count == z.e)

/-! ### Zones of a BDE -/

def State.zone? (s : State) (b i : Nat) : Option Zone := (s.bde b).zones.find? i
def State.setZone (s : State) (b i : Nat) (z : Zone) : State := s.updBde b (fun e => { e with zones := e.zones.set i z })
def State.dropZone (s : State) (b i : Nat) : State := s.updBde b (fun e => { e with zones := e.zones.erase i })

/-- Whether accumulators `a` to `a + n - 1` are free. -/
def Bde.freeRun (b : Bde) (a n : Nat) : Bool :=
  a + n ≤ 65536 && b.zones.all (fun e => e.2.first + e.2.count ≤ a || a + n ≤ e.2.first)

/-- A zone entry and a run of accumulators for `n` elements: the first that are free. -/
def Bde.place (b : Bde) (n : Nat) : Option (Nat × Nat) :=
  match (natsFrom 0 64).find? (fun i => (b.zones.find? i).isNone) with
  | none => none
  | some i => ((0 :: (Map.vals b.zones).map (fun z => z.first + z.count)).find? (fun a => b.freeRun a n)).map (fun a => (i, a))

/-- The zone that a transfer id opened, where it is open; an id of a copy channel opens none (R380). -/
def State.zoneOf (s : State) (t : Nat) : Option (Nat × Nat × Zone) :=
  match (if bitOf t 23 then s.bdeOp? t else none).bind (·.zone) with
  | some (b, i) => (s.zone? b i).map (fun z => (b, i, z))
  | none => none

/-- A collective ends with a fault: its zone closes, and nothing more is appended for it (R383, R398, R399). -/
def State.stopColl (s : State) (u ch : Nat) (o : BdeOp) (side detail page : Nat) : State :=
  let s := match o.zone with | some (b, i) => s.dropZone b i | none => s
  s.setBdeOp u ch { (o.fault side detail page) with todo := [], zone := none }

/-! ### `lzput` (R405) -/

/-- `lzput` (R405): without an open zone no element has a format, and nothing is read. -/
def execLzput (st : Fin 8) (rd rs1 rs2 : Fin 32) (s : State) : Out1 :=
  s.issueWith { st := st, reads := [.x rs1, .x rs2], writes := [.x rd] } fun s =>
    let x := (s.cur.readX rs2).toNat
    let z := bitsOf x 23 0
    let reg := Reg.x s.cur.bank rd
    if bitsOf x 31 24 ≠ 0 ∨ bitsOf x 63 56 ≠ 0 then .trap 0x02 0 0
    else
      match s.zoneOf z with
      | none =>
        .done (s.sendUnit (.bde (bitsOf z 22 20)) (.zone z (bitsOf x 47 32) [] false) none (.value reg 8 false)) [.later (.x rd)] none
      | some (b, _, zn) =>
        let n := fmtBits zn.fmt / 8
        let a := s.cur.readX rs1
        let vas := (natsFrom 0 (bitsOf x 55 48 + 1)).map (fun i => (a + w64 (i * n)).toNat)
        match s.laneTrap n vas with
        | some (cause, fb) => .trap cause 0 fb
        | none =>
          if s.laneWaits n vas then .hold s.waitStall
          else
            let vals := vas.map (fun va => BitVec.ofNat 32 (leNat (Memory.bytes s.here.spad (va % 2 ^ 20) n)))
            let op := HomeOp.zone z (bitsOf x 47 32) vals (s.lanePoison n vas).isSome
            .done (s.sendUnit (.bde b) op none (.value reg 8 false)) [.later (.x rd)] none

/-- What a BDE does with a contribution request: the result, and the state (R396, R405, R459). -/
def State.contribute (s : State) (asid z first : Nat) (vals : List W32) (bad : Bool) : W64 × State :=
  match s.zoneOf z with
  | none => (1, s)
  | some (b, i, zn) =>
    if zn.asid ≠ asid ∨ zn.count < first + vals.length ∨ vals.isEmpty then (1, s)
    else if bad then
      match s.bdeHead zn.unit zn.chan with
      | some o => (1, s.stopColl zn.unit zn.chan o 0 0x9 0)
      | none => (1, s)
    else
      let (zn, refused) := zn.addAll first vals
      (if refused then 2 else 0, s.setZone b i zn)

/-- The head request of a channel to a BDE, performed there. -/
def State.zoneStep (s : State) (agent : Agent) (b : Nat) : State :=
  match s.chan agent (.bde b) with
  | r :: _ =>
    match r.op with
    | .zone z first vals bad =>
      let (res, s) := s.contribute r.asid z first vals bad
      let s := { s with chans := popReq s.chans agent (.bde b) }
      s.respond { req := r, val := res }
    | _ => s
  | [] => s

/-- ZONE_CONTRIBUTION (R396). -/
def execZoneContribution (agent : Agent) (home : Home) (s : State) : Out1 :=
  match home with
  | .bde b => stepOf (b < 8) s (·.zoneStep agent b)
  | _ => .fault .noSuchUnit

/-- The writes of values of `n` bytes to consecutive addresses, cut at aligned units of 8 bytes (R164). -/
def landList (dst n : Nat) (vals : List Nat) : List LandWrite :=
  let bytes := vals.flatMap (fun v => leBytes v n)
  (cutUnits dst (PByte.clean bytes) (bytes.length + 1)).map (fun u => ⟨u.1 % 2 ^ 64, .write u.2, u.2.length⟩)

/-- ZONE_READOUT (R396): the writes of a full zone are ready to append. -/
def State.zoneReadout (s : State) (b i : Nat) : State :=
  match s.zone? b i with
  | none => s
  | some z =>
    match s.bdeHead z.unit z.chan with
    | none => s
    | some o =>
      if z.out || !z.full then s
      else
        let es := (natsFrom 0 z.count).map (fun k => z.elems.get {} k)
        let todo := landList z.dst (fmtBits z.fmt / 8) (es.map (fun e => e.read z.fmt z.frac))
        let s := s.setZone b i { z with out := true }
        s.setBdeOp z.unit z.chan { o with todo := todo, ovf := es.any (·.ovf) }

def execZoneReadout (stack zone : Nat) (s : State) : Out1 := stepOf (stack < 8 && zone < 64) s (·.zoneReadout stack zone)

/-- Who a BDE works for. -/
def BdeOp.worker (o : BdeOp) (u ch : Nat) : Worker := ⟨.bde u ch, o.core, o.asid, o.launch⟩

/-- Appends the next write of a BDE operation for an agent; a fault stops the operation (R383). -/
def State.landNext (s : State) (agent : Agent) (u ch : Nat) (o : BdeOp) (dst : Nat) : State :=
  match o.todo with
  | [] => s
  | w :: rest =>
    match s.workPlace { o.worker u ch with agent := agent } o.leases w.va w.len true with
    | (.error d, held, s) => s.stopColl u ch { o with leases := held } 1 d (faultPage w.va dst)
    | (.ok p, held, s) =>
      let (id, s) := s.engineSend agent (s.placeHome p) w.op p.addr w.len w.va o.asid p.exp
      s.setBdeOp u ch { o with todo := rest, leases := held, sent := o.sent ++ [id] }

/-- The first zone of a BDE that is being read out. -/
def State.zoneOut (s : State) (b : Nat) : Option (Nat × Zone) := List.find? (fun (e : Nat × Zone) => e.2.out) (s.bde b).zones

/-- Engine issue of a zone's read-out. -/
def State.zoneIssue (s : State) (b : Nat) : State :=
  match s.zoneOut b with
  | none => s
  | some (_, z) =>
    match s.bdeHead z.unit z.chan with
    | some o => s.landNext (.zone b) z.unit z.chan o z.dst
    | none => s

/-- Engine event of a zone's read-out: the zone closes and the operation is done (R396), or ends as its fault says. -/
def State.zoneEvent (s : State) (b : Nat) : State :=
  match s.zoneOut b with
  | none => s
  | some (i, z) =>
    match s.bdeHead z.unit z.chan with
    | none => s
    | some o =>
      if !o.todo.isEmpty || !s.acked o.sent then s
      else
        let s := s.dropZone b i
        match o.stopped with
        | some st => s.finishBde z.unit z.chan { o with state := st }
        | none => s.finishBde z.unit z.chan { o with state := 0x10, sf := true, vis := true }

/-! ### Collectives (R176, R397, R398, R399, R406) -/

/-- `coll` (R406). -/
def execColl (st : Fin 8) (rd rs1 : Fin 32) (s : State) : Out1 :=
  s.issueWith { st := st, reads := [.x rs1], writes := [.x rd] } fun s =>
    let va := s.cur.readX rs1
    if inWindow va.toNat then .trap 0x11 0 va
    else if va.toNat % 64 ≠ 0 then .trap 0x04 0 va
    else
      let (c, s) := s.freeChoice
      let (id, s) := s.enqueueBde (2 * s.die + c % 2) (c / 2 % 16) { (s.newBdeOp .coll) with src := va.toNat }
      .done s (nowX rd id) none

/-- The fields of a descriptor (R397). -/
def BdeOp.op (o : BdeOp) : Nat := recBits o.words 0 3 0
def BdeOp.fmt (o : BdeOp) : Nat := recBits o.words 0 7 4
def BdeOp.npart (o : BdeOp) : Nat := recBits o.words 0 39 31
def BdeOp.frac (o : BdeOp) : Nat := recBits o.words 0 47 40
def BdeOp.tout (o : BdeOp) : Nat := recBits o.words 0 63 48
def BdeOp.srcBuf (o : BdeOp) : Nat := recBits o.words 1 63 0
def BdeOp.dstBuf (o : BdeOp) : Nat := recBits o.words 2 63 0
def BdeOp.ecount (o : BdeOp) : Nat := recBits o.words 3 63 32
def BdeOp.count (o : BdeOp) : Nat := recBits o.words 3 31 0
def BdeOp.eb (o : BdeOp) : Nat := fmtBits o.fmt / 8

/-- Whether a descriptor is bad (R398, R399). -/
def badDescriptor (o : BdeOp) : Bool :=
  recBits o.words 0 30 8 != 0 || nth 0 o.words 6 != 0 || nth 0 o.words 7 != 0 || 4 < o.op || !zoneFormat o.fmt || 191 < o.frac ||
    (if o.op == 4 then o.count == 0 || 65536 < o.count || o.ecount == 0 || 65535 < o.ecount
     else o.ecount != 0 || o.npart == 0 || 432 < o.npart || o.count == 0 || (o.op == 1 && o.count % o.npart != 0))

/-- The module's own id (R474). -/
def State.modId (s : State) : Nat := s.regBits pFabctl 16 8

/-- The n16 values of bytes. -/
def halves : Nat → List Byte → List Nat
  | 0, _ => []
  | n + 1, b => leNat (b.take 2) :: halves n (b.drop 2)

/-- Opens the zone of OP 4 at the BDE that homes DST (R399). -/
def State.openZone (s : State) (u ch : Nat) (o : BdeOp) : State :=
  match s.workPlace (o.worker u ch) [] o.dstBuf 1 true with
  | (.error d, _, s) => s.stopColl u ch o 1 d 0
  | (.ok p, _, s) =>
    let b := match p with | .mem tr => (if inHbm tr.pa 1 then stackOf tr.pa else u) | .spad c _ => 2 * dieOf c
    if s.bdeOff b then s.stopColl u ch o 0 0 0
    else
      match (s.bde b).place o.count with
      | none => s.stopColl u ch o 0 0xC 0
      | some (i, a) =>
        let z : Zone :=
          { unit := u, chan := ch, seq := o.seq, asid := o.asid, first := a, fmt := o.fmt, frac := o.frac, e := o.ecount,
            dst := o.dstBuf, count := o.count }
        (s.setZone b i z).setBdeOp u ch { o with zone := some (b, i) }

/-- The head of a channel starts as a collective: it asks for its descriptor (R406). -/
def State.collBegin (s : State) (u ch : Nat) (o : BdeOp) : State :=
  if s.bdeOff u then s.failBde u ch o 0 0 0
  else
    let (l, _, s) := s.engineAsk (o.worker u ch) [] o.src 64
    s.setBdeOp u ch { o with state := 0x02, ask := some l, began := s.timeOf (u / 2) }

/-- Bytes of SRC, and of DST. -/
def BdeOp.srcLen (o : BdeOp) : Nat := o.count * o.eb
def BdeOp.dstLen (o : BdeOp) : Nat := match o.op with | 1 => o.srcLen / o.npart | 2 => o.srcLen * o.npart | _ => o.srcLen

/-- Whether `n` bytes at an address lie in a buffer that a collective names. -/
def BdeOp.named (o : BdeOp) (va n : Nat) : Bool := overlap va n o.srcBuf o.srcLen || overlap va n o.dstBuf o.dstLen

/-- The release of a participant (R176): the bytes of the named buffers that are dirty in its core's L1 are written back, and the
collective goes on once they and every earlier write of the core to the buffers are acknowledged. -/
def State.collRelease (s : State) (o : BdeOp) : List Nat × State :=
  let s := s.writeBackAll o.core (fun l => l.asid == o.asid && o.named (l.line * 128) 128)
  (((s.core o.core).out.filter (fun w => w.write && w.req.asid == o.asid && o.named w.req.va w.req.size)).map (·.req.id), s)

/-- The descriptor is read: it is checked, OP 4 opens its zone, and the others ask for the module list (R397 to R399). -/
def State.collDescriptor (s : State) (u ch : Nat) (o : BdeOp) : State :=
  if badDescriptor o then s.stopColl u ch o 0 0 0
  else if o.op = 4 then s.openZone u ch o
  else
    let (ids, s) := s.collRelease o
    let (l, _, s) := s.engineAsk (o.worker u ch) [] (recBits o.words 4 63 0) (2 * o.npart)
    s.setBdeOp u ch { o with ask := some l, flush := ids }

/-- Whether this module's SRC takes part: of a broadcast, only the root's does (R398). -/
def BdeOp.hasPart (o : BdeOp) (own : Nat) : Bool := o.op != 3 || o.plist.head? == some own

/-- Asks for SRC, once the module's writes to the buffers are acknowledged. -/
def State.collPart (s : State) (u ch : Nat) (o : BdeOp) : State :=
  if o.flush.any (fun i => (s.core o.core).out.any (fun w => w.req.id == i)) then s
  else
    let (l, held, s) := if o.hasPart s.modId then s.engineAsk (o.worker u ch) o.leases o.srcBuf o.srcLen else ({}, o.leases, s)
    s.setBdeOp u ch { o with ask := some l, leases := held }

/-- The next read of a collective that has not come to its parts: what has been read is taken, and the next is asked for. -/
def State.collReads (s : State) (u ch : Nat) (o : BdeOp) : State :=
  match o.ask with
  | none => if o.plist.isEmpty then s else s.collPart u ch o
  | some l =>
    if !o.plist.isEmpty then s
    else
      match s.loadRead l with
      | .wait => s
      | .fault d va => s.stopColl u ch o 0 d (faultPage va (if o.words.isEmpty then o.src else recBits o.words 4 63 0))
      | .ok b =>
        let s := s.dropLoad l
        let o := { o with ask := none }
        if o.words.isEmpty then s.collDescriptor u ch { o with words := wordsOf b 8 }
        else
          let mods := halves o.npart b
          if (mods.filter (· == s.modId)).length = 1 then s.setBdeOp u ch { o with plist := mods } else s.stopColl u ch o 0 0 0

/-- COLL_START (R398). -/
def State.collStart (s : State) (u ch : Nat) : State :=
  match s.bdeHead u ch with
  | some o => if o.state = 0x01 ∧ o.kind = .coll then s.collBegin u ch o else s
  | none => s

def execCollStart (agent : Agent) (s : State) : Out1 :=
  match agent with
  | .bde u ch => stepOf (u < 8 && ch < 16) s (·.collStart u ch)
  | _ => .fault .noSuchUnit

/-- COLL_TIMEOUT (R398): a running collective whose time is over. -/
def State.collTimeout (s : State) (u ch : Nat) : State :=
  match s.bdeHead u ch with
  | none => s
  | some o =>
    if o.kind ≠ .coll ∨ o.state ≠ 0x02 ∨ o.tout = 0 ∨ o.stopped.isSome ∨
        s.timeOf (u / 2) < o.began + o.tout * 1000 then s
    else s.stopColl u ch o 0 0xD 0

def execCollTimeout (agent : Agent) (s : State) : Out1 :=
  match agent with
  | .bde u ch => stepOf (u < 8 && ch < 16) s (·.collTimeout u ch)
  | _ => .fault .noSuchUnit

/-- The elements of a buffer. -/
def elemsOf (eb : Nat) : Nat → List Byte → List Nat
  | 0, _ => []
  | n + 1, b => leNat (b.take eb) :: elemsOf eb n (b.drop eb)

/-- The sum of the `i`-th elements of every participant, through an accumulator (R396, R398). -/
def sumElem (fmt frac i : Nat) (parts : List (List Nat)) : ZoneElem :=
  parts.foldl (fun z p => z.add frac (val fmt (nth 0 p i))) {}

/-- What a collective leaves at this module's DST, with OVF (R398). -/
def BdeOp.result (o : BdeOp) (own : Nat) (srcs : List (List Byte)) : List Nat × Bool :=
  let parts := srcs.map (elemsOf o.eb o.count)
  let pos := (findIdx (· == own) o.plist).getD 0
  let sums := fun (first n : Nat) =>
    let es := (natsFrom first n).map (fun i => sumElem o.fmt o.frac i parts)
    (es.map (fun e => e.read o.fmt o.frac), es.any (·.ovf))
  match o.op with
  | 0 => sums 0 o.count
  | 1 => sums (pos * (o.count / o.npart)) (o.count / o.npart)
  | 2 => (parts.flatten, false)
  | _ => (nth [] parts 0, false)

/-- The participants' parts are in: every module's SRC buffer in the order of PLIST, this module's own as it has been read. A part
of another size is a mismatch of parameters; a broadcast has the root's part alone (R398). -/
def State.collSum (s : State) (u ch : Nat) (o : BdeOp) (srcs : List (List Byte)) : State :=
  match o.plist, o.ask with
  | _ :: _, some l =>
    match s.loadRead l with
    | .wait => s
    | .fault d va => s.stopColl u ch o 0 d (faultPage va o.srcBuf)
    | .ok b =>
      let all := List.zipWith (fun m x => if m = s.modId then b else x) o.plist srcs
      let parts := if o.op = 3 then all.take 1 else all
      if srcs.length ≠ o.npart ∨ parts.any (fun x => x.length != o.srcLen) then s.stopColl u ch o 0 0 0
      else
        let (vals, ovf) := o.result s.modId all
        (s.dropLoad l).setBdeOp u ch
          { o with summed := true, sf := true, ovf := ovf, todo := landList o.dstBuf o.eb vals, ask := none }
  | _, _ => s

/-- The end of a collective whose writes are acknowledged. -/
def State.collEnd (s : State) (u ch : Nat) (o : BdeOp) : State :=
  if !o.todo.isEmpty || !s.acked o.sent || !o.ask.toList.all s.allIn then s
  else
    match o.stopped with
    | some st => (s.dropLoads o.ask.toList).finishBde u ch { o with state := st }
    | none => if o.summed then s.finishBde u ch { o with state := 0x10, sf := true, vis := true } else s

/-- COLL_COMPLETE (R176, R398): the participants' parts come together, or, once every write is acknowledged, the collective
is complete. -/
def State.collComplete (s : State) (u ch : Nat) (srcs : List (List Byte)) : State :=
  match s.bdeHead u ch with
  | none => s
  | some o =>
    if o.kind ≠ .coll ∨ o.state ≠ 0x02 ∨ o.zone.isSome then s
    else if o.summed || o.stopped.isSome then s.collEnd u ch o
    else s.collSum u ch o srcs

def execCollComplete (agent : Agent) (srcs : List (List Byte)) (s : State) : Out1 :=
  match agent with
  | .bde u ch => stepOf (u < 8 && ch < 16) s (·.collComplete u ch srcs)
  | _ => .fault .noSuchUnit

/-! ### Issue, event and renewal of a BDE channel -/

/-- Engine issue of a BDE channel. -/
def State.bdeIssue (s : State) (u ch : Nat) : State :=
  match s.bdeHead u ch with
  | none => s
  | some o =>
    if o.state ≠ 0x02 then s
    else if o.kind = .coll then
      (if o.zone.isSome || o.stopped.isSome then s
      else if o.summed then s.landNext (.bde u ch) u ch o o.dstBuf
      else s.collReads u ch o)
    else s.rowTransfer u ch o

/-- Engine event of a BDE channel. -/
def State.bdeEvent (s : State) (u ch : Nat) : State :=
  match s.bdeHead u ch with
  | none => s
  | some o =>
    if o.state ≠ 0x02 then s
    else if o.kind = .coll then (if o.zone.isSome then s else s.collEnd u ch o)
    else s.rowEvent u ch o

/-- Lease renewal of a BDE channel: a page of SRC or DST that is dropped is the fault of its side (R362, R381, R399). -/
def State.bdeRenew (s : State) (u ch : Nat) : State :=
  match s.bdeHead u ch with
  | none => s
  | some o =>
    if o.kind ≠ .coll then s.rowRenew u ch o
    else if o.state ≠ 0x02 ∨ o.stopped.isSome then s
    else
      let die := match o.zone with | some (b, _) => b / 2 | none => u / 2
      match s.renewHeld die o.asid o.leases with
      | (.ok held, s) => s.setBdeOp u ch { o with leases := held }
      | (.error k, s) =>
        let start := if heldSide k = 0 then o.srcBuf else o.dstBuf
        s.stopColl u ch o (heldSide k) dLease (faultPage (max (heldVa k) start) start)

end Sys2Proof.Machine
end

