-- ==== Sys2Proof/Machine/Video.lean ====
section
/-!
DEFINITION. Sys2Proof/Machine/Video.lean: the video decode engines, `vdec` and `vdstat` (R427 to R443). What a bitstream
decodes to comes from the constants of Config (assumption log 12).
-/
namespace Sys2Proof.Machine
open Sys2Proof.Fp

/-! ### Engines and job ids (R427, R428, R440) -/

def State.video (s : State) (v : Nat) : VideoUnit := s.videos.get {} v
def State.updVideo (s : State) (v : Nat) (f : VideoUnit → VideoUnit) : State := { s with videos := s.videos.set v (f (s.video v)) }
def State.videoHead (s : State) (v : Nat) : Option DecJob := (s.video v).queue.head?
def State.setJob (s : State) (v : Nat) (j : DecJob) : State := s.updVideo v (fun u => { u with queue := j :: u.queue.drop 1 })

/-- Whether engine `v` of the module is disabled (R485). -/
def State.videoOff (s : State) (v : Nat) : Bool := s.disabled (v / 8) (808 + v % 8)

def jobId (v seq : Nat) : W64 := w64 (v % 32 * 2 ^ 19 + seq % 2 ^ 16)

/-- The status word of a job (R440). -/
def DecJob.word (j : DecJob) : W64 :=
  w64 (min j.nbad 65535 * 2 ^ 48 + j.ndone % 2 ^ 16 * 2 ^ 32 + j.detail % 256 * 2 ^ 8 + j.state % 256)

def DecJob.done (j : DecJob) : DoneOp := ⟨j.seq, j.asid, j.word, .package⟩

/-- The status word that a job id reads in an address space. -/
def VideoUnit.statusOf (u : VideoUnit) (seq asid : Nat) : W64 :=
  let d := ((u.queue.find? (fun j => j.seq == seq)).map DecJob.done).or (u.recent.find? (fun e => e.seq == seq))
  if latest u.nextSeq seq then ((d.filter (fun e => e.asid == asid)).map (·.status)).getD 0x30 else 0x30

/-! ### The instructions (R442, R443) -/

/-- The engine that a `vdec` goes to, by module id; a choice that the device makes is free. -/
def State.chooseVideo (s : State) (g : Nat) : Nat × State :=
  let first := s.die * 8
  if g ≤ 7 then (first + g, s)
  else
    match (natsFrom first 8).filter (fun v => !s.videoOff v) with
    | [] => (first, s)
    | l =>
      let (c, s) := s.freeChoice
      (nth first l (c % l.length), s)

/-- `vdec` (R442). -/
def execVdec (st : Fin 8) (rd rs1 rs2 : Fin 32) (s : State) : Out1 :=
  s.issueWith { st := st, reads := [.x rs1, .x rs2], writes := [.x rd] } fun s =>
    let r := s.cur.readX rs1
    let g := (s.cur.readX rs2).toNat
    if inWindow r.toNat then .trap 0x11 0 r
    else if r.toNat % 128 ≠ 0 then .trap 0x04 0 r
    else if g ≠ 2 ^ 64 - 1 ∧ 7 < g then .trap 0x11 0 (w64 g)
    else
      let (v, s) := s.chooseVideo g
      let u := s.video v
      if 16 ≤ u.queue.length then .hold (s.waitCond false)
      else
        let t := s.cur
        let j : DecJob :=
          { seq := u.nextSeq % 2 ^ 16, recVa := r.toNat, core := s.curCore, uid := t.uid, launch := t.launch, asid := t.asid,
            job := t.job, off := s.videoOff v }
        let s := s.updVideo v (fun u => { u with nextSeq := u.nextSeq + 1, queue := u.queue ++ [j] })
        .done s (nowX rd (jobId v j.seq)) none

/-- `vdstat` (R443). -/
def execVdstat (st : Fin 8) (rd rs1 : Fin 32) (e : Fin 2) (s : State) : Out1 :=
  s.issueWith { st := st, reads := [.x rs1], writes := [.x rd] } fun s =>
    let t := s.cur.readX rs1
    let w := (s.video (bitsOf t.toNat 23 19)).statusOf (bitsOf t.toNat 15 0) s.cur.asid
    if bitsOf t.toNat 63 24 ≠ 0 ∨ bitsOf t.toNat 18 16 ≠ 0 then .trap 0x11 0 t
    else if e == 1 && !finalState w then .hold (s.waitCond false)
    else
      let s := if finalState w && bitsOf w.toNat 7 0 != 0x30 then s.acquire s.curCore .package else s
      .done s (nowX rd w) none

/-! ### The record (R429, R430) -/

def DecJob.b (j : DecJob) (i hi lo : Nat) : Nat := recBits j.words i hi lo
def DecJob.pw (j : DecJob) : Nat := j.b 8 7 0 + 1
def DecJob.ph (j : DecJob) : Nat := j.b 8 15 8 + 1
def DecJob.nc (j : DecJob) : Nat := 1 + 2 * j.b 8 33 32
def DecJob.npx (j : DecJob) : Nat := j.b 7 47 32 / j.pw
def DecJob.np (j : DecJob) : Nat := j.npx * (j.b 7 63 48 / j.ph)
def DecJob.elems (j : DecJob) : Nat := j.nc * j.pw * j.ph * j.np
def DecJob.ofmt (j : DecJob) : Nat := j.b 8 38 35
def DecJob.nfrm (j : DecJob) : Nat := j.b 8 31 16
def DecJob.bar (j : DecJob) : Nat := j.b 5 63 0
def DecJob.stat (j : DecJob) : Nat := j.b 6 63 0
def DecJob.nslot (j : DecJob) : Nat := bitsOf j.word0 8 0
def DecJob.slotsz (j : DecJob) : Nat := bitsOf j.word0 39 16
def DecJob.worker (j : DecJob) (v : Nat) : Worker := ⟨.video v, j.core, j.asid, j.launch⟩

/-- The record of a running job by its words; one that cannot be read is not judged (R432). -/
def DecJob.known (j : DecJob) (i : Nat) : Bool := !j.unread.contains i

/-- Whether a word of the job's record is at fault, by itself (R432). -/
def DecJob.badWord (j : DecJob) (i : Nat) : Bool :=
  match i with
  | 1 => j.b 1 63 40 != 0
  | 4 => j.b 4 63 40 != 0 || (j.known 8 && 8 ≤ fmtBits j.ofmt && j.b 4 39 0 % (fmtBits j.ofmt / 8) != 0)
  | 5 => j.bar % 128 != 0
  | 6 => j.stat % 8 != 0
  | 7 => j.b 7 47 32 == 0 || j.b 7 63 48 == 0 || (j.known 8 && (j.b 7 47 32 % j.pw != 0 || j.b 7 63 48 % j.ph != 0))
  | 8 => j.b 8 63 39 != 0 || !(j.ofmt == 1 || j.ofmt == 2 || j.ofmt == 9) || 1 < j.b 8 33 32 || j.nfrm == 0
  | 12 => nth 0 j.words 12 != 0
  | 13 => nth 0 j.words 13 != 0
  | 14 => nth 0 j.words 14 != 0
  | 15 => nth 0 j.words 15 != 0
  | _ => false

/-- The layout record is bad, or does not suit the job (R432). -/
def DecJob.badLayout (j : DecJob) : Bool :=
  (recBad j.record).isSome || (j.known 8 && recFmt j.record != j.ofmt) ||
    (j.known 7 && j.known 8 && recCount j.record != j.elems)

/-- Whether a ring's header, whose words have been read, does not suit the job: what remains of its scratchpad from the header on
is `room` bytes (R432). -/
def DecJob.badRing (j : DecJob) (w : List W64) (room : Nat) : Bool :=
  let w0 := (nth 0 w 0).toNat
  let w4 := (nth 0 w 4).toNat
  room < ringBytes w0 || badHeader w || bitOf w0 40 || bitOf w0 41 || (j.known 8 && bitsOf w4 31 0 < j.nfrm) ||
    bitsOf (nth 0 w 6).toNat 7 0 == 0x02 ||
    (j.known 7 && j.known 8 && bitsOf w0 39 16 < j.elems * (fmtBits j.ofmt / 8))

/-- The words that a read has brought, and the numbers of those that it could not. -/
def State.loadWords (s : State) (l : EngLoad) : List W64 × List Nat :=
  let one := fun (i : Nat) => match l.pieces[i]? with
    | some p => (match s.collect [p] with | .ok b => some (w64 (leNat b)) | _ => none)
    | none => none
  let ws := (natsFrom 0 l.n).map one
  (ws.map (·.getD 0), (natsFrom 0 l.n).filter (fun i => (nth none ws i).isNone))

/-- The first word at fault of a job's record, its layout record and its ring being judged as far as they are known. -/
def DecJob.firstFault (j : DecJob) (ringBad : Bool) : Option Nat :=
  (natsFrom 0 16).find? (fun i => !j.known i || j.badWord i || (i == 2 && j.badRec) || (i == 3 && ringBad))

/-! ### The end of a job (R437 to R440) -/

/-- The job at the head of an engine reaches its final state, with a report when a frame was not OK (R439): the frames in each
state are counted by 16 bits, those that are OK above the state and class of the first that is not (assumption log 113). -/
def State.finishJob (s : State) (v : Nat) (j : DecJob) : State :=
  let s := s.updVideo v (fun u => { u with queue := u.queue.drop 1, recent := (j.done :: u.recent).take 16 })
  match j.firstBad with
  | none => s
  | some (f, w) =>
    s.report 0x08 3 (808 + v % 8) (v / 8)
      [jobId v j.seq, w64 f, w64 (nth 0 j.counts 0 * 2 ^ 48 + bitsOf w 23 20 * 2 ^ 8 + bitsOf w 7 0),
        w64 ((natsFrom 0 4).foldl (fun n i => n + nth 0 j.counts (i + 1) % 2 ^ 16 * 2 ^ (16 * i)) 0)]

/-- Appends a write of a word of the ring's header. -/
def State.jobRingWrite (s : State) (v : Nat) (j : DecJob) (word : Nat) (x : W64) : DecJob × State :=
  match j.ring with
  | none => (j, s)
  | some (c, off) =>
    let (id, s) :=
      s.engineSend (.video v) (.spad c) (.write (PByte.clean (leBytes x.toNat 8))) (off + 8 * word) 8 0 j.asid none
    ({ j with sent := j.sent.filter (fun i => !s.acked [i]) ++ [id] }, s)

/-- Ends a job whose frames are over: the ring's header is written, then its final state stands (R437, R440). -/
def State.jobEnd (s : State) (v : Nat) (j : DecJob) : State :=
  let st := j.ending.getD 0x10
  let loads := j.ask.toList ++ j.reread.toList
  if !s.acked j.sent || !loads.all s.allIn then s
  else if j.closing || j.ring.isNone then (s.dropLoads loads).finishJob v { j with state := st }
  else
    let w := match j.ringBad with
      | some d => ringStatus 0x20 d 0
      | none => ringStatus (if st = 0x10 then 0x10 else 0x11) 0 0
    let (j, s) := s.jobRingWrite v j 6 w
    s.setJob v { j with closing := true }

/-! ### The start of a job (R432, R437, R442) -/

/-- The head of an engine's queue starts: it asks for its record. -/
def State.jobBegin (s : State) (v : Nat) (j : DecJob) : State :=
  if j.off then s.finishJob v { j with state := 0x20, detail := 0xFF }
  else
    let (l, _, s) := s.engineAsk (j.worker v) [] j.recVa 128
    s.setJob v { j with state := 0x02, ask := some { l with n := 16 } }

/-- The job's records are judged: it ends BAD-RECORD with the first word at fault, or begins its frames with the producer's part
of its ring (R432, R437). -/
def State.jobJudged (s : State) (v : Nat) (j : DecJob) (ringBad : Bool) : State :=
  match j.firstFault ringBad with
  | some d => s.finishJob v { j with state := 0x20, detail := d }
  | none =>
    let j := { j with step := .begin }
    let (j, s) := s.jobRingWrite v j 1 0
    let (j, s) := s.jobRingWrite v j 2 0
    let (j, s) := s.jobRingWrite v j 6 (ringStatus 0x02 0 0)
    s.setJob v j

/-- The record is read: a fault before word 2 ends the job, else the layout record is asked for. -/
def State.jobRecord (s : State) (v : Nat) (j : DecJob) (l : EngLoad) : State :=
  let (w, un) := s.loadWords l
  let s := s.dropLoad l
  let j := { j with words := w, unread := un, ask := none }
  if (natsFrom 0 3).any (fun i => !j.known i) || j.badWord 1 then s.jobJudged v j false
  else
    let (l, _, s) := s.engineAsk (j.worker v) [] (j.b 2 63 0) 96
    s.setJob v { j with step := .layout, ask := some l }

/-- The layout record is read and judged, and a ring's header asked for (R432). A header that lies in no scratchpad, or not at a
multiple of 64, is bad at once. -/
def State.jobLayout (s : State) (v : Nat) (j : DecJob) (l : EngLoad) : State :=
  let j := match s.loadRead l with
    | .ok b =>
      let r := wordsOf b 12
      let j := { j with record := recSetBase r (normVa j.core (recBase r)) }
      { j with badRec := j.badLayout }
    | _ => { j with badRec := true }
  let s := s.dropLoad l
  let j := { j with ask := none }
  let va := normVa j.core (nth 0 j.words 3).toNat
  if j.badRec || !j.known 3 || nth 0 j.words 3 = 0 then s.jobJudged v j false
  else
    match placeOf va with
    | .other c off =>
      if off % 64 ≠ 0 then s.jobJudged v j true
      else
        let (l, _, s) := s.engineAsk (j.worker v) [] va 64
        s.setJob v { j with step := .header, ask := some l, ring := some (c, off) }
    | _ => s.jobJudged v j true

/-- The ring's header is read and judged (R432). -/
def State.jobHeader (s : State) (v : Nat) (j : DecJob) (l : EngLoad) : State :=
  let j := { j with ask := none }
  match s.loadRead l, j.ring with
  | .ok b, some (c, off) =>
    let w := wordsOf b 8
    (s.dropLoad l).jobJudged v { j with word0 := (nth 0 w 0).toNat, word4 := (nth 0 w 4).toNat } (j.badRing w ((s.core c).spsize - off))
  | _, _ => (s.dropLoad l).jobJudged v j true

/-- What a read of one of the job's records has brought is taken. -/
def State.jobReads (s : State) (v : Nat) (j : DecJob) : State :=
  match j.ask with
  | none => s
  | some l =>
    if !s.allIn l then s
    else
      match j.step with
      | .record => s.jobRecord v j l
      | .layout => s.jobLayout v j l
      | .header => s.jobHeader v j l
      | _ => s

/-- DECODE_JOB_START (R432). -/
def State.jobStart (s : State) (v : Nat) : State :=
  match s.videoHead v with
  | some j => if j.state = 0x01 then s.jobBegin v j else if j.state = 0x02 then s.jobReads v j else s
  | none => s

def execDecodeJobStart (engine : Nat) (s : State) : Out1 := stepOf (engine < 32) s (·.jobStart engine)

/-! ### One frame (R430, R431, R433, R434, R435) -/

/-- Whether frame `f` is one that the engine does not support (R427). -/
def unsupported (bs : List Byte) (f : Nat) : Bool :=
  Config.av1Profile bs f != 0 || Config.av1Depth bs f == 12 || 1 < Config.av1Chroma bs f || 63 < Config.av1Level bs f

/-- The class of error of frame `f` for what of the stream can be read (R433). -/
def frameClass (bs : List Byte) (faulted : Bool) (f : Nat) : Nat :=
  if Config.av1End bs f ≤ bs.length then
    if unsupported bs f then 2
    else
      match Config.av1Error bs f with
      | 1 => 1
      | 3 => 3
      | _ => 0
  else if faulted then 5 else 4

/-- The column, row and channel of element `e` (R430). -/
def DecJob.position (j : DecJob) (e : Nat) : Nat × Nat × Nat :=
  let c := e % j.nc
  let px := e / j.nc % j.pw
  let py := e / j.nc / j.pw % j.ph
  let p := e / j.nc / j.pw / j.ph
  (j.b 7 15 0 + p % max 1 j.npx * j.pw + px, j.b 7 31 16 + p / max 1 j.npx * j.ph + py, c)

/-- Whether an element's position lies inside the decoded frame. -/
def DecJob.inside (j : DecJob) (bs : List Byte) (e : Nat) : Bool :=
  let (x, y, _) := j.position e
  x < Config.av1Width bs j.frame && y < Config.av1Height bs j.frame

/-- Film grain is applied to the frame (R429, R433). -/
def DecJob.grain (j : DecJob) (bs : List Byte) : Bool := j.b 8 34 34 == 1 && Config.av1Grain bs j.frame

/-- The encoded element `e` of the frame in progress (R430). -/
def DecJob.value (j : DecJob) (bs : List Byte) (e : Nat) : Nat :=
  let (x, y, c) := j.position e
  if !j.inside bs e then recFill j.record
  else
    let smp :=
      if c ≥ 1 && Config.av1Chroma bs j.frame == 0 then 2 ^ (Config.av1Depth bs j.frame - 1)
      else if c ≥ 1 then Config.av1Sample bs (j.grain bs) j.frame c (x / 2) (y / 2)
      else Config.av1Sample bs (j.grain bs) j.frame 0 x y
    let off := f32 (j.b (9 + c) 31 0)
    let scl := f32 (j.b (9 + c) 63 32)
    rnd j.ofmt (((ofInt smp).add .rne off.neg).mul scl) .rne true

/-- The layout that frame `f` is placed through (R431). -/
def DecJob.win (j : DecJob) (f : Nat) : Win :=
  let base :=
    match j.ring with
    | some (c, off) => otherVa c (off + 64 + f % max 1 j.nslot * j.slotsz)
    | none => (recBase j.record + f * j.b 4 39 0) % 2 ^ 64
  { r := recSetBase j.record base }

/-- The writes of elements `e` on of frame `f` in increasing linear position: those that follow one another within an aligned unit
of 8 bytes are one write (R164), and those that lie outside the window's tensor are left out (R431). -/
def DecJob.writes (j : DecJob) (f : Nat) (val : Nat → Nat) (e : Nat) : Nat → List (Nat × List PByte)
  | 0 => []
  | fuel + 1 =>
    if j.elems ≤ e then []
    else
      let w := j.win f
      let k := scatterLen w j.elems e
      let here := match w.addr e with
        | some a =>
          let b := (natsFrom e k).flatMap (fun i => leBytes (val i) (fmtBits j.ofmt / 8))
          cutUnits a (PByte.clean b) (b.length + 1)
        | none => []
      here ++ DecJob.writes j f val (e + k) fuel

/-- The cores in whose scratchpads the elements of frame `f` stand (R438). -/
def DecJob.coresOf (j : DecJob) (f : Nat) : List Nat :=
  match j.ring with
  | some (c, _) => [c]
  | none =>
    ((natsFrom 0 j.elems).filterMap (fun e => ((j.win f).addr e).bind (fun a =>
      match placeOf a with | .other c _ => some c | _ => none))).eraseDups

/-- Whether every place of a list of writes can be written now: the translations held, or the detail of the first failure. A
renewal that fails has the detail of R368 that its walk finds, where it finds one (R435; assumption log 114). -/
def State.placesOk (s : State) (w : Worker) (held : Map Tr) : List (Nat × List PByte) → Except Nat Unit × Map Tr × State
  | [] => (.ok (), held, s)
  | (va, b) :: rest =>
    match s.workPlace w held va b.length true with
    | (.error d, held, s) =>
      let die := agentDie w.agent
      let d := if d = dLease then
        (match s.walkPage die w.asid (va / 65536 * 65536) true with | (.error e, _) => e | _ => d) else d
      (.error d, held, s)
    | (.ok _, held, s) => State.placesOk s w held rest

/-- A frame status word (R433). -/
def frameWord (cls : Nat) (clip fga : Bool) (ftype state : Nat) : Nat :=
  cls * 2 ^ 20 + (if clip then 2 ^ 18 else 0) + (if fga then 2 ^ 17 else 0) + ftype % 16 * 2 ^ 12 + state

/-- The frame in progress takes its status word, and its writes are on their way: the engine goes on to the next frame (R436). -/
def DecJob.frameOut (j : DecJob) (status : Nat) (ids : List Nat) : DecJob :=
  { j with frame := j.frame + 1, step := .begin, leases := [], outs := j.outs ++ [{ frame := j.frame, status := status, sent := ids }] }

/-- The frame in progress is not written: its status stands alone (R435, R438). -/
def DecJob.skip (j : DecJob) (ftype state : Nat) : DecJob := j.frameOut (frameWord 0 false false ftype state) []

/-- A place of the frame in progress fails: WRITE-FAULT, and the job's end is decided (R435). -/
def DecJob.writeFault (j : DecJob) (ftype d : Nat) : DecJob := { (j.skip ftype 5) with ending := some 0x21, detail := d }

/-- Places the values of a frame: every write is appended, or, where one place fails, none (R435). -/
def State.placeFrame (s : State) (v : Nat) (j : DecJob) (ftype : Nat) (status : Nat → Nat) (val : Nat → Nat) : State :=
  let w := j.worker v
  let ws := j.writes j.frame val 0 j.elems
  match s.placesOk w j.leases ws with
  | (.error d, _, s) => s.setJob v (j.writeFault ftype d)
  | (.ok _, held, s) =>
    match s.engineWrite w held [] ws with
    | (some (d, _), ids, _, s) => s.setJob v { (j.writeFault ftype d) with sent := j.sent ++ ids }
    | (none, ids, _, s) => s.setJob v (j.frameOut (status ftype) ids)

/-- The type of the frame in progress as its status word names it (R433). -/
def DecJob.ftype (j : DecJob) : Nat := if Config.av1Type j.bs j.frame ≤ 3 then Config.av1Type j.bs j.frame else 0xF

/-- Decodes the frame in progress from what has been read of the stream (R430, R434). -/
def State.decodeFrame (s : State) (v : Nat) (j : DecJob) : State :=
  let cls := j.stuck.getD (frameClass j.bs j.bsBad j.frame)
  let fill := fun (_ : Nat) => recFill j.record
  if cls ≠ 0 then
    let dep := j.corrupt && cls < 4
    let j := { j with corrupt := true, stuck := if 4 ≤ cls then some cls else none }
    s.placeFrame v j j.ftype (fun t => if dep then frameWord 0 false false t 3 else frameWord cls false false t 2) fill
  else
    let t := Config.av1Type j.bs j.frame % 4
    if j.corrupt && t != 0 then s.placeFrame v j t (fun t => frameWord 0 false false t 3) fill
    else
      let clip := (natsFrom 0 j.elems).any (fun e => !j.inside j.bs e)
      s.placeFrame v { j with corrupt := false } t (fun t => frameWord 0 clip (j.grain j.bs) t 1) (j.value j.bs)

/-- The engine has all of the stream that it needs for the frame in progress, or all that it can read. -/
def DecJob.hasStream (j : DecJob) : Bool :=
  j.stuck.isSome || j.bsBad || j.b 1 39 0 ≤ j.bs.length || Config.av1End j.bs j.frame ≤ j.bs.length

/-- Reads on in the stream, 16 bytes at a time, until the frame in progress can be decoded; a byte that cannot be read ends what
is known of it (R433, R434). -/
def State.readStream (s : State) (v : Nat) (j : DecJob) : State :=
  match j.ask with
  | none =>
    if j.hasStream then s.decodeFrame v j
    else
      let n := j.bs.length
      let (l, held, s) := s.engineAsk (j.worker v) j.leases (j.b 0 63 0 + n) (min 16 (j.b 1 39 0 - n))
      s.setJob v { j with ask := some l, leases := held }
  | some l =>
    if !s.allIn l then s
    else
      let b := l.pieces.map (fun p => match p with | .req id _ _ => s.engIn.get [] id | .bytes b => PByte.clean b)
      let good := b.flatten.takeWhile (fun x => !x.bad)
      (s.dropLoad l).setJob v
        { j with ask := none, bs := j.bs ++ PByte.vals good, bsBad := l.fault.isSome || good.length != b.flatten.length }

/-- A scratchpad that a pre-emption has saved, for the job's launch or because the core works in another address space, takes no
frame (R438). -/
def State.targetSaved (s : State) (j : DecJob) : Bool :=
  (j.coresOf j.frame).any (fun c => s.saves.any (fun r => r.core == c &&
    (r.launches.contains j.launch || ((s.core c).conf.map (·.asid)) != some j.asid)))

/-- The ring's slot is free for the frame in progress, and the counter has passed every frame before it (R437). -/
def DecJob.slotFree (j : DecJob) : Bool := j.ring.isNone || (j.own == j.frame && j.own < j.other + j.nslot)

/-- The frame in progress begins: the translations of its places are held from now on (R362, R431, R435). -/
def State.frameBegin (s : State) (v : Nat) (j : DecJob) : State :=
  match s.placesOk (j.worker v) [] (j.writes j.frame (fun _ => 0) 0 j.elems) with
  | (.error d, _, s) => s.setJob v (j.writeFault 0xF d)
  | (.ok _, held, s) => s.setJob v { j with leases := held, step := .stream }

/-- FRAME_DECODE (R430). -/
def State.frameDecode (s : State) (v : Nat) : State :=
  match s.videoHead v with
  | none => s
  | some j =>
    if j.state ≠ 0x02 ∨ j.nfrm ≤ j.frame then s
    else
      match j.step with
      | .stream => s.readStream v j
      | .begin =>
        if j.ending.isSome then s.setJob v (j.skip 0xF 4)
        else if s.cancelledLaunch j.launch then s.setJob v { (j.skip 0xF 4) with ending := some 0x22 }
        else if s.targetSaved j || !j.slotFree then s
        else s.frameBegin v j
      | _ => s

def execFrameDecode (engine : Nat) (s : State) : Out1 := stepOf (engine < 32) s (·.frameDecode engine)

/-! ### Status and arrival (R436, R437) -/

/-- Replaces the first frame that has not passed R436. -/
def DecJob.setOut (j : DecJob) (o : FrameOut) : DecJob := { j with outs := o :: j.outs.drop 1 }

/-- The first frame has passed R436. -/
def DecJob.frameOver (j : DecJob) (o : FrameOut) : DecJob :=
  let st := bitsOf o.status 7 0
  { j with outs := j.outs.drop 1, counts := setNth j.counts (st - 1) (nth 0 j.counts (st - 1) + 1),
           firstBad := if st = 1 then j.firstBad else j.firstBad.or (some (o.frame, o.status)) }

/-- Appends a write of a frame's status word; a status array that cannot be written decides the job's end (R435). -/
def State.writeStatus (s : State) (v : Nat) (j : DecJob) (o : FrameOut) (w : Nat) : DecJob × FrameOut × State :=
  match s.engineWrite (j.worker v) [] [] [((j.stat + 8 * o.frame) % 2 ^ 64, PByte.clean (leBytes w 8))] with
  | (some _, _, _, s) => ({ j with ending := some 0x21, detail := 0xE }, { o with sent := [] }, s)
  | (none, ids, _, s) => (j, { o with sent := ids }, s)

/-- The elements are acknowledged: the ring's counter and the status word are written. -/
def State.frameStatus (s : State) (v : Nat) (j : DecJob) (o : FrameOut) : State :=
  let written := j.ring.isSome && (bitsOf o.status 7 0 ≤ 3)
  let (j, s) := if written then s.jobRingWrite v { j with own := j.own + 1 } 1 (w64 (j.own + 1)) else (j, s)
  let (j, o, s) := s.writeStatus v j o o.status
  let j := { j with nbad := if bitsOf o.status 7 0 = 1 then j.nbad else j.nbad + 1 }
  s.setJob v (j.setOut { o with step := .status })

/-- The status is acknowledged: it counts where it was written, and the arrival is made where the job names a barrier
(R436, R440). -/
def State.frameArrive (s : State) (v : Nat) (j : DecJob) (o : FrameOut) : State :=
  let j := { j with ndone := if o.sent.isEmpty then j.ndone else j.ndone + 1 }
  if j.bar = 0 then s.setJob v (j.frameOver o)
  else
    match s.workPlace (j.worker v) [] j.bar 128 false with
    | (.error _, _, s) => s.setJob v (j.setOut { o with step := .arrival, arrival := none })
    | (.ok p, _, s) =>
      let (id, s) := s.engineSend (.video v) (s.placeHome p) .arrive p.addr 128 j.bar j.asid p.exp
      s.setJob v (j.setOut { o with step := .arrival, arrival := some id })

/-- A refused arrival sets ARF by a second write of the status word (R436). -/
def State.frameRefused (s : State) (v : Nat) (j : DecJob) (o : FrameOut) : State :=
  let (j, o, s) := s.writeStatus v j o (o.status + 2 ^ 19)
  s.setJob v (j.setOut { o with status := o.status + 2 ^ 19, step := .refused })

/-- FRAME_STATUS (R436): the next step of the first frame that has not passed R436, once what it waits for is acknowledged. -/
def State.frameStep (s : State) (v : Nat) : State :=
  match s.videoHead v with
  | none => s
  | some j =>
    if j.state ≠ 0x02 then s
    else
      match j.outs with
      | [] => if j.step = .begin ∧ j.nfrm ≤ j.frame then s.jobEnd v j else s
      | o :: _ =>
        if !s.acked o.sent then s
        else
          match o.step with
          | .elements => s.frameStatus v j o
          | .status => s.frameArrive v j o
          | .arrival =>
            match o.arrival with
            | none => s.frameRefused v j o
            | some id =>
              if !s.acked [id] then s
              else if NatSet.has s.engBad id then s.frameRefused v j o
              else s.setJob v (j.frameOver o)
          | .refused => s.setJob v (j.frameOver o)

def execFrameStatus (engine : Nat) (s : State) : Out1 := stepOf (engine < 32) s (·.frameStep engine)

/-- The ring's counters end the job, unless its end is decided already (R437). -/
def DecJob.ringFault (j : DecJob) (d : Nat) : DecJob :=
  if j.ending.isSome then j else { j with ending := some 0x21, ringBad := some d }

/-- DECODE_RING_REREAD (R437): CONS is read at the ring's home, and what the last read has brought is taken; a counter that breaks
R389 ends the job. -/
def State.decodeReread (s : State) (v : Nat) : State :=
  match s.videoHead v with
  | none => s
  | some j =>
    match j.ring with
    | none => s
    | some (c, off) =>
      if j.state ≠ 0x02 ∨ j.closing ∨ (j.step ≠ .begin ∧ j.step ≠ .stream) then s
      else
        match j.reread with
        | none =>
          let (l, _, s) := s.engineAsk (j.worker v) [] (otherVa c (off + 16)) 8
          s.setJob v { j with reread := some l }
        | some l =>
          let j := { j with reread := none }
          match s.loadRead l with
          | .wait => s
          | .fault d _ => (s.dropLoad l).setJob v (j.ringFault d)
          | .ok b =>
            let x := leNat b
            let s := s.dropLoad l
            if x < j.other || j.own < x || j.nslot < j.own - x then s.setJob v (j.ringFault 0)
            else s.setJob v { j with other := x }

def execDecodeRingReread (engine : Nat) (s : State) : Out1 := stepOf (engine < 32) s (·.decodeReread engine)

/-- Lease renewal of a decoder: one that fails for a place of the frame in progress is its WRITE-FAULT (R362, R435). -/
def State.videoRenew (s : State) (v : Nat) : State :=
  match s.videoHead v with
  | none => s
  | some j =>
    match s.renewHeld (v / 8) j.asid j.leases with
    | (.ok held, s) => s.setJob v { j with leases := held }
    | (.error k, s) =>
      if heldSide k = 0 ∨ j.step ≠ .stream then s.setJob v { j with leases := j.leases.erase k }
      else
        let d := match s.walkPage (v / 8) j.asid (heldVa k) true with | (.error e, _) => e | _ => dLease
        s.setJob v (j.writeFault j.ftype d)

end Sys2Proof.Machine
end

