-- ==== Sys2Proof/Machine/RunQueue.lean ====
section
/-!
DEFINITION. Sys2Proof/Machine/RunQueue.lean: task messages arriving at a core, forwarding and re-home hints, run queues and
overflow areas, the allocation of contexts, the start of a task, reconfiguration, and the scrubs
(R109, R126 to R138, R339, R370, R415 to R418, R422).
-/
namespace Sys2Proof.Machine

/-! ### Launch records (R118, R224) -/

/-- A word of a launch's record as a number. -/
def Launch.w (l : Launch) (i : Nat) : Nat := (nth 0 l.words i).toNat
def Launch.image (l : Launch) : Nat := bitsOf (l.w 2) 55 0
def Launch.tpc (l : Launch) : Nat := bitsOf (l.w 6) 58 54
def Launch.save (l : Launch) : Nat := bitsOf (l.w 15) 55 0

/-- The priority of a launch: that of its queue (R115). -/
def State.prio (s : State) (launch : Nat) : Nat :=
  match s.launch? launch with
  | some l => s.regBits (pQctl l.queue) 2 1
  | none => 0

/-- The configuration that an entry needs (R128). -/
def State.confOf (s : State) (f : Flight) : Option Conf :=
  (s.launch? f.launch).map (fun l => ⟨l.asid, l.image, f.msg.ovl, l.n⟩)

/-- Whether an entry matches a core's configuration (R128). -/
def State.matchesK (s : State) (c : Nat) (f : Flight) : Bool :=
  match s.confOf f with
  | some k => (s.core c).conf == some k
  | none => false

/-- The tasks of a launch that live on a core (R137). -/
def HomeCore.liveOf (h : HomeCore) (launch : Nat) : Nat :=
  (h.ctxs.filter (fun e => e.2.phase != .free && e.2.phase != .odd && e.2.launch == launch)).length

/-- The context, or the first of the pair, that an entry would be given (R137). -/
def HomeCore.place (h : HomeCore) (f : Flight) : Option Nat :=
  if f.msg.pair then
    ((natsFrom 0 8).find? (fun j => (h.ctx (2 * j)).phase == .free && (h.ctx (2 * j + 1)).phase == .free)).map (2 * ·)
  else (natsFrom 0 16).find? (fun k => (h.ctx k).phase == .free)

/-! ### Entries that leave without a task (R135, R145, R339) -/

/-- An entry leaves without a task (R142, R145): a migrating task is over. -/
def State.endEntry (s : State) (c : Nat) (f : Flight) (how : TaskEnd) : State :=
  match f.mig with
  | some t => s.endAway c t how
  | none => (s.tally f.launch how).countDown f.launch

/-- An entry is dropped at core `c` (R145). -/
def State.dropEntry (s : State) (c : Nat) (f : Flight) : State := s.endEntry c f .killed

/-- An entry is lost at core `c` (R133, R135). -/
def State.loseEntry (s : State) (c : Nat) (f : Flight) : State := s.endEntry c f .lost

/-! ### Overflow areas (R134 to R136) -/

/-- The capacity of each overflow area of a die in messages, 0 where the region is not wholly in HBM (R135). -/
def State.ovfCap (s : State) (d : Nat) : Nat :=
  let base := s.regBits (pDovb d) 55 6 * 64
  let size := s.regBits (pDovs d) 20 6 * 64
  if inHbm base (384 * size) then size / 64 else 0

/-- The start of core `c`'s area. -/
def State.ovfBase (s : State) (c : Nat) : Nat :=
  s.regBits (pDovb (dieOf c)) 55 6 * 64 + c % 384 * (s.regBits (pDovs (dieOf c)) 20 6 * 64)

/-- The free place of the ring that follows its last message. -/
def State.ovfSlot (s : State) (c : Nat) : Option Nat :=
  let cap := s.ovfCap (dieOf c)
  let base := s.ovfBase c
  let used := (s.core c).ovf.filterMap (·.addr)
  let start := match used.getLast? with | some a => (a - base) / 64 + 1 | none => 0
  ((natsFrom start cap).map (fun i => base + i % cap * 64)).find? (fun a => !used.contains a)

/-- Whether a core has room for a message (R136). -/
def State.hasRoom (s : State) (c : Nat) : Bool :=
  let h := s.core c
  (h.runq.length < 256 && h.ovf.isEmpty) || (s.ovfSlot c).isSome

/-- Whether a message passes the checks of R112. -/
def TaskMsg.good (m : TaskMsg) (w7 : W64) : Bool := m.hnd % 4 == 0 && m.role != 3 && w7 == 0

/-- Moves messages from the overflow area into free entries, oldest first: each is read again and checked (R135, R136). -/
def State.refillFrom (s : State) (c : Nat) : List Flight → State
  | [] => s.updCore c (fun h => { h with ovf := [] })
  | f :: rest =>
    if 256 ≤ (s.core c).runq.length then s.updCore c (fun h => { h with ovf := f :: rest })
    else
      let a := f.addr.getD 0
      let w := wordsOf (Memory.bytes s.mem a 64) 8
      let m := TaskMsg.ofWords w
      if poisonedIn s.poison a 64 then
        let (code, s) := s.freeWord
        let s := s.report 0x11 0 (c % 384) (dieOf c) [code, w64 a]
        State.refillFrom (s.loseEntry c f) c rest
      else if !m.good (nth 0 w 7) then State.refillFrom (s.loseEntry c f) c rest
      else
        let f := { f with addr := none, msg := if f.mig.isSome then f.msg else m }
        State.refillFrom (s.updCore c (fun h => { h with runq := h.runq ++ [f] })) c rest

def State.refill (s : State) (c : Nat) : State :=
  match (s.core c).ovf with
  | [] => s
  | l => s.refillFrom c l

/-! ### Acceptance (R127, R136, R143, R370, R416) -/

/-- The context of a task that has left for another core is freed: its claim is released, its groups go with it (R422). -/
def State.vacate (s : State) (c k : Nat) : State :=
  let t := s.ctx c k
  ((s.setCtx c k t.freed).leavePool c k t.uid).poolRun (c / 8)

/-- A task that waited for its message to be accepted goes on, once the results that it still awaits are there (R102); `spawnb`
has the result 0 (R342). -/
def Ctx.accepted (t : Ctx) (uid : Nat) : Ctx :=
  match t.wait with
  | .message reg =>
    if t.uid = uid then
      let t := match reg with | some r => t.put r (.word 0) | none => t
      { t with wait := .settle, phase := .running, waitFrom := none }
    else t
  | _ => t

/-- What the acceptance of a message does for its sender; a hire's continuation clears the hire's mark (R316). -/
def State.senderAccepted (s : State) (f : Flight) : State :=
  match f.sender with
  | .core p =>
    if f.mig.isSome then
      if (s.ctx p f.ctx).uid = f.uid ∧ (s.ctx p f.ctx).wait = .message none then s.vacate p f.ctx else s
    else
      let s := if f.counted then s else s.countUp f.launch
      let s := s.updCore p (fun h => { h with ctxs := h.ctxs.map (fun e => (e.1, e.2.accepted f.uid)) })
      let s :=
        { s with saves := s.saves.map (fun r =>
                  if r.core = p then { r with ctxs := r.ctxs.map (fun e => (e.1, e.2.accepted f.uid)) } else r) }
      if f.via.isSome then { s with hints := s.hints ++ [⟨p, f.msg.key, f.target⟩] } else s
  | _ => match f.hire with | some hid => s.clearMark hid | none => s

/-- The entry that a message becomes; a migrating task keeps its arrival time (R370). -/
def State.entryOf (s : State) (f : Flight) : Flight :=
  { f with held := false, back := false, counted := true, since := s.cycle, aged := false,
           arrival := if f.mig.isSome then f.arrival else s.timeOf (dieOf f.target) }

/-- A message enters the run queue or the overflow area of its target, or is held by its sender (R127, R136). -/
def State.enter (s : State) (f : Flight) : State :=
  let c := f.target
  let h := s.core c
  let e := s.entryOf f
  if h.runq.length < 256 && h.ovf.isEmpty then
    (s.senderAccepted f).updCore c (fun h => { h with runq := h.runq ++ [e] })
  else
    match s.ovfSlot c with
    | some a =>
      let s := (s.senderAccepted f).updCore c (fun h => { h with ovf := h.ovf ++ [{ e with addr := some a }] })
      s.memWrite a (PByte.clean (bytesOfWords e.msg.words))
    | none => { s with msgs := s.msgs ++ [{ f with held := true, back := true }] }

/-- A message that arrives after the cancel of its job is dropped (R146). A migrating task is killed where it still stands. -/
def State.dropArriving (s : State) (f : Flight) : State :=
  match f.mig, f.sender with
  | some _, .core p =>
    if (s.ctx p f.ctx).uid = f.uid then s.killTask p f.ctx else s.dropEntry f.target f
  | _, _ =>
    let s := match f.hire with | some hid => s.clearMark hid | none => s
    if f.counted then s.dropEntry f.target f else s.updLaunch f.launch (fun l => { l with killed := l.killed + 1 })

/-- The core to which a message is forwarded from where it arrives (R415). -/
def State.forwardTo (s : State) (f : Flight) : Option Nat :=
  if f.msg.key = 0 ∨ f.via.isSome ∨ f.mig.isSome then none
  else
    match (s.core f.target).forward f.msg.key.toNat with
    | some t => if s.maskHas f.launch t then some t else none
    | none => none

/-- MESSAGE_ARRIVE (R136, R146, R415). -/
def execMessageArrive (msg : Nat) (s : State) : Out1 :=
  .next (match s.msgs[msg]? with
  | none => s
  | some f =>
    if f.back then s
    else
      let s := { s with msgs := dropNth s.msgs msg }
      if NatSet.has (s.core f.target).cancels f.launch then s.dropArriving f
      else
        match s.forwardTo f with
        | some t => { s with msgs := s.msgs ++ [{ f with target := t, via := some f.target }] }
        | none => s.enter f)

/-- Who holds a message that was refused (R127, R415). -/
def Flight.holder (f : Flight) : Agent := match f.via with | some c => .core c | none => f.sender

/-- MESSAGE_RESEND (R127): the first message that an agent holds and for which there is room is sent again; until it is accepted
the agent goes on holding it. -/
def execMessageResend (agent : Agent) (s : State) : Out1 :=
  .next (match findIdx (fun (f : Flight) => f.back && f.holder == agent && s.hasRoom f.target) s.msgs with
  | none => s
  | some i =>
    match s.msgs[i]? with
    | some f => { s with msgs := setNth s.msgs i { f with back := false } }
    | none => s)

/-- REHOME_HINT (R416). A poisoned HINTCNT stays poisoned (R459; assumption log 125). -/
def execRehomeHint (hint : Nat) (s : State) : Out1 :=
  .next (match s.hints[hint]? with
  | none => s
  | some x =>
    let s := { s with hints := dropNth s.hints hint }
    let h := s.core x.core
    if h.tableOk then
      let count := (h.word (h.tableOff + 16) + 1) % 2 ^ 64
      let bad := poisonedIn h.spadPoison (h.tableOff + 16) 8
      s.spWrite x.core h.tableOff
        (PByte.clean (bytesOfWords [x.key, w64 x.target]) ++ (leBytes count 8).map (fun b => ⟨b, bad⟩))
    else s)

/-! ### Pre-emption (R462, R463) -/

/-- A launch that may pre-empt core `c`: started, its queue's PREEMPT set, one of its messages at or on its way to `c`. -/
def State.preempts (s : State) (c : Nat) (e : Nat × Launch) : Bool :=
  let h := s.core c
  e.2.started && e.2.status.isNone && s.regBits (pQctl e.2.queue) 3 3 == 1 &&
    (s.msgs.any (fun f => f.launch == e.1 && f.target == c) || h.runq.any (fun f => f.launch == e.1) ||
      h.ovf.any (fun f => f.launch == e.1))

/-- The launches with tasks that live on a core. -/
def HomeCore.launchesLive (h : HomeCore) : List Nat :=
  ((h.ctxs.filter (fun e => e.2.phase != .free && e.2.phase != .odd)).map (fun e => e.2.launch)).dedup

/-- Whether a launch of priority above every live launch pre-empts the core, each of them having a save area. -/
def State.wantsCore (s : State) (c : Nat) : Bool :=
  let live := (s.core c).launchesLive
  !live.isEmpty &&
    s.launches.any (fun e => s.preempts c e && live.all (fun q => s.prio q < s.prio e.1)) &&
    live.all (fun q => match s.launch? q with | some l => l.save != 0 | none => false)

/-! ### The choice of an entry (R137, R138, R465) -/

/-- Whether a launch is saved on a core. -/
def State.isSaved (s : State) (c launch : Nat) : Bool := s.saves.any (fun r => r.core == c && r.launches.contains launch)

/-- Marks the entries that have waited RQAGE cycles (R137). -/
def State.markAged (s : State) (c : Nat) : State :=
  s.updCore c (fun h =>
    { h with runq := h.runq.map (fun f => if f.since + 65536 ≤ s.cycle then { f with aged := true } else f) })

/-- RQAGE_EXPIRE (R137). -/
def execRqageExpire (core : Nat) (s : State) : Out1 := .next (s.markAged core)

/-- The oldest of numbered entries. -/
def oldestOf : List (Nat × Flight) → Option (Nat × Flight)
  | [] => none
  | e :: l =>
    match oldestOf l with
    | none => some e
    | some b => if b.2.arrival < e.2.arrival then some b else some e

/-- Whether the job of an entry has fewer than TPC tasks on the core. -/
def State.meetsTpc (s : State) (c : Nat) (f : Flight) : Bool :=
  match s.launch? f.launch with
  | some l => (s.core c).liveOf f.launch < l.tpc
  | none => false

/-- Step 2 of R137: the eligible entry of the highest role, the oldest within it. -/
def State.chooseEligible (s : State) (c : Nat) (es : List (Nat × Flight)) : Option (Nat × Flight) :=
  let h := s.core c
  let ok := es.filter (fun e => (s.matchesK c e.2 || !h.live) && s.meetsTpc c e.2 && (h.place e.2).isSome)
  match oldestOf (ok.filter (fun e => e.2.msg.role == 0)) with
  | some e => some e
  | none =>
    match oldestOf (ok.filter (fun e => e.2.msg.role == 1)) with
    | some e => some e
    | none => oldestOf ok

/-- The entry that core `c` chooses (R137), the aged entries being marked. An entry of a saved launch is not eligible
(R465); while `ovld` waits (R131), and while the core is being pre-empted (R463; assumption log 49), no context is allocated. -/
def State.choose (s : State) (c : Nat) : Option (Nat × Flight) :=
  let h := s.core c
  let es := ((List.range h.runq.length).zip h.runq).filter (fun e => !s.isSaved c e.2.launch)
  if h.chosen.isSome || h.ctxs.any (fun e => e.2.wait == .alone) || s.wantsCore c then none
  else
    match oldestOf (es.filter (fun e => e.2.aged)) with
    | some (i, f) =>
      if !s.meetsTpc c f then s.chooseEligible c (es.filter (fun e => e.1 != i))
      else if (h.place f).isNone then none
      else some (i, f)
    | none => s.chooseEligible c es

/-- Takes an entry out of the run queue; the oldest message of the overflow area moves in (R136). -/
def State.takeEntry (s : State) (c i : Nat) : State := (s.updCore c (fun h => { h with runq := dropNth h.runq i })).refill c

/-! ### The start of a task (R109, R173, R370, R422) -/

/-- The context of a new task. -/
def startCtx (l : Launch) (f : Flight) (n fseq uid cycle : Nat) : Ctx :=
  let m := f.msg
  let w0 := l.w 0
  { phase := .running
    pc := BitVec.ofNat 16 m.hnd
    x := [(2, w64 (0xFFFFFFFFFFF00000 + 16384 * n)), (10, nth 0 m.args 0), (11, nth 0 m.args 1), (12, nth 0 m.args 2),
      (13, nth 0 m.args 3), (14, w64 (m.group % 2 ^ 32 * 2 ^ 32 + m.job % 2 ^ 32)), (15, m.key)]
    status := w64 ((if l.asid = 0 then 2 ^ 15 else 0) + bitsOf w0 29 28 * 2 ^ 10 + bitsOf w0 27 27 * 2 ^ 8)
    bd := m.bd
    inc := if m.bd then m.inc else 0
    bound := if m.bd then m.bound else 0
    launch := f.launch
    asid := l.asid
    job := m.job
    role := m.role
    paired := m.pair
    fseq := fseq
    readyAt := cycle
    arrival := f.arrival
    uid := uid }

/-- A migrated task in its new context; its claim is asked for again (R422). What it had fetched of a window of R213 stays behind
(assumption log 131). -/
def Ctx.landed (t : Ctx) (fseq cycle : Nat) (arrival : Nat) : Ctx :=
  { t with
    phase := .running, wait := .none, waitFrom := none, claim := none, reclaim := t.claim.isSome, hires := [],
    fseq := fseq, readyAt := cycle, age := 0, promoted := false, yielded := none, hiring := none, arrival := arrival, window := [] }

/-- A request for the saved claim of a task at the tail of its pool's queue (R422), or at its head (R251). -/
def State.askClaim (s : State) (c k uid : Nat) (cl : Claim) (head : Bool) : State :=
  let o := c / 8
  let r : PoolReq := { core := c, ctx := k, uid := uid, lmin := cl.lanes, lmax := cl.lanes, saved := some cl }
  let q := s.poolQueue o
  ({ s with pools := s.pools.set o (if head then r :: q else q ++ [r]) }).poolRun o

/-- The acquire of a task before its first access. -/
def State.acquireAt (s : State) (c : Nat) : Option Scope → State
  | some sc => s.acquire c sc
  | none => s

/-- An entry receives a context: its task starts, or goes on where it left. -/
def State.startTask (s : State) (c k : Nat) (f : Flight) : State :=
  match s.launch? f.launch with
  | none => s
  | some l =>
    let old := s.ctx c k
    let s :=
      match f.mig with
      | some t =>
        let s := s.setCtx c k (t.landed old.fseq s.cycle f.arrival)
        match t.claim with
        | some cl => s.askClaim c k t.uid cl false
        | none => s
      | none =>
        let (uid, s) := s.fresh
        let s := s.setCtx c k (startCtx l f l.n old.fseq uid s.cycle)
        if f.msg.pair then s.updCtx c (k + 1) (fun t => { t with phase := .odd }) else s
    s.acquireAt c f.acq

/-- The bound of an entry fails against its core's shadow (R138, R339). -/
def State.entryFails (s : State) (sh : Map Shadow) (f : Flight) : Bool :=
  match s.launch? f.launch with
  | some l =>
    match f.mig with
    | some t => t.bd && boundCheck (sh.get {} t.inc) l.asid t.job t.bound
    | none => f.msg.bd && boundCheck (sh.get {} f.msg.inc) l.asid f.msg.job f.msg.bound
  | none => false

/-- Gives a chosen entry its context, after the dispatch check (R138). -/
def State.dispatch (s : State) (c : Nat) (f : Flight) : State :=
  if s.entryFails (s.core c).shadow f then s.dropEntry c f
  else
    match (s.core c).place f with
    | some k => s.startTask c k f
    | none => s

/-- CONTEXT_ALLOCATE (R137). -/
def execContextAllocate (core : Nat) (s : State) : Out1 :=
  let s := s.markAged core
  .next (match s.choose core with
  | some (i, f) => if s.matchesK core f then (s.takeEntry core i).dispatch core f else s
  | none => s)

/-! ### Reconfiguration (R129, R133, R390, R438) -/

/-- Whether some of `n` bytes at a virtual address, as an engine holds it, lie in core `c`'s scratchpad. -/
def touches (c va n : Nat) : Bool := 0 < n && va < otherVa c 0 + 2 ^ 20 && otherVa c 0 < va + n

/-- Whether an element of a layout's window lies in core `c`'s scratchpad. -/
def Win.touches (w : Win) (c : Nat) : Bool :=
  (natsFrom 0 (recCount w.r)).any (fun k => match w.addr k with
    | some a => Machine.touches c a (recEb w.r)
    | none => false)

/-- Whether a plan reads or writes core `c`'s scratchpad. -/
def Plan.touches (p : Plan) (c : Nat) : Bool :=
  match p with
  | .linear src dst n => Machine.touches c src n || Machine.touches c dst n
  | .gather v _ dst => v.touches c || Machine.touches c dst p.targets
  | .scatter v _ src => v.touches c || Machine.touches c src p.sources

/-- Whether a copy reads or writes core `c`'s scratchpad; one whose layout record is not read yet may do so. -/
def CopyOp.touches (o : CopyOp) (c : Nat) : Bool := (o.mode != 0 && o.record.isEmpty) || o.plan.touches c

/-- A copy of any core that runs on core `c`'s scratchpad. -/
def State.copyTouches (s : State) (c : Nat) : Bool :=
  s.cores.any (fun e => e.2.copies.any (fun k => k.2.queue.any (fun o => o.state == 0x02 && o.touches c)))

/-- Whether a ring's slot lies on core `c`'s scratchpad: its ring there, or the other side of the slot in hand. -/
def Ring.touches (r : Ring) (c : Nat) : Bool := r.core == c || r.record.isEmpty || r.plan.touches c

/-- An operation of a BDE, or a landing zone, that runs on core `c`'s scratchpad. -/
def State.bdeTouches (s : State) (c : Nat) : Bool :=
  s.bdes.any (fun e =>
    e.2.chans.any (fun k => k.2.queue.any (fun o => o.state == 0x02 && (touches c o.src 1 || touches c o.dst 1))) ||
      e.2.zones.any (fun z => touches c z.2.dst 1))

/-- A decode job with frames still to write to core `c`'s scratchpad. -/
def State.decodeTouches (s : State) (c : Nat) : Bool :=
  s.videos.any (fun e => e.2.queue.any (fun j => j.state == 0x02 &&
    ((natsFrom j.frame (j.nfrm - j.frame)).any (fun f => (j.coresOf f).contains c) ||
      j.outs.any (fun o => (j.coresOf o.frame).contains c))))

/-- A hire or bind of core `c` whose operands are still to be read (R307). -/
def State.pushTouches (s : State) (c : Nat) : Bool := s.hires.any (fun h => h.core == c && !h.pushed && h.frozen.isNone)

/-- Whether an engine keeps core `c` from reconfiguring (R307, R390, R438). -/
def State.spadBusy (s : State) (c : Nat) : Bool :=
  s.copyTouches c || s.bdeTouches c || s.decodeTouches c || s.pushTouches c ||
    s.bdes.any (fun e => e.2.rings.any (fun r => r.2.touches c))

/-- Whether a configuration needs another overlay loaded (R129 step 0). -/
def needsText (old : Option Conf) (new : Conf) : Bool :=
  match old with
  | some k => k.image != new.image || k.ovl != new.ovl
  | none => true

/-- The scratchpad across a change of configuration: zero in another address space, else kept below both sizes (R129). -/
def keepSpad (m : List Host.Cell) (old : Option Conf) (new : Conf) : List Host.Cell :=
  match old with
  | some k => if k.asid = new.asid then m.filter (fun e => e.1 < 16384 * min k.n new.n) else []
  | none => []

def keepPoison (p : NatSet) (old : Option Conf) (new : Conf) : NatSet :=
  match old with
  | some k => if k.asid = new.asid then p.filter (fun a => a < 16384 * min k.n new.n) else []
  | none => []

/-- Steps 1 to 5 of R129 for a core whose write-backs have been acknowledged: the lines of the blocks that stay L1 ways stay as
they are (R19). KVRING becomes 0 (R409). -/
def HomeCore.reconfigure (h : HomeCore) (new : Conf) (text : Option (List Byte)) : HomeCore :=
  let l1 := h.l1.filter (fun l => new.n ≤ l.way)
  let h :=
    { h with
      spad := keepSpad h.spad h.conf new, spadPoison := keepPoison h.spadPoison h.conf new, l1 := l1, conf := some new,
      kvring := 0, chosen := none, chosenText := none }
  match text with
  | some t => h.loadText t new.ovl
  | none => h

/-- The core takes its chosen message: it is configured, and the message receives its context unless a cancel dropped it. -/
def State.finishReconf (s : State) (c : Nat) (f : Flight) : State :=
  match s.confOf f with
  | none => s.updCore c (fun h => { h with chosen := none, chosenText := none })
  | some k =>
    let s := s.updCore c (fun h => h.reconfigure k h.chosenText)
    if f.counted then s.dispatch c f else s

/-- A message has been chosen for a reconfiguration: its overlay is checked, and the L1 lines are written back where the
scratchpad grows (R129 steps 0 and 1). -/
def State.beginReconf (s : State) (c i : Nat) (f : Flight) : State :=
  match s.confOf f with
  | none => s
  | some k =>
    let s := s.takeEntry c i
    let h := s.core c
    let text := if needsText h.conf k then s.overlay k.image k.ovl else none
    if needsText h.conf k && text.isNone then s.loseEntry c f
    else
      let s := s.updCore c (fun h => { h with chosen := some f, chosenText := text })
      if blocks h.conf < k.n then
        let s := s.writeBackAll c (fun l => l.way < k.n)
        if (s.core c).out.any (·.write) then s else s.finishReconf c f
      else s.finishReconf c f

/-- CORE_RECONFIGURE (R129): begins for the message that an empty core chooses, or ends once its write-backs are
acknowledged. -/
def execCoreReconfigure (core : Nat) (s : State) : Out1 :=
  let s := s.markAged core
  .next (match (s.core core).chosen with
  | some f => if (s.core core).out.any (·.write) || s.spadBusy core then s else s.finishReconf core f
  | none =>
    if (s.core core).live || s.spadBusy core then s
    else
      match s.choose core with
      | some (i, f) => if s.matchesK core f then s else s.beginReconf core i f
      | none => s)

/-! ### Scrubs (R339, R340) -/

/-- Drops the entries of a list that a test selects, answering those that stay. -/
def State.dropEntries (s : State) (c : Nat) (p : Flight → Bool) (l : List Flight) : State :=
  (l.filter p).foldl (fun s f => s.dropEntry c f) s

/-- RUN_QUEUE_SCRUB (R339): bounded entries that fail are dropped, and tasks parked in `park` that fail are killed. -/
def execRunQueueScrub (core : Nat) (s : State) : Out1 :=
  let h := s.core core
  let bad := fun (f : Flight) => s.entryFails h.shadow f
  let t := s.dropEntries core bad h.runq
  let t := (t.updCore core (fun g => { g with runq := g.runq.filter (fun f => !bad f) })).refill core
  let parked := h.ctxs.filter (fun e =>
    e.2.phase == .parked && (match e.2.wait with | .word .. => true | _ => false) && h.boundFails e.2)
  .next (parked.foldl (fun s e => s.killTask core e.1) t)

/-- OVERFLOW_SCRUB (R339): the order of the remaining entries is kept. -/
def execOverflowScrub (die : Nat) (s : State) : Out1 :=
  let sh := s.agentShadow.get [] die
  let bad := fun (f : Flight) => s.entryFails sh f
  .next ((natsFrom (384 * die) 384).foldl (fun t c =>
    match (s.core c).ovf with
    | [] => t
    | l => (t.dropEntries c bad l).updCore c (fun g => { g with ovf := g.ovf.filter (fun f => !bad f) })) s)

end Sys2Proof.Machine
end

