-- ==== Sys2Proof/Machine/Queue.lean ====
section
/-!
DEFINITION. Sys2Proof/Machine/Queue.lean: the hardware queues and their agents: records, launch checks, waits and edges, the
messages of a launch, completion records, `qput` and `cancel` at the agents
(R115 to R127, R143, R144, R177 to R179, R221 to R225).
-/
namespace Sys2Proof.Machine

/-! ### Queue registers (R115, R116) -/

def State.qasid (s : State) (q : Nat) : Nat := s.regBits (pQctl q) 9 4
def State.qen (s : State) (q : Nat) : Bool := s.regBits (pQctl q) 0 0 == 1
def State.qhead (s : State) (q : Nat) : Nat := s.regBits (pQhead q) 31 0
def State.qtail (s : State) (q : Nat) : Nat := s.regBits (pQtail q) 31 0
/-- The records that a queue holds. -/
def State.qlen (s : State) (q : Nat) : Nat := 2 ^ s.regBits (pQsize q) 4 0
/-- TAIL − HEAD modulo 2³². -/
def State.qfill (s : State) (q : Nat) : Nat := (s.qtail q + 2 ^ 32 - s.qhead q) % 2 ^ 32
/-- The address of record `i`. -/
def State.qaddr (s : State) (q i : Nat) : Nat := s.regBits (pQbase q) 55 7 * 128 + i % s.qlen q * 128

/-- The agent stops a queue: EN clears, ERR is set and a report is posted (R116, R121). -/
def State.stopQueue (s : State) (q : Nat) : State :=
  let c := (s.reg (pQctl q))
  (s.setReg (pQctl q) (setBit (setBit c 0 false) 10 true)).report 0x01 8 832 (q / 64) [w64 q]

/-- The agent has finished with the record at HEAD (R123). -/
def State.advance (s : State) (q : Nat) : State := s.setReg (pQhead q) (w64 ((s.qhead q + 1) % 2 ^ 32))

/-- A new TAIL; an enabled queue that it overruns is stopped (R116). -/
def State.writeQtail (s : State) (q tail : Nat) : State :=
  let s := s.setReg (pQtail q) (w64 (tail % 2 ^ 32))
  if s.qen q && s.qlen q < s.qfill q then s.stopQueue q else s

/-- QTAIL_WRITE (R115 to R117, R222). -/
def execQtailWrite (queue : Nat) (value : W64) (s : State) : Out1 :=
  if queue < 256 then .next (s.writeQtail queue value.toNat) else .fault .noSuchUnit

/-- `qput` at the agent of its queue (R221). A record whose slot does not lie in HBM is not stored, and QTAIL advances (assumption
log 130). -/
def State.qputPerform (s : State) (r : Req) (q : Nat) (bytes : List PByte) (sup : Bool) : State :=
  if 255 < q ∨ (!sup ∧ s.qasid q ≠ r.asid) then s.respond { req := r, val := 3 }
  else if !s.qen q then s.respond { req := r, val := 2 }
  else if s.qfill q = s.qlen q then s.respond { req := r, val := 1 }
  else
    let i := s.qtail q
    let s := if inHbm (s.qaddr q i) 128 then s.memWrite (s.qaddr q i) bytes else s
    let s := { s with placed := s.placed.set q (NatSet.add (s.placed.get [] q) i) }
    (s.setReg (pQtail q) (w64 ((i + 1) % 2 ^ 32))).respond { req := r, val := 0 }

/-! ### Masks (R119, R494) -/

/-- A core in the effective mask: of the queue's core mask, of a selected octant, and not disabled. -/
def State.coreSelected (s : State) (q : Nat) (w : List W64) (c : Nat) : Bool :=
  let o := c / 8
  bitOf (s.reg (pQmask q (c / 64))).toNat (c % 64) && bitOf (nth 0 w (3 + o / 64)).toNat (o % 64) &&
    !s.disabled (dieOf c) (c % 384)

/-- The effective mask of a record, as a number of 1,536 bits. -/
def State.effMask (s : State) (q : Nat) (w : List W64) : Nat :=
  (natsFrom 0 1536).foldl (fun m c => if s.coreSelected q w c then m + 2 ^ c else m) 0

/-- The cores of a mask, rising. -/
def maskCores (m : Nat) : List Nat := (natsFrom 0 1536).filter (fun c => bitOf m c)

/-! ### The checks of R120 -/

/-- Whether a reserved field of a record is not zero, an address bit that must be zero among them (R224). -/
def recordReserved (w : List W64) : Bool :=
  let v := fun (i hi lo : Nat) => bitsOf (nth 0 w i).toNat hi lo
  v 0 63 30 != 0 || v 0 25 24 == 3 || v 2 63 56 != 0 || v 2 5 0 != 0 || v 6 63 59 != 0 || v 10 63 56 != 0 || v 10 5 0 != 0 ||
    v 11 63 56 != 0 || v 11 5 0 != 0 || v 13 63 56 != 0 || v 13 5 0 != 0 || v 12 63 56 != 0 || v 12 2 0 != 0 ||
    v 14 63 56 != 0 || v 14 2 0 != 0 || v 15 63 56 != 0 || v 15 11 0 != 0

/-- Whether an address of check 8 does not lie wholly in HBM. -/
def recordOutside (w : List W64) (mask : Nat) : Bool :=
  let a := fun (i : Nat) => bitsOf (nth 0 w i).toNat 55 0
  let out := fun (i : Nat) => a i != 0 && !inHbm (a i) 64
  !inHbm (a 2) 64 || out 11 || out 13 || (a 15 != 0 && !inHbm (a 15) ((maskCores mask).length * 0x80000))

/-- The status of the first check of R120 that fails. -/
def State.recordStatus (s : State) (w : List W64) (mask : Nat) : Option Nat :=
  let v := fun (i hi lo : Nat) => bitsOf (nth 0 w i).toNat hi lo
  let ctx := v 6 53 52
  let tpc := v 6 58 54
  let n := (v 6 51 32 + 16383) / 16384
  let image := v 2 55 0
  if recordReserved w then some 0x17
  else if ctx = 0 ∨ 2 < ctx then some 0x10
  else if tpc = 0 ∨ 16 < tpc then some 0x12
  else if 16 < tpc * ctx then some 0x15
  else if 18 < n then some 0x11
  else if mask = 0 then some 0x13
  else if v 0 15 0 % 4 ≠ 0 then some 0x18
  else if recordOutside w mask then some 0x19
  else if (s.overlay image (v 0 23 16)).isNone then some 0x14
  else if 16384 * n < s.imageSpad image then some 0x16
  else none

/-! ### Completion records (R144, R177, R225) -/

/-- DONE of a launch. -/
def Launch.done (l : Launch) : Nat := bitsOf (l.w 10) 55 0

/-- The words of a completion record. -/
def Launch.recordWords (l : Launch) (status now : Nat) : List W64 :=
  [w64 status, w64 (min l.lost (2 ^ 32 - 1) * 2 ^ 32 + min l.killed (2 ^ 32 - 1)), w64 now,
    w64 (l.queue % 256 * 2 ^ 32 + l.job % 2 ^ 32), 0, 0, 0, 0]

/-- The agent writes a launch's completion record, as one request (R225). -/
def State.complete (s : State) (id : Nat) (l : Launch) (status : Nat) : State :=
  let d := l.queue / 64
  let bytes := PByte.clean (bytesOfWords (l.recordWords status (s.timeOf d)))
  let (rid, s) := s.engineSend (.queueAgent d) (s.homeOf l.done) (.write bytes) l.done 64 0 0 none
  s.updLaunch id (fun l => { l with status := some status, record := some rid, sentAll := true })

/-- A record leaves its queue with a final status (R123). -/
def State.finishRecord (s : State) (id : Nat) (l : Launch) (status : Nat) : State := (s.complete id l status).advance l.queue

/-! ### Taking a record (R116, R118 to R121) -/

/-- The launch on which the agent works in a queue (R124). -/
def State.current? (s : State) (q : Nat) : Option (Nat × Launch) :=
  List.find? (fun (e : Nat × Launch) => e.2.queue == q && e.2.status.isNone && !e.2.sentAll) s.launches

/-- A record that cannot be used (R121). -/
def State.unusable (s : State) (q i why : Nat) : State :=
  (s.report 0x1B 8 832 (q / 64) [w64 q, w64 i, w64 why]).advance q

/-- The agent takes the record at HEAD: it is unusable, rejected, or becomes a launch. A marked record that also fails a check of
R120 has the status of the check (assumption log 121). -/
def State.takeRecord (s : State) (q : Nat) : State :=
  let i := s.qhead q
  let a := s.qaddr q i
  let w := wordsOf (Memory.bytes s.mem a 128) 16
  let done := bitsOf (nth 0 w 10).toNat 55 0
  let marked := NatSet.has (s.marks.get [] q) i
  let s := { s with marks := s.marks.set q (NatSet.del (s.marks.get [] q) i) }
  if !inHbm a 128 then s.stopQueue q
  else if poisonedIn s.poison a 128 then s.unusable q i 1
  else if !inHbm done 64 then s.unusable q i 0
  else
    let mask := s.effMask q w
    let (id, s) := s.fresh
    let l : Launch :=
      { queue := q, index := i, words := w, asid := s.qasid q, job := bitsOf (nth 0 w 1).toNat 31 0, mask := mask,
        n := (bitsOf (nth 0 w 6).toNat 51 32 + 16383) / 16384, cancelled := marked }
    let s := { s with launches := s.launches.set id l }
    match s.recordStatus w mask with
    | some status => s.finishRecord id l status
    | none => s

/-- LAUNCH_TAKE (R116, R120). -/
def execLaunchTake (queue : Nat) (s : State) : Out1 :=
  if 255 < queue then .fault .noSuchUnit
  else
    .next (if !s.qen queue || s.qfill queue == 0 || (s.current? queue).isSome then s
    else if s.qlen queue < s.qfill queue then s.stopQueue queue
    else s.takeRecord queue)

/-! ### Waits and edges (R124, R178, R179) -/

/-- The producers' record addresses and region lists of a launch. -/
def Launch.edges (l : Launch) : List (Nat × Nat) :=
  [(bitsOf (l.w 11) 55 0, bitsOf (l.w 12) 55 0), (bitsOf (l.w 13) 55 0, bitsOf (l.w 14) 55 0)].filter (fun e => e.1 != 0)

/-- Whether a launch's record has been written at its home. -/
def State.recorded (s : State) (l : Launch) : Bool :=
  match l.record with
  | some id => !NatSet.has s.engOut id
  | none => false

/-- Whether the waits of a launch are over (R124). -/
def State.waitsOver (s : State) (id : Nat) (l : Launch) : Bool :=
  (bitsOf (l.w 0) 26 26 == 0 || s.launches.all (fun e => e.2.queue != l.queue || id ≤ e.1 || s.recorded e.2)) &&
    l.edges.all (fun e => Memory.byte s.mem e.1 != 0)

/-- The physical ranges of a virtual region of a launch's address space, page by page; `none` where a page's translation
is absent. -/
def State.regionRanges (s : State) (die asid va len : Nat) : Nat → Option (List (Nat × Nat))
  | 0 => some []
  | fuel + 1 =>
    if len = 0 then some []
    else
      let n := min len (65536 - va % 65536)
      if !canonical va then none
      else
        match s.lookup die asid va false with
        | .error _ => none
        | .ok tr => (State.regionRanges s die asid (va + n) (len - n) fuel).map ((((tr.at va).pa, n)) :: ·)

/-- The ranges that a region list names; `none` lists all memory, and says whether that is to be reported (R179). A list whose words
are poisoned or do not lie in HBM is taken as one with a bad count (assumption log 120). -/
def State.regionList (s : State) (die asid list : Nat) : Option (List (Nat × Nat)) × Bool :=
  if list = 0 then (none, false)
  else
    match s.cleanWords list 1 with
    | none => (none, true)
    | some w0 =>
      let w0 := nth 0 w0 0
      let n := bitsOf w0 7 0
      if bitsOf w0 63 8 ≠ 0 ∨ n = 0 ∨ 32 < n then (none, true)
      else
        match s.cleanWords (list + 8) (2 * n) with
        | none => (none, true)
        | some ws =>
          let es := (natsFrom 0 n).map (fun i => (nth 0 ws (2 * i), nth 0 ws (2 * i + 1)))
          if es.any (fun e => e.1 % 128 != 0 || e.2 % 128 != 0 || e.2 == 0) then (none, true)
          else
            let rs := es.map (fun e => s.regionRanges die asid e.1 e.2 (e.2 / 65536 + 2))
            if rs.all (·.isSome) then (some (rs.flatMap (fun r => r.getD [])), false) else (none, true)

/-- Whether a line of memory lies inside the ranges. -/
def inRanges (rs : Option (List (Nat × Nat))) (pa : Nat) : Bool :=
  match rs with
  | none => true
  | some l => l.any (fun r => r.1 ≤ pa && pa < r.1 + r.2)

/-- The cores of the launch whose completion record lies at an address. -/
def State.producerCores (s : State) (prod : Nat) : List Nat :=
  match (s.launches.filter (fun e => e.2.done == prod && e.2.status == some 1)).getLast? with
  | some e => maskCores e.2.mask
  | none => []

/-- The write-backs of core `c` to some ranges that are on their way. -/
def State.backsOpen (s : State) (c : Nat) (rs : Option (List (Nat × Nat))) : List Nat :=
  ((s.core c).out.filter (fun o => o.write && inRanges rs (o.req.addr / 128 * 128))).map (·.req.id)

/-- Step 1 of R178 for one edge: what is dirty is written back, and the agent awaits that and what was on its way already. -/
def State.edgeFlush (s : State) (die asid : Nat) (job : Nat) (e : Nat × Nat) : List Nat × State :=
  let (rs, bad) := s.regionList die asid e.2
  let s := if bad then s.report 0x02 8 832 die [w64 job, w64 e.2] else s
  let cores := s.producerCores e.1
  let s := cores.foldl (fun s c => s.writeBackAll c (fun l => inRanges rs l.pa)) s
  (cores.flatMap (fun c => s.backsOpen c rs), s)

/-- Step 2 of R178 for one edge. -/
def State.edgeInvalidate (s : State) (die : Nat) (l : Launch) (e : Nat × Nat) : State :=
  let rs := (s.regionList die l.asid e.2).1
  let cores := maskCores l.mask
  let s := cores.foldl (fun s c => s.updCore c (fun h =>
    { h with l1 := (h.l1.map (fun x => if inRanges rs x.pa then x.dropClean else x)).filter (fun x => !x.bytes.isEmpty) })) s
  let dies := (cores.map dieOf).dedup
  { s with rdc := s.rdc.map (fun p =>
      if dies.contains (dieOf p.1) then (p.1, p.2.filter (fun (x : RdcLine) => !inRanges rs (x.line * 128))) else p) }

/-- Whether no core waits for the acknowledgement of one of these requests. -/
def State.coresAcked (s : State) (ids : List Nat) : Bool := s.cores.all (fun e => !e.2.out.any (fun o => ids.contains o.req.id))

/-- LAUNCH_START (R123, R124, R178): once its waits are over, a launch ends without a task, or its edges are carried out and
it begins to send. -/
def State.launchStart (s : State) (q : Nat) : State :=
  match s.current? q with
  | none => s
  | some (id, l) =>
    let d := q / 64
    if l.started || !s.waitsOver id l then s
    else if l.cancelled then s.finishRecord id l 0x02
    else if l.edges.any (fun e => Memory.byte s.mem e.1 != 1) then s.finishRecord id l 0x03
    else
      match l.flush with
      | none =>
        let (ids, s) := l.edges.foldl (fun (x : List Nat × State) e =>
          let (ids, s) := x.2.edgeFlush d l.asid l.job e
          (x.1 ++ ids, s)) ([], s)
        s.updLaunch id (fun l => { l with flush := some ids })
      | some ids =>
        if !s.coresAcked ids then s
        else
          let s := l.edges.foldl (fun s e => s.edgeInvalidate d l e) s
          let l := { l with started := true }
          let s := { s with launches := s.launches.set id l }
          if bitsOf (l.w 6) 31 0 = 0 then s.finishRecord id l 0x01 else s

/-- LAUNCH_START (R124). -/
def execLaunchStart (queue : Nat) (s : State) : Out1 :=
  if queue < 256 then .next (s.launchStart queue) else .fault .noSuchUnit

/-! ### Task messages (R125 to R127) -/

/-- Message `i` of a launch (R126); the tasks of a launch that `qput` placed acquire what its release covered (R221). -/
def State.launchMessage (s : State) (id : Nat) (l : Launch) (i : Nat) : Flight :=
  let cores := maskCores l.mask
  let w0 := l.w 0
  { msg :=
      { pair := bitsOf (l.w 6) 53 52 == 2, role := bitsOf w0 25 24, ovl := bitsOf w0 23 16, hnd := bitsOf w0 15 0,
        group := bitsOf (l.w 1) 63 32, job := l.job, args := [nth 0 l.words 7, nth 0 l.words 8, nth 0 l.words 9, w64 i] },
    launch := id, target := nth 0 cores (i % cores.length), sender := .queueAgent (l.queue / 64),
    acq := if NatSet.has (s.placed.get [] l.queue) l.index then some .package else none }

/-- Whether a launch may send its next message: none of its messages is held (R127). -/
def State.maySend (s : State) (e : Nat × Launch) : Bool :=
  e.2.started && e.2.status.isNone && !e.2.sentAll && !e.2.cancelled &&
    !s.msgs.any (fun f => f.launch == e.1 && f.held && f.sender == .queueAgent (e.2.queue / 64))

/-- The queue of a die's agent that sends next: the highest priority, round-robin within it (R125). -/
def State.sender? (s : State) (d : Nat) : Option (Nat × Launch) :=
  let ready := s.launches.filter (fun e => e.2.queue / 64 == d && s.maySend e)
  let top := ready.foldl (fun m e => max m (s.regBits (pQctl e.2.queue) 2 1)) 0
  let best := ready.filter (fun e => s.regBits (pQctl e.2.queue) 2 1 == top)
  let last := s.served.get 255 (256 * d + top)
  let key := fun (e : Nat × Launch) => (e.2.queue % 64 + 64 - (last + 1) % 64) % 64
  best.foldl (fun (b : Option (Nat × Launch)) e =>
    match b with
    | none => some e
    | some x => if key e < key x then some e else some x) none

/-- TASK_MESSAGE_SEND (R126). -/
def State.sendMessage (s : State) (d : Nat) : State :=
  match s.sender? d with
  | none => s
  | some (id, l) =>
    let i := l.next
    let f := s.launchMessage id l i
    let s := { (s.countUp id) with msgs := s.msgs ++ [f], served := s.served.set (256 * d + s.regBits (pQctl l.queue) 2 1) (l.queue % 64) }
    let last := i + 1 = bitsOf (l.w 6) 31 0
    let s := s.updLaunch id (fun l => { l with next := i + 1, sentAll := last })
    if last then s.advance l.queue else s

def execTaskMessageSend (die : Nat) (s : State) : Out1 := if die < 4 then .next (s.sendMessage die) else .fault .noSuchUnit

/-! ### Completion (R144, R177) -/

/-- Whether an engine still works for a launch: a hire, copy, ring, operation of a BDE or decode job that is not final. -/
def State.engineWorks (s : State) (id : Nat) : Bool :=
  s.hires.any (fun h => h.launch == id) ||
    s.cores.any (fun e => e.2.copies.any (fun k => k.2.queue.any (fun o => o.launch == id))) ||
    s.bdes.any (fun e =>
      e.2.chans.any (fun k => k.2.queue.any (fun o => o.launch == id)) || e.2.rings.any (fun r => r.2.launch == id)) ||
    s.videos.any (fun e => e.2.queue.any (fun j => j.launch == id))

/-- Whether a write of one of the launch's tasks, or a write-back of bytes that they have stored, is not acknowledged (R177). -/
def State.writesOpen (s : State) (id : Nat) : Bool :=
  s.cores.any (fun e => e.2.out.any (fun o => o.write && o.launches.contains id))

/-- COMPLETION_RECORD_WRITE (R144, R177): a cancelled launch sends no more messages, and its record leaves the queue. -/
def State.completeLaunch (s : State) (id : Nat) : State :=
  match s.launch? id with
  | none => s
  | some l =>
    if !l.started || l.status.isSome || l.outstanding != 0 || !(l.sentAll || l.cancelled) || s.engineWorks id ||
        s.writesOpen id then s
    else
      let status := if l.cancelled then 0x02 else if l.lost = 0 then 0x01 else 0x04
      if l.sentAll then s.complete id l status else s.finishRecord id l status

def execCompletionRecordWrite (launch : Nat) (s : State) : Out1 := .next (s.completeLaunch launch)

/-! ### Cancels (R223) -/

/-- The queues of a die's agent whose records a cancel marks, with the indexes marked. -/
def State.cancelRecords (s : State) (d : Nat) (op : CancelOp) : List (Nat × List Nat) :=
  ((natsFrom (64 * d) 64).filter (fun q => s.qasid q == op.asid)).map (fun q =>
    let taken := match s.current? q with | some _ => 1 | none => 0
    let is := (natsFrom (s.qhead q + taken) (s.qfill q - taken)).map (· % 2 ^ 32)
    (q, is.filter (fun i =>
      let a := s.qaddr q i
      inHbm a 128 && bitsOf (s.memWord (a + 8)).toNat 31 0 == op.job)))

/-- Whether a cancel names a launch that a die's agent has taken and not recorded. -/
def cancelHits (d : Nat) (op : CancelOp) (l : Launch) : Bool :=
  l.queue / 64 == d && l.asid == op.asid && l.job == op.job && l.status.isNone

/-- A cancel reaches the agent of die `d`. -/
def State.cancelReach (s : State) (d : Nat) (op : CancelOp) : Bool × State :=
  let hits := s.launches.any (fun e => cancelHits d op e.2)
  let recs := s.cancelRecords d op
  let s :=
    { s with
      launches := s.launches.map (fun e => (e.1, if cancelHits d op e.2 then { e.2 with cancelled := true } else e.2)),
      marks := recs.foldl (fun m r => if r.2.isEmpty then m else m.set r.1 (r.2.foldl NatSet.add (m.get [] r.1))) s.marks }
  (hits || recs.any (fun r => !r.2.isEmpty), s)

/-- CANCEL_MARK (R223): the first cancel that has not reached this agent; its issuer is answered after the last agent. -/
def execCancelMark (die : Nat) (s : State) : Out1 :=
  .next (match findIdx (fun (op : CancelOp) => op.todo.contains die) s.cancelOps with
  | none => s
  | some i =>
    match s.cancelOps[i]? with
    | none => s
    | some op =>
      let (found, s) := s.cancelReach die op
      let op := { op with todo := op.todo.filter (· != die), found := op.found || found }
      if op.todo.isEmpty then
        ({ s with cancelOps := dropNth s.cancelOps i } : State).deliver op.core op.ctx op.uid op.reg (if op.found then 1 else 0)
      else { s with cancelOps := setNth s.cancelOps i op })

end Sys2Proof.Machine
end

