-- ==== Sys2Proof/Machine/Device.lean ====
section
/-!
DEFINITION. Sys2Proof/Machine/Device.lean: writing the registers of device register space (R9, R11, R27), and what a write
does beyond storing: doorbells (R116), dirty logs and harvests (R365, R367), FABCTL (R474), disabling (R494), clearing (R495)
and firmware control (R489).
-/
namespace Sys2Proof.Machine

/-- The bits of `v` that `m` selects, the others of `old`. -/
def mergeW (old v m : W64) : W64 := (old &&& ~~~m) ||| (v &&& m)

/-! ### Ports (R473, R485) -/

/-- The die and the unit number of a port (R17, R485). -/
def portDie (p : Nat) : Nat := if p < 5 then 0 else if p < 10 then 1 else if p < 14 then 2 else 3
def portUnit (p : Nat) : Nat := 824 + (if p < 10 then p % 5 else (p - 10) % 4)

/-- Whether a port has link. -/
def State.portUp (s : State) (p : Nat) : Bool := bitOf (s.reg pPortst).toNat p

/-- The ports that reach a module, and those of them that have link. -/
def State.routePorts (s : State) (m : Nat) : List Nat := (natsFrom 0 18).filter (fun p => bitOf (s.reg (pRoute m)).toNat p)
def State.routeUp (s : State) (m : Nat) : List Nat := (s.routePorts m).filter s.portUp

/-- Keeps since when the route of a module has had no port that is up (R480); `old` is the state before a change. -/
def State.markRoute (s old : State) (m : Nat) : State :=
  if !(old.routeUp m).isEmpty && (s.routeUp m).isEmpty then { s with routeDown := s.routeDown.set m (s.timeOf 0) } else s

/-- A port loses or gains link: PORTST and a report (R473). -/
def State.setLink (s : State) (p : Nat) (up : Bool) : State :=
  let t := s.setReg pPortst (setBit (s.reg pPortst) p up)
  let t := ((natsFrom 0 432).filter (fun m => bitOf (s.reg (pRoute m)).toNat p)).foldl (fun t m => t.markRoute s m) t
  t.report 0x22 7 (portUnit p) (portDie p) [w64 p, if up then 1 else 0]

/-! ### Disabling (R485, R494) -/

/-- Whether a unit of a die can be disabled. -/
def canDisable (d u : Nat) : Bool := u < 804 || (808 ≤ u && u < 818) || (824 ≤ u && u < (if d < 2 then 829 else 828))

/-- The bits of DISMASKj that are RW. -/
def dismaskBits (d j : Nat) : W64 :=
  w64 ((natsFrom 0 64).foldl (fun m i => if canDisable d (64 * j + i) then m + 2 ^ i else m) 0)

/-- The effect of disabling a unit that acts at the write: a slice keeps no translation and no RDC line, an array frees its
resident slots, a port loses link. -/
def State.disableUnit (s : State) (d u : Nat) : State :=
  if 384 ≤ u ∧ u < 768 then
    let i := d * 384 + (u - 384)
    ({ s with leases := s.leases.filter (fun l => l.slice != i), rdc := s.rdc.erase i } : State).l2Flush i
  else if 768 ≤ u ∧ u < 804 then s.sweepTiles (d * 36 + (u - 768))
  else if 824 ≤ u ∧ u < 829 then
    let p := (if d < 2 then 5 * d else 10 + 4 * (d - 2)) + (u - 824)
    if s.portUp p then s.setLink p false else s
  else s

/-- A new value of DISMASKj. -/
def State.writeDismask (s : State) (d j : Nat) (v : W64) : State :=
  let old := s.reg (pDismask d j)
  let new := v &&& dismaskBits d j
  let s := s.setReg (pDismask d j) new
  (natsFrom 0 64).foldl (fun s i =>
    if bitOf new.toNat i && !bitOf old.toNat i then s.disableUnit d (64 * j + i) else s) s

/-- Whether every effect of disabling is in force: the resident slots of every disabled array are free (R494). -/
def State.disableDone (s : State) : Bool := s.arrays.all (fun e => !s.arrayOff e.1 || e.2.tiles.isEmpty)

/-! ### Writes -/

/-- FABCTL (R474): a written FTO of 0 is 1; MODID stays while EN is 1; EN is judged against the MODID left. -/
def fabctlOf (old new : W64) : W64 :=
  let fto := max 1 (bitsOf new.toNat 39 24)
  let en := bitOf old.toNat 0
  let modid := bitsOf (if en then old else new).toNat 16 8
  let en := if bitOf new.toNat 0 && 431 < modid then en else bitOf new.toNat 0
  w64 (fto * 2 ^ 24 + modid * 2 ^ 8 + (if en then 1 else 0))

/-- GOVCTL (R491). -/
def govctlOf (v : W64) : W64 := w64 (min 19 (bitsOf v.toNat 20 16) * 2 ^ 16 + max 1000 (min 3600 (bitsOf v.toNat 11 0)))

/-- DLCFG (R365). -/
def dlcfgOf (v : W64) : W64 :=
  let len := bitsOf v.toNat 35 32
  w64 ((if 6 ≤ len ∧ len ≤ 14 then len else 0) * 2 ^ 32 + bitsOf v.toNat 19 6 * 2 ^ 6)

/-- A write to DLCFG sets HEAD and TAIL to 0 (R365). -/
def State.writeDlcfg (s : State) (core : Nat) (v : W64) : State :=
  ((s.setReg (pDlcfg core) (dlcfgOf v)).setReg (pDlhead core) 0).setReg (pDltail core) 0

/-- A write of GO to DLHARV starts a harvest, unless one is in progress (R367). -/
def State.writeDlharv (s : State) (o : Nat) (v : W64) : State :=
  let a := s.octs.get {} o
  let tails := (natsFrom 0 8).map (fun k => s.regBits (pDltail (8 * o + k)) 31 0)
  if v.getLsbD 0 ∧ a.harvest = none then { s with octs := s.octs.set o { a with harvest := some tails } } else s

/-- A changed overflow region that does not lie in HBM is reported (R135). -/
def State.checkOverflow (s : State) (d : Nat) : State :=
  let size := s.regBits (pDovs d) 20 6 * 64
  if size ≠ 0 ∧ !inHbm (s.regBits (pDovb d) 55 6 * 64) (384 * size) then
    s.report 0x1A 8 832 d [s.reg (pDovb d), s.reg (pDovs d)]
  else s

/-- Whether a report of the lease-clock fault also raises the service request of its unit: sets the SVCST bit (R493). -/
def State.setSvc (s : State) (d u : Nat) : State :=
  let pa := devBase d + 0x00D00000 + 8 * (u / 64)
  s.setReg pa (setBit (s.reg pa) (u % 64) true)

/-- A unit raises a service request, with its report (R468, R493). -/
def State.serviceRequest (s : State) (d unitType u : Nat) (reason : W64) : State :=
  (s.setSvc d u).report 0x18 unitType u d [w64 u, reason]

/-- The greatest difference between a die's keeper and the three others, in ns (R363). -/
def State.keeperSkew (s : State) (d : Nat) : Nat :=
  (natsFrom 0 4).foldl (fun m e => max m (max (s.timeOf d - s.timeOf e) (s.timeOf e - s.timeOf d))) 0

/-- The agents that hold translations renew them (R308, R361, R362): a decoder, a collective or a copy for the operations that run on
it, an array for its reservations. -/
def State.renewEngine (s : State) (a : Agent) : State :=
  match a with
  | .copyCh c ch => s.copyRenew c ch
  | .array a => s.renewArray a
  | .video v => s.videoRenew v
  | .bde b ch => s.bdeRenew b ch
  | .ring b r => s.ringRenew b r
  | .zone b => (natsFrom 0 16).foldl (fun s ch => s.bdeRenew b ch) s
  | _ => s

/-- The engines of a die that may hold translations. -/
def State.enginesOf (s : State) (d : Nat) : List Agent :=
  (s.cores.flatMap (fun e => e.2.copies.keys.map (fun ch => Agent.copyCh e.1 ch)) ++
    (s.hires.map (fun h => Agent.array h.arrayId)).eraseDups ++
    s.bdes.flatMap (fun e => Agent.zone e.1 :: e.2.rings.keys.map (fun r => Agent.ring e.1 r)) ++
    s.videos.keys.map Agent.video).filter (fun a => agentDie a == d)

/-- Every lease of a die counts as expired (R363): the slices drop theirs, the L1s hit under none of theirs, and the engines renew
at once. A dirty line keeps the time by which it is written back (R356). -/
def State.expireDie (s : State) (d : Nat) : State :=
  let cores := s.cores.map (fun e =>
    if dieOf e.1 = d then (e.1, { e.2 with l1 := e.2.l1.map (fun l => { l with tr := { l.tr with once := true } }) }) else e)
  let s := { s with leases := s.leases.filter (fun l => dieOf l.slice != d), cores := cores }
  (s.enginesOf d).foldl State.renewEngine s

/-- A comparison that finds a difference above 8 ns (R363): the report, the service request, every lease of the die
expired, and skew mode. -/
def State.clockFault (s : State) (d unitType u measured : Nat) : State :=
  let s := s.report 0x07 unitType u d [w64 u, w64 measured]
  let (why, s) := s.freeWord
  let s := s.serviceRequest d unitType u why
  let s := s.expireDie d
  { s with skew := NatSet.add s.skew d }

/-- SKEWCLR (R495): the die compares again. What its units measure is a free value, besides the keepers' own counts. -/
def State.writeSkewclr (s : State) (d : Nat) (v : W64) : State :=
  if v.getLsbD 0 ∧ s.skew.has d then
    let (units, s) := s.freeChoice
    let m := max (s.keeperSkew d) units
    if m ≤ 8 then { s with skew := NatSet.del s.skew d } else s.clockFault d 9 833 m
  else s

/-- LAGCLR (R495). -/
def State.writeLagclr (s : State) (d : Nat) (v : W64) : State :=
  let u := bitsOf v.toNat 10 0
  if u < 384 then { s with lagSend := NatSet.add s.lagSend (d * 384 + u) }
  else if u = 832 then { s with lagSend := NatSet.add s.lagSend (1536 + d) }
  else s

/-- FWCTL (R489): COMMIT and GO; ignored while BUSY. -/
def State.writeFwctl (s : State) (v : W64) : State :=
  if s.boot.busy then s
  else
    let s := if v.getLsbD 1 then { s with boot := { s.boot with minSvn := some s.boot.svn } } else s
    if v.getLsbD 0 then { s with boot := { s.boot with busy := true } } else s

/-- TDCTL (R481): LOCK starts again when the source changes or the discipline is off; a follower of a new source waits for its time
packets from then on (assumption log 92). -/
def State.writeTdctl (s : State) (new : W64) : State :=
  let old := s.reg pTdctl
  let new := mergeW old new (maskBits 25 17 ||| maskBits 1 0)
  let follows := fun (w : W64) => bitsOf w.toNat 1 0 == 1
  let s :=
    if follows new ∧ (!follows old ∨ bitsOf new.toNat 25 17 ≠ bitsOf old.toNat 25 17) then
      { s with timeLink := { s.timeLink with got := s.timeOf 0, holding := false } }
    else s
  if bitsOf new.toNat 25 17 ≠ bitsOf old.toNat 25 17 ∨ !new.getLsbD 0 then
    let s := s.setReg pTdctl (setBit new 2 false)
    { s with timeLink := { s.timeLink with within := none } }
  else s.setReg pTdctl new

/-- Writes the bits that `m` selects of the register at `pa`, a multiple of 8. -/
def State.devWrite (s : State) (pa : Nat) (v m : W64) : State :=
  let old := s.reg pa
  let new := mergeW old v m
  match devRegAt pa with
  | .none => s
  | .ro => s
  | .rw mask => s.setReg pa (new &&& mask)
  | .qctl _ =>
    let c := mergeW old v (m &&& maskBits 9 0)
    s.setReg pa (if (v &&& m).getLsbD 10 then setBit c 10 false else c)
  | .qsize => s.setReg pa (w64 (min 16 (bitsOf new.toNat 4 0)))
  | .qtail q => s.writeQtail q (bitsOf new.toNat 31 0)
  | .dov d => (s.setReg pa (new &&& maskBits 55 6)).checkOverflow d
  | .dovs d => (s.setReg pa (w64 (min 16384 (bitsOf new.toNat 20 6) * 64))).checkOverflow d
  | .dlcfg c => s.writeDlcfg c new
  | .dlharv o => s.writeDlharv o (v &&& m)
  | .logSize => let n := bitsOf new.toNat 4 0; s.setReg pa (w64 (if 4 ≤ n ∧ n ≤ 16 then n else 0))
  | .fqstat _ => if (v &&& m).getLsbD 16 then s.setReg pa 0 else s
  | .rqlost => s
  | .fabctl => s.setReg pa (fabctlOf old new)
  | .fabsync => s
  | .tdctl => s.writeTdctl new
  | .route t => (s.setReg pa (new &&& maskBits 17 0)).markRoute s t
  | .svcst => s.setReg pa (old &&& ~~~(v &&& m))
  | .dismask d j => s.writeDismask d j new
  | .mgmtst _ => s
  | .skewclr d => s.writeSkewclr d (v &&& m)
  | .lagclr d => s.writeLagclr d (v &&& m)
  | .bootst => s
  | .fwctl => s.writeFwctl (v &&& m)
  | .govctl => s.setReg pa (govctlOf new)
  | .issued _ => s
  | .spoob _ => s
  | .corr _ => s

/-! ### Accesses of `n` bytes (assumption log 10) -/

/-- A write of bytes within one register. -/
def State.devStore (s : State) (pa : Nat) (bs : List Byte) : State :=
  let sh := 8 * (pa % 8)
  s.devWrite (pa / 8 * 8) (w64 (leNat bs * 2 ^ sh)) (w64 ((2 ^ (8 * bs.length) - 1) * 2 ^ sh))

end Sys2Proof.Machine
end

