-- ==== Sys2Proof/Machine/Fabric.lean ====
section
/-!
DEFINITION. Sys2Proof/Machine/Fabric.lean: the Riliofin Link ports, the sessions with other modules and what they deliver, the
FABSYNC read and the time discipline (R473 to R483). Packets are given by their contents; their coding on the link is not
in the spec (assumption log 24).
-/
namespace Sys2Proof.Machine

/-! ### Refusals (R479) -/

/-- The answer of a refused request: poisoned bytes for a read or a read-modify-write, a refused acknowledgement else. -/
def Req.refused (r : Req) : Resp :=
  match r.op with
  | .write _ => { req := r, ok := false }
  | .writeBack _ => { req := r, ok := false }
  | .red .. => { req := r, ok := false }
  | .landAcc .. => { req := r, ok := false }
  | .adjust .. => { req := r, ok := false }
  | .arrive => { req := r, ok := false }
  | .read => { req := r, ok := false, bytes := List.replicate r.size ⟨0, true⟩, base := r.addr }
  | _ => { req := r, ok := false, poison := true }

/-- Completes a request as refused. -/
def State.refuseReq (s : State) (r : Req) : State := s.respond r.refused

/-- The report of a refusal (R483 KIND 0x20), by a port. -/
def State.refusalReport (s : State) (port peer addr : Nat) (write : Bool) : State :=
  s.report 0x20 7 (portUnit port) (portDie port) [w64 peer, w64 addr, if write then 1 else 0]

/-! ### Sessions: sending (R478, R480) -/

def State.session (s : State) (m : Nat) : Session := s.sessions.get {} m
def State.setSession (s : State) (m : Nat) (x : Session) : State := { s with sessions := s.sessions.set m x }

/-- The fabric address of a request (R475). -/
def Req.fabAddr (r : Req) : Nat := r.fwin * 2 ^ 26 + r.addr % 2 ^ 26

/-- A packet joins a session; 18 stands for no port while none is up. -/
def State.sendPacket (s : State) (m : Nat) (r : Req) (resp : Option Resp) : State :=
  let x := s.session m
  let p : Packet := { seq := x.next, req := r, port := ((s.routeUp m).head?).getD 18, sent := s.timeOf 0, resp := resp }
  s.setSession m
    { x with next := (x.next + 1) % 2 ^ 16, unacked := x.unacked ++ [p],
             waiting := if resp.isSome then x.waiting else x.waiting ++ [(x.next, r)] }

/-- Whether a session takes another packet. -/
def Session.room (x : Session) : Bool := x.unacked.length < 16384

/-- A request handed to its session: refused while the session has failed. -/
def State.handOff (s : State) (m : Nat) (r : Req) : State :=
  if (s.session m).failed then (s.refusalReport 0 m r.fabAddr r.op.writes).refuseReq r else s.sendPacket m r none

/-! ### Sessions: receiving (R476, R478, R479) -/

/-- The operation of a packet of another module, and whether it is a request at all. Data are little-endian words. -/
def InPacket.op (p : InPacket) : Option HomeOp :=
  let w := fun (i : Nat) => w64 (leNat ((p.data.drop (8 * i)).take 8))
  let amo := fun (n : Nat) =>
    nth AmoOp.add [.add, .and, .or, .xor, .min, .max, .minu, .maxu, .swap, .fadd] n
  match p.kind with
  | 0 => some .read
  | 1 => some (.write (PByte.clean p.data))
  | 2 => some (.amo (amo (w 1).toNat) (w 0))
  | 3 => some (.cas (w 0) (w 1))
  | 4 => some (.red (bitsOf (w 1).toNat 7 4) (bitsOf (w 1).toNat 3 0) (w 0))
  | 5 => some .ldf
  | 6 => some (.stf (w 0))
  | 7 => some (.withdraw (w 0).toNat)
  | 8 => some (.waita (w 0))
  | 9 => some .join
  | 10 => some .leave
  | 11 => some (.adjust (w 0 != 0) (w 1).toNat)
  | 12 => some (.bari (w 0) false (w 1).toNat 0)
  | 13 => some .barv
  | 14 => some (.barw (w 0))
  | 15 => some .arrive
  | 16 => some (.landAcc (bitsOf (w 1).toNat 3 0) (BitVec.ofNat 32 (w 0).toNat) (bitOf (w 1).toNat 4))
  | _ => none

/-- The scope that a packet's data name for `barv` (word 0), fabric for every other. -/
def InPacket.scope (p : InPacket) : Scope := if p.kind = 13 then Scope.ofBits (leNat (p.data.take 8)) else .fabric

/-- The answer that a response packet brings: kinds 32 answered, 33 refused (R479), 34 answered "no", 35 poisoned; the data
are the bytes read or the result, and the scope of a `barw` behind it. -/
def InPacket.answer (p : InPacket) (r : Req) (pos : Nat) : Resp :=
  let isRead := r.op == HomeOp.read
  let val := w64 (leNat (p.data.take 8))
  if p.kind = 33 then r.refused
  else
    { req := r, val := val, ok := p.kind != 34,
      bytes := if isRead then p.data.map (fun b => ⟨b, p.kind == 35⟩) else [], base := r.addr, pos := pos,
      poison := p.kind == 35 && !isRead,
      scope := match r.op with | .barw _ => some (Scope.ofBits (leNat ((p.data.drop 8).take 1))) | _ => none }

/-- A delivered request: refused by the export table, or placed on the channel of its source agent to its home, where it is performed
within 2 µs (R477). The request keeps the packet's sequence number in `epc` and its session's epoch in `uid`. -/
def State.deliverRequest (s : State) (m seq : Nat) (p : InPacket) (op : HomeOp) : State :=
  let e := (s.reg (pExport (p.addr / 2 ^ 26))).toNat
  let pa := bitsOf e 12 0 * 2 ^ 26 + p.addr % 2 ^ 26
  let (id, s) := s.fresh
  let r : Req :=
    { id := id, agent := .fabricIn m p.src, home := s.homeOf pa, op := op, addr := pa, size := p.size, scope := p.scope, epc := seq,
      uid := (s.session m).epoch, exp := some (s.timeOf 0 + 2001) }
  if 8191 < p.addr / 2 ^ 26 ∨ !bitOf e 63 ∨ (op.writes ∧ !bitOf e 62) then
    (s.refusalReport 0 m p.addr op.writes).refuseReq r
  else { s with chans := addReq s.chans r.agent r.home r }

/-- A delivered response reaches the request that waits for it. -/
def State.deliverAnswer (s : State) (m : Nat) (p : InPacket) : State :=
  let x := s.session m
  match x.waiting.find? (fun w => w.1 == p.addr) with
  | none => s
  | some (seq, r) =>
    let s := s.setSession m { x with waiting := x.waiting.erase (seq, r) }
    let s := if p.kind = 33 then s.refusalReport 0 m r.fabAddr r.op.writes else s
    let (pos, s) := s.fresh
    s.respond (p.answer r pos)

/-- A packet is delivered. -/
def State.deliverPacket (s : State) (m seq : Nat) (p : InPacket) : State :=
  match p.op with
  | some op => s.deliverRequest m seq p op
  | none => s.deliverAnswer m p

/-- Delivers the held successors of the packet last delivered, in order. -/
def State.deliverHeld (s : State) (m : Nat) : Nat → State
  | 0 => s
  | fuel + 1 =>
    let x := s.session m
    match x.heldIn.find? x.expect with
    | none => s
    | some p =>
      let s := s.setSession m { x with expect := (x.expect + 1) % 2 ^ 16, heldIn := x.heldIn.erase x.expect }
      State.deliverHeld (s.deliverPacket m x.expect p) m fuel

/-- Whether a module id is that of another module while the fabric is in use. -/
def State.peerOk (s : State) (m : Nat) : Bool :=
  m ≤ 431 && s.regBits pFabctl 0 0 == 1 && m != s.regBits pFabctl 16 8

/-- FABRIC_PACKET_ARRIVE (R478, R480). -/
def execFabricPacketArrive (module epoch seq src kind addr size : Nat) (data : List Byte) (s : State) : Out1 :=
  let x := s.session module
  let d := (seq % 2 ^ 16 + 2 ^ 16 - x.expect) % 2 ^ 16
  let p : InPacket := ⟨src, kind, addr, size, data⟩
  .next (if !s.peerOk module || epoch != x.epoch then s
  else if d = 0 then
    let s := s.setSession module { x with expect := (x.expect + 1) % 2 ^ 16 }
    (s.deliverPacket module (seq % 2 ^ 16) p).deliverHeld module x.heldIn.length
  else if d ≤ 32767 then s.setSession module { x with heldIn := x.heldIn.set (seq % 2 ^ 16) p }
  else s)

/-- FABRIC_ACK (R478): every packet before `seq` is acknowledged. -/
def execFabricAck (module epoch seq : Nat) (s : State) : Out1 :=
  let x := s.session module
  .next (if epoch = x.epoch then
    s.setSession module { x with unacked := x.unacked.filter (fun p => 2 ^ 15 ≤ (seq + 2 ^ 17 - 1 - p.seq) % 2 ^ 16) }
  else s)

/-- FABRIC_RESEND (R480): another up port carries the packet, when its own has gone down or 20 µs have passed. -/
def execFabricResend (module seq port : Nat) (s : State) : Out1 :=
  let x := s.session module
  let now := s.timeOf 0
  let due := fun (p : Packet) => p.seq == seq && p.port != port && (!s.portUp p.port || p.sent + 20000 ≤ now)
  .next (if (s.routeUp module).contains port && !x.failed then
    s.setSession module { x with unacked := x.unacked.map (fun p => if due p then { p with port := port, sent := now } else p) }
  else s)

/-- Whether no port of a module's route has been up for FTO µs. -/
def State.routeDead (s : State) (m : Nat) : Bool :=
  (s.routeUp m).isEmpty && s.routeDown.get 0 m + s.regBits pFabctl 39 24 * 1000 ≤ s.timeOf 0

/-- SESSION_FAIL (R480): every request of the session that is not answered completes as refused. -/
def execSessionFail (module : Nat) (s : State) : Out1 :=
  let x := s.session module
  .next (if s.peerOk module && !x.failed && s.routeDead module then
    let last := (match x.unacked.head? with | some p => p.seq | none => x.next) + 2 ^ 16 - 1
    let s := s.report 0x21 7 824 0 [w64 module, w64 (last % 2 ^ 16)]
    let s := s.setSession module { x with unacked := [], waiting := [], failed := true }
    x.waiting.foldl (fun s w => (s.refusalReport 0 module w.2.fabAddr w.2.op.writes).refuseReq w.2) s
  else s)

/-! ### Links (R473) -/

/-- A failed session whose route has a port up again starts a new epoch (R480). -/
def State.newEpochs (s : State) (port : Nat) : State :=
  { s with sessions := s.sessions.map (fun e =>
      if e.2.failed && (s.routePorts e.1).contains port then (e.1, { epoch := e.2.epoch + 1 }) else e) }

/-- LINK_CHANGE (R473, R494): a disabled port stays down. -/
def execLinkChange (port : Nat) (up : Bool) (s : State) : Out1 :=
  if port < 18 then
    .next (if s.portUp port == up || (up && s.disabled (portDie port) (portUnit port)) then s
    else if up then (s.setLink port true).newEpochs port
    else s.setLink port false)
  else .fault .noSuchUnit

/-- FLIT_REPLAY (R473): invisible above the link. -/
def execFlitReplay (port : Nat) (s : State) : Out1 := if port < 18 then .next s else .fault .noSuchUnit

/-! ### FABCTL and FABSYNC (R474) -/

/-- FABCTL_WRITE. -/
def execFabctlWrite (value : W64) (s : State) : Out1 := .next (s.devWrite pFabctl value (maskBits 63 0))

/-- The fabric requests that have not been acknowledged or refused. -/
def State.fabPending (s : State) : List Nat :=
  ((s.cores.flatMap (fun e => e.2.oq) ++ s.chans.flatMap (·.reqs)).filter Req.isRemote).map (·.id) ++
    s.sessions.flatMap (fun e => e.2.waiting.map (·.2.id))

/-- FABSYNC_READ: the first read whose requests are all done returns 0. -/
def State.fabsyncDone (s : State) : State :=
  match findIdx (fun (f : FabSync) => f.ids.all (fun i => !s.fabPending.contains i)) s.fabsyncs with
  | none => s
  | some i =>
    match s.fabsyncs[i]? with
    | none => s
    | some f =>
      ({ s with fabsyncs := dropNth s.fabsyncs i } : State).respond
        { req := f.req, bytes := List.replicate f.req.size ⟨0, false⟩, base := f.req.addr }

def execFabsyncRead (s : State) : Out1 := .next s.fabsyncDone

/-! ### Time discipline (R481) -/

def State.tdFollows (s : State) : Bool := s.regBits pTdctl 0 0 == 1 && s.regBits pTdctl 1 1 == 0

/-- TIME_PACKET_SEND: a master sends every 1 µs. -/
def execTimePacketSend (die : Nat) (s : State) : Out1 :=
  if die < 4 then
    let now := s.timeOf die
    let due : Bool := match s.timeLink.sent with | some t => t + 1000 ≤ now | none => true
    .next (if s.regBits pTdctl 1 0 == 3 && due then { s with timeLink := { s.timeLink with sent := some now } } else s)
  else .fault .noSuchUnit

/-- TIME_PACKET_ARRIVE: a follower measures its offset; LOCK holds once it has stayed within 50 ns for 1 ms. -/
def execTimePacketArrive (die offset : Nat) (s : State) : Out1 :=
  if die < 4 then
    let now := s.timeOf die
    let x := s.timeLink
    let within := if offset ≤ 50 then some (x.within.getD now) else none
    let lock : Bool := match within with | some t => t + 1000000 ≤ now | none => false
    .next (if s.tdFollows then
      { s.setReg pTdctl (setBit (s.reg pTdctl) 2 lock) with
        timeLink := { x with got := now, offset := offset, within := within, holding := false } }
    else s)
  else .fault .noSuchUnit

/-- TIME_HOLDOVER: no time packet for 100 µs. -/
def execTimeHoldover (die : Nat) (s : State) : Out1 :=
  if die < 4 then
    let x := s.timeLink
    .next (if s.tdFollows && !x.holding && x.got + 100000 ≤ s.timeOf die then
      let s := s.setReg pTdctl (setBit (s.reg pTdctl) 2 false)
      let s := { s with timeLink := { x with within := none, holding := true } }
      s.report 0x23 9 833 die [w64 (s.regBits pTdctl 25 17), w64 x.offset]
    else s)
  else .fault .noSuchUnit

end Sys2Proof.Machine
end

