-- ==== Sys2Proof/Machine/Hub.lean ====
section
/-!
DEFINITION. Sys2Proof/Machine/Hub.lean: the incumbent hub and its shadows (R330 to R336, R345 to R347, R495).
-/
namespace Sys2Proof.Machine

/-! ### Shadows: 0 to 1,535 those of the cores, 1,536 + d that of the queue agent of die d (R334) -/

def shadowCount : Nat := 1540

def State.shadows (s : State) (i : Nat) : Map Shadow := if i < 1536 then (s.core i).shadow else s.agentShadow.get [] (i - 1536)

def State.setShadow (s : State) (i inc : Nat) (x : Shadow) : State :=
  if i < 1536 then s.updCore i (fun h => { h with shadow := h.shadow.set inc x })
  else { s with agentShadow := s.agentShadow.set (i - 1536) (Map.set (s.agentShadow.get [] (i - 1536)) inc x) }

/-- The valid bit of a BIND (R330). -/
def Shadow.bound (x : Shadow) : Bool := bitOf x.bind 38

/-! ### Requests at the hub (R333, R345 to R347) -/

/-- Whether the hub refuses an `improve` (R345). -/
def Shadow.refuses (x : Shadow) (asid job : Nat) (sup : Bool) : Bool := !x.bound || (x.bind != bindWord asid job && !sup)

/-- The hub performs an `improve` (R333). -/
def State.hubImprove (s : State) (r : Req) (inc : Nat) (key : W64) (sup : Bool) (job : Nat) : State :=
  let x := s.hub.get {} inc
  if x.refuses r.asid job sup then s.respond { req := r, val := w64 inc, ok := false }
  else
    let s :=
      if better x.mode (bitsOf key.toNat 63 32) (bitsOf x.key.toNat 63 32) then
        { s with hub := s.hub.set inc { x with key := key }, bcasts := s.bcasts ++ [{ inc := inc, key := key, sent := s.timeOf 0 }] }
      else s
    s.respond { req := r, val := x.key }

/-- The hub answers an `rdinc` (R346). -/
def State.hubRead (s : State) (r : Req) (inc : Nat) (sup : Bool) (job : Nat) : State :=
  let x := s.hub.get {} inc
  if !sup && x.bind != bindWord r.asid job then s.respond { req := r, val := w64 inc, ok := false }
  else s.respond { req := r, val := x.key }

/-- The register that a request to the hub names. -/
def HomeOp.incOf : HomeOp → Option Nat
  | .improve inc .. => some inc
  | .rdinc inc .. => some inc
  | .incset inc .. => some inc
  | _ => none

/-- The hub performs a request, or lets it wait behind an `incset` of its register (R336). The broadcasts of the old
binding go no further once an `incset` has begun. -/
def State.hubPerform (s : State) (r : Req) : State :=
  match r.op.incOf with
  | none => s
  | some inc =>
    if (s.incsets.find? inc).isSome then { s with hubWait := s.hubWait ++ [r] }
    else
      match r.op with
      | .improve inc key sup job => s.hubImprove r inc key sup job
      | .rdinc inc sup job => s.hubRead r inc sup job
      | .incset inc .. =>
        { s with incsets := s.incsets.set inc { req := r }, bcasts := s.bcasts.filter (fun b => b.inc != inc) }
      | _ => s

/-- An `incset` is over: it is answered, and the requests that waited for it are performed in their order. -/
def State.incsetDone (s : State) (inc : Nat) (r : Req) : State :=
  let s := ({ s with incsets := s.incsets.erase inc } : State).respond { req := r, val := 0 }
  let mine := s.hubWait.filter (fun r => r.op.incOf == some inc)
  let s := { s with hubWait := s.hubWait.filter (fun r => r.op.incOf != some inc) }
  mine.foldl (fun s r => s.hubPerform r) s

/-- What an `incset` leaves in its register. -/
def HomeOp.newState : HomeOp → Shadow
  | .incset _ key mode bind => { key := key, mode := mode, bind := bind }
  | _ => {}

/-- Every shadow has unbound the register: the hub sets it, and sends the new state where it is bound (R336). -/
def State.incsetSwitch (s : State) (inc : Nat) (i : IncSet) : State :=
  let x := i.req.op.newState
  let s := { s with hub := s.hub.set inc x }
  if x.bound then { s with incsets := s.incsets.set inc { i with install := true, acked := [] } } else s.incsetDone inc i.req

/-! ### Steps of the shadows -/

/-- A shadow applies a broadcast where it improves a bound register (R334). -/
def Shadow.apply (x : Shadow) (key : W64) : Shadow :=
  if x.bound && better x.mode (bitsOf key.toNat 63 32) (bitsOf x.key.toNat 63 32) then { x with key := key } else x

/-- INCUMBENT_BROADCAST (R334): a broadcast reaches a shadow, which acknowledges it. -/
def execIncumbentBroadcast (shadow bcast : Nat) (s : State) : Out1 :=
  .next (match s.bcasts[bcast]? with
  | none => s
  | some b =>
    if shadowCount ≤ shadow ∨ NatSet.has b.acked shadow then s
    else
      let x := (s.shadows shadow).get {} b.inc
      let s := s.setShadow shadow b.inc (x.apply b.key)
      let b := { b with acked := NatSet.add b.acked shadow }
      { s with bcasts := if b.acked.length = shadowCount then dropNth s.bcasts bcast else setNth s.bcasts bcast b })

/-- SHADOW_UNBIND (R336 step 1). -/
def execShadowUnbind (shadow : Nat) (s : State) : Out1 :=
  .next (match List.find? (fun (e : Nat × IncSet) => !e.2.install && !NatSet.has e.2.acked shadow) s.incsets with
  | none => s
  | some (inc, i) =>
    if shadowCount ≤ shadow then s
    else
      let s := s.setShadow shadow inc { lag := ((s.shadows shadow).get {} inc).lag }
      let i := { i with acked := NatSet.add i.acked shadow }
      if i.acked.length = shadowCount then s.incsetSwitch inc i else { s with incsets := s.incsets.set inc i })

/-- The hub's full state reaches a shadow (R495), but for registers that an `incset` is unbinding. -/
def State.installAll (s : State) (shadow : Nat) : State :=
  (natsFrom 0 16).foldl (fun s inc =>
    match s.incsets.find? inc with
    | some i => if i.install then s else s.setShadow shadow inc { ((s.shadows shadow).get {} inc) with lag := false }
    | none => s.setShadow shadow inc (let x := s.hub.get {} inc; if x.bound then { x with lag := false } else {})) s

/-- SHADOW_STATE_INSTALL (R336 step 3, R495). -/
def execShadowStateInstall (shadow : Nat) (s : State) : Out1 :=
  .next (match List.find? (fun (e : Nat × IncSet) => e.2.install && !NatSet.has e.2.acked shadow) s.incsets with
  | some (inc, i) =>
    if shadowCount ≤ shadow then s
    else
      let s := s.setShadow shadow inc { i.req.op.newState with lag := ((s.shadows shadow).get {} inc).lag }
      let i := { i with acked := NatSet.add i.acked shadow }
      if i.acked.length = shadowCount then s.incsetDone inc i.req else { s with incsets := s.incsets.set inc i }
  | none =>
    if NatSet.has s.lagSend shadow then { s.installAll shadow with lagSend := NatSet.del s.lagSend shadow } else s)

/-- SHADOW_LAG (R335): a shadow that has not acknowledged a broadcast after 1 µs is reported once. -/
def execShadowLag (shadow inc : Nat) (s : State) : Out1 :=
  let late := s.bcasts.any (fun b => b.inc == inc && !NatSet.has b.acked shadow && b.sent + 1000 ≤ s.timeOf 0)
  let x := (s.shadows shadow).get {} inc
  .next (if shadow < shadowCount ∧ late ∧ !x.lag then
    (s.setShadow shadow inc { x with lag := true }).report 0x06 10 834 0 [w64 shadow, w64 inc]
  else s)

end Sys2Proof.Machine
end

