-- ==== Sys2Proof/Machine/Ready.lean ====
section
/-!
DEFINITION. Sys2Proof/Machine/Ready.lean: when a context may issue (R99, R100, R102, R139, R146, R165), the order in which a
core chooses among ready contexts (R140), and poisoned instruction words (R444).
-/
namespace Sys2Proof.Machine

/-- Whether what a task waits for no longer holds it (R100, R102, R146, R165). -/
def State.waitOver (s : State) (c : Nat) (t : Ctx) : Bool :=
  match t.wait with
  | .none => true
  | .gate _ ids => ids.all (fun i => !((s.core c).out).any (fun o => o.req.id == i))
  | .settle => t.var.isEmpty
  | .trap .. => t.var.isEmpty
  | .cond => t.phase != .parked || t.var.isEmpty
  | .alone => true
  | .stall => true
  | _ => false

/-- Whether a task of core `c` is ready (R139): it holds a task that is not parked, its stall count has elapsed, and no wait
holds it. -/
def State.readyTask (s : State) (c : Nat) (t : Ctx) : Bool :=
  (t.phase == .running || (t.phase == .parked && t.wait == .cond)) && !t.reclaim && s.waitOver c t && t.readyAt ≤ s.cycle

/-- Whether a context may issue now (R99, R139): its core issues at most one instruction in a cycle. -/
def State.ready (s : State) (c k : Nat) : Bool :=
  s.readyTask c (s.ctx c k) && (s.core c).issuedAt != some s.cycle

/-- The word at a context's pc is poisoned (R213, R444). -/
def State.fetchPoison (s : State) (c : Nat) (t : Ctx) : Bool :=
  match t.window.find? t.pc.toNat with
  | some w => w.2
  | none => NatSet.has (s.core c).istorePoison (t.pc.toNat / 4)

/-- The state in which context `k` of core `c` issues: what it waited for is over (R102). -/
def State.atIssue (s : State) (c k : Nat) : State :=
  ({ s with curCore := c, curCtx := k } : State).updCur (fun t => if t.wait = .settle then { t with wait := .none, waitFrom := none } else t)

/-- The age limit at which a context is promoted (R140). -/
def HomeCore.promoteAt (h : HomeCore) : Nat := h.agelim.toNat % 2 ^ 16 - 16

/-- AGE_PROMOTION (R140): of a ready context, which an instruction that waits at its issue does not have. -/
def execAgePromotion (core ctx : Nat) (s : State) : Out1 :=
  let t := s.ctx core ctx
  .next (if s.ready core ctx && !t.wait.held && (s.core core).promoteAt ≤ t.age then s.setCtx core ctx { t with promoted := true } else s)

/-- The rank of a ready context in a cycle (R140): promoted ones, then by the role of the task; one that has yielded in the cycle
before comes after every other (R220). -/
def HomeCore.rank (h : HomeCore) (cycle : Nat) (t : Ctx) : Nat :=
  (if t.yielded.any (fun y => y + 1 == cycle) then 4 else 0) + (if t.promoted || h.promoteAt ≤ t.age then 0 else 1 + t.role)

/-- Whether a context comes before another one: the lower rank, then the older, then the lower number (R140). -/
def HomeCore.before (h : HomeCore) (cycle : Nat) (a b : Nat × Ctx) : Bool :=
  h.rank cycle a.2 < h.rank cycle b.2 ||
    (h.rank cycle a.2 == h.rank cycle b.2 && (b.2.age < a.2.age || (a.2.age == b.2.age && a.1 < b.1)))

/-- Inserts a context in the order. -/
def HomeCore.insertCtx (h : HomeCore) (cycle : Nat) (a : Nat × Ctx) : List (Nat × Ctx) → List (Nat × Ctx)
  | [] => [a]
  | b :: l => if h.before cycle a b then a :: b :: l else b :: HomeCore.insertCtx h cycle a l

/-- The ready contexts of core `c` in the order in which it chooses among them (R140). -/
def State.issueOrder (s : State) (c : Nat) : List Nat :=
  let h := s.core c
  let rs := h.ctxs.filter (fun (e : Nat × Ctx) => s.ready c e.1)
  (rs.foldr (h.insertCtx s.cycle) []).map (·.1)

end Sys2Proof.Machine
end

