-- ==== Sys2Proof/Machine/Lease.lean ====
section
/-!
DEFINITION. Sys2Proof/Machine/Lease.lean: the steps of translation and time: walks, expiry and renewal of leases, the
write-back before an expiry, clock comparison, the interlocked CSR reads, and the dirty logs (R203, R354 to R367, R375).
-/
namespace Sys2Proof.Machine

/-! ### Walks, expiry (R354, R357) -/

/-- TRANSLATION_WALK (R354). -/
def execTranslationWalk (slice asid : Nat) (va : W64) (s : State) : Out1 :=
  if slice < 1536 then
    .next (if transSlice (dieOf slice) asid va.toNat = slice ∧ canonical va.toNat then
      (s.translate (dieOf slice) asid va.toNat false none).2
    else s)
  else .fault .noSuchUnit

/-- LEASE_EXPIRE (R357): a slice drops a translation whose expiry its die's time has reached. -/
def execLeaseExpire (slice asid page : Nat) (s : State) : Out1 :=
  .next { s with leases := s.leases.filter (fun l =>
    !(l.slice == slice && l.asid == asid && l.base == page && l.tr.exp ≤ s.timeOf (dieOf slice))) }

/-! ### Renewal (R356, R362) -/

/-- The renewal of one line of L1(c) (R356, R362): it is held under what the walk finds, with a later expiry and wider rights, or its
clean bytes become invalid. A translation that serves one request only is no renewal. -/
def State.renewLine (s : State) (c : Nat) (l : L1Line) : State :=
  let die := dieOf c
  match s.renew die l.asid (l.line * 128) l.tr with
  | none => s.updCore c (·.putL1 l.dropClean)
  | some tr => if tr.once then s else (s.raiseHorizon die tr.exp).updCore c (·.putL1 { l with tr := tr.line })

/-- An agent renews what it holds: a core the lines of its L1 (R356), an engine its own translations. -/
def State.renewAgent (s : State) (a : Agent) : State :=
  match a with
  | .core c => (s.core c).l1.foldl (fun s l => if s.current c l then s.renewLine c l else s) s
  | _ => s.renewEngine a

/-- LEASE_RENEW (R362). -/
def execLeaseRenew (agent : Agent) (s : State) : Out1 := .next (s.renewAgent agent)

/-! ### Eviction (R154, R356) -/

/-- Evict: clean bytes become invalid, dirty bytes are written back and become clean. -/
def State.evictLine (s : State) (c i : Nat) : State :=
  match (s.core c).l1[i]? with
  | none => s
  | some l => (s.updCore c (·.putL1 l.dropClean)).writeBack c l.dropClean

/-- L1_LEASE_WRITEBACK (R356): a dirty line is evicted before its lease ends. -/
def execL1LeaseWriteback (core line : Nat) (s : State) : Out1 :=
  if core < 1536 then
    .next (match (s.core core).l1[line]? with
      | some l => if l.isDirty then s.evictLine core line else s
      | none => s)
  else .fault .noSuchUnit

/-! ### Clocks (R363, R364) -/

/-- The type of a unit of a die (R485). -/
def unitType (u : Nat) : Nat :=
  if u < 384 then 0 else if u < 768 then 1 else if u < 804 then 2 else if u < 816 then 3 else if u < 818 then 4
  else if u < 820 then 5 else if u < 824 then 6 else if u < 832 then 7 else if u < 836 then u - 824 else 12

/-- The units that compare their time: keepers, slices, cores, arrays, BDEs and decoders (R363). -/
def comparesTime (u : Nat) : Bool := u < 804 || (808 ≤ u && u < 818) || u == 833

/-- SKEW_COMPARE (R363); the keepers' own counts are those of the state. -/
def execSkewCompare (die unit measured : Nat) (s : State) : Out1 :=
  if die < 4 ∧ comparesTime unit then
    let m := if unit = 833 then max measured (s.keeperSkew die) else measured
    .next (if 8 < m then s.clockFault die (unitType unit) unit m else s)
  else .fault .noSuchUnit

/-! ### CSR reads of variable latency (R203, R360, R375) -/

/-- A ready context issues its CSR instruction when it names the CSR `num`. -/
def State.issueCsr (s : State) (c k num : Nat) : Out1 :=
  if s.ready c k && !s.fetchPoison c (s.ctx c k) && !(s.ctx c k).poisoned then
    match decodeWord (s.wordAt c (s.ctx c k)).toNat with
    | .ok (.csrr st rd n) => if n.val = num then execCsrr st rd n (s.atIssue c k) else .next s
    | .ok (.csrw st rd rs1 n) => if n.val = num then execCsrw st rd rs1 n (s.atIssue c k) else .next s
    | .ok (.csrs st rd rs1 n) => if n.val = num then execCsrs st rd rs1 n (s.atIssue c k) else .next s
    | .ok (.csrc st rd rs1 n) => if n.val = num then execCsrc st rd rs1 n (s.atIssue c k) else .next s
    | _ => .next s
  else .next s

/-- LHZN_READ (R360). -/
def execLhznRead (core ctx : Nat) (s : State) : Out1 := s.issueCsr core ctx 0x021

/-- DTIME_READ (R203). -/
def execDtimeRead (core ctx : Nat) (s : State) : Out1 := s.issueCsr core ctx 0x020

/-- CPGO_READ (R375). -/
def execCpgoRead (core ctx : Nat) (s : State) : Out1 := s.issueCsr core ctx 0x045

/-! ### Dirty logs (R365 to R367) -/

/-- DLCFG_WRITE (R365). -/
def execDlcfgWrite (core : Nat) (value : W64) (s : State) : Out1 :=
  if core < 1536 then .next (s.writeDlcfg core value) else .fault .noSuchUnit

/-- HARVEST (R367). -/
def execHarvest (octant : Nat) (value : W64) (s : State) : Out1 :=
  if octant < 192 then .next (s.writeDlharv octant value) else .fault .noSuchUnit

def State.dlHead (s : State) (c : Nat) : Nat := s.regBits (pDlhead c) 31 0
def State.dlTail (s : State) (c : Nat) : Nat := s.regBits (pDltail c) 31 0

/-- Whether core `c`'s log holds no entry with an index below `t`. -/
def State.mergedTo (s : State) (c t : Nat) : Bool :=
  let rem := (t + 2 ^ 32 - s.dlHead c) % 2 ^ 32
  rem == 0 || 2 ^ 31 ≤ rem || s.dlHead c == s.dlTail c

/-- Whether the octant agent merges an entry of core `c`'s log now (R366, R367). -/
def State.wantsMerge (s : State) (o c : Nat) : Bool :=
  let len := s.regBits (pDlcfg c) 35 32
  let used := (s.dlTail c + 2 ^ 32 - s.dlHead c) % 2 ^ 32
  let harvest := match (s.octs.get {} o).harvest with | some ts => !s.mergedTo c (nth 0 ts (c % 8)) | none => false
  len != 0 && used != 0 && (2 ^ (len - 1) ≤ used || harvest)

/-- The entry at core `c`'s HEAD is merged. -/
def State.dlAdvance (s : State) (c i : Nat) : State := s.setReg (pDlhead c) (w64 ((i + 1) % 2 ^ 32))

/-- The octant agent reads the entry at core `c`'s HEAD from the scratchpad. -/
def State.logRead (s : State) (o c : Nat) : State :=
  let i := s.dlHead c
  let off := s.regBits (pDlcfg c) 19 6 * 64 + 8 * (i % 2 ^ s.regBits (pDlcfg c) 35 32)
  let (id, s) := s.engineSend (.octAgent o) (.spad c) .read off 8 (otherVa c off) 0 none
  { s with octs := s.octs.set o { s.octs.get {} o with reading := some (c, i, id) } }

/-- The octant agent sends the atomic of the entry that it has read (R366). An entry that is poisoned or names no word of HBM is
passed over. -/
def State.startMerge (s : State) (o c i : Nat) (b : List PByte) : State :=
  let leaf := bitsOf (leNat (PByte.vals b)) 55 3 * 8
  if PByte.anyBad b || !inHbm leaf 8 then (if s.dlHead c = i then s.dlAdvance c i else s)
  else
    let (id, s) := s.engineSend (.octAgent o) (s.homeOf leaf) (.amo .or 0x40) leaf 8 0 0 none
    { s with octs := s.octs.set o { s.octs.get {} o with merging := some (c, i, id) } }

/-- One step of the octant agent: the merge in progress ends once it is acknowledged, the entry that has been read is merged, or
the next one is read. Of several logs that want a merge the agent takes that of the lowest core: the spec gives no order
(R366, R367; assumption log 122). -/
def State.octStep (s : State) (o : Nat) : State :=
  let a := s.octs.get {} o
  match a.merging, a.reading with
  | some (c, i, id), _ =>
    if s.acked [id] then
      let s := if s.dlHead c = i then s.dlAdvance c i else s
      { s with octs := s.octs.set o { a with merging := none } }
    else s
  | none, some (c, i, id) =>
    match s.engIn.find? id with
    | some b => ({ s with engIn := s.engIn.erase id, octs := s.octs.set o { a with reading := none } } : State).startMerge o c i b
    | none => s
  | none, none =>
    match (natsFrom (8 * o) 8).find? (fun c => s.wantsMerge o c) with
    | some c => s.logRead o c
    | none => s

/-- DIRTY_LOG_MERGE (R366). -/
def execDirtyLogMerge (octant : Nat) (s : State) : Out1 := if octant < 192 then .next (s.octStep octant) else .fault .noSuchUnit

/-- HARVEST_DONE (R367). -/
def execHarvestDone (octant : Nat) (s : State) : Out1 :=
  if octant < 192 then
    let a := s.octs.get {} octant
    .next (match a.harvest with
      | none => s
      | some ts =>
        if a.merging.isNone && a.reading.isNone && (natsFrom 0 8).all (fun k => s.mergedTo (8 * octant + k) (nth 0 ts k)) then
          { s with octs := s.octs.set octant { a with harvest := none } }
        else s)
  else .fault .noSuchUnit

end Sys2Proof.Machine
end

