-- ==== Sys2Proof/Machine/Objects.lean ====
section
/-!
DEFINITION. Sys2Proof/Machine/Objects.lean: what the home of a future, a group or a barrier does with a request, each as one
atomic step (R226 to R232, R242 to R245).
-/
namespace Sys2Proof.Machine

/-- The `i`-th word of the object at an address of HBM. -/
def State.objWord (s : State) (pa i : Nat) : Nat := (s.memWord (pa + 8 * i)).toNat

/-- Whether words 2 to 7 of a group or barrier are not all zero. -/
def State.objResv (s : State) (pa : Nat) : Bool := (natsFrom 2 6).any (fun i => s.objWord pa i != 0)

/-! ### Futures (R242 to R245) -/

/-- The deferral buffer's use at a home (R243). -/
def State.deferredAt (s : State) (h : Home) : Nat := (s.deferred.filter (fun r => r.home == h)).length

/-- `ldf` at the cell's home (R243). -/
def State.ldfAt (s : State) (r : Req) : State :=
  let w1 := s.objWord r.addr 1
  if poisonedIn s.poison r.addr 16 then s.respond { req := r, poison := true }
  else if w1 / 2 ≠ 0 then s.respond { req := r, ok := false }
  else if bitOf w1 0 then s.respond { req := r, val := s.memWord r.addr }
  else if s.deferredAt r.home < 32 then { s with deferred := s.deferred ++ [r] }
  else s.respond { req := r, ok := false }

/-- `stf` at the cell's home (R244). A poisoned word1 is written (R459; assumption log 23). -/
def State.stfAt (s : State) (r : Req) (v : W64) : State :=
  let w1 := s.objWord r.addr 1
  let bad := poisonedIn s.poison (r.addr + 8) 8
  if !bad ∧ w1 / 2 ≠ 0 then s.respond { req := r, val := 2, ok := false }
  else if !bad ∧ bitOf w1 0 then s.respond { req := r, val := 1, ok := false }
  else
    (s.memWrite r.addr (PByte.clean (leBytes v.toNat 8 ++ leBytes 1 8))).respond { req := r, val := 0 }

/-- The number by which its agent names a request: its own, or for another module that of its packet. -/
def Req.name (r : Req) : Nat := match r.agent with | .fabricIn .. => r.epc | _ => r.id

/-- The withdrawal of an `ldf` at its home (R245): if it is still deferred, it is answered (0, refused). -/
def State.withdrawAt (s : State) (r : Req) (target : Nat) : State :=
  let s :=
    match s.deferred.find? (fun d => d.name == target && d.agent == r.agent && d.home == r.home) with
    | some d => ({ s with deferred := s.deferred.filter (fun x => x.id != d.id) } : State).respond { req := d, ok := false }
    | none => s
  s.respond { req := r }

/-! ### Barriers (R227, R230 to R232) -/

/-- A barrier's words 0 and 1 by fields. -/
def barGen (w0 : Nat) : Nat := bitsOf w0 63 32
def barArrived (w0 : Nat) : Nat := bitsOf w0 31 0
def barScope (w1 : Nat) : Nat := bitsOf w1 34 32
def barExpect (w1 : Nat) : Nat := bitsOf w1 31 0

/-- Whether a barrier is bad (R227). -/
def State.barBad (s : State) (pa : Nat) : Bool :=
  let w1 := s.objWord pa 1
  bitsOf w1 63 47 != 0 || 4 < barScope w1 || s.objResv pa

/-- The template of a barrier as a message, and its word7. -/
def State.template (s : State) (pa : Nat) : TaskMsg × W64 :=
  let w := (natsFrom 8 8).map (fun i => s.memWord (pa + 8 * i))
  (TaskMsg.ofWords w, nth 0 w 7)

/-- The pending continuation of a barrier goes no further (R230, R145). -/
def State.dropBarCont (s : State) (pa : Nat) : State :=
  match s.barConts.find? pa with
  | some l => ({ s with barConts := s.barConts.erase pa } : State).countDown l
  | none => s

/-- The continuation of a released barrier is sent (R231, R417); one that fails the sender's checks is dropped (R112, R114). -/
def State.sendBarCont (s : State) (slice pa w1 : Nat) : State :=
  match s.barConts.find? pa with
  | none => s
  | some l =>
    let (m, w7) := s.template pa
    let core := bitsOf w1 46 36
    if m.good w7 && s.maskHas l core then
      let acq := if m.key = 0 then Scope.ofBits (barScope w1) else .package
      let f : Flight := { msg := m, launch := l, target := core, sender := .slice slice, acq := some acq }
      { s with barConts := s.barConts.erase pa, msgs := s.msgs ++ [f] }
    else s.dropBarCont pa

/-- Whether a registered request is a `barw` of the barrier at an address of a home. -/
def Req.isBarw (r : Req) (h : Home) (pa : Nat) : Bool :=
  match r.op with
  | .barw _ => r.home == h && r.addr == pa
  | _ => false

/-- `release(b)` of R231, with word0's generation `g` and word1; the waiters that an engine's arrival releases acquire at package
scope or wider (R173). -/
def State.barRelease (s : State) (slice pa g w1 : Nat) (engine : Bool) : State :=
  let gen := (g + 1) % 2 ^ 32
  let s := s.memSetWord pa (w64 (gen * 2 ^ 32))
  let hits := s.waiters.filter (fun r => r.isBarw (.slice slice) pa)
  let s := { s with waiters := s.waiters.filter (fun r => !r.isBarw (.slice slice) pa) }
  let sc := Scope.ofBits (if engine then max (barScope w1) 3 else barScope w1)
  let s := hits.foldl (fun s r => s.respond { req := r, val := w64 gen, scope := some sc }) s
  if bitOf w1 35 then (s.sendBarCont slice pa w1).memSetWord (pa + 8) (setBit (w64 w1) 35 false) else s

/-- `arrive(b, S)` of R231; `none` is an engine, which arrives with the barrier's own scope. Answers the generation, or
nothing where the arrival is refused. -/
def State.arrive (s : State) (slice pa : Nat) (sc : Option Scope) : Option Nat × State :=
  let w0 := s.objWord pa 0
  let w1 := s.objWord pa 1
  let narrow := match sc with | some sc => sc.rank < barScope w1 | none => false
  if s.barBad pa || narrow then (none, s)
  else
    let g := barGen w0
    let a := barArrived w0 + 1
    if barExpect w1 ≤ a then (some g, s.barRelease slice pa g w1 sc.isNone)
    else (some g, s.memSetWord pa (w64 (g * 2 ^ 32 + a)))

/-- The all-ones result. -/
def allOnes : W64 := w64 (2 ^ 64 - 1)

/-- `barv` at the barrier's home. -/
def State.barvAt (s : State) (slice : Nat) (r : Req) : State :=
  if poisonedIn s.poison r.addr 128 then s.respond { req := r, poison := true }
  else
    match s.arrive slice r.addr (some r.scope) with
    | (some g, s) => s.respond { req := r, val := w64 g }
    | (none, s) => s.respond { req := r, val := allOnes }

/-- An engine's arrival at the barrier's home. -/
def State.arriveAt (s : State) (slice : Nat) (r : Req) : State :=
  if poisonedIn s.poison r.addr 128 then s.respond { req := r, ok := false }
  else
    match s.arrive slice r.addr none with
    | (some g, s) => s.respond { req := r, val := w64 g }
    | (none, s) => s.respond { req := r, ok := false }

/-- `barw` at the barrier's home (R232). -/
def State.barwAt (s : State) (r : Req) (gen : W64) : State :=
  let w0 := s.objWord r.addr 0
  if poisonedIn s.poison r.addr 128 then s.respond { req := r, poison := true }
  else if s.barBad r.addr then s.respond { req := r, val := allOnes }
  else if barGen w0 ≠ gen.toNat then
    s.respond { req := r, val := w64 (barGen w0), scope := some (Scope.ofBits (barScope (s.objWord r.addr 1))) }
  else { s with waiters := s.waiters ++ [r] }

/-- `bari` at the barrier's home (R230). -/
def State.bariAt (s : State) (r : Req) (c : W64) (coreOk : Bool) (job launch : Nat) : State :=
  let pa := r.addr
  let (m, w7) := s.template pa
  if poisonedIn s.poison pa 128 then s.respond { req := r, poison := true }
  else if bitsOf c.toNat 63 47 ≠ 0 ∨ 4 < barScope c.toNat ∨ s.objResv pa then s.respond { req := r, val := 1 }
  else if c.getLsbD 35 ∧ (!m.good w7 ∨ !coreOk) then s.respond { req := r, val := 2 }
  else
    let w0 := s.objWord pa 0
    let s := if bitOf (s.objWord pa 1) 35 then s.dropBarCont pa else s
    let s := (s.memSetWord (pa + 8) c).memSetWord pa (w64 (barGen w0 * 2 ^ 32))
    let s :=
      if c.getLsbD 35 then
        let m := { m with bd := false, inc := 0, bound := 0, job := job }
        let w := m.words
        let s := (s.memSetWord (pa + 64) (nth 0 w 0)).memSetWord (pa + 72) (nth 0 w 1)
        ({ s with barConts := s.barConts.set pa launch } : State).countUp launch
      else s
    s.respond { req := r, val := 0 }

/-- `adjust(b, δ)` of R231 at the barrier's home; a bad or poisoned barrier is not adjusted. -/
def State.adjustAt (s : State) (slice : Nat) (r : Req) (up : Bool) : State :=
  let pa := r.addr
  let w0 := s.objWord pa 0
  let w1 := s.objWord pa 1
  let e := barExpect w1
  if poisonedIn s.poison pa 128 || s.barBad pa then s.respond { req := r, ok := false }
  else
    let e' := if up then (if e < 2 ^ 32 - 1 then e + 1 else e) else e - 1
    let w1 := w1 - e + e'
    let s := if e' = e then s else s.memSetWord (pa + 8) (w64 w1)
    let s := if 0 < barArrived w0 ∧ e' ≤ barArrived w0 then s.barRelease slice pa (barGen w0) w1 false else s
    s.respond { req := r }

/-! ### Groups (R226, R229) -/

/-- Whether a group is bad (R229). -/
def State.groupBad (s : State) (pa : Nat) : Bool :=
  bitsOf (s.objWord pa 0) 63 32 != 0 || s.objWord pa 1 % 128 != 0 || s.objResv pa

/-- The report of an adjustment that is not made (R229, R457 KIND 0x03). -/
def State.adjustReport (s : State) (slice group bar : Nat) : State :=
  s.report 0x03 1 (384 + slice % 384) (dieOf slice) [w64 group, w64 bar]

/-- The group's home sends the adjustment of BAR, and answers the request once that is performed; where BAR has no
translation in the issuer's space, or leads to no memory, it is reported and answered at once. -/
def State.sendAdjust (s : State) (slice : Nat) (r : Req) (up : Bool) (bar : Nat) : State :=
  let fail := fun (s : State) => (s.adjustReport slice r.va bar).respond { req := r, val := 0 }
  match placeOf bar, canonical bar with
  | .global, true =>
    match s.translate (dieOf slice) r.asid bar false none with
    | (.error _, s) => fail s
    | (.ok tr, s) =>
      if cacheable tr.pa then
        let s := { s with adjusts := s.adjusts ++ [(({ req := r, val := 0 } : Resp), bar)] }
        (s.engineSend (.slice slice) (s.homeOf tr.pa) (.adjust up r.id) tr.pa 128 bar r.asid (some tr.exp)).2
      else fail s
  | _, _ => fail s

/-- `join` and `leave` at the group's home (R229). -/
def State.groupAt (s : State) (slice : Nat) (r : Req) (up : Bool) : State :=
  let w0 := s.objWord r.addr 0
  let bar := s.objWord r.addr 1
  let count := bitsOf w0 31 0
  if poisonedIn s.poison r.addr 64 then s.respond { req := r, poison := true }
  else if s.groupBad r.addr then s.respond { req := r, val := 4 }
  else if (if up then count = 2 ^ 32 - 1 else count = 0) then s.respond { req := r, val := 1 }
  else
    let s := s.memSetWord r.addr (w64 (if up then count + 1 else count - 1))
    if bar = 0 then s.respond { req := r, val := 0 } else s.sendAdjust slice r up bar

/-- The acknowledgement of an adjustment lets its group answer (R229). -/
def State.adjusted (s : State) (slice : Nat) (join : Nat) (ok : Bool) : State :=
  match s.adjusts.find? (fun a => a.1.req.id == join) with
  | none => s
  | some (resp, bar) =>
    let s := { s with adjusts := s.adjusts.filter (fun a => a.1.req.id != join) }
    let s := if ok then s else s.adjustReport slice resp.req.va bar
    s.respond resp

end Sys2Proof.Machine
end

