-- ==== Sys2Proof/Machine/Homes.lean ====
section
/-!
DEFINITION. Sys2Proof/Machine/Homes.lean: the steps of the ordering machine up to a home: Drain, Answer, Perform, Evict, Drop,
and the steps of engines (R150 to R154, R162 to R164, R170).
-/
namespace Sys2Proof.Machine

/-! ### Drain (R154) -/

/-- The head of OQ(c) moves to the channel of its home. -/
def State.drain (s : State) (c : Nat) : State :=
  match (s.core c).oq with
  | [] => s
  | r :: rest =>
    let s := s.updCore c (fun h => { h with oq := rest })
    { s with chans := addReq s.chans (.core c) r.home r }

/-- DRAIN (R154). -/
def execDrain (core : Nat) (s : State) : Out1 := if core < 1536 then .next (s.drain core) else .fault .noSuchUnit

/-! ### The RDC (R21, R154, R157, R169) -/

/-- The portion that may hold a line of home `h` for core `c`, when the line is homed off its die. -/
def rdcPortion (c : Nat) (h : Home) (rdc : Bool) : Option Nat :=
  match h with
  | .slice i => if dieOf i = dieOf c then none else some (dieOf c * 384 + i % 384)
  | .remote _ => if rdc then some c else none
  | _ => none

/-- The copy of a line in a portion. -/
def State.rdcLine (s : State) (portion : Nat) (h : Home) (pa : Nat) : Option RdcLine :=
  (s.rdc.get [] portion).find? (fun x => x.home == h && x.line == pa / 128)

/-- Whether the scope of a load lets the RDC answer it (R154, R157). -/
def answerScope (r : Req) : Bool :=
  match r.scope with
  | .task => true
  | .core => true
  | .die => match r.home with | .slice _ => true | _ => false
  | _ => false

/-- The bytes of a copy, and the position of each. -/
def RdcLine.data (x : RdcLine) : List PByte := x.bytes.map (·.1)
def RdcLine.poss (x : RdcLine) : List Nat := x.bytes.map (·.2)

/-- ANSWER (R154): the portion answers the load at the head of a channel. A write of the core ahead of it in the channel has been
performed, since the load is at the head. -/
def State.answerLoad (s : State) (c : Nat) (h : Home) : State :=
  match s.chan (.core c) h with
  | [] => s
  | r :: _ =>
    match r.op, rdcPortion c h r.rdc with
    | .read, some portion =>
      match s.rdcLine portion h r.addr with
      | some x =>
        if answerScope r && r.size == 128 then
          ({ s with chans := popReq s.chans (.core c) h } : State).respond
            { req := r, bytes := x.data, base := r.addr, poss := x.poss }
        else s
      | none => s
    | _, _ => s

def execAnswer (core : Nat) (home : Home) (s : State) : Out1 :=
  if core < 1536 then .next (s.answerLoad core home) else .fault .noSuchUnit

/-! ### Perform at a slice (R151) -/

/-- The report of an accumulate-mode element that meets poison (R314, R457 KIND 0x05). -/
def State.landReport (s : State) (r : Req) : State :=
  match r.agent with
  | .array a =>
    let ticket := match s.hires.find? (fun h => h.sent.contains r.id) with | some h => h.ticket | none => 0
    s.report 0x05 2 (768 + a % 36) (a / 36) [w64 (a % 36), w64 ticket, w64 r.va]
  | _ => s

/-- A read-modify-write at HBM (R238, R239, R241, R314): one that meets poison leaves the location as it is. -/
def State.rmwAt (s : State) (slice : Nat) (r : Req) (new : Nat → Option Nat) : State :=
  let old := leNat (Memory.bytes s.mem r.addr r.size)
  if poisonedIn s.poison r.addr r.size then
    match r.op with
    | .red .. => (s.redReport slice r.va dPoison).respond { req := r }
    | .landAcc .. => (s.landReport r).respond { req := r, ok := false }
    | _ => s.respond { req := r, poison := true }
  else
    let s := match new old with | some v => s.memWrite r.addr (PByte.clean (leBytes v r.size)) | none => s
    s.respond { req := r, val := w64 old, pos := s.posOf r.addr }

/-- The lines of a request reach the L2 of the slice that is their home, unless the slice is disabled (R20, R30). -/
def State.l2Access (s : State) (slice : Nat) (r : Req) : State :=
  if s.disabled (dieOf slice) (384 + slice % 384) then s
  else (linesOf r.addr r.size).foldl (fun s l => s.l2Line r.id r.op.writes l) s

/-- Performs a request at a slice. -/
def State.performSlice (s : State) (slice : Nat) (r : Req) : State :=
  match r.op with
  | .read => s.respond { req := r, bytes := s.memBytes r.addr r.size, base := r.addr, pos := s.posOf r.addr }
  | .write data =>
    let s := s.memWrite r.addr data
    s.respond { req := r, pos := s.posOf r.addr }
  | .writeBack bytes =>
    let s := s.memScatter r.addr bytes
    s.respond { req := r, pos := s.posOf r.addr }
  | .landAcc lf v int => s.rmwAt slice r (fun old => some (landAdd int lf old v.toNat))
  | .ldf => s.ldfAt r
  | .stf v => s.stfAt r v
  | .withdraw t => s.withdrawAt r t
  | .waita expect =>
    if poisonedIn s.poison r.addr 8 then s.respond { req := r, poison := true }
    else if s.memWord r.addr ≠ expect then s.respond { req := r, val := s.memWord r.addr }
    else { s with waiters := s.waiters ++ [r] }
  | .join => s.groupAt slice r true
  | .leave => s.groupAt slice r false
  | .adjust up _ => s.adjustAt slice r up
  | .bari c ok job launch => s.bariAt r c ok job launch
  | .barv => s.barvAt slice r
  | .barw gen => s.barwAt r gen
  | .arrive => s.arriveAt slice r
  | _ => s.rmwAt slice r (r.op.newValue r.size)

/-! ### Perform at a scratchpad (R150, R170) -/

/-- An access that is performed as no access: zero to a read or a read-modify-write, and the count of R492. -/
def State.noAccess (s : State) (c : Nat) (r : Req) : State :=
  let s := s.updCore c (fun h => { h with spoob := h.spoob + 1 })
  s.respond { req := r, bytes := if r.op = .read then List.replicate r.size ⟨0, false⟩ else [], base := r.addr }

/-- A read-modify-write at a scratchpad. -/
def State.spadRmw (s : State) (c : Nat) (r : Req) (new : Nat → Option Nat) : State :=
  let b := (s.core c).spBytes r.addr r.size
  let old := leNat (PByte.vals b)
  if PByte.anyBad b then
    match r.op with
    | .red .. => (s.report 0x04 0 (c % 384) (dieOf c) [w64 (otherVa c r.addr), w64 dPoison]).respond { req := r }
    | .landAcc .. => (s.landReport r).respond { req := r, ok := false }
    | _ => s.respond { req := r, poison := true }
  else
    let s := match new old with | some v => s.spWrite c r.addr (PByte.clean (leBytes v r.size)) | none => s
    s.respond { req := r, val := w64 old }

/-- Performs a request at core `c`'s scratchpad. -/
def State.performSpad (s : State) (c : Nat) (r : Req) : State :=
  if (s.core c).spsize ≤ r.addr then s.noAccess c r
  else
    match r.op with
    | .read => s.respond { req := r, bytes := (s.core c).spBytes r.addr r.size, base := r.addr }
    | .write data => (s.spWrite c r.addr data).respond { req := r }
    | .landAcc lf v int => s.spadRmw c r (fun old => some (landAdd int lf old v.toNat))
    | .amo .. => s.spadRmw c r (r.op.newValue r.size)
    | .cas .. => s.spadRmw c r (r.op.newValue r.size)
    | .red .. => s.spadRmw c r (r.op.newValue r.size)
    | .waita expect =>
      let b := (s.core c).spBytes r.addr 8
      let w := w64 (leNat (PByte.vals b))
      if PByte.anyBad b then s.respond { req := r, poison := true }
      else if w ≠ expect then s.respond { req := r, val := w }
      else { s with waiters := s.waiters ++ [r] }
    | _ => s.respond r.refused

/-! ### Perform at the other homes -/

/-- Writes bytes to device registers, one register at a time. -/
def State.devStores (s : State) (pa : Nat) (bs : List Byte) : State :=
  (cutUnits pa (PByte.clean bs) (bs.length + 1)).foldl (fun s u => s.devStore u.1 (PByte.vals u.2)) s

/-- Performs a request at device registers (R9; assumption log 10): a read-modify-write reads and writes the register, a
request to an object is refused. -/
def State.performDevice (s : State) (r : Req) : State :=
  match r.op with
  | .read =>
    let (b, s) := s.devBytes r.addr r.size (r.size / 8 + 2)
    s.respond { req := r, bytes := PByte.clean b, base := r.addr }
  | .write data =>
    let s := s.devStores r.addr (PByte.vals data)
    (s.answerWaita r.home r.addr data.length (fun a => PByte.clean (leBytes (s.devRead a).1.toNat 8))).respond { req := r }
  | .waita expect =>
    let (v, s) := s.devRead (r.addr / 8 * 8)
    if v ≠ expect then s.respond { req := r, val := v } else { s with waiters := s.waiters ++ [r] }
  | .amo .. | .cas .. | .red .. =>
    let (b, s) := s.devLoad r.addr r.size
    let s :=
      match r.op.newValue r.size (leNat b) with
      | some v => s.devStore r.addr (leBytes v r.size)
      | none => s
    s.respond { req := r, val := w64 (leNat b) }
  | _ => s.respond r.refused

/-- Whether the host aperture's window admits a request (R472). -/
def State.hostWindow (s : State) (r : Req) : Bool :=
  let e := (s.reg (pHostAp (bitsOf (devOff r.addr) 34 26))).toNat
  bitOf e 63 && (!r.op.writes || bitOf e 62)

/-- The host physical address of an aperture address (R472). -/
def State.hostAddr (s : State) (pa : Nat) : Nat :=
  s.regBits (pHostAp (bitsOf (devOff pa) 34 26)) 51 26 * 2 ^ 26 + pa % 2 ^ 26

/-- Whether the host port can carry a request out: reads, writes and read-modify-writes (R469). -/
def HomeOp.plain : HomeOp → Bool
  | .read => true
  | .write _ => true
  | .writeBack _ => true
  | .amo .. => true
  | .cas .. => true
  | .red .. => true
  | .landAcc .. => true
  | _ => false

/-- The host port issues a request to the host, or refuses it (R472, R479). -/
def State.performHost (s : State) (r : Req) : State :=
  if s.hostWindow r && r.op.plain then { s with hostReqs := s.hostReqs ++ [r] }
  else
    (s.report 0x20 11 835 0 [w64 (s.regBits pFabctl 16 8), w64 (s.hostAddr r.addr), if r.op.writes then 1 else 0]).refuseReq r

/-! ### Perform (R154) -/

/-- Whether the head of a channel may be performed now. A DISMASK read waits until every effect is in force (R494), a
packet for room in its session (R478), an access to a region that a window accumulator works on for its step (R283). -/
def State.mayPerform (s : State) (h : Home) (r : Req) : Bool :=
  match h with
  | .remote m => (s.session m).room || (s.session m).failed
  | .spad c => !(s.core c).waBusy s.cycle r.addr r.size
  | .device _ =>
    match r.op, devRegAt (r.addr / 8 * 8) with
    | .read, .dismask .. => s.disableDone
    | _, _ => true
  | _ => true

/-- A home performs a request. -/
def State.performAt (s : State) (h : Home) (r : Req) : State :=
  match h with
  | .slice i => (s.l2Access i r).performSlice i r
  | .spad c => s.performSpad c r
  | .hub => s.hubPerform r
  | .queueAgent _ =>
    match r.op with
    | .qput q bytes sup => s.qputPerform r q bytes sup
    | _ => s.respond r.refused
  | .bde _ =>
    match r.op with
    | .zone z first vals bad =>
      let (res, s) := s.contribute r.asid z first vals bad
      s.respond { req := r, val := res }
    | _ => s.respond r.refused
  | .device _ =>
    match r.op, devRegAt (r.addr / 8 * 8) with
    | .read, .fabsync => { s with fabsyncs := s.fabsyncs ++ [⟨r, s.fabPending⟩] }
    | _, _ => s.performDevice r
  | .hostPort => s.performHost r
  | .remote m => s.handOff m r

/-- A request translated again, at the slice of its agent's die, because the lease of its translation has ended: its page's new
place, or none (R357; assumption log 38). -/
def State.retranslate (s : State) (r : Req) : Option Req × State :=
  match s.translate (agentDie r.agent) r.asid r.va r.op.writes none with
  | (.error _, s) => (none, s)
  | (.ok tr, s) =>
    let addr := tr.pa / 65536 * 65536 + r.addr % 65536
    (some { r with home := s.homeOf addr, addr := addr, fwin := s.fabWin addr, exp := some tr.exp, tr := r.tr.map (fun _ => tr.line),
                   rdc := tr.rdc }, s)

/-- Whether a session has delivered a request: the export entry that it has passed stands for its translation (R476). -/
def Req.isPacket (r : Req) : Bool := match r.agent with | .fabricIn .. => true | _ => false

/-- The core that waits for a request knows where it goes (R158). -/
def State.sentTo (s : State) (r : Req) : State :=
  match r.agent with
  | .core c => s.updCore c (fun h => { h with out := h.out.map (fun o => if o.req.id == r.id then { o with req := r } else o) })
  | _ => s

/-- Appends a request to the channel of its home. -/
def State.passOn (s : State) (r : Req) : State := { s with chans := addReq s.chans r.agent r.home r }

/-- PERFORM (R154): the head of a channel is performed at its home, within the lease of its translation (R357). -/
def State.performHead (s : State) (a : Agent) (h : Home) : State :=
  match s.chan a h with
  | [] => s
  | r :: _ =>
    if !s.mayPerform h r then s
    else
      let s := { s with chans := popReq s.chans a h }
      if r.isPacket || r.exp.all (fun e => s.timeOf (agentDie a) < e) then s.performAt h r
      else
        match s.retranslate r with
        | (none, s) => s.refuseReq r
        | (some r, s) => if r.home = h then s.performAt h r else (s.sentTo r).passOn r

def execPerform (agent : Agent) (home : Home) (s : State) : Out1 := .next (s.performHead agent home)

/-- BARRIER_ADJUST (R229): the head of the channel when it is a group's adjustment. -/
def execBarrierAdjust (agent : Agent) (home : Home) (s : State) : Out1 :=
  .next (match s.chan agent home with
  | r :: _ => (match r.op with | .adjust .. => s.performHead agent home | _ => s)
  | [] => s)

/-- FUTURE_WITHDRAW (R245): the head of the channel when it is a withdrawal. -/
def execFutureWithdraw (agent : Agent) (home : Home) (s : State) : Out1 :=
  .next (match s.chan agent home with
  | r :: _ => (match r.op with | .withdraw _ => s.performHead agent home | _ => s)
  | [] => s)

/-! ### Evict and Drop (R154) -/

/-- EVICT (R154): the line at a place of L1(c). -/
def execEvict (core line : Nat) (s : State) : Out1 := if core < 1536 then .next (s.evictLine core line) else .fault .noSuchUnit

/-- DROP (R154): the line at a place of an RDC portion. -/
def execDrop (portion line : Nat) (s : State) : Out1 :=
  if portion < 1536 then
    let rest := dropNth (s.rdc.get [] portion) line
    .next { s with rdc := if rest.isEmpty then s.rdc.erase portion else s.rdc.set portion rest }
  else .fault .noSuchUnit

/-! ### Engines (R154, R172, R173) -/

/-- Whether an engine exists. -/
def agentExists : Agent → Bool
  | .core c => c < 1536
  | .copyCh c ch => c < 1536 && ch < 4
  | .push c => c < 1536
  | .array a => a < 144
  | .video v => v < 32
  | .bde b ch => b < 8 && ch < 16
  | .ring b r => b < 8 && r < 64
  | .zone b => b < 8
  | .queueAgent d => d < 4
  | .slice i => i < 1536
  | .octAgent o => o < 192
  | .hostMem => true
  | .hostIo => true
  | .fabricIn m _ => m ≤ 431

/-- Engine issue: the engine appends the next reads and writes of its head operation. -/
def State.engineIssue (s : State) (a : Agent) : State :=
  match a with
  | .copyCh c ch => s.copyIssue c ch
  | .push c => s.pushStep c
  | .array a => s.landIssue a
  | .video v => s.frameDecode v
  | .bde b ch => s.bdeIssue b ch
  | .ring b r => s.ringIssue b r
  | .zone b => s.zoneIssue b
  | .octAgent o => s.octStep o
  | _ => s

/-- ENGINE_ISSUE (R154). -/
def execEngineIssue (agent : Agent) (s : State) : Out1 :=
  if agentExists agent then .next (s.engineIssue agent) else .fault .noSuchUnit

/-- Engine event: what is signalled once the requests that it covers are acknowledged. -/
def State.engineEvent (s : State) (a : Agent) : State :=
  match a with
  | .copyCh c ch => s.copyEvent c ch
  | .array a => s.landEvent a
  | .video v => s.frameStep v
  | .bde b ch => s.bdeEvent b ch
  | .ring b r => s.ringStep b r
  | .zone b => s.zoneEvent b
  | .octAgent o => s.octStep o
  | _ => s

/-- ENGINE_EVENT (R154, R173). -/
def execEngineEvent (agent : Agent) (s : State) : Out1 :=
  if agentExists agent then .next (s.engineEvent agent) else .fault .noSuchUnit

end Sys2Proof.Machine
end

