-- ==== Sys2Proof/Machine/Preempt.lean ====
section
/-!
DEFINITION. Sys2Proof/Machine/Preempt.lean: pre-emption, save areas, resumption and discard (R251, R284, R318, R454,
R462 to R467), the arrival of a cancel at a core (R146, R147), and the watchdog (R461).
-/
namespace Sys2Proof.Machine

/-! ### Save areas (R464) -/

/-- Replaces consecutive bytes of a memory in one pass, keeping the canonical form. -/
def Memory.replace (m : List Host.Cell) (a : Nat) (bs : List Byte) : List Host.Cell :=
  let new := ((natsFrom a bs.length).zip bs).filter (fun e => e.2 != 0)
  m.filter (fun e => e.1 < a) ++ new ++ m.filter (fun e => a + bs.length ≤ e.1)

/-- The ranges of a slot that a core of `n` blocks writes, and where their bytes stand among the bytes written. -/
def slotRanges (n : Nat) : List (Nat × Nat × Nat) := [(0, 0x1E000, 0), (0x30000, 16384 * n, 0x1E000)]

/-- The bytes of a saved slot, by range: the device's own encoding (assumption log 18). -/
def SaveArea.range (a : SaveArea) (r : Nat × Nat × Nat) : List Byte := (natsFrom (a.bytes + r.2.2) r.2.1).map Config.freeByte

/-- Writes bytes at consecutive HBM addresses, each line's order going on and poison cleared. -/
def State.memFill (s : State) (pa : Nat) (bs : List Byte) : State :=
  let s := { s with mem := Memory.replace s.mem pa bs, poison := clearPoison s.poison pa bs.length }
  let s := (natsFrom (pa / 128) (bs.length / 128)).foldl (fun s l => s.bumpOrder (l * 128)) s
  s.afterWrite pa bs.length

/-- The slot of core `c` in a launch's save area. -/
def Launch.slotAddr (l : Launch) (c : Nat) : Nat :=
  l.save + ((natsFrom 0 c).filter (fun i => bitOf l.mask i)).length * 0x80000

/-- Writes the slot of core `c` for a launch, and answers what it wrote. -/
def State.writeSlot (s : State) (c n : Nat) (launch : Nat) : Option SaveArea × State :=
  match s.launch? launch with
  | none => (none, s)
  | some l =>
    let a : SaveArea := { launch := launch, addr := l.slotAddr c, size := 0x1E000 + 16384 * n, bytes := s.free }
    let s := { s with free := s.free + a.size }
    (some a, (slotRanges n).foldl (fun s r => s.memFill (a.addr + r.1) (a.range r)) s)

/-- Whether a slot reads back as it was written and no byte of it is poisoned (R464, R466). -/
def State.slotIntact (s : State) (n : Nat) (a : SaveArea) : Bool :=
  (slotRanges n).all (fun r =>
    Memory.bytes s.mem (a.addr + r.1) r.2.1 == a.range r && !poisonedIn s.poison (a.addr + r.1) r.2.1)

/-! ### The end of saved tasks (R454, R465, R466) -/

/-- A saved task ends without being restored. -/
def State.endSaved (s : State) (c : Nat) (how : TaskEnd) (t : Ctx) : State :=
  (((s.withdraw c t.uid none).clearMarksOf t.uid).countMessages t.uid).endAway c t how

/-- The hires of a core's launch leave the frozen state, their pushes to start again (R318). -/
def State.unfreeze (s : State) (c launch : Nat) : State :=
  { s with hires := s.hires.map (fun h =>
      match h.frozen with
      | some st => if h.core = c ∧ h.launch = launch then { h with state := st, frozen := none, nextLine := 0 } else h
      | none => h) }

/-- What a record holds without one of its launches. -/
def SaveRec.without (r : SaveRec) (launch : Nat) : SaveRec :=
  let gone := (r.ctxs.filter (fun (e : Nat × Ctx) => e.2.launch == launch)).map (·.1)
  { r with
    launches := r.launches.filter (· != launch), ctxs := r.ctxs.filter (fun e => e.2.launch != launch),
    wa := r.wa.filter (fun e => !gone.contains e.2.owner), areas := r.areas.filter (fun a => a.launch != launch) }

/-- The window slots of a record that belong to one launch. -/
def SaveRec.slotsOf (r : SaveRec) (launch : Nat) : List Nat :=
  (r.wa.filter (fun (e : Nat × WaSlot) =>
    (r.ctxs.filter (fun (x : Nat × Ctx) => x.2.launch == launch)).any (fun x => x.1 == e.2.owner))).map (·.1)

/-- Ends the tasks of a launch saved on core `c`: its window slots and its save area are released (R465). -/
def State.dropSaved (s : State) (c launch : Nat) (how : TaskEnd) : State :=
  let mine := s.saves.filter (fun r => r.core == c && r.launches.contains launch)
  let slots := mine.flatMap (fun r => r.slotsOf launch)
  let tasks := mine.flatMap (fun r => (r.ctxs.filter (fun (e : Nat × Ctx) => e.2.launch == launch && e.2.phase != .odd)).map (·.2))
  let s :=
    { s with saves := (s.saves.map (fun (r : SaveRec) => if r.core = c then r.without launch else r)).filter (fun r => !r.launches.isEmpty) }
  let s := s.updCore c (fun h => { h with wa := h.wa.filter (fun e => !slots.contains e.1) })
  tasks.foldl (fun s t => s.endSaved c how t) s

/-! ### Pre-emption (R463) -/

/-- Whether a task of core `c` is at an instruction boundary with no result outstanding but that of the registered wait it is parked
in (R215, R463). -/
def State.savable (s : State) (c : Nat) (t : Ctx) : Bool :=
  match t.phase, t.wait with
  | .free, _ => true
  | .odd, _ => true
  | .leaving, _ => false
  | _, .answer id =>
    match (s.core c).registered id with
    | some r => t.var.all r.waitRegs.contains
    | none => false
  | _, _ => t.var.isEmpty

/-- The hires that the save waits for: those of the core's masters that run or land, those that land in the scratchpad, and those
whose launch is not saved with it and which still read operands there (R307, R318, R463; assumption log 119). -/
def State.hireBusy (s : State) (c : Nat) : Bool :=
  let live := (s.core c).launchesLive
  s.hires.any (fun h =>
    (h.core == c && (h.state == 0x04 || h.state == 0x05 || (!h.pushed && !live.contains h.launch))) ||
      (h.state == 0x05 && h.segments.any (fun x => touches c x.1 x.2)))

/-- Whether a decode job has a frame in progress on core `c`'s scratchpad (R438). -/
def DecJob.inHand (j : DecJob) (c : Nat) : Bool :=
  (j.step == .stream && (j.coresOf j.frame).contains c) || j.outs.any (fun o => (j.coresOf o.frame).contains c)

/-- What must be over before core `c` saves its scratchpad (R390, R438, R463). -/
def State.saveBusy (s : State) (c : Nat) : Bool :=
  s.cores.any (fun e => e.2.copies.any (fun k => k.2.queue.any (fun o => o.state < 0x10 && o.touches c))) ||
    s.bdeTouches c || s.hireBusy c ||
    s.videos.any (fun e => e.2.queue.any (fun j => j.state == 0x02 && j.inHand c)) ||
    s.bdes.any (fun e => e.2.rings.any (fun r => r.2.busy && r.2.touches c))

/-- Whether core `c` may save now. -/
def State.saveReady (s : State) (c : Nat) : Bool :=
  (s.core c).chosen.isNone && (s.core c).ctxs.all (fun e => s.savable c e.2) && !s.saveBusy c

/-- Gives back the registers and the pc of a wait that is abandoned and whose instruction issues again (R245, R463). -/
def Ctx.abandon (t : Ctx) (back : Bool) : Ctx :=
  { t with wait := .none, waitFrom := none, phase := .running, pc := if back then t.pc - 4 else t.pc }

/-- The context of a task as a pre-emption saves it (R463): waits at issue are abandoned, parked tasks keep their registrations, a
claim asked for again is saved as it was, and so is a window of R213 (assumption log 131). -/
def State.savedCtx (s : State) (c k : Nat) (t : Ctx) : Ctx :=
  let t := t.settle
  let t :=
    if t.reclaim then
      match (s.poolQueue (c / 8)).find? (fun r => r.core == c && r.ctx == k && r.uid == t.uid) with
      | some r => { t with claim := r.saved, reclaim := false }
      | none => t
    else t
  match t.wait with
  | .gate .. => t.abandon false
  | .alone => t.abandon false
  | .stall => t.abandon false
  | .settle => { t with wait := .none, waitFrom := none }
  | .cond => if t.phase = .parked then t else t.abandon false
  | .pool _ => t.abandon true
  | .message _ =>
    if s.msgs.any (fun f => f.uid == t.uid && f.mig.isSome) then t.abandon false else t
  | _ => t

/-- Takes back what a saved task had sent for a wait that it abandons. -/
def State.takeBack (s : State) (c k : Nat) (t : Ctx) : State :=
  let s := s.leavePool c k t.uid
  { s with msgs := s.msgs.filter (fun f => !(f.uid == t.uid && f.mig.isSome)) }

/-- Freezes the hires of the saved launches on a core that have not started; the answer to a read of operands on its way will be
dropped (R318). -/
def State.freeze (s : State) (c : Nat) (launches : List Nat) : State :=
  { s with hires := s.hires.map (fun h =>
      if h.core = c ∧ h.state < 0x04 ∧ h.frozen.isNone ∧ launches.contains h.launch then
        { h with frozen := some h.state, state := 0x06, pushed := false, opsA := [], opsB := [], nextLine := 0, bad := false,
                 ask := h.ask.map (fun r => { r with n := 0 }) }
      else h) }

/-- Saves core `c` (R463 steps 2 to 5). -/
def State.saveCore (s : State) (c : Nat) : State :=
  let h := s.core c
  let n := blocks h.conf
  let held := h.ctxs.filter (fun e => e.2.phase != .free)
  let ctxs := held.map (fun e => (e.1, s.savedCtx c e.1 e.2))
  let s := held.foldl (fun s e => s.takeBack c e.1 e.2) (s.freeze c h.launchesLive)
  let (areas, s) := h.launchesLive.foldl (fun (p : List SaveArea × State) l =>
    let (a, s) := p.2.writeSlot c n l
    (p.1 ++ a.toList, s)) ([], s)
  let wa := h.wa.filter (fun e => !e.2.saved)
  let r : SaveRec :=
    { core := c, launches := h.launchesLive, savedAt := s.timeOf (dieOf c), conf := h.conf, kvring := h.kvring, ctxs := ctxs,
      wa := wa, spad := h.spad, spadPoison := h.spadPoison, areas := areas }
  let s := { s with saves := s.saves ++ [r] }
  let s := s.updCore c (fun h =>
    { h with ctxs := h.ctxs.map (fun e => (e.1, e.2.freed)), wa := h.wa.map (fun e => (e.1, { e.2 with saved := true })) })
  s.poolRun (c / 8)

/-- Sends the withdrawal of an `ldf` that a task of core `c` waits in, once (R245, R463). -/
def State.recall (s : State) (c k : Nat) : State :=
  let t := s.ctx c k
  if t.recalled || t.expired then s
  else
    match s.waitingLdf c t with
    | some r =>
      if s.deferred.contains r || r.isRemote then (s.sendWithdraw c r).updCtx c k (fun t => { t with recalled := true }) else s
    | none => s

/-- PREEMPTION (R462, R463): the deferred `ldf`s are withdrawn first. -/
def execPreemption (core : Nat) (s : State) : Out1 :=
  .next (if s.wantsCore core then
    if s.saveReady core then s.saveCore core else (s.core core).ctxs.keys.foldl (fun s k => s.recall core k) s
  else s)

/-! ### Resumption (R466, R467) -/

/-- The priority of a saved record: the highest of its launches. -/
def State.recPrio (s : State) (r : SaveRec) : Nat := r.launches.foldl (fun m l => max m (s.prio l)) 0

/-- The record that core `c` resumes first. -/
def State.bestRec (s : State) (c : Nat) : Option SaveRec :=
  (s.saves.filter (fun r => r.core == c)).foldl (fun (b : Option SaveRec) r =>
    match b with
    | none => some r
    | some x => if s.recPrio x < s.recPrio r then some r else b) none

/-- Whether an entry of a launch of higher priority is eligible on the core. -/
def State.higherWaits (s : State) (c : Nat) (r : SaveRec) : Bool :=
  let h := s.core c
  h.runq.any (fun f =>
    s.recPrio r < s.prio f.launch && !s.isSaved c f.launch && (s.matchesK c f || !h.live) && s.meetsTpc c f &&
      (h.place f).isSome)

/-- Every task of a record is lost (R466): its launches' entries become eligible again, and a report is posted. -/
def State.loseRec (s : State) (r : SaveRec) : State :=
  let s := r.launches.foldl (fun s l => (s.dropSaved r.core l .lost).unfreeze r.core l) s
  let job := match r.launches.head?.bind s.launch? with | some l => l.job | none => 0
  s.report 0x19 0 (r.core % 384) (dieOf r.core) [w64 job, w64 r.core]

/-- A saved context restored at a time and cycle; its claim is asked for again (R251, R466). -/
def Ctx.restored (t : Ctx) (away cycle : Nat) : Ctx :=
  { t with
    claim := none, reclaim := t.claim.isSome, readyAt := cycle, age := 0, promoted := false, yielded := none,
    waitFrom := t.waitFrom.map (· + away) }

/-- Restores a record on its core, whose configuration is in place (R466). -/
def State.restoreRec (s : State) (r : SaveRec) (text : Option (List Byte)) : State :=
  let c := r.core
  let away := s.timeOf (dieOf c) - r.savedAt
  let s := { s with saves := s.saves.filter (fun x => x != r) }
  let s := s.updCore c (fun h =>
    let h := match r.conf with | some k => h.reconfigure k text | none => h
    { h with
      spad := r.spad, spadPoison := r.spadPoison, kvring := r.kvring,
      wa := h.wa.filter (fun e => (r.wa.find? e.1).isNone) ++ r.wa,
      ctxs := r.ctxs.foldl (fun m e => m.set e.1 (e.2.restored away s.cycle)) h.ctxs })
  let s := r.launches.foldl (fun s l => s.unfreeze c l) s
  let uids := r.ctxs.map (fun e => e.2.uid)
  let s :=
    { s with arrays := s.arrays.map (fun e =>
        (e.1, { e.2 with chains := e.2.chains.map (fun ch =>
                          if uids.contains ch.uid then { ch with lastEnd := ch.lastEnd + away } else ch) })) }
  r.ctxs.reverse.foldl (fun s e =>
    match e.2.claim with
    | some cl => s.askClaim c e.1 e.2.uid cl true
    | none => s) s

/-- Resumes a record: its slots are checked, the core is reconfigured, and its tasks are restored. A growing scratchpad
first has the L1's write-backs acknowledged (R129). -/
def State.resumeRec (s : State) (r : SaveRec) : State :=
  let c := r.core
  let h := s.core c
  let n := blocks r.conf
  let text := match r.conf with | some k => if needsText h.conf k then s.overlay k.image k.ovl else none | none => none
  let needs := match r.conf with | some k => needsText h.conf k | none => false
  if !r.areas.all (s.slotIntact n) || (needs && text.isNone) then s.loseRec r
  else if blocks h.conf < n then
    let s := s.writeBackAll c (fun l => l.way < n)
    if (s.core c).out.any (·.write) then s else s.restoreRec r text
  else s.restoreRec r text

/-- LAUNCH_RESUME (R466, R467): once no task lives on the core and no entry of higher priority is eligible. -/
def execLaunchResume (core : Nat) (s : State) : Out1 :=
  .next (match s.bestRec core with
  | none => s
  | some r =>
    if (s.core core).live || (s.core core).chosen.isSome || s.spadBusy core || s.higherWaits core r then s
    else s.resumeRec r)

/-! ### Discard (R318, R454) -/

/-- Frozen hires of a core's launch end PREEMPTED, and the chains of its saved masters are aborted. -/
def State.discardHires (s : State) (c launch : Nat) (uids : List Nat) : State :=
  let s := (s.hires.filter (fun h => h.core == c && h.launch == launch && h.frozen.isSome)).foldl
    (fun s h => s.finishHire h.hid 0x22) s
  { s with arrays := s.arrays.map (fun e => (e.1, { e.2 with chains := e.2.chains.filter (fun ch => !uids.contains ch.uid) })) }

/-- Drops the run-queue and overflow entries of a discarded launch on a core. -/
def State.discardEntries (s : State) (c launch : Nat) : State :=
  let h := s.core c
  let mine := (h.runq ++ h.ovf).filter (fun f => f.launch == launch)
  let s := mine.foldl (fun s f => s.endEntry c f .ended) s
  (s.updCore c (fun h =>
    { h with runq := h.runq.filter (fun f => f.launch != launch), ovf := h.ovf.filter (fun f => f.launch != launch) })).refill c

/-- Discards a launch saved on core `c` (R454). -/
def State.discardOn (s : State) (launch c : Nat) : State :=
  let uids := (s.saves.filter (fun r => r.core == c)).flatMap (fun r =>
    (r.ctxs.filter (fun e => e.2.launch == launch)).map (fun e => e.2.uid))
  let s := s.dropSaved c launch .killed
  (s.discardHires c launch uids).discardEntries c launch

/-! ### CANCEL_ARRIVE (R146, R147, R465) -/

/-- Whether a task that a cancel finds is killed at once: it is parked, or waits in a wait of R146. -/
def State.killedAtOnce (s : State) (c : Nat) (t : Ctx) : Bool :=
  t.phase == .parked || t.phase == .faulted || (s.waitingLdf c t).isSome ||
    (match t.wait with | .gate .. => true | .cond => true | .alone => true | _ => false)

/-- A cancel meets the task of a context. -/
def State.cancelTask (s : State) (c k : Nat) : State :=
  let t := s.ctx c k
  if s.killedAtOnce c t then
    let s := { s with msgs := s.msgs.filter (fun f => !(f.mig.isSome && f.uid == t.uid)) }
    s.killTask c k
  else s.setCtx c k { t with killed := true }

/-- The cancel of a launch arrives at a core. -/
def State.cancelAt (s : State) (c launch : Nat) : State :=
  let h := s.core c
  let s := s.updCore c (fun h => { h with cancels := NatSet.add h.cancels launch })
  let s := ((h.runq ++ h.ovf).filter (fun f => f.launch == launch)).foldl (fun s f => s.dropEntry c f) s
  let s := s.updCore c (fun h =>
    { h with runq := h.runq.filter (fun f => f.launch != launch), ovf := h.ovf.filter (fun f => f.launch != launch) })
  let s := s.refill c
  let s :=
    match h.chosen with
    | some f =>
      if f.launch = launch ∧ f.counted then
        (s.dropEntry c f).updCore c (fun h => { h with chosen := some { f with counted := false } })
      else s
    | none => s
  let s := (s.dropSaved c launch .killed).unfreeze c launch
  ((h.ctxs.filter (fun (e : Nat × Ctx) => e.2.phase != .free && e.2.phase != .odd && e.2.phase != .leaving && e.2.launch == launch)).map (·.1)).foldl
    (fun s k => s.cancelTask c k) s

/-- CANCEL_ARRIVE (R146). -/
def execCancelArrive (core launch : Nat) (s : State) : Out1 :=
  .next (match s.launch? launch with
  | none => s
  | some l =>
    if l.cancelled && l.started && l.status.isNone && bitOf l.mask core && !NatSet.has (s.core core).cancels launch then
      s.cancelAt core launch
    else s)

/-! ### The watchdog (R461) -/

/-- The instruction that a waiting task waits in: at its pc, or before it where the pc has moved on. -/
def Ctx.waitPc (t : Ctx) : BitVec 16 :=
  match t.wait with
  | .word .. => t.pc - 4
  | .answer _ => t.pc - 4
  | .message _ => t.pc - 4
  | .pool _ => t.pc - 4
  | _ => t.pc

/-- Whether the task waits in `lwait`, which is never counted. -/
def State.inLwait (s : State) (c : Nat) (t : Ctx) : Bool :=
  match decodeWord (s.wordAt c t).toNat with
  | .ok (.lwait ..) => true
  | _ => false

/-- Whether a task's wait is one of those that the watchdog counts. -/
def State.counted (s : State) (c : Nat) (t : Ctx) : Bool :=
  match t.wait with
  | .word .. => true
  | .pool _ => true
  | .message _ => !s.msgs.any (fun f => f.uid == t.uid && f.mig.isSome)
  | .answer id => ((s.core c).registered id).isSome || (s.waitingLdf c t).isSome
  | .cond => !s.inLwait c t
  | .alone => true
  | _ => false

/-- The µs that a task has waited. -/
def State.waited (s : State) (c : Nat) (t : Ctx) : Nat :=
  match t.waitFrom with
  | some w => (s.timeOf (dieOf c) - w) / 1000
  | none => 0

/-- The watchdog's trap of a waiting task, which gives its wait up: EPC names the waiting instruction. -/
def State.watchdogTrap (s : State) (c k : Nat) : State :=
  let us := min 0xFFFF (s.waited c (s.ctx c k))
  let s := (s.unwait c k).updCtx c k (fun t => { t with pc := t.waitPc, phase := .running, wait := .none, expired := false })
  let t := s.ctx c k
  s.trapAt c k 0x30 us 0 t.pc.toNat (s.wordAt c t).toNat

/-- WATCHDOG (R461): a deferred `ldf` is withdrawn first, and the trap follows the answer (R245). -/
def execWatchdog (core ctx : Nat) (s : State) : Out1 :=
  let t := s.ctx core ctx
  let lim := s.regBits (pWdctl (dieOf core)) 31 0
  .next (if lim = 0 ∨ t.phase = .free ∨ t.phase = .odd ∨ t.phase = .faulted ∨ t.expired ∨ !s.counted core t ∨
      t.waitFrom = none ∨ s.timeOf (dieOf core) ≤ t.waitFrom.getD 0 + lim * 1000 then s
  else
    match s.waitingLdf core t with
    | some r => (s.sendWithdraw core r).setCtx core ctx { (s.sendWithdraw core r).ctx core ctx with expired := true }
    | none => s.watchdogTrap core ctx)

end Sys2Proof.Machine
end

