-- ==== Sys2Proof/Machine/Errors.lean ====
section
/-!
DEFINITION. Sys2Proof/Machine/Errors.lean: fault records on their way to their queues (R448 to R451), corrected and
uncorrectable errors (R458 to R460, R468).
-/
namespace Sys2Proof.Machine

/-! ### Fault records (R450, R451) -/

/-- Sets FQSTAT.OVF. -/
def State.setOvf (s : State) (a : Nat) : State := s.setReg (fqBase a + 0x28) (w64 (2 ^ 16))

/-- The first fault record on its way to an address space's queue is written there, or held at its core while the queue is
full or off or an earlier record of the space is held (R451). -/
def State.faultArrive (s : State) (a : Nat) : State :=
  match s.faults.find? (fun f => f.asid == a) with
  | none => s
  | some f =>
    let s := { s with faults := s.faults.erase f }
    if s.queueFull (fqBase a) || s.heldFaults.any (fun g => g.asid == a) then
      ({ s with heldFaults := s.heldFaults ++ [f] } : State).setOvf a
    else s.writeRecord (fqBase a) f.words

/-- FAULT_RECORD_WRITE (R451). -/
def execFaultRecordWrite (asid : Nat) (s : State) : Out1 := if asid < 64 then .next (s.faultArrive asid) else .fault .noSuchUnit

/-- The record held at core `c` that is the first held of its address space and for which there is room (R451). -/
def State.heldReady (s : State) (c : Nat) : Option FaultRec :=
  s.heldFaults.find? (fun f =>
    f.core == c && !s.queueFull (fqBase f.asid) && s.heldFaults.find? (fun g => g.asid == f.asid) == some f)

/-- HELD_RECORD_WRITE (R451). -/
def execHeldRecordWrite (core : Nat) (s : State) : Out1 :=
  if core < 1536 then
    .next (match s.heldReady core with
      | none => s
      | some f => ({ s with heldFaults := s.heldFaults.erase f } : State).writeRecord (fqBase f.asid) f.words)
  else .fault .noSuchUnit

/-! ### Corrected errors (R458, R468, R492) -/

/-- Whether a unit of a die exists (R485). -/
def unitExists (d u : Nat) : Bool :=
  d < 4 && (u < 804 || (808 ≤ u && u < 823) || (824 ≤ u && u < (if d < 2 then 829 else 828)) || (832 ≤ u && u < 884)) &&
    !(d != 0 && (u == 834 || u == 835))

def State.unitErrs (s : State) (d u : Nat) : UnitErrs := s.errs.get {} (d * 1024 + u)
def State.setErrs (s : State) (d u : Nat) (e : UnitErrs) : State := { s with errs := s.errs.set (d * 1024 + u) e }

/-- Whether sixteen earlier corrections fall within the last second. -/
def UnitErrs.tooMany (e : UnitErrs) (now : Nat) : Bool :=
  match e.times[15]? with
  | some t => now < t + 1000000000
  | none => false
/-- Whether 1 ms has passed since the last report. -/
def UnitErrs.due (e : UnitErrs) (now : Nat) : Bool :=
  match e.reported with
  | some t => t + 1000000 ≤ now
  | none => true

/-- A unit corrects an error: no architectural state changes. Errors within 1 ms are folded into one report; a 17th
within 1 s raises a service request. -/
def State.corrected (s : State) (d u : Nat) : State :=
  let now := s.timeOf d
  let e := s.unitErrs d u
  let e := { e with pending := e.pending + 1 }
  let many := e.tooMany now
  let e := { e with times := (now :: e.times).take 16 }
  let s := if u < 384 then s.updCore (d * 384 + u) (fun h => { h with corr := h.corr + 1 }) else s
  let s :=
    if e.due now then
      let (code, s) := s.freeWord
      (s.setErrs d u { e with pending := 0, reported := some now }).reportOf 0x10 (unitType u) u d e.pending
        [code, w64 e.pending]
    else s.setErrs d u e
  if many then
    let (why, s) := s.freeWord
    s.serviceRequest d (unitType u) u why
  else s

/-- CORRECTED_ERROR (R458). Which structure of the unit it was (`index`) changes nothing. -/
def execCorrectedError (die unit index : Nat) (s : State) : Out1 :=
  if unitExists die unit then .next ((fun (_ : Nat) => s.corrected die unit) index) else .fault .noSuchUnit

/-! ### Uncorrectable errors (R458, R460, R468) -/

/-- Poisons `n` addresses. -/
def addPoison (p : NatSet) (a n : Nat) : NatSet := (natsFrom a n).foldl NatSet.add p

/-- The report of a data error (KIND 0x11) or a control error (KIND 0x12); a control error is also a service request. -/
def State.dataError (s : State) (d u at_ : Nat) : State :=
  let (code, s) := s.freeWord
  s.report 0x11 (unitType u) u d [code, w64 at_]
def State.controlError (s : State) (d u op : Nat) : State :=
  let (code, s) := s.freeWord
  let (why, s) := s.freeWord
  (s.report 0x12 (unitType u) u d [code, w64 op]).serviceRequest d (unitType u) u why

/-- Poisons the valid bytes of a line of L1(c) from an offset. -/
def L1Line.poison (l : L1Line) (off n : Nat) : L1Line :=
  { l with bytes := l.bytes.map (fun e => if off ≤ e.1 ∧ e.1 < off + n then (e.1, { e.2 with bad := true }) else e) }

/-- Poisons bytes of a line of an RDC portion. -/
def State.poisonRdc (s : State) (portion line off n : Nat) : State :=
  let ls := s.rdc.get [] portion
  match ls[line]? with
  | none => s
  | some x =>
    let b := (natsFrom 0 128).map (fun i =>
      let y := nth (⟨0, false⟩, 0) x.bytes i
      if off ≤ i ∧ i < off + n then ({ y.1 with bad := true }, y.2) else y)
    { s with rdc := s.rdc.set portion (setNth ls line { x with bytes := b }) }

/-- A copy at a place of a channel's queue ends with an error: a running one once its writes are acknowledged, another at once (R455,
R460). -/
def State.copyError (s : State) (c ch i : Nat) : State :=
  match (s.copyChan c ch).queue[i]? with
  | none => s
  | some o =>
    let o := o.fault 0 dPoison (o.start 0)
    let s :=
      if i = 0 ∧ o.state = 0x02 then s.updCopy c ch (·.setHead o)
      else
        let o := { o with state := 0x20 }
        let s := s.updCopy c ch (fun k => { k with queue := dropNth k.queue i, recent := (o.done :: k.recent).take 16 })
        if bitOf o.flag 12 then s.sendContinuation (o.continuation c ch) else s
    s.controlError (dieOf c) (c % 384) ch

/-- An uncorrectable error of core `c`. `detail` says where: 0 a scratchpad word, 1 an instruction word, 2 an L1 data word,
3 a task context, 4 an L1 tag, 5 an operation of a copy channel (`index` mod 4), at a place of its queue, 6 an entry of the run
queue. -/
def State.coreError (s : State) (c index detail : Nat) : State :=
  let d := dieOf c
  let u := c % 384
  match detail with
  | 0 =>
    if 8 * index < 0x48000 then
      (s.updCore c (fun h => { h with spadPoison := addPoison h.spadPoison (8 * index) 8 })).dataError d u index
    else s
  | 1 =>
    if index < 16384 then
      (s.updCore c (fun h => { h with istorePoison := NatSet.add h.istorePoison index })).dataError d u index
    else s
  | 2 =>
    match (s.core c).l1[index / 16]? with
    | some l => (s.updCore c (·.putL1 (l.poison (index % 16 * 8) 8))).dataError d u index
    | none => s
  | 3 =>
    if (s.ctx c index).phase = .free ∨ (s.ctx c index).phase = .odd then s
    else (s.updCtx c index (fun t => { t with poisoned := true })).controlError d u (taskId c index)
  | 4 =>
    match (s.core c).l1[index]? with
    | some l => (s.updCore c (·.putL1 (l.poison 0 128))).controlError d u index
    | none => s
  | 5 => s.copyError c (index % 4) (index / 4)
  | _ =>
    match (s.core c).runq[index]? with
    | some f =>
      (((s.updCore c (fun h => { h with runq := dropNth h.runq index })).loseEntry c f).refill c).controlError d u index
    | none => s

/-- An uncorrectable error of slice `i`: 0 a 32-byte word of L2, 1 a word of its RDC portion (line, then word), 2 an L2 tag,
3 an RDC tag, 4 an entry of its deferral buffer. -/
def State.sliceError (s : State) (i index detail : Nat) : State :=
  let d := dieOf i
  let u := 384 + i % 384
  let hbm := fun (a n : Nat) => if inHbm a n && homeCore a == i then
    ({ s with poison := addPoison s.poison a n } : State) else s
  match detail with
  | 0 => if inHbm (32 * index) 32 && homeCore (32 * index) == i then (hbm (32 * index) 32).dataError d u (32 * index) else s
  | 1 => if index / 4 < (s.rdc.get [] i).length then (s.poisonRdc i (index / 4) (index % 4 * 32) 32).dataError d u index else s
  | 2 =>
    if inHbm (128 * index) 128 && homeCore (128 * index) == i then (hbm (128 * index) 128).controlError d u (128 * index) else s
  | 3 => if index < (s.rdc.get [] i).length then (s.poisonRdc i index 0 128).controlError d u index else s
  | _ =>
    match (s.deferred.filter (fun r => r.home == .slice i))[index]? with
    | some r =>
      let s := { s with deferred := s.deferred.filter (fun x => x.id != r.id) }
      (s.respond { req := r, ok := false }).controlError d u index
    | none => s

/-- An uncorrectable error of an array. `detail` says where: 0 the control state of a hire, those in its queue first and then those
that have started, which bounces; 1 a word of a hire's operands, 2 of a resident tile, 3 of an accumulator bank, which bounces
the hire that meets it (R455, R458, R460; assumption log 117). -/
def State.arrayError (s : State) (a index detail : Nat) : State :=
  let x := s.array a
  let d := a / 36
  let u := 768 + a % 36
  let hid := (x.queue ++ x.started)[index]?
  match detail with
  | 0 =>
    match hid with
    | some i =>
      (if x.hasStarted i then s.updHire i (fun h => { h with bad := true }) else s.bounce i 0x04 0).controlError d u index
    | none => s
  | 1 =>
    match hid with
    | some i => (s.updHire i (fun h => { h with bad := true })).dataError d u index
    | none => s
  | 2 =>
    match x.tiles.find? index with
    | some t => (s.updArray a (fun x => { x with tiles := x.tiles.set index { t with bad := true } })).dataError d u index
    | none => s
  | _ =>
    match x.chains[index]? with
    | some c => (s.updArray a (fun x => { x with chains := setNth x.chains index { c with bad := true } })).dataError d u index
    | none => s

/-- An operation at a place of a BDE channel's queue ends with an error: a running one once its writes are acknowledged, another at
once (R455, R460). -/
def State.bdeOpError (s : State) (b ch i : Nat) : State :=
  match (s.bdeChan b ch).queue[i]? with
  | none => s
  | some o =>
    if i = 0 ∧ o.state = 0x02 then (if o.kind = .coll then s.stopColl b ch o 0 dPoison 0 else s.setBdeOp b ch { (o.fault 0 dPoison 0) with todo := [] })
    else
      let o := o.fault 0 dPoison 0
      let o := { o with state := o.stopped.getD 0x20 }
      s.updBdeChan b ch (fun k => { k with queue := dropNth k.queue i, recent := (o.done :: k.recent).take 16 })

/-- An uncorrectable error of a base-die engine. `detail` says where: 0 an operation of a channel (`index` mod 16), at a place of its
queue, 1 a ring subscription, 2 a landing zone, whose collective ends (R399, R455, R460). -/
def State.bdeError (s : State) (b index detail : Nat) : State :=
  let there := s.bde b
  let fails :=
    match detail with
    | 0 => (((s.bdeChan b (index % 16)).queue[index / 16]?).map (fun _ => s.bdeOpError b (index % 16) (index / 16)))
    | 1 => ((there.rings.find? index).filter (fun (r : Ring) => r.ending.isNone)).map (fun r =>
        s.ringEnd b index r (ringStatus 0x20 dPoison 0))
    | _ => (there.zones.find? index).bind (fun z =>
        (s.bdeHead z.unit z.chan).map (fun o => s.stopColl z.unit z.chan o 0 dPoison 0))
  match fails with
  | some s => s.controlError (b / 2) (816 + b % 2) index
  | none => s

/-- An uncorrectable error of a decoder: the job at a place of its queue ends, a running one once its writes are acknowledged, another at
once (R455, R460). -/
def State.videoError (s : State) (v i : Nat) : State :=
  match (s.video v).queue[i]? with
  | none => s
  | some j =>
    let s :=
      if i = 0 ∧ j.state = 0x02 then s.setJob v { j with ending := some 0x21, detail := dPoison }
      else
        let j := { j with state := 0x21, detail := dPoison }
        s.updVideo v (fun u => { u with queue := dropNth u.queue i, recent := (j.done :: u.recent).take 16 })
    s.controlError (v / 8) (808 + v % 8) j.seq

/-- UNCORRECTABLE_ERROR (R458, R460) of a unit of a die. -/
def execUncorrectableError (die unit index detail : Nat) (s : State) : Out1 :=
  if unitExists die unit then
    .next (match unitType unit with
      | 0 => s.coreError (die * 384 + unit) index detail
      | 1 => s.sliceError (die * 384 + unit - 384) index detail
      | 2 => s.arrayError (die * 36 + unit - 768) index detail
      | 3 => s.videoError (die * 8 + unit - 808) index
      | 4 => s.bdeError (die * 2 + unit - 816) index detail
      | 5 =>
        if inHbm (32 * index) 32 && stackOf (32 * index) == 2 * die + (unit - 818) then
          ({ s with poison := addPoison s.poison (32 * index) 32 } : State).dataError die unit (32 * index)
        else s
      | _ => s.controlError die unit index)
  else .fault .noSuchUnit

end Sys2Proof.Machine
end

