-- ==== Sys2Proof/Machine/Hire.lean ====
section
/-!
DEFINITION. Sys2Proof/Machine/Hire.lean: `hire` and the HIREX instructions (R321 to R328).
-/
namespace Sys2Proof.Machine
open Sys2Proof.Fp

/-! ### The checks of R322 -/

/-- A hire of the task at issue with its captured registers, before any check; `dup` is the duplication map. -/
def State.draftHire (s : State) (isBind : Bool) (abase bbase tag : Nat) (idx dup : List Nat) : Hire :=
  let t := s.cur
  let hg := (natsFrom 0 8).map (fun i => t.hg.get 0 i)
  { hid := s.nextId, core := s.curCore, ctx := s.curCtx, uid := t.uid, launch := t.launch, asid := t.asid, job := t.job,
    ovl := (s.here.conf.map (·.ovl)).getD 0, slot := 0, isBind := isBind, arr := bitsOf (nth 0 hg 0).toNat 63 56, hg := hg,
    c4 := [t.c4ta0, t.c4ta1, t.c4tb0, t.c4tb1], abase := abase % 2 ^ 20, bbase := bbase % 2 ^ 20, tag := tag, idx := idx,
    dup := dup, land := normVa s.curCore (nth 0 hg 2).toNat }

/-- The maps' offsets and the count of the duplication map (R301). -/
def Hire.dmap (h : Hire) : Nat := h.g 5 39 20
def Hire.gidx (h : Hire) : Nat := h.g 5 19 0

/-- The n16 entry `i` at a scratchpad offset. -/
def HomeCore.half (h : HomeCore) (off i : Nat) : Nat := leNat (Memory.bytes h.spad (off + 2 * i) 2)

/-- Check 4 of R322. -/
def Hire.check4 (h : Hire) : Bool :=
  1 ≤ h.k && h.k % groupSize h.fa h.fb == 0 && (!(isMx h.fa || isMx h.fb) || h.k % 32 == 0) && (!isMx h.fa || !h.at) &&
    (!isMx h.fb || h.bt)

/-- Check 6 of R322. -/
def Hire.check6 (h : Hire) : Bool :=
  (h.chain == 0 || (h.arr != 0xFF && h.g 7 63 16 == 0)) &&
    (!h.res || (h.arr != 0xFF && !h.usesDup && h.tag != 0xFFFFFFFF)) && (!h.usesDup || !isMx h.fb) &&
    (!h.gath || (!h.at && 1 ≤ h.g 5 51 40))

/-- The stride rules of check 8 for a tile of lines of `elems` elements. -/
def strideOk (elems f stride : Nat) : Bool := elems * fmtBits f % 8 == 0 && stride % 4 == 0 && lineBytes elems f ≤ stride

/-- Check 8 of R322. -/
def Hire.check8 (h : Hire) : Bool :=
  let lb := landBytes h.lf
  let b := h.bTile
  strideOk h.aElems h.fa h.astr && (h.res || strideOk b.elems h.fb h.bstr) && (nth 0 h.hg 2).toNat % lb == 0 &&
    h.lstr % lb == 0 && h.n * lb ≤ h.lstr && (h.lmode != 2 || h.bar % 128 == 0)

/-- The number of the first check of R322 that fails. -/
def Hire.shape (h : Hire) : Option Nat :=
  if !(h.g 0 55 55 == 0 && h.g 0 45 44 ≤ 1 && h.lmode ≤ 2 && h.cls ≤ 2 && h.g 4 18 17 ≤ 2 && h.g 4 31 21 == 0 &&
      h.g 5 63 52 == 0) then some 1
  else if !(h.arr ≤ 35 || h.arr == 0xFF) then some 2
  else if !(hirePair h.fa h.fb && fmtLanding h.lf) then some 3
  else if !h.check4 then some 4
  else if h.sparse && !(!h.at && (h.fa == 9 || (1 ≤ h.fa && h.fa ≤ 5)) && h.k % 4 == 0) then some 5
  else if !h.check6 then some 6
  else if h.hen && h.g 4 15 0 % 4 != 0 then some 7
  else if !h.check8 then some 8
  else none

/-- The checks of `bind` (R326), limited to what it reads. -/
def Hire.bindShape (h : Hire) : Option Nat :=
  let b := h.bTile
  if !(h.g 0 55 55 == 0 && h.cls ≤ 2 && h.g 4 18 17 ≤ 2 && h.g 4 31 21 == 0) then some 1
  else if !(h.arr ≤ 35) then some 2
  else if !fmtHireOperand h.fb then some 3
  else if !(1 ≤ h.k && (!isMx h.fb || (h.k % 32 == 0 && h.bt))) then some 4
  else if h.usesDup || h.tag == 0xFFFFFFFF then some 6
  else if h.hen && h.g 4 15 0 % 4 != 0 then some 7
  else if !strideOk b.elems h.fb h.bstr then some 8
  else if 131072 < b.size then some 0
  else none

/-- A tile's or map's place: the window, the alignment, the extent (R322). -/
def State.tileTrap (s : State) (va : W64) (align extent : Nat) : Option Res :=
  match placeOf va.toNat with
  | .own off =>
    if va.toNat % align ≠ 0 then some (.trap 0x04 0 va)
    else if s.here.spsize < off + extent then some (.trap 0x14 0 va)
    else none
  | _ => some (.trap 0x11 0 va)

/-- The window address of a scratchpad offset. -/
def spVa (off : Nat) : W64 := w64 (0xFFFFFFFFFFF00000 + off)

/-- The extents of the A and B tiles (R299). -/
def Hire.aExtent (h : Hire) : Nat := h.aLines * (h.astr + h.aScale + h.aMeta)
def BTile.extent (b : BTile) : Nat := b.lines * (b.stride + b.scale)

/-- Strictly increasing, each below a limit. -/
def risingBelow (lim : Nat) : List Nat → Bool
  | [] => true
  | [x] => x < lim
  | x :: y :: l => x < y && x < lim && risingBelow lim (y :: l)

/-- The first of several causes. -/
def firstRes : List (Option Res) → Option Res
  | [] => none
  | some r :: _ => some r
  | none :: l => firstRes l

/-- A slot that a new hire or bind may take. -/
def Ctx.takeSlot (t : Ctx) : Option Nat := (natsFrom 0 8).find? t.slotFree

/-- Takes a slot for a checked hire: the mark of the slot's previous hire is cleared, the continuation is counted, and
the request is on its way to its array (R306, R316, R322). Without a slot the task parks, with what the hire has captured. -/
def State.issueHire (s : State) (h : Hire) (rd : Nat) : Res :=
  match s.cur.takeSlot with
  | none => .hold ((s.waitCond true).updCur (fun t => { t with hiring := some h }))
  | some slot =>
    let prev := (s.cur.hires.find? slot).map (·.hid)
    let s := match prev with | some hid => s.clearMark hid | none => s
    let (hid, s) := s.fresh
    let enabled := (natsFrom 0 36).filter (fun a => !s.arrayOff (arrayId s.die a))
    let (arr, s) :=
      if h.arr = 0xFF then
        match enabled with
        | [] => (0xFF, s)
        | _ => let (n, s) := s.freeChoice; (nth 0xFF enabled (n % enabled.length), s)
      else (h.arr, s)
    let h := { h with hid := hid, slot := slot, arr := arr }
    let s := { s with hires := s.hires ++ [h] }
    let s := s.updArray h.arrayId (fun a => { a with arrivals := a.arrivals ++ [hid] })
    let s := if h.hen then s.countUp h.launch else s
    let s := s.updCur (fun t => { t with hires := t.hires.set slot ⟨hid, none⟩ })
    .done s (nowX rd (w64 (s.curCtx * 8 + slot))) none

/-- `hire` (R321, R322). -/
def execHire (st : Fin 8) (rd rs1 rs2 : Fin 32) (s : State) : Out1 :=
  s.issueWith { st := st, reads := [.x rs1, .x rs2], writes := [.x rd], kill := true, bound := true } fun s =>
    match s.cur.hiring with
    | some h => s.issueHire h rd
    | none =>
    let a := s.cur.readX rs1
    let b := s.cur.readX rs2
    let h0 := s.draftHire false a.toNat b.toNat (b.toNat % 2 ^ 32) [] []
    let d := if h0.usesDup then s.here.half h0.dmap 0 else 0
    let dup := (natsFrom 1 d).map (s.here.half h0.dmap)
    let idx := if h0.gath then (natsFrom 0 h0.m).map (s.here.half h0.gidx) else []
    let h := { h0 with dup := dup, idx := idx }
    match h.shape with
    | some n => .trap 0x18 n 0
    | none =>
      match firstRes
        [s.tileTrap a 4 h.aExtent, if h.res then none else s.tileTrap b 4 h.bTile.extent,
          if h.gath then s.tileTrap (spVa h.gidx) 2 (2 * h.m) else none,
          if h.usesDup then s.tileTrap (spVa h.dmap) 2 (2 + 2 * d) else none] with
      | some r => r
      | none =>
        if h.gath && poisonedIn s.here.spadPoison h.gidx (2 * h.m) then .trap 0x13 0 (spVa h.gidx)
        else if h.usesDup && poisonedIn s.here.spadPoison h.dmap (2 + 2 * d) then .trap 0x13 0 (spVa h.dmap)
        else if !(idx.all (fun i => i < h.g 5 51 40)) || 4095 < d || !risingBelow h.k0 dup || h.k ≤ d then .trap 0x18 0 0
        else s.issueHire h rd

/-- `bind` (R326). -/
def execBind (st : Fin 8) (rd rs1 rs2 : Fin 32) (s : State) : Out1 :=
  s.issueWith { st := st, reads := [.x rs1, .x rs2], writes := [.x rd], kill := true, bound := true } fun s =>
    match s.cur.hiring with
    | some h => s.issueHire h rd
    | none =>
    let b := s.cur.readX rs1
    let h := s.draftHire true 0 b.toNat ((s.cur.readX rs2).toNat % 2 ^ 32) [] []
    match h.bindShape with
    | some n => .trap 0x18 n 0
    | none =>
      match s.tileTrap b 4 h.bTile.extent with
      | some r => r
      | none => s.issueHire h rd

/-! ### Geometry registers (R324) -/

/-- `hgw` (R324). -/
def execHgw (st : Fin 8) (rs1 : Fin 32) (hg : Fin 8) (s : State) : Out1 :=
  s.issueWith { st := st, reads := [.x rs1] } fun s =>
    .done (s.updCur (fun t => { t with hg := t.hg.set hg (t.readX rs1) })) [] none

/-- `hgr` (R324). -/
def execHgr (st : Fin 8) (rd : Fin 32) (hg : Fin 8) (s : State) : Out1 :=
  s.issueWith { st := st, writes := [.x rd] } fun s => .done s (nowX rd (s.cur.hg.get 0 hg)) none

/-! ### Waiting and reading (R325) -/

/-- Whether a status word's STATE is final (R304). -/
def finalWord (w : W64) : Bool := 0x10 ≤ w.toNat % 256

/-- The effects of reading a slot's status: a final one clears its mark, and DONE acquires at package scope (R325). -/
def State.readSlot (s : State) (slot rd : Nat) : Res :=
  let w := s.slotStatus s.cur slot
  let s :=
    if finalWord w then
      match s.cur.hires.find? slot with
      | some e => s.clearMark e.hid
      | none => s
    else s
  .done (if w.toNat % 256 = 0x10 then s.acquire s.curCore .package else s) (nowX rd w) none

/-- Whether a ticket names a slot of the issuer (R325). -/
def State.ticketOk (s : State) (t : W64) : Bool := t.toNat < 128 && t.toNat / 8 == s.curCtx

/-- `hwait` (R325). -/
def execHwait (st : Fin 8) (rd rs1 : Fin 32) (e : Fin 2) (s : State) : Out1 :=
  s.issueWith { st := st, reads := [.x rs1], writes := [.x rd], kill := true } fun s =>
    let t := s.cur.readX rs1
    if !s.ticketOk t then .trap 0x11 0 t
    else
      let slot := t.toNat % 8
      if s.cur.slotFree slot || (e == 1 && bitOf (s.slotStatus s.cur slot).toNat 17) then s.readSlot slot rd
      else .hold (s.waitCond true)

/-- `hstat` (R325). -/
def execHstat (st : Fin 8) (rd rs1 : Fin 32) (s : State) : Out1 :=
  s.issueWith { st := st, reads := [.x rs1], writes := [.x rd] } fun s =>
    let t := s.cur.readX rs1
    if !s.ticketOk t then .trap 0x11 0 t else s.readSlot (t.toNat % 8) rd

/-! ### Resident tiles and bursts (R327, R328) -/

/-- `unbind` (R327): on its way to the array, behind the master's earlier hires and binds there. -/
def execUnbind (st : Fin 8) (rd rs1 rs2 : Fin 32) (s : State) : Out1 :=
  s.issueWith { st := st, reads := [.x rs1, .x rs2], writes := [.x rd] } fun s =>
    let a := s.cur.readX rs1
    if 35 < a.toNat then .trap 0x11 0 a
    else
      let id := arrayId s.die a.toNat
      let before := (s.hires.filter (fun h => h.uid == s.cur.uid && h.arrayId == id && h.arr != 0xFF)).map (·.hid)
      let u : Unbind :=
        { core := s.curCore, ctx := s.curCtx, uid := s.cur.uid, reg := .x s.cur.bank rd, asid := s.cur.asid,
          tag := (s.cur.readX rs2).toNat % 2 ^ 32, before := before }
      .done (s.updArray id (fun x => { x with unbinds := x.unbinds ++ [u] })) [.later (.x rd)] none

/-- `burst` (R328). -/
def execBurst (st : Fin 8) (rs1 rs2 : Fin 32) (s : State) : Out1 :=
  s.issueWith { st := st, reads := [.x rs1, .x rs2] } fun s =>
    let a := s.cur.readX rs1
    if 35 < a.toNat then .trap 0x11 0 a
    else
      .done (s.updArray (arrayId s.die a.toNat) (fun x =>
        { x with bursts := x.bursts ++ [(s.curCore, (s.cur.readX rs2).toNat % 2 ^ 20)] })) [] none

end Sys2Proof.Machine
end

