-- ==== Sys2Proof/Machine/Respond.lean ====
section
/-!
DEFINITION. Sys2Proof/Machine/Respond.lean: the Respond step (R154): what an answer does at the core, the engine, the slice,
the host or the other module that sent the request (R156 to R160, R166, R169, R229 to R245, R459).
-/
namespace Sys2Proof.Machine

/-! ### The task that an answer is for -/

/-- What an answer leaves of a task: its context goes on in the state `f` gives it; an answer to a task that is no more is
discarded. A task whose launch is saved takes its answer where it is saved (R215, R463). -/
def State.withTask (s : State) (c k uid : Nat) (f : State → State) : State :=
  let live := s.ctx c k
  if live.uid = uid ∧ live.phase ≠ .free ∧ live.phase ≠ .leaving then f s
  else
    match findIdx (fun (r : SaveRec) => r.core == c && (r.ctxs.get {} k).uid == uid && (r.ctxs.find? k).isSome) s.saves with
    | none => s
    | some i =>
      match s.saves[i]? with
      | none => s
      | some r =>
        let s := f (s.setCtx c k (r.ctxs.get {} k))
        let t := s.ctx c k
        let s := { s with saves := setNth s.saves i { r with ctxs := r.ctxs.set k t } }
        s.setCtx c k live

/-- The task no longer waits for the answer to a request. -/
def Ctx.answered (t : Ctx) (id : Nat) : Ctx :=
  if t.wait = .answer id then
    { t with wait := if t.phase = .parked then .settle else .none, waitFrom := none, phase := .running }
  else t

/-- A register result of an answer, and the end of the wait for it. -/
def Ctx.take1 (t : Ctx) (id : Nat) (reg : Reg) (v : W64) : Ctx := (t.answerReg reg (.word v)).answered id

/-- A trap that an answer raises, at the instruction that sent the request: its results stay as they were (R102, R459). What the task
waits for in a later instruction is given up; a trap of an earlier request comes first (assumption log 79). -/
def State.answerTrap (s : State) (r : Req) (c cause info : Nat) (fb : W64) (regs : List Reg) : State :=
  let insn := (s.wordAt c { s.ctx c r.ctx with pc := BitVec.ofNat 16 r.epc }).toNat
  let s := s.updCtx c r.ctx (fun t => { t with var := t.var.filter (fun x => !regs.contains x) })
  match (s.ctx c r.ctx).phase, (s.ctx c r.ctx).wait with
  | .faulted, _ => s
  | _, .trap (some id) .. =>
    if id < r.id then s
    else (s.updCtx c r.ctx (fun t => { t with pc := BitVec.ofNat 16 r.epc })).raise c r.ctx (some r.id) cause info fb r.epc insn
  | _, _ =>
    ((s.unwait c r.ctx).updCtx c r.ctx (fun t => { t with pc := BitVec.ofNat 16 r.epc, wait := .none, waitFrom := none })).raise c
      r.ctx (some r.id) cause info fb r.epc insn

/-- The acquire that an answer brings (R166). -/
def State.acquireFor (s : State) (c : Nat) (sc : Option Scope) : State :=
  match sc with
  | some sc => s.acquire c sc
  | none => s

/-! ### The RDC (R21, R157, R158, R160, R169) -/

/-- What a copy holds where a value of a later position comes: that value (R158). -/
def newerOf (pos : Nat) (old : PByte × Nat) (b : PByte) : PByte × Nat := if old.2 ≤ pos then (b, pos) else old

/-- Puts a copy into a portion: in place of the one that it holds of the line, or as one more of its set of 8 ways, which a full
set makes room for (R21; assumption log 110). -/
def State.putRdc (s : State) (p n : Nat) (y : RdcLine) : State :=
  let rest := (s.rdc.get [] p).filter (fun z => !(z.home == y.home && z.line == y.line))
  let set := rest.filter (fun z => z.line % 256 == y.line % 256)
  let rest := if set.length < 8 then rest else rest.filter (fun z => some z != set[Config.victim n % set.length]?)
  { s with rdc := s.rdc.set p (y :: rest) }

/-- Fills the RDC portion that the request of a load has passed, or refreshes its copy with what is newer in the line that the
home has returned (R157, R158). -/
def State.fillRdc (s : State) (c : Nat) (x : Resp) : State :=
  match rdcPortion c x.req.home x.req.rdc with
  | none => s
  | some p =>
    if s.disabled (dieOf p) (384 + p % 384) || x.bytes.length != 128 then s
    else
      let old := match s.rdcLine p x.req.home x.req.addr with
        | some y => y.bytes
        | none => x.bytes.map (fun b => (b, x.pos))
      s.putRdc p x.req.id { home := x.req.home, line := x.req.addr / 128, bytes := List.zipWith (newerOf x.pos) old x.bytes }

/-- The acknowledgement of a write-through updates the copy of the portion that the store has passed where it is newer (R158,
R160, R169). -/
def State.ackRdc (s : State) (c : Nat) (x : Resp) : State :=
  match x.req.op, rdcPortion c x.req.home x.req.rdc with
  | .write _, some p =>
    match s.rdcLine p x.req.home x.req.addr with
    | none => s
    | some y =>
      let bytes := (natsFrom 0 128).map (fun i =>
        let old := nth (⟨0, false⟩, 0) y.bytes i
        match x.req.covers i with
        | some b => newerOf x.pos old b
        | none => old)
      s.putRdc p x.req.id { y with bytes := bytes }
  | _, _ => s

/-! ### L1(c) (R156, R158, R355) -/

/-- Whether a write of core `c` to a byte of a line at a home is not acknowledged. -/
def State.sending (s : State) (c : Nat) (h : Home) (pa off : Nat) : Bool := (s.writesTo c h pa).any (·.touches off)

/-- A byte of L1(c) once a write of the core to it is acknowledged at a position: it takes the value that it has there, unless
it is newer (R158). A read-modify-write names no value and leaves no older one (R162); a store that was refused has given its
location no value (R151). -/
def L1Byte.acked (b : L1Byte) (ok : Bool) (pos : Nat) (v : Option PByte) : Option L1Byte :=
  match b.pos, v with
  | none, _ => if ok then some { b with pos := some pos } else none
  | some q, some v => some (if ok && q < pos then { b with val := v.val, bad := v.bad, pos := some pos } else b)
  | some q, none => if q < pos then none else some b

/-- The acknowledgement of a write of core `c` gives the copies in its L1 their position (R158). -/
def State.ackL1 (s : State) (c : Nat) (x : Resp) : State :=
  let r := x.req
  match (s.core c).l1At r.asid r.va with
  | none => s
  | some l =>
    if l.pa / 128 != r.addr / 128 || s.homeOf l.pa != r.home then s
    else
      let bytes := l.bytes.filterMap (fun e =>
        if r.touches e.1 && !e.2.dirty && !s.sending c r.home r.addr e.1 then (e.2.acked x.ok x.pos (r.covers e.1)).map (fun b => (e.1, b))
        else some e)
      s.updCore c (fun h => { h with l1 := h.l1.map (fun m => if m.isFor r.asid r.va then { m with bytes := bytes } else m) })

/-- The tasks whose writes a request carries, or that have been returned its bytes, with the locations. -/
def Out.ackedTasks (o : Out) : List (Nat × Nat) :=
  let base := o.req.addr / 128 * 128
  (if o.own then (natsFrom o.req.addr o.req.size).map (fun a => (o.req.uid, a)) else []) ++
    o.writers.flatMap (fun e => e.2.map (fun u => (u, base + e.1)))

/-- A task of core `c`, found by its instance, has seen a position of a location. -/
def State.taskSaw (s : State) (c pos : Nat) (e : Nat × Nat) : State :=
  let one := fun (m : Map Ctx) => m.map (fun (x : Nat × Ctx) => if x.2.uid == e.1 then (x.1, x.2.saw e.2 pos) else x)
  let s := s.updCore c (fun h => { h with ctxs := one h.ctxs })
  { s with saves := s.saves.map (fun r => if r.core == c then { r with ctxs := one r.ctxs } else r) }

/-- The acknowledgement of a write of core `c`: the copies that may take it (R158, R160), and the tasks that later loads of it
are held to. -/
def State.ackWrite (s : State) (c : Nat) (o : Out) (x : Resp) : State :=
  if !x.req.op.writes then s
  else
    let s := (if x.ok then s.ackRdc c x else s).ackL1 c x
    if x.ok && offDie c x.req.home then o.ackedTasks.foldl (fun s e => s.taskSaw c x.pos e) s else s

/-- Puts the bytes of a response into a line, clean, where the line holds no dirty byte and none that is newer (R156, R158). -/
def L1Line.fill (l : L1Line) (off : Nat) : List (PByte × Nat) → L1Line
  | [] => l
  | (b, p) :: bs =>
    let kept : Bool := match l.bytes.find? off with
      | some x => x.dirty || (match x.pos with | some q => decide (p < q) | none => true)
      | none => false
    let l' := if kept then l else { l with bytes := l.bytes.set off { val := b.val, dirty := false, bad := b.bad, pos := some p } }
    L1Line.fill l' (off + 1) bs

/-- The bytes of a response, each with its position. -/
def Resp.positioned (x : Resp) : List (PByte × Nat) :=
  if x.poss.isEmpty then x.bytes.map (fun b => (b, x.pos)) else x.bytes.zip x.poss

/-- Fills L1(c) (R156) with the line that a load has brought, its translation accepted (R355). -/
def State.fillL1 (s : State) (c : Nat) (x : Resp) : State :=
  match x.req.tr with
  | none => s
  | some tr =>
    let (l, s) := s.lineFor c x.req.asid x.req.va tr x.req.scope
    s.updCore c (·.putL1 (l.fill 0 x.positioned))

/-- The byte of a line that a load returns, with its position (R156, R158): the L1's where it is dirty or on its way, else the
newest of the copies. -/
def State.loadByte (s : State) (c : Nat) (x : Resp) (i : Nat) : PByte × Option Nat :=
  let r := x.req
  let own := nth (⟨0, true⟩, 0) x.positioned i
  let copy := match (match rdcPortion c r.home r.rdc with | some p => s.rdcLine p r.home r.addr | none => none) with
    | some y => let z := nth own y.bytes i; if own.2 < z.2 then z else own
    | none => own
  match ((s.core c).l1At r.asid r.va).bind (fun l => l.bytes.find? i) with
  | some b =>
    match b.pos with
    | none => (⟨b.val, b.bad⟩, none)
    | some q => if copy.2 < q then (⟨b.val, b.bad⟩, some q) else (copy.1, some copy.2)
  | none => (copy.1, some copy.2)

/-- The bytes that a load returns, with their positions. -/
def State.loadBytes (s : State) (c : Nat) (x : Resp) (n : Nat) : List (PByte × Option Nat) :=
  (natsFrom (x.req.va % 128) n).map (s.loadByte c x)

/-- Whether a load would return a value older than one that the task has seen (R158). -/
def Ctx.outdated (t : Ctx) (pa : Nat) (b : List (PByte × Option Nat)) : Bool :=
  (natsFrom 0 b.length).any (fun i => match (nth (⟨0, true⟩, none) b i).2 with
    | some p => decide (p < t.seenAt (pa + i))
    | none => false)

/-- A load that could only return an older value goes to the home itself (R158). -/
def State.resend (s : State) (c : Nat) (o : Out) : State :=
  let r := { o.req with scope := Scope.package }
  s.updCore c (fun h => { h with oq := h.oq ++ [r], out := h.out ++ [{ o with req := r }] })

/-! ### Respond at a core -/

/-- Whether a value read is that of DLHARV with BUSY = 0, whose read is an acquire at package scope (R367). -/
def Req.harvestDone (r : Req) (v : W64) : Bool :=
  match r.home, devRegAt (r.addr / 8 * 8) with
  | .device _, .dlharv _ => !v.getLsbD 1
  | _, _ => false

/-- The value of a load reaches its register, or the load traps with poison (R106, R459). -/
def State.loadValue (s : State) (c : Nat) (x : Resp) (reg : Reg) (b : List PByte) (n : Nat) (signed : Bool) : State :=
  let r := x.req
  if PByte.anyBad b then s.answerTrap r c 0x13 0 (w64 r.va) [reg]
  else
    let v := extend signed n (leNat (PByte.vals b))
    let s := s.updCtx c r.ctx (·.take1 r.id reg v)
    s.acquireFor c (if r.harvestDone v then some .package else r.acq)

/-- The answer to a load that fills no line (R197). -/
def State.finishLoad (s : State) (c : Nat) (x : Resp) (reg : Reg) (b : List PByte) (n : Nat) (signed : Bool) : State :=
  s.withTask c x.req.ctx x.req.uid (fun s => s.loadValue c x reg b n signed)

/-- The result of a read-modify-write, of a barrier operation or of a hardware-queue or zone request. -/
def State.finishValue (s : State) (c : Nat) (x : Resp) (reg : Reg) (n : Nat) (signed : Bool) : State :=
  let r := x.req
  s.withTask c r.ctx r.uid (fun s =>
    if x.poison then s.answerTrap r c 0x13 0 (w64 r.va) [reg]
    else (s.updCtx c r.ctx (·.take1 r.id reg (extend signed n x.val.toNat))).acquireFor c r.acq)

/-- The result of `ldf` or `stf`, with STATUS.FUT (R243, R244). A watchdog that waited for it traps now (R245, R461); an `ldf` that a
pre-emption has withdrawn is issued again (R463). -/
def State.finishFuture (s : State) (c : Nat) (x : Resp) (reg : Reg) : State :=
  let r := x.req
  s.withTask c r.ctx r.uid (fun s =>
    if x.poison then s.answerTrap r c 0x13 0 (w64 r.va) [reg, .fut]
    else
      let t := s.ctx c r.ctx
      let t' := (t.answerReg reg (.word x.val)).setFut x.ok
      let t' := { t' with var := t'.var.filter (· != Reg.fut) }
      if t.expired then (s.setCtx c r.ctx { t' with wait := t.wait }).watchdogTrap c r.ctx
      else if t.recalled ∧ t.wait = .answer r.id then
        let u := { t'.answered r.id with pc := if x.ok then t.pc else BitVec.ofNat 16 r.epc, recalled := false }
        (s.setCtx c r.ctx u).acquireFor c (if x.ok then r.acq else none)
      else (s.setCtx c r.ctx (t'.answered r.id)).acquireFor c (if x.ok then r.acq else none))

/-- The cause that a refused answer of the hub raises (R345, R346). -/
def HomeOp.hubRefusal : HomeOp → Bool
  | .improve .. => true
  | .rdinc .. => true
  | _ => false

/-- The result of `waita`, `barw`, `improve`, `rdinc` and the like. A registration that its task has given up has none (R215). -/
def State.finishAnswer (s : State) (c : Nat) (x : Resp) (reg : Reg) : State :=
  let r := x.req
  s.withTask c r.ctx r.uid (fun s =>
    if r.registers ∧ (s.ctx c r.ctx).wait ≠ .answer r.id then s
    else if x.poison then s.answerTrap r c 0x13 0 (w64 r.va) [reg]
    else if !x.ok ∧ r.op.hubRefusal then s.answerTrap r c 0x11 0 x.val [reg]
    else (s.updCtx c r.ctx (·.take1 r.id reg x.val)).acquireFor c (x.scope.or r.acq))

/-- The result of `join` or `leave`, with the group records (R229). -/
def State.finishGroup (s : State) (c : Nat) (x : Resp) (reg : Reg) (addr : Nat) (up : Bool) : State :=
  let r := x.req
  s.withTask c r.ctx r.uid (fun s =>
    if x.poison then s.answerTrap r c 0x13 0 (w64 r.va) [reg]
    else
      s.updCtx c r.ctx (fun t =>
        let t := t.take1 r.id reg x.val
        let groups := if up then (if x.val = 0 then t.groups ++ [addr] else t.groups) else t.groups.filter (· != addr)
        { t with groups := groups }))

/-- What a load whose line has arrived returns (R156 to R158): its copies are filled or refreshed first. -/
def State.lineLoad (s : State) (c : Nat) (o : Out) (x : Resp) (reg : Reg) (n : Nat) (signed : Bool) : State :=
  let r := x.req
  let pa := r.addr / 128 * 128 + r.va % 128
  let s := if x.poss.isEmpty then s.fillRdc c x else s
  let b := s.loadBytes c x n
  let s := s.fillL1 c x
  s.withTask c r.ctx r.uid (fun s =>
    if offDie c r.home && (s.ctx c r.ctx).outdated pa b then s.resend c o
    else
      let seen := if offDie c r.home then
        (natsFrom 0 n).filterMap (fun i => (nth (⟨0, true⟩, none) b i).2.map (fun p => (pa + i, p))) else []
      let s := (s.returned c r.uid r.asid r.va n).updCtx c r.ctx (·.sawAll seen)
      s.loadValue c x reg (b.map (·.1)) n signed)

/-- An answer reaches core `c`. -/
def State.coreRespond (s : State) (c : Nat) (x : Resp) : State :=
  let r := x.req
  let o := ((s.core c).out.find? (fun o => o.req.id == r.id)).getD { req := r, write := false, own := true }
  let s := s.updCore c (fun h => { h with out := h.out.filter (fun o => o.req.id != r.id) })
  let s := s.ackWrite c o x
  match r.dest with
  | .ack => s
  | .load reg n signed =>
    if x.ok then s.lineLoad c o x reg n signed else s.finishLoad c x reg (x.bytes.drop (r.va % 128)) n signed
  | .direct reg n signed => s.finishLoad c x reg x.bytes n signed
  | .value reg n signed => s.finishValue c x reg n signed
  | .future reg => s.finishFuture c x reg
  | .answer reg => s.finishAnswer c x reg
  | .group reg addr up => s.finishGroup c x reg addr up
  | .left => s.leftGroup r.id

/-! ### Respond at the other agents -/

/-- An engine's request is acknowledged: what a read has brought is kept until the engine uses it, and so are an element that was
skipped and an arrival that was refused (R172, R231, R314). -/
def State.engineAck (s : State) (x : Resp) : State :=
  let id := x.req.id
  let bad : Bool := !x.ok && (match x.req.op with | .landAcc .. => true | .arrive => true | _ => false)
  { s with
    engOut := NatSet.del s.engOut id, engBad := if bad then NatSet.add s.engBad id else s.engBad,
    engIn := match x.req.op with | .read => s.engIn.set id x.bytes | _ => s.engIn }

/-- What the host port hands to the host (R470, R471). -/
def State.hostRespond (s : State) (x : Resp) : State :=
  let out := match x.req.op with | .read => HostOut.data x.req.id x.bytes | _ => HostOut.done x.req.id
  { s with hostOut := s.hostOut ++ [out] }

/-- The head of a response channel is delivered. -/
def State.deliverTo (s : State) (a : Agent) (x : Resp) : State :=
  match a with
  | .core c => s.coreRespond c x
  | .copyCh c ch => (s.engineAck x).copyAck c ch
  | .slice i =>
    match x.req.op with
    | .adjust _ join => (s.engineAck x).adjusted i join x.ok
    | _ => s.engineAck x
  | .hostMem => s.hostRespond x
  | .hostIo => s.hostRespond x
  | .fabricIn m _ => if (s.session m).failed || (s.session m).epoch != x.req.uid then s else s.sendPacket m x.req (some x)
  | _ => s.engineAck x

/-- Removes the head of a response channel; an empty channel is not listed. -/
def popResp : List RChan → Home → Agent → List RChan
  | [], _, _ => []
  | c :: cs, h, a =>
    if c.home = h ∧ c.agent = a then
      match c.resps.drop 1 with
      | [] => cs
      | rest => { c with resps := rest } :: cs
    else c :: popResp cs h a

/-- The answers on a response channel. -/
def State.rchan (s : State) (h : Home) (a : Agent) : List Resp :=
  match s.rchans.find? (fun c => c.home == h && c.agent == a) with
  | some c => c.resps
  | none => []

/-- Whether an answer may be delivered now: one that goes to another module waits for room in its session (R478). -/
def State.mayRespond (s : State) (a : Agent) : Bool :=
  match a with
  | .fabricIn m _ => (s.session m).room || (s.session m).failed
  | _ => true

/-- RESPOND (R154). -/
def State.respondHead (s : State) (h : Home) (a : Agent) : State :=
  match s.rchan h a with
  | [] => s
  | x :: _ => if s.mayRespond a then ({ s with rchans := popResp s.rchans h a } : State).deliverTo a x else s

def execRespond (home : Home) (agent : Agent) (s : State) : Out1 := .next (s.respondHead home agent)

end Sys2Proof.Machine
end

