-- ==== Sys2Proof/Machine/HostPort.lean ====
section
/-!
DEFINITION. Sys2Proof/Machine/HostPort.lean: the CXL host port (R469 to R472) and the SPDM responder (R490). What the module
hands to the host stands in the state's list `hostOut` (assumption log 13).
-/
namespace Sys2Proof.Machine

def State.toHost (s : State) (o : HostOut) : State := { s with hostOut := s.hostOut ++ [o] }

/-- A request of one of the host port's agents (R181, R470). -/
def State.hostSend (s : State) (a : Agent) (home : Home) (op : HomeOp) (addr size : Nat) : State :=
  let (id, s) := s.fresh
  let r : Req := { id := id, agent := a, home := home, op := op, addr := addr, size := size, scope := .package }
  { s with chans := addReq s.chans a home r }

/-! ### CXL.mem (R469, R471, R486) -/

/-- Whether an access lies in HBM and in one line. -/
def oneLine (pa n : Nat) : Bool := inHbm pa n && n != 0 && pa / 128 == (pa + n - 1) / 128

/-- CXL_MEM_READ: before the module is in service it returns poisoned data. -/
def execCxlMemRead (pa size : Nat) (s : State) : Out1 :=
  .next (if !oneLine pa size then s.toHost .unsupported
  else if !s.boot.ready then
    let (id, s) := s.fresh
    s.toHost (.data id (List.replicate size ⟨0, true⟩))
  else s.hostSend .hostMem (s.homeOf pa) .read pa size)

/-- CXL_MEM_WRITE: before the module is in service it is dropped. -/
def execCxlMemWrite (pa : Nat) (data : List Byte) (s : State) : Out1 :=
  .next (if !oneLine pa data.length then s.toHost .unsupported
  else if !s.boot.ready then
    let (id, s) := s.fresh
    s.toHost (.done id)
  else s.hostSend .hostMem (s.homeOf pa) (.write (PByte.clean data)) pa data.length)

/-! ### CXL.io (R470, R486, R489) -/

/-- Whether a register responds before the module is in service: BOOTST, and in recovery FWCTL and the staging range. -/
def State.earlyReg (s : State) (pa : Nat) : Bool :=
  match devRegAt (pa / 8 * 8) with
  | .bootst => true
  | .fwctl => s.boot.stage == 5
  | .rw _ => s.boot.stage == 5 && devDie pa == 0 && 0x01000000 ≤ devOff pa && devOff pa < 0x02000000
  | _ => false

/-- CXL_IO_ACCESS: a BAR0 access of one naturally aligned value. -/
def execCxlIoAccess (pa size : Nat) (write : Bool) (data : List Byte) (s : State) : Out1 :=
  let n := if write then data.length else size
  .next (if pa < 2 ^ 39 || 2 ^ 40 ≤ pa || inFabric pa || inHostAp pa || !([1, 2, 4, 8].contains n) || pa % n != 0 then
    s.toHost .unsupported
  else if !s.boot.ready then
    let (id, s) := s.fresh
    if write then
      (if s.earlyReg pa then s.devStore pa data else s).toHost (.done id)
    else if s.earlyReg pa then
      let (b, s) := s.devLoad pa n
      s.toHost (.data id (PByte.clean b))
    else s.toHost (.data id (List.replicate n ⟨0, false⟩))
  else s.hostSend .hostIo (s.homeOf pa) (if write then .write (PByte.clean data) else .read) pa n)

/-! ### The host aperture (R472) -/

/-- What the host's completion of a request answers: the bytes read, or the old value of a read-modify-write. -/
def Req.hostAnswer (r : Req) (data : List Byte) : Resp :=
  let b := (data ++ List.replicate r.size 0).take r.size
  match r.op with
  | .read => { req := r, bytes := PByte.clean b, base := r.addr }
  | _ => { req := r, val := w64 (leNat b) }

/-- HOST_APERTURE_COMPLETION. -/
def execHostApertureCompletion (id : Nat) (data : List Byte) (s : State) : Out1 :=
  .next (match s.hostReqs.find? (fun r => r.id == id) with
  | none => s
  | some r => ({ s with hostReqs := s.hostReqs.filter (fun x => x.id != id) } : State).respond (r.hostAnswer data))

/-! ### The link (R469) -/

/-- SNOOP: the device caches no host line. -/
def execSnoop (addr : W64) (s : State) : Out1 := .next (s.toHost (.rspIHitI addr))

/-- CXL_LINK_TRAINING: to ×16, ×8 or ×4, at 128, 64 or 32 GT/s. -/
def execCxlLinkTraining (width rate : Nat) (s : State) : Out1 :=
  .next (if [16, 8, 4].contains width && [128, 64, 32].contains rate then { s with cxlWidth := width, cxlRate := rate } else s)

/-! ### SPDM (R490) -/

/-- The measurements, as one record: the five digests in index order. -/
def State.measurements (s : State) : List Byte :=
  let image := s.flash.get (Config.flashImage s.boot.slot) s.boot.slot
  let minSvn := s.boot.minSvn.getD Config.fusedMinSvn
  let masks := (natsFrom 0 4).flatMap (fun d => (natsFrom 0 16).flatMap (fun j => leBytes (s.reg (pDismask d j)).toNat 8))
  [Config.bootRom, image, leBytes s.boot.svn 4 ++ leBytes minSvn 4, masks, Config.fusedConfig].flatMap Config.sha384

/-- One exchange with the responder: a request out of its order, or one whose contents it does not accept, is answered and
changes nothing but the record of messages. -/
def State.spdmExchange (s : State) (code : Nat) (req extra : List Byte) (allowed : Bool) (upd : SpdmState → SpdmState) : Out1 :=
  let reply := Config.spdmReply code req s.spdm.log ++ extra
  let ok := allowed && Config.spdmAccepts code req s.spdm.log
  let x := if ok then upd s.spdm else s.spdm
  let s := { s with spdm := { x with log := x.log ++ [req, reply] } }
  .next (s.toHost (.doe reply))

/-- SPDM_VERSION: begins the negotiation again. -/
def execSpdmVersion (req : List Byte) (s : State) : Out1 := s.spdmExchange 0x84 req [] true (fun _ => { version := true })
/-- SPDM_CAPABILITIES. -/
def execSpdmCapabilities (req : List Byte) (s : State) : Out1 :=
  s.spdmExchange 0xE1 req [] s.spdm.version (fun x => { x with caps := true })
/-- SPDM_ALGORITHMS. -/
def execSpdmAlgorithms (req : List Byte) (s : State) : Out1 :=
  s.spdmExchange 0xE3 req [] s.spdm.caps (fun x => { x with algs := true })
/-- SPDM_DIGESTS. -/
def execSpdmDigests (req : List Byte) (s : State) : Out1 := s.spdmExchange 0x81 req [] s.spdm.algs (fun x => x)
/-- SPDM_CERTIFICATE. -/
def execSpdmCertificate (req : List Byte) (s : State) : Out1 := s.spdmExchange 0x82 req [] s.spdm.algs (fun x => x)
/-- CHALLENGE. -/
def execChallenge (req : List Byte) (s : State) : Out1 := s.spdmExchange 0x83 req [] s.spdm.algs (fun x => x)
/-- SPDM_MEASUREMENTS: the digests as they stand at the request. -/
def execSpdmMeasurements (req : List Byte) (s : State) : Out1 :=
  s.spdmExchange 0xE0 req (if s.spdm.algs then s.measurements else []) s.spdm.algs (fun x => x)
/-- KEY_EXCHANGE. -/
def execKeyExchange (req : List Byte) (s : State) : Out1 :=
  s.spdmExchange 0xE4 req [] s.spdm.algs (fun x => { x with keyed := true })
/-- FINISH: the secure session begins. -/
def execFinish (req : List Byte) (s : State) : Out1 :=
  s.spdmExchange 0xE5 req [] s.spdm.keyed (fun x => { x with secure := true })
/-- KEY_UPDATE. -/
def execKeyUpdate (req : List Byte) (s : State) : Out1 :=
  s.spdmExchange 0xE9 req [] s.spdm.secure (fun x => { x with epoch := x.epoch + 1 })
/-- END_SESSION. -/
def execEndSession (req : List Byte) (s : State) : Out1 :=
  s.spdmExchange 0xEC req [] s.spdm.secure (fun x => { x with keyed := false, secure := false, epoch := 0 })

/-- IDE_KEY_PROGRAMMING: only within a secure session. -/
def execIdeKeyProgramming (stream : Nat) (key : List Byte) (s : State) : Out1 :=
  .next (if s.spdm.secure then { s with ideKeys := s.ideKeys.set stream key } else s)

end Sys2Proof.Machine
end

