-- ==== Sys2Proof/Machine/Illegal.lean ====
section
/-!
DEFINITION. Sys2Proof/Machine/Illegal.lean: the issue of a word that is no instruction (R95, R97, R105).
-/
namespace Sys2Proof.Machine

/-- The issue of a word with an unassigned OP, fn or subfield traps with illegal-encoding (R97). The word is what the
fault record shows (R449). -/
def execIllegalEncoding (word : W32) (s : State) : Out1 :=
  .next (s.trapAt s.curCore s.curCtx 0x01 0 0 s.cur.pc.toNat word.toNat)

/-- The issue of a word with a reserved field that is not zero traps with reserved-field (R95, R103). -/
def State.reservedWord (s : State) (word : W32) : State :=
  s.trapAt s.curCore s.curCtx 0x02 0 0 s.cur.pc.toNat word.toNat

end Sys2Proof.Machine
end

