-- ==== Sys2Proof/Machine/Imm.lean ====
section
/-!
DEFINITION. Sys2Proof/Machine/Imm.lean: the immediate, shift-immediate and BITS instructions (R185 to R187).
-/
namespace Sys2Proof.Machine

/-- `bext` of bits `lo + len1` to `lo` (R187). -/
def bextOf (a : W64) (lo len1 : Nat) : W64 := w64 (a.toNat / 2 ^ lo % 2 ^ (len1 + 1))

/-- `bins`: `d` with bits `lo + len1` to `lo` replaced by the low bits of `a` (R187). -/
def binsOf (d a : W64) (lo len1 : Nat) : W64 := putBits d (lo + len1) lo (a.toNat % 2 ^ (len1 + 1))

/-- `bext` (R187). -/
def execBext (st : Fin 8) (rd rs1 : Fin 32) (lo len1 : Fin 64) (s : State) : Out1 := rr st rd rs1 (fun a => bextOf a lo len1) s

/-- `bins` (R187); it reads rd as well as rs1. -/
def execBins (st : Fin 8) (rd rs1 : Fin 32) (lo len1 : Fin 64) (s : State) : Out1 :=
  s.issueWith { st := st, reads := [.x rd, .x rs1], writes := [.x rd] } fun s =>
    .done s (fixedX rd (binsOf (s.cur.readX rd) (s.cur.readX rs1) lo len1) 1) none

/-- `addi` (R185). -/
def execAddi (st : Fin 8) (rd rs1 : Fin 32) (imm : BitVec 13) (s : State) : Out1 := rr st rd rs1 (fun a => a + imm13 imm) s

/-- `andi` (R185). -/
def execAndi (st : Fin 8) (rd rs1 : Fin 32) (imm : BitVec 13) (s : State) : Out1 := rr st rd rs1 (fun a => a &&& imm13 imm) s

/-- `ori` (R185). -/
def execOri (st : Fin 8) (rd rs1 : Fin 32) (imm : BitVec 13) (s : State) : Out1 := rr st rd rs1 (fun a => a ||| imm13 imm) s

/-- `xori` (R185). -/
def execXori (st : Fin 8) (rd rs1 : Fin 32) (imm : BitVec 13) (s : State) : Out1 := rr st rd rs1 (fun a => a ^^^ imm13 imm) s

/-- `slli` (R186). -/
def execSlli (st : Fin 8) (rd rs1 : Fin 32) (sh : Fin 64) (s : State) : Out1 := rr st rd rs1 (fun a => a <<< sh.val) s

/-- `srli` (R186). -/
def execSrli (st : Fin 8) (rd rs1 : Fin 32) (sh : Fin 64) (s : State) : Out1 := rr st rd rs1 (fun a => a >>> sh.val) s

/-- `srai` (R186). -/
def execSrai (st : Fin 8) (rd rs1 : Fin 32) (sh : Fin 64) (s : State) : Out1 := rr st rd rs1 (fun a => a.sshiftRight sh.val) s

/-- `clti` (R185). -/
def execClti (st : Fin 8) (rd rs1 : Fin 32) (imm : BitVec 13) (s : State) : Out1 := rr st rd rs1 (fun a => if a.slt (imm13 imm) then 1 else 0) s

/-- `cltiu` (R185). -/
def execCltiu (st : Fin 8) (rd rs1 : Fin 32) (imm : BitVec 13) (s : State) : Out1 := rr st rd rs1 (fun a => if a.ult (imm13 imm) then 1 else 0) s

/-- `addi32` (R185). -/
def execAddi32 (st : Fin 8) (rd rs1 : Fin 32) (imm : BitVec 13) (s : State) : Out1 := rr st rd rs1 (fun a => ext32 (a + imm13 imm)) s

/-- `immhi` (R185). -/
def execImmhi (st : Fin 8) (rd : Fin 32) (imm : BitVec 18) (s : State) : Out1 :=
  s.issueWith { st := st, writes := [.x rd] } fun s => .done s (fixedX rd (imm18 imm <<< 13) 1) none

/-- `pcofs` (R185). -/
def execPcofs (st : Fin 8) (rd : Fin 32) (imm : BitVec 18) (s : State) : Out1 :=
  s.issueWith { st := st, writes := [.x rd] } fun s => .done s (fixedX rd (w64 (target s.cur.pc (imm18 imm))) 1) none

end Sys2Proof.Machine
end

