-- ==== Sys2Proof/Machine/Lms.lean ====
section
/-!
DEFINITION. Sys2Proof/Machine/Lms.lean: the verification of firmware signatures (R487): LMS as RFC 8554 has it with the parameter sets
LMS_SHA256_M32_H20 and LMOTS_SHA256_N32_W8 (R15), over SHA-256 as FIPS 180-4 has it. What these two standards say is theirs, not the
spec's (assumption log 127).
-/
namespace Sys2Proof.Machine

/-! ### SHA-256 -/

/-- The constants of the 64 rounds. -/
def shaK : List W32 :=
  [0x428A2F98, 0x71374491, 0xB5C0FBCF, 0xE9B5DBA5, 0x3956C25B, 0x59F111F1, 0x923F82A4, 0xAB1C5ED5]
  ++ [0xD807AA98, 0x12835B01, 0x243185BE, 0x550C7DC3, 0x72BE5D74, 0x80DEB1FE, 0x9BDC06A7, 0xC19BF174]
  ++ [0xE49B69C1, 0xEFBE4786, 0x0FC19DC6, 0x240CA1CC, 0x2DE92C6F, 0x4A7484AA, 0x5CB0A9DC, 0x76F988DA]
  ++ [0x983E5152, 0xA831C66D, 0xB00327C8, 0xBF597FC7, 0xC6E00BF3, 0xD5A79147, 0x06CA6351, 0x14292967]
  ++ [0x27B70A85, 0x2E1B2138, 0x4D2C6DFC, 0x53380D13, 0x650A7354, 0x766A0ABB, 0x81C2C92E, 0x92722C85]
  ++ [0xA2BFE8A1, 0xA81A664B, 0xC24B8B70, 0xC76C51A3, 0xD192E819, 0xD6990624, 0xF40E3585, 0x106AA070]
  ++ [0x19A4C116, 0x1E376C08, 0x2748774C, 0x34B0BCB5, 0x391C0CB3, 0x4ED8AA4A, 0x5B9CCA4F, 0x682E6FF3]
  ++ [0x748F82EE, 0x78A5636F, 0x84C87814, 0x8CC70208, 0x90BEFFFA, 0xA4506CEB, 0xBEF9A3F7, 0xC67178F2]

/-- The hash value from which a message starts. -/
def shaStart : List W32 :=
  [0x6A09E667, 0xBB67AE85, 0x3C6EF372, 0xA54FF53A, 0x510E527F, 0x9B05688C, 0x1F83D9AB, 0x5BE0CD19]

/-- A number in big-endian bytes. -/
def beBytes (v n : Nat) : List Byte := (leBytes v n).reverse

/-- A message with its padding: 0x80, zeros up to 8 bytes before the end of a block, and its length in bits. -/
def shaPadded (m : List Byte) : List Byte :=
  m ++ 0x80#8 :: List.replicate ((119 - m.length % 64) % 64) 0 ++ beBytes (8 * m.length) 8

/-- The word that the message schedule adds to the 16 before it, oldest first. -/
def shaNext (w : List W32) : W32 :=
  let a := nth 0 w 1
  let b := nth 0 w 14
  (b.rotateRight 17 ^^^ b.rotateRight 19 ^^^ (b >>> 10)) + nth 0 w 9 + (a.rotateRight 7 ^^^ a.rotateRight 18 ^^^ (a >>> 3)) + nth 0 w 0

/-- The words of the schedule, from the 16 that are next. -/
def shaWords (w : List W32) : Nat → List W32
  | 0 => []
  | n + 1 => nth 0 w 0 :: shaWords (w.drop 1 ++ [shaNext w]) n

/-- One round on the eight working variables. -/
def shaRound (h : List W32) (kw : W32) : List W32 :=
  let a := nth 0 h 0
  let e := nth 0 h 4
  let choose := (e &&& nth 0 h 5) ^^^ (~~~e &&& nth 0 h 6)
  let most := (a &&& nth 0 h 1) ^^^ (a &&& nth 0 h 2) ^^^ (nth 0 h 1 &&& nth 0 h 2)
  let t := nth 0 h 7 + (e.rotateRight 6 ^^^ e.rotateRight 11 ^^^ e.rotateRight 25) + choose + kw
  let u := (a.rotateRight 2 ^^^ a.rotateRight 13 ^^^ a.rotateRight 22) + most
  [t + u, a, nth 0 h 1, nth 0 h 2, nth 0 h 3 + t, e, nth 0 h 5, nth 0 h 6]

/-- The hash value after a block of 64 bytes. -/
def shaBlock (h : List W32) (block : List Byte) : List W32 :=
  let w := (natsFrom 0 16).map (fun i => BitVec.ofNat 32 (leNat ((block.drop (4 * i)).take 4).reverse))
  List.zipWith (· + ·) h ((List.zipWith (· + ·) shaK (shaWords w 64)).foldl shaRound h)

/-- The hash value after the blocks of a padded message. -/
def shaBlocks (h : List W32) (m : List Byte) : Nat → List W32
  | 0 => h
  | n + 1 => shaBlocks (shaBlock h (m.take 64)) (m.drop 64) n

/-- SHA-256. -/
def sha256 (m : List Byte) : List Byte :=
  let p := shaPadded m
  (shaBlocks shaStart p (p.length / 64)).flatMap (fun w => beBytes w.toNat 4)

/-! ### LMOTS_SHA256_N32_W8 -/

/-- A hash over the key's identifier, a number, a two-byte code and data. -/
def lmsHash (key : List Byte) (q code : Nat) (data : List Byte) : List Byte := sha256 (key ++ beBytes q 4 ++ beBytes code 2 ++ data)

/-- A chain of hashes from step `j` on, `n` steps. -/
def otsChain (key : List Byte) (q i j : Nat) (y : List Byte) : Nat → List Byte
  | 0 => y
  | n + 1 => otsChain key q i (j + 1) (lmsHash key q i (BitVec.ofNat 8 j :: y)) n

/-- A digest with its checksum: the 34 digits of 8 bits that are signed. -/
def otsDigits (d : List Byte) : List Byte := d ++ beBytes (d.foldl (fun n b => n + (255 - b.toNat)) 0) 2

/-- The one-time public key that a signature of a message leads to. -/
def otsKey (key : List Byte) (q : Nat) (message sig : List Byte) : List Byte :=
  let digits := otsDigits (lmsHash key q 0x8181 ((sig.drop 4).take 32 ++ message))
  let ends := (natsFrom 0 34).flatMap (fun i =>
    let a := (nth 0 digits i).toNat
    otsChain key q i a ((sig.drop (36 + 32 * i)).take 32) (255 - a))
  lmsHash key q 0x8080 ends

/-! ### LMS_SHA256_M32_H20 -/

/-- The root of the tree that a node and its path lead to. -/
def lmsClimb (key : List Byte) (node : Nat) (value : List Byte) : List (List Byte) → List Byte
  | [] => value
  | side :: path =>
    let pair := if node % 2 = 1 then side ++ value else value ++ side
    lmsClimb key (node / 2) (lmsHash key (node / 2) 0x8383 pair) path

/-- The number that four big-endian bytes give. -/
def be32 (b : List Byte) (i : Nat) : Nat := leNat ((b.drop i).take 4).reverse

/-- The signature's LMOTS and LMS types: after a 4-byte leaf index stands the LMOTS signature of 1,124 bytes, then the LMS type. -/
def sigTypes (sig : List Byte) : Bool := be32 sig 4 == 4 && be32 sig 1128 == 8

/-- Whether a signature of 1,772 bytes verifies over a message under the public key with this identifier and root. -/
def lmsVerify (key root message sig : List Byte) : Bool :=
  let q := be32 sig 0
  let leaf := lmsHash key (2 ^ 20 + q) 0x8282 (otsKey key q message ((sig.drop 4).take 1124))
  let path := (natsFrom 0 20).map (fun i => (sig.drop (1132 + 32 * i)).take 32)
  sigTypes sig && q < 2 ^ 20 && lmsClimb key (2 ^ 20 + q) leaf path == root

end Sys2Proof.Machine
end

