-- ==== Sys2Proof/Machine/Manage.lean ====
section
/-!
DEFINITION. Sys2Proof/Machine/Manage.lean: boot and firmware (R486 to R489), the governor (R36, R491, R492), and the accesses
to device registers that the opcode table lists (R494, R495).
-/
namespace Sys2Proof.Machine

/-! ### Firmware images (R487) -/

/-- The first check of R487 that an image fails; 0 when it is accepted. -/
def fwCheck (img : List Byte) (minSvn : Nat) : Nat :=
  let w := fun (i : Nat) => leNat ((img.drop (8 * i)).take 8)
  let len := bitsOf (w 2) 31 0
  let signed := img.take (64 + len)
  let sig := (img.drop (64 + len)).take 1772
  if img.length < 64 ∨ bitsOf (w 0) 31 0 ≠ 0x4E4C4657 then 1
  else if len = 0 ∨ 2 ^ 24 < len ∨ img.length < 64 + len + 1772 then 2
  else if bitsOf (w 1) 31 0 < minSvn then 3
  else if !(natsFrom 0 4).all (fun i => w (3 + i) == Config.fusedDigest i) then 4
  else if lmsVerify Config.lmsKey Config.lmsRoot signed sig then 0
  else 5

/-- MINSVN as fused. -/
def BootState.minSvnNow (b : BootState) : Nat := b.minSvn.getD Config.fusedMinSvn

/-- The image in a flash slot. -/
def State.slotImage (s : State) (slot : Nat) : List Byte := s.flash.get (Config.flashImage slot) slot

/-- SVN of an image. -/
def svnOf (img : List Byte) : Nat := bitsOf (leNat ((img.drop 8).take 8)) 31 0

/-! ### Boot (R486, R488) -/

/-- Stages 3 to 5 of R486: slot A when it passes, else slot B, else recovery. -/
def State.bootUp (s : State) : BootState :=
  let errA := fwCheck (s.slotImage 0) s.boot.minSvnNow
  let errB := fwCheck (s.slotImage 1) s.boot.minSvnNow
  if errA = 0 then
    { ready := true, stage := 4, slot := 0, err := 0, svn := svnOf (s.slotImage 0), minSvn := s.boot.minSvn }
  else if errB = 0 then
    { ready := true, stage := 4, slot := 1, err := 0, svn := svnOf (s.slotImage 1), minSvn := s.boot.minSvn }
  else { stage := 5, err := errB, minSvn := s.boot.minSvn }

/-- MODULE_RESET (R486): every state at its reset value but the flash and the fuses, then the boot stages. -/
def execModuleReset (s : State) : Out1 :=
  .next { State.reset with
          flash := s.flash, boot := s.bootUp, free := s.free, nextId := s.nextId, agenda := s.agenda }

/-! ### FWCTL (R489) -/

/-- FW_GO. -/
def execFwGo (value : W64) (s : State) : Out1 := .next (s.writeFwctl (value &&& 1))

/-- FW_COMMIT. -/
def execFwCommit (value : W64) (s : State) : Out1 := .next (s.writeFwctl (value &&& 2))

/-- The bytes of the staging range. -/
def State.staged (s : State) (n : Nat) : List Byte :=
  (natsFrom 0 (n / 8)).flatMap (fun i => leBytes (s.reg (devBase 0 + 0x01000000 + 8 * i)).toNat 8)

/-- The staged image: as many bytes as its header names, within the range. -/
def State.stagedImage (s : State) : List Byte :=
  let len := bitsOf (s.reg (devBase 0 + 0x01000010)).toNat 31 0
  (s.staged (min (2 ^ 24) (64 + len + 1772 + 7))).take (64 + len + 1772)

/-- FW_CHECK_DONE: the check's result, and an accepted image in the slot not booted, or in slot A in recovery. -/
def execFwCheckDone (s : State) : Out1 :=
  let img := s.stagedImage
  let err := fwCheck img s.boot.minSvnNow
  let slot := if s.boot.stage = 5 then 0 else 1 - s.boot.slot
  .next (if s.boot.busy then
    { s with boot := { s.boot with busy := false, res := err, err := err },
             flash := if err = 0 then s.flash.set slot img else s.flash }
  else s)

/-! ### The governor (R36, R491, R492) -/

/-- The clock of the next window: one step of 50 MHz down or up, within 950 MHz and the cap. -/
def nextClock (clk avg limit fmax : Nat) : Nat :=
  let cap := 950 + 50 * fmax
  if cap < clk then cap
  else if limit < avg then max 950 (clk - 50)
  else if avg * 100 ≤ limit * 95 then min cap (clk + 50)
  else clk

/-- GOVERNOR_WINDOW: a window of 1 ms ends with this average power, in W. -/
def execGovernorWindow (average : Nat) (s : State) : Out1 :=
  let g := s.reg (devBase 0 + 0x00D00210)
  let p := s.reg (devBase 0 + 0x00D00218)
  let clk := nextClock (bitsOf p.toNat 31 16) average (bitsOf g.toNat 11 0) (bitsOf g.toNat 20 16)
  let win := min (2 ^ 32 - 1) (bitsOf p.toNat 63 32 + 1)
  .next (if s.window + 1000000 ≤ s.timeOf 0 then
    let s := s.setReg (devBase 0 + 0x00D00218) (w64 (win * 2 ^ 32 + clk * 2 ^ 16 + min average (2 ^ 16 - 1)))
    { s with window := s.window + 1000000 }
  else s)

/-! ### Device registers (R9, R494, R495) -/

/-- Whether an address names a register: a multiple of 8 in device register space, outside the apertures. -/
def isReg (pa : Nat) : Bool := 2 ^ 39 ≤ pa && pa < 2 ^ 40 && pa % 8 == 0 && !inFabric pa && !inHostAp pa

/-- DEVICE_REGISTER_WRITE: the whole register. -/
def execDeviceRegisterWrite (pa : Nat) (value : W64) (s : State) : Out1 :=
  .next (if isReg pa then s.devWrite pa value (maskBits 63 0) else s)

/-- Hands the value of a register to the host. -/
def State.readToHost (s : State) (pa : Nat) : State :=
  let (id, s) := s.fresh
  let (v, s) := s.devRead pa
  s.toHost (.data id (PByte.clean (leBytes v.toNat 8)))

/-- DEVICE_REGISTER_READ: its value goes to the host. FABSYNC waits for the requests before it (R474), and DISMASK until every
effect is in force (R494). -/
def execDeviceRegisterRead (pa : Nat) (s : State) : Out1 :=
  .next (if isReg pa then
    match devRegAt pa with
    | .fabsync =>
      let (id, s) := s.fresh
      let r : Req := { id := id, agent := .hostIo, home := s.homeOf pa, op := .read, addr := pa, size := 8 }
      { s with fabsyncs := s.fabsyncs ++ [⟨r, s.fabPending⟩] }
    | .dismask .. => if s.disableDone then s.readToHost pa else s
    | _ => s.readToHost pa
  else s)

/-- DISMASK_WRITE (R494). -/
def execDismaskWrite (die reg : Nat) (value : W64) (s : State) : Out1 :=
  if die < 4 ∧ reg < 16 then .next (s.writeDismask die reg value) else .fault .noSuchUnit

/-- DISMASK_READ (R494): answered once every effect is in force. -/
def execDismaskRead (die reg : Nat) (s : State) : Out1 :=
  if die < 4 ∧ reg < 16 then
    .next (if s.disableDone then
      let (id, s) := s.fresh
      s.toHost (.data id (PByte.clean (leBytes (s.reg (pDismask die reg)).toNat 8)))
    else s)
  else .fault .noSuchUnit

/-- SKEWCLR (R495). -/
def execSkewclr (die : Nat) (value : W64) (s : State) : Out1 :=
  if die < 4 then .next (s.writeSkewclr die value) else .fault .noSuchUnit

/-- LAGCLR (R495). -/
def execLagclr (die : Nat) (value : W64) (s : State) : Out1 :=
  if die < 4 then .next (s.writeLagclr die value) else .fault .noSuchUnit

end Sys2Proof.Machine
end

