-- ==== Sys2Proof/Machine/Scalar.lean ====
section
/-!
DEFINITION. Sys2Proof/Machine/Scalar.lean: the scalar FP32 group (R188 to R191) and the branches and jumps (R192 to R194).
-/
namespace Sys2Proof.Machine
open Sys2Proof.Fp

/-- The FP32 operand in bits 31 to 0 of an x register (R42). -/
def Ctx.readF (t : Ctx) (i : Nat) : Nat := (t.readX i).toNat % 2 ^ 32

/-- The frame of an FP32 instruction (R104, R189): `op` gives the register result and the float results that are folded
into AMAX when the prefix asks. -/
def fpOp (st : Nat) (reads : List RName) (rd : Nat) (lat : Option Nat) (op : Ctx → Rounding → W64 × List Exact)
    (s : State) : Out1 :=
  s.issueWith { st := st, reads := reads, writes := [.x rd], target := true } fun s =>
    match s.cur.rounding with
    | none => .trap 0x02 0 0
    | some r =>
      let (v, folded) := op s.cur r
      let s := s.updCur (·.fold r.am folded)
      match lat with
      | some l => .done s (fixedX rd v l) none
      | none => .done s (nowX rd v) none

/-- A float result, folded. -/
def folded (v : Nat) : W64 × List Exact := (w64 v, [f32 v])

/-- A result that is not folded. -/
def plain (v : Nat) : W64 × List Exact := (w64 v, [])

/-- An FP32 instruction of two operands. -/
def fp2 (st rd rs1 rs2 : Nat) (lat : Option Nat) (op : Rounding → Nat → Nat → W64 × List Exact) (s : State) : Out1 :=
  fpOp st [.x rs1, .x rs2] rd lat (fun t r => op r (t.readF rs1) (t.readF rs2)) s

/-- An FP32 instruction of one operand. -/
def fp1 (st rd rs1 : Nat) (lat : Option Nat) (op : Rounding → Nat → W64 × List Exact) (s : State) : Out1 :=
  fpOp st [.x rs1] rd lat (fun t r => op r (t.readF rs1)) s

/-- `fadd` (R188). -/
def execFadd (st : Fin 8) (rd rs1 rs2 : Fin 32) (s : State) : Out1 :=
  fp2 st rd rs1 rs2 (some 4) (fun r a b => folded (fp32.rnd ((f32 a).add r.rm (f32 b)) r.rm r.sat)) s

/-- `fsub` (R188). -/
def execFsub (st : Fin 8) (rd rs1 rs2 : Fin 32) (s : State) : Out1 :=
  fp2 st rd rs1 rs2 (some 4) (fun r a b => folded (fp32.rnd ((f32 a).add r.rm (f32 b).neg) r.rm r.sat)) s

/-- `fmul` (R188). -/
def execFmul (st : Fin 8) (rd rs1 rs2 : Fin 32) (s : State) : Out1 :=
  fp2 st rd rs1 rs2 (some 4) (fun r a b => folded (fp32.rnd ((f32 a).mul (f32 b)) r.rm r.sat)) s

/-- `fmin` (R188, R56). -/
def execFmin (st : Fin 8) (rd rs1 rs2 : Fin 32) (s : State) : Out1 :=
  fp2 st rd rs1 rs2 (some 4) (fun _ a b => folded (fMin a b)) s

/-- `fmax` (R188, R56). -/
def execFmax (st : Fin 8) (rd rs1 rs2 : Fin 32) (s : State) : Out1 :=
  fp2 st rd rs1 rs2 (some 4) (fun _ a b => folded (fMax a b)) s

/-- `feq` (R188, R56). -/
def execFeq (st : Fin 8) (rd rs1 rs2 : Fin 32) (s : State) : Out1 :=
  fp2 st rd rs1 rs2 (some 4) (fun _ a b => plain (if fEq a b then 1 else 0)) s

/-- `flt` (R188, R56). -/
def execFlt (st : Fin 8) (rd rs1 rs2 : Fin 32) (s : State) : Out1 :=
  fp2 st rd rs1 rs2 (some 4) (fun _ a b => plain (if fLt a b then 1 else 0)) s

/-- `fle` (R188, R56). -/
def execFle (st : Fin 8) (rd rs1 rs2 : Fin 32) (s : State) : Out1 :=
  fp2 st rd rs1 rs2 (some 4) (fun _ a b => plain (if fLe a b then 1 else 0)) s

/-- `fclass` (R190). -/
def execFclass (st : Fin 8) (rd rs1 : Fin 32) (s : State) : Out1 := fp1 st rd rs1 (some 4) (fun _ a => plain (fclassOf a)) s

/-- A sign written over a magnitude, the canonical NaN for a NaN (R188). -/
def withSign (a : Nat) (neg : Bool) : Nat :=
  if (f32 a).isNan then fp32.nan else a % 2 ^ 31 + (if neg then 2 ^ 31 else 0)

/-- `fsign` (R188). -/
def execFsign (st : Fin 8) (rd rs1 rs2 : Fin 32) (s : State) : Out1 :=
  fp2 st rd rs1 rs2 (some 4) (fun _ a b => plain (withSign a (bitOf b 31))) s

/-- `fdiv` (R188). -/
def execFdiv (st : Fin 8) (rd rs1 rs2 : Fin 32) (s : State) : Out1 :=
  fp2 st rd rs1 rs2 none (fun r a b => folded (fp32.rnd ((f32 a).div (f32 b)) r.rm r.sat)) s

/-- `fsqrt` (R188). -/
def execFsqrt (st : Fin 8) (rd rs1 : Fin 32) (s : State) : Out1 :=
  fp1 st rd rs1 none (fun r a => folded (fp32.rnd (f32 a).sqrt r.rm r.sat)) s

/-- `fabs` (R188). -/
def execFabs (st : Fin 8) (rd rs1 : Fin 32) (s : State) : Out1 := fp1 st rd rs1 (some 4) (fun _ a => plain (withSign a false)) s

/-- `fneg` (R188). -/
def execFneg (st : Fin 8) (rd rs1 : Fin 32) (s : State) : Out1 :=
  fp1 st rd rs1 (some 4) (fun _ a => plain (withSign a (!bitOf a 31))) s

/-- Conversion `k` of R191 on the register value `x`. -/
def fcvtOf (k : Nat) (x : W64) (r : Rounding) : W64 × List Exact :=
  let lo := x.toNat % 2 ^ 32
  match k with
  | 0 => folded (fp32.rnd (ofInt x.toInt) r.rm r.sat)
  | 1 => folded (fp32.rnd (ofInt (x.toNat : Int)) r.rm r.sat)
  | 2 => plain (intRnd true 64 (f32 lo) r.rm)
  | 3 => plain (intRnd false 64 (f32 lo) r.rm)
  | 4 => folded (fp32.rnd (ofInt (sgnOf 32 lo)) r.rm r.sat)
  | 5 => (sext64 32 (intRnd true 32 (f32 lo) r.rm), [])
  | 6 => let v := fp16.rnd (f32 lo) r.rm r.sat; (w64 v, [fp16.val v])
  | 7 => folded (fp32.rnd (fp16.val (lo % 2 ^ 16)) r.rm r.sat)
  | 8 => let v := bf16.rnd (f32 lo) r.rm r.sat; (w64 v, [bf16.val v])
  | _ => folded (fp32.rnd (bf16.val (lo % 2 ^ 16)) r.rm r.sat)

/-- `fcvt` (R191). -/
def execFcvt (st : Fin 8) (rd rs1 : Fin 32) (k : Fin 16) (s : State) : Out1 :=
  fpOp st [.x rs1] rd (some 4) (fun t r => fcvtOf k (t.readX rs1) r) s

/-- `fmadd` (R188). -/
def execFmadd (st : Fin 8) (rd rs1 rs2 rs3 : Fin 32) (s : State) : Out1 :=
  fpOp st [.x rs1, .x rs2, .x rs3] rd (some 4)
    (fun t r =>
      folded (fp32.rnd (((f32 (t.readF rs1)).mul (f32 (t.readF rs2))).add r.rm (f32 (t.readF rs3))) r.rm r.sat)) s

/-! ### Branches and jumps -/

/-- A branch taken on a condition of its two operands (R192). -/
def branch (st rs1 rs2 : Nat) (off : BitVec 13) (taken : W64 → W64 → Bool) (s : State) : Out1 :=
  s.issueWith { st := st, reads := [.x rs1, .x rs2] } fun s =>
    let t := s.cur
    .done s [] (if taken (t.readX rs1) (t.readX rs2) then some (target t.pc (imm13 off)) else none)

/-- `beq` (R192). -/
def execBeq (st : Fin 8) (rs1 rs2 : Fin 32) (off : BitVec 13) (s : State) : Out1 := branch st rs1 rs2 off (cond 0) s

/-- `bne` (R192). -/
def execBne (st : Fin 8) (rs1 rs2 : Fin 32) (off : BitVec 13) (s : State) : Out1 := branch st rs1 rs2 off (cond 1) s

/-- `blt` (R192). -/
def execBlt (st : Fin 8) (rs1 rs2 : Fin 32) (off : BitVec 13) (s : State) : Out1 := branch st rs1 rs2 off (cond 2) s

/-- `bge` (R192). -/
def execBge (st : Fin 8) (rs1 rs2 : Fin 32) (off : BitVec 13) (s : State) : Out1 := branch st rs1 rs2 off (cond 3) s

/-- `bltu` (R192). -/
def execBltu (st : Fin 8) (rs1 rs2 : Fin 32) (off : BitVec 13) (s : State) : Out1 := branch st rs1 rs2 off (cond 4) s

/-- `bgeu` (R192). -/
def execBgeu (st : Fin 8) (rs1 rs2 : Fin 32) (off : BitVec 13) (s : State) : Out1 := branch st rs1 rs2 off (cond 5) s

/-- `jal` (R193). -/
def execJal (st : Fin 8) (rd : Fin 32) (off : BitVec 18) (s : State) : Out1 :=
  s.issueWith { st := st, writes := [.x rd] } fun s =>
    let pc := s.cur.pc
    .done s (fixedX rd (w64 (nextPc pc)) 1) (some (target pc (imm18 off)))

/-- `jalr` (R194); the target is computed before rd is written, and a misaligned one traps with FAULTB = t. -/
def execJalr (st : Fin 8) (rd rs1 : Fin 32) (imm : BitVec 13) (s : State) : Out1 :=
  s.issueWith { st := st, reads := [.x rs1], writes := [.x rd] } fun s =>
    let t := (s.cur.readX rs1 + imm13 imm).toNat % 65536
    if t % 4 ≠ 0 then .trap 0x04 0 (w64 t)
    else .done s (fixedX rd (w64 (nextPc s.cur.pc)) 1) (some t)

end Sys2Proof.Machine
end

