-- ==== Sys2Proof/Machine/Sys.lean ====
section
/-!
DEFINITION. Sys2Proof/Machine/Sys.lean: the system instructions: `trap`, `brk`, `eret`, `ifence`, `ovld`, `lwait`, `resume`
and `tkill` (R209 to R213, R371, R372, R452 to R454).
-/
namespace Sys2Proof.Machine

/-- `trap` (R210): EPC is the offset after it. -/
def execTrap (st : Fin 8) (code : Fin 1024) (s : State) : Out1 :=
  s.issueWith { st := st } fun s =>
    .gone (s.trapAt s.curCore s.curCtx 0x08 code 0 ((s.cur.pc.toNat + 4) % 65536) (s.wordAt s.curCore s.cur).toNat).slotLost

/-- `brk` (R210). -/
def execBrk (st : Fin 8) (code : Fin 1024) (s : State) : Out1 :=
  s.issueWith { st := st } fun _ => .trap 0x07 code 0

/-- `eret` (R211): the test of TH ranks with the privilege traps (R105); a misaligned EPC traps with TH still 1. -/
def execEret (st : Fin 8) (s : State) : Out1 :=
  s.issueWith { st := st, early := if s.cur.th then none else some 0x03 } fun s =>
    let t := s.cur
    if t.epc % 4 ≠ 0 then .trap 0x04 0 (w64 t.epc)
    else .done (s.updCur Ctx.leaveHandler) [] (some t.epc)

/-- `ifence` (R213): what was fetched ahead is discarded, and control goes to the target, which a trap gives as R92 takes it
(assumption log 124). -/
def execIfence (st : Fin 8) (rs1 : Fin 32) (s : State) : Out1 :=
  s.issueWith { st := st, reads := [.x rs1] } fun s =>
    let pc := s.cur.pc.toNat
    let t := if rs1 = 0 then (pc + 4) % 65536 else (s.cur.readX rs1).toNat % 65536
    if t % 4 ≠ 0 then .trap 0x04 0 (w64 t) else .done s [] (some t)

/-- The three words after a pc as the store holds them, with whether they are poisoned (R213, R444). -/
def State.oldWords (s : State) : Map (W32 × Bool) :=
  let t := s.cur
  [1, 2, 3].map (fun i =>
    let a := (t.pc.toNat + 4 * i) % 65536
    let at' : Ctx := { t with pc := BitVec.ofNat 16 a }
    (a, (s.wordAt s.curCore at', s.fetchPoison s.curCore at')))

/-- `ovld` (R131, R212): waits until its task is alone on the core, which allocates no context meanwhile. -/
def execOvld (st : Fin 8) (rd rs1 : Fin 32) (s : State) : Out1 :=
  s.issueWith { st := st, reads := [.x rs1], writes := [.x rd] } fun s =>
    let k := (s.cur.readX rs1).toNat
    match s.here.conf with
    | none => .done s (nowX rd (if 255 < k then 2 else 1)) none
    | some conf =>
      if 255 < k then .done s (nowX rd 2) none
      else if k = conf.ovl then .done s (nowX rd 0) none
      else if s.here.othersLive s.curCtx then
        .hold (s.updCur (fun t => { t with wait := .alone, waitFrom := some (t.waitFrom.getD s.now) }))
      else
        match s.overlay conf.image k with
        | none => .done s (nowX rd 1) none
        | some text =>
          let old := s.oldWords
          .done ((s.updHere (fun h => h.loadText text k)).updCur (fun t => { t with window := old })) (nowX rd 0) none

/-- `lwait` (R372): parks first, whatever the time; it goes on once the time has come. -/
def execLwait (st : Fin 8) (rd rs1 : Fin 32) (s : State) : Out1 :=
  s.issueWith { st := st, reads := [.x rs1], writes := [.x rd], kill := true } fun s =>
    let t := s.cur
    if t.wait = .cond ∧ max (t.readX rs1).toNat t.lastTime ≤ s.now then
      .done (s.updCur (fun t => { t with lastTime := s.now })) (nowX rd (w64 s.now)) none
    else .hold (s.waitCond true)

/-- LWAIT_WAKE (R372): the task of a context that waits in `lwait` issues it again; it goes on if the time has come. -/
def execLwaitWake (core ctx : Nat) (s : State) : Out1 :=
  let s' := { s with curCore := core, curCtx := ctx }
  let t := s'.cur
  if t.phase = .parked ∧ t.wait = .cond ∧ s'.ready core ctx then
    match decodeWord (s'.wordAt core t).toNat with
    | .ok (.lwait st rd rs1) => execLwait st rd rs1 s'
    | _ => .next s
  else .next s

/-! ### `resume` and `tkill` -/

/-- The core, context and FSEQ that a fault token names; `none` where it names none (R453). -/
def tokenParts (tok : Nat) : Option (Nat × Nat × Nat) :=
  if bitsOf tok 63 32 ≠ 0 ∨ bitOf tok 15 ∨ 1535 < bitsOf tok 14 4 then none
  else some (bitsOf tok 14 4, bitsOf tok 3 0, bitsOf tok 31 16)

/-- Whether a context holds the faulted task of a token. -/
def Ctx.faultedAs (t : Ctx) (fseq : Nat) : Bool := t.phase == .faulted && t.fseq == fseq

/-- The faulted task that a token names, on its core or saved there: with the record's place in the list of saves. -/
def State.faultedTask (s : State) (tok : Nat) : Option (Nat × Nat × Option Nat × Ctx) :=
  match tokenParts tok with
  | none => none
  | some (c, k, fseq) =>
    let t := s.ctx c k
    if t.faultedAs fseq then some (c, k, none, t)
    else
      let hit := fun (r : SaveRec) => r.core == c && (match r.ctxs.find? k with | some t => t.faultedAs fseq | none => false)
      match findIdx hit s.saves with
      | none => none
      | some i =>
        match s.saves[i]? with
        | some r => (r.ctxs.find? k).map (fun t => (c, k, some i, t))
        | none => none

/-- Writes a task back where it was found. -/
def State.putTask (s : State) (c k : Nat) (saved : Option Nat) (t : Ctx) : State :=
  match saved with
  | none => s.setCtx c k t
  | some i =>
    match s.saves[i]? with
    | some r => { s with saves := setNth s.saves i { r with ctxs := r.ctxs.set k t } }
    | none => s

/-- `resume` once its gate is open (R453): `target` is X(rs2), or none for the task's own EPC. A window of R213 is over (assumption log
131). -/
def State.resumeTask (s : State) (tok : Nat) (target : Option Nat) : State × Nat :=
  match s.faultedTask tok with
  | none => (s, 1)
  | some (c, k, saved, t) =>
    let pc := target.getD t.epc
    if pc % 4 ≠ 0 ∨ 65532 < pc then (s, 2)
    else
      let t :=
        { t with pc := BitVec.ofNat 16 pc, phase := .running, wait := .settle, waitFrom := none, window := [],
                 readyAt := s.cycle }
      ((s.putTask c k saved t).acquire c .package, 0)

/-- `resume` (R453). -/
def execResume (st : Fin 8) (rd rs1 rs2 : Fin 32) (s : State) : Out1 :=
  s.issueWith { st := st, reads := [.x rs1, .x rs2], writes := [.x rd], sup := true } fun s =>
    s.afterGate (some .package) fun s =>
      let target := if rs2 = 0 then none else some (s.cur.readX rs2).toNat
      let (s, res) := s.resumeTask (s.cur.readX rs1).toNat target
      .done s (nowX rd (w64 res)) none

/-- `tkill` with m = 0: the faulted task of a token is killed (R454). -/
def State.killFaulted (s : State) (tok : Nat) : State × Nat :=
  match s.faultedTask tok with
  | none => (s, 1)
  | some (c, k, none, _) => (s.killTask c k, 0)
  | some (c, k, some i, t) =>
    match s.saves[i]? with
    | none => (s, 1)
    | some r =>
      let slots := (r.wa.filter (fun (e : Nat × WaSlot) => e.2.owner == k)).map (·.1)
      let r' := { r with ctxs := r.ctxs.erase k, wa := r.wa.filter (fun (e : Nat × WaSlot) => e.2.owner != k) }
      let s := { s with saves := setNth s.saves i r' }
      let s := s.updCore c (fun h => { h with wa := h.wa.filter (fun e => !slots.contains e.1) })
      (s.endSaved c .killed t, 0)

/-- `tkill` with m = 1: every saved launch of a job is discarded (R454). -/
def State.discardJob (s : State) (v : Nat) : State × Nat :=
  let hit := fun (e : Nat × Launch) => e.2.job == bitsOf v 31 0 && e.2.asid == bitsOf v 37 32
  let ids := (s.launches.filter hit).map (·.1)
  let pairs := s.saves.flatMap (fun (r : SaveRec) => (r.launches.filter ids.contains).map (fun l => (l, r.core)))
  if pairs.isEmpty then (s, 1) else (pairs.foldl (fun s p => s.discardOn p.1 p.2) s, 0)

/-- `tkill` (R454). -/
def execTkill (st : Fin 8) (rd rs1 rs2 : Fin 32) (s : State) : Out1 :=
  s.issueWith { st := st, reads := [.x rs1, .x rs2], writes := [.x rd], sup := true } fun s =>
    s.afterGate (some .package) fun s =>
      let v := (s.cur.readX rs1).toNat
      let m := if rs2 = 0 then 0 else (s.cur.readX rs2).toNat
      let (s, res) := if m = 0 then s.killFaulted v else if m = 1 then s.discardJob v else (s, 3)
      .done s (nowX rd (w64 res)) none

end Sys2Proof.Machine
end

