-- ==== Sys2Proof/Machine/Wacc.lean ====
section
/-!
DEFINITION. Sys2Proof/Machine/Wacc.lean: the window accumulators (R272 to R292).
-/
namespace Sys2Proof.Machine
open Sys2Proof.Fp

/-! ### Configurations (R274, R275) -/

/-- A configuration word's fields. -/
structure WaCfg where
  w    : Nat
  lanes : Nat
  fmt  : Nat
  opr  : Nat
  deriving DecidableEq, Repr

def WaCfg.ofNat (c : Nat) : WaCfg := ⟨bitsOf c 31 16, lanesOf (bitsOf c 9 8), bitsOf c 7 4, bitsOf c 3 0⟩

/-- Words of 32 bits in an element: one per lane, two for log-sum-exp. -/
def WaCfg.words (c : WaCfg) : Nat := if c.opr = 6 then 2 * c.lanes else c.lanes

/-- `E` of R274. -/
def WaCfg.bytes (c : WaCfg) : Nat := 4 * c.words

/-- An accepted pair of OPR and FMT (R275). -/
def waPair (opr fmt : Nat) : Bool :=
  match opr with
  | 0 => fmt == 0x0 || fmt == 0xB
  | 1 => fmt == 0x0 || fmt == 0xB || fmt == 0xE
  | 2 => fmt == 0x0 || fmt == 0xB || fmt == 0xE
  | 3 => fmt == 0xB || fmt == 0xE
  | 4 => fmt == 0xB || fmt == 0xE
  | 5 => fmt == 0xB || fmt == 0xE
  | 6 => fmt == 0x0
  | _ => false

/-- The combine of one lane, log-sum-exp excepted (R275). -/
def waLane (opr fmt : Nat) (a b : W32) : W32 :=
  match opr with
  | 0 => if fmt = 0 then BitVec.ofNat 32 (fAdd .rne a.toNat b.toNat) else a + b
  | 1 =>
    if fmt = 0 then BitVec.ofNat 32 (fMax a.toNat b.toNat)
    else if fmt = 0xB then (if a.slt b then b else a)
    else if a.ult b then b else a
  | 2 =>
    if fmt = 0 then BitVec.ofNat 32 (fMin a.toNat b.toNat)
    else if fmt = 0xB then (if b.slt a then b else a)
    else if b.ult a then b else a
  | 3 => a &&& b
  | 4 => a ||| b
  | _ => a ^^^ b

/-- The identity of an operator (R275); `second` selects the s vector of log-sum-exp. -/
def waIdentity (opr fmt : Nat) (second : Bool) : W32 :=
  match opr with
  | 0 => if fmt = 0 then 0x80000000 else 0
  | 1 => if fmt = 0 then 0xFF800000 else if fmt = 0xB then 0x80000000 else 0
  | 2 => if fmt = 0 then 0x7F800000 else if fmt = 0xB then 0x7FFFFFFF else 0xFFFFFFFF
  | 3 => 0xFFFFFFFF
  | 6 => if second then 0 else 0xFF800000
  | _ => 0

/-- The weight of one side in R276. -/
def lseGain (m top : Nat) : Exact :=
  if (f32 m).cmp (f32 top) == .eq then .fin false 1 1
  else f32 (r32 (f32 (r32 ((f32 m).add .rne (f32 top).neg) .rne)).exp2 .rne)

/-- The log-sum-exp combine of one lane (R276). -/
def lseLane (m1 s1 m2 s2 : Nat) : W32 × W32 :=
  if [m1, s1, m2, s2].any (fun x => (f32 x).isNan) then (0x7FC00000, 0x7FC00000)
  else
    let top := fMax m1 m2
    let a := (f32 s1).mul (lseGain m1 top)
    let b := (f32 s2).mul (lseGain m2 top)
    (BitVec.ofNat 32 top, BitVec.ofNat 32 (r32 (a.add .rne b) .rne))

/-- `a ⊕ b` on whole elements. -/
def WaCfg.combine (c : WaCfg) (a b : List W32) : List W32 :=
  if c.opr = 6 then
    let r := (natsFrom 0 c.lanes).map (fun l =>
      lseLane (nth 0 a l).toNat (nth 0 a (c.lanes + l)).toNat (nth 0 b l).toNat (nth 0 b (c.lanes + l)).toNat)
    r.map (·.1) ++ r.map (·.2)
  else List.zipWith (waLane c.opr c.fmt) a b

/-- The element that the identity fills. -/
def WaCfg.identity (c : WaCfg) : List W32 :=
  (natsFrom 0 c.words).map (fun l => waIdentity c.opr c.fmt (c.lanes ≤ l))

/-! ### Elements in the region (R274) -/

/-- The words of an element at a scratchpad offset. -/
def HomeCore.waGet (h : HomeCore) (off n : Nat) : List W32 :=
  (natsFrom 0 n).map (fun i => BitVec.ofNat 32 (leNat (Memory.bytes h.spad (off + 4 * i) 4)))

/-- Writes an element, within a step (R283). -/
def HomeCore.waPut (h : HomeCore) (off : Nat) (ws : List W32) : HomeCore :=
  h.spSet off (PByte.clean (ws.flatMap (fun w => leBytes w.toNat 4)))

/-- The offset of the entry of push number `j`, a 64-bit count (R273). -/
def WaSlot.entry (a : WaSlot) (c : WaCfg) (j : Nat) : Nat := a.off + c.bytes * (1 + (j + (2 ^ 64 - 1)) % 2 ^ 64 % c.w)

/-! ### Push, expiry and flip (R278) -/

/-- The suffix aggregates of back elements `k` down to 1, each written over its entry; `base` is the push number before
the first of them. -/
def HomeCore.waFlip (h : HomeCore) (a : WaSlot) (cfg : WaCfg) (base : Nat) : Nat → HomeCore
  | 0 => h
  | k + 1 =>
    let here := a.entry cfg (base + k + 1)
    let f := cfg.combine (h.waGet here cfg.words) (h.waGet (a.entry cfg (base + k + 2)) cfg.words)
    HomeCore.waFlip (h.waPut here f) a cfg base k

/-- Whether the next push expires the oldest element, and whether that expiry flips. -/
def WaSlot.full (a : WaSlot) (cfg : WaCfg) : Bool := a.fcnt + a.bcnt == cfg.w
def WaSlot.flips (a : WaSlot) (cfg : WaCfg) : Bool := a.full cfg && a.fcnt == 0

/-- The push number before the oldest back element, and the number of the oldest element of the window (R278). -/
def WaSlot.base (a : WaSlot) : Nat := a.p + 2 ^ 64 - a.bcnt
def WaSlot.oldest (a : WaSlot) : Nat := a.p + 2 ^ 64 - (a.fcnt + a.bcnt) + 1

/-- The window loses its oldest element, after a flip when the front stack is empty. -/
def HomeCore.waExpire (h : HomeCore) (a : WaSlot) (cfg : WaCfg) : HomeCore × WaSlot :=
  if a.fcnt = 0 then (h.waFlip a cfg a.base (a.bcnt - 1), { a with fcnt := a.bcnt - 1, bcnt := 0 })
  else (h, { a with fcnt := a.fcnt - 1 })

/-- `wapush` of an element (R278). -/
def HomeCore.waPush (h : HomeCore) (a : WaSlot) (cfg : WaCfg) (x : List W32) : HomeCore × WaSlot :=
  let (h, a) := if a.full cfg then h.waExpire a cfg else (h, a)
  let h := h.waPut (a.entry cfg (a.p + 1)) x
  let agg := if a.bcnt = 0 then x else cfg.combine (h.waGet a.off cfg.words) x
  (h.waPut a.off agg, { a with bcnt := a.bcnt + 1, p := (a.p + 1) % 2 ^ 64 })

/-- The back entries that a flip rewrites: all of them but the newest. -/
def WaSlot.flipped (a : WaSlot) (cfg : WaCfg) : List Nat :=
  if a.flips cfg then (natsFrom 1 (a.bcnt - 1)).map (fun i => a.entry cfg (a.base + i)) else []

/-- The elements that a push writes: the entries that a flip rewrites, the new entry and AGG. -/
def WaSlot.pushWrites (a : WaSlot) (cfg : WaCfg) : List Nat := a.flipped cfg ++ [a.entry cfg (a.p + 1), a.off]

/-- The elements that a push reads: those that a flip combines, and AGG when back elements stay. -/
def WaSlot.pushReads (a : WaSlot) (cfg : WaCfg) : List Nat :=
  if a.flips cfg then (if a.bcnt ≤ 1 then [] else a.entry cfg a.p :: a.flipped cfg)
  else if a.bcnt = 0 then [] else [a.off]

/-- The elements that a read of the window reads (R279). -/
def WaSlot.windowReads (a : WaSlot) (cfg : WaCfg) : List Nat :=
  (if a.fcnt = 0 then [] else [a.entry cfg a.oldest]) ++ (if a.bcnt = 0 then [] else [a.off])

/-- `wapush` as one step of the unit (R278, R283): every byte of it at one point, and then the waits that it ends. -/
def State.waPush (s : State) (c : Nat) (a : WaSlot) (cfg : WaCfg) (x : List W32) : State × WaSlot :=
  let r := (s.core c).waPush a cfg x
  ((s.setCore c r.1).spTouched c ((a.pushWrites cfg).map (fun o => (o, cfg.bytes))), r.2)

/-! ### Occupancy (R281) -/

/-- `G` of R281. -/
def WaCfg.group (c : WaCfg) : Nat := (c.lanes + 15) / 16 * (if c.opr = 6 then 2 else 1)

/-- The cycles of a push, and of a read. -/
def WaSlot.pushCycles (a : WaSlot) (cfg : WaCfg) : Nat := cfg.group + if a.flips cfg then a.bcnt * cfg.group + 4 else 0
def WaSlot.readCycles (a : WaSlot) (cfg : WaCfg) : Nat := if a.fcnt ≠ 0 ∧ a.bcnt ≠ 0 then 2 * cfg.group else cfg.group

/-- The window's value (R279). -/
def HomeCore.waRead (h : HomeCore) (a : WaSlot) (cfg : WaCfg) : List W32 :=
  let top := h.waGet (a.entry cfg a.oldest) cfg.words
  let agg := h.waGet a.off cfg.words
  if a.fcnt + a.bcnt = 0 then cfg.identity
  else if a.fcnt = 0 then agg
  else if a.bcnt = 0 then top
  else cfg.combine top agg

/-! ### The checks of R286 -/

/-- A trap with window-misuse. -/
def misuse (order : Nat) : Res := .trap 0x1B order 0

/-- Whether a unit step on the slot's region waits for a copy (R283, R386): the whole region counts. -/
def State.waWaits (s : State) (a : WaSlot) : Bool :=
  s.belowWatermark s.curCore s.cur.asid (otherVa s.curCore a.off) a.size

/-- The register after a log-sum-exp operand is stall-short (R286). -/
def Ctx.shortAfter (t : Ctx) (v : Nat) (cfg : WaCfg) : Bool :=
  t.sbchk && cfg.opr == 6 && t.pend.any (fun p => p.reg == .v (v + 1))

/-- Replaces a slot of the core at issue, which the unit occupies for some cycles (R281). -/
def State.setWa (s : State) (wa : Nat) (a : WaSlot) (cycles : Nat) : State :=
  s.updHere (fun h => { h with wa := h.wa.set wa { a with busyTo := s.cycle + cycles } })

/-- A slot that the unit occupies holds the instruction (R282); then check 1 (R286). -/
def State.waSlot (s : State) (wa : Nat) (act : WaSlot → Res) : Res :=
  match s.here.wa.find? wa with
  | none => misuse 1
  | some a => if s.cycle < a.busyTo then .hold s.waitStall else act a

/-- Checks 1 and 3 (R286), then the operation: a slot of a saved owner is another task's (R284). -/
def State.waOwned (s : State) (wa : Nat) (act : State → WaSlot → Res) : Res :=
  s.waSlot wa fun a => if a.owner ≠ s.curCtx ∨ a.saved then misuse 3 else act s a

/-- Checks 1, 4, 5 (R286), then the operation. -/
def State.waUsable (s : State) (wa : Nat) (act : State → WaSlot → WaCfg → Res) : Res :=
  s.waSlot wa fun a =>
    if a.saved then misuse 4
    else
      match a.cfg with
      | none => misuse 5
      | some c => act s a (WaCfg.ofNat c)

/-- Whether an element that a step reads holds a poisoned byte, and the first one (R459; assumption log 123). -/
def State.waPoison (s : State) (cfg : WaCfg) (elems : List Nat) : Option Nat :=
  elems.find? (fun o => poisonedIn s.here.spadPoison o cfg.bytes)

/-- Checks 6 and 7, the stall-short check of the next register, the waits of the unit, and poison in the elements that the step
reads (R283, R286). -/
def State.waLanes (s : State) (v : Nat) (a : WaSlot) (cfg : WaCfg) (reads : List Nat) (act : State → Res) : Res :=
  match s.cur.claim with
  | none => .trap 0x1A 0 0
  | some c =>
    if c.lanes < cfg.lanes then misuse 6
    else if cfg.opr = 6 ∧ v % 2 = 1 then misuse 7
    else if s.cur.shortAfter v cfg then .trap 0x05 (32 + v + 1) 0
    else if s.waWaits a then .hold s.waitStall
    else
      match s.waPoison cfg reads with
      | some o => .trap 0x13 0 (w64 (0xFFFFFFFFFFF00000 + o))
      | none => act s

/-! ### The instructions -/

/-- `waalloc` (R287). -/
def execWaalloc (st : Fin 8) (xs : Fin 32) (wa : Fin 8) (s : State) : Out1 :=
  s.issueWith { st := st, reads := [.x xs] } fun s =>
    let r := (s.cur.readX xs).toNat
    let off := bitsOf r 19 0
    let size := bitsOf r 39 20
    if (s.here.wa.find? wa).any (fun a => s.cycle < a.busyTo) then .hold s.waitStall
    else if (s.here.wa.find? wa).isSome then misuse 2
    else if bitsOf r 63 40 ≠ 0 ∨ off % 64 ≠ 0 ∨ size = 0 ∨ size % 64 ≠ 0 ∨ s.here.spsize < off + size then misuse 8
    else if s.here.wa.any (fun e => overlap off size e.2.off e.2.size) then misuse 9
    else .done (s.setWa wa { owner := s.curCtx, off := off, size := size } 1) [] none

/-- `wafree` (R288). -/
def execWafree (st wa : Fin 8) (s : State) : Out1 :=
  s.issueWith { st := st } fun s =>
    s.waOwned wa fun s _ => .done (s.updHere (fun h => { h with wa := h.wa.erase wa })) [] none

/-- `waset` (R289). -/
def execWaset (st : Fin 8) (xs : Fin 32) (wa : Fin 8) (s : State) : Out1 :=
  s.issueWith { st := st, reads := [.x xs] } fun s =>
    s.waOwned wa fun s a =>
      let c := (s.cur.readX xs).toNat
      let cfg := WaCfg.ofNat c
      if bitsOf c 63 32 ≠ 0 ∨ bitsOf c 15 10 ≠ 0 ∨ cfg.w = 0 ∨ !waPair cfg.opr cfg.fmt then misuse 10
      else if a.size < (cfg.w + 1) * cfg.bytes then misuse 11
      else .done (s.setWa wa { a with cfg := some c, p := 0, fcnt := 0, bcnt := 0 } 1) [] none

/-- `wapush` (R290). -/
def execWapush (st : Fin 8) (vs1 : Fin 16) (w : Fin 8) (s : State) : Out1 :=
  s.issueWith { st := st, reads := [.v vs1] } fun s =>
    s.waUsable w fun s a cfg =>
      s.waLanes vs1 a cfg (a.pushReads cfg) fun s =>
        let x := (s.cur.readV vs1).take cfg.lanes
        let x := if cfg.opr = 6 then x ++ (s.cur.readV (vs1 + 1)).take cfg.lanes else x
        let r := s.waPush s.curCore a cfg x
        .done (r.1.setWa w r.2 (a.pushCycles cfg)) [] none

/-- Lanes of a result over the old lanes beyond them (R291). -/
def overLanes (new old : List W32) : List W32 := new ++ old.drop new.length

/-- `waread` (R291). -/
def execWaread (st : Fin 8) (vd : Fin 16) (w : Fin 8) (s : State) : Out1 :=
  s.issueWith { st := st, writes := [.v vd] } fun s =>
    s.waUsable w fun s a cfg =>
      s.waLanes vd a cfg (a.windowReads cfg) fun s =>
        let r := s.here.waRead a cfg
        let s := s.setWa w a (a.readCycles cfg)
        let one := [Write.now (.v vd) (.lanes (overLanes (r.take cfg.lanes) (s.cur.readV vd)))]
        .done s
          (if cfg.opr = 6 then
            one ++ [Write.now (.v (vd + 1)) (.lanes (overLanes (r.drop cfg.lanes) (s.cur.readV (vd + 1))))]
          else one) none

/-- `waclr` (R292). -/
def execWaclr (st wa : Fin 8) (s : State) : Out1 :=
  s.issueWith { st := st } fun s =>
    s.waUsable wa fun s a _ => .done (s.setWa wa { a with p := 0, fcnt := 0, bcnt := 0 } 1) [] none

end Sys2Proof.Machine
end

