-- ==== Sys2Proof/Machine/Dispatch.lean ====
section
/-!
DEFINITION. Sys2Proof/Machine/Dispatch.lean: the meaning of every row of the table of operations and events, one arm each.
-/
namespace Sys2Proof.Machine

def exec (i : Instr) (s : State) : Host.Outcome State Fault Refusal :=
  match i with
  | .add st rd rs1 rs2 => Sys2Proof.Machine.execAdd st rd rs1 rs2 s
  | .sub st rd rs1 rs2 => Sys2Proof.Machine.execSub st rd rs1 rs2 s
  | .and st rd rs1 rs2 => Sys2Proof.Machine.execAnd st rd rs1 rs2 s
  | .or st rd rs1 rs2 => Sys2Proof.Machine.execOr st rd rs1 rs2 s
  | .xor st rd rs1 rs2 => Sys2Proof.Machine.execXor st rd rs1 rs2 s
  | .sll st rd rs1 rs2 => Sys2Proof.Machine.execSll st rd rs1 rs2 s
  | .srl st rd rs1 rs2 => Sys2Proof.Machine.execSrl st rd rs1 rs2 s
  | .sra st rd rs1 rs2 => Sys2Proof.Machine.execSra st rd rs1 rs2 s
  | .min st rd rs1 rs2 => Sys2Proof.Machine.execMin st rd rs1 rs2 s
  | .max st rd rs1 rs2 => Sys2Proof.Machine.execMax st rd rs1 rs2 s
  | .minu st rd rs1 rs2 => Sys2Proof.Machine.execMinu st rd rs1 rs2 s
  | .maxu st rd rs1 rs2 => Sys2Proof.Machine.execMaxu st rd rs1 rs2 s
  | .clz st rd rs1 => Sys2Proof.Machine.execClz st rd rs1 s
  | .ctz st rd rs1 => Sys2Proof.Machine.execCtz st rd rs1 s
  | .popc st rd rs1 => Sys2Proof.Machine.execPopc st rd rs1 s
  | .cset st rd rs1 rs2 cond => Sys2Proof.Machine.execCset st rd rs1 rs2 cond s
  | .csetm st rd rs1 rs2 cond => Sys2Proof.Machine.execCsetm st rd rs1 rs2 cond s
  | .add32 st rd rs1 rs2 => Sys2Proof.Machine.execAdd32 st rd rs1 rs2 s
  | .sub32 st rd rs1 rs2 => Sys2Proof.Machine.execSub32 st rd rs1 rs2 s
  | .sll32 st rd rs1 rs2 => Sys2Proof.Machine.execSll32 st rd rs1 rs2 s
  | .srl32 st rd rs1 rs2 => Sys2Proof.Machine.execSrl32 st rd rs1 rs2 s
  | .sra32 st rd rs1 rs2 => Sys2Proof.Machine.execSra32 st rd rs1 rs2 s
  | .add32z st rd rs1 rs2 => Sys2Proof.Machine.execAdd32z st rd rs1 rs2 s
  | .sub32z st rd rs1 rs2 => Sys2Proof.Machine.execSub32z st rd rs1 rs2 s
  | .sll32z st rd rs1 rs2 => Sys2Proof.Machine.execSll32z st rd rs1 rs2 s
  | .srl32z st rd rs1 rs2 => Sys2Proof.Machine.execSrl32z st rd rs1 rs2 s
  | .sra32z st rd rs1 rs2 => Sys2Proof.Machine.execSra32z st rd rs1 rs2 s
  | .mul st rd rs1 rs2 => Sys2Proof.Machine.execMul st rd rs1 rs2 s
  | .mulh st rd rs1 rs2 => Sys2Proof.Machine.execMulh st rd rs1 rs2 s
  | .mulhu st rd rs1 rs2 => Sys2Proof.Machine.execMulhu st rd rs1 rs2 s
  | .div st rd rs1 rs2 => Sys2Proof.Machine.execDiv st rd rs1 rs2 s
  | .divu st rd rs1 rs2 => Sys2Proof.Machine.execDivu st rd rs1 rs2 s
  | .rem st rd rs1 rs2 => Sys2Proof.Machine.execRem st rd rs1 rs2 s
  | .remu st rd rs1 rs2 => Sys2Proof.Machine.execRemu st rd rs1 rs2 s
  | .bext st rd rs1 lo len1 => Sys2Proof.Machine.execBext st rd rs1 lo len1 s
  | .bins st rd rs1 lo len1 => Sys2Proof.Machine.execBins st rd rs1 lo len1 s
  | .addi st rd rs1 imm => Sys2Proof.Machine.execAddi st rd rs1 imm s
  | .andi st rd rs1 imm => Sys2Proof.Machine.execAndi st rd rs1 imm s
  | .ori st rd rs1 imm => Sys2Proof.Machine.execOri st rd rs1 imm s
  | .xori st rd rs1 imm => Sys2Proof.Machine.execXori st rd rs1 imm s
  | .slli st rd rs1 sh => Sys2Proof.Machine.execSlli st rd rs1 sh s
  | .srli st rd rs1 sh => Sys2Proof.Machine.execSrli st rd rs1 sh s
  | .srai st rd rs1 sh => Sys2Proof.Machine.execSrai st rd rs1 sh s
  | .clti st rd rs1 imm => Sys2Proof.Machine.execClti st rd rs1 imm s
  | .cltiu st rd rs1 imm => Sys2Proof.Machine.execCltiu st rd rs1 imm s
  | .addi32 st rd rs1 imm => Sys2Proof.Machine.execAddi32 st rd rs1 imm s
  | .immhi st rd imm => Sys2Proof.Machine.execImmhi st rd imm s
  | .pcofs st rd imm => Sys2Proof.Machine.execPcofs st rd imm s
  | .fadd st rd rs1 rs2 => Sys2Proof.Machine.execFadd st rd rs1 rs2 s
  | .fsub st rd rs1 rs2 => Sys2Proof.Machine.execFsub st rd rs1 rs2 s
  | .fmul st rd rs1 rs2 => Sys2Proof.Machine.execFmul st rd rs1 rs2 s
  | .fmin st rd rs1 rs2 => Sys2Proof.Machine.execFmin st rd rs1 rs2 s
  | .fmax st rd rs1 rs2 => Sys2Proof.Machine.execFmax st rd rs1 rs2 s
  | .feq st rd rs1 rs2 => Sys2Proof.Machine.execFeq st rd rs1 rs2 s
  | .flt st rd rs1 rs2 => Sys2Proof.Machine.execFlt st rd rs1 rs2 s
  | .fle st rd rs1 rs2 => Sys2Proof.Machine.execFle st rd rs1 rs2 s
  | .fclass st rd rs1 => Sys2Proof.Machine.execFclass st rd rs1 s
  | .fsign st rd rs1 rs2 => Sys2Proof.Machine.execFsign st rd rs1 rs2 s
  | .fdiv st rd rs1 rs2 => Sys2Proof.Machine.execFdiv st rd rs1 rs2 s
  | .fsqrt st rd rs1 => Sys2Proof.Machine.execFsqrt st rd rs1 s
  | .fabs st rd rs1 => Sys2Proof.Machine.execFabs st rd rs1 s
  | .fneg st rd rs1 => Sys2Proof.Machine.execFneg st rd rs1 s
  | .fcvt st rd rs1 k => Sys2Proof.Machine.execFcvt st rd rs1 k s
  | .fmadd st rd rs1 rs2 rs3 => Sys2Proof.Machine.execFmadd st rd rs1 rs2 rs3 s
  | .beq st rs1 rs2 off => Sys2Proof.Machine.execBeq st rs1 rs2 off s
  | .bne st rs1 rs2 off => Sys2Proof.Machine.execBne st rs1 rs2 off s
  | .blt st rs1 rs2 off => Sys2Proof.Machine.execBlt st rs1 rs2 off s
  | .bge st rs1 rs2 off => Sys2Proof.Machine.execBge st rs1 rs2 off s
  | .bltu st rs1 rs2 off => Sys2Proof.Machine.execBltu st rs1 rs2 off s
  | .bgeu st rs1 rs2 off => Sys2Proof.Machine.execBgeu st rs1 rs2 off s
  | .jal st rd off => Sys2Proof.Machine.execJal st rd off s
  | .jalr st rd rs1 imm => Sys2Proof.Machine.execJalr st rd rs1 imm s
  | .lb st rd rs1 imm => Sys2Proof.Machine.execLb st rd rs1 imm s
  | .lh st rd rs1 imm => Sys2Proof.Machine.execLh st rd rs1 imm s
  | .lw st rd rs1 imm => Sys2Proof.Machine.execLw st rd rs1 imm s
  | .ld st rd rs1 imm => Sys2Proof.Machine.execLd st rd rs1 imm s
  | .lbu st rd rs1 imm => Sys2Proof.Machine.execLbu st rd rs1 imm s
  | .lhu st rd rs1 imm => Sys2Proof.Machine.execLhu st rd rs1 imm s
  | .lwu st rd rs1 imm => Sys2Proof.Machine.execLwu st rd rs1 imm s
  | .ldx st rd rs1 ord scope uns size => Sys2Proof.Machine.execLdx st rd rs1 ord scope uns size s
  | .sb st rs1 rs2 imm => Sys2Proof.Machine.execSb st rs1 rs2 imm s
  | .sh st rs1 rs2 imm => Sys2Proof.Machine.execSh st rs1 rs2 imm s
  | .sw st rs1 rs2 imm => Sys2Proof.Machine.execSw st rs1 rs2 imm s
  | .sd st rs1 rs2 imm => Sys2Proof.Machine.execSd st rs1 rs2 imm s
  | .stx st rs1 rs2 ord scope size => Sys2Proof.Machine.execStx st rs1 rs2 ord scope size s
  | .amoadd st rd rs1 rs2 ord => Sys2Proof.Machine.execAmoadd st rd rs1 rs2 ord s
  | .amoaddw st rd rs1 rs2 ord => Sys2Proof.Machine.execAmoaddw st rd rs1 rs2 ord s
  | .amoand st rd rs1 rs2 ord => Sys2Proof.Machine.execAmoand st rd rs1 rs2 ord s
  | .amoandw st rd rs1 rs2 ord => Sys2Proof.Machine.execAmoandw st rd rs1 rs2 ord s
  | .amoor st rd rs1 rs2 ord => Sys2Proof.Machine.execAmoor st rd rs1 rs2 ord s
  | .amoorw st rd rs1 rs2 ord => Sys2Proof.Machine.execAmoorw st rd rs1 rs2 ord s
  | .amoxor st rd rs1 rs2 ord => Sys2Proof.Machine.execAmoxor st rd rs1 rs2 ord s
  | .amoxorw st rd rs1 rs2 ord => Sys2Proof.Machine.execAmoxorw st rd rs1 rs2 ord s
  | .amomin st rd rs1 rs2 ord => Sys2Proof.Machine.execAmomin st rd rs1 rs2 ord s
  | .amominw st rd rs1 rs2 ord => Sys2Proof.Machine.execAmominw st rd rs1 rs2 ord s
  | .amomax st rd rs1 rs2 ord => Sys2Proof.Machine.execAmomax st rd rs1 rs2 ord s
  | .amomaxw st rd rs1 rs2 ord => Sys2Proof.Machine.execAmomaxw st rd rs1 rs2 ord s
  | .amominu st rd rs1 rs2 ord => Sys2Proof.Machine.execAmominu st rd rs1 rs2 ord s
  | .amominuw st rd rs1 rs2 ord => Sys2Proof.Machine.execAmominuw st rd rs1 rs2 ord s
  | .amomaxu st rd rs1 rs2 ord => Sys2Proof.Machine.execAmomaxu st rd rs1 rs2 ord s
  | .amomaxuw st rd rs1 rs2 ord => Sys2Proof.Machine.execAmomaxuw st rd rs1 rs2 ord s
  | .amoswap st rd rs1 rs2 ord => Sys2Proof.Machine.execAmoswap st rd rs1 rs2 ord s
  | .amoswapw st rd rs1 rs2 ord => Sys2Proof.Machine.execAmoswapw st rd rs1 rs2 ord s
  | .amofadd st rd rs1 rs2 ord => Sys2Proof.Machine.execAmofadd st rd rs1 rs2 ord s
  | .cas st rd rs1 rs2 ord rs3 => Sys2Proof.Machine.execCas st rd rs1 rs2 ord rs3 s
  | .red st ord rs1 rs2 rop fcode => Sys2Proof.Machine.execRed st ord rs1 rs2 rop fcode s
  | .fence st rel acq scope => Sys2Proof.Machine.execFence st rel acq scope s
  | .cln st rs1 rs2 => Sys2Proof.Machine.execCln st rs1 rs2 s
  | .inv st rs1 rs2 => Sys2Proof.Machine.execInv st rs1 rs2 s
  | .waita st rd rs1 rs2 scope => Sys2Proof.Machine.execWaita st rd rs1 rs2 scope s
  | .ldf st rd rs1 ord => Sys2Proof.Machine.execLdf st rd rs1 ord s
  | .stf st rd rs1 rs2 ord => Sys2Proof.Machine.execStf st rd rs1 rs2 ord s
  | .spawn st rs1 rs2 => Sys2Proof.Machine.execSpawn st rs1 rs2 s
  | .endTask st => Sys2Proof.Machine.execEndTask st s
  | .park st rd rs1 rs2 => Sys2Proof.Machine.execPark st rd rs1 rs2 s
  | .yield st => Sys2Proof.Machine.execYield st s
  | .qput st rd rs1 rs2 => Sys2Proof.Machine.execQput st rd rs1 rs2 s
  | .cancel st rd rs1 => Sys2Proof.Machine.execCancel st rd rs1 s
  | .join st rd rs1 => Sys2Proof.Machine.execJoin st rd rs1 s
  | .leave st rd rs1 => Sys2Proof.Machine.execLeave st rd rs1 s
  | .bari st rd rs1 rs2 => Sys2Proof.Machine.execBari st rd rs1 rs2 s
  | .barv st rd rs1 scope => Sys2Proof.Machine.execBarv st rd rs1 scope s
  | .barw st rd rs1 rs2 => Sys2Proof.Machine.execBarw st rd rs1 rs2 s
  | .spawnb st rd rs1 rs2 => Sys2Proof.Machine.execSpawnb st rd rs1 rs2 s
  | .setbnd st rd rs1 inc => Sys2Proof.Machine.execSetbnd st rd rs1 inc s
  | .killpt st => Sys2Proof.Machine.execKillpt st s
  | .improve st rd rs1 inc => Sys2Proof.Machine.execImprove st rd rs1 inc s
  | .rdinc st rd inc acq hub => Sys2Proof.Machine.execRdinc st rd inc acq hub s
  | .incset st rd rs1 rs2 => Sys2Proof.Machine.execIncset st rd rs1 rs2 s
  | .hire st rd rs1 rs2 => Sys2Proof.Machine.execHire st rd rs1 rs2 s
  | .hgw st rs1 hg => Sys2Proof.Machine.execHgw st rs1 hg s
  | .hgr st rd hg => Sys2Proof.Machine.execHgr st rd hg s
  | .hwait st rd rs1 e => Sys2Proof.Machine.execHwait st rd rs1 e s
  | .hstat st rd rs1 => Sys2Proof.Machine.execHstat st rd rs1 s
  | .bind st rd rs1 rs2 => Sys2Proof.Machine.execBind st rd rs1 rs2 s
  | .unbind st rd rs1 rs2 => Sys2Proof.Machine.execUnbind st rd rs1 rs2 s
  | .burst st rs1 rs2 => Sys2Proof.Machine.execBurst st rs1 rs2 s
  | .cpwait st rd rs1 e => Sys2Proof.Machine.execCpwait st rd rs1 e s
  | .cpst st rd rs1 => Sys2Proof.Machine.execCpst st rd rs1 s
  | .ringsub st rd rs1 => Sys2Proof.Machine.execRingsub st rd rs1 s
  | .ringstop st rd rs1 => Sys2Proof.Machine.execRingstop st rd rs1 s
  | .mrowCopy st rd rs1 rs2 => Sys2Proof.Machine.execMrowCopy st rd rs1 rs2 s
  | .mrowZero st rd rs1 => Sys2Proof.Machine.execMrowZero st rd rs1 s
  | .lzput st rd rs1 rs2 => Sys2Proof.Machine.execLzput st rd rs1 rs2 s
  | .coll st rd rs1 => Sys2Proof.Machine.execColl st rd rs1 s
  | .vclaimTry st lmax lmin xd => Sys2Proof.Machine.execVclaimTry st lmax lmin xd s
  | .vclaimWait st lmax lmin xd => Sys2Proof.Machine.execVclaimWait st lmax lmin xd s
  | .vren st lmax lmin xd => Sys2Proof.Machine.execVren st lmax lmin xd s
  | .vrel st => Sys2Proof.Machine.execVrel st s
  | .vld st v xs1 mk sz => Sys2Proof.Machine.execVld st v xs1 mk sz s
  | .vlds st v xs1 xs2 mk sz => Sys2Proof.Machine.execVlds st v xs1 xs2 mk sz s
  | .vldx st v xs1 vi mk sz => Sys2Proof.Machine.execVldx st v xs1 vi mk sz s
  | .vst st v xs1 mk sz => Sys2Proof.Machine.execVst st v xs1 mk sz s
  | .vsts st v xs1 xs2 mk sz => Sys2Proof.Machine.execVsts st v xs1 xs2 mk sz s
  | .vstx st v xs1 vi mk sz => Sys2Proof.Machine.execVstx st v xs1 vi mk sz s
  | .vaddVv st vd vs1 vs2 mk => Sys2Proof.Machine.execVaddVv st vd vs1 vs2 mk s
  | .vaddVx st vd vs1 xs mk => Sys2Proof.Machine.execVaddVx st vd vs1 xs mk s
  | .vsubVv st vd vs1 vs2 mk => Sys2Proof.Machine.execVsubVv st vd vs1 vs2 mk s
  | .vsubVx st vd vs1 xs mk => Sys2Proof.Machine.execVsubVx st vd vs1 xs mk s
  | .vmulVv st vd vs1 vs2 mk => Sys2Proof.Machine.execVmulVv st vd vs1 vs2 mk s
  | .vmulVx st vd vs1 xs mk => Sys2Proof.Machine.execVmulVx st vd vs1 xs mk s
  | .vmulhVv st vd vs1 vs2 mk => Sys2Proof.Machine.execVmulhVv st vd vs1 vs2 mk s
  | .vmulhVx st vd vs1 xs mk => Sys2Proof.Machine.execVmulhVx st vd vs1 xs mk s
  | .vminVv st vd vs1 vs2 mk => Sys2Proof.Machine.execVminVv st vd vs1 vs2 mk s
  | .vminVx st vd vs1 xs mk => Sys2Proof.Machine.execVminVx st vd vs1 xs mk s
  | .vmaxVv st vd vs1 vs2 mk => Sys2Proof.Machine.execVmaxVv st vd vs1 vs2 mk s
  | .vmaxVx st vd vs1 xs mk => Sys2Proof.Machine.execVmaxVx st vd vs1 xs mk s
  | .vminuVv st vd vs1 vs2 mk => Sys2Proof.Machine.execVminuVv st vd vs1 vs2 mk s
  | .vminuVx st vd vs1 xs mk => Sys2Proof.Machine.execVminuVx st vd vs1 xs mk s
  | .vmaxuVv st vd vs1 vs2 mk => Sys2Proof.Machine.execVmaxuVv st vd vs1 vs2 mk s
  | .vmaxuVx st vd vs1 xs mk => Sys2Proof.Machine.execVmaxuVx st vd vs1 xs mk s
  | .vandVv st vd vs1 vs2 mk => Sys2Proof.Machine.execVandVv st vd vs1 vs2 mk s
  | .vandVx st vd vs1 xs mk => Sys2Proof.Machine.execVandVx st vd vs1 xs mk s
  | .vorVv st vd vs1 vs2 mk => Sys2Proof.Machine.execVorVv st vd vs1 vs2 mk s
  | .vorVx st vd vs1 xs mk => Sys2Proof.Machine.execVorVx st vd vs1 xs mk s
  | .vxorVv st vd vs1 vs2 mk => Sys2Proof.Machine.execVxorVv st vd vs1 vs2 mk s
  | .vxorVx st vd vs1 xs mk => Sys2Proof.Machine.execVxorVx st vd vs1 xs mk s
  | .vsllVv st vd vs1 vs2 mk => Sys2Proof.Machine.execVsllVv st vd vs1 vs2 mk s
  | .vsllVx st vd vs1 xs mk => Sys2Proof.Machine.execVsllVx st vd vs1 xs mk s
  | .vsrlVv st vd vs1 vs2 mk => Sys2Proof.Machine.execVsrlVv st vd vs1 vs2 mk s
  | .vsrlVx st vd vs1 xs mk => Sys2Proof.Machine.execVsrlVx st vd vs1 xs mk s
  | .vsraVv st vd vs1 vs2 mk => Sys2Proof.Machine.execVsraVv st vd vs1 vs2 mk s
  | .vsraVx st vd vs1 xs mk => Sys2Proof.Machine.execVsraVx st vd vs1 xs mk s
  | .vfaddVv st vd vs1 vs2 mk => Sys2Proof.Machine.execVfaddVv st vd vs1 vs2 mk s
  | .vfaddVx st vd vs1 xs mk => Sys2Proof.Machine.execVfaddVx st vd vs1 xs mk s
  | .vfsubVv st vd vs1 vs2 mk => Sys2Proof.Machine.execVfsubVv st vd vs1 vs2 mk s
  | .vfsubVx st vd vs1 xs mk => Sys2Proof.Machine.execVfsubVx st vd vs1 xs mk s
  | .vfmulVv st vd vs1 vs2 mk => Sys2Proof.Machine.execVfmulVv st vd vs1 vs2 mk s
  | .vfmulVx st vd vs1 xs mk => Sys2Proof.Machine.execVfmulVx st vd vs1 xs mk s
  | .vfmaVv st vd vs1 vs2 mk => Sys2Proof.Machine.execVfmaVv st vd vs1 vs2 mk s
  | .vfmaVx st vd vs1 xs mk => Sys2Proof.Machine.execVfmaVx st vd vs1 xs mk s
  | .vfnmaVv st vd vs1 vs2 mk => Sys2Proof.Machine.execVfnmaVv st vd vs1 vs2 mk s
  | .vfnmaVx st vd vs1 xs mk => Sys2Proof.Machine.execVfnmaVx st vd vs1 xs mk s
  | .vfminVv st vd vs1 vs2 mk => Sys2Proof.Machine.execVfminVv st vd vs1 vs2 mk s
  | .vfminVx st vd vs1 xs mk => Sys2Proof.Machine.execVfminVx st vd vs1 xs mk s
  | .vfmaxVv st vd vs1 vs2 mk => Sys2Proof.Machine.execVfmaxVv st vd vs1 vs2 mk s
  | .vfmaxVx st vd vs1 xs mk => Sys2Proof.Machine.execVfmaxVx st vd vs1 xs mk s
  | .vcmpVv st kd vs1 vs2 mk cc => Sys2Proof.Machine.execVcmpVv st kd vs1 vs2 mk cc s
  | .vcmpVx st kd vs1 xs mk cc => Sys2Proof.Machine.execVcmpVx st kd vs1 xs mk cc s
  | .vselVv st vd vs1 vs2 mk => Sys2Proof.Machine.execVselVv st vd vs1 vs2 mk s
  | .vselVx st vd vs1 xs mk => Sys2Proof.Machine.execVselVx st vd vs1 xs mk s
  | .vmand st kd ka kb => Sys2Proof.Machine.execVmand st kd ka kb s
  | .vmor st kd ka kb => Sys2Proof.Machine.execVmor st kd ka kb s
  | .vperm st vd vs1 vs2 mk => Sys2Proof.Machine.execVperm st vd vs1 vs2 mk s
  | .vslide st vd vs1 xs mk => Sys2Proof.Machine.execVslide st vd vs1 xs mk s
  | .vbcast st vd xs mk => Sys2Proof.Machine.execVbcast st vd xs mk s
  | .vmvxv st vd xs => Sys2Proof.Machine.execVmvxv st vd xs s
  | .vmvvx st vs1 xd => Sys2Proof.Machine.execVmvvx st vs1 xd s
  | .vred st vd vs1 mk rop => Sys2Proof.Machine.execVred st vd vs1 mk rop s
  | .vexp2 st vd vs1 mk => Sys2Proof.Machine.execVexp2 st vd vs1 mk s
  | .vlog2 st vd vs1 mk => Sys2Proof.Machine.execVlog2 st vd vs1 mk s
  | .vrcp st vd vs1 mk => Sys2Proof.Machine.execVrcp st vd vs1 mk s
  | .vrsq st vd vs1 mk => Sys2Proof.Machine.execVrsq st vd vs1 mk s
  | .vsqrt st vd vs1 mk => Sys2Proof.Machine.execVsqrt st vd vs1 mk s
  | .vcvt st vd vs1 xs mk src dst => Sys2Proof.Machine.execVcvt st vd vs1 xs mk src dst s
  | .fmt fa fb fd sc rm sat amax => Sys2Proof.Machine.execFmt fa fb fd sc rm sat amax s
  | .waalloc st xs wa => Sys2Proof.Machine.execWaalloc st xs wa s
  | .wafree st wa => Sys2Proof.Machine.execWafree st wa s
  | .waset st xs wa => Sys2Proof.Machine.execWaset st xs wa s
  | .wapush st vs1 w => Sys2Proof.Machine.execWapush st vs1 w s
  | .waread st vd w => Sys2Proof.Machine.execWaread st vd w s
  | .waclr st wa => Sys2Proof.Machine.execWaclr st wa s
  | .kvhome st rd rs1 rs2 => Sys2Proof.Machine.execKvhome st rd rs1 rs2 s
  | .stub st rd rs1 rs2 => Sys2Proof.Machine.execStub st rd rs1 rs2 s
  | .migrate st rs1 rs2 => Sys2Proof.Machine.execMigrate st rs1 rs2 s
  | .vsgn st vd vs1 mk => Sys2Proof.Machine.execVsgn st vd vs1 mk s
  | .vham st kd vs1 vs2 mk r => Sys2Proof.Machine.execVham st kd vs1 vs2 mk r s
  | .vdec st rd rs1 rs2 => Sys2Proof.Machine.execVdec st rd rs1 rs2 s
  | .vdstat st rd rs1 e => Sys2Proof.Machine.execVdstat st rd rs1 e s
  | .csrr st rd num => Sys2Proof.Machine.execCsrr st rd num s
  | .csrw st rd rs1 num => Sys2Proof.Machine.execCsrw st rd rs1 num s
  | .csrs st rd rs1 num => Sys2Proof.Machine.execCsrs st rd rs1 num s
  | .csrc st rd rs1 num => Sys2Proof.Machine.execCsrc st rd rs1 num s
  | .trap st code => Sys2Proof.Machine.execTrap st code s
  | .eret st => Sys2Proof.Machine.execEret st s
  | .brk st code => Sys2Proof.Machine.execBrk st code s
  | .ifence st rs1 => Sys2Proof.Machine.execIfence st rs1 s
  | .ovld st rd rs1 => Sys2Proof.Machine.execOvld st rd rs1 s
  | .lwait st rd rs1 => Sys2Proof.Machine.execLwait st rd rs1 s
  | .resume st rd rs1 rs2 => Sys2Proof.Machine.execResume st rd rs1 rs2 s
  | .tkill st rd rs1 rs2 => Sys2Proof.Machine.execTkill st rd rs1 rs2 s
  | .drain core => Sys2Proof.Machine.execDrain core s
  | .answer core home => Sys2Proof.Machine.execAnswer core home s
  | .perform agent home => Sys2Proof.Machine.execPerform agent home s
  | .respond home agent => Sys2Proof.Machine.execRespond home agent s
  | .evict core line => Sys2Proof.Machine.execEvict core line s
  | .drop portion line => Sys2Proof.Machine.execDrop portion line s
  | .engineIssue agent => Sys2Proof.Machine.execEngineIssue agent s
  | .engineEvent agent => Sys2Proof.Machine.execEngineEvent agent s
  | .barrierAdjust agent home => Sys2Proof.Machine.execBarrierAdjust agent home s
  | .futureWithdraw agent home => Sys2Proof.Machine.execFutureWithdraw agent home s
  | .qtailWrite queue value => Sys2Proof.Machine.execQtailWrite queue value s
  | .launchTake queue => Sys2Proof.Machine.execLaunchTake queue s
  | .launchStart queue => Sys2Proof.Machine.execLaunchStart queue s
  | .taskMessageSend die => Sys2Proof.Machine.execTaskMessageSend die s
  | .messageResend agent => Sys2Proof.Machine.execMessageResend agent s
  | .completionRecordWrite launch => Sys2Proof.Machine.execCompletionRecordWrite launch s
  | .cancelMark die => Sys2Proof.Machine.execCancelMark die s
  | .cancelArrive core launch => Sys2Proof.Machine.execCancelArrive core launch s
  | .messageArrive msg => Sys2Proof.Machine.execMessageArrive msg s
  | .rehomeHint hint => Sys2Proof.Machine.execRehomeHint hint s
  | .contextAllocate core => Sys2Proof.Machine.execContextAllocate core s
  | .coreReconfigure core => Sys2Proof.Machine.execCoreReconfigure core s
  | .rqageExpire core => Sys2Proof.Machine.execRqageExpire core s
  | .agePromotion core ctx => Sys2Proof.Machine.execAgePromotion core ctx s
  | .runQueueScrub core => Sys2Proof.Machine.execRunQueueScrub core s
  | .overflowScrub die => Sys2Proof.Machine.execOverflowScrub die s
  | .incumbentBroadcast shadow bcast => Sys2Proof.Machine.execIncumbentBroadcast shadow bcast s
  | .shadowUnbind shadow => Sys2Proof.Machine.execShadowUnbind shadow s
  | .shadowStateInstall shadow => Sys2Proof.Machine.execShadowStateInstall shadow s
  | .shadowLag shadow inc => Sys2Proof.Machine.execShadowLag shadow inc s
  | .hireAdmit array agent => Sys2Proof.Machine.execHireAdmit array agent s
  | .operandPush core => Sys2Proof.Machine.execOperandPush core s
  | .hireReady array entry => Sys2Proof.Machine.execHireReady array entry s
  | .arrayStart array => Sys2Proof.Machine.execArrayStart array s
  | .hireComputeEnd array => Sys2Proof.Machine.execHireComputeEnd array s
  | .hireLanding array => Sys2Proof.Machine.execHireLanding array s
  | .landingArrive array => Sys2Proof.Machine.execLandingArrive array s
  | .chainIdleExpire array bank => Sys2Proof.Machine.execChainIdleExpire array bank s
  | .bindStore array => Sys2Proof.Machine.execBindStore array s
  | .unbindPerform array agent => Sys2Proof.Machine.execUnbindPerform array agent s
  | .arrayCool array => Sys2Proof.Machine.execArrayCool array s
  | .burstArrive array agent => Sys2Proof.Machine.execBurstArrive array agent s
  | .warmHoldExpire array => Sys2Proof.Machine.execWarmHoldExpire array s
  | .translationWalk slice asid va => Sys2Proof.Machine.execTranslationWalk slice asid va s
  | .leaseExpire slice asid page => Sys2Proof.Machine.execLeaseExpire slice asid page s
  | .leaseRenew agent => Sys2Proof.Machine.execLeaseRenew agent s
  | .l1LeaseWriteback core line => Sys2Proof.Machine.execL1LeaseWriteback core line s
  | .skewCompare die unit measured => Sys2Proof.Machine.execSkewCompare die unit measured s
  | .lhznRead core ctx => Sys2Proof.Machine.execLhznRead core ctx s
  | .dtimeRead core ctx => Sys2Proof.Machine.execDtimeRead core ctx s
  | .dlcfgWrite core value => Sys2Proof.Machine.execDlcfgWrite core value s
  | .dirtyLogMerge octant => Sys2Proof.Machine.execDirtyLogMerge octant s
  | .harvest octant value => Sys2Proof.Machine.execHarvest octant value s
  | .harvestDone octant => Sys2Proof.Machine.execHarvestDone octant s
  | .cpgoRead core ctx => Sys2Proof.Machine.execCpgoRead core ctx s
  | .copyStart agent => Sys2Proof.Machine.execCopyStart agent s
  | .ringSlot stack ring => Sys2Proof.Machine.execRingSlot stack ring s
  | .ringCounterReread stack ring => Sys2Proof.Machine.execRingCounterReread stack ring s
  | .mrowStart agent => Sys2Proof.Machine.execMrowStart agent s
  | .rcp stack src dst => Sys2Proof.Machine.execRcp stack src dst s
  | .rzf stack dst => Sys2Proof.Machine.execRzf stack dst s
  | .rbr stack row => Sys2Proof.Machine.execRbr stack row s
  | .rbw stack row => Sys2Proof.Machine.execRbw stack row s
  | .zoneContribution agent home => Sys2Proof.Machine.execZoneContribution agent home s
  | .zoneReadout stack zone => Sys2Proof.Machine.execZoneReadout stack zone s
  | .collStart agent => Sys2Proof.Machine.execCollStart agent s
  | .collTimeout agent => Sys2Proof.Machine.execCollTimeout agent s
  | .collComplete agent srcs => Sys2Proof.Machine.execCollComplete agent srcs s
  | .decodeJobStart engine => Sys2Proof.Machine.execDecodeJobStart engine s
  | .frameDecode engine => Sys2Proof.Machine.execFrameDecode engine s
  | .frameStatus engine => Sys2Proof.Machine.execFrameStatus engine s
  | .decodeRingReread engine => Sys2Proof.Machine.execDecodeRingReread engine s
  | .faultRecordWrite asid => Sys2Proof.Machine.execFaultRecordWrite asid s
  | .heldRecordWrite core => Sys2Proof.Machine.execHeldRecordWrite core s
  | .watchdog core ctx => Sys2Proof.Machine.execWatchdog core ctx s
  | .correctedError die unit index => Sys2Proof.Machine.execCorrectedError die unit index s
  | .uncorrectableError die unit index detail => Sys2Proof.Machine.execUncorrectableError die unit index detail s
  | .preemption core => Sys2Proof.Machine.execPreemption core s
  | .launchResume core => Sys2Proof.Machine.execLaunchResume core s
  | .lwaitWake core ctx => Sys2Proof.Machine.execLwaitWake core ctx s
  | .governorWindow average => Sys2Proof.Machine.execGovernorWindow average s
  | .linkChange port up => Sys2Proof.Machine.execLinkChange port up s
  | .flitReplay port => Sys2Proof.Machine.execFlitReplay port s
  | .fabricPacketArrive module epoch seq src kind addr size data => Sys2Proof.Machine.execFabricPacketArrive module epoch seq src kind addr size data s
  | .fabricAck module epoch seq => Sys2Proof.Machine.execFabricAck module epoch seq s
  | .fabricResend module seq port => Sys2Proof.Machine.execFabricResend module seq port s
  | .sessionFail module => Sys2Proof.Machine.execSessionFail module s
  | .fabsyncRead => Sys2Proof.Machine.execFabsyncRead s
  | .fabctlWrite value => Sys2Proof.Machine.execFabctlWrite value s
  | .timePacketSend die => Sys2Proof.Machine.execTimePacketSend die s
  | .timePacketArrive die offset => Sys2Proof.Machine.execTimePacketArrive die offset s
  | .timeHoldover die => Sys2Proof.Machine.execTimeHoldover die s
  | .cxlMemRead pa size => Sys2Proof.Machine.execCxlMemRead pa size s
  | .cxlMemWrite pa data => Sys2Proof.Machine.execCxlMemWrite pa data s
  | .cxlIoAccess pa size write data => Sys2Proof.Machine.execCxlIoAccess pa size write data s
  | .moduleReset => Sys2Proof.Machine.execModuleReset s
  | .fwGo value => Sys2Proof.Machine.execFwGo value s
  | .fwCommit value => Sys2Proof.Machine.execFwCommit value s
  | .fwCheckDone => Sys2Proof.Machine.execFwCheckDone s
  | .dismaskWrite die reg value => Sys2Proof.Machine.execDismaskWrite die reg value s
  | .dismaskRead die reg => Sys2Proof.Machine.execDismaskRead die reg s
  | .skewclr die value => Sys2Proof.Machine.execSkewclr die value s
  | .lagclr die value => Sys2Proof.Machine.execLagclr die value s
  | .spdmVersion req => Sys2Proof.Machine.execSpdmVersion req s
  | .spdmCapabilities req => Sys2Proof.Machine.execSpdmCapabilities req s
  | .spdmAlgorithms req => Sys2Proof.Machine.execSpdmAlgorithms req s
  | .spdmDigests req => Sys2Proof.Machine.execSpdmDigests req s
  | .spdmCertificate req => Sys2Proof.Machine.execSpdmCertificate req s
  | .challenge req => Sys2Proof.Machine.execChallenge req s
  | .spdmMeasurements req => Sys2Proof.Machine.execSpdmMeasurements req s
  | .keyExchange req => Sys2Proof.Machine.execKeyExchange req s
  | .finish req => Sys2Proof.Machine.execFinish req s
  | .keyUpdate req => Sys2Proof.Machine.execKeyUpdate req s
  | .endSession req => Sys2Proof.Machine.execEndSession req s
  | .deviceRegisterWrite pa value => Sys2Proof.Machine.execDeviceRegisterWrite pa value s
  | .illegalEncoding word => Sys2Proof.Machine.execIllegalEncoding word s
  | .hostApertureCompletion id data => Sys2Proof.Machine.execHostApertureCompletion id data s
  | .snoop addr => Sys2Proof.Machine.execSnoop addr s
  | .cxlLinkTraining width rate => Sys2Proof.Machine.execCxlLinkTraining width rate s
  | .ideKeyProgramming stream key => Sys2Proof.Machine.execIdeKeyProgramming stream key s
  | .deviceRegisterRead pa => Sys2Proof.Machine.execDeviceRegisterRead pa s

end Sys2Proof.Machine
end

