-- ==== Sys2Proof/Machine/Schedule.lean ====
section
/-!
DEFINITION. Sys2Proof/Machine/Schedule.lean: which step the machine takes (R139, R140, R154, R155) and how a core fetches
(R91, R97, R444). The agenda of the state holds the picks to take; with an empty agenda a fixed order of steps is taken
(assumption log 1).
-/
namespace Sys2Proof.Machine

/-- A ready context issues the instruction at its pc: a trap that has waited for results is taken (R102), a poisoned context or word
traps (R444, R460), a word that is no instruction traps (R95, R97), any other runs. -/
def State.issueFrom (s : State) (c k : Nat) : Out1 :=
  let s := s.atIssue c k
  let t := s.cur
  let w := s.wordAt c t
  match t.wait with
  | .trap _ cause info fb epc insn => .next (s.trapNow c k cause info fb epc insn).slotLost
  | _ =>
    if t.poisoned then .next ((s.updCur (fun t => { t with poisoned := false })).trapCur 0x13 1 0).slotLost
    else if s.fetchPoison c t then .next (s.trapAt c k 0x13 2 0 t.pc.toNat 0).slotLost
    else
      match decodeWord w.toNat with
      | .ok i => exec i s
      | .illegal => execIllegalEncoding w s
      | .reserved => .next (s.reservedWord w)

/-- Whether a ready context is held at its issue. -/
def State.issueHeld (s : State) (c k : Nat) : Bool :=
  match s.issueFrom c k with
  | .next t => decide (t = s.atIssue c k)
  | _ => false

/-- The context that core `c` chooses in this cycle (R140): the first that is not held; none while the core is being pre-empted
(R463). -/
def State.chosenCtx (s : State) (c : Nat) : Option Nat :=
  if s.wantsCore c then none else (s.issueOrder c).find? (fun k => !s.issueHeld c k)

/-- Whether a context is to issue an instruction that is offered to the vector pool (R250): VMEM, VINT, VFP, VMISC, VSFU or VCVT. -/
def State.offers (s : State) (c k : Nat) : Bool :=
  let t := s.ctx c k
  let op := bitsOf (s.wordAt c t).toNat 28 23
  !t.poisoned && !s.fetchPoison c t && 0x31 ≤ op && op ≤ 0x36

/-- Whether the offer of a core's context comes before that of another core (R250). -/
def Ctx.offersBefore (t : Ctx) (c : Nat) (u : Ctx) (d : Nat) : Bool := u.age < t.age || (u.age == t.age && c < d)

/-- Whether it is the turn of a context at the vector pool of its octant: every core whose offer of this cycle comes before its own
has issued (R250). -/
def State.poolTurn (s : State) (c k : Nat) : Bool :=
  !s.offers c k ||
    (natsFrom (c / 8 * 8) 8).all (fun d =>
      d == c || (match s.chosenCtx d with
        | some j => !(s.offers d j && (s.ctx d j).offersBefore d (s.ctx c k) c)
        | none => true))

/-- Whether context `k` is the one that core `c` issues from (R139, R140, R250): it is ready, every ready context that comes before
it is held, and it is its turn at the vector pool. A core that is being pre-empted issues nothing (R463). -/
def State.mayIssue (s : State) (c k : Nat) : Bool :=
  s.ready c k && ((s.issueOrder c).takeWhile (· != k)).all (s.issueHeld c) && s.poolTurn c k && !s.wantsCore c

/-- An issue from a context that an interlock or a wait holds, or whose turn it is not, leaves the machine as it was. -/
def State.tryIssue (s : State) (c k : Nat) : Out1 :=
  if s.poolTurn c k && !s.wantsCore c then
    match s.issueFrom c k with
    | .next t => .next (if t = s.atIssue c k then s else t)
    | o => o
  else .next s

/-! ### Time (R6, R34, R139, R356, R357) -/

/-- Whether the device performs a request within its lease itself: one that goes to another module or to device registers
may have to wait there. -/
def Req.timed (r : Req) : Bool :=
  match r.home with
  | .remote _ => false
  | .device _ => false
  | _ => true

/-- Whether a request may still wait when its die's time is `now`. -/
def Req.inTime (r : Req) (now : Nat → Nat) : Bool :=
  match r.exp with
  | some e => !r.timed || now (agentDie r.agent) < e
  | none => true

/-- Whether a line of L1(c) may still be held when its die's time is `now` (R356). -/
def L1Line.inTime (l : L1Line) (now : Nat) : Bool := !l.isDirty || now + 2000 ≤ l.exp

/-- Whether a hire's reservation is current when its array's time is `now`: every lease until its landing begins (R308), one of class
0, held as one of class 1 and renewed every 2 µs, until its landing ends (R361), and a landing's writes appended within its 3,000 ns
(R314). A die in skew mode grants no lease (R364). -/
def State.hireInTime (s : State) (h : Hire) (now : Nat) : Bool :=
  s.skew.has (agentDie (.array h.arrayId)) ||
    (Map.vals h.leases).all (fun t => if t.once then now + 2000 ≤ t.exp else h.state == 0x05 || now < t.exp) &&
      (h.todo.isEmpty || h.landBy.all (fun b => now < b))

/-- Whether time may reach `now`: no request would pass the end of its lease (R357), no dirty line its limit (R356), and no
reservation that of its array (R308). One that is past it already does not hold time back. -/
def State.timeFree (s : State) (now : Nat → Nat) : Bool :=
  let req := fun (r : Req) => r.inTime now || !r.inTime s.timeOf
  s.chans.all (fun c => c.reqs.all req) &&
    s.cores.all (fun e => e.2.oq.all req &&
      e.2.l1.all (fun l => l.inTime (now (dieOf e.1)) || !l.inTime (s.timeOf (dieOf e.1)))) &&
    s.hires.all (fun h =>
      let d := agentDie (.array h.arrayId)
      s.hireInTime h (now d) || !s.hireInTime h (s.timeOf d))

/-- The age of a context after some cycles (R139): it counts those since the context became ready or last issued; one that waits, or
that an interlock or a unit holds, is not ready. -/
def State.grow (s : State) (cycles : Nat) (c k : Nat) (t : Ctx) : Ctx :=
  let s' := { s with cycle := s.cycle + cycles }
  if s'.readyTask c t && !s'.issueHeld c k then
    (if (s.core c).chosen.isSome then t else { t with age := t.age + (s'.cycle - max s.cycle t.readyAt) })
  else { t with age := 0, promoted := false }

/-- What cycles leave at the cores: the ages of their contexts (R139), and when a task last lived there (R148). -/
def State.growAges (s : State) (cycles : Nat) : State :=
  { s with cores := s.cores.map (fun e =>
      (e.1, { e.2 with
        lastLive := if e.2.live then s.cycle + cycles else e.2.lastLive
        ctxs := e.2.ctxs.map (fun x => (x.1, s.grow cycles e.1 x.1 x.2)) })) }

/-- Whether a step changes the state. -/
def State.moves (s : State) (f : State → Out1) : Bool :=
  match f s with
  | .next t => !decide ({ t with curCore := s.curCore, curCtx := s.curCtx } = s)
  | _ => false

/-- Whether a ready context may stay unissued for more cycles: its age stays within AGELIM.LIM, or its core has issued in the one
cycle that passes (R148), or is being pre-empted (R463). -/
def State.mayAge (s : State) (cycles c k : Nat) (t : Ctx) : Bool :=
  let h := s.core c
  !(s.readyTask c t && !s.issueHeld c k) || t.age + cycles ≤ h.agelim.toNat % 2 ^ 16 || (h.issuedAt == some s.cycle && cycles == 1) ||
    s.wantsCore c

/-- Whether the entries of a core may wait for more cycles: it has a task, or each has waited at most RQAGE cycles since the last one
was there, or none can be given a context now (R148). -/
def State.mayQueue (s : State) (cycles c : Nat) (h : HomeCore) : Bool :=
  h.live || h.runq.all (fun f => s.cycle + cycles ≤ max f.since h.lastLive + 65536) ||
    !([execContextAllocate c, execCoreReconfigure c, execLaunchResume c].any s.moves)

/-- Whether cycles may pass without an issue or an allocation (R148). -/
def State.cyclesFree (s : State) (cycles : Nat) : Bool :=
  s.cores.all (fun e => e.2.ctxs.all (fun x => s.mayAge cycles e.1 x.1 x.2) && s.mayQueue cycles e.1 e.2)

/-- Time passes, unless a request, a line or a lease has first to reach its home or be renewed, or a context or an entry is due. -/
def State.tick (s : State) (cycles : Nat) (ns : List Nat) : State :=
  if s.timeFree (fun d => s.timeOf d + nth 0 ns d) && s.cyclesFree cycles then
    let s := s.growAges cycles
    { s with cycle := s.cycle + cycles, time := (natsFrom 0 4).map (fun d => (d, s.timeOf d + nth 0 ns d)) }
  else s

/-- Takes one pick. -/
def State.takePick (s : State) : Pick → Out1
  | .issue c k => if s.mayIssue c k then s.issueFrom c k else .next s
  | .event i => exec i s
  | .tick cycles ns => .next (s.tick cycles ns)

/-! ### The pick of an empty agenda (R155; assumption log 1) -/

/-- A step that may be taken. -/
abbrev Step : Type := State → Out1

/-- Whether a core holds anything that moves. -/
def HomeCore.active (h : HomeCore) : Bool :=
  !(h.ctxs.isEmpty && h.oq.isEmpty && h.runq.isEmpty && h.ovf.isEmpty && h.chosen.isNone && h.copies.isEmpty)

/-- The issues and the steps of core `c` that may be enabled. -/
def State.corePicks (s : State) (c : Nat) : List Step :=
  let h := s.core c
  if !h.active then []
  else
    let issue := (s.issueOrder c).map (fun k => fun (s : State) => s.tryIssue c k)
    let live := (h.ctxs.filter (fun (e : Nat × Ctx) => e.2.phase != .free)).map (·.1)
    issue ++ [execDrain c, execContextAllocate c, execCoreReconfigure c, execRunQueueScrub c, execPreemption c] ++
      live.flatMap (fun k => [execLwaitWake c k, execWatchdog c k])

/-- The steps of core `c`'s copy channels. -/
def State.copyPicks (s : State) (c : Nat) : List Step :=
  (s.core c).copies.keys.flatMap (fun k =>
    [execCopyStart (.copyCh c k), execEngineEvent (.copyCh c k), execEngineIssue (.copyCh c k)])

/-- The steps that the hires, the held fault records and the saved tasks of cores may take. -/
def State.heldPicks (s : State) : List Step :=
  s.hires.map (fun h => execOperandPush h.core) ++ s.heldFaults.map (fun f => execHeldRecordWrite f.core) ++
    s.saves.map (fun r => execLaunchResume r.core)

/-- The next shadow that has not acknowledged. -/
def nextShadow (acked : NatSet) : Nat := (findIdx (fun i => !NatSet.has acked i) (natsFrom 0 shadowCount)).getD 0

/-- The steps of the ordering machine, messages, launches and records that may be enabled. -/
def State.movePicks (s : State) : List Step :=
  s.chans.map (fun c => execPerform c.agent c.home) ++ s.rchans.map (fun c => execRespond c.home c.agent) ++
    (natsFrom 0 s.msgs.length).map (fun i => execMessageArrive i) ++
    s.msgs.map (fun f => execMessageResend f.holder) ++
    (natsFrom 0 s.hints.length).map (fun i => execRehomeHint i) ++ s.fabsyncs.map (fun _ => execFabsyncRead) ++
    s.faults.map (fun f => execFaultRecordWrite f.asid) ++
    (natsFrom 0 4).flatMap (fun d => [execCancelMark d, execTaskMessageSend d, execOverflowScrub d]) ++
    s.launches.flatMap (fun (e : Nat × Launch) =>
      if e.2.cancelled && e.2.status.isNone then (maskCores e.2.mask).map (fun c => execCancelArrive c e.1) else []) ++
    s.launches.keys.map (fun l => execCompletionRecordWrite l) ++
    (natsFrom 0 256).flatMap (fun q => if s.qen q then [execLaunchTake q] else []) ++
    s.launches.keys.map (fun l => execLaunchStart ((s.launch? l).map (·.queue) |>.getD 0)) ++
    (natsFrom 0 s.bcasts.length).map (fun b =>
      execIncumbentBroadcast (nextShadow (nth ⟨0, 0, 0, []⟩ s.bcasts b).acked) b)

/-- The row commands of the first open row of an operation. -/
def State.rowPicks (s : State) (u : Nat) (o : BdeOp) : List Step :=
  match (natsFrom 0 (64 * o.pages)).find? (fun i => s.rowOpen u o i && o.rowClass i != .xfer) with
  | none => []
  | some i =>
    let dst := o.dstRow i / 1024
    let src := o.srcRow i / 1024
    match o.rowClass i with
    | .zero => [execRzf (stackOf (dst * 1024)) dst]
    | .sub => [execRcp (stackOf (dst * 1024)) src dst]
    | _ => [execRbr (stackOf (src * 1024)) src, execRbw (stackOf (dst * 1024)) dst]

/-- The steps of the dense arrays, the base-die engines, the decoders and the octant agents that may be enabled. -/
def State.unitPicks (s : State) : List Step :=
  s.arrays.flatMap (fun (e : Nat × ArrayUnit) =>
    (e.2.arrivals.flatMap (fun id => match s.hires.find? (fun h => h.hid == id) with
      | some h => [execHireAdmit e.1 (.core h.core)]
      | none => [])) ++
    (natsFrom 0 e.2.queue.length).map (fun i => execHireReady e.1 i) ++
    e.2.unbinds.map (fun u => execUnbindPerform e.1 (.core u.core)) ++
    e.2.bursts.map (fun b => execBurstArrive e.1 (.core b.1)) ++
    [execArrayStart e.1, execBindStore e.1, execHireComputeEnd e.1, execHireLanding e.1,
      execEngineIssue (.array e.1), execEngineEvent (.array e.1), execLandingArrive e.1, execWarmHoldExpire e.1,
      execArrayCool e.1] ++ (natsFrom 0 e.2.chains.length).map (fun i => execChainIdleExpire e.1 i)) ++
    s.bdes.flatMap (fun (e : Nat × Bde) =>
      e.2.chans.keys.flatMap (fun ch => [execMrowStart (.bde e.1 ch), execCollStart (.bde e.1 ch),
        execEngineIssue (.bde e.1 ch), execEngineEvent (.bde e.1 ch), execCollTimeout (.bde e.1 ch)]) ++
      e.2.rings.keys.flatMap (fun r => [execRingSlot e.1 r, execEngineIssue (.ring e.1 r),
        execEngineEvent (.ring e.1 r), execRingCounterReread e.1 r]) ++
      e.2.chans.flatMap (fun (c : Nat × BdeChan) => match c.2.queue.head? with | some o => s.rowPicks e.1 o | none => []) ++
      e.2.zones.keys.map (fun z => execZoneReadout e.1 z) ++
      [execEngineIssue (.zone e.1), execEngineEvent (.zone e.1)]) ++
    s.videos.keys.flatMap (fun v => [execDecodeJobStart v, execFrameDecode v, execFrameStatus v, execDecodeRingReread v]) ++
    s.octs.keys.flatMap (fun o => [execDirtyLogMerge o, execHarvestDone o])

/-- The shadows' parts of an `incset` in progress that may be enabled. -/
def State.shadowPicks (s : State) : List Step :=
  s.incsets.flatMap (fun (e : Nat × IncSet) =>
    [execShadowUnbind (nextShadow e.2.acked), execShadowStateInstall (nextShadow e.2.acked)])

/-- The write-backs of L1 lines and the renewals of reservations that hold time back. -/
def State.backPicks (s : State) : List Step :=
  s.cores.flatMap (fun (e : Nat × HomeCore) =>
    (natsFrom 0 e.2.l1.length).map (fun i => execL1LeaseWriteback e.1 i)) ++
    s.arrays.keys.map (fun a => execLeaseRenew (.array a))

/-- The evictions and drops that may occur at any time (R154, R155). -/
def State.cachePicks (s : State) : List Step :=
  s.cores.flatMap (fun (e : Nat × HomeCore) => (natsFrom 0 e.2.l1.length).map (fun i => execEvict e.1 i)) ++
    s.rdc.flatMap (fun (e : Nat × List RdcLine) => (natsFrom 0 e.2.length).map (fun i => execDrop e.1 i))

/-- One cycle of the cores' clock passes, as fast as PWRAVG.CLK says (R6, R35, R36). -/
def State.oneCycle (s : State) : State :=
  let mhz := s.regBits (devBase 0 + 0x00D00218) 31 16
  let ns := 1000 * (s.cycle + 1) / mhz - 1000 * s.cycle / mhz
  s.tick 1 [ns, ns, ns, ns]

/-- The steps that the machine takes when nothing else waits: by a free choice one of the evictions and drops, or a cycle. -/
def State.idle (s : State) : Out1 :=
  let (k, s) := s.freeChoice
  match (if k = 0 then none else s.cachePicks[k - 1]?) with
  | some f => f s
  | none => .next s.oneCycle

/-- The step of an empty agenda: the first one that changes the state; when there is none, an idle one. Time that is held back
lets the dirty lines and the renewals go first. -/
def State.defaultStep (s : State) : Out1 :=
  match (s.cores.keys.flatMap s.corePicks ++ s.heldPicks ++ s.movePicks ++ s.cores.keys.flatMap s.copyPicks ++ s.unitPicks ++
      s.shadowPicks).find? s.moves with
  | some f => f s
  | none =>
    if s.oneCycle = s then (match s.backPicks.find? s.moves with | some f => f s | none => .next s) else s.idle

/-- Stores a word as the next instruction of context 0 of core 0, which the next step issues. -/
def State.placeWord (s : State) (w : Nat) : State :=
  let t := s.ctx 0 0
  let word := t.pc.toNat / 4
  let s := s.updCore 0 (fun h =>
    { h with istore := h.istore.set word (BitVec.ofNat 32 w), istorePoison := NatSet.del h.istorePoison word, issuedAt := none })
  let s := s.setCtx 0 0 { t with phase := .running, wait := .none, readyAt := 0, window := [], reclaim := false, poisoned := false }
  { s with agenda := .issue 0 0 :: s.agenda }

end Sys2Proof.Machine
end

