-- ==== Sys2Proof/Machine/Step.lean ====
section
/-!
DEFINITION. Sys2Proof/Machine/Step.lean: one step of the module, and placing an instruction where the next step runs it.
-/
namespace Sys2Proof.Machine

/-- One step (R154): the first pick of the agenda, or the step of an empty agenda. -/
def step (s : State) : Host.Outcome State Fault Refusal :=
  match s.agenda with
  | p :: rest => { s with agenda := rest }.takePick p
  | [] => s.defaultStep

/-- The state with an instruction of `nbits` bits stored where the next step fetches (assumption log 15). -/
def State.withFetchWord (s : State) (nbits w : Nat) : State := s.placeWord (w % 2 ^ nbits % 2 ^ 32)

end Sys2Proof.Machine
end

