-- ==== Sys2Proof/Safety.lean ====
section
/-!
DEFINITION. Sys2Proof/Safety.lean: what counts as a safe step of the module, and the words in which claims about instructions
are stated: when a task can run an instruction, and what an instruction that has been performed leaves.
-/
namespace Sys2Proof.Machine

/-! ### Safe steps -/

/-- The next state of an outcome. -/
def nextOf (o : Host.Outcome State Fault Refusal) : Option State :=
  match o with
  | .next s => some s
  | _ => none

/-- A step is safe when it answers a next state. -/
def State.SafeStep (s : State) : Prop := ∃ t, step s = .next t

/-- A run of `n` steps is safe when every step of it is. -/
def State.SafeFor (s : State) : Nat → Prop
  | 0 => True
  | n + 1 => ∃ t, step s = .next t ∧ State.SafeFor t n

/-! ### What an instruction finds -/

/-- The task at issue can run an instruction: no result of it is outstanding (R100), and it waits for nothing (R102). -/
structure State.Calm (s : State) : Prop where
  pend    : s.cur.pend = []
  var     : s.cur.var = []
  wait    : s.cur.wait = .none
  running : s.cur.phase = .running

/-- A calm task with PP = 0, in which an instruction that is no target of a prefix can run as well (R104). -/
structure State.Plain (s : State) : Prop extends s.Calm where
  pp : s.cur.pp = false

/-- `X(i)` of the task at issue (R106). -/
def State.X (s : State) (i : Nat) : W64 := s.cur.readX i

/-! ### What an instruction leaves -/

/-- The state with a value in register `rd` of the task at issue, in the bank that the task names; x0 discards it (R106, R108). -/
def State.putX (s : State) (rd : Nat) (v : W64) : State := s.updCur (fun t => t.put (.x t.bank rd) (.word v))

/-- The state once every fixed-latency result of the task at issue has reached its register (R101). -/
def State.settled (s : State) : State := s.updCur Ctx.settle

/-- An instruction of stall count `st` has been performed in `s` and left `t` (R91, R99, R101): once its fixed-latency
results have reached their registers, `t` is `w`, the state with the effects of the instruction itself, but for the pc of the task
at issue, its fetch window, the cycle from which it may issue again, which a task that parks does not count its stall count for
(R102), its age, what it had captured while it waited at its issue, and the issue count of its core. -/
def State.Performed (s t : State) (st next : Nat) (w : State) : Prop :=
  t.settled =
    (w.updCur (fun u =>
      { u with pc := BitVec.ofNat 16 next, window := t.cur.window,
               readyAt := s.cycle + (if u.phase = .parked then 0 else st) + 1, hiring := none, age := 0, promoted := false })).slotUsed

/-- An instruction that writes `v` to register `rd`, and nothing else, has been performed: the registers of the task, every
byte of HBM and of the scratchpads, and everything else of the module are as they were. -/
structure State.XResult (s t : State) (st rd : Nat) (v : W64) : Prop where
  value     : rd ≠ 0 → t.settled.X rd = v
  others    : ∀ i, i ≠ rd → t.settled.X i = s.X i
  hbm       : ∀ a, Memory.byte t.mem a = Memory.byte s.mem a
  spads     : ∀ c a, Memory.byte (t.core c).spad a = Memory.byte (s.core c).spad a
  performed : s.Performed t st (nextPc s.cur.pc) (s.putX rd v)

/-- Instruction `i` of stall count `st` runs in `s` and has been performed: the pc goes on at `next`, and the state is otherwise
`w`. -/
def State.Completes (s : State) (i : Instr) (st next : Nat) (w : State) : Prop :=
  ∃ t, exec i s = .next t ∧ s.Performed t st next w

/-- Instruction `i` traps in `s` (R105, R444): no effect of it happens. `consumed` says that a prefix pending for it is spent. -/
def State.Traps (s : State) (i : Instr) (consumed : Bool) (cause info : Nat) (fb : W64) : Prop :=
  exec i s = .next (s.takeTrap consumed cause info fb)

/-- Instruction `i`, which the vector pool has accepted (R250), traps in `s`: its lanes are taken in this cycle, and no effect of it happens
(R105, R444). -/
def State.PoolTraps (s : State) (i : Instr) (consumed : Bool) (cause info : Nat) (fb : W64) : Prop :=
  exec i s = .next (s.poolTake.takeTrap consumed cause info fb)

/-- Instruction `i` of stall count `st` runs in `s`, writes `v` to register `rd`, and does nothing else. -/
def State.Computes (s : State) (i : Instr) (st rd : Nat) (v : W64) : Prop := ∃ t, exec i s = .next t ∧ s.XResult t st rd v

/-! ### The forms of memory accesses -/

/-- The state in which the task at issue waits for register `rd` to be written by an answer (R100). -/
def State.owing (s : State) (rd : Nat) : State :=
  s.updCur (fun t => if rd = 0 then t else { t with var := [.x t.bank rd] })

/-- What a load asks for (R195, R198, R200). -/
structure LoadForm where
  st     : Nat
  rd     : Nat
  n      : Nat
  signed : Bool
  scope  : Scope
  acq    : Bool
  va     : W64
  deriving DecidableEq, Repr

/-- The loads. -/
def State.loadForm (s : State) : Instr → Option LoadForm
  | .lb st rd rs1 imm => some ⟨st, rd, 1, true, .core, false, s.X rs1 + imm.signExtend 64⟩
  | .lh st rd rs1 imm => some ⟨st, rd, 2, true, .core, false, s.X rs1 + imm.signExtend 64⟩
  | .lw st rd rs1 imm => some ⟨st, rd, 4, true, .core, false, s.X rs1 + imm.signExtend 64⟩
  | .ld st rd rs1 imm => some ⟨st, rd, 8, true, .core, false, s.X rs1 + imm.signExtend 64⟩
  | .lbu st rd rs1 imm => some ⟨st, rd, 1, false, .core, false, s.X rs1 + imm.signExtend 64⟩
  | .lhu st rd rs1 imm => some ⟨st, rd, 2, false, .core, false, s.X rs1 + imm.signExtend 64⟩
  | .lwu st rd rs1 imm => some ⟨st, rd, 4, false, .core, false, s.X rs1 + imm.signExtend 64⟩
  | .ldx st rd rs1 ord scope uns size =>
    some ⟨st, rd, 2 ^ size.val, uns == 0, Scope.ofBits scope, ord == 1, s.X rs1⟩
  | _ => none

/-- What a store asks for (R195, R198, R200). -/
structure StoreForm where
  st    : Nat
  n     : Nat
  scope : Scope
  rel   : Bool
  va    : W64
  val   : W64
  deriving DecidableEq, Repr

/-- The stores. -/
def State.storeForm (s : State) : Instr → Option StoreForm
  | .sb st rs1 rs2 imm => some ⟨st, 1, .core, false, s.X rs1 + imm.signExtend 64, s.X rs2⟩
  | .sh st rs1 rs2 imm => some ⟨st, 2, .core, false, s.X rs1 + imm.signExtend 64, s.X rs2⟩
  | .sw st rs1 rs2 imm => some ⟨st, 4, .core, false, s.X rs1 + imm.signExtend 64, s.X rs2⟩
  | .sd st rs1 rs2 imm => some ⟨st, 8, .core, false, s.X rs1 + imm.signExtend 64, s.X rs2⟩
  | .stx st rs1 rs2 ord scope size => some ⟨st, 2 ^ size.val, Scope.ofBits scope, ord == 1, s.X rs1, s.X rs2⟩
  | _ => none

/-- What a read-modify-write asks for (R237 to R239): the bytes `n`, how the old value is extended, and the new value that the
home writes for an old one, or none. -/
structure RmwForm where
  st     : Nat
  rd     : Nat
  n      : Nat
  signed : Bool
  ord    : Nat
  va     : W64
  op     : HomeOp
  deriving DecidableEq, Repr

/-- The atomics and `cas`. -/
def State.rmwForm (s : State) : Instr → Option RmwForm
  | .amoadd st rd rs1 rs2 ord => some ⟨st, rd, 8, false, ord, s.X rs1, .amo .add (s.X rs2)⟩
  | .amoaddw st rd rs1 rs2 ord => some ⟨st, rd, 4, true, ord, s.X rs1, .amo .add (s.X rs2)⟩
  | .amoand st rd rs1 rs2 ord => some ⟨st, rd, 8, false, ord, s.X rs1, .amo .and (s.X rs2)⟩
  | .amoandw st rd rs1 rs2 ord => some ⟨st, rd, 4, true, ord, s.X rs1, .amo .and (s.X rs2)⟩
  | .amoor st rd rs1 rs2 ord => some ⟨st, rd, 8, false, ord, s.X rs1, .amo .or (s.X rs2)⟩
  | .amoorw st rd rs1 rs2 ord => some ⟨st, rd, 4, true, ord, s.X rs1, .amo .or (s.X rs2)⟩
  | .amoxor st rd rs1 rs2 ord => some ⟨st, rd, 8, false, ord, s.X rs1, .amo .xor (s.X rs2)⟩
  | .amoxorw st rd rs1 rs2 ord => some ⟨st, rd, 4, true, ord, s.X rs1, .amo .xor (s.X rs2)⟩
  | .amomin st rd rs1 rs2 ord => some ⟨st, rd, 8, false, ord, s.X rs1, .amo .min (s.X rs2)⟩
  | .amominw st rd rs1 rs2 ord => some ⟨st, rd, 4, true, ord, s.X rs1, .amo .min (s.X rs2)⟩
  | .amomax st rd rs1 rs2 ord => some ⟨st, rd, 8, false, ord, s.X rs1, .amo .max (s.X rs2)⟩
  | .amomaxw st rd rs1 rs2 ord => some ⟨st, rd, 4, true, ord, s.X rs1, .amo .max (s.X rs2)⟩
  | .amominu st rd rs1 rs2 ord => some ⟨st, rd, 8, false, ord, s.X rs1, .amo .minu (s.X rs2)⟩
  | .amominuw st rd rs1 rs2 ord => some ⟨st, rd, 4, true, ord, s.X rs1, .amo .minu (s.X rs2)⟩
  | .amomaxu st rd rs1 rs2 ord => some ⟨st, rd, 8, false, ord, s.X rs1, .amo .maxu (s.X rs2)⟩
  | .amomaxuw st rd rs1 rs2 ord => some ⟨st, rd, 4, true, ord, s.X rs1, .amo .maxu (s.X rs2)⟩
  | .amoswap st rd rs1 rs2 ord => some ⟨st, rd, 8, false, ord, s.X rs1, .amo .swap (s.X rs2)⟩
  | .amoswapw st rd rs1 rs2 ord => some ⟨st, rd, 4, true, ord, s.X rs1, .amo .swap (s.X rs2)⟩
  | .amofadd st rd rs1 rs2 ord => some ⟨st, rd, 4, false, ord, s.X rs1, .amo .fadd (s.X rs2)⟩
  | .cas st rd rs1 rs2 ord rs3 => some ⟨st, rd, 8, false, ord, s.X rs1, .cas (s.X rs3) (s.X rs2)⟩
  | _ => none

/-- The access of `n` bytes at `va` lies in the task's own scratchpad at offset `off`, and no running copy holds it back (R106,
R149, R386). -/
structure State.OwnAccess (s : State) (va n off : Nat) : Prop where
  aligned : va % n = 0
  window  : placeOf va = .own off
  inside  : off < s.here.spsize
  free    : s.belowWatermark s.curCore s.cur.asid va n = false

/-- The access lies in the scratchpad of `core` through the other-core window. -/
structure State.OtherAccess (s : State) (va n core off : Nat) : Prop where
  aligned : va % n = 0
  window  : placeOf va = .other core off
  allowed : core ≤ 1535 ∧ s.inMask s.cur core = true
  free    : s.belowWatermark s.curCore s.cur.asid va n = false

/-- The access is to be translated. -/
structure State.GlobalAccess (s : State) (va n : Nat) : Prop where
  aligned : va % n = 0
  window  : placeOf va = .global
  canon   : canonical va = true
  free    : s.belowWatermark s.curCore s.cur.asid va n = false

/-! ### What holds an instruction back -/

/-- A plain task that no cancel and no bound ends at a kill point (R146, R339). -/
structure State.Alive (s : State) : Prop extends s.Plain where
  killed : s.cur.killed = false
  bound  : s.here.boundFails s.cur = false

/-- The gate of a release at a scope is open (R165): no request of the task at issue is outstanding, and at die scope or wider no
write of its core is, and no line of its L1 is dirty. -/
structure State.Open (s : State) (sc : Scope) : Prop where
  own    : ∀ o ∈ s.here.out, ¬(o.own = true ∧ o.req.ctx = s.curCtx ∧ o.req.uid = s.cur.uid)
  writes : sc.wide = true → ∀ o ∈ s.here.out, o.write = false
  lines  : sc.wide = true → ∀ l ∈ s.here.l1, l.isDirty = false

/-- The gate that an optional release raises is open. -/
def State.OpenFor (s : State) (sc : Option Scope) : Prop := ∀ x, sc = some x → s.Open x

/-! ### Futures, groups and barriers -/

/-- The state in which the task at issue waits for register `rd` and for STATUS.FUT to be written by an answer (R243, R244). -/
def State.owingFuture (s : State) (rd : Nat) : State :=
  s.updCur (fun t => { t with var := .fut :: (if rd = 0 then [] else [.x t.bank rd]) })

/-- What an instruction asks the home of an object for (R229 to R232, R243, R244). -/
structure ObjectForm where
  st    : Nat
  rd    : Nat
  /-- The bytes of the object, of which its address is a multiple. -/
  n     : Nat
  /-- Whether the address must admit writes, and whether a release of the core waits for the request as for a write. -/
  write : Bool
  gated : Bool
  rel   : Option Scope
  scope : Scope
  acq   : Option Scope
  va    : W64
  op    : HomeOp
  dest  : Dest
  deriving DecidableEq, Repr

/-- The instructions on groups and barriers. -/
def State.objectForm (s : State) : Instr → Option ObjectForm
  | .join st rd rs1 =>
    some ⟨st, rd, 64, false, true, none, .core, none, s.X rs1, .join, .group (.x s.cur.bank rd) (s.X rs1).toNat true⟩
  | .leave st rd rs1 =>
    some ⟨st, rd, 64, false, true, none, .core, none, s.X rs1, .leave, .group (.x s.cur.bank rd) (s.X rs1).toNat false⟩
  | .bari st rd rs1 rs2 =>
    let core := bitsOf (s.X rs2).toNat 46 36
    some ⟨st, rd, 128, false, true, some .package, .package, none, s.X rs1,
      .bari (s.X rs2) (core ≤ 1535 && s.inMask s.cur core) s.cur.job s.cur.launch, .value (.x s.cur.bank rd) 8 false⟩
  | .barv st rd rs1 scope =>
    some ⟨st, rd, 128, false, true, some (Scope.ofBits scope), Scope.ofBits scope, none, s.X rs1, .barv, .value (.x s.cur.bank rd) 8 false⟩
  | .barw st rd rs1 rs2 =>
    some ⟨st, rd, 128, false, false, none, .core, none, s.X rs1, .barw (w64 ((s.X rs2).toNat % 2 ^ 32)), .answer (.x s.cur.bank rd)⟩
  | _ => none

/-- The instructions on futures. -/
def State.futureForm (s : State) : Instr → Option ObjectForm
  | .ldf st rd rs1 ord =>
    some ⟨st, rd, 16, false, true, none, (ordAcquire ord).getD .core, ordAcquire ord, s.X rs1, .ldf, .future (.x s.cur.bank rd)⟩
  | .stf st rd rs1 rs2 ord =>
    some ⟨st, rd, 16, true, true, ordRelease ord, (ordRelease ord).getD .core, none, s.X rs1, .stf (s.X rs2), .future (.x s.cur.bank rd)⟩
  | _ => none

/-- Request `q` is the last of the outbound queue of the core at issue, with these fields. -/
def State.Sent (s : State) (op : HomeOp) (home : Home) (addr size : Nat) (dest : Dest) : Prop :=
  ∃ q, s.here.oq.getLast? = some q ∧ q.op = op ∧ q.home = home ∧ q.addr = addr ∧ q.size = size ∧ q.dest = dest ∧
    q.agent = .core s.curCore ∧ q.ctx = s.curCtx ∧ q.uid = s.cur.uid ∧ q.asid = s.cur.asid

/-! ### Requests at their homes -/

/-- Request `r` is the next of its channel (R153, R154), nothing at its home holds it back, and the lease of its translation has
not ended (R357); a packet has been translated where it was received (R477). -/
structure State.Front (s : State) (r : Req) : Prop where
  head  : (s.chan r.agent r.home).head? = some r
  free  : s.mayPerform r.home r = true
  lease : ∀ e, r.exp = some e → r.isPacket = true ∨ s.timeOf (agentDie r.agent) < e

/-- No line that an L2 slice holds clean hides what a row command has written beneath it (R20, R392). -/
def State.L2True (s : State) : Prop := ∀ k e, s.l2.find? k = some e → e.dirty = false → e.under = none

/-- The state once request `r` has left its channel. -/
def State.taken (s : State) (r : Req) : State := { s with chans := popReq s.chans r.agent r.home }

/-- PERFORM of request `r` leaves `t` (R154). -/
def State.Performing (s : State) (r : Req) (t : State) : Prop := exec (.perform r.agent r.home) s = .next t

/-- Answer `x` is the last of the response channel of its home and its agent (R153). -/
def State.Answered (s : State) (x : Resp) : Prop := (s.rchan x.req.home x.req.agent).getLast? = some x

/-- A checked object of `n` bytes in the scratchpad of the task at issue, at offset `off` (R217). -/
structure State.OwnObject (s : State) (va n off : Nat) : Prop where
  window  : placeOf va = .own off
  aligned : va % n = 0
  inside  : off + n ≤ s.here.spsize

/-- What an object of `n` bytes that is to lie in the own scratchpad traps with, in the order of its checks (R217). -/
def State.OwnObjectTraps (s : State) (i : Instr) (va : W64) (n : Nat) : Prop :=
  ((∀ off, placeOf va.toNat ≠ .own off) → s.Traps i false 0x11 0 va) ∧
  (∀ off, placeOf va.toNat = .own off → va.toNat % n ≠ 0 → s.Traps i false 0x04 0 va) ∧
  (∀ off, placeOf va.toNat = .own off → va.toNat % n = 0 → s.here.spsize < off + n → s.Traps i false 0x14 0 va)

/-- Word `i` of the object at offset `off` of the scratchpad of the task at issue. -/
def State.spWord (s : State) (off i : Nat) : W64 := w64 (leNat (Memory.bytes s.here.spad (off + 8 * i) 8))

/-- No byte of the object at offset `off` is poisoned. -/
def State.spClean (s : State) (off n : Nat) : Prop := ∀ j, off ≤ j → j < off + n → NatSet.has s.here.spadPoison j = false

/-- A tile or a map of `extent` bytes stands in the own scratchpad at `va` (R299, R322). -/
def State.TileOk (s : State) (va : W64) (align extent : Nat) : Prop :=
  ∃ off, placeOf va.toNat = .own off ∧ va.toNat % align = 0 ∧ off + extent ≤ s.here.spsize

/-- The instruction waits at issue in `s`: it leaves its pc, its registers and memory as they are, and is issued again later. -/
def State.Holds (s : State) (i : Instr) : Prop :=
  ∃ t, exec i s = .next t ∧ t.cur.pc = s.cur.pc ∧ (∀ r, t.X r = s.X r) ∧ t.mem = s.mem ∧ t.here.oq = s.here.oq ∧
    t.cur.wait.held = true

/-! ### Vector instructions (R246 to R271) -/

/-- The task at issue holds a claim, and its pool takes the instruction in this cycle (R246, R250). -/
structure State.Claimed (s : State) : Prop where
  claim : s.cur.claim.isSome = true
  pool  : s.poolFits = true

/-- Lane `l` of V(i) of the task at issue. -/
def State.lane (s : State) (i l : Nat) : W32 := nth 0 (s.cur.readV i) l

/-- Bit `l` of K(j) of the task at issue. -/
def State.bit (s : State) (j l : Nat) : Bool := nth false (s.cur.readK j) l

/-- Whether an instruction with mask `mk` acts on lane `l` (R106). -/
def State.acts (s : State) (mk l : Nat) : Prop := mk = 0 ∨ s.bit mk l = true

/-- The lanes on which an instruction with mask `mk` acts, rising. -/
def State.acting (s : State) (mk : Nat) : List Nat := (List.range s.cur.lanes).filter (fun l => mk == 0 || s.bit mk l)

/-- A lane instruction that gives its destination the lanes `v`, and does nothing else but what leads from `s` to `w`, has been
performed: every other register and every mask is as it was. -/
structure State.LaneResult (s t : State) (st vd : Nat) (v : Nat → W32) (w : State) : Prop where
  value     : ∀ l, l < s.cur.lanes → t.settled.lane vd l = v l
  others    : ∀ i l, i ≠ vd → t.settled.lane i l = s.lane i l
  masks     : ∀ j l, t.settled.bit j l = s.bit j l
  regs      : ∀ i, t.settled.X i = s.X i
  performed : s.Performed t st (nextPc s.cur.pc)
    (w.poolTake.updCur (fun u => u.put (.v vd) (.lanes ((List.range s.cur.lanes).map v))))

/-- Instruction `i` runs in `s` and gives the lanes of `vd` on which mask `mk` acts the values `v`; the other lanes keep theirs
(R257). -/
def State.Lanewise (s : State) (i : Instr) (st vd mk : Nat) (v : Nat → W32) (w : State) : Prop :=
  ∃ t f, exec i s = .next t ∧ s.LaneResult t st vd f w ∧ (∀ l, s.acts mk l → f l = v l) ∧ (∀ l, ¬s.acts mk l → f l = s.lane vd l)

/-- A mask instruction has been performed: it gives mask register `kd` the bits `b`. -/
def State.Maskwise (s : State) (i : Instr) (st kd : Nat) (b : Nat → Bool) : Prop :=
  ∃ t, exec i s = .next t ∧ (∀ l, l < s.cur.lanes → t.settled.bit kd l = b l) ∧ (∀ j l, j ≠ kd → t.settled.bit j l = s.bit j l) ∧
    (∀ v l, t.settled.lane v l = s.lane v l) ∧ (∀ r, t.settled.X r = s.X r) ∧
    s.Performed t st (nextPc s.cur.pc)
      (s.poolTake.updCur (fun u => u.put (.k kd) (.mask ((List.range s.cur.lanes).map b))))

/-- The rounding of a task at issue (R258): STATUS.RM, or what a prefix of format code 0 asks for. -/
def State.Rounds (s : State) (r : Rounding) : Prop :=
  (s.cur.pp = false ∧ r = ⟨Fp.Rm.ofBits s.cur.rm, false, false⟩) ∨
    (s.cur.pp = true ∧ s.cur.pfx.fa = 0 ∧ s.cur.pfx.fb = 0 ∧ s.cur.pfx.fd = 0 ∧ s.cur.pfx.sc = 0 ∧
      r = ⟨Fp.Rm.ofBits s.cur.pfx.rm, s.cur.pfx.sa == 1, s.cur.pfx.am == 1⟩)

/-- The state in which results have been folded into AMAX, when `am` says so, and the prefix is spent (R61, R104). -/
def State.folded (s : State) (am : Bool) (vs : List Fp.Exact) : State := s.updCur (fun u => (u.fold am vs).setPp false)

/-- The instructions that need a claim, with the mark of the targets of a prefix (R104, R256). -/
def laneInstr : Instr → Option Bool
  | .vren .. | .vld .. | .vlds .. | .vldx .. | .vst .. | .vsts .. | .vstx .. => some false
  | .vaddVv .. | .vaddVx .. | .vsubVv .. | .vsubVx .. | .vmulVv .. | .vmulVx .. | .vmulhVv .. | .vmulhVx .. => some false
  | .vminVv .. | .vminVx .. | .vmaxVv .. | .vmaxVx .. | .vminuVv .. | .vminuVx .. | .vmaxuVv .. | .vmaxuVx .. => some false
  | .vandVv .. | .vandVx .. | .vorVv .. | .vorVx .. | .vxorVv .. | .vxorVx .. => some false
  | .vsllVv .. | .vsllVx .. | .vsrlVv .. | .vsrlVx .. | .vsraVv .. | .vsraVx .. => some false
  | .vfaddVv .. | .vfaddVx .. | .vfsubVv .. | .vfsubVx .. | .vfmulVv .. | .vfmulVx .. => some true
  | .vfmaVv .. | .vfmaVx .. | .vfnmaVv .. | .vfnmaVx .. | .vfminVv .. | .vfminVx .. | .vfmaxVv .. | .vfmaxVx .. => some true
  | .vcmpVv .. | .vcmpVx .. | .vselVv .. | .vselVx .. | .vmand .. | .vmor .. | .vperm .. | .vslide .. => some false
  | .vbcast .. | .vmvxv .. | .vmvvx .. => some false
  | .vred .. | .vexp2 .. | .vlog2 .. | .vrcp .. | .vrsq .. | .vsqrt .. => some true
  | _ => none

/-! ### Hires (R304, R305, R315, R322) -/

/-- Instruction `i` takes the lowest slot that is NONE or final for the checked hire `h`, which goes to its array, and gives the
ticket in `rd`; without a slot the task parks with what the hire has captured (R293, R294, R306, R322). -/
structure State.TakesSlot (s : State) (i : Instr) (rd : Nat) (h : Hire) : Prop where
  takes : ∀ slot, slot < 8 → s.cur.slotFree slot = true → (∀ j, j < slot → s.cur.slotFree j = false) →
    ∃ (t : State) (q : Hire), exec i s = .next t ∧ t.hires = s.hires ++ [q] ∧
      q = { h with hid := s.nextId, slot := slot, arr := q.arr } ∧ (h.arr ≠ 0xFF → q.arr = h.arr) ∧
      (h.arr = 0xFF → (q.arr < 36 ∧ s.arrayOff (arrayId s.die q.arr) = false) ∨
        (q.arr = 0xFF ∧ ∀ n, n < 36 → s.arrayOff (arrayId s.die n) = true)) ∧
      (t.array q.arrayId).arrivals.getLast? = some s.nextId ∧ t.cur.hires.find? slot = some ⟨s.nextId, none⟩ ∧
      t.cur.hiring = none ∧ (rd ≠ 0 → t.X rd = w64 (s.curCtx * 8 + slot)) ∧ (∀ r, r ≠ rd → t.X r = s.X r) ∧
      t.cur.pc = s.cur.pc + 4 ∧ t.mem = s.mem ∧ t.here.spad = s.here.spad
  parks : (∀ slot, slot < 8 → s.cur.slotFree slot = false) →
    ∃ t, exec i s = .next t ∧ t.cur.hiring = some h ∧ t.cur.wait = .cond ∧ t.cur.phase = .parked ∧ t.cur.pc = s.cur.pc ∧
      (∀ r, t.X r = s.X r) ∧ t.mem = s.mem ∧ t.here.oq = s.here.oq

/-- Hire `h` of `s` has reached final state `state` with `detail` in `t`: it works no more, and the slot of its master, where the
master still holds it, keeps the status word. -/
structure State.Ended (s t : State) (h : Hire) (state detail : Nat) : Prop where
  gone : t.hire? h.hid = none
  slot : ∀ e, (s.ctx h.core h.ctx).uid = h.uid → (s.ctx h.core h.ctx).phase ≠ .free →
    (s.ctx h.core h.ctx).hires.find? h.slot = some e → e.hid = h.hid →
    ∃ w : W64, (t.ctx h.core h.ctx).hires.find? h.slot = some ⟨h.hid, some w⟩ ∧ w.toNat % 256 = state ∧ w.toNat / 2 ^ 8 % 256 = detail

/-! ### Checks before issue (R100, R104, R105) -/

/-- The targets of a prefix (R104). -/
def prefixTarget : Instr → Bool
  | .fadd .. | .fsub .. | .fmul .. | .fmin .. | .fmax .. | .feq .. | .flt .. | .fle .. | .fclass .. | .fsign .. => true
  | .fdiv .. | .fsqrt .. | .fabs .. | .fneg .. | .fcvt .. | .fmadd .. | .vcvt .. => true
  | i => laneInstr i == some true

/-- The instructions that run in supervisor mode alone (R204, R347, R453, R454), with the INFO of their trap. -/
def supervisorOnly : Instr → Option Nat
  | .csrr _ _ n => if csrSup n then some n else none
  | .csrw _ _ _ n => if csrSup n then some n else none
  | .csrs _ _ _ n => if csrSup n then some n else none
  | .csrc _ _ _ n => if csrSup n then some n else none
  | .incset .. => some 0
  | .resume .. => some 0
  | .tkill .. => some 0
  | _ => none

/-- The cause codes that a task's own handler may take (R445). -/
def inTask (cause info : Nat) : Prop :=
  cause ≠ 0x10 ∧ cause ≠ 0x30 ∧ (cause = 0x11 → info % 2 ^ 15 ≠ 4 ∧ info % 2 ^ 15 ≠ 5) ∧ (cause = 0x13 → info = 0)

/-! ### The form of memory -/

/-- Every memory of the module is in its canonical form: addresses strictly rising, no zero listed. -/
structure State.MemoryForm (s : State) : Prop where
  hbm   : Memory.wf s.mem = true
  spads : ∀ e ∈ s.cores, Memory.wf e.2.spad = true
  saved : ∀ r ∈ s.saves, Memory.wf r.spad = true

end Sys2Proof.Machine
end

