-- ==== Sys2Proof/Certificates/Slice0/Obligations.lean ====
section
/-!
DEFINITION. Sys2Proof/Certificates/Slice0/Obligations.lean: the statements about the module, one definition for each.
-/
open Sys2Proof Sys2Proof.Machine

/-! ### The scalar instructions (R182 to R194) -/

/-- R184: the ALU, ALU32 and MULDIV instructions complete in every task that can run them, write these results, and change
nothing else. `ext32` and `ext32z` are the two forms of `ext`, `cond` is the condition of R183.
R183: the condition that each value of cc names.
R185, R186, R187: the results of the immediate, shift-immediate and bit-field instructions, and that `bins` leaves a task
that waits for rd or rs1 as it is. -/
def Obligations.ScalarResults : Prop :=
  (∀ (s : State), s.Plain → ∀ (st : Fin 8) (rd rs1 rs2 : Fin 32),
     let a := s.X rs1
     let b := s.X rs2
     let n := b.toNat
     s.Computes (.add st rd rs1 rs2) st rd (w64 (a.toNat + b.toNat)) ∧
     s.Computes (.sub st rd rs1 rs2) st rd (BitVec.ofInt 64 (a.toNat - b.toNat)) ∧
     s.Computes (.and st rd rs1 rs2) st rd (a &&& b) ∧
     s.Computes (.or st rd rs1 rs2) st rd (a ||| b) ∧
     s.Computes (.xor st rd rs1 rs2) st rd (a ^^^ b) ∧
     s.Computes (.sll st rd rs1 rs2) st rd (if 64 ≤ n then 0 else w64 (a.toNat * 2 ^ n)) ∧
     s.Computes (.srl st rd rs1 rs2) st rd (if 64 ≤ n then 0 else w64 (a.toNat / 2 ^ n)) ∧
     s.Computes (.sra st rd rs1 rs2) st rd (BitVec.ofInt 64 (a.toInt / 2 ^ min n 63)) ∧
     s.Computes (.min st rd rs1 rs2) st rd (if a.toInt ≤ b.toInt then a else b) ∧
     s.Computes (.max st rd rs1 rs2) st rd (if a.toInt ≤ b.toInt then b else a) ∧
     s.Computes (.minu st rd rs1 rs2) st rd (if a.toNat ≤ b.toNat then a else b) ∧
     s.Computes (.maxu st rd rs1 rs2) st rd (if a.toNat ≤ b.toNat then b else a) ∧
     (∃ z : Nat, s.Computes (.clz st rd rs1) st rd (w64 z) ∧ z ≤ 64 ∧
       (∀ i, 64 - z ≤ i → a.getLsbD i = false) ∧ (z < 64 → a.getLsbD (63 - z) = true)) ∧
     (∃ z : Nat, s.Computes (.ctz st rd rs1) st rd (w64 z) ∧ z ≤ 64 ∧
       (∀ i, i < z → a.getLsbD i = false) ∧ (z < 64 → a.getLsbD z = true)) ∧
     s.Computes (.popc st rd rs1) st rd (w64 ((List.range 64).countP (fun i => a.getLsbD i))) ∧
     (∀ cc : Fin 8, s.Computes (.cset st rd rs1 rs2 cc) st rd (if Machine.cond cc a b then 1 else 0)) ∧
     (∀ cc : Fin 8, s.Computes (.csetm st rd rs1 rs2 cc) st rd (if Machine.cond cc a b then 0xFFFFFFFFFFFFFFFF else 0)) ∧
     s.Computes (.add32 st rd rs1 rs2) st rd (ext32 (a + b)) ∧
     s.Computes (.sub32 st rd rs1 rs2) st rd (ext32 (a - b)) ∧
     s.Computes (.sll32 st rd rs1 rs2) st rd (ext32 (if 32 ≤ n then 0 else w64 (a.toNat % 2 ^ 32 * 2 ^ n))) ∧
     s.Computes (.srl32 st rd rs1 rs2) st rd (ext32 (if 32 ≤ n then 0 else w64 (a.toNat % 2 ^ 32 / 2 ^ n))) ∧
     s.Computes (.sra32 st rd rs1 rs2) st rd (ext32 (BitVec.ofInt 64 (sgnOf 32 a.toNat / 2 ^ min n 31))) ∧
     s.Computes (.add32z st rd rs1 rs2) st rd (ext32z (a + b)) ∧
     s.Computes (.sub32z st rd rs1 rs2) st rd (ext32z (a - b)) ∧
     s.Computes (.sll32z st rd rs1 rs2) st rd (ext32z (if 32 ≤ n then 0 else w64 (a.toNat % 2 ^ 32 * 2 ^ n))) ∧
     s.Computes (.srl32z st rd rs1 rs2) st rd (ext32z (if 32 ≤ n then 0 else w64 (a.toNat % 2 ^ 32 / 2 ^ n))) ∧
     s.Computes (.sra32z st rd rs1 rs2) st rd (ext32z (BitVec.ofInt 64 (sgnOf 32 a.toNat / 2 ^ min n 31))) ∧
     s.Computes (.mul st rd rs1 rs2) st rd (w64 (a.toNat * b.toNat)) ∧
     s.Computes (.mulh st rd rs1 rs2) st rd (BitVec.ofInt 64 (a.toInt * b.toInt / 2 ^ 64)) ∧
     s.Computes (.mulhu st rd rs1 rs2) st rd (w64 (a.toNat * b.toNat / 2 ^ 64)) ∧
     s.Computes (.div st rd rs1 rs2) st rd
       (if b = 0 then 0xFFFFFFFFFFFFFFFF else if a.toInt = -2 ^ 63 ∧ b.toInt = -1 then a
         else BitVec.ofInt 64 (a.toInt.tdiv b.toInt)) ∧
     s.Computes (.divu st rd rs1 rs2) st rd (if b = 0 then 0xFFFFFFFFFFFFFFFF else w64 (a.toNat / b.toNat)) ∧
     s.Computes (.rem st rd rs1 rs2) st rd
       (if b = 0 then a else if a.toInt = -2 ^ 63 ∧ b.toInt = -1 then 0
         else BitVec.ofInt 64 (a.toInt - b.toInt * a.toInt.tdiv b.toInt)) ∧
     s.Computes (.remu st rd rs1 rs2) st rd (if b = 0 then a else w64 (a.toNat % b.toNat))) ∧
  (∀ (a b : W64),
     (Machine.cond 0 a b = true ↔ a = b) ∧ (Machine.cond 1 a b = true ↔ a ≠ b) ∧
     (Machine.cond 2 a b = true ↔ a.toInt < b.toInt) ∧ (Machine.cond 3 a b = true ↔ b.toInt ≤ a.toInt) ∧
     (Machine.cond 4 a b = true ↔ a.toNat < b.toNat) ∧ (Machine.cond 5 a b = true ↔ b.toNat ≤ a.toNat) ∧
     (Machine.cond 6 a b = true ↔ a &&& b ≠ 0) ∧ (Machine.cond 7 a b = true ↔ a &&& b = 0)) ∧
  (∀ (s : State), s.Plain → ∀ (st : Fin 8) (rd rs1 : Fin 32) (imm : BitVec 13) (big : BitVec 18) (sh : Fin 64),
     let a := s.X rs1
     let i : W64 := imm.signExtend 64
     s.Computes (.addi st rd rs1 imm) st rd (a + i) ∧
     s.Computes (.andi st rd rs1 imm) st rd (a &&& i) ∧
     s.Computes (.ori st rd rs1 imm) st rd (a ||| i) ∧
     s.Computes (.xori st rd rs1 imm) st rd (a ^^^ i) ∧
     s.Computes (.clti st rd rs1 imm) st rd (if a.toInt < imm.toInt then 1 else 0) ∧
     s.Computes (.cltiu st rd rs1 imm) st rd (if a.toNat < i.toNat then 1 else 0) ∧
     s.Computes (.addi32 st rd rs1 imm) st rd (ext32 (a + i)) ∧
     s.Computes (.immhi st rd big) st rd (BitVec.ofInt 64 (big.toInt * 2 ^ 13)) ∧
     s.Computes (.pcofs st rd big) st rd (w64 ((s.cur.pc.toNat + 4 * big.toInt) % 65536).toNat) ∧
     s.Computes (.slli st rd rs1 sh) st rd (w64 (a.toNat * 2 ^ sh.val)) ∧
     s.Computes (.srli st rd rs1 sh) st rd (w64 (a.toNat / 2 ^ sh.val)) ∧
     s.Computes (.srai st rd rs1 sh) st rd (BitVec.ofInt 64 (a.toInt / 2 ^ sh.val)) ∧
     (∀ lo len1 : Fin 64, lo.val + len1.val ≤ 63 →
       s.Computes (.bext st rd rs1 lo len1) st rd (w64 (a.toNat / 2 ^ lo.val % 2 ^ (len1.val + 1))) ∧
       ∃ v, s.Computes (.bins st rd rs1 lo len1) st rd v ∧
         ∀ j, j < 64 → v.getLsbD j =
           if lo.val ≤ j ∧ j ≤ lo.val + len1.val then a.getLsbD (j - lo.val) else (s.X rd).getLsbD j))

/-- R188 to R191: the FP32 instructions complete, with a prefix pending or not, write these results, fold the float results
into AMAX when the prefix asks for it, and spend the prefix. Operands, conversions and `rnd` are those of R39 to R55. A prefix of other
formats or with a scale makes them trap with reserved-field. -/
def Obligations.FloatResults : Prop :=
  (∀ (s : State), s.Calm → s.cur.pp = true → (s.cur.pfx.fa ≠ 0 ∨ s.cur.pfx.fb ≠ 0 ∨ s.cur.pfx.fd ≠ 0 ∨ s.cur.pfx.sc ≠ 0) →
    ∀ i, prefixTarget i = true → laneInstr i = none → (∀ st vd vs xs mk a b, i ≠ .vcvt st vd vs xs mk a b) → s.Traps i true 0x02 0 0) ∧
  ∀ (s : State), s.Calm → ∀ (r : Rounding),
    ((s.cur.pp = false ∧ r = ⟨Fp.Rm.ofBits s.cur.rm, false, false⟩) ∨
      (s.cur.pp = true ∧ s.cur.pfx.fa = 0 ∧ s.cur.pfx.fb = 0 ∧ s.cur.pfx.fd = 0 ∧ s.cur.pfx.sc = 0 ∧
        r = ⟨Fp.Rm.ofBits s.cur.pfx.rm, s.cur.pfx.sa == 1, s.cur.pfx.am == 1⟩)) →
    ∀ (st : Fin 8) (rd rs1 rs2 rs3 : Fin 32),
    let n := fun (i : Fin 32) => (s.X i).toNat % 2 ^ 32
    let a := Fp.fp32.val (n rs1)
    let b := Fp.fp32.val (n rs2)
    let rnd := fun (v : Fp.Exact) => Fp.fp32.rnd v r.rm r.sat
    let gives := fun (i : Instr) (v : W64) (f : List Fp.Exact) =>
      s.Completes i st (nextPc s.cur.pc) ((s.updCur (fun u => (u.fold r.am f).setPp false)).putX rd v)
    let float := fun (i : Instr) (v : Nat) => gives i (w64 v) [Fp.fp32.val v]
    let other := fun (i : Instr) (v : W64) => gives i v []
    let signed := fun (neg : Bool) =>
      if a = .nan then w64 Fp.fp32.nan else w64 (n rs1 % 2 ^ 31 + if neg then 2 ^ 31 else 0)
    let x := s.X rs1
    float (.fadd st rd rs1 rs2) (rnd (a.add r.rm b)) ∧
    float (.fsub st rd rs1 rs2) (rnd (a.add r.rm b.neg)) ∧
    float (.fmul st rd rs1 rs2) (rnd (a.mul b)) ∧
    float (.fdiv st rd rs1 rs2) (rnd (a.div b)) ∧
    float (.fsqrt st rd rs1) (rnd a.sqrt) ∧
    float (.fmadd st rd rs1 rs2 rs3) (rnd ((a.mul b).add r.rm (Fp.fp32.val (n rs3)))) ∧
    float (.fmin st rd rs1 rs2) (Fp.fMin (n rs1) (n rs2)) ∧
    float (.fmax st rd rs1 rs2) (Fp.fMax (n rs1) (n rs2)) ∧
    other (.feq st rd rs1 rs2) (if Fp.fEq (n rs1) (n rs2) then 1 else 0) ∧
    other (.flt st rd rs1 rs2) (if Fp.fLt (n rs1) (n rs2) then 1 else 0) ∧
    other (.fle st rd rs1 rs2) (if Fp.fLe (n rs1) (n rs2) then 1 else 0) ∧
    other (.fclass st rd rs1) (w64 (fclassOf (n rs1))) ∧
    other (.fsign st rd rs1 rs2) (signed ((s.X rs2).getLsbD 31)) ∧
    other (.fabs st rd rs1) (signed false) ∧
    other (.fneg st rd rs1) (signed (!x.getLsbD 31)) ∧
    float (.fcvt st rd rs1 0) (rnd (Fp.ofInt x.toInt)) ∧
    float (.fcvt st rd rs1 1) (rnd (Fp.ofInt x.toNat)) ∧
    other (.fcvt st rd rs1 2) (w64 (Fp.intRnd true 64 a r.rm)) ∧
    other (.fcvt st rd rs1 3) (w64 (Fp.intRnd false 64 a r.rm)) ∧
    float (.fcvt st rd rs1 4) (rnd (Fp.ofInt (sgnOf 32 x.toNat))) ∧
    other (.fcvt st rd rs1 5) (sext64 32 (Fp.intRnd true 32 a r.rm)) ∧
    (let v := Fp.fp16.rnd a r.rm r.sat; gives (.fcvt st rd rs1 6) (w64 v) [Fp.fp16.val v]) ∧
    float (.fcvt st rd rs1 7) (rnd (Fp.fp16.val (x.toNat % 2 ^ 16))) ∧
    (let v := Fp.bf16.rnd a r.rm r.sat; gives (.fcvt st rd rs1 8) (w64 v) [Fp.bf16.val v]) ∧
    float (.fcvt st rd rs1 9) (rnd (Fp.bf16.val (x.toNat % 2 ^ 16)))

/-- R192, R193, R194: where a branch or a jump goes, and what a jump links. A branch writes nothing; `jalr` to an offset that
is no multiple of 4 traps with misaligned, FAULTB holding it. -/
def Obligations.BranchesAndJumps : Prop :=
  ∀ (s : State), s.Plain → ∀ (st : Fin 8) (rd rs1 rs2 : Fin 32) (off imm : BitVec 13) (far : BitVec 18),
    let a := s.X rs1
    let b := s.X rs2
    let pc := s.cur.pc.toNat
    let at4 := fun (o : Int) => ((pc + 4 * o) % 65536).toNat
    let branch := fun (i : Instr) (taken : Prop) =>
      (taken → s.Completes i st (at4 off.toInt) s) ∧ (¬taken → s.Completes i st ((pc + 4) % 65536) s)
    let link := s.putX rd (w64 ((pc + 4) % 65536))
    let dest := (a.toNat + (imm.signExtend 64 : W64).toNat) % 65536
    branch (.beq st rs1 rs2 off) (a = b) ∧
    branch (.bne st rs1 rs2 off) (a ≠ b) ∧
    branch (.blt st rs1 rs2 off) (a.toInt < b.toInt) ∧
    branch (.bge st rs1 rs2 off) (b.toInt ≤ a.toInt) ∧
    branch (.bltu st rs1 rs2 off) (a.toNat < b.toNat) ∧
    branch (.bgeu st rs1 rs2 off) (b.toNat ≤ a.toNat) ∧
    s.Completes (.jal st rd far) st (at4 far.toInt) link ∧
    (dest % 4 = 0 → s.Completes (.jalr st rd rs1 imm) st dest link) ∧
    (dest % 4 ≠ 0 → s.Traps (.jalr st rd rs1 imm) false 0x04 0 (w64 dest))

/-! ### Loads, stores and read-modify-writes (R156 to R162, R195 to R200, R237 to R241) -/

/-- R170, R195, R200: a load of its own scratchpad gives the bytes that stand there, extended as the form says, with the acquire
of its form, and changes nothing else; poisoned bytes trap instead, with FAULTB = va.
R170, R195, R200: a store to its own scratchpad, once its release is open, writes the low bytes of its value there, wakes and
answers what waits for them, and does nothing else; every other byte of that scratchpad, and every byte of HBM and of the other
scratchpads, reads as before.
R170, R237 to R239: an atomic or `cas` on its own scratchpad, once its release is open, writes what its operation makes of the old
value, and nothing when a `cas` fails, gives the old value, extended as its form says, and applies its acquire; a poisoned
location traps and stays as it is. -/
def Obligations.OwnScratchpadAccesses : Prop :=
  (∀ (s : State), s.Plain → ∀ (i : Instr) (f : LoadForm), s.loadForm i = some f → ∀ (off : Nat),
     s.OwnAccess f.va.toNat f.n off →
     let v := leNat (Memory.bytes s.here.spad off f.n)
     ((∀ j, off ≤ j → j < off + f.n → s.here.spadPoison.has j = false) →
       s.Completes i f.st (nextPc s.cur.pc)
         ((if f.acq then s.acquire s.curCore f.scope else s).putX f.rd
           (if f.signed then BitVec.ofInt 64 (sgnOf (8 * f.n) v) else w64 v))) ∧
     ((∃ j, off ≤ j ∧ j < off + f.n ∧ s.here.spadPoison.has j = true) → s.Traps i false 0x13 0 f.va)) ∧
  (∀ (s : State), s.Plain → ∀ (i : Instr) (f : StoreForm), s.storeForm i = some f → (f.rel = true → s.Open f.scope) → ∀ (off : Nat),
     s.OwnAccess f.va.toNat f.n off →
     ∃ t, exec i s = .next t ∧
       s.Performed t f.st (nextPc s.cur.pc) (s.spWrite s.curCore off (PByte.clean (leBytes f.val.toNat f.n))) ∧
       Memory.bytes t.here.spad off f.n = leBytes f.val.toNat f.n ∧
       (∀ a, a < off ∨ off + f.n ≤ a → Memory.byte t.here.spad a = Memory.byte s.here.spad a) ∧
       (∀ c a, c ≠ s.curCore → Memory.byte (t.core c).spad a = Memory.byte (s.core c).spad a) ∧
       (∀ a, Memory.byte t.mem a = Memory.byte s.mem a) ∧
       (∀ r, t.X r = s.X r)) ∧
  (∀ (s : State), s.Plain → ∀ (i : Instr) (f : RmwForm), s.rmwForm i = some f → s.OpenFor (ordRelease f.ord) → ∀ (off : Nat),
     s.OwnAccess f.va.toNat f.n off →
     let old := leNat (Memory.bytes s.here.spad off f.n)
     let w := match f.op.newValue f.n old with
       | some v => s.spWrite s.curCore off (PByte.clean (leBytes v f.n))
       | none => s
     let w := match ordAcquire f.ord with | some sc => w.acquire s.curCore sc | none => w
     ((∀ j, off ≤ j → j < off + f.n → s.here.spadPoison.has j = false) →
       s.Completes i f.st (nextPc s.cur.pc)
         (w.putX f.rd (if f.signed then BitVec.ofInt 64 (sgnOf (8 * f.n) old) else w64 old))) ∧
     ((∃ j, off ≤ j ∧ j < off + f.n ∧ s.here.spadPoison.has j = true) → s.Traps i false 0x13 0 f.va))

/-- R237, R239, R240: what each operation at the home makes of the old value of `n` bytes.
R161, R162, R238: an atomic or `cas` on a translated address appends its request to OQ(c), once its release is open, behind the
write-back of its line, leaves no byte of the line in L1(c), and leaves rd to the answer, whether the location is poisoned or not;
with an acquire the task waits for that answer.
R149, R197: a load, store or atomic through the other-core window appends its request to OQ(c), once its release is open, for the
scratchpad that the window names, the own one included.
R165, R214: a store, atomic, `cas` or `red` with release whose access passes its checks waits at its gate, with no effect of its own, while
a request of its task is outstanding. -/
def Obligations.ReadModifyWriteRequests : Prop :=
  (∀ (n old d : Nat), n = 4 ∨ n = 8 → old < 2 ^ (8 * n) → d < 2 ^ (8 * n) →
     let new := fun (op : AmoOp) => (HomeOp.amo op (w64 d)).newValue n old
     new .add = some ((old + d) % 2 ^ (8 * n)) ∧
     new .and = some (old &&& d) ∧
     new .or = some (old ||| d) ∧
     new .xor = some (old ^^^ d) ∧
     new .min = some (if sgnOf (8 * n) old ≤ sgnOf (8 * n) d then old else d) ∧
     new .max = some (if sgnOf (8 * n) old ≤ sgnOf (8 * n) d then d else old) ∧
     new .minu = some (if old ≤ d then old else d) ∧
     new .maxu = some (if old ≤ d then d else old) ∧
     new .swap = some d ∧
     (n = 4 → new .fadd = some (Fp.fp32.rnd ((Fp.fp32.val old).add .rne (Fp.fp32.val d)) .rne false)) ∧
     (∀ expect value : W64, n = 8 →
       (HomeOp.cas expect value).newValue n old = if old = expect.toNat then some value.toNat else none)) ∧
  (∀ (s u : State), s.Plain → ∀ (i : Instr) (f : RmwForm), s.rmwForm i = some f → s.OpenFor (ordRelease f.ord) →
     s.GlobalAccess f.va.toNat f.n →
     ∀ (tr : Tr), s.xlate f.va.toNat true = (.ok tr, u) → u.migrateTo f.va.toNat tr = none →
     let acq := ordAcquire f.ord
     let w := u.sendRmw f.va.toNat f.n tr f.op ((acq.or (ordRelease f.ord)).getD .core) acq (.value (.x s.cur.bank f.rd) f.n f.signed)
     s.Completes i f.st (nextPc s.cur.pc) ((if acq.isSome then w.holdFor (w.nextId - 1) else w).owing f.rd) ∧
     (∃ q, w.here.oq.getLast? = some q ∧ q.op = f.op ∧ q.home = u.homeOf tr.pa ∧ q.addr = tr.pa ∧ q.size = f.n ∧ q.acq = acq ∧
       q.dest = .value (.x s.cur.bank f.rd) f.n f.signed) ∧
     w.here.l1At s.cur.asid f.va.toNat = none) ∧
  (∀ (s : State), s.Plain → ∀ (i : Instr) (core off : Nat),
     (∀ f, s.loadForm i = some f → s.OtherAccess f.va.toNat f.n core off → s.otherPoison core off f.n = false →
       ∃ t, exec i s = .next t ∧ ∃ q : Req, t.here.oq = s.here.oq ++ [q] ∧ q.op = .read ∧ q.home = .spad core ∧ q.addr = off ∧
         q.size = f.n ∧ q.dest = .direct (.x s.cur.bank f.rd) f.n f.signed ∧ t.cur.pc = s.cur.pc + 4) ∧
     (∀ f, s.storeForm i = some f → (f.rel = true → s.Open f.scope) → s.OtherAccess f.va.toNat f.n core off →
       ∃ t, exec i s = .next t ∧ ∃ q : Req, t.here.oq = s.here.oq ++ [q] ∧ q.op = .write (PByte.clean (leBytes f.val.toNat f.n)) ∧
         q.home = .spad core ∧ q.addr = off ∧ q.size = f.n ∧ t.cur.pc = s.cur.pc + 4) ∧
     (∀ f, s.rmwForm i = some f → s.OpenFor (ordRelease f.ord) → s.OtherAccess f.va.toNat f.n core off →
       ∃ t, exec i s = .next t ∧ ∃ q : Req, t.here.oq = s.here.oq ++ [q] ∧ q.op = f.op ∧ q.home = .spad core ∧ q.addr = off ∧
         q.size = f.n ∧ t.cur.pc = s.cur.pc + 4)) ∧
  (∀ (s : State), s.Plain → ∀ (i : Instr) (sc : Scope) (va n : Nat),
     ((∃ f, s.storeForm i = some f ∧ f.rel = true ∧ f.scope = sc ∧ f.va.toNat = va ∧ f.n = n) ∨
       (∃ f, s.rmwForm i = some f ∧ ordRelease f.ord = some sc ∧ f.va.toNat = va ∧ f.n = n) ∨
       ∃ st ord rs1 rs2 rop fmt, i = .red st ord rs1 rs2 rop fmt ∧ ordRelease ord.val = some sc ∧ (s.X rs1).toNat = va ∧ Fp.fmtBits fmt.val / 8 = n) →
     ((∃ off, s.OwnAccess va n off) ∨ (∃ core off, s.OtherAccess va n core off) ∨
       (s.GlobalAccess va n ∧ s.movesTo va true = none ∧ ∃ tr u, s.xlate va true = (.ok tr, u))) →
     (∃ o ∈ s.here.out, o.own = true ∧ o.req.ctx = s.curCtx ∧ o.req.uid = s.cur.uid) →
     ∃ t ids, exec i s = .next t ∧ t.cur.wait = .gate sc ids ∧ t.cur.pc = s.cur.pc ∧ (∀ r, t.X r = s.X r) ∧ t.mem = s.mem ∧
       t.here.spad = s.here.spad ∧ ∀ o ∈ s.here.out, o.own = true → o.req.ctx = s.curCtx → o.req.uid = s.cur.uid → o.req.id ∈ ids)

/-- R156: a load at task or core scope whose bytes are all in L1(c) under a current translation returns them at issue and
changes nothing but what the task is held to have seen (R158), unless an earlier load of the task from one of these locations is
not answered yet (R158), or a byte is poisoned.
R156, R157, R161: a load that the L1 does not serve appends a request to OQ(c), behind the write-back of its line when it is
at die scope or wider, and leaves rd to its answer; with an acquire the task waits for that answer (R166). `u` is the state
once the address is translated.
R159, R165: a store, whose release is open, at task or core scope to a line that L1(c) holds under a current, writable translation writes its bytes into
the line, valid and dirty, and gives the line the scope of the store; nothing leaves the core.
R159, R355: such a store at task or core scope to another translated line writes its bytes into a line of L1(c) that the translation is
accepted for, valid and dirty.
R160, R161: such a store at die scope or wider, or to a location that no L1 holds, appends a write of its bytes to OQ(c), behind the
write-back of the dirty bytes of its line, and leaves a valid copy in L1(c) updated and clean. -/
def Obligations.LoadsAndStores : Prop :=
  (∀ (s : State), s.Plain → ∀ (i : Instr) (f : LoadForm), s.loadForm i = some f → f.scope.wide = false →
     s.GlobalAccess f.va.toNat f.n → ∀ (b : List PByte),
     s.l1Hit s.curCore s.cur.asid f.va.toNat f.n = some b → s.loading f.va.toNat f.n = false → PByte.anyBad b = false →
     s.Completes i f.st (nextPc s.cur.pc)
       ((s.hit f.va.toNat f.n).putX f.rd
         (if f.signed then BitVec.ofInt 64 (sgnOf (8 * f.n) (leNat (PByte.vals b))) else w64 (leNat (PByte.vals b))))) ∧
  (∀ (s u : State), s.Plain → ∀ (i : Instr) (f : LoadForm), s.loadForm i = some f →
     s.GlobalAccess f.va.toNat f.n → (f.scope.wide = true ∨ s.l1Hit s.curCore s.cur.asid f.va.toNat f.n = none) →
     ∀ (tr : Tr), s.xlate f.va.toNat false = (.ok tr, u) → u.migrateTo f.va.toNat tr = none →
     u.loadPoison f.va.toNat f.n tr.pa = false →
     let acq := if f.acq then some f.scope else none
     let dest := if cacheable tr.pa then Dest.load (.x s.cur.bank f.rd) f.n f.signed else Dest.direct (.x s.cur.bank f.rd) f.n f.signed
     let w := u.sendLoad f.va.toNat f.n tr f.scope acq dest
     s.Completes i f.st (nextPc s.cur.pc) ((if f.acq then w.holdFor (w.nextId - 1) else w).owing f.rd) ∧
     (∃ q, w.here.oq.getLast? = some q ∧ q.op = .read ∧ q.home = u.homeOf tr.pa ∧ q.scope = f.scope ∧ q.acq = acq ∧
       q.va = f.va.toNat ∧ q.dest = dest ∧ q.exp = some tr.exp ∧
       (if cacheable tr.pa then q.addr = tr.pa / 128 * 128 ∧ q.size = 128 else q.addr = tr.pa ∧ q.size = f.n))) ∧
  (∀ (s : State), s.Plain → ∀ (i : Instr) (f : StoreForm), s.storeForm i = some f → (f.rel = true → s.Open f.scope) → f.scope.wide = false →
     s.GlobalAccess f.va.toNat f.n → ∀ (l : L1Line),
     s.here.l1At s.cur.asid f.va.toNat = some l → s.current s.curCore l = true → l.w = true →
     s.Completes i f.st (nextPc s.cur.pc)
       (s.updHere (·.putL1 { (l.write (f.va.toNat % 128) s.cur.who (leBytes f.val.toNat f.n)) with tag := f.scope }))) ∧
  (∀ (s u : State), s.Plain → ∀ (i : Instr) (f : StoreForm), s.storeForm i = some f → (f.rel = true → s.Open f.scope) → f.scope.wide = false →
     s.GlobalAccess f.va.toNat f.n →
     (∀ l, s.here.l1At s.cur.asid f.va.toNat = some l → s.current s.curCore l = false ∨ l.w = false) →
     ∀ (tr : Tr), s.xlate f.va.toNat true = (.ok tr, u) → u.migrateTo f.va.toNat tr = none → cacheable tr.pa = true →
     let w := u.storeL1 f.va.toNat tr f.scope (leBytes f.val.toNat f.n)
     s.Completes i f.st (nextPc s.cur.pc) w ∧
     ∃ l, w.here.l1At s.cur.asid f.va.toNat = some l ∧ l.tag = f.scope ∧
       ∀ j (h : j < (leBytes f.val.toNat f.n).length), ∃ b, l.bytes.find? (f.va.toNat % 128 + j) = some b ∧
         b.val = (leBytes f.val.toNat f.n)[j] ∧ b.dirty = true ∧ b.bad = false) ∧
  (∀ (s u : State), s.Plain → ∀ (i : Instr) (f : StoreForm), s.storeForm i = some f → (f.rel = true → s.Open f.scope) →
     s.GlobalAccess f.va.toNat f.n →
     (f.scope.wide = true ∨ ∀ l, s.here.l1At s.cur.asid f.va.toNat = some l → s.current s.curCore l = false ∨ l.w = false) →
     ∀ (tr : Tr), s.xlate f.va.toNat true = (.ok tr, u) → u.migrateTo f.va.toNat tr = none →
     (f.scope.wide = true ∨ cacheable tr.pa = false) →
     let w := u.storeThrough f.va.toNat tr f.scope (leBytes f.val.toNat f.n)
     s.Completes i f.st (nextPc s.cur.pc) w ∧
     (∃ q, w.here.oq.getLast? = some q ∧ q.op = .write (PByte.clean (leBytes f.val.toNat f.n)) ∧ q.home = u.homeOf tr.pa ∧
       q.addr = tr.pa ∧ q.size = f.n ∧ q.scope = f.scope ∧ q.va = f.va.toNat ∧ q.dest = .ack) ∧
     (∀ l, u.here.l1At s.cur.asid f.va.toNat = some l → l.isDirty = true →
       ∃ q ∈ w.here.oq, q.op = .writeBack l.dirtyBytes ∧ q.addr = l.pa))

/-- R106, R149, R196: what an access traps with before anything of it happens, in the order of its checks: misaligned,
scratchpad-bounds in its own window, and protection for a core outside the effective mask or a non-canonical address. -/
def Obligations.AccessTraps : Prop :=
  ∀ (s : State), s.Plain → ∀ (i : Instr) (va : W64) (n : Nat) (write : Bool),
    ((∃ f, s.loadForm i = some f ∧ f.va = va ∧ f.n = n ∧ write = false) ∨
      (∃ f, s.storeForm i = some f ∧ f.va = va ∧ f.n = n ∧ write = true) ∨
      (∃ f, s.rmwForm i = some f ∧ f.va = va ∧ f.n = n ∧ write = true) ∨
      (∃ st ord rs1 rs2 rop f, i = .red st ord rs1 rs2 rop f ∧ s.X rs1 = va ∧ Fp.fmtBits f.val / 8 = n ∧ write = true)) →
    (va.toNat % n ≠ 0 → s.Traps i false 0x04 0 va) ∧
    (va.toNat % n = 0 → ∀ off, placeOf va.toNat = .own off → s.here.spsize ≤ off → s.Traps i false 0x14 0 va) ∧
    (va.toNat % n = 0 → ∀ core off, placeOf va.toNat = .other core off → ¬(core ≤ 1535 ∧ s.inMask s.cur core = true) →
      s.Traps i false 0x11 0 va) ∧
    (va.toNat % n = 0 → placeOf va.toNat = .global → canonical va.toNat = false →
      s.Traps i false 0x11 (6 + if write then 2 ^ 15 else 0) va)

/-- R165, R170, R240, R241: `red`, once its release is open, on its own scratchpad writes what its operation makes of the old value; on a
poisoned location it does nothing but post a report; on a translated address it appends its request to OQ(c), behind the write-back of its
line, and through the other-core window for the scratchpad that the window names; on an address whose translation fails it does nothing but
post a report. It writes no register and waits for no answer. -/
def Obligations.ReduceOnWrite : Prop :=
  ∀ (s : State), s.Plain → ∀ (st ord : Fin 8) (rs1 rs2 : Fin 32) (rop f : Fin 16), s.OpenFor (ordRelease ord) →
    let i := Instr.red st ord rs1 rs2 rop f
    let va := s.X rs1
    let n := Fp.fmtBits f / 8
    let op := HomeOp.red rop f (s.X rs2)
    (∀ off, s.OwnAccess va.toNat n off → (∀ j, off ≤ j → j < off + n → s.here.spadPoison.has j = false) →
      s.Completes i st (nextPc s.cur.pc)
        (match op.newValue n (leNat (Memory.bytes s.here.spad off n)) with
          | some v => s.spWrite s.curCore off (PByte.clean (leBytes v n))
          | none => s)) ∧
    (∀ off, s.OwnAccess va.toNat n off → (∃ j, off ≤ j ∧ j < off + n ∧ s.here.spadPoison.has j = true) →
      s.Completes i st (nextPc s.cur.pc)
        (s.report 0x04 0 (s.curCore % 384) (dieOf s.curCore) [w64 (otherVa s.curCore off), 9])) ∧
    (∀ core off, s.OtherAccess va.toNat n core off →
      ∃ t, exec i s = .next t ∧ t.cur.pc = s.cur.pc + 4 ∧ (∀ r, t.X r = s.X r) ∧ t.mem = s.mem ∧
        ∃ q : Req, t.here.oq = s.here.oq ++ [q] ∧ q.op = op ∧ q.home = .spad core ∧ q.addr = off ∧ q.size = n ∧ q.dest = .ack) ∧
    (s.GlobalAccess va.toNat n → ∀ (u : State) (tr : Tr),
      s.translate s.die s.cur.asid va.toNat true (some s.curCore) = (.ok tr, u) → u.migrateTo va.toNat tr = none →
      ∃ t, exec i s = .next t ∧ t.cur.pc = s.cur.pc + 4 ∧ (∀ r, t.X r = s.X r) ∧
        ∃ q, t.here.oq.getLast? = some q ∧ q.op = op ∧ q.home = u.homeOf tr.pa ∧ q.addr = tr.pa ∧ q.size = n ∧ q.dest = .ack) ∧
    (s.GlobalAccess va.toNat n → ∀ (u : State) (d : Nat),
      s.translate s.die s.cur.asid va.toNat true (some s.curCore) = (.error d, u) →
      s.Completes i st (nextPc s.cur.pc)
        ((u.writeBackAt s.curCore s.cur.asid va.toNat).redReport (transSlice s.die s.cur.asid va.toNat) va.toNat d))

/-! ### Fences, waits, futures, groups and barriers at issue (R165 to R167, R226 to R236, R242 to R244) -/

/-- R165, R166, R167, R234: `fence` with an open gate is performed, with its acquire; with a closed gate it waits at its pc, every
dirty line of the L1 appended as a write-back when its scope is die or wider, for the answers that it found outstanding; it goes on
once those have come, whatever has been sent since. An acquire at die scope or wider leaves no clean byte in the L1, and at package
scope or wider no copy in a portion of its die.
R235, R178: `cln` appends a write-back for every dirty line of the region and leaves it clean; `inv` drops the clean bytes of
the lines of the region and keeps the dirty ones. A line belongs to the region when a byte of it does; lines outside stay as they
are, and nothing else changes.
R236: `waita` on an address of another scratchpad or of memory sends its expected word to the home of that address, and parks
the task until the answer, which goes to rd with the acquire of its scope; on an address of the own window it traps. -/
def Obligations.FencesAndWaits : Prop :=
  (∀ (s : State) (st : Fin 8) (rel acq : Fin 2) (scope : Fin 8),
     let i := Instr.fence st rel acq scope
     let sc := Scope.ofBits scope
     let after := fun (s : State) => if acq = 1 then s.acquire s.curCore sc else s
     (s.Plain → (rel = 1 → s.Open sc) → s.Completes i st (nextPc s.cur.pc) (after s)) ∧
     (s.Plain → rel = 1 → sc.wide = true → ∀ o ∈ s.here.out, o.write = true →
       ∃ t ids, exec i s = .next t ∧ t.cur.wait = .gate sc ids ∧ o.req.id ∈ ids ∧ t.cur.pc = s.cur.pc ∧ (∀ r, t.X r = s.X r) ∧
         (∀ l ∈ t.here.l1, l.isDirty = false) ∧
         (∀ l ∈ s.here.l1, l.isDirty = true → ∃ q ∈ t.here.oq, q.op = .writeBack l.dirtyBytes ∧ q.addr = l.pa)) ∧
     (∀ ids, s.cur.pend = [] → s.cur.var = [] → s.cur.pp = false → s.cur.wait = .gate sc ids → rel = 1 →
       ((∃ o ∈ s.here.out, o.req.id ∈ ids) → exec i s = .next s) ∧
       ((∀ o ∈ s.here.out, o.req.id ∉ ids) →
         ∃ t, exec i s = .next t ∧ t.cur.pc = s.cur.pc + 4 ∧ t.cur.wait = .none ∧ (∀ r, t.X r = s.X r))) ∧
     (s.Plain → rel = 0 → acq = 1 → sc.wide = true → ∀ t, exec i s = .next t →
       (∀ l ∈ t.here.l1, ∀ e ∈ l.bytes, e.2.dirty = true) ∧
       (3 ≤ sc.rank → ∀ p, dieOf p = s.die → t.rdc.find? p = none))) ∧
  (∀ (s : State), s.Plain → ∀ (st : Fin 8) (rs1 rs2 : Fin 32),
     let base := (s.X rs1).toNat
     let len := (s.X rs2).toNat
     let inside := fun (l : L1Line) =>
       l.asid = s.cur.asid ∧ ∃ a, l.line * 128 ≤ a ∧ a < l.line * 128 + 128 ∧ base ≤ a ∧ a < base + len ∧ a < 2 ^ 64
     (∃ t, exec (.cln st rs1 rs2) s = .next t ∧
       s.Performed t st (nextPc s.cur.pc) (s.writeBackAll s.curCore (fun l => l.inRegion s.cur.asid base len)) ∧
       (∀ l ∈ t.here.l1, inside l → l.isDirty = false) ∧
       (∀ l, ¬inside l → (l ∈ t.here.l1 ↔ l ∈ s.here.l1)) ∧
       (∀ l ∈ s.here.l1, inside l → l.isDirty = true → ∃ q ∈ t.here.oq, q.op = .writeBack l.dirtyBytes ∧ q.addr = l.pa) ∧
       (∀ a, Memory.byte t.mem a = Memory.byte s.mem a) ∧ (∀ r, t.X r = s.X r)) ∧
     (∃ t, exec (.inv st rs1 rs2) s = .next t ∧
       s.Performed t st (nextPc s.cur.pc) (s.updHere (·.invRegion s.cur.asid base len)) ∧
       (∀ l ∈ t.here.l1, inside l → ∀ e ∈ l.bytes, e.2.dirty = true) ∧
       (∀ l ∈ s.here.l1, ∀ e ∈ l.bytes, e.2.dirty = true → ∃ m ∈ t.here.l1, m.line = l.line ∧ e ∈ m.bytes) ∧
       t.here.oq = s.here.oq ∧ (∀ a, Memory.byte t.mem a = Memory.byte s.mem a) ∧ (∀ r, t.X r = s.X r))) ∧
  (∀ (s : State), s.Alive → ∀ (st : Fin 8) (rd rs1 rs2 : Fin 32) (scope : Fin 8),
     let i := Instr.waita st rd rs1 rs2 scope
     let va := s.X rs1
     let sc := Scope.ofBits scope
     let dest := Dest.answer (.x s.cur.bank rd)
     (∀ off, placeOf va.toNat = .own off → s.Traps i false 0x11 0 va) ∧
     (∀ core off, s.OtherAccess va.toNat 8 core off → s.otherPoison core off 8 = false →
       s.Completes i st (nextPc s.cur.pc)
         (((s.enqueue s.curCore
           { s.taskReq (.spad core) (.waita (s.X rs2)) off 8 sc dest with va := va.toNat, acq := some sc } false true).parkFor
             s.nextId).owing rd)) ∧
     (s.GlobalAccess va.toNat 8 → ∀ (u : State) (tr : Tr), s.xlate va.toNat false = (.ok tr, u) →
       u.migrateTo va.toNat tr = none → u.loadPoison va.toNat 8 tr.pa = false →
       ∃ t, exec i s = .next t ∧ t.cur.phase = .parked ∧ t.cur.pc = s.cur.pc + 4 ∧ (∀ r, t.X r = s.X r) ∧
         t.Sent (.waita (s.X rs2)) (u.homeOf tr.pa) tr.pa 8 dest ∧
         (∀ q, t.here.oq.getLast? = some q → t.cur.wait = .answer q.id ∧ q.acq = some sc)))

/-- R228, R242: what the address of a future, a group or a barrier traps with before anything of the instruction happens:
misaligned, and protection in a scratchpad window or for a non-canonical address.
R228 to R232: `join`, `leave`, `bari`, `barv` and `barw` send their request to the home of the object once their release is
open; `join` and `leave` let nothing of the task issue before the answer, and `barw` parks it. `join` of a group already joined
gives 3 and of a fifth group 2; `leave` of a group not joined gives 3; these send nothing.
R243, R244: `ldf` and `stf` send their request to the home of the cell, behind the write-back of its line, no byte of which
stays in the L1, `stf` once its release is open; rd and STATUS.FUT come with the answer, and nothing of a task issues before the
answer to its `ldf`. -/
def Obligations.ObjectInstructions : Prop :=
  (∀ (s : State), s.Alive → ∀ (i : Instr) (f : ObjectForm), s.objectForm i = some f ∨ s.futureForm i = some f →
     (s.futureForm i = some f → s.belowWatermark s.curCore s.cur.asid f.va.toNat 16 = false) →
     (f.va.toNat % f.n ≠ 0 → s.Traps i false 0x04 0 f.va) ∧
     (f.va.toNat % f.n = 0 → (∃ off, placeOf f.va.toNat = .own off) ∨ (∃ core off, placeOf f.va.toNat = .other core off) →
       s.Traps i false 0x11 0 f.va) ∧
     (f.va.toNat % f.n = 0 → placeOf f.va.toNat = .global → canonical f.va.toNat = false →
       s.Traps i false 0x11 (6 + if f.write then 2 ^ 15 else 0) f.va)) ∧
  (∀ (s u : State), s.Alive → ∀ (i : Instr) (f : ObjectForm), s.objectForm i = some f → s.OpenFor f.rel →
     ∀ (tr : Tr), s.objAddr f.va.toNat f.n f.n f.write = (.ok tr, u) →
     let w := u.sendObj f.va.toNat f.n tr f.op f.scope f.acq f.dest f.gated
     let sent := fun (w : State) =>
       ∃ t, exec i s = .next t ∧ s.Performed t f.st (nextPc s.cur.pc) (w.owing f.rd) ∧ t.Sent f.op (u.homeOf tr.pa) tr.pa f.n f.dest
     (match i with
       | .join .. =>
         (f.va.toNat ∈ s.cur.groups → s.Completes i f.st (nextPc s.cur.pc) (u.putX f.rd 3)) ∧
         (f.va.toNat ∉ s.cur.groups → 4 ≤ s.cur.groups.length → s.Completes i f.st (nextPc s.cur.pc) (u.putX f.rd 2)) ∧
         (f.va.toNat ∉ s.cur.groups → s.cur.groups.length < 4 → sent (w.holdFor (w.nextId - 1)))
       | .leave .. =>
         (f.va.toNat ∉ s.cur.groups → s.Completes i f.st (nextPc s.cur.pc) (u.putX f.rd 3)) ∧
         (f.va.toNat ∈ s.cur.groups → sent (w.holdFor (w.nextId - 1)))
       | .barw .. => sent (w.parkFor (w.nextId - 1))
       | _ => sent w)) ∧
  (∀ (s u : State), s.Plain → ∀ (i : Instr) (f : ObjectForm), s.futureForm i = some f → s.OpenFor f.rel →
     s.belowWatermark s.curCore s.cur.asid f.va.toNat 16 = false →
     ∀ (tr : Tr), s.objAddr f.va.toNat 16 16 f.write = (.ok tr, u) → u.migrateTo f.va.toNat tr = none →
     let w := u.sendRmw f.va.toNat 16 tr f.op f.scope f.acq f.dest
     ∃ t, exec i s = .next t ∧
       s.Performed t f.st (nextPc s.cur.pc) ((if f.write then w else w.holdFor (w.nextId - 1)).owingFuture f.rd) ∧
       t.Sent f.op (u.homeOf tr.pa) tr.pa 16 f.dest ∧ t.here.l1At s.cur.asid f.va.toNat = none)

/-! ### Requests at the homes of memory (R150 to R154, R170, R227 to R245) -/

/-- R151, R153, R154: DRAIN moves the oldest request of an outbound queue to the end of the channel of its home, and PERFORM takes
the oldest request of a channel and performs it as one step, once its lines have reached the L2 of the slice that is their home
(R20), which changes no byte unless a clean line of that slice hides what a row command has written beneath it. A read gives the bytes that stand at its address and changes none; a
write and a write-back put their bytes and their poison there, each byte to its place, and leave every other byte as it was; each
is answered once, at the end of the response channel of its home and its agent.
R150, R170: an access performed at a scratchpad below its SPSIZE reads or writes the bytes at its offset and no other byte of
any memory; one at or above SPSIZE writes nothing, gives zero, and is counted.
R151, R237 to R241, R459: a read-modify-write performed at an HBM home is one step: it gives the old value, and writes what its
operation makes of it, or nothing, over the bytes of its size; one that meets poison changes nothing and gives poison, and a `red`
does nothing but post a report. -/
def Obligations.AccessesAtHomes : Prop :=
  ((∀ (s : State) (c : Nat) (r : Req) (rest : List Req), c < 1536 → (s.core c).oq = r :: rest →
     ∃ t, exec (.drain c) s = .next t ∧ (t.core c).oq = rest ∧ t.chan (.core c) r.home = s.chan (.core c) r.home ++ [r] ∧
       (∀ a h, (a, h) ≠ (Agent.core c, r.home) → t.chan a h = s.chan a h) ∧ t.mem = s.mem) ∧
   (∀ (s : State) (r : Req) (i : Nat), s.L2True →
     let w := s.l2Access i r
     w.mem = s.mem ∧ w.poison = s.poison ∧ w.order = s.order ∧ w.L2True) ∧
   (∀ (s : State) (r : Req) (i : Nat), s.Front r → r.home = .slice i →
     let w := s.l2Access i r
     (r.op = .read →
       ∃ t, s.Performing r t ∧ t.mem = w.mem ∧ t.poison = w.poison ∧
         ∃ x, t.Answered x ∧ x.req = r ∧ PByte.vals x.bytes = Memory.bytes w.mem r.addr r.size ∧ x.pos = w.posOf r.addr ∧
           (PByte.anyBad x.bytes = true ↔ ∃ a, r.addr ≤ a ∧ a < r.addr + r.size ∧ NatSet.has w.poison a = true)) ∧
     (∀ data, r.op = .write data →
       ∃ t, s.Performing r t ∧
         (∀ j (h : j < data.length), Memory.byte t.mem (r.addr + j) = data[j].val ∧ NatSet.has t.poison (r.addr + j) = data[j].bad) ∧
         (∀ a, a < r.addr ∨ r.addr + data.length ≤ a →
           Memory.byte t.mem a = Memory.byte w.mem a ∧ NatSet.has t.poison a = NatSet.has w.poison a) ∧
         (data ≠ [] → t.posOf r.addr = w.posOf r.addr + 1) ∧ ∃ x, t.Answered x ∧ x.req = r ∧ x.pos = t.posOf r.addr) ∧
     (∀ bytes, r.op = .writeBack bytes → (Map.keys bytes).Nodup →
       ∃ t, s.Performing r t ∧
         (∀ o b, (o, b) ∈ bytes → Memory.byte t.mem (r.addr + o) = b.val ∧ NatSet.has t.poison (r.addr + o) = b.bad) ∧
         (∀ a, (∀ o ∈ Map.keys bytes, a ≠ r.addr + o) →
           Memory.byte t.mem a = Memory.byte w.mem a ∧ NatSet.has t.poison a = NatSet.has w.poison a) ∧
         ∃ x, t.Answered x ∧ x.req = r))) ∧
  (∀ (s : State) (r : Req) (c : Nat), s.Front r → r.home = .spad c →
     (r.addr < (s.core c).spsize → r.op = .read →
       ∃ t, s.Performing r t ∧ (t.core c).spad = (s.core c).spad ∧
         ∃ x, t.Answered x ∧ x.req = r ∧ PByte.vals x.bytes = Memory.bytes (s.core c).spad r.addr r.size) ∧
     (∀ data, r.addr < (s.core c).spsize → r.op = .write data →
       ∃ t, s.Performing r t ∧
         (∀ j (h : j < data.length), Memory.byte (t.core c).spad (r.addr + j) = data[j].val) ∧
         (∀ a, a < r.addr ∨ r.addr + data.length ≤ a → Memory.byte (t.core c).spad a = Memory.byte (s.core c).spad a) ∧
         (∀ d a, d ≠ c → Memory.byte (t.core d).spad a = Memory.byte (s.core d).spad a) ∧ t.mem = s.mem ∧
         ∃ x, t.Answered x ∧ x.req = r) ∧
     ((s.core c).spsize ≤ r.addr →
       ∃ t, s.Performing r t ∧ (t.core c).spad = (s.core c).spad ∧ t.mem = s.mem ∧ (t.core c).spoob = (s.core c).spoob + 1 ∧
         ∃ x, t.Answered x ∧ x.req = r ∧ x.val = 0 ∧ ∀ b ∈ x.bytes, b.val = 0 ∧ b.bad = false)) ∧
  (∀ (s : State) (r : Req) (i : Nat), s.Front r → r.home = .slice i →
     (match r.op with | .amo .. | .cas .. | .red .. => True | _ => False) →
     let w := s.l2Access i r
     let old := leNat (Memory.bytes w.mem r.addr r.size)
     ((∀ a, r.addr ≤ a → a < r.addr + r.size → NatSet.has w.poison a = false) → ∀ v, r.op.newValue r.size old = some v →
       ∃ t, s.Performing r t ∧ Memory.bytes t.mem r.addr r.size = leBytes v r.size ∧
         (∀ a, a < r.addr ∨ r.addr + r.size ≤ a → Memory.byte t.mem a = Memory.byte w.mem a) ∧
         ∃ x, t.Answered x ∧ x.req = r ∧ x.val = w64 old ∧ x.poison = false) ∧
     ((∀ a, r.addr ≤ a → a < r.addr + r.size → NatSet.has w.poison a = false) → r.op.newValue r.size old = none →
       ∃ t, s.Performing r t ∧ t.mem = w.mem ∧ ∃ x, t.Answered x ∧ x.req = r ∧ x.val = w64 old ∧ x.poison = false) ∧
     ((∃ a, r.addr ≤ a ∧ a < r.addr + r.size ∧ NatSet.has w.poison a = true) →
       ∃ t, s.Performing r t ∧ ∃ x, t.Answered x ∧ x.req = r ∧
         (match r.op with
           | .red .. => x.poison = false ∧ t.mem = ((w.taken r).redReport i r.va 9).mem
           | _ => x.poison = true ∧ t.mem = w.mem)))

/-- R242 to R245: at the home of a cell, `ldf` of a full cell gives its value, of an empty cell waits there, at most 32 of them at
one home, and of any other cell is refused; `stf` of an empty cell fills it in one step, and answers every `ldf` that waits for
it with the value, in the order in which they came; of a full cell it gives 1 and of any other cell 2, and writes nothing. A
withdrawal answers an `ldf` that still waits as refused. -/
def Obligations.FutureCells : Prop :=
  ∀ (s : State) (r : Req) (i : Nat), s.Front r → r.home = .slice i →
    let w := s.l2Access i r
    let w1 := (w.memWord (r.addr + 8)).toNat
    let clean := ∀ a, r.addr ≤ a → a < r.addr + 16 → NatSet.has w.poison a = false
    let answer := fun (val : W64) (ok : Bool) =>
      ∃ t, s.Performing r t ∧ t.mem = w.mem ∧ t.deferred = s.deferred ∧
        ∃ x, t.Answered x ∧ x.req = r ∧ x.val = val ∧ x.ok = ok ∧ x.poison = false
    (r.op = .ldf → clean →
      (w1 = 1 → answer (w.memWord r.addr) true) ∧
      (1 < w1 → answer 0 false) ∧
      (w1 = 0 → s.deferred.countP (fun q => q.home == r.home) < 32 →
        ∃ t, s.Performing r t ∧ t.deferred = s.deferred ++ [r] ∧ t.mem = w.mem ∧ t.rchans = s.rchans) ∧
      (w1 = 0 → 32 ≤ s.deferred.countP (fun q => q.home == r.home) → answer 0 false)) ∧
    (∀ v, r.op = .stf v → clean →
      (w1 = 1 → answer 1 false) ∧
      (1 < w1 → answer 2 false) ∧
      (w1 = 0 → ∃ t, s.Performing r t ∧ t.memWord r.addr = v ∧ t.memWord (r.addr + 8) = 1 ∧
        (∀ a, a < r.addr ∨ r.addr + 16 ≤ a → Memory.byte t.mem a = Memory.byte w.mem a) ∧
        (∀ d ∈ s.deferred, d.addr = r.addr →
          d ∉ t.deferred ∧ ∃ x ∈ t.rchan d.home d.agent, x.req = d ∧ x.val = v ∧ x.ok = true) ∧
        ∃ x, t.Answered x ∧ x.req = r ∧ x.val = 0 ∧ x.ok = true)) ∧
    (∀ n, r.op = .withdraw n → ∀ d, s.deferred.find? (fun q => q.name == n && q.agent == r.agent && q.home == r.home) = some d →
      ∃ t, exec (.futureWithdraw r.agent r.home) s = .next t ∧ t.mem = w.mem ∧
        (∀ q, q ∈ t.deferred ↔ q ∈ s.deferred ∧ q.id ≠ d.id) ∧ ∃ x ∈ t.rchan d.home d.agent, x.req = d ∧ x.val = 0 ∧ x.ok = false)

/-- R227, R231, R232: at the home of a barrier, `barv` at a scope that reaches the barrier's counts an arrival and gives the
generation; the arrival that reaches EXPECT starts the next generation, with no arrival counted, and answers every `barw` that
waits there with it at the barrier's scope; at a narrower scope or on a bad barrier it gives all ones and changes nothing. `barw`
of the current generation waits, and of another one gives the current one at once.
R226, R229, R231: at the home of a group without a barrier, `join` adds one to its count and gives 0, or gives 1 at the
greatest count; `leave` takes one away, or gives 1 at 0. The adjustment that a group with a barrier sends changes EXPECT of that
barrier by one, as BARRIER_ADJUST performs it, and starts the next generation when the arrivals counted now reach it.
R230: `bari` on a barrier whose words 2 to 7 are zero stores its configuration, keeps the generation and clears the arrivals; one with a
reserved bit set or a scope above 4 gives 1 and changes nothing; one with a continuation whose template cannot be sent gives 2 and changes
nothing, and otherwise makes the template a message of the issuer's job, which counts from then on.
R231: a release with a continuation sends it, and clears CONT. A poisoned object is not changed, and the answer is poisoned (R459). -/
def Obligations.BarriersAndGroups : Prop :=
  (∀ (s : State) (r : Req) (i : Nat), s.Front r → r.home = .slice i →
     let w := s.l2Access i r
     let w0 := (w.memWord r.addr).toNat
     let w1 := (w.memWord (r.addr + 8)).toNat
     let gen := w0 / 2 ^ 32
     let arrived := w0 % 2 ^ 32
     let expect := w1 % 2 ^ 32
     let scope := w1 / 2 ^ 32 % 8
     let clean := ∀ a, r.addr ≤ a → a < r.addr + 128 → NatSet.has w.poison a = false
     let good := w1 / 2 ^ 47 = 0 ∧ scope ≤ 4 ∧ ∀ k, 2 ≤ k → k < 8 → w.memWord (r.addr + 8 * k) = 0
     let answer := fun (t : State) (val : W64) => ∃ x, t.Answered x ∧ x.req = r ∧ x.val = val ∧ x.poison = false
     let words := (List.range 8).map (fun k => w.memWord (r.addr + 64 + 8 * k))
     let m := TaskMsg.ofWords words
     let core := w1 / 2 ^ 36 % 2 ^ 11
     (r.op = .barv ∨ (∃ g, r.op = .barw g) → ¬clean → ∃ t, s.Performing r t ∧ t.mem = w.mem ∧ ∃ x, t.Answered x ∧ x.req = r ∧ x.poison = true) ∧
     (r.op = .barv → clean → good → scope ≤ r.scope.rank → expect ≤ arrived + 1 → w1 / 2 ^ 35 % 2 = 1 →
       ∃ t, s.Performing r t ∧ (t.memWord (r.addr + 8)).toNat = w1 - 2 ^ 35 ∧ t.barConts.find? r.addr = none ∧
         (∀ l, s.barConts.find? r.addr = some l → m.hnd % 4 = 0 → m.role ≠ 3 → nth 0 words 7 = 0 → s.maskHas l core = true →
           ∃ f, t.msgs = s.msgs ++ [f] ∧ f.msg = m ∧ f.launch = l ∧ f.target = core)) ∧
     (r.op = .barv → clean →
       (good → scope ≤ r.scope.rank → arrived + 1 < expect →
         ∃ t, s.Performing r t ∧ (t.memWord r.addr).toNat = gen * 2 ^ 32 + (arrived + 1) ∧
           (∀ a, a < r.addr ∨ r.addr + 8 ≤ a → Memory.byte t.mem a = Memory.byte w.mem a) ∧ answer t (w64 gen)) ∧
       (good → scope ≤ r.scope.rank → expect ≤ arrived + 1 →
         ∃ t, s.Performing r t ∧ (t.memWord r.addr).toNat = (gen + 1) % 2 ^ 32 * 2 ^ 32 ∧
           (∀ a, a < r.addr ∨ r.addr + 16 ≤ a → Memory.byte t.mem a = Memory.byte w.mem a) ∧ answer t (w64 gen) ∧
           (∀ q ∈ s.waiters, (∃ g, q.op = .barw g) → q.home = r.home → q.addr = r.addr →
             q ∉ t.waiters ∧ ∃ x ∈ t.rchan q.home q.agent, x.req = q ∧ x.val = w64 ((gen + 1) % 2 ^ 32) ∧
               x.scope = some (Scope.ofBits scope))) ∧
       (¬good ∨ r.scope.rank < scope →
         ∃ t, s.Performing r t ∧ t.mem = w.mem ∧ t.waiters = s.waiters ∧ answer t (BitVec.allOnes 64))) ∧
     (∀ g, r.op = .barw g → clean →
       (good → gen = g.toNat → ∃ t, s.Performing r t ∧ t.waiters = s.waiters ++ [r] ∧ t.mem = w.mem ∧ t.rchans = s.rchans) ∧
       (good → gen ≠ g.toNat → ∃ t, s.Performing r t ∧ t.waiters = s.waiters ∧ t.mem = w.mem ∧ answer t (w64 gen)) ∧
       (¬good → ∃ t, s.Performing r t ∧ t.waiters = s.waiters ∧ t.mem = w.mem ∧ answer t (BitVec.allOnes 64)))) ∧
  (∀ (s : State) (r : Req) (i : Nat), s.Front r → r.home = .slice i →
     let w := s.l2Access i r
     let w0 := (w.memWord r.addr).toNat
     let w1 := (w.memWord (r.addr + 8)).toNat
     let count := w0 % 2 ^ 32
     let clean := fun (n : Nat) => ∀ a, r.addr ≤ a → a < r.addr + n → NatSet.has w.poison a = false
     let zero := ∀ k, 2 ≤ k → k < 8 → w.memWord (r.addr + 8 * k) = 0
     let answer := fun (t : State) (val : W64) => ∃ x, t.Answered x ∧ x.req = r ∧ x.val = val ∧ x.poison = false
     let counts := fun (n : Nat) =>
       ∃ t, s.Performing r t ∧ (t.memWord r.addr).toNat = n ∧
         (∀ a, a < r.addr ∨ r.addr + 8 ≤ a → Memory.byte t.mem a = Memory.byte w.mem a) ∧ answer t 0
     let same := fun (v : W64) => ∃ t, s.Performing r t ∧ t.mem = w.mem ∧ answer t v
     (clean 64 → w0 / 2 ^ 32 = 0 → w1 = 0 → zero →
       (r.op = .join → count < 2 ^ 32 - 1 → counts (count + 1)) ∧
       (r.op = .join → count = 2 ^ 32 - 1 → same 1) ∧
       (r.op = .leave → 0 < count → counts (count - 1)) ∧
       (r.op = .leave → count = 0 → same 1)) ∧
     (clean 64 → w0 / 2 ^ 32 ≠ 0 ∨ w1 % 128 ≠ 0 ∨ ¬zero → (r.op = .join ∨ r.op = .leave) → same 4) ∧
     (¬clean 64 → (r.op = .join ∨ r.op = .leave) → ∃ t, s.Performing r t ∧ t.mem = w.mem ∧ ∃ x, t.Answered x ∧ x.req = r ∧ x.poison = true) ∧
     (∀ up, r.op = (if up then .join else .leave) → clean 64 → w0 / 2 ^ 32 = 0 → w1 ≠ 0 → w1 % 128 = 0 → zero →
       count ≠ (if up then 2 ^ 32 - 1 else 0) →
       let v := ((s.taken r).l2Access i r).memSetWord r.addr (w64 (if up then count + 1 else count - 1))
       ∀ tr u, placeOf w1 = .global → canonical w1 = true → v.translate (dieOf i) r.asid w1 false none = (.ok tr, u) → cacheable tr.pa = true →
         ∃ t q, s.Performing r t ∧ t.mem = u.mem ∧ t.adjusts = u.adjusts ++ [(({ req := r, val := 0 } : Resp), w1)] ∧
           (t.chan (.slice i) (u.homeOf tr.pa)).getLast? = some q ∧ q.op = .adjust up r.id ∧ q.addr = tr.pa) ∧
     (∀ up id, r.op = .adjust up id → clean 128 → w1 / 2 ^ 47 = 0 → w1 / 2 ^ 32 % 8 ≤ 4 → zero →
       let e := w1 % 2 ^ 32
       let e' := if up then min (e + 1) (2 ^ 32 - 1) else e - 1
       let arrived := w0 % 2 ^ 32
       ∃ t, exec (.barrierAdjust r.agent r.home) s = .next t ∧ (t.memWord (r.addr + 8)).toNat % 2 ^ 32 = e' ∧
         (∀ a, a < r.addr ∨ r.addr + 16 ≤ a → Memory.byte t.mem a = Memory.byte w.mem a) ∧
         (arrived = 0 ∨ arrived < e' → (t.memWord r.addr).toNat = w0) ∧
         (0 < arrived → e' ≤ arrived → (t.memWord r.addr).toNat = (w0 / 2 ^ 32 + 1) % 2 ^ 32 * 2 ^ 32))) ∧
  (∀ (s : State) (r : Req) (i : Nat), s.Front r → r.home = .slice i → ∀ (c : W64) (ok : Bool) (job launch : Nat),
     r.op = .bari c ok job launch →
     let w := s.l2Access i r
     (∀ a, r.addr ≤ a → a < r.addr + 128 → NatSet.has w.poison a = false) →
     let zero := ∀ k, 2 ≤ k → k < 8 → w.memWord (r.addr + 8 * k) = 0
     let good := c.toNat / 2 ^ 47 = 0 ∧ c.toNat / 2 ^ 32 % 8 ≤ 4 ∧ zero
     (good → c.getLsbD 35 = false →
       ∃ t, s.Performing r t ∧ (t.memWord r.addr).toNat = (w.memWord r.addr).toNat / 2 ^ 32 * 2 ^ 32 ∧ t.memWord (r.addr + 8) = c ∧
         (∀ a, a < r.addr ∨ r.addr + 16 ≤ a → Memory.byte t.mem a = Memory.byte w.mem a) ∧
         ∃ x, t.Answered x ∧ x.req = r ∧ x.val = 0) ∧
     let words := (List.range 8).map (fun k => w.memWord (r.addr + 64 + 8 * k))
     let m := TaskMsg.ofWords words
     let sendable := m.hnd % 4 = 0 ∧ m.role ≠ 3 ∧ nth 0 words 7 = 0 ∧ ok = true
     (good → c.getLsbD 35 = true → ¬sendable → ∃ t, s.Performing r t ∧ t.mem = w.mem ∧ ∃ x, t.Answered x ∧ x.req = r ∧ x.val = 2) ∧
     (good → c.getLsbD 35 = true → sendable →
       let n := { m with bd := false, inc := 0, bound := 0, job := job }
       ∃ t, s.Performing r t ∧ (t.memWord r.addr).toNat = (w.memWord r.addr).toNat / 2 ^ 32 * 2 ^ 32 ∧ t.memWord (r.addr + 8) = c ∧
         t.memWord (r.addr + 64) = nth 0 n.words 0 ∧ t.memWord (r.addr + 72) = nth 0 n.words 1 ∧ t.barConts.find? r.addr = some launch ∧
         (∀ a, a < r.addr ∨ (r.addr + 16 ≤ a ∧ a < r.addr + 64) ∨ r.addr + 80 ≤ a → Memory.byte t.mem a = Memory.byte w.mem a) ∧
         (∀ l, s.launch? launch = some l → (w.memWord (r.addr + 8)).getLsbD 35 = false →
           ∃ m, t.launch? launch = some m ∧ m.outstanding = l.outstanding + 1) ∧
         ∃ x, t.Answered x ∧ x.req = r ∧ x.val = 0) ∧
     (¬good → ∃ t, s.Performing r t ∧ t.mem = w.mem ∧ ∃ x, t.Answered x ∧ x.req = r ∧ x.val = 1))

/-! ### Caches and answers (R154, R156, R158, R356) -/

/-- R154: EVICT of a line makes its clean bytes invalid and appends its dirty bytes as one write-back, after which they are clean;
L1_LEASE_WRITEBACK does the same to a dirty line (R356). Every other line stays as it is. DROP takes one copy out of an RDC
portion, and no other.
R154, R157, R158: ANSWER lets a portion that holds the line give it to a load at task, core or die scope at the head of a channel,
each byte with its position; a load at package or fabric scope, and one of a line that the portion does not hold, stay where they
are. -/
def Obligations.EvictionsAndPortions : Prop :=
  ((∀ (s : State) (c i : Nat) (l : L1Line), c < 1536 → (s.core c).l1[i]? = some l →
     (∀ m ∈ (s.core c).l1, m.asid = l.asid → m.line = l.line → m = l) →
     let evicted := fun (step : Instr) =>
       ∃ t, exec step s = .next t ∧
         (∀ m ∈ (t.core c).l1, m.asid = l.asid → m.line = l.line →
           ∀ e, e ∈ m.bytes ↔ ∃ b, (e.1, b) ∈ l.bytes ∧ b.dirty = true ∧ e.2 = { b with dirty := false, owners := [] }) ∧
         (∀ m, (m.asid, m.line) ≠ (l.asid, l.line) → (m ∈ (t.core c).l1 ↔ m ∈ (s.core c).l1)) ∧
         (l.isDirty = true →
           ∃ q : Req, (t.core c).oq = (s.core c).oq ++ [q] ∧ q.op = .writeBack l.dirtyBytes ∧ q.home = s.homeOf l.pa ∧ q.addr = l.pa) ∧
         (l.isDirty = false → (t.core c).oq = (s.core c).oq)
     evicted (.evict c i) ∧ (l.isDirty = true → evicted (.l1LeaseWriteback c i)) ∧
       (l.isDirty = false → exec (.l1LeaseWriteback c i) s = .next s)) ∧
   (∀ (s : State) (p i : Nat), p < 1536 →
     ∃ t, exec (.drop p i) s = .next t ∧ (∀ q, q ≠ p → t.rdc.get [] q = s.rdc.get [] q) ∧
       (∀ x, i < (s.rdc.get [] p).length → (s.rdc.get [] p)[i]? = some x →
         t.rdc.get [] p = (s.rdc.get [] p).take i ++ (s.rdc.get [] p).drop (i + 1)))) ∧
  (∀ (s : State) (c i : Nat) (r : Req), c < 1536 → dieOf i ≠ dieOf c → (s.chan (.core c) (.slice i)).head? = some r →
     r.agent = .core c → r.home = .slice i → r.op = .read → r.size = 128 →
     let portion := dieOf c * 384 + i % 384
     (∀ x, s.rdcLine portion (.slice i) r.addr = some x → r.scope.rank ≤ 2 →
       ∃ t, exec (.answer c (.slice i)) s = .next t ∧ t.chans = (s.taken r).chans ∧
         t.mem = s.mem ∧ t.rdc = s.rdc ∧ ∃ y, t.Answered y ∧ y.req = r ∧ y.bytes = x.bytes.map (·.1) ∧ y.poss = x.bytes.map (·.2)) ∧
     (2 < r.scope.rank ∨ s.rdcLine portion (.slice i) r.addr = none → exec (.answer c (.slice i)) s = .next s))

/-- R106, R154, R156, R238, R459: RESPOND delivers the oldest answer of a channel. A value goes to the register of the task that
asked for it, truncated to its size and extended, and frees its interlock and its wait; an answer to a task that is no more
changes no context but for the positions that tasks are held to have seen (R158); poison traps at the instruction that asked, its
register as it was, at once where the task awaits nothing else (R102).
R156, R157, R195: the answer to a load of a line that the L1 does not hold fills the line, every byte of it clean at its position,
and gives the bytes at the address of the load, extended as it asks. -/
def Obligations.Answers : Prop :=
  (∀ (s : State) (c : Nat) (x : Resp) (rest : List Resp) (reg : Reg) (n : Nat) (signed : Bool),
     let r := x.req
     s.rchan r.home r.agent = x :: rest → r.agent = .core c → r.dest = .value reg n signed → r.acq = none →
     let t := s.ctx c r.ctx
     let same := fun (u : State) (k : Nat) => ({ u.ctx c k with seen := (s.ctx c k).seen } : Ctx) = s.ctx c k
     ∃ u, exec (.respond r.home r.agent) s = .next u ∧ u.mem = s.mem ∧
       (x.poison = false → (∀ o ∈ (u.core c).out, o.req.id ≠ r.id) ∧ ∀ k, k ≠ r.ctx → same u k) ∧
       (t.uid = r.uid → t.phase ≠ .free → t.phase ≠ .leaving → x.poison = false →
         (u.ctx c r.ctx).x = (t.put reg (.word (extend signed n x.val.toNat))).x ∧ reg ∉ (u.ctx c r.ctx).var ∧
         (u.ctx c r.ctx).pc = t.pc ∧ (t.wait = .answer r.id → t.phase = .running → (u.ctx c r.ctx).wait = .none)) ∧
       (t.uid = r.uid → t.phase = .running → x.poison = true → (∀ v ∈ t.var, v = reg) → t.killed = false →
         (t.wait = .none ∨ t.wait = .answer r.id) →
         (u.ctx c r.ctx).faulta.toNat % 2 ^ 24 = r.epc % 2 ^ 16 * 2 ^ 8 + 0x13 ∧ (u.ctx c r.ctx).faultb = w64 r.va ∧
         (u.ctx c r.ctx).x = t.settle.x) ∧
       (t.uid = r.uid → t.phase = .running → x.poison = true → (∃ v ∈ t.var, v ≠ reg) → (t.wait = .none ∨ t.wait = .answer r.id) →
         ∃ insn, (u.ctx c r.ctx).wait = .trap (some r.id) 0x13 0 (w64 r.va) r.epc insn ∧ (u.ctx c r.ctx).x = t.x) ∧
       (t.uid ≠ r.uid → s.saves = [] → same u r.ctx)) ∧
  (∀ (s : State) (c i : Nat) (x : Resp) (rest : List Resp) (reg : Reg) (n : Nat) (signed : Bool),
     let r := x.req
     s.rchan r.home r.agent = x :: rest → r.agent = .core c → r.home = .slice i → dieOf i = dieOf c → r.op = .read →
     r.dest = .load reg n signed → r.acq = none → x.ok = true → x.bytes.length = 128 → r.addr % 128 = 0 → x.base = r.addr →
     r.va % 128 + n ≤ 128 → PByte.anyBad x.bytes = false → x.poss = [] → (∃ tr : Tr, r.tr = some tr ∧ tr.pa = r.addr) →
     (∀ m ∈ (s.core c).l1, ¬(m.asid = r.asid ∧ m.line = r.va / 128)) →
     let t := s.ctx c r.ctx
     t.uid = r.uid → t.phase ≠ .free → t.phase ≠ .leaving →
     ∃ u, exec (.respond r.home r.agent) s = .next u ∧
       (u.ctx c r.ctx).x =
         (t.put reg (.word (extend signed n (leNat ((PByte.vals x.bytes).drop (r.va % 128) |>.take n))))).x ∧
       reg ∉ (u.ctx c r.ctx).var ∧
       ∃ l, (u.core c).l1At r.asid r.va = some l ∧ l.pa = r.addr ∧ l.isDirty = false ∧
         ∀ j (h : j < x.bytes.length), l.bytes.find? j = some { val := x.bytes[j].val, dirty := false, bad := x.bytes[j].bad, pos := some x.pos }) ∧
  (∀ (s : State) (c : Nat) (x : Resp) (rest : List Resp) (reg : Reg),
     let r := x.req
     s.rchan r.home r.agent = x :: rest → r.agent = .core c → r.acq = none → x.scope = none → x.poison = false →
     let t := s.ctx c r.ctx
     t.uid = r.uid → t.phase ≠ .free → t.phase ≠ .leaving →
     let gives := fun (p : Ctx → Prop) =>
       ∃ u, exec (.respond r.home r.agent) s = .next u ∧ u.mem = s.mem ∧ p (u.ctx c r.ctx) ∧ (u.ctx c r.ctx).pc = t.pc ∧
         (t.wait = .answer r.id → (u.ctx c r.ctx).phase = .running ∧ (u.ctx c r.ctx).wait = if t.phase = .parked then .settle else .none)
     let takes := fun (u : Ctx) => u.x = (t.put reg (.word x.val)).x ∧ reg ∉ u.var
     (r.dest = .answer reg → (r.registers = false ∨ t.wait = .answer r.id) → (x.ok = true ∨ r.op.hubRefusal = false) → gives takes) ∧
     (r.dest = .answer reg → r.registers = true → t.wait ≠ .answer r.id →
       gives (fun u => u.x = t.x ∧ u.var = t.var ∧ u.wait = t.wait ∧ u.phase = t.phase)) ∧
     (r.dest = .answer reg → r.registers = false → x.ok = false → r.op.hubRefusal = true → t.phase = .running →
       (t.wait = .none ∨ t.wait = .answer r.id) → t.killed = false → (∀ v ∈ t.var, v = reg) →
       ∃ u, exec (.respond r.home r.agent) s = .next u ∧ (u.ctx c r.ctx).faulta.toNat % 2 ^ 24 = r.epc % 2 ^ 16 * 2 ^ 8 + 0x11 ∧
         (u.ctx c r.ctx).faultb = x.val ∧ (u.ctx c r.ctx).x = t.settle.x) ∧
     (∀ (addr : Nat) (up : Bool), r.dest = .group reg addr up →
       gives (fun u => takes u ∧ u.groups =
         if up = true then (if x.val = 0 then t.groups ++ [addr] else t.groups) else t.groups.filter (· ≠ addr))) ∧
     (r.dest = .future reg → t.expired = false → t.recalled = false →
       gives (fun u => takes u ∧ .fut ∉ u.var ∧ u.status.getLsbD 13 = x.ok)))

/-! ### The task instructions (R216 to R223, R341 to R347) -/

/-- R113, R216, R217, R342: `spawn` and `spawnb` with an open gate send the message that stands in the own scratchpad, with the job of
the task, and the bound of the message for `spawnb` alone, to the core that rs2 names, or to their own, and park until it is
accepted, when `spawnb` gives 0 (R127). `spawnb` of a message whose bound fails at once gives 1 and sends nothing.
R217, R219, R221: what `spawn`, `spawnb`, `park` and `qput` trap with before anything of them happens: protection outside the own
window, misaligned, scratchpad-bounds; and for a message the misaligned handler, the reserved role or word, and the target, each
with its FAULTB.
R142, R216, R218 to R221, R223: `end` frees the context and takes the task off the count of its job where it has joined no group;
else it leaves the group joined last and holds the context, the job counting on, until the others are left. `park` gives the word at once when it differs from
rs2, and otherwise parks the task on it; `yield` changes nothing but the order of issue; `qput` with an open gate sends the record
to the agent of its queue, or gives 3 for a queue above 255; `cancel` sends the job to the four agents and leaves rd to their
answer. -/
def Obligations.TaskInstructions : Prop :=
  (∀ (s : State), s.Alive → ∀ (st : Fin 8) (rd rs1 rs2 : Fin 32) (off : Nat),
     s.OwnObject (s.X rs1).toNat 64 off → s.spClean off 64 →
     let m := TaskMsg.ofWords ((List.range 8).map (s.spWord off))
     let target := if s.X rs2 = BitVec.allOnes 64 then s.curCore else (s.X rs2).toNat
     m.hnd % 4 = 0 → m.role ≠ 3 → s.spWord off 7 = 0 → target ≤ 1535 → s.inMask s.cur target = true →
     (m.key = 0 → s.Open (scopeOf s.curCore target)) → (m.key ≠ 0 → s.Open .package) →
     let sends := fun (i : Instr) (m : TaskMsg) (reg : Option Reg) =>
       ∃ t f, exec i s = .next t ∧ f.msg = m ∧ f.launch = s.cur.launch ∧ f.target = target ∧ f.sender = .core s.curCore ∧
         f.ctx = s.curCtx ∧ f.counted = false ∧
         s.Performed t st (nextPc s.cur.pc)
           (({ s with msgs := s.msgs ++ [f] } : State).updCur (fun u =>
             { u with wait := .message reg, phase := .parked, waitFrom := some s.now }))
     sends (.spawn st rs1 rs2) { m with job := s.cur.job, bd := false, inc := 0, bound := 0 } none ∧
     (boundCheck (s.here.shadow.get {} m.inc) s.cur.asid s.cur.job m.bound = false →
       sends (.spawnb st rd rs1 rs2) { m with job := s.cur.job, bd := true } (some (.x s.cur.bank rd))) ∧
     (boundCheck (s.here.shadow.get {} m.inc) s.cur.asid s.cur.job m.bound = true →
       s.Computes (.spawnb st rd rs1 rs2) st rd 1)) ∧
  (∀ (s : State), s.Alive → ∀ (st : Fin 8) (rd rs1 rs2 : Fin 32),
     s.OwnObjectTraps (.spawn st rs1 rs2) (s.X rs1) 64 ∧ s.OwnObjectTraps (.spawnb st rd rs1 rs2) (s.X rs1) 64 ∧
     s.OwnObjectTraps (.park st rd rs1 rs2) (s.X rs1) 8 ∧ s.OwnObjectTraps (.qput st rd rs1 rs2) (s.X rs1) 128 ∧
     ∀ (i : Instr), i = .spawn st rs1 rs2 ∨ i = .spawnb st rd rs1 rs2 → ∀ (off : Nat),
       s.OwnObject (s.X rs1).toNat 64 off → s.spClean off 64 →
       let w0 := (s.spWord off 0).toNat
       let target := if s.X rs2 = BitVec.allOnes 64 then s.curCore else (s.X rs2).toNat
       let resv := w0 / 2 ^ 24 % 4 = 3 ∨ s.spWord off 7 ≠ 0
       (w0 % 4 ≠ 0 → s.Traps i false 0x04 0 (s.X rs1)) ∧
       (w0 % 4 = 0 → resv → s.Traps i false 0x02 0 0) ∧
       (w0 % 4 = 0 → ¬resv → ¬(target ≤ 1535 ∧ s.inMask s.cur target = true) → s.Traps i false 0x11 0 (w64 target))) ∧
  (∀ (s : State), s.Alive → ∀ (st : Fin 8) (rd rs1 rs2 : Fin 32),
     ((∀ q ∈ s.poolQueue (s.curCore / 8), q.core = s.curCore → q.ctx = s.curCtx → q.uid = s.cur.uid) →
       (∀ f ∈ s.msgs, f.uid ≠ s.cur.uid) →
       ∃ t, exec (.endTask st) s = .next t ∧ (t.ctx s.curCore s.curCtx).claim = none ∧
         (s.cur.groups = [] → (t.ctx s.curCore s.curCtx).phase = .free ∧ t.mem = s.mem ∧
           (∀ l, s.launch? s.cur.launch = some l →
             ∃ m, t.launch? s.cur.launch = some m ∧ m.outstanding = l.outstanding - 1)) ∧
         (∀ rest g tr u, s.cur.groups = rest ++ [g] →
           s.translate s.die s.cur.asid g false (some s.curCore) = (.ok tr, u) →
           (t.ctx s.curCore s.curCtx).phase = .leaving ∧ t.launch? s.cur.launch = s.launch? s.cur.launch ∧
           (∃ l ∈ t.leaving, l.uid = s.cur.uid ∧ l.ctx = some s.curCtx ∧ l.groups = rest.reverse) ∧
           ∃ q, t.here.oq.getLast? = some q ∧ q.op = .leave ∧ q.addr = tr.pa ∧ q.va = g)) ∧
     (∀ off, s.OwnObject (s.X rs1).toNat 8 off → s.spClean off 8 →
       (s.spWord off 0 ≠ s.X rs2 → s.Computes (.park st rd rs1 rs2) st rd (s.spWord off 0)) ∧
       (s.spWord off 0 = s.X rs2 → s.Completes (.park st rd rs1 rs2) st (nextPc s.cur.pc)
         (s.updCur (fun t => { t with wait := .word off (.x t.bank rd), phase := .parked, waitFrom := some s.now })))) ∧
     s.Completes (.yield st) st (nextPc s.cur.pc) (s.updCur (fun t => { t with yielded := some s.cycle })) ∧
     (∀ off, s.OwnObject (s.X rs1).toNat 128 off → s.Open .package →
       ((s.X rs2).toNat ≤ 255 → ∃ t, exec (.qput st rd rs1 rs2) s = .next t ∧
         s.Performed t st (nextPc s.cur.pc) ((s.sendUnit (.queueAgent ((s.X rs2).toNat / 64))
           (.qput (s.X rs2).toNat (s.here.spBytes off 128) s.cur.sup) none (.value (.x s.cur.bank rd) 8 false)).owing rd) ∧
         ∃ q : Req, t.here.oq = s.here.oq ++ [q] ∧ q.home = .queueAgent ((s.X rs2).toNat / 64) ∧
           q.op = .qput (s.X rs2).toNat (s.here.spBytes off 128) s.cur.sup) ∧
       (255 < (s.X rs2).toNat → s.Computes (.qput st rd rs1 rs2) st rd 3)) ∧
     (∃ t op, exec (.cancel st rd rs1) s = .next t ∧
       s.Performed t st (nextPc s.cur.pc) (({ s with cancelOps := s.cancelOps ++ [op] } : State).owing rd) ∧
       op.job = (s.X rs1).toNat % 2 ^ 32 ∧ op.todo = [0, 1, 2, 3] ∧ op.core = s.curCore ∧ op.ctx = s.curCtx ∧
       op.asid = (if s.cur.sup = true then (s.X rs1).toNat / 2 ^ 32 % 2 ^ 6 else s.cur.asid)))

/-- R341 to R347: `setbnd` gives an unbounded task its incumbent and its bound, gives 1 to a task of another incumbent, and tightens the
bound of its own under the mode of a bound register; `killpt` in a task that nothing kills changes nothing; `improve` with an open
gate and `rdinc` from the hub send their request there and let nothing of the task issue before the answer; `rdinc` of the shadow gives its
key to a task of the bound job, or to a supervisor, and traps in any other; `incset` takes supervisor mode, gives 1 for a
reserved bit, and with an open gate sends its request to the hub.
R330 to R336, R345 to R347, R495: the hub gives an `improve` the key that stood, and takes its key and broadcasts it where it is better;
it refuses one of another job, and `rdinc` of another job in user mode. A broadcast improves a bound register of a shadow, and no
other. An `incset` first unbinds the register at every shadow, then sets it at the hub, then installs it at every shadow where it is
bound, and is answered at the end. A shadow that has not acknowledged a broadcast after 1 µs is reported once. -/
def Obligations.Incumbents : Prop :=
  (∀ (s : State), s.Alive → ∀ (st : Fin 8) (rd rs1 rs2 : Fin 32) (inc : Fin 16) (acq : Fin 2),
     let b := (s.X rs1).toNat % 2 ^ 32
     let c := (s.X rs2).toNat
     let sh := s.here.shadow.get {} inc
     let bound := sh.bind / 2 ^ 38 % 2 = 1
     let value := fun (x : Nat) => if sh.mode / 4 % 2 = 1 then sgnOf 32 x else ((x % 2 ^ 32 : Nat) : Int)
     let tighter := if sh.mode % 2 = 1 then value s.cur.bound < value b else value b < value s.cur.bound
     let mine := sh.bind = 2 ^ 38 + s.cur.asid % 64 * 2 ^ 32 + s.cur.job % 2 ^ 32
     let sent := fun (i : Instr) (op : HomeOp) (acq : Option Scope) (dest : Dest) (f : State → State) =>
       ∃ t, exec i s = .next t ∧ s.Performed t st (nextPc s.cur.pc) ((f (s.sendUnit .hub op acq dest)).owing rd) ∧
         ∃ q : Req, t.here.oq = s.here.oq ++ [q] ∧ q.home = .hub ∧ q.op = op ∧ q.acq = acq
     let hold := fun (w : State) => w.holdFor s.nextId
     (s.cur.bd = false → s.Completes (.setbnd st rd rs1 inc) st (nextPc s.cur.pc)
       ((s.updCur (fun t => { t with bd := true, inc := inc, bound := b })).putX rd 0)) ∧
     (s.cur.bd = true → s.cur.inc ≠ inc → s.Computes (.setbnd st rd rs1 inc) st rd 1) ∧
     (s.cur.bd = true → s.cur.inc = inc → ¬bound → s.Completes (.setbnd st rd rs1 inc) st (nextPc s.cur.pc)
       ((s.updCur (fun t => { t with bound := b })).putX rd 0)) ∧
     (s.cur.bd = true → s.cur.inc = inc → bound → s.Completes (.setbnd st rd rs1 inc) st (nextPc s.cur.pc)
       ((s.updCur (fun t => { t with bound := if tighter then b else t.bound })).putX rd 0)) ∧
     s.Completes (.killpt st) st (nextPc s.cur.pc) s ∧
     (s.Open .package → sent (.improve st rd rs1 inc) (.improve inc (s.X rs1) s.cur.sup s.cur.job) none (.answer (.x s.cur.bank rd)) hold) ∧
     sent (.rdinc st rd inc acq 1) (.rdinc inc s.cur.sup s.cur.job) (if acq = 1 then some .package else none)
       (.answer (.x s.cur.bank rd)) hold ∧
     (s.cur.sup = true ∨ mine → s.Completes (.rdinc st rd inc acq 0) st (nextPc s.cur.pc)
       ((if acq = 1 then s.acquire s.curCore .package else s).putX rd sh.key)) ∧
     (s.cur.sup = false → ¬mine → s.Traps (.rdinc st rd inc acq 0) false 0x11 0 (w64 inc.val)) ∧
     (s.cur.sup = false → s.Traps (.incset st rd rs1 rs2) false 0x03 0 0) ∧
     (s.cur.sup = true → (c / 2 ^ 22 % 2 ^ 10 ≠ 0 ∨ c / 2 ^ 9 % 2 ^ 7 ≠ 0 ∨ c / 2 ^ 7 % 2 ≠ 0) →
       s.Computes (.incset st rd rs1 rs2) st rd 1) ∧
     (s.cur.sup = true → c / 2 ^ 22 % 2 ^ 10 = 0 → c / 2 ^ 9 % 2 ^ 7 = 0 → c / 2 ^ 7 % 2 = 0 → s.Open .package →
       sent (.incset st rd rs1 rs2)
         (.incset (c % 16) (s.X rs1) (c / 2 ^ 4 % 8)
           (if c / 2 ^ 8 % 2 = 1 then 2 ^ 38 + c / 2 ^ 16 % 64 * 2 ^ 32 + c / 2 ^ 32 else 0))
         none (.value (.x s.cur.bank rd) 8 false) id)) ∧
  ((∀ (s : State) (r : Req), s.Front r → r.home = .hub → ∀ (inc : Nat) (key : W64) (sup : Bool) (job : Nat), s.incsets.find? inc = none →
     let x := s.hub.get {} inc
     let mine := x.bind = 2 ^ 38 + r.asid % 2 ^ 6 * 2 ^ 32 + job % 2 ^ 32
     let bound := x.bind / 2 ^ 38 % 2 = 1
     let value := fun (v : Nat) => if x.mode / 4 % 2 = 1 then sgnOf 32 v else ((v % 2 ^ 32 : Nat) : Int)
     let new := value (key.toNat / 2 ^ 32)
     let old := value (x.key.toNat / 2 ^ 32)
     let improves := if x.mode % 2 = 1 then new < old else old < new
     let answers := fun (t : State) (v : W64) (ok : Bool) => ∃ y, t.Answered y ∧ y.req = r ∧ y.val = v ∧ y.ok = ok
     (r.op = .improve inc key sup job →
       (¬bound ∨ (¬mine ∧ sup = false) → ∃ t, s.Performing r t ∧ t.hub = s.hub ∧ t.bcasts = s.bcasts ∧ answers t (w64 inc) false) ∧
       (bound → (mine ∨ sup = true) → improves →
         ∃ (t : State) (b : Bcast), s.Performing r t ∧ t.hub.get {} inc = { x with key := key } ∧ (∀ j, j ≠ inc → t.hub.get {} j = s.hub.get {} j) ∧
           t.bcasts = s.bcasts ++ [b] ∧ b.inc = inc ∧ b.key = key ∧ b.acked = [] ∧ answers t x.key true) ∧
       (bound → (mine ∨ sup = true) → ¬improves →
         ∃ t, s.Performing r t ∧ t.hub = s.hub ∧ t.bcasts = s.bcasts ∧ answers t x.key true)) ∧
     (r.op = .rdinc inc sup job →
       (sup = true ∨ mine → ∃ t, s.Performing r t ∧ t.hub = s.hub ∧ answers t x.key true) ∧
       (sup = false → ¬mine → ∃ t, s.Performing r t ∧ t.hub = s.hub ∧ answers t (w64 inc) false)) ∧
     (∀ mode bind, r.op = .incset inc key mode bind →
       ∃ t i, s.Performing r t ∧ t.incsets.find? inc = some i ∧ i.req = r ∧ i.install = false ∧ i.acked = [] ∧
         (∀ b ∈ t.bcasts, b.inc ≠ inc) ∧ t.hub = s.hub)) ∧
   (∀ (s : State) (sh i : Nat) (b : Bcast), s.bcasts[i]? = some b → sh < 1540 → NatSet.has b.acked sh = false →
     let x := (s.shadows sh).get {} b.inc
     let value := fun (v : Nat) => if x.mode / 4 % 2 = 1 then sgnOf 32 v else ((v % 2 ^ 32 : Nat) : Int)
     let new := value (b.key.toNat / 2 ^ 32)
     let old := value (x.key.toNat / 2 ^ 32)
     let improves := x.bind / 2 ^ 38 % 2 = 1 ∧ if x.mode % 2 = 1 then new < old else old < new
     ∃ t, exec (.incumbentBroadcast sh i) s = .next t ∧ (improves → (t.shadows sh).get {} b.inc = { x with key := b.key }) ∧
       (¬improves → (t.shadows sh).get {} b.inc = x) ∧ (∀ k, k ≠ b.inc → (t.shadows sh).get {} k = (s.shadows sh).get {} k) ∧
       (∀ j, j ≠ sh → t.shadows j = s.shadows j) ∧ t.hub = s.hub ∧
       (b.acked.length ≠ 1539 → t.bcasts[i]? = some { b with acked := NatSet.add b.acked sh }) ∧
       (b.acked.length = 1539 → t.bcasts.length + 1 = s.bcasts.length)) ∧
   (∀ (s : State) (sh inc : Nat) (i : IncSet) (key : W64) (mode bind : Nat), sh < 1540 → s.incsets.find? inc = some i →
     i.req.op = .incset inc key mode bind → NatSet.has i.acked sh = false → s.hubWait = [] →
     (∀ e ∈ s.incsets, e.1 ≠ inc → NatSet.has e.2.acked sh = true) → (∀ e ∈ s.incsets, e.1 = inc → e.2 = i) →
     let x := (s.shadows sh).get {} inc
     let valid := bind / 2 ^ 38 % 2 = 1
     let ended := fun (t : State) => t.incsets.find? inc = none ∧ ∃ y, t.Answered y ∧ y.req = i.req ∧ y.val = 0
     (i.install = false →
       ∃ t, exec (.shadowUnbind sh) s = .next t ∧ (t.shadows sh).get {} inc = { lag := x.lag } ∧
         (i.acked.length ≠ 1539 → t.incsets.find? inc = some { i with acked := NatSet.add i.acked sh } ∧ t.hub = s.hub) ∧
         (i.acked.length = 1539 → t.hub.get {} inc = { key := key, mode := mode, bind := bind } ∧
           (valid → ∃ j, t.incsets.find? inc = some j ∧ j.req = i.req ∧ j.install = true ∧ j.acked = []) ∧ (¬valid → ended t))) ∧
     (i.install = true →
       ∃ t, exec (.shadowStateInstall sh) s = .next t ∧
         (t.shadows sh).get {} inc = { key := key, mode := mode, bind := bind, lag := x.lag } ∧
         (i.acked.length ≠ 1539 → t.incsets.find? inc = some { i with acked := NatSet.add i.acked sh }) ∧
         (i.acked.length = 1539 → ended t))) ∧
   (∀ (s : State) (sh : Nat), s.incsets = [] → NatSet.has s.lagSend sh = true →
     ∃ t, exec (.shadowStateInstall sh) s = .next t ∧ NatSet.has t.lagSend sh = false ∧
       ∀ inc, inc < 16 →
         let x := s.hub.get {} inc
         (t.shadows sh).get {} inc = if x.bind / 2 ^ 38 % 2 = 1 then { x with lag := false } else {}) ∧
   (∀ (s : State) (sh inc : Nat), sh < 1540 →
     let x := (s.shadows sh).get {} inc
     let late := ∃ b ∈ s.bcasts, b.inc = inc ∧ NatSet.has b.acked sh = false ∧ b.sent + 1000 ≤ s.timeOf 0
     (late → x.lag = false →
       ∃ t, exec (.shadowLag sh inc) s = .next t ∧ (t.shadows sh).get {} inc = { x with lag := true } ∧
         (s.queueFull pRq = false → t.regBits (pRq + 0x18) 31 0 = (s.regBits (pRq + 0x18) 31 0 + 1) % 2 ^ 32)) ∧
     (¬late ∨ x.lag = true → exec (.shadowLag sh inc) s = .next s)))

/-! ### Hires and engines at issue (R321 to R328, R380, R381, R401 to R406) -/

/-- R294, R295, R301, R305, R306, R321 to R328: `hire` and `bind` that fail a shape check trap with its number, then with what the place of a tile
or of a map traps with, poison in a map, or a map that is not good; checked, they take the
lowest slot that is NONE or final, capture the geometry registers, the tables, the bases and the maps, go to their array, and give
the ticket; without a slot they park, and take a slot later with what they captured at issue, whatever stands in the maps by then. `hgw` and `hgr` write and read one geometry register. `hstat` gives the status word of a
slot of its own context; a final one clears the mark of its hire, and DONE acquires at package scope; `hwait` waits until the
status is final, or, as it asks, until the operands are pushed. `unbind` and `burst` go to an array of the die. -/
def Obligations.HireInstructions : Prop :=
  (∀ (s : State) (h : Hire) (st : Fin 8) (rd rs1 rs2 : Fin 32), s.cur.pend = [] → s.cur.var = [] → s.cur.pp = false →
    s.cur.killed = false → s.cur.wait = .cond → s.cur.phase = .parked → s.cur.hiring = some h →
    s.TakesSlot (.hire st rd rs1 rs2) rd h ∧ s.TakesSlot (.bind st rd rs1 rs2) rd h) ∧
  ∀ (s : State), s.Alive → s.cur.hiring = none → ∀ (st : Fin 8) (rd rs1 rs2 : Fin 32) (hg : Fin 8) (e : Fin 2),
    let a := s.X rs1
    let b := s.X rs2
    let half := fun (off i : Nat) => leNat (Memory.bytes s.here.spad (off + 2 * i) 2)
    let clean := fun (off n : Nat) => ∀ j, off ≤ j → j < off + n → NatSet.has s.here.spadPoison j = false
    let h0 := s.draftHire false a.toNat b.toNat (b.toNat % 2 ^ 32) [] []
    let d := if h0.usesDup = true then half h0.dmap 0 else 0
    let h := { h0 with
      dup := (List.range d).map (fun i => half h0.dmap (1 + i)),
      idx := if h0.gath = true then (List.range h0.m).map (half h0.gidx) else [] }
    let hb := s.draftHire true 0 a.toNat (b.toNat % 2 ^ 32) [] []
    let reads := fun (i : Instr) =>
      let w := s.slotStatus s.cur (a.toNat % 8)
      (w.toNat % 256 < 0x10 → s.Computes i st rd w) ∧
      (∀ x, s.cur.hires.find? (a.toNat % 8) = some x → 0x10 ≤ w.toNat % 256 → w.toNat % 256 ≠ 0x10 →
        s.Completes i st (nextPc s.cur.pc) ((s.clearMark x.hid).putX rd w)) ∧
      (∀ x, s.cur.hires.find? (a.toNat % 8) = some x → w.toNat % 256 = 0x10 →
        s.Completes i st (nextPc s.cur.pc) (((s.clearMark x.hid).acquire s.curCore .package).putX rd w))
    let mine := a.toNat < 128 ∧ a.toNat / 8 = s.curCtx
    let event := s.cur.slotFree (a.toNat % 8) = true ∨ (e = 1 ∧ (s.slotStatus s.cur (a.toNat % 8)).getLsbD 17 = true)
    let i := Instr.hire st rd rs1 rs2
    let stops := fun (i : Instr) (va : W64) (align n : Nat) =>
      ((∀ off, placeOf va.toNat ≠ .own off) → s.Traps i false 0x11 0 va) ∧
      (∀ off, placeOf va.toNat = .own off →
        (va.toNat % align ≠ 0 → s.Traps i false 0x04 0 va) ∧ (va.toNat % align = 0 → s.here.spsize < off + n → s.Traps i false 0x14 0 va))
    let tiles := h.shape = none ∧ s.TileOk a 4 h.aExtent ∧ (h.res = false → s.TileOk b 4 h.bTile.extent)
    let maps := (h.gath = true → s.TileOk (spVa h.gidx) 2 (2 * h.m)) ∧ (h.usesDup = true → s.TileOk (spVa h.dmap) 2 (2 + 2 * d))
    let mapsRead := (h.gath = true → clean h.gidx (2 * h.m)) ∧ (h.usesDup = true → clean h.dmap (2 + 2 * d))
    let mapsGood := (∀ x ∈ h.idx, x < h.g 5 51 40) ∧ d ≤ 4095 ∧ h.dup.Pairwise (· < ·) ∧ (∀ x ∈ h.dup, x < h.k0) ∧ d < h.k
    (∀ n, h.shape = some n → s.Traps i false 0x18 n 0) ∧
    (h.shape = none → stops i a 4 h.aExtent) ∧
    (h.shape = none → s.TileOk a 4 h.aExtent → h.res = false → stops i b 4 h.bTile.extent) ∧
    (tiles → h.gath = true → stops i (spVa h.gidx) 2 (2 * h.m)) ∧
    (tiles → (h.gath = true → s.TileOk (spVa h.gidx) 2 (2 * h.m)) → h.usesDup = true → stops i (spVa h.dmap) 2 (2 + 2 * d)) ∧
    (tiles → maps → h.gath = true → ¬clean h.gidx (2 * h.m) → s.Traps i false 0x13 0 (spVa h.gidx)) ∧
    (tiles → maps → (h.gath = true → clean h.gidx (2 * h.m)) → h.usesDup = true → ¬clean h.dmap (2 + 2 * d) → s.Traps i false 0x13 0 (spVa h.dmap)) ∧
    (tiles → maps → mapsRead → ¬mapsGood → s.Traps i false 0x18 0 0) ∧
    (tiles → maps → mapsRead → mapsGood → s.TakesSlot i rd h) ∧
    (∀ n, hb.bindShape = some n → s.Traps (.bind st rd rs1 rs2) false 0x18 n 0) ∧
    (hb.bindShape = none → stops (.bind st rd rs1 rs2) a 4 hb.bTile.extent) ∧
    (hb.bindShape = none → s.TileOk a 4 hb.bTile.extent → s.TakesSlot (.bind st rd rs1 rs2) rd hb) ∧
    s.Completes (.hgw st rs1 hg) st (nextPc s.cur.pc) (s.updCur (fun t => { t with hg := t.hg.set hg a })) ∧
    s.Computes (.hgr st rd hg) st rd (s.cur.hg.get 0 hg) ∧
    (¬mine → s.Traps (.hstat st rd rs1) false 0x11 0 a ∧ s.Traps (.hwait st rd rs1 e) false 0x11 0 a) ∧
    (mine → reads (.hstat st rd rs1)) ∧
    (mine → event → reads (.hwait st rd rs1 e)) ∧
    (mine → ¬event → s.Holds (.hwait st rd rs1 e)) ∧
    (35 < a.toNat → s.Traps (.unbind st rd rs1 rs2) false 0x11 0 a ∧ s.Traps (.burst st rs1 rs2) false 0x11 0 a) ∧
    (a.toNat ≤ 35 →
      (∃ u : Unbind, u.core = s.curCore ∧ u.ctx = s.curCtx ∧ u.asid = s.cur.asid ∧ u.tag = b.toNat % 2 ^ 32 ∧
        u.reg = .x s.cur.bank rd ∧
        (∀ hid, hid ∈ u.before ↔ ∃ x ∈ s.hires, x.hid = hid ∧ x.uid = s.cur.uid ∧ x.arr ≠ 0xFF ∧ x.arrayId = s.die * 36 + a.toNat) ∧
        s.Completes (.unbind st rd rs1 rs2) st (nextPc s.cur.pc)
          ((s.updArray (s.die * 36 + a.toNat) (fun x => { x with unbinds := x.unbinds ++ [u] })).owing rd)) ∧
      s.Completes (.burst st rs1 rs2) st (nextPc s.cur.pc)
        (s.updArray (s.die * 36 + a.toNat) (fun x => { x with bursts := x.bursts ++ [(s.curCore, b.toNat % 2 ^ 20)] })))

/-- R380, R381, R401, R402, R403: `cpst` gives the status word that a transfer id names, EXPIRED for one that names nothing;
`cpwait` waits until the status is final or its event has come, and acquires at the scope of a visible event that it asks for; a
malformed id traps. `ringsub` checks the header, gives its error codes, and otherwise subscribes the ring, whose counters and state
it writes; `ringstop` of another job's ring or of none gives 1, and otherwise leaves rd to the end of the slot in progress. -/
def Obligations.TransferInstructions : Prop :=
  ∀ (s : State), s.Plain → ∀ (st : Fin 8) (rd rs1 : Fin 32) (e : Fin 2),
    let t := s.X rs1
    let n := t.toNat
    let bad := n / 2 ^ 24 ≠ 0 ∨ (n / 2 ^ 23 % 2 = 0 ∧ n / 2 ^ 18 % 2 ^ 5 ≠ 0)
    let w := s.idStatus n
    let ring := s.ring? (n % 2 ^ 9 / 64) (n % 64)
    let event := 0x10 ≤ w.toNat % 256 ∨ (if e = 1 then w.getLsbD 17 = true else w.getLsbD 16 = true)
    (bad → s.Traps (.cpst st rd rs1) false 0x11 0 t ∧ s.Traps (.cpwait st rd rs1 e) false 0x11 0 t) ∧
    (¬bad → s.Computes (.cpst st rd rs1) st rd w) ∧
    (¬bad → s.idOp n = none → w = 0x30) ∧
    (¬bad → event → s.Completes (.cpwait st rd rs1 e) st (nextPc s.cur.pc)
      ((if e = 1 ∧ w.getLsbD 17 = true then s.acquire s.curCore (((s.idOp n).map (·.scope)).getD .package) else s).putX rd w)) ∧
    (¬bad → ¬event → s.Holds (.cpwait st rd rs1 e)) ∧
    s.OwnObjectTraps (.ringsub st rd rs1) t 64 ∧
    (∀ off, s.OwnObject n 64 off → s.spClean off 64 →
      let h := (List.range 8).map (s.spWord off)
      let size := 64 + (s.spWord off 0).toNat % 2 ^ 9 * ((s.spWord off 0).toNat / 2 ^ 16 % 2 ^ 24)
      let unit := ringUnit s.curCore
      (s.here.spsize < off + size → s.Traps (.ringsub st rd rs1) false 0x14 0 t) ∧
      (off + size ≤ s.here.spsize → badHeader h = true → s.Computes (.ringsub st rd rs1) st rd (w64 (2 ^ 63 + 2))) ∧
      (off + size ≤ s.here.spsize → badHeader h = false → (s.bdeOff unit = true ∨ (s.bde unit).freeRing = none) →
        s.Computes (.ringsub st rd rs1) st rd (w64 (2 ^ 63 + 1))) ∧
      (off + size ≤ s.here.spsize → badHeader h = false → s.bdeOff unit = false → ∀ k, (s.bde unit).freeRing = some k →
        ∃ u r, exec (.ringsub st rd rs1) s = .next u ∧ u.ring? unit k = some r ∧ r.core = s.curCore ∧ r.launch = s.cur.launch ∧
          r.hdr = off ∧ r.word0 = (s.spWord off 0).toNat ∧ r.recVa = (s.spWord off 3).toNat ∧
          (rd ≠ 0 → u.X rd = w64 (unit * 64 + k)) ∧ u.cur.pc = s.cur.pc + 4 ∧
          u.spWord off 1 = 0 ∧ u.spWord off 2 = 0 ∧ u.spWord off 6 = 2 ∧
          (∀ a, a < off + 8 ∨ (off + 24 ≤ a ∧ a < off + 48) ∨ off + 56 ≤ a →
            Memory.byte u.here.spad a = Memory.byte s.here.spad a) ∧ u.mem = s.mem)) ∧
    ((∀ r, ring = some r → r.launch ≠ s.cur.launch ∨ r.ending.isSome = true) → s.Computes (.ringstop st rd rs1) st rd 1) ∧
    (∀ r, ring = some r → r.launch = s.cur.launch → r.ending = none →
      s.Completes (.ringstop st rd rs1) st (nextPc s.cur.pc)
        ((s.setRing (n % 2 ^ 9 / 64) (n % 64)
          { r with stop := r.stop ++ [(s.curCore, s.curCtx, s.cur.uid, Reg.x s.cur.bank rd)] }).owing rd))

/-- R380, R404, R405, R406: `mrow` and `coll` check their addresses, append their operation to a channel of a base-die engine of their
stack or their die, and give its transfer id; `lzput` checks its word and its elements and sends their values, as they stand in the
own scratchpad, and whether one of them is poisoned, to the engine that its id names. -/
def Obligations.BaseDieInstructions : Prop :=
  ∀ (s : State), s.Plain → ∀ (st : Fin 8) (rd rs1 rs2 : Fin 32),
    let x := (s.X rs1).toNat
    let d := x / 65536 * 65536
    let y := (s.X rs2).toNat
    let queued := fun (i : Instr) (stack : Nat → Prop) (p : BdeOp → Prop) =>
      ∃ t u ch o, exec i s = .next t ∧ stack u ∧ ch < 16 ∧
        (t.bdeChan u ch).queue = (s.bdeChan u ch).queue ++ [o] ∧ p o ∧ o.core = s.curCore ∧ o.asid = s.cur.asid ∧
        o.launch = s.cur.launch ∧ o.seq = (s.bdeChan u ch).nextSeq % 2 ^ 16 ∧
        (rd ≠ 0 → t.X rd = w64 (2 ^ 23 + u % 8 * 2 ^ 20 + ch * 2 ^ 16 + o.seq)) ∧ (∀ r, r ≠ rd → t.X r = s.X r) ∧
        t.cur.pc = s.cur.pc + 4 ∧ t.mem = s.mem
    (y % 65536 ≠ 0 → s.Traps (.mrowCopy st rd rs1 rs2) false 0x04 0 (w64 y)) ∧
    (y % 65536 = 0 → placeOf d ≠ .global → s.Traps (.mrowCopy st rd rs1 rs2) false 0x11 0 (w64 d)) ∧
    (y % 65536 = 0 → placeOf d = .global → placeOf y ≠ .global → s.Traps (.mrowCopy st rd rs1 rs2) false 0x11 0 (w64 y)) ∧
    (y % 65536 = 0 → placeOf d = .global → placeOf y = .global →
      queued (.mrowCopy st rd rs1 rs2) (· = s.mrowStack d) (fun o => o.kind = .rowCopy ∧ o.dst = d ∧ o.src = y ∧ o.pages = x % 65536 + 1)) ∧
    (placeOf d ≠ .global → s.Traps (.mrowZero st rd rs1) false 0x11 0 (w64 d)) ∧
    (placeOf d = .global →
      queued (.mrowZero st rd rs1) (· = s.mrowStack d) (fun o => o.kind = .rowZero ∧ o.dst = d ∧ o.pages = x % 65536 + 1)) ∧
    (placeOf x ≠ .global → s.Traps (.coll st rd rs1) false 0x11 0 (s.X rs1)) ∧
    (placeOf x = .global → x % 64 ≠ 0 → s.Traps (.coll st rd rs1) false 0x04 0 (s.X rs1)) ∧
    (placeOf x = .global → x % 64 = 0 →
      queued (.coll st rd rs1) (fun u => u / 2 = s.die) (fun o => o.kind = .coll ∧ o.src = x)) ∧
    (y / 2 ^ 24 % 2 ^ 8 ≠ 0 ∨ y / 2 ^ 56 ≠ 0 → s.Traps (.lzput st rd rs1 rs2) false 0x02 0 0) ∧
    (y / 2 ^ 24 % 2 ^ 8 = 0 → y / 2 ^ 56 = 0 →
      let z := y % 2 ^ 24
      let sends := fun (b : Nat) (op : HomeOp) =>
        s.Completes (.lzput st rd rs1 rs2) st (nextPc s.cur.pc)
          ((s.sendUnit (.bde b) op none (.value (.x s.cur.bank rd) 8 false)).owing rd)
      (s.zoneOf z = none → sends (z / 2 ^ 20 % 8) (.zone z (y / 2 ^ 32 % 2 ^ 16) [] false)) ∧
      (∀ b k zn, s.zoneOf z = some (b, k, zn) →
        let n := Fp.fmtBits zn.fmt / 8
        let vas := (List.range (y / 2 ^ 48 % 2 ^ 8 + 1)).map (fun j => (s.X rs1 + w64 (j * n)).toNat)
        (∀ va ∈ vas, ∃ off, s.OwnAccess va n off) →
        sends b (.zone z (y / 2 ^ 32 % 2 ^ 16)
          (vas.map (fun va => BitVec.ofNat 32 (leNat (Memory.bytes s.here.spad (va % 2 ^ 20) n))))
          (s.lanePoison n vas).isSome)))

/-! ### Vector instructions (R246 to R271) -/

/-- R246 to R249, R253 to R255: `vclaim` of a task with a claim gives its lane count; with a free slot and no one waiting it grants the
largest lane count within its limits and the budget, with lanes and masks of zeros; otherwise the trying form gives 0 and the
waiting form parks the task at the end of the queue of its pool. `vren` gives the claim the largest count that its limits, the
budget and the queue allow, lane by lane as it was or zero, or gives 0 and leaves it; `vrel` gives the claim back.
R104, R105, R250, R256, R258: a lane instruction of a task without a claim traps with no-claim, and one that the pool does not take
in this cycle does not issue, its core issuing nothing in it; a prefix of another format makes a float lane instruction trap with
reserved-field. -/
def Obligations.ClaimInstructions : Prop :=
  (∀ (s : State), s.Alive → ∀ (st : Fin 8) (lmax lmin : Fin 4) (xd : Fin 32),
     let o := s.curCore / 8
     let lo := 8 * 2 ^ lmin.val
     let hi := 8 * 2 ^ lmax.val
     let best := fun (avail l : Nat) =>
       (l = 8 ∨ l = 16 ∨ l = 32 ∨ l = 64) ∧ lo ≤ l ∧ l ≤ hi ∧ l ≤ avail ∧
         ∀ m, (m = 8 ∨ m = 16 ∨ m = 32 ∨ m = 64) → lo ≤ m → m ≤ hi → m ≤ avail → m ≤ l
     let open' := s.poolQueue o = [] ∧ s.poolSlot o = true
     let stuck := ∀ q, (s.poolQueue o).head? = some q → s.poolSlot o = false ∨ ∀ l, (l = 8 ∨ l = 16 ∨ l = 32 ∨ l = 64) →
       q.lmin ≤ l → l ≤ q.lmax → s.poolFree o < l
     (∀ c, s.cur.claim = some c →
       s.Computes (.vclaimTry st lmax lmin xd) st xd (w64 c.lanes) ∧ s.Computes (.vclaimWait st lmax lmin xd) st xd (w64 c.lanes)) ∧
     (s.cur.claim = none → open' → ∀ l, best (s.poolFree o) l →
       let w := (s.updCur (fun t => { t with claim := some { lanes := l } })).putX xd (w64 l)
       s.Completes (.vclaimTry st lmax lmin xd) st (nextPc s.cur.pc) w ∧ s.Completes (.vclaimWait st lmax lmin xd) st (nextPc s.cur.pc) w) ∧
     (s.cur.claim = none → (¬open' ∨ ∀ l, ¬best (s.poolFree o) l) → stuck →
       s.Computes (.vclaimTry st lmax lmin xd) st xd 0 ∧
       ∃ t q, exec (.vclaimWait st lmax lmin xd) s = .next t ∧ q = { core := s.curCore, ctx := s.curCtx, uid := s.cur.uid, lmin := lo, lmax := hi } ∧
         s.Performed t st (nextPc s.cur.pc)
           (({ s with pools := s.pools.set o (s.poolQueue o ++ [q]) } : State).updCur (fun t =>
             { t with wait := .pool (.x t.bank xd), phase := .parked, waitFrom := some s.now }))) ∧
     (∀ c, s.cur.claim = some c →
       let avail := if s.poolQueue o = [] then s.poolFree o + c.lanes else min (s.poolFree o + c.lanes) c.lanes
       (∀ l, best avail l → ∃ d, d.lanes = l ∧
         (∀ t : Ctx, t.claim = some d → ∀ j, j < l →
           (∀ v, nth 0 (t.readV v) j = if j < c.lanes then s.lane v j else 0) ∧
           (∀ k, nth false (t.readK k) j = if j < c.lanes then s.bit k j else false)) ∧
         s.Completes (.vren st lmax lmin xd) st (nextPc s.cur.pc)
           (((s.updCur (fun t => { t with claim := some d })).poolRun o).putX xd (w64 l))) ∧
       ((∀ l, ¬best avail l) → s.Computes (.vren st lmax lmin xd) st xd 0)) ∧
     s.Completes (.vrel st) st (nextPc s.cur.pc) ((s.updCur (fun t => { t with claim := none })).poolRun o)) ∧
  (∀ (s : State) (i : Instr) (target : Bool), laneInstr i = some target → s.Calm → (target = false → s.cur.pp = false) →
     (s.cur.claim = none → s.Traps i target 0x1A 0 0) ∧
     (s.cur.claim.isSome = true → (∀ a b c d, i ≠ .vren a b c d) → s.poolFits = false → exec i s = .next s.slotLost) ∧
     (target = true → s.Claimed → s.cur.pp = true →
       (s.cur.pfx.fa ≠ 0 ∨ s.cur.pfx.fb ≠ 0 ∨ s.cur.pfx.fd ≠ 0 ∨ s.cur.pfx.sc ≠ 0) → s.PoolTraps i true 0x02 0 0))

/-- R256, R257, R259, R260, R459: a vector load gives each acting lane the bytes that stand at its address in the own scratchpad,
zero-extended; a vector store writes the low bytes of each acting lane at its address, a higher lane over a lower one, and no other
byte. The first acting lane, in order, whose address is misaligned, outside the window or out of bounds makes the whole
instruction trap; so does, for a load, the first that reads poison. -/
def Obligations.VectorMemory : Prop :=
  ∀ (s : State), s.Plain → s.Claimed → ∀ (st : Fin 8) (v vi : Fin 16) (xs1 xs2 : Fin 32) (mk sz : Fin 4),
    let n := 2 ^ sz.val
    let unit := fun (l : Nat) => s.X xs1 + w64 (l * n)
    let stride := fun (l : Nat) => s.X xs1 + w64 l * s.X xs2
    let index := fun (l : Nat) => s.X xs1 + (s.lane vi l).setWidth 64
    let off := fun (a : W64) => a.toNat % 2 ^ 20
    let lies := fun (a : W64) => a.toNat % n = 0 ∧ placeOf a.toNat = .own (off a) ∧ off a + n ≤ s.here.spsize
    let free := fun (a : W64) => s.belowWatermark s.curCore s.cur.asid a.toNat n = false
    let bad := fun (a : W64) => ∃ j, off a ≤ j ∧ j < off a + n ∧ NatSet.has s.here.spadPoison j = true
    let traps := fun (i : Instr) (va : Nat → W64) =>
      ∀ l, l < s.cur.lanes → s.acts mk l → (∀ m, m < l → s.acts mk m → lies (va m)) →
        ((va l).toNat % n ≠ 0 → s.PoolTraps i false 0x04 0 (va l)) ∧
        ((va l).toNat % n = 0 → (∀ o, placeOf (va l).toNat ≠ .own o) → s.PoolTraps i false 0x11 0 (va l)) ∧
        ((va l).toNat % n = 0 → placeOf (va l).toNat = .own (off (va l)) → s.here.spsize < off (va l) + n →
          s.PoolTraps i false 0x14 0 (va l))
    let ok := fun (va : Nat → W64) => ∀ l, l < s.cur.lanes → s.acts mk l → lies (va l) ∧ free (va l)
    let loads := fun (i : Instr) (va : Nat → W64) =>
      traps i va ∧
      (ok va → (∀ l, l < s.cur.lanes → s.acts mk l → ¬bad (va l)) →
        s.Lanewise i st v mk (fun l => BitVec.ofNat 32 (leNat (Memory.bytes s.here.spad (off (va l)) n))) s) ∧
      (ok va → ∀ l, l < s.cur.lanes → s.acts mk l → bad (va l) → (∀ m, m < l → s.acts mk m → ¬bad (va m)) →
        s.PoolTraps i false 0x13 0 (va l))
    let stores := fun (i : Instr) (va : Nat → W64) =>
      traps i va ∧
      (ok va → ∃ t, exec i s = .next t ∧
        s.Performed t st (nextPc s.cur.pc)
          ((s.acting mk).foldl (fun u l => u.spWrite s.curCore (off (va l)) (PByte.clean (leBytes (s.lane v l).toNat n))) s).poolTake ∧
        (∀ l, l < s.cur.lanes → s.acts mk l →
          (∀ m, l < m → m < s.cur.lanes → s.acts mk m → off (va m) + n ≤ off (va l) ∨ off (va l) + n ≤ off (va m)) →
          Memory.bytes t.here.spad (off (va l)) n = leBytes (s.lane v l).toNat n) ∧
        (∀ a, (∀ l, l < s.cur.lanes → s.acts mk l → a < off (va l) ∨ off (va l) + n ≤ a) →
          Memory.byte t.here.spad a = Memory.byte s.here.spad a) ∧
        t.mem = s.mem ∧ (∀ c a, c ≠ s.curCore → Memory.byte (t.core c).spad a = Memory.byte (s.core c).spad a) ∧
        (∀ r, t.X r = s.X r) ∧ (∀ i l, t.lane i l = s.lane i l))
    sz.val ≤ 2 →
      loads (.vld st v xs1 mk sz) unit ∧ loads (.vlds st v xs1 xs2 mk sz) stride ∧ loads (.vldx st v xs1 vi mk sz) index ∧
      stores (.vst st v xs1 mk sz) unit ∧ stores (.vsts st v xs1 xs2 mk sz) stride ∧ stores (.vstx st v xs1 vi mk sz) index

/-- R257, R262: the results of the integer lane instructions, in both forms; the lanes on which the mask does not act keep their
values, and no other register changes.
R264 to R266: comparing, selecting, combining masks, permuting, sliding and moving lanes. -/
def Obligations.VectorIntegers : Prop :=
  (∀ (s : State), s.Plain → s.Claimed → ∀ (st : Fin 8) (vd vs1 vs2 : Fin 16) (xs : Fin 32) (mk : Fin 4),
     let x : W32 := (s.X xs).setWidth 32
     let both := fun (vv vx : Instr) (f : W32 → W32 → W32) =>
       s.Lanewise vv st vd mk (fun l => f (s.lane vs1 l) (s.lane vs2 l)) s ∧
       s.Lanewise vx st vd mk (fun l => f (s.lane vs1 l) x) s
     both (.vaddVv st vd vs1 vs2 mk) (.vaddVx st vd vs1 xs mk) (fun a b => BitVec.ofNat 32 (a.toNat + b.toNat)) ∧
     both (.vsubVv st vd vs1 vs2 mk) (.vsubVx st vd vs1 xs mk) (fun a b => BitVec.ofInt 32 ((a.toNat : Int) - b.toNat)) ∧
     both (.vmulVv st vd vs1 vs2 mk) (.vmulVx st vd vs1 xs mk) (fun a b => BitVec.ofNat 32 (a.toNat * b.toNat)) ∧
     both (.vmulhVv st vd vs1 vs2 mk) (.vmulhVx st vd vs1 xs mk) (fun a b => BitVec.ofInt 32 (a.toInt * b.toInt / 2 ^ 32)) ∧
     both (.vminVv st vd vs1 vs2 mk) (.vminVx st vd vs1 xs mk) (fun a b => if a.toInt ≤ b.toInt then a else b) ∧
     both (.vmaxVv st vd vs1 vs2 mk) (.vmaxVx st vd vs1 xs mk) (fun a b => if a.toInt ≤ b.toInt then b else a) ∧
     both (.vminuVv st vd vs1 vs2 mk) (.vminuVx st vd vs1 xs mk) (fun a b => if a.toNat ≤ b.toNat then a else b) ∧
     both (.vmaxuVv st vd vs1 vs2 mk) (.vmaxuVx st vd vs1 xs mk) (fun a b => if a.toNat ≤ b.toNat then b else a) ∧
     both (.vandVv st vd vs1 vs2 mk) (.vandVx st vd vs1 xs mk) (fun a b => a &&& b) ∧
     both (.vorVv st vd vs1 vs2 mk) (.vorVx st vd vs1 xs mk) (fun a b => a ||| b) ∧
     both (.vxorVv st vd vs1 vs2 mk) (.vxorVx st vd vs1 xs mk) (fun a b => a ^^^ b) ∧
     both (.vsllVv st vd vs1 vs2 mk) (.vsllVx st vd vs1 xs mk) (fun a b => BitVec.ofNat 32 (a.toNat * 2 ^ (b.toNat % 32))) ∧
     both (.vsrlVv st vd vs1 vs2 mk) (.vsrlVx st vd vs1 xs mk) (fun a b => BitVec.ofNat 32 (a.toNat / 2 ^ (b.toNat % 32))) ∧
     both (.vsraVv st vd vs1 vs2 mk) (.vsraVx st vd vs1 xs mk) (fun a b => BitVec.ofInt 32 (a.toInt / 2 ^ (b.toNat % 32)))) ∧
  (∀ (s : State), s.Plain → s.Claimed → ∀ (st : Fin 8) (vd vs1 vs2 : Fin 16) (xs : Fin 32) (mk kd ka kb : Fin 4) (cc : Fin 16),
     let x : W32 := (s.X xs).setWidth 32
     let n := s.cur.lanes
     let holds := fun (a b : W32) =>
       match cc.val with
       | 0 => a = b
       | 1 => a ≠ b
       | 2 => a.toInt < b.toInt
       | 3 => a.toNat < b.toNat
       | 4 => a.toInt ≤ b.toInt
       | 5 => a.toNat ≤ b.toNat
       | 6 => Fp.fEq a.toNat b.toNat = true
       | 7 => Fp.fEq a.toNat b.toNat = false
       | 8 => Fp.fLt a.toNat b.toNat = true
       | _ => Fp.fLe a.toNat b.toNat = true
     let compares := fun (i : Instr) (b : Nat → W32) =>
       ∃ f, s.Maskwise i st kd f ∧
         ∀ l, l < n → (s.acts mk l → (f l = true ↔ holds (s.lane vs1 l) (b l))) ∧ (¬s.acts mk l → f l = s.bit kd l)
     let moves := fun (i : Instr) (mk : Nat) (v : Nat → W32) => s.Lanewise i st vd mk v s
     (kd ≠ 0 → cc.val ≤ 9 → compares (.vcmpVv st kd vs1 vs2 mk cc) (s.lane vs2) ∧ compares (.vcmpVx st kd vs1 xs mk cc) (fun _ => x)) ∧
     (mk ≠ 0 → moves (.vselVv st vd vs1 vs2 mk) 0 (fun l => if s.bit mk l = true then s.lane vs1 l else s.lane vs2 l) ∧
       moves (.vselVx st vd vs1 xs mk) 0 (fun l => if s.bit mk l = true then s.lane vs1 l else x)) ∧
     (kd ≠ 0 → s.Maskwise (.vmand st kd ka kb) st kd (fun l => s.bit ka l && s.bit kb l) ∧
       s.Maskwise (.vmor st kd ka kb) st kd (fun l => s.bit ka l || s.bit kb l)) ∧
     moves (.vperm st vd vs1 vs2 mk) mk (fun l => s.lane vs1 ((s.lane vs2 l).toNat % n)) ∧
     moves (.vslide st vd vs1 xs mk) mk (fun l =>
       let k := (l : Int) + (s.X xs).toInt
       if 0 ≤ k ∧ k < n then s.lane vs1 k.toNat else 0) ∧
     moves (.vbcast st vd xs mk) mk (fun _ => x) ∧
     moves (.vmvxv st vd xs) 0 (fun l => if l = 0 then x else s.lane vd l) ∧
     s.Completes (.vmvvx st vs1 xs) st (nextPc s.cur.pc) (s.poolTake.putX xs ((s.lane vs1 0).signExtend 64)))

/-- R257, R258, R263, R267, R268: the results of the float lane instructions and of the special functions, with the rounding of STATUS
or of a prefix, folded into AMAX when the prefix asks for it; and `vred`, which gives lane 0 the tree over the acting lanes, the
others standing for the identity, and folds its one float result.
R103, R104, R269 to R271: `fmt` loads the prefix state and sets PP; the plain `vcvt` rounds each acting lane from its first format to
its second, and under a prefix from fa to fd, divided or multiplied by the scale of xs, or in blocks of 32 lanes with their
shared scale; the source values of the acting lanes are folded into AMAX. A plain `vcvt` of a code that is no format of it is illegal, and
what R269 does not admit, plain or under a prefix, traps with reserved-field. -/
def Obligations.VectorFloats : Prop :=
  (∀ (s : State), s.Calm → s.Claimed → ∀ (r : Rounding), s.Rounds r →
     ∀ (st : Fin 8) (vd vs1 vs2 : Fin 16) (xs : Fin 32) (mk : Fin 4) (rop : Fin 16),
     let val := fun (w : W32) => Fp.fp32.val w.toNat
     let rnd := fun (v : Fp.Exact) => BitVec.ofNat 32 (Fp.fp32.rnd v r.rm r.sat)
     let gives := fun (i : Instr) (v : Nat → W32) =>
       s.Lanewise i st vd mk v (s.folded r.am ((s.acting mk).map (fun l => val (v l))))
     let both := fun (vv vx : Instr) (f : W32 → W32 → W32 → W32) =>
       gives vv (fun l => f (s.lane vs1 l) (s.lane vs2 l) (s.lane vd l)) ∧
       gives vx (fun l => f (s.lane vs1 l) ((s.X xs).setWidth 32) (s.lane vd l))
     both (.vfaddVv st vd vs1 vs2 mk) (.vfaddVx st vd vs1 xs mk) (fun a b _ => rnd ((val a).add r.rm (val b))) ∧
     both (.vfsubVv st vd vs1 vs2 mk) (.vfsubVx st vd vs1 xs mk) (fun a b _ => rnd ((val a).add r.rm (val b).neg)) ∧
     both (.vfmulVv st vd vs1 vs2 mk) (.vfmulVx st vd vs1 xs mk) (fun a b _ => rnd ((val a).mul (val b))) ∧
     both (.vfmaVv st vd vs1 vs2 mk) (.vfmaVx st vd vs1 xs mk) (fun a b c => rnd (((val a).mul (val b)).add r.rm (val c))) ∧
     both (.vfnmaVv st vd vs1 vs2 mk) (.vfnmaVx st vd vs1 xs mk) (fun a b c => rnd (((val a).mul (val b)).neg.add r.rm (val c))) ∧
     both (.vfminVv st vd vs1 vs2 mk) (.vfminVx st vd vs1 xs mk) (fun a b _ => BitVec.ofNat 32 (Fp.fMin a.toNat b.toNat)) ∧
     both (.vfmaxVv st vd vs1 vs2 mk) (.vfmaxVx st vd vs1 xs mk) (fun a b _ => BitVec.ofNat 32 (Fp.fMax a.toNat b.toNat)) ∧
     gives (.vexp2 st vd vs1 mk) (fun l => rnd (val (s.lane vs1 l)).exp2) ∧
     gives (.vlog2 st vd vs1 mk) (fun l => rnd (val (s.lane vs1 l)).log2) ∧
     gives (.vrcp st vd vs1 mk) (fun l => rnd (val (s.lane vs1 l)).rcp) ∧
     gives (.vrsq st vd vs1 mk) (fun l => rnd (val (s.lane vs1 l)).rsqrt) ∧
     gives (.vsqrt st vd vs1 mk) (fun l => rnd (val (s.lane vs1 l)).sqrt) ∧
     (let args := (List.range s.cur.lanes).map (fun l => if mk = 0 ∨ s.bit mk l = true then s.lane vs1 l else redIdentity rop)
      let v := redResult rop r args
      s.Lanewise (.vred st vd vs1 mk rop) st vd 0 (fun l => if l = 0 then v else s.lane vd l)
        (s.folded (r.am && decide (rop.val ≤ 2)) [val v]) ∧
      ((s.cur.lanes = 8 ∨ s.cur.lanes = 16 ∨ s.cur.lanes = 32 ∨ s.cur.lanes = 64) →
        (rop.val = 3 → v = BitVec.ofNat 32 (args.map BitVec.toNat).sum) ∧
        (rop.val = 4 → v ∈ args ∧ ∀ a ∈ args, a.toInt ≤ v.toInt) ∧
        (rop.val = 7 → v ∈ args ∧ ∀ a ∈ args, v.toNat ≤ a.toNat)))) ∧
  (∀ (s : State), s.Calm → ∀ (st : Fin 8) (vd vs1 : Fin 16) (xs : Fin 32) (mk : Fin 4) (src dst : Fin 16)
     (fa fb fd : Fin 16) (sc : Fin 8) (rm : Fin 4) (sat amax : Fin 2),
     let i := Instr.vcvt st vd vs1 xs mk src dst
     let x := fun (f l : Nat) => Fp.val f ((s.lane vs1 l).toNat % 2 ^ Fp.fmtBits f)
     let scale := Fp.fp32.val ((s.X xs).toNat % 2 ^ 32)
     let p := s.cur.pfx
     let gives := fun (f : Nat) (v : Nat → W32) => s.Lanewise i st vd mk v (s.folded true ((s.acting mk).map (x f)))
     (s.cur.pp = false → s.Completes (.fmt fa fb fd sc rm sat amax) 0 (nextPc s.cur.pc)
       (s.updCur (fun t => { t with pfx := ⟨fa, fb, fd, sc, rm, sat, amax⟩ }.setPp true))) ∧
     (s.cur.pp = true → s.Traps (.fmt fa fb fd sc rm sat amax) false 0x06 0 0) ∧
     (s.cur.pp = false → (∃ f ∈ [6, 7, 8, 15], src.val = f ∨ dst.val = f) → s.Traps i false 0x01 0 0) ∧
     (s.cur.pp = false → (∀ f ∈ [6, 7, 8, 15], src.val ≠ f ∧ dst.val ≠ f) → xs ≠ 0 → s.Traps i false 0x02 0 0) ∧
     (s.Claimed → s.cur.pp = true →
       (src ≠ 0 ∨ dst ≠ 0 ∨ p.fb ≠ 0 ∨ Fp.fmtCvtSource p.fa = false ∨ Fp.fmtCvtTarget p.fd = false ∨ 3 < p.sc ∨
         ((p.fd = 6 ∨ p.fd = 7) ∧ p.sc ≠ 3) ∨ (p.fd ≠ 6 ∧ p.fd ≠ 7 ∧ p.sc = 3) ∨ (xs ≠ 0 ∧ (p.sc = 0 ∨ p.sc = 3)) ∨
         (p.sc = 3 ∧ (s.cur.lanes < 32 ∨ mk ≠ 0))) → s.PoolTraps i true 0x02 0 0) ∧
     (s.Claimed → s.cur.pp = false → xs = 0 → (∀ f ∈ [6, 7, 8, 15], src.val ≠ f ∧ dst.val ≠ f) →
       gives src (fun l => placeElem dst (Fp.rnd dst (x src l) (Fp.Rm.ofBits s.cur.rm) false))) ∧
     (s.Claimed → s.cur.pp = true → src = 0 → dst = 0 → p.fb = 0 → Fp.fmtCvtSource p.fa = true → Fp.fmtCvtTarget p.fd = true →
       p.fd ≠ 6 → p.fd ≠ 7 → p.sc ≤ 2 → (p.sc = 0 → xs = 0) →
       gives p.fa (fun l => placeElem p.fd
         (Fp.rnd p.fd (if p.sc = 1 then (x p.fa l).div scale else if p.sc = 2 then (x p.fa l).mul scale else x p.fa l)
           (Fp.Rm.ofBits p.rm) (p.sa == 1)))) ∧
     (s.Claimed → s.cur.pp = true → src = 0 → dst = 0 → p.fb = 0 → Fp.fmtCvtSource p.fa = true → (p.fd = 6 ∨ p.fd = 7) → p.sc = 3 →
       xs = 0 → mk = 0 → (s.cur.lanes = 32 ∨ s.cur.lanes = 64) →
       gives p.fa (fun l =>
         let block := Fp.mxBlock p.fd ((List.range 32).map (fun j => x p.fa (l / 32 * 32 + j))) (Fp.Rm.ofBits p.rm)
         BitVec.ofNat 32 (block.1 % 256 * 256 + nth 0 block.2 (l % 32) % 2 ^ Fp.fmtBits p.fd))))

/-! ### Window accumulators, keys and video at issue (R272 to R292, R408 to R426, R442, R443) -/

/-- R272 to R275, R278, R279, R286 to R292: the checks of the window-accumulator instructions, each trapping with window-misuse and its
number; what `waalloc`, `wafree`, `waset` and `waclr` make of a slot; a push puts its element behind the last one and combines it with
the aggregate, after the oldest element of a full window has gone, where the front stack is empty by a flip that leaves the suffix
aggregates of the back elements in their entries; a read gives the window's value, the identity for an empty one, in the lanes of the
configuration, the other lanes as they were.
R281, R282, R459: a slot that its unit works on holds every instruction on it, for the cycles of R281 after a push or a read; a push
or a read traps at the first element it reads that holds a poisoned byte. -/
def Obligations.WindowAccumulators : Prop :=
  ∀ (s : State), s.Plain → ∀ (st wa : Fin 8) (xs : Fin 32) (v : Fin 16),
    let slot := s.here.wa.find? wa
    let r := (s.X xs).toNat
    let off := r % 2 ^ 20
    let size := r / 2 ^ 20 % 2 ^ 20
    let badRegion := r / 2 ^ 40 ≠ 0 ∨ off % 64 ≠ 0 ∨ size = 0 ∨ size % 64 ≠ 0 ∨ s.here.spsize < off + size
    let overlaps := ∃ e ∈ s.here.wa, off < e.2.off + e.2.size ∧ e.2.off < off + size
    let cfg := WaCfg.ofNat r
    let badCfg := r / 2 ^ 32 ≠ 0 ∨ r / 2 ^ 10 % 2 ^ 6 ≠ 0 ∨ cfg.w = 0 ∨ waPair cfg.opr cfg.fmt = false
    let misuse := fun (i : Instr) (n : Nat) => s.Traps i false 0x1B n 0
    let uses := [Instr.wapush st v wa, .waread st v wa, .waclr st wa]
    (∀ a, slot = some a → s.cycle < a.busyTo → ∀ i ∈ Instr.waalloc st xs wa :: .wafree st wa :: .waset st xs wa :: uses, s.Holds i) ∧
    (∀ a, slot = some a → a.busyTo ≤ s.cycle → misuse (.waalloc st xs wa) 2) ∧
    (slot = none → badRegion → misuse (.waalloc st xs wa) 8) ∧
    (slot = none → ¬badRegion → overlaps → misuse (.waalloc st xs wa) 9) ∧
    (slot = none → ¬badRegion → ¬overlaps → s.Completes (.waalloc st xs wa) st (nextPc s.cur.pc)
      (s.setWa wa { owner := s.curCtx, off := off, size := size } 1)) ∧
    (slot = none → misuse (.wafree st wa) 1 ∧ misuse (.waset st xs wa) 1 ∧ ∀ i ∈ uses, misuse i 1) ∧
    (∀ a, slot = some a → a.busyTo ≤ s.cycle →
      let mine := a.owner = s.curCtx ∧ a.saved = false
      (¬mine → misuse (.wafree st wa) 3 ∧ misuse (.waset st xs wa) 3) ∧
      (mine → s.Completes (.wafree st wa) st (nextPc s.cur.pc) (s.updHere (fun h => { h with wa := h.wa.erase wa }))) ∧
      (mine → badCfg → misuse (.waset st xs wa) 10) ∧
      (mine → ¬badCfg → a.size < (cfg.w + 1) * cfg.bytes → misuse (.waset st xs wa) 11) ∧
      (mine → ¬badCfg → (cfg.w + 1) * cfg.bytes ≤ a.size → s.Completes (.waset st xs wa) st (nextPc s.cur.pc)
        (s.setWa wa { a with cfg := some r, p := 0, fcnt := 0, bcnt := 0 } 1)) ∧
      (a.saved = true → ∀ i ∈ uses, misuse i 4) ∧
      (a.saved = false → a.cfg = none → ∀ i ∈ uses, misuse i 5) ∧
      (∀ c, a.saved = false → a.cfg = some c →
        let k := WaCfg.ofNat c
        let lse := k.opr = 6
        let x := (List.range k.lanes).map (s.lane v) ++ if lse then (List.range k.lanes).map (s.lane (v + 1)) else []
        let clean := fun (l : List Nat) => ∀ o ∈ l, ∀ j, o ≤ j → j < o + k.bytes → NatSet.has s.here.spadPoison j = false
        let ready := (∃ d, s.cur.claim = some d ∧ k.lanes ≤ d.lanes) ∧ (lse → v.val % 2 = 0) ∧ s.waWaits a = false
        let entry := fun (j : Nat) => a.off + k.bytes * (1 + j % 2 ^ 64 % k.w)
        let next := entry a.p
        let agg := s.here.waGet a.off k.words
        let sum := if a.bcnt = 0 then x else k.combine agg x
        let group := (k.lanes + 15) / 16 * (if lse then 2 else 1)
        let pushed := fun (t : State) (b : WaSlot) =>
          exec (.wapush st v wa) s = .next t ∧ t.here.wa.find? wa = some b ∧ t.here.waGet next k.words = x ∧
            t.cur.pc = s.cur.pc + 4 ∧ t.mem = s.mem ∧ (∀ i, t.X i = s.X i)
        s.Completes (.waclr st wa) st (nextPc s.cur.pc) (s.setWa wa { a with p := 0, fcnt := 0, bcnt := 0 } 1) ∧
        (ready → ∀ o, s.waPoison k (a.pushReads k) = some o →
          s.Traps (.wapush st v wa) false 0x13 0 (w64 (0xFFFFFFFFFFF00000 + o))) ∧
        (ready → ∀ o, s.waPoison k (a.windowReads k) = some o →
          s.Traps (.waread st v wa) false 0x13 0 (w64 (0xFFFFFFFFFFF00000 + o))) ∧
        (∀ i ∈ [Instr.wapush st v wa, .waread st v wa],
          (s.cur.claim = none → s.Traps i false 0x1A 0 0) ∧
          (∀ d, s.cur.claim = some d → d.lanes < k.lanes → misuse i 6) ∧
          (∀ d, s.cur.claim = some d → k.lanes ≤ d.lanes → lse → v.val % 2 = 1 → misuse i 7)) ∧
        (ready → clean (a.pushReads k) → k.w ≠ 0 → (a.fcnt + a.bcnt = k.w → a.fcnt ≠ 0) →
          let f := if a.fcnt + a.bcnt = k.w then a.fcnt - 1 else a.fcnt
          ∃ t, pushed t { a with fcnt := f, bcnt := a.bcnt + 1, p := (a.p + 1) % 2 ^ 64, busyTo := s.cycle + group } ∧
            t.here.waGet a.off k.words = sum ∧
            (∀ b, b < a.off ∨ (a.off + k.bytes ≤ b ∧ b < next) ∨ (a.off + k.bytes ≤ b ∧ next + k.bytes ≤ b) →
              Memory.byte t.here.spad b = Memory.byte s.here.spad b)) ∧
        (ready → clean (a.pushReads k) → k.w ≠ 0 → a.fcnt = 0 → a.bcnt = k.w → k.w ≤ a.p → a.p < 2 ^ 64 →
          let e := fun (u : State) (i : Nat) => u.here.waGet (entry (a.p - k.w + i - 1)) k.words
          ∃ t, pushed t { a with fcnt := k.w - 1, bcnt := 1, p := (a.p + 1) % 2 ^ 64, busyTo := s.cycle + (group + (k.w * group + 4)) } ∧
            t.here.waGet a.off k.words = x ∧
            (∀ i, 2 ≤ i → i < k.w → e t i = k.combine (e s i) (if i + 1 = k.w then e s k.w else e t (i + 1))) ∧
            (∀ b, b < a.off ∨ a.off + k.bytes * (k.w + 1) ≤ b → Memory.byte t.here.spad b = Memory.byte s.here.spad b)) ∧
        (ready → clean (a.windowReads k) →
          ∃ t, exec (.waread st v wa) s = .next t ∧
            (let top := s.here.waGet (entry (a.p + 2 ^ 64 - (a.fcnt + a.bcnt))) k.words
             let e := if a.fcnt + a.bcnt = 0 then k.identity else if a.fcnt = 0 then agg
               else if a.bcnt = 0 then top else k.combine top agg
             (∀ l, l < k.lanes → t.lane v l = nth 0 e l) ∧ (∀ l, k.lanes ≤ l → t.lane v l = s.lane v l) ∧
             (lse → (∀ l, l < k.lanes → t.lane (v + 1) l = nth 0 e (k.lanes + l)) ∧
               (∀ l, k.lanes ≤ l → t.lane (v + 1) l = s.lane (v + 1) l))) ∧
            (∀ i l, i ≠ v.val → (lse → i ≠ v.val + 1) → t.lane i l = s.lane i l) ∧
            t.cur.pc = s.cur.pc + 4 ∧ t.mem = s.mem ∧ t.here.spad = s.here.spad ∧ (∀ i, t.X i = s.X i) ∧
            t.here.wa.find? wa =
              some { a with busyTo := s.cycle + if a.fcnt ≠ 0 ∧ a.bcnt ≠ 0 then 2 * group else group })))

/-- R408, R409, R412 to R414, R419 to R425: `kvhome` gives the first point of the ring that is not below the hash of its key, or the first
of all, and all ones without a ring; it traps where the ring does not fit or holds poison. `stub` writes, replaces or clears a forwarding
entry of the home table, and traps where its lookup meets poison; `migrate` traps with the first check of R421 that fails, and otherwise sends
the task, with the registers that its masks name, to another core once its release is open; `vsgn` shifts a bit into each lane and `vham` compares Hamming
distances. -/
def Obligations.KeyInstructions : Prop :=
  ∀ (s : State), s.Plain → ∀ (st : Fin 8) (rd rs1 rs2 : Fin 32) (vd vs1 vs2 : Fin 16) (mk kd : Fin 4) (n : Fin 64),
    let h := s.here
    let word := fun (a : Nat) => leNat (Memory.bytes h.spad a 8)
    let key := (s.X rs1).toNat % 2 ^ 32 * 2 ^ 32 + (s.X rs2).toNat % 2 ^ 32
    let hash := hkey key h.seed
    let va := w64 (0xFFFFFFFFFFF00000 + h.ringOff)
    let point := fun (i : Nat) => word (h.ringOff + 8 * i) / 2 ^ 32
    let home := fun (i : Nat) => word (h.ringOff + 8 * i) % 2 ^ 11
    let k := (s.X rs1).toNat
    let t := (s.X rs2).toNat
    let none' := 2 ^ 64 - 1
    let stubs := fun (ws : List (Nat × Nat)) (res : W64) =>
      s.Completes (.stub st rd rs1 rs2) st (nextPc s.cur.pc)
        ((s.spWords s.curCore (ws.map (fun e => (e.1, w64 e.2)))).putX rd res)
    (h.npt = 0 → s.Computes (.kvhome st rd rs1 rs2) st rd (BitVec.allOnes 64)) ∧
    (h.npt ≠ 0 → h.spsize < h.ringOff + 8 * h.npt → s.Traps (.kvhome st rd rs1 rs2) false 0x14 0 va) ∧
    (h.npt ≠ 0 → h.ringOff + 8 * h.npt ≤ h.spsize → s.belowWatermark s.curCore s.cur.asid va.toNat (8 * h.npt) = false →
      (∀ j, h.ringOff ≤ j → j < h.ringOff + 8 * h.npt → NatSet.has h.spadPoison j = false) →
      (∀ i, i < h.npt → hash ≤ point i → (∀ j, j < i → point j < hash) →
        s.Computes (.kvhome st rd rs1 rs2) st rd (w64 (i * 2 ^ 32 + home i))) ∧
      ((∀ i, i < h.npt → point i < hash) → s.Computes (.kvhome st rd rs1 rs2) st rd (w64 (home 0)))) ∧
    (h.npt ≠ 0 → h.ringOff + 8 * h.npt ≤ h.spsize → s.belowWatermark s.curCore s.cur.asid va.toNat (8 * h.npt) = false →
      (∃ j, h.ringOff ≤ j ∧ j < h.ringOff + 8 * h.npt ∧ NatSet.has h.spadPoison j = true) → s.Traps (.kvhome st rd rs1 rs2) false 0x13 0 va) ∧
    (t ≠ none' → ¬(t ≤ 1535 ∧ s.inMask s.cur t = true) → s.Traps (.stub st rd rs1 rs2) false 0x11 0 (s.X rs2)) ∧
    (t = none' ∨ (t ≤ 1535 ∧ s.inMask s.cur t = true) →
      (h.hlog = 0 → s.Computes (.stub st rd rs1 rs2) st rd 4) ∧
      (h.hlog ≠ 0 → h.tableOk = false → s.Traps (.stub st rd rs1 rs2) false 0x14 0 (w64 (0xFFFFFFFFFFF00000 + h.tableOff))) ∧
      (h.tableOk = true → k = 0 → stubs [] 3) ∧
      (h.tableOk = true → ∀ o, h.stubPoison k t = some o →
        s.Traps (.stub st rd rs1 rs2) false 0x13 0 (w64 (0xFFFFFFFFFFF00000 + o))) ∧
      (h.tableOk = true → k ≠ 0 → h.stubPoison k t = none → t ≠ none' →
        (∀ a, h.lookupKey k = .hit a → stubs [(a + 8, 2 ^ 63 + t)] 0) ∧
        (∀ a, h.lookupKey k = .empty a → stubs [(a, k), (a + 8, 2 ^ 63 + t)] 0) ∧
        (h.lookupKey k = .full → stubs [] 1)) ∧
      (h.tableOk = true → k ≠ 0 → h.stubPoison k t = none → t = none' →
        (∀ a, h.lookupKey k = .hit a → 2 ^ 63 ≤ word (a + 8) → stubs [(a + 8, 0)] 0) ∧
        (∀ a, h.lookupKey k = .hit a → word (a + 8) < 2 ^ 63 → stubs [] 2) ∧
        ((∀ a, h.lookupKey k ≠ .hit a) → stubs [] 2))) ∧
    (let d := (s.X rs1).toNat
     let target := d % 2 ^ 11
     let i := Instr.migrate st rs1 rs2
     let good := d / 2 ^ 32 = 0 ∧ d / 2 ^ 15 % 2 = 0 ∧ d / 2 ^ 11 % 2 = 0 ∧ d / 2 ^ 12 % 8 ≤ 4
     let claims := d / 2 ^ 12 % 8 ≠ 0 → s.cur.claim.isSome = true
     let inMask := target ≤ 1535 ∧ s.inMask s.cur target = true
     let slots := ∃ e ∈ h.wa, e.2.owner = s.curCtx ∧ e.2.saved = false
     let hires := ∃ e ∈ s.cur.hires, e.2.final = none
     (¬good → s.Traps i false 0x1C 1 0) ∧ (good → ¬claims → s.Traps i false 0x1A 0 0) ∧
     (good → claims → ¬inMask → s.Traps i false 0x11 0 (w64 target)) ∧
     (good → claims → inMask → s.cur.paired = true → s.Traps i false 0x1C 2 0) ∧
     (good → claims → inMask → s.cur.paired = false →
       (slots → s.Traps i false 0x1C 3 0) ∧ (¬slots → hires → s.Traps i false 0x1C 4 0) ∧
       (¬slots → ¬hires → h.copying s.cur.uid = true → s.Traps i false 0x1C 5 0))) ∧
    (let d := (s.X rs1).toNat
     let target := d % 2 ^ 11
     d / 2 ^ 32 = 0 → d / 2 ^ 15 % 2 = 0 → d / 2 ^ 11 % 2 = 0 → d / 2 ^ 12 % 8 ≤ 4 → (d / 2 ^ 12 % 8 ≠ 0 → s.cur.claim.isSome = true) →
     target ≤ 1535 → s.inMask s.cur target = true → s.cur.paired = false →
     (∀ e ∈ h.wa, e.2.owner = s.curCtx → e.2.saved = true) → (∀ e ∈ s.cur.hires, e.2.final.isSome = true) → h.copying s.cur.uid = false →
     s.Open (scopeOf s.curCore target) →
     ∃ u f m, exec (.migrate st rs1 rs2) s = .next u ∧ u.msgs = s.msgs ++ [f] ∧ f.target = target ∧ f.launch = s.cur.launch ∧
       f.sender = .core s.curCore ∧ f.mig = some m ∧ m.pc = s.cur.pc + 4 ∧ m.phase = .running ∧ m.job = s.cur.job ∧
       (∀ i, i < 32 → m.readX i = if (s.X rs2).toNat / 2 ^ i % 2 = 1 then s.X i else 0) ∧
       u.cur.phase = .parked ∧ u.cur.wait = .message none ∧ u.mem = s.mem) ∧
    (s.Claimed → s.Lanewise (.vsgn st vd vs1 mk) st vd mk (fun l => s.lane vd l <<< 1 ||| s.lane vs1 l >>> 31) s) ∧
    (s.Claimed → kd ≠ 0 → ∃ f, s.Maskwise (.vham st kd vs1 vs2 mk n) st kd f ∧
      ∀ l, l < s.cur.lanes →
        (s.acts mk l → (f l = true ↔ ((List.range 32).countP fun j => (s.lane vs1 l ^^^ s.lane vs2 l).getLsbD j) ≤ n.val)) ∧
        (¬s.acts mk l → f l = s.bit kd l))

/-- R428, R442, R443: `vdec` checks its record's address and its engine, waits for a full queue, and otherwise appends the job to an
engine of its die, the one that it names or an enabled one that the device chooses (engine 0 where none is), and gives the id of the job; `vdstat` gives the status word that a job id names, waits
for a final one when it asks, and acquires at package scope with a final one. -/
def Obligations.VideoInstructions : Prop :=
  ∀ (s : State), s.Plain → ∀ (st : Fin 8) (rd rs1 rs2 : Fin 32) (e : Fin 2),
    let a := s.X rs1
    let g := (s.X rs2).toNat
    let any := g = 2 ^ 64 - 1
    let w := (s.video (a.toNat / 2 ^ 19 % 2 ^ 5)).statusOf (a.toNat % 2 ^ 16) s.cur.asid
    let final := 0x10 ≤ w.toNat % 256
    let badId := a.toNat / 2 ^ 24 ≠ 0 ∨ a.toNat / 2 ^ 16 % 8 ≠ 0
    (placeOf a.toNat ≠ .global → s.Traps (.vdec st rd rs1 rs2) false 0x11 0 a) ∧
    (placeOf a.toNat = .global → a.toNat % 128 ≠ 0 → s.Traps (.vdec st rd rs1 rs2) false 0x04 0 a) ∧
    (placeOf a.toNat = .global → a.toNat % 128 = 0 → ¬any → 7 < g → s.Traps (.vdec st rd rs1 rs2) false 0x11 0 (s.X rs2)) ∧
    (placeOf a.toNat = .global → a.toNat % 128 = 0 → g ≤ 7 →
      let v := s.die * 8 + g
      ((s.video v).queue.length < 16 →
        ∃ (t : State) (j : DecJob), exec (.vdec st rd rs1 rs2) s = .next t ∧ (t.video v).queue = (s.video v).queue ++ [j] ∧ j.recVa = a.toNat ∧
          j.core = s.curCore ∧ j.asid = s.cur.asid ∧ j.launch = s.cur.launch ∧ j.seq = (s.video v).nextSeq % 2 ^ 16 ∧
          (rd ≠ 0 → t.X rd = jobId v j.seq) ∧ t.cur.pc = s.cur.pc + 4 ∧ (∀ r, r ≠ rd → t.X r = s.X r) ∧ t.mem = s.mem) ∧
      (16 ≤ (s.video v).queue.length → s.Holds (.vdec st rd rs1 rs2))) ∧
    (placeOf a.toNat = .global → a.toNat % 128 = 0 → any → (∀ i, i < 8 → (s.video (s.die * 8 + i)).queue.length < 16) →
      ∃ (t : State) (i : Nat) (j : DecJob), i < 8 ∧ exec (.vdec st rd rs1 rs2) s = .next t ∧
        (s.videoOff (s.die * 8 + i) = false ∨ (i = 0 ∧ ∀ k, k < 8 → s.videoOff (s.die * 8 + k) = true)) ∧
        (t.video (s.die * 8 + i)).queue = (s.video (s.die * 8 + i)).queue ++ [j] ∧ j.recVa = a.toNat ∧ j.launch = s.cur.launch ∧
        (rd ≠ 0 → t.X rd = jobId (s.die * 8 + i) j.seq) ∧ t.cur.pc = s.cur.pc + 4 ∧ t.mem = s.mem) ∧
    (placeOf a.toNat = .global → a.toNat % 128 = 0 → any → (∀ i, i < 8 → 16 ≤ (s.video (s.die * 8 + i)).queue.length) →
      s.Holds (.vdec st rd rs1 rs2)) ∧
    (badId → s.Traps (.vdstat st rd rs1 e) false 0x11 0 a) ∧
    (¬badId → ¬final → e = 0 → s.Computes (.vdstat st rd rs1 e) st rd w) ∧
    (¬badId → ¬final → e = 1 → s.Holds (.vdstat st rd rs1 e)) ∧
    (¬badId → final → w.toNat % 256 = 0x30 → s.Computes (.vdstat st rd rs1 e) st rd w) ∧
    (¬badId → final → w.toNat % 256 ≠ 0x30 →
      s.Completes (.vdstat st rd rs1 e) st (nextPc s.cur.pc) ((s.acquire s.curCore .package).putX rd w))

/-! ### Traps, system instructions and control registers (R99 to R105, R201 to R213, R372, R444 to R454) -/

/-- R100, R104, R105: what stops an instruction before its own operation, in the order of the causes: privilege, which `eret` outside a
handler takes as well; bad-prefix, when a prefix is pending for an instruction that is no target; an interlock on a register that
it reads or writes, under which it does not issue; and stall-short, with the first pending register in the order of R445. -/
def Obligations.IssueChecks : Prop :=
  ∀ (s : State), s.cur.var = [] →
    (∀ i n, supervisorOnly i = some n → i.wellFormed = true → s.cur.sup = false → s.Traps i false 0x03 n 0) ∧
    (∀ st, s.cur.th = false → s.Traps (.eret st) false 0x03 0 0) ∧
    (∀ i, (encode i).isSome = true → i.wellFormed = true → prefixTarget i = false → s.cur.pp = true →
      (supervisorOnly i = none ∨ s.cur.sup = true) → ((∃ st, i = .eret st) → s.cur.th = true) → s.Traps i false 0x06 0 0) ∧
    (∀ (st : Fin 8) (rd rs1 rs2 : Fin 32) (v : List Reg),
      let x := fun (i : Fin 32) => Reg.x s.cur.bank i
      let u := s.updCur (fun t => { t with var := v })
      let short := fun (i : Fin 32) => i ≠ 0 ∧ ∃ p ∈ s.cur.pend, p.reg = x i
      (s.cur.pp = false → (rs1 ≠ 0 ∧ x rs1 ∈ v) ∨ (rs2 ≠ 0 ∧ x rs2 ∈ v) ∨ (rd ≠ 0 ∧ x rd ∈ v) → exec (.add st rd rs1 rs2) u = .next u) ∧
      (s.cur.pp = false → s.cur.sbchk = true →
        (short rs1 → s.Traps (.add st rd rs1 rs2) false 0x05 rs1 0) ∧
        (¬short rs1 → short rs2 → s.Traps (.add st rd rs1 rs2) false 0x05 rs2 0) ∧
        (¬short rs1 → ¬short rs2 → short rd → s.Traps (.add st rd rs1 rs2) false 0x05 rd 0)) ∧
      (s.cur.sbchk = true → short rs1 → s.Traps (.fadd st rd rs1 rs2) true 0x05 rs1 0))

/-- R102, R147, R444 to R449: a trap waits for the results that its task still awaits. Taking it settles the results of the task, writes
FAULTA and FAULTB, and changes no other register and no memory. With a handler installed and none running, a cause that a task may
handle goes on at the handler, PP and the prefix saved; any other parks the task faulted, with the next fault sequence, and sends its
record; one that a cancel has met is killed as it parks. -/
def Obligations.TrapEntry : Prop :=
  (∀ (s : State) (consumed : Bool) (cause info : Nat) (fb : W64), s.cur.var ≠ [] →
    let t := s.takeTrap consumed cause info fb
    t.cur.wait = .trap none cause info fb s.cur.pc.toNat (s.wordAt s.curCore s.cur).toNat ∧ t.cur.pc = s.cur.pc ∧ t.cur.x = s.cur.x ∧
      t.cur.faulta = s.cur.faulta ∧ t.cur.var = s.cur.var ∧ t.cur.phase = .running ∧ t.faults = s.faults ∧ t.mem = s.mem) ∧
  (∀ (s : State) (consumed : Bool) (cause info : Nat) (fb : W64) (l : Launch), s.cur.var = [] → s.cur.killed = true →
    ¬(inTask cause info ∧ s.cur.tvec.getLsbD 16 = true ∧ s.cur.th = false) → s.cur.groups = [] → s.pools = [] →
    s.launch? s.cur.launch = some l →
    let t := s.takeTrap consumed cause info fb
    t.cur.phase = .free ∧ t.faults = s.faults ∧ ∃ m, t.launch? s.cur.launch = some m ∧ m.killed = l.killed + 1) ∧
  ∀ (s : State) (consumed : Bool) (cause info : Nat) (fb : W64), cause < 2 ^ 8 → info < 2 ^ 16 → s.cur.var = [] →
    let t := s.takeTrap consumed cause info fb
    let pp := s.cur.pp && !consumed
    let handled := inTask cause info ∧ s.cur.tvec.getLsbD 16 = true ∧ s.cur.th = false
    let a := t.cur.faulta.toNat
    let token := t.cur.fseq * 2 ^ 16 + (s.curCore * 16 + s.curCtx)
    (handled ∨ s.cur.killed = false) →
    a % 2 ^ 8 = cause ∧ a / 2 ^ 8 % 2 ^ 16 = s.cur.pc.toNat ∧ a / 2 ^ 24 % 2 ^ 16 = info ∧
      (a / 2 ^ 40 = if s.cur.th = true then 1 else 0) ∧ t.cur.faultb = fb ∧
    t.cur.x = s.cur.settle.x ∧ t.cur.claim = s.cur.settle.claim ∧ t.cur.pend = [] ∧ t.cur.pfx = s.cur.pfx ∧ t.cur.amax = s.cur.amax ∧
    t.mem = s.mem ∧ (∀ c, (t.core c).spad = (s.core c).spad) ∧ (∀ k, k ≠ s.curCtx → t.ctx s.curCore k = s.ctx s.curCore k) ∧
    (handled →
      t.cur.pc.toNat = s.cur.tvec.toNat / 2 ^ 2 % 2 ^ 14 * 4 ∧ t.cur.th = true ∧ t.cur.pp = false ∧ t.cur.savedPP = pp ∧
      t.cur.savedPfx = s.cur.pfx ∧ t.cur.phase = .running ∧ t.faults = s.faults) ∧
    (¬handled →
      t.cur.pc = s.cur.pc ∧ t.cur.th = s.cur.th ∧ t.cur.pp = pp ∧ t.cur.phase = .faulted ∧ t.cur.fseq = (s.cur.fseq + 1) % 2 ^ 16 ∧
      ∃ r : FaultRec, t.faults = s.faults ++ [r] ∧ r.asid = s.cur.asid ∧ r.core = s.curCore ∧
        r.words =
          [w64 ((if s.cur.th = true then 2 ^ 48 else 0) + info * 2 ^ 32 + s.cur.pc.toNat * 2 ^ 16 + cause), fb,
            w64 (t.cur.fseq * 2 ^ 32 + token), w64 (s.cur.asid * 2 ^ 32 + s.cur.job), w64 s.now,
            w64 (s.wordAt s.curCore s.cur).toNat, 0, 0])

/-- R131, R210 to R213, R372: `trap` and `brk` trap with their code, `trap` keeping the offset after it; `eret` in a handler restores PP
and the prefix, leaves the handler and goes to EPC; `ifence` goes to the next offset or to its target; `ovld` gives 2, 0 or 1, waits
for the other tasks of its core, and otherwise loads the text of the overlay at offset 0, zero beyond it, the three words after it
still the old ones; `lwait` parks, and once the time has come goes on with it, when LWAIT_WAKE finds it so.
R452 to R454: `resume` and `tkill` of a token that names no faulted task give 1. `resume` of one to a bad offset gives 2 and leaves it; to
a good one it sends the task there, ready again, its prefix as saved, with an acquire at package scope. `tkill` kills the task, which
is counted, or discards what is saved of a job, 1 when nothing is; another m gives 3. -/
def Obligations.SystemInstructions : Prop :=
  (∀ (s : State), s.Plain → ∀ (st : Fin 8) (rd rs1 : Fin 32) (code : Fin 1024),
     let pc := s.cur.pc.toNat
     let x := (s.X rs1).toNat
     let dest := if rs1 = 0 then (pc + 4) % 65536 else x % 65536
     let ovld := Instr.ovld st rd rs1
     let lwait := Instr.lwait st rd rs1
     let others := ∃ e ∈ s.here.ctxs, e.1 ≠ s.curCtx ∧ e.2.phase ≠ .free ∧ e.2.phase ≠ .odd
     (s.cur.killed = false →
      ∃ t, exec (.trap st code) s = .next t ∧ t.cur.faulta.toNat % 2 ^ 8 = 0x08 ∧ t.cur.faulta.toNat / 2 ^ 8 % 2 ^ 16 = (pc + 4) % 65536 ∧
       t.cur.faulta.toNat / 2 ^ 24 % 2 ^ 16 = code ∧ t.cur.faultb = 0 ∧ t.cur.x = s.cur.x ∧ t.mem = s.mem ∧
       (s.cur.tvec.getLsbD 16 = true → s.cur.th = false → t.cur.pc.toNat = s.cur.tvec.toNat / 2 ^ 2 % 2 ^ 14 * 4 ∧ t.cur.th = true) ∧
       (s.cur.tvec.getLsbD 16 = false ∨ s.cur.th = true → t.cur.phase = .faulted ∧ t.faults.length = s.faults.length + 1)) ∧
     s.Traps (.brk st code) false 0x07 code 0 ∧
     (s.cur.th = true → s.cur.faulta.toNat / 2 ^ 8 % 4 = 0 →
       s.Completes (.eret st) st (s.cur.faulta.toNat / 2 ^ 8 % 2 ^ 16)
         (s.updCur (fun t => { t with pfx := t.savedPfx, status := setBit (setBit t.status 7 t.savedPP) 14 false }))) ∧
     (s.cur.th = true → s.cur.faulta.toNat / 2 ^ 8 % 4 ≠ 0 →
       s.Traps (.eret st) false 0x04 0 (w64 (s.cur.faulta.toNat / 2 ^ 8 % 2 ^ 16))) ∧
     (dest % 4 = 0 → s.Completes (.ifence st rs1) st dest s) ∧
     (dest % 4 ≠ 0 → s.Traps (.ifence st rs1) false 0x04 0 (w64 dest)) ∧
     (∀ conf, s.here.conf = some conf →
       (255 < x → s.Computes ovld st rd 2) ∧
       (x ≤ 255 → x = conf.ovl → s.Computes ovld st rd 0) ∧
       (x ≤ 255 → x ≠ conf.ovl → others → s.Holds ovld) ∧
       (x ≤ 255 → x ≠ conf.ovl → ¬others → s.overlay conf.image x = none → s.Computes ovld st rd 1) ∧
       (∀ text, x ≤ 255 → x ≠ conf.ovl → ¬others → s.overlay conf.image x = some text →
         ∃ t, exec ovld s = .next t ∧ (rd ≠ 0 → t.X rd = 0) ∧ (∀ i, i ≠ rd → t.X i = s.X i) ∧ t.cur.pc = s.cur.pc + 4 ∧
           t.here.conf = some { conf with ovl := x } ∧ t.mem = s.mem ∧ t.here.spad = s.here.spad ∧
           (∀ i, t.here.istore.get 0 i = BitVec.ofNat 32 (leNat ((text.drop (4 * i)).take 4))) ∧
           (∀ j, 1 ≤ j → j ≤ 3 → t.wordAt s.curCore { t.cur with pc := s.cur.pc + BitVec.ofNat 16 (4 * j) } =
             s.wordAt s.curCore { s.cur with pc := s.cur.pc + BitVec.ofNat 16 (4 * j) }))) ∧
     (s.cur.killed = false →
       (∃ t, exec lwait s = .next t ∧ t.cur.phase = .parked ∧ t.cur.wait = .cond ∧ t.cur.pc = s.cur.pc ∧ (∀ r, t.X r = s.X r) ∧ t.mem = s.mem) ∧
       (∀ (u : State) (c k : Nat) (t : Ctx), t = u.ctx c k → t.phase = .parked → t.wait = .cond → t.pend = [] → t.var = [] → t.pp = false →
         t.killed = false → u.ready c k = true → decodeWord (u.wordAt c t).toNat = .ok lwait →
         (max (t.readX rs1).toNat t.lastTime ≤ u.timeOf (dieOf c) →
           ∃ w, exec (.lwaitWake c k) u = .next w ∧ (w.ctx c k).phase = .running ∧ (w.ctx c k).wait = .none ∧ (w.ctx c k).pc = t.pc + 4 ∧
             (w.ctx c k).lastTime = u.timeOf (dieOf c) ∧ (rd ≠ 0 → (w.ctx c k).readX rd = w64 (u.timeOf (dieOf c))) ∧
             (∀ r, r ≠ rd → (w.ctx c k).readX r = t.readX r) ∧ w.mem = u.mem) ∧
         (u.timeOf (dieOf c) < max (t.readX rs1).toNat t.lastTime →
           ∃ w, exec (.lwaitWake c k) u = .next w ∧ (w.ctx c k).phase = .parked ∧ (w.ctx c k).wait = .cond ∧ (w.ctx c k).pc = t.pc ∧
             (∀ r, (w.ctx c k).readX r = t.readX r))))) ∧
  (∀ (s : State), s.Plain → s.cur.sup = true → s.Open .package → ∀ (st : Fin 8) (rd rs1 rs2 : Fin 32),
     let tok := (s.X rs1).toNat
     let c := tok / 2 ^ 4 % 2 ^ 11
     let k := tok % 2 ^ 4
     let m := if rs2 = 0 then 0 else (s.X rs2).toNat
     let resume := Instr.resume st rd rs1 rs2
     let tkill := Instr.tkill st rd rs1 rs2
     let named := tok / 2 ^ 32 = 0 ∧ tok / 2 ^ 15 % 2 = 0 ∧ c ≤ 1535
     let there := named ∧ (s.ctx c k).phase = .faulted ∧ (s.ctx c k).fseq = tok / 2 ^ 16 % 2 ^ 16
     let saved := fun (t : State) (job asid : Nat) =>
       ∃ r ∈ t.saves, ∃ l ∈ r.launches, ∃ e ∈ t.launches, e.1 = l ∧ e.2.job = job ∧ e.2.asid = asid
     let pc := if rs2 = 0 then (s.ctx c k).faulta.toNat / 2 ^ 8 % 2 ^ 16 else (s.X rs2).toNat
     (¬there → (¬named ∨ s.saves = []) → s.Computes resume st rd 1 ∧ (m = 0 → s.Computes tkill st rd 1)) ∧
     (there → (pc % 4 ≠ 0 ∨ 65532 < pc) → s.Computes resume st rd 2) ∧
     (there → pc % 4 = 0 → pc ≤ 65532 →
       ∃ t, exec resume s = .next t ∧ (t.ctx c k).phase = .running ∧ (t.ctx c k).pc.toNat = pc ∧ (t.ctx c k).x = (s.ctx c k).x ∧
         (t.ctx c k).status = (s.ctx c k).status ∧ (t.ctx c k).pfx = (s.ctx c k).pfx ∧
         (∀ l ∈ (t.core c).l1, ∀ e ∈ l.bytes, e.2.dirty = true) ∧ (rd ≠ 0 → t.X rd = 0) ∧ t.cur.pc = s.cur.pc + 4 ∧ t.mem = s.mem) ∧
     (there → m = 0 → (s.ctx c k).paired = false → s.pools = [] → s.waiters = [] → (s.ctx c k).groups = [] →
       (∀ f ∈ s.msgs, f.uid = (s.ctx c k).uid → f.counted = true) →
       ∃ t, exec tkill s = .next t ∧ (t.ctx c k).phase = .free ∧ (rd ≠ 0 → t.X rd = 0) ∧ t.cur.pc = s.cur.pc + 4 ∧
         (∀ l, s.launch? (s.ctx c k).launch = some l → ∃ n, t.launch? (s.ctx c k).launch = some n ∧
           n.outstanding = l.outstanding - 1 ∧ n.killed = l.killed + 1)) ∧
     (m = 1 → ¬saved s (tok % 2 ^ 32) (tok / 2 ^ 32 % 2 ^ 6) → s.Computes tkill st rd 1) ∧
     (m = 1 → saved s (tok % 2 ^ 32) (tok / 2 ^ 32 % 2 ^ 6) →
       ∃ t, exec tkill s = .next t ∧ (rd ≠ 0 → t.X rd = 0) ∧ t.cur.pc = s.cur.pc + 4 ∧ ¬saved t (tok % 2 ^ 32) (tok / 2 ^ 32 % 2 ^ 6)) ∧
     (2 ≤ m → s.Computes tkill st rd 3))

/-- R202, R204 to R208, R331, R374, R409: a CSR instruction gives the value of its register and writes what its operation makes of it; a
read-only register keeps its own. A supervisor register traps in user mode, an unassigned one with illegal-encoding; a read of DTIME
waits for the time that the task has seen; the value of a write that switches the register bank still goes to the bank before it; `csrr`
of CPGO checks the shadow registers, waits for room in the channel, and appends the copy, which starts where the channel is free; any
other access to CPGO gives 0. -/
def Obligations.ControlRegisters : Prop :=
  ∀ (s : State), s.Plain → ∀ (st : Fin 8) (rd rs1 : Fin 32) (num : Fin 2048),
    let n := num.val
    let old := s.csrRead n
    let x := s.X rs1
    let w := if n = 0x020 then s.updCur (fun t => { t with lastTime := s.now }) else s
    let all := [Instr.csrr st rd num, .csrw st rd rs1 num, .csrs st rd rs1 num, .csrc st rd rs1 num]
    let runs := csrAssigned n = true ∧ (csrSup n = true → s.cur.sup = true)
    let done := fun (i : Instr) (u : State) => s.Completes i st (nextPc s.cur.pc) u
    let got := w.putX rd old
    let f := s.cur.cpflag.toNat
    let ch := f % 4
    let chan := s.here.copies.get {} ch
    (csrAssigned n = false → ∀ i ∈ all, s.Traps i false 0x01 0 0) ∧
    (csrAssigned n = true → csrSup n = true → s.cur.sup = false → ∀ i ∈ all, s.Traps i false 0x03 n 0) ∧
    (runs → n ≠ 0x045 → (n = 0x020 → s.cur.lastTime ≤ s.now) →
      done (.csrr st rd num) got ∧ done (.csrw st rd rs1 num) (got.csrWrite n x) ∧
      done (.csrs st rd rs1 num) (got.csrWrite n (old ||| x)) ∧ done (.csrc st rd rs1 num) (got.csrWrite n (old &&& ~~~x))) ∧
    (n = 0x020 → s.now < s.cur.lastTime → ∀ i ∈ all, s.Holds i) ∧
    (n = 0x045 →
      (∀ i ∈ all.tail, s.Computes i st rd 0) ∧
      (badFlag f = true → s.Traps (.csrr st rd num) false 0x02 0 0) ∧
      (badFlag f = false → f / 4 % 4 ≠ 0 → s.cur.cpdesc.toNat % 32 ≠ 0 → s.Traps (.csrr st rd num) false 0x04 0 s.cur.cpdesc) ∧
      (badFlag f = false → (f / 4 % 4 = 0 ∨ s.cur.cpdesc.toNat % 32 = 0) →
        (8 ≤ chan.queue.length → s.Holds (.csrr st rd num)) ∧
        (chan.queue.length < 8 →
          ∃ (t : State) (o : CopyOp), exec (.csrr st rd num) s = .next t ∧ (t.here.copies.get {} ch).queue = chan.queue ++ [o] ∧
            o.src = normVa s.curCore s.cur.cpsrc.toNat ∧ o.dst = normVa s.curCore s.cur.cpdst.toNat ∧ o.len = s.cur.cplen.toNat ∧
            (chan.queue = [] → o.state = 0x02 ∧ (t.here.copies.get {} ch).wm = w64 o.dst) ∧
            (chan.queue ≠ [] → o.state = 0x01 ∧ (t.here.copies.get {} ch).wm = chan.wm) ∧
            o.flag = f ∧ o.seq = chan.nextSeq % 2 ^ 16 ∧ o.ctx = s.curCtx ∧ o.asid = s.cur.asid ∧
            (rd ≠ 0 → t.X rd = w64 (ch * 2 ^ 16 + o.seq)) ∧ (∀ i, i ≠ rd → t.X i = s.X i) ∧ t.cur.pc = s.cur.pc + 4 ∧ t.mem = s.mem))) ∧
    s.csrRead 0x001 = w64 (s.curCore * 16 + s.curCtx) ∧ s.csrRead 0x003 = w64 s.cur.job ∧ s.csrRead 0x004 = s.cur.tvec ∧
    s.csrRead 0x005 = s.cur.faulta ∧ s.csrRead 0x006 = s.cur.faultb ∧ s.csrRead 0x020 = w64 s.now ∧
    s.csrRead 0x030 = 0xFFFFFFFFFFF00000 ∧ s.csrRead 0x031 = w64 s.here.spsize ∧ s.csrRead 0x060 = w64 s.here.incmode ∧
    (∀ v : W64,
      (∀ r ∈ [0x001, 0x002, 0x003, 0x006, 0x020, 0x021, 0x030, 0x031, 0x048, 0x049, 0x04A, 0x04B, 0x060], s.csrWrite r v = s) ∧
      (∀ r ∈ [0x011, 0x012, 0x013, 0x014, 0x040, 0x041, 0x043, 0x044], (s.csrWrite r v).csrRead r = v) ∧
      (s.csrWrite 0x004 v).csrRead 0x004 = v &&& 0x1FFFC#64 ∧
      (s.csrWrite 0x005 v).csrRead 0x005 = (s.cur.faulta &&& ~~~0xFFFF00#64) ||| (v &&& 0xFFFF00#64) ∧
      (s.csrWrite 0x010 v).csrRead 0x010 = v &&& 0x800000007FFFFFFF#64 ∧
      (s.csrWrite 0x042 v).csrRead 0x042 = w64 (v.toNat % 2 ^ 40) ∧
      ((s.csrWrite 0x000 v).cur.status =
        (let keep := if s.cur.paired = true then 0x0F00#64 else 0x0D00#64
         (s.cur.status &&& ~~~keep) ||| (v &&& keep))) ∧
      ((s.csrWrite 0x400 v).csrRead 0x400 = w64 (max 16 (v.toNat % 2 ^ 16))) ∧
      (∀ c, c ≠ s.curCore → ((s.csrWrite 0x050 v).core c) = s.core c))

/-! ### Queues, launches and run queues (R109 to R147, R177, R178, R221 to R225, R415, R416) -/

/-- R116, R118, R120, R121, R123, R124, R178: a write of QTAIL sets TAIL, and stops an enabled queue that it overruns. LAUNCH_TAKE takes the
record at HEAD of an idle enabled queue: as a launch, as one rejected with the status of the first check that fails, whose completion
record is sent, or as an unusable record, which is passed over. LAUNCH_START ends a cancelled launch and one whose producer failed;
for the others it first cleans the lines that the edges name, then drops the clean copies of its cores, and starts. -/
def Obligations.QueueAgents : Prop :=
  ∀ (s : State) (q : Nat), q < 256 →
    let head := s.qhead q
    let a := s.qaddr q head
    let w := wordsOf (Memory.bytes s.mem a 128) 16
    let done := (nth 0 w 10).toNat % 2 ^ 56
    let mask := s.effMask q w
    let clean := ∀ b, a ≤ b → b < a + 128 → NatSet.has s.poison b = false
    let idle := ∀ e ∈ s.launches, e.2.queue = q → e.2.status.isSome = true ∨ e.2.sentAll = true
    let next := (head + 1) % 2 ^ 32
    let busy := s.qen q = true ∧ s.qfill q ≠ 0 ∧ s.qfill q ≤ s.qlen q ∧ idle ∧ a + 128 ≤ 2 ^ 39
    (∀ v : W64, ∃ t, exec (.qtailWrite q v) s = .next t ∧ t.qtail q = v.toNat % 2 ^ 32 ∧ t.qhead q = head ∧
      (let past := s.qen q = true ∧ s.qlen q < (v.toNat % 2 ^ 32 + 2 ^ 32 - head) % 2 ^ 32
       (¬past → t.qen q = s.qen q ∧ t.mem = s.mem) ∧ (past → t.qen q = false ∧ t.regBits (pQctl q) 10 10 = 1))) ∧
    (s.qen q = false ∨ s.qfill q = 0 ∨ ¬idle → exec (.launchTake q) s = .next s) ∧
    (busy → clean → done + 64 ≤ 2 ^ 39 →
      (s.recordStatus w mask = none →
        ∃ t l, exec (.launchTake q) s = .next t ∧ t.launch? s.nextId = some l ∧ l.queue = q ∧ l.index = head ∧ l.words = w ∧
          l.asid = s.qasid q ∧ l.job = (nth 0 w 1).toNat % 2 ^ 32 ∧ l.mask = mask ∧ l.started = false ∧ l.outstanding = 0 ∧
          (l.cancelled = true ↔ NatSet.has (s.marks.get [] q) head = true) ∧ t.qhead q = head ∧ t.mem = s.mem) ∧
      (∀ st, s.recordStatus w mask = some st →
        ∃ t l r, exec (.launchTake q) s = .next t ∧ t.launch? s.nextId = some l ∧ l.status = some st ∧ t.qhead q = next ∧
          (t.chan (.queueAgent (q / 64)) (s.homeOf done)).getLast? = some r ∧ r.addr = done ∧
          r.op = .write (PByte.clean (bytesOfWords
            [w64 st, 0, w64 (s.timeOf (q / 64)), w64 (q * 2 ^ 32 + (nth 0 w 1).toNat % 2 ^ 32), 0, 0, 0, 0])))) ∧
    (busy → ¬clean ∨ 2 ^ 39 < done + 64 →
      ∃ t, exec (.launchTake q) s = .next t ∧ t.launches = s.launches ∧ t.qhead q = next) ∧
    (∀ id l, s.current? q = some (id, l) → s.launch? id = some l → l.started = false →
      let ends := fun (st : Nat) =>
        ∃ t m, exec (.launchStart q) s = .next t ∧ t.launch? id = some m ∧ m.status = some st ∧ t.qhead q = next
      let failed := ∃ e ∈ l.edges, Memory.byte s.mem e.1 ≠ 1
      (s.waitsOver id l = false → exec (.launchStart q) s = .next s) ∧
      (s.waitsOver id l = true → l.cancelled = true → ends 2) ∧
      (s.waitsOver id l = true → l.cancelled = false → failed → ends 3) ∧
      (s.waitsOver id l = true → l.cancelled = false → ¬failed → l.flush = none → (∀ e ∈ l.edges, e.2 = 0) →
        ∃ t m ids, exec (.launchStart q) s = .next t ∧ t.launch? id = some m ∧ m.flush = some ids ∧ m.started = false ∧
          ∀ e ∈ l.edges, ∀ c ∈ s.producerCores e.1, ∀ x ∈ (t.core c).l1, x.isDirty = false) ∧
      (∀ ids, s.waitsOver id l = true → l.cancelled = false → ¬failed → l.flush = some ids → s.coresAcked ids = true →
        (∀ e ∈ l.edges, e.2 = 0) →
        ∃ t m, exec (.launchStart q) s = .next t ∧ t.launch? id = some m ∧ m.started = true ∧
          (l.w 6 % 2 ^ 32 = 0 → m.status = some 1 ∧ t.qhead q = next) ∧
          (l.w 6 % 2 ^ 32 ≠ 0 → m.status = l.status ∧ t.qhead q = head) ∧
          (l.edges ≠ [] → ∀ c ∈ maskCores l.mask, (∀ x ∈ (t.core c).l1, ∀ b ∈ x.bytes, b.2.dirty = true) ∧
            ∀ p, dieOf p = dieOf c → t.rdc.get [] p = [])))

/-- R125 to R127, R143, R144, R177, R223: TASK_MESSAGE_SEND sends the next message of a launch of the highest priority, to the core of
the mask whose turn it is, and counts it; none of a launch of which a message is held. MESSAGE_RESEND sends again the first message
that an agent holds and that finds room; the agent holds it on until it is accepted.
COMPLETION_RECORD_WRITE gives a launch that has sent all, or is cancelled, and that nothing works for any more, its status. CANCEL_MARK
marks the launches of the job at one agent, and after the last answers who waits. CANCEL_ARRIVE drops the messages of the launch at a
core, kills its parked tasks, and marks the others. -/
def Obligations.LaunchProgress : Prop :=
  (∀ (s : State) (d id : Nat) (l : Launch), d < 4 → s.sender? d = some (id, l) → s.launch? id = some l →
    let cores := maskCores l.mask
    let count := l.w 6 % 2 ^ 32
    let last := decide (l.next + 1 = count)
    (l.started = true ∧ l.status = none ∧ l.sentAll = false ∧ l.cancelled = false ∧ l.queue / 64 = d ∧
      (∀ g ∈ s.msgs, g.launch = id → g.held = true → g.sender ≠ .queueAgent d) ∧
      ∀ e ∈ s.launches, e.2.queue / 64 = d → s.maySend e = true → s.prio e.1 ≤ s.prio id ∨ s.launch? e.1 ≠ some e.2) ∧
    ∃ (t : State) (f : Flight) (m : Launch), exec (.taskMessageSend d) s = .next t ∧ t.msgs = s.msgs ++ [f] ∧ f.launch = id ∧
      f.target = nth 0 cores (l.next % cores.length) ∧ f.sender = .queueAgent d ∧ f.counted = true ∧
      f.msg.hnd = l.w 0 % 2 ^ 16 ∧ f.msg.ovl = l.w 0 / 2 ^ 16 % 2 ^ 8 ∧ f.msg.job = l.job ∧ f.msg.bd = false ∧ f.msg.key = 0 ∧
      f.msg.args = [nth 0 l.words 7, nth 0 l.words 8, nth 0 l.words 9, w64 l.next] ∧
      t.launch? id = some m ∧ m.next = l.next + 1 ∧ m.outstanding = l.outstanding + 1 ∧ m.sentAll = last ∧
      t.qhead l.queue = (if last = true then (s.qhead l.queue + 1) % 2 ^ 32 else s.qhead l.queue) ∧ t.mem = s.mem) ∧
  (∀ (s : State) (a : Agent) (i : Nat) (f : Flight), s.msgs[i]? = some f → f.back = true → f.holder = a → s.hasRoom f.target = true →
    (∀ j g, j < i → s.msgs[j]? = some g → ¬(g.back = true ∧ g.holder = a ∧ s.hasRoom g.target = true)) →
    ∃ t, exec (.messageResend a) s = .next t ∧ t.msgs[i]? = some { f with back := false } ∧
      (∀ j, j ≠ i → t.msgs[j]? = s.msgs[j]?) ∧ t.cores = s.cores) ∧
  (∀ (s : State) (id : Nat) (l : Launch), s.launch? id = some l → l.started = true → l.status = none →
    let ended := l.outstanding = 0 ∧ (l.sentAll = true ∨ l.cancelled = true) ∧ s.engineWorks id = false ∧ s.writesOpen id = false
    let st := if l.cancelled = true then 2 else if l.lost = 0 then 1 else 4
    (ended → ∃ t m r, exec (.completionRecordWrite id) s = .next t ∧ t.launch? id = some m ∧ m.status = some st ∧
      (t.chan (.queueAgent (l.queue / 64)) (s.homeOf l.done)).getLast? = some r ∧ r.addr = l.done ∧
      r.op = .write (PByte.clean (bytesOfWords (l.recordWords st (s.timeOf (l.queue / 64)))))) ∧
    (¬ended → exec (.completionRecordWrite id) s = .next s)) ∧
  (∀ (s : State) (d i : Nat) (op : CancelOp), s.cancelOps[i]? = some op → d ∈ op.todo →
    (∀ j o, j < i → s.cancelOps[j]? = some o → d ∉ o.todo) →
    let hit := fun (l : Launch) => l.queue / 64 = d ∧ l.asid = op.asid ∧ l.job = op.job ∧ l.status = none
    ∃ t, exec (.cancelMark d) s = .next t ∧
      (∀ id l, s.launch? id = some l → ∃ m, t.launch? id = some m ∧ (hit l → m.cancelled = true) ∧ (¬hit l → m = l)) ∧
      (op.todo ≠ [d] → (∃ x ∈ op.todo, x ≠ d) →
        ∃ o, t.cancelOps[i]? = some o ∧ o.todo = op.todo.filter (· ≠ d) ∧ ((∃ id l, s.launch? id = some l ∧ hit l) → o.found = true)) ∧
      (op.todo = [d] → t.cancelOps.length + 1 = s.cancelOps.length ∧
        ((s.ctx op.core op.ctx).uid = op.uid → (s.ctx op.core op.ctx).phase ≠ .free →
          ∃ v : W64, (t.ctx op.core op.ctx).x = ((s.ctx op.core op.ctx).put op.reg (.word v)).x ∧ (v = 0 ∨ v = 1) ∧
            (op.found = true ∨ (∃ id l, s.launch? id = some l ∧ hit l) → v = 1) ∧ op.reg ∉ (t.ctx op.core op.ctx).var))) ∧
  (∀ (s : State) (c id : Nat) (l : Launch), s.launch? id = some l → l.cancelled = true → l.started = true → l.status = none →
    bitOf l.mask c = true → NatSet.has (s.core c).cancels id = false → (s.core c).ovf = [] → (s.core c).chosen = none → s.saves = [] →
    s.poolQueue (c / 8) = [] →
    ∃ t, exec (.cancelArrive c id) s = .next t ∧ NatSet.has (t.core c).cancels id = true ∧
      (t.core c).runq = (s.core c).runq.filter (fun f => f.launch != id) ∧
      ∀ k, (s.ctx c k).launch = id → (s.ctx c k).paired = false →
        ((s.ctx c k).phase = .parked ∨ (s.ctx c k).phase = .faulted → (s.ctx c k).groups = [] → (t.ctx c k).phase = .free) ∧
        ((s.ctx c k).phase = .running → (s.ctx c k).wait = .none → (s.ctx c k).reclaim = false → (k = 0 ∨ (s.ctx c (k - 1)).paired = false) →
          (t.ctx c k).killed = true ∧ (t.ctx c k).pc = (s.ctx c k).pc ∧ (t.ctx c k).x = (s.ctx c k).x))

/-- R127, R136, R143, R145, R146, R342, R415, R416: a message that arrives enters the run queue of its core, or its overflow area, or is
held by its sender when there is no room; its sender goes on, with 0 in the register of a `spawnb`, and a task of it is counted. One of a cancelled launch is dropped, and one with a
stub for its key is forwarded. A task that moves enters as a queued entry with its own arrival time and leaves its old context free,
nothing counted; after a cancel it is killed instead. REHOME_HINT writes the hint words. -/
def Obligations.MessageArrivals : Prop :=
  (∀ (s : State) (i : Nat) (f : Flight), s.msgs[i]? = some f → f.back = false → f.mig = none →
    let c := f.target
    let h := s.core c
    let rest := s.msgs.take i ++ s.msgs.drop (i + 1)
    let cancelled := NatSet.has h.cancels f.launch = true
    let room := h.runq.length < 256 ∧ h.ovf = []
    let sender := fun (t : State) =>
      (∀ p k reg, f.sender = .core p → (s.ctx p k).uid = f.uid → (s.ctx p k).wait = .message reg →
        (t.ctx p k).wait = .settle ∧ (t.ctx p k).phase = .running ∧ (reg = none → (t.ctx p k).x = (s.ctx p k).x) ∧
          (∀ r, reg = some r → (t.ctx p k).x = ((s.ctx p k).put r (.word 0)).x)) ∧
      (∀ p l, f.sender = .core p → f.counted = false → s.launch? f.launch = some l →
        ∃ m, t.launch? f.launch = some m ∧ m.outstanding = l.outstanding + 1)
    let entry := fun (e : Flight) =>
      e.msg = f.msg ∧ e.launch = f.launch ∧ e.target = c ∧ e.sender = f.sender ∧ e.acq = f.acq ∧ e.counted = true ∧ e.held = false ∧
        e.arrival = s.timeOf (dieOf c)
    (¬cancelled → s.forwardTo f = none → room →
      ∃ t e, exec (.messageArrive i) s = .next t ∧ t.msgs = rest ∧ (t.core c).runq = h.runq ++ [e] ∧ entry e ∧ e.addr = f.addr ∧
        sender t ∧ t.mem = s.mem) ∧
    (∀ a, ¬cancelled → s.forwardTo f = none → ¬room → s.ovfSlot c = some a →
      ∃ t e, exec (.messageArrive i) s = .next t ∧ t.msgs = rest ∧ (t.core c).ovf = h.ovf ++ [e] ∧ entry e ∧ e.addr = some a ∧
        (t.core c).runq = h.runq ∧ sender t ∧ Memory.bytes t.mem a 64 = bytesOfWords f.msg.words ∧
        (∀ b, b < a ∨ a + 64 ≤ b → Memory.byte t.mem b = Memory.byte s.mem b)) ∧
    (¬cancelled → s.forwardTo f = none → ¬room → s.ovfSlot c = none →
      ∃ t, exec (.messageArrive i) s = .next t ∧ t.msgs = rest ++ [{ f with held := true, back := true }] ∧ t.cores = s.cores) ∧
    (∀ d, ¬cancelled → s.forwardTo f = some d →
      ∃ t, exec (.messageArrive i) s = .next t ∧ t.msgs = rest ++ [{ f with target := d, via := some c }] ∧ t.cores = s.cores) ∧
    (∀ l, cancelled → f.counted = true → s.launch? f.launch = some l →
      ∃ t m, exec (.messageArrive i) s = .next t ∧ t.msgs = rest ∧ (t.core c).runq = h.runq ∧ (t.core c).ovf = h.ovf ∧
        t.launch? f.launch = some m ∧ m.outstanding = l.outstanding - 1 ∧ m.killed = l.killed + 1) ∧
    (∀ l, cancelled → f.counted = false → s.launch? f.launch = some l →
      ∃ t m, exec (.messageArrive i) s = .next t ∧ t.msgs = rest ∧ (t.core c).runq = h.runq ∧
        t.launch? f.launch = some m ∧ m.outstanding = l.outstanding ∧ m.killed = l.killed + 1)) ∧
  (∀ (s : State) (i : Nat) (f : Flight) (m : Ctx) (p : Nat) (l : Launch), s.msgs[i]? = some f → f.back = false → f.mig = some m →
    f.sender = .core p → (s.ctx p f.ctx).uid = f.uid → (s.ctx p f.ctx).wait = .message none → (s.ctx p f.ctx).launch = f.launch →
    (s.ctx p f.ctx).groups = [] → s.pools = [] → s.launch? f.launch = some l →
    let c := f.target
    let rest := s.msgs.take i ++ s.msgs.drop (i + 1)
    let cancelled := NatSet.has (s.core c).cancels f.launch = true
    let room := (s.core c).runq.length < 256 ∧ (s.core c).ovf = []
    (¬cancelled → room →
      ∃ t e, exec (.messageArrive i) s = .next t ∧ t.msgs = rest ∧ (t.core c).runq = (s.core c).runq ++ [e] ∧ e.mig = some m ∧
        e.launch = f.launch ∧ e.acq = f.acq ∧ e.arrival = f.arrival ∧ (t.ctx p f.ctx).phase = .free ∧ t.launches = s.launches ∧ t.mem = s.mem) ∧
    (¬cancelled → ¬room → s.ovfSlot c = none →
      ∃ t, exec (.messageArrive i) s = .next t ∧ t.msgs = rest ++ [{ f with held := true, back := true }] ∧ t.cores = s.cores) ∧
    (cancelled → (∀ g ∈ rest, g.uid = f.uid → g.counted = true) →
      ∃ t n, exec (.messageArrive i) s = .next t ∧ (t.ctx p f.ctx).phase = .free ∧ (t.core c).runq = (s.core c).runq ∧
        t.launch? f.launch = some n ∧ n.outstanding = l.outstanding - 1 ∧ n.killed = l.killed + 1)) ∧
  (∀ (s : State) (i : Nat) (x : Hint), s.hints[i]? = some x →
    let h := s.core x.core
    let word := fun (g : HomeCore) (j : Nat) => leNat (Memory.bytes g.spad (h.tableOff + 8 * j) 8)
    ∃ t, exec (.rehomeHint i) s = .next t ∧ t.hints.length + 1 = s.hints.length ∧ t.mem = s.mem ∧
      (h.tableOk = false → t.cores = s.cores) ∧
      (h.tableOk = true → word (t.core x.core) 0 = x.key.toNat ∧ word (t.core x.core) 1 = x.target % 2 ^ 64 ∧
        word (t.core x.core) 2 = (word h 2 + 1) % 2 ^ 64))

/-- R109, R112, R128, R129, R137 to R140, R339, R370, R409, R422, R423: CONTEXT_ALLOCATE gives the entry that a core chooses a context, in the
state in which a task starts, unless its bound fails; a task that has moved goes on as it was captured, once its acquire is done, and asks
its new pool for the claim that it held. CORE_RECONFIGURE first gives an empty core the configuration of the entry, its
scratchpad kept below both sizes in one address space and zero otherwise, the L1 lines of the blocks that stay ways as they are; an entry of a bad overlay is lost. RQAGE_EXPIRE and
AGE_PROMOTION mark the entries and tasks that have waited long enough; the scrubs drop the entries whose bounds fail. -/
def Obligations.TaskStarts : Prop :=
  (∀ (s : State) (c i : Nat) (f : Flight) (l : Launch), (s.markAged c).choose c = some (i, f) → f.mig = none → s.launch? f.launch = some l →
    (s.core c).ovf = [] →
    let fails := f.msg.bd = true ∧ boundCheck ((s.core c).shadow.get {} f.msg.inc) l.asid f.msg.job f.msg.bound = true
    let starts := fun (t : State) (k : Nat) =>
      let u := t.ctx c k
      u.phase = .running ∧ u.pc = BitVec.ofNat 16 f.msg.hnd ∧ u.readX 2 = w64 (0xFFFFFFFFFFF00000 + 16384 * l.n) ∧
        (∀ j, j < 4 → u.readX (10 + j) = nth 0 f.msg.args j) ∧ u.readX 14 = w64 (f.msg.group % 2 ^ 32 * 2 ^ 32 + f.msg.job % 2 ^ 32) ∧
        u.readX 15 = f.msg.key ∧ (∀ r, r < 32 → r ≠ 2 → r < 10 ∨ 15 < r → u.readX r = 0) ∧ u.sup = decide (l.asid = 0) ∧
        u.rm = l.w 0 / 2 ^ 28 % 4 ∧ (u.sbchk = true ↔ l.w 0 / 2 ^ 27 % 2 = 1) ∧ u.pp = false ∧ u.th = false ∧ u.tvec = 0 ∧ u.faulta = 0 ∧
        u.amax = 0 ∧ u.pend = [] ∧ u.var = [] ∧ u.claim = none ∧ u.groups = [] ∧ u.bd = f.msg.bd ∧ (f.msg.bd = true → u.bound = f.msg.bound) ∧
        u.asid = l.asid ∧ u.job = f.msg.job ∧ u.launch = f.launch ∧ u.paired = f.msg.pair
    (∃ g, (s.core c).runq[i]? = some g ∧ g.msg = f.msg ∧ g.launch = f.launch) ∧ (∀ e ∈ (s.core c).ctxs, e.2.wait ≠ .alone) ∧
    (s.matchesK c f = true → fails → ∃ t m, exec (.contextAllocate c) s = .next t ∧ (t.core c).runq.length + 1 = (s.core c).runq.length ∧
      (t.core c).ctxs = (s.core c).ctxs ∧ t.launch? f.launch = some m ∧ m.killed = l.killed + 1 ∧ m.outstanding = l.outstanding - 1) ∧
    (∀ k, s.matchesK c f = true → ¬fails → (s.core c).place f = some k →
      ∃ t, exec (.contextAllocate c) s = .next t ∧ (t.core c).runq.length + 1 = (s.core c).runq.length ∧ starts t k ∧
        (f.msg.pair = true → (t.ctx c (k + 1)).phase = .odd) ∧ t.mem = s.mem) ∧
    (∀ new, s.matchesK c f = false → (s.core c).live = false → s.spadBusy c = false → (s.core c).chosen = none → s.confOf f = some new →
      let old := (s.core c).conf
      let text := s.overlay new.image new.ovl
      (needsText old new = true → text = none → ∃ t m, exec (.coreReconfigure c) s = .next t ∧ (t.core c).conf = old ∧
        t.launch? f.launch = some m ∧ m.lost = l.lost + 1 ∧ m.outstanding = l.outstanding - 1) ∧
      (∀ k, f.counted = true → (needsText old new = true → text.isSome = true) → ¬fails → (s.core c).place f = some k →
        (new.n ≤ blocks old ∨ ((s.core c).l1 = [] ∧ (s.core c).out = [])) →
        ∃ t, exec (.coreReconfigure c) s = .next t ∧ (t.core c).conf = some new ∧ (t.core c).kvring = 0 ∧ starts t k ∧
          (f.acq = none → ∀ x, x ∈ (t.core c).l1 ↔ x ∈ (s.core c).l1 ∧ new.n ≤ x.way) ∧
          (∀ b, Memory.byte (t.core c).spad b =
            if (∃ o, old = some o ∧ o.asid = new.asid ∧ b < 16384 * min o.n new.n) then Memory.byte (s.core c).spad b else Memory.byte [] b) ∧
          (∀ x, needsText old new = true → text = some x →
            ∀ j, (t.core c).istore.get 0 j = BitVec.ofNat 32 (leNat ((x.drop (4 * j)).take 4)))))) ∧
  (∀ (s : State) (c i : Nat) (f : Flight) (l : Launch) (m : Ctx), (s.markAged c).choose c = some (i, f) → f.mig = some m →
    s.launch? f.launch = some l → s.matchesK c f = true → (s.core c).ovf = [] → s.poolQueue (c / 8) = [] →
    let fails := m.bd = true ∧ boundCheck ((s.core c).shadow.get {} m.inc) l.asid m.job m.bound = true
    (fails → m.groups = [] → m.launch = f.launch → ∃ t n, exec (.contextAllocate c) s = .next t ∧
      (t.core c).runq.length + 1 = (s.core c).runq.length ∧ (t.core c).ctxs = (s.core c).ctxs ∧ t.launch? f.launch = some n ∧
      n.killed = l.killed + 1 ∧ n.outstanding = l.outstanding - 1) ∧
    (∀ k, ¬fails → (s.core c).place f = some k → (s.ctx c k).claim = none →
      let got := ∀ d, m.claim = some d → s.poolSlot (c / 8) = true ∧ (d.lanes = 8 ∨ d.lanes = 16 ∨ d.lanes = 32 ∨ d.lanes = 64) ∧
        d.lanes ≤ s.poolFree (c / 8)
      ∃ t, exec (.contextAllocate c) s = .next t ∧ (t.core c).runq.length + 1 = (s.core c).runq.length ∧ t.mem = s.mem ∧
        t.launches = s.launches ∧
        (let u := t.ctx c k
         u.phase = .running ∧ u.wait = .none ∧ u.pc = m.pc ∧ u.x = m.x ∧ u.status = m.status ∧ u.pfx = m.pfx ∧ u.savedPP = m.savedPP ∧
           u.savedPfx = m.savedPfx ∧ u.tvec = m.tvec ∧ u.faulta = m.faulta ∧ u.faultb = m.faultb ∧ u.amax = m.amax ∧ u.hg = m.hg ∧
           u.cpsrc = m.cpsrc ∧ u.cpdst = m.cpdst ∧ u.cplen = m.cplen ∧ u.cpdesc = m.cpdesc ∧ u.cpflag = m.cpflag ∧ u.c4ta0 = m.c4ta0 ∧
           u.c4ta1 = m.c4ta1 ∧ u.c4tb0 = m.c4tb0 ∧ u.c4tb1 = m.c4tb1 ∧ u.bd = m.bd ∧ u.inc = m.inc ∧ u.bound = m.bound ∧
           u.groups = m.groups ∧ u.job = m.job ∧ u.role = m.role ∧ u.launch = m.launch ∧ u.uid = m.uid ∧ u.lastTime = m.lastTime ∧
           u.arrival = f.arrival ∧ u.hires = [] ∧
           (got → u.claim = m.claim ∧ u.reclaim = false) ∧
           (¬got → u.claim = none ∧ u.reclaim = true ∧ ∃ r, t.poolQueue (c / 8) = [r] ∧ r.core = c ∧ r.ctx = k ∧ r.saved = m.claim)) ∧
        (∀ sc, f.acq = some sc → sc.wide = true → ∀ x ∈ (t.core c).l1, ∀ b ∈ x.bytes, b.2.dirty = true))) ∧
  (∀ (s : State) (c : Nat), ∃ t, exec (.rqageExpire c) s = .next t ∧ (t.core c).runq.length = (s.core c).runq.length ∧ t.msgs = s.msgs ∧
    ∀ (i : Nat) (f : Flight), (s.core c).runq[i]? = some f →
      (t.core c).runq[i]? = some (if f.since + 65536 ≤ s.cycle then { f with aged := true } else f)) ∧
  (∀ (s : State) (c k : Nat),
    (s.ready c k = true → (s.ctx c k).wait.held = false → (s.core c).agelim.toNat % 2 ^ 16 - 16 ≤ (s.ctx c k).age →
      ∃ t, exec (.agePromotion c k) s = .next t ∧ t.ctx c k = { s.ctx c k with promoted := true }) ∧
    (s.ready c k = false ∨ (s.ctx c k).wait.held = true ∨ (s.ctx c k).age < (s.core c).agelim.toNat % 2 ^ 16 - 16 → exec (.agePromotion c k) s = .next s)) ∧
  (∀ (s : State) (c : Nat), (s.core c).ovf = [] → s.poolQueue (c / 8) = [] →
    ∃ t, exec (.runQueueScrub c) s = .next t ∧
      (∀ f, f ∈ (t.core c).runq ↔ f ∈ (s.core c).runq ∧ s.entryFails (s.core c).shadow f = false) ∧
      ∀ k off reg, (s.ctx c k).phase = .parked → (s.ctx c k).wait = .word off reg → (s.core c).boundFails (s.ctx c k) = true →
        (s.ctx c k).groups = [] → (t.ctx c k).phase = .free) ∧
  (∀ (s : State) (d c : Nat), dieOf c = d → ∃ t, exec (.overflowScrub d) s = .next t ∧
    (∀ f, f ∈ (t.core c).ovf ↔ f ∈ (s.core c).ovf ∧ s.entryFails (s.agentShadow.get [] d) f = false) ∧ (t.core c).runq = (s.core c).runq)

/-! ### The incumbent hub (R330 to R336, R345 to R347, R495) -/

/-! ### The dense arrays (R302 to R320, R326, R327) -/

/-- R303, R306 to R317: a hire is admitted in the order of its core, to a queue of 64, turned away by the mark of its master, or bounced
by a disabled array; its operands are pushed range by range, poison bouncing it; READY follows, then the start, by the class whose turn
it is, unless its chain or its tile does not fit; the compute leaves the accumulators of R63 in the bank of its chain or for its
landing, which appends its writes, arrives at the barrier, and ends DONE, the continuation sent. -/
def Obligations.ArrayHires : Prop :=
  ∀ (s : State) (n : Nat), n < 144 →
    let a := s.array n
    (∀ (hid : Nat) (h : Hire) (pre post : List Nat), a.arrivals = pre ++ hid :: post → s.hire? hid = some h → h.frozen = none → h.arrayId = n →
      (∀ x ∈ pre, ∀ g, s.hire? x = some g → g.core ≠ h.core ∨ g.frozen.isSome = true) →
      let admitted := fun (t : State) (g : Hire) =>
        t.hire? hid = some g ∧ g.state = 2 ∧ hid ∉ (t.array n).arrivals ∧ (t.array n).queue = a.queue ++ [hid]
      (64 ≤ s.queueUse a → exec (.hireAdmit n (.core h.core)) s = .next s) ∧
      (s.queueUse a < 64 → a.marked h.uid hid = true → ∃ t, exec (.hireAdmit n (.core h.core)) s = .next t ∧ s.Ended t h 0x21 (h.detail % 256)) ∧
      (s.queueUse a < 64 → a.marked h.uid hid = false → (h.arr = 0xFF ∨ s.arrayOff n = true) →
        ∃ t, exec (.hireAdmit n (.core h.core)) s = .next t ∧ s.Ended t h 0x20 8 ∧
          (NatSet.has s.deadTasks h.uid = false → (h.uid, hid) ∈ (t.array n).marks)) ∧
      (s.queueUse a < 64 → a.marked h.uid hid = false → h.arr ≠ 0xFF → s.arrayOff n = false →
        (h.isBind = true ∨ h.chain = 1 ∨ h.chain = 2 →
          ∃ t g, exec (.hireAdmit n (.core h.core)) s = .next t ∧ admitted t g ∧ t.mem = s.mem) ∧
        (h.isBind = false → h.chain = 0 ∨ h.chain = 3 →
          ∃ t, exec (.hireAdmit n (.core h.core)) s = .next t ∧
            ((∃ g, admitted t g ∧ ∀ p ∈ h.segments, placeOf (normVa h.core p.1) = .global → (g.leases.find? (heldKey p.1 true)).isSome = true) ∨
              ∃ d, s.Ended t h 0x20 d)))) ∧
    (∀ (c : Nat) (h : Hire), c < 1536 → s.pushing c = some h → s.hire? h.hid = some h →
      let next := fun (x : PushRange) => (h.reads.drop h.nextLine).head? = some x
      (∀ x, h.ask = none → next x →
        ∃ t r g, exec (.operandPush c) s = .next t ∧ (t.chan (.push c) (.spad c)).getLast? = some r ∧ r.op = .read ∧ r.addr = x.off ∧
          r.size = x.len ∧ t.hire? h.hid = some g ∧ g = { h with ask := g.ask } ∧ t.mem = s.mem ∧ t.cores = s.cores ∧
          ∃ va, g.ask = some { n := 1, pieces := [.req r.id va (.spad c)] }) ∧
      (h.ask = none → h.reads.length ≤ h.nextLine →
        ∃ t, exec (.operandPush c) s = .next t ∧ t.hire? h.hid = some { h with pushed := true }) ∧
      (∀ x id va b, next x → h.ask = some { n := 1, pieces := [.req id va (.spad c)] } → s.engIn.find? id = some b → b.length = x.len →
        ((∃ y ∈ b, y.bad = true) → ∃ t, exec (.operandPush c) s = .next t ∧ s.Ended t h 0x20 4) ∧
        ((∀ y ∈ b, y.bad = false) → ∃ t g, exec (.operandPush c) s = .next t ∧ t.hire? h.hid = some g ∧ g.nextLine = h.nextLine + 1 ∧
          g.ask = none ∧ (g.pushed = true ↔ h.reads.length ≤ h.nextLine + 1) ∧
          Memory.bytes (if x.isA = true then g.opsA else g.opsB) x.off x.len = PByte.vals b ∧
          (if x.isA = true then g.opsB = h.opsB else g.opsA = h.opsA) ∧ t.cores = s.cores ∧ t.mem = s.mem))) ∧
    (∀ (i hid : Nat) (h : Hire), a.queue[i]? = some hid → s.hire? hid = some h →
      let ready := h.state = 2 ∧ h.frozen = none ∧ h.isBind = false ∧ h.arrived = true ∧
        (h.res = true → ∃ e ∈ a.tiles, e.2.asid = h.asid ∧ e.2.tag = h.tag)
      (ready → ∃ t, exec (.hireReady n i) s = .next t ∧ t.hire? hid = some { h with state := 3 }) ∧
      (¬ready → exec (.hireReady n i) s = .next s)) ∧
    (a.running.isSome = true ∨ s.chooseHire a = none → exec (.arrayStart n) s = .next s) ∧
    (∀ h, a.running = none → s.chooseHire a = some h →
      (h.state = 3 ∧ s.bankFor a h = true ∧ (h.cls = classTurn a.turn ∨
        ∀ q ∈ a.queue, ∀ g, s.hire? q = some g → s.eligible a g = true → g.cls ≠ classTurn a.turn ∧ (g.cls ≤ 2 → g.cls ≤ h.cls))) ∧
      (startDetail a h = none →
        ∃ t g, exec (.arrayStart n) s = .next t ∧ (t.array n).running = some h.hid ∧ (t.array n).started = a.started ++ [h.hid] ∧
          (t.array n).turn = (a.turn + 1) % 7 ∧ t.hire? h.hid = some g ∧ g.state = 4 ∧ g.bank = a.bankOf h ∧
          (t.array n).cold = false ∧
          (h.chain = 0 → (t.array n).chains = a.chains) ∧
          (h.chain = 1 → ∃ c : Chain, (t.array n).chains = a.chains ++ [c] ∧ c.id = h.hid ∧ c.uid = h.uid ∧ c.cid = h.cid ∧ c.m = h.m ∧ c.n = h.n ∧ c.count = 1 ∧
            c.acc = List.replicate (h.m * h.n) 0)) ∧
      (∀ d, startDetail a h = some d → h.arrayId = n → d < 256 →
        ∃ t, exec (.arrayStart n) s = .next t ∧ s.Ended t h 0x20 d ∧ (t.array n).running = none ∧ (t.array n).turn = (a.turn + 1) % 7)) ∧
    (∀ (hid : Nat) (h : Hire), a.running = some hid → s.hire? hid = some h → h.arrayId = n → h.pushed = true → h.res = false →
      let bank := h.bank.bind (fun i => a.chains.find? (fun x => x.id == i))
      let bad := h.bad = true ∨ ∃ c, bank = some c ∧ c.bad = true
      (bad → ∃ t, exec (.hireComputeEnd n) s = .next t ∧ (t.array n).running = none ∧ s.Ended t h 0x20 4) ∧
      (¬bad → h.chain = 0 → ∃ t g, exec (.hireComputeEnd n) s = .next t ∧ (t.array n).running = none ∧ t.hire? hid = some g ∧
        g.acc = some (h.compute h.bTile (List.replicate (h.m * h.n) 0))) ∧
      (∀ c, ¬bad → bank = some c →
        (h.chain = 1 ∨ h.chain = 2 →
          ∃ t, exec (.hireComputeEnd n) s = .next t ∧ (t.array n).running = none ∧ s.Ended t h 0x10 (h.detail % 256) ∧
            ∃ x ∈ (t.array n).chains, x.id = c.id ∧ x.acc = h.compute h.bTile c.acc) ∧
        (h.chain = 3 → ∃ t g, exec (.hireComputeEnd n) s = .next t ∧ (t.array n).running = none ∧ t.hire? hid = some g ∧
          g.acc = some (h.compute h.bTile c.acc)))) ∧
    (s.nextLandings n = [] → exec (.hireLanding n) s = .next s) ∧
    (∀ h, (s.nextLandings n).head? = some h →
      (h.acc.isSome = true ∧ s.holdsFor (.array n) h.uid = false) ∧
      (h.bad = true → ∃ t, exec (.hireLanding n) s = .next t ∧ s.Ended t h 0x20 4) ∧
      (∀ d off u, h.bad = false → s.reserveHire h = (.error (d, off), u) →
        ∃ t, exec (.hireLanding n) s = .next t ∧ s.Ended t h 0x20 (d % 256)) ∧
      (∀ held u, h.bad = false → s.reserveHire h = (.ok held, u) →
        ∃ t g, exec (.hireLanding n) s = .next t ∧ t.hire? h.hid = some g ∧ g.state = 5 ∧ g.leases = held ∧
          g.todo = h.landWrites (h.acc.getD []) ∧ g.landBy = some (u.timeOf (agentDie (.array h.arrayId)) + 3000))) ∧
    (s.landings n ≠ [] → ∃ h ∈ s.landings n, ∃ w rest, h.todo = w :: rest ∧ h.state = 5 ∧
      (∀ p held, s.landTarget h w = (some p, held) →
        ∃ t r g, exec (.engineIssue (.array n)) s = .next t ∧ (t.chan (.array n) (s.placeHome p)).getLast? = some r ∧ r.op = w.op ∧
          r.addr = p.addr ∧ r.size = w.len ∧ r.exp = h.landExp p ∧ t.hire? h.hid = some g ∧ g.todo = rest ∧ r.id ∈ g.sent) ∧
      (∀ held, s.landTarget h w = (none, held) →
        ∃ t g off, exec (.engineIssue (.array n)) s = .next t ∧ t.hire? h.hid = some g ∧ g.todo = [] ∧ g.stop = some (0x0B, off))) ∧
    (∀ h, (s.landed n).find? (fun x => x.lmode == 2 && x.arrival.isNone && !x.arf && x.stop.isNone) = some h →
      (∀ d held u, s.landPlace h h.leases h.bar 128 false = (.error d, held, u) →
        ∃ t g, exec (.landingArrive n) s = .next t ∧ t.hire? h.hid = some g ∧ g.arf = true) ∧
      (∀ p held u, s.landPlace h h.leases h.bar 128 false = (.ok p, held, u) →
        ∃ t r g, exec (.landingArrive n) s = .next t ∧ (t.chan (.array n) (u.placeHome p)).getLast? = some r ∧ r.op = .arrive ∧
          r.addr = p.addr ∧ t.hire? h.hid = some g ∧ g.arrival = some r.id)) ∧
    (∀ h, (s.landed n).find? s.arrivedAt = some h →
      (∀ d off, h.stop = some (d, off) → ∃ t, exec (.engineEvent (.array n)) s = .next t ∧ s.Ended t h 0x20 (d % 256)) ∧
      (h.stop = none →
        ∃ t, exec (.engineEvent (.array n)) s = .next t ∧ s.Ended t h 0x10 (h.detail % 256) ∧
          (∀ b, h.bank = some b → ∀ c ∈ (t.array n).chains, c.id ≠ b) ∧
          (h.hen = true → NatSet.has s.deadTasks h.uid = false →
            ∃ f : Flight, t.msgs = s.msgs ++ [f] ∧ f.target = h.core ∧ f.msg.hnd = h.g 4 15 0 ∧ f.msg.job = h.job ∧ f.launch = h.launch ∧
              nth 0 f.msg.args 0 = w64 h.ticket ∧ nth 0 f.msg.args 3 = w64 h.land)))

/-- R302, R303, R312, R320, R326, R327: a chain that has been idle for its limit is aborted; a bind stores its tile in the first free
slot, or bounces on a tag that stands there or without a slot; an unbind frees the tiles of its tag, or of its address space, and gives
their count; a burst holds its array warm until its cycles are over, and an array that has not computed for 512 cycles is cold. -/
def Obligations.ArrayUnits : Prop :=
  ∀ (s : State) (n : Nat), n < 144 →
    let a := s.array n
    (∀ (i : Nat) (c : Chain), a.chains[i]? = some c →
      let works := ∃ h ∈ s.hires, h.arrayId = n ∧ h.uid = c.uid ∧ h.chain ≠ 0 ∧ h.cid = c.cid ∧ h.isBind = false ∧ 2 ≤ h.state
      let saved := ∃ r ∈ s.saves, ∃ e ∈ r.ctxs, e.2.uid = c.uid
      let expires := c.idle ≠ 0 ∧ c.closing = false ∧ ¬works ∧ ¬saved ∧ c.lastEnd + c.idle * 1000 ≤ s.timeOf (n / 36)
      (expires → ∃ t, exec (.chainIdleExpire n i) s = .next t ∧
        ∀ x, x ∈ (t.array n).chains ↔ x ∈ a.chains ∧ x.id ≠ c.id) ∧
      (¬expires → exec (.chainIdleExpire n i) s = .next s)) ∧
    (∀ (hid : Nat) (h : Hire) (rest : List Nat), a.queue = hid :: rest → s.hire? hid = some h → h.isBind = true → h.pushed = true →
      h.frozen = none → h.arrayId = n → s.arrayOff n = false →
      (∀ q ∈ rest, q < hid → ∀ g, s.hire? q = some g → g.uid ≠ h.uid ∨ q ∈ a.started) →
      let there := ∃ e ∈ a.tiles, e.2.asid = h.asid ∧ e.2.tag = h.tag
      let full := ∀ i, i < 8 → (a.tiles.find? i).isSome = true
      (h.bad = true → ∃ t, exec (.bindStore n) s = .next t ∧ s.Ended t h 0x20 4) ∧
      (h.bad = false → there → ∃ t, exec (.bindStore n) s = .next t ∧ s.Ended t h 0x20 9) ∧
      (h.bad = false → ¬there → full → ∃ t, exec (.bindStore n) s = .next t ∧ s.Ended t h 0x20 0xA) ∧
      (∀ i, h.bad = false → ¬there → i < 8 → a.tiles.find? i = none → (∀ j, j < i → (a.tiles.find? j).isSome = true) →
        ∃ t b, exec (.bindStore n) s = .next t ∧ s.Ended t h 0x10 (h.detail % 256) ∧ (t.array n).tiles.find? i = some b ∧
          b.asid = h.asid ∧ b.tag = h.tag ∧ b.k = h.k ∧ b.n = h.n ∧ b.fb = h.fb ∧ b.cells = h.opsB ∧
          b.t0 = (nth 0 h.c4 2).toNat ∧ b.t1 = (nth 0 h.c4 3).toNat ∧
          ∀ j, j ≠ i → (t.array n).tiles.find? j = a.tiles.find? j)) ∧
    (∀ (u : Unbind) (pre rest : List Unbind), a.unbinds = pre ++ u :: rest → u ∉ pre →
      (∀ x ∈ pre, x.core = u.core → s.unbindReady a x = false) →
      let hits := fun (x : BTile) => x.asid = u.asid ∧ (u.tag = 0xFFFFFFFF ∨ x.tag = u.tag)
      let count := a.tiles.countP (fun e => decide (e.2.asid = u.asid ∧ (u.tag = 0xFFFFFFFF ∨ e.2.tag = u.tag)))
      let early := ∃ hid ∈ u.before, hid ∉ a.started ∧ (s.hire? hid).isSome = true
      let reading := ∃ hid h, a.running = some hid ∧ s.hire? hid = some h ∧ h.res = true ∧ h.asid = u.asid ∧ (u.tag = 0xFFFFFFFF ∨ h.tag = u.tag)
      let t0 := s.ctx u.core u.ctx
      let behind := ∃ x ∈ pre, x.uid = u.uid
      (early ∨ reading ∨ behind → (∀ x ∈ rest, x.core = u.core → s.unbindReady a x = false) →
        exec (.unbindPerform n (.core u.core)) s = .next s) ∧
      (¬early → ¬reading → ¬behind → t0.uid = u.uid → t0.phase ≠ .free →
        ∃ t, exec (.unbindPerform n (.core u.core)) s = .next t ∧ (∀ e, e ∈ (t.array n).tiles ↔ e ∈ a.tiles ∧ ¬hits e.2) ∧
          (t.ctx u.core u.ctx).x = (t0.put u.reg (.word (w64 count))).x ∧ u.reg ∉ (t.ctx u.core u.ctx).var ∧ u ∉ (t.array n).unbinds)) ∧
    (let cools := a.running = none ∧ a.warmTo = none ∧ a.lastBusy + 512 ≤ s.cycle
     (cools → ∃ t, exec (.arrayCool n) s = .next t ∧ t.array n = { a with cold := true }) ∧
     (¬cools → exec (.arrayCool n) s = .next s)) ∧
    (∀ (c len : Nat) (rest : List (Nat × Nat)), a.bursts = (c, len) :: rest →
      ∃ t, exec (.burstArrive n (.core c)) s = .next t ∧ (t.array n).bursts = rest ∧
        (s.arrayOff n = true → (t.array n).cold = a.cold ∧ (t.array n).warmTo = a.warmTo) ∧
        (s.arrayOff n = false → (t.array n).cold = false ∧ (t.array n).warmTo = some (max (s.cycle + len) (a.warmTo.getD 0)))) ∧
    (∀ w, a.warmTo = some w →
      (w ≤ s.cycle → ∃ t, exec (.warmHoldExpire n) s = .next t ∧ t.array n = { a with warmTo := none }) ∧
      (s.cycle < w → exec (.warmHoldExpire n) s = .next s))

/-! ### Translation, leases and dirty logs (R203, R349 to R367) -/

/-- R349 to R354, R357, R361, R366: a walk without a valid root in HBM fails with detail ROOT, and the page that a walk finds is aligned to
its size; a translation gives the page's base and the offset of the address, until its expiry, by its lease class; TRANSLATION_WALK
keeps the lease in its slice, unless its class is 0, and raises the horizon; LEASE_EXPIRE drops it once its time has come, and nothing
else. A first write by a core to a page whose D is 0 appends its leaf to the dirty log of the core, or sets D in the leaf. -/
def Obligations.Translations : Prop :=
  (∀ (s : State) (die asid va : Nat),
    let root := (s.reg (pAsroot die asid)).toNat
    let base := root / 2 ^ 13 % 2 ^ 43 * 2 ^ 13
    (root / 2 ^ 63 % 2 = 0 ∨ 2 ^ 39 < base + 2 ^ 13 → s.walk die asid va = .error 3) ∧
    (∀ f, s.walk die asid va = .ok f → f.base % pageBytes f.size = 0 ∧ 1 ≤ f.size ∧ f.size ≤ 3 ∧ f.lc ≤ 7) ∧
    (∀ write c tr u, s.translate die asid va write c = (.ok tr, u) →
      ∃ p, (s.cached die asid va = some p ∨ s.walked die asid va = .ok p) ∧ tr.pa = p.pa + va % pageBytes p.size ∧
        (write = true → tr.w = true) ∧ tr.pa < 2 ^ 40)) ∧
  (∀ (s : State) (slice asid : Nat) (va : W64), slice < 1536 → transSlice (dieOf slice) asid va.toNat = slice → canonical va.toNat = true →
    let d := dieOf slice
    let v := va.toNat
    let now := s.timeOf d
    (∀ e, s.cached d asid v = none → s.walk d asid v = .error e → exec (.translationWalk slice asid va) s = .next s) ∧
    (∀ f, s.cached d asid v = none → s.walk d asid v = .ok f → NatSet.has s.skew d = false → s.disabled d (384 + slice % 384) = false →
      s.badRegion (f.base + v % pageBytes f.size) false = false →
      let expiry := now + 2 ^ (max f.lc 1 + 1) * 1000
      ∃ t, exec (.translationWalk slice asid va) s = .next t ∧ t.mem = s.mem ∧ t.cores = s.cores ∧ expiry ≤ t.horizon.get 0 d ∧
        s.horizon.get 0 d ≤ t.horizon.get 0 d ∧
        (f.lc = 0 → t.leases = s.leases) ∧
        (f.lc ≠ 0 → ∃ l, l ∈ t.leases ∧ l.slice = slice ∧ l.asid = asid ∧ l.base = v / pageBytes f.size * pageBytes f.size ∧
          l.tr.pa = f.base ∧ l.tr.w = f.w ∧ l.tr.exp = expiry ∧ t.cached d asid v = some l.tr))) ∧
  (∀ (s : State) (slice asid page : Nat), ∃ t, exec (.leaseExpire slice asid page) s = .next t ∧ t.mem = s.mem ∧ t.cores = s.cores ∧
    ∀ l, l ∈ t.leases ↔ l ∈ s.leases ∧
      ¬(l.slice = slice ∧ l.asid = asid ∧ l.base = page ∧ l.tr.exp ≤ s.timeOf (dieOf slice))) ∧
  (∀ (s : State) (c asid : Nat) (p : Tr),
    let cfg := (s.reg (pDlcfg c)).toNat
    let len := cfg / 2 ^ 32 % 2 ^ 4
    let off := cfg / 2 ^ 6 % 2 ^ 14 * 64
    let head := (s.reg (pDlhead c)).toNat % 2 ^ 32
    let tail := (s.reg (pDltail c)).toNat % 2 ^ 32
    let room := len ≠ 0 ∧ off + 8 * 2 ^ len ≤ (s.core c).spsize ∧ (tail + 2 ^ 32 - head) % 2 ^ 32 < 2 ^ len
    let t := s.logDirty c asid p
    (room → (t.reg (pDltail c)).toNat = (tail + 1) % 2 ^ 32 ∧ t.mem = s.mem ∧
      Memory.bytes (t.core c).spad (off + 8 * (tail % 2 ^ len)) 8 = leBytes (asid * 2 ^ 58 + p.size * 2 ^ 56 + p.leaf) 8) ∧
    (¬room → (Memory.byte t.mem p.leaf).toNat = (Memory.byte s.mem p.leaf).toNat ||| 0x40 ∧ t.cores = s.cores ∧
      ∀ a, a ≠ p.leaf → Memory.byte t.mem a = Memory.byte s.mem a))

/-- R203, R356 to R358, R360, R362 to R367, R375: LEASE_RENEW of a core gives a line under an unchanged or widened translation its new
expiry and rights, and drops the clean bytes of a line whose walk fails or finds another way, page or lesser rights; a translation that
serves one request only is no renewal. A request whose lease has ended when its home would perform it is translated again: it goes on to
its new home, or is refused. A comparison above 8 ns puts the die into skew mode, with no lease left. LHZN_READ,
DTIME_READ and CPGO_READ issue the read of their register. A write of DLCFG clears HEAD and TAIL; the octant agent merges the entries
of a log that is half full, or that is harvested, one by one, and HARVEST_DONE ends the harvest that GO began. -/
def Obligations.LeasesAndLogs : Prop :=
  (∀ (s : State) (c : Nat) (l : L1Line), l ∈ (s.core c).l1 → s.current c l = true → l.bytes ≠ [] →
    (s.core c).l1.Pairwise (fun x y => ¬(x.asid = y.asid ∧ x.line = y.line)) →
    let d := dieOf c
    let w := s.walked d l.asid (l.line * 128)
    let same := fun (p : Tr) =>
      p.pa + l.line * 128 % pageBytes p.size = l.pa ∧ p.size = l.tr.size ∧ p.mig = l.tr.mig ∧ p.path = l.tr.path ∧
        (l.tr.w = true → p.w = true) ∧ (l.tr.rdc = true → p.rdc = true)
    ∃ t, exec (.leaseRenew (.core c)) s = .next t ∧ t.mem = s.mem ∧ (t.core c).spad = (s.core c).spad ∧
      ((∀ p, w = .ok p → ¬same p) → ∀ m ∈ (t.core c).l1, m.asid = l.asid → m.line = l.line → ∀ b ∈ m.bytes, b.2.dirty = true) ∧
      (∀ p, w = .ok p → same p → p.once = true → l ∈ (t.core c).l1) ∧
      (∀ p, w = .ok p → same p → p.once = false →
        ∃ m ∈ (t.core c).l1, m.bytes = l.bytes ∧ m.asid = l.asid ∧ m.line = l.line ∧ m.way = l.way ∧ m.exp = p.exp ∧ m.w = (p.w && p.d) ∧
          p.exp ≤ t.horizon.get 0 d)) ∧
  (∀ (s : State) (a : Agent) (h : Home) (r : Req) (rest : List Req) (e : Nat), s.chan a h = r :: rest → s.mayPerform h r = true →
    r.exp = some e → e ≤ s.timeOf (agentDie a) → r.isPacket = false →
    let x := ({ s with chans := popReq s.chans a h } : State).translate (agentDie a) r.asid r.va r.op.writes none
    r.agent = a →
    (∀ d u, x = (.error d, u) → ∃ t, exec (.perform a h) s = .next t ∧ t.mem = s.mem ∧ (t.rchan r.home a).getLast? = some r.refused) ∧
    (∀ tr u, x = (.ok tr, u) → s.homeOf (tr.pa / 65536 * 65536 + r.addr % 65536) ≠ h →
      ∃ t q, exec (.perform a h) s = .next t ∧ t.mem = s.mem ∧ (t.chan a q.home).getLast? = some q ∧ q.id = r.id ∧ q.op = r.op ∧
        q.addr = tr.pa / 65536 * 65536 + r.addr % 65536 ∧ q.home = s.homeOf q.addr ∧ q.exp = some tr.exp)) ∧
  (∀ (s : State) (d u m : Nat), d < 4 → comparesTime u = true → u ≠ 833 →
    (m ≤ 8 → exec (.skewCompare d u m) s = .next s) ∧
    (8 < m → ∃ t, exec (.skewCompare d u m) s = .next t ∧ NatSet.has t.skew d = true ∧ (∀ l ∈ t.leases, dieOf l.slice ≠ d) ∧
      (∀ l ∈ s.leases, dieOf l.slice ≠ d → l ∈ t.leases) ∧ ∀ c l, dieOf c = d → l ∈ (t.core c).l1 → t.current c l = false)) ∧
  (∀ (s : State) (c k : Nat) (st : Fin 8) (rd : Fin 32) (num : Fin 2048), s.ready c k = true → s.fetchPoison c (s.ctx c k) = false →
    (s.ctx c k).poisoned = false → (s.ctx c k).pend = [] → (s.ctx c k).var = [] → (s.ctx c k).pp = false → (s.ctx c k).wait = .none →
    decodeWord (s.wordAt c (s.ctx c k)).toNat = .ok (.csrr st rd num) →
    let now := s.timeOf (dieOf c)
    let h := fun (d : Nat) => s.horizon.get 0 d
    let gives := fun (i : Instr) (v : W64) =>
      ∃ t, exec i s = .next t ∧ (rd ≠ 0 → (t.ctx c k).readX rd = v) ∧ (∀ r, r ≠ rd → (t.ctx c k).readX r = (s.ctx c k).readX r) ∧
        (t.ctx c k).pc = (s.ctx c k).pc + 4 ∧ t.mem = s.mem
    (num.val = 0x021 → gives (.lhznRead c k) (w64 (max (max (h 0) (h 1)) (max (h 2) (h 3)) + 16))) ∧
    (num.val = 0x020 → (s.ctx c k).lastTime ≤ now → gives (.dtimeRead c k) (w64 now)) ∧
    (num.val = 0x045 → badFlag (s.ctx c k).cpflag.toNat = false → (s.ctx c k).cpflag.toNat / 4 % 4 = 0 →
      let ch := (s.ctx c k).cpflag.toNat % 4
      let chan := (s.core c).copies.get {} ch
      chan.queue.length < 8 → gives (.cpgoRead c k) (w64 (ch * 2 ^ 16 + chan.nextSeq % 2 ^ 16)))) ∧
  (∀ (s : State) (c : Nat) (v : W64), c < 1536 →
    let len := v.toNat / 2 ^ 32 % 2 ^ 4
    ∃ t, exec (.dlcfgWrite c v) s = .next t ∧ t.mem = s.mem ∧ t.cores = s.cores ∧
      (t.reg (pDlcfg c)).toNat = (if 6 ≤ len ∧ len ≤ 14 then len else 0) * 2 ^ 32 + v.toNat / 2 ^ 6 % 2 ^ 14 * 2 ^ 6 ∧
      t.reg (pDlhead c) = 0 ∧ t.reg (pDltail c) = 0) ∧
  (∀ (s : State) (o : Nat), o < 192 →
    let a := s.octs.get {} o
    (∀ c, a.merging = none → a.reading = none → 8 * o ≤ c → c < 8 * o + 8 → s.wantsMerge o c = true → (∀ e, 8 * o ≤ e → e < c → s.wantsMerge o e = false) →
      let i := s.dlHead c
      let off := s.regBits (pDlcfg c) 19 6 * 64 + 8 * (i % 2 ^ s.regBits (pDlcfg c) 35 32)
      ∃ t r, exec (.dirtyLogMerge o) s = .next t ∧ (t.chan (.octAgent o) (.spad c)).getLast? = some r ∧ r.addr = off ∧ r.size = 8 ∧
        r.op = .read ∧ (t.octs.get {} o).reading = some (c, i, r.id) ∧ t.dlHead c = i) ∧
    (∀ c i id, a.merging = none → a.reading = some (c, i, id) →
      (s.engIn.find? id = none → exec (.dirtyLogMerge o) s = .next s) ∧
      (∀ b, s.engIn.find? id = some b →
        let leaf := leNat (PByte.vals b) / 2 ^ 3 % 2 ^ 53 * 8
        let good := (∀ y ∈ b, y.bad = false) ∧ leaf + 8 ≤ 2 ^ 39
        (good → ∃ t r, exec (.dirtyLogMerge o) s = .next t ∧ (t.chan (.octAgent o) (s.homeOf leaf)).getLast? = some r ∧ r.addr = leaf ∧
          r.size = 8 ∧ r.op = .amo .or 0x40 ∧ (t.octs.get {} o).merging = some (c, i, r.id) ∧ (t.octs.get {} o).reading = none ∧
          t.dlHead c = s.dlHead c) ∧
        (¬good → ∃ t, exec (.dirtyLogMerge o) s = .next t ∧ (t.octs.get {} o).merging = none ∧ (t.octs.get {} o).reading = none ∧
          (s.dlHead c = i → t.dlHead c = (i + 1) % 2 ^ 32)))) ∧
    (∀ c i id, a.merging = some (c, i, id) →
      (NatSet.has s.engOut id = true → exec (.dirtyLogMerge o) s = .next s) ∧
      (NatSet.has s.engOut id = false → s.dlHead c = i →
        ∃ t, exec (.dirtyLogMerge o) s = .next t ∧ (t.octs.get {} o).merging = none ∧ t.dlHead c = (i + 1) % 2 ^ 32)) ∧
    (∀ v : W64,
      (v.getLsbD 0 = true → a.harvest = none →
        ∃ t ts, exec (.harvest o v) s = .next t ∧ (t.octs.get {} o).harvest = some ts ∧ ∀ k, k < 8 → nth 0 ts k = s.dlTail (8 * o + k)) ∧
      (v.getLsbD 0 = false ∨ a.harvest.isSome = true → exec (.harvest o v) s = .next s)) ∧
    (∀ ts, a.harvest = some ts →
      let merged := a.merging = none ∧ a.reading = none ∧ ∀ k, k < 8 → s.mergedTo (8 * o + k) (nth 0 ts k) = true
      (merged → ∃ t, exec (.harvestDone o) s = .next t ∧ (t.octs.get {} o).harvest = none) ∧
      (¬merged → exec (.harvestDone o) s = .next s)))

/-! ### Copy channels and rings (R373 to R390) -/

/-- R127, R164, R373, R374, R376, R378, R379, R382 to R385: COPY_START begins the head of a channel that is launched: WM is CPDST. Its issues read the
record, a bad field of which ends the copy LAYOUT-RESERVED with its lowest bad word; then, unless a message that it has sent for its
master is held, each issue asks for the bytes of one aligned unit of a linear source or for one element of a layout, FILL where it lies
outside, takes those that have come, converted, or writes those of one aligned unit of a linear destination or the elements of a layout
that lie in one, none that lies outside; and the first fault stops it. WM passes the bytes before the first write that is not
acknowledged. SF is set once every read has been performed, VIS once
every write is acknowledged, in either order; with both, or with its fault once all is acknowledged, the copy leaves its channel with
its final state and, if it asked for one, its continuation is sent. -/
def Obligations.CopySteps : Prop :=
  ∀ (s : State) (c ch : Nat), c < 1536 → ch < 4 →
    let k := s.copyChan c ch
    let agent := Agent.copyCh c ch
    let start := Instr.copyStart agent
    let issue := Instr.engineIssue agent
    let event := Instr.engineEvent agent
    let head := fun (t : State) (g : CopyOp) => (t.copyChan c ch).queue = g :: k.queue.drop 1 ∧ (t.copyChan c ch).wm = k.wm
    let final := fun (t : State) (o : CopyOp) (state : Nat) (vis : Bool) =>
      (t.copyChan c ch).queue = k.queue.drop 1 ∧ (t.copyChan c ch).wm = k.wm ∧
        ∃ d, (t.copyChan c ch).recent.head? = some d ∧ d.seq = o.seq ∧ d.asid = o.asid ∧ d.status.toNat % 256 = state ∧
          d.status.toNat / 2 ^ 8 % 256 = o.detail % 256 ∧ d.status.getLsbD 17 = vis
    let page := fun (va first : Nat) => (va + 2 ^ 64 - first % 2 ^ 64) % 2 ^ 64 / 65536
    let faulted := fun (t : State) (o g : CopyOp) (side d page : Nat) =>
      head t g ∧ g.stopped = some 0x20 ∧ g.side = side ∧ g.detail = d ∧ g.page = page ∧ g.writes = o.writes
    (k.queue = [] → exec start s = .next s ∧ exec issue s = .next s ∧ exec event s = .next s) ∧
    (∀ o rest, k.queue = o :: rest →
      let w := o.worker c ch
      let m := o.mov
      let works := o.state = 2 ∧ o.stopped = none ∧ s.holdsFor agent o.uid = false
      (o.state ≠ 1 → exec start s = .next s) ∧
      (o.state = 1 → ∃ t, exec start s = .next t ∧ t.mem = s.mem ∧ (t.copyChan c ch).wm = w64 o.dst ∧
        (t.copyChan c ch).queue = { o with state := 2, units := if o.mode = 0 then o.len else 0 } :: rest) ∧
      (¬works → exec issue s = .next s) ∧
      (works → o.recAsk = none → o.mode ≠ 0 → o.record = [] →
        ∃ t l, exec issue s = .next t ∧ head t { o with recAsk := some l } ∧ t.mem = s.mem) ∧
      (∀ l, works → o.recAsk = some l →
        (s.loadRead l = .wait → exec issue s = .next s) ∧
        (∀ d va, s.loadRead l = .fault d va → ∃ t g, exec issue s = .next t ∧ head t g ∧ g.stopped = some 0x20 ∧ g.side = 0 ∧ g.detail = d) ∧
        (∀ b, s.loadRead l = .ok b →
          let r := wordsOf b 12
          (∀ word, recBad r = some word → ∃ t, exec issue s = .next t ∧
            head t { o with recAsk := none, stopped := some 0x21, detail := word }) ∧
          (recBad r = none → ∃ t g, exec issue s = .next t ∧ head t g ∧ g.stopped = none ∧ g.units = recCount r ∧
            recBase g.record = normVa c (recBase r) ∧ ∀ i, 1 ≤ i → nth 0 g.record i = nth 0 r i))) ∧
      (works → o.recAsk = none → o.mode = 0 →
        let n := min (o.len - m.next) (8 - (o.dst + m.next) % 2 ^ 64 % 8)
        let dest := normVa c ((o.dst + m.next) % 2 ^ 64)
        let q := min (o.len - m.ahead) (8 - (o.src + m.ahead) % 2 ^ 64 % 8)
        let src := normVa c ((o.src + m.ahead) % 2 ^ 64)
        let full := m.next < o.len ∧ n ≤ m.buf.length
        (full →
          (∀ d held u, s.workPlace w o.leases dest n true = (.error d, held, u) →
            ∃ t g, exec issue s = .next t ∧ faulted t o g 1 d (page dest o.dst)) ∧
          (∀ p held u, s.workPlace w o.leases dest n true = (.ok p, held, u) →
            ∃ t r g, exec issue s = .next t ∧ head t g ∧ (t.chan agent (u.placeHome p)).getLast? = some r ∧
              r.op = .write (PByte.clean (m.buf.take n)) ∧ r.addr = p.addr ∧ r.exp = p.exp ∧ g.mov.next = m.next + n ∧
              g.mov.buf = m.buf.drop n ∧ r.id ∈ g.writes.map (·.id))) ∧
        (∀ l ls, ¬full → m.loads = l :: ls →
          (∀ b, s.loadRead l = .ok b → ∃ t g, exec issue s = .next t ∧ head t g ∧ g.mov = { m with loads := ls, buf := m.buf ++ b } ∧
            g.writes = o.writes) ∧
          (∀ d va, s.loadRead l = .fault d va → ∃ t g, exec issue s = .next t ∧ faulted t o g 0 d (page va o.src))) ∧
        (∀ p held u, ¬full → m.loads = [] → m.ahead < o.len → s.workPlace w o.leases src q false = (.ok p, held, u) →
          ∃ t r g, exec issue s = .next t ∧ head t g ∧ (t.chan agent (u.placeHome p)).getLast? = some r ∧ r.op = .read ∧
            r.addr = p.addr ∧ r.size = q ∧ g.mov.ahead = m.ahead + q ∧ g.mov.loads.length = 1 ∧ g.mov.buf = m.buf)) ∧
      (works → o.recAsk = none → o.record ≠ [] → (o.mode = 1 ∨ o.mode = 2) → 0 < recEb o.record →
        let v : Win := { r := o.record }
        let eb := recEb v.r
        let leb := linearEb v.r o.cvt
        let count := recCount v.r
        let total := count * leb
        let n := min (total - m.next) (8 - (o.dst + m.next) % 2 ^ 64 % 8)
        let q := min (total - m.ahead) (8 - (o.src + m.ahead) % 2 ^ 64 % 8)
        let j := scatterLen v count m.next
        let full := if o.mode = 1 then m.next < total ∧ n ≤ m.buf.length else m.next < count ∧ j * leb ≤ m.buf.length
        let ahead := fun (k : Nat) (g : CopyOp) => g.mov.ahead = k ∧ g.mov.loads.length = 1 ∧ g.mov.buf = m.buf ∧ g.writes = o.writes
        (o.mode = 1 → full →
          ∀ p held u, s.workPlace w o.leases (normVa c ((o.dst + m.next) % 2 ^ 64)) n true = (.ok p, held, u) →
            ∃ t r g, exec issue s = .next t ∧ head t g ∧ (t.chan agent (u.placeHome p)).getLast? = some r ∧
              r.op = .write (PByte.clean (m.buf.take n)) ∧ r.addr = p.addr ∧ g.mov.next = m.next + n ∧ g.mov.buf = m.buf.drop n) ∧
        (o.mode = 2 → full → v.addr m.next = none →
          ∃ t g, exec issue s = .next t ∧ head t g ∧ g.mov.next = m.next + 1 ∧ g.mov.buf = m.buf.drop leb ∧ g.writes = o.writes ∧
            t.chans = s.chans) ∧
        (o.mode = 2 → full → ∀ a p held u, v.addr m.next = some a → a % 8 + j * eb ≤ 8 →
          s.workPlace w o.leases (normVa c (a % 2 ^ 64)) (j * eb) true = (.ok p, held, u) →
            ∃ t r g, exec issue s = .next t ∧ head t g ∧ (t.chan agent (u.placeHome p)).getLast? = some r ∧
              r.op = .write (PByte.clean (scatterBytes v.r o.cvt j m.buf)) ∧ r.addr = p.addr ∧ g.mov.next = m.next + j ∧
              g.mov.buf = m.buf.drop (j * leb)) ∧
        (∀ l ls b, ¬full → m.loads = l :: ls → s.loadRead l = .ok b →
          ∃ t g, exec issue s = .next t ∧ head t g ∧ g.writes = o.writes ∧
            g.mov = { m with loads := ls, buf := m.buf ++
              if o.mode = 1 then leBytes (convert (recFmt v.r) (linearFmt v.r o.cvt) o.cvt (leNat b)) leb else b }) ∧
        (∀ l ls d va, ¬full → m.loads = l :: ls → s.loadRead l = .fault d va →
          ∃ t g, exec issue s = .next t ∧ faulted t o g 0 d (page va (if o.mode = 1 then recBase o.record else o.src))) ∧
        (¬full → m.loads = [] →
          (o.mode = 1 → m.ahead < count → v.addr m.ahead = none →
            ∃ t g, exec issue s = .next t ∧ head t g ∧ ahead (m.ahead + 1) g ∧ t.chans = s.chans ∧
              ∀ l ∈ g.mov.loads, s.loadRead l = .ok (leBytes (recFill v.r) eb)) ∧
          (∀ a p held u, o.mode = 1 → m.ahead < count → v.addr m.ahead = some a →
            s.workPlace w o.leases (normVa c (a % 2 ^ 64)) (min eb (8 - a % 8)) false = (.ok p, held, u) →
              ∃ t r g, exec issue s = .next t ∧ head t g ∧ ahead (m.ahead + 1) g ∧ (t.chan agent (u.placeHome p)).getLast? = some r ∧
                r.op = .read ∧ r.addr = p.addr ∧ r.size = min eb (8 - a % 8)) ∧
          (∀ p held u, o.mode = 2 → m.ahead < total →
            s.workPlace w o.leases (normVa c ((o.src + m.ahead) % 2 ^ 64)) q false = (.ok p, held, u) →
              ∃ t r g, exec issue s = .next t ∧ head t g ∧ ahead (m.ahead + q) g ∧ (t.chan agent (u.placeHome p)).getLast? = some r ∧
                r.op = .read ∧ r.addr = p.addr ∧ r.size = q))) ∧
      (∀ (x : Resp) (more : List Resp), s.rchan x.req.home agent = x :: more → o.state = 2 →
        let gone := fun (e : EngWrite) => e.id = x.req.id ∨ NatSet.has s.engOut e.id = false
        ∃ t g, exec (.respond x.req.home agent) s = .next t ∧ (t.copyChan c ch).queue = g :: rest ∧ t.mem = s.mem ∧
          (∀ i, NatSet.has t.engOut i = true ↔ NatSet.has s.engOut i = true ∧ i ≠ x.req.id) ∧
          (x.req.op = .read → t.engIn.find? x.req.id = some x.bytes) ∧
          (t.copyChan c ch).wm = w64 (o.dst + g.acked) ∧
          ∃ pre, o.writes = pre ++ g.writes ∧ (∀ e ∈ pre, gone e) ∧ (∀ e, g.writes.head? = some e → ¬gone e) ∧
            (o.mode = 2 → g.acked = 0) ∧
            (o.mode ≠ 2 → o.acked ≤ g.acked ∧ (∀ e ∈ pre, e.fin ≤ g.acked) ∧ (g.acked = o.acked ∨ ∃ e ∈ pre, e.fin = g.acked))) ∧
      (∀ st, o.state = 2 → o.stopped = some st → st < 256 →
        let finished := o.writes = [] ∧ ∀ l ∈ o.reads, s.allIn l = true
        (finished → ∃ t, exec event s = .next t ∧ final t o st o.vis) ∧ (¬finished → exec event s = .next s)) ∧
      (o.state = 2 → o.stopped = none →
        let read := o.sf = false ∧ o.unread = false ∧ s.moveRead o.plan m = true
        let written := o.vis = false ∧ o.written = true
        (¬read → ¬written → exec event s = .next s) ∧
        (read → written → ∃ t, exec event s = .next t ∧ (head t { o with sf := true } ∨ head t { o with vis := true })) ∧
        (read → ¬written → o.vis = false → ∃ t, exec event s = .next t ∧ head t { o with sf := true }) ∧
        (written → ¬read → o.sf = false → ∃ t, exec event s = .next t ∧ head t { o with vis := true }) ∧
        ((read ∧ o.vis = true) ∨ (written ∧ o.sf = true) → ∃ t, exec event s = .next t ∧ final t o 0x10 true ∧
          (bitOf o.flag 12 = false → t.msgs = s.msgs) ∧
          (bitOf o.flag 12 = true → NatSet.has s.deadTasks o.uid = false →
            ∃ f : Flight, t.msgs = s.msgs ++ [f] ∧ f.target = c ∧ f.launch = o.launch ∧ f.msg.job = o.job ∧ f.acq = some o.scope ∧
              nth 0 f.msg.args 0 = copyId ch o.seq ∧ nth 0 f.msg.args 3 = w64 o.dst))))

/-- R387 to R389, R402, R403: the engine of a subscription takes up a slot that its counters make ready, moves its elements, and, once
every write of the slot is acknowledged, advances its counter and sends the continuation; it ends DONE after COUNT slots and CANCELLED
when it is stopped or its launch cancelled, writes its state to the header once every write of it is acknowledged, and is freed. A counter
of the task that goes back or leaves the ring ends it COPY-FAULT. -/
def Obligations.RingSteps : Prop :=
  ∀ (s : State) (u i : Nat) (r : Ring), u < 8 → i < 64 → s.ring? u i = some r → r.core < 1536 →
    let agent := Agent.ring u i
    let ends := fun (w : W64) => ∃ t g, exec (.ringSlot u i) s = .next t ∧ t.ring? u i = some g ∧ g.ending = some w ∧ g.busy = false ∧ t.mem = s.mem
    let stopped := r.stop ≠ [] ∨ s.cancelledLaunch r.launch = true
    (r.ending = none → r.busy = false →
      (stopped → ends 0x11) ∧
      (¬stopped → r.total ≤ r.own → ends 0x10) ∧
      (¬stopped → r.own < r.total → r.record ≠ [] →
        let ready := (if r.storer = true then r.own < r.other ∧ r.other ≤ r.total else r.own < r.other + r.nslot) ∧
          s.savedOn r.core r.launch = false ∧ s.holdsFor agent r.uid = false
        (ready → ∃ t g, exec (.ringSlot u i) s = .next t ∧ t.ring? u i = some g ∧ g.busy = true ∧ g.mov = {} ∧ g.own = r.own ∧
          (∀ id ∈ g.sent, id ∈ r.sent) ∧ t.mem = s.mem ∧ t.launches = (if r.hen = true then s.countUp r.launch else s).launches) ∧
        (¬ready → exec (.ringSlot u i) s = .next s)) ∧
      (¬stopped → r.own < r.total → r.record = [] → r.recAsk = none →
        ∃ t l, exec (.ringSlot u i) s = .next t ∧ t.ring? u i = some { r with recAsk := some l } ∧ t.mem = s.mem) ∧
      (∀ l, ¬stopped → r.own < r.total → r.record = [] → r.recAsk = some l → s.loadRead l = .wait → exec (.ringSlot u i) s = .next s) ∧
      (∀ l d va, ¬stopped → r.own < r.total → r.record = [] → r.recAsk = some l → s.loadRead l = .fault d va →
        ends (ringStatus 0x20 d (faultPage va (normVa r.core r.recVa)))) ∧
      (∀ l b, ¬stopped → r.own < r.total → r.record = [] → r.recAsk = some l → s.loadRead l = .ok b →
        let w := wordsOf b 12
        (∀ word, recBad w = some word → ∃ t g, exec (.ringSlot u i) s = .next t ∧ t.ring? u i = some g ∧ g.ending = some (ringStatus 0x21 word 0)) ∧
        (recBad w = none →
          let big := r.slotsz < recCount w * (Fp.fmtBits (linearFmt w r.cvt) / 8) ∨ recNdim w < r.sdim
          (big → ∃ t g, exec (.ringSlot u i) s = .next t ∧ t.ring? u i = some g ∧ g.ending = some (ringStatus 0x21 0 0)) ∧
          (¬big → ∃ t g, exec (.ringSlot u i) s = .next t ∧ t.ring? u i = some g ∧ g.ending = none ∧
            recBase g.record = normVa r.core (recBase w) ∧ ∀ j, 1 ≤ j → nth 0 g.record j = nth 0 w j)))) ∧
    (r.ending = none → r.busy = true →
      let filled := r.plan.targets ≤ r.mov.next ∧ s.acked r.sent = true
      (¬filled → exec (.ringSlot u i) s = .next s) ∧
      (filled → ∃ t g q, exec (.ringSlot u i) s = .next t ∧ t.ring? u i = some g ∧ g.own = r.own + 1 ∧ g.busy = false ∧
        (t.chan agent (.spad r.core)).getLast? = some q ∧ q.addr = r.hdr + (if r.storer = true then 16 else 8) ∧
        q.op = .write (PByte.clean (leBytes (w64 (r.own + 1)).toNat 8)) ∧ (g.ending = some 0x10 ↔ r.own + 1 = r.total) ∧
        (r.hen = false → t.msgs = s.msgs) ∧
        (r.hen = true → NatSet.has s.deadTasks r.uid = false →
          ∃ f : Flight, t.msgs = s.msgs ++ [f] ∧ f.target = r.core ∧ f.launch = r.launch ∧ nth 0 f.msg.args 0 = w64 (u * 64 + i) ∧
            nth 0 f.msg.args 1 = w64 r.own))) ∧
    (∀ w, r.ending = some w →
      let finished := s.acked r.sent = true ∧ ∀ l ∈ r.reads, s.allIn l = true
      (¬finished → exec (.ringSlot u i) s = .next s) ∧
      (finished → r.closing = false →
        ∃ t q, exec (.ringSlot u i) s = .next t ∧ (t.chan agent (.spad r.core)).getLast? = some q ∧ q.addr = r.hdr + 48 ∧
          q.op = .write (PByte.clean (leBytes w.toNat 8)) ∧ ∃ g, t.ring? u i = some g ∧ g.closing = true) ∧
      (finished → r.closing = true → ∃ t, exec (.ringSlot u i) s = .next t ∧ t.ring? u i = none)) ∧
    (r.ending.isSome = true ∨ r.busy = false ∨ s.holdsFor agent r.uid = true → exec (.engineIssue agent) s = .next s) ∧
    (r.ending = none → r.busy = true → s.holdsFor agent r.uid = false →
      let plan := if r.storer = true then Plan.scatter (r.win r.own) r.cvt (r.slotVa r.own) else .gather (r.win r.own) r.cvt (r.slotVa r.own)
      let move := s.moveStep (r.worker u i) r.leases plan r.mov
      (∀ held v, move = (.wait, held, v) → exec (.engineIssue agent) s = .next s) ∧
      (∀ m ids held v, move = (.ok m ids, held, v) →
        ∃ t, exec (.engineIssue agent) s = .next t ∧ t.ring? u i = some { r with leases := held, mov := m, sent := r.sent ++ ids }) ∧
      (∀ side d va ids held v, move = (.fault side d va ids, held, v) →
        ∃ t g w, exec (.engineIssue agent) s = .next t ∧ t.ring? u i = some g ∧ g.ending = some w ∧ w.toNat % 256 = 0x20 ∧
          w.toNat / 2 ^ 8 % 256 = d % 256)) ∧
    (r.ending = none → r.reread = none →
      ∃ t l, exec (.ringCounterReread u i) s = .next t ∧ t.ring? u i = some { r with reread := some l } ∧ t.mem = s.mem ∧
        (∀ p held v, s.workPlace (r.worker u i) [] (otherVa r.core (r.hdr + (if r.storer = true then 8 else 16))) 8 false = (.ok p, held, v) →
          r.hdr % 64 = 0 → r.hdr + 16 < 2 ^ 20 →
          ∃ q, (t.chan agent (v.placeHome p)).getLast? = some q ∧ q.op = .read ∧ q.addr = p.addr ∧ q.size = 8)) ∧
    (∀ l, r.ending = none → r.reread = some l → s.loadRead l = .wait → exec (.ringCounterReread u i) s = .next s) ∧
    (∀ l d va, r.ending = none → r.reread = some l → s.loadRead l = .fault d va →
      ∃ t g, exec (.ringCounterReread u i) s = .next t ∧ t.ring? u i = some g ∧ g.ending = some (ringStatus 0x20 d 0)) ∧
    (∀ l b, r.ending = none → r.reread = some l → s.loadRead l = .ok b →
      let v := leNat b
      let held : Int := if r.storer = true then (v : Int) - r.own else (r.own : Int) - v
      (r.other ≤ v → 0 ≤ held → held ≤ r.nslot →
        ∃ t, exec (.ringCounterReread u i) s = .next t ∧ t.ring? u i = some { r with reread := none, other := v }) ∧
      (v < r.other ∨ held < 0 ∨ (r.nslot : Int) < held →
        ∃ t g, exec (.ringCounterReread u i) s = .next t ∧ t.ring? u i = some g ∧ g.ending = some 0x20))

/-! ### Rows, zones and collectives (R391 to R399) -/

/-- R391 to R394, R404, R362: MROW_START translates the pages of an `mrow` and ends it in a fault, or with a page on another die than the
one that it takes the place of, or overlapping; else it runs. Step 2 leaves the slices no dirty line of the source and no line of the
destination. A row of class XFER moves in one issue; RCP, RZF, RBR and RBW carry the rows of the other classes, through the row buffer
of the pseudo-channel for two subarrays; a row command sees and writes HBM beneath the lines of the slices, and a page whose
translation serves one request only is walked again first. After the last row step 4 drops the lines of the destination, whose writes
since are lost, and the operation is DONE; or it ends with its first fault. -/
def Obligations.RowOperations : Prop :=
  ∀ (s : State), (∀ k e b, s.l2.find? k = some e → e.under = some b → b.length = 128) →
    let aligned := fun (o : BdeOp) => ∀ x ∈ o.srcTr ++ o.dstTr, x.pa % 1024 = 0
    let wrote := fun (t : State) (a : Nat) (b : List PByte) =>
      t.rowBytes a = b ∧ ∀ k, k < a / 128 ∨ a / 128 + 8 ≤ k → t.hbmLine k = s.hbmLine k
    let stays := fun (u : Nat) (o : BdeOp) (i : Nat) =>
      s.pageHolds u o.asid o.src o.srcTr (i / 64) = true ∧ s.pageHolds u o.asid o.dst o.dstTr (i / 64) = true
    let done := fun (t : State) (u ch : Nat) (o : BdeOp) (i : Nat) => t.bdeHead u ch = some { o with rows := NatSet.add o.rows i }
    let row := fun (x : Instr) (u ch : Nat) (o : BdeOp) (i a : Nat) (b : List PByte) =>
      (stays u o i → ∃ t, exec x s = .next t ∧ wrote t a b ∧ done t u ch o i) ∧
        (¬stays u o i → ∃ t g, exec x s = .next t ∧ t.mem = s.mem ∧ t.l2 = s.l2 ∧ t.bdeHead u ch = some g ∧ g.stopped.isSome = true ∧
          g.detail = 0xA ∧ g.page = i / 64)
    (∀ (u ch : Nat) (o : BdeOp) (rest : List BdeOp), u < 8 → ch < 16 → (s.bdeChan u ch).queue = o :: rest → o.kind ≠ .coll →
      let final := fun (t : State) (state side detail page : Nat) =>
        (t.bdeChan u ch).queue = rest ∧ ∃ d, (t.bdeChan u ch).recent.head? = some d ∧ d.seq = o.seq ∧ d.status.toNat % 256 = state ∧
          d.status.toNat / 2 ^ 8 % 256 = detail % 256 ∧ d.status.toNat / 2 ^ 18 % 2 = side % 2 ∧ d.status.toNat / 2 ^ 32 = page % 2 ^ 32
      let start := exec (.mrowStart (.bde u ch)) s
      let issue := Instr.engineIssue (.bde u ch)
      let srcs := s.mrowPages (u / 2) o.asid o.src false 0 (if o.kind = .rowCopy then o.pages else 0)
      (o.state = 1 → s.bdeOff u = true → ∃ t, start = .next t ∧ final t 0x20 0 0 0) ∧
      (∀ d i v, o.state = 1 → s.bdeOff u = false → srcs = (.error (d, i), v) → ∃ t, start = .next t ∧ final t 0x20 0 d i) ∧
      (∀ src v, o.state = 1 → s.bdeOff u = false → srcs = (.ok src, v) →
        (∀ d i v', v.mrowPages (u / 2) o.asid o.dst true 0 o.pages = (.error (d, i), v') → ∃ t, start = .next t ∧ final t 0x20 1 d i) ∧
        (∀ dst v', v.mrowPages (u / 2) o.asid o.dst true 0 o.pages = (.ok dst, v') →
          let near := ∀ p ∈ src.zip dst, p.1.pa / 2 ^ 37 % 4 = p.2.pa / 2 ^ 37 % 4
          let apart := ∀ x ∈ dst, ∀ y ∈ src, x.pa / 65536 ≠ y.pa / 65536
          (near → apart → ∃ t, start = .next t ∧ (t.bdeChan u ch).queue = { o with state := 2, srcTr := src, dstTr := dst } :: rest) ∧
          (¬near → ∃ t side i, start = .next t ∧ final t 0x20 side 0xB i) ∧
          (near → ¬apart → ∃ t i, start = .next t ∧ final t 0x20 1 0 i))) ∧
      (o.state ≠ 1 → start = .next s) ∧
      (o.state = 2 → o.stopped = none → o.stage = 0 →
        ∃ t, exec issue s = .next t ∧ t.bdeHead u ch = some { o with stage := 1 } ∧ (s.L2True → t.mem = s.mem) ∧
          (∀ k ∈ pageLines o.srcTr, ∀ e, t.l2.find? k = some e → e.dirty = false) ∧ ∀ k ∈ pageLines o.dstTr, t.l2.find? k = none) ∧
      (∀ i, o.state = 2 → (∀ j, j < i → s.rowOpen u o j = false ∨ o.rowClass j ≠ .xfer) → i < 64 * o.pages →
        s.rowOpen u o i = true → o.rowClass i = .xfer → aligned o →
        let b := s.rowBytes (o.srcRow i)
        (PByte.anyBad b = false → row issue u ch o i (o.dstRow i) b) ∧
        (PByte.anyBad b = true → ∃ t g, exec issue s = .next t ∧ t.mem = s.mem ∧ t.bdeHead u ch = some g ∧ g.stopped = some 0x20 ∧
          g.detail = 9 ∧ g.page = i / 64)) ∧
      (o.state = 2 →
        let event := exec (.engineEvent (.bde u ch)) s
        (∀ st, o.stopped = some st → st < 256 → ∃ t, event = .next t ∧ final t st o.side o.detail o.page) ∧
        (o.stopped = none → o.stage = 2 → ∃ t, event = .next t ∧ final t 0x10 o.side o.detail o.page) ∧
        (o.stopped = none → o.stage ≠ 2 → o.rows.length = 64 * o.pages →
          ∃ t, event = .next t ∧ t.bdeHead u ch = some { o with stage := 2 } ∧
            ∀ k ∈ pageLines o.dstTr, t.l2.find? k = none ∧ t.memBytes (k * 128) 128 = s.hbmLine k) ∧
        (o.stopped = none → o.stage ≠ 2 → o.rows.length ≠ 64 * o.pages → event = .next s))) ∧
    (∀ (stack r : Nat), stack < 8 →
      let a := r * 1024
      (∀ src u ch o i, s.findRow .sub false r (fun o i => o.srcRow i == src * 1024 && stackOf a == stack) = some (u, ch, o, i) →
        aligned o → o.dstRow i = a → row (.rcp stack src r) u ch o i a (s.rowBytes (src * 1024))) ∧
      (∀ src, s.findRow .sub false r (fun o i => o.srcRow i == src * 1024 && stackOf a == stack) = none → exec (.rcp stack src r) s = .next s) ∧
      (∀ u ch o i, s.findRow .zero false r (fun _ _ => stackOf a == stack) = some (u, ch, o, i) → aligned o → o.dstRow i = a →
        row (.rzf stack r) u ch o i a (PByte.clean (List.replicate 1024 0))) ∧
      (s.findRow .zero false r (fun _ _ => stackOf a == stack) = none → exec (.rzf stack r) s = .next s) ∧
      (let holds := stackOf a = stack ∧ (s.findRow .buf true r (fun _ _ => true)).isSome = true ∧
         ∀ b, (s.bde stack).bufs.find? (rowPseudo a) = some b → s.bufUsed b = false
       (holds → ∃ t b, exec (.rbr stack r) s = .next t ∧ t.mem = s.mem ∧ (t.bde stack).bufs.find? (rowPseudo a) = some b ∧ b.row = r ∧
         b.bytes = s.rowBytes a) ∧
       (¬holds → exec (.rbr stack r) s = .next s)) ∧
      (∀ b, (s.bde stack).bufs.find? (rowPseudo a) = some b → b.bytes.length = 1024 →
        (∀ u ch o i, s.findRow .buf false r (fun o i => o.srcRow i == b.row * 1024 && stackOf a == stack) = some (u, ch, o, i) →
          aligned o → o.dstRow i = a → row (.rbw stack r) u ch o i a b.bytes ∧
            ∀ t, exec (.rbw stack r) s = .next t → (t.bde stack).bufs.find? (rowPseudo a) = none) ∧
        (s.findRow .buf false r (fun o i => o.srcRow i == b.row * 1024 && stackOf a == stack) = none → exec (.rbw stack r) s = .next s)))

/-- R395, R396, R405, R459: a contribution is refused with 1 without an open zone of its address space that holds its elements, or when it
is poisoned, which ends the collective; each of its elements that has fewer than E contributions and is not read out takes it, by the
arithmetic of R396, and the others refuse it, which gives 2. An id of a copy channel names no zone. A full zone is read out, element by
element, written, and closed once every write is acknowledged; a place that is refused ends it (R383). -/
def Obligations.Zones : Prop :=
  ∀ (s : State),
    (∀ (agent : Agent) (b : Nat) (r : Req) (rest : List Req) (z first : Nat) (vals : List W32) (bad : Bool), b < 8 →
      s.chan agent (.bde b) = r :: rest → r.op = .zone z first vals bad →
      let answers := fun (t : State) (v : W64) =>
        exec (.zoneContribution agent (.bde b)) s = .next t ∧ t.Answered { req := r, val := v } ∧ t.chans = popReq s.chans agent (.bde b) ∧
          t.mem = s.mem ∧ t.cores = s.cores
      (s.zoneOf z = none → ∃ t, answers t 1 ∧ t.bdes = s.bdes) ∧
      (∀ b' i zn, s.zoneOf z = some (b', i, zn) →
        let misses := zn.asid ≠ r.asid ∨ zn.count < first + vals.length ∨ vals = []
        let takes := fun (k : Nat) => (zn.elems.get {} k).count < zn.e ∧ zn.out = false
        (misses → ∃ t, answers t 1 ∧ t.bdes = s.bdes) ∧
        (∀ o, ¬misses → bad = true → s.bdeHead zn.unit zn.chan = some o → o.kind = .coll → o.zone = some (b', i) →
          ∃ t g, answers t 1 ∧ t.zone? b' i = none ∧ t.bdeHead zn.unit zn.chan = some g ∧ g.stopped = some 0x22 ∧ g.side = 0 ∧
            g.detail = 9 ∧ g.todo = [] ∧ g.zone = none) ∧
        (¬misses → bad = false →
          ∃ t zn', answers t (if ∀ j < vals.length, takes (first + j) then 0 else 2) ∧ t.zone? b' i = some zn' ∧
            { zn' with elems := zn.elems } = zn ∧
            (∀ k, k < first ∨ first + vals.length ≤ k ∨ ¬takes k → zn'.elems.get {} k = zn.elems.get {} k) ∧
            (∀ (j : Nat) (x : W32), vals[j]? = some x → takes (first + j) →
              let e := zn.elems.get {} (first + j)
              let e' := zn'.elems.get {} (first + j)
              let v := Fp.val zn.fmt x.toNat
              let n := Fp.roundInt .rne (v.scale2 zn.frac)
              (v.isFin = false → e' = { e with count := e.count + 1, nan := true }) ∧
              (v.isFin = true → 2 ^ 191 ≤ n.natAbs → e' = { e with count := e.count + 1, ovf := true }) ∧
              (v.isFin = true → n.natAbs < 2 ^ 191 → -(2 ^ 191 : Int) ≤ e.a + n → e.a + n < 2 ^ 191 →
                e' = { e with count := e.count + 1, a := e.a + n }) ∧
              (v.isFin = true → n.natAbs < 2 ^ 191 → e.a + n < -(2 ^ 191 : Int) ∨ 2 ^ 191 ≤ e.a + n →
                e'.count = e.count + 1 ∧ e'.nan = e.nan ∧ e'.ovf = true ∧ -(2 ^ 191 : Int) ≤ e'.a ∧ e'.a < 2 ^ 191 ∧
                  (e'.a - (e.a + n)) % 2 ^ 192 = 0))))) ∧
    (∀ (b i : Nat) (z : Zone) (o : BdeOp), b < 8 → i < 64 → s.zone? b i = some z → s.bdeHead z.unit z.chan = some o →
      let elem := fun (k : Nat) => z.elems.get {} k
      let full := ∀ k, k < z.count → (elem k).count = z.e
      (z.out = true ∨ ¬full → exec (.zoneReadout b i) s = .next s) ∧
      (z.out = false → full →
        ∃ t g, exec (.zoneReadout b i) s = .next t ∧ t.mem = s.mem ∧ t.bdeHead z.unit z.chan = some g ∧
          g.todo = landList z.dst (Fp.fmtBits z.fmt / 8) ((List.range z.count).map (fun k => (elem k).read z.fmt z.frac)) ∧
          (g.ovf = true ↔ ∃ k, k < z.count ∧ (elem k).ovf = true) ∧ t.zone? b i = some { z with out := true })) ∧
    (∀ (e : ZoneElem) (fmt frac : Nat),
      (e.nan = true ∨ (e.ovf = true ∧ fmt ≠ 0xB) → e.read fmt frac = Fp.rnd fmt .nan .rne false) ∧
      (e.nan = false → e.ovf = true → fmt = 0xB → (e.read fmt frac : Int) = e.a % 2 ^ 32) ∧
      (e.nan = false → e.ovf = false → e.read fmt frac = Fp.rnd fmt (.fin (decide (e.a < 0)) e.a.natAbs (2 ^ frac)) .rne false)) ∧
    (∀ z : Nat, z.testBit 23 = false → s.zoneOf z = none) ∧
    (∀ (b i : Nat) (z : Zone) (o : BdeOp), b < 8 → s.zoneOut b = some (i, z) → s.bdeHead z.unit z.chan = some o →
      let worker : Worker := { agent := .zone b, core := o.core, asid := o.asid, launch := o.launch }
      (∀ w rest d held v, o.todo = w :: rest → s.workPlace worker o.leases w.va w.len true = (.error d, held, v) → o.kind = .coll →
        o.zone = some (b, i) → ∃ t g, exec (.engineIssue (.zone b)) s = .next t ∧ t.mem = s.mem ∧ t.zone? b i = none ∧
          t.bdeHead z.unit z.chan = some g ∧ g.stopped = some 0x22 ∧ g.side = 1 ∧ g.detail = d ∧ g.todo = []) ∧
      (∀ w rest p held v, o.todo = w :: rest → s.workPlace worker o.leases w.va w.len true = (.ok p, held, v) →
        ∃ t r g, exec (.engineIssue (.zone b)) s = .next t ∧ (t.chan (.zone b) (v.placeHome p)).getLast? = some r ∧ r.op = w.op ∧
          r.addr = p.addr ∧ r.size = w.len ∧ t.bdeHead z.unit z.chan = some g ∧ g.todo = rest ∧ r.id ∈ g.sent) ∧
      (o.todo ≠ [] ∨ s.acked o.sent = false → exec (.engineEvent (.zone b)) s = .next s) ∧
      (o.todo = [] → s.acked o.sent = true →
        ∃ t d, exec (.engineEvent (.zone b)) s = .next t ∧ t.zone? b i = none ∧ (t.bdeChan z.unit z.chan).recent.head? = some d ∧
          d.seq = o.seq ∧ d.status.toNat % 256 = o.stopped.getD 0x10 % 256))

/-- R176, R397 to R399: COLL_START asks for the descriptor. Once it is read, it is checked, and a zone is opened at the BDE that homes DST,
when there is room; or the issuing core's dirty bytes of the named buffers are written back and the module list is asked for, in which this
module stands once. SRC is asked for once the module's writes to the buffers are acknowledged; of a broadcast, only the root's. A read that
meets a fault, a bad descriptor, an expired time and a buffer of another size end it COLL-FAULT. COLL_COMPLETE brings the parts of the
participants together by the table of R398, and once every write is acknowledged the collective is DONE. -/
def Obligations.Collectives : Prop :=
  ∀ (s : State) (u ch : Nat) (o : BdeOp) (rest : List BdeOp), u < 8 → ch < 16 → (s.bdeChan u ch).queue = o :: rest → o.kind = .coll →
    let final := fun (t : State) (state detail : Nat) =>
      (t.bdeChan u ch).queue = rest ∧ ∃ d, (t.bdeChan u ch).recent.head? = some d ∧ d.seq = o.seq ∧ d.status.toNat % 256 = state ∧
        d.status.toNat / 2 ^ 8 % 256 = detail % 256
    let start := exec (.collStart (.bde u ch)) s
    let issue := exec (.engineIssue (.bde u ch)) s
    let timeout := exec (.collTimeout (.bde u ch)) s
    let running := o.state = 2 ∧ o.zone = none ∧ o.stopped = none
    let stops := fun (x : Host.Outcome State Fault Refusal) (side detail : Nat) =>
      ∃ t g, x = .next t ∧ t.mem = s.mem ∧ t.bdeHead u ch = some g ∧ g.stopped = some 0x22 ∧ g.side = side ∧ g.detail = detail ∧ g.todo = []
    let holds := fun (f : BdeOp) (w : Out) => w.write = true ∧ w.req.asid = o.asid ∧ f.named w.req.va w.req.size = true
    (o.state ≠ 1 → start = .next s) ∧
    (o.state = 1 → s.bdeOff u = true → ∃ t, start = .next t ∧ final t 0x22 0) ∧
    (o.state = 1 → s.bdeOff u = false →
      ∃ t l, start = .next t ∧ t.mem = s.mem ∧
        (t.bdeChan u ch).queue = { o with state := 2, ask := some l, began := s.timeOf (u / 2) } :: rest) ∧
    (∀ l, running → o.summed = false → o.ask = some l → o.plist = [] →
      (s.loadRead l = .wait → issue = .next s) ∧
      (∀ d va, s.loadRead l = .fault d va → stops issue 0 d) ∧
      (∀ b, s.loadRead l = .ok b → o.words = [] →
        let v := s.dropLoad l
        let g := { o with words := wordsOf b 8, ask := none }
        (badDescriptor g = true → stops issue 0 0) ∧
        (badDescriptor g = false → g.op ≠ 4 →
          ∃ t f, issue = .next t ∧ t.mem = s.mem ∧ t.bdeHead u ch = some f ∧ f.words = g.words ∧ f.plist = [] ∧ f.ask.isSome = true ∧
            (∀ w ∈ (t.core o.core).out, holds g w → w.req.id ∈ f.flush) ∧
            ∀ m ∈ (t.core o.core).l1, m.asid = o.asid → g.named (m.line * 128) 128 = true → m.isDirty = false) ∧
        (∀ d held v', badDescriptor g = false → g.op = 4 → v.workPlace (g.worker u ch) [] g.dstBuf 1 true = (.error d, held, v') →
          stops issue 1 d) ∧
        (∀ tr held v', badDescriptor g = false → g.op = 4 →
          v.workPlace (g.worker u ch) [] g.dstBuf 1 true = (.ok (.mem tr), held, v') → inHbm tr.pa 1 = true →
          v'.bdeOff (stackOf tr.pa) = false →
          ((v'.bde (stackOf tr.pa)).place g.count = none → stops issue 0 0xC) ∧
          (∀ i a, (v'.bde (stackOf tr.pa)).place g.count = some (i, a) →
            ∃ t h z, issue = .next t ∧ t.bdeHead u ch = some h ∧ h.state = 2 ∧ h.zone = some (stackOf tr.pa, i) ∧
              t.zone? (stackOf tr.pa) i = some z ∧ z.asid = o.asid ∧ z.fmt = g.fmt ∧ z.frac = g.frac ∧ z.e = g.ecount ∧
              z.count = g.count ∧ z.dst = g.dstBuf ∧ z.elems = [] ∧ z.out = false ∧ a + z.count ≤ 65536 ∧
              ∀ e ∈ (v'.bde (stackOf tr.pa)).zones, e.2.first + e.2.count ≤ a ∨ a + z.count ≤ e.2.first))) ∧
      (∀ b, s.loadRead l = .ok b → o.words ≠ [] →
        ((halves o.npart b).count s.modId = 1 →
          ∃ t, issue = .next t ∧ (t.bdeChan u ch).queue = { o with plist := halves o.npart b, ask := none } :: rest) ∧
        ((halves o.npart b).count s.modId ≠ 1 → stops issue 0 0))) ∧
    (running → o.summed = false → o.ask = none → o.plist ≠ [] →
      let open' := ∃ i ∈ o.flush, ∃ w ∈ (s.core o.core).out, w.req.id = i
      (open' → issue = .next s) ∧
      (¬open' →
        ∃ t l, issue = .next t ∧ t.mem = s.mem ∧ (∃ f, t.bdeHead u ch = some f ∧ f.ask = some l ∧ f.plist = o.plist) ∧
          (o.op = 3 → o.plist.head? ≠ some s.modId → l.pieces = [] ∧ l.todo = [] ∧ t.chans = s.chans))) ∧
    (let expired := o.state = 2 ∧ o.tout ≠ 0 ∧ o.stopped = none ∧ o.began + o.tout * 1000 ≤ s.timeOf (u / 2)
     (expired → stops timeout 0 0xD) ∧ (¬expired → timeout = .next s)) ∧
    (∀ (srcs : List (List Byte)), o.state = 2 → o.zone = none →
      let complete := exec (.collComplete (.bde u ch) srcs) s
      let n := o.count * o.eb
      (∀ l, o.summed = false → o.stopped = none → o.plist ≠ [] → o.ask = some l →
        (s.loadRead l = .wait → complete = .next s) ∧
        (∀ d va, s.loadRead l = .fault d va → stops complete 0 d) ∧
        (∀ b, s.loadRead l = .ok b →
          let all := List.zipWith (fun m x => if m = s.modId then b else x) o.plist srcs
          let sum := fun (k : Nat) => sumElem o.fmt o.frac k (all.map (elemsOf o.eb o.count))
          let pos := o.plist.idxOf s.modId
          let seg := o.count / o.npart
          let same := srcs.length = o.npart ∧ ∀ x ∈ (if o.op = 3 then all.take 1 else all), x.length = n
          (¬same → stops complete 0 0) ∧
          (same → s.modId ∈ o.plist → o.plist.length = o.npart →
            ∃ t g vals, complete = .next t ∧ t.mem = s.mem ∧ t.bdeHead u ch = some g ∧ g.summed = true ∧ g.sf = true ∧ g.ask = none ∧
              g.todo = landList o.dstBuf o.eb vals ∧
              (o.op = 0 → vals = (List.range o.count).map (fun k => (sum k).read o.fmt o.frac)) ∧
              (o.op = 1 → vals = (List.range seg).map (fun k => (sum (pos * seg + k)).read o.fmt o.frac)) ∧
              (o.op = 2 → vals = (all.map (elemsOf o.eb o.count)).flatten) ∧
              (o.op = 3 → vals = elemsOf o.eb o.count (all.headD []))))) ∧
      (∀ w ws p held v, o.summed = true → o.stopped = none → o.todo = w :: ws →
        s.workPlace (o.worker u ch) o.leases w.va w.len true = (.ok p, held, v) →
        ∃ t r g, issue = .next t ∧ (t.chan (.bde u ch) (v.placeHome p)).getLast? = some r ∧ r.op = w.op ∧ r.addr = p.addr ∧
          t.bdeHead u ch = some g ∧ g.todo = ws ∧ r.id ∈ g.sent) ∧
      (o.summed = true ∨ o.stopped.isSome = true →
        let finished := o.todo = [] ∧ s.acked o.sent = true ∧ ∀ l, o.ask = some l → s.allIn l = true
        (¬finished → complete = .next s ∧ exec (.engineEvent (.bde u ch)) s = .next s) ∧
        (finished → (∃ t, complete = .next t ∧ final t (o.stopped.getD 0x10 % 256) o.detail) ∧
          ∃ t, exec (.engineEvent (.bde u ch)) s = .next t ∧ final t (o.stopped.getD 0x10 % 256) o.detail)))

/-! ### Video decode engines (R427 to R440) -/

/-- R428, R432, R442: DECODE_JOB_START starts the head of an engine's queue: a job submitted to a disabled engine ends BAD-RECORD with
detail 0xFF; any other reads its record, its layout record and its ring's header, one after another. A job whose records fail their checks
ends BAD-RECORD with the number of the first word at fault, and any other runs, its ring's header written.
R427, R430 to R435, R438: FRAME_DECODE takes the places of the frame in progress, reads the stream for it, and gives it its elements and its
status word, with FILL and the class for a frame that is not decoded, or nothing and the end of the job when a place fails. -/
def Obligations.VideoFrames : Prop :=
  (∀ g : DecJob, g.unread = [] →
    let w := fun (i : Nat) => (nth 0 g.words i).toNat
    (g.badWord 1 = true ↔ 2 ^ 40 ≤ w 1) ∧ (g.badWord 5 = true ↔ w 5 % 128 ≠ 0) ∧ (g.badWord 6 = true ↔ w 6 % 8 ≠ 0) ∧
    (g.badWord 4 = true ↔ 2 ^ 40 ≤ w 4 ∨ (8 ≤ Fp.fmtBits g.ofmt ∧ w 4 % 2 ^ 40 % (Fp.fmtBits g.ofmt / 8) ≠ 0)) ∧
    (g.badWord 7 = true ↔ w 7 / 2 ^ 32 % 2 ^ 16 = 0 ∨ w 7 / 2 ^ 48 = 0 ∨ w 7 / 2 ^ 32 % 2 ^ 16 % g.pw ≠ 0 ∨ w 7 / 2 ^ 48 % g.ph ≠ 0) ∧
    (g.badWord 8 = true ↔ 2 ^ 39 ≤ w 8 ∨ (g.ofmt ≠ 1 ∧ g.ofmt ≠ 2 ∧ g.ofmt ≠ 9) ∨ 1 < w 8 / 2 ^ 32 % 4 ∨ g.nfrm = 0) ∧
    ∀ i, 12 ≤ i → i ≤ 15 → (g.badWord i = true ↔ nth 0 g.words i ≠ 0)) ∧
  (∀ (bs : List Byte) (bad : Bool) (f : Nat),
    let no := Config.av1Profile bs f ≠ 0 ∨ Config.av1Depth bs f = 12 ∨ 1 < Config.av1Chroma bs f ∨ 63 < Config.av1Level bs f
    (bs.length < Config.av1End bs f → frameClass bs bad f = if bad = true then 5 else 4) ∧
    (Config.av1End bs f ≤ bs.length → no → frameClass bs bad f = 2) ∧
    (Config.av1End bs f ≤ bs.length → ¬no → frameClass bs bad f ≠ 2 ∧ frameClass bs bad f < 4)) ∧
  ∀ (s : State) (v : Nat) (j : DecJob) (rest : List DecJob), v < 32 → (s.video v).queue = j :: rest →
    let start := exec (.decodeJobStart v) s
    let decode := exec (.frameDecode v) s
    let ended := fun (state detail : Nat) =>
      ∃ t d, start = .next t ∧ (t.video v).queue = rest ∧ (t.video v).recent.head? = some d ∧ d.seq = j.seq ∧ d.status.toNat % 256 = state ∧
        d.status.toNat / 2 ^ 8 % 256 = detail % 256
    let goes := fun (t : State) (g : DecJob) => decode = .next t ∧ (t.video v).queue = g :: rest
    let fine := fun (g : DecJob) (i : Nat) => g.known i = true ∧ g.badWord i = false
    let out := fun (status : Nat) (sent : List Nat) => j.outs ++ [{ frame := j.frame, status := status, sent := sent }]
    (exec (.engineIssue (.video v)) s = decode ∧ exec (.engineEvent (.video v)) s = exec (.frameStatus v) s) ∧
    (j.state ≠ 1 → j.state ≠ 2 ∨ j.ask = none → start = .next s) ∧
    (j.state = 1 → j.off = true → ended 0x20 0xFF) ∧
    (j.state = 1 → j.off = false →
      ∃ t l, start = .next t ∧ t.mem = s.mem ∧ (t.video v).queue = { j with state := 2, ask := some l } :: rest) ∧
    (∀ l, j.state = 2 → j.ask = some l → s.allIn l = false → start = .next s) ∧
    (∀ l, j.state = 2 → j.ask = some l → s.allIn l = true →
      (j.step = .record →
        let g := { j with words := (s.loadWords l).1, unread := (s.loadWords l).2, ask := none }
        (∀ d, d < 3 → ¬fine g d → (∀ i, i < d → fine g i) → ended 0x20 d) ∧
        (fine g 0 → fine g 1 → fine g 2 →
          ∃ t m, start = .next t ∧ t.mem = s.mem ∧ (t.video v).queue = { g with step := .layout, ask := some m } :: rest)) ∧
      (j.step = .layout → fine j 0 → fine j 1 →
        (∀ d va, s.loadRead l = .fault d va → ended 0x20 2) ∧
        (∀ b, s.loadRead l = .ok b →
          let r := wordsOf b 12
          let g := { j with record := recSetBase r (normVa j.core (recBase r)), badRec := false, ask := none }
          let va := normVa j.core (nth 0 j.words 3).toNat
          (g.badLayout = true → ended 0x20 2) ∧
          (g.badLayout = false → fine j 2 → nth 0 j.words 3 = 0 → fine j 3 →
            (∀ d, d < 16 → ¬fine j d → (∀ i, i < d → fine j i) → ended 0x20 d) ∧
            ((∀ i, i < 16 → fine j i) → j.ring = none → ∃ t, start = .next t ∧ (t.video v).queue = { g with step := .begin } :: rest)) ∧
          (g.badLayout = false → fine j 2 → fine j 3 → nth 0 j.words 3 ≠ 0 →
            (∀ c off, placeOf va = .other c off → off % 64 = 0 →
              ∃ t m, start = .next t ∧ (t.video v).queue = { g with step := .header, ask := some m, ring := some (c, off) } :: rest) ∧
            ((∀ c off, placeOf va = .other c off → off % 64 ≠ 0) → ended 0x20 3)))) ∧
      (∀ c off, j.step = .header → j.ring = some (c, off) → j.badRec = false → (∀ i, i < 4 → fine j i) →
        (∀ d va, s.loadRead l = .fault d va → ended 0x20 3) ∧
        (∀ b, s.loadRead l = .ok b →
          let w := wordsOf b 8
          let bad := j.badRing w ((s.core c).spsize - off)
          (bad = true → ended 0x20 3) ∧
          (bad = false →
            (∀ d, d < 16 → ¬fine j d → (∀ i, i < d → fine j i) → ended 0x20 d) ∧
            ((∀ i, i < 16 → fine j i) →
              ∃ t h r, start = .next t ∧ (t.video v).queue = h :: rest ∧ h.words = j.words ∧ h.record = j.record ∧ h.step = .begin ∧
                h.word0 = (nth 0 w 0).toNat ∧ (t.chan (.video v) (.spad c)).getLast? = some r ∧ r.addr = off + 48 ∧
                r.op = .write (PByte.clean [2, 0, 0, 0, 0, 0, 0, 0])))))) ∧
    (j.state ≠ 2 ∨ j.nfrm ≤ j.frame ∨ (j.step ≠ .begin ∧ j.step ≠ .stream) → decode = .next s) ∧
    (j.state = 2 → j.frame < j.nfrm → j.step = .begin →
      let skipped := { j with frame := j.frame + 1, leases := [], outs := out 0xF004 [] }
      let places := s.placesOk (j.worker v) [] (j.writes j.frame (fun _ => 0) 0 j.elems)
      let begins := j.ending = none ∧ s.cancelledLaunch j.launch = false ∧ s.targetSaved j = false ∧ j.slotFree = true
      (j.ending.isSome = true → ∃ t, goes t skipped ∧ t.mem = s.mem ∧ t.chans = s.chans) ∧
      (j.ending = none → s.cancelledLaunch j.launch = true →
        ∃ t, goes t { skipped with ending := some 0x22 } ∧ t.mem = s.mem ∧ t.chans = s.chans) ∧
      (j.ending = none → s.cancelledLaunch j.launch = false → s.targetSaved j = true ∨ j.slotFree = false → decode = .next s) ∧
      (∀ d held u, begins → places = (.error d, held, u) →
        ∃ t, goes t { j with frame := j.frame + 1, leases := [], outs := out 0xF005 [], ending := some 0x21, detail := d } ∧ t.mem = s.mem) ∧
      (∀ held u, begins → places = (.ok (), held, u) → ∃ t, goes t { j with leases := held, step := .stream } ∧ t.mem = s.mem)) ∧
    (j.state = 2 → j.frame < j.nfrm → j.step = .stream →
      (∀ l, j.ask = some l →
        (s.allIn l = false → decode = .next s) ∧
        (∀ b, s.allIn l = true → s.loadRead l = .ok b → ∃ t, goes t { j with ask := none, bs := j.bs ++ b, bsBad := false } ∧ t.mem = s.mem) ∧
        (∀ d va, s.allIn l = true → s.loadRead l = .fault d va →
          ∃ t g more, goes t g ∧ t.mem = s.mem ∧ g.ask = none ∧ g.bsBad = true ∧ g.bs = j.bs ++ more)) ∧
      (j.ask = none → j.hasStream = false → ∃ t g, goes t g ∧ t.mem = s.mem ∧ g.ask.isSome = true ∧ g.bs = j.bs ∧ g.frame = j.frame) ∧
      (j.ask = none → j.hasStream = true →
        let cls := j.stuck.getD (frameClass j.bs j.bsBad j.frame)
        let type := Config.av1Type j.bs j.frame
        let key := type % 4 = 0
        let state := if cls = 0 then (if j.corrupt = true ∧ ¬key then 3 else 1) else if j.corrupt = true ∧ cls < 4 then 3 else 2
        let value := fun (e : Nat) => if state = 1 then j.value j.bs e else recFill j.record
        let ws := j.writes j.frame value 0 j.elems
        (∀ d held u, s.placesOk (j.worker v) j.leases ws = (.error d, held, u) →
          ∃ t g o, goes t g ∧ g.outs = j.outs ++ [o] ∧ o.status % 256 = 5 ∧ o.frame = j.frame ∧ o.sent = [] ∧ g.frame = j.frame + 1 ∧
            g.ending = some 0x21 ∧ g.detail = d ∧ t.chans = u.chans) ∧
        (∀ held u ids held' u', s.placesOk (j.worker v) j.leases ws = (.ok (), held, u) →
          u.engineWrite (j.worker v) held [] ws = (none, ids, held', u') →
          ∃ t g o, goes t g ∧ g.outs = j.outs ++ [o] ∧ o.frame = j.frame ∧ o.sent = ids ∧ o.step = .elements ∧ g.step = .begin ∧
            g.ending = j.ending ∧ g.frame = j.frame + 1 ∧ t.chans = u'.chans ∧ o.status % 256 = state ∧
            o.status / 2 ^ 20 = (if state = 2 then cls else 0) ∧
            o.status / 2 ^ 12 % 16 = (if cls = 0 then type % 4 else if type ≤ 3 then type else 0xF) ∧ (g.corrupt = true ↔ state ≠ 1) ∧
            (4 ≤ cls → g.stuck = some cls) ∧
            (state = 1 → o.status.testBit 17 = j.grain j.bs ∧
              (o.status.testBit 18 = true ↔ ∃ e, e < j.elems ∧ j.inside j.bs e = false)))))

/-- R433, R435 to R437, R439, R440: FRAME_STATUS takes the first frame that has not passed it through its steps: once its elements are
acknowledged, the ring's counter and the status word; then the arrival at the barrier, with a second write of the status word when it is
refused. NDONE counts the status words written. Once every frame has passed, the job ends when its ring's header has been written.
DECODE_RING_REREAD reads the consumer's counter; one that goes back or leaves the ring ends the job, unless its end is decided. -/
def Obligations.VideoStatus : Prop :=
  ∀ (s : State) (v : Nat) (j : DecJob) (rest : List DecJob), v < 32 → (s.video v).queue = j :: rest →
    let step := exec (.frameStatus v) s
    let goes := fun (t : State) (g : DecJob) => step = .next t ∧ (t.video v).queue = g :: rest
    let place := s.workPlace (j.worker v) []
    let sent := fun (t : State) (h : Home) (r : Req) (a : Nat) (op : HomeOp) =>
      (t.chan (.video v) h).getLast? = some r ∧ r.addr = a ∧ r.op = op
    let idle := s.acked j.sent = true ∧ ∀ l, j.ask = some l ∨ j.reread = some l → s.allIn l = true
    let ends := j.step = .begin ∧ j.nfrm ≤ j.frame
    let final := j.ending.getD 0x10
    (j.state ≠ 2 → step = .next s) ∧
    (j.state = 2 → j.outs = [] →
      (¬ends ∨ ¬idle → step = .next s) ∧
      (ends → idle → j.closing = true ∨ j.ring = none →
        ∃ t d, step = .next t ∧ (t.video v).queue = rest ∧ (t.video v).recent.head? = some d ∧ d.seq = j.seq ∧
          d.status.toNat % 256 = final % 256 ∧ d.status.toNat / 2 ^ 32 % 2 ^ 16 = j.ndone % 2 ^ 16 ∧
          d.status.toNat / 2 ^ 48 = min j.nbad 65535 ∧ (j.firstBad = none → t.mem = s.mem)) ∧
      (∀ c off, ends → idle → j.closing = false → j.ring = some (c, off) →
        ∃ t g r, goes t g ∧ g.closing = true ∧
          sent t (.spad c) r (off + 48) (.write (PByte.clean (leBytes (match j.ringBad with
            | some d => 0x20 + d % 256 * 256
            | none => if final = 0x10 then 0x10 else 0x11) 8))))) ∧
    (∀ o os, j.state = 2 → j.outs = o :: os →
      let stat := normVa j.core ((j.stat + 8 * o.frame) % 2 ^ 64)
      let finished := fun (g : DecJob) =>
        g.outs = os ∧ (o.status % 256 = 1 → g.firstBad = j.firstBad) ∧
          (o.status % 256 ≠ 1 → j.firstBad = none → g.firstBad = some (o.frame, o.status))
      let refused := ∀ p held u, place stat 8 true = (.ok p, held, u) →
        ∃ t g r, goes t g ∧ g.outs = { o with status := o.status + 2 ^ 19, step := .refused, sent := [r.id] } :: os ∧
          sent t (u.placeHome p) r p.addr (.write (PByte.clean (leBytes (o.status + 2 ^ 19) 8)))
      let plain := j.ring = none ∨ 3 < o.status % 256
      (s.acked o.sent = false → step = .next s) ∧
      (s.acked o.sent = true → o.step = .elements →
        (∀ p held u, plain → place stat 8 true = (.ok p, held, u) →
          ∃ t g r, goes t g ∧ g.outs = { o with step := .status, sent := [r.id] } :: os ∧ g.ndone = j.ndone ∧ g.own = j.own ∧
            g.nbad = j.nbad + (if o.status % 256 = 1 then 0 else 1) ∧
            sent t (u.placeHome p) r p.addr (.write (PByte.clean (leBytes o.status 8)))) ∧
        (∀ c off, j.ring = some (c, off) → o.status % 256 ≤ 3 →
          ∃ t g r, goes t g ∧ g.own = j.own + 1 ∧ r ∈ t.chan (.video v) (.spad c) ∧ r.addr = off + 8 ∧
            r.op = .write (PByte.clean (leBytes (w64 (j.own + 1)).toNat 8)) ∧ r.id ∈ g.sent ∧ ∃ o', g.outs = o' :: os ∧ o'.step = .status) ∧
        (∀ d held u, plain → place stat 8 true = (.error d, held, u) →
          ∃ t g, goes t g ∧ g.outs = { o with step := .status, sent := [] } :: os ∧ g.ending = some 0x21 ∧ g.detail = 0xE)) ∧
      (s.acked o.sent = true → o.step = .status →
        let n := j.ndone + (if o.sent = [] then 0 else 1)
        (j.bar = 0 → ∃ t g, goes t g ∧ finished g ∧ g.ndone = n) ∧
        (∀ p held u, j.bar ≠ 0 → place j.bar 128 false = (.ok p, held, u) →
          ∃ t g r, goes t g ∧ g.ndone = n ∧ g.outs = { o with step := .arrival, arrival := some r.id } :: os ∧
            sent t (u.placeHome p) r p.addr .arrive) ∧
        (∀ d held u, j.bar ≠ 0 → place j.bar 128 false = (.error d, held, u) →
          ∃ t g, goes t g ∧ g.ndone = n ∧ g.outs = { o with step := .arrival, arrival := none } :: os)) ∧
      (s.acked o.sent = true → o.step = .arrival →
        (o.arrival = none → refused) ∧
        (∀ id, o.arrival = some id →
          (NatSet.has s.engOut id = true → step = .next s) ∧
          (NatSet.has s.engOut id = false → NatSet.has s.engBad id = true → refused) ∧
          (NatSet.has s.engOut id = false → NatSet.has s.engBad id = false → ∃ t g, goes t g ∧ finished g))) ∧
      (s.acked o.sent = true → o.step = .refused → ∃ t g, goes t g ∧ finished g)) ∧
    (let reread := exec (.decodeRingReread v) s
     let reads := j.ring.isSome = true ∧ j.state = 2 ∧ j.closing = false ∧ (j.step = .begin ∨ j.step = .stream)
     let ringFault := fun (d : Nat) => ∃ t g, reread = .next t ∧ (t.video v).queue = g :: rest ∧ g.reread = none ∧ g.other = j.other ∧
       (j.ending = none → g.ending = some 0x21 ∧ g.ringBad = some d) ∧
       (j.ending.isSome = true → g.ending = j.ending ∧ g.ringBad = j.ringBad)
     (¬reads → reread = .next s) ∧
     (reads → j.reread = none → ∃ t l, reread = .next t ∧ t.mem = s.mem ∧ (t.video v).queue = { j with reread := some l } :: rest) ∧
     (∀ l, reads → j.reread = some l →
       (s.loadRead l = .wait → reread = .next s) ∧
       (∀ d va, s.loadRead l = .fault d va → ringFault d) ∧
       (∀ b, s.loadRead l = .ok b →
         let x := leNat b
         let good := j.other ≤ x ∧ x ≤ j.own ∧ j.own - x ≤ j.nslot
         (good → ∃ t, reread = .next t ∧ (t.video v).queue = { j with other := x, reread := none } :: rest) ∧
         (¬good → ringFault 0))))

/-! ### Fault records, errors and pre-emption (R449 to R468) -/

/-- R450, R451, R458 to R461, R468: a fault record is written at the tail of its queue, TAIL and the notify word advance, or it is held at
its core, with OVF set, while the queue is off or full or an earlier record of its space is held; a held record is written once there is
room. A corrected error changes no register and no scratchpad, and is folded into one report a millisecond. An uncorrectable error in data
poisons its protected word, one in a context poisons its task. The watchdog takes its trap at the waiting instruction, its registration
withdrawn. -/
def Obligations.FaultsAndErrors : Prop :=
  (∀ (s : State) (a : Nat), a < 64 →
    let q := fqBase a
    let tail := (s.reg (q + 0x18)).toNat % 2 ^ 32
    let addr := (s.reg q).toNat / 2 ^ 6 % 2 ^ 50 * 64 + tail % 2 ^ ((s.reg (q + 8)).toNat % 2 ^ 5) * 64
    let note := (s.reg (q + 0x20)).toNat / 2 ^ 3 % 2 ^ 53 * 8
    let written := fun (t : State) (f : FaultRec) =>
      (t.reg (q + 0x18)).toNat = (tail + 1) % 2 ^ 32 ∧
      (note ≠ 0 → inHbm note 8 = true → Memory.bytes t.mem note 8 = leBytes ((tail + 1) % 2 ^ 32) 8) ∧
      (f.words.length = 8 → inHbm addr 64 = true → note = 0 ∨ note + 8 ≤ addr ∨ addr + 64 ≤ note →
        Memory.bytes t.mem addr 64 = f.words.flatMap (fun w => leBytes w.toNat 8)) ∧
      (∀ x, x < addr ∨ addr + 8 * f.words.length ≤ x → x < note ∨ note + 8 ≤ x → Memory.byte t.mem x = Memory.byte s.mem x)
    (s.faults.find? (fun f => f.asid == a) = none → exec (.faultRecordWrite a) s = .next s) ∧
    (∀ f, s.faults.find? (fun f => f.asid == a) = some f →
      let full := s.queueFull q = true ∨ ∃ g ∈ s.heldFaults, g.asid = a
      (full → ∃ t, exec (.faultRecordWrite a) s = .next t ∧ t.faults = s.faults.erase f ∧ t.heldFaults = s.heldFaults ++ [f] ∧
        (t.reg (q + 0x28)).getLsbD 16 = true ∧ t.mem = s.mem) ∧
      (¬full → ∃ t, exec (.faultRecordWrite a) s = .next t ∧ t.faults = s.faults.erase f ∧ t.heldFaults = s.heldFaults ∧ written t f)) ∧
    (∀ c f, c < 1536 → s.heldReady c = some f → f.asid = a →
      ∃ t, exec (.heldRecordWrite c) s = .next t ∧ t.heldFaults = s.heldFaults.erase f ∧ t.faults = s.faults ∧ written t f) ∧
    (∀ c, c < 1536 → s.heldReady c = none → exec (.heldRecordWrite c) s = .next s)) ∧
  (∀ (s : State) (d u i : Nat), unitExists d u = true →
    let e := s.unitErrs d u
    let now := s.timeOf d
    let many := ∃ x, e.times[15]? = some x ∧ now < x + 1000000000
    let due := ∀ x, e.reported = some x → x + 1000000 ≤ now
    ∃ t, exec (.correctedError d u i) s = .next t ∧ (t.unitErrs d u).times = (now :: e.times).take 16 ∧
      (∀ c a, Memory.byte (t.core c).spad a = Memory.byte (s.core c).spad a) ∧ (∀ c k, t.ctx c k = s.ctx c k) ∧
      (due → (t.unitErrs d u).pending = 0 ∧ (t.unitErrs d u).reported = some now) ∧
      (¬due → (t.unitErrs d u).pending = e.pending + 1 ∧ (t.unitErrs d u).reported = e.reported) ∧
      (¬due → ¬many → t.mem = s.mem ∧ t.reg (pRq + 0x18) = s.reg (pRq + 0x18)) ∧
      (due → ¬many → s.queueFull pRq = true → t.mem = s.mem) ∧
      (due → ¬many → s.queueFull pRq = false → (t.reg (pRq + 0x18)).toNat = ((s.reg (pRq + 0x18)).toNat % 2 ^ 32 + 1) % 2 ^ 32) ∧
      (many → (t.reg (devBase d + 0x00D00000 + 8 * (u / 64))).getLsbD (u % 64) = true)) ∧
  (∀ (s : State) (d i : Nat), d < 4 →
    (∀ c, c < 1536 → dieOf c = d →
      (8 * i < 0x48000 → ∃ t, exec (.uncorrectableError d (c % 384) i 0) s = .next t ∧ (∀ a, Memory.byte (t.core c).spad a = Memory.byte (s.core c).spad a) ∧
        ∀ a, NatSet.has (t.core c).spadPoison a = true ↔ (8 * i ≤ a ∧ a < 8 * i + 8) ∨ NatSet.has (s.core c).spadPoison a = true) ∧
      (i < 16384 → ∃ t, exec (.uncorrectableError d (c % 384) i 1) s = .next t ∧ NatSet.has (t.core c).istorePoison i = true) ∧
      ((s.ctx c i).phase ≠ .free → (s.ctx c i).phase ≠ .odd →
        ∃ t, exec (.uncorrectableError d (c % 384) i 3) s = .next t ∧ t.ctx c i = { s.ctx c i with poisoned := true } ∧
          (t.reg (devBase d + 0x00D00000 + 8 * (c % 384 / 64))).getLsbD (c % 384 % 64) = true) ∧
      (∀ ch o, ch < 4 → (s.copyChan c ch).queue[i]? = some o →
        let failed := exec (.uncorrectableError d (c % 384) (4 * i + ch) 5) s
        (i = 0 → o.state = 2 → ∃ t g, failed = .next t ∧ (t.copyChan c ch).queue.head? = some g ∧ g.seq = o.seq ∧ g.stopped = some 0x20 ∧
          g.detail = 9) ∧
        (i ≠ 0 ∨ o.state ≠ 2 → ∃ t e, failed = .next t ∧
          (t.copyChan c ch).queue = (s.copyChan c ch).queue.take i ++ (s.copyChan c ch).queue.drop (i + 1) ∧
          (t.copyChan c ch).recent.head? = some e ∧ e.seq = o.seq ∧ e.status.toNat % 256 = 0x20 ∧ e.status.toNat / 2 ^ 8 % 256 = 9))) ∧
    (∀ v j, v < 32 → v / 8 = d → (s.video v).queue[i]? = some j →
      let failed := exec (.uncorrectableError d (808 + v % 8) i 0) s
      (i = 0 → j.state = 2 → ∃ t g, failed = .next t ∧ (t.video v).queue.head? = some g ∧ g.seq = j.seq ∧ g.ending = some 0x21 ∧ g.detail = 9) ∧
      (i ≠ 0 ∨ j.state ≠ 2 → ∃ t e, failed = .next t ∧ (t.video v).recent.head? = some e ∧ e.seq = j.seq ∧ e.status.toNat % 256 = 0x21)) ∧
    (∀ k, k < 2 → 32 * i + 32 ≤ 2 ^ 39 → stackOf (32 * i) = 2 * d + k →
      ∃ t, exec (.uncorrectableError d (818 + k) i 0) s = .next t ∧
        (s.queueFull pRq = true → t.mem = s.mem ∧
          ∀ a, NatSet.has t.poison a = true ↔ (32 * i ≤ a ∧ a < 32 * i + 32) ∨ NatSet.has s.poison a = true))) ∧
  (∀ (s : State) (c k : Nat),
    let u := s.ctx c k
    let lim := (s.reg (pWdctl (dieOf c))).toNat % 2 ^ 32
    let now := s.timeOf (dieOf c)
    let expires := fun (w : Nat) => lim ≠ 0 ∧ u.phase ≠ .free ∧ u.phase ≠ .odd ∧ u.phase ≠ .faulted ∧ u.expired = false ∧ s.counted c u = true ∧
      u.waitFrom = some w ∧ w + lim * 1000 < now
    let registered := fun (r : Reg) => ∃ i q, u.wait = .answer i ∧ (s.core c).registered i = some q ∧ r ∈ q.waitRegs
    let settled := ∀ r ∈ u.var, registered r
    let lonely := ∀ q ∈ s.poolQueue (c / 8), q.core = c → q.ctx = k → q.uid = u.uid
    ((∀ w, ¬expires w) → exec (.watchdog c k) s = .next s) ∧
    (∀ w, expires w → lonely → s.waitingLdf c u = none → ¬settled →
      ∃ t insn, exec (.watchdog c k) s = .next t ∧
        (t.ctx c k).wait = .trap none 0x30 (min 0xFFFF ((now - w) / 1000)) 0 u.waitPc.toNat insn ∧ (t.ctx c k).pc = u.waitPc ∧
        (t.ctx c k).faulta = u.faulta ∧ t.faults = s.faults ∧ t.mem = s.mem) ∧
    (∀ w, expires w → lonely → s.waitingLdf c u = none → settled → u.killed = true → u.groups = [] → s.pools = [] →
      ∃ t, exec (.watchdog c k) s = .next t ∧ (t.ctx c k).phase = .free ∧ NatSet.has t.deadTasks u.uid = true ∧ t.faults = s.faults) ∧
    (∀ w, expires w → lonely → s.waitingLdf c u = none → settled → u.killed = false →
      ∃ t, exec (.watchdog c k) s = .next t ∧ (t.ctx c k).phase = .faulted ∧ (t.ctx c k).wait = .none ∧ (t.ctx c k).pc = u.waitPc ∧
        (t.ctx c k).faulta.toNat % 2 ^ 8 = 0x30 ∧ (t.ctx c k).faulta.toNat / 2 ^ 8 % 2 ^ 16 = u.waitPc.toNat ∧
        (t.ctx c k).faulta.toNat / 2 ^ 24 % 2 ^ 16 = min 0xFFFF ((now - w) / 1000) ∧ (t.ctx c k).faultb = 0 ∧ t.mem = s.mem) ∧
    (∀ w r, expires w → s.waitingLdf c u = some r →
      ∃ t q, exec (.watchdog c k) s = .next t ∧ (t.ctx c k).expired = true ∧ (t.ctx c k).x = u.x ∧ (t.core c).oq.getLast? = some q ∧
        q.op = .withdraw r.id ∧ q.home = r.home))

/-- R245, R318, R462 to R467: a core that a launch of higher priority wants, each of its live launches having a save area, issues nothing,
allocates no context (log 49 for entries of other launches), withdraws the `ldf`s that wait at their homes, and saves itself once its tasks are
at boundaries and nothing touches its scratchpad: it writes nothing outside its slots, keeps its configuration, KVRING, its
scratchpad, its window slots and its contexts, and frees them; hires that have not started are frozen. It resumes the record of the highest
priority once nothing lives on it and no entry of higher priority waits: with its slots intact everything is restored to the same numbers,
and otherwise its tasks are lost. -/
def Obligations.Preemption : Prop :=
  ∀ (s : State) (c : Nat),
    let h := s.core c
    let go := exec (.preemption c) s
    let resume := exec (.launchResume c) s
    let live := h.launchesLive
    (s.wantsCore c = true →
      (∃ p, p ∈ s.launches ∧ p.2.started = true ∧ (s.reg (pQctl p.2.queue)).getLsbD 3 = true ∧ ∀ q ∈ live, s.prio q < s.prio p.1) ∧
        ∀ q ∈ live, ∃ l, s.launch? q = some l ∧ l.save ≠ 0) ∧
    (s.wantsCore c = false → go = .next s) ∧
    (s.wantsCore c = true → (∀ k, s.mayIssue c k = false) ∧ s.choose c = none) ∧
    (s.wantsCore c = true → s.saveReady c = false →
      ∃ t, go = .next t ∧ t.saves = s.saves ∧ t.mem = s.mem ∧ t.hires = s.hires ∧
        (∀ k, { t.ctx c k with recalled := (s.ctx c k).recalled } = s.ctx c k) ∧
        ∀ k ∈ h.ctxs.keys, ∀ r, s.waitingLdf c (s.ctx c k) = some r → r ∈ s.deferred ∨ r.isRemote = true →
          (s.ctx c k).recalled = false → (s.ctx c k).expired = false →
          (t.ctx c k).recalled = true ∧ ∃ q ∈ (t.core c).oq, q.op = .withdraw r.id ∧ q.home = r.home) ∧
    (s.wantsCore c = true → s.saveReady c = true → blocks h.conf ≤ 18 →
      ∃ (t : State) (r : SaveRec), go = .next t ∧ t.saves = s.saves ++ [r] ∧ r.core = c ∧ r.launches = live ∧ r.conf = h.conf ∧ r.kvring = h.kvring ∧
        r.spad = h.spad ∧ r.spadPoison = h.spadPoison ∧ (∀ e, e ∈ r.wa ↔ e ∈ h.wa ∧ e.2.saved = false) ∧
        (∀ k, (t.ctx c k).phase = .free) ∧
        (∀ e ∈ h.ctxs, e.2.phase ≠ .free → ∃ u, (e.1, u) ∈ r.ctxs ∧ u.uid = e.2.uid ∧ (e.2.wait = .none → e.2.reclaim = false → u = e.2.settle)) ∧
        (∀ g ∈ s.hires, g.core ≠ c ∨ g.launch ∉ live → g ∈ t.hires) ∧
        (∀ g ∈ s.hires, g.core = c → g.launch ∈ live → g.state < 4 → g.frozen = none → ∃ f ∈ t.hires, f.hid = g.hid ∧ f.state = 6 ∧ f.frozen = some g.state) ∧
        (∀ e ∈ (t.core c).wa, e.2.saved = true) ∧
        (∀ x, (∀ q ∈ live, ∀ l, s.launch? q = some l → x < l.slotAddr c ∨ l.slotAddr c + 0x80000 ≤ x) → Memory.byte t.mem x = Memory.byte s.mem x)) ∧
    (s.bestRec c = none → resume = .next s) ∧
    (∀ r, s.bestRec c = some r →
      (r ∈ s.saves ∧ r.core = c ∧ ∀ q ∈ s.saves, q.core = c → s.recPrio q ≤ s.recPrio r) ∧
      (let waits := h.live = true ∨ h.chosen.isSome = true ∨ s.spadBusy c = true ∨ s.higherWaits c r = true
       let n := blocks r.conf
       let intact := ∀ a ∈ r.areas, s.slotIntact n a = true
       let text := fun (b : Option (List Byte)) =>
         ∀ k, r.conf = some k → (needsText h.conf k = false ∧ b = none) ∨ (needsText h.conf k = true ∧ b.isSome = true ∧ s.overlay k.image k.ovl = b)
       (waits → resume = .next s) ∧
       (¬waits → ¬intact →
         ∃ t, resume = .next t ∧ (∀ l ∈ r.launches, ∀ q ∈ t.saves, q.core = c → l ∉ q.launches) ∧
           ∀ e ∈ r.ctxs, e.2.launch ∈ r.launches → e.2.phase ≠ .odd → NatSet.has t.deadTasks e.2.uid = true) ∧
       (∀ b, ¬waits → intact → n ≤ blocks h.conf → text b → r.ctxs.Pairwise (fun x y => x.1 ≠ y.1) →
         (∀ q ∈ s.poolQueue (c / 8), q.core ≠ c) →
         ∃ t, resume = .next t ∧ (∀ q, q ∈ t.saves ↔ q ∈ s.saves ∧ q ≠ r) ∧ t.mem = s.mem ∧ (t.core c).spad = r.spad ∧
           (t.core c).spadPoison = r.spadPoison ∧ (t.core c).kvring = r.kvring ∧ (∀ k, r.conf = some k → (t.core c).conf = some k) ∧
           (∀ e ∈ r.ctxs,
             let u := t.ctx c e.1
             u.x = e.2.x ∧ u.pc = e.2.pc ∧ u.uid = e.2.uid ∧ u.pp = e.2.pp ∧ u.pfx = e.2.pfx ∧ u.hg = e.2.hg ∧ u.bound = e.2.bound ∧
             (e.2.claim = none → u.claim = none ∧ u.phase = e.2.phase)) ∧
           (∀ e ∈ r.wa, e ∈ (t.core c).wa) ∧
           (∀ g ∈ s.hires, ∀ l ∈ r.launches, g.core = c → g.launch = l → ∀ st, g.frozen = some st →
             ∃ f ∈ t.hires, f.hid = g.hid ∧ f.state = st ∧ f.frozen = none))))

/-! ### The fabric and domain time (R473 to R483, R491) -/

/-- R476 to R480: a packet of another epoch, and a duplicate, changes nothing; one that is ahead of its turn is held; the expected one
is delivered, its held successors after it: a request goes on the channel of its source agent to the home that the export window names, with
2 µs to be performed, or is refused and answered so, and a response answers the request of its number. Acknowledgements are cumulative. A request handed to a session
takes the next number, unless the session has failed, and so does the answer to a request that the epoch of the session has delivered; either
waits for room among the 16,384 packets of the session. An unacknowledged packet may go again on another port that is up; with no port up for
FTO the session fails, and every request of it that is not answered is refused. -/
def Obligations.FabricSessions : Prop :=
  ∀ (s : State) (m : Nat),
    let x := s.session m
    (∀ (epoch seq src kind addr size : Nat) (data : List Byte), x.expect < 2 ^ 16 →
      let arrive := exec (.fabricPacketArrive m epoch seq src kind addr size data) s
      let p := InPacket.mk src kind addr size data
      let d := (seq % 2 ^ 16 + 2 ^ 16 - x.expect) % 2 ^ 16
      let e := (s.reg (pExport (addr / 2 ^ 26))).toNat
      let pa := e % 2 ^ 13 * 2 ^ 26 + addr % 2 ^ 26
      (s.peerOk m = false ∨ epoch ≠ x.epoch ∨ 32768 ≤ d → arrive = .next s) ∧
      (s.peerOk m = true → epoch = x.epoch → 1 ≤ d → d ≤ 32767 →
        ∃ t, arrive = .next t ∧ t.session m = { x with heldIn := x.heldIn.set (seq % 2 ^ 16) p } ∧ t.chans = s.chans ∧ t.mem = s.mem) ∧
      (s.peerOk m = true → epoch = x.epoch → d = 0 →
        (∃ t, arrive = .next t ∧ (t.session m).heldIn.find? (t.session m).expect = none) ∧
        (x.heldIn = [] →
          let opened := fun (op : HomeOp) => addr / 2 ^ 26 ≤ 8191 ∧ e.testBit 63 = true ∧ (op.writes = true → e.testBit 62 = true)
          let taken := fun (t : State) => arrive = .next t ∧ (t.session m).expect = (x.expect + 1) % 2 ^ 16
          (∀ op, p.op = some op → opened op →
            ∃ t r, taken t ∧ (t.chan (.fabricIn m src) (s.homeOf pa)).getLast? = some r ∧ r.op = op ∧ r.addr = pa ∧ r.size = size ∧
              r.exp = some (s.timeOf 0 + 2001) ∧ t.mem = s.mem) ∧
          (∀ op, p.op = some op → ¬opened op →
            ∃ t y, taken t ∧ (t.rchan (s.homeOf pa) (.fabricIn m src)).getLast? = some y ∧ y = y.req.refused ∧ y.req.op = op ∧
              y.req.uid = x.epoch ∧ t.chans = s.chans) ∧
          (p.op = none → x.waiting.find? (fun w => w.1 == addr) = none → ∃ t, taken t ∧ t.rchans = s.rchans ∧ t.mem = s.mem) ∧
          (∀ n r, p.op = none → x.waiting.find? (fun w => w.1 == addr) = some (n, r) →
            ∃ t y, taken t ∧ (t.rchan r.home r.agent).getLast? = some y ∧ y.req = r ∧ (t.session m).waiting = x.waiting.erase (n, r) ∧
              (kind = 33 → y = r.refused) ∧ (kind = 34 → y.ok = false) ∧ (kind = 32 → y.ok = true ∧
                (r.op = .read → y.bytes = PByte.clean data) ∧ (r.op ≠ .read → y.val = w64 (leNat (data.take 8)) ∧ y.poison = false)) ∧
              (kind = 35 → r.op ≠ .read → y.poison = true) ∧ (kind = 35 → r.op = .read → ∀ b ∈ y.bytes, b.bad = true))))) ∧
    (∀ epoch seq,
      (epoch ≠ x.epoch → exec (.fabricAck m epoch seq) s = .next s) ∧
      (epoch = x.epoch → ∃ t, exec (.fabricAck m epoch seq) s = .next t ∧ { t.session m with unacked := x.unacked } = x ∧
        ∀ p, p ∈ (t.session m).unacked ↔ p ∈ x.unacked ∧ 2 ^ 15 ≤ (seq + 2 ^ 17 - 1 - p.seq) % 2 ^ 16)) ∧
    (∀ seq port,
      (port ∉ s.routeUp m ∨ x.failed = true → exec (.fabricResend m seq port) s = .next s) ∧
      (port ∈ s.routeUp m → x.failed = false → ∃ t, exec (.fabricResend m seq port) s = .next t ∧ t.mem = s.mem ∧
        ∀ p ∈ x.unacked,
          let due := p.seq = seq ∧ p.port ≠ port ∧ (s.portUp p.port = false ∨ p.sent + 20000 ≤ s.timeOf 0)
          (due → { p with port := port, sent := s.timeOf 0 } ∈ (t.session m).unacked) ∧ (¬due → p ∈ (t.session m).unacked))) ∧
    (let fails := s.peerOk m = true ∧ x.failed = false ∧ s.routeDead m = true
     (¬fails → exec (.sessionFail m) s = .next s) ∧
     (fails → s.routeUp m = [] ∧ ∃ t, exec (.sessionFail m) s = .next t ∧
       t.session m = { x with unacked := [], waiting := [], failed := true } ∧ ∀ w ∈ x.waiting, w.2.refused ∈ t.rchan w.2.home w.2.agent)) ∧
    (∀ agent r rest, s.chan agent (.remote m) = r :: rest → (∀ e, r.exp = some e → s.timeOf (agentDie agent) < e) →
      let perform := exec (.perform agent (.remote m)) s
      (x.failed = false → 16384 ≤ x.unacked.length → perform = .next s) ∧
      (x.failed = true → ∃ t, perform = .next t ∧ r.refused ∈ t.rchan r.home r.agent ∧ t.chans = popReq s.chans agent (.remote m)) ∧
      (x.failed = false → x.unacked.length < 16384 → ∃ (t : State) (p : Packet), perform = .next t ∧ t.chans = popReq s.chans agent (.remote m) ∧
        (t.session m).unacked = x.unacked ++ [p] ∧ p.seq = x.next ∧ p.req = r ∧ p.resp = none ∧ (t.session m).next = (x.next + 1) % 2 ^ 16 ∧
        (t.session m).waiting = x.waiting ++ [(x.next, r)] ∧ t.mem = s.mem)) ∧
    (∀ home src y rest, s.rchan home (.fabricIn m src) = y :: rest →
      let respond := exec (.respond home (.fabricIn m src)) s
      let popped := popResp s.rchans home (.fabricIn m src)
      (x.failed = false → 16384 ≤ x.unacked.length → respond = .next s) ∧
      (x.failed = true ∨ (x.unacked.length < 16384 ∧ y.req.uid ≠ x.epoch) → respond = .next { s with rchans := popped }) ∧
      (x.failed = false → x.unacked.length < 16384 → y.req.uid = x.epoch → ∃ (t : State) (p : Packet), respond = .next t ∧ t.rchans = popped ∧
        (t.session m).unacked = x.unacked ++ [p] ∧ p.seq = x.next ∧ p.resp = some y ∧ (t.session m).next = (x.next + 1) % 2 ^ 16 ∧
        (t.session m).waiting = x.waiting ∧ t.mem = s.mem))

/-- R36, R473, R474, R480, R481, R491, R492, R494: a port that comes up or goes down sets or clears its bit of PORTST, the sessions that had
failed beginning a new epoch; a disabled port stays down, and a replay of a flit is invisible. FABCTL keeps MODID while EN is 1 and stores an
FTO of 0 as 1, FABSYNC is read once its requests are done. A master sends a time packet every 1 µs; a follower measures its offset, holds
LOCK after 1 ms within 50 ns, and loses it when 100 µs pass without a packet. A window of the governor moves the clock by one step. -/
def Obligations.LinksAndTime : Prop :=
  (∀ (s : State) (p : Nat) (up : Bool), p < 18 →
    (exec (.flitReplay p) s = .next s) ∧
    (s.portUp p = up ∨ (up = true ∧ s.disabled (portDie p) (portUnit p) = true) → exec (.linkChange p up) s = .next s) ∧
    (s.portUp p ≠ up → (up = true → s.disabled (portDie p) (portUnit p) = false) →
      ∃ t, exec (.linkChange p up) s = .next t ∧ t.portUp p = up ∧ (∀ q, q < 18 → q ≠ p → t.portUp q = s.portUp q) ∧
        (∀ m, m ≤ 431 → t.routeDown.get 0 m = if s.routeUp m ≠ [] ∧ t.routeUp m = [] then s.timeOf 0 else s.routeDown.get 0 m) ∧
        (up = false → t.sessions = s.sessions) ∧
        (up = true → ∀ e ∈ s.sessions,
          (e.2.failed = true → p ∈ s.routePorts e.1 → (e.1, { epoch := e.2.epoch + 1 }) ∈ t.sessions) ∧
          (e.2.failed = false → e ∈ t.sessions)))) ∧
  (∀ (s : State) (v : W64),
    let old := (s.reg pFabctl).toNat
    let en := old % 2 = 1
    let modid := if en then old / 2 ^ 8 % 2 ^ 9 else v.toNat / 2 ^ 8 % 2 ^ 9
    ∃ t, exec (.fabctlWrite v) s = .next t ∧ t.mem = s.mem ∧
      (t.reg pFabctl).toNat / 2 ^ 24 = max 1 (v.toNat / 2 ^ 24 % 2 ^ 16) ∧ (t.reg pFabctl).toNat / 2 ^ 8 % 2 ^ 16 = modid ∧
      ((t.reg pFabctl).toNat % 2 ^ 8 = if v.toNat % 2 = 0 then 0 else if 431 < modid then old % 2 else 1)) ∧
  (∀ (s : State),
    ((∀ f ∈ s.fabsyncs, ∃ i ∈ f.ids, i ∈ s.fabPending) → exec .fabsyncRead s = .next s) ∧
    (∀ (pre : List FabSync) (f : FabSync) (post : List FabSync), s.fabsyncs = pre ++ f :: post → (∀ g ∈ pre, ∃ i ∈ g.ids, i ∈ s.fabPending) → (∀ i ∈ f.ids, i ∉ s.fabPending) →
      ∃ t y, exec .fabsyncRead s = .next t ∧ t.fabsyncs = pre ++ post ∧ (t.rchan f.req.home f.req.agent).getLast? = some y ∧ y.req = f.req ∧
        y.bytes = List.replicate f.req.size ⟨0, false⟩)) ∧
  (∀ (s : State) (d offset : Nat), d < 4 →
    let now := s.timeOf d
    let x := s.timeLink
    let ctl := (s.reg pTdctl).toNat
    let sends := ctl % 4 = 3 ∧ ∀ w, x.sent = some w → w + 1000 ≤ now
    let follows := ctl % 4 = 1
    let lost := follows ∧ x.holding = false ∧ x.got + 100000 ≤ now
    (sends → ∃ t, exec (.timePacketSend d) s = .next t ∧ t.timeLink = { x with sent := some now } ∧ t.mem = s.mem) ∧
    (¬sends → exec (.timePacketSend d) s = .next s) ∧
    (¬follows → exec (.timePacketArrive d offset) s = .next s) ∧
    (follows → ∃ t, exec (.timePacketArrive d offset) s = .next t ∧ t.timeLink.got = now ∧ t.timeLink.offset = offset ∧ t.timeLink.holding = false ∧
      t.timeLink.within = (if offset ≤ 50 then some (x.within.getD now) else none) ∧ t.mem = s.mem ∧
      ((t.reg pTdctl).getLsbD 2 = decide (offset ≤ 50 ∧ x.within.getD now + 1000000 ≤ now))) ∧
    (¬lost → exec (.timeHoldover d) s = .next s) ∧
    (lost → ∃ t, exec (.timeHoldover d) s = .next t ∧ t.timeLink = { x with within := none, holding := true } ∧ (t.reg pTdctl).getLsbD 2 = false)) ∧
  (∀ (s : State) (average : Nat),
    let ctl := (s.reg 0x8000D00210).toNat
    let st := (s.reg 0x8000D00218).toNat
    let limit := ctl % 2 ^ 12
    let cap := 950 + 50 * (ctl / 2 ^ 16 % 2 ^ 5)
    let clk := st / 2 ^ 16 % 2 ^ 16
    let next := if cap < clk then cap else if limit < average then max 950 (clk - 50) else if average * 100 ≤ limit * 95 then min cap (clk + 50) else clk
    (s.timeOf 0 < s.window + 1000000 → exec (.governorWindow average) s = .next s) ∧
    (s.window + 1000000 ≤ s.timeOf 0 → ∃ t, exec (.governorWindow average) s = .next t ∧ t.mem = s.mem ∧ t.window = s.window + 1000000 ∧
      (t.reg 0x8000D00218).toNat = min (2 ^ 32 - 1) (st / 2 ^ 32 + 1) * 2 ^ 32 + next * 2 ^ 16 + min average (2 ^ 16 - 1)))

/-! ### The host port, boot and management (R9, R469 to R472, R484 to R495) -/

/-- R181, R469 to R472, R486, R489: an access of the host outside HBM, in no single line, or through BAR0 to an aperture, is unsupported; before
the module is in service a read of HBM returns poison and a write is dropped, and BAR0 reaches BOOTST alone; in service the access becomes a
request of the memory agent or of the I/O agent. The host's completion answers a request of the host aperture. Every snoop is answered with
RspIHitI, and the link trains to the widths and rates it has. -/
def Obligations.HostPort : Prop :=
  ∀ (s : State),
    let out := fun (t : State) (o : HostOut) => t.hostOut = s.hostOut ++ [o] ∧ t.mem = s.mem ∧ t.chans = s.chans
    let sent := fun (t : State) (agent : Agent) (op : HomeOp) (pa n : Nat) =>
      t.hostOut = s.hostOut ∧ ∃ r, (t.chan agent (s.homeOf pa)).getLast? = some r ∧ r.op = op ∧ r.addr = pa ∧ r.size = n ∧ r.scope = .package ∧
        r.home = s.homeOf pa
    (∀ (pa n : Nat),
      let line := pa + n ≤ 2 ^ 39 ∧ n ≠ 0 ∧ pa / 128 = (pa + n - 1) / 128
      (¬line → ∃ t, exec (.cxlMemRead pa n) s = .next t ∧ out t .unsupported) ∧
      (line → s.boot.ready = false → ∃ t id, exec (.cxlMemRead pa n) s = .next t ∧ out t (.data id (List.replicate n ⟨0, true⟩))) ∧
      (line → s.boot.ready = true → ∃ t, exec (.cxlMemRead pa n) s = .next t ∧ sent t .hostMem .read pa n)) ∧
    (∀ (pa : Nat) (data : List Byte),
      let n := data.length
      let line := pa + n ≤ 2 ^ 39 ∧ n ≠ 0 ∧ pa / 128 = (pa + n - 1) / 128
      (¬line → ∃ t, exec (.cxlMemWrite pa data) s = .next t ∧ out t .unsupported) ∧
      (line → s.boot.ready = false → ∃ t id, exec (.cxlMemWrite pa data) s = .next t ∧ out t (.done id)) ∧
      (line → s.boot.ready = true → ∃ t, exec (.cxlMemWrite pa data) s = .next t ∧ sent t .hostMem (.write (PByte.clean data)) pa n)) ∧
    (∀ (pa size : Nat) (write : Bool) (data : List Byte),
      let n := if write = true then data.length else size
      let go := exec (.cxlIoAccess pa size write data) s
      let bar := 2 ^ 39 ≤ pa ∧ pa < 2 ^ 40 ∧ inFabric pa = false ∧ inHostAp pa = false ∧ (n = 1 ∨ n = 2 ∨ n = 4 ∨ n = 8) ∧ pa % n = 0
      (¬bar → ∃ t, go = .next t ∧ out t .unsupported) ∧
      (bar → s.boot.ready = true → ∃ t, go = .next t ∧ sent t .hostIo (if write = true then .write (PByte.clean data) else .read) pa n) ∧
      (bar → s.boot.ready = false → s.boot.stage ≠ 5 →
        (write = true → pa / 8 * 8 ≠ 0x8000D00200 → ∃ t id, go = .next t ∧ out t (.done id) ∧ t.dev = s.dev ∧ t.boot = s.boot) ∧
        (write = false → pa / 8 * 8 ≠ 0x8000D00200 → ∃ t id, go = .next t ∧ out t (.data id (List.replicate n ⟨0, false⟩))) ∧
        (write = false → pa / 8 * 8 = 0x8000D00200 →
          ∃ t id, go = .next t ∧ out t (.data id (PByte.clean (leBytes (s.boot.word.toNat / 2 ^ (8 * (pa % 8))) n)))))) ∧
    (∀ (id : Nat) (data : List Byte),
      (s.hostReqs.find? (fun r => r.id == id) = none → exec (.hostApertureCompletion id data) s = .next s) ∧
      (∀ r, s.hostReqs.find? (fun r => r.id == id) = some r →
        ∃ t y, exec (.hostApertureCompletion id data) s = .next t ∧ (∀ q, q ∈ t.hostReqs ↔ q ∈ s.hostReqs ∧ q.id ≠ id) ∧
          (t.rchan r.home r.agent).getLast? = some y ∧ y.req = r ∧ y.ok = true ∧
          (r.op = .read → data.length = r.size → y.bytes = PByte.clean data) ∧
          (r.op ≠ .read → data.length = r.size → y.val = w64 (leNat data)))) ∧
    (∀ a, ∃ t, exec (.snoop a) s = .next t ∧ out t (.rspIHitI a) ∧ t.cores = s.cores) ∧
    (∀ width rate,
      let trains := (width = 16 ∨ width = 8 ∨ width = 4) ∧ (rate = 128 ∨ rate = 64 ∨ rate = 32)
      (trains → exec (.cxlLinkTraining width rate) s = .next { s with cxlWidth := width, cxlRate := rate }) ∧
      (¬trains → exec (.cxlLinkTraining width rate) s = .next s))

/-- R486 to R489: an image is accepted when it passes the five checks in their order. A module reset leaves everything at its reset value, but
the flash and the fuses, and boots slot A, or slot B, or goes to recovery. FWCTL starts a check, or fuses MINSVN, unless one is in
progress; a check that is over gives its result, and an accepted image is written to the slot not booted, to slot A in recovery. -/
def Obligations.BootAndFirmware : Prop :=
  (∀ (img : List Byte) (low : Nat),
    let w := fun (i : Nat) => leNat ((img.drop (8 * i)).take 8)
    let len := w 2 % 2 ^ 32
    let e := fwCheck img low
    let magic := 64 ≤ img.length ∧ w 0 % 2 ^ 32 = 0x4E4C4657
    let whole := 1 ≤ len ∧ len ≤ 2 ^ 24 ∧ 64 + len + 1772 ≤ img.length
    let fresh := low ≤ w 1 % 2 ^ 32
    let ours := ∀ i, i < 4 → w (3 + i) = Config.fusedDigest i
    (¬magic → e = 1) ∧ (magic → ¬whole → e = 2) ∧ (magic → whole → ¬fresh → e = 3) ∧ (magic → whole → fresh → ¬ours → e = 4) ∧
    (magic → whole → fresh → ours →
      let sig := (img.drop (64 + len)).take 1772
      (e = 0 ↔ be32 sig 4 = 4 ∧ be32 sig 1128 = 8 ∧ lmsVerify Config.lmsKey Config.lmsRoot (img.take (64 + len)) sig = true) ∧ (e = 0 ∨ e = 5))) ∧
  (∀ (s : State),
    let low := s.boot.minSvnNow
    let a := fwCheck (s.slotImage 0) low
    let b := fwCheck (s.slotImage 1) low
    ∃ t, exec .moduleReset s = .next t ∧ t.flash = s.flash ∧ t.boot.minSvn = s.boot.minSvn ∧ t.boot.busy = false ∧
      (∀ x, Memory.byte t.mem x = 0 ∧ NatSet.has t.poison x = false) ∧
      (∀ c x, Memory.byte (t.core c).spad x = 0) ∧ (∀ c k, (t.ctx c k).phase = .free) ∧ (∀ d, t.timeOf d = 0) ∧ (∀ p, t.reg p = devReset p) ∧
      (a = 0 → t.boot.ready = true ∧ t.boot.stage = 4 ∧ t.boot.slot = 0 ∧ t.boot.err = 0 ∧ t.boot.svn = svnOf (s.slotImage 0)) ∧
      (a ≠ 0 → b = 0 → t.boot.ready = true ∧ t.boot.stage = 4 ∧ t.boot.slot = 1 ∧ t.boot.err = 0 ∧ t.boot.svn = svnOf (s.slotImage 1)) ∧
      (a ≠ 0 → b ≠ 0 → t.boot.ready = false ∧ t.boot.stage = 5 ∧ t.boot.err = b ∧ t.boot.svn = 0)) ∧
  (∀ (s : State) (v : W64),
    (s.boot.busy = true → exec (.fwGo v) s = .next s ∧ exec (.fwCommit v) s = .next s) ∧
    (s.boot.busy = false →
      exec (.fwGo v) s = .next (if v.getLsbD 0 = true then { s with boot := { s.boot with busy := true } } else s) ∧
      exec (.fwCommit v) s = .next (if v.getLsbD 1 = true then { s with boot := { s.boot with minSvn := some s.boot.svn } } else s))) ∧
  (∀ (s : State),
    let e := fwCheck s.stagedImage s.boot.minSvnNow
    (s.boot.busy = false → exec .fwCheckDone s = .next s) ∧
    (s.boot.busy = true → ∃ t, exec .fwCheckDone s = .next t ∧ t.boot = { s.boot with busy := false, res := e, err := e } ∧ t.mem = s.mem ∧
      (e ≠ 0 → t.flash = s.flash) ∧
      (∀ slot, e = 0 → t.slotImage slot = if slot = (if s.boot.stage = 5 then 0 else 1 - s.boot.slot) then s.stagedImage else s.slotImage slot)))

/-- R9, R11, R450, R484, R485, R492 to R495: a write of a device register stores its RW bits and nothing else, a read gives its value to the
host, counters and RQLOST clearing as they are read; an SVCST bit is cleared by writing 1. DISMASK takes the bits of units that can be
disabled; a slice that is disabled keeps no translation and no RDC line, a port loses link; a DISMASK read waits until every effect is in
force. SKEWCLR compares the die again, and LAGCLR has the hub send its state to a shadow. -/
def Obligations.DeviceRegisters : Prop :=
  ∀ (s : State),
    (∀ (pa : Nat) (v : W64),
      let write := exec (.deviceRegisterWrite pa v) s
      let stores := fun (w : W64) => ∃ t, write = .next t ∧ t.reg pa = w ∧ (∀ p, p ≠ pa → t.reg p = s.reg p) ∧ t.mem = s.mem ∧ t.cores = s.cores
      (isReg pa = false ∨ devRegAt pa = .none ∨ devRegAt pa = .ro → write = .next s) ∧
      (isReg pa = true →
        (∀ m, devRegAt pa = .rw m → stores (v &&& m)) ∧
        (devRegAt pa = .qsize → stores (w64 (min 16 (v.toNat % 2 ^ 5)))) ∧
        (devRegAt pa = .logSize → stores (w64 (if 4 ≤ v.toNat % 2 ^ 5 ∧ v.toNat % 2 ^ 5 ≤ 16 then v.toNat % 2 ^ 5 else 0))) ∧
        (devRegAt pa = .svcst → stores (s.reg pa &&& ~~~v)) ∧
        (devRegAt pa = .govctl → stores (w64 (min 19 (v.toNat / 2 ^ 16 % 2 ^ 5) * 2 ^ 16 + max 1000 (min 3600 (v.toNat % 2 ^ 12))))) ∧
        (∀ a, devRegAt pa = .fqstat a → v.getLsbD 16 = true → stores 0))) ∧
    (∀ (pa : Nat),
      let gives := fun (t : State) (v : W64) =>
        exec (.deviceRegisterRead pa) s = .next t ∧ ∃ id : Nat, t.hostOut = s.hostOut ++ [HostOut.data id (PByte.clean (leBytes v.toNat 8))]
      (isReg pa = false → exec (.deviceRegisterRead pa) s = .next s) ∧
      (isReg pa = true →
        (devRegAt pa = .none → ∃ t, gives t 0 ∧ t.dev = s.dev) ∧
        (devRegAt pa = .fabsync → ∃ t f, exec (.deviceRegisterRead pa) s = .next t ∧ t.fabsyncs = s.fabsyncs ++ [f] ∧ f.ids = s.fabPending ∧
          f.req.agent = .hostIo ∧ f.req.op = .read ∧ f.req.addr = pa ∧ t.hostOut = s.hostOut ∧ t.dev = s.dev) ∧
        (∀ d j, devRegAt pa = .dismask d j →
          (s.disableDone = false → exec (.deviceRegisterRead pa) s = .next s) ∧ (s.disableDone = true → ∃ t, gives t (s.reg pa) ∧ t.dev = s.dev)) ∧
        ((∃ m, devRegAt pa = .rw m) ∨ devRegAt pa = .ro ∨ devRegAt pa = .svcst ∨ devRegAt pa = .fabctl ∨ devRegAt pa = .govctl →
          ∃ t, gives t (s.reg pa) ∧ t.dev = s.dev ∧ t.cores = s.cores) ∧
        (devRegAt pa = .rqlost → ∃ t, gives t (s.reg pa) ∧ t.reg pa = 0) ∧
        (∀ c, devRegAt pa = .issued c → ∃ t, gives t (w64 (min (s.core c).issued (2 ^ 64 - 1))) ∧ (t.core c).issued = 0) ∧
        (∀ d, devRegAt pa = .mgmtst d → ∃ t v, gives t v ∧ v.getLsbD 1 = NatSet.has s.skew d ∧
          (v.getLsbD 0 = true ↔ ∃ j, j < 16 ∧ s.reg (devBase d + 0x00D00000 + 8 * j) ≠ 0)))) ∧
    (∀ (d : Nat), d < 4 → ∀ j, j < 16 →
      devRegAt (devBase d + 0x00D00000 + 8 * j) = .svcst ∧ devRegAt (pDismask d j) = .dismask d j ∧ devRegAt (devBase d + 0x00D00100) = .mgmtst d) ∧
    (∀ (d j : Nat) (v : W64), d < 4 → j < 16 →
      ∃ t, exec (.dismaskWrite d j v) s = .next t ∧
        (∀ i, i < 64 → (t.reg (pDismask d j)).getLsbD i = (v.getLsbD i && canDisable d (64 * j + i))) ∧
        (∀ i, i < 64 → v.getLsbD i = true → canDisable d (64 * j + i) = true → (s.reg (pDismask d j)).getLsbD i = false →
          let u := 64 * j + i
          (384 ≤ u → u < 768 → (∀ l ∈ t.leases, l.slice ≠ d * 384 + (u - 384)) ∧ t.rdc.get [] (d * 384 + (u - 384)) = []) ∧
          (∀ p, p < 18 → portDie p = d → portUnit p = u → t.portUp p = false))) ∧
    (∀ (d j : Nat), d < 4 → j < 16 →
      (s.disableDone = false → exec (.dismaskRead d j) s = .next s) ∧
      (s.disableDone = true → ∃ t id, exec (.dismaskRead d j) s = .next t ∧
        t.hostOut = s.hostOut ++ [HostOut.data id (PByte.clean (leBytes (s.reg (pDismask d j)).toNat 8))] ∧ t.dev = s.dev)) ∧
    (∀ (d : Nat) (v : W64), d < 4 →
      (v.getLsbD 0 = false ∨ NatSet.has s.skew d = false → exec (.skewclr d v) s = .next s) ∧
      (v.getLsbD 0 = true → NatSet.has s.skew d = true →
        ∃ t, exec (.skewclr d v) s = .next t ∧ (8 < s.keeperSkew d → NatSet.has t.skew d = true) ∧ ∀ e, e ≠ d → NatSet.has t.skew e = NatSet.has s.skew e) ∧
      (let u := v.toNat % 2 ^ 11
       (u < 384 → ∃ t, exec (.lagclr d v) s = .next t ∧ t.mem = s.mem ∧ ∀ x, NatSet.has t.lagSend x = true ↔ x = d * 384 + u ∨ NatSet.has s.lagSend x = true) ∧
       (u = 832 → ∃ t, exec (.lagclr d v) s = .next t ∧ t.mem = s.mem ∧ ∀ x, NatSet.has t.lagSend x = true ↔ x = 1536 + d ∨ NatSet.has s.lagSend x = true) ∧
       (384 ≤ u → u ≠ 832 → exec (.lagclr d v) s = .next s)))

/-- R490: every request of the SPDM exchange is answered on the mailbox and recorded; in its order and accepted it takes the responder on:
version, capabilities, algorithms, then the session from KEY_EXCHANGE to FINISH, KEY_UPDATE and END_SESSION; out of its order it changes
nothing. The measurements are the five digests as they stand. IDE keys are programmed only within a secure session. What the responder
accepts and replies, and the digests, are constants of the model's own. -/
def Obligations.Attestation : Prop :=
  ∀ (s : State) (req : List Byte),
    let x := s.spdm
    let exchange := fun (i : Instr) (code : Nat) (allowed : Bool) (y : SpdmState) =>
      ∃ (t : State) (reply : List Byte), exec i s = .next t ∧ t.hostOut = s.hostOut ++ [HostOut.doe reply] ∧ t.mem = s.mem ∧ t.cores = s.cores ∧ t.dev = s.dev ∧
        (allowed = true → Config.spdmAccepts code req x.log = true → t.spdm = { y with log := y.log ++ [req, reply] }) ∧
        (allowed = false ∨ Config.spdmAccepts code req x.log = false → t.spdm = { x with log := x.log ++ [req, reply] })
    exchange (.spdmVersion req) 0x84 true { version := true } ∧
    exchange (.spdmCapabilities req) 0xE1 x.version { x with caps := true } ∧
    exchange (.spdmAlgorithms req) 0xE3 x.caps { x with algs := true } ∧
    exchange (.spdmDigests req) 0x81 x.algs x ∧
    exchange (.spdmCertificate req) 0x82 x.algs x ∧
    exchange (.challenge req) 0x83 x.algs x ∧
    exchange (.spdmMeasurements req) 0xE0 x.algs x ∧
    exchange (.keyExchange req) 0xE4 x.algs { x with keyed := true } ∧
    exchange (.finish req) 0xE5 x.keyed { x with secure := true } ∧
    exchange (.keyUpdate req) 0xE9 x.secure { x with epoch := x.epoch + 1 } ∧
    exchange (.endSession req) 0xEC x.secure { x with keyed := false, secure := false, epoch := 0 } ∧
    (x.algs = true → ∃ (t : State) (reply : List Byte), exec (.spdmMeasurements req) s = .next t ∧ t.hostOut = s.hostOut ++ [HostOut.doe (reply ++ s.measurements)]) ∧
    (∀ stream key,
      (x.secure = false → exec (.ideKeyProgramming stream key) s = .next s) ∧
      (x.secure = true → ∃ t, exec (.ideKeyProgramming stream key) s = .next t ∧ t.ideKeys.find? stream = some key ∧
        (∀ k, k ≠ stream → t.ideKeys.find? k = s.ideKeys.find? k) ∧ t.mem = s.mem))

/-! ### Steps, reset, encodings and the form of memory -/

/-- R91, R97, R139, R154, R444, R460: when the next pick of the agenda issues from a context that may issue, the step runs the instruction that
the word at its pc decodes to; a word that is no instruction, or that has a reserved field that is not zero, traps, as do a poisoned word and a
poisoned context. A step of another agent is the meaning of its row, and a context that may not issue leaves the machine as it is. With an
empty agenda the step is the first that changes the machine (log 1): the instruction of a context of the first core that may issue.
R139, R148, R356, R357: time that passes takes no request past its lease, no dirty line past its limit and no ready context past
AGELIM, or does not pass; a context that stays ready ages by the cycles that pass, and one that is not ready has age 0. -/
def Obligations.StepRuns : Prop :=
  (∀ (s : State) (c k : Nat) (rest : List Pick), s.agenda = .issue c k :: rest →
    let u : State := { s with agenda := rest }
    let t := u.ctx c k
    let w := (u.wordAt c t).toNat
    let waits := ∃ r cause info fb epc insn, t.wait = .trap r cause info fb epc insn
    let traps := fun (cause info : Nat) => t.var = [] → t.killed = false →
      ∃ v, step s = .next v ∧ (v.ctx c k).faulta.toNat % 2 ^ 8 = cause ∧ (v.ctx c k).faulta.toNat / 2 ^ 8 % 2 ^ 16 = t.pc.toNat ∧
        (v.ctx c k).faulta.toNat / 2 ^ 24 % 2 ^ 16 = info ∧ (v.ctx c k).faultb = 0 ∧ v.mem = s.mem
    (u.mayIssue c k = false → step s = .next u) ∧
    (∀ r cause info fb epc insn, u.mayIssue c k = true → t.wait = .trap r cause info fb epc insn → t.killed = false →
      cause < 2 ^ 8 → info < 2 ^ 16 → epc < 2 ^ 16 →
      ∃ v, step s = .next v ∧ (v.ctx c k).faulta.toNat % 2 ^ 8 = cause ∧ (v.ctx c k).faulta.toNat / 2 ^ 8 % 2 ^ 16 = epc ∧
        (v.ctx c k).faulta.toNat / 2 ^ 24 % 2 ^ 16 = info ∧ (v.ctx c k).faultb = fb ∧ v.mem = s.mem) ∧
    (u.mayIssue c k = true → ¬waits → t.poisoned = true → traps 0x13 1) ∧
    (u.mayIssue c k = true → ¬waits → t.poisoned = false → u.fetchPoison c t = true → traps 0x13 2) ∧
    (u.mayIssue c k = true → ¬waits → t.poisoned = false → u.fetchPoison c t = false →
      (∀ i, decodeWord w = .ok i → step s = exec i (u.atIssue c k)) ∧ (decodeWord w = .illegal → traps 0x01 0) ∧
      (decodeWord w = .reserved → traps 0x02 0))) ∧
  (∀ (s : State) (i : Instr) (rest : List Pick), s.agenda = .event i :: rest → step s = exec i { s with agenda := rest }) ∧
  (∀ (s : State) (c k : Nat) (h : HomeCore) (rest : Map HomeCore) (i : Instr) (t : State), s.agenda = [] → s.cores = (c, h) :: rest →
    s.mayIssue c k = true → (∀ r cause info fb epc insn, (s.ctx c k).wait ≠ .trap r cause info fb epc insn) → (s.ctx c k).poisoned = false →
    s.fetchPoison c (s.ctx c k) = false → decodeWord (s.wordAt c (s.ctx c k)).toNat = .ok i → exec i (s.atIssue c k) = .next t →
    t ≠ s.atIssue c k → { t with curCore := s.curCore, curCtx := s.curCtx } ≠ s → step s = .next t) ∧
  (∀ (s : State) (cycles : Nat) (ns : List Nat) (rest : List Pick), s.agenda = .tick cycles ns :: rest →
    let u : State := { s with agenda := rest }
    let now := fun (d : Nat) => s.timeOf d + nth 0 ns d
    let later : State := { u with cycle := s.cycle + cycles }
    ∃ t, step s = .next t ∧ t.mem = s.mem ∧ t.agenda = rest ∧
      (∀ c k, { t.ctx c k with age := (s.ctx c k).age, promoted := (s.ctx c k).promoted } = s.ctx c k) ∧
      (t = u ∨
        (t.cycle = s.cycle + cycles ∧ (∀ d, d < 4 → t.timeOf d = now d) ∧
          (∀ x ∈ s.chans, ∀ r ∈ x.reqs, r.timed = true → ∀ e, r.exp = some e → s.timeOf (agentDie r.agent) < e → now (agentDie r.agent) < e) ∧
          (∀ e ∈ s.cores, ∀ l ∈ e.2.l1, l.isDirty = true → s.timeOf (dieOf e.1) + 2000 ≤ l.exp → now (dieOf e.1) + 2000 ≤ l.exp) ∧
          (∀ e ∈ s.cores, ∀ x ∈ e.2.ctxs, u.readyTask e.1 x.2 = true → u.issueHeld e.1 x.1 = false → e.2.issuedAt ≠ some s.cycle →
            u.wantsCore e.1 = false → (u.core e.1).issuedAt ≠ some s.cycle → x.2.age + cycles ≤ (u.core e.1).agelim.toNat % 2 ^ 16) ∧
          (∀ c k x, (s.core c).ctxs.find? k = some x → later.readyTask c x = true → later.issueHeld c k = false →
            (s.core c).chosen = none → x.readyAt ≤ s.cycle → (t.ctx c k).age = x.age + cycles) ∧
          (∀ c k x, (s.core c).ctxs.find? k = some x → later.readyTask c x = false → (t.ctx c k).age = 0 ∧ (t.ctx c k).promoted = false)))) ∧
  (∀ (s : State) (w : W32),
    let handled := s.cur.tvec.getLsbD 16 = true ∧ s.cur.th = false
    s.cur.var = [] → (handled ∨ s.cur.killed = false) →
    ∃ t, exec (.illegalEncoding w) s = .next t ∧ t.cur.faulta.toNat % 2 ^ 8 = 1 ∧ t.cur.faulta.toNat / 2 ^ 8 % 2 ^ 16 = s.cur.pc.toNat ∧ t.mem = s.mem ∧
      (handled → t.cur.pc.toNat = s.cur.tvec.toNat / 2 ^ 2 % 2 ^ 14 * 4 ∧ t.cur.th = true ∧ t.faults = s.faults) ∧
      (¬handled → t.cur.phase = .faulted ∧ ∃ r : FaultRec, t.faults = s.faults ++ [r] ∧ nth 0 r.words 5 = w64 w.toNat))

/-- R139, R140: a context that may issue is ready, and it comes before every ready context that could issue as well: promoted contexts first,
the oldest of them first, then by role, the oldest first within a role, equal ages going to the lower number. A context that has yielded in the cycle before (R220) is compared with another such one. -/
def Obligations.IssueOrder : Prop :=
  ∀ (s : State) (c k j : Nat), (s.core c).ctxs.Pairwise (fun x y => x.1 ≠ y.1) → s.mayIssue c k = true → s.ready c j = true →
    j ∈ (s.core c).ctxs.map (·.1) → s.issueHeld c j = false → j ≠ k →
    let late := fun (x : Nat) => (s.ctx c x).yielded.any (fun y => y + 1 == s.cycle)
    late k = late j →
    let lim := (s.core c).agelim.toNat % 2 ^ 16
    let old := fun (x : Nat) => (s.ctx c x).promoted = true ∨ lim - 16 ≤ (s.ctx c x).age
    let older := (s.ctx c j).age < (s.ctx c k).age ∨ ((s.ctx c j).age = (s.ctx c k).age ∧ k < j)
    s.ready c k = true ∧
      ((old k ∧ ¬old j) ∨ (old k ∧ old j ∧ older) ∨
        (¬old k ∧ ¬old j ∧ ((s.ctx c k).role < (s.ctx c j).role ∨ ((s.ctx c k).role = (s.ctx c j).role ∧ older))))

/-- R34, R106, R108, R115, R141, R409, R474, R484, R486, R491: after reset every byte of HBM and of the scratchpads reads zero and none is
poisoned, every context is free, domain time is 0 on every die, AGELIM is 256 and KVRING 0, FTO is 10,000 and the governor's limit 3,600 W at
the fastest clock, and the queues, the masks and the service requests are 0. Register x0 reads zero, and a write to it writes nothing. -/
def Obligations.ResetValues : Prop :=
  State.reset.MemoryForm ∧
  (∀ a, Memory.byte State.reset.mem a = 0 ∧ NatSet.has State.reset.poison a = false) ∧
  (∀ c a, Memory.byte (State.reset.core c).spad a = 0 ∧ NatSet.has (State.reset.core c).spadPoison a = false ∧
    (State.reset.core c).agelim = 256 ∧ (State.reset.core c).kvring = 0) ∧
  (∀ c k, (State.reset.ctx c k).phase = .free) ∧ (∀ d, State.reset.timeOf d = 0) ∧
  State.reset.reg pFabctl = w64 (10000 * 2 ^ 24) ∧ State.reset.reg 0x8000D00210 = w64 (19 * 2 ^ 16 + 3600) ∧
  (∀ q, q < 256 → State.reset.reg (pQctl q) = 0 ∧ State.reset.reg (pQtail q) = 0 ∧ State.reset.reg (pQhead q) = 0) ∧
  (∀ d j, d < 4 → j < 16 → State.reset.reg (pDismask d j) = 0 ∧ State.reset.reg (devBase d + 0x00D00000 + 8 * j) = 0) ∧
  (∀ (s : State) (v : W64), s.X 0 = 0 ∧ ∀ i, (s.putX 0 v).X i = s.X i)

/-- R91 to R97 and the encoding tables: words written out from the fields of each format decode to the instructions they stand for, and words
with an unassigned or a reserved field are rejected. -/
def Obligations.DecodeWords : Prop :=
  decodeWord 0x008C8501 = .ok (.sub 0 3 4 5) ∧ decodeWord 0x049CF003 = .ok (.srai 0 7 7 3) ∧ decodeWord 0x02194207 = .ok (.bext 0 6 10 8 7) ∧
  decodeWord 0x0F94C0B3 = .ok (.ldx 0 5 6 1 3 0 3) ∧ decodeWord 0x120128A3 = .ok (.stx 0 9 8 1 2 3) ∧ decodeWord 0x1D940020 = .ok (.csrr 0 5 0x020) ∧
  decodeWord 0x1E00A000 = .ok (.trap 0 5) ∧ decodeWord 0x1E14C010 = .ok (.resume 0 5 6 0) ∧ decodeWord 0x1E14C011 = .ok (.tkill 0 5 6 0) ∧
  decodeWord 0x1C94C700 = .ok (.kvhome 0 5 6 7) ∧ decodeWord 0x1C9A0080 = .ok (.vsgn 0 3 4 0) ∧
  decodeWord 0 = .illegal ∧ decodeWord 0x00800030 = .illegal

/-- Decoding and encoding agree: the word that the encoding tables give a well-formed instruction is a word of 32 bits, and it decodes to that
instruction, with every operand at every value that the encoding admits. -/
def Obligations.DecodeEncode : Prop :=
  ∀ (i : Instr) (w : Nat), i.wellFormed = true → encode i = some w → w < 2 ^ 32 ∧ decodeWord w = .ok i

/-- Every step keeps the canonical form of every memory, in every state, those that no run reaches among them. -/
def Obligations.MemoryFormKept : Prop :=
  ∀ (s t : State), s.MemoryForm → step s = .next t → t.MemoryForm
end

