-- ==== Sys2Proof/Laws/Exec.lean ====
section
/-!
SUPPORT. Sys2Proof/Laws/Exec.lean: `exec` of each instruction is its meaning.
-/
namespace Sys2Proof.Machine

variable (s : State)

theorem exec_add (st : Fin 8) (rd rs1 rs2 : Fin 32) : exec (.add st rd rs1 rs2) s = execAdd st rd rs1 rs2 s := rfl
theorem exec_sub (st : Fin 8) (rd rs1 rs2 : Fin 32) : exec (.sub st rd rs1 rs2) s = execSub st rd rs1 rs2 s := rfl
theorem exec_and (st : Fin 8) (rd rs1 rs2 : Fin 32) : exec (.and st rd rs1 rs2) s = execAnd st rd rs1 rs2 s := rfl
theorem exec_or (st : Fin 8) (rd rs1 rs2 : Fin 32) : exec (.or st rd rs1 rs2) s = execOr st rd rs1 rs2 s := rfl
theorem exec_xor (st : Fin 8) (rd rs1 rs2 : Fin 32) : exec (.xor st rd rs1 rs2) s = execXor st rd rs1 rs2 s := rfl
theorem exec_sll (st : Fin 8) (rd rs1 rs2 : Fin 32) : exec (.sll st rd rs1 rs2) s = execSll st rd rs1 rs2 s := rfl
theorem exec_srl (st : Fin 8) (rd rs1 rs2 : Fin 32) : exec (.srl st rd rs1 rs2) s = execSrl st rd rs1 rs2 s := rfl
theorem exec_sra (st : Fin 8) (rd rs1 rs2 : Fin 32) : exec (.sra st rd rs1 rs2) s = execSra st rd rs1 rs2 s := rfl
theorem exec_min (st : Fin 8) (rd rs1 rs2 : Fin 32) : exec (.min st rd rs1 rs2) s = execMin st rd rs1 rs2 s := rfl
theorem exec_max (st : Fin 8) (rd rs1 rs2 : Fin 32) : exec (.max st rd rs1 rs2) s = execMax st rd rs1 rs2 s := rfl
theorem exec_minu (st : Fin 8) (rd rs1 rs2 : Fin 32) : exec (.minu st rd rs1 rs2) s = execMinu st rd rs1 rs2 s := rfl
theorem exec_maxu (st : Fin 8) (rd rs1 rs2 : Fin 32) : exec (.maxu st rd rs1 rs2) s = execMaxu st rd rs1 rs2 s := rfl
theorem exec_clz (st : Fin 8) (rd rs1 : Fin 32) : exec (.clz st rd rs1) s = execClz st rd rs1 s := rfl
theorem exec_ctz (st : Fin 8) (rd rs1 : Fin 32) : exec (.ctz st rd rs1) s = execCtz st rd rs1 s := rfl
theorem exec_popc (st : Fin 8) (rd rs1 : Fin 32) : exec (.popc st rd rs1) s = execPopc st rd rs1 s := rfl
theorem exec_cset (st : Fin 8) (rd rs1 rs2 : Fin 32) (cond : Fin 8) :
    exec (.cset st rd rs1 rs2 cond) s = execCset st rd rs1 rs2 cond s := rfl
theorem exec_csetm (st : Fin 8) (rd rs1 rs2 : Fin 32) (cond : Fin 8) :
    exec (.csetm st rd rs1 rs2 cond) s = execCsetm st rd rs1 rs2 cond s := rfl
theorem exec_add32 (st : Fin 8) (rd rs1 rs2 : Fin 32) : exec (.add32 st rd rs1 rs2) s = execAdd32 st rd rs1 rs2 s := rfl
theorem exec_sub32 (st : Fin 8) (rd rs1 rs2 : Fin 32) : exec (.sub32 st rd rs1 rs2) s = execSub32 st rd rs1 rs2 s := rfl
theorem exec_sll32 (st : Fin 8) (rd rs1 rs2 : Fin 32) : exec (.sll32 st rd rs1 rs2) s = execSll32 st rd rs1 rs2 s := rfl
theorem exec_srl32 (st : Fin 8) (rd rs1 rs2 : Fin 32) : exec (.srl32 st rd rs1 rs2) s = execSrl32 st rd rs1 rs2 s := rfl
theorem exec_sra32 (st : Fin 8) (rd rs1 rs2 : Fin 32) : exec (.sra32 st rd rs1 rs2) s = execSra32 st rd rs1 rs2 s := rfl
theorem exec_add32z (st : Fin 8) (rd rs1 rs2 : Fin 32) : exec (.add32z st rd rs1 rs2) s = execAdd32z st rd rs1 rs2 s := rfl
theorem exec_sub32z (st : Fin 8) (rd rs1 rs2 : Fin 32) : exec (.sub32z st rd rs1 rs2) s = execSub32z st rd rs1 rs2 s := rfl
theorem exec_sll32z (st : Fin 8) (rd rs1 rs2 : Fin 32) : exec (.sll32z st rd rs1 rs2) s = execSll32z st rd rs1 rs2 s := rfl
theorem exec_srl32z (st : Fin 8) (rd rs1 rs2 : Fin 32) : exec (.srl32z st rd rs1 rs2) s = execSrl32z st rd rs1 rs2 s := rfl
theorem exec_sra32z (st : Fin 8) (rd rs1 rs2 : Fin 32) : exec (.sra32z st rd rs1 rs2) s = execSra32z st rd rs1 rs2 s := rfl
theorem exec_mul (st : Fin 8) (rd rs1 rs2 : Fin 32) : exec (.mul st rd rs1 rs2) s = execMul st rd rs1 rs2 s := rfl
theorem exec_mulh (st : Fin 8) (rd rs1 rs2 : Fin 32) : exec (.mulh st rd rs1 rs2) s = execMulh st rd rs1 rs2 s := rfl
theorem exec_mulhu (st : Fin 8) (rd rs1 rs2 : Fin 32) : exec (.mulhu st rd rs1 rs2) s = execMulhu st rd rs1 rs2 s := rfl
theorem exec_div (st : Fin 8) (rd rs1 rs2 : Fin 32) : exec (.div st rd rs1 rs2) s = execDiv st rd rs1 rs2 s := rfl
theorem exec_divu (st : Fin 8) (rd rs1 rs2 : Fin 32) : exec (.divu st rd rs1 rs2) s = execDivu st rd rs1 rs2 s := rfl
theorem exec_rem (st : Fin 8) (rd rs1 rs2 : Fin 32) : exec (.rem st rd rs1 rs2) s = execRem st rd rs1 rs2 s := rfl
theorem exec_remu (st : Fin 8) (rd rs1 rs2 : Fin 32) : exec (.remu st rd rs1 rs2) s = execRemu st rd rs1 rs2 s := rfl
theorem exec_bext (st : Fin 8) (rd rs1 : Fin 32) (lo len1 : Fin 64) :
    exec (.bext st rd rs1 lo len1) s = execBext st rd rs1 lo len1 s := rfl
theorem exec_bins (st : Fin 8) (rd rs1 : Fin 32) (lo len1 : Fin 64) :
    exec (.bins st rd rs1 lo len1) s = execBins st rd rs1 lo len1 s := rfl
theorem exec_addi (st : Fin 8) (rd rs1 : Fin 32) (imm : BitVec 13) :
    exec (.addi st rd rs1 imm) s = execAddi st rd rs1 imm s := rfl
theorem exec_andi (st : Fin 8) (rd rs1 : Fin 32) (imm : BitVec 13) :
    exec (.andi st rd rs1 imm) s = execAndi st rd rs1 imm s := rfl
theorem exec_ori (st : Fin 8) (rd rs1 : Fin 32) (imm : BitVec 13) : exec (.ori st rd rs1 imm) s = execOri st rd rs1 imm s := rfl
theorem exec_xori (st : Fin 8) (rd rs1 : Fin 32) (imm : BitVec 13) :
    exec (.xori st rd rs1 imm) s = execXori st rd rs1 imm s := rfl
theorem exec_slli (st : Fin 8) (rd rs1 : Fin 32) (sh : Fin 64) : exec (.slli st rd rs1 sh) s = execSlli st rd rs1 sh s := rfl
theorem exec_srli (st : Fin 8) (rd rs1 : Fin 32) (sh : Fin 64) : exec (.srli st rd rs1 sh) s = execSrli st rd rs1 sh s := rfl
theorem exec_srai (st : Fin 8) (rd rs1 : Fin 32) (sh : Fin 64) : exec (.srai st rd rs1 sh) s = execSrai st rd rs1 sh s := rfl
theorem exec_clti (st : Fin 8) (rd rs1 : Fin 32) (imm : BitVec 13) :
    exec (.clti st rd rs1 imm) s = execClti st rd rs1 imm s := rfl
theorem exec_cltiu (st : Fin 8) (rd rs1 : Fin 32) (imm : BitVec 13) :
    exec (.cltiu st rd rs1 imm) s = execCltiu st rd rs1 imm s := rfl
theorem exec_addi32 (st : Fin 8) (rd rs1 : Fin 32) (imm : BitVec 13) :
    exec (.addi32 st rd rs1 imm) s = execAddi32 st rd rs1 imm s := rfl
theorem exec_immhi (st : Fin 8) (rd : Fin 32) (imm : BitVec 18) : exec (.immhi st rd imm) s = execImmhi st rd imm s := rfl
theorem exec_pcofs (st : Fin 8) (rd : Fin 32) (imm : BitVec 18) : exec (.pcofs st rd imm) s = execPcofs st rd imm s := rfl
theorem exec_fadd (st : Fin 8) (rd rs1 rs2 : Fin 32) : exec (.fadd st rd rs1 rs2) s = execFadd st rd rs1 rs2 s := rfl
theorem exec_fsub (st : Fin 8) (rd rs1 rs2 : Fin 32) : exec (.fsub st rd rs1 rs2) s = execFsub st rd rs1 rs2 s := rfl
theorem exec_fmul (st : Fin 8) (rd rs1 rs2 : Fin 32) : exec (.fmul st rd rs1 rs2) s = execFmul st rd rs1 rs2 s := rfl
theorem exec_fmin (st : Fin 8) (rd rs1 rs2 : Fin 32) : exec (.fmin st rd rs1 rs2) s = execFmin st rd rs1 rs2 s := rfl
theorem exec_fmax (st : Fin 8) (rd rs1 rs2 : Fin 32) : exec (.fmax st rd rs1 rs2) s = execFmax st rd rs1 rs2 s := rfl
theorem exec_feq (st : Fin 8) (rd rs1 rs2 : Fin 32) : exec (.feq st rd rs1 rs2) s = execFeq st rd rs1 rs2 s := rfl
theorem exec_flt (st : Fin 8) (rd rs1 rs2 : Fin 32) : exec (.flt st rd rs1 rs2) s = execFlt st rd rs1 rs2 s := rfl
theorem exec_fle (st : Fin 8) (rd rs1 rs2 : Fin 32) : exec (.fle st rd rs1 rs2) s = execFle st rd rs1 rs2 s := rfl
theorem exec_fclass (st : Fin 8) (rd rs1 : Fin 32) : exec (.fclass st rd rs1) s = execFclass st rd rs1 s := rfl
theorem exec_fsign (st : Fin 8) (rd rs1 rs2 : Fin 32) : exec (.fsign st rd rs1 rs2) s = execFsign st rd rs1 rs2 s := rfl
theorem exec_fdiv (st : Fin 8) (rd rs1 rs2 : Fin 32) : exec (.fdiv st rd rs1 rs2) s = execFdiv st rd rs1 rs2 s := rfl
theorem exec_fsqrt (st : Fin 8) (rd rs1 : Fin 32) : exec (.fsqrt st rd rs1) s = execFsqrt st rd rs1 s := rfl
theorem exec_fabs (st : Fin 8) (rd rs1 : Fin 32) : exec (.fabs st rd rs1) s = execFabs st rd rs1 s := rfl
theorem exec_fneg (st : Fin 8) (rd rs1 : Fin 32) : exec (.fneg st rd rs1) s = execFneg st rd rs1 s := rfl
theorem exec_fcvt (st : Fin 8) (rd rs1 : Fin 32) (k : Fin 16) : exec (.fcvt st rd rs1 k) s = execFcvt st rd rs1 k s := rfl
theorem exec_fmadd (st : Fin 8) (rd rs1 rs2 rs3 : Fin 32) :
    exec (.fmadd st rd rs1 rs2 rs3) s = execFmadd st rd rs1 rs2 rs3 s := rfl
theorem exec_beq (st : Fin 8) (rs1 rs2 : Fin 32) (off : BitVec 13) :
    exec (.beq st rs1 rs2 off) s = execBeq st rs1 rs2 off s := rfl
theorem exec_bne (st : Fin 8) (rs1 rs2 : Fin 32) (off : BitVec 13) :
    exec (.bne st rs1 rs2 off) s = execBne st rs1 rs2 off s := rfl
theorem exec_blt (st : Fin 8) (rs1 rs2 : Fin 32) (off : BitVec 13) :
    exec (.blt st rs1 rs2 off) s = execBlt st rs1 rs2 off s := rfl
theorem exec_bge (st : Fin 8) (rs1 rs2 : Fin 32) (off : BitVec 13) :
    exec (.bge st rs1 rs2 off) s = execBge st rs1 rs2 off s := rfl
theorem exec_bltu (st : Fin 8) (rs1 rs2 : Fin 32) (off : BitVec 13) :
    exec (.bltu st rs1 rs2 off) s = execBltu st rs1 rs2 off s := rfl
theorem exec_bgeu (st : Fin 8) (rs1 rs2 : Fin 32) (off : BitVec 13) :
    exec (.bgeu st rs1 rs2 off) s = execBgeu st rs1 rs2 off s := rfl
theorem exec_jal (st : Fin 8) (rd : Fin 32) (off : BitVec 18) : exec (.jal st rd off) s = execJal st rd off s := rfl
theorem exec_jalr (st : Fin 8) (rd rs1 : Fin 32) (imm : BitVec 13) :
    exec (.jalr st rd rs1 imm) s = execJalr st rd rs1 imm s := rfl
theorem exec_lb (st : Fin 8) (rd rs1 : Fin 32) (imm : BitVec 13) : exec (.lb st rd rs1 imm) s = execLb st rd rs1 imm s := rfl
theorem exec_lh (st : Fin 8) (rd rs1 : Fin 32) (imm : BitVec 13) : exec (.lh st rd rs1 imm) s = execLh st rd rs1 imm s := rfl
theorem exec_lw (st : Fin 8) (rd rs1 : Fin 32) (imm : BitVec 13) : exec (.lw st rd rs1 imm) s = execLw st rd rs1 imm s := rfl
theorem exec_ld (st : Fin 8) (rd rs1 : Fin 32) (imm : BitVec 13) : exec (.ld st rd rs1 imm) s = execLd st rd rs1 imm s := rfl
theorem exec_lbu (st : Fin 8) (rd rs1 : Fin 32) (imm : BitVec 13) : exec (.lbu st rd rs1 imm) s = execLbu st rd rs1 imm s := rfl
theorem exec_lhu (st : Fin 8) (rd rs1 : Fin 32) (imm : BitVec 13) : exec (.lhu st rd rs1 imm) s = execLhu st rd rs1 imm s := rfl
theorem exec_lwu (st : Fin 8) (rd rs1 : Fin 32) (imm : BitVec 13) : exec (.lwu st rd rs1 imm) s = execLwu st rd rs1 imm s := rfl
theorem exec_ldx (st : Fin 8) (rd rs1 : Fin 32) (ord : Fin 2) (scope : Fin 8) (uns : Fin 2) (size : Fin 4) :
    exec (.ldx st rd rs1 ord scope uns size) s = execLdx st rd rs1 ord scope uns size s := rfl
theorem exec_sb (st : Fin 8) (rs1 rs2 : Fin 32) (imm : BitVec 13) : exec (.sb st rs1 rs2 imm) s = execSb st rs1 rs2 imm s := rfl
theorem exec_sh (st : Fin 8) (rs1 rs2 : Fin 32) (imm : BitVec 13) : exec (.sh st rs1 rs2 imm) s = execSh st rs1 rs2 imm s := rfl
theorem exec_sw (st : Fin 8) (rs1 rs2 : Fin 32) (imm : BitVec 13) : exec (.sw st rs1 rs2 imm) s = execSw st rs1 rs2 imm s := rfl
theorem exec_sd (st : Fin 8) (rs1 rs2 : Fin 32) (imm : BitVec 13) : exec (.sd st rs1 rs2 imm) s = execSd st rs1 rs2 imm s := rfl
theorem exec_stx (st : Fin 8) (rs1 rs2 : Fin 32) (ord : Fin 2) (scope : Fin 8) (size : Fin 4) :
    exec (.stx st rs1 rs2 ord scope size) s = execStx st rs1 rs2 ord scope size s := rfl
theorem exec_amoadd (st : Fin 8) (rd rs1 rs2 : Fin 32) (ord : Fin 8) :
    exec (.amoadd st rd rs1 rs2 ord) s = execAmoadd st rd rs1 rs2 ord s := rfl
theorem exec_amoaddw (st : Fin 8) (rd rs1 rs2 : Fin 32) (ord : Fin 8) :
    exec (.amoaddw st rd rs1 rs2 ord) s = execAmoaddw st rd rs1 rs2 ord s := rfl
theorem exec_amoand (st : Fin 8) (rd rs1 rs2 : Fin 32) (ord : Fin 8) :
    exec (.amoand st rd rs1 rs2 ord) s = execAmoand st rd rs1 rs2 ord s := rfl
theorem exec_amoandw (st : Fin 8) (rd rs1 rs2 : Fin 32) (ord : Fin 8) :
    exec (.amoandw st rd rs1 rs2 ord) s = execAmoandw st rd rs1 rs2 ord s := rfl
theorem exec_amoor (st : Fin 8) (rd rs1 rs2 : Fin 32) (ord : Fin 8) :
    exec (.amoor st rd rs1 rs2 ord) s = execAmoor st rd rs1 rs2 ord s := rfl
theorem exec_amoorw (st : Fin 8) (rd rs1 rs2 : Fin 32) (ord : Fin 8) :
    exec (.amoorw st rd rs1 rs2 ord) s = execAmoorw st rd rs1 rs2 ord s := rfl
theorem exec_amoxor (st : Fin 8) (rd rs1 rs2 : Fin 32) (ord : Fin 8) :
    exec (.amoxor st rd rs1 rs2 ord) s = execAmoxor st rd rs1 rs2 ord s := rfl
theorem exec_amoxorw (st : Fin 8) (rd rs1 rs2 : Fin 32) (ord : Fin 8) :
    exec (.amoxorw st rd rs1 rs2 ord) s = execAmoxorw st rd rs1 rs2 ord s := rfl
theorem exec_amomin (st : Fin 8) (rd rs1 rs2 : Fin 32) (ord : Fin 8) :
    exec (.amomin st rd rs1 rs2 ord) s = execAmomin st rd rs1 rs2 ord s := rfl
theorem exec_amominw (st : Fin 8) (rd rs1 rs2 : Fin 32) (ord : Fin 8) :
    exec (.amominw st rd rs1 rs2 ord) s = execAmominw st rd rs1 rs2 ord s := rfl
theorem exec_amomax (st : Fin 8) (rd rs1 rs2 : Fin 32) (ord : Fin 8) :
    exec (.amomax st rd rs1 rs2 ord) s = execAmomax st rd rs1 rs2 ord s := rfl
theorem exec_amomaxw (st : Fin 8) (rd rs1 rs2 : Fin 32) (ord : Fin 8) :
    exec (.amomaxw st rd rs1 rs2 ord) s = execAmomaxw st rd rs1 rs2 ord s := rfl
theorem exec_amominu (st : Fin 8) (rd rs1 rs2 : Fin 32) (ord : Fin 8) :
    exec (.amominu st rd rs1 rs2 ord) s = execAmominu st rd rs1 rs2 ord s := rfl
theorem exec_amominuw (st : Fin 8) (rd rs1 rs2 : Fin 32) (ord : Fin 8) :
    exec (.amominuw st rd rs1 rs2 ord) s = execAmominuw st rd rs1 rs2 ord s := rfl
theorem exec_amomaxu (st : Fin 8) (rd rs1 rs2 : Fin 32) (ord : Fin 8) :
    exec (.amomaxu st rd rs1 rs2 ord) s = execAmomaxu st rd rs1 rs2 ord s := rfl
theorem exec_amomaxuw (st : Fin 8) (rd rs1 rs2 : Fin 32) (ord : Fin 8) :
    exec (.amomaxuw st rd rs1 rs2 ord) s = execAmomaxuw st rd rs1 rs2 ord s := rfl
theorem exec_amoswap (st : Fin 8) (rd rs1 rs2 : Fin 32) (ord : Fin 8) :
    exec (.amoswap st rd rs1 rs2 ord) s = execAmoswap st rd rs1 rs2 ord s := rfl
theorem exec_amoswapw (st : Fin 8) (rd rs1 rs2 : Fin 32) (ord : Fin 8) :
    exec (.amoswapw st rd rs1 rs2 ord) s = execAmoswapw st rd rs1 rs2 ord s := rfl
theorem exec_amofadd (st : Fin 8) (rd rs1 rs2 : Fin 32) (ord : Fin 8) :
    exec (.amofadd st rd rs1 rs2 ord) s = execAmofadd st rd rs1 rs2 ord s := rfl
theorem exec_cas (st : Fin 8) (rd rs1 rs2 : Fin 32) (ord : Fin 8) (rs3 : Fin 32) :
    exec (.cas st rd rs1 rs2 ord rs3) s = execCas st rd rs1 rs2 ord rs3 s := rfl
theorem exec_red (st ord : Fin 8) (rs1 rs2 : Fin 32) (rop fcode : Fin 16) :
    exec (.red st ord rs1 rs2 rop fcode) s = execRed st ord rs1 rs2 rop fcode s := rfl
theorem exec_fence (st : Fin 8) (rel acq : Fin 2) (scope : Fin 8) :
    exec (.fence st rel acq scope) s = execFence st rel acq scope s := rfl
theorem exec_cln (st : Fin 8) (rs1 rs2 : Fin 32) : exec (.cln st rs1 rs2) s = execCln st rs1 rs2 s := rfl
theorem exec_inv (st : Fin 8) (rs1 rs2 : Fin 32) : exec (.inv st rs1 rs2) s = execInv st rs1 rs2 s := rfl
theorem exec_waita (st : Fin 8) (rd rs1 rs2 : Fin 32) (scope : Fin 8) :
    exec (.waita st rd rs1 rs2 scope) s = execWaita st rd rs1 rs2 scope s := rfl
theorem exec_ldf (st : Fin 8) (rd rs1 : Fin 32) (ord : Fin 8) : exec (.ldf st rd rs1 ord) s = execLdf st rd rs1 ord s := rfl
theorem exec_stf (st : Fin 8) (rd rs1 rs2 : Fin 32) (ord : Fin 8) :
    exec (.stf st rd rs1 rs2 ord) s = execStf st rd rs1 rs2 ord s := rfl
theorem exec_spawn (st : Fin 8) (rs1 rs2 : Fin 32) : exec (.spawn st rs1 rs2) s = execSpawn st rs1 rs2 s := rfl
theorem exec_endTask (st : Fin 8) : exec (.endTask st) s = execEndTask st s := rfl
theorem exec_park (st : Fin 8) (rd rs1 rs2 : Fin 32) : exec (.park st rd rs1 rs2) s = execPark st rd rs1 rs2 s := rfl
theorem exec_yield (st : Fin 8) : exec (.yield st) s = execYield st s := rfl
theorem exec_qput (st : Fin 8) (rd rs1 rs2 : Fin 32) : exec (.qput st rd rs1 rs2) s = execQput st rd rs1 rs2 s := rfl
theorem exec_cancel (st : Fin 8) (rd rs1 : Fin 32) : exec (.cancel st rd rs1) s = execCancel st rd rs1 s := rfl
theorem exec_join (st : Fin 8) (rd rs1 : Fin 32) : exec (.join st rd rs1) s = execJoin st rd rs1 s := rfl
theorem exec_leave (st : Fin 8) (rd rs1 : Fin 32) : exec (.leave st rd rs1) s = execLeave st rd rs1 s := rfl
theorem exec_bari (st : Fin 8) (rd rs1 rs2 : Fin 32) : exec (.bari st rd rs1 rs2) s = execBari st rd rs1 rs2 s := rfl
theorem exec_barv (st : Fin 8) (rd rs1 : Fin 32) (scope : Fin 8) :
    exec (.barv st rd rs1 scope) s = execBarv st rd rs1 scope s := rfl
theorem exec_barw (st : Fin 8) (rd rs1 rs2 : Fin 32) : exec (.barw st rd rs1 rs2) s = execBarw st rd rs1 rs2 s := rfl
theorem exec_spawnb (st : Fin 8) (rd rs1 rs2 : Fin 32) : exec (.spawnb st rd rs1 rs2) s = execSpawnb st rd rs1 rs2 s := rfl
theorem exec_setbnd (st : Fin 8) (rd rs1 : Fin 32) (inc : Fin 16) :
    exec (.setbnd st rd rs1 inc) s = execSetbnd st rd rs1 inc s := rfl
theorem exec_killpt (st : Fin 8) : exec (.killpt st) s = execKillpt st s := rfl
theorem exec_improve (st : Fin 8) (rd rs1 : Fin 32) (inc : Fin 16) :
    exec (.improve st rd rs1 inc) s = execImprove st rd rs1 inc s := rfl
theorem exec_rdinc (st : Fin 8) (rd : Fin 32) (inc : Fin 16) (acq hub : Fin 2) :
    exec (.rdinc st rd inc acq hub) s = execRdinc st rd inc acq hub s := rfl
theorem exec_incset (st : Fin 8) (rd rs1 rs2 : Fin 32) : exec (.incset st rd rs1 rs2) s = execIncset st rd rs1 rs2 s := rfl
theorem exec_hire (st : Fin 8) (rd rs1 rs2 : Fin 32) : exec (.hire st rd rs1 rs2) s = execHire st rd rs1 rs2 s := rfl
theorem exec_hgw (st : Fin 8) (rs1 : Fin 32) (hg : Fin 8) : exec (.hgw st rs1 hg) s = execHgw st rs1 hg s := rfl
theorem exec_hgr (st : Fin 8) (rd : Fin 32) (hg : Fin 8) : exec (.hgr st rd hg) s = execHgr st rd hg s := rfl
theorem exec_hwait (st : Fin 8) (rd rs1 : Fin 32) (e : Fin 2) : exec (.hwait st rd rs1 e) s = execHwait st rd rs1 e s := rfl
theorem exec_hstat (st : Fin 8) (rd rs1 : Fin 32) : exec (.hstat st rd rs1) s = execHstat st rd rs1 s := rfl
theorem exec_bind (st : Fin 8) (rd rs1 rs2 : Fin 32) : exec (.bind st rd rs1 rs2) s = execBind st rd rs1 rs2 s := rfl
theorem exec_unbind (st : Fin 8) (rd rs1 rs2 : Fin 32) : exec (.unbind st rd rs1 rs2) s = execUnbind st rd rs1 rs2 s := rfl
theorem exec_burst (st : Fin 8) (rs1 rs2 : Fin 32) : exec (.burst st rs1 rs2) s = execBurst st rs1 rs2 s := rfl
theorem exec_cpwait (st : Fin 8) (rd rs1 : Fin 32) (e : Fin 2) : exec (.cpwait st rd rs1 e) s = execCpwait st rd rs1 e s := rfl
theorem exec_cpst (st : Fin 8) (rd rs1 : Fin 32) : exec (.cpst st rd rs1) s = execCpst st rd rs1 s := rfl
theorem exec_ringsub (st : Fin 8) (rd rs1 : Fin 32) : exec (.ringsub st rd rs1) s = execRingsub st rd rs1 s := rfl
theorem exec_ringstop (st : Fin 8) (rd rs1 : Fin 32) : exec (.ringstop st rd rs1) s = execRingstop st rd rs1 s := rfl
theorem exec_mrowCopy (st : Fin 8) (rd rs1 rs2 : Fin 32) :
    exec (.mrowCopy st rd rs1 rs2) s = execMrowCopy st rd rs1 rs2 s := rfl
theorem exec_mrowZero (st : Fin 8) (rd rs1 : Fin 32) : exec (.mrowZero st rd rs1) s = execMrowZero st rd rs1 s := rfl
theorem exec_lzput (st : Fin 8) (rd rs1 rs2 : Fin 32) : exec (.lzput st rd rs1 rs2) s = execLzput st rd rs1 rs2 s := rfl
theorem exec_coll (st : Fin 8) (rd rs1 : Fin 32) : exec (.coll st rd rs1) s = execColl st rd rs1 s := rfl
theorem exec_vclaimTry (st : Fin 8) (lmax lmin : Fin 4) (xd : Fin 32) :
    exec (.vclaimTry st lmax lmin xd) s = execVclaimTry st lmax lmin xd s := rfl
theorem exec_vclaimWait (st : Fin 8) (lmax lmin : Fin 4) (xd : Fin 32) :
    exec (.vclaimWait st lmax lmin xd) s = execVclaimWait st lmax lmin xd s := rfl
theorem exec_vren (st : Fin 8) (lmax lmin : Fin 4) (xd : Fin 32) :
    exec (.vren st lmax lmin xd) s = execVren st lmax lmin xd s := rfl
theorem exec_vrel (st : Fin 8) : exec (.vrel st) s = execVrel st s := rfl
theorem exec_vld (st : Fin 8) (v : Fin 16) (xs1 : Fin 32) (mk sz : Fin 4) :
    exec (.vld st v xs1 mk sz) s = execVld st v xs1 mk sz s := rfl
theorem exec_vlds (st : Fin 8) (v : Fin 16) (xs1 xs2 : Fin 32) (mk sz : Fin 4) :
    exec (.vlds st v xs1 xs2 mk sz) s = execVlds st v xs1 xs2 mk sz s := rfl
theorem exec_vldx (st : Fin 8) (v : Fin 16) (xs1 : Fin 32) (vi : Fin 16) (mk sz : Fin 4) :
    exec (.vldx st v xs1 vi mk sz) s = execVldx st v xs1 vi mk sz s := rfl
theorem exec_vst (st : Fin 8) (v : Fin 16) (xs1 : Fin 32) (mk sz : Fin 4) :
    exec (.vst st v xs1 mk sz) s = execVst st v xs1 mk sz s := rfl
theorem exec_vsts (st : Fin 8) (v : Fin 16) (xs1 xs2 : Fin 32) (mk sz : Fin 4) :
    exec (.vsts st v xs1 xs2 mk sz) s = execVsts st v xs1 xs2 mk sz s := rfl
theorem exec_vstx (st : Fin 8) (v : Fin 16) (xs1 : Fin 32) (vi : Fin 16) (mk sz : Fin 4) :
    exec (.vstx st v xs1 vi mk sz) s = execVstx st v xs1 vi mk sz s := rfl
theorem exec_vaddVv (st : Fin 8) (vd vs1 vs2 : Fin 16) (mk : Fin 4) :
    exec (.vaddVv st vd vs1 vs2 mk) s = execVaddVv st vd vs1 vs2 mk s := rfl
theorem exec_vaddVx (st : Fin 8) (vd vs1 : Fin 16) (xs : Fin 32) (mk : Fin 4) :
    exec (.vaddVx st vd vs1 xs mk) s = execVaddVx st vd vs1 xs mk s := rfl
theorem exec_vsubVv (st : Fin 8) (vd vs1 vs2 : Fin 16) (mk : Fin 4) :
    exec (.vsubVv st vd vs1 vs2 mk) s = execVsubVv st vd vs1 vs2 mk s := rfl
theorem exec_vsubVx (st : Fin 8) (vd vs1 : Fin 16) (xs : Fin 32) (mk : Fin 4) :
    exec (.vsubVx st vd vs1 xs mk) s = execVsubVx st vd vs1 xs mk s := rfl
theorem exec_vmulVv (st : Fin 8) (vd vs1 vs2 : Fin 16) (mk : Fin 4) :
    exec (.vmulVv st vd vs1 vs2 mk) s = execVmulVv st vd vs1 vs2 mk s := rfl
theorem exec_vmulVx (st : Fin 8) (vd vs1 : Fin 16) (xs : Fin 32) (mk : Fin 4) :
    exec (.vmulVx st vd vs1 xs mk) s = execVmulVx st vd vs1 xs mk s := rfl
theorem exec_vmulhVv (st : Fin 8) (vd vs1 vs2 : Fin 16) (mk : Fin 4) :
    exec (.vmulhVv st vd vs1 vs2 mk) s = execVmulhVv st vd vs1 vs2 mk s := rfl
theorem exec_vmulhVx (st : Fin 8) (vd vs1 : Fin 16) (xs : Fin 32) (mk : Fin 4) :
    exec (.vmulhVx st vd vs1 xs mk) s = execVmulhVx st vd vs1 xs mk s := rfl
theorem exec_vminVv (st : Fin 8) (vd vs1 vs2 : Fin 16) (mk : Fin 4) :
    exec (.vminVv st vd vs1 vs2 mk) s = execVminVv st vd vs1 vs2 mk s := rfl
theorem exec_vminVx (st : Fin 8) (vd vs1 : Fin 16) (xs : Fin 32) (mk : Fin 4) :
    exec (.vminVx st vd vs1 xs mk) s = execVminVx st vd vs1 xs mk s := rfl
theorem exec_vmaxVv (st : Fin 8) (vd vs1 vs2 : Fin 16) (mk : Fin 4) :
    exec (.vmaxVv st vd vs1 vs2 mk) s = execVmaxVv st vd vs1 vs2 mk s := rfl
theorem exec_vmaxVx (st : Fin 8) (vd vs1 : Fin 16) (xs : Fin 32) (mk : Fin 4) :
    exec (.vmaxVx st vd vs1 xs mk) s = execVmaxVx st vd vs1 xs mk s := rfl
theorem exec_vminuVv (st : Fin 8) (vd vs1 vs2 : Fin 16) (mk : Fin 4) :
    exec (.vminuVv st vd vs1 vs2 mk) s = execVminuVv st vd vs1 vs2 mk s := rfl
theorem exec_vminuVx (st : Fin 8) (vd vs1 : Fin 16) (xs : Fin 32) (mk : Fin 4) :
    exec (.vminuVx st vd vs1 xs mk) s = execVminuVx st vd vs1 xs mk s := rfl
theorem exec_vmaxuVv (st : Fin 8) (vd vs1 vs2 : Fin 16) (mk : Fin 4) :
    exec (.vmaxuVv st vd vs1 vs2 mk) s = execVmaxuVv st vd vs1 vs2 mk s := rfl
theorem exec_vmaxuVx (st : Fin 8) (vd vs1 : Fin 16) (xs : Fin 32) (mk : Fin 4) :
    exec (.vmaxuVx st vd vs1 xs mk) s = execVmaxuVx st vd vs1 xs mk s := rfl
theorem exec_vandVv (st : Fin 8) (vd vs1 vs2 : Fin 16) (mk : Fin 4) :
    exec (.vandVv st vd vs1 vs2 mk) s = execVandVv st vd vs1 vs2 mk s := rfl
theorem exec_vandVx (st : Fin 8) (vd vs1 : Fin 16) (xs : Fin 32) (mk : Fin 4) :
    exec (.vandVx st vd vs1 xs mk) s = execVandVx st vd vs1 xs mk s := rfl
theorem exec_vorVv (st : Fin 8) (vd vs1 vs2 : Fin 16) (mk : Fin 4) :
    exec (.vorVv st vd vs1 vs2 mk) s = execVorVv st vd vs1 vs2 mk s := rfl
theorem exec_vorVx (st : Fin 8) (vd vs1 : Fin 16) (xs : Fin 32) (mk : Fin 4) :
    exec (.vorVx st vd vs1 xs mk) s = execVorVx st vd vs1 xs mk s := rfl
theorem exec_vxorVv (st : Fin 8) (vd vs1 vs2 : Fin 16) (mk : Fin 4) :
    exec (.vxorVv st vd vs1 vs2 mk) s = execVxorVv st vd vs1 vs2 mk s := rfl
theorem exec_vxorVx (st : Fin 8) (vd vs1 : Fin 16) (xs : Fin 32) (mk : Fin 4) :
    exec (.vxorVx st vd vs1 xs mk) s = execVxorVx st vd vs1 xs mk s := rfl
theorem exec_vsllVv (st : Fin 8) (vd vs1 vs2 : Fin 16) (mk : Fin 4) :
    exec (.vsllVv st vd vs1 vs2 mk) s = execVsllVv st vd vs1 vs2 mk s := rfl
theorem exec_vsllVx (st : Fin 8) (vd vs1 : Fin 16) (xs : Fin 32) (mk : Fin 4) :
    exec (.vsllVx st vd vs1 xs mk) s = execVsllVx st vd vs1 xs mk s := rfl
theorem exec_vsrlVv (st : Fin 8) (vd vs1 vs2 : Fin 16) (mk : Fin 4) :
    exec (.vsrlVv st vd vs1 vs2 mk) s = execVsrlVv st vd vs1 vs2 mk s := rfl
theorem exec_vsrlVx (st : Fin 8) (vd vs1 : Fin 16) (xs : Fin 32) (mk : Fin 4) :
    exec (.vsrlVx st vd vs1 xs mk) s = execVsrlVx st vd vs1 xs mk s := rfl
theorem exec_vsraVv (st : Fin 8) (vd vs1 vs2 : Fin 16) (mk : Fin 4) :
    exec (.vsraVv st vd vs1 vs2 mk) s = execVsraVv st vd vs1 vs2 mk s := rfl
theorem exec_vsraVx (st : Fin 8) (vd vs1 : Fin 16) (xs : Fin 32) (mk : Fin 4) :
    exec (.vsraVx st vd vs1 xs mk) s = execVsraVx st vd vs1 xs mk s := rfl
theorem exec_vfaddVv (st : Fin 8) (vd vs1 vs2 : Fin 16) (mk : Fin 4) :
    exec (.vfaddVv st vd vs1 vs2 mk) s = execVfaddVv st vd vs1 vs2 mk s := rfl
theorem exec_vfaddVx (st : Fin 8) (vd vs1 : Fin 16) (xs : Fin 32) (mk : Fin 4) :
    exec (.vfaddVx st vd vs1 xs mk) s = execVfaddVx st vd vs1 xs mk s := rfl
theorem exec_vfsubVv (st : Fin 8) (vd vs1 vs2 : Fin 16) (mk : Fin 4) :
    exec (.vfsubVv st vd vs1 vs2 mk) s = execVfsubVv st vd vs1 vs2 mk s := rfl
theorem exec_vfsubVx (st : Fin 8) (vd vs1 : Fin 16) (xs : Fin 32) (mk : Fin 4) :
    exec (.vfsubVx st vd vs1 xs mk) s = execVfsubVx st vd vs1 xs mk s := rfl
theorem exec_vfmulVv (st : Fin 8) (vd vs1 vs2 : Fin 16) (mk : Fin 4) :
    exec (.vfmulVv st vd vs1 vs2 mk) s = execVfmulVv st vd vs1 vs2 mk s := rfl
theorem exec_vfmulVx (st : Fin 8) (vd vs1 : Fin 16) (xs : Fin 32) (mk : Fin 4) :
    exec (.vfmulVx st vd vs1 xs mk) s = execVfmulVx st vd vs1 xs mk s := rfl
theorem exec_vfmaVv (st : Fin 8) (vd vs1 vs2 : Fin 16) (mk : Fin 4) :
    exec (.vfmaVv st vd vs1 vs2 mk) s = execVfmaVv st vd vs1 vs2 mk s := rfl
theorem exec_vfmaVx (st : Fin 8) (vd vs1 : Fin 16) (xs : Fin 32) (mk : Fin 4) :
    exec (.vfmaVx st vd vs1 xs mk) s = execVfmaVx st vd vs1 xs mk s := rfl
theorem exec_vfnmaVv (st : Fin 8) (vd vs1 vs2 : Fin 16) (mk : Fin 4) :
    exec (.vfnmaVv st vd vs1 vs2 mk) s = execVfnmaVv st vd vs1 vs2 mk s := rfl
theorem exec_vfnmaVx (st : Fin 8) (vd vs1 : Fin 16) (xs : Fin 32) (mk : Fin 4) :
    exec (.vfnmaVx st vd vs1 xs mk) s = execVfnmaVx st vd vs1 xs mk s := rfl
theorem exec_vfminVv (st : Fin 8) (vd vs1 vs2 : Fin 16) (mk : Fin 4) :
    exec (.vfminVv st vd vs1 vs2 mk) s = execVfminVv st vd vs1 vs2 mk s := rfl
theorem exec_vfminVx (st : Fin 8) (vd vs1 : Fin 16) (xs : Fin 32) (mk : Fin 4) :
    exec (.vfminVx st vd vs1 xs mk) s = execVfminVx st vd vs1 xs mk s := rfl
theorem exec_vfmaxVv (st : Fin 8) (vd vs1 vs2 : Fin 16) (mk : Fin 4) :
    exec (.vfmaxVv st vd vs1 vs2 mk) s = execVfmaxVv st vd vs1 vs2 mk s := rfl
theorem exec_vfmaxVx (st : Fin 8) (vd vs1 : Fin 16) (xs : Fin 32) (mk : Fin 4) :
    exec (.vfmaxVx st vd vs1 xs mk) s = execVfmaxVx st vd vs1 xs mk s := rfl
theorem exec_vcmpVv (st : Fin 8) (kd : Fin 4) (vs1 vs2 : Fin 16) (mk : Fin 4) (cc : Fin 16) :
    exec (.vcmpVv st kd vs1 vs2 mk cc) s = execVcmpVv st kd vs1 vs2 mk cc s := rfl
theorem exec_vcmpVx (st : Fin 8) (kd : Fin 4) (vs1 : Fin 16) (xs : Fin 32) (mk : Fin 4) (cc : Fin 16) :
    exec (.vcmpVx st kd vs1 xs mk cc) s = execVcmpVx st kd vs1 xs mk cc s := rfl
theorem exec_vselVv (st : Fin 8) (vd vs1 vs2 : Fin 16) (mk : Fin 4) :
    exec (.vselVv st vd vs1 vs2 mk) s = execVselVv st vd vs1 vs2 mk s := rfl
theorem exec_vselVx (st : Fin 8) (vd vs1 : Fin 16) (xs : Fin 32) (mk : Fin 4) :
    exec (.vselVx st vd vs1 xs mk) s = execVselVx st vd vs1 xs mk s := rfl
theorem exec_vmand (st : Fin 8) (kd ka kb : Fin 4) : exec (.vmand st kd ka kb) s = execVmand st kd ka kb s := rfl
theorem exec_vmor (st : Fin 8) (kd ka kb : Fin 4) : exec (.vmor st kd ka kb) s = execVmor st kd ka kb s := rfl
theorem exec_vperm (st : Fin 8) (vd vs1 vs2 : Fin 16) (mk : Fin 4) :
    exec (.vperm st vd vs1 vs2 mk) s = execVperm st vd vs1 vs2 mk s := rfl
theorem exec_vslide (st : Fin 8) (vd vs1 : Fin 16) (xs : Fin 32) (mk : Fin 4) :
    exec (.vslide st vd vs1 xs mk) s = execVslide st vd vs1 xs mk s := rfl
theorem exec_vbcast (st : Fin 8) (vd : Fin 16) (xs : Fin 32) (mk : Fin 4) :
    exec (.vbcast st vd xs mk) s = execVbcast st vd xs mk s := rfl
theorem exec_vmvxv (st : Fin 8) (vd : Fin 16) (xs : Fin 32) : exec (.vmvxv st vd xs) s = execVmvxv st vd xs s := rfl
theorem exec_vmvvx (st : Fin 8) (vs1 : Fin 16) (xd : Fin 32) : exec (.vmvvx st vs1 xd) s = execVmvvx st vs1 xd s := rfl
theorem exec_vred (st : Fin 8) (vd vs1 : Fin 16) (mk : Fin 4) (rop : Fin 16) :
    exec (.vred st vd vs1 mk rop) s = execVred st vd vs1 mk rop s := rfl
theorem exec_vexp2 (st : Fin 8) (vd vs1 : Fin 16) (mk : Fin 4) : exec (.vexp2 st vd vs1 mk) s = execVexp2 st vd vs1 mk s := rfl
theorem exec_vlog2 (st : Fin 8) (vd vs1 : Fin 16) (mk : Fin 4) : exec (.vlog2 st vd vs1 mk) s = execVlog2 st vd vs1 mk s := rfl
theorem exec_vrcp (st : Fin 8) (vd vs1 : Fin 16) (mk : Fin 4) : exec (.vrcp st vd vs1 mk) s = execVrcp st vd vs1 mk s := rfl
theorem exec_vrsq (st : Fin 8) (vd vs1 : Fin 16) (mk : Fin 4) : exec (.vrsq st vd vs1 mk) s = execVrsq st vd vs1 mk s := rfl
theorem exec_vsqrt (st : Fin 8) (vd vs1 : Fin 16) (mk : Fin 4) : exec (.vsqrt st vd vs1 mk) s = execVsqrt st vd vs1 mk s := rfl
theorem exec_vcvt (st : Fin 8) (vd vs1 : Fin 16) (xs : Fin 32) (mk : Fin 4) (src dst : Fin 16) :
    exec (.vcvt st vd vs1 xs mk src dst) s = execVcvt st vd vs1 xs mk src dst s := rfl
theorem exec_fmt (fa fb fd : Fin 16) (sc : Fin 8) (rm : Fin 4) (sat amax : Fin 2) :
    exec (.fmt fa fb fd sc rm sat amax) s = execFmt fa fb fd sc rm sat amax s := rfl
theorem exec_waalloc (st : Fin 8) (xs : Fin 32) (wa : Fin 8) : exec (.waalloc st xs wa) s = execWaalloc st xs wa s := rfl
theorem exec_wafree (st wa : Fin 8) : exec (.wafree st wa) s = execWafree st wa s := rfl
theorem exec_waset (st : Fin 8) (xs : Fin 32) (wa : Fin 8) : exec (.waset st xs wa) s = execWaset st xs wa s := rfl
theorem exec_wapush (st : Fin 8) (vs1 : Fin 16) (w : Fin 8) : exec (.wapush st vs1 w) s = execWapush st vs1 w s := rfl
theorem exec_waread (st : Fin 8) (vd : Fin 16) (w : Fin 8) : exec (.waread st vd w) s = execWaread st vd w s := rfl
theorem exec_waclr (st wa : Fin 8) : exec (.waclr st wa) s = execWaclr st wa s := rfl
theorem exec_kvhome (st : Fin 8) (rd rs1 rs2 : Fin 32) : exec (.kvhome st rd rs1 rs2) s = execKvhome st rd rs1 rs2 s := rfl
theorem exec_stub (st : Fin 8) (rd rs1 rs2 : Fin 32) : exec (.stub st rd rs1 rs2) s = execStub st rd rs1 rs2 s := rfl
theorem exec_migrate (st : Fin 8) (rs1 rs2 : Fin 32) : exec (.migrate st rs1 rs2) s = execMigrate st rs1 rs2 s := rfl
theorem exec_vsgn (st : Fin 8) (vd vs1 : Fin 16) (mk : Fin 4) : exec (.vsgn st vd vs1 mk) s = execVsgn st vd vs1 mk s := rfl
theorem exec_vham (st : Fin 8) (kd : Fin 4) (vs1 vs2 : Fin 16) (mk : Fin 4) (r : Fin 64) :
    exec (.vham st kd vs1 vs2 mk r) s = execVham st kd vs1 vs2 mk r s := rfl
theorem exec_vdec (st : Fin 8) (rd rs1 rs2 : Fin 32) : exec (.vdec st rd rs1 rs2) s = execVdec st rd rs1 rs2 s := rfl
theorem exec_vdstat (st : Fin 8) (rd rs1 : Fin 32) (e : Fin 2) : exec (.vdstat st rd rs1 e) s = execVdstat st rd rs1 e s := rfl
theorem exec_csrr (st : Fin 8) (rd : Fin 32) (num : Fin 2048) : exec (.csrr st rd num) s = execCsrr st rd num s := rfl
theorem exec_csrw (st : Fin 8) (rd rs1 : Fin 32) (num : Fin 2048) :
    exec (.csrw st rd rs1 num) s = execCsrw st rd rs1 num s := rfl
theorem exec_csrs (st : Fin 8) (rd rs1 : Fin 32) (num : Fin 2048) :
    exec (.csrs st rd rs1 num) s = execCsrs st rd rs1 num s := rfl
theorem exec_csrc (st : Fin 8) (rd rs1 : Fin 32) (num : Fin 2048) :
    exec (.csrc st rd rs1 num) s = execCsrc st rd rs1 num s := rfl
theorem exec_trap (st : Fin 8) (code : Fin 1024) : exec (.trap st code) s = execTrap st code s := rfl
theorem exec_eret (st : Fin 8) : exec (.eret st) s = execEret st s := rfl
theorem exec_brk (st : Fin 8) (code : Fin 1024) : exec (.brk st code) s = execBrk st code s := rfl
theorem exec_ifence (st : Fin 8) (rs1 : Fin 32) : exec (.ifence st rs1) s = execIfence st rs1 s := rfl
theorem exec_ovld (st : Fin 8) (rd rs1 : Fin 32) : exec (.ovld st rd rs1) s = execOvld st rd rs1 s := rfl
theorem exec_lwait (st : Fin 8) (rd rs1 : Fin 32) : exec (.lwait st rd rs1) s = execLwait st rd rs1 s := rfl
theorem exec_resume (st : Fin 8) (rd rs1 rs2 : Fin 32) : exec (.resume st rd rs1 rs2) s = execResume st rd rs1 rs2 s := rfl
theorem exec_tkill (st : Fin 8) (rd rs1 rs2 : Fin 32) : exec (.tkill st rd rs1 rs2) s = execTkill st rd rs1 rs2 s := rfl
theorem exec_drain (core : Nat) : exec (.drain core) s = execDrain core s := rfl
theorem exec_answer (core : Nat) (home : Home) : exec (.answer core home) s = execAnswer core home s := rfl
theorem exec_perform (agent : Agent) (home : Home) : exec (.perform agent home) s = execPerform agent home s := rfl
theorem exec_respond (home : Home) (agent : Agent) : exec (.respond home agent) s = execRespond home agent s := rfl
theorem exec_evict (core line : Nat) : exec (.evict core line) s = execEvict core line s := rfl
theorem exec_drop (portion line : Nat) : exec (.drop portion line) s = execDrop portion line s := rfl
theorem exec_engineIssue (agent : Agent) : exec (.engineIssue agent) s = execEngineIssue agent s := rfl
theorem exec_engineEvent (agent : Agent) : exec (.engineEvent agent) s = execEngineEvent agent s := rfl
theorem exec_barrierAdjust (agent : Agent) (home : Home) :
    exec (.barrierAdjust agent home) s = execBarrierAdjust agent home s := rfl
theorem exec_futureWithdraw (agent : Agent) (home : Home) :
    exec (.futureWithdraw agent home) s = execFutureWithdraw agent home s := rfl
theorem exec_qtailWrite (queue : Nat) (value : W64) : exec (.qtailWrite queue value) s = execQtailWrite queue value s := rfl
theorem exec_launchTake (queue : Nat) : exec (.launchTake queue) s = execLaunchTake queue s := rfl
theorem exec_launchStart (queue : Nat) : exec (.launchStart queue) s = execLaunchStart queue s := rfl
theorem exec_taskMessageSend (die : Nat) : exec (.taskMessageSend die) s = execTaskMessageSend die s := rfl
theorem exec_messageResend (agent : Agent) : exec (.messageResend agent) s = execMessageResend agent s := rfl
theorem exec_completionRecordWrite (launch : Nat) :
    exec (.completionRecordWrite launch) s = execCompletionRecordWrite launch s := rfl
theorem exec_cancelMark (die : Nat) : exec (.cancelMark die) s = execCancelMark die s := rfl
theorem exec_cancelArrive (core launch : Nat) : exec (.cancelArrive core launch) s = execCancelArrive core launch s := rfl
theorem exec_messageArrive (msg : Nat) : exec (.messageArrive msg) s = execMessageArrive msg s := rfl
theorem exec_rehomeHint (hint : Nat) : exec (.rehomeHint hint) s = execRehomeHint hint s := rfl
theorem exec_contextAllocate (core : Nat) : exec (.contextAllocate core) s = execContextAllocate core s := rfl
theorem exec_coreReconfigure (core : Nat) : exec (.coreReconfigure core) s = execCoreReconfigure core s := rfl
theorem exec_rqageExpire (core : Nat) : exec (.rqageExpire core) s = execRqageExpire core s := rfl
theorem exec_agePromotion (core ctx : Nat) : exec (.agePromotion core ctx) s = execAgePromotion core ctx s := rfl
theorem exec_runQueueScrub (core : Nat) : exec (.runQueueScrub core) s = execRunQueueScrub core s := rfl
theorem exec_overflowScrub (die : Nat) : exec (.overflowScrub die) s = execOverflowScrub die s := rfl
theorem exec_incumbentBroadcast (shadow bcast : Nat) :
    exec (.incumbentBroadcast shadow bcast) s = execIncumbentBroadcast shadow bcast s := rfl
theorem exec_shadowUnbind (shadow : Nat) : exec (.shadowUnbind shadow) s = execShadowUnbind shadow s := rfl
theorem exec_shadowStateInstall (shadow : Nat) : exec (.shadowStateInstall shadow) s = execShadowStateInstall shadow s := rfl
theorem exec_shadowLag (shadow inc : Nat) : exec (.shadowLag shadow inc) s = execShadowLag shadow inc s := rfl
theorem exec_hireAdmit (array : Nat) (agent : Agent) : exec (.hireAdmit array agent) s = execHireAdmit array agent s := rfl
theorem exec_operandPush (core : Nat) : exec (.operandPush core) s = execOperandPush core s := rfl
theorem exec_hireReady (array entry : Nat) : exec (.hireReady array entry) s = execHireReady array entry s := rfl
theorem exec_arrayStart (array : Nat) : exec (.arrayStart array) s = execArrayStart array s := rfl
theorem exec_hireComputeEnd (array : Nat) : exec (.hireComputeEnd array) s = execHireComputeEnd array s := rfl
theorem exec_hireLanding (array : Nat) : exec (.hireLanding array) s = execHireLanding array s := rfl
theorem exec_landingArrive (array : Nat) : exec (.landingArrive array) s = execLandingArrive array s := rfl
theorem exec_chainIdleExpire (array bank : Nat) : exec (.chainIdleExpire array bank) s = execChainIdleExpire array bank s := rfl
theorem exec_bindStore (array : Nat) : exec (.bindStore array) s = execBindStore array s := rfl
theorem exec_unbindPerform (array : Nat) (agent : Agent) :
    exec (.unbindPerform array agent) s = execUnbindPerform array agent s := rfl
theorem exec_arrayCool (array : Nat) : exec (.arrayCool array) s = execArrayCool array s := rfl
theorem exec_burstArrive (array : Nat) (agent : Agent) :
    exec (.burstArrive array agent) s = execBurstArrive array agent s := rfl
theorem exec_warmHoldExpire (array : Nat) : exec (.warmHoldExpire array) s = execWarmHoldExpire array s := rfl
theorem exec_translationWalk (slice asid : Nat) (va : W64) :
    exec (.translationWalk slice asid va) s = execTranslationWalk slice asid va s := rfl
theorem exec_leaseExpire (slice asid page : Nat) :
    exec (.leaseExpire slice asid page) s = execLeaseExpire slice asid page s := rfl
theorem exec_leaseRenew (agent : Agent) : exec (.leaseRenew agent) s = execLeaseRenew agent s := rfl
theorem exec_l1LeaseWriteback (core line : Nat) : exec (.l1LeaseWriteback core line) s = execL1LeaseWriteback core line s := rfl
theorem exec_skewCompare (die unit measured : Nat) :
    exec (.skewCompare die unit measured) s = execSkewCompare die unit measured s := rfl
theorem exec_lhznRead (core ctx : Nat) : exec (.lhznRead core ctx) s = execLhznRead core ctx s := rfl
theorem exec_dtimeRead (core ctx : Nat) : exec (.dtimeRead core ctx) s = execDtimeRead core ctx s := rfl
theorem exec_dlcfgWrite (core : Nat) (value : W64) : exec (.dlcfgWrite core value) s = execDlcfgWrite core value s := rfl
theorem exec_dirtyLogMerge (octant : Nat) : exec (.dirtyLogMerge octant) s = execDirtyLogMerge octant s := rfl
theorem exec_harvest (octant : Nat) (value : W64) : exec (.harvest octant value) s = execHarvest octant value s := rfl
theorem exec_harvestDone (octant : Nat) : exec (.harvestDone octant) s = execHarvestDone octant s := rfl
theorem exec_cpgoRead (core ctx : Nat) : exec (.cpgoRead core ctx) s = execCpgoRead core ctx s := rfl
theorem exec_copyStart (agent : Agent) : exec (.copyStart agent) s = execCopyStart agent s := rfl
theorem exec_ringSlot (stack ring : Nat) : exec (.ringSlot stack ring) s = execRingSlot stack ring s := rfl
theorem exec_ringCounterReread (stack ring : Nat) :
    exec (.ringCounterReread stack ring) s = execRingCounterReread stack ring s := rfl
theorem exec_mrowStart (agent : Agent) : exec (.mrowStart agent) s = execMrowStart agent s := rfl
theorem exec_rcp (stack src dst : Nat) : exec (.rcp stack src dst) s = execRcp stack src dst s := rfl
theorem exec_rzf (stack dst : Nat) : exec (.rzf stack dst) s = execRzf stack dst s := rfl
theorem exec_rbr (stack row : Nat) : exec (.rbr stack row) s = execRbr stack row s := rfl
theorem exec_rbw (stack row : Nat) : exec (.rbw stack row) s = execRbw stack row s := rfl
theorem exec_zoneContribution (agent : Agent) (home : Home) :
    exec (.zoneContribution agent home) s = execZoneContribution agent home s := rfl
theorem exec_zoneReadout (stack zone : Nat) : exec (.zoneReadout stack zone) s = execZoneReadout stack zone s := rfl
theorem exec_collStart (agent : Agent) : exec (.collStart agent) s = execCollStart agent s := rfl
theorem exec_collTimeout (agent : Agent) : exec (.collTimeout agent) s = execCollTimeout agent s := rfl
theorem exec_collComplete (agent : Agent) (srcs : List (List Byte)) :
    exec (.collComplete agent srcs) s = execCollComplete agent srcs s := rfl
theorem exec_decodeJobStart (engine : Nat) : exec (.decodeJobStart engine) s = execDecodeJobStart engine s := rfl
theorem exec_frameDecode (engine : Nat) : exec (.frameDecode engine) s = execFrameDecode engine s := rfl
theorem exec_frameStatus (engine : Nat) : exec (.frameStatus engine) s = execFrameStatus engine s := rfl
theorem exec_decodeRingReread (engine : Nat) : exec (.decodeRingReread engine) s = execDecodeRingReread engine s := rfl
theorem exec_faultRecordWrite (asid : Nat) : exec (.faultRecordWrite asid) s = execFaultRecordWrite asid s := rfl
theorem exec_heldRecordWrite (core : Nat) : exec (.heldRecordWrite core) s = execHeldRecordWrite core s := rfl
theorem exec_watchdog (core ctx : Nat) : exec (.watchdog core ctx) s = execWatchdog core ctx s := rfl
theorem exec_correctedError (die unit index : Nat) :
    exec (.correctedError die unit index) s = execCorrectedError die unit index s := rfl
theorem exec_uncorrectableError (die unit index detail : Nat) :
    exec (.uncorrectableError die unit index detail) s = execUncorrectableError die unit index detail s := rfl
theorem exec_preemption (core : Nat) : exec (.preemption core) s = execPreemption core s := rfl
theorem exec_launchResume (core : Nat) : exec (.launchResume core) s = execLaunchResume core s := rfl
theorem exec_lwaitWake (core ctx : Nat) : exec (.lwaitWake core ctx) s = execLwaitWake core ctx s := rfl
theorem exec_governorWindow (average : Nat) : exec (.governorWindow average) s = execGovernorWindow average s := rfl
theorem exec_linkChange (port : Nat) (up : Bool) : exec (.linkChange port up) s = execLinkChange port up s := rfl
theorem exec_flitReplay (port : Nat) : exec (.flitReplay port) s = execFlitReplay port s := rfl
theorem exec_fabricPacketArrive (module epoch seq src kind addr size : Nat) (data : List Byte) :
    exec (.fabricPacketArrive module epoch seq src kind addr size data) s = execFabricPacketArrive module epoch seq src kind addr size data s := rfl
theorem exec_fabricAck (module epoch seq : Nat) : exec (.fabricAck module epoch seq) s = execFabricAck module epoch seq s := rfl
theorem exec_fabricResend (module seq port : Nat) :
    exec (.fabricResend module seq port) s = execFabricResend module seq port s := rfl
theorem exec_sessionFail (module : Nat) : exec (.sessionFail module) s = execSessionFail module s := rfl
theorem exec_fabsyncRead : exec .fabsyncRead s = execFabsyncRead s := rfl
theorem exec_fabctlWrite (value : W64) : exec (.fabctlWrite value) s = execFabctlWrite value s := rfl
theorem exec_timePacketSend (die : Nat) : exec (.timePacketSend die) s = execTimePacketSend die s := rfl
theorem exec_timePacketArrive (die offset : Nat) :
    exec (.timePacketArrive die offset) s = execTimePacketArrive die offset s := rfl
theorem exec_timeHoldover (die : Nat) : exec (.timeHoldover die) s = execTimeHoldover die s := rfl
theorem exec_cxlMemRead (pa size : Nat) : exec (.cxlMemRead pa size) s = execCxlMemRead pa size s := rfl
theorem exec_cxlMemWrite (pa : Nat) (data : List Byte) : exec (.cxlMemWrite pa data) s = execCxlMemWrite pa data s := rfl
theorem exec_cxlIoAccess (pa size : Nat) (write : Bool) (data : List Byte) :
    exec (.cxlIoAccess pa size write data) s = execCxlIoAccess pa size write data s := rfl
theorem exec_moduleReset : exec .moduleReset s = execModuleReset s := rfl
theorem exec_fwGo (value : W64) : exec (.fwGo value) s = execFwGo value s := rfl
theorem exec_fwCommit (value : W64) : exec (.fwCommit value) s = execFwCommit value s := rfl
theorem exec_fwCheckDone : exec .fwCheckDone s = execFwCheckDone s := rfl
theorem exec_dismaskWrite (die reg : Nat) (value : W64) :
    exec (.dismaskWrite die reg value) s = execDismaskWrite die reg value s := rfl
theorem exec_dismaskRead (die reg : Nat) : exec (.dismaskRead die reg) s = execDismaskRead die reg s := rfl
theorem exec_skewclr (die : Nat) (value : W64) : exec (.skewclr die value) s = execSkewclr die value s := rfl
theorem exec_lagclr (die : Nat) (value : W64) : exec (.lagclr die value) s = execLagclr die value s := rfl
theorem exec_spdmVersion (req : List Byte) : exec (.spdmVersion req) s = execSpdmVersion req s := rfl
theorem exec_spdmCapabilities (req : List Byte) : exec (.spdmCapabilities req) s = execSpdmCapabilities req s := rfl
theorem exec_spdmAlgorithms (req : List Byte) : exec (.spdmAlgorithms req) s = execSpdmAlgorithms req s := rfl
theorem exec_spdmDigests (req : List Byte) : exec (.spdmDigests req) s = execSpdmDigests req s := rfl
theorem exec_spdmCertificate (req : List Byte) : exec (.spdmCertificate req) s = execSpdmCertificate req s := rfl
theorem exec_challenge (req : List Byte) : exec (.challenge req) s = execChallenge req s := rfl
theorem exec_spdmMeasurements (req : List Byte) : exec (.spdmMeasurements req) s = execSpdmMeasurements req s := rfl
theorem exec_keyExchange (req : List Byte) : exec (.keyExchange req) s = execKeyExchange req s := rfl
theorem exec_finish (req : List Byte) : exec (.finish req) s = execFinish req s := rfl
theorem exec_keyUpdate (req : List Byte) : exec (.keyUpdate req) s = execKeyUpdate req s := rfl
theorem exec_endSession (req : List Byte) : exec (.endSession req) s = execEndSession req s := rfl
theorem exec_deviceRegisterWrite (pa : Nat) (value : W64) :
    exec (.deviceRegisterWrite pa value) s = execDeviceRegisterWrite pa value s := rfl
theorem exec_illegalEncoding (word : W32) : exec (.illegalEncoding word) s = execIllegalEncoding word s := rfl
theorem exec_hostApertureCompletion (id : Nat) (data : List Byte) :
    exec (.hostApertureCompletion id data) s = execHostApertureCompletion id data s := rfl
theorem exec_snoop (addr : W64) : exec (.snoop addr) s = execSnoop addr s := rfl
theorem exec_cxlLinkTraining (width rate : Nat) : exec (.cxlLinkTraining width rate) s = execCxlLinkTraining width rate s := rfl
theorem exec_ideKeyProgramming (stream : Nat) (key : List Byte) :
    exec (.ideKeyProgramming stream key) s = execIdeKeyProgramming stream key s := rfl
theorem exec_deviceRegisterRead (pa : Nat) : exec (.deviceRegisterRead pa) s = execDeviceRegisterRead pa s := rfl

end Sys2Proof.Machine
end

