-- ==== Sys2Proof/Laws/Maps.lean ====
section
/-!
SUPPORT. Sys2Proof/Laws/Maps.lean: reading a finite table after writing it, and writing it twice.
-/
namespace Sys2Proof

variable {α : Type}

@[simp] theorem Map.get_set_same (d : α) (m : Map α) (i : Nat) (v : α) : (m.set i v).get d i = v := by
  induction m with
  | nil => simp [Map.set, Map.get]
  | cons e m ih =>
    obtain ⟨k, w⟩ := e
    simp only [Map.set]
    split
    · simp [Map.get]
    · split
      · simp [Map.get]
      · simp [Map.get, *]

theorem Map.get_set_ne (d : α) (m : Map α) (i j : Nat) (v : α) (h : j ≠ i) : (m.set i v).get d j = m.get d j := by
  induction m with
  | nil => simp [Map.set, Map.get, h]
  | cons e m ih =>
    obtain ⟨k, w⟩ := e
    simp only [Map.set]
    split
    · simp [Map.get, h]
    · split
      · next h1 => subst h1; simp [Map.get, h]
      · simp [Map.get, ih]

theorem Map.get_set (d : α) (m : Map α) (i j : Nat) (v : α) : (m.set i v).get d j = if j = i then v else m.get d j := by
  split
  · next h => rw [h, Map.get_set_same]
  · next h => exact Map.get_set_ne d m i j v h

@[simp] theorem Map.set_set (m : Map α) (i : Nat) (v w : α) : (m.set i v).set i w = m.set i w := by
  induction m with
  | nil => simp [Map.set]
  | cons e m ih =>
    obtain ⟨k, x⟩ := e
    simp only [Map.set]
    split
    · simp [Map.set]
    · split
      · simp [Map.set]
      · next h1 h2 => simp [Map.set, h1, h2, ih]

@[simp] theorem Map.find?_set_same (m : Map α) (i : Nat) (v : α) : (m.set i v).find? i = some v := by
  induction m with
  | nil => simp [Map.set, Map.find?]
  | cons e m ih =>
    obtain ⟨k, w⟩ := e
    simp only [Map.set]
    split
    · simp [Map.find?]
    · split
      · simp [Map.find?]
      · simp [Map.find?, *]

theorem Map.find?_set_ne (m : Map α) (i j : Nat) (v : α) (h : j ≠ i) : (m.set i v).find? j = m.find? j := by
  induction m with
  | nil => simp [Map.set, Map.find?, h]
  | cons e m ih =>
    obtain ⟨k, w⟩ := e
    simp only [Map.set]
    split
    · simp [Map.find?, h]
    · split
      · next h1 => subst h1; simp [Map.find?, h]
      · simp [Map.find?, ih]

/-- The entry of a key once every entry has been mapped, the default going to itself. -/
theorem Map.get_map (d : α) (f : α → α) (hd : f d = d) (m : Map α) (i : Nat) :
    Map.get d (m.map (fun e => (e.1, f e.2))) i = f (m.get d i) := by
  induction m with
  | nil => simp [Map.get, hd]
  | cons e m ih =>
    obtain ⟨k, w⟩ := e
    simp only [List.map_cons, Map.get]
    split
    · rfl
    · exact ih

end Sys2Proof
end

