-- ==== Sys2Proof/Laws/State.lean ====
section
/-!
SUPPORT. Sys2Proof/Laws/State.lean: the fields of the state after each of the operations that write one context or one core.
-/
namespace Sys2Proof.Machine

/-! ### Cores and contexts -/

@[simp] theorem State.core_setCore (s : State) (c : Nat) (h : HomeCore) : (s.setCore c h).core c = h := by
  simp [State.core, State.setCore]

theorem State.core_setCore_ne (s : State) (c d : Nat) (h : HomeCore) (e : d ≠ c) : (s.setCore c h).core d = s.core d := by
  simp [State.core, State.setCore, Map.get_set_ne _ _ _ _ _ e]

@[simp] theorem State.setCore_setCore (s : State) (c : Nat) (g h : HomeCore) : (s.setCore c g).setCore c h = s.setCore c h := by
  simp [State.setCore]

@[simp] theorem State.updCore_setCore (s : State) (c : Nat) (h : HomeCore) (f : HomeCore → HomeCore) :
    (s.setCore c h).updCore c f = s.setCore c (f h) := by simp [State.updCore]

@[simp] theorem State.core_updCore (s : State) (c : Nat) (f : HomeCore → HomeCore) : (s.updCore c f).core c = f (s.core c) := by
  simp [State.updCore]

@[simp] theorem State.updCore_updCore (s : State) (c : Nat) (f g : HomeCore → HomeCore) :
    (s.updCore c f).updCore c g = s.updCore c (fun h => g (f h)) := by simp [State.updCore]

@[simp] theorem HomeCore.ctx_setCtx (h : HomeCore) (k : Nat) (t : Ctx) : (h.setCtx k t).ctx k = t := by
  simp [HomeCore.ctx, HomeCore.setCtx]

@[simp] theorem HomeCore.setCtx_setCtx (h : HomeCore) (k : Nat) (t u : Ctx) : (h.setCtx k t).setCtx k u = h.setCtx k u := by
  simp [HomeCore.setCtx]

@[simp] theorem State.ctx_setCtx (s : State) (c k : Nat) (t : Ctx) : (s.setCtx c k t).ctx c k = t := by
  simp [State.setCtx, State.ctx, State.updCore]

@[simp] theorem State.setCtx_setCtx (s : State) (c k : Nat) (t u : Ctx) : (s.setCtx c k t).setCtx c k u = s.setCtx c k u := by
  simp [State.setCtx, State.updCore]

/-! ### The context at issue -/

section
variable (s : State) (t : Ctx) (f g : Ctx → Ctx)

@[simp] theorem State.setCtx_curCore (c k : Nat) : (s.setCtx c k t).curCore = s.curCore := rfl
@[simp] theorem State.setCtx_curCtx (c k : Nat) : (s.setCtx c k t).curCtx = s.curCtx := rfl
@[simp] theorem State.setCtx_cycle (c k : Nat) : (s.setCtx c k t).cycle = s.cycle := rfl
@[simp] theorem State.setCtx_mem (c k : Nat) : (s.setCtx c k t).mem = s.mem := rfl
@[simp] theorem State.setCtx_agenda (c k : Nat) : (s.setCtx c k t).agenda = s.agenda := rfl
@[simp] theorem State.setCtx_hires (c k : Nat) : (s.setCtx c k t).hires = s.hires := rfl
@[simp] theorem State.setCtx_time (c k : Nat) : (s.setCtx c k t).time = s.time := rfl
@[simp] theorem State.setCtx_nextId (c k : Nat) : (s.setCtx c k t).nextId = s.nextId := rfl
@[simp] theorem State.setCtx_free (c k : Nat) : (s.setCtx c k t).free = s.free := rfl

@[simp] theorem State.updCore_curCore (c : Nat) (h : HomeCore → HomeCore) : (s.updCore c h).curCore = s.curCore := rfl
@[simp] theorem State.updCore_curCtx (c : Nat) (h : HomeCore → HomeCore) : (s.updCore c h).curCtx = s.curCtx := rfl
@[simp] theorem State.updCore_cycle (c : Nat) (h : HomeCore → HomeCore) : (s.updCore c h).cycle = s.cycle := rfl
@[simp] theorem State.updCore_mem (c : Nat) (h : HomeCore → HomeCore) : (s.updCore c h).mem = s.mem := rfl
@[simp] theorem State.updCore_agenda (c : Nat) (h : HomeCore → HomeCore) : (s.updCore c h).agenda = s.agenda := rfl

@[simp] theorem State.updCur_curCore : (s.updCur f).curCore = s.curCore := rfl
@[simp] theorem State.updCur_curCtx : (s.updCur f).curCtx = s.curCtx := rfl
@[simp] theorem State.updCur_cycle : (s.updCur f).cycle = s.cycle := rfl
@[simp] theorem State.updCur_mem : (s.updCur f).mem = s.mem := rfl
@[simp] theorem State.updCur_agenda : (s.updCur f).agenda = s.agenda := rfl

@[simp] theorem State.cur_setCur : (s.setCur t).cur = t := by simp [State.setCur, State.cur]
@[simp] theorem State.cur_updCur : (s.updCur f).cur = f s.cur := by simp [State.updCur]
@[simp] theorem State.updCur_updCur : (s.updCur f).updCur g = s.updCur (fun t => g (f t)) := by
  simp [State.updCur, State.setCur, State.cur]

/-- What the context at issue leaves of its core. -/
theorem State.here_updCur : (s.updCur f).here = s.here.setCtx s.curCtx (f s.cur) := by
  simp [State.here, State.updCur, State.setCur, State.setCtx]

end

/-- A change of the core at issue that leaves its contexts as they are. -/
theorem State.cur_updHere (s : State) (f : HomeCore → HomeCore) (h : ∀ x, (f x).ctxs = x.ctxs) : (s.updHere f).cur = s.cur := by
  simp [State.cur, State.updHere, State.ctx, HomeCore.ctx, h]

end Sys2Proof.Machine
end

