-- ==== Sys2Proof/Laws/Frame.lean ====
section
/-!
SUPPORT. Sys2Proof/Laws/Frame.lean: what the frame of an encoded instruction does: when its operation runs, and what is left
once it has been performed.
-/
namespace Sys2Proof.Machine

/-! ### Registers and the scoreboard -/

theorem setBit_false_of (w : W64) (i : Nat) (h : w.getLsbD i = false) : setBit w i false = w := by
  ext j hj
  simp only [setBit, Bool.false_eq_true, if_false]
  by_cases e : j = i
  · subst e; simp [← BitVec.getLsbD_eq_getElem, h]
  · simp only [BitVec.getElem_and, BitVec.getElem_not, BitVec.getElem_shiftLeft]
    by_cases hlt : j < i
    · simp [hlt]
    · have : j - i ≠ 0 := by omega
      simp [hlt, this]

theorem Ctx.setPp_false_of (t : Ctx) (h : t.pp = false) : t.setPp false = t := by
  have e : setBit t.status 7 false = t.status := setBit_false_of t.status 7 h
  cases t; simp only [Ctx.setPp] at *; rw [e]

theorem Ctx.put_other (t : Ctx) (r : Reg) (v : RegVal) :
    t.put r v = { t with x := (t.put r v).x, claim := (t.put r v).claim } := by
  unfold Ctx.put; split <;> first | rfl | (split <;> rfl)

theorem Ctx.put_withPend (t : Ctx) (l : List Pend) (r : Reg) (v : RegVal) :
    ({ t with pend := l } : Ctx).put r v = { t.put r v with pend := l } := by
  cases r <;> cases v <;> simp only [Ctx.put] <;> split <;> rfl

@[simp] theorem Ctx.put_pend (t : Ctx) (r : Reg) (v : RegVal) : (t.put r v).pend = t.pend := by rw [Ctx.put_other]
@[simp] theorem Ctx.put_var (t : Ctx) (r : Reg) (v : RegVal) : (t.put r v).var = t.var := by rw [Ctx.put_other]
@[simp] theorem Ctx.put_wait (t : Ctx) (r : Reg) (v : RegVal) : (t.put r v).wait = t.wait := by rw [Ctx.put_other]
@[simp] theorem Ctx.put_phase (t : Ctx) (r : Reg) (v : RegVal) : (t.put r v).phase = t.phase := by rw [Ctx.put_other]
@[simp] theorem Ctx.put_status (t : Ctx) (r : Reg) (v : RegVal) : (t.put r v).status = t.status := by rw [Ctx.put_other]
@[simp] theorem Ctx.put_pc (t : Ctx) (r : Reg) (v : RegVal) : (t.put r v).pc = t.pc := by rw [Ctx.put_other]
@[simp] theorem Ctx.put_pp (t : Ctx) (r : Reg) (v : RegVal) : (t.put r v).pp = t.pp := by simp [Ctx.pp]

@[simp] theorem Ctx.put_bank (t : Ctx) (r : Reg) (v : RegVal) : (t.put r v).bank = t.bank := by
  rw [Ctx.put_other]; rfl

theorem Ctx.put_x (t : Ctx) (b i : Nat) (v : W64) (h : i ≠ 0) : (t.put (.x b i) (.word v)).x = t.x.set (32 * b + i) v := by
  simp [Ctx.put, h]

/-- A register that keeps no count is x0 or k0; writing x0 changes nothing. -/
theorem Ctx.put_x0 (t : Ctx) (b : Nat) (v : W64) : t.put (.x b 0) (.word v) = t := by simp [Ctx.put]

theorem Ctx.readX_put (t : Ctx) (i rd : Nat) (v : W64) :
    (t.put (.x t.bank rd) (.word v)).readX i = if i = rd ∧ rd ≠ 0 then v else t.readX i := by
  by_cases h : rd = 0
  · subst h; simp [Ctx.put_x0]
  · simp only [Ctx.readX, Ctx.put_bank, Ctx.put_x _ _ _ _ h, Map.get_set, Nat.add_left_cancel_iff]
    by_cases hi : i = 0
    · subst hi; simp [Ne.symm h]
    · by_cases e : i = rd <;> simp [hi, e, h]

/-! ### When the operation of an instruction runs -/

/-- The conditions of the frame, apart from those of `Calm`, under which an operation runs. -/
structure Desc.Clear (d : Desc) (s : State) : Prop where
  early : d.early = none
  sup   : d.sup = true → s.cur.sup = true
  lanes : d.lanes = true → s.cur.claim.isSome = true
  pool  : d.pool = true → s.poolFits = true
  kill  : d.kill = true → s.cur.killed = false
  bound : d.bound = true → s.here.boundFails s.cur = false

/-- In a calm task the operation runs once the frame is clear. -/
theorem State.run_calm {s : State} (hc : s.Calm) {d : Desc} (ht : d.target = true ∨ s.cur.pp = false) (hd : d.Clear s) (body : State → Res) :
    s.run d body =
      match body s with
      | .done s ws next => (if d.pool then s.poolTake else s).retire d ws next
      | .trap cause info fb => (if d.pool then s.poolTake else s).takeTrap d.target cause info fb
      | .hold s => s
      | .gone s => s := by
  have hi : d.interlocked s.cur = false := by simp [Desc.interlocked, hc.var]
  have hs : d.stallShort s.cur = none := by
    simp only [Desc.stallShort, hc.pend]
    split <;> simp
  unfold State.run
  rw [hd.early]
  have h1 : (d.sup && !s.cur.sup) = false := by
    cases h : d.sup <;> simp [hd.sup, h]
  have h2 : (d.lanes && s.cur.claim.isNone) = false := by
    cases h : d.lanes
    · rfl
    · have := hd.lanes h
      cases hcl : s.cur.claim <;> simp_all
  have h3 : (d.pool && !s.poolFits) = false := by
    cases h : d.pool <;> simp [hd.pool, h]
  have h4 : (d.kill && s.cur.killed) = false := by
    cases h : d.kill <;> simp [hd.kill, h]
  have h5 : (d.bound && s.cur.hiring.isNone && s.here.boundFails s.cur) = false := by
    cases h : d.bound <;> simp [hd.bound, h]
  have h6 : (s.cur.pp && !d.target) = false := by
    rcases ht with h | h <;> simp [h]
  simp only [h1, h6, hi, hs, h2, h3, h4, h5, Bool.false_eq_true, if_false]
  all_goals (cases d.pool <;> cases body s <;> simp)

theorem State.issueWith_done {s : State} (hc : s.Calm) {d : Desc} (ht : d.target = true ∨ s.cur.pp = false) (hd : d.Clear s) {body : State → Res} {s' : State}
    {ws : List Write} {next : Option Nat} (hb : body s = .done s' ws next) (hp : d.pool = false) :
    s.issueWith d body = .next (s'.retire d ws next) := by
  simp [State.issueWith, State.run_calm hc ht hd, hb, hp]

theorem State.issueWith_pool {s : State} (hc : s.Calm) {d : Desc} (ht : d.target = true ∨ s.cur.pp = false) (hd : d.Clear s) {body : State → Res} {s' : State}
    {ws : List Write} {next : Option Nat} (hb : body s = .done s' ws next) (hp : d.pool = true) :
    s.issueWith d body = .next (s'.poolTake.retire d ws next) := by
  simp [State.issueWith, State.run_calm hc ht hd, hb, hp]

theorem State.issueWith_trap {s : State} (hc : s.Calm) {d : Desc} (ht : d.target = true ∨ s.cur.pp = false) (hd : d.Clear s) {body : State → Res} {c i : Nat} {fb : W64}
    (hb : body s = .trap c i fb) (hp : d.pool = false) : s.issueWith d body = .next (s.takeTrap d.target c i fb) := by
  simp [State.issueWith, State.run_calm hc ht hd, hb, hp]

theorem State.issueWith_hold {s : State} (hc : s.Calm) {d : Desc} (ht : d.target = true ∨ s.cur.pp = false) (hd : d.Clear s) {body : State → Res} {s' : State}
    (hb : body s = .hold s') : s.issueWith d body = .next s' := by
  simp [State.issueWith, State.run_calm hc ht hd, hb]

theorem State.issueWith_gone {s : State} (hc : s.Calm) {d : Desc} (ht : d.target = true ∨ s.cur.pp = false) (hd : d.Clear s) {body : State → Res} {s' : State}
    (hb : body s = .gone s') : s.issueWith d body = .next s' := by
  simp [State.issueWith, State.run_calm hc ht hd, hb]

/-! ### What is left of the task -/

/-- Two contexts that differ in their registers and in the state of their results alone. -/
def Ctx.SameBut (t u : Ctx) : Prop := u = { t with x := u.x, claim := u.claim, pend := u.pend, var := u.var }

theorem Ctx.SameBut.refl (t : Ctx) : t.SameBut t := rfl

theorem Ctx.SameBut.trans {t u v : Ctx} (h : t.SameBut u) (g : u.SameBut v) : t.SameBut v := by
  unfold Ctx.SameBut at *
  rw [g, h]

theorem Ctx.sameBut_put (t : Ctx) (r : Reg) (v : RegVal) : t.SameBut (t.put r v) := by
  unfold Ctx.SameBut Ctx.put
  split <;> first | rfl | (split <;> rfl)

theorem Ctx.sameBut_take (t : Ctx) (w : Write) : t.SameBut (t.take w) := by
  cases w <;> simp only [Ctx.take] <;> split
  any_goals exact .refl t
  · exact rfl
  · exact Ctx.SameBut.trans (u := t.dropPend _) rfl (Ctx.sameBut_put _ _ _)
  · exact rfl

theorem Ctx.sameBut_commits (l : List Pend) (t : Ctx) : t.SameBut (l.foldl Ctx.commit t) := by
  induction l generalizing t with
  | nil => exact .refl t
  | cons p l ih =>
    refine Ctx.SameBut.trans ?_ (ih _)
    unfold Ctx.commit
    split
    · exact Ctx.sameBut_put _ _ _
    · exact .refl t

theorem Ctx.sameBut_elapse (t : Ctx) (n : Nat) : t.SameBut (t.elapse n) :=
  Ctx.SameBut.trans (Ctx.sameBut_commits _ t) rfl

theorem Ctx.sameBut_settle (t : Ctx) : t.SameBut t.settle :=
  Ctx.SameBut.trans (Ctx.sameBut_commits _ t) rfl

theorem Ctx.sameBut_takes (ws : List Write) (t : Ctx) : t.SameBut (ws.foldl Ctx.take t) := by
  induction ws generalizing t with
  | nil => exact .refl t
  | cons w ws ih => exact Ctx.SameBut.trans (Ctx.sameBut_take t w) (ih _)

/-- Letting time pass before the results reach their registers changes nothing, with at most one result outstanding. -/
theorem Ctx.settle_elapse (t : Ctx) (n : Nat) (h : t.pend.length ≤ 1) : (t.elapse n).settle = t.settle := by
  match hp : t.pend with
  | [] => simp [Ctx.elapse, Ctx.settle, hp]
  | [p] =>
    by_cases hn : p.count ≤ n
    · simp [Ctx.elapse, Ctx.settle, hp, hn, Nat.not_lt.mpr hn]
    · have hn' : n < p.count := by omega
      simp only [Ctx.elapse, Ctx.settle, hp, List.filter_cons, hn, hn', decide_false, decide_true, if_true, if_false,
        Bool.false_eq_true, List.filter_nil, List.foldl_nil, List.map_cons, List.map_nil, List.foldl_cons]
      cases hv : p.val with
      | none => simp [Ctx.commit, hv]
      | some v => simp only [Ctx.commit, hv]; rw [Ctx.put_withPend]
  | _ :: _ :: _ => simp [hp] at h

theorem Ctx.settle_settle (t : Ctx) : t.settle.settle = t.settle := by simp [Ctx.settle]

/-- The context once the results of an instruction have reached their registers. -/
def Ctx.written (t : Ctx) (ws : List Write) : Ctx := (ws.foldl Ctx.take t).settle

theorem Ctx.commits_frame (l : List Pend) (t : Ctx) (pc : BitVec 16) (win : Map (W32 × Bool)) (ra age : Nat) (hi : Option Hire) (pr : Bool) :
    l.foldl Ctx.commit { t with pc := pc, window := win, readyAt := ra, hiring := hi, age := age, promoted := pr } =
      { l.foldl Ctx.commit t with pc := pc, window := win, readyAt := ra, hiring := hi, age := age, promoted := pr } := by
  induction l generalizing t with
  | nil => rfl
  | cons p l ih =>
    simp only [List.foldl_cons]
    rw [← ih]
    congr 1
    simp only [Ctx.commit]
    cases p.val with
    | none => rfl
    | some v =>
      cases p.reg <;> cases v <;> simp only [Ctx.put] <;> split <;> rfl

theorem Ctx.settle_frame (t : Ctx) (pc : BitVec 16) (win : Map (W32 × Bool)) (ra age : Nat) (hi : Option Hire) (pr : Bool) :
    ({ t with pc := pc, window := win, readyAt := ra, hiring := hi, age := age, promoted := pr } : Ctx).settle =
      { t.settle with pc := pc, window := win, readyAt := ra, hiring := hi, age := age, promoted := pr } := by
  simp only [Ctx.settle, Ctx.commits_frame]

/-- The context once a target has used the prefix (R104). -/
def Ctx.spent (t : Ctx) (target : Bool) : Ctx := if target then t.setPp false else t

theorem Ctx.spent_of (t : Ctx) (target : Bool) (h : target = true → t.pp = false) : t.spent target = t := by
  cases target
  · rfl
  · exact Ctx.setPp_false_of t (h rfl)

theorem Ctx.commits_status (l : List Pend) (t : Ctx) (st : W64) :
    l.foldl Ctx.commit { t with status := st } = { l.foldl Ctx.commit t with status := st } := by
  induction l generalizing t with
  | nil => rfl
  | cons p l ih =>
    simp only [List.foldl_cons]
    rw [← ih]
    congr 1
    simp only [Ctx.commit]
    cases p.val with
    | none => rfl
    | some v => cases p.reg <;> cases v <;> simp only [Ctx.put] <;> split <;> rfl

theorem Ctx.settle_spent (t : Ctx) (target : Bool) : (t.spent target).settle = t.settle.spent target := by
  cases target
  · rfl
  · have h : (t.pend.foldl Ctx.commit t).status = t.status := by rw [Ctx.sameBut_commits t.pend t]
    simp only [Ctx.spent, Ctx.setPp, Ctx.settle, if_true, Ctx.commits_status, h]

theorem Ctx.settle_retire (t : Ctx) (d : Desc) (ws : List Write) (next : Option Nat) (cycle : Nat)
    (hw : t.wait.held = false ∧ t.phase ≠ .parked)
    (hl : (ws.foldl Ctx.take t).pend.length ≤ 1) :
    (t.retire d ws next cycle).settle =
      { (t.written ws).spent d.target with
        pc := BitVec.ofNat 16 (next.getD (nextPc t.pc)), window := (t.retire d ws next cycle).window,
        readyAt := cycle + d.st + 1, hiring := none, age := 0, promoted := false } := by
  obtain ⟨u, hu⟩ : ∃ u, u = ws.foldl Ctx.take t := ⟨_, rfl⟩
  have hs : t.SameBut (u.elapse (d.st + 1)) := hu ▸ (Ctx.sameBut_takes ws t).trans (Ctx.sameBut_elapse _ _)
  have he := Ctx.settle_elapse u (d.st + 1) (hu ▸ hl)
  unfold Ctx.written
  rw [← hu, ← he]
  obtain ⟨v, hv⟩ : ∃ v, v = u.elapse (d.st + 1) := ⟨_, rfl⟩
  have hvw : v.wait = t.wait := by rw [hv, hs]
  have hvc : v.pc = t.pc := by rw [hv, hs]
  have hvp : v.phase = t.phase := by rw [hv, hs]
  have h1 : ¬(v.wait.held = true) := by rw [hvw, hw.1]; simp
  have h2 : (if d.target then v.setPp false else v) = v.spent d.target := by
    cases d.target <;> rfl
  have hsp : (v.spent d.target).phase = t.phase := by rw [← hvp]; cases d.target <;> rfl
  obtain ⟨w, hw'⟩ : ∃ w, w = v.spent d.target := ⟨_, rfl⟩
  have hws : w.settle = v.settle.spent d.target := by rw [← Ctx.settle_spent, hw']
  have hwc : w.pc = t.pc := by rw [hw', ← hvc]; cases d.target <;> rfl
  have hwp : w.phase ≠ .parked := by rw [hw', hsp]; exact hw.2
  have hr : t.retire d ws next cycle =
      { w with pc := BitVec.ofNat 16 (next.getD (w.pc.toNat + 4)), window := (t.retire d ws next cycle).window,
               readyAt := cycle + d.st + 1, hiring := none, age := 0, promoted := false } := by
    unfold Ctx.retire
    simp only [← hu, ← hv, if_neg h1, h2, ← hw', if_neg hwp]
  rw [hr, ← hv, ← hws]
  have hpc : BitVec.ofNat 16 (next.getD (w.pc.toNat + 4)) = BitVec.ofNat 16 (next.getD (nextPc t.pc)) := by
    rw [hwc]
    cases next with
    | some n => rfl
    | none => apply BitVec.eq_of_toNat_eq; simp [nextPc]
  rw [hpc]
  exact Ctx.settle_frame w _ _ _ _ _ _

/-- The results of an instruction leave the phase of its task. -/
theorem Ctx.written_phase (t : Ctx) (ws : List Write) (target : Bool) : ((t.written ws).spent target).phase = t.phase := by
  have hs : t.SameBut (ws.foldl Ctx.take t) := Ctx.sameBut_takes ws t
  have hc : (t.written ws).phase = t.phase := by
    unfold Ctx.written Ctx.settle
    dsimp only
    rw [Ctx.sameBut_commits _ (ws.foldl Ctx.take t), hs]
  rw [← hc]
  cases target <;> rfl

theorem State.slotUsed_updCur (s : State) (f : Ctx → Ctx) : s.slotUsed.updCur f = (s.updCur f).slotUsed := by
  simp only [State.slotUsed, State.updHere, State.updCur, State.setCur, State.setCtx, State.cur, State.ctx]
  simp [State.updCore, State.setCore, State.core, HomeCore.setCtx, HomeCore.ctx]

@[simp] theorem State.slotUsed_cur (s : State) : s.slotUsed.cur = s.cur :=
  State.cur_updHere s _ (fun _ => rfl)

@[simp] theorem State.slotUsed_mem (s : State) : s.slotUsed.mem = s.mem := rfl

theorem State.spad_updCur (s : State) (f : Ctx → Ctx) (c : Nat) : ((s.updCur f).core c).spad = (s.core c).spad := by
  by_cases h : c = s.curCore
  · subst h; simp [State.updCur, State.setCur, State.setCtx, HomeCore.setCtx]
  · simp [State.updCur, State.setCur, State.setCtx, State.updCore, State.core_setCore_ne _ _ _ _ h]

theorem State.spad_slotUsed (s : State) (c : Nat) : (s.slotUsed.core c).spad = (s.core c).spad := by
  by_cases h : c = s.curCore
  · subst h; simp [State.slotUsed, State.updHere]
  · simp [State.slotUsed, State.updHere, State.updCore, State.core_setCore_ne _ _ _ _ h]

/-- An instruction whose operation is done has been performed: with its results in their registers, the state is the one that
the operation left. -/
theorem State.performed_retire {s s' : State} (d : Desc) (ws : List Write) (next : Option Nat) (hcyc : s'.cycle = s.cycle)
    (hw : s'.cur.wait.held = false ∧ s'.cur.phase ≠ .parked)
    (hl : (ws.foldl Ctx.take s'.cur).pend.length ≤ 1) :
    s.Performed (s'.retire d ws next) d.st (next.getD (nextPc s'.cur.pc)) (s'.updCur (fun t => (t.written ws).spent d.target)) := by
  unfold State.Performed State.settled State.retire
  rw [State.slotUsed_updCur, State.updCur_updCur, State.updCur_updCur, State.slotUsed_cur, State.cur_updCur, hcyc]
  congr 1
  unfold State.updCur
  beta_reduce
  rw [Ctx.settle_retire _ d ws next s.cycle hw hl]
  have hp : (if ((s'.cur.written ws).spent d.target).phase = .parked then 0 else d.st) = d.st :=
    if_neg (Ctx.written_phase s'.cur ws d.target ▸ hw.2)
  rw [hp]

/-- The results of an instruction with one result for an x register. -/
theorem Ctx.written_x (t : Ctx) (h : t.pend = []) (rd : Nat) (v : W64) (w : Write)
    (hw : (∃ l, w = .fixed (.x rd) (.word v) l) ∨ w = .now (.x rd) (.word v)) :
    t.written [w] = t.put (.x t.bank rd) (.word v) ∧ (List.foldl Ctx.take t [w]).pend.length ≤ 1 := by
  have hset : t.settle = t := by cases t; simp_all [Ctx.settle]
  by_cases h0 : rd = 0
  · subst h0
    rw [Ctx.put_x0]
    rcases hw with ⟨l, rfl⟩ | rfl <;>
      simp [Ctx.written, Ctx.take, RName.reg, Reg.counts, hset, h]
  · rcases hw with ⟨l, rfl⟩ | rfl
    · simp only [Ctx.written, List.foldl_cons, List.foldl_nil, Ctx.take, RName.reg, Reg.counts, bne_iff_ne, ne_eq, h0,
        not_false_eq_true, if_true, h, List.filter_nil, List.length_singleton, le_refl, and_true, Ctx.settle, Ctx.commit]
      rw [Ctx.put_withPend]
      cases t; simp_all [Ctx.put]
    · have hd : t.dropPend (.x t.bank rd) = t := by cases t; simp_all [Ctx.dropPend]
      simp only [Ctx.written, List.foldl_cons, List.foldl_nil, Ctx.take, RName.reg, Reg.counts, bne_iff_ne, ne_eq, h0,
        not_false_eq_true, if_true, hd]
      have hp : (t.put (.x t.bank rd) (.word v)).pend = [] := by simp [h]
      refine ⟨?_, by simp [h]⟩
      cases ht : t.put (.x t.bank rd) (.word v); simp_all [Ctx.settle]

/-- The operation has one result for an x register beside its effect `s'`. -/
theorem State.completes_x {s s' : State} (hc : s.Calm) {d : Desc} (ht : d.target = true ∨ s.cur.pp = false) (hd : d.Clear s)
    (hpool : d.pool = false) {body : State → Res} {rd : Nat} {v : W64} {w : Write} {next : Option Nat}
    (hb : body s = .done s' [w] next) (hw : (∃ l, w = .fixed (.x rd) (.word v) l) ∨ w = .now (.x rd) (.word v))
    (hcyc : s'.cycle = s.cycle) (hpend : s'.cur.pend = [])
    (hwait : s'.cur.wait.held = false ∧ s'.cur.phase ≠ .parked) :
    ∃ t, s.issueWith d body = .next t ∧
      s.Performed t d.st (next.getD (nextPc s'.cur.pc)) ((s'.putX rd v).updCur (·.spent d.target)) := by
  obtain ⟨h1, h2⟩ := Ctx.written_x s'.cur hpend rd v w hw
  refine ⟨_, State.issueWith_done hc ht hd hb hpool, ?_⟩
  have := State.performed_retire (s := s) (s' := s') d [w] next hcyc hwait h2
  unfold State.putX
  rw [State.updCur_updCur]
  unfold State.updCur at *
  beta_reduce at *
  rw [h1] at this
  exact this

/-- The operation has no register result. -/
theorem State.completes_none {s s' : State} (hc : s.Calm) {d : Desc} (ht : d.target = true ∨ s.cur.pp = false) (hd : d.Clear s)
    (hpool : d.pool = false) {body : State → Res} {next : Option Nat} (hb : body s = .done s' [] next)
    (hcyc : s'.cycle = s.cycle) (hpend : s'.cur.pend = [])
    (hwait : s'.cur.wait.held = false ∧ s'.cur.phase ≠ .parked) :
    ∃ t, s.issueWith d body = .next t ∧
      s.Performed t d.st (next.getD (nextPc s'.cur.pc)) (s'.updCur (·.spent d.target)) := by
  refine ⟨_, State.issueWith_done hc ht hd hb hpool, ?_⟩
  have := State.performed_retire (s := s) (s' := s') d [] next hcyc hwait (by simp [hpend])
  have e : s'.cur.written [] = s'.cur := by
    unfold Ctx.written Ctx.settle
    simp only [List.foldl_nil, hpend]
    rw [← hpend]
  unfold State.updCur at *
  beta_reduce at *
  rw [e] at this
  exact this

/-- An update of the context at issue that leaves it as it is, where it is listed. -/
theorem State.putX_spent (s : State) (rd : Nat) (v : W64) (target : Bool) (h : target = true → s.cur.pp = false) :
    (s.putX rd v).updCur (·.spent target) = s.putX rd v := by
  unfold State.putX
  rw [State.updCur_updCur]
  unfold State.updCur
  beta_reduce
  rw [Ctx.spent_of]
  intro ht
  simp [h ht]

/-- An instruction whose operation has one result for an x register, and no other effect, has been performed. -/
theorem State.xresult {s : State} (hc : s.Plain) {d : Desc} (hd : d.Clear s) (hpool : d.pool = false) {body : State → Res}
    {rd : Nat} {v : W64} {w : Write} (hb : body s = .done s [w] none)
    (hw : (∃ l, w = .fixed (.x rd) (.word v) l) ∨ w = .now (.x rd) (.word v)) :
    ∃ t, s.issueWith d body = .next t ∧ s.XResult t d.st rd v := by
  obtain ⟨h1, h2⟩ := Ctx.written_x s.cur hc.pend rd v w hw
  have hp : s.Performed (s.retire d [w] none) d.st (nextPc s.cur.pc) (s.putX rd v) := by
    have := State.performed_retire (s := s) (s' := s) d [w] none rfl (by simp [hc.wait, hc.running, Wait.held]) h2
    have e : (s.cur.put (.x s.cur.bank rd) (.word v)).spent d.target = s.cur.put (.x s.cur.bank rd) (.word v) :=
      Ctx.spent_of _ _ (fun _ => by simp [hc.pp])
    unfold State.putX State.updCur at *
    beta_reduce at *
    rw [h1, e] at this
    exact this
  have hX : ∀ i, (s.retire d [w] none).settled.X i = (s.putX rd v).cur.readX i := by
    intro i
    rw [hp]
    simp only [State.X, State.slotUsed_cur, State.cur_updCur]
    rfl
  refine ⟨_, State.issueWith_done hc.toCalm (Or.inr hc.pp) hd hb hpool, ?_⟩
  constructor
  · intro h
    rw [hX, State.putX, State.cur_updCur, Ctx.readX_put, if_pos ⟨rfl, h⟩]
  · intro i hi
    rw [hX, State.putX, State.cur_updCur, Ctx.readX_put, if_neg (fun h => hi h.1)]
    rfl
  · intro a; rfl
  · intro c a
    unfold State.retire
    rw [State.spad_slotUsed, State.spad_updCur]
  · exact hp

/-- A frame without conditions is clear. -/
theorem Desc.clear_plain (s : State) (st : Nat) (reads : List RName) (mask : Nat) (writes extra : List RName) (target : Bool) :
    Desc.Clear { st := st, reads := reads, mask := mask, writes := writes, extra := extra, target := target } s := by
  constructor <;> simp

/-- The shared operation of two operands (R182): its result, and nothing else. -/
theorem rrr_xresult {s : State} (hc : s.Plain) (st rd rs1 rs2 : Nat) (lat : Option Nat) (f : W64 → W64 → W64) :
    ∃ t, rrr st rd rs1 rs2 lat f s = .next t ∧ s.XResult t st rd (f (s.X rs1) (s.X rs2)) := by
  unfold rrr
  cases lat with
  | none => exact State.xresult hc (Desc.clear_plain ..) rfl rfl (Or.inr rfl)
  | some l => exact State.xresult hc (Desc.clear_plain ..) rfl rfl (Or.inl ⟨l, rfl⟩)

/-- The shared operation of one operand: its result, and nothing else. -/
theorem rr_xresult {s : State} (hc : s.Plain) (st rd rs1 : Nat) (f : W64 → W64) :
    ∃ t, rr st rd rs1 f s = .next t ∧ s.XResult t st rd (f (s.X rs1)) :=
  State.xresult hc (Desc.clear_plain ..) rfl rfl (Or.inl ⟨1, rfl⟩)

/-! ### Results that an answer brings -/

theorem Ctx.written_later (t : Ctx) (h : t.pend = []) (hv : t.var = []) (rd : Nat) :
    t.written [.later (.x rd)] = if rd = 0 then t else { t with var := [.x t.bank rd] } := by
  have hs : ∀ u : Ctx, u.pend = [] → u.settle = u := by
    intro u hu
    unfold Ctx.settle
    rw [hu]
    simp only [List.foldl_nil]
    rw [← hu]
  unfold Ctx.written
  simp only [List.foldl_cons, List.foldl_nil, Ctx.take, RName.reg, Reg.counts]
  by_cases e : rd = 0
  · subst e
    simp [hs t h]
  · have hd : t.dropPend (.x t.bank rd) = t := by
      unfold Ctx.dropPend
      rw [h]
      simp only [List.map_nil]
      rw [← h]
    simp only [e, if_false, bne_iff_ne, ne_eq, not_false_eq_true, if_true]
    simp only [hd, hv, List.contains_nil, Bool.false_eq_true, if_false]
    exact hs _ h

/-- The operation leaves one x register to an answer. -/
theorem State.completes_later {s s' : State} (hc : s.Plain) {d : Desc} (hd : d.Clear s) (hpool : d.pool = false)
    (ht : d.target = false) {body : State → Res} {rd : Nat} (hb : body s = .done s' [.later (.x rd)] none)
    (hcyc : s'.cycle = s.cycle) (hpend : s'.cur.pend = []) (hvar : s'.cur.var = [])
    (hwait : s'.cur.wait.held = false ∧ s'.cur.phase ≠ .parked) :
    ∃ t, s.issueWith d body = .next t ∧ s.Performed t d.st (nextPc s'.cur.pc) (s'.owing rd) := by
  refine ⟨_, State.issueWith_done hc.toCalm (Or.inr hc.pp) hd hb hpool, ?_⟩
  have hl : ([Write.later (.x rd)].foldl Ctx.take s'.cur).pend.length ≤ 1 := by
    simp only [List.foldl_cons, List.foldl_nil, Ctx.take]
    split <;> simp [Ctx.dropPend, hpend]
  have := State.performed_retire (s := s) (s' := s') d [.later (.x rd)] none hcyc hwait hl
  unfold State.owing State.updCur at *
  beta_reduce at *
  rw [Ctx.written_later _ hpend hvar, ht] at this
  exact this

end Sys2Proof.Machine
end

