-- ==== Sys2Proof/Laws/Kept.lean ====
section
/-!
SUPPORT. Sys2Proof/Laws/Kept.lean: what the operations on the memory system leave of the task whose instruction is at issue.
-/
namespace Sys2Proof.Machine

/-- The task at issue, its place and the cycle are as they were. -/
structure State.Kept (s t : State) : Prop where
  cur   : t.cur = s.cur
  core  : t.curCore = s.curCore
  ctx   : t.curCtx = s.curCtx
  cycle : t.cycle = s.cycle

theorem State.Kept.refl (s : State) : s.Kept s := ⟨rfl, rfl, rfl, rfl⟩

theorem State.Kept.trans {s t u : State} (h : s.Kept t) (g : t.Kept u) : s.Kept u :=
  ⟨g.cur.trans h.cur, g.core.trans h.core, g.ctx.trans h.ctx, g.cycle.trans h.cycle⟩

/-- A change of a core that leaves its contexts as they are. -/
theorem State.kept_updCore (s : State) (c : Nat) (f : HomeCore → HomeCore) (h : (f (s.core c)).ctxs = (s.core c).ctxs) :
    s.Kept (s.updCore c f) := by
  refine ⟨?_, rfl, rfl, rfl⟩
  unfold State.cur State.ctx
  by_cases e : s.curCore = c
  · subst e; simp [HomeCore.ctx, h]
  · exact congrArg (HomeCore.ctx · s.curCtx) (State.core_setCore_ne s c s.curCore _ e)

/-- A change of the core at issue that leaves its contexts as they are. -/
theorem State.kept_updHere (s : State) (f : HomeCore → HomeCore) (h : (f s.here).ctxs = s.here.ctxs) : s.Kept (s.updHere f) :=
  s.kept_updCore _ f h

theorem State.kept_enqueueOut (s : State) (c : Nat) (o : Out) : s.Kept (s.enqueueOut c o) := by
  unfold State.enqueueOut
  exact State.Kept.trans (t := s.fresh.2) ⟨rfl, rfl, rfl, rfl⟩ (State.kept_updCore _ _ _ rfl)

theorem State.kept_enqueue (s : State) (c : Nat) (r : Req) (w o : Bool) : s.Kept (s.enqueue c r w o) := s.kept_enqueueOut c _

theorem State.kept_putL1 (s : State) (c : Nat) (l : L1Line) : s.Kept (s.updCore c (·.putL1 l)) := s.kept_updCore _ _ rfl

theorem State.kept_writeBack (s : State) (c : Nat) (l : L1Line) : s.Kept (s.writeBack c l) := by
  unfold State.writeBack
  split
  · exact (s.kept_enqueueOut ..).trans (State.kept_putL1 ..)
  · exact .refl s

theorem State.kept_evictWhole (s : State) (c : Nat) (l : L1Line) : s.Kept (s.evictWhole c l) :=
  (s.kept_writeBack ..).trans (State.kept_putL1 ..)

theorem State.kept_freeChoice (s : State) : s.Kept s.freeChoice.2 := ⟨rfl, rfl, rfl, rfl⟩

theorem State.kept_wayFor (s : State) (c va : Nat) : s.Kept (s.wayFor c va).2 := by
  unfold State.wayFor
  dsimp only
  split
  · exact .refl s
  · split
    · exact s.kept_freeChoice.trans (State.kept_evictWhole ..)
    · exact s.kept_freeChoice

theorem State.kept_writeBackAt (s : State) (c asid va : Nat) : s.Kept (s.writeBackAt c asid va) := by
  unfold State.writeBackAt
  split
  · exact s.kept_writeBack ..
  · exact .refl s

theorem State.kept_writeBackAll (s : State) (c : Nat) (p : L1Line → Bool) : s.Kept (s.writeBackAll c p) := by
  unfold State.writeBackAll
  generalize (s.core c).l1 = ls
  induction ls generalizing s with
  | nil => exact .refl s
  | cons l ls ih =>
    refine State.Kept.trans ?_ (ih _)
    dsimp only
    split
    · exact s.kept_writeBack ..
    · exact .refl s

theorem State.kept_acquire (s : State) (c : Nat) (sc : Scope) : s.Kept (s.acquire c sc) := by
  have h := s.kept_updCore c HomeCore.dropCleanL1 rfl
  cases sc
  · exact .refl s
  · exact .refl s
  · exact h
  all_goals exact ⟨h.cur, rfl, rfl, rfl⟩

theorem State.kept_dropLine (s : State) (c asid va : Nat) : s.Kept (s.dropLine c asid va) := by
  unfold State.dropLine
  split
  · exact s.kept_putL1 ..
  · exact .refl s

theorem State.kept_sendRmw (s : State) (va n : Nat) (tr : Tr) (op : HomeOp) (sc : Scope) (acq : Option Scope) (dest : Dest) :
    s.Kept (s.sendRmw va n tr op sc acq dest) := by
  unfold State.sendRmw
  exact ((s.kept_writeBackAt ..).trans (State.kept_dropLine ..)).trans (State.kept_enqueue ..)

theorem State.kept_sendObj (s : State) (va n : Nat) (tr : Tr) (op : HomeOp) (sc : Scope) (acq : Option Scope) (dest : Dest)
    (w : Bool) : s.Kept (s.sendObj va n tr op sc acq dest w) := by
  unfold State.sendObj
  exact (s.kept_writeBackAt ..).trans (State.kept_enqueue ..)

theorem State.kept_sendLoad (s : State) (va n : Nat) (tr : Tr) (sc : Scope) (acq : Option Scope) (dest : Dest) :
    s.Kept (s.sendLoad va n tr sc acq dest) := by
  unfold State.sendLoad
  refine State.Kept.trans ?_ (State.kept_enqueue ..)
  split
  · exact s.kept_writeBackAt ..
  · exact .refl s

theorem State.kept_acceptLine (s : State) (c asid va : Nat) (tr : Tr) : s.Kept (s.acceptLine c asid va tr) := by
  unfold State.acceptLine
  split
  · next l _ =>
    generalize (if s.current c l then l else l.dropClean) = l
    dsimp only
    split
    · exact (s.kept_writeBack ..).trans (State.kept_putL1 ..)
    · exact s.kept_putL1 ..
  · exact .refl s

theorem State.kept_lineFor (s : State) (c asid va : Nat) (tr : Tr) (sc : Scope) : s.Kept (s.lineFor c asid va tr sc).2 := by
  unfold State.lineFor
  dsimp only
  split
  · exact s.kept_acceptLine ..
  · exact (s.kept_acceptLine ..).trans (State.kept_wayFor ..)

theorem State.kept_storeL1 (s : State) (va : Nat) (tr : Tr) (sc : Scope) (bs : List Byte) : s.Kept (s.storeL1 va tr sc bs) := by
  unfold State.storeL1
  exact (s.kept_lineFor ..).trans (State.kept_putL1 ..)

theorem State.kept_storeThrough (s : State) (va : Nat) (tr : Tr) (sc : Scope) (bs : List Byte) :
    s.Kept (s.storeThrough va tr sc bs) := by
  unfold State.storeThrough
  refine State.Kept.trans ?_ (State.kept_enqueue ..)
  have h := s.kept_writeBackAt s.curCore s.cur.asid va
  revert h
  generalize s.writeBackAt s.curCore s.cur.asid va = u
  intro h
  dsimp only
  split
  · exact h.trans (State.kept_putL1 ..)
  · exact h

/-! ### Writes at the homes: a task that waits for nothing is left as it is -/

theorem State.kept_respond (s : State) (x : Resp) : s.Kept (s.respond x) := ⟨rfl, rfl, rfl, rfl⟩

theorem State.kept_responds {α : Type} (f : α → Resp) (l : List α) (s : State) :
    s.Kept (l.foldl (fun s a => s.respond (f a)) s) := by
  induction l generalizing s with
  | nil => exact .refl s
  | cons a l ih => exact (s.kept_respond (f a)).trans (ih _)

theorem State.kept_answerWaita (s : State) (h : Home) (a n : Nat) (word : Nat → List PByte) :
    s.Kept (s.answerWaita h a n word) := by
  unfold State.answerWaita
  dsimp only
  refine State.Kept.trans (t := { s with waiters := s.waiters.filter (fun r => !r.waitsOn h a n) }) ⟨rfl, rfl, rfl, rfl⟩ ?_
  exact State.kept_responds
    (fun (r : Req) => { req := r, val := w64 (leNat (PByte.vals (word r.addr))), poison := PByte.anyBad (word r.addr) }) _ _

theorem Ctx.wakeWord_of (t : Ctx) (c : HomeCore) (off n : Nat) (h : t.wait = .none) : t.wakeWord c off n = t := by
  simp [Ctx.wakeWord, h]

theorem HomeCore.ctx_wakeWords (h : HomeCore) (off n k : Nat) : (h.wakeWords off n).ctx k = (h.ctx k).wakeWord h off n :=
  Map.get_map _ (fun (t : Ctx) => t.wakeWord h off n) rfl _ _

theorem HomeCore.ctx_spWrite (h : HomeCore) (off : Nat) (bs : List PByte) (k : Nat) :
    (h.spWrite off bs).ctx k = (h.ctx k).wakeWord (h.spSet off bs) off bs.length := by
  unfold HomeCore.spWrite
  exact HomeCore.ctx_wakeWords _ _ _ _

theorem State.kept_spWrite (s : State) (c off : Nat) (bs : List PByte) (h : s.cur.wait = .none) : s.Kept (s.spWrite c off bs) := by
  unfold State.spWrite State.spAnswer
  refine State.Kept.trans ?_ (State.kept_answerWaita ..)
  refine ⟨?_, rfl, rfl, rfl⟩
  unfold State.cur State.ctx at *
  by_cases e : s.curCore = c
  · subst e
    simp only [State.updCore_curCore, State.updCore_curCtx, State.core_updCore, HomeCore.ctx_spWrite]
    exact Ctx.wakeWord_of _ _ _ _ h
  · exact congrArg (HomeCore.ctx · s.curCtx) (State.core_setCore_ne s c s.curCore _ e)

theorem State.kept_answerFutures (s : State) (a n : Nat) : s.Kept (s.answerFutures a n) := by
  unfold State.answerFutures
  dsimp only
  refine State.Kept.trans
    (t := { s with deferred := s.deferred.filter (fun r => !(overlap r.addr 16 a n && bitOf (s.memWord (r.addr + 8)).toNat 0)) })
    ⟨rfl, rfl, rfl, rfl⟩ ?_
  exact State.kept_responds
    (fun (r : Req) => { req := r, val := s.memWord r.addr, poison := poisonedIn s.poison r.addr 16 }) _ _

theorem State.kept_afterWrite (s : State) (pa n : Nat) : s.Kept (s.afterWrite pa n) := by
  unfold State.afterWrite
  exact (s.kept_answerWaita ..).trans (State.kept_answerFutures ..)

theorem State.kept_bumpLines (s : State) (pa n : Nat) : s.Kept (s.bumpLines pa n) := by
  unfold State.bumpLines
  generalize linesOf pa n = ls
  induction ls generalizing s with
  | nil => exact .refl s
  | cons l ls ih => exact State.Kept.trans (t := s.bumpOrder (l * 128)) ⟨rfl, rfl, rfl, rfl⟩ (ih _)

theorem State.kept_memWrite (s : State) (pa : Nat) (bs : List PByte) : s.Kept (s.memWrite pa bs) := by
  unfold State.memWrite
  refine State.Kept.trans ?_ (State.kept_afterWrite ..)
  refine State.Kept.trans ?_ (State.kept_bumpLines ..)
  exact ⟨rfl, rfl, rfl, rfl⟩

/-! ### Translation -/

theorem State.kept_setReg (s : State) (a : Nat) (v : W64) : s.Kept (s.setReg a v) := by
  unfold State.setReg
  exact ⟨rfl, rfl, rfl, rfl⟩

theorem State.kept_logDirty (s : State) (c asid : Nat) (l : Tr) (h : s.cur.wait = .none) : s.Kept (s.logDirty c asid l) := by
  unfold State.logDirty
  cases s.logHasRoom c with
  | false =>
    simp only [Bool.false_eq_true, if_false]
    unfold State.setDirtyBit
    exact s.kept_memWrite _ _
  | true =>
    simp only [if_true]
    generalize PByte.clean _ = bs
    generalize bitsOf _ 19 6 * 64 + _ = off
    generalize w64 _ = v
    exact (s.kept_spWrite c off bs h).trans (State.kept_setReg ..)

theorem State.kept_grant (s : State) (die slice asid va : Nat) (tr : Tr) : s.Kept (s.grant die slice asid va tr) := by
  unfold State.grant State.raiseHorizon
  dsimp only
  split
  · exact .refl s
  · split <;> exact ⟨rfl, rfl, rfl, rfl⟩

theorem State.kept_translate (s : State) (die asid va : Nat) (w : Bool) (c : Option Nat) (h : s.cur.wait = .none) :
    s.Kept (s.translate die asid va w c).2 := by
  unfold State.translate
  cases s.lookup die asid va w with
  | error d => exact .refl s
  | ok tr =>
    dsimp only
    cases s.refuses tr va w with
    | some d => exact .refl s
    | none =>
      cases c with
      | none => exact s.kept_grant ..
      | some c =>
        dsimp only
        cases w && !tr.d with
        | true => exact (s.kept_logDirty _ _ _ h).trans (State.kept_grant ..)
        | false => exact s.kept_grant ..

theorem State.kept_xlate {s u : State} {va : Nat} {w : Bool} {r : Except (Nat × Nat) Tr} (e : s.xlate va w = (r, u))
    (h : s.cur.wait = .none) : s.Kept u := by
  have k := s.kept_translate s.die s.cur.asid va w (some s.curCore) h
  unfold State.xlate at e
  revert e
  generalize State.translate s s.die s.cur.asid va w (some s.curCore) = p at k
  obtain ⟨x, y⟩ := p
  cases x <;> simp only [Prod.mk.injEq] <;> rintro ⟨-, rfl⟩ <;> exact k

theorem State.kept_objAddr {s u : State} {va a n : Nat} {w : Bool} {r : Except (Nat × Nat) Tr} (e : s.objAddr va a n w = (r, u))
    (h : s.cur.wait = .none) : s.Kept u := by
  unfold State.objAddr at e
  split at e
  · cases e; exact .refl s
  · split at e
    · cases e; exact .refl s
    · cases e; exact .refl s
    · split at e
      · cases e; exact .refl s
      · split at e
        · rename_i h1; cases e; exact State.kept_xlate h1 h
        · rename_i h1
          split at e <;> cases e <;> exact State.kept_xlate h1 h

end Sys2Proof.Machine
end

