-- ==== Sys2Proof/Laws/Access.lean ====
section
/-!
SUPPORT. Sys2Proof/Laws/Access.lean: the shared operations of the FP32 instructions, of the accesses to the own scratchpad and of
the release gate, each said once.
-/
namespace Sys2Proof.Machine

/-! ### FP32 results -/

/-- A calm task is held by no wait and is not parked, so its instruction retires. -/
theorem State.Calm.waits {s : State} (h : s.Calm) : s.cur.wait.held = false ∧ s.cur.phase ≠ .parked := by
  simp [h.wait, h.running, Wait.held]

theorem State.updCur_congr {s : State} {f g : Ctx → Ctx} (h : f s.cur = g s.cur) : s.updCur f = s.updCur g := by
  unfold State.updCur; rw [h]

@[simp] theorem Ctx.fold_bank (t : Ctx) (am f) : (t.fold am f).bank = t.bank := by unfold Ctx.fold; split <;> rfl
@[simp] theorem Ctx.fold_pend (t : Ctx) (am f) : (t.fold am f).pend = t.pend := by unfold Ctx.fold; split <;> rfl
@[simp] theorem Ctx.fold_wait (t : Ctx) (am f) : (t.fold am f).wait = t.wait := by unfold Ctx.fold; split <;> rfl
@[simp] theorem Ctx.fold_pc (t : Ctx) (am f) : (t.fold am f).pc = t.pc := by unfold Ctx.fold; split <;> rfl
@[simp] theorem Ctx.fold_phase (t : Ctx) (am f) : (t.fold am f).phase = t.phase := by unfold Ctx.fold; split <;> rfl
theorem Ctx.put_x_setPp (t : Ctx) (b i v) : (t.put (.x b i) (.word v)).setPp false = (t.setPp false).put (.x b i) (.word v) := by
  unfold Ctx.put; dsimp only; split <;> rfl
theorem Ctx.bank_setPp (t : Ctx) : (t.setPp false).bank = t.bank := by
  have : (t.setPp false).xb = t.xb := by
    unfold Ctx.xb Ctx.setPp setBit
    simp
  unfold Ctx.bank; rw [this]; rfl

/-- The shared operation of the FP32 instructions (R188): it writes its result, folds it into AMAX and spends the prefix. -/
theorem fpOp_completes {s : State} (hc : s.Calm) {r : Rounding} (hr : s.cur.rounding = some r) (st rd : Nat) (reads) (lat : Option Nat)
   (op : Ctx → Rounding → W64 × List Fp.Exact) :
   ∃ t, fpOp st reads rd lat op s = .next t ∧ s.Performed t st (nextPc s.cur.pc) ((s.updCur (fun u => (u.fold r.am (op s.cur r).2).setPp false)).putX rd (op s.cur r).1) := by
  unfold fpOp
  have key : ∀ w, ((∃ l, w = .fixed (.x rd) (.word (op s.cur r).1) l) ∨ w = .now (.x rd) (.word (op s.cur r).1)) → 
     ∃ t, (s.issueWith { st := st, reads := reads, writes := [.x rd], target := true } (fun _ => .done (s.updCur (·.fold r.am (op s.cur r).2)) [w] none)) = .next t ∧
      s.Performed t st (nextPc s.cur.pc) ((s.updCur (fun u => (u.fold r.am (op s.cur r).2).setPp false)).putX rd (op s.cur r).1) := by
    intro w hw
    obtain ⟨t, h1, h2⟩ := State.completes_x (d := { st := st, reads := reads, writes := [.x rd], target := true }) (body := (fun _ => .done (s.updCur (·.fold r.am (op s.cur r).2)) [w] none)) hc (Or.inl rfl) (Desc.clear_plain ..) rfl rfl hw rfl
      (by rw [State.cur_updCur, Ctx.fold_pend]; exact hc.pend) (by rw [State.cur_updCur, Ctx.fold_wait, Ctx.fold_phase]; exact hc.waits)
    refine ⟨t, h1, ?_⟩
    rw [State.cur_updCur, Ctx.fold_pc] at h2
    have e : ((s.updCur (·.fold r.am (op s.cur r).2)).putX rd (op s.cur r).1).updCur (·.spent true) = ((s.updCur (fun u => (u.fold r.am (op s.cur r).2).setPp false)).putX rd (op s.cur r).1) := by
      unfold State.putX
      simp only [State.updCur_updCur]
      apply State.updCur_congr
      simp [Ctx.spent, Ctx.put_x_setPp, Ctx.bank_setPp]
    rw [← e]
    exact h2
  cases lat with
  | none => 
    obtain ⟨t, h1, h2⟩ := key _ (Or.inr rfl)
    refine ⟨t, ?_, h2⟩
    rw [← h1]
    unfold State.issueWith State.run
    simp only [hr]; rfl
  | some l =>
    obtain ⟨t, h1, h2⟩ := key _ (Or.inl ⟨l, rfl⟩)
    refine ⟨t, ?_, h2⟩
    rw [← h1]
    unfold State.issueWith State.run
    simp only [hr]; rfl


/-! ### Loads, stores and read-modify-writes -/

theorem pbytes_vals (m p a) : ∀ n, PByte.vals (pbytes m p a n) = Memory.bytes m a n := by
  intro n; induction n generalizing a with
  | zero => rfl
  | succ n ih => simp [pbytes, PByte.vals, Memory.bytes]; exact ih (a+1)
theorem pbytes_bad (m p a) : ∀ n, PByte.anyBad (pbytes m p a n) = true ↔ ∃ j, a ≤ j ∧ j < a + n ∧ NatSet.has p j = true := by
  intro n; induction n generalizing a with
  | zero => simp [pbytes, PByte.anyBad]; intros; omega
  | succ n ih =>
    have : PByte.anyBad (pbytes m p a (n+1)) = (NatSet.has p a || PByte.anyBad (pbytes m p (a+1) n)) := by
      simp [pbytes, PByte.anyBad]
    rw [this, Bool.or_eq_true, ih]
    constructor
    · rintro (h | ⟨j, h1, h2, h3⟩)
      · exact ⟨a, le_refl _, by omega, h⟩
      · exact ⟨j, by omega, by omega, h3⟩
    · rintro ⟨j, h1, h2, h3⟩
      by_cases e : j = a
      · left; rw [← e]; exact h3
      · right; exact ⟨j, by omega, by omega, h3⟩
theorem Memory.bytes_lt (m a) : ∀ n, leNat (Memory.bytes m a n) < 2^(8*n) := by
  intro n; induction n generalizing a with
  | zero => simp [Memory.bytes, leNat]
  | succ n ih =>
    simp only [Memory.bytes, leNat]
    have := ih (a+1)
    have hb := (Memory.byte m a).isLt
    have : 2^(8*(n+1)) = 256 * 2^(8*n) := by rw [Nat.mul_add, Nat.pow_add]; omega
    omega

theorem extend_eq (signed : Bool) (n v : Nat) (h : v < 2^(8*n)) : extend signed n v = if signed then BitVec.ofInt 64 (sgnOf (8*n) v) else w64 v := by
  unfold extend sext64; rw [Nat.mod_eq_of_lt h]

theorem imm13_eq (i : BitVec 13) : imm13 i = i.signExtend 64 := by
  unfold imm13 sext64
  rw [BitVec.signExtend]
  congr 1
  rw [BitVec.toInt_eq_toNat_cond]
  have := i.isLt
  simp only [sgnOf]
  rw [Nat.mod_eq_of_lt this]

theorem State.reach_own {s : State} {va n off : Nat} {w} (h : s.OwnAccess va n off) : s.reach va n w = .own off := by
  unfold State.reach
  simp [h.aligned, h.window, Nat.not_le.mpr h.inside]

theorem State.acquire_cur (s : State) (c sc) : (s.acquire c sc).cur = s.cur := by
  cases sc <;> simp only [State.acquire] <;> try rfl
  all_goals (unfold State.cur State.ctx State.core; simp only [State.updCore, State.setCore]; unfold HomeCore.ctx; simp [HomeCore.dropCleanL1]; by_cases e : s.curCore = c; subst e; simp [State.core]; simp [Map.get_set_ne _ _ _ _ _ e])

/-- A load of the own scratchpad is done at issue, or traps with poison. -/
theorem State.load_own {s : State} {rd n signed sc acq} {va : W64} {off : Nat} (h : s.OwnAccess va.toNat n off) :
   s.load rd n signed sc acq va = if PByte.anyBad (s.here.spBytes off n) then .trap 0x13 0 va
     else .done (if acq then s.acquire s.curCore sc else s) (nowX rd (extend signed n (leNat (PByte.vals (s.here.spBytes off n))))) none := by
  unfold State.load
  simp only [State.reach_own h, h.free, Bool.false_eq_true, if_false]

/-- Every load is a frame around the one shared load. -/
theorem State.load_exec {s : State} {i : Instr} {f : LoadForm} (h : s.loadForm i = some f) :
   ∃ (d : Desc) (body : State → Res), exec i s = s.issueWith d body ∧ body s = s.load f.rd f.n f.signed f.scope f.acq f.va ∧ d.st = f.st ∧ d.Clear s ∧ d.pool = false ∧ d.target = false := by
  unfold State.loadForm at h
  split at h
  case h_9 => cases h
  all_goals (cases h)
  all_goals (refine ⟨_, _, rfl, ?_, rfl, Desc.clear_plain .., rfl, rfl⟩)
  all_goals first
   | (dsimp only; rw [imm13_eq]; rfl) | rfl

/-- Every store without a release is a frame around the one shared store. -/
theorem State.store_exec {s : State} {i : Instr} {f : StoreForm} (h : s.storeForm i = some f) (hr : f.rel = false) :
   ∃ (d : Desc) (body : State → Res), exec i s = s.issueWith d body ∧ body s = s.store f.n f.scope f.va f.val ∧ d.st = f.st ∧ d.Clear s ∧ d.pool = false ∧ d.target = false := by
  unfold State.storeForm at h
  split at h
  case h_6 => cases h
  all_goals (cases h)
  all_goals (refine ⟨_, _, rfl, ?_, rfl, Desc.clear_plain .., rfl, rfl⟩)
  all_goals first
   | (dsimp only; rw [imm13_eq]; rfl) | (dsimp only at hr ⊢; rw [hr]; rfl)

/-- Every read-modify-write without a release is a frame around the one shared request. -/
theorem State.rmw_exec {s : State} {i : Instr} {f : RmwForm} (h : s.rmwForm i = some f) (hr : ordRelease f.ord = none) :
   ∃ (d : Desc) (body : State → Res), exec i s = s.issueWith d body ∧ body s = s.rmw f.rd f.n f.signed f.op f.ord f.va ∧ d.st = f.st ∧ d.Clear s ∧ d.pool = false ∧ d.target = false := by
  unfold State.rmwForm at h
  split at h
  case h_21 => cases h
  all_goals (cases h)
  all_goals (refine ⟨_, _, rfl, ?_, rfl, Desc.clear_plain .., rfl, rfl⟩)
  all_goals (dsimp only at hr ⊢; rw [hr]; rfl)


/-! ### The gate of a release -/

theorem State.answered_nil (s : State) : s.answered [] = true := rfl

/-- Writing back clean lines does nothing. -/
theorem State.writeBackAll_clean (s : State) (c p) (h : ∀ l ∈ (s.core c).l1, l.isDirty = false) : s.writeBackAll c p = s := by
  unfold State.writeBackAll
  generalize (s.core c).l1 = ls at *
  induction ls with
  | nil => rfl
  | cons l ls ih =>
    simp only [List.foldl_cons]
    have : s.writeBack c l = s := by simp [State.writeBack, h l (by simp)]
    simp only [this, ite_self]
    exact ih (fun m hm => h m (by simp [hm]))

/-- An open gate is passed at once, and leaves the state as it is (R165). -/
theorem State.gate_open {s : State} {sc} (hw : s.cur.wait = .none) (h : s.Open sc) : s.gate sc = .passed s := by
  have ho : s.ownOut = [] := by
    simp only [State.ownOut, List.map_eq_nil_iff, List.filter_eq_nil_iff]
    intro o hm hh
    apply h.own o hm
    simpa [Bool.and_eq_true, and_assoc] using hh
  unfold State.gate
  rw [hw]
  simp only [State.raiseGate, State.release]
  by_cases e : sc.wide = true
  · have h1 : s.writeBackAll s.curCore (fun _ => true) = s := State.writeBackAll_clean _ _ _ (h.lines e)
    have h2 : s.writesOut = [] := by
      simp only [State.writesOut, List.map_eq_nil_iff, List.filter_eq_nil_iff]
      intro o hm hh
      simp [h.writes e o hm] at hh
    simp [e, h1, ho, h2, State.answered_nil]
  · simp [e, ho, State.answered_nil]

theorem State.afterGate_open {s : State} {sc : Option Scope} {act : State → Res} (hw : s.cur.wait = .none) (h : s.OpenFor sc) :
   s.afterGate sc act = act s := by
  unfold State.afterGate
  cases sc with
  | none => rfl
  | some sc =>
    dsimp only
    rw [State.gate_open hw (h sc rfl)]
    split <;> simp_all


end Sys2Proof.Machine
end

