-- ==== Sys2Proof/Laws/Channels.lean ====
section
/-!
SUPPORT. Sys2Proof/Laws/Channels.lean: what stands on a channel after a request or an answer joins it (R153, R154).
-/
namespace Sys2Proof.Machine

/-- What stands on a channel of a list. -/
theorem chan_addReq (l : List Chan) (a b : Agent) (h g : Home) (r : Req) :
    (match (addReq l a h r).find? (fun c => c.agent == b && c.home == g) with | some c => c.reqs | none => []) =
      (match l.find? (fun c => c.agent == b && c.home == g) with | some c => c.reqs | none => []) ++ if b = a ∧ g = h then [r] else [] := by
  induction l with
  | nil =>
    by_cases e : b = a ∧ g = h
    · obtain ⟨rfl, rfl⟩ := e; simp [addReq]
    · have : (a == b && h == g) = false := by
        simp only [Bool.and_eq_false_iff, beq_eq_false_iff_ne]
        by_cases x : b = a
        · exact .inr fun y => e ⟨x, y.symm⟩
        · exact .inl (Ne.symm x)
      simp [addReq, this, e]
  | cons c cs ih =>
    unfold addReq
    by_cases e : c.agent = a ∧ c.home = h
    · obtain ⟨rfl, rfl⟩ := e
      simp only [and_self, if_true]
      by_cases f : (c.agent == b && c.home == g) = true
      · simp only [Bool.and_eq_true, beq_iff_eq] at f
        obtain ⟨rfl, rfl⟩ := f
        simp
      · have f' : ¬(b = c.agent ∧ g = c.home) := by
          rintro ⟨rfl, rfl⟩; simp at f
        simp only [Bool.not_eq_true] at f
        simp [List.find?, f, f']
    · simp only [e, if_false]
      by_cases f : (c.agent == b && c.home == g) = true
      · have f' : ¬(b = a ∧ g = h) := by
          rintro ⟨rfl, rfl⟩
          simp only [Bool.and_eq_true, beq_iff_eq] at f
          exact e f
        simp [List.find?, f, f']
      · simp only [Bool.not_eq_true] at f
        simp only [List.find?, f]
        exact ih

/-- A request that joins a channel stands at its end, and every other channel is as it was. -/
theorem State.chan_add (s : State) (a b : Agent) (h g : Home) (r : Req) :
    ({ s with chans := addReq s.chans a h r } : State).chan b g = s.chan b g ++ if b = a ∧ g = h then [r] else [] :=
  chan_addReq s.chans a b h g r

theorem rchan_addResp (l : List RChan) (h g : Home) (a b : Agent) (r : Resp) :
    (match (addResp l h a r).find? (fun c => c.home == g && c.agent == b) with | some c => c.resps | none => []) =
      (match l.find? (fun c => c.home == g && c.agent == b) with | some c => c.resps | none => []) ++ if g = h ∧ b = a then [r] else [] := by
  induction l with
  | nil =>
    by_cases e : g = h ∧ b = a
    · obtain ⟨rfl, rfl⟩ := e; simp [addResp]
    · have : (h == g && a == b) = false := by
        simp only [Bool.and_eq_false_iff, beq_eq_false_iff_ne]
        by_cases x : g = h
        · exact .inr fun y => e ⟨x, y.symm⟩
        · exact .inl (Ne.symm x)
      simp [addResp, this, e]
  | cons c cs ih =>
    unfold addResp
    by_cases e : c.home = h ∧ c.agent = a
    · obtain ⟨rfl, rfl⟩ := e
      simp only [and_self, if_true]
      by_cases f : (c.home == g && c.agent == b) = true
      · simp only [Bool.and_eq_true, beq_iff_eq] at f
        obtain ⟨rfl, rfl⟩ := f
        simp
      · have f' : ¬(g = c.home ∧ b = c.agent) := by
          rintro ⟨rfl, rfl⟩; simp at f
        simp only [Bool.not_eq_true] at f
        simp [List.find?, f, f']
    · simp only [e, if_false]
      by_cases f : (c.home == g && c.agent == b) = true
      · have f' : ¬(g = h ∧ b = a) := by
          rintro ⟨rfl, rfl⟩
          simp only [Bool.and_eq_true, beq_iff_eq] at f
          exact e f
        simp [List.find?, f, f']
      · simp only [Bool.not_eq_true] at f
        simp only [List.find?, f]
        exact ih

/-- An answer that joins a response channel stands at its end, and every other channel is as it was. -/
theorem State.rchan_respond (s : State) (x : Resp) (g : Home) (b : Agent) :
    (s.respond x).rchan g b = s.rchan g b ++ if g = x.req.home ∧ b = x.req.agent then [x] else [] :=
  rchan_addResp s.rchans x.req.home g x.req.agent b x

/-- The answer just given is the last of its channel. -/
theorem State.rchan_respond_last (s : State) (x : Resp) : ((s.respond x).rchan x.req.home x.req.agent).getLast? = some x := by
  simp [State.rchan_respond]

/-- The request just sent is the last of its channel. -/
theorem State.chan_add_last (s : State) (a : Agent) (h : Home) (r : Req) :
    (({ s with chans := addReq s.chans a h r } : State).chan a h).getLast? = some r := by
  simp [State.chan_add]

end Sys2Proof.Machine
end

