-- ==== Sys2Proof/Laws/Memory.lean ====
section
/-!
SUPPORT. Sys2Proof/Laws/Memory.lean: what a byte reads as after a write, and that every operation over a memory keeps its
canonical form (addresses strictly rising, no zero listed).
-/
namespace Sys2Proof.Machine

/-! ### Reading after a write -/

theorem Memory.byte_eq_get (m : List Host.Cell) (a : Nat) : Memory.byte m a = Map.get 0 m a := by
  induction m with
  | nil => rfl
  | cons e m ih => simp only [Memory.byte, Map.get, ih]

theorem Map.get_erase {α : Type} (d : α) (m : Map α) (i j : Nat) :
    Map.get d (Map.erase m i) j = if j = i then d else Map.get d m j := by
  induction m with
  | nil => simp [Map.erase, Map.get]
  | cons e m ih =>
    obtain ⟨k, v⟩ := e
    simp only [Map.erase] at ih
    simp only [Map.erase, List.filter_cons]
    by_cases hk : k = i
    · subst hk; simp only [bne_self_eq_false, Bool.false_eq_true, if_false, ih, Map.get]; split <;> rfl
    · have hb : (k != i) = true := by simpa using hk
      simp only [hb, if_true, Map.get, ih]
      by_cases hj : j = k
      · subst hj; simp [hk]
      · simp [hj]

/-- A byte that has been written reads as written, every other byte as before. -/
theorem Memory.byte_set (m : List Host.Cell) (a : Nat) (b : Byte) (x : Nat) :
    Memory.byte (Memory.set m a b) x = if x = a then b else Memory.byte m x := by
  simp only [Memory.byte_eq_get, Memory.set]
  split
  · next h => subst h; exact Map.get_erase 0 m a x
  · exact Map.get_set 0 m a x b

theorem Memory.byte_setBytes (m : List Host.Cell) (a : Nat) (bs : List Byte) (x : Nat) :
    Memory.byte (Memory.setBytes m a bs) x = if a ≤ x ∧ x < a + bs.length then nth 0 bs (x - a) else Memory.byte m x := by
  induction bs generalizing m a with
  | nil => simp only [Memory.setBytes, List.length_nil]; split <;> [omega; rfl]
  | cons b bs ih =>
    simp only [Memory.setBytes, ih, Memory.byte_set, List.length_cons]
    by_cases h : x = a
    · subst h; simp [nth]
    · by_cases h2 : a + 1 ≤ x ∧ x < a + 1 + bs.length
      · have e : x - a = (x - (a + 1)) + 1 := by omega
        rw [if_pos h2, if_pos (by omega), e, nth]
      · rw [if_neg h2, if_neg h, if_neg (by omega)]

/-- The bytes of a write that carries poison are those of the plain write. -/
theorem setPBytes_fst (m : List Host.Cell) (p : NatSet) (a : Nat) (bs : List PByte) :
    (setPBytes m p a bs).1 = Memory.setBytes m a (PByte.vals bs) := by
  induction bs generalizing m p a with
  | nil => rfl
  | cons b bs ih => simp only [setPBytes, ih, PByte.vals, List.map_cons, Memory.setBytes]

theorem NatSet.has_add (s : NatSet) (i x : Nat) : NatSet.has (NatSet.add s i) x = (x == i || NatSet.has s x) := by
  induction s with
  | nil => simp [NatSet.add, NatSet.has, Bool.beq_comm]
  | cons k s ih =>
    simp only [NatSet.has] at ih
    simp only [NatSet.add]
    split
    · simp [NatSet.has, Bool.beq_comm (a := i)]
    · split
      · next h => subst h; simp [NatSet.has, Bool.beq_comm (a := i)]
      · simp only [NatSet.has, List.any_cons, ih]; cases (k == x) <;> cases (x == i) <;> simp

theorem NatSet.has_del (s : NatSet) (i x : Nat) : NatSet.has (NatSet.del s i) x = (x != i && NatSet.has s x) := by
  induction s with
  | nil => simp [NatSet.del, NatSet.has]
  | cons k s ih =>
    simp only [NatSet.has, NatSet.del] at ih
    simp only [NatSet.has, NatSet.del, List.filter_cons]
    by_cases h : k = i
    · subst h
      simp only [bne_self_eq_false, Bool.false_eq_true, if_false, ih, List.any_cons]
      by_cases hx : x = k
      · subst hx; simp
      · have : (k == x) = false := by simpa using fun h => hx h.symm
        simp [this]
    · have hb : (k != i) = true := by simpa using h
      simp only [hb, if_true, List.any_cons, ih]
      by_cases hx : k = x
      · subst hx; simp [hb]
      · have : (k == x) = false := by simpa using hx
        simp [this]

/-- One byte's poison after it is written. -/
theorem NatSet.has_mark (p : NatSet) (a x : Nat) (bad : Bool) :
    NatSet.has (if bad = true then NatSet.add p a else NatSet.del p a) x = if x = a then bad else NatSet.has p x := by
  cases bad
  · rw [if_neg (by decide), NatSet.has_del]
    split
    · next h => subst h; simp
    · next h => simp [h]
  · rw [if_pos rfl, NatSet.has_add]
    split
    · next h => subst h; simp
    · next h => simp [h]

/-- The poison of an address after a write: that of the byte written there, else as before. -/
theorem setPBytes_snd (m : List Host.Cell) (p : NatSet) (a : Nat) (bs : List PByte) (x : Nat) :
    NatSet.has (setPBytes m p a bs).2 x =
      if a ≤ x ∧ x < a + bs.length then (nth ⟨0, false⟩ bs (x - a)).bad else NatSet.has p x := by
  induction bs generalizing m p a with
  | nil => simp only [setPBytes, List.length_nil]; rw [if_neg (by omega)]
  | cons b bs ih =>
    simp only [setPBytes, ih, List.length_cons, NatSet.has_mark]
    by_cases h : x = a
    · subst h
      rw [if_neg (by omega), if_pos rfl, if_pos (by omega), Nat.sub_self, nth]
    · by_cases h2 : a + 1 ≤ x ∧ x < a + 1 + bs.length
      · have e : x - a = (x - (a + 1)) + 1 := by omega
        rw [if_pos h2, if_pos (by omega), e, nth]
      · rw [if_neg h2, if_neg h, if_neg (by omega)]

/-! ### The canonical form -/

/-- Every address of a canonical list lies above its bound. -/
theorem Memory.wfFrom_cons (lo : Option Nat) (k : Nat) (v : Byte) (m : List Host.Cell) :
    Memory.wfFrom lo ((k, v) :: m) = true ↔ (∀ l, lo = some l → l < k) ∧ v ≠ 0 ∧ Memory.wfFrom (some k) m = true := by
  cases lo <;> simp [Memory.wfFrom, and_assoc]

theorem Memory.wfFrom_weaken {lo hi : Option Nat} {m : List Host.Cell} (h : Memory.wfFrom hi m = true)
    (hb : ∀ l, lo = some l → ∃ u, hi = some u ∧ l ≤ u) : Memory.wfFrom lo m = true := by
  cases m with
  | nil => rfl
  | cons e m =>
    obtain ⟨k, v⟩ := e
    rw [Memory.wfFrom_cons] at h ⊢
    refine ⟨fun l hl => ?_, h.2⟩
    obtain ⟨u, hu, hlu⟩ := hb l hl
    exact Nat.lt_of_le_of_lt hlu (h.1 u hu)

/-- Leaving entries out keeps the form. -/
theorem Memory.wfFrom_filter (q : Host.Cell → Bool) {lo : Option Nat} {m : List Host.Cell} (h : Memory.wfFrom lo m = true) :
    Memory.wfFrom lo (m.filter q) = true := by
  induction m generalizing lo with
  | nil => exact h
  | cons e m ih =>
    obtain ⟨k, v⟩ := e
    rw [Memory.wfFrom_cons] at h
    rw [List.filter_cons]
    split
    · rw [Memory.wfFrom_cons]; exact ⟨h.1, h.2.1, ih h.2.2⟩
    · exact ih (Memory.wfFrom_weaken h.2.2 fun l hl => ⟨k, rfl, Nat.le_of_lt (h.1 l hl)⟩)

theorem Memory.wfFrom_insert {lo : Option Nat} {m : List Host.Cell} {a : Nat} {b : Byte} (h : Memory.wfFrom lo m = true) (hb : b ≠ 0)
    (ha : ∀ l, lo = some l → l < a) : Memory.wfFrom lo (Map.set m a b) = true := by
  induction m generalizing lo with
  | nil => exact (Memory.wfFrom_cons ..).2 ⟨ha, hb, rfl⟩
  | cons e m ih =>
    obtain ⟨k, v⟩ := e
    rw [Memory.wfFrom_cons] at h
    simp only [Map.set]
    split
    · next hk =>
      rw [Memory.wfFrom_cons, Memory.wfFrom_cons]
      exact ⟨ha, hb, fun l hl => by cases hl; exact hk, h.2⟩
    · split
      · next hk => subst hk; rw [Memory.wfFrom_cons]; exact ⟨ha, hb, h.2.2⟩
      · next h1 h2 =>
        rw [Memory.wfFrom_cons]
        exact ⟨h.1, h.2.1, ih h.2.2 fun l hl => by cases hl; omega⟩

/-- A write of one byte keeps the form. -/
theorem Memory.wf_set {m : List Host.Cell} (h : Memory.wf m = true) (a : Nat) (b : Byte) : Memory.wf (Memory.set m a b) = true := by
  simp only [Memory.wf, Memory.set] at *
  split
  · exact Memory.wfFrom_filter _ h
  · next hb => exact Memory.wfFrom_insert h hb (fun l hl => by cases hl)

/-- A write of bytes keeps the form. -/
theorem Memory.wf_setBytes {m : List Host.Cell} (h : Memory.wf m = true) (a : Nat) (bs : List Byte) :
    Memory.wf (Memory.setBytes m a bs) = true := by
  induction bs generalizing m a with
  | nil => exact h
  | cons b bs ih => exact ih (Memory.wf_set h a b) (a + 1)

/-- A write of bytes that carry poison keeps the form. -/
theorem wf_setPBytes {m : List Host.Cell} (h : Memory.wf m = true) (p : NatSet) (a : Nat) (bs : List PByte) :
    Memory.wf (setPBytes m p a bs).1 = true := by
  rw [setPBytes_fst]; exact Memory.wf_setBytes h a _

theorem Memory.wfFrom_append {lo : Option Nat} {m n : List Host.Cell} (hm : Memory.wfFrom lo m = true) (hn : Memory.wfFrom lo n = true)
    (hmn : ∀ e ∈ m, Memory.wfFrom (some e.1) n = true) : Memory.wfFrom lo (m ++ n) = true := by
  induction m generalizing lo with
  | nil => exact hn
  | cons e m ih =>
    obtain ⟨k, v⟩ := e
    rw [Memory.wfFrom_cons] at hm
    rw [List.cons_append, Memory.wfFrom_cons]
    exact ⟨hm.1, hm.2.1, ih hm.2.2 (hmn (k, v) (List.mem_cons_self ..)) fun e he => hmn e (List.mem_cons_of_mem _ he)⟩

/-- The addresses of a canonical list lie above its bound, and a part of it that lies above a greater bound has that bound. -/
theorem Memory.wfFrom_above {lo : Option Nat} {m : List Host.Cell} (h : Memory.wfFrom lo m = true) {b : Nat} (hb : ∀ e ∈ m, b < e.1) :
    Memory.wfFrom (some b) m = true := by
  cases m with
  | nil => rfl
  | cons e m =>
    obtain ⟨k, v⟩ := e
    rw [Memory.wfFrom_cons] at h ⊢
    exact ⟨fun l hl => by cases hl; exact hb (k, v) (List.mem_cons_self ..), h.2⟩

theorem Memory.wfFrom_zip (bs : List Byte) (a i : Nat) (lo : Option Nat) (hl : ∀ l, lo = some l → l < a + i) :
    Memory.wfFrom lo (((List.range' i bs.length).map (a + ·)).zip bs |>.filter (fun e => e.2 != 0)) = true := by
  induction bs generalizing i lo with
  | nil => rfl
  | cons b bs ih =>
    simp only [List.length_cons, List.range'_succ, List.map_cons, List.zip_cons_cons, List.filter_cons]
    split
    · next hb =>
      rw [Memory.wfFrom_cons]
      exact ⟨hl, by simpa using hb, ih (i + 1) (some (a + i)) fun l h => by cases h; omega⟩
    · exact ih (i + 1) lo fun l h => by have := hl l h; omega

/-- Replacing a range in one pass keeps the form. -/
theorem Memory.wf_replace {m : List Host.Cell} (h : Memory.wf m = true) (a : Nat) (bs : List Byte) :
    Memory.wf (Memory.replace m a bs) = true := by
  simp only [Memory.wf, Memory.replace] at *
  have hz := Memory.wfFrom_zip bs a 0 none (fun l hl => by cases hl)
  have hn : natsFrom a bs.length = (List.range' 0 bs.length).map (a + ·) := by simp [natsFrom, List.range_eq_range']
  rw [← hn] at hz
  have hmem : ∀ e ∈ ((natsFrom a bs.length).zip bs).filter (fun e => e.2 != 0), a ≤ e.1 ∧ e.1 < a + bs.length := by
    intro e he
    have he := (List.mem_filter.1 he).1
    obtain ⟨x, y⟩ := e
    have hx := (List.of_mem_zip he).1
    simp only [natsFrom, List.mem_map, List.mem_range] at hx
    obtain ⟨j, hj, rfl⟩ := hx
    exact ⟨Nat.le_add_right .., by simpa using hj⟩
  have h3 := Memory.wfFrom_filter (fun e => decide (a + bs.length ≤ e.1)) h
  have h1 := Memory.wfFrom_filter (fun e => decide (e.1 < a)) h
  refine Memory.wfFrom_append (Memory.wfFrom_append h1 hz fun e he => ?_) h3 fun e he => ?_
  · have he := (List.mem_filter.1 he).2
    refine Memory.wfFrom_above hz fun x hx => ?_
    have := hmem x hx; simp only [decide_eq_true_eq] at he; omega
  · refine Memory.wfFrom_above h3 fun x hx => ?_
    have hx := (List.mem_filter.1 hx).2
    simp only [decide_eq_true_eq] at hx
    rcases List.mem_append.1 he with he | he
    · have he := (List.mem_filter.1 he).2; simp only [decide_eq_true_eq] at he; omega
    · have := hmem e he; omega

/-- The memories of the machine right after reset are canonical. -/
theorem reset_memory_wf : Memory.wf State.reset.mem = true ∧ State.reset.cores = [] ∧ State.reset.saves = [] := ⟨rfl, rfl, rfl⟩

end Sys2Proof.Machine
end

