-- ==== Sys2Proof/Tests/Slice0.lean ====
section
/-!
SUPPORT. Sys2Proof/Tests/Slice0.lean: the ill-formed terms that WellFormed refuses, words of the spec's encodings and what they
decode to, small single steps, and for every statement about the module states and operands that meet what it assumes.
-/
namespace Sys2Proof.Tests
open Sys2Proof.Machine
set_option Elab.async false

/-! ### The states that the tests use -/

/-- A running task of launch 1 with these x registers. -/
def task (x : Map W64) : Ctx := { phase := .running, uid := 1, launch := 1, x := x }

/-- A launch of job 0 whose mask names cores 0 to 15. -/
def launch1 : Launch := { queue := 0, index := 0, words := [], asid := 0, job := 0, mask := 0xFFFF, n := 1, started := true }

/-- A core of which each context has 16 KiB of scratchpad. -/
def core : HomeCore := { conf := some ⟨0, 0, 0, 1⟩ }

/-- A state in which core 0 is `h`, with task `t` on its context 0. -/
def on (t : Ctx) (h : HomeCore := core) (s : State := {}) : State :=
  { s with cores := [(0, { h with ctxs := [(0, t)] })], launches := [(1, launch1)] }

/-- A translation of the 64 KiB page at virtual address 0x10000 to HBM address 0x20000. -/
def page : Tr := { pa := 0x20000, w := true, d := true, rdc := false, mig := false, size := 1, leaf := 0x9000, exp := 4000 }

/-- The lease of that page, held by the slice that translates it. -/
def lease : Lease := { slice := transSlice 0 0 0x10000, asid := 0, base := 0x10000, tr := page }

/-- A module in which that lease is held. -/
def leased : State := { leases := [lease] }

/-- A line of the L1 of core 0 with one word of clean bytes under a current translation. -/
def line (dirty : Bool := false) : L1Line :=
  { asid := 0, line := 0x200, tr := page, tag := .core, way := 1
    bytes := [(0, { val := 1, dirty := dirty, bad := false }), (1, { val := 2, dirty := false, bad := false }),
              (2, { val := 3, dirty := false, bad := false }), (3, { val := 4, dirty := false, bad := false }),
              (4, { val := 5, dirty := false, bad := false }), (5, { val := 6, dirty := false, bad := false }),
              (6, { val := 7, dirty := false, bad := false }), (7, { val := 8, dirty := false, bad := false })] }

/-- x5 holds an address of the own scratchpad, x6 one of the other-core window of core 1, x7 one of the page. -/
def addrs : Map W64 := [(5, 0xFFFFFFFFFFF00010), (6, 0xFFFFFF0000100010), (7, 0x10000), (8, 0xFFFFFFFFFFF00013)]

/-- `t` on core 0 of `s`: it is the task at issue. -/
theorem on_cur (t : Ctx) (h : HomeCore) (s : State) (hc : s.curCore = 0 ∧ s.curCtx = 0) : (on t h s).cur = t := by
  simp [on, State.cur, State.ctx, State.core, HomeCore.ctx, hc.1, hc.2, Map.get]

theorem task_plain (x : Map W64) (h : HomeCore) (s : State) (hc : s.curCore = 0 ∧ s.curCtx = 0) :
    (on (task x) h s).Plain := by
  have e := on_cur (task x) h s hc
  exact ⟨⟨by rw [e]; rfl, by rw [e]; rfl, by rw [e]; rfl, by rw [e]; rfl⟩, by rw [e]; simp [task, Ctx.pp]⟩

/-- A request of task 1 on context 0 of core 0 to an HBM home, for `n` bytes at `addr`. -/
def req (op : HomeOp) (addr n : Nat) (home : Home := .slice 0) : Req :=
  { id := 7, agent := .core 0, home := home, uid := 1, op := op, addr := addr, size := n, va := 0x10000 }

/-- A state in which that request is the next of its channel. -/
def front (r : Req) (s : State := {}) : State := { s with chans := [⟨r.agent, r.home, [r]⟩] }

/-- A state in which that answer is the next of its channel. -/
def answering (x : Resp) (s : State) : State := { s with rchans := [⟨x.req.home, x.req.agent, [x]⟩] }

/-- The request is outstanding at core 0. -/
def outstanding (r : Req) (write : Bool) : HomeCore := { core with out := [{ req := r, write := write, own := true }] }

/-- HBM with `v` in the eight bytes at `addr`, each byte of it not zero, or with that word's low byte alone. -/
def word (addr : Nat) (b : Byte) : List Host.Cell := [(addr, b)]

theorem front_front {r : Req} {s : State} (h : (front r s).mayPerform r.home r = true := by rfl) (he : r.exp = none := by rfl) :
    (front r s).Front r := ⟨by simp [front, State.chan], h, by simp [he]⟩

/-- A task that no cancel and no bound ends: its flags are those of `task`. -/
theorem task_alive (x : Map W64) (h : HomeCore) (s : State) (hc : s.curCore = 0 ∧ s.curCtx = 0) : (on (task x) h s).Alive := by
  have e := on_cur (task x) h s hc
  refine ⟨task_plain x h s hc, by rw [e]; rfl, ?_⟩
  rw [e]; simp [HomeCore.boundFails, task]

/-- A task with a claim of 8 lanes: v1 holds own-scratchpad offsets, k1 selects the first lane. -/
def claimed (x : Map W64) (lanes : Nat := 8) : Ctx :=
  { task x with
    claim := some { lanes := lanes, v := [(1, [0x80, 0x84, 0x88])], k := [(1, [true])] } }

/-- Every claim of a pool stands in a task of its cores, so that a state with one task has one claim. -/
theorem claimed_plain :
    let s := on (claimed [(5, 0xFFFFFFFFFFF00080), (6, 4), (7, 0xFFFFFFFFFFF03FF0), (8, 0xFFFFFFFFFFF00001), (9, 0x10000), (10, 0xFFFFFFFFFFF04000)])
    s.Plain ∧ s.Claimed := by
  refine ⟨⟨⟨?_, ?_, ?_, ?_⟩, ?_⟩, ⟨?_, ?_⟩⟩ <;> decide

/-- An image at 0x40000 of one overlay of one instruction: header, directory, text (R87 to R90). -/
def image : List Host.Cell :=
  [(0x40000, 49), (0x40001, 83), (0x40002, 65), (0x40003, 90), (0x40004, 1), (0x40008, 1), (0x40028, 64), (0x40038, 225),
   (0x40039, 83), (0x4003A, 250), (0x4003B, 77), (0x40042, 4), (0x40048, 80), (0x4004C, 150), (0x4004D, 78), (0x4004E, 177),
   (0x4004F, 144), (0x40050, 12), (0x40052, 148), (0x40053, 2)]

/-- A launch record at 0x50000 of one task of job 5, with its completion record at 0x60000 (R118). -/
def record : List Host.Cell :=
  [(0x50008, 5), (0x50012, 4), (0x50018, 1), (0x50030, 1), (0x50035, 64), (0x50036, 80), (0x50052, 6)]

/-- Queue 0 with that record, enabled. -/
def queued : State :=
  { mem := image ++ record, dev := [(pQctl 0, 1), (pQbase 0, 0x50000), (pQsize 0, 4), (pQtail 0, 1), (pQmask 0 0, 1)] }

/-- The words of that record. -/
def recordWords : List W64 := wordsOf (Memory.bytes queued.mem 0x50000 128) 16

/-- A hire of one element by four from task 1 of core 0 to array 0, in a state. -/
def hire (state : Nat) : Hire :=
  { hid := 9, core := 0, ctx := 0, uid := 1, launch := 1, asid := 0, job := 0, ovl := 0, slot := 0, isBind := false, arr := 0,
    hg := [0x2200040000, 0, 0x10000, 0x400008000004, 0, 0, 0, 0], c4 := [0, 0, 0, 0], abase := 0x80, bbase := 0x100, tag := 0,
    land := 0x10000, state := state }

/-- A module with that hire alone, its task on context 0 of core 0, and what array 0 does. -/
def hired (h : Hire) (a : ArrayUnit) : State :=
  on { task [] with hires := [(0, ⟨9, none⟩)] } core { leases := [lease], hires := [h], arrays := [(0, a)] }

/-! ### States and operands that meet what the statements assume -/

theorem witness_ScalarResults : (on (task addrs)).Plain := task_plain _ _ _ ⟨rfl, rfl⟩

/-- The bit fields at the ends of their ranges. -/
theorem witness_ScalarResults_fields :
    (0 : Fin 64).val + (63 : Fin 64).val ≤ 63 ∧ (63 : Fin 64).val + (0 : Fin 64).val ≤ 63 := by decide

theorem witness_FloatResults :
    (on (task addrs)).Calm ∧ (on (task addrs)).cur.pp = false ∧
    (on { task addrs with status := 0x80, pfx := { rm := 2, sa := 1, am := 1 } }).Calm ∧
    (on { task addrs with status := 0x80, pfx := { rm := 2, sa := 1, am := 1 } }).cur.pp = true := by
  refine ⟨(task_plain _ _ _ ⟨rfl, rfl⟩).toCalm, (task_plain _ _ _ ⟨rfl, rfl⟩).pp, ⟨?_, ?_, ?_, ?_⟩, ?_⟩ <;> decide

/-- A prefix of another format before a scalar instruction. -/
theorem witness_FloatResults_prefix :
    let s := on { task addrs with status := 0x80, pfx := { fd := 1 } }
    s.Calm ∧ s.cur.pp = true ∧ s.cur.pfx.fd ≠ 0 ∧ prefixTarget (.fadd 0 3 4 5) = true ∧ laneInstr (.fadd 0 3 4 5) = none :=
  ⟨⟨by decide, by decide, by decide, by decide⟩, by decide⟩

/-- `jalr` to a multiple of 4 and to another address. -/
theorem witness_BranchesAndJumps :
    (on (task addrs)).Plain ∧ ((on (task addrs)).X 5).toNat % 65536 % 4 = 0 ∧ ((on (task addrs)).X 8).toNat % 65536 % 4 ≠ 0 :=
  ⟨task_plain _ _ _ ⟨rfl, rfl⟩, by decide, by decide⟩

/-- A load, a store and a read-modify-write of the own scratchpad. -/
theorem witness_OwnScratchpadAccesses :
    let s := on (task addrs)
    s.Plain ∧ s.OwnAccess 0xFFFFFFFFFFF00010 8 16 ∧
    s.loadForm (.ld 0 3 5 0) = some ⟨0, 3, 8, true, .core, false, 0xFFFFFFFFFFF00010⟩ ∧
    s.storeForm (.sd 0 5 6 0) = some ⟨0, 8, .core, false, 0xFFFFFFFFFFF00010, 0xFFFFFF0000100010⟩ ∧
    s.rmwForm (.amoadd 0 3 5 6 0) = some ⟨0, 3, 8, false, 0, 0xFFFFFFFFFFF00010, .amo .add 0xFFFFFF0000100010⟩ ∧
    ordRelease 0 = none ∧ (∀ j, 16 ≤ j → j < 24 → s.here.spadPoison.has j = false) :=
  ⟨task_plain _ _ _ ⟨rfl, rfl⟩, ⟨by decide, by decide, by decide, by decide⟩, by decide, by decide, by decide, by decide, fun _ _ _ => rfl⟩

/-- The last access of the scratchpad, and one that meets poison. -/
theorem witness_OwnScratchpadAccesses_edges :
    let s := on (task [(5, 0xFFFFFFFFFFF03FF8)]) { core with spadPoison := [0x3FFF] }
    s.Plain ∧ s.OwnAccess 0xFFFFFFFFFFF03FF8 8 0x3FF8 ∧ (∃ j, 0x3FF8 ≤ j ∧ j < 0x3FF8 + 8 ∧ s.here.spadPoison.has j = true) :=
  ⟨task_plain _ _ _ ⟨rfl, rfl⟩, ⟨by decide, by decide, by decide, by decide⟩, 0x3FFF, by decide⟩

/-- A read-modify-write of a translated address, and accesses through the other-core window. -/
theorem witness_ReadModifyWriteRequests :
    let s := on (task addrs) core leased
    s.Plain ∧ s.GlobalAccess 0x10000 8 ∧ s.OtherAccess 0xFFFFFF0000100010 8 1 16 ∧ s.otherPoison 1 16 8 = false ∧
    s.rmwForm (.amoadd 0 3 7 6 0) = some ⟨0, 3, 8, false, 0, 0x10000, .amo .add 0xFFFFFF0000100010⟩ ∧
    s.xlate 0x10000 true = (.ok page, (s.xlate 0x10000 true).2) ∧
    (s.xlate 0x10000 true).2.migrateTo 0x10000 page = none ∧ (s.xlate 0x10000 true).2.loadPoison 0x10000 8 0x20000 = false :=
  ⟨task_plain _ _ _ ⟨rfl, rfl⟩, ⟨by decide, by decide, by decide, by decide⟩, ⟨by decide, by decide, by decide, by decide⟩, by decide, by decide, by rfl,
    by decide, by decide⟩

/-- Operands of a read-modify-write at the ends of their range. -/
theorem witness_ReadModifyWriteRequests_values : 2 ^ 64 - 1 < 2 ^ (8 * 8) ∧ 2 ^ 32 - 1 < 2 ^ (8 * 4) := by decide

/-- Releases whose gate is open, and those of a task that has a request outstanding. -/
theorem witness_ReadModifyWriteRequests_releases :
    let s := on (task addrs) core leased
    let w := on (task addrs) (outstanding (req .read 0x20000 128) false) leased
    s.Open .die ∧ s.OpenFor (ordRelease 4) ∧
    s.storeForm (.stx 0 5 6 1 2 3) = some ⟨0, 8, .die, true, 0xFFFFFFFFFFF00010, 0xFFFFFF0000100010⟩ ∧
    s.rmwForm (.amoadd 0 3 7 6 4) = some ⟨0, 3, 8, false, 4, 0x10000, .amo .add 0xFFFFFF0000100010⟩ ∧ ordRelease 4 = some .die ∧
    w.Plain ∧ w.OwnAccess 0xFFFFFFFFFFF00010 8 16 ∧ w.movesTo 0x10000 true = none ∧
    (∃ o ∈ w.here.out, o.own = true ∧ o.req.ctx = w.curCtx ∧ o.req.uid = w.cur.uid) :=
  ⟨⟨fun _ h => (nomatch h), fun _ _ h => (nomatch h), fun _ _ h => (nomatch h)⟩,
    fun _ h => by cases h; exact ⟨fun _ h => (nomatch h), fun _ _ h => (nomatch h), fun _ _ h => (nomatch h)⟩,
    by decide, by decide, by decide, task_plain _ _ _ ⟨rfl, rfl⟩, ⟨by decide, by decide, by decide, by decide⟩, by decide, _, List.mem_cons_self, by decide⟩

/-- A load that the L1 serves, a store to a line that it holds, and accesses that leave the core. -/
theorem witness_LoadsAndStores :
    let s := on (task addrs) { core with l1 := [line] } leased
    s.Plain ∧ s.GlobalAccess 0x10000 8 ∧ s.loadForm (.ld 0 3 7 0) = some ⟨0, 3, 8, true, .core, false, 0x10000⟩ ∧
    s.storeForm (.sd 0 7 5 0) = some ⟨0, 8, .core, false, 0x10000, 0xFFFFFFFFFFF00010⟩ ∧ Scope.core.wide = false ∧
    s.l1Hit 0 0 0x10000 8 = some (PByte.clean [1, 2, 3, 4, 5, 6, 7, 8]) ∧ s.loading 0x10000 8 = false ∧
    s.here.l1At 0 0x10000 = some line ∧ s.current 0 line = true ∧
    s.loadForm (.ldx 0 3 7 1 2 0 3) = some ⟨0, 3, 8, true, .die, true, 0x10000⟩ ∧ Scope.die.wide = true ∧
    s.storeForm (.stx 0 7 5 0 2 3) = some ⟨0, 8, .die, false, 0x10000, 0xFFFFFFFFFFF00010⟩ ∧
    s.xlate 0x10000 false = (.ok page, (s.xlate 0x10000 false).2) ∧
    (s.xlate 0x10000 false).2.migrateTo 0x10000 page = none ∧ (s.xlate 0x10000 false).2.loadPoison 0x10000 8 0x20000 = false :=
  ⟨task_plain _ _ _ ⟨rfl, rfl⟩, ⟨by decide, by decide, by decide, by decide⟩, by and_intros <;> decide⟩

/-- A load at core scope that the L1 does not serve. -/
theorem witness_LoadsAndStores_miss : (on (task addrs) core leased).l1Hit 0 0 0x10000 8 = none := by decide

/-- Each trap of an access: misaligned, at SPSIZE, a core id above 1535, a core outside the mask, an address that is not canonical. -/
theorem witness_AccessTraps :
    let s := on (task addrs)
    s.Plain ∧ s.loadForm (.ld 0 3 8 0) = some ⟨0, 3, 8, true, .core, false, 0xFFFFFFFFFFF00013⟩ ∧ 0xFFFFFFFFFFF00013 % 8 ≠ 0 ∧
    placeOf 0xFFFFFFFFFFF04000 = .own 0x4000 ∧ s.here.spsize = 0x4000 ∧
    placeOf 0xFFFFFF0060000000 = .other 1536 0 ∧ placeOf 0x0100000000000000 = .global ∧ canonical 0x0100000000000000 = false ∧
    placeOf 0xFFFFFF0000100000 = .other 1 0 ∧ ({ s with launches := [] } : State).inMask s.cur 1 = false :=
  ⟨task_plain _ _ _ ⟨rfl, rfl⟩, by decide⟩

/-- `red` on its own scratchpad, on a translated address, and on one whose translation fails. -/
theorem witness_ReduceOnWrite :
    let s := on (task addrs) core leased
    s.Plain ∧ s.OwnAccess 0xFFFFFFFFFFF00010 (Fp.fmtBits 0 / 8) 16 ∧ s.GlobalAccess 0x10000 (Fp.fmtBits 0 / 8) ∧
    s.translate s.die s.cur.asid 0x10000 true (some s.curCore) =
      (.ok page, (s.translate s.die s.cur.asid 0x10000 true (some s.curCore)).2) ∧
    (s.translate s.die s.cur.asid 0x10000 true (some s.curCore)).2.migrateTo 0x10000 page = none ∧
    s.translate s.die s.cur.asid 0x40000 true (some s.curCore) = (.error dRoot, s) ∧ s.OtherAccess 0xFFFFFF0000100010 (Fp.fmtBits 0 / 8) 1 16 := by
  refine ⟨task_plain _ _ _ ⟨rfl, rfl⟩, ⟨by decide, by decide, by decide, by decide⟩, ⟨by decide, by decide, by decide, by decide⟩, by rfl, by decide, by rfl, ⟨by decide, by decide, by decide, by decide⟩⟩
/-- Gates that are open, closed, and waited for, and what `waita` names. -/
theorem witness_FencesAndWaits :
    let s := on (task [(5, 0xFFFFFFFFFFF00010), (6, 0xFFFFFF0000100010), (7, 0x10000), (9, 0x1000)]) { core with l1 := [line true] } leased
    s.Plain ∧ s.Alive ∧ s.Open .core ∧ placeOf (s.X 5).toNat = .own 16 ∧ s.OtherAccess (s.X 6).toNat 8 1 16 ∧
    s.otherPoison 1 16 8 = false ∧ s.GlobalAccess (s.X 7).toNat 8 ∧
    s.xlate 0x10000 false = (.ok page, (s.xlate 0x10000 false).2) ∧
    (s.xlate 0x10000 false).2.migrateTo 0x10000 page = none ∧ (s.xlate 0x10000 false).2.loadPoison 0x10000 8 0x20000 = false := by
  have h := task_plain [(5, 0xFFFFFFFFFFF00010), (6, 0xFFFFFF0000100010), (7, 0x10000), (9, 0x1000)] { core with l1 := [line true] } leased
    ⟨rfl, rfl⟩
  exact ⟨h, ⟨h, by decide, by decide⟩, ⟨by decide, by decide, by decide⟩, by decide, ⟨by decide, by decide, by decide, by decide⟩, by decide,
    ⟨by decide, by decide, by decide, by decide⟩, by rfl, by decide, by decide⟩

theorem witness_FencesAndWaits_closed :
    let o : Out := { req := req (.write []) 0x20000 8, write := true, own := true }
    let s := on (task []) { core with l1 := [line true], out := [o] }
    let w := on { task [] with wait := .gate .die [7] } { core with out := [o] }
    s.Plain ∧ Scope.die.wide = true ∧ o ∈ s.here.out ∧ o.write = true ∧ line true ∈ s.here.l1 ∧ (line true).isDirty = true ∧
    w.cur.pend = [] ∧ w.cur.var = [] ∧ w.cur.pp = false ∧ w.cur.wait = .gate .die [7] ∧ o ∈ w.here.out ∧ o.req.id ∈ [7] ∧
    (∀ p ∈ w.here.out, p.req.id ∉ [8]) :=
  ⟨task_plain _ _ _ ⟨rfl, rfl⟩, by decide⟩

/-- A region that a line is in, with its last byte and with its first. -/
theorem witness_FencesAndWaits_region :
    (line true).inRegion 0 0x1007F 1 = true ∧ (line true).inRegion 0 0xFFFF 2 = true ∧ (line true).inRegion 0 0xFFFF 1 = false ∧
    (line true).inRegion 0 0x10080 1 = false := by decide

/-- Objects that are misaligned, in a window, not canonical, and in the page. -/
theorem witness_ObjectInstructions :
    let s := on { task [(5, 0xFFFFFFFFFFF00040), (6, 0x10001), (7, 0x10000), (8, 0x0100000000000000)] with groups := [0x10000] } core leased
    s.Alive ∧ (s.objectForm (.join 0 3 5)).isSome = true ∧ (s.futureForm (.ldf 0 3 7 0)).isSome = true ∧
    s.belowWatermark s.curCore s.cur.asid 0x10000 16 = false ∧ 0x10001 % 64 ≠ 0 ∧
    placeOf 0xFFFFFFFFFFF00040 = .own 64 ∧ placeOf 0x0100000000000000 = .global ∧ canonical 0x0100000000000000 = false ∧
    s.OpenFor (some .package) ∧ s.objAddr 0x10000 64 64 false = (.ok page, (s.objAddr 0x10000 64 64 false).2) ∧
    0x10000 ∈ s.cur.groups ∧ s.objAddr 0x10000 16 16 true = (.ok page, (s.objAddr 0x10000 16 16 true).2) ∧
    (s.objAddr 0x10000 16 16 true).2.migrateTo 0x10000 page = none :=
  ⟨⟨⟨⟨by decide, by decide, by decide, by decide⟩, by decide⟩, by decide, by decide⟩, by decide, by decide, by decide, by decide, by decide,
    by decide, by decide, fun x _ => ⟨by decide, fun _ => by decide, fun _ => by decide⟩, by rfl, by decide, by rfl, by decide⟩

theorem witness_ObjectInstructions_groups :
    let s := on { task [(7, 0x10000)] with groups := [1, 2, 3, 4] } core leased
    let t := on { task [(7, 0x10000)] with groups := [1, 2, 3] } core leased
    s.Alive ∧ t.Alive ∧ 0x10000 ∉ s.cur.groups ∧ 4 ≤ s.cur.groups.length ∧ 0x10000 ∉ t.cur.groups ∧ t.cur.groups.length < 4 :=
  ⟨⟨⟨⟨by decide, by decide, by decide, by decide⟩, by decide⟩, by decide, by decide⟩,
    ⟨⟨⟨by decide, by decide, by decide, by decide⟩, by decide⟩, by decide, by decide⟩, by decide, by decide, by decide, by decide⟩

/-- A request in an outbound queue, and requests at the head of a channel with and without poison at their address. -/
theorem witness_AccessesAtHomes :
    let r := req .read 0x20000 8
    (({ cores := [(0, { core with oq := [r] })] } : State).core 0).oq = r :: [] ∧
    (front r).Front r ∧ r.home = .slice 0 ∧ (front (req (.write (PByte.clean [1, 2])) 0x20000 2)).Front (req (.write (PByte.clean [1, 2])) 0x20000 2) ∧
    (front (req (.writeBack [(0, ⟨1, false⟩), (127, ⟨2, true⟩)]) 0x20000 128)).Front (req (.writeBack [(0, ⟨1, false⟩), (127, ⟨2, true⟩)]) 0x20000 128) ∧
    (Map.keys [(0, (⟨1, false⟩ : PByte)), (127, ⟨2, true⟩)]).Nodup :=
  ⟨by decide, front_front, by decide, front_front, front_front, by decide⟩

/-- A module whose L2 slices hold nothing, and one of which a slice holds a dirty line over an older one. -/
theorem witness_AccessesAtHomes_l2 :
    ({} : State).L2True ∧ ({ l2 := [(0x400, { dirty := true, under := some (List.replicate 128 ⟨9, false⟩) })] } : State).L2True := by
  refine ⟨fun k e h _ => by simp [Map.find?] at h, fun k e h hd => ?_⟩
  simp only [Map.find?] at h
  split at h
  · cases h; simp at hd
  · simp at h

theorem witness_AccessesAtHomes_spad :
    let r := req .read 0x3FF8 8 (.spad 1)
    let q := req (.write (PByte.clean [1])) 0x4000 1 (.spad 1)
    let s : State := { cores := [(1, core)] }
    (front r s).Front r ∧ r.addr < ((front r s).core 1).spsize ∧ (front q s).Front q ∧ ((front q s).core 1).spsize ≤ q.addr :=
  ⟨front_front, by decide, front_front, by decide⟩

theorem witness_AccessesAtHomes_rmw :
    let r := req (.amo .add 5) 0x20000 8
    let c := req (.cas 1 5) 0x20000 8
    (front r).Front r ∧ r.op.newValue 8 0 = some 5 ∧ (front c).Front c ∧ c.op.newValue 8 0 = none ∧
    (front r { poison := [0x20007] }).Front r ∧ NatSet.has [0x20007] 0x20007 = true :=
  ⟨front_front, by decide, front_front, by decide, front_front, by decide⟩

/-- A full, an empty and a bad cell, a home with 32 waiting `ldf`, and one that a withdrawal names. -/
theorem witness_FutureCells :
    let r := req .ldf 0x20000 16
    let v := req (.stf 9) 0x20000 16
    let w := req (.withdraw 7) 0x20000 16
    let cell := fun (b : Byte) (s : State) => ({ s with mem := word 0x20008 b } : State)
    (front r (cell 1 {})).Front r ∧ ((cell 1 {}).memWord 0x20008).toNat = 1 ∧ 1 < ((cell 2 {}).memWord 0x20008).toNat ∧
    ((front r).memWord 0x20008).toNat = 0 ∧ (front v).Front v ∧ (front w { deferred := [r] }).Front w ∧
    ((front r { deferred := List.replicate 31 r }).deferred.countP (fun q => q.home == r.home) < 32) ∧
    (32 ≤ (front r { deferred := List.replicate 32 r }).deferred.countP (fun q => q.home == r.home)) ∧
    (front w { deferred := [r] }).deferred.find? (fun q => q.id == 7 && q.home == w.home) = some r :=
  ⟨front_front, by decide, by decide, by decide, front_front, front_front, by decide, by decide, by decide⟩

/-- Barriers of two and of one arrival, one with a reserved word set, and `barw` of two generations. -/
theorem witness_BarriersAndGroups :
    let r := { req .barv 0x20000 128 with scope := .package }
    let w := fun (g : W64) => req (.barw g) 0x20000 128
    let two : State := { mem := word 0x20008 2 }
    let one : State := { mem := word 0x20008 1 }
    let bad : State := { mem := word 0x20010 1 }
    (front r two).Front r ∧ ((front r two).memWord 0x20000).toNat % 2 ^ 32 + 1 < ((front r two).memWord 0x20008).toNat % 2 ^ 32 ∧
    (front r one).Front r ∧ ((front r one).memWord 0x20008).toNat % 2 ^ 32 ≤ ((front r one).memWord 0x20000).toNat % 2 ^ 32 + 1 ∧
    (∀ k, 2 ≤ k → k < 8 → (front r two).memWord (0x20000 + 8 * k) = 0) ∧ (front r bad).memWord 0x20010 ≠ 0 ∧
    (front (w 0) two).Front (w 0) ∧ (front (w 1) two).Front (w 1) ∧ ((front (w 0) two).memWord 0x20000).toNat / 2 ^ 32 = 0 := by
  refine ⟨front_front, by decide, front_front, by decide, ?_, by decide, front_front, front_front, by decide⟩
  intro k h2 h8
  obtain rfl | rfl | rfl | rfl | rfl | rfl : k = 2 ∨ k = 3 ∨ k = 4 ∨ k = 5 ∨ k = 6 ∨ k = 7 := by omega
  all_goals decide

theorem witness_BarriersAndGroups_groups :
    let j := req .join 0x20000 64
    let l := req .leave 0x20000 64
    let a := req (.adjust false 7) 0x20000 128
    (front j).Front j ∧ ((front j).memWord 0x20000).toNat % 2 ^ 32 < 2 ^ 32 - 1 ∧ (front l { mem := word 0x20000 1 }).Front l ∧
    0 < ((front l { mem := word 0x20000 1 }).memWord 0x20000).toNat % 2 ^ 32 ∧
    ((front l { mem := word 0x20004 1 }).memWord 0x20000).toNat / 2 ^ 32 ≠ 0 ∧ (front a).Front a :=
  ⟨front_front, by decide, front_front, by decide, by decide, front_front⟩

theorem witness_BarriersAndGroups_init :
    let g := req (.bari 2 true 0 1) 0x20000 128
    let b := req (.bari 0x800000000000 true 0 1) 0x20000 128
    (front g).Front g ∧ (2 : W64).toNat / 2 ^ 47 = 0 ∧ (2 : W64).getLsbD 35 = false ∧ (front b).Front b ∧
    (0x800000000000 : W64).toNat / 2 ^ 47 ≠ 0 := ⟨front_front, by decide, by decide, front_front, by decide⟩

/-- A barrier with a continuation at its last arrival, one with a poisoned byte, and an adjustment that an arrival meets. -/
theorem witness_BarriersAndGroups_continuation :
    let r := { req .barv 0x20000 128 with scope := .package }
    let a := req (.adjust false 7) 0x20000 128
    let s : State := { mem := [(0x20008, 1), (0x2000C, 8)], barConts := [(0x20000, 1)], launches := [(1, launch1)] }
    let words := (List.range 8).map (fun k => (front r s).memWord (0x20000 + 64 + 8 * k))
    (front r s).Front r ∧ ((front r s).memWord 0x20008).toNat / 2 ^ 47 = 0 ∧ ((front r s).memWord 0x20008).toNat / 2 ^ 32 % 8 = 0 ∧
    ((front r s).memWord 0x20008).toNat / 2 ^ 35 % 2 = 1 ∧ (front r s).barConts.find? 0x20000 = some 1 ∧
    (TaskMsg.ofWords words).hnd % 4 = 0 ∧ (TaskMsg.ofWords words).role ≠ 3 ∧ nth 0 words 7 = 0 ∧ (front r s).maskHas 1 0 = true ∧
    NatSet.has (front r { poison := [0x20040] }).poison 0x20040 = true ∧
    (front a { mem := [(0x20000, 1), (0x20008, 2)] }).Front a ∧
    ((front a { mem := [(0x20000, 1), (0x20008, 2)] }).memWord 0x20008).toNat % 2 ^ 32 - 1 ≤ 1 :=
  ⟨front_front, by and_intros <;> first | decide | exact front_front⟩

/-- A group whose words are bad, and one with a barrier that translates. -/
theorem witness_BarriersAndGroups_barrier :
    let j := req .join 0x20000 64
    let s := front j { leased with mem := [(0x2000A, 1)] }
    let v := ((s.taken j).l2Access 0 j).memSetWord j.addr 1
    s.Front j ∧ ((front j { mem := [(0x20010, 1)] }).memWord 0x20010) ≠ 0 ∧ (s.memWord 0x20008).toNat = 0x10000 ∧
    (s.memWord 0x20000).toNat = 0 ∧ (∀ k, 2 ≤ k → k < 8 → s.memWord (0x20000 + 8 * k) = 0) ∧
    placeOf 0x10000 = .global ∧ canonical 0x10000 = true ∧ (∃ u, v.translate (dieOf 0) j.asid 0x10000 false none = (.ok page, u)) ∧
    cacheable page.pa = true := by
  refine ⟨front_front, by decide, by decide, by decide, ?_, by decide, by decide, ⟨_, rfl⟩, by decide⟩
  intro k h2 h8
  obtain rfl | rfl | rfl | rfl | rfl | rfl : k = 2 ∨ k = 3 ∨ k = 4 ∨ k = 5 ∨ k = 6 ∨ k = 7 := by omega
  all_goals decide

/-- `bari` of a configuration with a continuation, whose template can be sent and cannot. -/
theorem witness_BarriersAndGroups_template :
    let b := fun (ok : Bool) => req (.bari 0x800000002 ok 0 1) 0x20000 128
    let words := (List.range 8).map (fun k => (front (b true)).memWord (0x20000 + 64 + 8 * k))
    (front (b true)).Front (b true) ∧ (front (b false)).Front (b false) ∧ (0x800000002 : W64).getLsbD 35 = true ∧
    (0x800000002 : W64).toNat / 2 ^ 47 = 0 ∧ (TaskMsg.ofWords words).hnd % 4 = 0 ∧ (TaskMsg.ofWords words).role ≠ 3 ∧ nth 0 words 7 = 0 :=
  ⟨front_front, front_front, by decide⟩

/-- A line of an L1, and a line that a portion of another die holds. -/
theorem witness_EvictionsAndPortions :
    let r := { req .read 0x2000000000 128 (.slice 384) with scope := .core }
    let x : RdcLine := ⟨.slice 384, 0x2000000000 / 128, List.replicate 128 (⟨5, false⟩, 3)⟩
    let s : State := { cores := [(0, { core with l1 := [line true] })], rdc := [(0, [x])], chans := [⟨.core 0, .slice 384, [r]⟩] }
    (s.core 0).l1[0]? = some (line true) ∧ (line true).isDirty = true ∧ (line).isDirty = false ∧ dieOf 384 ≠ dieOf 0 ∧
    (s.chan (.core 0) (.slice 384)).head? = some r ∧ s.rdcLine 0 (.slice 384) 0x2000000000 = some x ∧ r.scope.rank ≤ 2 ∧
    r.agent = .core 0 ∧ r.home = .slice 384 ∧ (s.rdc.get [] 0)[0]? = some x ∧ 2 < ({ r with scope := .package } : Req).scope.rank := by
  decide

/-- Answers of a read-modify-write and of a load that fills a line, to the task that waits for them. -/
theorem witness_Answers :
    let r := { req (.amo .add 1) 0x20000 8 with dest := .value (.x 0 3) 8 false }
    let x : Resp := { req := r, val := 5 }
    let s := answering x (on { task [] with var := [.x 0 3] } (outstanding r true))
    let y : Resp := { x with poison := true }
    let u := answering y (on { task [] with var := [.x 0 3, .x 0 4] } (outstanding r true))
    s.rchan (.slice 0) (.core 0) = x :: [] ∧ (s.ctx 0 0).uid = r.uid ∧ (s.ctx 0 0).phase = .running ∧ s.saves = [] ∧
    (s.ctx 0 0).wait = .none ∧ (s.ctx 0 0).killed = false ∧ (∀ v ∈ (s.ctx 0 0).var, v = .x 0 3) ∧
    (∃ v ∈ (u.ctx 0 0).var, v ≠ .x 0 3) ∧ u.rchan (.slice 0) (.core 0) = y :: [] ∧ (s.ctx 0 0).uid ≠ ({ r with uid := 2 } : Req).uid := by decide

theorem witness_Answers_load :
    let r := { req .read 0x20000 128 with va := 0x10078, dest := .load (.x 0 3) 8 false, tr := some page }
    let x : Resp := { req := r, bytes := List.replicate 128 ⟨5, false⟩, base := 0x20000 }
    let s := answering x (on { task [] with var := [.x 0 3] } (outstanding r false))
    s.rchan (.slice 0) (.core 0) = x :: [] ∧ dieOf 0 = dieOf 0 ∧ x.ok = true ∧ x.bytes.length = 128 ∧ r.addr % 128 = 0 ∧
    x.base = r.addr ∧ r.va % 128 + 8 ≤ 128 ∧ PByte.anyBad x.bytes = false ∧ x.poss = [] ∧ (r.tr = some page ∧ page.pa = r.addr) ∧
    (∀ m ∈ (s.core 0).l1, ¬(m.asid = r.asid ∧ m.line = r.va / 128)) ∧
    (s.ctx 0 0).uid = r.uid ∧ (s.ctx 0 0).phase ≠ .free ∧ (s.ctx 0 0).phase ≠ .leaving :=
  ⟨by decide, rfl, rfl, rfl, by decide, rfl, by decide⟩

/-- Answers to a registration, to a refused request of the hub, to a join and to a future. -/
theorem witness_Answers_objects :
    let r := fun (op : HomeOp) (d : Dest) => { req op 0x20000 8 with dest := d }
    let s := fun (w : Wait) => on { task [] with wait := w }
    let a := r (.waita 0) (.answer (.x 0 3))
    let h := { r (.improve 0 0 false 0) (.answer (.x 0 3)) with home := .hub }
    let g := r .join (.group (.x 0 3) 0x10000 true)
    let f := r .ldf (.future (.x 0 3))
    (∀ q ∈ [a, h, g, f], (answering { req := q } (s (.answer 7))).rchan q.home q.agent = [{ req := q }]) ∧ a.registers = true ∧
    ((s (.answer 7)).ctx 0 0).wait = .answer a.id ∧ ((s .none).ctx 0 0).wait ≠ .answer a.id ∧ h.registers = false ∧ h.op.hubRefusal = true ∧
    ((s .none).ctx 0 0).uid = a.uid ∧ ((s .none).ctx 0 0).phase = .running ∧ ((s .none).ctx 0 0).expired = false ∧ g.acq = none ∧
    f.dest = .future (.x 0 3) := by
  decide
/-- x5 holds a message, a record and a word of the own scratchpad, x6 all ones, x7 a queue above 255. -/
def objects : Map W64 := [(4, 3), (5, 0xFFFFFFFFFFF00080), (6, 0xFFFFFFFFFFFFFFFF), (7, 256), (9, 0xFFFFFFFFFFF03FF8)]

theorem witness_TaskInstructions :
    let s := on (task objects)
    let m := TaskMsg.ofWords ((List.range 8).map (s.spWord 0x80))
    s.Alive ∧ s.OwnObject (s.X 5).toNat 64 0x80 ∧ s.spClean 0x80 64 ∧ m.hnd % 4 = 0 ∧ m.role ≠ 3 ∧ s.spWord 0x80 7 = 0 ∧
    s.X 6 = BitVec.allOnes 64 ∧ s.inMask s.cur 0 = true ∧ s.Open .package ∧
    boundCheck (s.here.shadow.get {} m.inc) s.cur.asid s.cur.job m.bound = false ∧
    boundCheck { key := 0, mode := 2, bind := bindWord 0 0 } 0 0 0 = true :=
  ⟨task_alive _ _ _ ⟨rfl, rfl⟩, ⟨by decide, by decide, by decide⟩, fun _ _ _ => rfl, by decide, by decide, by decide, by decide, by decide,
    ⟨by decide, fun _ => by decide, fun _ => by decide⟩, by decide, by decide⟩

/-- A misaligned object, one beyond SPSIZE, one outside the window; a misaligned handler, a reserved role, and a target of no
core. -/
theorem witness_TaskInstructions_traps :
    let s := on (task objects) { core with spad := [(0x80, 1)] }
    let r := on (task objects) { core with spad := [(0x83, 3)] }
    s.Alive ∧ placeOf 0xFFFFFFFFFFF00081 = .own 0x81 ∧ 0xFFFFFFFFFFF00081 % 8 ≠ 0 ∧ placeOf 0xFFFFFFFFFFF04000 = .own 0x4000 ∧
    s.here.spsize < 0x4000 + 8 ∧ placeOf 0x10000 = .global ∧ s.OwnObject (s.X 5).toNat 64 0x80 ∧ s.spClean 0x80 64 ∧
    (s.spWord 0x80 0).toNat % 4 ≠ 0 ∧ (r.spWord 0x80 0).toNat % 4 = 0 ∧ (r.spWord 0x80 0).toNat / 2 ^ 24 % 4 = 3 ∧
    ¬((1536 : Nat) ≤ 1535) :=
  ⟨task_alive _ _ _ ⟨rfl, rfl⟩, by decide, by decide, by decide, by decide, by decide, ⟨by decide, by decide, by decide⟩, fun _ _ _ => rfl,
    by decide, by decide, by decide, by decide⟩

/-- A word that differs from rs2 and one that equals it, at the end of the scratchpad, and a queue below and above 256. -/
theorem witness_TaskInstructions_park :
    let s := on (task objects)
    s.Alive ∧ (∀ q ∈ s.poolQueue (s.curCore / 8), q.core = s.curCore → q.ctx = s.curCtx → q.uid = s.cur.uid) ∧
    s.OwnObject (s.X 9).toNat 8 0x3FF8 ∧ s.spClean 0x3FF8 8 ∧ s.spWord 0x3FF8 0 ≠ s.X 6 ∧ s.spWord 0x3FF8 0 = s.X 0 ∧
    s.OwnObject (s.X 5).toNat 128 0x80 ∧ s.Open .package ∧ (s.X 4).toNat ≤ 255 ∧ 255 < (s.X 7).toNat :=
  ⟨task_alive _ _ _ ⟨rfl, rfl⟩, by decide, ⟨by decide, by decide, by decide⟩, fun _ _ _ => rfl, by decide, by decide, ⟨by decide, by decide, by decide⟩,
    ⟨by decide, fun _ => by decide, fun _ => by decide⟩, by decide, by decide⟩

/-- A task that no message names, with no group and with one group at an address that translates. -/
theorem witness_TaskInstructions_end :
    let s := on (task [])
    let g := on { task [] with groups := [0x10040] } core leased
    s.Alive ∧ s.cur.groups = [] ∧ (∀ f ∈ s.msgs, f.uid ≠ s.cur.uid) ∧ s.launch? s.cur.launch = some launch1 ∧ g.Alive ∧
    (∀ q ∈ g.poolQueue (g.curCore / 8), q.core = g.curCore → q.ctx = g.curCtx → q.uid = g.cur.uid) ∧ (∀ f ∈ g.msgs, f.uid ≠ g.cur.uid) ∧
    g.cur.groups = [] ++ [0x10040] ∧ (g.translate g.die g.cur.asid 0x10040 false (some g.curCore)).1 = .ok (page.at 0x10040) :=
  ⟨task_alive _ _ _ ⟨rfl, rfl⟩, by decide, by decide, by decide, ⟨⟨⟨by decide, by decide, by decide, by decide⟩, by decide⟩, by decide, by decide⟩,
    by decide, by decide, by decide, by decide⟩

/-- A bounded task and one that is not, and a shadow that is bound to its job. -/
theorem witness_Incumbents :
    let s := on (task objects) { core with shadow := [(2, { key := 5, mode := 0, bind := 2 ^ 38 })] }
    let b := on { task objects with bd := true, inc := 2, bound := 9, status := 0x8000 }
      { core with shadow := [(2, { key := 5, mode := 0, bind := 2 ^ 38 })] }
    s.Alive ∧ s.cur.bd = false ∧ s.cur.sup = false ∧ b.Alive ∧ b.cur.bd = true ∧ b.cur.inc = 2 ∧ b.cur.inc ≠ 3 ∧ b.cur.sup = true ∧
    (b.here.shadow.get {} 2).bind / 2 ^ 38 % 2 = 1 ∧
    (s.here.shadow.get {} 2).bind = 2 ^ 38 + s.cur.asid % 64 * 2 ^ 32 + s.cur.job % 2 ^ 32 ∧
    (s.here.shadow.get {} 3).bind ≠ 2 ^ 38 + s.cur.asid % 64 * 2 ^ 32 + s.cur.job % 2 ^ 32 ∧ s.Open .package ∧ b.Open .package ∧
    (0x80 : Nat) / 2 ^ 7 % 2 ≠ 0 ∧ (0x3F017F : Nat) / 2 ^ 22 % 2 ^ 10 = 0 :=
  ⟨task_alive _ _ _ ⟨rfl, rfl⟩, by decide, by decide, ⟨⟨⟨by decide, by decide, by decide, by decide⟩, by decide⟩, by decide, by decide⟩,
    by decide, by decide, by decide, by decide, by decide, by decide, by decide, ⟨by decide, fun _ => by decide, fun _ => by decide⟩,
    ⟨by decide, fun _ => by decide, fun _ => by decide⟩, by decide, by decide⟩

/-- Requests at the hub. -/
theorem witness_Incumbents_hub :
    let i := req (.improve 2 (5 * 2 ^ 32) false 0) 0 8 .hub
    let r := req (.rdinc 2 false 0) 0 8 .hub
    let n := req (.incset 2 0 1 0) 0 8 .hub
    let h : State := { hub := [(2, { key := 4 * 2 ^ 32, mode := 0, bind := 2 ^ 38 })] }
    (front i h).Front i ∧ i.home = .hub ∧ (front i h).incsets.find? 2 = none ∧ (front r h).Front r ∧ (front n h).Front n ∧
    ((front i h).hub.get {} 2).bind / 2 ^ 38 % 2 = 1 ∧ (front i h).hub.get {} 3 = {} :=
  ⟨front_front, by decide, by decide, front_front, front_front, by decide, by decide⟩

/-- A broadcast and an `incset` in progress, at the first and the last shadow, and a late broadcast. -/
theorem witness_Incumbents_shadows :
    let b : Bcast := ⟨2, 5, 0, []⟩
    let i : IncSet := { req := req (.incset 2 9 1 0) 0 8 .hub }
    let s : State := { bcasts := [b], incsets := [(2, i)], time := [(0, 1000)], lagSend := [1539], dev := [(pRq + 8, 4)] }
    s.bcasts[0]? = some b ∧ NatSet.has b.acked 0 = false ∧ NatSet.has b.acked 1539 = false ∧ s.incsets.find? 2 = some i ∧
    i.req.op = .incset 2 9 1 0 ∧ s.hubWait = [] ∧ (∀ e ∈ s.incsets, e.1 ≠ 2 → NatSet.has e.2.acked 0 = true) ∧
    (∀ e ∈ s.incsets, e.1 = 2 → e.2 = i) ∧ b ∈ s.bcasts ∧ b.sent + 1000 ≤ s.timeOf 0 ∧ ((s.shadows 0).get {} 2).lag = false ∧
    s.queueFull pRq = false ∧ NatSet.has ({ s with incsets := [] } : State).lagSend 1539 = true := by decide

/-- A hire and a bind of one element by four, with and without a free slot. -/
def geometry : Map W64 := [(0, 0x2200040000), (3, 0x400008000004)]

theorem witness_HireInstructions :
    let s := on { task [(5, 0xFFFFFFFFFFF00080), (6, 0xFFFFFFFFFFF00100), (4, 3), (7, 128), (8, 36)] with hg := geometry }
    let h := s.draftHire false 0xFFFFFFFFFFF00080 0xFFFFFFFFFFF00100 0xFFF00100 [] []
    let b := s.draftHire true 0 0xFFFFFFFFFFF00080 3 [] []
    s.Alive ∧ h.shape = none ∧ s.TileOk (s.X 5) 4 h.aExtent ∧ s.TileOk (s.X 6) 4 h.bTile.extent ∧ h.gath = false ∧ h.usesDup = false ∧
    0 < h.k ∧ b.bindShape = none ∧ s.TileOk (s.X 5) 4 b.bTile.extent ∧ s.cur.slotFree 0 = true ∧ (s.X 4).toNat / 8 = s.curCtx ∧
    128 ≤ (s.X 7).toNat ∧ 35 < (s.X 8).toNat ∧ (s.X 4).toNat ≤ 35 ∧ s.cur.hiring = none :=
  ⟨⟨⟨⟨by decide, by decide, by decide, by decide⟩, by decide⟩, by decide, by decide⟩, by decide, ⟨0x80, by decide⟩, ⟨0x100, by decide⟩,
    by decide, by decide, by decide, by decide, ⟨0x80, by decide⟩, by decide⟩

/-- A hire with a gather map and a duplication map of one entry, and shapes that fail. -/
theorem witness_HireInstructions_maps :
    let s := on { task [] with hg := [(0, 0x60002200040000), (3, 0x400008000004), (5, 0x10008000100)] } { core with spad := [(0x80, 1)] }
    let h0 := s.draftHire false 0xFFFFFFFFFFF00200 0xFFFFFFFFFFF00300 0xFFF00300 [] []
    let h := { h0 with dup := [0], idx := [0] }
    let bad := (on (task [])).draftHire false 0 0 0 [] []
    s.cur.hiring = none ∧ h0.usesDup = true ∧ h0.gath = true ∧ leNat (Memory.bytes s.here.spad h0.dmap 2) = 1 ∧ h0.m = 1 ∧
    (List.range 1).map (fun i => leNat (Memory.bytes s.here.spad (h0.dmap + 2 * (1 + i)) 2)) = h.dup ∧
    (List.range h0.m).map (fun i => leNat (Memory.bytes s.here.spad (h0.gidx + 2 * i) 2)) = h.idx ∧ h.shape = none ∧
    s.TileOk 0xFFFFFFFFFFF00200 4 h.aExtent ∧ s.TileOk 0xFFFFFFFFFFF00300 4 h.bTile.extent ∧ s.TileOk (spVa h.gidx) 2 (2 * h.m) ∧
    s.TileOk (spVa h.dmap) 2 4 ∧ (∀ x ∈ h.idx, x < h.g 5 51 40) ∧ h.dup.Pairwise (· < ·) ∧ (∀ x ∈ h.dup, x < h.k0) ∧ 1 < h.k ∧
    (∀ j, NatSet.has s.here.spadPoison j = false) ∧
    bad.shape = some 3 ∧ ((on (task [])).draftHire true 0 0 0 [] []).bindShape = some 3 :=
  ⟨by decide, by decide, by decide, by decide, by decide, by decide, by decide, by decide, ⟨0x200, by decide⟩, ⟨0x300, by decide⟩,
    ⟨0x100, by decide⟩, ⟨0x80, by decide⟩, by decide, by decide, by decide, by decide, fun _ => rfl, by decide, by decide⟩

/-- Tiles in another window, misaligned and past the end; a map with a poisoned byte, and one whose entry is not below its bound. -/
theorem witness_HireInstructions_traps :
    let s := fun (m : List Host.Cell) (p : NatSet) =>
      on { task [(5, 0x10000), (6, 0xFFFFFFFFFFF00081), (7, 0xFFFFFFFFFFF3FFF0)] with hg := [(0, 0x60002200040000), (3, 0x400008000004), (5, 0x10008000100)] }
        { core with spad := m, spadPoison := p }
    let h0 := (s [] []).draftHire false 0xFFFFFFFFFFF00200 0xFFFFFFFFFFF00300 0xFFF00300 [] []
    (∀ off, placeOf ((s [] []).X 5).toNat ≠ .own off) ∧ placeOf ((s [] []).X 6).toNat = .own 0x81 ∧ 0x81 % 4 ≠ 0 ∧
    placeOf ((s [] []).X 7).toNat = .own 0x3FFF0 ∧ (s [] []).here.spsize < 0x3FFF0 + 4 ∧
    NatSet.has (s [] [0x100]).here.spadPoison h0.gidx = true ∧ NatSet.has (s [] [0x80]).here.spadPoison h0.dmap = true ∧
    h0.g 5 51 40 ≤ leNat (Memory.bytes (s [(0x100, 1)] []).here.spad h0.gidx 2) :=
  ⟨fun off => by rw [show placeOf _ = Place.global by decide]; simp, by decide⟩

/-- A task that has parked in `hire` with what it has captured, and the slot it waits for. -/
theorem witness_HireInstructions_parked :
    let s := on { task [] with wait := .cond, phase := .parked, hiring := some (hire 1), hires := [(1, ⟨3, none⟩)] }
    s.cur.pend = [] ∧ s.cur.var = [] ∧ s.cur.pp = false ∧ s.cur.killed = false ∧ s.cur.wait = .cond ∧ s.cur.phase = .parked ∧
    s.cur.hiring = some (hire 1) ∧ s.cur.slotFree 0 = true ∧ s.cur.slotFree 1 = false := by
  and_intros <;> decide

/-- Slots with a hire that works and with final status words, and none that is free. -/
theorem witness_HireInstructions_slots :
    let t := fun (w : Option W64) => { task [] with hires := (List.range 8).map (fun i => (i, (⟨i, w⟩ : HireSlot))) }
    (∀ slot, slot < 8 → (on (t none)).cur.slotFree slot = false) ∧
    (on (t none)).slotStatus (t none) 3 = 0 ∧ ((on (t (some 0x10))).slotStatus (t (some 0x10)) 3).toNat % 256 = 0x10 ∧
    ((on (t (some 0x11))).slotStatus (t (some 0x11)) 3).toNat % 256 ≠ 0x10 ∧ (on (t (some 0x11))).cur.slotFree 3 = true := by
  decide
/-- Ids of transfers: one that names an operation of a copy channel, malformed ones, and one that names nothing. -/
theorem witness_TransferInstructions :
    let op := fun (w : W64) => ({ copies := [(0, { nextSeq := 1, recent := [⟨0, 0, w, .die⟩] })], conf := core.conf } : HomeCore)
    let s := on (task [(3, 0x1000000), (4, 0x40000), (5, 0), (6, 0x10000)]) (op 0x10)
    let w := on (task []) (op 2)
    s.Plain ∧ (s.X 3).toNat / 2 ^ 24 ≠ 0 ∧ (s.X 4).toNat / 2 ^ 23 % 2 = 0 ∧ (s.X 4).toNat / 2 ^ 18 % 2 ^ 5 ≠ 0 ∧
    ¬((s.X 5).toNat / 2 ^ 24 ≠ 0) ∧ (s.X 5).toNat / 2 ^ 18 % 2 ^ 5 = 0 ∧ s.idStatus (s.X 5).toNat = 0x10 ∧
    s.idOp (s.X 6).toNat = none ∧ w.Plain ∧ w.idStatus 0 = 2 ∧ (2 : W64).getLsbD 16 = false ∧ (0x20002 : W64).getLsbD 17 = true :=
  ⟨task_plain _ _ _ ⟨rfl, rfl⟩, by and_intros <;> first | decide | exact task_plain _ _ _ ⟨rfl, rfl⟩⟩

/-- A ring header of one element of 64 bytes, a bad one, one that does not fit, and rings to stop. -/
theorem witness_TransferInstructions_rings :
    let s := on (task [(5, 0xFFFFFFFFFFF00080)]) { core with spad := [(0x80, 1), (0x82, 64)] }
    let b := on (task [(5, 0xFFFFFFFFFFF00080)])
    let r : Ring := { core := 0, uid := 1, launch := 1, asid := 0, job := 0, ovl := 0, hdr := 0x80, word0 := 0, recVa := 0, word4 := 0, word5 := 0 }
    let e : State := on (task [(5, 0)]) core { bdes := [(0, { rings := [(0, r)] })] }
    s.Plain ∧ s.OwnObject (s.X 5).toNat 64 0x80 ∧ s.spClean 0x80 64 ∧ badHeader ((List.range 8).map (s.spWord 0x80)) = false ∧
    0x80 + (64 + 64) ≤ s.here.spsize ∧ s.bdeOff (ringUnit 0) = false ∧ (s.bde (ringUnit 0)).freeRing = some 0 ∧
    badHeader ((List.range 8).map (b.spWord 0x80)) = true ∧ e.ring? 0 0 = some r ∧ r.launch = e.cur.launch ∧ r.ending = none ∧
    e.ring? 0 1 = none ∧ e.here.spsize < 0x80 + (64 + 256 * 64) :=
  ⟨task_plain _ _ _ ⟨rfl, rfl⟩, ⟨by decide, by decide, by decide⟩, fun _ _ _ => rfl, by decide⟩

theorem witness_BaseDieInstructions :
    let z : Zone := { unit := 0, chan := 0, seq := 0, asid := 0, first := 0, fmt := 0, frac := 0, e := 1, dst := 0, count := 1 }
    let o : BdeOp := { seq := 0, kind := .coll, core := 0, uid := 1, launch := 1, asid := 0, job := 0, zone := some (0, 0) }
    let s := on (task [(5, 0x20003), (6, 0x10000), (7, 0x10001), (8, 0xFFFFFFFFFFF00040), (9, 0x40), (10, 0x800000), (11, 0x1000000)]) core
      { bdes := [(0, { chans := [(0, { nextSeq := 1, queue := [o] })], zones := [(0, z)] })] }
    s.Plain ∧ (s.X 7).toNat % 65536 ≠ 0 ∧ placeOf ((s.X 5).toNat / 65536 * 65536) = .global ∧ placeOf (s.X 6).toNat = .global ∧
    (s.X 6).toNat % 65536 = 0 ∧ placeOf ((s.X 8).toNat / 65536 * 65536) = .own 0 ∧ placeOf (s.X 8).toNat = .own 0x40 ∧ (s.X 9).toNat % 64 = 0 ∧
    (s.X 6).toNat % 64 = 0 ∧ (s.X 7).toNat % 64 ≠ 0 ∧ (s.X 11).toNat / 2 ^ 24 % 2 ^ 8 ≠ 0 ∧ (s.X 10).toNat / 2 ^ 24 % 2 ^ 8 = 0 ∧
    s.zoneOf 0x800000 = some (0, 0, z) ∧ s.zoneOf 0x800001 = none ∧ s.OwnAccess (s.X 8).toNat 4 0x40 ∧
    s.lanePoison 4 [(s.X 8).toNat] = none :=
  ⟨task_plain _ _ _ ⟨rfl, rfl⟩, by and_intros <;> first | decide | exact ⟨by decide, by decide, by decide, by decide⟩⟩

/-- A task without a claim and one with a claim, a pool with and without a queue. -/
theorem witness_ClaimInstructions :
    let s := on (task [])
    let c := on (claimed [])
    let q : PoolReq := { core := 1, ctx := 0, uid := 9, lmin := 64, lmax := 64 }
    let f := on (task []) { core with ctxs := [] } { pools := [(0, [q])] }
    s.Alive ∧ s.cur.claim = none ∧ s.poolQueue 0 = [] ∧ s.poolSlot 0 = true ∧ s.poolFree 0 = 256 ∧ c.Alive ∧ c.cur.claim.isSome = true ∧
    c.poolFree 0 = 248 ∧ f.cur.claim = none ∧ (f.poolQueue 0).head? = some q ∧ f.poolFree 0 = 256 :=
  ⟨task_alive _ _ _ ⟨rfl, rfl⟩, by decide, by decide, by decide, by decide, ⟨⟨⟨by decide, by decide, by decide, by decide⟩, by decide⟩, by decide, by decide⟩,
    by decide⟩

/-- A lane instruction without a claim, in a cycle in which the pool is full, and under a prefix of another format. -/
theorem witness_ClaimInstructions_lanes :
    let f := on (claimed [] 64) core { poolUse := [(0, (0, 8))] }
    let p := on { claimed [] with status := 0x80, pfx := { fa := 1 } }
    laneInstr (.vaddVv 0 1 2 3 0) = some false ∧ laneInstr (.vfaddVv 0 1 2 3 0) = some true ∧ (on (task [])).cur.claim = none ∧
    f.Calm ∧ f.cur.claim.isSome = true ∧ f.poolFits = false ∧ f.cur.pp = false ∧ p.Calm ∧ p.Claimed ∧ p.cur.pp = true ∧ p.cur.pfx.fa ≠ 0 := by
  refine ⟨?_, ?_, ?_, ⟨?_, ?_, ?_, ?_⟩, ?_, ?_, ?_, ⟨?_, ?_, ?_, ?_⟩, ⟨?_, ?_⟩, ?_, ?_⟩ <;> decide

/-- Lanes that lie in the scratchpad, the last one at its end, and lanes that trap. -/
theorem witness_VectorMemory :
    let s := on (claimed [(5, 0xFFFFFFFFFFF00080), (6, 4), (7, 0xFFFFFFFFFFF03FF0), (8, 0xFFFFFFFFFFF00001), (9, 0x10000), (10, 0xFFFFFFFFFFF04000)])
    s.Plain ∧ s.Claimed ∧ s.acts 0 7 ∧ s.acts 1 0 ∧ ¬s.acts 1 1 ∧ (s.X 5).toNat % 4 = 0 ∧ placeOf (s.X 5).toNat = .own 0x80 ∧
    0x80 + 8 * 4 ≤ s.here.spsize ∧ placeOf (s.X 7).toNat = .own 0x3FF0 ∧ 0x3FF0 + 4 * 4 ≤ s.here.spsize ∧ s.here.spsize < 0x3FF0 + 5 * 4 ∧
    (s.X 8).toNat % 4 ≠ 0 ∧ placeOf (s.X 9).toNat = .global ∧ placeOf (s.X 10).toNat = .own 0x4000 ∧
    s.belowWatermark s.curCore s.cur.asid 0xFFFFFFFFFFF00080 4 = false :=
  ⟨claimed_plain.1, claimed_plain.2, .inl rfl, .inr (by decide), by unfold State.acts; decide, by decide⟩

theorem witness_VectorIntegers :
    let s := on (claimed [(5, 0xFFFFFFFFFFF00080), (6, 4), (7, 0xFFFFFFFFFFF03FF0), (8, 0xFFFFFFFFFFF00001), (9, 0x10000), (10, 0xFFFFFFFFFFF04000)])
    s.Plain ∧ s.Claimed ∧ (9 : Fin 16).val ≤ 9 ∧ (1 : Fin 4) ≠ 0 ∧ s.acts 1 0 ∧ ¬s.acts 1 1 :=
  ⟨claimed_plain.1, claimed_plain.2, by decide, by decide, .inr (by decide), by unfold State.acts; decide⟩

/-- The rounding of STATUS and that of a prefix; `fmt` with and without a prefix pending; a converting prefix and one for a block. -/
theorem witness_VectorFloats :
    let s := on (claimed [])
    let p := fun (f : Prefix) => on { claimed [] with status := 0x80, pfx := f }
    let b := on { claimed [] 32 with status := 0x80, pfx := { fa := 0, fd := 6, sc := 3 } }
    s.Calm ∧ s.Claimed ∧ s.Rounds ⟨Fp.Rm.ofBits 0, false, false⟩ ∧ s.cur.pp = false ∧
    (p { rm := 3, sa := 1 }).Calm ∧ (p { rm := 3, sa := 1 }).Rounds ⟨Fp.Rm.ofBits 3, true, false⟩ ∧
    (p { fa := 1, fd := 2, sc := 2 }).Calm ∧ (p { fa := 1, fd := 2, sc := 2 }).cur.pp = true ∧ Fp.fmtCvtSource 1 = true ∧ Fp.fmtCvtTarget 2 = true ∧
    b.Calm ∧ b.Claimed ∧ b.cur.lanes = 32 ∧ (∀ f ∈ [6, 7, 8, 15], (1 : Nat) ≠ f ∧ (2 : Nat) ≠ f) := by
  refine ⟨⟨?_, ?_, ?_, ?_⟩, ⟨?_, ?_⟩, .inl ⟨?_, ?_⟩, ?_, ⟨?_, ?_, ?_, ?_⟩, .inr ⟨?_, ?_, ?_, ?_, ?_, ?_⟩, ⟨?_, ?_, ?_, ?_⟩, ?_, ?_, ?_,
    ⟨?_, ?_, ?_, ?_⟩, ⟨?_, ?_⟩, ?_, ?_⟩ <;> decide

/-- A plain `vcvt` of a code that is none of its formats, and a prefix that R269 does not admit. -/
theorem witness_VectorFloats_traps :
    let s := on (claimed [])
    let b := on { claimed [] with status := 0x80, pfx := { fb := 1 } }
    s.Calm ∧ s.cur.pp = false ∧ (∃ f ∈ [6, 7, 8, 15], (6 : Fin 16).val = f ∨ (0 : Fin 16).val = f) ∧
    b.Calm ∧ b.Claimed ∧ b.cur.pp = true ∧ b.cur.pfx.fb ≠ 0 :=
  ⟨⟨by decide, by decide, by decide, by decide⟩, by decide, by decide, ⟨by decide, by decide, by decide, by decide⟩,
    ⟨by decide, by decide⟩, by decide, by decide⟩

/-- Window accumulators: regions that are good, bad and overlapping, and slots that are free, set, saved and of another owner. -/
theorem witness_WindowAccumulators :
    let slot := fun (o : Nat) (c : Option Nat) (sv : Bool) => ({ owner := o, off := 0x100, size := 0x100, cfg := c, saved := sv } : WaSlot)
    let s := fun (a : WaSlot) => on (claimed [(5, 0x4000080), (6, 0x4000140), (7, 0x40B1), (8, 0x10000B1), (9, 0x300B1)]) { core with wa := [(2, a)] }
    let a := s (slot 0 none false)
    let k := 0x100B1
    a.Plain ∧ a.here.wa.find? 2 = some (slot 0 none false) ∧ a.here.wa.find? 1 = none ∧
    (a.X 5).toNat % 2 ^ 20 % 64 = 0 ∧ (a.X 5).toNat / 2 ^ 20 % 2 ^ 20 = 64 ∧ 0x80 + 64 ≤ 0x100 ∧
    (slot 0 none false).off < (a.X 6).toNat % 2 ^ 20 + 64 ∧ (a.X 6).toNat % 2 ^ 20 < 0x200 ∧
    (slot 1 none false).owner ≠ a.curCtx ∧ (s (slot 0 none true)).here.wa.find? 2 = some (slot 0 none true) ∧
    (s (slot 0 (some k) false)).here.wa.find? 2 = some (slot 0 (some k) false) ∧ waPair (WaCfg.ofNat k).opr (WaCfg.ofNat k).fmt = true ∧
    (WaCfg.ofNat k).w = 1 ∧ (WaCfg.ofNat (a.X 7).toNat).w = 0 ∧ ((WaCfg.ofNat (a.X 9).toNat).w + 1) * (WaCfg.ofNat (a.X 9).toNat).bytes ≤ 0x100 ∧
    0x100 < ((WaCfg.ofNat (a.X 8).toNat).w + 1) * (WaCfg.ofNat (a.X 8).toNat).bytes ∧
    (WaCfg.ofNat k).lanes ≤ 8 ∧ (s (slot 0 (some k) false)).waWaits (slot 0 (some k) false) = false :=
  ⟨⟨⟨by decide, by decide, by decide, by decide⟩, by decide⟩, by decide⟩

/-- A ring of one point, a home table with one stub, and a task that can move. -/
theorem witness_KeyInstructions :
    let ring := fun (m : List Host.Cell) (kv : W64) => on (claimed [(5, 7), (6, 1), (7, 0xFFFFFFFFFFFFFFFF), (8, 1536)]) { core with kvring := kv, spad := m }
    let r := ring [(4, 0xFF), (5, 0xFF), (6, 0xFF), (7, 0xFF)] 0x4000
    let t := ring [] 0x10000000000
    r.Plain ∧ r.Claimed ∧ r.here.npt = 1 ∧ r.here.ringOff + 8 * 1 ≤ r.here.spsize ∧ (t.here.npt = 0) ∧
    hkey 0 r.here.seed ≤ leNat (Memory.bytes r.here.spad 0 8) / 2 ^ 32 ∧ ((ring [] 0x7FFF).here.npt ≠ 0) ∧
    (ring [] 0x7FFF).here.spsize < (ring [] 0x7FFF).here.ringOff + 8 * (ring [] 0x7FFF).here.npt ∧
    t.here.tableOk = true ∧ r.here.hlog = 0 ∧ (ring [] 0xF0000000000).here.tableOk = false ∧ t.inMask t.cur 1 = true ∧
    (t.X 7).toNat = 2 ^ 64 - 1 ∧ (∃ a, t.here.lookupKey 7 = .empty a) :=
  ⟨⟨⟨by decide, by decide, by decide, by decide⟩, by decide⟩, ⟨by decide, by decide⟩, by
    and_intros <;> first | decide | exact ⟨64 + 16 * (hkey 7 0 % 2), by decide⟩⟩

/-- Descriptors of `migrate` that are bad, ask for lanes, name a core outside the mask, and tasks that are paired, hold a slot, a hire
and a copy; a ring with a poisoned byte. -/
theorem witness_KeyInstructions_migrate :
    let x := [(5, 0x800), (6, 0x1001), (7, 2000), (8, 1)]
    let s := fun (t : Ctx) (h : HomeCore) => on { t with x := x } h
    let p := s (task []) core
    let w := s (task []) { core with wa := [(2, { owner := 0, off := 0, size := 64 })] }
    let g := s { task [] with hires := [(0, ⟨9, none⟩)] } core
    let c := s (task []) { core with copies := [(0, { queue := [{ seq := 0, src := 0, dst := 0, len := 1, desc := 0, flag := 0, ctx := 0, uid := 1, launch := 1, asid := 0, job := 0, ovl := 0 }] })] }
    let r := s (task []) { core with kvring := 0x4000, spadPoison := [3] }
    (p.X 5).toNat / 2 ^ 11 % 2 ≠ 0 ∧ (p.X 6).toNat / 2 ^ 12 % 8 ≠ 0 ∧ p.cur.claim = none ∧ 1535 < (p.X 7).toNat % 2 ^ 11 ∧
    p.inMask p.cur 1 = true ∧ (s { task [] with paired := true } core).cur.paired = true ∧
    (∃ e ∈ w.here.wa, e.2.owner = w.curCtx ∧ e.2.saved = false) ∧ (∃ e ∈ g.cur.hires, e.2.final = none) ∧
    c.here.copying c.cur.uid = true ∧ r.here.npt = 1 ∧ NatSet.has r.here.spadPoison 3 = true := by
  decide

/-- A record that is aligned, misaligned and in a window; an engine by number; ids that are malformed, final and expired. -/
theorem witness_VideoInstructions :
    let s := on (task [(5, 0x10000), (6, 0x10040), (7, 0xFFFFFFFFFFF00080), (8, 7), (9, 8), (10, 0x1000000), (11, 1)]) core
      { videos := [(0, { nextSeq := 1, recent := [⟨0, 0, 0x10, .package⟩] })] }
    let f : State := on (task [(5, 0x10000)]) core { videos := [(0, { queue := List.replicate 16 { seq := 0, recVa := 0, core := 0, uid := 1, launch := 1, asid := 0, job := 0 } })] }
    s.Plain ∧ placeOf (s.X 5).toNat = .global ∧ (s.X 5).toNat % 128 = 0 ∧ (s.X 6).toNat % 128 ≠ 0 ∧ placeOf (s.X 7).toNat = .own 0x80 ∧
    (s.X 8).toNat ≤ 7 ∧ 7 < (s.X 9).toNat ∧ (s.X 10).toNat / 2 ^ 24 ≠ 0 ∧ (s.video 0).statusOf 0 0 = 0x10 ∧ (s.video 0).statusOf 1 0 = 0x30 ∧
    (s.video 7).queue.length < 16 ∧ f.Plain ∧ 16 ≤ (f.video 0).queue.length :=
  ⟨task_plain _ _ _ ⟨rfl, rfl⟩, by and_intros <;> first | decide | exact task_plain _ _ _ ⟨rfl, rfl⟩⟩
/-- A task without an outstanding result in each mode, with and without a prefix, with and without a pending register. -/
theorem witness_IssueChecks :
    let u := on (task [])
    let p := on { task [] with status := 0x80 }
    let b := on { task [] with status := 0x100, pend := [⟨.x 0 5, none, 1⟩] }
    u.cur.var = [] ∧ supervisorOnly (.incset 0 1 2 3) = some 0 ∧ (Instr.incset 0 1 2 3).wellFormed = true ∧ u.cur.sup = false ∧
    u.cur.th = false ∧ (encode (.add 0 1 2 3)).isSome = true ∧ prefixTarget (.add 0 1 2 3) = false ∧ p.cur.pp = true ∧ p.cur.var = [] ∧
    b.cur.var = [] ∧ b.cur.pp = false ∧ b.cur.sbchk = true ∧ (∃ q ∈ b.cur.pend, q.reg = .x b.cur.bank 5) := by
  refine ⟨?_, ?_, ?_, ?_, ?_, ?_, ?_, ?_, ?_, ?_, ?_, ?_, ⟨⟨.x 0 5, none, 1⟩, ?_⟩⟩ <;> decide

/-- A trap that a handler takes, and one that it may not take. -/
theorem witness_TrapEntry :
    let s := on { task [] with tvec := 0x10040 }
    inTask 0x04 0 ∧ s.cur.tvec.getLsbD 16 = true ∧ s.cur.th = false ∧ ¬inTask 0x10 0 ∧ ¬inTask 0x11 4 ∧ s.cur.var = [] := by
  unfold inTask; decide

/-- A trap of a task with an interlocked result on its way, and one of a task that a cancel has marked. -/
theorem witness_TrapEntry_ends :
    let s := on { task [] with var := [.x 0 5] }
    let k := on { task [] with killed := true }
    s.cur.var ≠ [] ∧ k.cur.var = [] ∧ k.cur.killed = true ∧ k.cur.tvec.getLsbD 16 = false ∧ k.cur.groups = [] ∧ k.pools = [] ∧
    k.launch? k.cur.launch = some launch1 := by decide

/-- A handler that returns, to a good and to a bad offset; jumps of `ifence`; overlays. -/
theorem witness_SystemInstructions :
    let h := fun (a : W64) => on { task [(5, 0x40), (6, 0x41), (7, 256)] with status := 0x4000, faulta := a }
    let s := on (task [(5, 1), (6, 0)]) { core with conf := some ⟨0, 0x40000, 1, 1⟩ } { mem := image }
    (h 0x4000).Plain ∧ (h 0x4000).cur.th = true ∧ (h 0x4000).cur.faulta.toNat / 2 ^ 8 % 4 = 0 ∧ (h 0x4100).cur.faulta.toNat / 2 ^ 8 % 4 ≠ 0 ∧
    ((h 0).X 5).toNat % 65536 % 4 = 0 ∧ ((h 0).X 6).toNat % 65536 % 4 ≠ 0 ∧ 255 < ((h 0).X 7).toNat ∧ s.Plain ∧
    s.here.conf = some ⟨0, 0x40000, 1, 1⟩ ∧ (s.X 5).toNat = 1 ∧ s.overlay 0x40000 0 = some [12, 0, 148, 2] ∧ s.overlay 0x40000 2 = none ∧
    ¬(∃ e ∈ s.here.ctxs, e.1 ≠ s.curCtx ∧ e.2.phase ≠ .free ∧ e.2.phase ≠ .odd) ∧ s.cur.killed = false := by
  and_intros <;> first | decide +kernel | (constructor <;> first | decide +kernel | (constructor <;> decide +kernel))

/-- A task in `lwait` whose time has come, and before it. -/
theorem witness_SystemInstructions_lwait :
    let i := Instr.lwait 0 3 5
    let t := { task [(5, 100)] with phase := .parked, wait := .cond }
    let u := fun (n : Nat) => on t { core with istore := [(0, (encode i).getD 0)] } { time := [(0, n)] }
    (u 100).ctx 0 0 = t ∧ t.pp = false ∧ (u 100).ready 0 0 = true ∧ decodeWord ((u 100).wordAt 0 t).toNat = .ok i ∧
    max (t.readX 5).toNat t.lastTime ≤ (u 100).timeOf (dieOf 0) ∧ (u 99).timeOf (dieOf 0) < max (t.readX 5).toNat t.lastTime := by
  and_intros <;> decide

/-- A token that names a faulted task, one that names none, and a saved job. -/
theorem witness_SystemInstructions_tokens :
    let f := { task [] with phase := .faulted, fseq := 1, uid := 2, faulta := 0x4000 }
    let sup := { task [(5, 0x10001), (6, 0x20001), (7, 1), (8, 2), (9, 0x41)] with status := 0x8000 }
    let s : State := { cores := [(0, { core with ctxs := [(0, sup), (1, f)] })], launches := [(1, launch1)] }
    s.Plain ∧ s.cur.sup = true ∧ s.Open .package ∧ (s.X 5).toNat / 2 ^ 32 = 0 ∧ (s.ctx 0 1).phase = .faulted ∧
    (s.ctx 0 1).fseq = (s.X 5).toNat / 2 ^ 16 % 2 ^ 16 ∧ (s.ctx 0 1).fseq ≠ (s.X 6).toNat / 2 ^ 16 % 2 ^ 16 ∧ s.saves = [] ∧ s.pools = [] ∧
    s.waiters = [] ∧ (s.ctx 0 1).groups = [] ∧ (s.ctx 0 1).paired = false ∧ (s.X 9).toNat % 4 ≠ 0 ∧ (s.X 8).toNat = 2 := by
  and_intros <;> first | decide | (constructor <;> first | decide | (constructor <;> decide))

/-- Registers of both modes, one that is not assigned, DTIME before the time seen, and CPGO with good and bad shadow registers. -/
theorem witness_ControlRegisters :
    let s := on { task [] with cpdesc := 0x20, cpflag := 0x200 }
    let d := on { task [] with lastTime := 5, cpflag := 0x204, cpdesc := 1 }
    let b := on { task [] with cpflag := 0xFFFFFFFFFFFFFFFF }
    s.Plain ∧ csrAssigned 0x7FF = false ∧ csrAssigned 0x400 = true ∧ csrSup 0x400 = true ∧ s.cur.sup = false ∧ csrSup 0x011 = false ∧
    d.now < d.cur.lastTime ∧ badFlag s.cur.cpflag.toNat = false ∧ badFlag b.cur.cpflag.toNat = true ∧ badFlag 0x204 = false ∧
    d.cur.cpdesc.toNat % 32 ≠ 0 ∧ s.cur.cpdesc.toNat % 32 = 0 ∧ (s.here.copies.get {} 0).queue.length < 8 := by
  and_intros <;> first | decide | (constructor <;> first | decide | (constructor <;> decide))

/-- A queue whose record is good, one that is rejected, one that cannot be used, and one that is off. -/
theorem witness_QueueAgents :
    let s := queued
    let a := s.qaddr 0 (s.qhead 0)
    a = 0x50000 ∧ s.qen 0 = true ∧ s.qfill 0 = 1 ∧ s.qfill 0 ≤ s.qlen 0 ∧ s.qen 255 = false ∧ s.effMask 0 recordWords = 1 ∧
    s.recordStatus recordWords 1 = none ∧ ({ s with mem := record } : State).recordStatus recordWords 1 = some 0x14 ∧
    (∀ e ∈ s.launches, e.2.queue = 0 → e.2.status.isSome = true ∨ e.2.sentAll = true) ∧
    NatSet.has [0x50000] 0x50000 = true ∧ s.qlen 0 < 17 := by
  and_intros <;> decide +kernel

/-- Launches that wait, that are cancelled, whose producer failed, and that have cleaned what their edges name. -/
theorem witness_QueueAgents_start :
    let l := fun (w : List W64) (c : Bool) (f : Option (List Nat)) => ({ launch1 with words := w, started := false, cancelled := c, flush := f } : Launch)
    let s := fun (l : Launch) (m : List Host.Cell) => ({ launches := [(1, l)], mem := m } : State)
    let e : List W64 := [0, 0, 0, 0, 0, 0, 1, 0, 0, 0, 0, 0x60000]
    (s (l e false none) []).current? 0 = some (1, l e false none) ∧ (s (l e false none) []).waitsOver 1 (l e false none) = false ∧
    (s (l [] true none) []).waitsOver 1 (l [] true none) = true ∧
    (s (l e false none) (word 0x60000 2)).waitsOver 1 (l e false none) = true ∧ (0x60000, 0) ∈ (l e false none).edges ∧
    Memory.byte (word 0x60000 2) 0x60000 ≠ 1 ∧ Memory.byte (word 0x60000 1) 0x60000 = 1 ∧
    (s (l e false (some [7])) (word 0x60000 1)).coresAcked [7] = true := by decide

/-- A launch that sends, one that has ended, a message that is held, and cancels. -/
theorem witness_LaunchProgress :
    let l := { launch1 with words := [0, 0, 0, 0, 0, 0, 2], mask := 2 ^ 5 }
    let s : State := { launches := [(1, l)] }
    let e := { launch1 with sentAll := true }
    let f : Flight := { msg := {}, launch := 1, target := 5, sender := .queueAgent 0, held := true, back := true }
    let op : CancelOp := { core := 0, ctx := 0, uid := 1, reg := .x 0 3, asid := 0, job := 0, todo := [3] }
    let c := on { task [] with phase := .parked, wait := .word 0 (.x 0 3) } core {}
    s.sender? 0 = some (1, l) ∧ s.launch? 1 = some l ∧ ({ msgs := [f] } : State).msgs[0]? = some f ∧ f.holder = .queueAgent 0 ∧ f.back = true ∧
    ({ msgs := [f] } : State).hasRoom 5 = true ∧ ({ launches := [(1, e)] } : State).engineWorks 1 = false ∧ e.outstanding = 0 ∧
    ({ cancelOps := [op] } : State).cancelOps[0]? = some op ∧ 3 ∈ op.todo ∧ bitOf launch1.mask 0 = true ∧ NatSet.has (c.core 0).cancels 1 = false ∧
    (c.core 0).ovf = [] ∧ (c.core 0).chosen = none ∧ c.saves = [] ∧ c.poolQueue 0 = [] ∧ (c.ctx 0 0).launch = 1 ∧ (c.ctx 0 0).phase = .parked := by
  decide +kernel

/-- A message that finds room, one that overflows, one that is held, one that is forwarded, and one of a cancelled launch. -/
theorem witness_MessageArrivals :
    let f : Flight := { msg := {}, launch := 1, target := 0, sender := .core 0, uid := 1, counted := false }
    let k : Flight := { f with msg := { key := 7 } }
    let s := on { task [] with wait := .message none, phase := .parked } core { msgs := [f] }
    let full : HomeCore := { core with runq := List.replicate 256 f }
    let o := on (task []) full { msgs := [f], dev := [(pDovb 0, 0x100000), (pDovs 0, 64)] }
    let t : State := on (task []) { core with kvring := 0x10000000000, spad := [(64 + 16 * (hkey 7 0 % 2), 7), (72 + 16 * (hkey 7 0 % 2), 1), (79 + 16 * (hkey 7 0 % 2), 128)] }
      { msgs := [k] }
    let h : Hint := { core := 0, key := 7, target := 1 }
    s.msgs[0]? = some f ∧ f.back = false ∧ f.mig = none ∧ (s.core 0).ovf = [] ∧ NatSet.has (s.core 0).cancels 1 = false ∧ s.forwardTo f = none ∧ (s.core 0).runq.length < 256 ∧
    (o.core 0).runq.length = 256 ∧ o.ovfSlot 0 = some 0x100000 ∧ (on (task []) full).ovfSlot 0 = none ∧ t.forwardTo k = some 1 ∧
    NatSet.has (on (task []) { core with cancels := [1] }).here.cancels 1 = true ∧ ({ hints := [h] } : State).hints[0]? = some h := by
  decide +kernel

/-- A task that moves to core 1, which has room, is full, and has met a cancel. -/
theorem witness_MessageArrivals_moves :
    let t : Ctx := { task [] with wait := .message none, phase := .parked }
    let f : Flight := { msg := {}, launch := 1, target := 1, sender := .core 0, uid := 1, mig := some (task [(3, 5)]) }
    let s := fun (h : HomeCore) => ({ cores := [(0, { core with ctxs := [(0, t)] }), (1, h)], launches := [(1, launch1)], msgs := [f] } : State)
    (s core).msgs[0]? = some f ∧ f.back = false ∧ f.mig = some (task [(3, 5)]) ∧ ((s core).ctx 0 f.ctx).uid = f.uid ∧
    ((s core).ctx 0 f.ctx).wait = .message none ∧ ((s core).ctx 0 f.ctx).launch = f.launch ∧ ((s core).ctx 0 f.ctx).groups = [] ∧
    ((s core).core 1).runq.length < 256 ∧ ((s { core with runq := List.replicate 256 f }).core 1).runq.length = 256 ∧
    (s { core with runq := List.replicate 256 f }).ovfSlot 1 = none ∧ NatSet.has ((s { core with cancels := [1] }).core 1).cancels 1 = true := by
  decide +kernel
/-- A core that matches its entry, one that does not, and one whose entry is bounded and fails. -/
theorem witness_TaskStarts :
    let l := { launch1 with words := recordWords, job := 5 }
    let f : Flight := { msg := { hnd := 0, job := 5 }, launch := 1, target := 0, sender := .queueAgent 0 }
    let b : Flight := { f with msg := { f.msg with bd := true, inc := 2, bound := 5 } }
    let s := fun (f : Flight) (k : Option Conf) =>
      ({ cores := [(0, { conf := k, runq := [f], shadow := [(2, { mode := 2, key := 5 * 2 ^ 32, bind := bindWord 0 5 })] })], launches := [(1, l)]
         mem := image } : State)
    let k := some ⟨0, 0x40000, 0, 1⟩
    ((s f k).markAged 0).choose 0 = some (0, f) ∧ (s f k).matchesK 0 f = true ∧ ((s f k).core 0).place f = some 0 ∧ (s f k).launch? 1 = some l ∧
    ((s b k).markAged 0).choose 0 = some (0, b) ∧
    boundCheck (((s b k).core 0).shadow.get {} 2) l.asid 5 5 = true ∧ ((s f none).markAged 0).choose 0 = some (0, f) ∧
    (s f none).matchesK 0 f = false ∧ ((s f none).core 0).live = false ∧ (s f none).spadBusy 0 = false ∧ (s f none).confOf f = k ∧
    needsText none ⟨0, 0x40000, 0, 1⟩ = true ∧ (s f none).overlay 0x40000 0 = some [12, 0, 148, 2] ∧
    ({ s f none with mem := [] } : State).overlay 0x40000 0 = none ∧ ((s f none).core 0).l1 = [] ∧ ((s f none).core 0).out = [] := by
  decide +kernel

/-- A task that has moved, with a claim that its pool can grant and one that it cannot, and with a bound that fails. -/
theorem witness_TaskStarts_moves :
    let l := { launch1 with words := recordWords, job := 5 }
    let f := fun (m : Ctx) => ({ msg := {}, launch := 1, target := 0, sender := .core 1, mig := some m, acq := some .die } : Flight)
    let s := fun (m : Ctx) =>
      ({ cores := [(0, { conf := some ⟨0, 0x40000, 0, 1⟩, runq := [f m], shadow := [(2, { mode := 2, key := 5 * 2 ^ 32, bind := bindWord 0 5 })] })]
         launches := [(1, l)], mem := image } : State)
    let b : Ctx := { task [] with bd := true, inc := 2, bound := 5, job := 5 }
    let c := fun (n : Nat) => ({ task [] with claim := some { lanes := n } } : Ctx)
    ((s (c 8)).markAged 0).choose 0 = some (0, f (c 8)) ∧ (s (c 8)).matchesK 0 (f (c 8)) = true ∧ ((s (c 8)).core 0).place (f (c 8)) = some 0 ∧
    ((s (c 8)).ctx 0 0).claim = none ∧ (s (c 8)).poolSlot 0 = true ∧ 64 ≤ (s (c 8)).poolFree 0 ∧ (Scope.die).wide = true ∧
    ((s b).markAged 0).choose 0 = some (0, f b) ∧ boundCheck (((s b).core 0).shadow.get {} b.inc) l.asid b.job b.bound = true := by
  decide +kernel

/-- A task that waits long enough to be promoted, one that does not, and an entry that ages. -/
theorem witness_TaskStarts_ages :
    let s := fun (n : Nat) => on { task [] with age := n } core { cycle := 65536 }
    let h := on { task [] with wait := .alone }
    (s 240).ready 0 0 = true ∧ ((s 240).core 0).agelim.toNat % 2 ^ 16 - 16 = 240 ∧ ((s 239).ctx 0 0).age < 240 ∧ ((s 240).ctx 0 0).wait.held = false ∧ (h.ctx 0 0).wait.held = true ∧ 0 + 65536 ≤ (s 0).cycle ∧
    ((s 0).core 0).ovf = [] ∧ (s 0).poolQueue 0 = [] ∧ dieOf 1535 = 3 := by decide

/-- Hires that arrive, that push, that are ready and that start. -/
theorem witness_ArrayHires :
    let s1 := hired (hire 1) { arrivals := [9] }
    let s2 := hired (hire 2) { queue := [9] }
    let full := hired (hire 1) { arrivals := [9], queue := List.replicate 64 9 }
    let r := { hire 2 with pushed := true, nextLine := 5 }
    let s3 := hired (hire 3) { queue := [9] }
    (s1.array 0).arrivals = [] ++ 9 :: [] ∧ s1.hire? 9 = some (hire 1) ∧ (hire 1).arrayId = 0 ∧ s1.queueUse (s1.array 0) < 64 ∧
    64 ≤ full.queueUse (full.array 0) ∧ (s1.array 0).marked 1 9 = false ∧ s1.arrayOff 0 = false ∧ (hire 1).chain = 0 ∧
    (∃ p ∈ (hire 1).segments, placeOf (normVa 0 p.1) = .global) ∧
    s2.pushing 0 = some (hire 2) ∧ (hire 2).reads.length = 5 ∧ (hire 2).ask = none ∧ r.arrived = true ∧ (s2.array 0).queue[0]? = some 9 ∧
    (hire 2).arrived = false ∧ s3.chooseHire (s3.array 0) = some (hire 3) ∧ startDetail (s3.array 0) (hire 3) = none ∧
    s2.chooseHire (s2.array 0) = none ∧ startDetail {} { hire 3 with hg := [0x8002200040000, 0, 0x10000, 0x400008000004, 0, 0, 0, 0] } = some 7 := by
  decide +kernel

/-- The push engine's read of the first range, answered with clean bytes and with a poisoned one. -/
theorem witness_ArrayHires_push :
    let x : PushRange := ⟨true, 0x80, 8, true⟩
    let h := { hire 2 with ask := some { n := 1, pieces := [.req 7 0xFFFFFFFFFFF00080 (.spad 0)] } }
    let s := fun (b : List PByte) => { hired h { queue := [9] } with engIn := [(7, b)] }
    let good := PByte.clean [1, 2, 3, 4, 5, 6, 7, 8]
    (h.reads.drop h.nextLine).head? = some x ∧ (s good).pushing 0 = some h ∧ (s good).engIn.find? 7 = some good ∧ good.length = x.len ∧
    (∀ y ∈ good, y.bad = false) ∧ (s (⟨1, true⟩ :: good.drop 1)).pushing 0 = some h ∧ (∃ y ∈ (⟨1, true⟩ :: good.drop 1), PByte.bad y = true) := by
  refine ⟨?_, ?_, ?_, ?_, ?_, ?_, ⟨1, true⟩, ?_⟩ <;> decide +kernel

/-- Compute that ends, with a good and a bad accumulator, and hires that begin to land, that append, that arrive and that have landed. -/
theorem witness_ArrayHires_landing :
    let h := { hire 4 with pushed := true }
    let e := { h with acc := some [0] }
    let w : LandWrite := ⟨0x10000, .write (PByte.clean [0, 0, 0, 0]), 4⟩
    let l := { hire 5 with acc := some [0], todo := [w] }
    let held := { l with leases := [(heldKey 0x10000 true, page)] }
    let d := { hire 5 with acc := some [0] }
    let b := { d with hg := [0x2002200040000, 0, 0x10000, 0x400008000004, 0, 0, 0x10080, 0] }
    let run := hired h { running := some 9, started := [9] }
    let s := fun (h : Hire) => hired h { started := [9] }
    (run.array 0).running = some 9 ∧ run.hire? 9 = some h ∧ h.res = false ∧ h.bad = false ∧ (run.array 0).chains = [] ∧
    (s e).nextLandings 0 = [e] ∧ (s e).holdsFor (.array 0) 1 = false ∧ (∃ k u, (s e).reserveHire e = (.ok k, u)) ∧
    (s l).landings 0 = [l] ∧ ((s l).landTarget l w).1 = none ∧ (∃ p, ((s held).landTarget held w).1 = some p) ∧
    (s d).landed 0 = [d] ∧ d.lmode ≠ 2 ∧ (s d).arrivedAt d = true ∧ d.stop = none ∧
    (s b).landed 0 = [b] ∧ b.lmode = 2 ∧ b.arrival = none ∧ b.arf = false ∧ b.bar = 0x10080 ∧
    (∃ p k u, (s b).landPlace b b.leases b.bar 128 false = (.ok p, k, u)) := by
  and_intros <;> first | decide | exact ⟨_, rfl⟩ | exact ⟨_, _, rfl⟩ | exact ⟨_, _, _, rfl⟩

/-- A chain that has been idle for its limit, a bind, an unbind, an array that cools and a burst. -/
theorem witness_ArrayUnits :
    let c : Chain := { id := 5, uid := 1, cid := 3, launch := 1, m := 1, n := 1, int := false, count := 1, limit := 4, idle := 2, acc := [0], lastEnd := 0 }
    let b := { hire 3 with isBind := true, pushed := true }
    let t : BTile := { base := 0, stride := 4, k := 4, n := 1, fb := 2, bt := false, t0 := 0, t1 := 0, cells := [] }
    let u : Unbind := ⟨0, 0, 1, .x 0 3, 0, 0, []⟩
    let s := { hired (hire 1) { chains := [c] } with hires := [], time := [(0, 2000)] }
    let q := hired b { queue := [9] }
    let x := hired (hire 1) { unbinds := [u], tiles := [(0, t)], bursts := [(0, 5)], warmTo := some 7 }
    (s.array 0).chains[0]? = some c ∧ c.idle ≠ 0 ∧ c.lastEnd + c.idle * 1000 ≤ s.timeOf 0 ∧ s.saves = [] ∧ (q.array 0).queue = 9 :: [] ∧
    q.hire? 9 = some b ∧ q.arrayOff 0 = false ∧ (q.array 0).tiles.find? 0 = none ∧ (x.array 0).tiles.find? 0 = some t ∧ (x.array 0).unbinds = u :: [] ∧
    (x.ctx 0 0).uid = u.uid ∧ (x.array 0).running = none ∧ (x.array 0).bursts = (0, 5) :: [] ∧ (x.array 0).warmTo = some 7 ∧
    ({ s with cycle := 512 } : State).cycle = (s.array 0).lastBusy + 512 := by decide

/-- A root that is not valid, a translation held, a page that a walk finds, and a dirty log with and without room. -/
theorem witness_Translations :
    let root : W64 := 0x8000000000100000
    let s : State :=
      { dev := [(pAsroot 0 0, root)]
        mem := [(0x100000, 1), (0x100002, 0x11), (0x110000, 1), (0x110002, 0x12), (0x120000, 1), (0x120002, 0x13), (0x130000, 1), (0x130002, 0x14),
                (0x140000, 3), (0x140001, 9), (0x140002, 0x20)] }
    let d : State := on (task []) core { dev := [(pDlcfg 0, 6 * 2 ^ 32 + 0x100)] }
    ({} : State).walk 0 0 0 = .error 3 ∧ leased.cached 0 0 0x10000 = some page ∧ transSlice (dieOf 0) 0 0 = 0 ∧ canonical 0 = true ∧
    (s.walk 0 0 0).toOption.isSome = true ∧ s.cached 0 0 0 = none ∧ NatSet.has s.skew 0 = false ∧ s.disabled 0 384 = false ∧
    s.badRegion 0x200000 false = false ∧ d.logHasRoom 0 = true ∧ ({} : State).logHasRoom 0 = false := by decide +kernel

/-- A line under a held translation, a comparison above its limit, reads of the three time registers, and the dirty logs. -/
theorem witness_LeasesAndLogs :
    let s := on (task []) { core with l1 := [line] } leased
    let r := fun (n : Fin 2048) => on (task []) { core with istore := [(0, (encode (.csrr 0 3 n)).getD 0)] }
    (∃ l ∈ (s.core 0).l1, s.current 0 l = true ∧ l.bytes ≠ [] ∧ s.walk 0 l.asid (l.line * 128) = .error 3) ∧
    (s.core 0).l1.Pairwise (fun x y => ¬(x.asid = y.asid ∧ x.line = y.line)) ∧ comparesTime 384 = true ∧
    (r 0x21).ready 0 0 = true ∧ (r 0x21).fetchPoison 0 ((r 0x21).ctx 0 0) = false ∧
    decodeWord ((r 0x21).wordAt 0 ((r 0x21).ctx 0 0)).toNat = .ok (.csrr 0 3 0x21) ∧
    decodeWord ((r 0x45).wordAt 0 ((r 0x45).ctx 0 0)).toNat = .ok (.csrr 0 3 0x45) ∧
    ((r 0x20).ctx 0 0).lastTime ≤ (r 0x20).timeOf 0 := by
  refine ⟨⟨line, ?_, ?_, ?_, rfl⟩, ?_, ?_, ?_, ?_, ?_, ?_, ?_⟩ <;> decide

/-- A request whose lease has expired, at a slice that is no more its home, with and without a translation now. -/
theorem witness_LeasesAndLogs_again :
    let r := { req .read 0x20040 8 with exp := some 5, va := 0x10040 }
    let s := fun (l : List Lease) => front r { leases := l, time := [(0, 5)] }
    let again := fun (l : List Lease) => ({ s l with chans := popReq (s l).chans (.core 0) (.slice 0) } : State).translate 0 0 0x10040 false none
    (s []).chan (.core 0) (.slice 0) = r :: [] ∧ (s []).mayPerform (.slice 0) r = true ∧ r.exp = some 5 ∧ 5 ≤ (s []).timeOf 0 ∧
    (∃ d u, again [] = (.error d, u)) ∧ (∃ tr u, again [lease] = (.ok tr, u) ∧ (s [lease]).homeOf (tr.pa / 65536 * 65536 + 0x20040 % 65536) ≠ .slice 0) := by
  refine ⟨by decide, by decide, by decide, by decide, ⟨_, _, rfl⟩, ⟨_, _, rfl, by decide⟩⟩

theorem witness_LeasesAndLogs_harvest :
    let log : State := on (task []) { core with spad := [(0x108, 0)] } { dev := [(pDlcfg 0, 6 * 2 ^ 32 + 0x100), (pDltail 0, 40)] }
    let r := fun (b : List PByte) => ({ octs := [(0, { reading := some (0, 0, 3) })], engIn := [(3, b)] } : State)
    let m : State := { octs := [(0, { merging := some (0, 0, 3), harvest := some [0, 0, 0, 0, 0, 0, 0, 0] })], engOut := [3] }
    log.wantsMerge 0 0 = true ∧ (log.octs.get {} 0).merging = none ∧ leNat (Memory.bytes (log.core 0).spad 0x100 8) / 2 ^ 3 % 2 ^ 53 * 8 + 8 ≤ 2 ^ 39 ∧
    (log.octs.get {} 0).reading = none ∧ ((r []).octs.get {} 0).reading = some (0, 0, 3) ∧ (r (PByte.clean [1])).engIn.find? 3 = some (PByte.clean [1]) ∧
    (r (PByte.clean [1])).engIn.find? 4 = none ∧ (∀ y ∈ PByte.clean [1], y.bad = false) ∧ (∃ y ∈ [PByte.mk 1 true], y.bad = true) ∧
    (m.octs.get {} 0).merging = some (0, 0, 3) ∧ NatSet.has m.engOut 3 = true ∧ NatSet.has m.engOut 4 = false ∧ m.dlHead 0 = 0 ∧
    (1 : W64).getLsbD 0 = true ∧ (∀ k, k < 8 → m.mergedTo (8 * 0 + k) 0 = true) := by decide
/-- Reads of an engine: answered with `b`, still on its way, and failed. -/
def got (b : List Byte) : EngLoad := { n := b.length, pieces := [.bytes b] }
def asked : EngLoad := { n := 8, pieces := [.req 7 0x10000 (.slice 0)] }
def failed : EngLoad := { n := 8, fault := some (3, 0x10000) }

/-- A copy of 12 bytes within the own scratchpad on channel 1 of core 0, in a state. -/
def copy (state : Nat) : CopyOp :=
  { seq := 0, src := 0xFFFFFF0000000000, dst := 0xFFFFFF0000001000, len := 12, desc := 0, flag := 0x200, ctx := 0, uid := 1, launch := 1,
    asid := 0, job := 0, ovl := 0, state := state }

def copying (o : CopyOp) : State := on (task []) { core with copies := [(1, { nextSeq := 1, queue := [o] })] } leased

/-- Copies that are launched, that read a layout record, and that wait for their master. -/
theorem witness_CopySteps :
    let lay := { copy 2 with flag := 0x204, desc := 0x10000 }
    ((copying (copy 1)).copyChan 0 1).queue = copy 1 :: [] ∧ (copying (copy 2)).holdsFor (.copyCh 0 1) 1 = false ∧
    lay.mode ≠ 0 ∧ lay.record = [] ∧ lay.recAsk = none ∧ lay.stopped = none ∧ (copying lay).loadRead asked = .wait ∧
    (copying lay).loadRead failed = .fault 3 0x10000 ∧ (copying lay).loadRead (got (List.replicate 96 0)) = .ok (List.replicate 96 0) ∧
    recBad (wordsOf (List.replicate 96 0) 12) = some 1 ∧ recBad [0x10000, 4, 0, 0, 0, 0, 0, 0, 0, 0, 0x400000000, 0] = none := by decide +kernel

/-- A linear copy with nothing read, with answers that are in, failed or on their way, and with enough bytes for a write, to a place
that it reaches and to one that it does not; and copies whose reads and writes are done. -/
theorem witness_CopySteps_linear :
    let run := { copy 2 with units := 12 }
    let mv := fun (m : Mover) => { run with mov := m }
    let b : List Byte := [1, 2, 3, 4, 5, 6, 7, 8]
    let full := mv { ahead := 8, buf := b }
    let far := { full with dst := 0x40000 }
    let read := mv { ahead := 12, loads := [got b] }
    let all := mv { ahead := 12, next := 12 }
    let s := copying run
    run.mode = 0 ∧ run.recAsk = none ∧ ¬(8 ≤ run.mov.buf.length) ∧ run.mov.loads = [] ∧ run.mov.ahead < run.len ∧
    (∃ p k u, s.workPlace (run.worker 0 1) run.leases (normVa 0 (run.src % 2 ^ 64)) 8 false = (.ok p, k, u)) ∧ s.loadRead (got b) = .ok b ∧
    (mv { loads := [failed] }).mov.loads = failed :: [] ∧ s.loadRead failed = .fault 3 0x10000 ∧ full.mov.next < full.len ∧ 8 ≤ full.mov.buf.length ∧
    (∃ p k u, s.workPlace (full.worker 0 1) full.leases (normVa 0 (full.dst % 2 ^ 64)) 8 true = (.ok p, k, u)) ∧
    (∃ d k u, s.workPlace (far.worker 0 1) far.leases (normVa 0 (far.dst % 2 ^ 64)) 8 true = (.error d, k, u)) ∧
    s.moveRead read.plan read.mov = true ∧ read.written = false ∧ all.written = true ∧ s.moveRead run.plan run.mov = false ∧
    ({ run with stopped := some 0x20 } : CopyOp).writes = [] ∧ (∀ l ∈ ({ run with stopped := some 0x20 } : CopyOp).reads, s.allIn l = true) := by
  and_intros <;> first | decide | exact ⟨_, _, _, rfl⟩

/-- A loader's ring of two slots of 64 bytes in the own scratchpad of core 0. -/
def ring : Ring :=
  { core := 0, uid := 1, launch := 1, asid := 0, job := 0, ovl := 0, hdr := 0x100, word0 := 0x400002, recVa := 0x10000, word4 := 4, word5 := 0 }

def ringing (r : Ring) (m : List Host.Cell := []) : State := on (task []) { core with spad := m } { leased with bdes := [(0, { rings := [(3, r)] })] }

/-- A record of one dimension and 4 elements of fp32 at 0x10000 (R377). -/
def layout : List W64 := [0x10000, 4, 0, 0, 0, 0, 0, 0, 0, 0, 0x400000000, 0]

/-- Copies of that layout to and from the own scratchpad: elements inside and outside, a unit that is full and one that is not, and the
acknowledgement of a write. -/
theorem witness_CopySteps_layouts :
    let o := { copy 2 with flag := 0x204, record := layout, units := 4 }
    let p := { o with flag := 0x208 }
    let out := { o with record := [0x10000, 1, 0, 0, 0, 0, 0, 0, 0, 0, 0x400000000, 0] }
    let b : List Byte := [1, 2, 3, 4, 5, 6, 7, 8]
    let s := copying o
    let v : Win := { r := layout }
    let x : Resp := { req := { req (.write []) 0x20000 8 with agent := .copyCh 0 1 } }
    o.mode = 1 ∧ p.mode = 2 ∧ o.record ≠ [] ∧ recEb o.record = 4 ∧ linearEb layout none = 4 ∧ recCount layout = 4 ∧ v.addr 0 = some 0x10000 ∧
    ({ r := out.record } : Win).addr 1 = none ∧ scatterLen v 4 0 = 2 ∧ 2 * 4 ≤ b.length ∧ 0x10000 % 8 + 2 * 4 ≤ 8 ∧
    (∃ q k u, s.workPlace (o.worker 0 1) o.leases (normVa 0 (0x10000 % 2 ^ 64)) 4 false = (.ok q, k, u)) ∧
    (∃ q k u, s.workPlace (o.worker 0 1) o.leases (normVa 0 (o.dst % 2 ^ 64)) 8 true = (.ok q, k, u)) ∧
    (∃ q k u, s.workPlace (p.worker 0 1) p.leases (normVa 0 (0x10000 % 2 ^ 64)) 8 true = (.ok q, k, u)) ∧
    (∃ q k u, s.workPlace (p.worker 0 1) p.leases (normVa 0 (p.src % 2 ^ 64)) 8 false = (.ok q, k, u)) ∧
    (answering x (copying { o with writes := [⟨7, 8⟩] })).rchan x.req.home (.copyCh 0 1) = [x] := by
  and_intros <;> first | decide | exact ⟨_, _, _, rfl⟩

/-- Rings that are stopped, that have moved everything, that read their record, that wait, that are ready, that have filled a slot, that
end and that close, and what they read of the other counter. -/
theorem witness_RingSteps :
    let r := { ring with record := layout }
    let busy := { r with busy := true }
    let full := { busy with mov := { next := 16 } }
    let s := ringing ring
    s.ring? 0 3 = some ring ∧ ring.record = [] ∧ ring.recAsk = none ∧ ring.own < ring.total ∧ s.cancelledLaunch 1 = false ∧
    ({ ring with stop := [(0, 0, 1, .x 0 3)] } : Ring).stop ≠ [] ∧ ({ r with own := 4 } : Ring).total ≤ 4 ∧ s.loadRead asked = .wait ∧
    s.loadRead failed = .fault 3 0x10000 ∧ recBad (wordsOf (List.replicate 96 0) 12) = some 1 ∧ recBad layout = none ∧ recCount layout = 4 ∧
    r.record ≠ [] ∧ r.storer = false ∧ r.own < r.other + r.nslot ∧ (ringing r).savedOn 0 1 = false ∧ (ringing r).holdsFor (.ring 0 3) 1 = false ∧
    ¬(({ r with own := 2 } : Ring).own < ({ r with own := 2 } : Ring).other + r.nslot) ∧ ¬(busy.plan.targets ≤ busy.mov.next) ∧
    full.plan.targets ≤ full.mov.next ∧ s.acked full.sent = true ∧ (∀ l ∈ full.reads, s.allIn l = true) ∧ ring.reread = none ∧
    s.loadRead (got (leBytes 1 8)) = .ok (leBytes 1 8) ∧ leNat (leBytes 1 8) = 1 ∧
    ring.other ≤ 0 ∧ (0 : Int) ≤ (ring.own : Int) - 0 ∧ (ring.own : Int) - 0 ≤ ring.nslot ∧ (ring.own : Int) - 1 < 0 := by decide +kernel

theorem witness_RingSteps_moves :
    let r := { ring with record := layout, busy := true }
    let m := fun (mv : Mover) => (ringing r).moveStep (r.worker 0 3) r.leases (.gather (r.win r.own) r.cvt (r.slotVa r.own)) mv
    (∃ a ids held v, m {} = (.ok a ids, held, v)) ∧ (∃ held v, m { ahead := 4, loads := [asked] } = (.wait, held, v)) ∧
    (∃ side d va ids held v, m { ahead := 4, loads := [failed] } = (.fault side d va ids, held, v)) ∧
    (∃ p held v, (ringing ring).workPlace (ring.worker 0 3) [] (otherVa 0 (ring.hdr + 16)) 8 false = (.ok p, held, v)) ∧
    ring.hdr % 64 = 0 ∧ ring.hdr + 16 < 2 ^ 20 := ⟨⟨_, _, _, _, rfl⟩, ⟨_, _, rfl⟩, ⟨_, _, _, _, _, _, rfl⟩, ⟨_, _, _, rfl⟩, by decide, by decide⟩

/-- A translation of 64 KiB at a place of HBM. -/
def rowPage (pa : Nat) : Tr := { page with pa := pa }

/-- An `mrow` of one page in a state, and a module with it at channel 2 of engine 0. -/
def mrow (kind : BdeKind) (state : Nat) : BdeOp :=
  { seq := 0, kind := kind, core := 0, uid := 1, launch := 1, asid := 0, job := 0, dst := 0x10000, src := 0x10000, pages := 1, state := state }

def rowing (o : BdeOp) : State := on (task []) core { leased with bdes := [(0, { chans := [(2, { nextSeq := 1, queue := [o] })] })] }

/-- Row operations that start and that do not, and rows of each class. -/
theorem witness_RowOperations :
    let z := { mrow .rowZero 2 with dstTr := [page], stage := 1 }
    let x := { mrow .rowCopy 2 with dstTr := [rowPage 0x20000], srcTr := [rowPage 0x1000030000], stage := 1 }
    let d := { mrow .rowZero 2 with rows := (List.range 64) }
    (∀ k e b, (rowing z).l2.find? k = some e → e.under = some b → b.length = 128) ∧
    ((rowing (mrow .rowZero 1)).bdeChan 0 2).queue = mrow .rowZero 1 :: [] ∧ (rowing (mrow .rowZero 1)).bdeOff 0 = false ∧
    (∃ src v, (rowing (mrow .rowZero 1)).mrowPages 0 0 0x10000 false 0 0 = (.ok src, v)) ∧
    ((rowing (mrow .rowZero 1)).mrowPages 0 0 0x10000 true 0 1).1 = .ok [page] ∧
    ((rowing (mrow .rowZero 1)).mrowPages 0 0 0x40000 true 0 1).1 = .error (3, 0) ∧
    (rowing z).rowOpen 0 z 0 = true ∧ z.rowClass 0 = .zero ∧ (rowing x).rowOpen 0 x 0 = true ∧ x.rowClass 0 = .xfer ∧ d.rows.length = 64 * d.pages ∧
    (rowing z).findRow .zero false 128 (fun _ _ => stackOf 0x20000 == 0) = some (0, 2, z, 0) ∧
    (rowing z).findRow .zero false 64 (fun _ _ => stackOf 0x20000 == 0) = none ∧ (rowing z).bdeHead 0 2 = some z ∧
    (rowing z).pageHolds 0 0 z.src z.srcTr 0 = true ∧ (rowing z).pageHolds 0 0 z.dst z.dstTr 0 = true ∧ (∀ x ∈ z.srcTr ++ z.dstTr, x.pa % 1024 = 0) := by
  refine ⟨fun k e b h => (nomatch h), by decide, by decide, ⟨_, _, rfl⟩, by decide +kernel, by decide +kernel, by decide, by decide, by decide, by decide,
    by decide +kernel, by decide +kernel, by decide +kernel, by decide, by decide, by decide, by decide⟩

/-- Rows that cross stacks, that are copied within a subarray, and that go through a buffer. -/
theorem witness_RowOperations_classes :
    let o := fun (a b : Nat) => { mrow .rowCopy 2 with dstTr := [rowPage a], srcTr := [rowPage b], stage := 1 }
    (o 0x20000 0x40000).rowClass 0 = .buf ∧ (o 0x20000 0x30000).rowClass 0 = .xfer ∧ stackOf 0x20000 = 0 ∧ stackOf 0x1000030000 = 1 ∧ (o 0x20000 0x1000030000).rowClass 0 = .xfer ∧
    (o 0x20000 0x20000).rowClass 0 = .sub := by decide

/-- A row copied within its subarray, and one that goes through the buffer of its pseudo-channel, before and after RBR. -/
theorem witness_RowOperations_buffers :
    let o := fun (a b : Nat) => { mrow .rowCopy 2 with dstTr := [rowPage a], srcTr := [rowPage b], stage := 1 }
    let b : RowBuf := { row := 256, bytes := PByte.clean (List.replicate 1024 0) }
    let sub := rowing (o 0x20000 0x20000)
    let buf := rowing (o 0x20000 0x40000)
    let read : State := { buf with bdes := [(0, { buf.bde 0 with bufs := [(rowPseudo 0x20000, b)] })] }
    (sub.findRow .sub false 128 (fun o i => o.srcRow i == 128 * 1024 && stackOf 0x20000 == 0)).isSome = true ∧
    (buf.findRow .buf true 256 (fun _ _ => true)).isSome = true ∧ (buf.bde 0).bufs.find? (rowPseudo 0x40000) = none ∧
    (read.bde 0).bufs.find? (rowPseudo 0x20000) = some b ∧ b.bytes.length = 1024 ∧
    (read.findRow .buf false 128 (fun o i => o.srcRow i == b.row * 1024 && stackOf 0x20000 == 0)).isSome = true := by
  and_intros <;> decide +kernel

/-- A zone of two elements that op 4 has opened, with contributions that it takes and that it refuses. -/
def zone (n : Nat) : Zone :=
  { unit := 0, chan := 2, seq := 0, asid := 0, first := 0, fmt := 0, frac := 8, e := 1, dst := 0x10000, count := 2
    elems := [(0, { count := n }), (1, { count := n })] }

def zoning (z : Zone) (o : BdeOp) (r : Req) : State :=
  on (task []) core { leased with bdes := [(0, { chans := [(2, { nextSeq := 1, queue := [o] })], zones := [(5, z)] })], chans := [⟨.core 0, .bde 0, [r]⟩] }

theorem witness_Zones :
    let o := { mrow .coll 2 with zone := some (0, 5) }
    let r := req (.zone 0x820000 0 [0x3F800000, 0] false) 0 8 (.bde 0)
    let s := zoning (zone 0) o r
    let w : LandWrite := ⟨0x10000, .write (PByte.clean [0, 0, 0, 0]), 4⟩
    let out := zoning { zone 1 with out := true } { o with todo := [w] } r
    let far := { w with va := 0x40000 }
    s.chan (.core 0) (.bde 0) = r :: [] ∧ s.zoneOf 0x820000 = some (0, 5, zone 0) ∧ s.zoneOf 0x830000 = none ∧ (zone 0).asid = r.asid ∧
    ¬((zone 0).count < 0 + 2) ∧ ((zone 0).elems.get {} 1).count < (zone 0).e ∧ s.bdeHead 0 2 = some o ∧ o.kind = .coll ∧ s.zone? 0 5 = some (zone 0) ∧
    (∀ k, k < (zone 1).count → ((zone 1).elems.get {} k).count = (zone 1).e) ∧ out.zoneOut 0 = some (5, { zone 1 with out := true }) ∧
    (∃ p held v, out.workPlace ⟨.zone 0, 0, 0, 1⟩ [] w.va w.len true = (.ok p, held, v)) ∧
    (∃ d held v, out.workPlace ⟨.zone 0, 0, 0, 1⟩ [] far.va far.len true = (.error d, held, v)) ∧ s.acked [] = true ∧
    (Fp.val 0 0x3F800000).isFin = true ∧ (Fp.val 0 0x7F800000).isFin = false := by
  and_intros <;> first | decide | exact ⟨_, _, _, rfl⟩

/-- A collective of this module alone on 2 elements of fp32, its descriptor at 0x10000, and one that opens a zone. -/
def descriptor (op : Nat) : List W64 :=
  [w64 (op + (if op = 4 then 0 else 2 ^ 31) + 2 ^ 43 + 2 ^ 48), 0x10080, 0x10100, if op = 4 then 0x100000002 else 2, 0x10180, 0, 0, 0]

/-- The bytes of a descriptor. -/
def descBytes (op : Nat) : List Byte := (descriptor op).flatMap (fun w => leBytes w.toNat 8)

/-- Collectives that start, that read their descriptor and their list, that open a zone, and that take their part. -/
theorem witness_Collectives :
    let o := mrow .coll 1
    let run := { mrow .coll 2 with ask := some (got (descBytes 0)) }
    let g := fun (op : Nat) => { mrow .coll 2 with words := descriptor op }
    let part := { g 0 with plist := [0], ask := some (got (List.replicate 8 0)) }
    let s := rowing o
    (s.bdeChan 0 2).queue = o :: [] ∧ s.bdeOff 0 = false ∧ run.zone = none ∧ run.stopped = none ∧ run.summed = false ∧ run.plist = [] ∧ run.words = [] ∧
    s.loadRead (got (descBytes 0)) = .ok (descBytes 0) ∧ wordsOf (descBytes 0) 8 = descriptor 0 ∧ s.loadRead failed = .fault 3 0x10000 ∧
    s.loadRead asked = .wait ∧ badDescriptor (g 0) = false ∧ badDescriptor (g 4) = false ∧ (g 4).op = 4 ∧
    badDescriptor { o with words := List.replicate 8 0 } = true ∧
    (∃ tr held v, s.workPlace ((g 4).worker 0 2) [] (g 4).dstBuf 1 true = (.ok (.mem tr), held, v) ∧ inHbm tr.pa 1 = true ∧
      v.bdeOff (stackOf tr.pa) = false ∧ (v.bde (stackOf tr.pa)).place (g 4).count = some (0, 0)) ∧
    (halves 1 [0, 0]).count s.modId = 1 ∧ (∀ i ∈ part.flush, ¬∃ w ∈ (s.core 0).out, w.req.id = i) ∧ part.plist ≠ [] ∧ part.npart = 1 ∧
    part.count * part.eb = 8 ∧ part.tout = 1 ∧ part.began + part.tout * 1000 ≤ 1000 := by
  and_intros <;> first | decide | exact ⟨_, _, _, rfl, by decide, by decide, by decide⟩

/-- A collective that has summed, with writes to append, and one that has nothing left to do. -/
theorem witness_Collectives_writes :
    let w : LandWrite := ⟨0x10000, .write (PByte.clean [0, 0, 0, 0]), 4⟩
    let o := { mrow .coll 2 with summed := true, todo := [w] }
    let s := rowing o
    (∃ p held v, s.workPlace (o.worker 0 2) o.leases w.va w.len true = (.ok p, held, v)) ∧ o.stopped = none ∧ o.todo = w :: [] ∧
    s.acked [] = true ∧ o.ask = none := ⟨⟨_, _, _, rfl⟩, by decide⟩
/-- A decode record at 0x10000 of one frame of 2 by 2 samples, and its layout record at 0x10080 (R429). -/
def decodeRecord : List Host.Cell :=
  [(0x20001, 3), (0x20002, 1), (0x20008, 16), (0x20010, 128), (0x20012, 1), (0x20031, 2), (0x20032, 1), (0x2003C, 2),
   (0x2003E, 2), (0x20042, 1), (0x20044, 8), (0x20081, 4), (0x20082, 1), (0x20088, 4), (0x200D4, 4), (0x200D8, 1)]

/-- A decode job with that record in a state, its words read. -/
def job (state : Nat) : DecJob :=
  { seq := 0, recVa := 0x10000, core := 0, uid := 1, launch := 1, asid := 0, job := 0, state := state }

def decoding (j : DecJob) : State := on (task []) core { leased with mem := decodeRecord, videos := [(2, { nextSeq := 1, queue := [j] })] }

/-- The job once it has started. -/
def running : DecJob :=
  { job 2 with
    step := .begin, words := wordsOf (Memory.bytes decodeRecord 0x20000 128) 16
    record := wordsOf (Memory.bytes decodeRecord 0x20080 96) 12 }

/-- Jobs that wait, that read their record and their layout record, and what those hold. -/
theorem witness_VideoFrames :
    let s := decoding (job 1)
    let all : EngLoad := { n := 16, pieces := (natsFrom 0 16).map (fun i => .bytes (Memory.bytes decodeRecord (0x20000 + 8 * i) 8)) }
    let none' : EngLoad := { n := 16, pieces := (natsFrom 0 16).map (fun _ => .bytes (List.replicate 8 0)) }
    let rec' := got (Memory.bytes decodeRecord 0x20080 96)
    let lay := { running with step := .layout, record := [] }
    let g := { job 2 with words := (s.loadWords none').1, unread := (s.loadWords none').2 }
    (s.video 2).queue = job 1 :: [] ∧ (job 1).off = false ∧ (job 2).step = .record ∧ s.allIn all = true ∧ (s.loadWords all).1 = running.words ∧
    (s.loadWords all).2 = [] ∧ running.known 0 = true ∧ running.badWord 0 = false ∧ running.badWord 1 = false ∧ running.badWord 2 = false ∧
    g.known 0 = true ∧ g.badWord 0 = false ∧ g.badWord 1 = false ∧ g.badWord 2 = false ∧ s.allIn asked = false ∧
    lay.step = .layout ∧ s.loadRead rec' = .ok (Memory.bytes decodeRecord 0x20080 96) ∧ ({ lay with record := running.record } : DecJob).badLayout = false ∧
    nth 0 lay.words 3 = 0 ∧ (∀ i, i < 16 → lay.known i = true ∧ lay.badWord i = false) ∧ lay.ring = none ∧ s.loadRead failed = .fault 3 0x10000 := by
  and_intros <;> decide +kernel

/-- A frame that begins, one whose stream is in, and the state of a job whose launch is cancelled. -/
theorem witness_VideoFrames_frame :
    let j := running
    let s := decoding j
    let far := { j with record := recSetBase j.record 0x40000 }
    let f := { j with step := .stream, bs := List.replicate 16 0 }
    j.state = 2 ∧ j.frame < j.nfrm ∧ j.ending = none ∧ s.cancelledLaunch j.launch = false ∧ s.targetSaved j = false ∧ j.slotFree = true ∧
    (s.placesOk (j.worker 2) [] (j.writes j.frame (fun _ => 0) 0 j.elems)).1 = .ok () ∧
    (s.placesOk (far.worker 2) [] (far.writes far.frame (fun _ => 0) 0 far.elems)).1 = .error 3 ∧
    f.hasStream = true ∧ f.ask = none ∧ ({ s with launches := [(1, { launch1 with cancelled := true })] } : State).cancelledLaunch j.launch = true := by
  and_intros <;> decide +kernel

/-- Frames whose elements, whose status and whose arrival are acknowledged, and a job after its last frame. -/
theorem witness_VideoStatus :
    let o : FrameOut := { frame := 0, status := 1 }
    let e := { running with outs := [o], frame := 1 }
    let d := { running with frame := 1 }
    let r := { e with ring := some (0, 0x100), word0 := 0x400002, own := 1 }
    let a : State := { decoding e with engBad := [4] }
    ((decoding e).video 2).queue = e :: [] ∧ (decoding e).acked o.sent = true ∧ e.ring = none ∧
    ((decoding e).workPlace (e.worker 2) [] (normVa 0 ((e.stat + 8 * 0) % 2 ^ 64)) 8 true).1.toOption.isSome = true ∧
    ((decoding e).workPlace (e.worker 2) [] 0x40000 8 true).1 = .error 3 ∧ e.bar = 0 ∧ NatSet.has a.engOut 3 = false ∧ NatSet.has a.engBad 3 = false ∧
    NatSet.has a.engBad 4 = true ∧ d.outs = [] ∧ d.step = .begin ∧ d.nfrm ≤ d.frame ∧ d.ask = none ∧ d.reread = none ∧ d.closing = false ∧
    r.ring = some (0, 0x100) ∧ o.status % 256 ≤ 3 := by
  and_intros <;> decide +kernel

/-- A barrier that the arrival of a frame names, with and without a translation, and the counter of a ring as it is read. -/
theorem witness_VideoStatus_arrives :
    let b := fun (va : W64) => { running with words := running.words.set 5 va, outs := [{ frame := 0, status := 1, step := .status }], frame := 1 }
    let s := decoding (b 0x10080)
    let r := { running with ring := some (0, 0x100), word0 := 0x400002, own := 1, reread := some (got (leBytes 1 8)) }
    (b 0x10080).bar = 0x10080 ∧ (b 0x40080).bar = 0x40080 ∧ (s.workPlace ((b 0).worker 2) [] 0x10080 128 false).1.toOption.isSome = true ∧
    (s.workPlace ((b 0).worker 2) [] 0x40080 128 false).1 = .error 3 ∧ (s.loadRead (got (leBytes 1 8))) = .ok (leBytes 1 8) ∧
    r.other ≤ 1 ∧ 1 ≤ r.own ∧ r.own - 1 ≤ r.nslot ∧ ¬(2 ≤ r.own) ∧ s.loadRead failed = .fault 3 0x10000 ∧ s.loadRead asked = .wait := by
  and_intros <;> decide +kernel

/-- A queue that is off, one with room, and records that are on their way and held. -/
theorem witness_FaultsAndErrors :
    let f : FaultRec := ⟨5, 0, [0, 0, 0, 0, 0, 0, 0, 0]⟩
    let s : State := { faults := [f] }
    let o : State := { faults := [f], dev := [(fqBase 5 + 8, 4)] }
    let h : State := { heldFaults := [f], dev := [(fqBase 5 + 8, 4)] }
    s.faults.find? (fun g => g.asid == 5) = some f ∧ s.queueFull (fqBase 5) = true ∧ o.queueFull (fqBase 5) = false ∧ h.heldReady 0 = some f ∧
    ({ heldFaults := [f] } : State).heldReady 0 = none ∧ f.words.length = 8 ∧ (63 : Nat) < 64 := by decide

/-- Units with few and with many errors, units at the ends of their ranges, and tasks whose wait is over the limit. -/
theorem witness_FaultsAndErrors_units :
    let m : UnitErrs := { times := List.replicate 16 0, reported := some 0 }
    let s := fun (e : UnitErrs) => ({ errs := [(0, e)], time := [(0, 999999)] } : State)
    let t := { task [] with phase := .parked, wait := .word 0 (.x 0 3), waitFrom := some 0 }
    let w : State := on t core { dev := [(pWdctl 0, 1)], time := [(0, 1001)] }
    unitExists 0 0 = true ∧ unitExists 3 803 = true ∧ ((s {}).unitErrs 0 0).times = [] ∧ ((s m).unitErrs 0 0).times[15]? = some 0 ∧
    (0 : Nat) + 1000000 > (s m).timeOf 0 ∧ 8 * 0x8FFF < 0x48000 ∧ stackOf (32 * 0) = 2 * 0 + 0 ∧ stackOf 0x1000 = 2 * 0 + 1 ∧
    ((on t).ctx 0 0).phase ≠ .free ∧ w.counted 0 t = true ∧ t.waitFrom = some 0 ∧ 0 + 1 * 1000 < w.timeOf 0 ∧
    (w.reg (pWdctl (dieOf 0))).toNat % 2 ^ 32 = 1 ∧ w.waitingLdf 0 t = none := by
  and_intros <;> decide +kernel

/-- Tasks over the limit with a result on its way and with none, one that a cancel has marked, and transfers that an error ends. -/
theorem witness_FaultsAndErrors_ends :
    let t := { task [] with phase := .parked, wait := .word 0 (.x 0 3), waitFrom := some 0 }
    let w := fun (t : Ctx) => on t core { dev := [(pWdctl 0, 1)], time := [(0, 1001)] }
    let v := { t with var := [.x 0 5] }
    let k := { t with killed := true }
    (∀ q ∈ (w t).poolQueue 0, q.core = 0 → q.ctx = 0 → q.uid = t.uid) ∧ t.var = [] ∧ v.var = [.x 0 5] ∧ (∀ i, v.wait ≠ .answer i) ∧
    k.killed = true ∧ k.groups = [] ∧ (w k).pools = [] ∧ ((copying (copy 2)).copyChan 0 1).queue[0]? = some (copy 2) ∧ (copy 2).state = 2 ∧
    (copy 1).state ≠ 2 ∧ ((decoding (job 2)).video 2).queue[0]? = some (job 2) ∧ (job 1).state ≠ 2 := by
  refine ⟨?_, rfl, rfl, fun _ h => (nomatch h), rfl, rfl, rfl, ?_, rfl, ?_, ?_, ?_⟩ <;> decide

/-- An `ldf` that has waited past the watchdog's limit. -/
theorem witness_FaultsAndErrors_ldf :
    let r := { req .ldf 0x20000 16 with ctx := 0 }
    let t := { task [] with wait := .answer 7, waitFrom := some 0 }
    let w := on t core { deferred := [r], dev := [(pWdctl 0, 1)], time := [(0, 1001)] }
    w.waitingLdf 0 t = some r ∧ w.counted 0 t = true := by
  and_intros <;> decide +kernel

/-- A task whose registered `waita` has waited past the watchdog's limit: the result of its wait is the only one it awaits. -/
theorem witness_FaultsAndErrors_registered :
    let r := { req (.waita 0) 0x20000 8 with dest := .answer (.x 0 3) }
    let t := { task [] with phase := .parked, wait := .answer 7, waitFrom := some 0, var := [.x 0 3] }
    let w := on t (outstanding r false) { waiters := [r], dev := [(pWdctl 0, 1)], time := [(0, 1001)] }
    (w.core 0).registered 7 = some r ∧ .x 0 3 ∈ r.waitRegs ∧ w.counted 0 t = true ∧ w.waitingLdf 0 t = none := by
  and_intros <;> decide +kernel

/-- A core that is to be pre-empted while its task waits in an `ldf`. -/
theorem witness_Preemption_recall :
    let r := { req .ldf 0x20000 16 with ctx := 0 }
    let t := { task [] with wait := .answer 7 }
    let low := { launch1 with words := [0, 0, 0, 0, 0, 0, 2 ^ 54, 0, 0, 0, 0, 0, 0, 0, 0, 0x100000] }
    let f : Flight := { msg := {}, launch := 2, target := 0, sender := .queueAgent 0 }
    let s : State :=
      { cores := [(0, { conf := some ⟨0, 0, 0, 1⟩, ctxs := [(0, t)], runq := [f] })], deferred := [r]
        launches := [(1, low), (2, { low with queue := 1, asid := 1 })], dev := [(pQctl 1, 0xE)] }
    s.wantsCore 0 = true ∧ s.saveReady 0 = false ∧ 0 ∈ (s.core 0).ctxs.keys ∧ s.waitingLdf 0 (s.ctx 0 0) = some r ∧ r ∈ s.deferred ∧
    (s.ctx 0 0).recalled = false ∧ (s.ctx 0 0).expired = false := by
  and_intros <;> decide +kernel

/-- A core that is pre-empted, and one whose saved launches it resumes. -/
theorem witness_Preemption :
    let low := { launch1 with words := [0, 0, 0, 0, 0, 0, 2 ^ 54, 0, 0, 0, 0, 0, 0, 0, 0, 0x100000] }
    let high := { low with queue := 1, asid := 1 }
    let f : Flight := { msg := {}, launch := 2, target := 0, sender := .queueAgent 0 }
    let s : State :=
      { cores := [(0, { conf := some ⟨0, 0, 0, 1⟩, ctxs := [(0, task [])], runq := [f] })], launches := [(1, low), (2, high)], dev := [(pQctl 1, 0xE)] }
    s.wantsCore 0 = true ∧ s.saveReady 0 = true ∧ blocks (s.core 0).conf ≤ 18 ∧ (s.core 0).launchesLive = [1] ∧
    (on (task [])).wantsCore 0 = false ∧ s.bestRec 0 = none := by
  and_intros <;> decide +kernel

/-- What core 0 keeps of a launch that it can resume, and of one whose slot is no longer intact. -/
theorem witness_Preemption_resume :
    let ok : SaveRec :=
      { core := 0, launches := [1], savedAt := 0, conf := none, kvring := 7, ctxs := [(0, task [(5, 1)])], wa := [], spad := [(0, 9)], spadPoison := []
        areas := [] }
    let bad : SaveRec := { ok with areas := [⟨1, 0x100000, 0x80000, 1⟩] }
    let s : State := { launches := [(1, launch1)], saves := [ok] }
    let w : State := { launches := [(1, launch1)], saves := [bad], poison := [0x100000] }
    s.bestRec 0 = some ok ∧ ((s.core 0).live || (s.core 0).chosen.isSome || s.spadBusy 0 || s.higherWaits 0 ok) = false ∧
    (∀ a ∈ ok.areas, s.slotIntact (blocks ok.conf) a = true) ∧ blocks ok.conf ≤ blocks (s.core 0).conf ∧ (∀ q ∈ s.poolQueue 0, q.core ≠ 0) ∧
    w.bestRec 0 = some bad ∧ ((w.core 0).live || (w.core 0).chosen.isSome || w.spadBusy 0 || w.higherWaits 0 bad) = false ∧
    (∀ a ∈ bad.areas, w.slotIntact (blocks bad.conf) a = false) := by
  have h : poisonedIn [0x100000] (0x100000 + 0) 0x1E000 = true := by decide +kernel
  refine ⟨?_, ?_, ?_, ?_, ?_, ?_, ?_, ?_⟩ <;> first | decide +kernel | skip
  intro a ha
  obtain rfl := List.mem_singleton.mp ha
  simp only [State.slotIntact, slotRanges, List.all_cons, h, Bool.not_true, Bool.and_false, Bool.false_and]

/-! ### Witnesses: the fabric, time, the host port, boot and management -/

/-- A module that uses the fabric as module 5, its session with module 3 and what its route to that module has. -/
def joined (x : Session) (up now : Nat) : State :=
  { dev := [(pFabctl, w64 (10000 * 2 ^ 24 + 5 * 2 ^ 8 + 1)), (pRoute 3, 1), (pPortst, w64 up), (pExport 0, w64 (3 * 2 ^ 62))]
    sessions := [(3, x)], time := [(0, now)] }

/-- A request of core 0 that goes to module 3. -/
def away : Req := req .read (2 ^ 39 + 2 ^ 38) 8 (.remote 3)

theorem witness_FabricSessions_packets :
    let s := joined {} 1 0
    let p : InPacket := ⟨1, 0, 0, 8, []⟩
    (s.session 3).expect < 2 ^ 16 ∧ s.peerOk 3 = true ∧ s.peerOk 5 = false ∧ (s.session 3).heldIn = [] ∧ p.op = some .read ∧
    (0 / 2 ^ 26 ≤ 8191 ∧ (s.reg (pExport 0)).toNat.testBit 63 = true ∧ (s.reg (pExport 0)).toNat.testBit 62 = true) ∧
    (s.reg (pExport 1)).toNat.testBit 63 = false ∧ (InPacket.mk 1 32 4 8 []).op = none ∧
    ((joined { waiting := [(4, away)] } 1 0).session 3).waiting.find? (fun w => w.1 == 4) = some (4, away) ∧
    (s.session 3).waiting.find? (fun w => w.1 == 4) = none := by
  and_intros <;> decide +kernel

theorem witness_FabricSessions_ports :
    let p : Packet := ⟨9, away, 1, 0, none⟩
    let s := joined { unacked := [p] } 1 20000
    0 ∈ s.routeUp 3 ∧ 1 ∉ s.routeUp 3 ∧ (s.session 3).failed = false ∧ (p.port ≠ 0 ∧ s.portUp p.port = false) ∧
    (let t := joined { waiting := [(4, away)] } 0 10000000
     t.peerOk 3 = true ∧ (t.session 3).failed = false ∧ t.routeDead 3 = true) := by
  and_intros <;> decide +kernel

theorem witness_FabricSessions_requests :
    let s := front away (joined {} 1 0)
    s.chan away.agent (.remote 3) = [away] ∧ (s.session 3).failed = false ∧ (s.session 3).unacked.length < 16384 ∧
    ((front away (joined { failed := true } 1 0)).session 3).failed = true ∧
    16384 ≤ ((joined { unacked := List.replicate 16384 ⟨9, away, 1, 0, none⟩ } 1 0).session 3).unacked.length := by
  and_intros <;> decide +kernel

/-- An answer to a request that the session with module 3 has delivered. -/
theorem witness_FabricSessions_answers :
    let x : Resp := { req := { away with agent := .fabricIn 3 1, home := .slice 0, uid := 0 } }
    let s := answering x (joined {} 1 0)
    s.rchan (.slice 0) (.fabricIn 3 1) = [x] ∧ (s.session 3).failed = false ∧ (s.session 3).unacked.length < 16384 ∧
    x.req.uid = (s.session 3).epoch ∧ x.req.uid ≠ ((joined { epoch := 1 } 1 0).session 3).epoch := by
  and_intros <;> decide +kernel

/-- A port that may change, a FABSYNC read that is done and one that is not, a master and a follower, and a window of the governor. -/
theorem witness_LinksAndTime :
    let s := joined { failed := true } 0 1000000
    let r := req .read 0x8000D00000 8 (.device 0)
    let w : State := { chans := [⟨.core 0, .remote 3, [{ away with id := 1 }]⟩], fabsyncs := [⟨r, [1]⟩, ⟨r, [2]⟩] }
    let master : State := { dev := [(pTdctl, 3)], time := [(0, 1000)] }
    let slave : State := { dev := [(pTdctl, 1)], time := [(0, 1000000)] }
    s.portUp 0 = false ∧ s.disabled (portDie 0) (portUnit 0) = false ∧ 0 ∈ s.routePorts 3 ∧ (joined {} 1 0).portUp 0 = true ∧
    ({ s with dev := [(pDismask 0 12, w64 (2 ^ 64 - 1)), (pDismask 0 13, w64 (2 ^ 64 - 1))] } : State).disabled (portDie 0) (portUnit 0) = true ∧
    1 ∈ w.fabPending ∧ 2 ∉ w.fabPending ∧ (master.reg pTdctl).toNat % 4 = 3 ∧ master.timeLink.sent = none ∧
    (slave.reg pTdctl).toNat % 4 = 1 ∧ slave.timeLink.holding = false ∧ slave.timeLink.got + 100000 ≤ slave.timeOf 0 ∧
    s.window + 1000000 ≤ s.timeOf 0 ∧ master.timeOf 0 < master.window + 1000000 := by
  and_intros <;> decide +kernel

theorem witness_HostPort :
    let ready : State := { boot := { ready := true, stage := 4 }, hostReqs := [req .read (2 ^ 39 + 2 ^ 37) 8 .hostPort] }
    (2 ^ 39 - 8 + 8 ≤ 2 ^ 39 ∧ (2 ^ 39 - 8) / 128 = (2 ^ 39 - 8 + 8 - 1) / 128) ∧
    (inFabric 0x8000D00200 = false ∧ inHostAp 0x8000D00200 = false ∧ 0x8000D00200 / 8 * 8 = 0x8000D00200 ∧ 0x8000D00208 / 8 * 8 ≠ 0x8000D00200) ∧
    ({} : State).boot.ready = false ∧ ({} : State).boot.stage ≠ 5 ∧ ready.boot.ready = true ∧
    ready.hostReqs.find? (fun r => r.id == 7) = some (req .read (2 ^ 39 + 2 ^ 37) 8 .hostPort) ∧
    ready.hostReqs.find? (fun r => r.id == 8) = none := by
  and_intros <;> decide

/-- An image that has the first three properties that a check asks for; the fourth and the fifth are the constants of the model. -/
theorem witness_BootAndFirmware :
    let img : List Byte := [0x57, 0x46, 0x4C, 0x4E, 0, 0, 0, 0, 7, 0, 0, 0, 0, 0, 0, 0, 1, 0, 0, 0] ++ List.replicate 1817 0
    let w := fun (i : Nat) => leNat ((img.drop (8 * i)).take 8)
    (64 ≤ img.length ∧ w 0 % 2 ^ 32 = 0x4E4C4657) ∧ (1 ≤ w 2 % 2 ^ 32 ∧ 64 + w 2 % 2 ^ 32 + 1772 ≤ img.length) ∧ 7 ≤ w 1 % 2 ^ 32 ∧
    ¬8 ≤ w 1 % 2 ^ 32 ∧ ({ boot := { busy := true, stage := 5 } } : State).boot.busy = true := by
  and_intros <;> decide +kernel

/-- A disabled array that still holds a tile. -/
def disabling : State :=
  { dev := [(pDismask 0 12, w64 (2 ^ 64 - 1))], arrays := [(0, { tiles := [(0, { base := 0, stride := 0, k := 1, n := 1, fb := 0, bt := false, t0 := 0, t1 := 0, cells := [] })] })] }

/-- A register of each kind, a slice and a port that can be disabled, and a die whose clocks have drifted. -/
theorem witness_DeviceRegisters :
    (isReg (pQctl 0) = true ∧ isReg 1 = false) ∧ devRegAt (pQsize 0) = .qsize ∧ devRegAt (devBase 0 + 0x00D00000) = .svcst ∧
    devRegAt 0x8000D00210 = .govctl ∧ devRegAt pFabctl = .fabctl ∧ devRegAt (devBase 0 + 0x00D00100) = .mgmtst 0 ∧
    devRegAt pFabsync = .fabsync ∧ devRegAt (pDismask 0 12) = .dismask 0 12 ∧
    (canDisable 0 384 = true ∧ canDisable 0 (portUnit 0) = true ∧ canDisable 0 804 = false) ∧
    ({ time := [(0, 9)], skew := [0] } : State).keeperSkew 0 = 9 ∧ NatSet.has ({ time := [(0, 9)], skew := [0] } : State).skew 0 = true ∧
    ({} : State).disableDone = true ∧ disabling.disableDone = false := by
  and_intros <;> decide +kernel

/-- The two forms of an exchange: the one that comes in its order and the one that does not. -/
theorem witness_Attestation :
    ({ spdm := { version := true, caps := true, algs := true, keyed := true, secure := true } } : State).spdm.secure = true ∧
    State.reset.spdm.version = false ∧ State.reset.spdm.algs = false ∧ State.reset.spdm.secure = false := by decide +kernel

/-! ### Witnesses: steps, encodings and the form of memory -/

theorem witness_StepRuns :
    let s := on (task []) { core with istore := [(0, 0x008C8501), (1, 0), (2, 0x1E000800)] } { agenda := [.issue 0 0] }
    s.agenda = .issue 0 0 :: [] ∧ s.mayIssue 0 0 = true ∧ s.mayIssue 0 1 = false ∧ (s.ctx 0 0).poisoned = false ∧
    s.fetchPoison 0 (s.ctx 0 0) = false ∧ decodeWord (s.wordAt 0 (s.ctx 0 0)).toNat = .ok (.sub 0 3 4 5) ∧
    decodeWord (s.wordAt 0 { task [] with pc := 4 }).toNat = .illegal ∧ decodeWord 0x0F94C0BB = .reserved ∧
    (let t := on { task [] with poisoned := true } core {}
     t.mayIssue 0 0 = true ∧ (t.ctx 0 0).poisoned = true) ∧
    (let t := on (task []) { core with istorePoison := [0] } {}
     t.mayIssue 0 0 = true ∧ t.fetchPoison 0 (t.ctx 0 0) = true) ∧
    (let t := on { task [] with wait := .trap none 0x13 0 0 4 7 } core {}
     t.mayIssue 0 0 = true ∧ (t.ctx 0 0).wait = .trap none 0x13 0 0 4 7 ∧ (t.ctx 0 0).killed = false) := by
  and_intros <;> decide +kernel

/-- An empty agenda with a context that may issue, and cycles that pass while a request waits within its lease. -/
theorem witness_StepRuns_time :
    let s := on (task []) { core with istore := [(0, 0x008C8501)] } {}
    let r := { req .read 0x20000 8 with exp := some 4000 }
    let u : State := { front r (on { task [] with age := 3 } { core with istore := [(0, 0x008C8501)] }) with agenda := [.tick 2 [1, 1, 1, 1]] }
    s.agenda = [] ∧ s.mayIssue 0 0 = true ∧ (s.ctx 0 0).wait = .none ∧ (s.ctx 0 0).poisoned = false ∧ s.fetchPoison 0 (s.ctx 0 0) = false ∧
    decodeWord (s.wordAt 0 (s.ctx 0 0)).toNat = .ok (.sub 0 3 4 5) ∧ u.agenda = .tick 2 [1, 1, 1, 1] :: [] ∧ r.timed = true ∧
    (u.core 0).ctxs.find? 0 = some { task [] with age := 3 } ∧ ({ u with cycle := 2 } : State).readyTask 0 { task [] with age := 3 } = true ∧
    ({ u with cycle := 2 } : State).issueHeld 0 0 = false ∧ (u.core 0).chosen = none ∧
    ({ u with cycle := 2 } : State).readyTask 0 { task [] with reclaim := true } = false := by
  and_intros <;> decide +kernel

/-- Two ready contexts, of which the older issues. -/
theorem witness_IssueOrder :
    let s : State :=
      { cores := [(0, { core with istore := [(0, 0x008C8501)], ctxs := [(0, { task [] with age := 3 }), (1, { task [] with age := 5 })] })]
        launches := [(1, launch1)] }
    (s.core 0).ctxs.Pairwise (fun x y => x.1 ≠ y.1) ∧ s.mayIssue 0 1 = true ∧ s.ready 0 0 = true ∧ 0 ∈ (s.core 0).ctxs.map (·.1) ∧
    s.issueHeld 0 0 = false ∧ (s.ctx 0 1).yielded.any (fun y => y + 1 == s.cycle) = (s.ctx 0 0).yielded.any (fun y => y + 1 == s.cycle) := by
  and_intros <;> decide +kernel

theorem witness_DecodeEncode : (Instr.sub 0 3 4 5).wellFormed = true ∧ encode (.sub 0 3 4 5) = some 0x008C8501 := by decide

theorem witness_MemoryFormKept :
    let s : State := { on (task []) { core with istore := [(0, 0x008C8501)] } {} with agenda := [.issue 0 0] }
    s.MemoryForm ∧ ∃ t, step s = .next t := by
  exact ⟨⟨by decide, by decide, by decide⟩, _, rfl⟩

/-! ### The checks of well-formedness -/

/-- A term that fails each check, which the check refuses, and which therefore is in no word that the decoder accepts. -/
theorem test_ill_formed :
    ([.bext 0 0 0 32 32, .bins 0 0 0 63 1, .fcvt 0 0 0 10, .ldx 0 0 0 0 5 0 0, .ldx 0 0 0 0 0 1 3, .stx 0 0 0 0 5 0, .amoadd 0 0 0 0 7,
      .amoaddw 0 0 0 0 7, .amoand 0 0 0 0 7, .amoandw 0 0 0 0 7, .amoor 0 0 0 0 7, .amoorw 0 0 0 0 7, .amoxor 0 0 0 0 7,
      .amoxorw 0 0 0 0 7, .amomin 0 0 0 0 7, .amominw 0 0 0 0 7, .amomax 0 0 0 0 7, .amomaxw 0 0 0 0 7, .amominu 0 0 0 0 7,
      .amominuw 0 0 0 0 7, .amomaxu 0 0 0 0 7, .amomaxuw 0 0 0 0 7, .amoswap 0 0 0 0 7, .amoswapw 0 0 0 0 7, .amofadd 0 0 0 0 7,
      .cas 0 0 0 0 7 0, .red 0 1 0 0 0 0, .red 0 0 0 0 3 0, .red 0 0 0 0 6 11, .red 0 0 0 0 0 3, .fence 0 0 0 2, .fence 0 1 0 5,
      .waita 0 0 0 0 5, .ldf 0 0 0 4, .stf 0 0 0 0 1, .barv 0 0 0 7, .vclaimTry 0 0 1 0, .vclaimWait 0 2 3 0, .vren 0 1 2 0,
      .vld 0 0 0 0 3, .vlds 0 0 0 0 0 3, .vldx 0 0 0 0 0 3, .vst 0 0 0 0 3, .vsts 0 0 0 0 0 3, .vstx 0 0 0 0 0 3, .vcmpVv 0 0 0 0 0 0,
      .vcmpVv 0 1 0 0 0 10, .vcmpVx 0 0 0 0 0 0, .vcmpVx 0 1 0 0 0 10, .vselVv 0 0 0 0 0, .vselVx 0 0 0 0 0, .vmand 0 0 1 1,
      .vmand 0 1 0 1, .vmand 0 1 1 0, .vmor 0 0 1 1, .vmor 0 1 0 1, .vmor 0 1 1 0, .vred 0 0 0 0 11, .vham 0 0 0 0 0 0,
      .vham 0 1 0 0 0 33, .csrr 0 0 7, .csrw 0 0 0 7, .csrs 0 0 0 7, .csrc 0 0 0 7] : List Instr).all
      (fun i => !i.wellFormed) = true := by decide +kernel

/-- The words that the field positions give those terms: the decoder rejects each (R95, R97). -/
theorem test_ill_formed_words :
    ([0x02000820, 0x02001FC1, 0x0780001A, 0x0F800050, 0x0F800007, 0x12000050, 0x1280000F, 0x12800007, 0x1280001F, 0x12800017, 0x1280002F,
      0x12800027, 0x1280003F, 0x12800037, 0x1280004F, 0x12800047, 0x1280005F, 0x12800057, 0x1280006F, 0x12800067, 0x1280007F, 0x12800077,
      0x1280008F, 0x12800087, 0x12800097, 0x130000E0, 0x13900000, 0x13800030, 0x1380006B, 0x13800003, 0x14000002, 0x14000015, 0x14000035,
      0x14800004, 0x14800009, 0x1580001F, 0x18080000, 0x18580001, 0x18300002, 0x18800003, 0x18800013, 0x18800023, 0x18800043, 0x18800053,
      0x18800063, 0x1A000000, 0x1A08000A, 0x1A000080, 0x1A08008A, 0x1A000010, 0x1A000090, 0x1A008811, 0x1A080811, 0x1A088011, 0x1A008812,
      0x1A080812, 0x1A088012, 0x1A00002B, 0x1C8000C0, 0x1C8800E1, 0x1D800007, 0x1D800807, 0x1D801007, 0x1D801807] : List Nat).all
      (fun w => decodeTableWord 32 w == none) = true := by decide +kernel

/-! ### The words of the encoding tables

One word per operation, written from the fixed bits and the field positions of its row: every field has a value of its
own, so that a field read from another place would show. -/

/-- Opcode group 0x01. -/
theorem test_words_op_01 :
    ([(0xA0F79B00, .add 5 29 28 27), (0xA0F79B01, .sub 5 29 28 27), (0xA0F79B02, .and 5 29 28 27), (0xA0F79B03, .or 5 29 28 27),
       (0xA0F79B04, .xor 5 29 28 27), (0xA0F79B05, .sll 5 29 28 27), (0xA0F79B06, .srl 5 29 28 27), (0xA0F79B07, .sra 5 29 28 27),
       (0xA0F79B0A, .min 5 29 28 27), (0xA0F79B0B, .max 5 29 28 27), (0xA0F79B0C, .minu 5 29 28 27), (0xA0F79B0D, .maxu 5 29 28 27),
       (0xA0F78010, .clz 5 29 28), (0xA0F78011, .ctz 5 29 28), (0xA0F78012, .popc 5 29 28), (0xA0F79B1D, .cset 5 29 28 27 5),
       (0xA0F79B25, .csetm 5 29 28 27 5)]
      : List (Nat × Instr)).all
      (fun p => decodeWord p.1 == .ok p.2 && p.2.wellFormed && encode p.2 == some p.1) = true := by decide +kernel

/-- Opcode groups 0x02 to 0x09. -/
theorem test_words_op_02_09 :
    ([(0xA1779B00, .add32 5 29 28 27), (0xA1779B01, .sub32 5 29 28 27), (0xA1779B05, .sll32 5 29 28 27), (0xA1779B06, .srl32 5 29 28 27),
       (0xA1779B07, .sra32 5 29 28 27), (0xA1779B10, .add32z 5 29 28 27), (0xA1779B11, .sub32z 5 29 28 27),
       (0xA1779B15, .sll32z 5 29 28 27), (0xA1779B16, .srl32z 5 29 28 27), (0xA1779B17, .sra32z 5 29 28 27), (0xA1F79B00, .mul 5 29 28 27),
       (0xA1F79B01, .mulh 5 29 28 27), (0xA1F79B02, .mulhu 5 29 28 27), (0xA1F79B04, .div 5 29 28 27), (0xA1F79B05, .divu 5 29 28 27),
       (0xA1F79B06, .rem 5 29 28 27), (0xA1F79B07, .remu 5 29 28 27), (0xA27782B5, .bext 5 29 28 10 53), (0xA2779254, .bins 5 29 28 9 20),
       (0xA2F79FFB, .addi 5 29 28 8187), (0xA3779FFB, .andi 5 29 28 8187), (0xA3F79FFB, .ori 5 29 28 8187),
       (0xA4779FFB, .xori 5 29 28 8187), (0xA4F7803B, .slli 5 29 28 59), (0xA4F7883B, .srli 5 29 28 59), (0xA4F7903B, .srai 5 29 28 59)]
      : List (Nat × Instr)).all
      (fun p => decodeWord p.1 == .ok p.2 && p.2.wellFormed && encode p.2 == some p.1) = true := by decide +kernel

/-- Opcode groups 0x0A to 0x14. -/
theorem test_words_op_0A_14 :
    ([(0xA5779FFB, .clti 5 29 28 8187), (0xA5F79FFB, .cltiu 5 29 28 8187), (0xA6779FFB, .addi32 5 29 28 8187),
       (0xA6F7FFFC, .immhi 5 29 262140), (0xA777FFFC, .pcofs 5 29 262140), (0xA7F79B00, .fadd 5 29 28 27), (0xA7F79B01, .fsub 5 29 28 27),
       (0xA7F79B02, .fmul 5 29 28 27), (0xA7F79B03, .fmin 5 29 28 27), (0xA7F79B04, .fmax 5 29 28 27), (0xA7F79B05, .feq 5 29 28 27),
       (0xA7F79B06, .flt 5 29 28 27), (0xA7F79B07, .fle 5 29 28 27), (0xA7F78008, .fclass 5 29 28), (0xA7F79B09, .fsign 5 29 28 27),
       (0xA7F79B0A, .fdiv 5 29 28 27), (0xA7F7800B, .fsqrt 5 29 28), (0xA7F7800C, .fabs 5 29 28), (0xA7F7800D, .fneg 5 29 28),
       (0xA7F78017, .fcvt 5 29 28 7), (0xA7F79BFA, .fmadd 5 29 28 27 26), (0xA8779FFB, .beq 5 29 28 8187), (0xA8F79FFB, .bne 5 29 28 8187),
       (0xA9779FFB, .blt 5 29 28 8187), (0xA9F79FFB, .bge 5 29 28 8187), (0xAA779FFB, .bltu 5 29 28 8187)]
      : List (Nat × Instr)).all
      (fun p => decodeWord p.1 == .ok p.2 && p.2.wellFormed && encode p.2 == some p.1) = true := by decide +kernel

/-- Opcode groups 0x15 to 0x24. -/
theorem test_words_op_15_24 :
    ([(0xAAF79FFB, .bgeu 5 29 28 8187), (0xAB77FFFC, .jal 5 29 262140), (0xABF79FFB, .jalr 5 29 28 8187), (0xAC779FFB, .lb 5 29 28 8187),
       (0xACF79FFB, .lh 5 29 28 8187), (0xAD779FFB, .lw 5 29 28 8187), (0xADF79FFB, .ld 5 29 28 8187), (0xAE779FFB, .lbu 5 29 28 8187),
       (0xAEF79FFB, .lhu 5 29 28 8187), (0xAF779FFB, .lwu 5 29 28 8187), (0xAFF780B6, .ldx 5 29 28 1 3 1 2), (0xB0779FFB, .sb 5 29 28 8187),
       (0xB0F79FFB, .sh 5 29 28 8187), (0xB1779FFB, .sw 5 29 28 8187), (0xB1F79FFB, .sd 5 29 28 8187), (0xB203BCC2, .stx 5 29 28 1 4 2)]
      : List (Nat × Instr)).all
      (fun p => decodeWord p.1 == .ok p.2 && p.2.wellFormed && encode p.2 == some p.1) = true := by decide +kernel

/-- Opcode groups 0x25 to 0x28. -/
theorem test_words_op_25_28 :
    ([(0xB2F79B0D, .amoadd 5 29 28 27 5), (0xB2F79B05, .amoaddw 5 29 28 27 5), (0xB2F79B1D, .amoand 5 29 28 27 5),
       (0xB2F79B15, .amoandw 5 29 28 27 5), (0xB2F79B2D, .amoor 5 29 28 27 5), (0xB2F79B25, .amoorw 5 29 28 27 5),
       (0xB2F79B3D, .amoxor 5 29 28 27 5), (0xB2F79B35, .amoxorw 5 29 28 27 5), (0xB2F79B4D, .amomin 5 29 28 27 5),
       (0xB2F79B45, .amominw 5 29 28 27 5), (0xB2F79B5D, .amomax 5 29 28 27 5), (0xB2F79B55, .amomaxw 5 29 28 27 5),
       (0xB2F79B6D, .amominu 5 29 28 27 5), (0xB2F79B65, .amominuw 5 29 28 27 5), (0xB2F79B7D, .amomaxu 5 29 28 27 5),
       (0xB2F79B75, .amomaxuw 5 29 28 27 5), (0xB2F79B8D, .amoswap 5 29 28 27 5), (0xB2F79B85, .amoswapw 5 29 28 27 5),
       (0xB2F79B95, .amofadd 5 29 28 27 5), (0xB3779BB9, .cas 5 29 28 27 5 25), (0xB3D39B3E, .red 5 5 28 27 3 14),
       (0xB400001A, .fence 5 1 1 2), (0xB403BC20, .cln 5 29 28), (0xB403BC21, .inv 5 29 28), (0xB4779B33, .waita 5 29 28 27 3)]
      : List (Nat × Instr)).all
      (fun p => decodeWord p.1 == .ok p.2 && p.2.wellFormed && encode p.2 == some p.1) = true := by decide +kernel

/-- Opcode groups 0x29 to 0x2D. -/
theorem test_words_op_29_2D :
    ([(0xB4F78002, .ldf 5 29 28 2), (0xB4F79B0E, .stf 5 29 28 27 6), (0xB503BC00, .spawn 5 29 28), (0xB5000001, .endTask 5),
       (0xB5779B02, .park 5 29 28 27), (0xB5000003, .yield 5), (0xB5779B04, .qput 5 29 28 27), (0xB5778005, .cancel 5 29 28),
       (0xB5F78000, .join 5 29 28), (0xB5F78008, .leave 5 29 28), (0xB5F79B10, .bari 5 29 28 27), (0xB5F7801C, .barv 5 29 28 4),
       (0xB5F79B20, .barw 5 29 28 27), (0xB6779B00, .spawnb 5 29 28 27), (0xB6778B01, .setbnd 5 29 28 11), (0xB6000002, .killpt 5),
       (0xB6778B03, .improve 5 29 28 11), (0xB6740C07, .rdinc 5 29 12 1 1), (0xB6779B08, .incset 5 29 28 27),
       (0xB6F79B00, .hire 5 29 28 27)]
      : List (Nat × Instr)).all
      (fun p => decodeWord p.1 == .ok p.2 && p.2.wellFormed && encode p.2 == some p.1) = true := by decide +kernel

/-- Opcode groups 0x2E to 0x31. -/
theorem test_words_op_2E_31 :
    ([(0xB703A003, .hgw 5 29 3), (0xB7740013, .hgr 5 29 3), (0xB7778021, .hwait 5 29 28 1), (0xB7778030, .hstat 5 29 28),
       (0xB7779B40, .bind 5 29 28 27), (0xB7779B50, .unbind 5 29 28 27), (0xB703BC60, .burst 5 29 28), (0xB7F78001, .cpwait 5 29 28 1),
       (0xB7F78010, .cpst 5 29 28), (0xB7F78020, .ringsub 5 29 28), (0xB7F78021, .ringstop 5 29 28), (0xB7F79B30, .mrowCopy 5 29 28 27),
       (0xB7F78031, .mrowZero 5 29 28), (0xB7F79B40, .lzput 5 29 28 27), (0xB7F78050, .coll 5 29 28), (0xB84EC000, .vclaimTry 5 2 1 27),
       (0xB84EC001, .vclaimWait 5 2 1 27), (0xB84EC002, .vren 5 2 1 27), (0xB8000003, .vrel 5), (0xB8EF0082, .vld 5 13 28 1 2),
       (0xB8EF3692, .vlds 5 13 28 27 1 2), (0xB8EF16A2, .vldx 5 13 28 11 1 2), (0xB8EF00C2, .vst 5 13 28 1 2),
       (0xB8EF36D2, .vsts 5 13 28 27 1 2), (0xB8EF16E2, .vstx 5 13 28 11 1 2)]
      : List (Nat × Instr)).all
      (fun p => decodeWord p.1 == .ok p.2 && p.2.wellFormed && encode p.2 == some p.1) = true := by decide +kernel

/-- Opcode group 0x32. -/
theorem test_words_op_32 :
    ([(0xB96E5900, .vaddVv 5 13 12 11 1), (0xB96E6D80, .vaddVx 5 13 12 27 1), (0xB96E5901, .vsubVv 5 13 12 11 1),
       (0xB96E6D81, .vsubVx 5 13 12 27 1), (0xB96E5902, .vmulVv 5 13 12 11 1), (0xB96E6D82, .vmulVx 5 13 12 27 1),
       (0xB96E5903, .vmulhVv 5 13 12 11 1), (0xB96E6D83, .vmulhVx 5 13 12 27 1), (0xB96E5904, .vminVv 5 13 12 11 1),
       (0xB96E6D84, .vminVx 5 13 12 27 1), (0xB96E5905, .vmaxVv 5 13 12 11 1), (0xB96E6D85, .vmaxVx 5 13 12 27 1),
       (0xB96E5906, .vminuVv 5 13 12 11 1), (0xB96E6D86, .vminuVx 5 13 12 27 1), (0xB96E5907, .vmaxuVv 5 13 12 11 1),
       (0xB96E6D87, .vmaxuVx 5 13 12 27 1), (0xB96E5908, .vandVv 5 13 12 11 1), (0xB96E6D88, .vandVx 5 13 12 27 1),
       (0xB96E5909, .vorVv 5 13 12 11 1), (0xB96E6D89, .vorVx 5 13 12 27 1), (0xB96E590A, .vxorVv 5 13 12 11 1),
       (0xB96E6D8A, .vxorVx 5 13 12 27 1), (0xB96E590B, .vsllVv 5 13 12 11 1), (0xB96E6D8B, .vsllVx 5 13 12 27 1),
       (0xB96E590C, .vsrlVv 5 13 12 11 1), (0xB96E6D8C, .vsrlVx 5 13 12 27 1), (0xB96E590D, .vsraVv 5 13 12 11 1),
       (0xB96E6D8D, .vsraVx 5 13 12 27 1)]
      : List (Nat × Instr)).all
      (fun p => decodeWord p.1 == .ok p.2 && p.2.wellFormed && encode p.2 == some p.1) = true := by decide +kernel

/-- Opcode groups 0x33 to 0x34. -/
theorem test_words_op_33_34 :
    ([(0xB9EE5900, .vfaddVv 5 13 12 11 1), (0xB9EE6D80, .vfaddVx 5 13 12 27 1), (0xB9EE5901, .vfsubVv 5 13 12 11 1),
       (0xB9EE6D81, .vfsubVx 5 13 12 27 1), (0xB9EE5902, .vfmulVv 5 13 12 11 1), (0xB9EE6D82, .vfmulVx 5 13 12 27 1),
       (0xB9EE5903, .vfmaVv 5 13 12 11 1), (0xB9EE6D83, .vfmaVx 5 13 12 27 1), (0xB9EE5904, .vfnmaVv 5 13 12 11 1),
       (0xB9EE6D84, .vfnmaVx 5 13 12 27 1), (0xB9EE5905, .vfminVv 5 13 12 11 1), (0xB9EE6D85, .vfminVx 5 13 12 27 1),
       (0xB9EE5906, .vfmaxVv 5 13 12 11 1), (0xB9EE6D86, .vfmaxVx 5 13 12 27 1), (0xBA165908, .vcmpVv 5 2 12 11 1 8),
       (0xBA166D88, .vcmpVx 5 2 12 27 1 8), (0xBA6E5910, .vselVv 5 13 12 11 1), (0xBA6E6D90, .vselVx 5 13 12 27 1),
       (0xBA118811, .vmand 5 2 3 1), (0xBA118812, .vmor 5 2 3 1), (0xBA6E5913, .vperm 5 13 12 11 1), (0xBA6E6D94, .vslide 5 13 12 27 1),
       (0xBA687195, .vbcast 5 13 28 1), (0xBA687096, .vmvxv 5 13 28), (0xBA06F097, .vmvvx 5 13 28), (0xBA6E0129, .vred 5 13 12 1 9)]
      : List (Nat × Instr)).all
      (fun p => decodeWord p.1 == .ok p.2 && p.2.wellFormed && encode p.2 == some p.1) = true := by decide +kernel

/-- Opcode groups 0x35 to 0x3B. -/
theorem test_words_op_35_3B :
    ([(0xBAEE0100, .vexp2 5 13 12 1), (0xBAEE0101, .vlog2 5 13 12 1), (0xBAEE0102, .vrcp 5 13 12 1), (0xBAEE0103, .vrsq 5 13 12 1),
       (0xBAEE0104, .vsqrt 5 13 12 1), (0xBB6E6D98, .vcvt 5 13 12 27 1 9 8), (0x1BF6E470, .fmt 14 13 12 4 1 1 1),
       (0xBC007403, .waalloc 5 29 3), (0xBC000012, .wafree 5 2), (0xBC007423, .waset 5 29 3), (0xBC068033, .wapush 5 13 3),
       (0xBC680043, .waread 5 13 3), (0xBC000052, .waclr 5 2), (0xBCF79B00, .kvhome 5 29 28 27), (0xBCF79B01, .stub 5 29 28 27),
       (0xBC83BC02, .migrate 5 29 28), (0xBCEE0180, .vsgn 5 13 12 1), (0xBC9659DF, .vham 5 2 12 11 1 31), (0xBD779B00, .vdec 5 29 28 27),
       (0xBD778011, .vdstat 5 29 28 1), (0xBDF4004B, .csrr 5 29 75), (0xBDF78831, .csrw 5 29 28 49), (0xBDF79012, .csrs 5 29 28 18),
       (0xBDF79C00, .csrc 5 29 28 1024)]
      : List (Nat × Instr)).all
      (fun p => decodeWord p.1 == .ok p.2 && p.2.wellFormed && encode p.2 == some p.1) = true := by decide +kernel

/-- Opcode group 0x3C. -/
theorem test_words_op_3C :
    ([(0xBE7FA000, .trap 5 1021), (0xBE000001, .eret 5), (0xBE7FA002, .brk 5 1021), (0xBE03A003, .ifence 5 29),
       (0xBE778004, .ovld 5 29 28), (0xBE778008, .lwait 5 29 28), (0xBE779B10, .resume 5 29 28 27), (0xBE779B11, .tkill 5 29 28 27)]
      : List (Nat × Instr)).all
      (fun p => decodeWord p.1 == .ok p.2 && p.2.wellFormed && encode p.2 == some p.1) = true := by decide +kernel

/-! ### One step of one instruction, its result worked out from the rule by hand -/

/-- The context after an instruction on task `t`; a context with no task where the instruction does not answer a next state. -/
def after (i : Instr) (t : Ctx) (h : HomeCore := core) (s : State := {}) : Ctx :=
  match exec i (on t h s) with
  | .next u => u.cur
  | _ => {}

/-- What a register holds after an instruction, its result having reached it. -/
def gives (i : Instr) (x : Map W64) (rd : Fin 32) : W64 := (after i (task x)).settle.x.get 0 rd.val

/-- x1 = 2^64 − 1, x2 = 2^63, x3 = 3, x4 = 64, x5 = −7, x6 = 0xDEADBEEF80000001, x7 = 33. -/
def operands : Map W64 :=
  [(1, 0xFFFFFFFFFFFFFFFF), (2, 0x8000000000000000), (3, 3), (4, 64), (5, 0xFFFFFFFFFFFFFFF9), (6, 0xDEADBEEF80000001), (7, 33)]

/-- R184: wraps, shifts of the width and more, divisions with a fixed result, the 32-bit extensions. -/
theorem test_alu_results :
    ([(.add 0 9 1 3, 2), (.sub 0 9 3 1, 4), (.and 0 9 6 1, 0xDEADBEEF80000001), (.or 0 9 3 4, 67), (.xor 0 9 5 1, 6),
      (.sll 0 9 3 4, 0), (.sll 0 9 3 7, 0x600000000), (.srl 0 9 2 4, 0), (.srl 0 9 2 7, 0x40000000), (.sra 0 9 2 4, 0xFFFFFFFFFFFFFFFF),
      (.sra 0 9 2 7, 0xFFFFFFFFC0000000), (.min 0 9 1 3, 0xFFFFFFFFFFFFFFFF), (.max 0 9 2 3, 3), (.minu 0 9 1 3, 3), (.maxu 0 9 2 3, 0x8000000000000000),
      (.clz 0 9 3, 62), (.clz 0 9 0, 64), (.ctz 0 9 2, 63), (.ctz 0 9 0, 64), (.popc 0 9 6, 26)] : List (Instr × W64)).all
      (fun p => gives p.1 operands 9 == p.2) = true := by decide +kernel

theorem test_set_and_word_results :
    ([(.cset 0 9 2 3 2, 1), (.cset 0 9 2 3 4, 0), (.cset 0 9 6 3 6, 1), (.csetm 0 9 3 3 0, 0xFFFFFFFFFFFFFFFF), (.csetm 0 9 3 3 1, 0),
      (.add32 0 9 6 1, 0xFFFFFFFF80000000), (.add32z 0 9 6 1, 0x80000000), (.sub32 0 9 3 4, 0xFFFFFFFFFFFFFFC3), (.sub32z 0 9 3 4, 0xFFFFFFC3),
      (.sll32 0 9 3 7, 0), (.srl32 0 9 6 3, 0x10000000), (.srl32 0 9 6 7, 0), (.sra32 0 9 6 7, 0xFFFFFFFFFFFFFFFF), (.sra32z 0 9 6 3, 0xF0000000)]
      : List (Instr × W64)).all (fun p => gives p.1 operands 9 == p.2) = true := by decide +kernel

theorem test_multiply_divide_results :
    ([(.mul 0 9 1 5, 7), (.mulh 0 9 1 5, 0), (.mulhu 0 9 1 5, 0xFFFFFFFFFFFFFFF8), (.mulh 0 9 2 2, 0x4000000000000000), (.div 0 9 5 3, 0xFFFFFFFFFFFFFFFE),
      (.div 0 9 2 1, 0x8000000000000000), (.div 0 9 3 0, 0xFFFFFFFFFFFFFFFF), (.rem 0 9 5 3, 0xFFFFFFFFFFFFFFFF), (.rem 0 9 2 1, 0), (.rem 0 9 5 0, 0xFFFFFFFFFFFFFFF9),
      (.divu 0 9 1 3, 0x5555555555555555), (.remu 0 9 2 3, 2)] : List (Instr × W64)).all
      (fun p => gives p.1 operands 9 == p.2) = true := by decide +kernel

/-- R185 to R187: the sign of an immediate, the place of `immhi`, the offset of `pcofs`, fields of one bit and of all 64. -/
theorem test_immediate_results :
    ([(.addi 0 9 3 0x1FFF, 2), (.andi 0 9 6 0x1FF0, 0xDEADBEEF80000000), (.ori 0 9 3 0x1000, 0xFFFFFFFFFFFFF003), (.xori 0 9 3 0xFFF, 0xFFC),
      (.clti 0 9 5 0x1FFA, 1), (.cltiu 0 9 3 0x1FFF, 1), (.addi32 0 9 6 0x1FFE, 0x7FFFFFFF), (.immhi 0 9 0x3FFFF, 0xFFFFFFFFFFFFE000),
      (.pcofs 0 9 0x3FFFF, 0xFFFC), (.slli 0 9 3 63, 0x8000000000000000), (.srli 0 9 2 63, 1), (.srai 0 9 2 63, 0xFFFFFFFFFFFFFFFF),
      (.bext 0 9 6 63 0, 1), (.bext 0 9 6 0 63, 0xDEADBEEF80000001), (.bext 0 9 6 60 3, 0xD), (.bins 0 3 6 4 3, 0x13)] : List (Instr × W64)).all
      (fun p => gives p.1 operands (match p.1 with | .bins _ rd _ _ _ => rd | _ => 9) == p.2) = true := by decide +kernel

/-- x1 = 1.0, x2 = −0, x3 = 2^−24, x4 = the smallest subnormal, x5 = infinity, x6 = a NaN that is not canonical, x7 = 4.0, x8 = 3.0. -/
def floats : Map W64 :=
  [(1, 0x3F800000), (2, 0x80000000), (3, 0x33800000), (4, 1), (5, 0x7F800000), (6, 0xFFC00001), (7, 0x40800000), (8, 0x40400000)]

/-- R188 to R190, R40, R56: ties go to even, NaNs are canonical, the sign of zero, the class codes that R190 gives. -/
theorem test_float_results :
    ([(.fadd 0 9 1 3, 0x3F800000), (.fsub 0 9 1 1, 0), (.fmul 0 9 2 1, 0x80000000), (.fadd 0 9 6 1, 0x7FC00000), (.fdiv 0 9 1 8, 0x3EAAAAAB),
      (.fdiv 0 9 1 2, 0xFF800000), (.fsqrt 0 9 7, 0x40000000), (.feq 0 9 0 2, 1), (.flt 0 9 2 0, 0), (.fmadd 0 9 7 8 1, 0x41500000),
      (.fclass 0 9 2, 0x0008), (.fclass 0 9 4, 0x0001), (.fclass 0 9 1, 0x7F02), (.fneg 0 9 2, 0)] : List (Instr × W64)).all
      (fun p => gives p.1 floats 9 == p.2) = true := by decide +kernel

/-- R100: x0 reads zero and a write to it is discarded; every operand is read before the result is written. -/
theorem test_zero_register : gives (.add 0 0 1 3) operands 0 = 0 ∧ gives (.add 0 3 3 3) operands 3 = 6 := by decide +kernel

/-- R192 to R196: taken and not taken, the offset counts words from the branch itself, the link, a target that is no multiple of 4. -/
theorem test_branches :
    (after (.beq 0 3 3 0x1FFF) { task operands with pc := 0x100 }).pc = 0xFC ∧ (after (.beq 0 3 4 0x1FFF) { task operands with pc := 0x100 }).pc = 0x104 ∧
    (after (.bltu 0 3 1 2) (task operands)).pc = 8 ∧ (after (.blt 0 3 1 2) (task operands)).pc = 4 ∧
    (let t := after (.jal 0 1 2) { task operands with pc := 0xFFFC }
     t.pc = 4 ∧ t.x.get 9 1 = 0) ∧
    ((after (.jalr 0 9 4 0) (task operands)).pc = 64 ∧ (after (.jalr 0 9 4 0) (task operands)).x.get 0 9 = 4) := by decide +kernel

/-! ### One step that reaches memory, traps or reads a special register -/

/-- What is left of the core after an instruction. -/
def coreAfter (i : Instr) (t : Ctx) (h : HomeCore := core) : HomeCore :=
  match exec i (on t h) with
  | .next u => u.here
  | _ => {}

/-- x5 = offset 0x10 of the own scratchpad, x6 = 0x1122334455667788, x7 = −1. -/
def spadOperands : Map W64 := [(5, 0xFFFFFFFFFFF00010), (6, 0x1122334455667788), (7, 0xFFFFFFFFFFFFFFFF)]

/-- The word 0x80FF at offset 0x10, its lower byte first. -/
def spadWords : HomeCore := { core with spad := [(16, 0xFF), (17, 0x80)] }

/-- Bytes stand little end first, loads extend by sign or by zero, stores write their width (R149, R193 to R199). -/
theorem test_own_loads_and_stores :
    ((after (.lh 0 9 5 0) (task spadOperands) spadWords).settle.x.get 0 9 = 0xFFFFFFFFFFFF80FF ∧
      (after (.lhu 0 9 5 0) (task spadOperands) spadWords).settle.x.get 0 9 = 0x80FF ∧
      (after (.lb 0 9 5 1) (task spadOperands) spadWords).settle.x.get 0 9 = 0xFFFFFFFFFFFFFF80 ∧
      (after (.ld 0 9 5 0) (task spadOperands) spadWords).settle.x.get 0 9 = 0x80FF) ∧
    ((coreAfter (.sw 0 5 6 0x1FFC) (task spadOperands)).spad = [(12, 0x88), (13, 0x77), (14, 0x66), (15, 0x55)] ∧
      (coreAfter (.sb 0 5 7 1) (task spadOperands) spadWords).spad = [(16, 0xFF), (17, 0xFF)] ∧
      (coreAfter (.sh 0 5 0 0) (task spadOperands) spadWords).spad = []) := by decide +kernel

/-- The old value goes to rd, the new one to memory; a compare that fails writes nothing (R233 to R238). -/
theorem test_own_atomics :
    ((after (.amoadd 0 9 5 7 0) (task spadOperands) spadWords).settle.x.get 0 9 = 0x80FF ∧
      (coreAfter (.amoadd 0 9 5 7 0) (task spadOperands) spadWords).spad = [(16, 0xFE), (17, 0x80)]) ∧
    (coreAfter (.amominuw 0 9 5 7 0) (task spadOperands) spadWords).spad = [(16, 0xFF), (17, 0x80)] ∧
    (coreAfter (.cas 0 9 5 6 0 7) (task spadOperands) spadWords).spad = [(16, 0xFF), (17, 0x80)] := by decide +kernel

/-- Cause and INFO of a trap that parks the task, its pc being that of the instruction (R445 to R447). -/
theorem test_traps :
    let causes := fun (i : Instr) (x : Map W64) => let t := after i (task x); (t.phase, t.faulta.toNat % 2 ^ 8, t.faulta.toNat / 2 ^ 24)
    causes (.lw 0 9 5 1) spadOperands = (.faulted, 4, 0) ∧ causes (.trap 0 5) [] = (.faulted, 8, 5) ∧ causes (.brk 0 1023) [] = (.faulted, 7, 1023) ∧
    causes (.csrr 0 9 0x060) [] = (.faulted, 3, 0x60) ∧ causes (.ld 0 9 5 0) [(5, 0xFFFFFFFFFFF04000)] = (.faulted, 0x14, 0) ∧
    causes (.vaddVv 0 1 2 3 0) [] = (.faulted, 0x1A, 0) ∧ causes (.ld 0 9 5 0) [(5, 0x10000)] = (.faulted, 0x10, 3) := by decide +kernel

/-- A trap with a handler installed goes to it and saves the address after it (R210); `eret` goes back (R446 to R448). -/
theorem test_handler :
    let t := after (.trap 0 5) { task [] with pc := 0x40, tvec := 0x10200 }
    (t.phase = .running ∧ t.pc = 0x200 ∧ t.th = true ∧ t.faulta.toNat / 2 ^ 8 % 2 ^ 16 = 0x44) ∧
    (let u := after (.eret 0) t
     u.th = false ∧ u.pc = 0x44) := by decide +kernel

/-- Lanes wrap at 32 bits, inactive lanes keep their values, a destination may be a source (R257, R262), and a reduction writes lane 0 alone (R267). -/
theorem test_vectors :
    let c : Claim :=
      { lanes := 8, v := [(2, [1, 2, 3, 4, 5, 6, 7, 0xFFFFFFFF]), (3, [1, 1, 1, 1, 1, 1, 1, 1]), (4, [9, 9, 9, 9, 9, 9, 9, 9])]
        k := [(1, [true, false, false, false, false, false, false, true])] }
    let lanes := fun (i : Instr) (r : Nat) => ((after i { task [] with claim := some c }).settle.claim.map (fun (d : Claim) => d.v.get [] r)).getD []
    lanes (.vaddVv 0 4 2 3 0) 4 = [2, 3, 4, 5, 6, 7, 8, 0] ∧ lanes (.vaddVv 0 4 2 3 1) 4 = [2, 9, 9, 9, 9, 9, 9, 0] ∧
    lanes (.vsubVv 0 2 2 2 1) 2 = [0, 2, 3, 4, 5, 6, 7, 0] ∧
    lanes (.vred 0 4 2 1 3) 4 = [0, 9, 9, 9, 9, 9, 9, 9] ∧ lanes (.vred 0 4 2 0 6) 4 = [0xFFFFFFFF, 9, 9, 9, 9, 9, 9, 9] := by decide +kernel

/-- A special register gives its value, and keeps what it does not store (R202 to R208). -/
theorem test_special_registers :
    (after (.csrr 0 9 0x031) (task [])).settle.x.get 0 9 = 0x4000 ∧ (after (.csrw 0 0 5 0x004) (task [(5, 0xFFFFFFFFFFFFFFFF)])).tvec = 0x1FFFC ∧
    (after (.csrc 0 9 5 0x004) { task [(5, 0x10000)] with tvec := 0x1FFFC }).tvec = 0xFFFC := by decide +kernel

/-- A flit that is replayed is invisible (R473). -/
theorem test_other_step : exec (.flitReplay 3) (on (task [])) = .next (on (task [])) := by rfl

/-- The first step after reset runs the word that is placed for it, whatever State.reset holds: `addi x5, x0, 7` and `addi x5, x0, −1`. -/
theorem test_first_step :
    let first := fun (w : Nat) => match step (State.reset.withFetchWord 32 w) with | .next u => u.cur.settle.x.get 0 5 | _ => 0
    first 0x02940007 = 0 + 7 ∧ first 0x02941FFF = 0xFFFFFFFFFFFFFFFF := by decide +kernel

/-- Words that the encoding rules give for an operation written in assembly, field by field: `sub x3, x4, x5` is ST 0, OP 000001, rd 00011, rs1
00100, rs2 00101, fn 00000001 (R91, R183). -/
theorem test_decode_examples :
    decodeWord 0b00000000100011001000010100000001 = .ok (.sub 0 3 4 5) ∧
    decodeWord 0b00000100100111001111000000000011 = .ok (.srai 0 7 7 3) ∧
    decodeWord 0b00000010000110010100001000000111 = .ok (.bext 0 6 10 8 7) ∧
    decodeWord 0b00000111100101001100011111101000 = .ok (.fmadd 0 5 6 7 8) ∧
    decodeWord 0b00001111100101001100000010110011 = .ok (.ldx 0 5 6 1 3 0 3) ∧
    decodeWord 0b00010010000000010010100010100011 = .ok (.stx 0 9 8 1 2 3) ∧
    decodeWord 0b00011101100101000000000000100000 = .ok (.csrr 0 5 0x020) ∧
    decodeWord 0b00011110000000001010000000000000 = .ok (.trap 0 5) ∧
    decodeWord 0b00011011100000000001100100100000 = .ok (.fmt 0 0 3 1 0 1 0) ∧
    decodeWord 0b00011110000101001100000000010000 = .ok (.resume 0 5 6 0) ∧
    decodeWord 0b00011100100101001100011100000000 = .ok (.kvhome 0 5 6 7) ∧
    decodeWord 0b00011100100110100000000010000000 = .ok (.vsgn 0 3 4 0) ∧
    decodeWord 0b00011100100010101011000011000011 = .ok (.vham 0 1 5 6 0 3) := by decide

/-- A word with an unassigned OP, a word with an unassigned fn, and one with a reserved field that is not zero (R95, R97). -/
theorem test_decode_rejects :
    decodeWord 0x1E800000 = .illegal ∧ decodeWord 0x00800030 = .illegal ∧ decodeWord 0x00801F10 = .reserved := by decide

end Sys2Proof.Tests
end

section
/-!
SUPPORT. The bits of a word, stored device registers, and what writes at HBM and reports leave as it was.
-/
namespace Sys2Proof.Machine

/-! ### The bits of a word -/

/-- One bit of a word's number is that bit of the word. -/
theorem bitOf_toNat (w : W64) (i : Nat) : bitOf w.toNat i = w.getLsbD i := by
  rw [BitVec.getLsbD, Nat.testBit_eq_decide_div_mod_eq]; rfl

/-- The bits of a word of which one has been set or cleared. -/
theorem getLsbD_setBit (w : W64) (i j : Nat) (b : Bool) (hj : j < 64) :
    (setBit w i b).getLsbD j = if j = i then b else w.getLsbD j := by
  have one : ((1#64 <<< i).getLsbD j) = decide (j = i) := by
    simp only [BitVec.getLsbD_shiftLeft, BitVec.getLsbD_one]
    by_cases e : j = i
    · subst e; simp [hj]
    · by_cases lt : j < i
      · simp [lt, e]
      · have : j - i ≠ 0 := by omega
        simp [this, e]
  cases b
  · simp only [setBit, Bool.false_eq_true, if_false, BitVec.getLsbD_and, BitVec.getLsbD_not, one, hj]
    by_cases e : j = i <;> simp [e]
  · simp only [setBit, if_true, BitVec.getLsbD_or, one]
    by_cases e : j = i <;> simp [e]

theorem maskBits_all : maskBits 63 0 = BitVec.allOnes 64 := by decide

@[simp] theorem and_maskBits_all (v : W64) : v &&& maskBits 63 0 = v := by rw [maskBits_all, BitVec.and_allOnes]

/-- A write of every bit of a word leaves nothing of the old one. -/
@[simp] theorem mergeW_all (old v : W64) : mergeW old v (maskBits 63 0) = v := by
  rw [mergeW, and_maskBits_all, maskBits_all, BitVec.not_allOnes, BitVec.and_zero, BitVec.zero_or]

/-- A sum of distinct powers of two has the bits that it is the sum of. -/
theorem testBit_sumBits (p : Nat → Bool) (n i : Nat) :
    ((natsFrom 0 n).foldl (fun m i => if p i then m + 2 ^ i else m) 0).testBit i = (decide (i < n) && p i) ∧
      (natsFrom 0 n).foldl (fun m i => if p i then m + 2 ^ i else m) 0 < 2 ^ n := by
  induction n with
  | zero => simp [natsFrom]
  | succ n ih =>
    obtain ⟨bit, bound⟩ := ih
    have step : natsFrom 0 (n + 1) = natsFrom 0 n ++ [n] := by simp [natsFrom, List.range_succ]
    simp only [step, List.foldl_append, List.foldl_cons, List.foldl_nil]
    generalize (natsFrom 0 n).foldl (fun m i => if p i then m + 2 ^ i else m) 0 = m at bit bound
    have below : i ≠ n → (i < n + 1 ↔ i < n) := by omega
    cases hp : p n with
    | false =>
      refine ⟨?_, by simp; omega⟩
      by_cases e : i = n
      · subst e; simp [bit, hp]
      · simp only [Bool.false_eq_true, if_false, bit, below e]
    | true =>
      have joined : m + 2 ^ n = 2 ^ n ||| m := by simpa [Nat.add_comm] using Nat.two_pow_add_eq_or_of_lt bound 1
      refine ⟨?_, by simp; omega⟩
      simp only [if_true, joined, Nat.testBit_or, Nat.testBit_two_pow, bit]
      by_cases e : i = n
      · subst e; simp [hp]
      · simp only [below e, Ne.symm e, decide_false, Bool.false_or]

/-- The RW bits of DISMASKj are those of the units that can be disabled. -/
theorem getLsbD_dismaskBits (d j i : Nat) (hi : i < 64) : (dismaskBits d j).getLsbD i = canDisable d (64 * j + i) := by
  have sum := (testBit_sumBits (fun i => canDisable d (64 * j + i)) 64 i).1
  rw [dismaskBits, w64, BitVec.getLsbD_ofNat, sum]
  simp [hi]

/-! ### Stored registers -/

theorem State.reg_setReg (s : State) (pa p : Nat) (v : W64) : (s.setReg pa v).reg p = if p = pa then v else s.reg p := by
  simp only [State.reg, State.setReg, Map.get_set]

@[simp] theorem State.reg_setReg_same (s : State) (pa : Nat) (v : W64) : (s.setReg pa v).reg pa = v := by simp [State.reg_setReg]

theorem State.reg_setReg_ne (s : State) {pa p : Nat} (v : W64) (h : p ≠ pa) : (s.setReg pa v).reg p = s.reg p := by
  simp [State.reg_setReg, h]

/-! ### What a write at HBM leaves -/

/-- Two states that differ in HBM, in the lines and orders of HBM, and in the waits and answers there alone. -/
def State.MemoryAside (s t : State) : Prop :=
  t = { s with mem := t.mem, poison := t.poison, order := t.order, l2 := t.l2, rchans := t.rchans, waiters := t.waiters,
               deferred := t.deferred }

theorem State.MemoryAside.refl (s : State) : s.MemoryAside s := rfl

theorem State.MemoryAside.trans {s t u : State} (h : s.MemoryAside t) (g : t.MemoryAside u) : s.MemoryAside u := by
  unfold State.MemoryAside at *
  rw [g, h]

theorem State.MemoryAside.foldl {α : Type} {f : State → α → State} (h : ∀ (s : State) (a : α), s.MemoryAside (f s a)) (l : List α)
    (s : State) : s.MemoryAside (l.foldl f s) :=
  List.foldlRecOn l f (State.MemoryAside.refl s) fun _ ht a _ => State.MemoryAside.trans ht (h _ a)

theorem State.memoryAside_answerWaita (s : State) (h : Home) (a n : Nat) (word : Nat → List PByte) :
    s.MemoryAside (s.answerWaita h a n word) := by
  unfold State.answerWaita
  refine State.MemoryAside.trans (t := { s with waiters := s.waiters.filter (fun r => !r.waitsOn h a n) }) rfl ?_
  refine State.MemoryAside.foldl ?_ _ _
  exact fun _ _ => rfl

theorem State.memoryAside_answerFutures (s : State) (a n : Nat) : s.MemoryAside (s.answerFutures a n) := by
  unfold State.answerFutures
  refine State.MemoryAside.trans
    (t := { s with deferred := s.deferred.filter (fun r => !(overlap r.addr 16 a n && bitOf (s.memWord (r.addr + 8)).toNat 0)) }) rfl ?_
  refine State.MemoryAside.foldl ?_ _ _
  exact fun _ _ => rfl

theorem State.memoryAside_bumpLines (s : State) (pa n : Nat) : s.MemoryAside (s.bumpLines pa n) := by
  unfold State.bumpLines
  refine State.MemoryAside.foldl ?_ _ _
  exact fun _ _ => rfl

theorem State.memoryAside_memWrite (s : State) (pa : Nat) (bs : List PByte) : s.MemoryAside (s.memWrite pa bs) := by
  unfold State.memWrite State.afterWrite
  refine State.MemoryAside.trans (State.MemoryAside.trans ?_ (State.memoryAside_answerWaita ..)) (State.memoryAside_answerFutures ..)
  refine State.MemoryAside.trans ?_ (State.memoryAside_bumpLines ..)
  rfl

theorem State.memoryAside_l2Drop (s : State) (lose : Bool) (line : Nat) : s.MemoryAside (s.l2Drop lose line) := by
  unfold State.l2Drop
  split
  · exact State.MemoryAside.refl s
  · dsimp only
    split
    · split <;> rfl
    · rfl

theorem State.memoryAside_l2Flush (s : State) (slice : Nat) : s.MemoryAside (s.l2Flush slice) :=
  State.MemoryAside.foldl (fun t k => t.memoryAside_l2Drop false k) _ _

/-! ### What a report leaves -/

/-- Two states of which the second has written records to the queue whose registers start at `q` (R451). -/
structure State.Recorded (q : Nat) (s t : State) : Prop where
  other : State.MemoryAside { s with dev := t.dev } t
  regs  : ∀ pa, pa ≠ q + 0x18 → pa ≠ q + 0x28 → t.reg pa = s.reg pa

theorem State.Recorded.trans {q : Nat} {s t u : State} (h : s.Recorded q t) (g : t.Recorded q u) : s.Recorded q u := by
  refine ⟨?_, fun pa h1 h2 => (g.regs pa h1 h2).trans (h.regs pa h1 h2)⟩
  have ht := h.other
  have hu := g.other
  unfold State.MemoryAside at *
  rw [hu, ht]

theorem State.MemoryAside.recorded {s t : State} (h : s.MemoryAside t) (q : Nat) : s.Recorded q t := by
  have hd : t.dev = s.dev := by rw [h]
  exact ⟨by rw [hd]; exact h, fun pa _ _ => by simp only [State.reg, hd]⟩

theorem State.recorded_setReg (s : State) (q pa : Nat) (v : W64) (h : pa = q + 0x18 ∨ pa = q + 0x28) : s.Recorded q (s.setReg pa v) :=
  ⟨rfl, fun p h1 h2 => State.reg_setReg_ne s v (by rcases h with rfl | rfl <;> assumption)⟩

theorem State.Recorded.ite {q : Nat} {s t u : State} (p : Prop) [Decidable p] (h : s.Recorded q t) (g : s.Recorded q u) :
    s.Recorded q (if p then t else u) := by
  split
  · exact h
  · exact g

theorem State.recorded_writeRecord (s : State) (q : Nat) (words : List W64) : s.Recorded q (s.writeRecord q words) := by
  have same : ∀ t : State, t.Recorded q t := fun t => (State.MemoryAside.refl t).recorded q
  have written : ∀ (t : State) (a : Nat) (bs : List PByte), t.Recorded q (t.memWrite a bs) :=
    fun t a bs => (t.memoryAside_memWrite a bs).recorded q
  unfold State.writeRecord
  dsimp only
  refine State.Recorded.trans ?_ (State.Recorded.ite _ (same _) (written ..))
  exact (State.Recorded.ite _ (written ..) (same s)).trans (State.recorded_setReg _ q (q + 0x18) _ (.inl rfl))

theorem State.recorded_report (s : State) (kind unitType unit die : Nat) (words : List W64) :
    s.Recorded pRq (s.report kind unitType unit die words) := by
  unfold State.report State.reportOf
  split
  · exact s.recorded_setReg pRq _ _ (.inr rfl)
  · exact s.recorded_writeRecord ..

end Sys2Proof.Machine
end

section
/-!
SUPPORT. What disabling the units of a die does, and what it leaves as it was (R485, R494).
-/
namespace Sys2Proof.Machine

/-! ### Disabling units (R485, R494) -/

/-- What disabling units leaves: the registers other than PORTST and those of the device report queue, and no link, no translation
and no RDC line that was not there before. -/
structure State.Narrowed (s t : State) : Prop where
  regs   : ∀ pa, pa ≠ pPortst → pa ≠ pRq + 0x18 → pa ≠ pRq + 0x28 → t.reg pa = s.reg pa
  links  : ∀ p, p < 64 → s.portUp p = false → t.portUp p = false
  leases : ∀ l ∈ t.leases, l ∈ s.leases
  rdc    : ∀ i, s.rdc.get [] i = [] → t.rdc.get [] i = []

theorem State.Narrowed.refl (s : State) : s.Narrowed s := ⟨fun _ _ _ _ => rfl, fun _ _ h => h, fun _ h => h, fun _ h => h⟩

theorem State.Narrowed.trans {s t u : State} (h : s.Narrowed t) (g : t.Narrowed u) : s.Narrowed u where
  regs pa h1 h2 h3 := (g.regs pa h1 h2 h3).trans (h.regs pa h1 h2 h3)
  links p hp hs := g.links p hp (h.links p hp hs)
  leases l hl := h.leases l (g.leases l hl)
  rdc i hs := g.rdc i (h.rdc i hs)

theorem State.Recorded.narrowed {s t : State} (h : s.Recorded pRq t) : s.Narrowed t where
  regs pa _ h1 h2 := h.regs pa h1 h2
  links p _ hs := by
    rw [State.portUp, h.regs pPortst (by decide) (by decide)]; exact hs
  leases l hl := by rw [h.other] at hl; exact hl
  rdc i hs := by rw [h.other]; exact hs

theorem State.MemoryAside.narrowed {s t : State} (h : s.MemoryAside t) : s.Narrowed t := (h.recorded pRq).narrowed

theorem State.Narrowed.foldl {α : Type} {f : State → α → State} (h : ∀ (s : State) (a : α), s.Narrowed (f s a)) (l : List α) (s : State) :
    s.Narrowed (l.foldl f s) :=
  List.foldlRecOn l f (State.Narrowed.refl s) fun _ ht a _ => ht.trans (h _ a)

theorem State.narrowed_markRoute (s old : State) (m : Nat) : s.Narrowed (s.markRoute old m) := by
  unfold State.markRoute
  split
  · exact ⟨fun _ _ _ _ => rfl, fun _ _ h => h, fun _ h => h, fun _ h => h⟩
  · exact .refl s

/-- Beside the port's bit in PORTST, a change of a link marks routes and reports. -/
theorem State.setLink_narrowed (s : State) (p : Nat) (up : Bool) :
    (s.setReg pPortst (setBit (s.reg pPortst) p up)).Narrowed (s.setLink p up) := by
  unfold State.setLink
  dsimp only
  exact (State.Narrowed.foldl (fun t m => t.narrowed_markRoute s m) _ _).trans (State.recorded_report ..).narrowed

theorem State.portUp_setPortst (s : State) (p q : Nat) (hq : q < 64) :
    (s.setReg pPortst (setBit (s.reg pPortst) p false)).portUp q = (q != p && s.portUp q) := by
  rw [State.portUp, State.reg_setReg_same, bitOf_toNat, getLsbD_setBit _ _ _ _ hq, State.portUp, bitOf_toNat]
  by_cases e : q = p <;> simp [e]

theorem State.narrowed_setLink (s : State) (p : Nat) : s.Narrowed (s.setLink p false) := by
  refine State.Narrowed.trans ⟨fun pa h _ _ => State.reg_setReg_ne s _ h, fun q hq hs => ?_, fun _ h => h, fun _ h => h⟩
    (s.setLink_narrowed p false)
  rw [State.portUp_setPortst _ _ _ hq, hs, Bool.and_false]

/-- A port that has lost link is down. -/
theorem State.portUp_setLink (s : State) (p : Nat) (hp : p < 64) : (s.setLink p false).portUp p = false :=
  (s.setLink_narrowed p false).links p hp (by simp [State.portUp_setPortst _ _ _ hp])

/-- What a slice that is disabled gives up, before its L2 lines go. -/
def State.sliceOff (s : State) (i : Nat) : State :=
  { s with leases := s.leases.filter (fun l => l.slice != i), rdc := s.rdc.erase i }

theorem State.disableUnit_slice (s : State) (d u : Nat) (h : 384 ≤ u ∧ u < 768) :
    s.disableUnit d u = (s.sliceOff (d * 384 + (u - 384))).l2Flush (d * 384 + (u - 384)) := by
  simp only [State.disableUnit, if_pos h]; rfl

theorem State.narrowed_sliceOff (s : State) (i : Nat) : s.Narrowed (s.sliceOff i) where
  regs _ _ _ _ := rfl
  links _ _ h := h
  leases _ h := (List.mem_filter.1 h).1
  rdc k h := by simp only [State.sliceOff, Map.get_erase, h, ite_self]

theorem State.narrowed_disableUnit (s : State) (d u : Nat) : s.Narrowed (s.disableUnit d u) := by
  have link : ∀ p, s.Narrowed (if s.portUp p then s.setLink p false else s) := by
    intro p
    split
    · exact s.narrowed_setLink p
    · exact .refl s
  by_cases slice : 384 ≤ u ∧ u < 768
  · rw [State.disableUnit_slice s d u slice]
    exact (s.narrowed_sliceOff _).trans (State.memoryAside_l2Flush ..).narrowed
  · unfold State.disableUnit
    rw [if_neg slice]
    split
    · unfold State.sweepTiles State.updArray
      split
      · exact ⟨fun _ _ _ _ => rfl, fun _ _ h => h, fun _ h => h, fun _ h => h⟩
      · exact .refl s
    · split
      · exact link _
      · exact .refl s

/-- A disabled slice keeps no translation and no RDC line. -/
theorem State.disableUnit_slice_empty (s : State) (d u : Nat) (h : 384 ≤ u ∧ u < 768) :
    (∀ l ∈ (s.disableUnit d u).leases, l.slice ≠ d * 384 + (u - 384)) ∧ (s.disableUnit d u).rdc.get [] (d * 384 + (u - 384)) = [] := by
  rw [State.disableUnit_slice s d u h]
  have rest := ((s.sliceOff (d * 384 + (u - 384))).memoryAside_l2Flush (d * 384 + (u - 384))).narrowed
  refine ⟨fun l hl => ?_, rest.rdc _ (by simp [State.sliceOff, Map.get_erase])⟩
  simpa using (List.mem_filter.1 (rest.leases l hl)).2

/-- The port that a unit number of its die names (R485). -/
theorem port_of_unit : ∀ p < 18, (if portDie p < 2 then 5 * portDie p else 10 + 4 * (portDie p - 2)) + (portUnit p - 824) = p ∧
    824 ≤ portUnit p ∧ portUnit p < 829 := by decide

/-- A disabled port has no link. -/
theorem State.disableUnit_port_down (s : State) (p : Nat) (hp : p < 18) :
    (s.disableUnit (portDie p) (portUnit p)).portUp p = false := by
  obtain ⟨number, low, high⟩ := port_of_unit p hp
  unfold State.disableUnit
  rw [if_neg (by omega), if_neg (by omega), if_pos ⟨low, high⟩, number]
  dsimp only
  split
  · exact s.portUp_setLink p (by omega)
  · next down => simpa using down

/-- The units that a mask turns off, in order. -/
def State.disableUnits (s : State) (d j : Nat) (off : Nat → Bool) (is : List Nat) : State :=
  is.foldl (fun s i => if off i then s.disableUnit d (64 * j + i) else s) s

theorem State.writeDismask_eq (s : State) (d j : Nat) (v : W64) :
    s.writeDismask d j v = (s.setReg (pDismask d j) (v &&& dismaskBits d j)).disableUnits d j
      (fun i => bitOf (v &&& dismaskBits d j).toNat i && !bitOf (s.reg (pDismask d j)).toNat i) (natsFrom 0 64) := rfl

theorem State.narrowed_disableUnits (s : State) (d j : Nat) (off : Nat → Bool) (is : List Nat) :
    s.Narrowed (s.disableUnits d j off is) := by
  refine State.Narrowed.foldl (fun t i => ?_) is s
  split
  · exact t.narrowed_disableUnit ..
  · exact .refl t

/-- Each unit that is turned off is disabled in some state on the way, and what follows only narrows it. -/
theorem State.disableUnits_reaches (s : State) (d j : Nat) (off : Nat → Bool) (is : List Nat) (i : Nat) (hi : i ∈ is)
    (ho : off i = true) : ∃ t : State, (t.disableUnit d (64 * j + i)).Narrowed (s.disableUnits d j off is) := by
  obtain ⟨before, after, rfl⟩ := List.append_of_mem hi
  refine ⟨s.disableUnits d j off before, ?_⟩
  have split : s.disableUnits d j off (before ++ i :: after) =
      (((s.disableUnits d j off before).disableUnit d (64 * j + i)).disableUnits d j off after) := by
    simp [State.disableUnits, ho]
  rw [split]
  exact State.narrowed_disableUnits ..

theorem State.reg_writeDismask (s : State) (d j : Nat) (v : W64) :
    (s.writeDismask d j v).reg (pDismask d j) = v &&& dismaskBits d j := by
  rw [State.writeDismask_eq]
  refine ((State.narrowed_disableUnits ..).regs _ ?_ ?_ ?_).trans (State.reg_setReg_same ..)
  · unfold pDismask pPortst devBase; omega
  · unfold pDismask pRq devBase; omega
  · unfold pDismask pRq devBase; omega

/-- The effects in force after a write of DISMASKj, of a unit that it turns off (R494). -/
theorem State.writeDismask_effects (s : State) (d j i : Nat) (v : W64) (hi : i < 64) (hv : v.getLsbD i = true)
    (hc : canDisable d (64 * j + i) = true) (hs : (s.reg (pDismask d j)).getLsbD i = false) :
    let t := s.writeDismask d j v
    let u := 64 * j + i
    (384 ≤ u → u < 768 → (∀ l ∈ t.leases, l.slice ≠ d * 384 + (u - 384)) ∧ t.rdc.get [] (d * 384 + (u - 384)) = []) ∧
    (∀ p, p < 18 → portDie p = d → portUnit p = u → t.portUp p = false) := by
  have member : i ∈ natsFrom 0 64 := by simpa [natsFrom] using hi
  obtain ⟨t, rest⟩ := State.disableUnits_reaches (s.setReg (pDismask d j) (v &&& dismaskBits d j)) d j
    (fun i => bitOf (v &&& dismaskBits d j).toNat i && !bitOf (s.reg (pDismask d j)).toNat i) (natsFrom 0 64) i member
    (by simp only [bitOf_toNat, BitVec.getLsbD_and, getLsbD_dismaskBits _ _ _ hi, hv, hc, hs]; rfl)
  rw [← State.writeDismask_eq] at rest
  constructor
  · intro low high
    obtain ⟨noLease, noLine⟩ := t.disableUnit_slice_empty d (64 * j + i) ⟨low, high⟩
    exact ⟨fun l hl => noLease l (rest.leases l hl), rest.rdc _ noLine⟩
  · rintro p hp rfl unit
    have down := t.disableUnit_port_down p hp
    rw [unit] at down
    exact rest.links p (by omega) down

end Sys2Proof.Machine
end

section
/-!
SUPPORT. The dies in skew mode: of the steps of an expiring die, only the comparison of clocks changes them (R363, R364).
-/
namespace Sys2Proof.Machine

/-! ### The dies in skew mode (R363, R364): only a comparison of clocks puts a die there -/

theorem State.Recorded.skew {q : Nat} {s t : State} (h : s.Recorded q t) : t.skew = s.skew := by rw [h.other]

theorem State.foldl_skew {α : Type} (f : State → α → State) (h : ∀ (s : State) (a : α), (f s a).skew = s.skew) (l : List α) (s : State) :
    (l.foldl f s).skew = s.skew :=
  List.foldlRecOn (motive := fun t => t.skew = s.skew) l f rfl fun t ht a _ => (h t a).trans ht

section
variable (s : State)

@[simp] theorem State.report_skew (kind unitType unit die : Nat) (words : List W64) :
    (s.report kind unitType unit die words).skew = s.skew := (s.recorded_report ..).skew
@[simp] theorem State.serviceRequest_skew (d unitType u : Nat) (reason : W64) : (s.serviceRequest d unitType u reason).skew = s.skew :=
  State.report_skew ..

@[simp] theorem State.raiseHorizon_skew (die t : Nat) : (s.raiseHorizon die t).skew = s.skew := by
  unfold State.raiseHorizon; split <;> rfl

@[simp] theorem State.raiseHorizons_skew (die : Nat) (l : List Tr) : (l.foldl (fun s t => s.raiseHorizon die t.exp) s).skew = s.skew :=
  State.foldl_skew _ (fun _ _ => State.raiseHorizon_skew ..) _ _

/-! The state of one kind of unit. -/

@[simp] theorem State.updCopy_skew (c ch : Nat) (f : CopyChan → CopyChan) : (s.updCopy c ch f).skew = s.skew := rfl
@[simp] theorem State.updHire_skew (hid : Nat) (f : Hire → Hire) : (s.updHire hid f).skew = s.skew := rfl
@[simp] theorem State.updArray_skew (id : Nat) (f : ArrayUnit → ArrayUnit) : (s.updArray id f).skew = s.skew := rfl
@[simp] theorem State.clearMark_skew (hid : Nat) : (s.clearMark hid).skew = s.skew := rfl
@[simp] theorem State.setRing_skew (u i : Nat) (r : Ring) : (s.setRing u i r).skew = s.skew := rfl
@[simp] theorem State.dropZone_skew (b i : Nat) : (s.dropZone b i).skew = s.skew := rfl
@[simp] theorem State.setBdeOp_skew (u ch : Nat) (o : BdeOp) : (s.setBdeOp u ch o).skew = s.skew := rfl
@[simp] theorem State.setJob_skew (v : Nat) (j : DecJob) : (s.setJob v j).skew = s.skew := rfl

/-! A hire that ends (R304, R315, R316). -/

@[simp] theorem State.countDown_skew (id : Nat) : (s.countDown id).skew = s.skew := by
  unfold State.countDown State.updLaunch; split <;> rfl

@[simp] theorem State.setFinal_skew (h : Hire) (w : W64) : (s.setFinal h w).skew = s.skew := by
  unfold State.setFinal; dsimp only; split <;> rfl

@[simp] theorem State.sendContinuation_skew (f : Flight) : (s.sendContinuation f).skew = s.skew := by
  unfold State.sendContinuation
  split
  · dsimp only
    split <;> simp
  · rfl

@[simp] theorem State.sweepTiles_skew (id : Nat) : (s.sweepTiles id).skew = s.skew := by
  unfold State.sweepTiles; split <;> rfl

@[simp] theorem State.finishHire_skew (hid state : Nat) : (s.finishHire hid state).skew = s.skew := by
  unfold State.finishHire
  split
  · rfl
  · dsimp only
    split <;> simp

@[simp] theorem State.abortChain_skew (h : Hire) : (s.abortChain h).skew = s.skew := by
  unfold State.abortChain; split <;> rfl

@[simp] theorem State.bounceOrder_skew (hid : Nat) : (s.bounceOrder hid).skew = s.skew := by
  unfold State.bounceOrder; split <;> simp

@[simp] theorem State.bounce_skew (hid detail off : Nat) : (s.bounce hid detail off).skew = s.skew := by
  unfold State.bounce
  split
  · rfl
  · dsimp only
    rw [State.foldl_skew _ fun _ _ => State.bounceOrder_skew ..]
    simp

/-! The renewals of the engines (R308, R362). -/

@[simp] theorem State.renewHire_skew (h : Hire) : (s.renewHire h).skew = s.skew := by
  unfold State.renewHire
  dsimp only
  split
  · split <;> simp
  · simp

@[simp] theorem State.renewArray_skew (id : Nat) : (s.renewArray id).skew = s.skew := by
  refine State.foldl_skew _ (fun t h => ?_) _ _
  split <;> simp

theorem State.renewHeld_skew {s t : State} {die asid : Nat} {held : Map Tr} {r : Except Nat (Map Tr)}
    (h : s.renewHeld die asid held = (r, t)) : t.skew = s.skew := by
  unfold State.renewHeld at h
  split at h
  · cases h; rfl
  · cases h; exact State.raiseHorizons_skew ..

@[simp] theorem State.copyRenew_skew (c ch : Nat) : (s.copyRenew c ch).skew = s.skew := by
  unfold State.copyRenew
  split
  · rfl
  · split
    · rfl
    · split
      · next renewed => simp [State.renewHeld_skew renewed]
      · next dropped => simp [State.renewHeld_skew dropped]

@[simp] theorem State.videoRenew_skew (v : Nat) : (s.videoRenew v).skew = s.skew := by
  unfold State.videoRenew
  split
  · rfl
  · split
    · next renewed => simp [State.renewHeld_skew renewed]
    · next dropped => split <;> simp [State.renewHeld_skew dropped]

@[simp] theorem State.ringEnd_skew (u i : Nat) (r : Ring) (w : W64) : (s.ringEnd u i r w).skew = s.skew := by
  unfold State.ringEnd; dsimp only; split <;> simp

@[simp] theorem State.ringFault_skew (u i : Nat) (r : Ring) (side detail va : Nat) : (s.ringFault u i r side detail va).skew = s.skew :=
  State.ringEnd_skew ..

@[simp] theorem State.ringRenew_skew (u i : Nat) : (s.ringRenew u i).skew = s.skew := by
  unfold State.ringRenew
  split
  · rfl
  · split
    · rfl
    · split
      · next renewed => simp [State.renewHeld_skew renewed]
      · next dropped => split <;> simp [State.renewHeld_skew dropped]

theorem State.renewPages_skew {s t : State} {die asid va i : Nat} {l : List Tr} {r : Except Nat (List Tr)}
    (h : s.renewPages die asid va i l = (r, t)) : t.skew = s.skew := by
  induction l generalizing s i r with
  | nil => cases h; rfl
  | cons p ps ih =>
    unfold State.renewPages at h
    split at h
    · cases h; rfl
    · split at h
      · next rest => cases h; exact (ih rest).trans (State.raiseHorizon_skew ..)
      · exact (ih h).trans (State.raiseHorizon_skew ..)

@[simp] theorem State.rowRenew_skew (u ch : Nat) (o : BdeOp) : (s.rowRenew u ch o).skew = s.skew := by
  unfold State.rowRenew
  split
  · rfl
  · split
    · next dropped => simp [State.renewPages_skew dropped]
    · next renewed =>
      split
      · next dropped => simp [State.renewPages_skew dropped, State.renewPages_skew renewed]
      · next all => simp [State.renewPages_skew all, State.renewPages_skew renewed]

@[simp] theorem State.stopColl_skew (u ch : Nat) (o : BdeOp) (side detail page : Nat) :
    (s.stopColl u ch o side detail page).skew = s.skew := by
  unfold State.stopColl; dsimp only; split <;> simp

@[simp] theorem State.bdeRenew_skew (u ch : Nat) : (s.bdeRenew u ch).skew = s.skew := by
  unfold State.bdeRenew
  split
  · rfl
  · split
    · simp
    · split
      · rfl
      · dsimp only
        split
        · next renewed => simp [State.renewHeld_skew renewed]
        · next dropped => simp [State.renewHeld_skew dropped]

@[simp] theorem State.renewEngine_skew (a : Agent) : (s.renewEngine a).skew = s.skew := by
  cases a
  case zone b => exact State.foldl_skew _ (fun _ _ => State.bdeRenew_skew ..) _ _
  all_goals simp [State.renewEngine]

@[simp] theorem State.expireDie_skew (d : Nat) : (s.expireDie d).skew = s.skew := by
  unfold State.expireDie
  dsimp only
  rw [State.foldl_skew _ fun _ _ => State.renewEngine_skew ..]

end

/-- A comparison that finds a difference above 8 ns puts the die in skew mode (R363). -/
theorem State.clockFault_skew (s : State) (d unitType u measured : Nat) :
    (s.clockFault d unitType u measured).skew = NatSet.add s.skew d := by
  simp [State.clockFault, State.freeWord]

/-- SKEWCLR of a die that is not in skew mode, or without the bit, does nothing (R495). -/
theorem State.writeSkewclr_idle (s : State) (d : Nat) (v : W64) (h : v.getLsbD 0 = false ∨ NatSet.has s.skew d = false) :
    s.writeSkewclr d v = s := by
  unfold State.writeSkewclr
  rw [if_neg]
  rintro ⟨hv, hs⟩
  rcases h with h | h <;> simp_all

/-- SKEWCLR compares the die again: it leaves skew mode, or is put there again (R363, R495). -/
theorem State.writeSkewclr_skew (s : State) (d : Nat) (v : W64) (hv : v.getLsbD 0 = true) (hs : NatSet.has s.skew d = true) :
    (s.writeSkewclr d v).skew = NatSet.add s.skew d ∨
      s.keeperSkew d ≤ 8 ∧ (s.writeSkewclr d v).skew = NatSet.del s.skew d := by
  unfold State.writeSkewclr
  rw [if_pos ⟨hv, hs⟩]
  dsimp only
  split
  · next within => exact .inr ⟨le_trans (le_max_left ..) within, rfl⟩
  · exact .inl (State.clockFault_skew ..)

end Sys2Proof.Machine
end

section
/-!
PROOF of O53 (R9, R11, R450, R484, R485, R492 to R495): writes and reads of device registers, DISMASK, SKEWCLR and LAGCLR.
-/
namespace Sys2Proof.Machine

/-! ### Writes of whole registers (R9) -/

theorem bitsOf_low (n hi : Nat) : bitsOf n hi 0 = n % 2 ^ (hi + 1) := by simp [bitsOf]

section
variable (s : State) (pa : Nat) (v : W64)

theorem exec_deviceRegisterWrite_of (h : isReg pa = true) :
    exec (.deviceRegisterWrite pa v) s = .next (s.devWrite pa v (maskBits 63 0)) := by
  rw [exec_deviceRegisterWrite, execDeviceRegisterWrite, if_pos h]

/-- What a register stores of a word that is written to it, for the registers that a write does nothing else to. -/
def storedAs (old v : W64) : DevReg → Option W64
  | .rw m => some (v &&& m)
  | .qsize => some (w64 (min 16 (v.toNat % 2 ^ 5)))
  | .logSize => some (w64 (if 4 ≤ v.toNat % 2 ^ 5 ∧ v.toNat % 2 ^ 5 ≤ 16 then v.toNat % 2 ^ 5 else 0))
  | .svcst => some (old &&& ~~~v)
  | .govctl => some (w64 (min 19 (v.toNat / 2 ^ 16 % 2 ^ 5) * 2 ^ 16 + max 1000 (min 3600 (v.toNat % 2 ^ 12))))
  | .fqstat _ => if v.getLsbD 16 then some 0 else none
  | _ => none

/-- What a write of the whole register leaves, for those registers and for the ones that ignore it. -/
def State.written (s : State) (pa : Nat) (v : W64) : DevReg → Option State
  | .none => some s
  | .ro => some s
  | r => (storedAs (s.reg pa) v r).map (s.setReg pa)

theorem State.written_of_storedAs {r : DevReg} {w : W64} (h : storedAs (s.reg pa) v r = some w) :
    s.written pa v r = some (s.setReg pa w) := by
  unfold State.written
  split
  · cases h
  · cases h
  · rw [h, Option.map_some]

/-- The definition is opened as a function, with a variable in the place of `devRegAt`: to unfold it at an unknown `pa`, the kernel
would evaluate `devRegAt pa`, counting down from the base of the register space. -/
theorem State.devWrite_written {r : DevReg} {t : State} (e : devRegAt pa = r) (h : s.written pa v r = some t) :
    s.devWrite pa v (maskBits 63 0) = t := by
  obtain ⟨f, hf⟩ : ∃ f, f = State.devWrite := ⟨_, rfl⟩
  obtain ⟨g, hg⟩ : ∃ g, g = devRegAt := ⟨_, rfl⟩
  rw [← hf]
  delta State.devWrite at hf
  rw [← hg] at hf e
  rw [hf]
  beta_reduce
  rw [e]
  clear e hf hg
  cases r
  case fqstat a =>
    change Option.map (s.setReg pa) (if v.getLsbD 16 then some 0 else none) = some t at h
    cases bit : v.getLsbD 16 <;> rw [bit] at h <;> cases h
    simp [bit]
  all_goals cases h
  case none => rfl
  case ro => rfl
  case rw m => simp
  case qsize => simp [bitsOf_low]
  case logSize => simp [bitsOf_low]
  case svcst => simp
  case govctl => simp [govctlOf, bitsOf]

/-- A write outside the registers, or of a register that software cannot write. -/
theorem exec_deviceRegisterWrite_ignored (h : isReg pa = false ∨ devRegAt pa = .none ∨ devRegAt pa = .ro) :
    exec (.deviceRegisterWrite pa v) s = .next s := by
  rw [exec_deviceRegisterWrite, execDeviceRegisterWrite]
  rcases h with h | h | h
  · simp [h]
  · rw [s.devWrite_written pa v h rfl, ite_self]
  · rw [s.devWrite_written pa v h rfl, ite_self]

/-- A write of a device register stores its RW bits and nothing else (R9). -/
theorem deviceRegisterWrite_stores {w : W64} {r : DevReg} (hr : isReg pa = true) (e : devRegAt pa = r)
    (h : storedAs (s.reg pa) v r = some w) :
    ∃ t, exec (.deviceRegisterWrite pa v) s = .next t ∧ t.reg pa = w ∧ (∀ p, p ≠ pa → t.reg p = s.reg p) ∧ t.mem = s.mem ∧
      t.cores = s.cores := by
  rw [exec_deviceRegisterWrite_of s pa v hr, s.devWrite_written pa v e (State.written_of_storedAs s pa v h)]
  exact ⟨_, rfl, State.reg_setReg_same .., fun p hp => State.reg_setReg_ne s w hp, rfl, rfl⟩

end

/-! ### Reads of whole registers (R9) -/

/-- The registers that read as they are stored, reading them changing nothing. -/
def DevReg.readsStored : DevReg → Bool
  | .rw _ | .ro | .svcst | .fabctl | .govctl | .dismask _ _ => true
  | _ => false

/-- What the other registers of R9 read as, and what reading them leaves. -/
def State.readAs (s : State) (pa : Nat) : DevReg → Option (W64 × State)
  | .none => some (0, s)
  | .rqlost => some (s.reg pa, s.setReg pa 0)
  | .issued c => some (satWord (s.core c).issued, s.updCore c (fun h => { h with issued := 0 }))
  | .mgmtst d => some (s.mgmtst d, s)
  | r => if r.readsStored then some (s.reg pa, s) else none

/-- Opened as a function of its arguments, as `State.devWrite_written` is. -/
theorem State.devRead_readAs {s : State} {pa : Nat} {r : DevReg} {x : W64 × State} (e : devRegAt pa = r) (h : s.readAs pa r = some x) :
    s.devRead pa = x := by
  obtain ⟨f, hf⟩ : ∃ f, f = State.devRead := ⟨_, rfl⟩
  obtain ⟨g, hg⟩ : ∃ g, g = devRegAt := ⟨_, rfl⟩
  rw [← hf]
  delta State.devRead at hf
  rw [← hg] at hf e
  rw [hf]
  beta_reduce
  rw [e]
  clear e hf hg
  cases r <;> cases h <;> rfl

theorem exec_deviceRegisterRead_outside (s : State) (pa : Nat) (h : isReg pa = false) : exec (.deviceRegisterRead pa) s = .next s := by
  rw [exec_deviceRegisterRead, execDeviceRegisterRead, if_neg (by simp [h])]

/-- What a read of a register does, by the register: FABSYNC joins those that wait (R474), DISMASK waits (R494), and every other is
handed to the host. -/
def State.readDevice (s : State) (pa : Nat) : DevReg → State
  | .fabsync =>
    { s.fresh.2 with
      fabsyncs := s.fabsyncs ++ [⟨{ id := s.nextId, agent := .hostIo, home := s.homeOf pa, op := .read, addr := pa, size := 8 }, s.fabPending⟩] }
  | .dismask .. => if s.disableDone then s.readToHost pa else s
  | _ => s.readToHost pa

theorem exec_deviceRegisterRead_of (s : State) (pa : Nat) (hr : isReg pa = true) :
    exec (.deviceRegisterRead pa) s = .next (s.readDevice pa (devRegAt pa)) := by
  rw [exec_deviceRegisterRead]
  obtain ⟨f, hf⟩ : ∃ f, f = execDeviceRegisterRead := ⟨_, rfl⟩
  obtain ⟨g, hg⟩ : ∃ g, g = devRegAt := ⟨_, rfl⟩
  rw [← hf, ← hg]
  delta execDeviceRegisterRead at hf
  rw [← hg] at hf
  rw [hf]
  beta_reduce
  rw [if_pos hr]
  generalize g pa = r
  cases r <;> rfl

theorem State.readToHost_eq {s t : State} {pa : Nat} {v : W64} (h : s.fresh.2.devRead pa = (v, t)) :
    s.readToHost pa = t.toHost (.data s.nextId (PByte.clean (leBytes v.toNat 8))) := by
  obtain ⟨f, hf⟩ : ∃ f, f = State.readToHost := ⟨_, rfl⟩
  obtain ⟨g, hg⟩ : ∃ g, g = State.devRead := ⟨_, rfl⟩
  rw [← hf]
  delta State.readToHost at hf
  rw [← hg] at hf h
  rw [hf]
  dsimp only [State.fresh] at h ⊢
  rw [h]

/-- A read gives the host what the register reads as; what the read changes is left. -/
theorem exec_deviceRegisterRead_gives {s t : State} {pa : Nat} {r : DevReg} {v : W64} (hr : isReg pa = true) (e : devRegAt pa = r)
    (hf : r ≠ .fabsync) (hd : ∀ d j, r = .dismask d j → s.disableDone = true) (h : s.fresh.2.readAs pa r = some (v, t)) :
    exec (.deviceRegisterRead pa) s = .next (t.toHost (.data s.nextId (PByte.clean (leBytes v.toNat 8)))) := by
  rw [exec_deviceRegisterRead_of s pa hr, e, ← State.readToHost_eq (State.devRead_readAs e h)]
  cases r
  case fabsync => exact absurd rfl hf
  case dismask d j => exact congrArg Host.Outcome.next (if_pos (hd d j rfl))
  all_goals rfl

/-- A register that reads as stored gives the host its value, and stays as it is. -/
theorem deviceRegisterRead_stored (s : State) (pa : Nat) {r : DevReg} (hr : isReg pa = true) (e : devRegAt pa = r)
    (h : r.readsStored = true) (hd : ∀ d j, r = .dismask d j → s.disableDone = true) :
    ∃ t, (exec (.deviceRegisterRead pa) s = .next t ∧
      ∃ id : Nat, t.hostOut = s.hostOut ++ [HostOut.data id (PByte.clean (leBytes (s.reg pa).toNat 8))]) ∧
      t.dev = s.dev ∧ t.cores = s.cores := by
  have stored : s.fresh.2.readAs pa r = some (s.reg pa, s.fresh.2) := by
    cases r <;> cases h <;> rfl
  refine ⟨_, ⟨exec_deviceRegisterRead_gives hr e ?_ hd stored, _, rfl⟩, rfl, rfl⟩
  rintro rfl
  cases h

/-- The bits of MGMTST (R493). -/
theorem State.mgmtst_bits (s : State) (d : Nat) :
    (s.mgmtst d).getLsbD 1 = NatSet.has s.skew d ∧
      ((s.mgmtst d).getLsbD 0 = true ↔ ∃ j, j < 16 ∧ s.reg (devBase d + 0x00D00000 + 8 * j) ≠ 0) := by
  have bits : ∀ a b : Bool, (w64 ((if a then 2 else 0) + (if b then 1 else 0))).getLsbD 1 = a ∧
      (w64 ((if a then 2 else 0) + (if b then 1 else 0))).getLsbD 0 = b := by decide
  obtain ⟨skewBit, requestBit⟩ := bits (NatSet.has s.skew d)
    ((natsFrom 0 16).any (fun j => s.reg (devBase d + 0x00D00000 + 8 * j) != 0))
  refine ⟨skewBit, ?_⟩
  rw [show (s.mgmtst d).getLsbD 0 = _ from requestBit]
  simp [natsFrom]

/-! ### DISMASK, SKEWCLR and LAGCLR as steps (R494, R495) -/

theorem exec_dismaskWrite_of (s : State) (d j : Nat) (v : W64) (hd : d < 4) (hj : j < 16) :
    exec (.dismaskWrite d j v) s = .next (s.writeDismask d j v) := by
  rw [exec_dismaskWrite, execDismaskWrite, if_pos ⟨hd, hj⟩]

theorem exec_dismaskRead_of (s : State) (d j : Nat) (hd : d < 4) (hj : j < 16) :
    exec (.dismaskRead d j) s = .next (if s.disableDone then
      s.fresh.2.toHost (.data s.nextId (PByte.clean (leBytes (s.reg (pDismask d j)).toNat 8))) else s) := by
  rw [exec_dismaskRead, execDismaskRead, if_pos ⟨hd, hj⟩]; rfl

/-- SKEWCLR compares the die again, and leaves the other dies as they are. -/
theorem skewclr_compares (s : State) (d : Nat) (v : W64) (hd : d < 4) (hv : v.getLsbD 0 = true) (hs : NatSet.has s.skew d = true) :
    ∃ t, exec (.skewclr d v) s = .next t ∧ (8 < s.keeperSkew d → NatSet.has t.skew d = true) ∧
      ∀ e, e ≠ d → NatSet.has t.skew e = NatSet.has s.skew e := by
  rw [exec_skewclr, execSkewclr, if_pos hd]
  refine ⟨_, rfl, ?_⟩
  rcases s.writeSkewclr_skew d v hv hs with again | ⟨within, left⟩
  · simp only [again, NatSet.has_add]
    exact ⟨fun _ => by simp, fun e he => by simp [he]⟩
  · simp only [left, NatSet.has_del]
    exact ⟨fun apart => by omega, fun e he => by simp [he]⟩

/-- The shadow that a UNIT of LAGCLR names on a die: a core's, or the queue agent's (R495). -/
def lagShadow (d u : Nat) : Option Nat := if u < 384 then some (d * 384 + u) else if u = 832 then some (1536 + d) else none

theorem exec_lagclr_of (s : State) (d : Nat) (v : W64) (hd : d < 4) :
    exec (.lagclr d v) s = .next (match lagShadow d (v.toNat % 2 ^ 11) with
      | some x => { s with lagSend := NatSet.add s.lagSend x }
      | none => s) := by
  rw [exec_lagclr, execLagclr, if_pos hd, State.writeLagclr, bitsOf_low]
  unfold lagShadow
  split
  · simp [*]
  · split <;> simp [*]

/-- LAGCLR marks the named shadow, and no other. -/
theorem lagclr_marks (s : State) (d x : Nat) (v : W64) (hd : d < 4) (h : lagShadow d (v.toNat % 2 ^ 11) = some x) :
    ∃ t, exec (.lagclr d v) s = .next t ∧ t.mem = s.mem ∧ ∀ y, NatSet.has t.lagSend y = true ↔ y = x ∨ NatSet.has s.lagSend y = true := by
  rw [exec_lagclr_of s d v hd, h]
  exact ⟨_, rfl, rfl, fun y => by simp [NatSet.has_add]⟩

/-! ### The obligation -/

/-- Settles O53: a write stores by `storedAs`, a read hands over `devRead`; what disabling leaves is `State.Narrowed`, and only a
comparison of clocks changes the dies in skew mode. -/
theorem deviceRegisters : Obligations.DeviceRegisters := by
  unfold Obligations.DeviceRegisters
  intro s
  refine ⟨?writes, ?reads, by decide +kernel, ?dismaskWrite, ?dismaskRead, ?clears⟩
  case writes =>
    intro pa v
    refine ⟨exec_deviceRegisterWrite_ignored s pa v, fun hr => ?_⟩
    exact ⟨fun m e => deviceRegisterWrite_stores s pa v hr e rfl, fun e => deviceRegisterWrite_stores s pa v hr e rfl,
      fun e => deviceRegisterWrite_stores s pa v hr e rfl, fun e => deviceRegisterWrite_stores s pa v hr e rfl,
      fun e => deviceRegisterWrite_stores s pa v hr e rfl, fun a e hv => deviceRegisterWrite_stores s pa v hr e (if_pos hv)⟩
  case reads =>
    intro pa
    refine ⟨exec_deviceRegisterRead_outside s pa, fun hr => ⟨?none, ?fabsync, ?dismask, ?stored, ?rqlost, ?issued, ?mgmtst⟩⟩
    case none =>
      intro e
      exact ⟨_, ⟨exec_deviceRegisterRead_gives hr e nofun nofun rfl, _, rfl⟩, rfl⟩
    case fabsync =>
      intro e
      rw [exec_deviceRegisterRead_of s pa hr, e]
      exact ⟨_, _, rfl, rfl, rfl, rfl, rfl, rfl, rfl, rfl⟩
    case dismask =>
      intro d j e
      refine ⟨fun hd => ?_, fun hd => ?_⟩
      · rw [exec_deviceRegisterRead_of s pa hr, e]
        exact congrArg Host.Outcome.next (if_neg (by simp [hd]))
      · obtain ⟨t, given, dev, -⟩ := deviceRegisterRead_stored s pa hr e rfl fun _ _ _ => hd
        exact ⟨t, given, dev⟩
    case stored =>
      rintro (⟨m, e⟩ | e | e | e | e) <;> exact deviceRegisterRead_stored s pa hr e rfl nofun
    case rqlost =>
      intro e
      exact ⟨_, ⟨exec_deviceRegisterRead_gives hr e nofun nofun rfl, _, rfl⟩, State.reg_setReg_same s.fresh.2 pa 0⟩
    case issued =>
      intro c e
      exact ⟨_, ⟨exec_deviceRegisterRead_gives hr e nofun nofun rfl, _, rfl⟩,
        congrArg HomeCore.issued (State.core_updCore s.fresh.2 c fun h => { h with issued := 0 })⟩
    case mgmtst =>
      intro d e
      exact ⟨_, s.mgmtst d, ⟨exec_deviceRegisterRead_gives hr e nofun nofun rfl, _, rfl⟩, s.mgmtst_bits d⟩
  case dismaskWrite =>
    intro d j v hd hj
    refine ⟨_, exec_dismaskWrite_of s d j v hd hj, fun i hi => ?_, fun i hi hv hc hs => s.writeDismask_effects d j i v hi hv hc hs⟩
    rw [State.reg_writeDismask, BitVec.getLsbD_and, getLsbD_dismaskBits d j i hi]
  case dismaskRead =>
    intro d j hd hj
    rw [exec_dismaskRead_of s d j hd hj]
    refine ⟨fun h => by simp [h], fun h => ?_⟩
    rw [if_pos h]
    exact ⟨_, s.nextId, rfl, rfl, rfl⟩
  case clears =>
    intro d v hd
    refine ⟨fun h => ?_, skewclr_compares s d v hd, fun hu => ?_, fun hu => ?_, fun low other => ?_⟩
    · rw [exec_skewclr, execSkewclr, if_pos hd, s.writeSkewclr_idle d v h]
    · exact lagclr_marks s d _ v hd (if_pos hu)
    · exact lagclr_marks s d _ v hd (by rw [hu]; rfl)
    · rw [exec_lagclr_of s d v hd, lagShadow, if_neg (by omega), if_neg other]

end Sys2Proof.Machine
end

section
/-!
PROOF of O57 (R34, R106, R108, R115, R141, R409, R474, R484, R486, R491): the machine right after reset.
-/
namespace Sys2Proof.Machine

/-- An offset within the register space of a die is the offset of its address. -/
theorem devOff_devBase (d o : Nat) (h : o < 0x2000000000) : devOff (devBase d + o) = o := by
  unfold devOff devBase; omega

/-- Three registers, all of die 0, have a reset value of their own. -/
theorem devReset_zero {pa : Nat} (fabctl : devOff pa ≠ 0x00800000) (govctl : devOff pa ≠ 0x00D00210) (govst : devOff pa ≠ 0x00D00218) :
    devReset pa = 0 := by
  unfold devReset
  split
  · next h => exact absurd h fabctl
  · next h => exact absurd h govctl
  · next h => exact absurd h govst
  · rfl

theorem reset_reg (pa : Nat) : State.reset.reg pa = devReset pa := by
  simp only [State.reg, State.reset, Map.get]

/-- A register at an offset other than theirs is 0. -/
theorem reset_reg_zero (d o : Nat) (low : o < 0x2000000000) (fabctl : o ≠ 0x00800000) (govctl : o ≠ 0x00D00210) (govst : o ≠ 0x00D00218) :
    State.reset.reg (devBase d + o) = 0 := by
  have off := devOff_devBase d o low
  rw [reset_reg]
  exact devReset_zero (by rwa [off]) (by rwa [off]) (by rwa [off])

/-- The registers of the queues are 0 (R115). -/
theorem reset_queueReg_zero (q o : Nat) (h : o < 0x100) : State.reset.reg (queueBase q + o) = 0 := by
  unfold queueBase
  rw [Nat.add_assoc, Nat.add_assoc]
  exact reset_reg_zero _ _ (by omega) (by omega) (by omega) (by omega)

theorem reset_memoryForm : State.reset.MemoryForm := by
  obtain ⟨hbm, noCores, noSaves⟩ := reset_memory_wf
  exact ⟨hbm, by simp [noCores], by simp [noSaves]⟩

/-- x0 reads zero, and a write to it leaves every register as it was (R106, R108). -/
theorem State.X_zero (s : State) : s.X 0 = 0 := by simp [State.X, Ctx.readX]

theorem State.X_putX_zero (s : State) (v : W64) (i : Nat) : (s.putX 0 v).X i = s.X i := by
  simp only [State.X, State.putX, State.cur_updCur, Ctx.put_x0]

/-- Settles O57: a unit that is not listed is at its default, and a register at its `devReset`. -/
theorem resetValues : Obligations.ResetValues := by
  unfold Obligations.ResetValues
  refine ⟨reset_memoryForm, fun _ => ⟨rfl, rfl⟩, fun _ _ => ⟨rfl, rfl, rfl, rfl⟩, fun _ _ => rfl, fun _ => rfl, ?fabctl, ?govctl, ?queues,
    ?masks, ?x0⟩
  case fabctl => decide
  case govctl => decide
  case queues =>
    intro q _
    exact ⟨reset_queueReg_zero q 0 (by omega), reset_queueReg_zero q 0x20 (by omega), reset_queueReg_zero q 0x18 (by omega)⟩
  case masks =>
    intro d j _ _
    unfold pDismask
    simp only [Nat.add_assoc]
    exact ⟨reset_reg_zero d _ (by omega) (by omega) (by omega) (by omega), reset_reg_zero d _ (by omega) (by omega) (by omega) (by omega)⟩
  case x0 => exact fun s v => ⟨s.X_zero, s.X_putX_zero v⟩

end Sys2Proof.Machine
end

section
/-!
SUPPORT. What a change of a link leaves: the ports that are up, the routes that lose their last port, and the sessions (R473, R480).
-/
namespace Sys2Proof.Machine

/-! ### Routes -/

/-- The ports of a route are those that its register names. -/
theorem State.mem_routePorts (s : State) (p m : Nat) : p ∈ s.routePorts m ↔ p < 18 ∧ bitOf (s.reg (pRoute m)).toNat p = true := by
  simp [State.routePorts, natsFrom]

theorem State.routePorts_congr {s t : State} {m : Nat} (h : t.reg (pRoute m) = s.reg (pRoute m)) : t.routePorts m = s.routePorts m := by
  rw [State.routePorts, State.routePorts, h]

/-- The up ports of a route depend on the links of its own ports alone. -/
theorem State.routeUp_congr {s t : State} {m : Nat} (h : t.reg (pRoute m) = s.reg (pRoute m))
    (link : ∀ q ∈ s.routePorts m, t.portUp q = s.portUp q) : t.routeUp m = s.routeUp m := by
  rw [State.routeUp, State.routeUp, State.routePorts_congr h]
  exact List.filter_congr link

/-! ### Since when routes are down -/

/-- Marks every route of a list that had an up port in `old` and has none now. -/
def State.markRoutes (s old : State) (ms : List Nat) : State := ms.foldl (fun t m => t.markRoute old m) s

/-- Marking a route sets since when it is down, and nothing else. -/
theorem State.markRoute_eq (s old : State) (m : Nat) :
    s.markRoute old m = { s with routeDown := if old.routeUp m ≠ [] ∧ s.routeUp m = [] then s.routeDown.set m (s.timeOf 0) else s.routeDown } := by
  unfold State.markRoute
  by_cases was : old.routeUp m = [] <;> by_cases now : s.routeUp m = [] <;> simp [was, now]

theorem State.markRoutes_other (s old : State) (ms : List Nat) :
    s.markRoutes old ms = { s with routeDown := (s.markRoutes old ms).routeDown } := by
  induction ms generalizing s with
  | nil => rfl
  | cons m ms ih =>
    have step : s.markRoutes old (m :: ms) = (s.markRoute old m).markRoutes old ms := rfl
    rw [step, ih, State.markRoute_eq]

theorem State.markRoute_routeDown (s old : State) (k m : Nat) :
    (s.markRoute old k).routeDown.get 0 m =
      if m = k ∧ old.routeUp m ≠ [] ∧ s.routeUp m = [] then s.timeOf 0 else s.routeDown.get 0 m := by
  rw [State.markRoute_eq]
  dsimp only
  rw [apply_ite (Map.get 0 · m), Map.get_set]
  by_cases e : m = k
  · subst e; simp only [if_true, true_and]
  · simp only [e, if_false, false_and, ite_self]

theorem State.markRoutes_routeDown (s old : State) (ms : List Nat) (m : Nat) :
    (s.markRoutes old ms).routeDown.get 0 m =
      if m ∈ ms ∧ old.routeUp m ≠ [] ∧ s.routeUp m = [] then s.timeOf 0 else s.routeDown.get 0 m := by
  induction ms generalizing s with
  | nil => simp [State.markRoutes]
  | cons k ms ih =>
    have step : s.markRoutes old (k :: ms) = (s.markRoute old k).markRoutes old ms := rfl
    have up : (s.markRoute old k).routeUp m = s.routeUp m := by rw [State.markRoute_eq]; rfl
    have time : (s.markRoute old k).timeOf 0 = s.timeOf 0 := by rw [State.markRoute_eq]; rfl
    rw [step, ih, up, time, State.markRoute_routeDown]
    by_cases goesDown : old.routeUp m ≠ [] ∧ s.routeUp m = []
    · by_cases e : m = k
      · subst e; simp [goesDown]
      · simp only [List.mem_cons, e, false_or, false_and, if_false]
    · simp only [goesDown, and_false, if_false]

/-! ### The link of a port -/

/-- PORTST with the link of one port. -/
def State.setPort (s : State) (p : Nat) (up : Bool) : State := s.setReg pPortst (setBit (s.reg pPortst) p up)

theorem State.portUp_setPort (s : State) (p q : Nat) (up : Bool) (hq : q < 64) :
    (s.setPort p up).portUp q = if q = p then up else s.portUp q := by
  rw [State.portUp, State.setPort, State.reg_setReg_same, bitOf_toNat, getLsbD_setBit _ _ _ _ hq, State.portUp, bitOf_toNat]

/-- The modules whose route names a port. -/
def State.routed (s : State) (p : Nat) : List Nat := (natsFrom 0 432).filter (fun m => bitOf (s.reg (pRoute m)).toNat p)

theorem State.mem_routed (s : State) (p m : Nat) (hp : p < 18) : m ∈ s.routed p ↔ m ≤ 431 ∧ p ∈ s.routePorts m := by
  rw [State.mem_routePorts]
  simp [State.routed, natsFrom, hp, Nat.lt_succ_iff]

/-- A change of link sets the port's bit, marks the routes that it takes down, and reports. -/
theorem State.setLink_recorded (s : State) (p : Nat) (up : Bool) :
    ((s.setPort p up).markRoutes s (s.routed p)).Recorded pRq (s.setLink p up) := State.recorded_report ..

/-- A register that is neither PORTST nor one of the device report queue. -/
theorem State.reg_setLink (s : State) (p : Nat) (up : Bool) {pa : Nat} (portst : pa ≠ pPortst) (tail : pa ≠ pRq + 0x18)
    (lost : pa ≠ pRq + 0x28) : (s.setLink p up).reg pa = s.reg pa := by
  rw [(s.setLink_recorded p up).regs pa tail lost, State.markRoutes_other]
  exact State.reg_setReg_ne s _ portst

theorem State.route_setLink (s : State) (p m : Nat) (up : Bool) : (s.setLink p up).reg (pRoute m) = s.reg (pRoute m) := by
  apply State.reg_setLink
  · unfold pRoute pPortst; omega
  · unfold pRoute pRq; omega
  · unfold pRoute pRq; omega

/-- The port has the link that it is given, and every other port the one it had. -/
theorem State.portUp_setLink_eq (s : State) (p q : Nat) (up : Bool) (hq : q < 64) :
    (s.setLink p up).portUp q = if q = p then up else s.portUp q := by
  rw [← s.portUp_setPort p q up hq, State.portUp, (s.setLink_recorded p up).regs pPortst (by decide) (by decide), State.markRoutes_other]
  rfl

theorem State.sessions_setLink (s : State) (p : Nat) (up : Bool) : (s.setLink p up).sessions = s.sessions := by
  rw [(s.setLink_recorded p up).other, State.markRoutes_other]
  rfl

/-- A route without the port has the up ports that it had. -/
theorem State.routeUp_setLink_other (s : State) (p m : Nat) (up : Bool) (h : p ∉ s.routePorts m) : (s.setLink p up).routeUp m = s.routeUp m := by
  refine State.routeUp_congr (s.route_setLink p m up) fun q hq => ?_
  have low := ((s.mem_routePorts q m).1 hq).1
  rw [s.portUp_setLink_eq p q up (by omega), if_neg (by rintro rfl; exact h hq)]

theorem State.routeUp_setLink (s : State) (p m : Nat) (up : Bool) : (s.setLink p up).routeUp m = (s.setPort p up).routeUp m := by
  refine State.routeUp_congr ?_ fun q hq => ?_
  · rw [s.route_setLink]
    exact (State.reg_setReg_ne s _ (by unfold pRoute pPortst; omega)).symm
  · have low := ((State.mem_routePorts _ q m).1 hq).1
    rw [s.portUp_setLink_eq p q up (by omega), s.portUp_setPort p q up (by omega)]

/-- The route of a module that loses its last up port is down since now (R480). -/
theorem State.routeDown_setLink (s : State) (p m : Nat) (up : Bool) (hp : p < 18) (hm : m ≤ 431) :
    (s.setLink p up).routeDown.get 0 m =
      if s.routeUp m ≠ [] ∧ (s.setLink p up).routeUp m = [] then s.timeOf 0 else s.routeDown.get 0 m := by
  have marked : (s.setLink p up).routeDown = ((s.setPort p up).markRoutes s (s.routed p)).routeDown := by
    rw [(s.setLink_recorded p up).other]
  rw [marked, State.markRoutes_routeDown, ← s.routeUp_setLink p m up]
  simp only [State.mem_routed s p m hp]
  by_cases on : p ∈ s.routePorts m
  · simp only [hm, on, true_and]; rfl
  · have same := s.routeUp_setLink_other p m up on
    rw [if_neg (by simp [on]), if_neg (by rw [same]; exact fun h => h.1 h.2)]
    rfl

/-! ### LINK_CHANGE (R473, R480, R494) -/

/-- What a change of link comes to: a port that comes up begins new epochs. -/
def State.linkMoved (s : State) (p : Nat) (up : Bool) : State :=
  if up then (s.setLink p true).newEpochs p else s.setLink p false

theorem exec_linkChange_of (s : State) (p : Nat) (up : Bool) (hp : p < 18) :
    exec (.linkChange p up) s = .next (
      if s.portUp p = up ∨ (up = true ∧ s.disabled (portDie p) (portUnit p) = true) then s else s.linkMoved p up) := by
  rw [exec_linkChange, execLinkChange, if_pos hp]
  simp only [Bool.or_eq_true, Bool.and_eq_true, beq_iff_eq]
  cases up <;> rfl

theorem State.linkMoved_other (s : State) (p : Nat) (up : Bool) :
    s.linkMoved p up = { s.setLink p up with sessions := (s.linkMoved p up).sessions } := by
  cases up <;> rfl

theorem State.portUp_linkMoved (s : State) (p q : Nat) (up : Bool) (hq : q < 64) :
    (s.linkMoved p up).portUp q = if q = p then up else s.portUp q := by
  rw [State.linkMoved_other]; exact s.portUp_setLink_eq p q up hq

theorem State.routeDown_linkMoved (s : State) (p m : Nat) (up : Bool) (hp : p < 18) (hm : m ≤ 431) :
    (s.linkMoved p up).routeDown.get 0 m =
      if s.routeUp m ≠ [] ∧ (s.linkMoved p up).routeUp m = [] then s.timeOf 0 else s.routeDown.get 0 m := by
  rw [State.linkMoved_other]; exact s.routeDown_setLink p m up hp hm

/-- A failed session that the port reaches begins a new epoch, and one that has not failed stays as it is. -/
theorem State.linkMoved_epochs (s : State) (p : Nat) {e : Nat × Session} (h : e ∈ s.sessions) :
    (e.2.failed = true → p ∈ s.routePorts e.1 → (e.1, { epoch := e.2.epoch + 1 }) ∈ (s.linkMoved p true).sessions) ∧
    (e.2.failed = false → e ∈ (s.linkMoved p true).sessions) := by
  rw [State.linkMoved, if_pos rfl, State.newEpochs, State.sessions_setLink]
  refine ⟨fun failed on => List.mem_map.2 ⟨e, h, ?_⟩, fun alive => List.mem_map.2 ⟨e, h, ?_⟩⟩
  · simp [failed, State.routePorts_congr (s.route_setLink p e.1 true), on]
  · simp [alive]

end Sys2Proof.Machine
end

section
/-!
PROOF of O50 (R36, R473, R474, R480, R481, R491, R492, R494): links, FABCTL and FABSYNC, the time discipline and the governor.
-/
namespace Sys2Proof.Machine

/-! ### FABCTL (R474) -/

/-- The fields that FABCTL is left with. -/
theorem fabctlOf_fields (old v : W64) :
    let modid := if old.toNat % 2 = 1 then old.toNat / 2 ^ 8 % 2 ^ 9 else v.toNat / 2 ^ 8 % 2 ^ 9
    (fabctlOf old v).toNat / 2 ^ 24 = max 1 (v.toNat / 2 ^ 24 % 2 ^ 16) ∧ (fabctlOf old v).toNat / 2 ^ 8 % 2 ^ 16 = modid ∧
      (fabctlOf old v).toNat % 2 ^ 8 = if v.toNat % 2 = 0 then 0 else if 431 < modid then old.toNat % 2 else 1 := by
  intro modid
  have kept : bitsOf (if bitOf old.toNat 0 then old else v).toNat 16 8 = modid := by
    simp only [bitOf, bitsOf, modid, Nat.pow_zero, Nat.div_one, beq_iff_eq]
    split <;> rfl
  have enabled : (if (if bitOf v.toNat 0 && decide (431 < modid) then bitOf old.toNat 0 else bitOf v.toNat 0) = true then 1 else 0)
      = if v.toNat % 2 = 0 then 0 else if 431 < modid then old.toNat % 2 else 1 := by
    rcases Nat.mod_two_eq_zero_or_one old.toNat with o | o <;> rcases Nat.mod_two_eq_zero_or_one v.toNat with n | n <;>
      by_cases wide : 431 < modid <;> simp [bitOf, o, n, wide]
  have small : modid < 2 ^ 9 := by simp only [modid]; split <;> omega
  have fto : bitsOf v.toNat 39 24 = v.toNat / 2 ^ 24 % 2 ^ 16 := rfl
  have bit : (if v.toNat % 2 = 0 then 0 else if 431 < modid then old.toNat % 2 else 1) < 2 := by
    split
    · omega
    · split <;> omega
  unfold fabctlOf
  dsimp only
  rw [kept, enabled, fto, w64, BitVec.toNat_ofNat, Nat.mod_eq_of_lt (by omega)]
  omega

theorem State.devWrite_fabctl (s : State) (v m : W64) :
    s.devWrite pFabctl v m = s.setReg pFabctl (fabctlOf (s.reg pFabctl) (mergeW (s.reg pFabctl) v m)) := rfl

theorem exec_fabctlWrite_of (s : State) (v : W64) :
    exec (.fabctlWrite v) s = .next (s.setReg pFabctl (fabctlOf (s.reg pFabctl) v)) := by
  rw [exec_fabctlWrite, execFabctlWrite, State.devWrite_fabctl, mergeW_all]

/-! ### FABSYNC (R474) -/

theorem findIdx_none {α : Type} {p : α → Bool} {l : List α} (h : ∀ x ∈ l, p x = false) : findIdx p l = none := by
  induction l with
  | nil => rfl
  | cons x l ih => simp [findIdx, h x, ih fun y hy => h y (List.mem_cons_of_mem _ hy)]

theorem findIdx_append {α : Type} {p : α → Bool} {pre post : List α} {x : α} (h : ∀ y ∈ pre, p y = false) (hx : p x = true) :
    findIdx p (pre ++ x :: post) = some pre.length := by
  induction pre with
  | nil => simp [findIdx, hx]
  | cons y pre ih => simp [findIdx, h y, ih fun z hz => h z (List.mem_cons_of_mem _ hz)]

theorem dropNth_append {α : Type} (pre post : List α) (x : α) : dropNth (pre ++ x :: post) pre.length = pre ++ post := by
  induction pre with
  | nil => rfl
  | cons y pre ih => simp [dropNth, ih]

/-- Whether the requests that a FABSYNC read waits for are all done. -/
def State.synced (s : State) (f : FabSync) : Bool := f.ids.all (fun i => !s.fabPending.contains i)

theorem State.synced_iff (s : State) (f : FabSync) : s.synced f = true ↔ ∀ i ∈ f.ids, i ∉ s.fabPending := by simp [State.synced]

theorem State.synced_eq_false (s : State) (f : FabSync) : s.synced f = false ↔ ∃ i ∈ f.ids, i ∈ s.fabPending := by simp [State.synced]

/-- The answer of a FABSYNC read: 0. -/
def FabSync.answer (f : FabSync) : Resp := { req := f.req, bytes := List.replicate f.req.size ⟨0, false⟩, base := f.req.addr }

theorem State.fabsyncDone_waits (s : State) (h : ∀ f ∈ s.fabsyncs, s.synced f = false) : s.fabsyncDone = s := by
  have none : findIdx (fun (f : FabSync) => f.ids.all (fun i => !s.fabPending.contains i)) s.fabsyncs = none := findIdx_none h
  rw [State.fabsyncDone, none]

theorem State.fabsyncDone_answers (s : State) {pre post : List FabSync} {f : FabSync} (e : s.fabsyncs = pre ++ f :: post)
    (waits : ∀ g ∈ pre, s.synced g = false) (done : s.synced f = true) :
    s.fabsyncDone = ({ s with fabsyncs := pre ++ post } : State).respond f.answer := by
  have first : findIdx (fun (f : FabSync) => f.ids.all (fun i => !s.fabPending.contains i)) s.fabsyncs = some pre.length := by
    rw [e]; exact findIdx_append waits done
  have entry : s.fabsyncs[pre.length]? = some f := by simp [e]
  have left : dropNth s.fabsyncs pre.length = pre ++ post := by rw [e, dropNth_append]
  rw [State.fabsyncDone, first]
  dsimp only
  rw [entry]
  dsimp only
  rw [left]
  rfl

/-! ### Time discipline (R481) -/

theorem bitsOf_pair (n : Nat) : bitsOf n 1 0 = n % 4 := bitsOf_low n 1

/-- A follower is enabled and no master. -/
theorem State.tdFollows_iff (s : State) : s.tdFollows = true ↔ (s.reg pTdctl).toNat % 4 = 1 := by
  simp only [State.tdFollows, State.regBits, bitsOf, Bool.and_eq_true, beq_iff_eq]
  omega

/-- A master sends a time packet 1 µs after its last. -/
theorem exec_timePacketSend_of (s : State) (d : Nat) (hd : d < 4) :
    exec (.timePacketSend d) s = .next (
      if (s.reg pTdctl).toNat % 4 = 3 ∧ ∀ w, s.timeLink.sent = some w → w + 1000 ≤ s.timeOf d
      then { s with timeLink := { s.timeLink with sent := some (s.timeOf d) } } else s) := by
  rw [exec_timePacketSend, execTimePacketSend, if_pos hd]
  simp only [State.regBits, bitsOf_pair]
  cases s.timeLink.sent <;> simp

/-- Since when the measured offset has stayed within 50 ns, once a packet has come. -/
def State.withinSince (s : State) (d offset : Nat) : Option Nat := if offset ≤ 50 then some (s.timeLink.within.getD (s.timeOf d)) else none

/-- Whether it has for 1 ms. -/
def State.locks (s : State) (d offset : Nat) : Bool := decide (offset ≤ 50 ∧ s.timeLink.within.getD (s.timeOf d) + 1000000 ≤ s.timeOf d)

/-- A follower that a time packet reaches measures its offset. -/
theorem exec_timePacketArrive_of (s : State) (d offset : Nat) (hd : d < 4) :
    exec (.timePacketArrive d offset) s = .next (
      if (s.reg pTdctl).toNat % 4 = 1 then
        { s.setReg pTdctl (setBit (s.reg pTdctl) 2 (s.locks d offset)) with
          timeLink := { s.timeLink with got := s.timeOf d, offset := offset, within := s.withinSince d offset, holding := false } }
      else s) := by
  rw [exec_timePacketArrive, execTimePacketArrive, if_pos hd]
  simp only [State.tdFollows_iff]
  by_cases close : offset ≤ 50 <;> simp [close, State.locks, State.withinSince]

/-- Holdover, apart from its report: LOCK is lost, and so is the time within 50 ns. -/
def State.holdover (s : State) : State :=
  { s.setReg pTdctl (setBit (s.reg pTdctl) 2 false) with timeLink := { s.timeLink with within := none, holding := true } }

theorem exec_timeHoldover_idle (s : State) (d : Nat) (hd : d < 4)
    (h : ¬((s.reg pTdctl).toNat % 4 = 1 ∧ s.timeLink.holding = false ∧ s.timeLink.got + 100000 ≤ s.timeOf d)) :
    exec (.timeHoldover d) s = .next s := by
  rw [exec_timeHoldover, execTimeHoldover, if_pos hd]
  refine congrArg Host.Outcome.next (if_neg fun lost => h ?_)
  simpa [State.tdFollows_iff, and_assoc] using lost

/-- A follower that has had no packet for 100 µs. -/
theorem exec_timeHoldover_lost (s : State) (d : Nat) (hd : d < 4)
    (h : (s.reg pTdctl).toNat % 4 = 1 ∧ s.timeLink.holding = false ∧ s.timeLink.got + 100000 ≤ s.timeOf d) :
    ∃ t, exec (.timeHoldover d) s = .next t ∧ s.holdover.Recorded pRq t := by
  rw [exec_timeHoldover, execTimeHoldover, if_pos hd]
  refine ⟨_, congrArg Host.Outcome.next (if_pos ?_), State.recorded_report ..⟩
  simpa [State.tdFollows_iff, and_assoc] using h

/-! ### The governor (R36, R491, R492) -/

/-- The next clock, in MHz, fits its field. -/
theorem nextClock_lt (clk avg limit fmax : Nat) (h : fmax < 2 ^ 5) : nextClock clk avg limit fmax < 2 ^ 16 := by
  unfold nextClock
  dsimp only
  split
  · omega
  · split
    · omega
    · split <;> omega

/-- GOVST after a window: the count of windows, saturating, the clock and the average power. -/
def govstOf (ctl st average : Nat) : Nat :=
  min (2 ^ 32 - 1) (st / 2 ^ 32 + 1) * 2 ^ 32 + nextClock (st / 2 ^ 16 % 2 ^ 16) average (ctl % 2 ^ 12) (ctl / 2 ^ 16 % 2 ^ 5) * 2 ^ 16 +
    min average (2 ^ 16 - 1)

theorem govstOf_lt (ctl st average : Nat) : govstOf ctl st average < 2 ^ 64 := by
  have clock := nextClock_lt (st / 2 ^ 16 % 2 ^ 16) average (ctl % 2 ^ 12) (ctl / 2 ^ 16 % 2 ^ 5) (by omega)
  unfold govstOf
  omega

theorem exec_governorWindow_of (s : State) (average : Nat) :
    exec (.governorWindow average) s = .next (
      if s.window + 1000000 ≤ s.timeOf 0 then
        { s.setReg 0x8000D00218 (w64 (govstOf (s.reg 0x8000D00210).toNat (s.reg 0x8000D00218).toNat average)) with window := s.window + 1000000 }
      else s) := by
  have windows : bitsOf (s.reg 0x8000D00218).toNat 63 32 = (s.reg 0x8000D00218).toNat / 2 ^ 32 := by
    have := (s.reg 0x8000D00218).isLt
    simp only [bitsOf]; omega
  have limit : bitsOf (s.reg 0x8000D00210).toNat 11 0 = (s.reg 0x8000D00210).toNat % 2 ^ 12 := bitsOf_low _ 11
  have govctl : devBase 0 + 0x00D00210 = 0x8000D00210 := rfl
  have govst : devBase 0 + 0x00D00218 = 0x8000D00218 := rfl
  rw [exec_governorWindow, execGovernorWindow, govctl, govst, windows, limit]
  rfl

/-! ### The obligation -/

/-- Settles O50: a change of a link is `State.linkMoved`, and each of the other steps is the equation of its own lemma above. -/
theorem linksAndTime : Obligations.LinksAndTime := by
  unfold Obligations.LinksAndTime
  refine ⟨?links, ?fabctl, ?fabsync, ?time, ?governor⟩
  case links =>
    intro s p up hp
    rw [exec_linkChange_of s p up hp, exec_flitReplay, execFlitReplay, if_pos hp]
    refine ⟨rfl, fun idle => by rw [if_pos idle], fun moves enabled => ?_⟩
    have busy : ¬(s.portUp p = up ∨ (up = true ∧ s.disabled (portDie p) (portUnit p) = true)) := by
      rintro (same | ⟨on, off⟩)
      · exact moves same
      · simp [enabled on] at off
    rw [if_neg busy]
    refine ⟨_, rfl, ?_, fun q hq ne => ?_, fun m hm => s.routeDown_linkMoved p m up hp hm, fun down => ?_, fun isUp e he => ?_⟩
    · rw [s.portUp_linkMoved p p up (by omega), if_pos rfl]
    · rw [s.portUp_linkMoved p q up (by omega), if_neg ne]
    · subst down; exact s.sessions_setLink p false
    · subst isUp; exact s.linkMoved_epochs p he
  case fabctl =>
    intro s v
    refine ⟨_, exec_fabctlWrite_of s v, rfl, ?_⟩
    rw [State.reg_setReg_same]
    exact fabctlOf_fields (s.reg pFabctl) v
  case fabsync =>
    intro s
    rw [exec_fabsyncRead, execFabsyncRead]
    simp only [← State.synced_eq_false, ← State.synced_iff]
    refine ⟨fun waits => by rw [s.fabsyncDone_waits waits], fun pre f post e waits done => ?_⟩
    rw [s.fabsyncDone_answers e waits done]
    exact ⟨_, f.answer, rfl, rfl, State.rchan_respond_last _ f.answer, rfl, rfl⟩
  case time =>
    intro s d offset hd
    dsimp only
    rw [exec_timePacketSend_of s d hd, exec_timePacketArrive_of s d offset hd]
    refine ⟨fun sends => ?_, fun quiet => by rw [if_neg quiet], fun other => by rw [if_neg other], fun follows => ?_,
      exec_timeHoldover_idle s d hd, fun lost => ?_⟩
    · rw [if_pos sends]; exact ⟨_, rfl, rfl, rfl⟩
    · rw [if_pos follows]
      refine ⟨_, rfl, rfl, rfl, rfl, rfl, rfl, ?_⟩
      exact (congrArg (·.getLsbD 2) (State.reg_setReg_same s pTdctl _)).trans (getLsbD_setBit _ 2 2 _ (by omega))
    · obtain ⟨t, step, reported⟩ := exec_timeHoldover_lost s d hd lost
      refine ⟨t, step, by rw [reported.other]; rfl, ?_⟩
      rw [reported.regs pTdctl (by decide) (by decide)]
      exact (congrArg (·.getLsbD 2) (State.reg_setReg_same s pTdctl _)).trans (getLsbD_setBit _ 2 2 _ (by omega))
  case governor =>
    intro s average
    dsimp only
    rw [exec_governorWindow_of s average]
    refine ⟨fun early => by rw [if_neg (by omega)], fun ends => ?_⟩
    rw [if_pos ends]
    refine ⟨_, rfl, rfl, rfl, ?_⟩
    have stored := State.reg_setReg_same s 0x8000D00218 (w64 (govstOf (s.reg 0x8000D00210).toNat (s.reg 0x8000D00218).toNat average))
    refine (congrArg BitVec.toNat stored).trans ?_
    rw [w64, BitVec.toNat_ofNat, Nat.mod_eq_of_lt (govstOf_lt ..)]
    rfl

end Sys2Proof.Machine
end

section
/-!
SUPPORT. Reading the bits of a word, and of a word that is packed from fixed bits and fields (R91, R93).
-/
namespace Sys2Proof

/-! ### The bits of a word, of an or and of a field -/

theorem bitsOf_or (a b hi lo : Nat) : bitsOf (a ||| b) hi lo = bitsOf a hi lo ||| bitsOf b hi lo := by
  simp only [bitsOf, ← Nat.shiftRight_eq_div_pow, Nat.shiftRight_or_distrib, Nat.or_mod_two_pow]

theorem bitsOf_of_lt {a hi lo : Nat} (h : a < 2 ^ lo) : bitsOf a hi lo = 0 := by
  rw [bitsOf, Nat.div_eq_of_lt h, Nat.zero_mod]

/-- A field that stands above the bits that are read. -/
theorem bitsOf_shiftLeft_above (a : Nat) {q hi lo : Nat} (h : hi < q) (hl : lo ≤ hi) : bitsOf (a <<< q) hi lo = 0 := by
  obtain ⟨d, rfl⟩ : ∃ d, q = lo + ((hi - lo + 1) + d) := ⟨q - (hi + 1), by omega⟩
  rw [bitsOf, Nat.shiftLeft_eq, Nat.pow_add, Nat.mul_left_comm, Nat.mul_div_cancel_left _ (Nat.two_pow_pos lo), Nat.pow_add,
    Nat.mul_left_comm, Nat.mul_mod_right]

/-- A field that stands below them. -/
theorem bitsOf_shiftLeft_below {a n q hi lo : Nat} (ha : a < n) (h : n <<< q ≤ 2 ^ lo) : bitsOf (a <<< q) hi lo = 0 := by
  refine bitsOf_of_lt (Nat.lt_of_lt_of_le ?_ h)
  rw [Nat.shiftLeft_eq, Nat.shiftLeft_eq]
  exact Nat.mul_lt_mul_of_pos_right ha (Nat.two_pow_pos q)

/-- A field that stands among them. -/
theorem bitsOf_shiftLeft_within {a n q hi lo : Nat} (ha : a < n) (hl : lo ≤ q) (h : n <<< (q - lo) ≤ 2 ^ (hi - lo + 1)) :
    bitsOf (a <<< q) hi lo = a <<< (q - lo) := by
  obtain ⟨d, rfl⟩ : ∃ d, q = lo + d := ⟨q - lo, by omega⟩
  rw [Nat.add_sub_cancel_left, Nat.shiftLeft_eq] at *
  have fits : a * 2 ^ d < 2 ^ (hi - lo + 1) := Nat.lt_of_lt_of_le (Nat.mul_lt_mul_of_pos_right ha (Nat.two_pow_pos d)) h
  rw [bitsOf, Nat.shiftLeft_eq, Nat.pow_add, Nat.mul_left_comm, Nat.mul_div_cancel_left _ (Nat.two_pow_pos lo), Nat.mod_eq_of_lt fits]

/-- A field of `n` values that is the bits that are read. -/
theorem bitsOf_shiftLeft_exact {a n q hi : Nat} (ha : a < n) (h : n ≤ 2 ^ (hi - q + 1)) : bitsOf (a <<< q) hi q = a := by
  rw [bitsOf_shiftLeft_within ha (Nat.le_refl q) (by simpa using h), Nat.sub_self, Nat.shiftLeft_zero]

/-- A field that stands where the rest of the word is zero is joined to it by or. -/
theorem shiftLeft_add_eq_or {a k q w : Nat} (ha : a < 2 ^ (k + 1)) (h : bitsOf w (q + k) q = 0) : a <<< q + w = a <<< q ||| w := by
  obtain ⟨high, low, bound, rfl⟩ : ∃ high low, low < 2 ^ q ∧ w = 2 ^ (q + (k + 1)) * high + low := by
    refine ⟨w / 2 ^ q / 2 ^ (k + 1), w % 2 ^ q, Nat.mod_lt _ (Nat.two_pow_pos q), ?_⟩
    rw [bitsOf, Nat.add_sub_cancel_left] at h
    have split := Nat.div_add_mod (w / 2 ^ q) (2 ^ (k + 1))
    rw [h, Nat.add_zero] at split
    rw [Nat.pow_add, Nat.mul_assoc, split, Nat.div_add_mod]
  have joined : a <<< q + low = a <<< q ||| low := by
    rw [Nat.shiftLeft_eq, Nat.mul_comm, Nat.two_pow_add_eq_or_of_lt bound]
  have below : a <<< q + low < 2 ^ (q + (k + 1)) := by
    have := Nat.mul_le_mul_right (2 ^ q) (Nat.succ_le_of_lt ha)
    rw [Nat.shiftLeft_eq, Nat.pow_add, Nat.mul_comm (2 ^ q)]
    rw [Nat.succ_mul] at this
    omega
  rw [Nat.add_left_comm, Nat.two_pow_add_eq_or_of_lt below, joined,
    Nat.two_pow_add_eq_or_of_lt (Nat.lt_of_le_of_lt (Nat.le_add_left ..) below), ← Nat.or_assoc, Nat.or_comm (_ * high), Nat.or_assoc]

/-- An or with bits that a number lacks is not that number. -/
theorem or_eq_false_of_and_ne {a f k : Nat} (h : f &&& k ≠ f) : (a ||| f = k) = False := by
  refine eq_false fun e => h ?_
  subst e
  refine Nat.eq_of_testBit_eq fun i => ?_
  simp only [Nat.testBit_or, Nat.testBit_and]
  cases f.testBit i <;> simp

/-! ### Packed words -/

/-- How a packed word is read, in one set for `simp`: its fields are joined by or, each field is read at its own bits and is zero at
the others, and a group's fn that has a bit which the word lacks is not the word's. The conditions are on the numbers of the encoding
tables alone, and `decide` settles them. -/
theorem packed_reads :
    (∀ f, pack f [] = f) ∧
    (∀ f v q fs, pack f ((v, q) :: fs) = v <<< q + pack f fs) ∧
    (∀ n (v : Fin n) q w, 2 ^ (n.log2 - 1 + 1) = n → bitsOf w (q + (n.log2 - 1)) q = 0 → v.val <<< q + w = v.val <<< q ||| w) ∧
    (∀ n (v : BitVec n) w, 2 ^ (n - 1 + 1) = 2 ^ n → bitsOf w (n - 1) 0 = 0 → v.toNat <<< 0 + w = v.toNat <<< 0 ||| w) ∧
    (∀ a b hi lo, bitsOf (a ||| b) hi lo = bitsOf a hi lo ||| bitsOf b hi lo) ∧
    (∀ a q hi lo, hi < q → lo ≤ hi → bitsOf (a <<< q) hi lo = 0) ∧
    (∀ n (v : Fin n) q hi lo, n <<< q ≤ 2 ^ lo → bitsOf (v.val <<< q) hi lo = 0) ∧
    (∀ n (v : BitVec n) hi lo, n ≤ lo → bitsOf (v.toNat <<< 0) hi lo = 0) ∧
    (∀ n (v : Fin n) q hi, n ≤ 2 ^ (hi - q + 1) → bitsOf (v.val <<< q) hi q = v.val) ∧
    (∀ n (v : BitVec n) hi, n ≤ hi + 1 → bitsOf (v.toNat <<< 0) hi 0 = v.toNat) ∧
    (∀ n (v : Fin n) q hi lo, lo < q → n <<< (q - lo) ≤ 2 ^ (hi - lo + 1) → bitsOf (v.val <<< q) hi lo = v.val <<< (q - lo)) ∧
    (∀ a f hi lo, bitsOf f hi lo = 0 → a ||| bitsOf f hi lo = a) ∧
    (∀ a f k : Nat, f &&& k ≠ f → (a ||| f = k) = False) ∧
    (∀ a b f k : Nat, f &&& k ≠ f → (a ||| (b ||| f) = k) = False) ∧
    (∀ n (v : BitVec n), BitVec.ofNat n v.toNat = v) := by
  refine ⟨fun _ => rfl, fun f v q fs => ?_, fun n v q w size free => ?_, fun n v w size free => ?_, bitsOf_or,
    fun a _ _ _ => bitsOf_shiftLeft_above a, fun _ v _ _ _ => bitsOf_shiftLeft_below v.isLt, fun n v hi lo h => ?_,
    fun _ v _ _ => bitsOf_shiftLeft_exact v.isLt, fun n v hi h => ?_, fun _ v _ _ _ h => bitsOf_shiftLeft_within v.isLt h.le,
    fun a f hi lo h => ?_, fun _ _ _ => or_eq_false_of_and_ne, fun a b f k h => ?_,
    fun _ v => by rw [BitVec.ofNat_toNat, BitVec.setWidth_eq]⟩
  · rw [Nat.shiftLeft_eq]; rfl
  · exact shiftLeft_add_eq_or (Nat.lt_of_lt_of_eq v.isLt size.symm) free
  · exact shiftLeft_add_eq_or (Nat.lt_of_lt_of_eq v.isLt size.symm) (by rwa [Nat.zero_add])
  · exact bitsOf_of_lt (Nat.lt_of_lt_of_le v.isLt (Nat.pow_le_pow_right (by decide) h))
  · exact bitsOf_shiftLeft_exact v.isLt (Nat.pow_le_pow_right (by decide) h)
  · rw [h, Nat.or_zero]
  · rw [← Nat.or_assoc, or_eq_false_of_and_ne h]

end Sys2Proof
end

section
/-!
PROOF of O59 and O58 (R91 to R97): decoding gives back what encoding packs, group by group of the major opcodes.
-/
namespace Sys2Proof

/-- An instruction that is well formed decodes from its word, which has 32 bits. -/
def Instr.RoundTrips (i : Instr) : Prop := i.wellFormed = true → ∀ w, encode i = some w → w < 2 ^ 32 ∧ decodeWord w = .ok i

/-- A step of the machine has no word. -/
theorem roundTrips_of_none {i : Instr} (h : encode i = none) : i.RoundTrips := by
  intro _ w e
  rw [h] at e
  cases e

theorem roundTrips_of_pack {i : Instr} {f : Nat} {fs : List (Nat × Nat)} (word : encode i = some (pack f fs)) (bits : pack f fs < 2 ^ 32)
    (back : i.wellFormed = true → decodeWord (pack f fs) = .ok i) : i.RoundTrips := by
  intro wf w e
  rw [word, Option.some.injEq] at e
  exact e ▸ ⟨bits, back wf⟩

/-- The major opcode of a word picks its group (R96). -/
theorem decodeWord_of_op (w : Nat) :
    (bitsOf w 28 23 = 1 → decodeWord w = decodeAlu w) ∧ (bitsOf w 28 23 = 2 → decodeWord w = decodeAlu32 w) ∧
    (bitsOf w 28 23 = 3 → decodeWord w = decodeMulDiv w) ∧ (bitsOf w 28 23 = 4 → decodeWord w = decodeBits w) ∧
    (bitsOf w 28 23 = 5 → decodeWord w = decodeOpAddi w) ∧ (bitsOf w 28 23 = 6 → decodeWord w = decodeOpAndi w) ∧
    (bitsOf w 28 23 = 7 → decodeWord w = decodeOpOri w) ∧ (bitsOf w 28 23 = 8 → decodeWord w = decodeOpXori w) ∧
    (bitsOf w 28 23 = 9 → decodeWord w = decodeShiftImm w) ∧ (bitsOf w 28 23 = 10 → decodeWord w = decodeOpClti w) ∧
    (bitsOf w 28 23 = 11 → decodeWord w = decodeOpCltiu w) ∧ (bitsOf w 28 23 = 12 → decodeWord w = decodeOpAddi32 w) ∧
    (bitsOf w 28 23 = 13 → decodeWord w = decodeOpImmhi w) ∧ (bitsOf w 28 23 = 14 → decodeWord w = decodeOpPcofs w) ∧
    (bitsOf w 28 23 = 15 → decodeWord w = decodeFp32 w) ∧ (bitsOf w 28 23 = 16 → decodeWord w = decodeOpBeq w) ∧
    (bitsOf w 28 23 = 17 → decodeWord w = decodeOpBne w) ∧ (bitsOf w 28 23 = 18 → decodeWord w = decodeOpBlt w) ∧
    (bitsOf w 28 23 = 19 → decodeWord w = decodeOpBge w) ∧ (bitsOf w 28 23 = 20 → decodeWord w = decodeOpBltu w) ∧
    (bitsOf w 28 23 = 21 → decodeWord w = decodeOpBgeu w) ∧ (bitsOf w 28 23 = 22 → decodeWord w = decodeOpJal w) ∧
    (bitsOf w 28 23 = 23 → decodeWord w = decodeOpJalr w) ∧ (bitsOf w 28 23 = 24 → decodeWord w = decodeOpLb w) ∧
    (bitsOf w 28 23 = 25 → decodeWord w = decodeOpLh w) ∧ (bitsOf w 28 23 = 26 → decodeWord w = decodeOpLw w) ∧
    (bitsOf w 28 23 = 27 → decodeWord w = decodeOpLd w) ∧ (bitsOf w 28 23 = 28 → decodeWord w = decodeOpLbu w) ∧
    (bitsOf w 28 23 = 29 → decodeWord w = decodeOpLhu w) ∧ (bitsOf w 28 23 = 30 → decodeWord w = decodeOpLwu w) ∧
    (bitsOf w 28 23 = 31 → decodeWord w = decodeLdx w) ∧ (bitsOf w 28 23 = 32 → decodeWord w = decodeOpSb w) ∧
    (bitsOf w 28 23 = 33 → decodeWord w = decodeOpSh w) ∧ (bitsOf w 28 23 = 34 → decodeWord w = decodeOpSw w) ∧
    (bitsOf w 28 23 = 35 → decodeWord w = decodeOpSd w) ∧ (bitsOf w 28 23 = 36 → decodeWord w = decodeStx w) ∧
    (bitsOf w 28 23 = 37 → decodeWord w = decodeAtomic w) ∧ (bitsOf w 28 23 = 38 → decodeWord w = decodeCas w) ∧
    (bitsOf w 28 23 = 39 → decodeWord w = decodeRed w) ∧ (bitsOf w 28 23 = 40 → decodeWord w = decodeFence w) ∧
    (bitsOf w 28 23 = 41 → decodeWord w = decodeFuture w) ∧ (bitsOf w 28 23 = 42 → decodeWord w = decodeTask w) ∧
    (bitsOf w 28 23 = 43 → decodeWord w = decodeGroup w) ∧ (bitsOf w 28 23 = 44 → decodeWord w = decodeBound w) ∧
    (bitsOf w 28 23 = 45 → decodeWord w = decodeHire w) ∧ (bitsOf w 28 23 = 46 → decodeWord w = decodeHirex w) ∧
    (bitsOf w 28 23 = 47 → decodeWord w = decodeCopyx w) ∧ (bitsOf w 28 23 = 48 → decodeWord w = decodeVctl w) ∧
    (bitsOf w 28 23 = 49 → decodeWord w = decodeVmem w) ∧ (bitsOf w 28 23 = 50 → decodeWord w = decodeVint w) ∧
    (bitsOf w 28 23 = 51 → decodeWord w = decodeVfp w) ∧ (bitsOf w 28 23 = 52 → decodeWord w = decodeVmisc w) ∧
    (bitsOf w 28 23 = 53 → decodeWord w = decodeVsfu w) ∧ (bitsOf w 28 23 = 54 → decodeWord w = decodeVcvt w) ∧
    (bitsOf w 28 23 = 55 → decodeWord w = decodePrefix w) ∧ (bitsOf w 28 23 = 56 → decodeWord w = decodeWacc w) ∧
    (bitsOf w 28 23 = 57 → decodeWord w = decodeKv w) ∧ (bitsOf w 28 23 = 58 → decodeWord w = decodeVideo w) ∧
    (bitsOf w 28 23 = 59 → decodeWord w = decodeCsr w) ∧ (bitsOf w 28 23 = 60 → decodeWord w = decodeSys w) := by
  and_intros <;> intro op <;> simp only [decodeWord, op]

/-- OP 0x01 to 0x04: integer operations on registers. -/
theorem roundTrips_scalar :
    (∀ st rd rs1 rs2, (Instr.add st rd rs1 rs2).RoundTrips) ∧ (∀ st rd rs1 rs2, (Instr.sub st rd rs1 rs2).RoundTrips) ∧
    (∀ st rd rs1 rs2, (Instr.and st rd rs1 rs2).RoundTrips) ∧ (∀ st rd rs1 rs2, (Instr.or st rd rs1 rs2).RoundTrips) ∧
    (∀ st rd rs1 rs2, (Instr.xor st rd rs1 rs2).RoundTrips) ∧ (∀ st rd rs1 rs2, (Instr.sll st rd rs1 rs2).RoundTrips) ∧
    (∀ st rd rs1 rs2, (Instr.srl st rd rs1 rs2).RoundTrips) ∧ (∀ st rd rs1 rs2, (Instr.sra st rd rs1 rs2).RoundTrips) ∧
    (∀ st rd rs1 rs2, (Instr.min st rd rs1 rs2).RoundTrips) ∧ (∀ st rd rs1 rs2, (Instr.max st rd rs1 rs2).RoundTrips) ∧
    (∀ st rd rs1 rs2, (Instr.minu st rd rs1 rs2).RoundTrips) ∧ (∀ st rd rs1 rs2, (Instr.maxu st rd rs1 rs2).RoundTrips) ∧
    (∀ st rd rs1, (Instr.clz st rd rs1).RoundTrips) ∧ (∀ st rd rs1, (Instr.ctz st rd rs1).RoundTrips) ∧
    (∀ st rd rs1, (Instr.popc st rd rs1).RoundTrips) ∧ (∀ st rd rs1 rs2 cond, (Instr.cset st rd rs1 rs2 cond).RoundTrips) ∧
    (∀ st rd rs1 rs2 cond, (Instr.csetm st rd rs1 rs2 cond).RoundTrips) ∧ (∀ st rd rs1 rs2, (Instr.add32 st rd rs1 rs2).RoundTrips) ∧
    (∀ st rd rs1 rs2, (Instr.sub32 st rd rs1 rs2).RoundTrips) ∧ (∀ st rd rs1 rs2, (Instr.sll32 st rd rs1 rs2).RoundTrips) ∧
    (∀ st rd rs1 rs2, (Instr.srl32 st rd rs1 rs2).RoundTrips) ∧ (∀ st rd rs1 rs2, (Instr.sra32 st rd rs1 rs2).RoundTrips) ∧
    (∀ st rd rs1 rs2, (Instr.add32z st rd rs1 rs2).RoundTrips) ∧ (∀ st rd rs1 rs2, (Instr.sub32z st rd rs1 rs2).RoundTrips) ∧
    (∀ st rd rs1 rs2, (Instr.sll32z st rd rs1 rs2).RoundTrips) ∧ (∀ st rd rs1 rs2, (Instr.srl32z st rd rs1 rs2).RoundTrips) ∧
    (∀ st rd rs1 rs2, (Instr.sra32z st rd rs1 rs2).RoundTrips) ∧ (∀ st rd rs1 rs2, (Instr.mul st rd rs1 rs2).RoundTrips) ∧
    (∀ st rd rs1 rs2, (Instr.mulh st rd rs1 rs2).RoundTrips) ∧ (∀ st rd rs1 rs2, (Instr.mulhu st rd rs1 rs2).RoundTrips) ∧
    (∀ st rd rs1 rs2, (Instr.div st rd rs1 rs2).RoundTrips) ∧ (∀ st rd rs1 rs2, (Instr.divu st rd rs1 rs2).RoundTrips) ∧
    (∀ st rd rs1 rs2, (Instr.rem st rd rs1 rs2).RoundTrips) ∧ (∀ st rd rs1 rs2, (Instr.remu st rd rs1 rs2).RoundTrips) ∧
    (∀ st rd rs1 lo len1, (Instr.bext st rd rs1 lo len1).RoundTrips) ∧
    (∀ st rd rs1 lo len1, (Instr.bins st rd rs1 lo len1).RoundTrips) := by
  and_intros <;> intros <;> refine roundTrips_of_pack rfl (by simp only [pack]; omega) fun wf => ?_
  all_goals
    simp only [Instr.wellFormed] at wf
    simp (decide := true) (maxDischargeDepth := 8) only [wf, packed_reads, Nat.zero_or, Nat.or_zero, Fin.ofNat_val_eq_self,
      decodeWord_of_op, form, reduceIte, decodeAlu, decodeAlu32, decodeMulDiv, decodeBits]

/-- OP 0x05 to 0x0E: integer operations with an immediate. -/
theorem roundTrips_immediate :
    (∀ st rd rs1 imm, (Instr.addi st rd rs1 imm).RoundTrips) ∧ (∀ st rd rs1 imm, (Instr.andi st rd rs1 imm).RoundTrips) ∧
    (∀ st rd rs1 imm, (Instr.ori st rd rs1 imm).RoundTrips) ∧ (∀ st rd rs1 imm, (Instr.xori st rd rs1 imm).RoundTrips) ∧
    (∀ st rd rs1 sh, (Instr.slli st rd rs1 sh).RoundTrips) ∧ (∀ st rd rs1 sh, (Instr.srli st rd rs1 sh).RoundTrips) ∧
    (∀ st rd rs1 sh, (Instr.srai st rd rs1 sh).RoundTrips) ∧ (∀ st rd rs1 imm, (Instr.clti st rd rs1 imm).RoundTrips) ∧
    (∀ st rd rs1 imm, (Instr.cltiu st rd rs1 imm).RoundTrips) ∧ (∀ st rd rs1 imm, (Instr.addi32 st rd rs1 imm).RoundTrips) ∧
    (∀ st rd imm, (Instr.immhi st rd imm).RoundTrips) ∧ (∀ st rd imm, (Instr.pcofs st rd imm).RoundTrips) := by
  and_intros <;> intros <;> refine roundTrips_of_pack rfl (by simp only [pack]; omega) fun wf => ?_
  all_goals
    simp only [Instr.wellFormed] at wf
    simp (decide := true) (maxDischargeDepth := 8) only [packed_reads, Nat.zero_or, Nat.or_zero, Fin.ofNat_val_eq_self,
      decodeWord_of_op, form, reduceIte, decodeOpAddi, decodeOpAndi, decodeOpOri, decodeOpXori, decodeShiftImm, decodeOpClti,
      decodeOpCltiu, decodeOpAddi32, decodeOpImmhi, decodeOpPcofs]

/-- OP 0x0F: FP32 operations. -/
theorem roundTrips_float :
    (∀ st rd rs1 rs2, (Instr.fadd st rd rs1 rs2).RoundTrips) ∧ (∀ st rd rs1 rs2, (Instr.fsub st rd rs1 rs2).RoundTrips) ∧
    (∀ st rd rs1 rs2, (Instr.fmul st rd rs1 rs2).RoundTrips) ∧ (∀ st rd rs1 rs2, (Instr.fmin st rd rs1 rs2).RoundTrips) ∧
    (∀ st rd rs1 rs2, (Instr.fmax st rd rs1 rs2).RoundTrips) ∧ (∀ st rd rs1 rs2, (Instr.feq st rd rs1 rs2).RoundTrips) ∧
    (∀ st rd rs1 rs2, (Instr.flt st rd rs1 rs2).RoundTrips) ∧ (∀ st rd rs1 rs2, (Instr.fle st rd rs1 rs2).RoundTrips) ∧
    (∀ st rd rs1, (Instr.fclass st rd rs1).RoundTrips) ∧ (∀ st rd rs1 rs2, (Instr.fsign st rd rs1 rs2).RoundTrips) ∧
    (∀ st rd rs1 rs2, (Instr.fdiv st rd rs1 rs2).RoundTrips) ∧ (∀ st rd rs1, (Instr.fsqrt st rd rs1).RoundTrips) ∧
    (∀ st rd rs1, (Instr.fabs st rd rs1).RoundTrips) ∧ (∀ st rd rs1, (Instr.fneg st rd rs1).RoundTrips) ∧
    (∀ st rd rs1 k, (Instr.fcvt st rd rs1 k).RoundTrips) ∧ (∀ st rd rs1 rs2 rs3, (Instr.fmadd st rd rs1 rs2 rs3).RoundTrips) := by
  and_intros <;> intros <;> refine roundTrips_of_pack rfl (by simp only [pack]; omega) fun wf => ?_
  all_goals
    simp only [Instr.wellFormed] at wf
    simp (decide := true) (maxDischargeDepth := 8) only [wf, packed_reads, Nat.zero_or, Nat.or_zero, Fin.ofNat_val_eq_self,
      decodeWord_of_op, form, reduceIte, decodeFp32]

/-- OP 0x10 to 0x17: branches and jumps; OP 0x18 to 0x24: loads and stores. -/
theorem roundTrips_control :
    (∀ st rs1 rs2 off, (Instr.beq st rs1 rs2 off).RoundTrips) ∧ (∀ st rs1 rs2 off, (Instr.bne st rs1 rs2 off).RoundTrips) ∧
    (∀ st rs1 rs2 off, (Instr.blt st rs1 rs2 off).RoundTrips) ∧ (∀ st rs1 rs2 off, (Instr.bge st rs1 rs2 off).RoundTrips) ∧
    (∀ st rs1 rs2 off, (Instr.bltu st rs1 rs2 off).RoundTrips) ∧ (∀ st rs1 rs2 off, (Instr.bgeu st rs1 rs2 off).RoundTrips) ∧
    (∀ st rd off, (Instr.jal st rd off).RoundTrips) ∧ (∀ st rd rs1 imm, (Instr.jalr st rd rs1 imm).RoundTrips) ∧
    (∀ st rd rs1 imm, (Instr.lb st rd rs1 imm).RoundTrips) ∧ (∀ st rd rs1 imm, (Instr.lh st rd rs1 imm).RoundTrips) ∧
    (∀ st rd rs1 imm, (Instr.lw st rd rs1 imm).RoundTrips) ∧ (∀ st rd rs1 imm, (Instr.ld st rd rs1 imm).RoundTrips) ∧
    (∀ st rd rs1 imm, (Instr.lbu st rd rs1 imm).RoundTrips) ∧ (∀ st rd rs1 imm, (Instr.lhu st rd rs1 imm).RoundTrips) ∧
    (∀ st rd rs1 imm, (Instr.lwu st rd rs1 imm).RoundTrips) ∧
    (∀ st rd rs1 ord scope uns size, (Instr.ldx st rd rs1 ord scope uns size).RoundTrips) ∧
    (∀ st rs1 rs2 imm, (Instr.sb st rs1 rs2 imm).RoundTrips) ∧ (∀ st rs1 rs2 imm, (Instr.sh st rs1 rs2 imm).RoundTrips) ∧
    (∀ st rs1 rs2 imm, (Instr.sw st rs1 rs2 imm).RoundTrips) ∧ (∀ st rs1 rs2 imm, (Instr.sd st rs1 rs2 imm).RoundTrips) ∧
    (∀ st rs1 rs2 ord scope size, (Instr.stx st rs1 rs2 ord scope size).RoundTrips) := by
  and_intros <;> intros <;> refine roundTrips_of_pack rfl (by simp only [pack]; omega) fun wf => ?_
  all_goals
    simp only [Instr.wellFormed] at wf
    simp (decide := true) (maxDischargeDepth := 8) only [wf, packed_reads, Nat.zero_or, Nat.or_zero, Fin.ofNat_val_eq_self,
      decodeWord_of_op, form, reduceIte, decodeOpBeq, decodeOpBne, decodeOpBlt, decodeOpBge, decodeOpBltu, decodeOpBgeu,
      decodeOpJal, decodeOpJalr, decodeOpLb, decodeOpLh, decodeOpLw, decodeOpLd, decodeOpLbu, decodeOpLhu, decodeOpLwu, decodeLdx,
      decodeOpSb, decodeOpSh, decodeOpSw, decodeOpSd, decodeStx]

/-- OP 0x25 to 0x27: atomics. -/
theorem roundTrips_atomic :
    (∀ st rd rs1 rs2 ord, (Instr.amoadd st rd rs1 rs2 ord).RoundTrips) ∧
    (∀ st rd rs1 rs2 ord, (Instr.amoaddw st rd rs1 rs2 ord).RoundTrips) ∧
    (∀ st rd rs1 rs2 ord, (Instr.amoand st rd rs1 rs2 ord).RoundTrips) ∧
    (∀ st rd rs1 rs2 ord, (Instr.amoandw st rd rs1 rs2 ord).RoundTrips) ∧
    (∀ st rd rs1 rs2 ord, (Instr.amoor st rd rs1 rs2 ord).RoundTrips) ∧
    (∀ st rd rs1 rs2 ord, (Instr.amoorw st rd rs1 rs2 ord).RoundTrips) ∧
    (∀ st rd rs1 rs2 ord, (Instr.amoxor st rd rs1 rs2 ord).RoundTrips) ∧
    (∀ st rd rs1 rs2 ord, (Instr.amoxorw st rd rs1 rs2 ord).RoundTrips) ∧
    (∀ st rd rs1 rs2 ord, (Instr.amomin st rd rs1 rs2 ord).RoundTrips) ∧
    (∀ st rd rs1 rs2 ord, (Instr.amominw st rd rs1 rs2 ord).RoundTrips) ∧
    (∀ st rd rs1 rs2 ord, (Instr.amomax st rd rs1 rs2 ord).RoundTrips) ∧
    (∀ st rd rs1 rs2 ord, (Instr.amomaxw st rd rs1 rs2 ord).RoundTrips) ∧
    (∀ st rd rs1 rs2 ord, (Instr.amominu st rd rs1 rs2 ord).RoundTrips) ∧
    (∀ st rd rs1 rs2 ord, (Instr.amominuw st rd rs1 rs2 ord).RoundTrips) ∧
    (∀ st rd rs1 rs2 ord, (Instr.amomaxu st rd rs1 rs2 ord).RoundTrips) ∧
    (∀ st rd rs1 rs2 ord, (Instr.amomaxuw st rd rs1 rs2 ord).RoundTrips) ∧
    (∀ st rd rs1 rs2 ord, (Instr.amoswap st rd rs1 rs2 ord).RoundTrips) ∧
    (∀ st rd rs1 rs2 ord, (Instr.amoswapw st rd rs1 rs2 ord).RoundTrips) ∧
    (∀ st rd rs1 rs2 ord, (Instr.amofadd st rd rs1 rs2 ord).RoundTrips) ∧
    (∀ st rd rs1 rs2 ord rs3, (Instr.cas st rd rs1 rs2 ord rs3).RoundTrips) ∧
    (∀ st ord rs1 rs2 rop fcode, (Instr.red st ord rs1 rs2 rop fcode).RoundTrips) := by
  and_intros <;> intros <;> refine roundTrips_of_pack rfl (by simp only [pack]; omega) fun wf => ?_
  all_goals
    simp only [Instr.wellFormed] at wf
    simp (decide := true) (maxDischargeDepth := 8) only [wf, packed_reads, Nat.zero_or, Nat.or_zero, Fin.ofNat_val_eq_self,
      decodeWord_of_op, form, reduceIte, decodeAtomic, decodeCas, decodeRed]

/-- OP 0x28 to 0x2C: fences, futures, tasks, groups and bounds. -/
theorem roundTrips_sync :
    (∀ st rel acq scope, (Instr.fence st rel acq scope).RoundTrips) ∧ (∀ st rs1 rs2, (Instr.cln st rs1 rs2).RoundTrips) ∧
    (∀ st rs1 rs2, (Instr.inv st rs1 rs2).RoundTrips) ∧ (∀ st rd rs1 rs2 scope, (Instr.waita st rd rs1 rs2 scope).RoundTrips) ∧
    (∀ st rd rs1 ord, (Instr.ldf st rd rs1 ord).RoundTrips) ∧ (∀ st rd rs1 rs2 ord, (Instr.stf st rd rs1 rs2 ord).RoundTrips) ∧
    (∀ st rs1 rs2, (Instr.spawn st rs1 rs2).RoundTrips) ∧ (∀ st, (Instr.endTask st).RoundTrips) ∧
    (∀ st rd rs1 rs2, (Instr.park st rd rs1 rs2).RoundTrips) ∧ (∀ st, (Instr.yield st).RoundTrips) ∧
    (∀ st rd rs1 rs2, (Instr.qput st rd rs1 rs2).RoundTrips) ∧ (∀ st rd rs1, (Instr.cancel st rd rs1).RoundTrips) ∧
    (∀ st rd rs1, (Instr.join st rd rs1).RoundTrips) ∧ (∀ st rd rs1, (Instr.leave st rd rs1).RoundTrips) ∧
    (∀ st rd rs1 rs2, (Instr.bari st rd rs1 rs2).RoundTrips) ∧ (∀ st rd rs1 scope, (Instr.barv st rd rs1 scope).RoundTrips) ∧
    (∀ st rd rs1 rs2, (Instr.barw st rd rs1 rs2).RoundTrips) ∧ (∀ st rd rs1 rs2, (Instr.spawnb st rd rs1 rs2).RoundTrips) ∧
    (∀ st rd rs1 inc, (Instr.setbnd st rd rs1 inc).RoundTrips) ∧ (∀ st, (Instr.killpt st).RoundTrips) ∧
    (∀ st rd rs1 inc, (Instr.improve st rd rs1 inc).RoundTrips) ∧ (∀ st rd inc acq hub, (Instr.rdinc st rd inc acq hub).RoundTrips) ∧
    (∀ st rd rs1 rs2, (Instr.incset st rd rs1 rs2).RoundTrips) := by
  and_intros <;> intros <;> refine roundTrips_of_pack rfl (by simp only [pack]; omega) fun wf => ?_
  all_goals
    simp only [Instr.wellFormed] at wf
    simp (decide := true) (maxDischargeDepth := 8) only [wf, packed_reads, Nat.zero_or, Nat.or_zero, Fin.ofNat_val_eq_self,
      decodeWord_of_op, form, reduceIte, decodeFence, decodeFuture, decodeTask, decodeGroup, decodeBound]

/-- OP 0x2D to 0x2F: hires and copies. -/
theorem roundTrips_engine :
    (∀ st rd rs1 rs2, (Instr.hire st rd rs1 rs2).RoundTrips) ∧ (∀ st rs1 hg, (Instr.hgw st rs1 hg).RoundTrips) ∧
    (∀ st rd hg, (Instr.hgr st rd hg).RoundTrips) ∧ (∀ st rd rs1 e, (Instr.hwait st rd rs1 e).RoundTrips) ∧
    (∀ st rd rs1, (Instr.hstat st rd rs1).RoundTrips) ∧ (∀ st rd rs1 rs2, (Instr.bind st rd rs1 rs2).RoundTrips) ∧
    (∀ st rd rs1 rs2, (Instr.unbind st rd rs1 rs2).RoundTrips) ∧ (∀ st rs1 rs2, (Instr.burst st rs1 rs2).RoundTrips) ∧
    (∀ st rd rs1 e, (Instr.cpwait st rd rs1 e).RoundTrips) ∧ (∀ st rd rs1, (Instr.cpst st rd rs1).RoundTrips) ∧
    (∀ st rd rs1, (Instr.ringsub st rd rs1).RoundTrips) ∧ (∀ st rd rs1, (Instr.ringstop st rd rs1).RoundTrips) ∧
    (∀ st rd rs1 rs2, (Instr.mrowCopy st rd rs1 rs2).RoundTrips) ∧ (∀ st rd rs1, (Instr.mrowZero st rd rs1).RoundTrips) ∧
    (∀ st rd rs1 rs2, (Instr.lzput st rd rs1 rs2).RoundTrips) ∧ (∀ st rd rs1, (Instr.coll st rd rs1).RoundTrips) := by
  and_intros <;> intros <;> refine roundTrips_of_pack rfl (by simp only [pack]; omega) fun wf => ?_
  all_goals
    simp only [Instr.wellFormed] at wf
    simp (decide := true) (maxDischargeDepth := 8) only [packed_reads, Nat.zero_or, Nat.or_zero, Fin.ofNat_val_eq_self,
      decodeWord_of_op, form, reduceIte, decodeHire, decodeHirex, decodeCopyx]

/-- OP 0x30, 0x31: claims and vector memory. -/
theorem roundTrips_vectorMemory :
    (∀ st lmax lmin xd, (Instr.vclaimTry st lmax lmin xd).RoundTrips) ∧
    (∀ st lmax lmin xd, (Instr.vclaimWait st lmax lmin xd).RoundTrips) ∧ (∀ st lmax lmin xd, (Instr.vren st lmax lmin xd).RoundTrips) ∧
    (∀ st, (Instr.vrel st).RoundTrips) ∧ (∀ st v xs1 mk sz, (Instr.vld st v xs1 mk sz).RoundTrips) ∧
    (∀ st v xs1 xs2 mk sz, (Instr.vlds st v xs1 xs2 mk sz).RoundTrips) ∧
    (∀ st v xs1 vi mk sz, (Instr.vldx st v xs1 vi mk sz).RoundTrips) ∧ (∀ st v xs1 mk sz, (Instr.vst st v xs1 mk sz).RoundTrips) ∧
    (∀ st v xs1 xs2 mk sz, (Instr.vsts st v xs1 xs2 mk sz).RoundTrips) ∧
    (∀ st v xs1 vi mk sz, (Instr.vstx st v xs1 vi mk sz).RoundTrips) := by
  and_intros <;> intros <;> refine roundTrips_of_pack rfl (by simp only [pack]; omega) fun wf => ?_
  all_goals
    simp only [Instr.wellFormed] at wf
    simp (decide := true) (maxDischargeDepth := 8) only [wf, packed_reads, Nat.zero_or, Nat.or_zero, Fin.ofNat_val_eq_self,
      decodeWord_of_op, form, reduceIte, decodeVctl, decodeVmem]

/-- OP 0x32: integer lanes. -/
theorem roundTrips_vectorInteger :
    (∀ st vd vs1 vs2 mk, (Instr.vaddVv st vd vs1 vs2 mk).RoundTrips) ∧ (∀ st vd vs1 xs mk, (Instr.vaddVx st vd vs1 xs mk).RoundTrips) ∧
    (∀ st vd vs1 vs2 mk, (Instr.vsubVv st vd vs1 vs2 mk).RoundTrips) ∧ (∀ st vd vs1 xs mk, (Instr.vsubVx st vd vs1 xs mk).RoundTrips) ∧
    (∀ st vd vs1 vs2 mk, (Instr.vmulVv st vd vs1 vs2 mk).RoundTrips) ∧ (∀ st vd vs1 xs mk, (Instr.vmulVx st vd vs1 xs mk).RoundTrips) ∧
    (∀ st vd vs1 vs2 mk, (Instr.vmulhVv st vd vs1 vs2 mk).RoundTrips) ∧ (∀ st vd vs1 xs mk, (Instr.vmulhVx st vd vs1 xs mk).RoundTrips) ∧
    (∀ st vd vs1 vs2 mk, (Instr.vminVv st vd vs1 vs2 mk).RoundTrips) ∧ (∀ st vd vs1 xs mk, (Instr.vminVx st vd vs1 xs mk).RoundTrips) ∧
    (∀ st vd vs1 vs2 mk, (Instr.vmaxVv st vd vs1 vs2 mk).RoundTrips) ∧ (∀ st vd vs1 xs mk, (Instr.vmaxVx st vd vs1 xs mk).RoundTrips) ∧
    (∀ st vd vs1 vs2 mk, (Instr.vminuVv st vd vs1 vs2 mk).RoundTrips) ∧ (∀ st vd vs1 xs mk, (Instr.vminuVx st vd vs1 xs mk).RoundTrips) ∧
    (∀ st vd vs1 vs2 mk, (Instr.vmaxuVv st vd vs1 vs2 mk).RoundTrips) ∧ (∀ st vd vs1 xs mk, (Instr.vmaxuVx st vd vs1 xs mk).RoundTrips) ∧
    (∀ st vd vs1 vs2 mk, (Instr.vandVv st vd vs1 vs2 mk).RoundTrips) ∧ (∀ st vd vs1 xs mk, (Instr.vandVx st vd vs1 xs mk).RoundTrips) ∧
    (∀ st vd vs1 vs2 mk, (Instr.vorVv st vd vs1 vs2 mk).RoundTrips) ∧ (∀ st vd vs1 xs mk, (Instr.vorVx st vd vs1 xs mk).RoundTrips) ∧
    (∀ st vd vs1 vs2 mk, (Instr.vxorVv st vd vs1 vs2 mk).RoundTrips) ∧ (∀ st vd vs1 xs mk, (Instr.vxorVx st vd vs1 xs mk).RoundTrips) ∧
    (∀ st vd vs1 vs2 mk, (Instr.vsllVv st vd vs1 vs2 mk).RoundTrips) ∧ (∀ st vd vs1 xs mk, (Instr.vsllVx st vd vs1 xs mk).RoundTrips) ∧
    (∀ st vd vs1 vs2 mk, (Instr.vsrlVv st vd vs1 vs2 mk).RoundTrips) ∧ (∀ st vd vs1 xs mk, (Instr.vsrlVx st vd vs1 xs mk).RoundTrips) ∧
    (∀ st vd vs1 vs2 mk, (Instr.vsraVv st vd vs1 vs2 mk).RoundTrips) ∧
    (∀ st vd vs1 xs mk, (Instr.vsraVx st vd vs1 xs mk).RoundTrips) := by
  and_intros <;> intros <;> refine roundTrips_of_pack rfl (by simp only [pack]; omega) fun wf => ?_
  all_goals
    simp only [Instr.wellFormed] at wf
    simp (decide := true) (maxDischargeDepth := 8) only [packed_reads, Nat.zero_or, Nat.or_zero, Fin.ofNat_val_eq_self,
      decodeWord_of_op, form, reduceIte, decodeVint]

/-- OP 0x33: floating-point lanes. -/
theorem roundTrips_vectorFloat :
    (∀ st vd vs1 vs2 mk, (Instr.vfaddVv st vd vs1 vs2 mk).RoundTrips) ∧ (∀ st vd vs1 xs mk, (Instr.vfaddVx st vd vs1 xs mk).RoundTrips) ∧
    (∀ st vd vs1 vs2 mk, (Instr.vfsubVv st vd vs1 vs2 mk).RoundTrips) ∧ (∀ st vd vs1 xs mk, (Instr.vfsubVx st vd vs1 xs mk).RoundTrips) ∧
    (∀ st vd vs1 vs2 mk, (Instr.vfmulVv st vd vs1 vs2 mk).RoundTrips) ∧ (∀ st vd vs1 xs mk, (Instr.vfmulVx st vd vs1 xs mk).RoundTrips) ∧
    (∀ st vd vs1 vs2 mk, (Instr.vfmaVv st vd vs1 vs2 mk).RoundTrips) ∧ (∀ st vd vs1 xs mk, (Instr.vfmaVx st vd vs1 xs mk).RoundTrips) ∧
    (∀ st vd vs1 vs2 mk, (Instr.vfnmaVv st vd vs1 vs2 mk).RoundTrips) ∧ (∀ st vd vs1 xs mk, (Instr.vfnmaVx st vd vs1 xs mk).RoundTrips) ∧
    (∀ st vd vs1 vs2 mk, (Instr.vfminVv st vd vs1 vs2 mk).RoundTrips) ∧ (∀ st vd vs1 xs mk, (Instr.vfminVx st vd vs1 xs mk).RoundTrips) ∧
    (∀ st vd vs1 vs2 mk, (Instr.vfmaxVv st vd vs1 vs2 mk).RoundTrips) ∧
    (∀ st vd vs1 xs mk, (Instr.vfmaxVx st vd vs1 xs mk).RoundTrips) := by
  and_intros <;> intros <;> refine roundTrips_of_pack rfl (by simp only [pack]; omega) fun wf => ?_
  all_goals
    simp only [Instr.wellFormed] at wf
    simp (decide := true) (maxDischargeDepth := 8) only [packed_reads, Nat.zero_or, Nat.or_zero, Fin.ofNat_val_eq_self,
      decodeWord_of_op, form, reduceIte, decodeVfp]

/-- OP 0x34 to 0x37: compares, selections, moves, special functions, conversions and the PFX state. -/
theorem roundTrips_vectorOther :
    (∀ st kd vs1 vs2 mk cc, (Instr.vcmpVv st kd vs1 vs2 mk cc).RoundTrips) ∧
    (∀ st kd vs1 xs mk cc, (Instr.vcmpVx st kd vs1 xs mk cc).RoundTrips) ∧
    (∀ st vd vs1 vs2 mk, (Instr.vselVv st vd vs1 vs2 mk).RoundTrips) ∧ (∀ st vd vs1 xs mk, (Instr.vselVx st vd vs1 xs mk).RoundTrips) ∧
    (∀ st kd ka kb, (Instr.vmand st kd ka kb).RoundTrips) ∧ (∀ st kd ka kb, (Instr.vmor st kd ka kb).RoundTrips) ∧
    (∀ st vd vs1 vs2 mk, (Instr.vperm st vd vs1 vs2 mk).RoundTrips) ∧ (∀ st vd vs1 xs mk, (Instr.vslide st vd vs1 xs mk).RoundTrips) ∧
    (∀ st vd xs mk, (Instr.vbcast st vd xs mk).RoundTrips) ∧ (∀ st vd xs, (Instr.vmvxv st vd xs).RoundTrips) ∧
    (∀ st vs1 xd, (Instr.vmvvx st vs1 xd).RoundTrips) ∧ (∀ st vd vs1 mk rop, (Instr.vred st vd vs1 mk rop).RoundTrips) ∧
    (∀ st vd vs1 mk, (Instr.vexp2 st vd vs1 mk).RoundTrips) ∧ (∀ st vd vs1 mk, (Instr.vlog2 st vd vs1 mk).RoundTrips) ∧
    (∀ st vd vs1 mk, (Instr.vrcp st vd vs1 mk).RoundTrips) ∧ (∀ st vd vs1 mk, (Instr.vrsq st vd vs1 mk).RoundTrips) ∧
    (∀ st vd vs1 mk, (Instr.vsqrt st vd vs1 mk).RoundTrips) ∧
    (∀ st vd vs1 xs mk src dst, (Instr.vcvt st vd vs1 xs mk src dst).RoundTrips) ∧
    (∀ fa fb fd sc rm sat amax, (Instr.fmt fa fb fd sc rm sat amax).RoundTrips) := by
  and_intros <;> intros <;> refine roundTrips_of_pack rfl (by simp only [pack]; omega) fun wf => ?_
  all_goals
    simp only [Instr.wellFormed] at wf
    simp (decide := true) (maxDischargeDepth := 8) only [wf, packed_reads, Nat.zero_or, Nat.or_zero, Fin.ofNat_val_eq_self,
      decodeWord_of_op, form, reduceIte, decodeVmisc, decodeVsfu, decodeVcvt, decodePrefix]

/-- OP 0x38 to 0x3C: window accumulators, keys, video, special registers and the system. -/
theorem roundTrips_rest :
    (∀ st xs wa, (Instr.waalloc st xs wa).RoundTrips) ∧ (∀ st wa, (Instr.wafree st wa).RoundTrips) ∧
    (∀ st xs wa, (Instr.waset st xs wa).RoundTrips) ∧ (∀ st vs1 w, (Instr.wapush st vs1 w).RoundTrips) ∧
    (∀ st vd w, (Instr.waread st vd w).RoundTrips) ∧ (∀ st wa, (Instr.waclr st wa).RoundTrips) ∧
    (∀ st rd rs1 rs2, (Instr.kvhome st rd rs1 rs2).RoundTrips) ∧ (∀ st rd rs1 rs2, (Instr.stub st rd rs1 rs2).RoundTrips) ∧
    (∀ st rs1 rs2, (Instr.migrate st rs1 rs2).RoundTrips) ∧ (∀ st vd vs1 mk, (Instr.vsgn st vd vs1 mk).RoundTrips) ∧
    (∀ st kd vs1 vs2 mk r, (Instr.vham st kd vs1 vs2 mk r).RoundTrips) ∧ (∀ st rd rs1 rs2, (Instr.vdec st rd rs1 rs2).RoundTrips) ∧
    (∀ st rd rs1 e, (Instr.vdstat st rd rs1 e).RoundTrips) ∧ (∀ st rd num, (Instr.csrr st rd num).RoundTrips) ∧
    (∀ st rd rs1 num, (Instr.csrw st rd rs1 num).RoundTrips) ∧ (∀ st rd rs1 num, (Instr.csrs st rd rs1 num).RoundTrips) ∧
    (∀ st rd rs1 num, (Instr.csrc st rd rs1 num).RoundTrips) ∧ (∀ st code, (Instr.trap st code).RoundTrips) ∧
    (∀ st, (Instr.eret st).RoundTrips) ∧ (∀ st code, (Instr.brk st code).RoundTrips) ∧ (∀ st rs1, (Instr.ifence st rs1).RoundTrips) ∧
    (∀ st rd rs1, (Instr.ovld st rd rs1).RoundTrips) ∧ (∀ st rd rs1, (Instr.lwait st rd rs1).RoundTrips) ∧
    (∀ st rd rs1 rs2, (Instr.resume st rd rs1 rs2).RoundTrips) ∧ (∀ st rd rs1 rs2, (Instr.tkill st rd rs1 rs2).RoundTrips) := by
  and_intros <;> intros <;> refine roundTrips_of_pack rfl (by simp only [pack]; omega) fun wf => ?_
  all_goals
    simp only [Instr.wellFormed] at wf
    simp (decide := true) (maxDischargeDepth := 8) only [wf, packed_reads, Nat.zero_or, Nat.or_zero, Fin.ofNat_val_eq_self,
      decodeWord_of_op, form, reduceIte, decodeWacc, decodeKv, decodeVideo, decodeCsr, decodeSys]

/-- Every instruction, by its constructor: a step has no word, and the groups above are the others. -/
theorem roundTrips (i : Instr) : i.RoundTrips := by
  by_cases step : encode i = none
  · exact roundTrips_of_none step
  · cases i <;>
      simp only [encode, not_true_eq_false, roundTrips_scalar, roundTrips_immediate, roundTrips_float, roundTrips_control,
        roundTrips_atomic, roundTrips_sync, roundTrips_engine, roundTrips_vectorMemory, roundTrips_vectorInteger, roundTrips_vectorFloat,
        roundTrips_vectorOther, roundTrips_rest] at step ⊢

/-- Settles O59: `packed_reads` reads each field back, group by group. -/
theorem decodeEncode : Obligations.DecodeEncode := by
  unfold Obligations.DecodeEncode
  exact fun i w wf word => roundTrips i wf w word

/-- Settles O58, by running the decoder on the words. -/
theorem decodeWords : Obligations.DecodeWords := by
  unfold Obligations.DecodeWords
  decide

end Sys2Proof
end

section
/-!
PROOF. The traps of an access (O7): every load, store, atomic and `red` makes the checks of `State.reach` first, before the gate of a
release, and traps with what they find.
-/
namespace Sys2Proof.Machine

/-! ### The checks of an access, one by one -/

theorem State.reach_misaligned {s : State} {va n : Nat} {w : Bool} (h : va % n ≠ 0) : s.reach va n w = .trap 0x04 0 := by
  simp only [State.reach, h, ne_eq, not_false_eq_true, if_true]

theorem State.reach_own_outside {s : State} {va n off : Nat} {w : Bool} (ha : va % n = 0) (hp : placeOf va = .own off)
    (ho : s.here.spsize ≤ off) : s.reach va n w = .trap 0x14 0 := by
  simp only [State.reach, ha, hp, ho, ne_eq, not_true_eq_false, if_false, if_true]

theorem State.reach_other_denied {s : State} {va n core off : Nat} {w : Bool} (ha : va % n = 0) (hp : placeOf va = .other core off)
    (hm : ¬(core ≤ 1535 ∧ s.inMask s.cur core = true)) : s.reach va n w = .trap 0x11 0 := by
  simp only [State.reach, ha, hp, Bool.and_eq_true, decide_eq_true_eq, hm, ne_eq, not_true_eq_false, if_false]

theorem State.reach_not_canonical {s : State} {va n : Nat} {w : Bool} (ha : va % n = 0) (hp : placeOf va = .global)
    (hc : canonical va = false) : s.reach va n w = .trap 0x11 (6 + if w then 2 ^ 15 else 0) := by
  simp only [State.reach, ha, hp, hc, ne_eq, not_true_eq_false, if_false, Bool.false_eq_true]
  rfl

/-- The checks name no poison, which is what lets their traps come before the gate of a release. -/
theorem State.reach_trap_cause {s : State} {va n c k : Nat} {w : Bool} (h : s.reach va n w = .trap c k) : c ≠ 0x13 := by
  unfold State.reach at h
  split at h
  · cases h; decide
  · split at h <;> (try split at h) <;> cases h <;> decide

/-! ### What an operation does with a failed check -/

section
variable {s : State} {n c k : Nat} {va : W64}

theorem State.load_trap (h : s.reach va.toNat n false = .trap c k) (rd : Nat) (signed : Bool) (sc : Scope) (acq : Bool) :
    s.load rd n signed sc acq va = .trap c k va := by
  simp only [State.load, h]

theorem State.store_trap (h : s.reach va.toNat n true = .trap c k) (sc : Scope) (v : W64) : s.store n sc va v = .trap c k va := by
  simp only [State.store, h]

theorem State.rmw_trap (h : s.reach va.toNat n true = .trap c k) (rd : Nat) (signed : Bool) (op : HomeOp) (ord : Nat) :
    s.rmw rd n signed op ord va = .trap c k va := by
  simp only [State.rmw, h]

theorem State.red_trap {f : Nat} (h : s.reach va.toNat (Fp.fmtBits f / 8) true = .trap c k) (rop : Nat) (sc : Scope) (d : W64) :
    s.red rop f sc va d = .trap c k va := by
  simp only [State.red, h]

theorem Res.beforeGate_trap (h : c ≠ 0x13) : (Res.trap c k va).beforeGate = true := by
  simpa [Res.beforeGate] using h

theorem State.storeRel_trap (h : s.reach va.toNat n true = .trap c k) (sc : Scope) (v : W64) : s.storeRel n sc va v = .trap c k va := by
  simp only [State.storeRel, State.store_trap h, Res.beforeGate_trap (State.reach_trap_cause h), if_true]

theorem State.afterGate_trap (hc : c ≠ 0x13) {act : State → Res} (h : act s = .trap c k va) (sc : Option Scope) :
    s.afterGate sc act = .trap c k va := by
  cases sc <;> simp only [State.afterGate, h, Res.beforeGate_trap hc, if_true]

end

/-! ### The instructions -/

/-- An instruction whose operation traps takes that trap, the PFX state kept. -/
theorem State.traps_of_body {s : State} (hp : s.Plain) {i : Instr} {d : Desc} {body : State → Res} (he : exec i s = s.issueWith d body)
    (hd : d.Clear s) (hpool : d.pool = false) (ht : d.target = false) {c k : Nat} {fb : W64} (hb : body s = .trap c k fb) :
    s.Traps i false c k fb := by
  unfold State.Traps
  rw [he, State.issueWith_trap hp.toCalm (Or.inr hp.pp) hd hb hpool, ht]

/-- A store with a release is `stx`: a frame around the store behind its gate. -/
theorem State.storeRel_exec {s : State} {i : Instr} {f : StoreForm} (h : s.storeForm i = some f) (hr : f.rel = true) :
    ∃ (d : Desc) (body : State → Res), exec i s = s.issueWith d body ∧ body s = s.storeRel f.n f.scope f.va f.val ∧
      d.Clear s ∧ d.pool = false ∧ d.target = false := by
  unfold State.storeForm at h
  split at h <;> cases h
  case h_5 =>
    refine ⟨_, _, rfl, ?_, Desc.clear_plain .., rfl, rfl⟩
    dsimp only at hr ⊢
    rw [hr]
    rfl
  all_goals cases hr

/-- Every read-modify-write is a frame around the one shared request behind its gate. -/
theorem State.rmwGate_exec {s : State} {i : Instr} {f : RmwForm} (h : s.rmwForm i = some f) :
    ∃ (d : Desc) (body act : State → Res), exec i s = s.issueWith d body ∧ body s = s.afterGate (ordRelease f.ord) act ∧
      act s = s.rmw f.rd f.n f.signed f.op f.ord f.va ∧ d.Clear s ∧ d.pool = false ∧ d.target = false := by
  unfold State.rmwForm at h
  split at h <;> cases h
  all_goals exact ⟨_, _, _, rfl, rfl, rfl, Desc.clear_plain .., rfl, rfl⟩

section
variable {s : State} (hp : s.Plain) {i : Instr} {c k : Nat}
include hp

theorem State.loadForm_traps {f : LoadForm} (h : s.loadForm i = some f) (hr : s.reach f.va.toNat f.n false = .trap c k) :
    s.Traps i false c k f.va := by
  obtain ⟨d, body, he, hb, -, hd, hpool, ht⟩ := State.load_exec h
  exact State.traps_of_body hp he hd hpool ht (hb.trans (State.load_trap hr ..))

theorem State.storeForm_traps {f : StoreForm} (h : s.storeForm i = some f) (hr : s.reach f.va.toNat f.n true = .trap c k) :
    s.Traps i false c k f.va := by
  cases hrel : f.rel with
  | false =>
    obtain ⟨d, body, he, hb, -, hd, hpool, ht⟩ := State.store_exec h hrel
    exact State.traps_of_body hp he hd hpool ht (hb.trans (State.store_trap hr ..))
  | true =>
    obtain ⟨d, body, he, hb, hd, hpool, ht⟩ := State.storeRel_exec h hrel
    exact State.traps_of_body hp he hd hpool ht (hb.trans (State.storeRel_trap hr ..))

theorem State.rmwForm_traps {f : RmwForm} (h : s.rmwForm i = some f) (hr : s.reach f.va.toNat f.n true = .trap c k) :
    s.Traps i false c k f.va := by
  obtain ⟨d, body, act, he, hb, ha, hd, hpool, ht⟩ := State.rmwGate_exec h
  exact State.traps_of_body hp he hd hpool ht
    (hb.trans (State.afterGate_trap (State.reach_trap_cause hr) (ha.trans (State.rmw_trap hr ..)) _))

theorem State.red_traps (st ord : Fin 8) (rs1 rs2 : Fin 32) (rop f : Fin 16)
    (hr : s.reach (s.X rs1).toNat (Fp.fmtBits f.val / 8) true = .trap c k) : s.Traps (.red st ord rs1 rs2 rop f) false c k (s.X rs1) :=
  State.traps_of_body hp (exec_red ..) (Desc.clear_plain ..) rfl rfl
    (State.afterGate_trap (State.reach_trap_cause hr) (State.red_trap hr ..) _)

end

end Sys2Proof.Machine

namespace Sys2Proof
open Machine

/-- Settles O7: each of the four kinds of access takes the trap that `State.reach` finds, whatever its order and scope. -/
theorem accessTraps : Obligations.AccessTraps := by
  intro s hp i va n write hform
  have htraps : ∀ {c k : Nat}, s.reach va.toNat n write = .trap c k → s.Traps i false c k va := by
    intro c k hr
    obtain ⟨f, hf, rfl, rfl, rfl⟩ | ⟨f, hf, rfl, rfl, rfl⟩ | ⟨f, hf, rfl, rfl, rfl⟩ |
      ⟨st, ord, rs1, rs2, rop, f, rfl, rfl, rfl, rfl⟩ := hform
    · exact State.loadForm_traps hp hf hr
    · exact State.storeForm_traps hp hf hr
    · exact State.rmwForm_traps hp hf hr
    · exact State.red_traps hp st ord rs1 rs2 rop f hr
  exact ⟨fun ha => htraps (State.reach_misaligned ha), fun ha _ hw ho => htraps (State.reach_own_outside ha hw ho),
    fun ha _ _ hw hm => htraps (State.reach_other_denied ha hw hm), fun ha hw hc => htraps (State.reach_not_canonical ha hw hc)⟩

end Sys2Proof
end

section
/-!
SUPPORT. What a trap does: the words that it records, the context that it leaves, and what it leaves unchanged (R444 to R449).
-/
namespace Sys2Proof.Machine

/-! ### Writes of one context or one core -/

/-- A context after a write of one context of the module. -/
theorem State.ctx_setCtx_eq (s : State) (c k d j : Nat) (t : Ctx) :
    (s.setCtx c k t).ctx d j = if d = c ∧ j = k then t else s.ctx d j := by
  by_cases hd : d = c
  · subst hd
    simp only [State.ctx, State.setCtx, State.core_updCore, HomeCore.ctx, HomeCore.setCtx, Map.get_set, true_and]
  · simp only [State.ctx, State.setCtx, State.updCore, State.core_setCore_ne _ _ _ _ hd, hd, false_and, if_false]

theorem State.ctx_setCtx_ne (s : State) {c k d j : Nat} (t : Ctx) (h : ¬(d = c ∧ j = k)) : (s.setCtx c k t).ctx d j = s.ctx d j := by
  rw [State.ctx_setCtx_eq, if_neg h]

theorem State.core_updCore_eq (s : State) (c d : Nat) (f : HomeCore → HomeCore) :
    (s.updCore c f).core d = if d = c then f (s.core c) else s.core d := by
  by_cases h : d = c
  · subst h; rw [State.core_updCore, if_pos rfl]
  · rw [State.updCore, State.core_setCore_ne _ _ _ _ h, if_neg h]

/-- A change of a core that leaves its contexts leaves every context of the module. -/
theorem State.ctx_updCore (s : State) {c : Nat} {f : HomeCore → HomeCore} (h : (f (s.core c)).ctxs = (s.core c).ctxs) (d k : Nat) :
    (s.updCore c f).ctx d k = s.ctx d k := by
  unfold State.ctx HomeCore.ctx
  rw [State.core_updCore_eq]
  split
  · next e => rw [h, e]
  · rfl

theorem State.spad_updCore (s : State) {c : Nat} {f : HomeCore → HomeCore} (h : (f (s.core c)).spad = (s.core c).spad) (d : Nat) :
    ((s.updCore c f).core d).spad = (s.core d).spad := by
  rw [State.core_updCore_eq]
  split
  · next e => rw [h, e]
  · rfl

theorem State.spad_setCtx (s : State) (c k d : Nat) (t : Ctx) : ((s.setCtx c k t).core d).spad = (s.core d).spad :=
  State.spad_updCore s rfl d

theorem State.istore_setCtx (s : State) (c k d : Nat) (t : Ctx) : ((s.setCtx c k t).core d).istore = (s.core d).istore := by
  rw [State.setCtx, State.core_updCore_eq]
  split
  · next e => rw [e]; rfl
  · rfl

theorem State.ctx_slotLost (s : State) (c k : Nat) : s.slotLost.ctx c k = s.ctx c k := State.ctx_updCore s rfl c k

theorem State.cur_slotLost (s : State) : s.slotLost.cur = s.cur := s.ctx_slotLost s.curCore s.curCtx

theorem State.spad_slotLost (s : State) (c : Nat) : (s.slotLost.core c).spad = (s.core c).spad := State.spad_updCore s rfl c

/-! ### FAULTA and the route of a cause -/

theorem routeH_iff (cause info : Nat) : routeH cause info = true ↔ inTask cause info := by
  unfold routeH inTask
  split <;> simp_all

/-- FAULTA of causes, infos and offsets that fit their fields. -/
theorem faultaWord_toNat {cause info epc : Nat} (nest : Bool) (hc : cause < 2 ^ 8) (hi : info < 2 ^ 16) (he : epc < 2 ^ 16) :
    (faultaWord nest info epc cause).toNat = (if nest = true then 2 ^ 40 else 0) + info * 2 ^ 24 + epc * 2 ^ 8 + cause := by
  unfold faultaWord w64
  rw [BitVec.toNat_ofNat]
  split <;> omega

/-- The cause and the offset of FAULTA, of whatever is recorded. -/
theorem faultaWord_low (nest : Bool) (cause info epc : Nat) :
    (faultaWord nest info epc cause).toNat % 2 ^ 24 = epc % 2 ^ 16 * 2 ^ 8 + cause % 2 ^ 8 := by
  unfold faultaWord w64
  rw [BitVec.toNat_ofNat]
  split <;> omega

theorem faultaWord_cause {cause info epc : Nat} (nest : Bool) (hc : cause < 2 ^ 8) (hi : info < 2 ^ 16) (he : epc < 2 ^ 16) :
    (faultaWord nest info epc cause).toNat % 2 ^ 8 = cause := by
  rw [faultaWord_toNat nest hc hi he]
  split <;> omega

theorem faultaWord_epc {cause info epc : Nat} (nest : Bool) (hc : cause < 2 ^ 8) (hi : info < 2 ^ 16) (he : epc < 2 ^ 16) :
    (faultaWord nest info epc cause).toNat / 2 ^ 8 % 2 ^ 16 = epc := by
  rw [faultaWord_toNat nest hc hi he]
  split <;> omega

theorem faultaWord_info {cause info epc : Nat} (nest : Bool) (hc : cause < 2 ^ 8) (hi : info < 2 ^ 16) (he : epc < 2 ^ 16) :
    (faultaWord nest info epc cause).toNat / 2 ^ 24 % 2 ^ 16 = info := by
  rw [faultaWord_toNat nest hc hi he]
  split <;> omega

theorem faultaWord_nest {cause info epc : Nat} (nest : Bool) (hc : cause < 2 ^ 8) (hi : info < 2 ^ 16) (he : epc < 2 ^ 16) :
    (faultaWord nest info epc cause).toNat / 2 ^ 40 = if nest = true then 1 else 0 := by
  rw [faultaWord_toNat nest hc hi he]
  split <;> omega

/-! ### The context that a trap leaves -/

/-- Whether the task's own handler takes a cause (R446). -/
def Ctx.handles (t : Ctx) (cause info : Nat) : Bool := routeH cause info && t.tvec.getLsbD 16 && !t.th

theorem Ctx.handles_iff (t : Ctx) (cause info : Nat) :
    t.handles cause info = true ↔ inTask cause info ∧ t.tvec.getLsbD 16 = true ∧ t.th = false := by
  simp [Ctx.handles, routeH_iff, and_assoc]

/-- A context whose results are settled and whose causes are recorded. -/
def Ctx.recorded (t : Ctx) (cause info : Nat) (fb : W64) (epc : Nat) : Ctx :=
  { t.settle with faulta := faultaWord t.settle.th info epc cause, faultb := fb, readyAt := 0, hiring := none }

/-- A context that is parked faulted (R448). -/
def Ctx.faulted (t : Ctx) : Ctx := { t with phase := .faulted, wait := .none, waitFrom := none, fseq := (t.fseq + 1) % 2 ^ 16 }

/-- A context once its trap has been taken, at its handler or parked. -/
def Ctx.trapped (t : Ctx) (cause info : Nat) (fb : W64) (epc : Nat) : Ctx :=
  if t.handles cause info then (t.recorded cause info fb epc).enterHandler else (t.recorded cause info fb epc).faulted

/-- Settling leaves everything but registers and results. -/
theorem Ctx.settle_eq (t : Ctx) : t.settle = { t with x := t.settle.x, claim := t.settle.claim, pend := [], var := t.var } := by
  have hsame : t.SameBut (t.pend.foldl Ctx.commit t) := Ctx.sameBut_commits t.pend t
  have hvar : ∀ (l : List Pend) (u : Ctx), (l.foldl Ctx.commit u).var = u.var := by
    intro l
    induction l with
    | nil => intro u; rfl
    | cons p l ih =>
      intro u
      rw [List.foldl_cons, ih]
      unfold Ctx.commit
      split <;> simp
  calc t.settle = { t.pend.foldl Ctx.commit t with pend := [] } := rfl
    _ = _ := by rw [hsame, hvar]; rfl

section
variable (t : Ctx) (cause info : Nat) (fb : W64) (epc : Nat)

@[simp] theorem Ctx.settle_th : t.settle.th = t.th := by rw [Ctx.settle_eq]; rfl
@[simp] theorem Ctx.settle_tvec : t.settle.tvec = t.tvec := by rw [Ctx.settle_eq]
@[simp] theorem Ctx.settle_killed : t.settle.killed = t.killed := by rw [Ctx.settle_eq]
@[simp] theorem Ctx.settle_pend : t.settle.pend = [] := rfl

/-- What both ways of taking a trap do to the context. -/
theorem Ctx.trapped_recorded :
    (t.trapped cause info fb epc).faulta = faultaWord t.th info epc cause ∧ (t.trapped cause info fb epc).faultb = fb ∧
      (t.trapped cause info fb epc).x = t.settle.x ∧ (t.trapped cause info fb epc).claim = t.settle.claim ∧
      (t.trapped cause info fb epc).pend = [] ∧ (t.trapped cause info fb epc).pfx = t.pfx ∧ (t.trapped cause info fb epc).amax = t.amax := by
  have hpfx : t.settle.pfx = t.pfx := by rw [Ctx.settle_eq]
  have hamax : t.settle.amax = t.amax := by rw [Ctx.settle_eq]
  rw [← Ctx.settle_th]
  unfold Ctx.trapped
  split <;> exact ⟨rfl, rfl, rfl, rfl, rfl, hpfx, hamax⟩

theorem Ctx.trapped_faulta : (t.trapped cause info fb epc).faulta = faultaWord t.th info epc cause := (t.trapped_recorded ..).1

theorem Ctx.trapped_faultb : (t.trapped cause info fb epc).faultb = fb := (t.trapped_recorded ..).2.1

/-- The offset at which a handler is entered. -/
theorem handlerPc_toNat (v : W64) : (BitVec.ofNat 16 (bitsOf v.toNat 15 2 * 4)).toNat = v.toNat / 2 ^ 2 % 2 ^ 14 * 4 := by
  have hmod : v.toNat / 2 ^ 2 % 2 ^ (15 - 2 + 1) * 4 < 2 ^ 16 := by omega
  rw [BitVec.toNat_ofNat, bitsOf, Nat.mod_eq_of_lt hmod]

/-- Handler entry, in any context (R447). -/
theorem Ctx.enterHandler_enters (u : Ctx) :
    u.enterHandler.pc.toNat = u.tvec.toNat / 2 ^ 2 % 2 ^ 14 * 4 ∧ u.enterHandler.th = true ∧ u.enterHandler.pp = false ∧
      u.enterHandler.savedPP = u.pp ∧ u.enterHandler.savedPfx = u.pfx ∧ u.enterHandler.phase = .running := by
  have hstatus : u.enterHandler.status = setBit (setBit u.status 7 false) 14 true := rfl
  refine ⟨?_, ?_, ?_, rfl, rfl, rfl⟩
  · unfold Ctx.enterHandler
    exact handlerPc_toNat u.tvec
  · rw [Ctx.th, hstatus, getLsbD_setBit _ _ _ _ (by decide), if_pos rfl]
  · rw [Ctx.pp, hstatus, getLsbD_setBit _ _ _ _ (by decide), if_neg (by decide), getLsbD_setBit _ _ _ _ (by decide), if_pos rfl]

@[simp] theorem Ctx.recorded_tvec : (t.recorded cause info fb epc).tvec = t.tvec := by unfold Ctx.recorded; exact t.settle_tvec
@[simp] theorem Ctx.recorded_killed : (t.recorded cause info fb epc).killed = t.killed := by unfold Ctx.recorded; exact t.settle_killed
@[simp] theorem Ctx.recorded_pfx : (t.recorded cause info fb epc).pfx = t.pfx := by rw [Ctx.recorded, Ctx.settle_eq]
@[simp] theorem Ctx.recorded_status : (t.recorded cause info fb epc).status = t.status := by rw [Ctx.recorded, Ctx.settle_eq]
@[simp] theorem Ctx.recorded_pp : (t.recorded cause info fb epc).pp = t.pp := by rw [Ctx.pp, Ctx.recorded_status]; rfl
@[simp] theorem Ctx.recorded_th : (t.recorded cause info fb epc).th = t.th := by rw [Ctx.th, Ctx.recorded_status]; rfl

/-- A handler is entered at TVEC, PP and the PFX state saved (R447). -/
theorem Ctx.trapped_handled (h : t.handles cause info = true) :
    (t.trapped cause info fb epc).pc.toNat = t.tvec.toNat / 2 ^ 2 % 2 ^ 14 * 4 ∧ (t.trapped cause info fb epc).th = true ∧
      (t.trapped cause info fb epc).pp = false ∧ (t.trapped cause info fb epc).savedPP = t.pp ∧
      (t.trapped cause info fb epc).savedPfx = t.pfx ∧ (t.trapped cause info fb epc).phase = .running := by
  rw [Ctx.trapped, if_pos h, ← t.recorded_tvec cause info fb epc, ← t.recorded_pp cause info fb epc, ← t.recorded_pfx cause info fb epc]
  exact Ctx.enterHandler_enters _

/-- A task that no handler serves keeps its place, faulted, with the next fault sequence (R448). -/
theorem Ctx.trapped_parked (h : t.handles cause info = false) :
    (t.trapped cause info fb epc).pc = t.pc ∧ (t.trapped cause info fb epc).status = t.status ∧
      (t.trapped cause info fb epc).phase = .faulted ∧ (t.trapped cause info fb epc).fseq = (t.fseq + 1) % 2 ^ 16 ∧
      (t.trapped cause info fb epc).asid = t.asid ∧ (t.trapped cause info fb epc).job = t.job := by
  rw [Ctx.trapped, if_neg (by simp [h]), Ctx.faulted, Ctx.recorded, Ctx.settle_eq]
  exact ⟨rfl, rfl, rfl, rfl, rfl, rfl⟩

end

/-! ### Taking a trap (R444, R446, R448) -/

section
variable {s : State} {c k cause info : Nat} (fb : W64) (epc insn : Nat)

/-- The three ways in which a trap is taken. -/
theorem State.trapNow_cases :
    let t := s.ctx c k
    s.trapNow c k cause info fb epc insn =
      if t.handles cause info = true then s.setCtx c k (t.recorded cause info fb epc).enterHandler
      else if t.killed = true then s.killTask c k
      else
        let u := (t.recorded cause info fb epc).faulted
        { s.setCtx c k u with faults := s.faults ++ [faultRecord s c k u insn] } := by
  intro t
  rw [Ctx.handles, ← t.recorded_tvec cause info fb epc, ← t.recorded_th cause info fb epc, ← t.recorded_killed cause info fb epc]
  unfold State.trapNow Ctx.recorded Ctx.faulted
  rfl

/-- A trap that the task's handler takes changes its context alone. -/
theorem State.trapNow_handled (h : (s.ctx c k).handles cause info = true) :
    s.trapNow c k cause info fb epc insn = s.setCtx c k ((s.ctx c k).trapped cause info fb epc) := by
  rw [State.trapNow_cases, Ctx.trapped, if_pos h, if_pos h]

/-- A trap that no handler takes parks its task and adds its record. -/
theorem State.trapNow_parked (h : (s.ctx c k).handles cause info = false) (hk : (s.ctx c k).killed = false) :
    s.trapNow c k cause info fb epc insn =
      { s.setCtx c k ((s.ctx c k).trapped cause info fb epc) with
        faults := s.faults ++ [faultRecord s c k ((s.ctx c k).trapped cause info fb epc) insn] } := by
  have hh : ¬(s.ctx c k).handles cause info = true := by simp [h]
  rw [State.trapNow_cases, Ctx.trapped, if_neg hh, if_neg hh, if_neg (by simp [hk])]

/-- A trap that no handler takes ends a task that a cancel has met. -/
theorem State.trapNow_killed (h : (s.ctx c k).handles cause info = false) (hk : (s.ctx c k).killed = true) :
    s.trapNow c k cause info fb epc insn = s.killTask c k := by
  rw [State.trapNow_cases, if_neg (by simp [h]), if_pos hk]

/-- What a trap does to the module when its task does not end: its context is trapped, and a fault record may follow. -/
theorem State.trapNow_eq (h : (s.ctx c k).handles cause info = true ∨ (s.ctx c k).killed = false) :
    ∃ fs, s.trapNow c k cause info fb epc insn = { s.setCtx c k ((s.ctx c k).trapped cause info fb epc) with faults := fs } := by
  cases hh : (s.ctx c k).handles cause info with
  | true => exact ⟨s.faults, State.trapNow_handled fb epc insn hh⟩
  | false => exact ⟨_, State.trapNow_parked fb epc insn hh (h.resolve_left (by simp [hh]))⟩

section
variable (h : (s.ctx c k).handles cause info = true ∨ (s.ctx c k).killed = false)
include h

theorem State.ctx_trapNow : (s.trapNow c k cause info fb epc insn).ctx c k = (s.ctx c k).trapped cause info fb epc := by
  obtain ⟨fs, e⟩ := State.trapNow_eq fb epc insn h
  rw [e]
  exact State.ctx_setCtx ..

theorem State.ctx_trapNow_ne {d j : Nat} (hne : ¬(d = c ∧ j = k)) : (s.trapNow c k cause info fb epc insn).ctx d j = s.ctx d j := by
  obtain ⟨fs, e⟩ := State.trapNow_eq fb epc insn h
  rw [e]
  exact State.ctx_setCtx_ne s _ hne

theorem State.mem_trapNow : (s.trapNow c k cause info fb epc insn).mem = s.mem := by
  obtain ⟨fs, e⟩ := State.trapNow_eq fb epc insn h
  rw [e]
  rfl

theorem State.spad_trapNow (d : Nat) : ((s.trapNow c k cause info fb epc insn).core d).spad = (s.core d).spad := by
  obtain ⟨fs, e⟩ := State.trapNow_eq fb epc insn h
  rw [e]
  exact State.spad_setCtx ..

theorem State.curAt_trapNow :
    (s.trapNow c k cause info fb epc insn).curCore = s.curCore ∧ (s.trapNow c k cause info fb epc insn).curCtx = s.curCtx := by
  obtain ⟨fs, e⟩ := State.trapNow_eq fb epc insn h
  rw [e]
  exact ⟨rfl, rfl⟩

end

theorem State.faults_trapNow_handled (h : (s.ctx c k).handles cause info = true) :
    (s.trapNow c k cause info fb epc insn).faults = s.faults := by
  rw [State.trapNow_handled fb epc insn h]
  rfl

theorem State.faults_trapNow_parked (h : (s.ctx c k).handles cause info = false) (hk : (s.ctx c k).killed = false) :
    (s.trapNow c k cause info fb epc insn).faults = s.faults ++ [faultRecord s c k ((s.ctx c k).trapped cause info fb epc) insn] := by
  rw [State.trapNow_parked fb epc insn h hk]

/-- A task that awaits no result takes its trap at once. -/
theorem State.raise_now (req : Option Nat) (h : (s.ctx c k).var = []) :
    s.raise c k req cause info fb epc insn = s.trapNow c k cause info fb epc insn := by
  rw [State.raise, h]
  rfl

/-- A trap waits for the results that its task still awaits (R102). -/
theorem State.raise_waits (req : Option Nat) (h : (s.ctx c k).var ≠ []) :
    s.raise c k req cause info fb epc insn =
      s.setCtx c k { s.ctx c k with wait := .trap req cause info fb epc insn, waitFrom := none, phase := .running, hiring := none } := by
  rw [State.raise, if_neg (by simpa using h)]
  rfl

theorem State.trapAt_now (h : (s.ctx c k).var = []) : s.trapAt c k cause info fb epc insn = s.trapNow c k cause info fb epc insn :=
  State.raise_now fb epc insn none h

theorem State.trapAt_waits (h : (s.ctx c k).var ≠ []) :
    s.trapAt c k cause info fb epc insn =
      s.setCtx c k { s.ctx c k with wait := .trap none cause info fb epc insn, waitFrom := none, phase := .running, hiring := none } :=
  State.raise_waits fb epc insn none h

end

/-! ### The record of a fault -/

/-- The words of the record of a task that has been parked faulted (R449). -/
theorem faultRecord_words (s : State) (c k : Nat) (t : Ctx) {cause info epc : Nat} (fb : W64) (insn : Nat)
    (hc : cause < 2 ^ 8) (hi : info < 2 ^ 16) (he : epc < 2 ^ 16) (h : t.handles cause info = false) :
    let u := t.trapped cause info fb epc
    (faultRecord s c k u insn).words =
      [w64 ((if t.th = true then 2 ^ 48 else 0) + info * 2 ^ 32 + epc * 2 ^ 16 + cause), fb,
        w64 (u.fseq * 2 ^ 32 + (u.fseq * 2 ^ 16 + (c * 16 + k))), w64 (t.asid * 2 ^ 32 + t.job), w64 (s.timeOf (dieOf c)), w64 insn, 0, 0] := by
  intro u
  obtain ⟨-, -, -, hseq, hasid, hjob⟩ := t.trapped_parked cause info fb epc h
  have hfa : u.faulta = faultaWord t.th info epc cause := t.trapped_faulta ..
  have hcauses : bitsOf u.faulta.toNat 40 40 * 2 ^ 48 + bitsOf u.faulta.toNat 39 24 * 2 ^ 32 + bitsOf u.faulta.toNat 23 8 * 2 ^ 16 +
      bitsOf u.faulta.toNat 7 0 = (if t.th = true then 2 ^ 48 else 0) + info * 2 ^ 32 + epc * 2 ^ 16 + cause := by
    rw [hfa, faultaWord_toNat t.th hc hi he]
    unfold bitsOf
    split <;> omega
  have hfseq : u.fseq % 2 ^ 16 = u.fseq := by rw [show u.fseq = _ from hseq]; omega
  have hfb : u.faultb = fb := t.trapped_faultb ..
  simp only [faultRecord, hcauses, hfseq, hfb]
  rw [show u.asid = t.asid from hasid, show u.job = t.job from hjob]

end Sys2Proof.Machine
end

section
/-!
PROOF. Taking a trap (O29): it waits for the results that the task awaits, ends a task that a cancel has met, and otherwise leaves the
context that the laws of a trap describe.
-/
namespace Sys2Proof.Machine

/-! ### What the end of a task leaves of the module's records -/

/-- The place at issue, the pools, the fault records and the kills that are counted are as they were. -/
structure State.SameBooks (s t : State) : Prop where
  core   : t.curCore = s.curCore
  ctx    : t.curCtx = s.curCtx
  pools  : t.pools = s.pools
  faults : t.faults = s.faults
  kills  : ∀ id, (t.launch? id).map (·.killed) = (s.launch? id).map (·.killed)

theorem State.SameBooks.refl (s : State) : s.SameBooks s := ⟨rfl, rfl, rfl, rfl, fun _ => rfl⟩

theorem State.SameBooks.trans {s t u : State} (h : s.SameBooks t) (g : t.SameBooks u) : s.SameBooks u :=
  ⟨g.core.trans h.core, g.ctx.trans h.ctx, g.pools.trans h.pools, g.faults.trans h.faults, fun id => (g.kills id).trans (h.kills id)⟩

theorem State.sameBooks_updCore (s : State) (c : Nat) (f : HomeCore → HomeCore) : s.SameBooks (s.updCore c f) :=
  ⟨rfl, rfl, rfl, rfl, fun _ => rfl⟩

theorem State.sameBooks_setCtx (s : State) (c k : Nat) (t : Ctx) : s.SameBooks (s.setCtx c k t) := s.sameBooks_updCore c _

theorem State.sameBooks_enqueue (s : State) (c : Nat) (r : Req) (w o : Bool) : s.SameBooks (s.enqueue c r w o) :=
  ⟨rfl, rfl, rfl, rfl, fun _ => rfl⟩

theorem State.launch?_updLaunch (s : State) (id j : Nat) (f : Launch → Launch) :
    (s.updLaunch id f).launch? j = if j = id then (s.launch? id).map f else s.launch? j := by
  unfold State.updLaunch State.launch?
  by_cases e : j = id
  · subst e
    cases h : s.launches.find? j <;> simp [h]
  · cases h : s.launches.find? id <;> simp [e, Map.find?_set_ne _ _ _ _ e]

theorem State.sameBooks_updLaunch (s : State) (id : Nat) (f : Launch → Launch) (hf : ∀ l, (f l).killed = l.killed) :
    s.SameBooks (s.updLaunch id f) := by
  have hkills : ∀ j, ((s.updLaunch id f).launch? j).map (·.killed) = (s.launch? j).map (·.killed) := by
    intro j
    rw [State.launch?_updLaunch]
    split
    · next e => subst e; cases s.launch? j <;> simp [hf]
    · rfl
  refine ⟨?_, ?_, ?_, ?_, hkills⟩ <;> (unfold State.updLaunch; split <;> rfl)

theorem State.sameBooks_withdraw (s : State) (c uid : Nat) (ldf : Option Req) : s.SameBooks (s.withdraw c uid ldf) := by
  unfold State.withdraw
  cases ldf with
  | none => exact ⟨rfl, rfl, rfl, rfl, fun _ => rfl⟩
  | some r => exact ⟨rfl, rfl, rfl, rfl, fun _ => rfl⟩

theorem State.sameBooks_clearMarksOf (s : State) (uid : Nat) : s.SameBooks (s.clearMarksOf uid) := ⟨rfl, rfl, rfl, rfl, fun _ => rfl⟩

theorem State.sameBooks_countUps (fs : List Flight) : ∀ s : State, s.SameBooks (fs.foldl (fun s f => s.countUp f.launch) s) := by
  induction fs with
  | nil => exact State.SameBooks.refl
  | cons f fs ih =>
    exact fun s => (s.sameBooks_updLaunch f.launch (fun l => { l with outstanding := l.outstanding + 1 }) fun _ => rfl).trans (ih _)

theorem State.sameBooks_countMessages (s : State) (uid : Nat) : s.SameBooks (s.countMessages uid) := by
  obtain ⟨hcore, hctx, hpools, hfaults, hkills⟩ :=
    State.sameBooks_countUps (s.msgs.filter (fun f => f.uid == uid && !f.counted && f.mig.isNone)) s
  exact ⟨hcore, hctx, hpools, hfaults, hkills⟩

/-! ### The end of a task that has joined no group -/

/-- With no request for lanes waiting, a task leaves nothing at its pool. -/
theorem State.leavePool_none {s : State} (h : s.pools = []) (c k uid : Nat) : s.leavePool c k uid = s := by
  unfold State.leavePool State.poolQueue
  rw [h]
  rfl

theorem State.poolRun_none {s : State} (h : s.pools = []) (o : Nat) : s.poolRun o = s := by
  unfold State.poolRun State.poolQueue
  rw [h]
  rfl

theorem State.ctx_updLaunch (s : State) (id c k : Nat) (f : Launch → Launch) : (s.updLaunch id f).ctx c k = s.ctx c k := by
  unfold State.updLaunch
  split <;> rfl

/-- The last step of a task's end frees its context. -/
theorem State.ctx_finishLeaving {s : State} {l : Leaving} {k : Nat} (h : l.ctx = some k) :
    ((s.finishLeaving l).ctx l.core k).phase = .free := by
  have hfreed : ((s.setCtx l.core k (s.ctx l.core k).freed).ctx l.core k).phase = .free := by rw [State.ctx_setCtx]; rfl
  unfold State.finishLeaving State.countDown
  simp only [h, State.ctx_updLaunch]
  split
  · rw [State.updCtx, State.ctx_setCtx_ne _ _ (by omega)]
    exact hfreed
  · exact hfreed

theorem State.sameBooks_finishLeaving (s : State) (l : Leaving) : s.SameBooks (s.finishLeaving l) := by
  unfold State.finishLeaving
  refine State.SameBooks.trans ?_ (State.sameBooks_updLaunch _ _ _ fun _ => rfl)
  split
  · dsimp only
    split
    · exact (s.sameBooks_setCtx ..).trans (State.sameBooks_setCtx ..)
    · exact s.sameBooks_setCtx ..
  · exact .refl s

/-- The state in which a task has given up its context, before its pool and its groups are left. -/
def State.vacated (s : State) (c k : Nat) : State :=
  let t := s.ctx c k
  let u := ((s.withdraw c t.uid (s.waitingLdf c t)).clearMarksOf t.uid).countMessages t.uid
  let u := u.updCore c (fun h => { h with wa := h.wa.filter (fun e => e.2.owner != k || e.2.saved) })
  u.setCtx c k { t with
    phase := .leaving, wait := .none, waitFrom := none, claim := none, reclaim := false, hires := [], hiring := none, pend := [], var := [] }

theorem State.sameBooks_vacated (s : State) (c k : Nat) : s.SameBooks (s.vacated c k) :=
  ((((s.sameBooks_withdraw ..).trans (State.sameBooks_clearMarksOf ..)).trans (State.sameBooks_countMessages ..)).trans
    (State.sameBooks_updCore ..)).trans (State.sameBooks_setCtx ..)

/-- A task that has joined no group, and whose pool waits for nothing, ends in one step. -/
theorem State.closeTask_alone {s : State} {c k : Nat} (how : TaskEnd) (hg : (s.ctx c k).groups = []) (hp : s.pools = []) :
    ∃ l : Leaving, l.core = c ∧ l.ctx = some k ∧
      s.closeTask c k how = ((s.vacated c k).tally (s.ctx c k).launch how).finishLeaving l := by
  have hpools : (s.vacated c k).pools = [] := (s.sameBooks_vacated c k).pools.trans hp
  have hclose : s.closeTask c k how =
      ((((s.vacated c k).leavePool c k (s.ctx c k).uid).poolRun (c / 8)).tally (s.ctx c k).launch how).leaveGroups
        ⟨c, some k, (s.ctx c k).uid, (s.ctx c k).asid, (s.ctx c k).launch, (s.ctx c k).groups.reverse, 0⟩ (s.ctx c k).groups.reverse := rfl
  refine ⟨⟨c, some k, (s.ctx c k).uid, (s.ctx c k).asid, (s.ctx c k).launch, [], 0⟩, rfl, rfl, ?_⟩
  rw [hclose, hg, State.leavePool_none hpools, State.poolRun_none hpools]
  rfl

/-- A kill frees the context of such a task, adds no fault record, and is counted. -/
theorem State.killTask_alone {s : State} {c k : Nat} {l : Launch} (hg : (s.ctx c k).groups = []) (hp : s.pools = [])
    (hl : s.launch? (s.ctx c k).launch = some l) :
    let t := s.killTask c k
    (t.ctx c k).phase = .free ∧ t.faults = s.faults ∧ t.curCore = s.curCore ∧ t.curCtx = s.curCtx ∧
      ∃ m, t.launch? (s.ctx c k).launch = some m ∧ m.killed = l.killed + 1 := by
  let d : State := { s with deadTasks := NatSet.add s.deadTasks (s.ctx c k).uid }
  let u := d.vacated c k
  let v := u.tally (s.ctx c k).launch .killed
  obtain ⟨e, rfl, hek, heq⟩ := State.closeTask_alone (s := d) .killed hg hp
  have hu : d.SameBooks u := d.sameBooks_vacated ..
  have hfin : v.SameBooks (v.finishLeaving e) := State.sameBooks_finishLeaving v e
  have hv : v.faults = u.faults ∧ v.curCore = u.curCore ∧ v.curCtx = u.curCtx := by
    simp only [v, State.tally, State.updLaunch]
    split <;> exact ⟨rfl, rfl, rfl⟩
  obtain ⟨hfaults, hcore, hctx⟩ := hv
  obtain ⟨n, hn, hnk⟩ := Option.map_eq_some_iff.mp ((hu.kills _).trans (congrArg (Option.map (·.killed)) hl))
  have hcount : (v.launch? (s.ctx e.core k).launch).map (·.killed) = some (l.killed + 1) := by
    simp only [v, State.tally]
    rw [State.launch?_updLaunch, if_pos rfl, hn]
    exact congrArg (fun n => some (n + 1)) hnk
  obtain ⟨m, hm, hmk⟩ := Option.map_eq_some_iff.mp ((hfin.kills _).trans hcount)
  intro t
  have ht : t = v.finishLeaving e := heq
  rw [ht]
  exact ⟨State.ctx_finishLeaving hek, hfin.faults.trans (hfaults.trans hu.faults), hfin.core.trans (hcore.trans hu.core),
    hfin.ctx.trans (hctx.trans hu.ctx), m, hm, hmk⟩

/-! ### The state in which a trap of the task at issue is taken -/

/-- The state once the causes of R104 have cleared PP, where they do. -/
def State.prefixSpent (s : State) (consumed : Bool) : State := if consumed then s.updCur (·.setPp false) else s

theorem State.takeTrap_eq (s : State) (consumed : Bool) (cause info : Nat) (fb : W64) :
    s.takeTrap consumed cause info fb = ((s.prefixSpent consumed).trapCur cause info fb).slotLost := rfl

section
variable (s : State) (b : Bool)

theorem State.prefixSpent_cur : (s.prefixSpent b).cur = s.cur.spent b := by
  cases b
  · rfl
  · exact State.cur_updCur s (·.setPp false)

/-- Clearing PP changes neither memory nor records, and no place. -/
theorem State.prefixSpent_frame :
    (s.prefixSpent b).curCore = s.curCore ∧ (s.prefixSpent b).curCtx = s.curCtx ∧ (s.prefixSpent b).mem = s.mem ∧
      (s.prefixSpent b).faults = s.faults ∧ (s.prefixSpent b).pools = s.pools ∧ (s.prefixSpent b).launches = s.launches ∧
      (s.prefixSpent b).time = s.time := by
  cases b <;> exact ⟨rfl, rfl, rfl, rfl, rfl, rfl, rfl⟩

theorem State.prefixSpent_spad (c : Nat) : ((s.prefixSpent b).core c).spad = (s.core c).spad := by
  cases b
  · rfl
  · exact s.spad_updCur (·.setPp false) c

theorem State.prefixSpent_istore (c : Nat) : ((s.prefixSpent b).core c).istore = (s.core c).istore := by
  cases b
  · rfl
  · exact s.istore_setCtx ..

theorem State.prefixSpent_ctx_ne {k : Nat} (h : k ≠ s.curCtx) : (s.prefixSpent b).ctx s.curCore k = s.ctx s.curCore k := by
  cases b
  · rfl
  · exact State.ctx_setCtx_ne s _ fun e => h e.2

theorem Ctx.spent_eq (t : Ctx) : t.spent b = { t with status := (t.spent b).status } := by cases b <;> rfl

theorem Ctx.spent_status (t : Ctx) (i : Nat) (h : i < 64) :
    (t.spent b).status.getLsbD i = if i = 7 ∧ b = true then false else t.status.getLsbD i := by
  cases b
  · simp [Ctx.spent]
  · simpa [Ctx.spent, Ctx.setPp] using getLsbD_setBit t.status 7 i false h

theorem Ctx.spent_th (t : Ctx) : (t.spent b).th = t.th := by
  rw [Ctx.th, Ctx.spent_status b t 14 (by decide), if_neg (by simp)]
  rfl

theorem Ctx.spent_pp (t : Ctx) : (t.spent b).pp = (t.pp && !b) := by
  rw [Ctx.pp, Ctx.spent_status b t 7 (by decide)]
  cases b <;> simp [Ctx.pp]

theorem Ctx.spent_handles (t : Ctx) (cause info : Nat) : (t.spent b).handles cause info = t.handles cause info := by
  rw [Ctx.handles, Ctx.spent_th]
  cases b <;> rfl

theorem Ctx.spent_settle (t : Ctx) : (t.spent b).settle.x = t.settle.x ∧ (t.spent b).settle.claim = t.settle.claim := by
  rw [Ctx.settle_spent]
  cases b <;> exact ⟨rfl, rfl⟩

/-- The word at the pc does not depend on the PFX state. -/
theorem State.prefixSpent_wordAt : (s.prefixSpent b).wordAt s.curCore (s.cur.spent b) = s.wordAt s.curCore s.cur := by
  unfold State.wordAt
  rw [State.prefixSpent_istore, Ctx.spent_eq]

end

/-- The trap at the pc of the task at issue, as `takeTrap` takes it. -/
theorem State.takeTrap_trapAt (s : State) (consumed : Bool) (cause info : Nat) (fb : W64) :
    s.takeTrap consumed cause info fb =
      ((s.prefixSpent consumed).trapAt s.curCore s.curCtx cause info fb s.cur.pc.toNat (s.wordAt s.curCore s.cur).toNat).slotLost := by
  obtain ⟨hcore, hctx, -⟩ := s.prefixSpent_frame consumed
  rw [State.takeTrap_eq, State.trapCur, State.prefixSpent_cur, hcore, hctx, State.prefixSpent_wordAt, Ctx.spent_eq]

/-- The contexts of the PFX state aside, the state of `takeTrap` has the context of the task at issue. -/
theorem State.prefixSpent_ctx (s : State) (b : Bool) : (s.prefixSpent b).ctx s.curCore s.curCtx = s.cur.spent b := by
  obtain ⟨hcore, hctx, -⟩ := s.prefixSpent_frame b
  rw [← State.prefixSpent_cur, State.cur, hcore, hctx]

/-- A trap of a task that awaits a result waits, and changes nothing else that the task or memory holds (R102). -/
theorem State.takeTrap_waits (s : State) (consumed : Bool) (cause info : Nat) (fb : W64) (hv : s.cur.var ≠ []) :
    let t := s.takeTrap consumed cause info fb
    t.cur.wait = .trap none cause info fb s.cur.pc.toNat (s.wordAt s.curCore s.cur).toNat ∧ t.cur.pc = s.cur.pc ∧ t.cur.x = s.cur.x ∧
      t.cur.faulta = s.cur.faulta ∧ t.cur.var = s.cur.var ∧ t.cur.phase = .running ∧ t.faults = s.faults ∧ t.mem = s.mem := by
  intro t
  let u := s.prefixSpent consumed
  let w : Ctx := { s.cur.spent consumed with
    wait := .trap none cause info fb s.cur.pc.toNat (s.wordAt s.curCore s.cur).toNat, waitFrom := none, phase := .running, hiring := none }
  obtain ⟨hcore, hctx, hmem, hfaults, -⟩ := s.prefixSpent_frame consumed
  have hvar : (u.ctx s.curCore s.curCtx).var ≠ [] := by
    rw [State.prefixSpent_ctx, Ctx.spent_eq]
    exact hv
  have ht : t = (u.setCtx s.curCore s.curCtx w).slotLost := by
    simp only [t, w]
    rw [State.takeTrap_trapAt, State.trapAt_waits fb _ _ hvar, State.prefixSpent_ctx]
  have hcur : t.cur = w := by
    rw [ht, State.cur_slotLost, State.cur]
    exact (congrArg₂ _ hcore hctx).trans (State.ctx_setCtx u _ _ w)
  rw [hcur]
  refine ⟨rfl, ?_, ?_, ?_, ?_, rfl, ?_, ?_⟩
  · exact congrArg (·.pc) (Ctx.spent_eq consumed s.cur)
  · exact congrArg (·.x) (Ctx.spent_eq consumed s.cur)
  · exact congrArg (·.faulta) (Ctx.spent_eq consumed s.cur)
  · exact congrArg (·.var) (Ctx.spent_eq consumed s.cur)
  · rw [ht]; exact hfaults
  · rw [ht]; exact hmem

/-- A trap that no handler takes ends a task that a cancel has met, which is counted (R147). -/
theorem State.takeTrap_killed (s : State) (consumed : Bool) (cause info : Nat) (fb : W64) {l : Launch} (hv : s.cur.var = [])
    (hk : s.cur.killed = true) (hh : s.cur.handles cause info = false) (hg : s.cur.groups = []) (hp : s.pools = [])
    (hl : s.launch? s.cur.launch = some l) :
    let t := s.takeTrap consumed cause info fb
    t.cur.phase = .free ∧ t.faults = s.faults ∧ ∃ m, t.launch? s.cur.launch = some m ∧ m.killed = l.killed + 1 := by
  intro t
  let u := s.prefixSpent consumed
  obtain ⟨hcore, hctx, -, hfaults, hpools, hlaunches, -⟩ := s.prefixSpent_frame consumed
  have hcu : u.ctx s.curCore s.curCtx = s.cur.spent consumed := s.prefixSpent_ctx consumed
  have hgroups : (u.ctx s.curCore s.curCtx).groups = [] := by rw [hcu, Ctx.spent_eq]; exact hg
  have hlaunch : (u.ctx s.curCore s.curCtx).launch = s.cur.launch := by rw [hcu, Ctx.spent_eq]
  have hl' : u.launch? (u.ctx s.curCore s.curCtx).launch = some l := by
    rw [hlaunch, State.launch?, hlaunches]
    exact hl
  have ht : t = (u.killTask s.curCore s.curCtx).slotLost := by
    have hvar : (u.ctx s.curCore s.curCtx).var = [] := by rw [hcu, Ctx.spent_eq]; exact hv
    have hhand : (u.ctx s.curCore s.curCtx).handles cause info = false := by rw [hcu, Ctx.spent_handles]; exact hh
    have hkill : (u.ctx s.curCore s.curCtx).killed = true := by rw [hcu, Ctx.spent_eq]; exact hk
    simp only [t]
    rw [State.takeTrap_trapAt, State.trapAt_now fb _ _ hvar, State.trapNow_killed fb _ _ hhand hkill]
  obtain ⟨hphase, hf, hc, hx, m, hm, hmk⟩ := State.killTask_alone hgroups (hpools.trans hp) hl'
  refine ⟨?_, ?_, m, ?_, hmk⟩
  · rw [ht, State.cur_slotLost, State.cur, hc, hx, hcore, hctx]
    exact hphase
  · rw [ht]; exact hf.trans hfaults
  · rw [ht, ← hlaunch]; exact hm

/-- A trap that is taken at once, and whose task does not end, leaves the context that `Ctx.trapped` describes and nothing else changed. -/
theorem State.takeTrap_now (s : State) (consumed : Bool) (cause info : Nat) (fb : W64) (hv : s.cur.var = [])
    (h : s.cur.handles cause info = true ∨ s.cur.killed = false) :
    let t := s.takeTrap consumed cause info fb
    let u := (s.cur.spent consumed).trapped cause info fb s.cur.pc.toNat
    t.cur = u ∧ t.mem = s.mem ∧ (∀ c, (t.core c).spad = (s.core c).spad) ∧
      (∀ k, k ≠ s.curCtx → t.ctx s.curCore k = s.ctx s.curCore k) ∧
      (s.cur.handles cause info = true → t.faults = s.faults) ∧
      (s.cur.handles cause info = false → ∃ v : State, v.time = s.time ∧
        t.faults = s.faults ++ [faultRecord v s.curCore s.curCtx u (s.wordAt s.curCore s.cur).toNat]) := by
  intro t u
  let v := s.prefixSpent consumed
  obtain ⟨hcore, hctx, hmem, hfaults, -, -, htime⟩ := s.prefixSpent_frame consumed
  have hcu : v.ctx s.curCore s.curCtx = s.cur.spent consumed := s.prefixSpent_ctx consumed
  have hvar : (v.ctx s.curCore s.curCtx).var = [] := by rw [hcu, Ctx.spent_eq]; exact hv
  have hhand : (v.ctx s.curCore s.curCtx).handles cause info = s.cur.handles cause info := by rw [hcu, Ctx.spent_handles]
  have hkill : (v.ctx s.curCore s.curCtx).killed = s.cur.killed := by rw [hcu, Ctx.spent_eq]
  have hor : (v.ctx s.curCore s.curCtx).handles cause info = true ∨ (v.ctx s.curCore s.curCtx).killed = false := by rwa [hhand, hkill]
  have ht : t = (v.trapNow s.curCore s.curCtx cause info fb s.cur.pc.toNat (s.wordAt s.curCore s.cur).toNat).slotLost := by
    simp only [t]
    rw [State.takeTrap_trapAt, State.trapAt_now fb _ _ hvar]
  obtain ⟨hc, hx⟩ := State.curAt_trapNow fb s.cur.pc.toNat (s.wordAt s.curCore s.cur).toNat hor
  rw [ht]
  refine ⟨?_, ?_, ?_, ?_, ?_, ?_⟩
  · rw [State.cur_slotLost, State.cur, hc, hx, hcore, hctx, State.ctx_trapNow fb _ _ hor, hcu]
  · exact (State.mem_trapNow fb _ _ hor).trans hmem
  · intro c
    rw [State.spad_slotLost, State.spad_trapNow fb _ _ hor, State.prefixSpent_spad]
  · intro k hk
    rw [State.ctx_slotLost, State.ctx_trapNow_ne fb _ _ hor (fun e => hk e.2), State.prefixSpent_ctx_ne s consumed hk]
  · intro hh
    exact (State.faults_trapNow_handled fb _ _ (hhand.trans hh)).trans hfaults
  · intro hh
    refine ⟨v, htime, ?_⟩
    have hparked := State.faults_trapNow_parked fb s.cur.pc.toNat (s.wordAt s.curCore s.cur).toNat (hhand.trans hh)
      (hor.resolve_left (by simp [hhand, hh]))
    rw [hcu, hfaults] at hparked
    exact hparked

end Sys2Proof.Machine

namespace Sys2Proof
open Machine

/-- Settles O29: the wait, the end of a cancelled task, and the context that a trap leaves, with its record. -/
theorem trapEntry : Obligations.TrapEntry := by
  refine ⟨State.takeTrap_waits, ?_, ?_⟩
  · intro s consumed cause info fb l hv hk hh hg hp hl
    have hhand : s.cur.handles cause info = false := by rwa [← Bool.not_eq_true, Ctx.handles_iff]
    exact State.takeTrap_killed s consumed cause info fb hv hk hhand hg hp hl
  · intro s consumed cause info fb hc hi hv t pp handled a token hor
    have hpc : s.cur.pc.toNat < 2 ^ 16 := s.cur.pc.isLt
    have hhandled : handled ↔ s.cur.handles cause info = true := (Ctx.handles_iff ..).symm
    obtain ⟨hcur, hmem, hspad, hothers, hfs, hfp⟩ := State.takeTrap_now s consumed cause info fb hv (hor.imp_left hhandled.mp)
    let w := s.cur.spent consumed
    let u := w.trapped cause info fb s.cur.pc.toNat
    have htu : t.cur = u := hcur
    have hth : w.th = s.cur.th := Ctx.spent_th ..
    have hpp : w.pp = pp := Ctx.spent_pp ..
    have hpfx : w.pfx = s.cur.pfx := by simp only [w]; rw [Ctx.spent_eq]
    have hwh : w.handles cause info = s.cur.handles cause info := Ctx.spent_handles ..
    obtain ⟨hx, hclaim⟩ := Ctx.spent_settle consumed s.cur
    obtain ⟨hua, hub, hux, huc, hup, huf, hum⟩ := w.trapped_recorded cause info fb s.cur.pc.toNat
    have hamax : w.amax = s.cur.amax := by simp only [w]; rw [Ctx.spent_eq]
    have ha : a = (faultaWord s.cur.th info s.cur.pc.toNat cause).toNat := by
      simp only [a]
      rw [htu, hua, hth]
    rw [ha, htu]
    refine ⟨faultaWord_cause _ hc hi hpc, faultaWord_epc _ hc hi hpc, faultaWord_info _ hc hi hpc, faultaWord_nest _ hc hi hpc, hub,
      hux.trans hx, huc.trans hclaim, hup, huf.trans hpfx, hum.trans hamax, hmem, hspad, hothers, ?_, ?_⟩
    · intro hh
      have hs : s.cur.handles cause info = true := hhandled.mp hh
      obtain ⟨hupc, huth, hupp, husp, husx, huph⟩ := w.trapped_handled cause info fb s.cur.pc.toNat (hwh.trans hs)
      have htvec : w.tvec = s.cur.tvec := by simp only [w]; rw [Ctx.spent_eq]
      rw [htvec] at hupc
      exact ⟨hupc, huth, hupp, husp.trans hpp, husx.trans hpfx, huph, hfs hs⟩
    · intro hh
      have hs : s.cur.handles cause info = false := by rwa [← Bool.not_eq_true, ← hhandled]
      obtain ⟨hupc, hust, huph, huseq, huasid, hujob⟩ := w.trapped_parked cause info fb s.cur.pc.toNat (hwh.trans hs)
      have hwpc : w.pc = s.cur.pc := by simp only [w]; rw [Ctx.spent_eq]
      have hwseq : w.fseq = s.cur.fseq := by simp only [w]; rw [Ctx.spent_eq]
      have hwasid : w.asid = s.cur.asid := by simp only [w]; rw [Ctx.spent_eq]
      have hwjob : w.job = s.cur.job := by simp only [w]; rw [Ctx.spent_eq]
      have huth : u.th = s.cur.th := (congrArg (fun (x : W64) => x.getLsbD 14) hust).trans hth
      have hupp : u.pp = pp := (congrArg (fun (x : W64) => x.getLsbD 7) hust).trans hpp
      obtain ⟨v, hvt, hrec⟩ := hfp hs
      have hwords := faultRecord_words v s.curCore s.curCtx w fb (s.wordAt s.curCore s.cur).toNat hc hi hpc (hwh.trans hs)
      have hnow : v.timeOf (dieOf s.curCore) = s.now := by rw [State.timeOf, hvt]; rfl
      refine ⟨hupc.trans hwpc, huth, hupp, huph, huseq.trans (by rw [hwseq]), _, hrec, huasid.trans hwasid, rfl, ?_⟩
      refine hwords.trans ?_
      rw [hth, hwasid, hwjob, hnow]
      simp only [token]
      rw [htu]

end Sys2Proof
end

section
/-!
PROOF. A step and the time that passes (O55): what a context at issue runs, the first step of an empty agenda, and the bounds of a tick.
-/
namespace Sys2Proof

variable {α β : Type}

/-- The entry of a key once every entry has been mapped, its key at hand. -/
theorem Map.find?_mapKey (f : Nat → α → β) (m : Map α) (i : Nat) :
    Map.find? (m.map (fun e => (e.1, f e.1 e.2))) i = (m.find? i).map (f i) := by
  induction m with
  | nil => rfl
  | cons e m ih =>
    obtain ⟨k, v⟩ := e
    simp only [List.map_cons, Map.find?]
    split
    · next h => subst h; rfl
    · exact ih

theorem Map.get_eq_find? (d : α) (m : Map α) (i : Nat) : m.get d i = (m.find? i).getD d := by
  induction m with
  | nil => rfl
  | cons e m ih =>
    obtain ⟨k, v⟩ := e
    simp only [Map.get, Map.find?]
    split
    · rfl
    · exact ih

/-- A key that is found is listed. -/
theorem Map.mem_of_find? {m : Map α} {i : Nat} {v : α} (h : m.find? i = some v) : (i, v) ∈ m := by
  induction m with
  | nil => cases h
  | cons e m ih =>
    obtain ⟨k, w⟩ := e
    simp only [Map.find?] at h
    split at h
    · next hk => cases h; subst hk; exact List.mem_cons_self
    · exact List.mem_cons_of_mem _ (ih h)

end Sys2Proof

namespace Sys2Proof.Machine

/-! ### A context at issue -/

/-- A context whose wait for results is over, once it is at issue (R102). -/
def Ctx.issuing (t : Ctx) : Ctx := if t.wait = .settle then { t with wait := .none, waitFrom := none } else t

theorem Ctx.issuing_eq (t : Ctx) : t.issuing = { t with wait := t.issuing.wait, waitFrom := t.issuing.waitFrom } := by
  unfold Ctx.issuing
  split <;> rfl

section
variable (s : State) (c k : Nat)

theorem State.atIssue_cur : (s.atIssue c k).cur = (s.ctx c k).issuing :=
  State.cur_updCur ({ s with curCore := c, curCtx := k } : State) Ctx.issuing

theorem State.atIssue_ctx : (s.atIssue c k).ctx c k = (s.ctx c k).issuing := s.atIssue_cur c k

theorem State.atIssue_wordAt : (s.atIssue c k).wordAt c (s.ctx c k).issuing = s.wordAt c (s.ctx c k) := by
  have histore : ((s.atIssue c k).core c).istore = (s.core c).istore := State.istore_setCtx ..
  unfold State.wordAt
  rw [histore, Ctx.issuing_eq]

theorem State.atIssue_fetchPoison : (s.atIssue c k).fetchPoison c (s.ctx c k).issuing = s.fetchPoison c (s.ctx c k) := by
  have hcore : (s.atIssue c k).core c = (s.core c).setCtx k (s.ctx c k).issuing :=
    State.core_updCore ({ s with curCore := c, curCtx := k } : State) c (·.setCtx k (s.ctx c k).issuing)
  have hpoison : ((s.atIssue c k).core c).istorePoison = (s.core c).istorePoison := by rw [hcore]; rfl
  unfold State.fetchPoison
  rw [hpoison, Ctx.issuing_eq]

end

/-! ### What an issue runs -/

/-- What the word of a context without poison runs (R91, R95, R97). -/
def State.runWord (s : State) (w : W32) : Out1 :=
  match decodeWord w.toNat with
  | .ok i => exec i s
  | .illegal => execIllegalEncoding w s
  | .reserved => .next (s.reservedWord w)

section
variable (s : State) {w : W32}

theorem State.runWord_ok {i : Instr} (h : decodeWord w.toNat = .ok i) : s.runWord w = exec i s := by
  unfold State.runWord
  rw [h]

theorem State.runWord_illegal (h : decodeWord w.toNat = .illegal) : s.runWord w = execIllegalEncoding w s := by
  unfold State.runWord
  rw [h]

theorem State.runWord_reserved (h : decodeWord w.toNat = .reserved) : s.runWord w = .next (s.reservedWord w) := by
  unfold State.runWord
  rw [h]

end

/-- A task that holds a trap for the results that it awaits. -/
def Ctx.Traps (t : Ctx) : Prop := ∃ r cause info fb epc insn, t.wait = .trap r cause info fb epc insn

section
variable {s : State} {c k : Nat}

/-- A trap that has waited is taken in place of an instruction (R102). -/
theorem State.issueFrom_trap {r : Option Nat} {cause info epc insn : Nat} {fb : W64} (h : (s.ctx c k).wait = .trap r cause info fb epc insn) :
    s.issueFrom c k = .next ((s.atIssue c k).trapNow c k cause info fb epc insn).slotLost := by
  have hwait : (s.ctx c k).issuing.wait = .trap r cause info fb epc insn := by
    rw [Ctx.issuing, if_neg (by rw [h]; exact nofun), h]
  unfold State.issueFrom
  simp only [State.atIssue_cur, hwait]

/-- A context that holds no trap runs what its word stands for, in the state at its issue. -/
theorem State.issueFrom_atIssue {w : Wait} (hw : (s.atIssue c k).cur.wait = w)
    (hne : ∀ r cause info fb epc insn, w ≠ .trap r cause info fb epc insn) :
    s.issueFrom c k =
      let u := s.atIssue c k
      if u.cur.poisoned = true then .next ((u.updCur (fun t => { t with poisoned := false })).trapCur 0x13 1 0).slotLost
      else if u.fetchPoison c u.cur = true then .next (u.trapAt c k 0x13 2 0 u.cur.pc.toNat 0).slotLost
      else u.runWord (u.wordAt c u.cur) := by
  unfold State.issueFrom
  dsimp only
  rw [hw]
  cases w
  case trap r cause info fb epc insn => exact absurd rfl (hne r cause info fb epc insn)
  all_goals rfl

variable (hw : ¬(s.ctx c k).Traps)
include hw

/-- Any other context runs what its word stands for, or traps for poison. -/
theorem State.issueFrom_word :
    s.issueFrom c k =
      if (s.ctx c k).poisoned = true then
        .next (((s.atIssue c k).updCur (fun t => { t with poisoned := false })).trapCur 0x13 1 0).slotLost
      else if s.fetchPoison c (s.ctx c k) = true then .next ((s.atIssue c k).trapAt c k 0x13 2 0 (s.ctx c k).pc.toNat 0).slotLost
      else (s.atIssue c k).runWord (s.wordAt c (s.ctx c k)) := by
  have hwait : ∀ r cause info fb epc insn, (s.atIssue c k).cur.wait ≠ .trap r cause info fb epc insn := by
    intro r cause info fb epc insn
    rw [State.atIssue_cur, Ctx.issuing]
    split
    · exact nofun
    · exact fun e => hw ⟨r, cause, info, fb, epc, insn, e⟩
  have hpoisoned : (s.ctx c k).issuing.poisoned = (s.ctx c k).poisoned := by rw [Ctx.issuing_eq]
  have hpc : (s.ctx c k).issuing.pc = (s.ctx c k).pc := by rw [Ctx.issuing_eq]
  rw [State.issueFrom_atIssue rfl hwait]
  dsimp only
  rw [State.atIssue_cur, State.atIssue_wordAt, State.atIssue_fetchPoison, hpoisoned, hpc]

end

/-! ### What a trap at an issue records -/

/-- What a trap of context `k` of core `c` shows once it has been taken, memory as it was. -/
def State.ShowsTrap (s v : State) (c k cause epc info : Nat) (fb : W64) : Prop :=
  (v.ctx c k).faulta.toNat % 2 ^ 8 = cause ∧ (v.ctx c k).faulta.toNat / 2 ^ 8 % 2 ^ 16 = epc ∧
    (v.ctx c k).faulta.toNat / 2 ^ 24 % 2 ^ 16 = info ∧ (v.ctx c k).faultb = fb ∧ v.mem = s.mem

section
variable {s : State} {c k cause info epc : Nat} (fb : W64) (insn : Nat) (hc : cause < 2 ^ 8) (hi : info < 2 ^ 16) (he : epc < 2 ^ 16)

/-- The module is left with a slot that is used up, or not: what the trap shows is the same. -/
theorem State.ShowsTrap.slotLost {v : State} (h : s.ShowsTrap v c k cause epc info fb) : s.ShowsTrap v.slotLost c k cause epc info fb := by
  unfold State.ShowsTrap
  rw [State.ctx_slotLost]
  exact h

include hc hi he

theorem State.showsTrap_trapNow (h : (s.ctx c k).handles cause info = true ∨ (s.ctx c k).killed = false) :
    s.ShowsTrap (s.trapNow c k cause info fb epc insn) c k cause epc info fb := by
  unfold State.ShowsTrap
  rw [State.ctx_trapNow fb epc insn h, Ctx.trapped_faulta, Ctx.trapped_faultb]
  exact ⟨faultaWord_cause _ hc hi he, faultaWord_epc _ hc hi he, faultaWord_info _ hc hi he, rfl, State.mem_trapNow fb epc insn h⟩

theorem State.showsTrap_trapAt (hv : (s.ctx c k).var = []) (h : (s.ctx c k).handles cause info = true ∨ (s.ctx c k).killed = false) :
    s.ShowsTrap (s.trapAt c k cause info fb epc insn) c k cause epc info fb := by
  rw [State.trapAt_now fb epc insn hv]
  exact State.showsTrap_trapNow fb insn hc hi he h

end

/-! ### The traps of an issue -/

section
variable {s : State} {c k : Nat}

/-- A trap that has waited shows what it has waited with. -/
theorem State.issueFrom_showsTrap {r : Option Nat} {cause info epc insn : Nat} {fb : W64}
    (h : (s.ctx c k).wait = .trap r cause info fb epc insn) (hk : (s.ctx c k).killed = false)
    (hc : cause < 2 ^ 8) (hi : info < 2 ^ 16) (he : epc < 2 ^ 16) :
    ∃ v, s.issueFrom c k = .next v ∧ s.ShowsTrap v c k cause epc info fb := by
  have hkilled : ((s.atIssue c k).ctx c k).killed = false := by rw [State.atIssue_ctx, Ctx.issuing_eq]; exact hk
  exact ⟨_, State.issueFrom_trap h, (State.showsTrap_trapNow (s := s.atIssue c k) fb insn hc hi he (Or.inr hkilled)).slotLost⟩

variable (hw : ¬(s.ctx c k).Traps) (hv : (s.ctx c k).var = []) (hk : (s.ctx c k).killed = false)
include hv hk

/-- A trap at the pc of a context at issue. -/
theorem State.atIssue_showsTrap {cause info : Nat} (insn : Nat) (hc : cause < 2 ^ 8) (hi : info < 2 ^ 16) :
    s.ShowsTrap ((s.atIssue c k).trapAt c k cause info 0 (s.ctx c k).pc.toNat insn) c k cause (s.ctx c k).pc.toNat info 0 := by
  have hvar : ((s.atIssue c k).ctx c k).var = [] := by rw [State.atIssue_ctx, Ctx.issuing_eq]; exact hv
  have hkilled : ((s.atIssue c k).ctx c k).killed = false := by rw [State.atIssue_ctx, Ctx.issuing_eq]; exact hk
  exact State.showsTrap_trapAt (s := s.atIssue c k) 0 insn hc hi (s.ctx c k).pc.isLt hvar (Or.inr hkilled)

include hw

theorem State.issueFrom_poisoned (hp : (s.ctx c k).poisoned = true) :
    ∃ v, s.issueFrom c k = .next v ∧ s.ShowsTrap v c k 0x13 (s.ctx c k).pc.toNat 1 0 := by
  let u := (s.atIssue c k).updCur (fun t => { t with poisoned := false })
  have hcur : u.cur = { (s.ctx c k).issuing with poisoned := false } := by
    simp only [u, State.cur_updCur, State.atIssue_cur]
  have hctx : u.ctx c k = { (s.ctx c k).issuing with poisoned := false } := hcur
  have hvar : (u.ctx c k).var = [] := by rw [hctx, Ctx.issuing_eq]; exact hv
  have hkilled : (u.ctx c k).killed = false := by rw [hctx, Ctx.issuing_eq]; exact hk
  have hpc : u.cur.pc = (s.ctx c k).pc := by rw [hcur, Ctx.issuing_eq]
  have hshows : s.ShowsTrap (u.trapCur 0x13 1 0) c k 0x13 (s.ctx c k).pc.toNat 1 0 := by
    rw [State.trapCur, hpc]
    exact State.showsTrap_trapAt (s := u) 0 _ (by decide) (by decide) (s.ctx c k).pc.isLt hvar (Or.inr hkilled)
  rw [State.issueFrom_word hw, if_pos hp]
  exact ⟨_, rfl, hshows.slotLost⟩

theorem State.issueFrom_fetchPoison (hp : (s.ctx c k).poisoned = false) (hf : s.fetchPoison c (s.ctx c k) = true) :
    ∃ v, s.issueFrom c k = .next v ∧ s.ShowsTrap v c k 0x13 (s.ctx c k).pc.toNat 2 0 := by
  rw [State.issueFrom_word hw, if_neg (by simp [hp]), if_pos hf]
  exact ⟨_, rfl, (State.atIssue_showsTrap hv hk 0 (by decide) (by decide)).slotLost⟩

omit hv hk in
/-- A context without poison runs what its word stands for. -/
theorem State.issueFrom_clean (hp : (s.ctx c k).poisoned = false) (hf : s.fetchPoison c (s.ctx c k) = false) :
    s.issueFrom c k = (s.atIssue c k).runWord (s.wordAt c (s.ctx c k)) := by
  rw [State.issueFrom_word hw, if_neg (by simp [hp]), if_neg (by simp [hf])]

theorem State.issueFrom_illegal (hp : (s.ctx c k).poisoned = false) (hf : s.fetchPoison c (s.ctx c k) = false)
    (hd : decodeWord (s.wordAt c (s.ctx c k)).toNat = .illegal) :
    ∃ v, s.issueFrom c k = .next v ∧ s.ShowsTrap v c k 0x01 (s.ctx c k).pc.toNat 0 0 := by
  have hpc : (s.atIssue c k).cur.pc = (s.ctx c k).pc := by rw [State.atIssue_cur, Ctx.issuing_eq]
  rw [State.issueFrom_clean hw hp hf, State.runWord_illegal _ hd]
  refine ⟨_, rfl, ?_⟩
  rw [hpc]
  exact State.atIssue_showsTrap hv hk _ (by decide) (by decide)

theorem State.issueFrom_reserved (hp : (s.ctx c k).poisoned = false) (hf : s.fetchPoison c (s.ctx c k) = false)
    (hd : decodeWord (s.wordAt c (s.ctx c k)).toNat = .reserved) :
    ∃ v, s.issueFrom c k = .next v ∧ s.ShowsTrap v c k 0x02 (s.ctx c k).pc.toNat 0 0 := by
  have hpc : (s.atIssue c k).cur.pc = (s.ctx c k).pc := by rw [State.atIssue_cur, Ctx.issuing_eq]
  rw [State.issueFrom_clean hw hp hf, State.runWord_reserved _ hd]
  refine ⟨_, rfl, ?_⟩
  rw [State.reservedWord, hpc]
  exact State.atIssue_showsTrap hv hk _ (by decide) (by decide)

end

/-! ### The first step of an empty agenda (assumption log 1) -/

section
variable {s : State} {c : Nat}

theorem HomeCore.mem_insertCtx (h : HomeCore) (cycle : Nat) (a x : Nat × Ctx) (l : List (Nat × Ctx)) :
    x ∈ h.insertCtx cycle a l ↔ x = a ∨ x ∈ l := by
  induction l with
  | nil => simp [HomeCore.insertCtx]
  | cons b l ih =>
    unfold HomeCore.insertCtx
    split
    · simp
    · simp only [List.mem_cons, ih]
      tauto

theorem HomeCore.mem_insertCtxs (h : HomeCore) (cycle : Nat) (x : Nat × Ctx) (l : List (Nat × Ctx)) :
    x ∈ l.foldr (h.insertCtx cycle) [] ↔ x ∈ l := by
  induction l with
  | nil => rfl
  | cons a l ih => rw [List.foldr_cons, HomeCore.mem_insertCtx, ih, List.mem_cons]

/-- A ready context is listed among the contexts of its core. -/
theorem State.ready_mem {k : Nat} (h : s.ready c k = true) : (k, s.ctx c k) ∈ (s.core c).ctxs := by
  have hctx : s.ctx c k = ((s.core c).ctxs.find? k).getD {} := Map.get_eq_find? ..
  cases hf : (s.core c).ctxs.find? k with
  | some t =>
    rw [hctx, hf]
    exact Map.mem_of_find? hf
  | none =>
    rw [State.ready, hctx, hf] at h
    simp [State.readyTask] at h

theorem State.mem_issueOrder {k : Nat} (h : s.ready c k = true) : k ∈ s.issueOrder c := by
  have hmem : (k, s.ctx c k) ∈ (s.core c).ctxs.filter (fun (e : Nat × Ctx) => s.ready c e.1) :=
    List.mem_filter.mpr ⟨State.ready_mem h, h⟩
  exact List.mem_map.mpr ⟨_, (HomeCore.mem_insertCtxs ..).mpr hmem, rfl⟩

/-- A core with a ready context is active. -/
theorem State.active_of_ready {k : Nat} (h : s.ready c k = true) : (s.core c).active = true := by
  have hne : (s.core c).ctxs.isEmpty = false := List.isEmpty_eq_false_iff.mpr (List.ne_nil_of_mem (State.ready_mem h))
  simp [HomeCore.active, hne]

/-- A context that is held, or whose turn it is not, does not move the machine. -/
theorem State.moves_held {j : Nat} (h : s.issueHeld c j = true) : s.moves (fun u => u.tryIssue c j) = false := by
  have hsame : s.tryIssue c j = .next s := by
    unfold State.tryIssue
    unfold State.issueHeld at h
    split
    · split at h
      · next t ht =>
        simp only [of_decide_eq_true h, if_true]
      · cases h
    · rfl
  simp [State.moves, hsame]

/-- The first step of an empty agenda is that of the context of the first core that may issue, when it changes the machine. -/
theorem State.defaultStep_issue {k : Nat} {h : HomeCore} {rest : Map HomeCore} {t : State} (hcores : s.cores = (c, h) :: rest)
    (hmay : s.mayIssue c k = true) (hissue : s.issueFrom c k = .next t) (hmoved : t ≠ s.atIssue c k)
    (hchange : { t with curCore := s.curCore, curCtx := s.curCtx } ≠ s) : s.defaultStep = .next t := by
  simp only [State.mayIssue, Bool.and_eq_true] at hmay
  obtain ⟨⟨⟨hready, hheld⟩, hturn⟩, hfree⟩ := hmay
  have htry : s.tryIssue c k = .next t := by
    simp only [State.tryIssue, hturn, hfree, Bool.and_self, if_true, hissue, if_neg hmoved]
  have hmoves : s.moves (fun u => u.tryIssue c k) = true := by simp [State.moves, htry, hchange]
  obtain ⟨before, after, horder⟩ : ∃ before after, s.issueOrder c = before ++ k :: after ∧ k ∉ before := by
    obtain ⟨before, after, e, hn⟩ := List.eq_append_cons_of_mem (State.mem_issueOrder hready)
    exact ⟨before, after, e, hn⟩
  obtain ⟨horder, hk⟩ := horder
  have hbefore : ∀ j ∈ before, s.issueHeld c j = true := by
    have htake : (s.issueOrder c).takeWhile (· != k) = before := by
      rw [horder, List.takeWhile_append_of_pos (by intro j hj; simpa using ne_of_mem_of_not_mem hj hk)]
      simp
    rw [htake] at hheld
    exact List.all_eq_true.mp hheld
  obtain ⟨tail, hpicks⟩ : ∃ tail, s.corePicks c =
      (before.map fun j => fun (u : State) => u.tryIssue c j) ++ (fun u => u.tryIssue c k) :: tail := by
    unfold State.corePicks
    simp only [State.active_of_ready hready, Bool.not_true, Bool.false_eq_true, if_false, horder, List.map_append, List.map_cons,
      List.append_assoc, List.cons_append]
    exact ⟨_, rfl⟩
  have hfind : ∀ more, (s.corePicks c ++ more).find? s.moves = some (fun u => u.tryIssue c k) := by
    intro more
    rw [hpicks, List.append_assoc, List.find?_eq_some_iff_append]
    refine ⟨hmoves, _, _, rfl, ?_⟩
    intro f hf
    obtain ⟨j, hj, rfl⟩ := List.mem_map.mp hf
    rw [State.moves_held (hbefore j hj)]
    rfl
  unfold State.defaultStep
  simp only [hcores, Map.keys, List.map_cons, List.flatMap_cons, List.append_assoc, hfind]
  exact htry

end

/-! ### Time that passes -/

section
variable (s : State) (n : Nat)

/-- A core once cycles have passed. -/
def State.grownCore (c : Nat) (h : HomeCore) : HomeCore :=
  { h with lastLive := if h.live then s.cycle + n else h.lastLive, ctxs := h.ctxs.map (fun x => (x.1, s.grow n c x.1 x.2)) }

/-- The contexts of a core once cycles have passed. -/
theorem State.ctxs_growAges (c : Nat) : ((s.growAges n).core c).ctxs = (s.core c).ctxs.map (fun x => (x.1, s.grow n c x.1 x.2)) := by
  have hcore : (s.growAges n).core c = ((s.growAges n).cores.find? c).getD {} := Map.get_eq_find? ..
  have hold : s.core c = (s.cores.find? c).getD {} := Map.get_eq_find? ..
  have hcores : (s.growAges n).cores = s.cores.map (fun e => (e.1, s.grownCore n e.1 e.2)) := rfl
  rw [hcore, hold, hcores, Map.find?_mapKey]
  cases s.cores.find? c <;> rfl

theorem State.ctx_growAges {c k : Nat} {x : Ctx} (h : (s.core c).ctxs.find? k = some x) : (s.growAges n).ctx c k = s.grow n c k x := by
  rw [State.ctx, HomeCore.ctx, Map.get_eq_find?, State.ctxs_growAges, Map.find?_mapKey (fun k x => s.grow n c k x), h]
  rfl

/-- Cycles change nothing of a context but its age and its promotion. -/
theorem State.grow_frame (c k : Nat) (t : Ctx) : { s.grow n c k t with age := t.age, promoted := t.promoted } = t := by
  unfold State.grow
  dsimp only
  split
  · split <;> rfl
  · rfl

theorem State.ctx_growAges_frame (c k : Nat) :
    { (s.growAges n).ctx c k with age := (s.ctx c k).age, promoted := (s.ctx c k).promoted } = s.ctx c k := by
  have hctx : s.ctx c k = ((s.core c).ctxs.find? k).getD {} := Map.get_eq_find? ..
  cases hf : (s.core c).ctxs.find? k with
  | some x =>
    rw [State.ctx_growAges s n hf, hctx, hf]
    exact State.grow_frame s n c k x
  | none =>
    have hnew : (s.growAges n).ctx c k = {} := by
      rw [State.ctx, HomeCore.ctx, Map.get_eq_find?, State.ctxs_growAges, Map.find?_mapKey (fun k x => s.grow n c k x), hf]
      rfl
    rw [hnew, hctx, hf]
    rfl

end

section
variable {s : State}

/-- A request within its lease is still within it once time has passed. -/
theorem State.timeFree_req {now : Nat → Nat} (h : s.timeFree now = true) {x : Chan} (hx : x ∈ s.chans) {r : Req} (hr : r ∈ x.reqs)
    (ht : r.timed = true) {e : Nat} (he : r.exp = some e) (hold : s.timeOf (agentDie r.agent) < e) : now (agentDie r.agent) < e := by
  simp only [State.timeFree, Bool.and_eq_true, List.all_eq_true] at h
  obtain ⟨⟨hreqs, -⟩, -⟩ := h
  simpa [Req.inTime, he, ht, hold] using hreqs x hx r hr

/-- A dirty line within its limit is still within it once time has passed. -/
theorem State.timeFree_line {now : Nat → Nat} (h : s.timeFree now = true) {e : Nat × HomeCore} (he : e ∈ s.cores) {l : L1Line}
    (hl : l ∈ e.2.l1) (hd : l.isDirty = true) (hold : s.timeOf (dieOf e.1) + 2000 ≤ l.exp) : now (dieOf e.1) + 2000 ≤ l.exp := by
  simp only [State.timeFree, Bool.and_eq_true, List.all_eq_true] at h
  obtain ⟨⟨-, hcores⟩, -⟩ := h
  obtain ⟨-, hlines⟩ := hcores e he
  simpa [L1Line.inTime, hd, hold] using hlines l hl

/-- A ready context that its core leaves unissued stays within AGELIM. -/
theorem State.cyclesFree_age {n : Nat} (h : s.cyclesFree n = true) {e : Nat × HomeCore} (he : e ∈ s.cores)
    {x : Nat × Ctx} (hx : x ∈ e.2.ctxs) (hready : s.readyTask e.1 x.2 = true) (hheld : s.issueHeld e.1 x.1 = false) (hwant : s.wantsCore e.1 = false)
    (hslot : (s.core e.1).issuedAt ≠ some s.cycle) : x.2.age + n ≤ (s.core e.1).agelim.toNat % 2 ^ 16 := by
  simp only [State.cyclesFree, Bool.and_eq_true, List.all_eq_true] at h
  obtain ⟨hage, -⟩ := h e he
  simpa [State.mayAge, hready, hheld, hwant, hslot] using hage x hx

/-- A context that stays ready ages by the cycles that pass. -/
theorem State.grow_ready {n c k : Nat} {x : Ctx} (hready : ({ s with cycle := s.cycle + n } : State).readyTask c x = true)
    (hheld : ({ s with cycle := s.cycle + n } : State).issueHeld c k = false) (hchosen : (s.core c).chosen = none) (hat : x.readyAt ≤ s.cycle) :
    (s.grow n c k x).age = x.age + n := by
  have hpassed : s.cycle + n - max s.cycle x.readyAt = n := by omega
  simp [State.grow, hready, hheld, hchosen, hpassed]

/-- A context that is not ready has age 0. -/
theorem State.grow_notReady {n c k : Nat} {x : Ctx} (hready : ({ s with cycle := s.cycle + n } : State).readyTask c x = false) :
    (s.grow n c k x).age = 0 ∧ (s.grow n c k x).promoted = false := by
  simp [State.grow, hready]

/-- The time of each die once it has passed. -/
theorem timeOf_passed (f : Nat → Nat) {d : Nat} (h : d < 4) : Map.get 0 ((natsFrom 0 4).map (fun d => (d, f d))) d = f d := by
  have hdies : natsFrom 0 4 = [0, 1, 2, 3] := rfl
  rw [hdies]
  obtain rfl | rfl | rfl | rfl : d = 0 ∨ d = 1 ∨ d = 2 ∨ d = 3 := by omega
  all_goals rfl

end

/-! ### The issue of a word that is no instruction (R95, R97) -/

/-- The issue of a word that is no instruction traps at the handler or parks its task, the word in the record. -/
theorem execIllegalEncoding_traps (s : State) (w : W32) (hv : s.cur.var = []) (h : s.cur.handles 0x01 0 = true ∨ s.cur.killed = false) :
    ∃ t, execIllegalEncoding w s = .next t ∧ t.cur = s.cur.trapped 0x01 0 0 s.cur.pc.toNat ∧ t.mem = s.mem ∧
      (s.cur.handles 0x01 0 = true → t.faults = s.faults) ∧
      (s.cur.handles 0x01 0 = false → ∃ r : FaultRec, t.faults = s.faults ++ [r] ∧ nth 0 r.words 5 = w64 w.toNat) := by
  obtain ⟨hcore, hctx⟩ := State.curAt_trapNow 0 s.cur.pc.toNat w.toNat h
  have ht : execIllegalEncoding w s = .next (s.trapNow s.curCore s.curCtx 0x01 0 0 s.cur.pc.toNat w.toNat) := by
    rw [execIllegalEncoding, State.trapAt_now _ _ _ hv]
  refine ⟨_, ht, ?_, State.mem_trapNow _ _ _ h, State.faults_trapNow_handled _ _ _, ?_⟩
  · rw [State.cur, hcore, hctx]
    exact State.ctx_trapNow _ _ _ h
  · intro hh
    exact ⟨_, State.faults_trapNow_parked _ _ _ hh (h.resolve_left (by simp [hh])), rfl⟩

/-! ### The parts of the statement -/

/-- A step that issues from a context (R91, R97, R139, R444, R460). -/
theorem step_issue {s : State} {c k : Nat} {rest : List Pick} (h : s.agenda = .issue c k :: rest) :
    let u : State := { s with agenda := rest }
    step s = if u.mayIssue c k = true then u.issueFrom c k else .next u := by
  unfold step
  rw [h]
  rfl

/-- The step of an empty agenda. -/
theorem step_default {s : State} (h : s.agenda = []) : step s = s.defaultStep := by
  unfold step
  rw [h]

/-- A step in which time passes leaves the state, or lets it pass within its bounds. -/
theorem step_tick {s : State} {n : Nat} {ns : List Nat} {rest : List Pick} (h : s.agenda = .tick n ns :: rest) :
    let u : State := { s with agenda := rest }
    let later : State := { u.growAges n with cycle := s.cycle + n, time := (natsFrom 0 4).map (fun d => (d, s.timeOf d + nth 0 ns d)) }
    step s = .next u ∨ (u.timeFree (fun d => s.timeOf d + nth 0 ns d) = true ∧ u.cyclesFree n = true ∧ step s = .next later) := by
  intro u later
  have hstep : step s = .next (u.tick n ns) := by
    unfold step
    rw [h]
    rfl
  by_cases hb : (u.timeFree (fun d => u.timeOf d + nth 0 ns d) && u.cyclesFree n) = true
  · obtain ⟨htime, hcycles⟩ := Bool.and_eq_true_iff.mp hb
    refine Or.inr ⟨htime, hcycles, ?_⟩
    rw [hstep, State.tick, if_pos hb]
    rfl
  · refine Or.inl ?_
    rw [hstep, State.tick, if_neg hb]

end Sys2Proof.Machine

namespace Sys2Proof
open Machine

/-- Settles O55: the issue of a context, a step of another agent, the first step of an empty agenda, the time that passes, and a word
that is no instruction. -/
theorem stepRuns : Obligations.StepRuns := by
  refine ⟨?_, ?_, ?_, ?_, ?_⟩
  · intro s c k rest hagenda u t w waits traps
    have hstep := step_issue hagenda
    have hrun : u.mayIssue c k = true → step s = u.issueFrom c k := fun hm => hstep.trans (if_pos hm)
    refine ⟨fun hm => hstep.trans (if_neg (by simp [u, hm])), ?_, ?_, ?_, ?_⟩
    · intro r cause info fb epc insn hm hw hk hc hi he
      rw [hrun hm]
      exact State.issueFrom_showsTrap hw hk hc hi he
    · intro hm hw hp hv hk
      rw [hrun hm]
      exact State.issueFrom_poisoned hw hv hk hp
    · intro hm hw hp hf hv hk
      rw [hrun hm]
      exact State.issueFrom_fetchPoison hw hv hk hp hf
    · intro hm hw hp hf
      rw [hrun hm]
      refine ⟨fun i hd => ?_, fun hd hv hk => ?_, fun hd hv hk => ?_⟩
      · have hd' : decodeWord (u.wordAt c (u.ctx c k)).toNat = .ok i := hd
        exact (State.issueFrom_clean hw hp hf).trans (State.runWord_ok _ hd')
      · rw [hrun hm]
        exact State.issueFrom_illegal hw hv hk hp hf hd
      · rw [hrun hm]
        exact State.issueFrom_reserved hw hv hk hp hf hd
  · intro s i rest hagenda
    unfold step
    rw [hagenda]
    rfl
  · intro s c k h rest i t hagenda hcores hm hw hp hf hd hexec hmoved hchange
    have hw' : ¬(s.ctx c k).Traps := fun ⟨r, cause, info, fb, epc, insn, e⟩ => hw r cause info fb epc insn e
    have hissue : s.issueFrom c k = .next t := ((State.issueFrom_clean hw' hp hf).trans (State.runWord_ok _ hd)).trans hexec
    rw [step_default hagenda]
    exact State.defaultStep_issue hcores hm hissue hmoved hchange
  · intro s n ns rest hagenda u now later
    obtain hstay | ⟨htime, hcycles, hpass⟩ := step_tick hagenda
    · exact ⟨u, hstay, rfl, rfl, fun _ _ => rfl, Or.inl rfl⟩
    · refine ⟨_, hpass, rfl, rfl, State.ctx_growAges_frame u n, Or.inr ⟨rfl, fun d hd => timeOf_passed now hd, ?_, ?_, ?_, ?_, ?_⟩⟩
      · exact fun x hx r hr ht e he hold => State.timeFree_req htime hx hr ht he hold
      · exact fun e he l hl hd hold => State.timeFree_line htime he hl hd hold
      · exact fun e he x hx hready hheld _ hwant hslot => State.cyclesFree_age hcycles he hx hready hheld hwant hslot
      · intro c k x hx hready hheld hchosen hat
        exact (congrArg Ctx.age (State.ctx_growAges u n hx)).trans (State.grow_ready hready hheld hchosen hat)
      · intro c k x hx hready
        have hgrown : _ = u.grow n c k x := State.ctx_growAges u n hx
        obtain ⟨hage, hpromoted⟩ := State.grow_notReady (s := u) (k := k) hready
        exact ⟨(congrArg Ctx.age hgrown).trans hage, (congrArg Ctx.promoted hgrown).trans hpromoted⟩
  · intro s w handled hv hor
    have hhandled : handled ↔ s.cur.handles 0x01 0 = true := by
      rw [Ctx.handles_iff]
      exact (and_iff_right ((routeH_iff 1 0).mp rfl)).symm
    have hpc : s.cur.pc.toNat < 2 ^ 16 := s.cur.pc.isLt
    obtain ⟨t, ht, hcur, hmem, hfs, hfp⟩ := execIllegalEncoding_traps s w hv (hor.imp_left hhandled.mp)
    refine ⟨t, ht, ?_, ?_, hmem, ?_, ?_⟩
    · rw [hcur, Ctx.trapped_faulta]
      exact faultaWord_cause _ (by decide) (by decide) hpc
    · rw [hcur, Ctx.trapped_faulta]
      exact faultaWord_epc _ (by decide) (by decide) hpc
    · intro hh
      obtain ⟨hupc, huth, -⟩ := s.cur.trapped_handled 0x01 0 0 s.cur.pc.toNat (hhandled.mp hh)
      rw [hcur]
      exact ⟨hupc, huth, hfs (hhandled.mp hh)⟩
    · intro hh
      have hs : s.cur.handles 0x01 0 = false := by rwa [← Bool.not_eq_true, ← hhandled]
      obtain ⟨-, -, hphase, -⟩ := s.cur.trapped_parked 0x01 0 0 s.cur.pc.toNat hs
      rw [hcur]
      exact ⟨hphase, hfp hs⟩

end Sys2Proof
end

section
/-!
SUPPORT. What an answer leaves as it was: memory, the outstanding requests and every context but the one that it is for (R154, R158).
-/
namespace Sys2Proof.Machine

/-! ### Operations that leave memory as it was -/

section
variable (s : State)

theorem State.mem_updLaunch (id : Nat) (f : Launch → Launch) : (s.updLaunch id f).mem = s.mem := by
  unfold State.updLaunch
  split <;> rfl

theorem State.mem_countUps (fs : List Flight) : ∀ s : State, (fs.foldl (fun s f => s.countUp f.launch) s).mem = s.mem := by
  induction fs with
  | nil => exact fun _ => rfl
  | cons f fs ih => exact fun s => (ih _).trans (s.mem_updLaunch ..)

theorem State.mem_tally (id : Nat) (how : TaskEnd) : (s.tally id how).mem = s.mem := by
  cases how
  · rfl
  · exact s.mem_updLaunch ..
  · exact s.mem_updLaunch ..

theorem State.mem_writeBack (c : Nat) (l : L1Line) : (s.writeBack c l).mem = s.mem := by
  unfold State.writeBack
  split <;> rfl

theorem State.mem_writeBackAt (c asid va : Nat) : (s.writeBackAt c asid va).mem = s.mem := by
  unfold State.writeBackAt
  split
  · exact s.mem_writeBack ..
  · rfl

theorem State.mem_raiseHorizon (die exp : Nat) : (s.raiseHorizon die exp).mem = s.mem := by
  unfold State.raiseHorizon
  split <;> rfl

theorem State.mem_grant (die slice asid va : Nat) (tr : Tr) : (s.grant die slice asid va tr).mem = s.mem := by
  unfold State.grant
  dsimp only
  split
  · rfl
  · split
    · exact s.mem_raiseHorizon ..
    · exact s.mem_raiseHorizon ..

/-- A translation for a read sets no bit of a page table. -/
theorem State.mem_translate_read (die asid va : Nat) (c : Option Nat) : (s.translate die asid va false c).2.mem = s.mem := by
  unfold State.translate
  split
  · rfl
  · split
    · rfl
    · cases c <;> exact s.mem_grant ..

theorem State.mem_sendLeave (c asid group : Nat) : (s.sendLeave c asid group).2.mem = s.mem := by
  have htr := s.mem_translate_read (dieOf c) asid group (some c)
  unfold State.sendLeave
  split
  · next e => rw [e] at htr; exact htr
  · next e => rw [e] at htr; exact (State.mem_writeBackAt ..).trans htr

theorem State.mem_finishLeaving (l : Leaving) : (s.finishLeaving l).mem = s.mem := by
  refine (State.mem_updLaunch ..).trans ?_
  split
  · dsimp only
    split <;> rfl
  · rfl

theorem State.mem_leaveGroups (l : Leaving) (gs : List Nat) : ∀ s : State, (s.leaveGroups l gs).mem = s.mem := by
  induction gs with
  | nil => exact fun s => s.mem_finishLeaving l
  | cons g gs ih =>
    intro s
    have hsend := s.mem_sendLeave l.core l.asid g
    unfold State.leaveGroups
    split
    · next e => rw [e] at hsend; exact hsend
    · next e => rw [e] at hsend; exact (ih _).trans hsend

theorem State.mem_poolGrant (o : Nat) (q : List PoolReq) : ∀ s : State, (s.poolGrant o q).mem = s.mem := by
  induction q with
  | nil => exact fun _ => rfl
  | cons r q ih =>
    intro s
    unfold State.poolGrant
    split
    · exact ih _
    · rfl

theorem State.mem_poolRun (o : Nat) : (s.poolRun o).mem = s.mem := by
  unfold State.poolRun
  split
  · rfl
  · exact State.mem_poolGrant ..

theorem State.mem_leavePool (c k uid : Nat) : (s.leavePool c k uid).mem = s.mem := by
  unfold State.leavePool
  split <;> rfl

theorem State.mem_withdraw (c uid : Nat) (ldf : Option Req) : (s.withdraw c uid ldf).mem = s.mem := by
  cases ldf <;> rfl

theorem State.mem_vacated (c k : Nat) : (s.vacated c k).mem = s.mem :=
  (State.mem_countUps _ _).trans (s.mem_withdraw ..)

theorem State.mem_closeTask (c k : Nat) (how : TaskEnd) : (s.closeTask c k how).mem = s.mem := by
  have hleft : (((s.vacated c k).leavePool c k (s.ctx c k).uid).poolRun (c / 8)).mem = s.mem :=
    (State.mem_poolRun ..).trans ((State.mem_leavePool ..).trans (s.mem_vacated c k))
  exact (State.mem_leaveGroups _ _ _).trans ((State.mem_tally ..).trans hleft)

/-- A trap leaves memory, even where it ends its task. -/
theorem State.mem_raise (c k : Nat) (req : Option Nat) (cause info : Nat) (fb : W64) (epc insn : Nat) :
    (s.raise c k req cause info fb epc insn).mem = s.mem := by
  unfold State.raise
  split
  · rw [State.trapNow_cases]
    dsimp only
    split
    · rfl
    · split
      · exact State.mem_closeTask ..
      · rfl
  · rfl

theorem State.mem_unwait (c k : Nat) : (s.unwait c k).mem = s.mem :=
  (State.mem_poolRun ..).trans ((State.mem_leavePool ..).trans (s.mem_withdraw ..))

theorem State.mem_answerTrap (r : Req) (c cause info : Nat) (fb : W64) (regs : List Reg) :
    (s.answerTrap r c cause info fb regs).mem = s.mem := by
  unfold State.answerTrap
  dsimp only
  split
  · rfl
  · split
    · rfl
    · exact State.mem_raise ..
  · exact (State.mem_raise ..).trans (State.mem_unwait ..)

end

/-! ### The acknowledgement of a write (R158, R160) -/

/-- Memory, outstanding requests and contexts are as they were, but for the positions that tasks are held to have seen. -/
structure State.SeenOnly (s t : State) : Prop where
  mem   : t.mem = s.mem
  out   : ∀ c, (t.core c).out = (s.core c).out
  ctx   : ∀ c k, ∃ m, t.ctx c k = { s.ctx c k with seen := m }
  saves : s.saves = [] → t.saves = []

theorem State.SeenOnly.refl (s : State) : s.SeenOnly s := ⟨rfl, fun _ => rfl, fun _ _ => ⟨_, rfl⟩, id⟩

theorem State.SeenOnly.trans {s t u : State} (h : s.SeenOnly t) (g : t.SeenOnly u) : s.SeenOnly u := by
  refine ⟨g.mem.trans h.mem, fun c => (g.out c).trans (h.out c), fun c k => ?_, g.saves ∘ h.saves⟩
  obtain ⟨m, hm⟩ := h.ctx c k
  obtain ⟨n, hn⟩ := g.ctx c k
  exact ⟨n, by rw [hn, hm]⟩

section
variable (s : State)

/-- A change of a core's L1 is none of what a task may see of itself. -/
theorem State.seenOnly_updCore (c : Nat) (f : HomeCore → HomeCore) (hctxs : (f (s.core c)).ctxs = (s.core c).ctxs)
    (hout : (f (s.core c)).out = (s.core c).out) : s.SeenOnly (s.updCore c f) := by
  refine ⟨rfl, fun d => ?_, fun d k => ⟨_, s.ctx_updCore hctxs d k⟩, id⟩
  rw [State.core_updCore_eq]
  split
  · next e => rw [hout, e]
  · rfl

theorem State.seenOnly_putRdc (p n : Nat) (y : RdcLine) : s.SeenOnly (s.putRdc p n y) := ⟨rfl, fun _ => rfl, fun _ _ => ⟨_, rfl⟩, id⟩

theorem State.seenOnly_ackRdc (c : Nat) (x : Resp) : s.SeenOnly (s.ackRdc c x) := by
  unfold State.ackRdc
  split
  · split
    · exact .refl s
    · exact s.seenOnly_putRdc ..
  · exact .refl s

theorem State.seenOnly_ackL1 (c : Nat) (x : Resp) : s.SeenOnly (s.ackL1 c x) := by
  unfold State.ackL1
  dsimp only
  split
  · exact .refl s
  · split
    · exact .refl s
    · exact s.seenOnly_updCore c _ rfl rfl

theorem Ctx.saw_eq (t : Ctx) (pa pos : Nat) : ∃ m, t.saw pa pos = { t with seen := m } := by
  unfold Ctx.saw
  split
  · exact ⟨_, rfl⟩
  · exact ⟨_, rfl⟩

/-- A context of a core once a task has seen a position. -/
def Ctx.sawIf (t : Ctx) (pos : Nat) (e : Nat × Nat) : Ctx := if t.uid == e.1 then t.saw e.2 pos else t

theorem Ctx.sawIf_eq (t : Ctx) (pos : Nat) (e : Nat × Nat) : ∃ m, t.sawIf pos e = { t with seen := m } := by
  unfold Ctx.sawIf
  split
  · exact t.saw_eq ..
  · exact ⟨_, rfl⟩

/-- A core once a task has seen a position. -/
def HomeCore.saw (h : HomeCore) (pos : Nat) (e : Nat × Nat) : HomeCore := { h with ctxs := h.ctxs.map (fun x => (x.1, x.2.sawIf pos e)) }

theorem HomeCore.ctx_saw (h : HomeCore) (pos : Nat) (e : Nat × Nat) (k : Nat) : ∃ m, (h.saw pos e).ctx k = { h.ctx k with seen := m } := by
  unfold HomeCore.ctx HomeCore.saw
  rw [Map.get_eq_find?, Map.find?_mapKey (fun _ (t : Ctx) => t.sawIf pos e), Map.get_eq_find?]
  cases h.ctxs.find? k with
  | none => exact ⟨_, rfl⟩
  | some t => exact t.sawIf_eq pos e

theorem State.core_taskSaw (c pos : Nat) (e : Nat × Nat) (d : Nat) :
    (s.taskSaw c pos e).core d = if d = c then (s.core c).saw pos e else s.core d := by
  have hone : ∀ m : Map Ctx, m.map (fun (x : Nat × Ctx) => if x.2.uid == e.1 then (x.1, x.2.saw e.2 pos) else x) =
      m.map (fun x => (x.1, x.2.sawIf pos e)) := by
    intro m
    refine List.map_congr_left fun x _ => ?_
    unfold Ctx.sawIf
    split <;> rfl
  have hcore : (s.taskSaw c pos e).core d = (s.updCore c (fun h =>
      { h with ctxs := h.ctxs.map (fun (x : Nat × Ctx) => if x.2.uid == e.1 then (x.1, x.2.saw e.2 pos) else x) })).core d := rfl
  rw [hcore, State.core_updCore_eq, HomeCore.saw, hone]

theorem State.seenOnly_taskSaw (c pos : Nat) (e : Nat × Nat) : s.SeenOnly (s.taskSaw c pos e) := by
  refine ⟨rfl, fun d => ?_, fun d k => ?_, fun h => congrArg (List.map _) h⟩
  · rw [State.core_taskSaw]
    split
    · next hd => rw [hd]; rfl
    · rfl
  · unfold State.ctx
    rw [State.core_taskSaw]
    split
    · next hd => rw [hd]; exact HomeCore.ctx_saw ..
    · exact ⟨_, rfl⟩

theorem State.seenOnly_ackWrite (c : Nat) (o : Out) (x : Resp) : s.SeenOnly (s.ackWrite c o x) := by
  unfold State.ackWrite
  split
  · exact .refl s
  · have hcopies : s.SeenOnly ((if x.ok then s.ackRdc c x else s).ackL1 c x) := by
      split
      · exact (s.seenOnly_ackRdc c x).trans (State.seenOnly_ackL1 ..)
      · exact s.seenOnly_ackL1 c x
    dsimp only
    split
    · exact hcopies.trans (List.foldlRecOn _ _ (.refl _) fun _ ht e _ => ht.trans (State.seenOnly_taskSaw _ c x.pos e))
    · exact hcopies

end

/-! ### The task that an answer is for -/

section
variable {s : State} {c k uid : Nat} {f : State → State}

theorem State.withTask_live (hu : (s.ctx c k).uid = uid) (hf : (s.ctx c k).phase ≠ .free) (hl : (s.ctx c k).phase ≠ .leaving) :
    s.withTask c k uid f = f s := if_pos ⟨hu, hf, hl⟩

/-- An answer to a task that is no more, and is not saved, is discarded. -/
theorem State.withTask_gone (hu : (s.ctx c k).uid ≠ uid) (hs : s.saves = []) : s.withTask c k uid f = s := by
  unfold State.withTask
  rw [if_neg (fun h => hu h.1), hs]
  rfl

/-- What neither writes of the context nor the delivery change, an answer leaves. -/
theorem State.withTask_keeps {α : Type} (g : State → α) (hset : ∀ (s : State) (t : Ctx), g (s.setCtx c k t) = g s)
    (hsaves : ∀ (s : State) (l : List SaveRec), g { s with saves := l } = g s) (hf : ∀ s, g (f s) = g s) :
    g (s.withTask c k uid f) = g s := by
  unfold State.withTask
  dsimp only
  split
  · exact hf s
  · split
    · rfl
    · split
      · rfl
      · exact (hset _ _).trans ((hsaves _ _).trans ((hf _).trans (hset s _)))

theorem State.mem_withTask (hf : ∀ s, (f s).mem = s.mem) : (s.withTask c k uid f).mem = s.mem :=
  State.withTask_keeps (·.mem) (fun _ _ => rfl) (fun _ _ => rfl) hf

end

theorem State.out_setCtx (s : State) (c k d : Nat) (t : Ctx) : ((s.setCtx c k t).core d).out = (s.core d).out := by
  rw [State.setCtx, State.core_updCore_eq]
  split
  · next e => rw [e]; rfl
  · rfl

/-! ### The head of a channel reaches a core -/

/-- What a core keeps of the request of an answer. -/
def State.requestOf (s : State) (c : Nat) (x : Resp) : Out :=
  ((s.core c).out.find? (fun o => o.req.id == x.req.id)).getD { req := x.req, write := false, own := true }

/-- The state once the answer has left its channel and its request is no longer outstanding, its copies acknowledged. -/
def State.received (s : State) (c : Nat) (x : Resp) : State :=
  (({ s with rchans := popResp s.rchans x.req.home x.req.agent } : State).updCore c
    (fun h => { h with out := h.out.filter (fun o => o.req.id != x.req.id) })).ackWrite c (s.requestOf c x) x

section
variable {s : State} {c : Nat} {x : Resp}

/-- RESPOND of a core delivers the oldest answer. -/
theorem exec_respond_core {rest : List Resp} (h : s.rchan x.req.home x.req.agent = x :: rest) (ha : x.req.agent = .core c) :
    exec (.respond x.req.home x.req.agent) s =
      .next (({ s with rchans := popResp s.rchans x.req.home x.req.agent } : State).coreRespond c x) := by
  have hdeliver : exec (.respond x.req.home x.req.agent) s = .next (s.respondHead x.req.home x.req.agent) := rfl
  rw [hdeliver, State.respondHead, h, ha]
  rfl

/-- The request of the answer is the only one that is no longer outstanding. -/
theorem State.received_out : ∀ o ∈ ((s.received c x).core c).out, o.req.id ≠ x.req.id := by
  intro o ho
  unfold State.received at ho
  rw [(State.seenOnly_ackWrite ..).out, State.core_updCore] at ho
  simpa using (List.mem_filter.mp ho).2

/-- What the arrival of an answer leaves of memory and of contexts. -/
theorem State.received_frame :
    (s.received c x).mem = s.mem ∧ (∀ d k, ∃ m, (s.received c x).ctx d k = { s.ctx d k with seen := m }) ∧
      (s.saves = [] → (s.received c x).saves = []) := by
  have hack := State.seenOnly_ackWrite
    (({ s with rchans := popResp s.rchans x.req.home x.req.agent } : State).updCore c
      (fun h => { h with out := h.out.filter (fun o => o.req.id != x.req.id) })) c (s.requestOf c x) x
  refine ⟨hack.mem, fun d k => ?_, hack.saves⟩
  obtain ⟨m, hm⟩ := hack.ctx d k
  exact ⟨m, hm.trans (by rw [State.ctx_updCore _ rfl]; rfl)⟩

theorem State.received_registered : ((s.received c x).core c).registered x.req.id = none := by
  unfold HomeCore.registered
  rw [Option.map_eq_none_iff, List.find?_eq_none]
  intro o ho
  simp [State.received_out o ho]

end

end Sys2Proof.Machine
end

section
/-!
SUPPORT. What an answer gives the task that it is for: a value in its register, or a trap at the instruction that asked (R102, R156, R459).
-/
namespace Sys2Proof.Machine

/-! ### Registers -/

/-- What a write leaves of the x registers depends on them alone. -/
theorem Ctx.put_x_congr {t u : Ctx} (h : t.x = u.x) (r : Reg) (v : RegVal) : (t.put r v).x = (u.put r v).x := by
  have hother : ∀ t : Ctx, (∀ b i w, ¬(r = .x b i ∧ v = .word w)) → (t.put r v).x = t.x := by
    intro t hne
    unfold Ctx.put
    split
    · next b i w => exact absurd ⟨rfl, rfl⟩ (hne b i w)
    all_goals first | rfl | (split <;> rfl)
  by_cases hword : ∃ b i w, r = .x b i ∧ v = .word w
  · obtain ⟨b, i, w, rfl, rfl⟩ := hword
    by_cases hi : i = 0
    · rw [hi, Ctx.put_x0, Ctx.put_x0, h]
    · rw [Ctx.put_x _ _ _ _ hi, Ctx.put_x _ _ _ _ hi, h]
  · have hne : ∀ b i w, ¬(r = .x b i ∧ v = .word w) := fun b i w e => hword ⟨b, i, w, e⟩
    rw [hother t hne, hother u hne, h]

theorem Ctx.settle_x_congr {t u : Ctx} (hx : t.x = u.x) (hp : t.pend = u.pend) : t.settle.x = u.settle.x := by
  have hcommits : ∀ (l : List Pend) (t u : Ctx), t.x = u.x → (l.foldl Ctx.commit t).x = (l.foldl Ctx.commit u).x := by
    intro l
    induction l with
    | nil => exact fun _ _ h => h
    | cons p l ih =>
      intro t u h
      refine ih _ _ ?_
      unfold Ctx.commit
      split
      · exact Ctx.put_x_congr h ..
      · exact h
  unfold Ctx.settle
  rw [hp]
  exact hcommits _ _ _ hx

/-- The result of an answer in its register, its interlock and the wait for it over. -/
theorem Ctx.take1_gives (t : Ctx) (id : Nat) (reg : Reg) (v : W64) :
    (t.take1 id reg v).x = (t.put reg (.word v)).x ∧ (t.take1 id reg v).var = t.var.filter (· != reg) ∧ (t.take1 id reg v).pc = t.pc ∧
      (t.take1 id reg v).groups = t.groups ∧
      (t.wait = .answer id → (t.take1 id reg v).phase = .running ∧ (t.take1 id reg v).wait = if t.phase = .parked then .settle else .none) := by
  have hgroups : (t.put reg (.word v)).groups = t.groups := by rw [Ctx.put_other]
  unfold Ctx.take1 Ctx.answered Ctx.answerReg
  simp only [Ctx.put_wait, Ctx.put_var, Ctx.put_phase]
  split
  · exact ⟨rfl, rfl, Ctx.put_pc .., hgroups, fun _ => ⟨rfl, rfl⟩⟩
  · next hw => exact ⟨rfl, rfl, Ctx.put_pc .., hgroups, fun h => absurd h hw⟩

/-! ### A task that gives up its wait (R215, R245, R401, R443) -/

/-- The context of a task that has given up its wait: its claim may have been granted since. -/
def Ctx.unwaited (t : Ctx) (claim : Option Claim) (reclaim : Bool) : Ctx :=
  { t with claim := claim, reclaim := reclaim, expired := false, recalled := false }

section
variable {s : State} {c k : Nat}

theorem Ctx.receive_eq {t : Ctx} (h : ∀ reg, t.wait ≠ .pool reg) (r : PoolReq) (lanes : Nat) :
    ∃ cl rc, t.receive r lanes = { t with claim := cl, reclaim := rc } := by
  unfold Ctx.receive
  split
  · exact ⟨_, _, rfl⟩
  · dsimp only
    split
    · next reg hw => exact absurd hw (h reg)
    · exact ⟨_, _, rfl⟩

/-- Grants of lanes change the claim of a context that does not wait for them, and nothing else of it. -/
theorem State.ctx_poolGrant (o : Nat) (q : List PoolReq) : ∀ s : State, (∀ reg, (s.ctx c k).wait ≠ .pool reg) →
    ∃ cl rc, (s.poolGrant o q).ctx c k = { s.ctx c k with claim := cl, reclaim := rc } := by
  induction q with
  | nil => exact fun s _ => ⟨_, _, rfl⟩
  | cons r q ih =>
    intro s h
    unfold State.poolGrant
    split
    · next lanes _ =>
      have hstep : ∃ cl rc, (s.updCtx r.core r.ctx (·.receive r lanes)).ctx c k = { s.ctx c k with claim := cl, reclaim := rc } := by
        by_cases e : c = r.core ∧ k = r.ctx
        · obtain ⟨rfl, rfl⟩ := e
          rw [State.updCtx, State.ctx_setCtx]
          exact Ctx.receive_eq h r lanes
        · rw [State.updCtx, State.ctx_setCtx_ne _ _ e]
          exact ⟨_, _, rfl⟩
      obtain ⟨cl, rc, hctx⟩ := hstep
      obtain ⟨cl', rc', hrest⟩ := ih _ (by rw [hctx]; exact h)
      exact ⟨cl', rc', by rw [hrest, hctx]⟩
    · exact ⟨_, _, rfl⟩

theorem State.ctx_enqueue (d : Nat) (r : Req) (w o : Bool) : (s.enqueue d r w o).ctx c k = s.ctx c k :=
  State.ctx_updCore ({ s with nextId := s.nextId + 1 } : State) rfl c k

theorem State.ctx_withdraw (d uid : Nat) (ldf : Option Req) : (s.withdraw d uid ldf).ctx c k = s.ctx c k := by
  have hout : (s.withdraw d uid none).ctx c k = s.ctx c k :=
    State.ctx_updCore ({ s with waiters := s.waiters.filter (fun r => !(r.agent == .core d && r.uid == uid)) } : State) rfl c k
  cases ldf with
  | none => exact hout
  | some r => exact (State.ctx_enqueue (s := s.withdraw d uid none) ..).trans hout

theorem State.ctx_leavePool (d j uid : Nat) : (s.leavePool d j uid).ctx c k = s.ctx c k := by
  unfold State.leavePool
  split <;> rfl

theorem State.ctx_poolRun (o : Nat) (h : ∀ reg, (s.ctx c k).wait ≠ .pool reg) :
    ∃ cl rc, (s.poolRun o).ctx c k = { s.ctx c k with claim := cl, reclaim := rc } := by
  unfold State.poolRun
  split
  · exact ⟨_, _, rfl⟩
  · exact State.ctx_poolGrant _ _ _ h

/-- The registers that the registration which a task waits for would write. -/
def State.waitedRegs (s : State) (c : Nat) (t : Ctx) : List Reg :=
  match t.wait with
  | .answer id => (match (s.core c).registered id with | some r => r.waitRegs | none => [])
  | _ => []

theorem State.waitedRegs_none {t : Ctx} (h : ∀ id, t.wait = .answer id → (s.core c).registered id = none) : s.waitedRegs c t = [] := by
  unfold State.waitedRegs
  split
  · next id hid => rw [h id hid]
  · rfl

/-- A wait that is given up, with what the task leaves at its homes and its pool. -/
theorem State.unwait_eq : s.unwait c k =
    ({ (((s.withdraw c (s.ctx c k).uid (s.waitingLdf c (s.ctx c k))).leavePool c k (s.ctx c k).uid).poolRun (c / 8)) with
        msgs := (((s.withdraw c (s.ctx c k).uid (s.waitingLdf c (s.ctx c k))).leavePool c k (s.ctx c k).uid).poolRun (c / 8)).msgs.filter
          (fun f => !(f.uid == (s.ctx c k).uid && (!f.counted || f.mig.isSome))) } : State).updCtx c k
      (fun t => { t with
        var := t.var.filter (fun r => !(s.waitedRegs c (s.ctx c k)).contains r), expired := false, recalled := false }) := rfl

/-- A task that waits for no register of a registration, and for no lanes, loses nothing but what it waits for. -/
theorem State.ctx_unwait (hw : ∀ reg, (s.ctx c k).wait ≠ .pool reg)
    (hr : ∀ id, (s.ctx c k).wait = .answer id → (s.core c).registered id = none) :
    ∃ cl rc, (s.unwait c k).ctx c k = (s.ctx c k).unwaited cl rc := by
  let u := (s.withdraw c (s.ctx c k).uid (s.waitingLdf c (s.ctx c k))).leavePool c k (s.ctx c k).uid
  have hleft : u.ctx c k = s.ctx c k := by
    simp only [u]
    rw [State.ctx_leavePool, State.ctx_withdraw]
  obtain ⟨cl, rc, hrun⟩ := State.ctx_poolRun (s := u) (c := c) (k := k) (c / 8) (by rw [hleft]; exact hw)
  refine ⟨cl, rc, ?_⟩
  rw [State.unwait_eq, State.waitedRegs_none hr, State.updCtx, State.ctx_setCtx]
  have hctx : ∀ l, ({ u.poolRun (c / 8) with msgs := l } : State).ctx c k = { s.ctx c k with claim := cl, reclaim := rc } :=
    fun _ => hrun.trans (by rw [hleft])
  rw [hctx]
  simp [Ctx.unwaited]

end

/-! ### The trap that an answer raises (R102, R459) -/

/-- The context at the instruction that asked, once its request has no result any more. -/
def Ctx.recalledTo (t : Ctx) (epc : Nat) (regs : List Reg) (claim : Option Claim) (reclaim : Bool) : Ctx :=
  { (t.unwaited claim reclaim) with
    var := t.var.filter (fun x => !regs.contains x), pc := BitVec.ofNat 16 epc, wait := .none, waitFrom := none }

section
variable {s : State} {r : Req} {c : Nat} (cause info : Nat) (fb : W64) (regs : List Reg)
  (hphase : (s.ctx c r.ctx).phase = .running) (hwait : (s.ctx c r.ctx).wait = .none ∨ (s.ctx c r.ctx).wait = .answer r.id)
  (hout : (s.core c).registered r.id = none)
include hphase hwait hout

/-- A trap that an answer raises in a running task is raised at the instruction that asked. -/
theorem State.answerTrap_raise : ∃ (u : State) (cl : Option Claim) (rc : Bool) (insn : Nat),
    u.ctx c r.ctx = (s.ctx c r.ctx).recalledTo r.epc regs cl rc ∧
      s.answerTrap r c cause info fb regs = u.raise c r.ctx (some r.id) cause info fb r.epc insn := by
  let v := s.updCtx c r.ctx (fun t => { t with var := t.var.filter (fun x => !regs.contains x) })
  have hv : v.ctx c r.ctx = { s.ctx c r.ctx with var := (s.ctx c r.ctx).var.filter (fun x => !regs.contains x) } := State.ctx_setCtx ..
  have hvout : (v.core c).registered r.id = none := by
    have hvo : (v.core c).out = (s.core c).out := State.out_setCtx s c r.ctx c _
    unfold HomeCore.registered at hout ⊢
    rw [hvo]
    exact hout
  have hvwait : (v.ctx c r.ctx).wait = .none ∨ (v.ctx c r.ctx).wait = .answer r.id := by rw [hv]; exact hwait
  obtain ⟨cl, rc, hunwait⟩ := State.ctx_unwait (s := v) (c := c) (k := r.ctx)
    (fun reg e => by rcases hvwait with h | h <;> rw [h] at e <;> cases e)
    (fun id e => by
      rcases hvwait with h | h <;> rw [h] at e <;> cases e
      exact hvout)
  refine ⟨(v.unwait c r.ctx).updCtx c r.ctx (fun t => { t with pc := BitVec.ofNat 16 r.epc, wait := .none, waitFrom := none }), cl, rc,
    (s.wordAt c { s.ctx c r.ctx with pc := BitVec.ofNat 16 r.epc }).toNat, ?_, ?_⟩
  · rw [State.updCtx, State.ctx_setCtx, hunwait, hv]
    rfl
  · have hrunning : (v.ctx c r.ctx).phase = .running := by rw [hv]; exact hphase
    have hdef : s.answerTrap r c cause info fb regs =
        match (v.ctx c r.ctx).phase, (v.ctx c r.ctx).wait with
        | .faulted, _ => v
        | _, .trap (some id) .. =>
          if id < r.id then v
          else (v.updCtx c r.ctx (fun t => { t with pc := BitVec.ofNat 16 r.epc })).raise c r.ctx (some r.id) cause info fb r.epc
            (s.wordAt c { s.ctx c r.ctx with pc := BitVec.ofNat 16 r.epc }).toNat
        | _, _ =>
          ((v.unwait c r.ctx).updCtx c r.ctx (fun t => { t with pc := BitVec.ofNat 16 r.epc, wait := .none, waitFrom := none })).raise c
            r.ctx (some r.id) cause info fb r.epc (s.wordAt c { s.ctx c r.ctx with pc := BitVec.ofNat 16 r.epc }).toNat := rfl
    rw [hdef, hrunning]
    rcases hvwait with h | h <;> rw [h]

/-- In a task that awaits nothing else the trap is taken at once, the register as it was. -/
theorem State.answerTrap_now (hc : cause < 2 ^ 8) (hregs : ∀ v ∈ (s.ctx c r.ctx).var, v ∈ regs) (hkill : (s.ctx c r.ctx).killed = false) :
    let t := (s.answerTrap r c cause info fb regs).ctx c r.ctx
    t.faulta.toNat % 2 ^ 24 = r.epc % 2 ^ 16 * 2 ^ 8 + cause ∧ t.faultb = fb ∧ t.x = (s.ctx c r.ctx).settle.x := by
  obtain ⟨u, cl, rc, insn, hu, heq⟩ := State.answerTrap_raise cause info fb regs hphase hwait hout
  have hvar : (u.ctx c r.ctx).var = [] := by
    rw [hu, Ctx.recalledTo]
    exact List.filter_eq_nil_iff.mpr fun v hv => by simpa using hregs v hv
  have hkilled : (u.ctx c r.ctx).killed = false := by rw [hu]; exact hkill
  intro t
  have ht : t = (u.ctx c r.ctx).trapped cause info fb r.epc := by
    simp only [t]
    rw [heq, State.raise_now fb r.epc insn _ hvar]
    exact State.ctx_trapNow fb r.epc insn (Or.inr hkilled)
  obtain ⟨hfa, hfb, hx, -⟩ := (u.ctx c r.ctx).trapped_recorded cause info fb r.epc
  rw [ht]
  refine ⟨?_, hfb, hx.trans ?_⟩
  · rw [hfa, faultaWord_low, Nat.mod_eq_of_lt hc]
  · rw [hu]
    exact Ctx.settle_x_congr rfl rfl

/-- In a task that awaits another result the trap waits for it (R102). -/
theorem State.answerTrap_waits (hregs : ∃ v ∈ (s.ctx c r.ctx).var, v ∉ regs) :
    ∃ insn, ((s.answerTrap r c cause info fb regs).ctx c r.ctx).wait = .trap (some r.id) cause info fb r.epc insn ∧
      ((s.answerTrap r c cause info fb regs).ctx c r.ctx).x = (s.ctx c r.ctx).x := by
  obtain ⟨u, cl, rc, insn, hu, heq⟩ := State.answerTrap_raise cause info fb regs hphase hwait hout
  obtain ⟨v, hv, hvr⟩ := hregs
  have hvar : (u.ctx c r.ctx).var ≠ [] := by
    rw [hu, Ctx.recalledTo]
    exact List.ne_nil_of_mem (List.mem_filter.mpr ⟨hv, by simpa using hvr⟩)
  refine ⟨insn, ?_⟩
  rw [heq, State.raise_waits fb r.epc insn _ hvar, State.ctx_setCtx, hu]
  exact ⟨rfl, rfl⟩

end

end Sys2Proof.Machine
end

section
/-!
PROOF. The delivery of answers (O15).
-/
namespace Sys2Proof.Machine

/-! ### The answer that a channel delivers, by what it is for -/

section
variable {s : State} {c : Nat} {x : Resp} {rest : List Resp} (h : s.rchan x.req.home x.req.agent = x :: rest) (ha : x.req.agent = .core c)
include h ha

theorem exec_respond_value {reg : Reg} {n : Nat} {signed : Bool} (hd : x.req.dest = .value reg n signed) :
    exec (.respond x.req.home x.req.agent) s = .next ((s.received c x).finishValue c x reg n signed) := by
  rw [exec_respond_core h ha, State.coreRespond]
  simp only [hd]
  rfl

theorem exec_respond_answer {reg : Reg} (hd : x.req.dest = .answer reg) :
    exec (.respond x.req.home x.req.agent) s = .next ((s.received c x).finishAnswer c x reg) := by
  rw [exec_respond_core h ha, State.coreRespond]
  simp only [hd]
  rfl

theorem exec_respond_group {reg : Reg} {addr : Nat} {up : Bool} (hd : x.req.dest = .group reg addr up) :
    exec (.respond x.req.home x.req.agent) s = .next ((s.received c x).finishGroup c x reg addr up) := by
  rw [exec_respond_core h ha, State.coreRespond]
  simp only [hd]
  rfl

theorem exec_respond_future {reg : Reg} (hd : x.req.dest = .future reg) :
    exec (.respond x.req.home x.req.agent) s = .next ((s.received c x).finishFuture c x reg) := by
  rw [exec_respond_core h ha, State.coreRespond]
  simp only [hd]
  rfl

theorem exec_respond_load {reg : Reg} {n : Nat} {signed : Bool} (hd : x.req.dest = .load reg n signed) (hok : x.ok = true) :
    exec (.respond x.req.home x.req.agent) s = .next ((s.received c x).lineLoad c (s.requestOf c x) x reg n signed) := by
  rw [exec_respond_core h ha, State.coreRespond]
  simp only [hd, hok, if_true]
  rfl

end

/-! ### A value for a task -/

section
variable {s : State} {c : Nat} {x : Resp} {reg : Reg}

/-- The task that an answer is for, as the arrival finds it. -/
theorem State.received_ctx (k : Nat) : ∃ m, (s.received c x).ctx c k = { s.ctx c k with seen := m } := by
  obtain ⟨-, hctx, -⟩ := s.received_frame (c := c) (x := x)
  exact hctx c k

theorem State.received_mem : (s.received c x).mem = s.mem := (s.received_frame (c := c) (x := x)).1

/-- The conditions under which an answer finds its task. -/
structure State.Finds (s : State) (c : Nat) (r : Req) : Prop where
  uid   : (s.ctx c r.ctx).uid = r.uid
  held  : (s.ctx c r.ctx).phase ≠ .free
  stays : (s.ctx c r.ctx).phase ≠ .leaving

theorem State.Finds.received (hf : s.Finds c x.req) : (s.received c x).Finds c x.req := by
  obtain ⟨m, hm⟩ := s.received_ctx (c := c) (x := x) x.req.ctx
  constructor <;> rw [hm]
  · exact hf.uid
  · exact hf.held
  · exact hf.stays

theorem State.Finds.withTask {r : Req} (hf : s.Finds c r) (f : State → State) : s.withTask c r.ctx r.uid f = f s :=
  State.withTask_live hf.uid hf.held hf.stays

/-- An answer that changes the context of its task alone. -/
theorem State.Finds.gives (hf : s.Finds c x.req) {f : State → State} {g : Ctx → Ctx}
    (hfg : f (s.received c x) = (s.received c x).updCtx c x.req.ctx g) :
    ∃ (u : State) (m : Map Nat), (s.received c x).withTask c x.req.ctx x.req.uid f = u ∧ u.mem = s.mem ∧
      u.ctx c x.req.ctx = g { s.ctx c x.req.ctx with seen := m } := by
  obtain ⟨m, hm⟩ := s.received_ctx (c := c) (x := x) x.req.ctx
  refine ⟨_, m, hf.received.withTask f, ?_, ?_⟩
  · rw [hfg]
    exact State.received_mem
  · rw [hfg, State.updCtx, State.ctx_setCtx, hm]

/-- A trap that an answer raises in its task, which awaits nothing else. -/
theorem State.Finds.traps (hf : s.Finds c x.req) {f : State → State} (cause info : Nat) (fb : W64) (hc : cause < 2 ^ 8)
    (hft : f (s.received c x) = (s.received c x).answerTrap x.req c cause info fb [reg])
    (hphase : (s.ctx c x.req.ctx).phase = .running) (hwait : (s.ctx c x.req.ctx).wait = .none ∨ (s.ctx c x.req.ctx).wait = .answer x.req.id)
    (hvar : ∀ v ∈ (s.ctx c x.req.ctx).var, v = reg) (hkill : (s.ctx c x.req.ctx).killed = false) :
    let u := ((s.received c x).withTask c x.req.ctx x.req.uid f).ctx c x.req.ctx
    u.faulta.toNat % 2 ^ 24 = x.req.epc % 2 ^ 16 * 2 ^ 8 + cause ∧ u.faultb = fb ∧ u.x = (s.ctx c x.req.ctx).settle.x := by
  obtain ⟨m, hm⟩ := s.received_ctx (c := c) (x := x) x.req.ctx
  intro u
  have hu : u = ((s.received c x).answerTrap x.req c cause info fb [reg]).ctx c x.req.ctx := by
    simp only [u]
    rw [hf.received.withTask, hft]
  obtain ⟨hfa, hfb, hx⟩ := State.answerTrap_now (s := s.received c x) (r := x.req) (c := c) cause info fb [reg] (by rw [hm]; exact hphase)
    (by rw [hm]; exact hwait) State.received_registered hc (by rw [hm]; exact fun v hv => List.mem_singleton.mpr (hvar v hv))
    (by rw [hm]; exact hkill)
  rw [hu]
  refine ⟨hfa, hfb, hx.trans ?_⟩
  rw [hm]
  exact Ctx.settle_x_congr rfl rfl

/-- A value without poison is written where its task is found. -/
theorem State.finishValue_clean (hp : x.poison = false) (hq : x.req.acq = none) (n : Nat) (signed : Bool) :
    s.finishValue c x reg n signed =
      s.withTask c x.req.ctx x.req.uid (fun u => u.updCtx c x.req.ctx (·.take1 x.req.id reg (extend signed n x.val.toNat))) := by
  unfold State.finishValue
  simp only [hp, hq, Bool.false_eq_true, if_false, State.acquireFor]

theorem State.finishValue_poison (hp : x.poison = true) (n : Nat) (signed : Bool) :
    s.finishValue c x reg n signed =
      s.withTask c x.req.ctx x.req.uid (fun u => u.answerTrap x.req c 0x13 0 (w64 x.req.va) [reg]) := by
  unfold State.finishValue
  simp only [hp, if_true]

theorem State.finishValue_mem (n : Nat) (signed : Bool) (hq : x.req.acq = none) : (s.finishValue c x reg n signed).mem = s.mem := by
  cases hp : x.poison with
  | false =>
    rw [State.finishValue_clean hp hq]
    exact State.mem_withTask fun _ => rfl
  | true =>
    rw [State.finishValue_poison hp]
    exact State.mem_withTask fun u => u.mem_answerTrap ..

/-- An answer that writes a context leaves the outstanding requests and every other context. -/
theorem State.withTask_updCtx_frame (k uid : Nat) (g : Ctx → Ctx) :
    ((s.withTask c k uid (fun u => u.updCtx c k g)).core c).out = (s.core c).out ∧
      ∀ j, j ≠ k → (s.withTask c k uid (fun u => u.updCtx c k g)).ctx c j = s.ctx c j := by
  refine ⟨?_, fun j hj => ?_⟩
  · exact State.withTask_keeps (fun u => (u.core c).out) (fun u t => u.out_setCtx ..) (fun _ _ => rfl) (fun u => u.out_setCtx ..)
  · exact State.withTask_keeps (fun u => u.ctx c j) (fun u t => u.ctx_setCtx_ne t fun e => hj e.2) (fun _ _ => rfl)
      (fun u => u.ctx_setCtx_ne _ fun e => hj e.2)

/-- An answer that writes a register gives it, whatever the task has seen. -/
theorem Ctx.take1_seen (t : Ctx) (m : Map Nat) (id : Nat) (v : W64) :
    let u := ({ t with seen := m } : Ctx).take1 id reg v
    (u.x = (t.put reg (.word v)).x ∧ reg ∉ u.var) ∧ u.pc = t.pc ∧ u.groups = t.groups ∧
      (t.wait = .answer id → u.phase = .running ∧ u.wait = if t.phase = .parked then .settle else .none) := by
  obtain ⟨hx, hvar, hpc, hgroups, hwait⟩ := ({ t with seen := m } : Ctx).take1_gives id reg v
  refine ⟨⟨hx.trans (Ctx.put_x_congr (t := { t with seen := m }) (u := t) rfl ..), ?_⟩, hpc, hgroups, hwait⟩
  rw [hvar]
  simp

end

/-! ### Values of read-modify-writes and barriers (R106, R154, R459) -/

section
variable {s : State} {c : Nat} {x : Resp} {rest : List Resp} {reg : Reg} {n : Nat} {signed : Bool}

/-- RESPOND gives a value, or the trap of its poison, to the task that asked for it; a task that is no more takes neither. -/
theorem answers_value (h : s.rchan x.req.home x.req.agent = x :: rest) (ha : x.req.agent = .core c) (hd : x.req.dest = .value reg n signed)
    (hq : x.req.acq = none) :
    let r := x.req
    let t := s.ctx c r.ctx
    let same := fun (u : State) (k : Nat) => ({ u.ctx c k with seen := (s.ctx c k).seen } : Ctx) = s.ctx c k
    ∃ u, exec (.respond r.home r.agent) s = .next u ∧ u.mem = s.mem ∧
      (x.poison = false → (∀ o ∈ (u.core c).out, o.req.id ≠ r.id) ∧ ∀ k, k ≠ r.ctx → same u k) ∧
      (t.uid = r.uid → t.phase ≠ .free → t.phase ≠ .leaving → x.poison = false →
        (u.ctx c r.ctx).x = (t.put reg (.word (extend signed n x.val.toNat))).x ∧ reg ∉ (u.ctx c r.ctx).var ∧
        (u.ctx c r.ctx).pc = t.pc ∧ (t.wait = .answer r.id → t.phase = .running → (u.ctx c r.ctx).wait = .none)) ∧
      (t.uid = r.uid → t.phase = .running → x.poison = true → (∀ v ∈ t.var, v = reg) → t.killed = false →
        (t.wait = .none ∨ t.wait = .answer r.id) →
        (u.ctx c r.ctx).faulta.toNat % 2 ^ 24 = r.epc % 2 ^ 16 * 2 ^ 8 + 0x13 ∧ (u.ctx c r.ctx).faultb = w64 r.va ∧
        (u.ctx c r.ctx).x = t.settle.x) ∧
      (t.uid = r.uid → t.phase = .running → x.poison = true → (∃ v ∈ t.var, v ≠ reg) → (t.wait = .none ∨ t.wait = .answer r.id) →
        ∃ insn, (u.ctx c r.ctx).wait = .trap (some r.id) 0x13 0 (w64 r.va) r.epc insn ∧ (u.ctx c r.ctx).x = t.x) ∧
      (t.uid ≠ r.uid → s.saves = [] → same u r.ctx) := by
  intro r t same
  obtain ⟨-, -, hsaves⟩ := s.received_frame (c := c) (x := x)
  obtain ⟨m, hm⟩ := s.received_ctx (c := c) (x := x) r.ctx
  refine ⟨_, exec_respond_value h ha hd, (State.finishValue_mem n signed hq).trans State.received_mem, ?_, ?_, ?_, ?_, ?_⟩
  · intro hp
    rw [State.finishValue_clean hp hq]
    obtain ⟨hout, hothers⟩ := State.withTask_updCtx_frame (s := s.received c x) (c := c) r.ctx r.uid
      (·.take1 r.id reg (extend signed n x.val.toNat))
    refine ⟨?_, fun k hk => ?_⟩
    · rw [hout]
      exact State.received_out
    · obtain ⟨mk, hmk⟩ := s.received_ctx (c := c) (x := x) k
      simp only [same]
      rw [hothers k hk, hmk]
  · intro hu hf hl hp
    rw [State.finishValue_clean hp hq]
    obtain ⟨u, m', heq, -, hctx⟩ := State.Finds.gives ⟨hu, hf, hl⟩ (x := x)
      (f := fun u => u.updCtx c r.ctx (·.take1 r.id reg (extend signed n x.val.toNat))) rfl
    obtain ⟨⟨hx, hvar⟩, hpc, -, hwait⟩ := t.take1_seen m' r.id (extend signed n x.val.toNat) (reg := reg)
    rw [heq, hctx]
    refine ⟨hx, hvar, hpc, fun hw hrun => (hwait hw).2.trans ?_⟩
    rw [hrun]
    rfl
  · intro hu hrun hp hvar hkill hwait
    have hfinds : s.Finds c r := ⟨hu, by rw [hrun]; exact nofun, by rw [hrun]; exact nofun⟩
    rw [State.finishValue_poison hp]
    exact hfinds.traps 0x13 0 (w64 r.va) (by decide) rfl hrun hwait hvar hkill
  · intro hu hrun hp hvar hwait
    have hfinds : s.Finds c r := ⟨hu, by rw [hrun]; exact nofun, by rw [hrun]; exact nofun⟩
    rw [State.finishValue_poison hp, hfinds.received.withTask]
    obtain ⟨insn, hw, hx⟩ := State.answerTrap_waits (s := s.received c x) (r := r) (c := c) 0x13 0 (w64 r.va) [reg]
      (by rw [hm]; exact hrun) (by rw [hm]; exact hwait) State.received_registered (by rw [hm]; simpa using hvar)
    exact ⟨insn, hw, hx.trans (by rw [hm])⟩
  · intro hu hs
    have hgone : (s.received c x).finishValue c x reg n signed = s.received c x := by
      unfold State.finishValue
      exact State.withTask_gone (by rw [hm]; exact hu) (hsaves hs)
    simp only [same]
    rw [hgone, hm]

end

/-! ### Answers of registrations, groups and futures (R215, R229, R238, R243) -/

/-- The context once a future has answered (R243, R244). -/
def Ctx.takeFuture (t : Ctx) (id : Nat) (reg : Reg) (v : W64) (ok : Bool) : Ctx :=
  let u := (t.answerReg reg (.word v)).setFut ok
  ({ u with var := u.var.filter (· != Reg.fut) } : Ctx).answered id

/-- The context once `join` or `leave` has answered (R229). -/
def Ctx.takeGroup (t : Ctx) (id : Nat) (reg : Reg) (v : W64) (addr : Nat) (up : Bool) : Ctx :=
  let u := t.take1 id reg v
  { u with groups := if up then (if v = 0 then u.groups ++ [addr] else u.groups) else u.groups.filter (· != addr) }

/-- Whether a context has gone on as an answer lets it: at its pc, and out of its wait. -/
def Ctx.WentOn (t u : Ctx) (id : Nat) : Prop :=
  u.pc = t.pc ∧ (t.wait = .answer id → u.phase = .running ∧ u.wait = if t.phase = .parked then .settle else .none)

section
variable (t : Ctx) (m : Map Nat) (id : Nat) (reg : Reg) (v : W64)

theorem Ctx.take1_takes :
    let u := ({ t with seen := m } : Ctx).take1 id reg v
    (u.x = (t.put reg (.word v)).x ∧ reg ∉ u.var) ∧ t.WentOn u id := by
  obtain ⟨htakes, hpc, -, hwait⟩ := t.take1_seen m id v (reg := reg)
  exact ⟨htakes, hpc, hwait⟩

theorem Ctx.takeGroup_takes (addr : Nat) (up : Bool) :
    let u := ({ t with seen := m } : Ctx).takeGroup id reg v addr up
    ((u.x = (t.put reg (.word v)).x ∧ reg ∉ u.var) ∧
      u.groups = if up = true then (if v = 0 then t.groups ++ [addr] else t.groups) else t.groups.filter (· ≠ addr)) ∧ t.WentOn u id := by
  obtain ⟨htakes, hpc, hgroups, hwait⟩ := t.take1_seen m id v (reg := reg)
  refine ⟨⟨htakes, ?_⟩, hpc, hwait⟩
  have hne : t.groups.filter (· != addr) = t.groups.filter (· ≠ addr) := List.filter_congr fun g _ => by rw [Bool.eq_iff_iff]; simp
  simp only [Ctx.takeGroup, hgroups, hne]

theorem Ctx.takeFuture_takes (ok : Bool) :
    let u := ({ t with seen := m } : Ctx).takeFuture id reg v ok
    ((u.x = (t.put reg (.word v)).x ∧ reg ∉ u.var) ∧ .fut ∉ u.var ∧ u.status.getLsbD 13 = ok) ∧ t.WentOn u id := by
  intro u
  have hbit : ∀ w : W64, (setBit w 13 ok).getLsbD 13 = ok := fun w => by rw [getLsbD_setBit _ _ _ _ (by decide), if_pos rfl]
  have hx : (({ t with seen := m } : Ctx).put reg (.word v)).x = (t.put reg (.word v)).x :=
    Ctx.put_x_congr (t := { t with seen := m }) (u := t) rfl ..
  have hanswered : ∀ w : Ctx, (w.answered id).x = w.x ∧ (w.answered id).var = w.var ∧ (w.answered id).status = w.status ∧
      w.WentOn (w.answered id) id := by
    intro w
    unfold Ctx.answered Ctx.WentOn
    split
    · exact ⟨rfl, rfl, rfl, rfl, fun _ => ⟨rfl, rfl⟩⟩
    · next h => exact ⟨rfl, rfl, rfl, rfl, fun e => absurd e h⟩
  obtain ⟨hax, hvar, hstatus, hpc, hwait⟩ := hanswered
    { (({ t with seen := m } : Ctx).answerReg reg (.word v)).setFut ok with
      var := ((({ t with seen := m } : Ctx).answerReg reg (.word v)).setFut ok).var.filter (· != Reg.fut) }
  have huvar : u.var = ((({ t with seen := m } : Ctx).put reg (.word v)).var.filter (· != reg)).filter (· != Reg.fut) := hvar
  refine ⟨⟨⟨hax.trans hx, ?_⟩, ?_, ?_⟩, hpc.trans (Ctx.put_pc ..), ?_⟩
  · rw [huvar]; simp
  · rw [huvar]; simp
  · exact (congrArg (fun w : W64 => w.getLsbD 13) hstatus).trans (hbit _)
  · intro h
    obtain ⟨hphase, hsettle⟩ := hwait ((Ctx.put_wait ..).trans h)
    refine ⟨hphase, hsettle.trans ?_⟩
    exact congrArg (fun p => if p = Phase.parked then Wait.settle else Wait.none) (Ctx.put_phase { t with seen := m } reg (.word v))

end

section
variable {s : State} {c : Nat} {x : Resp} {rest : List Resp} {reg : Reg} (hq : x.req.acq = none) (hsc : x.scope = none)
  (hp : x.poison = false)

section
include hq hsc hp

/-- The result of a registration is written where its task still waits for it. -/
theorem State.finishAnswer_takes (hw : x.req.registers = false ∨ (s.ctx c x.req.ctx).wait = .answer x.req.id)
    (hok : x.ok = true ∨ x.req.op.hubRefusal = false) (hf : s.Finds c x.req) :
    s.finishAnswer c x reg = s.updCtx c x.req.ctx (·.take1 x.req.id reg x.val) := by
  have hkept : ¬(x.req.registers = true ∧ (s.ctx c x.req.ctx).wait ≠ .answer x.req.id) := by
    rcases hw with h | h <;> simp [h]
  have hgood : ¬((!x.ok) = true ∧ x.req.op.hubRefusal = true) := by rcases hok with h | h <;> simp [h]
  unfold State.finishAnswer
  rw [hf.withTask]
  simp only [if_neg hkept, hp, Bool.false_eq_true, if_false, if_neg hgood, hsc, hq]
  rfl

omit hq hsc hp in
/-- A registration that its task has given up has no result (R215). -/
theorem State.finishAnswer_givenUp (hr : x.req.registers = true) (hw : (s.ctx c x.req.ctx).wait ≠ .answer x.req.id) (hf : s.Finds c x.req) :
    s.finishAnswer c x reg = s := by
  unfold State.finishAnswer
  rw [hf.withTask, if_pos ⟨hr, hw⟩]

omit hq hsc in
theorem State.finishGroup_takes (addr : Nat) (up : Bool) (hf : s.Finds c x.req) :
    s.finishGroup c x reg addr up = s.updCtx c x.req.ctx (·.takeGroup x.req.id reg x.val addr up) := by
  unfold State.finishGroup
  rw [hf.withTask, if_neg (by simp [hp])]
  rfl

omit hsc in
theorem State.finishFuture_takes (he : (s.ctx c x.req.ctx).expired = false) (hrec : (s.ctx c x.req.ctx).recalled = false)
    (hf : s.Finds c x.req) : s.finishFuture c x reg = s.updCtx c x.req.ctx (·.takeFuture x.req.id reg x.val x.ok) := by
  unfold State.finishFuture
  rw [hf.withTask]
  simp only [hp, Bool.false_eq_true, if_false, he, hrec, false_and, hq, ite_self]
  rfl

end

/-- A refused answer of the hub traps (R345, R346). -/
theorem State.finishAnswer_refused (hp : x.poison = false) (hr : x.req.registers = false) (hok : x.ok = false)
    (href : x.req.op.hubRefusal = true) :
    s.finishAnswer c x reg =
      s.withTask c x.req.ctx x.req.uid (fun u => u.answerTrap x.req c 0x11 0 x.val [reg]) := by
  unfold State.finishAnswer
  simp only [hr, hp, hok, href, Bool.false_eq_true, false_and, if_false, Bool.not_false, and_self, if_true]

include hq hsc hp

/-- RESPOND gives the result of a registration, a group operation or a future, or the trap of a refusal, to the task that waits. -/
theorem answers_registered (h : s.rchan x.req.home x.req.agent = x :: rest) (ha : x.req.agent = .core c) (hf : s.Finds c x.req) :
    let r := x.req
    let t := s.ctx c r.ctx
    let gives := fun (p : Ctx → Prop) =>
      ∃ u, exec (.respond r.home r.agent) s = .next u ∧ u.mem = s.mem ∧ p (u.ctx c r.ctx) ∧ (u.ctx c r.ctx).pc = t.pc ∧
        (t.wait = .answer r.id → (u.ctx c r.ctx).phase = .running ∧ (u.ctx c r.ctx).wait = if t.phase = .parked then .settle else .none)
    let takes := fun (u : Ctx) => u.x = (t.put reg (.word x.val)).x ∧ reg ∉ u.var
    (r.dest = .answer reg → (r.registers = false ∨ t.wait = .answer r.id) → (x.ok = true ∨ r.op.hubRefusal = false) → gives takes) ∧
    (r.dest = .answer reg → r.registers = true → t.wait ≠ .answer r.id →
      gives (fun u => u.x = t.x ∧ u.var = t.var ∧ u.wait = t.wait ∧ u.phase = t.phase)) ∧
    (r.dest = .answer reg → r.registers = false → x.ok = false → r.op.hubRefusal = true → t.phase = .running →
      (t.wait = .none ∨ t.wait = .answer r.id) → t.killed = false → (∀ v ∈ t.var, v = reg) →
      ∃ u, exec (.respond r.home r.agent) s = .next u ∧ (u.ctx c r.ctx).faulta.toNat % 2 ^ 24 = r.epc % 2 ^ 16 * 2 ^ 8 + 0x11 ∧
        (u.ctx c r.ctx).faultb = x.val ∧ (u.ctx c r.ctx).x = t.settle.x) ∧
    (∀ (addr : Nat) (up : Bool), r.dest = .group reg addr up →
      gives (fun u => takes u ∧ u.groups =
        if up = true then (if x.val = 0 then t.groups ++ [addr] else t.groups) else t.groups.filter (· ≠ addr))) ∧
    (r.dest = .future reg → t.expired = false → t.recalled = false →
      gives (fun u => takes u ∧ .fut ∉ u.var ∧ u.status.getLsbD 13 = x.ok)) := by
  intro r t gives takes
  obtain ⟨m, hm⟩ := s.received_ctx (c := c) (x := x) r.ctx
  have hgives : ∀ (p : Ctx → Prop) (g : Ctx → Ctx), exec (.respond r.home r.agent) s = .next ((s.received c x).updCtx c r.ctx g) →
      p (g { t with seen := m }) ∧ t.WentOn (g { t with seen := m }) r.id → gives p := by
    intro p g hexec ⟨hpt, hpc, hwait⟩
    have hctx : ((s.received c x).updCtx c r.ctx g).ctx c r.ctx = g { t with seen := m } := by rw [State.updCtx, State.ctx_setCtx, hm]
    refine ⟨_, hexec, State.received_mem, ?_⟩
    rw [hctx]
    exact ⟨hpt, hpc, hwait⟩
  refine ⟨fun hd hw hok => ?_, fun hd hr hw => ?_, fun hd hr hok href hrun hw hkill hvar => ?_, fun addr up hd => ?_, fun hd he hrec => ?_⟩
  · refine hgives takes (·.take1 r.id reg x.val) ?_ (t.take1_takes m r.id reg x.val)
    rw [exec_respond_answer h ha hd, State.finishAnswer_takes hq hsc hp (by rw [hm]; exact hw) hok hf.received]
  · have hgiven : exec (.respond r.home r.agent) s = .next (s.received c x) := by
      rw [exec_respond_answer h ha hd, State.finishAnswer_givenUp hr (by rw [hm]; exact hw) hf.received]
    refine ⟨_, hgiven, State.received_mem, ?_⟩
    rw [hm]
    exact ⟨⟨rfl, rfl, rfl, rfl⟩, rfl, fun e => absurd e hw⟩
  · refine ⟨_, exec_respond_answer h ha hd, ?_⟩
    rw [State.finishAnswer_refused hp hr hok href]
    exact hf.traps 0x11 0 x.val (by decide) rfl hrun hw hvar hkill
  · refine hgives (fun u => takes u ∧ u.groups =
        if up = true then (if x.val = 0 then t.groups ++ [addr] else t.groups) else t.groups.filter (· ≠ addr))
      (·.takeGroup r.id reg x.val addr up) ?_ (t.takeGroup_takes m r.id reg x.val addr up)
    rw [exec_respond_group h ha hd, State.finishGroup_takes hp addr up hf.received]
  · refine hgives (fun u => takes u ∧ .fut ∉ u.var ∧ u.status.getLsbD 13 = x.ok) (·.takeFuture r.id reg x.val x.ok) ?_
      (t.takeFuture_takes m r.id reg x.val x.ok)
    rw [exec_respond_future h ha hd,
      State.finishFuture_takes hq hp (by rw [hm]; exact he) (by rw [hm]; exact hrec) hf.received]

end

end Sys2Proof.Machine
end

section
/-!
PROOF. The answer to a load of a line that the L1 does not hold fills the line and gives its bytes (O15).
-/
namespace Sys2Proof.Machine

/-! ### Filling a line -/

/-- A byte that an answer has put into a line. -/
def L1Byte.ofAnswer (e : PByte × Nat) : L1Byte := { val := e.1.val, dirty := false, bad := e.1.bad, pos := some e.2 }

/-- A byte of an answer is passed over, or goes into the line. -/
theorem L1Line.fill_cases (l : L1Line) (off : Nat) (e : PByte × Nat) (bs : List (PByte × Nat)) :
    l.fill off (e :: bs) = l.fill (off + 1) bs ∨
      l.fill off (e :: bs) = ({ l with bytes := l.bytes.set off (L1Byte.ofAnswer e) } : L1Line).fill (off + 1) bs := by
  rw [L1Line.fill]
  split
  · split
    · exact Or.inl rfl
    · exact Or.inr rfl
  · exact Or.inr rfl

theorem L1Line.fill_frame (bs : List (PByte × Nat)) : ∀ (l : L1Line) (off : Nat),
    (l.fill off bs).asid = l.asid ∧ (l.fill off bs).line = l.line ∧ (l.fill off bs).tr = l.tr := by
  induction bs with
  | nil => exact fun _ _ => ⟨rfl, rfl, rfl⟩
  | cons e bs ih =>
    intro l off
    rcases l.fill_cases off e bs with h | h <;> rw [h]
    · exact ih l (off + 1)
    · exact ih { l with bytes := l.bytes.set off (L1Byte.ofAnswer e) } (off + 1)

/-- The first byte of an answer goes into an empty place of the line. -/
theorem L1Line.fill_cons {l : L1Line} {off : Nat} (h : l.bytes.find? off = none) (e : PByte × Nat) (bs : List (PByte × Nat)) :
    l.fill off (e :: bs) = ({ l with bytes := l.bytes.set off (L1Byte.ofAnswer e) } : L1Line).fill (off + 1) bs := by
  rw [L1Line.fill, h]
  rfl

/-- An answer fills the empty places of a line from an offset on. -/
theorem L1Line.fill_find (bs : List (PByte × Nat)) : ∀ (l : L1Line) (off : Nat), (∀ j, off ≤ j → l.bytes.find? j = none) →
    ∀ j, (l.fill off bs).bytes.find? j = if off ≤ j then (bs[j - off]?).map L1Byte.ofAnswer else l.bytes.find? j := by
  induction bs with
  | nil =>
    intro l off h j
    rw [L1Line.fill]
    split
    · next hj => exact h j hj
    · rfl
  | cons e bs ih =>
    intro l off h j
    have hset : ∀ j, off + 1 ≤ j → (l.bytes.set off (L1Byte.ofAnswer e)).find? j = none := fun j hj => by
      rw [Map.find?_set_ne _ _ _ _ (by omega)]
      exact h j (by omega)
    rw [L1Line.fill_cons (h off (le_refl _)), ih _ _ hset]
    by_cases hlt : off + 1 ≤ j
    · have hidx : j - off = (j - (off + 1)) + 1 := by omega
      rw [if_pos hlt, if_pos (by omega), hidx, List.getElem?_cons_succ]
    · rw [if_neg hlt]
      by_cases he : j = off
      · subst he
        rw [if_pos (le_refl _), Map.find?_set_same, Nat.sub_self]
        rfl
      · rw [if_neg (by omega), Map.find?_set_ne _ _ _ _ he]

theorem Map.mem_set {α : Type} {m : Map α} {i : Nat} {v : α} {e : Nat × α} (h : e ∈ m.set i v) : e = (i, v) ∨ e ∈ m := by
  induction m with
  | nil => exact Or.inl (List.mem_singleton.mp h)
  | cons a m ih =>
    obtain ⟨k, w⟩ := a
    unfold Map.set at h
    split at h
    · rcases List.mem_cons.mp h with h | h
      · exact Or.inl h
      · exact Or.inr h
    · split at h
      · rcases List.mem_cons.mp h with h | h
        · exact Or.inl h
        · exact Or.inr (List.mem_cons_of_mem _ h)
      · rcases List.mem_cons.mp h with h | h
        · exact Or.inr (h ▸ List.mem_cons_self)
        · exact (ih h).imp_right (List.mem_cons_of_mem _)

/-- Every byte that an answer puts into a line is clean, at a position of its location. -/
theorem L1Line.fill_clean (bs : List (PByte × Nat)) : ∀ (l : L1Line) (off : Nat),
    (∀ e ∈ l.bytes, e.2.dirty = false ∧ e.2.pos.isSome = true) →
    ∀ e ∈ (l.fill off bs).bytes, e.2.dirty = false ∧ e.2.pos.isSome = true := by
  induction bs with
  | nil => exact fun _ _ h => h
  | cons a bs ih =>
    intro l off h
    rcases l.fill_cases off a bs with hfill | hfill <;> rw [hfill]
    · exact ih l (off + 1) h
    · refine ih _ (off + 1) fun e he => ?_
      rcases Map.mem_set he with rfl | he
      · exact ⟨rfl, rfl⟩
      · exact h e he

/-! ### A new line of L1(c) -/

section
variable {s : State} {c : Nat}

theorem State.l1_setCtx (s : State) (c k d : Nat) (t : Ctx) : ((s.setCtx c k t).core d).l1 = (s.core d).l1 := by
  rw [State.setCtx, State.core_updCore_eq]
  split
  · next e => rw [e]; rfl
  · rfl

theorem State.ctx_writeBack (l : L1Line) (d k : Nat) : (s.writeBack c l).ctx d k = s.ctx d k := by
  unfold State.writeBack
  split
  · dsimp only
    rw [State.ctx_updCore _ rfl]
    exact State.ctx_updCore ({ s with nextId := s.nextId + 1 } : State) rfl d k
  · rfl

theorem State.ctx_evictWhole (l : L1Line) (d k : Nat) : (s.evictWhole c l).ctx d k = s.ctx d k := by
  rw [State.evictWhole, State.ctx_updCore _ rfl, State.ctx_writeBack]

theorem State.ctx_wayFor (va d k : Nat) : (s.wayFor c va).2.ctx d k = s.ctx d k := by
  unfold State.wayFor
  dsimp only
  split
  · rfl
  · split
    · exact State.ctx_evictWhole (s := s.freeChoice.2) ..
    · rfl

/-- The line of an address that the L1 does not hold is a new one. -/
theorem State.lineFor_fresh {asid va : Nat} (h : (s.core c).l1At asid va = none) (tr : Tr) (sc : Scope) :
    (s.lineFor c asid va tr sc).1 = freshLine asid va tr sc (s.wayFor c va).1 ∧ (s.lineFor c asid va tr sc).2 = (s.wayFor c va).2 := by
  have haccept : s.acceptLine c asid va tr = s := by rw [State.acceptLine, h]
  unfold State.lineFor
  rw [haccept]
  dsimp only
  rw [h]
  exact ⟨rfl, rfl⟩

/-- A line with a valid byte is held once it has been put. -/
theorem HomeCore.l1At_putL1 (h : HomeCore) {l : L1Line} {asid va : Nat} (ha : l.asid = asid) (hl : l.line = va / 128) (hb : l.bytes ≠ []) :
    (h.putL1 l).l1At asid va = some l := by
  have hne : l.bytes.isEmpty = false := by simpa [List.isEmpty_eq_false_iff] using hb
  have hfor : l.isFor asid va = true := by simp [L1Line.isFor, ha, hl]
  unfold HomeCore.putL1 HomeCore.l1At
  simp only [hne, Bool.false_eq_true, if_false, List.find?_cons, hfor]

/-- Whether a byte of a line is that of a store on its way. -/
def L1Line.onItsWay (l : L1Line) (i : Nat) : Bool := match l.bytes.find? i with | some b => b.pos.isNone | none => false

theorem L1Line.onItsWay_false {l : L1Line} (h : ∀ e ∈ l.bytes, e.2.pos.isSome = true) (i : Nat) : l.onItsWay i = false := by
  unfold L1Line.onItsWay
  split
  · next b hb => exact Option.isNone_eq_false_iff.mpr (h _ (Map.mem_of_find? hb))
  · rfl

/-- What is returned to a task of a line that the L1 holds. -/
theorem State.returned_eq {asid va : Nat} {l : L1Line} (h : (s.core c).l1At asid va = some l) (uid n : Nat) :
    let offs := (natsFrom (va % 128) n).filter l.onItsWay
    s.returned c uid asid va n = s.updCore c (fun h =>
      { h with
        l1 := h.l1.map (fun m => if m.isFor asid va then
          { m with bytes := m.bytes.map (fun e => if offs.contains e.1 then (e.1, e.2.returnTo uid) else e) } else m)
        out := h.out.map (fun o => offs.foldl (fun o i => o.returnTo (s.homeOf l.pa) l.pa uid i) o) }) := by
  unfold State.returned
  rw [h]
  rfl

/-- A line that holds no store on its way returns none to a task. -/
theorem State.returned_copies {asid va : Nat} {l : L1Line} (h : (s.core c).l1At asid va = some l)
    (hl : ∀ e ∈ l.bytes, e.2.pos.isSome = true) (uid n : Nat) :
    (∀ d k, (s.returned c uid asid va n).ctx d k = s.ctx d k) ∧ ((s.returned c uid asid va n).core c).l1 = (s.core c).l1 := by
  have hoffs : (natsFrom (va % 128) n).filter l.onItsWay = [] :=
    List.filter_eq_nil_iff.mpr fun i _ => by simp [L1Line.onItsWay_false hl i]
  have hlines : ∀ m : L1Line, (if m.isFor asid va = true then
      { m with bytes := m.bytes.map (fun e => if ([] : List Nat).contains e.1 then (e.1, e.2.returnTo uid) else e) } else m) = m := by
    intro m
    split <;> simp
  rw [State.returned_eq h, hoffs]
  refine ⟨fun d k => s.ctx_updCore rfl d k, ?_⟩
  rw [State.core_updCore]
  simp only [hlines, List.map_id']

end

/-! ### The bytes that a load returns -/

theorem nth_eq_getElem {α : Type} (d : α) : ∀ (l : List α) (i : Nat) (h : i < l.length), nth d l i = l[i]
  | _ :: _, 0, _ => rfl
  | _ :: l, i + 1, h => nth_eq_getElem d l i (Nat.lt_of_succ_lt_succ h)

section
variable {s : State} {c : Nat} {x : Resp}

/-- With no copy in a portion and no line in the L1, a load returns the bytes of its answer. -/
theorem State.loadBytes_answer (hpos : x.poss = []) (hport : rdcPortion c x.req.home x.req.rdc = none)
    (hline : (s.core c).l1At x.req.asid x.req.va = none) {n : Nat} (hn : x.req.va % 128 + n ≤ x.bytes.length) :
    (s.loadBytes c x n).map (·.1) = (x.bytes.drop (x.req.va % 128)).take n := by
  have hbyte : ∀ i (hi : i < x.bytes.length), (s.loadByte c x i).1 = x.bytes[i] := by
    intro i hi
    have hat : nth (⟨0, true⟩, 0) x.positioned i = (x.bytes[i], x.pos) := by
      have hpositioned : x.positioned = x.bytes.map (fun b => (b, x.pos)) := by simp [Resp.positioned, hpos]
      rw [hpositioned, nth_eq_getElem _ _ _ (by simpa using hi), List.getElem_map]
    unfold State.loadByte
    simp only [hport, hline, Option.bind_none, hat]
  unfold State.loadBytes
  refine List.ext_getElem ?_ fun j hj hj' => ?_
  · simp [natsFrom]
    omega
  · have hjn : j < n := by simpa [natsFrom] using hj
    simp only [List.map_map, List.getElem_map, Function.comp_apply, natsFrom, List.getElem_range, List.getElem_take, List.getElem_drop]
    exact hbyte _ (by omega)

end

/-! ### The load and its line -/

section
variable {s : State} {c : Nat} {x : Resp}

/-- The line that an answer fills where the L1 holds none. -/
def Resp.filled (x : Resp) (tr : Tr) (way : Nat) : L1Line :=
  (freshLine x.req.asid x.req.va tr x.req.scope way).fill 0 x.positioned

theorem Resp.filled_frame (x : Resp) (tr : Tr) (way : Nat) :
    (x.filled tr way).asid = x.req.asid ∧ (x.filled tr way).line = x.req.va / 128 ∧ (x.filled tr way).tr = tr.line :=
  L1Line.fill_frame ..

theorem Resp.filled_clean (x : Resp) (tr : Tr) (way : Nat) : ∀ e ∈ (x.filled tr way).bytes, e.2.dirty = false ∧ e.2.pos.isSome = true :=
  L1Line.fill_clean _ _ _ nofun

theorem Resp.filled_find (x : Resp) (tr : Tr) (way : Nat) (hpos : x.poss = []) (j : Nat) (hj : j < x.bytes.length) :
    (x.filled tr way).bytes.find? j = some { val := x.bytes[j].val, dirty := false, bad := x.bytes[j].bad, pos := some x.pos } := by
  have hpositioned : x.positioned = x.bytes.map (fun b => (b, x.pos)) := by simp [Resp.positioned, hpos]
  rw [Resp.filled, L1Line.fill_find _ _ _ (fun _ _ => rfl), if_pos (Nat.zero_le j), hpositioned]
  simp [hj, L1Byte.ofAnswer]

/-- The L1 and the contexts once an answer has filled a line that the L1 did not hold. -/
theorem State.fillL1_fresh {tr : Tr} (htr : x.req.tr = some tr) (hline : (s.core c).l1At x.req.asid x.req.va = none)
    (hpos : x.poss = []) (hne : x.bytes ≠ []) :
    ∃ way, ((s.fillL1 c x).core c).l1At x.req.asid x.req.va = some (x.filled tr way) ∧
      ∀ d k, (s.fillL1 c x).ctx d k = s.ctx d k := by
  obtain ⟨hfresh, hstate⟩ := State.lineFor_fresh hline tr x.req.scope
  obtain ⟨ha, hl, -⟩ := x.filled_frame tr (s.wayFor c x.req.va).1
  have hbytes : (x.filled tr (s.wayFor c x.req.va).1).bytes ≠ [] := by
    intro e
    have hfind := x.filled_find tr (s.wayFor c x.req.va).1 hpos 0 (List.length_pos_iff.mpr hne)
    rw [e] at hfind
    cases hfind
  have hfill : s.fillL1 c x = (s.wayFor c x.req.va).2.updCore c (·.putL1 (x.filled tr (s.wayFor c x.req.va).1)) := by
    unfold State.fillL1
    rw [htr]
    dsimp only
    rw [hfresh, hstate]
    rfl
  refine ⟨(s.wayFor c x.req.va).1, ?_, fun d k => ?_⟩
  · rw [hfill, State.core_updCore]
    exact HomeCore.l1At_putL1 _ ha hl hbytes
  · rw [hfill, State.ctx_updCore _ rfl, State.ctx_wayFor]

/-- A load whose bytes are clean gets its value; a read of a slice is no acquire. -/
theorem State.loadValue_clean {reg : Reg} {b : List PByte} {n : Nat} {signed : Bool} {i : Nat} (hbad : PByte.anyBad b = false)
    (hhome : x.req.home = .slice i) (hq : x.req.acq = none) :
    s.loadValue c x reg b n signed = s.updCtx c x.req.ctx (·.take1 x.req.id reg (extend signed n (leNat (PByte.vals b)))) := by
  have hdone : ∀ v, x.req.harvestDone v = false := by
    intro v
    unfold Req.harvestDone
    rw [hhome]
  unfold State.loadValue
  simp only [hbad, Bool.false_eq_true, if_false, hdone, hq, State.acquireFor]

/-- The arrival of the answer to a read leaves the L1. -/
theorem State.received_l1 (hop : x.req.op = .read) : ((s.received c x).core c).l1 = (s.core c).l1 := by
  have hack : ∀ u : State, u.ackWrite c (s.requestOf c x) x = u := by
    intro u
    rw [State.ackWrite, hop]
    rfl
  rw [State.received, hack, State.core_updCore]
  rfl

/-- RESPOND of a line that the L1 does not hold fills it and gives the load its bytes. -/
theorem answers_load {rest : List Resp} {i n : Nat} {reg : Reg} {signed : Bool} (h : s.rchan x.req.home x.req.agent = x :: rest)
    (ha : x.req.agent = .core c) (hhome : x.req.home = .slice i) (hdie : dieOf i = dieOf c) (hop : x.req.op = .read)
    (hd : x.req.dest = .load reg n signed) (hq : x.req.acq = none) (hok : x.ok = true) (hlen : x.bytes.length = 128)
    (halign : x.req.addr % 128 = 0) (hn : x.req.va % 128 + n ≤ 128) (hbad : PByte.anyBad x.bytes = false) (hpos : x.poss = [])
    {tr : Tr} (htr : x.req.tr = some tr) (hpa : tr.pa = x.req.addr)
    (hmiss : ∀ m ∈ (s.core c).l1, ¬(m.asid = x.req.asid ∧ m.line = x.req.va / 128)) (hf : s.Finds c x.req) :
    let r := x.req
    let t := s.ctx c r.ctx
    ∃ u, exec (.respond r.home r.agent) s = .next u ∧
      (u.ctx c r.ctx).x =
        (t.put reg (.word (extend signed n (leNat ((PByte.vals x.bytes).drop (r.va % 128) |>.take n))))).x ∧
      reg ∉ (u.ctx c r.ctx).var ∧
      ∃ l, (u.core c).l1At r.asid r.va = some l ∧ l.pa = r.addr ∧ l.isDirty = false ∧
        ∀ j (h : j < x.bytes.length), l.bytes.find? j =
          some { val := x.bytes[j].val, dirty := false, bad := x.bytes[j].bad, pos := some x.pos } := by
  intro r t
  let v := s.received c x
  obtain ⟨m, hm⟩ := s.received_ctx (c := c) (x := x) r.ctx
  have hport : rdcPortion c x.req.home x.req.rdc = none := by simp [rdcPortion, hhome, hdie]
  have hoff : offDie c x.req.home = false := by simp [offDie, hhome, hdie]
  have hline : (v.core c).l1At x.req.asid x.req.va = none := by
    refine List.find?_eq_none.mpr fun l hl => ?_
    simp only [v, State.received_l1 hop] at hl
    simpa [L1Line.isFor] using hmiss l hl
  have hrefresh : v.fillRdc c x = v := by rw [State.fillRdc, hport]
  have hbytes : (v.loadBytes c x n).map (·.1) = (x.bytes.drop (r.va % 128)).take n :=
    State.loadBytes_answer hpos hport hline (by rw [hlen]; exact hn)
  obtain ⟨way, hl1, hctx⟩ := State.fillL1_fresh htr hline hpos (List.ne_nil_of_length_pos (by omega))
  have hclean : PByte.anyBad ((x.bytes.drop (r.va % 128)).take n) = false := by
    refine List.any_eq_false.mpr fun b hb => ?_
    simpa using List.any_eq_false.mp hbad b (List.mem_of_mem_drop (List.mem_of_mem_take hb))
  obtain ⟨hret, hretl1⟩ := State.returned_copies hl1 (fun e he => (x.filled_clean tr way e he).2) r.uid n
  let w := (v.fillL1 c x).returned c r.uid r.asid r.va n
  have hw : w.ctx c r.ctx = { t with seen := m } := by rw [hret, hctx, hm]
  have hload : v.lineLoad c (s.requestOf c x) x reg n signed =
      (w.updCtx c r.ctx (·.sawAll [])).updCtx c r.ctx
        (·.take1 r.id reg (extend signed n (leNat (PByte.vals ((x.bytes.drop (r.va % 128)).take n))))) := by
    have hfinds : (v.fillL1 c x).Finds c r := by
      constructor <;> rw [hctx, hm]
      · exact hf.uid
      · exact hf.held
      · exact hf.stays
    rw [State.lineLoad]
    simp only [hpos, List.isEmpty_nil, if_true, hrefresh]
    rw [hfinds.withTask]
    simp only [hoff, Bool.false_and, Bool.false_eq_true, if_false, hbytes]
    exact State.loadValue_clean hclean hhome hq
  obtain ⟨⟨hx, hvar⟩, -⟩ := t.take1_takes m r.id reg (extend signed n (leNat (PByte.vals ((x.bytes.drop (r.va % 128)).take n))))
  refine ⟨_, exec_respond_load h ha hd hok, ?_⟩
  rw [hload]
  have hgiven : ((w.updCtx c r.ctx (·.sawAll [])).updCtx c r.ctx
      (·.take1 r.id reg (extend signed n (leNat (PByte.vals ((x.bytes.drop (r.va % 128)).take n)))))).ctx c r.ctx =
      ({ t with seen := m } : Ctx).take1 r.id reg (extend signed n (leNat (PByte.vals ((x.bytes.drop (r.va % 128)).take n)))) := by
    rw [State.updCtx, State.ctx_setCtx, State.updCtx, State.ctx_setCtx, hw]
    rfl
  rw [hgiven]
  refine ⟨?_, hvar, x.filled tr way, ?_, ?_, ?_, x.filled_find tr way hpos⟩
  · rw [hx]
    simp [PByte.vals, List.map_drop, List.map_take]
  · have hkept : ∀ (u : State) (g : Ctx → Ctx), ((u.updCtx c r.ctx g).core c).l1 = (u.core c).l1 := fun u g => u.l1_setCtx ..
    unfold HomeCore.l1At
    rw [hkept, hkept, hretl1]
    exact hl1
  · have hpage : (x.filled tr way).pa = tr.pa / 128 * 128 := congrArg Tr.pa (x.filled_frame tr way).2.2
    rw [hpage, hpa]
    exact Nat.div_mul_cancel (Nat.dvd_of_mod_eq_zero halign)
  · exact List.any_eq_false.mpr fun e he => by simp [(x.filled_clean tr way e he).1]

end

end Sys2Proof.Machine

namespace Sys2Proof
open Machine

/-- Settles O15: the value, the trap or the line that an answer brings to the task that asked for it. -/
theorem answers : Obligations.Answers := by
  refine ⟨?_, ?_, ?_⟩
  · intro s c x rest reg n signed r h ha hd hq
    exact answers_value h ha hd hq
  · rintro s c i x rest reg n signed r h ha hhome hdie hop hd hq hok hlen halign - hn hbad hpos ⟨tr, htr, hpa⟩ hmiss t hu hf hl
    exact answers_load h ha hhome hdie hop hd hq hok hlen halign hn hbad hpos htr hpa hmiss ⟨hu, hf, hl⟩
  · intro s c x rest reg r h ha hq hsc hp t hu hf hl
    exact answers_registered hq hsc hp h ha ⟨hu, hf, hl⟩

end Sys2Proof
end

section
/-!
PROOF. The order in which a core issues (O56): its ready contexts stand sorted by rank, age and number, and the first that is not held
issues.
-/
namespace Sys2Proof.Machine

/-! ### The order of two contexts (R140) -/

section
variable (h : HomeCore) (cycle : Nat)

theorem HomeCore.before_iff (a b : Nat × Ctx) : h.before cycle a b = true ↔
    h.rank cycle a.2 < h.rank cycle b.2 ∨
      (h.rank cycle a.2 = h.rank cycle b.2 ∧ (b.2.age < a.2.age ∨ (a.2.age = b.2.age ∧ a.1 < b.1))) := by
  simp [HomeCore.before]

theorem HomeCore.before_trans {a b d : Nat × Ctx} (hab : h.before cycle a b = true) (hbd : h.before cycle b d = true) :
    h.before cycle a d = true := by
  rw [HomeCore.before_iff] at *
  omega

theorem HomeCore.before_irrefl (a : Nat × Ctx) : ¬h.before cycle a a = true := by
  rw [HomeCore.before_iff]
  omega

theorem HomeCore.before_total {a b : Nat × Ctx} (hn : h.before cycle b a = false) (hne : a.1 ≠ b.1) : h.before cycle a b = true := by
  rw [← Bool.not_eq_true, HomeCore.before_iff] at hn
  rw [HomeCore.before_iff]
  omega

/-- No context of the list comes before one that stands earlier in it. -/
def HomeCore.Ordered (l : List (Nat × Ctx)) : Prop := l.Pairwise (fun a b => h.before cycle b a = false)

theorem HomeCore.ordered_insertCtx (a : Nat × Ctx) {l : List (Nat × Ctx)} (hl : h.Ordered cycle l) : h.Ordered cycle (h.insertCtx cycle a l) := by
  unfold HomeCore.Ordered at *
  induction l with
  | nil => exact List.pairwise_singleton ..
  | cons b l ih =>
    obtain ⟨hb, hl⟩ := List.pairwise_cons.mp hl
    unfold HomeCore.insertCtx
    split
    · next hab =>
      have hlater : ∀ x ∈ b :: l, h.before cycle x a = false := by
        intro x hx
        rw [← Bool.not_eq_true]
        intro hxa
        have hxb := h.before_trans cycle hxa hab
        rcases List.mem_cons.mp hx with rfl | hx
        · exact h.before_irrefl cycle x hxb
        · exact absurd hxb (by simp [hb x hx])
      exact List.pairwise_cons.mpr ⟨hlater, List.pairwise_cons.mpr ⟨hb, hl⟩⟩
    · next hab =>
      refine List.pairwise_cons.mpr ⟨fun x hx => ?_, ih hl⟩
      rcases (HomeCore.mem_insertCtx h cycle a x l).mp hx with rfl | hx
      · simpa using hab
      · exact hb x hx

theorem HomeCore.ordered_insertCtxs (l : List (Nat × Ctx)) : h.Ordered cycle (l.foldr (h.insertCtx cycle) []) :=
  List.foldrRecOn l (h.insertCtx cycle) List.Pairwise.nil fun _ hl a _ => h.ordered_insertCtx cycle a hl

end

/-! ### The ready contexts of a core -/

/-- With one entry for each key, an entry that is listed is the one that is read. -/
theorem Map.get_of_mem {α : Type} {m : Map α} (hm : m.Pairwise (fun x y => x.1 ≠ y.1)) (d : α) {e : Nat × α} (h : e ∈ m) :
    m.get d e.1 = e.2 := by
  induction m with
  | nil => cases h
  | cons f m ih =>
    obtain ⟨hne, hm⟩ := List.pairwise_cons.mp hm
    rcases List.mem_cons.mp h with rfl | h
    · simp [Map.get]
    · rw [Map.get, if_neg (fun e => hne _ h e.symm), ih hm h]

section
variable {s : State} {c : Nat} (hd : (s.core c).ctxs.Pairwise (fun x y => x.1 ≠ y.1))
include hd

/-- In the order in which a core chooses, no context comes before an earlier one. -/
theorem State.issueOrder_ordered :
    (s.issueOrder c).Pairwise (fun a b => (s.core c).before s.cycle (b, s.ctx c b) (a, s.ctx c a) = false) := by
  unfold State.issueOrder
  rw [List.pairwise_map]
  refine ((s.core c).ordered_insertCtxs s.cycle _).imp_of_mem fun {a b} ha hb hab => ?_
  have hctx : ∀ e ∈ ((s.core c).ctxs.filter (fun e => s.ready c e.1)).foldr ((s.core c).insertCtx s.cycle) [], (e.1, s.ctx c e.1) = e :=
    fun e he => Prod.ext rfl (Map.get_of_mem hd {} (List.mem_filter.mp ((HomeCore.mem_insertCtxs ..).mp he)).1)
  rw [hctx a ha, hctx b hb]
  exact hab

/-- A context that issues comes before every ready one that is not held. -/
theorem State.mayIssue_before {k j : Nat} (hk : s.mayIssue c k = true) (hj : s.ready c j = true) (hh : s.issueHeld c j = false)
    (hne : j ≠ k) : (s.core c).before s.cycle (k, s.ctx c k) (j, s.ctx c j) = true := by
  simp only [State.mayIssue, Bool.and_eq_true] at hk
  obtain ⟨⟨⟨hready, hpassed⟩, -⟩, -⟩ := hk
  obtain ⟨pre, post, horder, hkpre⟩ := List.eq_append_cons_of_mem (State.mem_issueOrder hready)
  have htake : (s.issueOrder c).takeWhile (· != k) = pre := by
    rw [horder, List.takeWhile_append_of_pos (by intro x hx; simpa using ne_of_mem_of_not_mem hx hkpre)]
    simp
  have hpre : j ∉ pre := by
    intro hin
    rw [htake, List.all_eq_true] at hpassed
    simp [hpassed j hin] at hh
  have hpost : j ∈ post := by
    have hmem := State.mem_issueOrder hj
    rw [horder, List.mem_append, List.mem_cons] at hmem
    exact (hmem.resolve_left hpre).resolve_left hne
  have hord := State.issueOrder_ordered hd
  rw [horder] at hord
  exact HomeCore.before_total _ _ ((List.pairwise_cons.mp (List.pairwise_append.mp hord).2.1).1 j hpost) hne.symm

end

/-- Whether a context has yielded in the cycle before (R220). -/
def Ctx.late (t : Ctx) (cycle : Nat) : Bool := t.yielded.any (fun y => y + 1 == cycle)

/-- A promoted context, or one whose age promotes it (R140). -/
def HomeCore.elder (h : HomeCore) (t : Ctx) : Prop := t.promoted = true ∨ h.agelim.toNat % 2 ^ 16 - 16 ≤ t.age

theorem HomeCore.eldest_iff (h : HomeCore) (t : Ctx) : (t.promoted || decide (h.promoteAt ≤ t.age)) = true ↔ h.elder t := by
  simp [HomeCore.elder, HomeCore.promoteAt]

theorem HomeCore.rank_elder {h : HomeCore} {t : Ctx} (cycle : Nat) (he : h.elder t) :
    h.rank cycle t = if t.late cycle = true then 4 else 0 := by
  rw [HomeCore.rank, if_pos ((h.eldest_iff t).mpr he), Nat.add_zero, Ctx.late]

theorem HomeCore.rank_role {h : HomeCore} {t : Ctx} (cycle : Nat) (he : ¬h.elder t) :
    h.rank cycle t = (if t.late cycle = true then 4 else 0) + (1 + t.role) := by
  rw [HomeCore.rank, if_neg (mt (h.eldest_iff t).mp he), Ctx.late]

end Sys2Proof.Machine

namespace Sys2Proof
open Machine

/-- Settles O56: the order of the list is that of rank, age and number, and for contexts that have yielded alike the rank is first
whether they are promoted, then the role. -/
theorem issueOrder : Obligations.IssueOrder := by
  intro s c k j hd hk hj hlisted hh hne late hlate lim old older
  have hready : s.ready c k = true := by
    simp only [State.mayIssue, Bool.and_eq_true] at hk
    exact hk.1.1.1
  have hbefore := (HomeCore.before_iff ..).mp (State.mayIssue_before hd hk hj hh hne)
  dsimp only at hbefore
  have hlate : (s.ctx c k).late s.cycle = (s.ctx c j).late s.cycle := hlate
  refine ⟨hready, ?_⟩
  by_cases hok : (s.core c).elder (s.ctx c k) <;> by_cases hoj : (s.core c).elder (s.ctx c j)
  · rw [HomeCore.rank_elder _ hok, HomeCore.rank_elder _ hoj, hlate] at hbefore
    exact Or.inr (Or.inl ⟨hok, hoj, by omega⟩)
  · exact Or.inl ⟨hok, hoj⟩
  · rw [HomeCore.rank_role _ hok, HomeCore.rank_elder _ hoj, hlate] at hbefore
    omega
  · rw [HomeCore.rank_role _ hok, HomeCore.rank_role _ hoj, hlate] at hbefore
    exact Or.inr (Or.inr ⟨hok, hoj, by omega⟩)

end Sys2Proof
end

section
/-!
SUPPORT. What the end of a task changes: the requests that it sends, the counts of launches, and the context that it gives up (R142 to
R145, R229).
-/
namespace Sys2Proof.Machine

/-! ### Cores and states that differ in what has been sent -/

/-- Two cores that differ in what they have sent, in their L1 and in their window slots alone. -/
def HomeCore.SentAside (h g : HomeCore) : Prop := g = { h with oq := g.oq, out := g.out, l1 := g.l1, wa := g.wa }

theorem HomeCore.SentAside.refl (h : HomeCore) : h.SentAside h := rfl

theorem HomeCore.SentAside.trans {h g f : HomeCore} (hg : h.SentAside g) (gf : g.SentAside f) : h.SentAside f := by
  unfold HomeCore.SentAside at *
  rw [gf, hg]

/-- Two states of which the second has sent requests of cores and been granted leases. -/
structure State.Sends (s t : State) : Prop where
  rest : t = { s with cores := t.cores, nextId := t.nextId, leases := t.leases, horizon := t.horizon }
  core : ∀ c, (s.core c).SentAside (t.core c)

/-- Two states that differ in requests of cores, leases, messages counted, the counts of launches, and the books that are kept of
tasks that are over. -/
structure State.LeftAside (s t : State) : Prop where
  rest : t = { s with
    cores := t.cores, nextId := t.nextId, leases := t.leases, horizon := t.horizon, leaving := t.leaving, launches := t.launches,
    deadTasks := t.deadTasks, waiters := t.waiters, arrays := t.arrays, msgs := t.msgs }
  core : ∀ c, (s.core c).SentAside (t.core c)

theorem State.Sends.refl (s : State) : s.Sends s := ⟨rfl, fun _ => rfl⟩

theorem State.Sends.trans {s t u : State} (h : s.Sends t) (g : t.Sends u) : s.Sends u := by
  refine ⟨?_, fun c => (h.core c).trans (g.core c)⟩
  rw [g.rest, h.rest]

theorem State.Sends.left {s t : State} (h : s.Sends t) : s.LeftAside t := by
  refine ⟨?_, h.core⟩
  rw [h.rest]

theorem State.LeftAside.refl (s : State) : s.LeftAside s := ⟨rfl, fun _ => rfl⟩

theorem State.LeftAside.trans {s t u : State} (h : s.LeftAside t) (g : t.LeftAside u) : s.LeftAside u := by
  refine ⟨?_, fun c => (h.core c).trans (g.core c)⟩
  rw [g.rest, h.rest]

theorem State.LeftAside.foldl {α : Type} {f : State → α → State} (h : ∀ (s : State) (a : α), s.LeftAside (f s a)) (l : List α) (s : State) :
    s.LeftAside (l.foldl f s) :=
  List.foldlRecOn l f (State.LeftAside.refl s) fun _ ht a _ => ht.trans (h _ a)

/-- What does not look at the parts that may differ is the same. -/
theorem State.LeftAside.keeps {s t : State} (h : s.LeftAside t) {α : Type} {f : State → α}
    (hf : ∀ s t : State, f { s with
      cores := t.cores, nextId := t.nextId, leases := t.leases, horizon := t.horizon, leaving := t.leaving, launches := t.launches,
      deadTasks := t.deadTasks, waiters := t.waiters, arrays := t.arrays, msgs := t.msgs } = f s) : f t = f s := by
  rw [h.rest]
  exact hf s t

theorem State.LeftAside.ctx {s t : State} (h : s.LeftAside t) (c k : Nat) : t.ctx c k = s.ctx c k := by
  unfold State.ctx
  rw [h.core c]
  rfl

theorem State.LeftAside.poolQueue {s t : State} (h : s.LeftAside t) (o : Nat) : t.poolQueue o = s.poolQueue o := by
  unfold State.poolQueue
  rw [h.rest]

/-! ### Operations that send -/

section
variable (s : State)

theorem State.sends_updCore (c : Nat) (f : HomeCore → HomeCore) (h : (s.core c).SentAside (f (s.core c))) : s.Sends (s.updCore c f) := by
  refine ⟨rfl, fun d => ?_⟩
  rw [State.core_updCore_eq]
  split
  · next e => rw [e]; exact h
  · exact .refl _

theorem State.sends_enqueueOut (c : Nat) (o : Out) : s.Sends (s.enqueueOut c o) := by
  refine State.Sends.trans (t := { s with nextId := s.nextId + 1 }) ⟨rfl, fun _ => rfl⟩ ?_
  unfold State.enqueueOut
  exact State.sends_updCore _ c _ rfl

theorem State.sends_enqueue (c : Nat) (r : Req) (w o : Bool) : s.Sends (s.enqueue c r w o) := s.sends_enqueueOut c _

theorem State.sends_writeBack (c : Nat) (l : L1Line) : s.Sends (s.writeBack c l) := by
  unfold State.writeBack
  split
  · exact (s.sends_enqueueOut ..).trans (State.sends_updCore _ c _ (by exact rfl))
  · exact .refl s

theorem State.sends_writeBackAt (c asid va : Nat) : s.Sends (s.writeBackAt c asid va) := by
  unfold State.writeBackAt
  split
  · exact s.sends_writeBack ..
  · exact .refl s

theorem State.sends_raiseHorizon (die t : Nat) : s.Sends (s.raiseHorizon die t) := by
  unfold State.raiseHorizon
  split
  · exact .refl s
  · exact ⟨rfl, fun _ => rfl⟩

theorem State.sends_grant (die slice asid va : Nat) (tr : Tr) : s.Sends (s.grant die slice asid va tr) := by
  unfold State.grant
  dsimp only
  split
  · exact .refl s
  · split
    · exact s.sends_raiseHorizon ..
    · exact (s.sends_raiseHorizon die tr.exp).trans ⟨rfl, fun _ => rfl⟩

/-- A translation for a read grants a lease and does nothing else. -/
theorem State.sends_translate_read (die asid va : Nat) (c : Option Nat) : s.Sends (s.translate die asid va false c).2 := by
  unfold State.translate
  split
  · exact .refl s
  · split
    · exact .refl s
    · cases c <;> exact s.sends_grant ..

theorem State.sends_sendLeave (c asid group : Nat) : s.Sends (s.sendLeave c asid group).2 := by
  have htr := s.sends_translate_read (dieOf c) asid group (some c)
  unfold State.sendLeave
  split
  · next e => rw [e] at htr; exact htr
  · next e => rw [e] at htr; exact (htr.trans (State.sends_writeBackAt ..)).trans (State.sends_enqueue ..)

/-! ### Operations on the books of tasks -/

theorem State.left_updLaunch (id : Nat) (f : Launch → Launch) : s.LeftAside (s.updLaunch id f) := by
  unfold State.updLaunch
  split
  · exact ⟨rfl, fun _ => rfl⟩
  · exact .refl s

theorem State.left_countDown (id : Nat) : s.LeftAside (s.countDown id) := s.left_updLaunch ..

theorem State.left_tally (id : Nat) (how : TaskEnd) : s.LeftAside (s.tally id how) := by
  cases how
  · exact .refl s
  · exact s.left_updLaunch ..
  · exact s.left_updLaunch ..

theorem State.left_withdraw (c uid : Nat) (ldf : Option Req) : s.LeftAside (s.withdraw c uid ldf) := by
  have hnone : s.LeftAside (s.withdraw c uid none) := by
    refine State.LeftAside.trans (t := { s with waiters := s.waiters.filter (fun r => !(r.agent == .core c && r.uid == uid)) })
      ⟨rfl, fun _ => rfl⟩ (State.Sends.left ?_)
    unfold State.withdraw
    exact State.sends_updCore _ c _ rfl
  cases ldf with
  | none => exact hnone
  | some r => exact hnone.trans (State.sends_enqueue ..).left

theorem State.left_clearMarksOf (uid : Nat) : s.LeftAside (s.clearMarksOf uid) := ⟨rfl, fun _ => rfl⟩

theorem State.left_countMessages (uid : Nat) : s.LeftAside (s.countMessages uid) :=
  (State.LeftAside.foldl (fun (t : State) (f : Flight) => t.left_updLaunch f.launch _) _ s).trans ⟨rfl, fun _ => rfl⟩

/-! ### Leaving groups (R142, R229) -/

/-- A task leaves its groups: its last request for that is on its way, or nothing is left and the task is over. -/
theorem State.leaveGroups_cases (l : Leaving) (gs : List Nat) : ∀ s : State, ∃ u, s.Sends u ∧
    (s.leaveGroups l gs = u.finishLeaving l ∨
      ∃ rest id, s.leaveGroups l gs = { u with leaving := u.leaving ++ [{ l with groups := rest, id := id }] }) := by
  induction gs with
  | nil => exact fun s => ⟨s, .refl s, .inl rfl⟩
  | cons g gs ih =>
    intro s
    have hsend := s.sends_sendLeave l.core l.asid g
    unfold State.leaveGroups
    split
    · next id t e =>
      rw [e] at hsend
      exact ⟨t, hsend, .inr ⟨gs, id, rfl⟩⟩
    · next t e =>
      rw [e] at hsend
      obtain ⟨u, hu, hcases⟩ := ih t
      exact ⟨u, hsend.trans hu, hcases⟩

/-- A task that holds no context gives up none. -/
theorem State.left_leaveGroups (l : Leaving) (h : l.ctx = none) (gs : List Nat) : s.LeftAside (s.leaveGroups l gs) := by
  obtain ⟨u, hu, hend | ⟨rest, id, hend⟩⟩ := State.leaveGroups_cases l gs s
  · rw [hend, State.finishLeaving, h]
    exact hu.left.trans (State.left_countDown ..)
  · rw [hend]
    exact hu.left.trans ⟨rfl, fun _ => rfl⟩

theorem State.left_endAway (c : Nat) (t : Ctx) (how : TaskEnd) : s.LeftAside (s.endAway c t how) := by
  unfold State.endAway
  refine State.LeftAside.trans ?_ (State.left_leaveGroups _ _ rfl _)
  exact State.LeftAside.trans (t := { s with deadTasks := NatSet.add s.deadTasks t.uid }) ⟨rfl, fun _ => rfl⟩ (State.left_tally ..)

theorem State.left_endEntry (c : Nat) (f : Flight) (how : TaskEnd) : s.LeftAside (s.endEntry c f how) := by
  unfold State.endEntry
  split
  · exact s.left_endAway ..
  · exact (s.left_tally ..).trans (State.left_countDown ..)

theorem State.left_dropEntry (c : Nat) (f : Flight) : s.LeftAside (s.dropEntry c f) := s.left_endEntry ..

theorem State.left_dropEntries (c : Nat) (p : Flight → Bool) (l : List Flight) : s.LeftAside (s.dropEntries c p l) :=
  State.LeftAside.foldl (fun t f => t.left_dropEntry c f) _ s

end

/-! ### The counts of a launch -/

section
variable {s : State} {id : Nat} {l : Launch}

theorem State.launch?_countUp (h : s.launch? id = some l) : (s.countUp id).launch? id = some { l with outstanding := l.outstanding + 1 } := by
  rw [State.countUp, State.launch?_updLaunch, if_pos rfl, h]
  rfl

theorem State.launch?_countDown (h : s.launch? id = some l) :
    (s.countDown id).launch? id = some { l with outstanding := l.outstanding - 1 } := by
  rw [State.countDown, State.launch?_updLaunch, if_pos rfl, h]
  rfl

/-- The counts of a launch once a task of it is over. -/
def Launch.ended (l : Launch) : TaskEnd → Launch
  | .ended => { l with outstanding := l.outstanding - 1 }
  | .killed => { l with killed := l.killed + 1, outstanding := l.outstanding - 1 }
  | .lost => { l with lost := l.lost + 1, outstanding := l.outstanding - 1 }

theorem State.launch?_tally_countDown (how : TaskEnd) (h : s.launch? id = some l) :
    ((s.tally id how).countDown id).launch? id = some (l.ended how) := by
  cases how
  · exact State.launch?_countDown h
  · refine State.launch?_countDown (l := { l with killed := l.killed + 1 }) ?_
    rw [State.tally, State.launch?_updLaunch, if_pos rfl, h]
    rfl
  · refine State.launch?_countDown (l := { l with lost := l.lost + 1 }) ?_
    rw [State.tally, State.launch?_updLaunch, if_pos rfl, h]
    rfl

/-- An entry that carries no task is counted at once when it leaves. -/
theorem State.endEntry_message {f : Flight} (hm : f.mig = none) (c : Nat) (how : TaskEnd) :
    s.endEntry c f how = (s.tally f.launch how).countDown f.launch := by
  rw [State.endEntry, hm]

/-- A task that has joined no group is counted at once when it ends on its way. -/
theorem State.endEntry_task {f : Flight} {m : Ctx} (hm : f.mig = some m) (hg : m.groups = []) (c : Nat) (how : TaskEnd) :
    s.endEntry c f how = (({ s with deadTasks := NatSet.add s.deadTasks m.uid } : State).tally m.launch how).countDown m.launch := by
  rw [State.endEntry, hm]
  dsimp only
  rw [State.endAway, hg]
  rfl

/-- No message of a task stays uncounted, so its end counts none. -/
theorem State.launches_countMessages {uid : Nat} (h : ∀ f ∈ s.msgs, f.uid = uid → f.counted = true ∨ f.mig.isSome = true) :
    (s.countMessages uid).launches = s.launches := by
  have hmine : s.msgs.filter (fun f => f.uid == uid && !f.counted && f.mig.isNone) = [] := by
    rw [List.filter_eq_nil_iff]
    intro f hf
    cases hu : f.uid == uid with
    | false => simp
    | true =>
      rcases h f hf (by simpa using hu) with e | e
      · simp [e]
      · simp [Option.isSome_iff_ne_none.mp e]
  unfold State.countMessages
  simp only [hmine]
  rfl

end

/-! ### A task gives up its context (R107, R110, R142) -/

/-- Two cores of which the second has no more than its contexts changed, beside what it has sent. -/
def HomeCore.TaskAside (h g : HomeCore) : Prop := HomeCore.SentAside { h with ctxs := g.ctxs } g

theorem HomeCore.SentAside.task {h g : HomeCore} (e : h.SentAside g) : h.TaskAside g := by
  unfold HomeCore.TaskAside HomeCore.SentAside at *
  rw [e]

theorem HomeCore.TaskAside.trans {h g f : HomeCore} (hg : h.TaskAside g) (gf : g.TaskAside f) : h.TaskAside f := by
  unfold HomeCore.TaskAside HomeCore.SentAside at *
  rw [gf, hg]

/-- Two states that differ in contexts and in what the end of tasks changes. -/
structure State.TaskAside (s t : State) : Prop where
  rest : State.LeftAside { s with cores := t.cores, pools := t.pools } t
  core : ∀ c, (s.core c).TaskAside (t.core c)

theorem State.LeftAside.task {s t : State} (h : s.LeftAside t) : s.TaskAside t := by
  refine ⟨⟨?_, fun _ => .refl _⟩, fun c => (h.core c).task⟩
  rw [h.rest]

theorem State.TaskAside.trans {s t u : State} (h : s.TaskAside t) (g : t.TaskAside u) : s.TaskAside u := by
  refine ⟨⟨?_, fun _ => .refl _⟩, fun c => (h.core c).trans (g.core c)⟩
  rw [g.rest.rest, h.rest.rest]

theorem State.TaskAside.keeps {s t : State} (h : s.TaskAside t) {α : Type} {f : State → α}
    (hf : ∀ s t : State, f { s with
      cores := t.cores, nextId := t.nextId, leases := t.leases, horizon := t.horizon, leaving := t.leaving, launches := t.launches,
      deadTasks := t.deadTasks, waiters := t.waiters, arrays := t.arrays, msgs := t.msgs, pools := t.pools } = f s) : f t = f s := by
  rw [h.rest.rest]
  exact hf s t

theorem State.TaskAside.refl (s : State) : s.TaskAside s := (State.LeftAside.refl s).task

theorem State.TaskAside.foldl {α : Type} {f : State → α → State} (h : ∀ (s : State) (a : α), s.TaskAside (f s a)) (l : List α) (s : State) :
    s.TaskAside (l.foldl f s) :=
  List.foldlRecOn l f (State.TaskAside.refl s) fun _ ht a _ => ht.trans (h _ a)

theorem State.task_setCtx (s : State) (c k : Nat) (t : Ctx) : s.TaskAside (s.setCtx c k t) := by
  refine ⟨⟨rfl, fun _ => .refl _⟩, fun d => ?_⟩
  rw [State.setCtx, State.core_updCore_eq]
  split
  · next e => rw [e]; exact rfl
  · exact (HomeCore.SentAside.refl _).task

theorem State.task_leavePool (s : State) (c k uid : Nat) : s.TaskAside (s.leavePool c k uid) := by
  unfold State.leavePool
  split
  · exact .refl s
  · exact ⟨⟨rfl, fun _ => .refl _⟩, fun _ => (HomeCore.SentAside.refl _).task⟩

theorem State.task_poolGrant (o : Nat) (q : List PoolReq) : ∀ s : State, s.TaskAside (s.poolGrant o q) := by
  have hset : ∀ (s : State) (l : List PoolReq), s.TaskAside { s with pools := s.pools.set o l } :=
    fun s l => ⟨⟨rfl, fun _ => .refl _⟩, fun _ => (HomeCore.SentAside.refl _).task⟩
  induction q with
  | nil => exact fun s => hset s []
  | cons r q ih =>
    intro s
    unfold State.poolGrant
    split
    · exact (s.task_setCtx ..).trans (ih _)
    · exact hset s _

theorem State.task_poolRun (s : State) (o : Nat) : s.TaskAside (s.poolRun o) := by
  unfold State.poolRun
  split
  · exact .refl s
  · exact State.task_poolGrant ..

theorem State.task_finishLeaving (s : State) (l : Leaving) : s.TaskAside (s.finishLeaving l) := by
  unfold State.finishLeaving
  refine State.TaskAside.trans ?_ (State.left_countDown ..).task
  split
  · dsimp only
    split
    · exact (s.task_setCtx ..).trans (State.task_setCtx ..)
    · exact s.task_setCtx ..
  · exact .refl s

theorem State.task_leaveGroups (s : State) (l : Leaving) (gs : List Nat) : s.TaskAside (s.leaveGroups l gs) := by
  obtain ⟨u, hu, hend | ⟨rest, id, hend⟩⟩ := State.leaveGroups_cases l gs s
  · rw [hend]
    exact hu.left.task.trans (State.task_finishLeaving ..)
  · rw [hend]
    exact hu.left.task.trans (State.LeftAside.task ⟨rfl, fun _ => rfl⟩)

/-- What a task that gives up its context leaves at its homes and in the books, its context as it was. -/
def State.deregistered (s : State) (c k : Nat) : State :=
  let t := s.ctx c k
  (((s.withdraw c t.uid (s.waitingLdf c t)).clearMarksOf t.uid).countMessages t.uid).updCore c
    (fun h => { h with wa := h.wa.filter (fun e => e.2.owner != k || e.2.saved) })

/-- A context whose task is over and leaves its groups. -/
def Ctx.departing (t : Ctx) : Ctx :=
  { t with phase := .leaving, wait := .none, waitFrom := none, claim := none, reclaim := false, hires := [], hiring := none, pend := [],
           var := [] }

section
variable (s : State) (c k : Nat)

theorem State.left_deregistered : s.LeftAside (s.deregistered c k) := by
  have hgone := ((s.left_withdraw c (s.ctx c k).uid (s.waitingLdf c (s.ctx c k))).trans (State.left_clearMarksOf _ (s.ctx c k).uid)).trans
    (State.left_countMessages _ (s.ctx c k).uid)
  unfold State.deregistered
  refine hgone.trans (State.Sends.left ?_)
  exact State.sends_updCore _ c _ rfl

theorem State.vacated_eq : s.vacated c k = (s.deregistered c k).setCtx c k (s.ctx c k).departing := rfl

/-- The groups that a task leaves as it ends, the one joined last first. -/
def State.departure (s : State) (c k : Nat) : Leaving :=
  ⟨c, some k, (s.ctx c k).uid, (s.ctx c k).asid, (s.ctx c k).launch, (s.ctx c k).groups.reverse, 0⟩

theorem State.closeTask_eq (how : TaskEnd) : s.closeTask c k how =
    ((((s.vacated c k).leavePool c k (s.ctx c k).uid).poolRun (c / 8)).tally (s.ctx c k).launch how).leaveGroups (s.departure c k)
      (s.ctx c k).groups.reverse := rfl

theorem State.task_vacated : s.TaskAside (s.vacated c k) := (s.left_deregistered c k).task.trans (State.task_setCtx ..)

theorem State.task_closeTask (how : TaskEnd) : s.TaskAside (s.closeTask c k how) :=
  (((((s.task_vacated c k).trans (State.task_leavePool ..)).trans (State.task_poolRun ..)).trans
    (State.left_tally ..).task).trans (State.task_leaveGroups ..))

theorem State.task_killTask : s.TaskAside (s.killTask c k) :=
  State.TaskAside.trans (t := { s with deadTasks := NatSet.add s.deadTasks (s.ctx c k).uid })
    (State.LeftAside.task ⟨rfl, fun _ => rfl⟩) (State.task_closeTask ..)

end

/-! ### The contexts of the module once a task has given up its own -/

theorem State.leavePool_empty {s : State} {c : Nat} (h : s.poolQueue (c / 8) = []) (k uid : Nat) : s.leavePool c k uid = s := by
  rw [State.leavePool, h]

theorem State.poolRun_empty {s : State} {o : Nat} (h : s.poolQueue o = []) : s.poolRun o = s := by
  rw [State.poolRun, h]

/-- The context that a task held is free once nothing is left to leave. -/
theorem State.ctx_finishLeaving_self {s : State} {l : Leaving} {k : Nat} (h : l.ctx = some k) :
    (s.finishLeaving l).ctx l.core k = (s.ctx l.core k).freed := by
  have hne : ¬(l.core = l.core ∧ k = k + 1) := by omega
  rw [State.finishLeaving, h, (State.left_countDown ..).ctx]
  dsimp only
  split
  · rw [State.updCtx, State.ctx_setCtx_ne _ _ hne, State.ctx_setCtx]
  · exact State.ctx_setCtx ..

section
variable {s : State} {c k : Nat} (hq : s.poolQueue (c / 8) = [])
include hq

/-- With no request at its pool, nothing is granted as a task gives up its claim. -/
theorem State.closeTask_quiet (how : TaskEnd) : s.closeTask c k how =
    ((s.vacated c k).tally (s.ctx c k).launch how).leaveGroups (s.departure c k) (s.ctx c k).groups.reverse := by
  have hv : (s.vacated c k).poolQueue (c / 8) = [] := ((s.left_deregistered c k).poolQueue _).trans hq
  rw [State.closeTask_eq, State.leavePool_empty hv, State.poolRun_empty hv]

theorem State.poolQueue_closeTask (how : TaskEnd) : (s.closeTask c k how).poolQueue (c / 8) = [] := by
  have hv : (s.vacated c k).poolQueue (c / 8) = [] := ((s.left_deregistered c k).poolQueue _).trans hq
  have ht : ((s.vacated c k).tally (s.ctx c k).launch how).poolQueue (c / 8) = [] := ((State.left_tally ..).poolQueue _).trans hv
  rw [State.closeTask_quiet hq]
  obtain ⟨u, hu, hend | ⟨rest, id, hend⟩⟩ :=
    State.leaveGroups_cases (s.departure c k) (s.ctx c k).groups.reverse ((s.vacated c k).tally (s.ctx c k).launch how)
  · have hkeep : ∀ (v : State) (l : Leaving) (o : Nat), (v.finishLeaving l).poolQueue o = v.poolQueue o := by
      intro v l o
      unfold State.finishLeaving
      refine ((State.left_countDown ..).poolQueue _).trans ?_
      split
      · dsimp only
        split <;> rfl
      · rfl
    rw [hend, hkeep]
    exact (hu.left.poolQueue _).trans ht
  · rw [hend]
    exact (hu.left.poolQueue _).trans ht

/-- A task that gives up its context leaves every other one, but the second of its pair. -/
theorem State.ctx_closeTask_ne (how : TaskEnd) {d j : Nat} (hne : ¬(d = c ∧ j = k)) (hp : ¬(d = c ∧ j = k + 1 ∧ (s.ctx c k).paired = true)) :
    (s.closeTask c k how).ctx d j = s.ctx d j := by
  have hv : (s.vacated c k).ctx d j = s.ctx d j := by
    rw [State.vacated_eq, State.ctx_setCtx_ne _ _ hne, (s.left_deregistered c k).ctx]
  rw [State.closeTask_quiet hq]
  obtain ⟨u, hu, hend | ⟨rest, id, hend⟩⟩ :=
    State.leaveGroups_cases (s.departure c k) (s.ctx c k).groups.reverse ((s.vacated c k).tally (s.ctx c k).launch how)
  · have hkeep : u.ctx d j = s.ctx d j := by rw [hu.left.ctx, (State.left_tally ..).ctx, hv]
    have hself : u.ctx c k = (s.ctx c k).departing := by
      rw [hu.left.ctx, (State.left_tally ..).ctx, State.vacated_eq, State.ctx_setCtx]
    rw [hend, State.finishLeaving, (State.left_countDown ..).ctx]
    dsimp only [State.departure]
    split
    · next hpair =>
      rw [hself] at hpair
      rw [State.updCtx, State.ctx_setCtx_ne _ _ (fun e => hp ⟨e.1, e.2, hpair⟩), State.ctx_setCtx_ne _ _ hne, hkeep]
    · rw [State.ctx_setCtx_ne _ _ hne, hkeep]
  · rw [hend]
    exact (hu.left.ctx d j).trans (((State.left_tally ..).ctx d j).trans hv)

/-- The second of a pair is freed with the first. -/
theorem State.ctx_closeTask_pair (how : TaskEnd) :
    (s.closeTask c k how).ctx c (k + 1) = s.ctx c (k + 1) ∨ (s.closeTask c k how).ctx c (k + 1) = (s.ctx c (k + 1)).freed := by
  have hne : ¬(c = c ∧ k + 1 = k) := by omega
  have hv : ∀ u : State, ((s.vacated c k).tally (s.ctx c k).launch how).Sends u → u.ctx c (k + 1) = s.ctx c (k + 1) := by
    intro u hu
    rw [hu.left.ctx, (State.left_tally ..).ctx, State.vacated_eq, State.ctx_setCtx_ne _ _ hne, (s.left_deregistered c k).ctx]
  rw [State.closeTask_quiet hq]
  obtain ⟨u, hu, hend | ⟨rest, id, hend⟩⟩ :=
    State.leaveGroups_cases (s.departure c k) (s.ctx c k).groups.reverse ((s.vacated c k).tally (s.ctx c k).launch how)
  · rw [hend, State.finishLeaving, (State.left_countDown ..).ctx]
    dsimp only [State.departure]
    split
    · right
      rw [State.updCtx, State.ctx_setCtx, State.ctx_setCtx_ne _ _ hne, hv u hu]
    · left
      rw [State.ctx_setCtx_ne _ _ hne, hv u hu]
  · left
    rw [hend]
    exact hv u hu

/-- A task that gives up its context leaves it free, or in the state that its groups are left in. -/
theorem State.ctx_closeTask_self (how : TaskEnd) :
    (s.closeTask c k how).ctx c k = (s.ctx c k).freed ∨ (s.closeTask c k how).ctx c k = (s.ctx c k).departing := by
  have hv : ∀ u : State, ((s.vacated c k).tally (s.ctx c k).launch how).Sends u → u.ctx c k = (s.ctx c k).departing := by
    intro u hu
    rw [hu.left.ctx, (State.left_tally ..).ctx, State.vacated_eq, State.ctx_setCtx]
  rw [State.closeTask_quiet hq]
  obtain ⟨u, hu, hend | ⟨rest, id, hend⟩⟩ :=
    State.leaveGroups_cases (s.departure c k) (s.ctx c k).groups.reverse ((s.vacated c k).tally (s.ctx c k).launch how)
  · left
    have hfreed : (u.ctx c k).freed = (s.ctx c k).departing.freed := by rw [hv u hu]
    rw [hend]
    exact (State.ctx_finishLeaving_self (l := s.departure c k) rfl).trans hfreed
  · right
    rw [hend]
    exact hv u hu

/-- The context of a task that has joined no group is free once it has given it up. -/
theorem State.closeTask_now (how : TaskEnd) (hg : (s.ctx c k).groups = []) :
    s.closeTask c k how = ((s.vacated c k).tally (s.ctx c k).launch how).finishLeaving (s.departure c k) := by
  rw [State.closeTask_quiet hq, hg]
  rfl

theorem State.ctx_closeTask_now (how : TaskEnd) (hg : (s.ctx c k).groups = []) :
    (s.closeTask c k how).ctx c k = (s.ctx c k).freed := by
  have hv : ((s.vacated c k).tally (s.ctx c k).launch how).ctx c k = (s.ctx c k).departing :=
    ((State.left_tally ..).ctx c k).trans (State.ctx_setCtx ..)
  have hfreed : (((s.vacated c k).tally (s.ctx c k).launch how).ctx c k).freed = (s.ctx c k).departing.freed := by rw [hv]
  rw [State.closeTask_now hq how hg]
  exact (State.ctx_finishLeaving_self (l := s.departure c k) rfl).trans hfreed

theorem State.ctx_killTask_now (hg : (s.ctx c k).groups = []) : (s.killTask c k).ctx c k = (s.ctx c k).freed :=
  State.ctx_closeTask_now (s := { s with deadTasks := NatSet.add s.deadTasks (s.ctx c k).uid }) hq .killed hg

theorem State.ctx_killTask_self :
    (s.killTask c k).ctx c k = (s.ctx c k).freed ∨ (s.killTask c k).ctx c k = (s.ctx c k).departing :=
  State.ctx_closeTask_self (s := { s with deadTasks := NatSet.add s.deadTasks (s.ctx c k).uid }) hq .killed

theorem State.ctx_killTask_ne {d j : Nat} (hne : ¬(d = c ∧ j = k)) (hp : ¬(d = c ∧ j = k + 1 ∧ (s.ctx c k).paired = true)) :
    (s.killTask c k).ctx d j = s.ctx d j :=
  State.ctx_closeTask_ne (s := { s with deadTasks := NatSet.add s.deadTasks (s.ctx c k).uid }) hq .killed hne hp

theorem State.poolQueue_killTask : (s.killTask c k).poolQueue (c / 8) = [] :=
  State.poolQueue_closeTask (s := { s with deadTasks := NatSet.add s.deadTasks (s.ctx c k).uid }) hq .killed

theorem State.ctx_killTask_pair :
    (s.killTask c k).ctx c (k + 1) = s.ctx c (k + 1) ∨ (s.killTask c k).ctx c (k + 1) = (s.ctx c (k + 1)).freed :=
  State.ctx_closeTask_pair (s := { s with deadTasks := NatSet.add s.deadTasks (s.ctx c k).uid }) hq .killed

end

theorem State.launches_finishLeaving (s : State) (l : Leaving) (id : Nat) :
    (s.finishLeaving l).launch? id = (s.countDown l.launch).launch? id := by
  have h : ∀ t : State, t.launches = s.launches → (t.countDown l.launch).launch? id = (s.countDown l.launch).launch? id := by
    intro t ht
    rw [State.countDown, State.countDown, State.launch?_updLaunch, State.launch?_updLaunch]
    unfold State.launch?
    rw [ht]
  unfold State.finishLeaving
  refine h _ ?_
  split
  · dsimp only
    split <;> rfl
  · rfl

theorem State.launches_deregistered {s : State} {c k : Nat}
    (hm : ∀ f ∈ s.msgs, f.uid = (s.ctx c k).uid → f.counted = true ∨ f.mig.isSome = true) : (s.deregistered c k).launches = s.launches := by
  have hkeep : ∀ ldf, (s.withdraw c (s.ctx c k).uid ldf).msgs = s.msgs ∧ (s.withdraw c (s.ctx c k).uid ldf).launches = s.launches := by
    intro ldf
    cases ldf <;> exact ⟨rfl, rfl⟩
  refine (State.launches_countMessages (s := (s.withdraw c (s.ctx c k).uid (s.waitingLdf c (s.ctx c k))).clearMarksOf (s.ctx c k).uid)
    fun f hf => ?_).trans (hkeep _).2
  exact hm f ((hkeep _).1 ▸ hf)

/-- The counts of its launch once a task that has joined no group is over. -/
theorem State.launch?_closeTask {s : State} {c k : Nat} {l : Launch} (hq : s.poolQueue (c / 8) = []) (how : TaskEnd)
    (hg : (s.ctx c k).groups = []) (hm : ∀ f ∈ s.msgs, f.uid = (s.ctx c k).uid → f.counted = true ∨ f.mig.isSome = true)
    (hl : s.launch? (s.ctx c k).launch = some l) : (s.closeTask c k how).launch? (s.ctx c k).launch = some (l.ended how) := by
  have hv : (s.vacated c k).launch? (s.ctx c k).launch = some l := by
    rw [← hl]
    exact congrArg (fun x : Map Launch => x.find? (s.ctx c k).launch) (State.launches_deregistered hm)
  rw [State.closeTask_now hq how hg, State.launches_finishLeaving]
  exact State.launch?_tally_countDown how hv

theorem State.launch?_killTask {s : State} {c k : Nat} {l : Launch} (hq : s.poolQueue (c / 8) = [])
    (hg : (s.ctx c k).groups = []) (hm : ∀ f ∈ s.msgs, f.uid = (s.ctx c k).uid → f.counted = true ∨ f.mig.isSome = true)
    (hl : s.launch? (s.ctx c k).launch = some l) : (s.killTask c k).launch? (s.ctx c k).launch = some (l.ended .killed) :=
  State.launch?_closeTask (s := { s with deadTasks := NatSet.add s.deadTasks (s.ctx c k).uid }) hq .killed hg hm hl

end Sys2Proof.Machine
end

section
/-!
PROOF. The messages of launches, completion records and cancels (O33).
-/
namespace Sys2Proof.Machine

/-! ### Lists by index -/

theorem findIdx_first {α : Type} {p : α → Bool} {l : List α} {i : Nat} {x : α} (hx : l[i]? = some x) (hp : p x = true)
    (hbefore : ∀ j y, j < i → l[j]? = some y → p y = false) : findIdx p l = some i := by
  induction l generalizing i with
  | nil => simp at hx
  | cons y l ih =>
    cases i with
    | zero =>
      obtain rfl : y = x := by simpa using hx
      simp [findIdx, hp]
    | succ i =>
      have hy : p y = false := hbefore 0 y (Nat.succ_pos i) rfl
      have hrest := ih (i := i) (by simpa using hx) fun j z hj hz => hbefore (j + 1) z (Nat.succ_lt_succ hj) (by simpa using hz)
      simp [findIdx, hy, hrest]

theorem getElem?_setNth_same {α : Type} {l : List α} {i : Nat} {x : α} (hx : l[i]? = some x) (v : α) : (setNth l i v)[i]? = some v := by
  induction l generalizing i with
  | nil => simp at hx
  | cons y l ih =>
    cases i with
    | zero => rfl
    | succ i => exact ih (by simpa using hx)

theorem getElem?_setNth_ne {α : Type} {i j : Nat} (h : j ≠ i) (v : α) (l : List α) : (setNth l i v)[j]? = l[j]? := by
  induction l generalizing i j with
  | nil => rfl
  | cons y l ih =>
    cases i with
    | zero =>
      cases j with
      | zero => exact absurd rfl h
      | succ j => rfl
    | succ i =>
      cases j with
      | zero => rfl
      | succ j => exact ih (fun e => h (congrArg _ e))

theorem dropNth_eq_take_drop {α : Type} (l : List α) (i : Nat) : dropNth l i = l.take i ++ l.drop (i + 1) := by
  induction l generalizing i with
  | nil => simp [dropNth]
  | cons x l ih =>
    cases i with
    | zero => rfl
    | succ i => simp [dropNth, ih]

theorem length_dropNth {α : Type} {l : List α} {i : Nat} {x : α} (hx : l[i]? = some x) : (dropNth l i).length + 1 = l.length := by
  obtain ⟨hlt, -⟩ := List.getElem?_eq_some_iff.mp hx
  rw [dropNth_eq_take_drop, List.length_append, List.length_take, List.length_drop]
  omega

/-! ### Task messages (R125 to R127) -/

/-- The greatest value of a function on a list. -/
theorem foldl_max_ge {α : Type} (f : α → Nat) (l : List α) (b : Nat) :
    b ≤ l.foldl (fun m e => max m (f e)) b ∧ ∀ e ∈ l, f e ≤ l.foldl (fun m e => max m (f e)) b := by
  induction l generalizing b with
  | nil => simp
  | cons x l ih =>
    obtain ⟨hb, hl⟩ := ih (max b (f x))
    refine ⟨le_trans (le_max_left ..) hb, fun e he => ?_⟩
    rcases List.mem_cons.mp he with rfl | he
    · exact le_trans (le_max_right ..) hb
    · exact hl e he

/-- What a fold that keeps one entry at a time ends with is one of the list. -/
theorem foldl_choice_mem {α : Type} {f : Option α → α → Option α} (hf : ∀ b e, f b e = b ∨ f b e = some e) (l : List α) {b : Option α} {x : α}
    (h : l.foldl f b = some x) : b = some x ∨ x ∈ l := by
  induction l generalizing b with
  | nil => exact .inl h
  | cons y l ih =>
    rcases ih h with hb | hmem
    · rcases hf b y with e | e
      · exact .inl (e ▸ hb)
      · obtain rfl : y = x := by simpa [e] using hb
        exact .inr List.mem_cons_self
    · exact .inr (List.mem_cons_of_mem _ hmem)

section
variable {s : State} {d id : Nat} {l : Launch} (h : s.sender? d = some (id, l))
include h

/-- The agent sends for a launch that may send and has the highest priority of those. -/
theorem State.sender?_spec : (id, l) ∈ s.launches ∧ l.queue / 64 = d ∧ s.maySend (id, l) = true ∧
    ∀ e ∈ s.launches, e.2.queue / 64 = d → s.maySend e = true → s.regBits (pQctl e.2.queue) 2 1 ≤ s.regBits (pQctl l.queue) 2 1 := by
  have hchoice := foldl_choice_mem ?keeps _ h
  case keeps =>
    intro b e
    cases b with
    | none => exact .inr rfl
    | some x =>
      dsimp only
      split
      · exact .inr rfl
      · exact .inl rfl
  rcases hchoice with hb | hbest
  · cases hb
  · obtain ⟨hready, htop⟩ := List.mem_filter.mp hbest
    obtain ⟨hmem, hmay⟩ := List.mem_filter.mp hready
    simp only [Bool.and_eq_true, beq_iff_eq] at hmay htop
    refine ⟨hmem, hmay.1, hmay.2, fun e he hq hs => ?_⟩
    rw [htop]
    have hin : e ∈ s.launches.filter (fun e => e.2.queue / 64 == d && s.maySend e) := List.mem_filter.mpr ⟨he, by simp [hq, hs]⟩
    exact (foldl_max_ge (fun e : Nat × Launch => s.regBits (pQctl e.2.queue) 2 1) _ 0).2 e hin

end

theorem State.maySend_iff (s : State) (id : Nat) (l : Launch) : s.maySend (id, l) = true ↔
    l.started = true ∧ l.status = none ∧ l.sentAll = false ∧ l.cancelled = false ∧
      ∀ g ∈ s.msgs, g.launch = id → g.held = true → g.sender ≠ .queueAgent (l.queue / 64) := by
  simp [State.maySend, and_assoc]

theorem State.prio_of_launch {s : State} {id : Nat} {l : Launch} (h : s.launch? id = some l) :
    s.prio id = s.regBits (pQctl l.queue) 2 1 := by
  rw [State.prio, h]

/-- HEAD moves on by one (R123). -/
theorem State.qhead_advance (s : State) (q : Nat) : (s.advance q).qhead q = (s.qhead q + 1) % 2 ^ 32 := by
  rw [State.qhead, State.regBits, State.advance, State.reg_setReg_same, bitsOf_low, w64, BitVec.toNat_ofNat]
  omega

/-- A launch that sends a message, one more of its tasks outstanding (R126, R143). -/
def Launch.sends (l : Launch) (last : Bool) : Launch :=
  { l with next := l.next + 1, outstanding := l.outstanding + 1, sentAll := last }

/-- The state after the agent has put a message on its way, HEAD as it was. -/
def State.sentMessage (s : State) (d id : Nat) (l : Launch) : State :=
  ({ (s.countUp id) with
      msgs := s.msgs ++ [s.launchMessage id l l.next]
      served := s.served.set (256 * d + s.regBits (pQctl l.queue) 2 1) (l.queue % 64) } : State).updLaunch id
    (fun m => { m with next := l.next + 1, sentAll := l.next + 1 = bitsOf (l.w 6) 31 0 })

section
variable {s : State} {d id : Nat} {l : Launch}

theorem State.sendMessage_eq (h : s.sender? d = some (id, l)) : s.sendMessage d =
    if l.next + 1 = bitsOf (l.w 6) 31 0 then (s.sentMessage d id l).advance l.queue else s.sentMessage d id l := by
  rw [State.sendMessage, h]
  rfl

theorem State.launch?_sentMessage (h : s.launch? id = some l) :
    (s.sentMessage d id l).launch? id = some (l.sends (decide (l.next + 1 = bitsOf (l.w 6) 31 0))) := by
  rw [State.sentMessage, State.launch?_updLaunch, if_pos rfl]
  exact congrArg (Option.map _) (State.launch?_countUp h)

/-- Beside the launch, its message and the turn of the queues, nothing changes. -/
theorem State.sentMessage_rest : (s.sentMessage d id l).msgs = s.msgs ++ [s.launchMessage id l l.next] ∧
    (s.sentMessage d id l).mem = s.mem ∧ (s.sentMessage d id l).dev = s.dev := by
  have hupd : ∀ (t : State) (f : Launch → Launch),
      (t.updLaunch id f).msgs = t.msgs ∧ (t.updLaunch id f).mem = t.mem ∧ (t.updLaunch id f).dev = t.dev := by
    intro t f
    unfold State.updLaunch
    split <;> exact ⟨rfl, rfl, rfl⟩
  obtain ⟨-, hmem, hdev⟩ := hupd s fun l => { l with outstanding := l.outstanding + 1 }
  exact ⟨(hupd ..).1, (hupd ..).2.1.trans hmem, (hupd ..).2.2.trans hdev⟩

end

/-! ### Completion (R144, R177) -/

/-- Whether nothing works for a launch any more. -/
def State.over (s : State) (id : Nat) (l : Launch) : Prop :=
  l.outstanding = 0 ∧ (l.sentAll = true ∨ l.cancelled = true) ∧ s.engineWorks id = false ∧ s.writesOpen id = false

section
variable {s : State} {id : Nat} {l : Launch}

theorem State.completeLaunch_eq (hl : s.launch? id = some l) (hs : l.started = true) (hst : l.status = none) (h : s.over id l) :
    s.completeLaunch id =
      (let status := if l.cancelled then 0x02 else if l.lost = 0 then 0x01 else 0x04
      if l.sentAll then s.complete id l status else s.finishRecord id l status) := by
  obtain ⟨ho, hsent, he, hw⟩ := h
  rw [State.completeLaunch, hl]
  dsimp only
  rw [if_neg]
  rcases hsent with e | e <;> simp [hs, hst, ho, he, hw, e]

theorem State.completeLaunch_early (hl : s.launch? id = some l) (h : ¬s.over id l) : s.completeLaunch id = s := by
  rw [State.completeLaunch, hl]
  dsimp only
  rw [if_pos]
  by_contra hnot
  simp only [Bool.not_eq_true, Bool.or_eq_false_iff, bne_eq_false_iff_eq, Bool.not_eq_eq_eq_not, Bool.not_false] at hnot
  obtain ⟨⟨⟨⟨-, ho⟩, hsent⟩, he⟩, hw⟩ := hnot
  exact h ⟨ho, by simpa using hsent, he, hw⟩

/-- A launch whose completion record is on its way. -/
def Launch.completed (l : Launch) (st record : Nat) : Launch := { l with status := some st, record := some record, sentAll := true }

theorem State.launch?_complete (hl : s.launch? id = some l) (st : Nat) :
    (s.complete id l st).launch? id = some (l.completed st s.nextId) := by
  rw [State.complete]
  dsimp only
  rw [State.launch?_updLaunch, if_pos rfl]
  exact congrArg (Option.map _) hl

/-- A completion record is sent after what the agent has sent before. -/
theorem State.chan_complete (id : Nat) (l : Launch) (st : Nat) : ∃ r,
    ((s.complete id l st).chan (.queueAgent (l.queue / 64)) (s.homeOf l.done)).getLast? = some r ∧ r.addr = l.done ∧
    r.op = .write (PByte.clean (bytesOfWords (l.recordWords st (s.timeOf (l.queue / 64))))) := by
  have hchan : ∀ (t : State) (f : Launch → Launch) (a : Agent) (h : Home), (t.updLaunch id f).chan a h = t.chan a h := by
    intro t f a h
    unfold State.updLaunch
    split <;> rfl
  refine ⟨{ id := s.nextId, agent := .queueAgent (l.queue / 64), home := s.homeOf l.done,
            op := .write (PByte.clean (bytesOfWords (l.recordWords st (s.timeOf (l.queue / 64))))), addr := l.done, size := 64,
            scope := .package, va := 0, asid := 0, exp := none, fwin := s.fabWin l.done }, ?_, rfl, rfl⟩
  rw [State.complete]
  dsimp only
  rw [hchan]
  exact State.chan_add_last ..

/-- A completion record changes nothing else that a launch's end is about. -/
theorem State.complete_rest (id : Nat) (l : Launch) (st : Nat) : (s.complete id l st).dev = s.dev ∧ (s.complete id l st).cores = s.cores ∧
    (s.complete id l st).rdc = s.rdc := by
  have hupd : ∀ (t : State) (f : Launch → Launch),
      (t.updLaunch id f).dev = t.dev ∧ (t.updLaunch id f).cores = t.cores ∧ (t.updLaunch id f).rdc = t.rdc := by
    intro t f
    unfold State.updLaunch
    split <;> exact ⟨rfl, rfl, rfl⟩
  exact hupd ..

theorem State.launch?_advance (s : State) (q id : Nat) : (s.advance q).launch? id = s.launch? id := rfl
theorem State.chan_advance (s : State) (q : Nat) (a : Agent) (h : Home) : (s.advance q).chan a h = s.chan a h := rfl

end

/-! ### A cancel at an agent (R223) -/

theorem cancelHits_iff (d : Nat) (op : CancelOp) (l : Launch) :
    cancelHits d op l = true ↔ l.queue / 64 = d ∧ l.asid = op.asid ∧ l.job = op.job ∧ l.status = none := by
  simp [cancelHits, and_assoc]

/-- A cancel marks the launches that it names, and says so. -/
theorem State.cancelReach_hit {s : State} {d id : Nat} {op : CancelOp} {l : Launch} (hl : s.launch? id = some l)
    (h : cancelHits d op l = true) : (s.cancelReach d op).1 = true := by
  have hany : s.launches.any (fun e => cancelHits d op e.2) = true := List.any_eq_true.mpr ⟨(id, l), Map.mem_of_find? hl, h⟩
  simp [State.cancelReach, hany]

theorem State.launch?_cancelReach {s : State} {d id : Nat} {op : CancelOp} {l : Launch} (hl : s.launch? id = some l) :
    (s.cancelReach d op).2.launch? id = some (if cancelHits d op l then { l with cancelled := true } else l) := by
  have hmap := Map.find?_mapKey (fun _ l => if cancelHits d op l then { l with cancelled := true } else l) s.launches id
  rw [show s.launches.find? id = some l from hl] at hmap
  exact hmap

/-- The state once a cancel has reached an agent, with the cancels that are left. -/
def State.cancelWith (s : State) (d : Nat) (op : CancelOp) (l : List CancelOp) : State := { (s.cancelReach d op).2 with cancelOps := l }

/-- The cancel once it has reached an agent. -/
def CancelOp.reached (op : CancelOp) (d : Nat) (found : Bool) : CancelOp :=
  { op with todo := op.todo.filter (· != d), found := op.found || found }

section
variable {s : State} {d i : Nat} {op : CancelOp} (hi : s.cancelOps[i]? = some op) (hd : d ∈ op.todo)
  (hfirst : ∀ j o, j < i → s.cancelOps[j]? = some o → d ∉ o.todo)
include hi hd hfirst

theorem execCancelMark_eq : execCancelMark d s = .next (
    if (op.reached d (s.cancelReach d op).1).todo.isEmpty then
      (s.cancelWith d op (dropNth s.cancelOps i)).deliver op.core op.ctx op.uid op.reg
        (if (op.reached d (s.cancelReach d op).1).found then 1 else 0)
    else s.cancelWith d op (setNth s.cancelOps i (op.reached d (s.cancelReach d op).1))) := by
  have hidx : findIdx (fun (op : CancelOp) => op.todo.contains d) s.cancelOps = some i :=
    findIdx_first hi (by simpa using hd) fun j o hj ho => by simpa using hfirst j o hj ho
  rw [execCancelMark, hidx]
  dsimp only
  rw [hi]
  rfl

/-- The last agent that a cancel reaches answers its issuer. -/
theorem execCancelMark_last (h : (op.reached d (s.cancelReach d op).1).todo = []) : execCancelMark d s =
    .next ((s.cancelWith d op (dropNth s.cancelOps i)).deliver op.core op.ctx op.uid op.reg
      (if (op.reached d (s.cancelReach d op).1).found then 1 else 0)) := by
  rw [execCancelMark_eq hi hd hfirst, if_pos (by rw [h]; rfl)]

theorem execCancelMark_more (h : (op.reached d (s.cancelReach d op).1).todo ≠ []) : execCancelMark d s =
    .next (s.cancelWith d op (setNth s.cancelOps i (op.reached d (s.cancelReach d op).1))) := by
  rw [execCancelMark_eq hi hd hfirst, if_neg (by simpa using h)]

end

theorem State.launch?_deliver (s : State) (c k uid : Nat) (r : Reg) (v : W64) (id : Nat) :
    (s.deliver c k uid r v).launch? id = s.launch? id := by
  unfold State.deliver
  dsimp only
  split <;> rfl

theorem State.cancelOps_deliver (s : State) (c k uid : Nat) (r : Reg) (v : W64) : (s.deliver c k uid r v).cancelOps = s.cancelOps := by
  unfold State.deliver
  dsimp only
  split <;> rfl

theorem State.ctx_deliver {s : State} {c k uid : Nat} (hu : (s.ctx c k).uid = uid) (hp : (s.ctx c k).phase ≠ .free) (r : Reg) (v : W64) :
    (s.deliver c k uid r v).ctx c k = (s.ctx c k).answerReg r (.word v) := by
  rw [State.deliver, if_pos ⟨hu, hp⟩, State.ctx_setCtx]

/-! ### A cancel at a core (R146, R147) -/

/-- The state without the message with which a task moves. -/
def State.withoutMove (s : State) (uid : Nat) : State := { s with msgs := s.msgs.filter (fun f => !(f.mig.isSome && f.uid == uid)) }

theorem State.left_withoutMove (s : State) (uid : Nat) : s.LeftAside (s.withoutMove uid) := ⟨rfl, fun _ => rfl⟩
theorem State.ctx_withoutMove (s : State) (uid c k : Nat) : (s.withoutMove uid).ctx c k = s.ctx c k := rfl
theorem State.poolQueue_withoutMove (s : State) (uid o : Nat) : (s.withoutMove uid).poolQueue o = s.poolQueue o := rfl

/-- What the cancel of a task does where it is killed at once, and where it is only marked. -/
theorem State.cancelTask_eq (s : State) (c k : Nat) : s.cancelTask c k =
    if s.killedAtOnce c (s.ctx c k) then (s.withoutMove (s.ctx c k).uid).killTask c k
    else s.setCtx c k { (s.ctx c k) with killed := true } := rfl

theorem State.task_cancelTask (s : State) (c k : Nat) : s.TaskAside (s.cancelTask c k) := by
  rw [State.cancelTask_eq]
  split
  · exact (s.left_withoutMove _).task.trans (State.task_killTask ..)
  · exact s.task_setCtx ..

section
variable {s : State} {c : Nat} (hq : s.poolQueue (c / 8) = [])
include hq

theorem State.poolQueue_cancelTask (k : Nat) : (s.cancelTask c k).poolQueue (c / 8) = [] := by
  have hq' := (s.poolQueue_withoutMove (s.ctx c k).uid (c / 8)).trans hq
  rw [State.cancelTask_eq]
  split
  · exact State.poolQueue_killTask hq'
  · exact hq

/-- A cancel leaves the other tasks of the core, but the second of the task's pair. -/
theorem State.ctx_cancelTask_ne {k j : Nat} (hne : j ≠ k) (hp : ¬(j = k + 1 ∧ (s.ctx c k).paired = true)) :
    (s.cancelTask c k).ctx c j = s.ctx c j := by
  have hq' := (s.poolQueue_withoutMove (s.ctx c k).uid (c / 8)).trans hq
  rw [State.cancelTask_eq]
  split
  · exact State.ctx_killTask_ne hq' (fun e => hne e.2) fun e => hp e.2
  · exact State.ctx_setCtx_ne _ _ fun e => hne e.2

theorem State.ctx_cancelTask_pair (k : Nat) :
    (s.cancelTask c k).ctx c (k + 1) = s.ctx c (k + 1) ∨ (s.cancelTask c k).ctx c (k + 1) = (s.ctx c (k + 1)).freed := by
  have hq' := (s.poolQueue_withoutMove (s.ctx c k).uid (c / 8)).trans hq
  rw [State.cancelTask_eq]
  split
  · exact State.ctx_killTask_pair hq'
  · exact .inl (State.ctx_setCtx_ne _ _ (by omega))

/-- What a cancel makes of the task itself: it is over, leaves its groups, or is marked. -/
theorem State.ctx_cancelTask_self (k : Nat) : (s.cancelTask c k).ctx c k = (s.ctx c k).freed ∨
    ((s.ctx c k).groups ≠ [] ∧ (s.cancelTask c k).ctx c k = (s.ctx c k).departing) ∨
      (s.killedAtOnce c (s.ctx c k) = false ∧ (s.cancelTask c k).ctx c k = { (s.ctx c k) with killed := true }) := by
  have hq' := (s.poolQueue_withoutMove (s.ctx c k).uid (c / 8)).trans hq
  rw [State.cancelTask_eq]
  split
  · by_cases hg : (s.ctx c k).groups = []
    · exact .inl (State.ctx_killTask_now hq' hg)
    · rcases State.ctx_killTask_self (k := k) hq' with e | e
      · exact .inl e
      · exact .inr (.inl ⟨hg, e⟩)
  · next hnot => exact .inr (.inr ⟨by simpa using hnot, State.ctx_setCtx ..⟩)

/-- A property that a task's end, its leaving and its mark keep is kept by the cancel of any task of the core. -/
theorem State.cancelTask_keeps {P : Ctx → Prop} (hfreed : ∀ t, P t → P t.freed) (hleaves : ∀ t, P t → t.groups ≠ [] → P t.departing)
    (hmarked : ∀ t, P t → P { t with killed := true }) (k j : Nat) (h : P (s.ctx c j)) : P ((s.cancelTask c k).ctx c j) := by
  by_cases hself : j = k
  · subst hself
    rcases State.ctx_cancelTask_self hq j with e | ⟨hg, e⟩ | ⟨-, e⟩ <;> rw [e]
    · exact hfreed _ h
    · exact hleaves _ h hg
    · exact hmarked _ h
  · by_cases hpair : j = k + 1
    · subst hpair
      rcases State.ctx_cancelTask_pair hq k with e | e <;> rw [e]
      · exact h
      · exact hfreed _ h
    · rw [State.ctx_cancelTask_ne hq hself fun e => hpair e.1]
      exact h

end

/-- The cancels of the tasks of a core, one after another. -/
def State.cancelTasks (s : State) (c : Nat) (ks : List Nat) : State := ks.foldl (fun s k => s.cancelTask c k) s

/-- A task that no cancel may meet as anything but free, marked or as it is: where it stands in the fold. -/
theorem State.cancelTasks_keeps {c : Nat} {P : State → Prop}
    (h : ∀ (s : State) (k : Nat), s.poolQueue (c / 8) = [] → P s → P (s.cancelTask c k)) :
    ∀ (ks : List Nat) (s : State), s.poolQueue (c / 8) = [] → P s → P (s.cancelTasks c ks)
  | [], _, _, hP => hP
  | k :: ks, s, hq, hP => State.cancelTasks_keeps h ks (s.cancelTask c k) (State.poolQueue_cancelTask hq k) (h s k hq hP)

/-- What holds once the task of context `k` has met its cancel holds in the end. -/
theorem State.cancelTasks_reaches {c k : Nat} {P Q : State → Prop}
    (hP : ∀ (s : State) (j : Nat), s.poolQueue (c / 8) = [] → P s → P (s.cancelTask c j))
    (hQ : ∀ (s : State) (j : Nat), s.poolQueue (c / 8) = [] → Q s → Q (s.cancelTask c j))
    (hmeets : ∀ s : State, s.poolQueue (c / 8) = [] → P s → Q (s.cancelTask c k)) {ks : List Nat} (hk : k ∈ ks) :
    ∀ s : State, s.poolQueue (c / 8) = [] → P s → Q (s.cancelTasks c ks) := by
  induction ks with
  | nil => cases hk
  | cons j ks ih =>
    intro s hq hs
    have hq' := State.poolQueue_cancelTask hq j
    by_cases hj : k = j
    · subst hj
      exact State.cancelTasks_keeps hQ ks _ hq' (hmeets s hq hs)
    · exact ih ((List.mem_cons.mp hk).resolve_left hj) _ hq' (hP s j hq hs)

/-- A task that is over, with nothing left to leave. -/
def Ctx.Over (t : Ctx) : Prop := t.phase = .free ∧ t.groups = []

/-- A task that a cancel ends at once, or that is over. -/
def Ctx.Ends (t : Ctx) : Prop := t.Over ∨ ((t.phase = .parked ∨ t.phase = .faulted) ∧ t.groups = [])

theorem Ctx.over_freed (t : Ctx) : t.freed.Over := ⟨rfl, rfl⟩

section
variable {s : State} {c k j : Nat} (hq : s.poolQueue (c / 8) = [])
include hq

theorem State.cancelTask_over (h : (s.ctx c j).Over) : ((s.cancelTask c k).ctx c j).Over :=
  State.cancelTask_keeps (P := Ctx.Over) hq (fun t _ => t.over_freed) (fun _ h hg => absurd h.2 hg) (fun _ h => h) k j h

theorem State.cancelTask_ends (h : (s.ctx c j).Ends) : ((s.cancelTask c k).ctx c j).Ends :=
  State.cancelTask_keeps (P := Ctx.Ends) hq (fun t _ => .inl t.over_freed)
    (fun _ h hg => absurd (h.elim (·.2) (·.2)) hg) (fun _ h => h) k j h

theorem State.cancelTask_meets (h : (s.ctx c k).Ends) : ((s.cancelTask c k).ctx c k).Over := by
  rcases State.ctx_cancelTask_self hq k with e | ⟨hg, -⟩ | ⟨hnot, e⟩
  · rw [e]
    exact Ctx.over_freed _
  · exact absurd (h.elim (·.2) (·.2)) hg
  · rw [e]
    rcases h with hover | ⟨hstop, -⟩
    · exact hover
    · rcases hstop with hp | hp <;> simp [State.killedAtOnce, hp] at hnot

end

/-- The task that runs in context `k` as it was, and no pair of the context before it. -/
def State.Runs (s : State) (c k : Nat) (t : Ctx) (killed : Bool) : Prop :=
  (s.ctx c k).phase = .running ∧ (s.ctx c k).wait = .none ∧ (s.ctx c k).pc = t.pc ∧ (s.ctx c k).x = t.x ∧
    (killed = true → (s.ctx c k).killed = true) ∧ (k = 0 ∨ (s.ctx c (k - 1)).paired = false)

theorem State.killedAtOnce_running {s : State} {c : Nat} {t : Ctx} (hp : t.phase = .running) (hw : t.wait = .none) :
    s.killedAtOnce c t = false := by
  simp [State.killedAtOnce, State.waitingLdf, hp, hw]

section
variable {s : State} {c k : Nat} {t : Ctx} (hq : s.poolQueue (c / 8) = [])
include hq

theorem State.cancelTask_running {b : Bool} (h : s.Runs c k t b) : (s.cancelTask c k).Runs c k t true := by
  obtain ⟨hp, hw, hpc, hx, -, hpair⟩ := h
  have hself : (s.cancelTask c k).ctx c k = { (s.ctx c k) with killed := true } := by
    rw [State.cancelTask_eq, State.killedAtOnce_running hp hw]
    exact State.ctx_setCtx ..
  have hkeep : k = 0 ∨ ((s.cancelTask c k).ctx c (k - 1)).paired = false :=
    hpair.imp_right (State.cancelTask_keeps (P := fun t => t.paired = false) hq (fun _ _ => rfl) (fun _ h _ => h) (fun _ h => h) k (k - 1))
  rw [State.Runs, hself]
  exact ⟨hp, hw, hpc, hx, fun _ => rfl, hkeep⟩

theorem State.cancelTask_runs {b : Bool} (j : Nat) (h : s.Runs c k t b) : (s.cancelTask c j).Runs c k t b := by
  by_cases hj : k = j
  · subst hj
    obtain ⟨hp, hw, hpc, hx, hk, hpair⟩ := State.cancelTask_running hq h
    exact ⟨hp, hw, hpc, hx, fun _ => hk rfl, hpair⟩
  · obtain ⟨hp, hw, hpc, hx, hk, hpair⟩ := h
    have hsecond : ¬(k = j + 1 ∧ (s.ctx c j).paired = true) := by
      rintro ⟨rfl, htwo⟩
      simp [htwo] at hpair
    have hself := State.ctx_cancelTask_ne hq hj hsecond
    have hkeep : k = 0 ∨ ((s.cancelTask c j).ctx c (k - 1)).paired = false :=
      hpair.imp_right (State.cancelTask_keeps (P := fun t => t.paired = false) hq (fun _ _ => rfl) (fun _ h _ => h) (fun _ h => h) j (k - 1))
    rw [State.Runs, hself]
    exact ⟨hp, hw, hpc, hx, hk, hkeep⟩

end

/-! ### The state of the core before its tasks meet the cancel -/

/-- The core of a cancel once the launch is noted and its messages and entries are dropped. -/
def State.cancelledQueue (s : State) (c launch : Nat) : State :=
  let h := s.core c
  let t := s.updCore c (fun h => { h with cancels := NatSet.add h.cancels launch })
  let t := ((h.runq ++ h.ovf).filter (fun f => f.launch == launch)).foldl (fun s f => s.dropEntry c f) t
  t.updCore c (fun h => { h with runq := h.runq.filter (fun f => f.launch != launch), ovf := h.ovf.filter (fun f => f.launch != launch) })

/-- The contexts whose tasks a cancel meets. -/
def HomeCore.cancelKeys (h : HomeCore) (launch : Nat) : List Nat :=
  (h.ctxs.filter (fun (e : Nat × Ctx) => e.2.phase != .free && e.2.phase != .odd && e.2.phase != .leaving && e.2.launch == launch)).map (·.1)

section
variable {s : State} {c launch : Nat}

/-- What a cancel has changed before the tasks meet it: the launch is noted and its entries are gone. -/
theorem State.cancelledQueue_spec :
    ((s.cancelledQueue c launch).core c).cancels = NatSet.add (s.core c).cancels launch ∧
      ((s.cancelledQueue c launch).core c).runq = (s.core c).runq.filter (fun f => f.launch != launch) ∧
      ((s.cancelledQueue c launch).core c).ovf = (s.core c).ovf.filter (fun f => f.launch != launch) ∧
      (∀ k, (s.cancelledQueue c launch).ctx c k = s.ctx c k) ∧ (s.cancelledQueue c launch).saves = s.saves ∧
      (s.cancelledQueue c launch).poolQueue (c / 8) = s.poolQueue (c / 8) := by
  have hdrop := State.LeftAside.foldl (fun (t : State) (f : Flight) => t.left_dropEntry c f)
    (((s.core c).runq ++ (s.core c).ovf).filter (fun f => f.launch == launch))
    (s.updCore c (fun h => { h with cancels := NatSet.add h.cancels launch }))
  have hcore := hdrop.core c
  rw [State.core_updCore] at hcore
  unfold State.cancelledQueue
  dsimp only
  generalize (((s.core c).runq ++ (s.core c).ovf).filter (fun f => f.launch == launch)).foldl (fun s f => s.dropEntry c f)
    (s.updCore c (fun h => { h with cancels := NatSet.add h.cancels launch })) = t at hdrop hcore
  refine ⟨?_, ?_, ?_, fun k => ?_, ?_, ?_⟩
  · rw [State.core_updCore, hcore]
  · rw [State.core_updCore, hcore]
  · rw [State.core_updCore, hcore]
  · rw [State.ctx_updCore _ (by rfl), State.ctx, hcore]
    rfl
  · exact hdrop.keeps (f := State.saves) fun _ _ => rfl
  · exact hdrop.poolQueue _

/-- What else a cancel that finds nothing saved, no message in the overflow area and no entry chosen changes before the tasks meet it. -/
def State.cancelledHires (s : State) (c launch : Nat) : State :=
  (({ s with saves := [] } : State).updCore c (fun h => { h with wa := h.wa.filter (fun e => !([] : List Nat).contains e.1) })).unfreeze c launch

theorem State.cancelAt_eq (hovf : (s.core c).ovf = []) (hch : (s.core c).chosen = none) (hsv : s.saves = []) :
    s.cancelAt c launch = ((s.cancelledQueue c launch).cancelledHires c launch).cancelTasks c ((s.core c).cancelKeys launch) := by
  obtain ⟨-, -, hovf', -, hsv', -⟩ := s.cancelledQueue_spec (c := c) (launch := launch)
  rw [hovf] at hovf'
  rw [hsv] at hsv'
  have hrefill : (s.cancelledQueue c launch).refill c = s.cancelledQueue c launch := by rw [State.refill, hovf']; rfl
  have hdrop : (s.cancelledQueue c launch).dropSaved c launch .killed =
      ({ (s.cancelledQueue c launch) with saves := [] } : State).updCore c
        (fun h => { h with wa := h.wa.filter (fun e => !([] : List Nat).contains e.1) }) := by
    rw [State.dropSaved, hsv']
    rfl
  rw [State.cancelledHires, ← hdrop]
  conv_rhs => rw [← hrefill]
  unfold State.cancelAt
  dsimp only
  rw [hch]
  rfl

theorem State.cancelledHires_spec :
    ((s.cancelledHires c launch).core c).cancels = (s.core c).cancels ∧ ((s.cancelledHires c launch).core c).runq = (s.core c).runq ∧
      (∀ k, (s.cancelledHires c launch).ctx c k = s.ctx c k) ∧
      (s.cancelledHires c launch).poolQueue (c / 8) = s.poolQueue (c / 8) := by
  have hcore : (s.cancelledHires c launch).core c =
      { (s.core c) with wa := (s.core c).wa.filter (fun e => !([] : List Nat).contains e.1) } := by
    have h := State.core_updCore { s with saves := [] } c
      (fun h => { h with wa := h.wa.filter (fun e => !([] : List Nat).contains e.1) })
    exact h
  refine ⟨?_, ?_, fun k => ?_, rfl⟩
  · rw [hcore]
  · rw [hcore]
  · rw [State.ctx, hcore]
    rfl

theorem State.cancelTasks_queue (ks : List Nat) : ((s.cancelTasks c ks).core c).runq = (s.core c).runq ∧
    ((s.cancelTasks c ks).core c).cancels = (s.core c).cancels := by
  have h := (State.TaskAside.foldl (f := fun (t : State) k => t.cancelTask c k) (fun t k => t.task_cancelTask c k) ks s).core c
  rw [State.cancelTasks, h]
  exact ⟨rfl, rfl⟩

/-- A cancel meets every task of its launch that runs, is parked or has faulted. -/
theorem State.mem_cancelKeys {k : Nat} (hl : (s.ctx c k).launch = launch)
    (hp : (s.ctx c k).phase = .running ∨ (s.ctx c k).phase = .parked ∨ (s.ctx c k).phase = .faulted) : k ∈ (s.core c).cancelKeys launch := by
  have hget : s.ctx c k = ((s.core c).ctxs.find? k).getD {} := Map.get_eq_find? ..
  cases hfind : (s.core c).ctxs.find? k with
  | none =>
    rw [hget, hfind] at hp
    rcases hp with e | e | e <;> cases e
  | some t =>
    rw [hfind] at hget
    have ht : s.ctx c k = t := hget
    rw [ht] at hl hp
    refine List.mem_map.mpr ⟨(k, t), List.mem_filter.mpr ⟨Map.mem_of_find? hfind, ?_⟩, rfl⟩
    rcases hp with e | e | e <;> simp [e, hl]

/-- What the cancel of a launch does at a core where nothing waits outside the run queue. -/
theorem State.cancelAt_spec (hovf : (s.core c).ovf = []) (hch : (s.core c).chosen = none) (hsv : s.saves = [])
    (hq : s.poolQueue (c / 8) = []) : NatSet.has ((s.cancelAt c launch).core c).cancels launch = true ∧
      ((s.cancelAt c launch).core c).runq = (s.core c).runq.filter (fun f => f.launch != launch) ∧
      ∀ k, (s.ctx c k).launch = launch →
        ((s.ctx c k).phase = .parked ∨ (s.ctx c k).phase = .faulted → (s.ctx c k).groups = [] →
          ((s.cancelAt c launch).ctx c k).phase = .free) ∧
        ((s.ctx c k).phase = .running → (s.ctx c k).wait = .none → (k = 0 ∨ (s.ctx c (k - 1)).paired = false) →
          (s.cancelAt c launch).Runs c k (s.ctx c k) true) := by
  obtain ⟨hcancels, hrunq, -, hctx, -, hpool⟩ := s.cancelledQueue_spec (c := c) (launch := launch)
  obtain ⟨hcancels', hrunq', hctx', hpool'⟩ := (s.cancelledQueue c launch).cancelledHires_spec (c := c) (launch := launch)
  rw [State.cancelAt_eq hovf hch hsv]
  generalize ((s.cancelledQueue c launch).cancelledHires c launch) = u at hcancels' hrunq' hctx' hpool'
  have hu : ∀ k, u.ctx c k = s.ctx c k := fun k => (hctx' k).trans (hctx k)
  have huq : u.poolQueue (c / 8) = [] := hpool'.trans (hpool.trans hq)
  obtain ⟨hend, hendc⟩ := u.cancelTasks_queue (c := c) ((s.core c).cancelKeys launch)
  refine ⟨?_, ?_, fun k hl => ⟨fun hp hg => ?_, fun hp hw hpair => ?_⟩⟩
  · rw [hendc, hcancels', hcancels, NatSet.has_add, beq_self_eq_true, Bool.true_or]
  · rw [hend, hrunq', hrunq]
  · refine (State.cancelTasks_reaches (P := fun t => (t.ctx c k).Ends) (Q := fun t => (t.ctx c k).Over)
      (fun _ _ hq h => State.cancelTask_ends hq h) (fun _ _ hq h => State.cancelTask_over hq h) (fun _ hq h => State.cancelTask_meets hq h)
      (State.mem_cancelKeys hl (.inr hp)) u huq ?_).1
    rw [hu]
    exact .inr ⟨hp, hg⟩
  · refine State.cancelTasks_reaches (P := fun t => t.Runs c k (s.ctx c k) false) (Q := fun t => t.Runs c k (s.ctx c k) true)
      (fun _ j hq h => State.cancelTask_runs hq j h) (fun _ j hq h => State.cancelTask_runs hq j h)
      (fun _ hq h => State.cancelTask_running hq h) (State.mem_cancelKeys hl (.inl hp)) u huq ?_
    rw [State.Runs, hu, hu]
    exact ⟨hp, hw, rfl, rfl, nofun, hpair⟩

end

end Sys2Proof.Machine

namespace Sys2Proof
open Machine

/-- Settles O33: what the agent sends is a message of the launch that comes first, a record is written once nothing works for its launch
any more, and the cancels of the tasks of a core are followed one by one. -/
theorem launchProgress : Obligations.LaunchProgress := by
  refine ⟨?_, ?_, ?_, ?_, ?_⟩
  · intro s d id l hd hsender hl
    dsimp only
    obtain ⟨-, hqueue, hmay, htop⟩ := State.sender?_spec hsender
    obtain ⟨hstarted, hstatus, hsent, hcancelled, hheld⟩ := (s.maySend_iff id l).mp hmay
    rw [hqueue] at hheld
    have hcount : bitsOf (l.w 6) 31 0 = l.w 6 % 2 ^ 32 := bitsOf_low ..
    refine ⟨⟨hstarted, hstatus, hsent, hcancelled, hqueue, hheld, fun e he hq hs => ?_⟩, ?_⟩
    · by_cases hee : s.launch? e.1 = some e.2
      · left
        rw [State.prio_of_launch hee, State.prio_of_launch hl]
        exact htop e he hq hs
      · exact .inr hee
    · obtain ⟨hmsgs, hmem, hdev⟩ := State.sentMessage_rest (s := s) (d := d) (id := id) (l := l)
      have hlaunch := State.launch?_sentMessage (d := d) hl
      have hhead : (s.sentMessage d id l).qhead l.queue = s.qhead l.queue := by
        rw [State.qhead, State.regBits, State.reg, hdev]
        rfl
      refine ⟨s.sendMessage d, s.launchMessage id l l.next, l.sends (decide (l.next + 1 = l.w 6 % 2 ^ 32)), ?_, ?_, rfl, ?_, ?_, rfl, bitsOf_low _ 15, ?_, rfl, rfl, rfl, rfl,
        ?_, rfl, rfl, rfl, ?_, ?_⟩
      · rw [exec_taskMessageSend, execTaskMessageSend, if_pos hd]
      · rw [State.sendMessage_eq hsender]
        split <;> exact hmsgs
      · rw [State.launchMessage]
      · exact congrArg Agent.queueAgent hqueue
      · rfl
      · rw [State.sendMessage_eq hsender]
        rw [hcount] at hlaunch
        split <;> exact hlaunch
      · rw [State.sendMessage_eq hsender, hcount]
        by_cases hlast : l.next + 1 = l.w 6 % 2 ^ 32
        · rw [if_pos hlast, if_pos (decide_eq_true hlast), State.qhead_advance, hhead]
        · rw [if_neg hlast, if_neg fun h => hlast (of_decide_eq_true h), hhead]
      · rw [State.sendMessage_eq hsender]
        split <;> exact hmem
  · intro s a i f hi hback hholder hroom hfirst
    have hidx : findIdx (fun (f : Flight) => f.back && f.holder == a && s.hasRoom f.target) s.msgs = some i :=
      findIdx_first hi (by simp [hback, hholder, hroom]) fun j g hj hg => by simpa [and_assoc] using hfirst j g hj hg
    refine ⟨{ s with msgs := setNth s.msgs i { f with back := false } }, ?_, getElem?_setNth_same hi _,
      fun j hj => getElem?_setNth_ne hj _ _, rfl⟩
    rw [exec_messageResend, execMessageResend, hidx]
    dsimp only
    rw [hi]
  · intro s id l hl hs hst ended st
    refine ⟨fun h => ?_, fun h => ?_⟩
    · have hm := State.launch?_complete hl st
      obtain ⟨r, hlast, haddr, hop⟩ := State.chan_complete (s := s) id l st
      refine ⟨s.completeLaunch id, l.completed st s.nextId, r, rfl, ?_, rfl, ?_, haddr, hop⟩ <;> rw [State.completeLaunch_eq hl hs hst h] <;>
        dsimp only <;> split
      · exact hm
      · exact hm
      · exact hlast
      · exact hlast
    · exact congrArg Host.Outcome.next (State.completeLaunch_early hl h)
  · intro s d i op hi hd hfirst hit
    have hlaunch : ∀ id l, s.launch? id = some l → ∃ m, (s.cancelReach d op).2.launch? id = some m ∧
        (hit l → m.cancelled = true) ∧ (¬hit l → m = l) := by
      intro id l hl
      refine ⟨_, State.launch?_cancelReach hl, fun h => ?_, fun h => ?_⟩
      · rw [if_pos ((cancelHits_iff d op l).mpr h)]
      · rw [if_neg fun e => h ((cancelHits_iff d op l).mp e)]
    have hfound : (∃ id l, s.launch? id = some l ∧ hit l) → (op.reached d (s.cancelReach d op).1).found = true := by
      rintro ⟨id, l, hl, h⟩
      rw [CancelOp.reached, State.cancelReach_hit hl ((cancelHits_iff d op l).mpr h), Bool.or_true]
    have htodo : (op.reached d (s.cancelReach d op).1).todo = op.todo.filter (· ≠ d) :=
      List.filter_congr fun x _ => by by_cases e : x = d <;> simp [e]
    by_cases hlast : (op.reached d (s.cancelReach d op).1).todo = []
    · refine ⟨_, execCancelMark_last hi hd hfirst hlast, fun id l hl => ?_, fun _ hother => ?_, fun _ => ⟨?_, fun hu hp => ?_⟩⟩
      · rw [State.launch?_deliver]
        exact hlaunch id l hl
      · obtain ⟨x, hx, hne⟩ := hother
        have hleft : x ∈ op.todo.filter (· ≠ d) := List.mem_filter.mpr ⟨hx, by simpa using hne⟩
        rw [← htodo, hlast] at hleft
        cases hleft
      · rw [State.cancelOps_deliver]
        exact length_dropNth hi
      · have hctx := State.ctx_deliver (s := s.cancelWith d op (dropNth s.cancelOps i)) hu hp op.reg
          (if (op.reached d (s.cancelReach d op).1).found then 1 else 0)
        rw [hctx]
        refine ⟨if (op.reached d (s.cancelReach d op).1).found then 1 else 0, rfl, ?_, fun h => ?_, ?_⟩
        · split
          · exact .inr rfl
          · exact .inl rfl
        · rw [if_pos]
          rcases h with h | h
          · rw [CancelOp.reached, h, Bool.true_or]
          · exact hfound h
        · simp [Ctx.answerReg]
    · refine ⟨_, execCancelMark_more hi hd hfirst hlast, hlaunch, fun _ _ => ?_, fun honly => ?_⟩
      · exact ⟨_, getElem?_setNth_same hi _, htodo, hfound⟩
      · rw [htodo, honly] at hlast
        simp at hlast
  · intro s c id l hl hc hs hst hmask hnew hovf hch hsv hq
    obtain ⟨hcancels, hrunq, htasks⟩ := State.cancelAt_spec (launch := id) hovf hch hsv hq
    refine ⟨s.cancelAt c id, ?_, hcancels, hrunq, fun k hk _ => ⟨(htasks k hk).1, fun hp hw _ hpair => ?_⟩⟩
    · rw [exec_cancelArrive, execCancelArrive, hl]
      simp [hc, hs, hst, hmask, hnew]
    · obtain ⟨-, -, hpc, hx, hkilled, -⟩ := (htasks k hk).2 hp hw hpair
      exact ⟨hkilled rfl, hpc, hx⟩

end Sys2Proof
end

section
/-!
SUPPORT. What writes at HBM and at scratchpads store, read back as bytes and as words.
-/
namespace Sys2Proof.Machine

/-! ### Bytes read back -/

theorem Memory.length_bytes (m : List Host.Cell) (a n : Nat) : (Memory.bytes m a n).length = n := by
  induction n generalizing a with
  | zero => rfl
  | succ n ih => simp [Memory.bytes, ih]

theorem Memory.bytes_congr {m m' : List Host.Cell} {a n : Nat} (h : ∀ x, a ≤ x → x < a + n → Memory.byte m' x = Memory.byte m x) :
    Memory.bytes m' a n = Memory.bytes m a n := by
  induction n generalizing a with
  | zero => rfl
  | succ n ih =>
    rw [Memory.bytes, Memory.bytes, h a (le_refl a) (by omega), ih fun x h1 h2 => h x (by omega) (by omega)]

theorem Memory.bytes_add (m : List Host.Cell) (a n k : Nat) : Memory.bytes m a (n + k) = Memory.bytes m a n ++ Memory.bytes m (a + n) k := by
  induction n generalizing a with
  | zero => simp [Memory.bytes]
  | succ n ih =>
    have e : a + 1 + n = a + (n + 1) := by omega
    rw [Nat.succ_add, Memory.bytes, Memory.bytes, ih, e, List.cons_append]

/-- The byte at an address is one of those read. -/
theorem Memory.getElem?_bytes (m : List Host.Cell) {a n i : Nat} (h : i < n) : (Memory.bytes m a n)[i]? = some (Memory.byte m (a + i)) := by
  induction n generalizing a i with
  | zero => omega
  | succ n ih =>
    cases i with
    | zero => rfl
    | succ i =>
      have e : a + 1 + i = a + (i + 1) := by omega
      rw [Memory.bytes, List.getElem?_cons_succ, ih (by omega), e]

theorem Memory.bytes_setBytes_other {m : List Host.Cell} {a b n : Nat} {bs : List Byte} (h : b + n ≤ a ∨ a + bs.length ≤ b) :
    Memory.bytes (Memory.setBytes m a bs) b n = Memory.bytes m b n := by
  refine Memory.bytes_congr fun x h1 h2 => ?_
  rw [Memory.byte_setBytes, if_neg (by omega)]

theorem Memory.bytes_setBytes_same (m : List Host.Cell) (a : Nat) (bs : List Byte) :
    Memory.bytes (Memory.setBytes m a bs) a bs.length = bs := by
  induction bs generalizing m a with
  | nil => rfl
  | cons b bs ih =>
    have hfirst : Memory.byte (Memory.setBytes m a (b :: bs)) a = b := by
      rw [Memory.byte_setBytes, if_pos (by simp)]
      simp [nth]
    rw [List.length_cons, Memory.bytes, hfirst, Memory.setBytes, ih]

/-- Of two ranges written one after the other in one write, each is read back. -/
theorem Memory.bytes_setBytes_append (m : List Host.Cell) (a : Nat) (bs cs : List Byte) :
    Memory.bytes (Memory.setBytes m a (bs ++ cs)) a bs.length = bs ∧
      Memory.bytes (Memory.setBytes m a (bs ++ cs)) (a + bs.length) cs.length = cs := by
  have h := Memory.bytes_setBytes_same m a (bs ++ cs)
  rw [List.length_append, Memory.bytes_add] at h
  exact List.append_inj h (by rw [Memory.length_bytes])

/-! ### Numbers and words as bytes -/

@[simp] theorem length_leBytes (v n : Nat) : (leBytes v n).length = n := by
  induction n generalizing v with
  | zero => rfl
  | succ n ih => simp [leBytes, ih]

theorem leNat_leBytes (v n : Nat) : leNat (leBytes v n) = v % 2 ^ (8 * n) := by
  induction n generalizing v with
  | zero => simp [leBytes, leNat, Nat.mod_one]
  | succ n ih =>
    have e : 2 ^ (8 * (n + 1)) = 256 * 2 ^ (8 * n) := by rw [Nat.mul_succ, Nat.pow_add]; omega
    rw [leBytes, leNat, ih, BitVec.toNat_ofNat, e, Nat.mod_mul]

@[simp] theorem length_bytesOfWords (w : List W64) : (bytesOfWords w).length = 8 * w.length := by
  induction w with
  | nil => rfl
  | cons v w ih =>
    have e : bytesOfWords (v :: w) = leBytes v.toNat 8 ++ bytesOfWords w := rfl
    rw [e, List.length_append, ih, length_leBytes, List.length_cons]
    omega

theorem leNat_word (v : W64) : leNat (leBytes v.toNat 8) = v.toNat := by
  rw [leNat_leBytes, Nat.mod_eq_of_lt v.isLt]

@[simp] theorem PByte.vals_clean (bs : List Byte) : PByte.vals (PByte.clean bs) = bs := by
  simp [PByte.vals, PByte.clean, Function.comp_def]

@[simp] theorem PByte.vals_append (bs cs : List PByte) : PByte.vals (bs ++ cs) = PByte.vals bs ++ PByte.vals cs := by
  simp [PByte.vals]

/-! ### Writes at HBM -/

theorem State.MemoryAside.keeps {s t : State} (h : s.MemoryAside t) {α : Type} {f : State → α}
    (hf : ∀ s t : State, f { s with
      mem := t.mem, poison := t.poison, order := t.order, l2 := t.l2, rchans := t.rchans, waiters := t.waiters,
      deferred := t.deferred } = f s) : f t = f s := by
  rw [h]
  exact hf s t

theorem State.mem_answers (l : List Req) (f : Req → Resp) : ∀ s : State, (l.foldl (fun s r => s.respond (f r)) s).mem = s.mem := by
  induction l with
  | nil => exact fun _ => rfl
  | cons r l ih => exact fun s => (ih (s.respond (f r))).trans rfl

theorem State.mem_answerWaita (s : State) (h : Home) (a n : Nat) (word : Nat → List PByte) : (s.answerWaita h a n word).mem = s.mem :=
  State.mem_answers _ (fun r => { req := r, val := w64 (leNat (PByte.vals (word r.addr))), poison := PByte.anyBad (word r.addr) }) _

theorem State.mem_answerFutures (s : State) (a n : Nat) : (s.answerFutures a n).mem = s.mem :=
  State.mem_answers _ (fun r => { req := r, val := s.memWord r.addr, poison := poisonedIn s.poison r.addr 16 }) _

theorem State.mem_bumpLines (s : State) (pa n : Nat) : (s.bumpLines pa n).mem = s.mem := by
  unfold State.bumpLines
  generalize linesOf pa n = l
  induction l generalizing s with
  | nil => rfl
  | cons k l ih => exact (ih (s.bumpOrder (k * 128))).trans rfl

theorem State.mem_memWrite (s : State) (pa : Nat) (bs : List PByte) :
    (s.memWrite pa bs).mem = Memory.setBytes s.mem pa (PByte.vals bs) := by
  rw [State.memWrite]
  dsimp only
  rw [State.afterWrite, State.mem_answerFutures, State.mem_answerWaita, State.mem_bumpLines]
  exact setPBytes_fst ..

/-! ### Writes at a scratchpad -/

/-- What a write at a scratchpad changes beside the core: waits registered there are answered. -/
theorem State.memoryAside_spWrite (s : State) (c off : Nat) (bs : List PByte) :
    (s.updCore c (·.spWrite off bs)).MemoryAside (s.spWrite c off bs) := by
  unfold State.spWrite State.spAnswer
  exact State.memoryAside_answerWaita ..

theorem State.mem_spWrite (s : State) (c off : Nat) (bs : List PByte) : (s.spWrite c off bs).mem = s.mem := by
  unfold State.spWrite State.spAnswer
  rw [State.mem_answerWaita]
  rfl

theorem State.core_spWrite (s : State) (c off : Nat) (bs : List PByte) : (s.spWrite c off bs).core c = (s.core c).spWrite off bs := by
  have h := (s.memoryAside_spWrite c off bs).keeps (f := fun t => t.core c) fun _ _ => rfl
  rw [h, State.core_updCore]

theorem HomeCore.spad_spWrite (h : HomeCore) (off : Nat) (bs : List PByte) :
    (h.spWrite off bs).spad = Memory.setBytes h.spad off (PByte.vals bs) := setPBytes_fst ..

end Sys2Proof.Machine
end

section
/-!
PROOF. The arrival of task messages at a core, of tasks that move, and of re-home hints (O34).
-/
namespace Sys2Proof.Machine

/-! ### What the acceptance of a message does for its sender (R127, R143, R342) -/

/-- Two states of which the second has let the sender of a message go on. -/
structure State.AcceptAside (s t : State) : Prop where
  rest : t = { s with cores := t.cores, launches := t.launches, saves := t.saves, hints := t.hints, arrays := t.arrays }
  core : ∀ c, t.core c = { (s.core c) with ctxs := (t.core c).ctxs }

theorem State.AcceptAside.refl (s : State) : s.AcceptAside s := ⟨rfl, fun _ => rfl⟩

theorem State.AcceptAside.trans {s t u : State} (h : s.AcceptAside t) (g : t.AcceptAside u) : s.AcceptAside u := by
  refine ⟨?_, fun c => ?_⟩
  · rw [g.rest, h.rest]
  · rw [g.core c, h.core c]

theorem State.AcceptAside.keeps {s t : State} (h : s.AcceptAside t) {α : Type} {f : State → α}
    (hf : ∀ s t : State, f { s with cores := t.cores, launches := t.launches, saves := t.saves, hints := t.hints, arrays := t.arrays } = f s) :
    f t = f s := by
  rw [h.rest]
  exact hf s t

theorem State.acceptAside_countUp (s : State) (id : Nat) : s.AcceptAside (s.countUp id) := by
  unfold State.countUp State.updLaunch
  split
  · exact ⟨rfl, fun _ => rfl⟩
  · exact .refl s

/-- The tasks of a core once a message of the task `uid` has been accepted. -/
def State.goesOn (s : State) (p uid : Nat) : State :=
  s.updCore p (fun h => { h with ctxs := h.ctxs.map (fun e => (e.1, e.2.accepted uid)) })

theorem State.acceptAside_goesOn (s : State) (p uid : Nat) : s.AcceptAside (s.goesOn p uid) := by
  refine ⟨rfl, fun d => ?_⟩
  rw [State.goesOn, State.core_updCore_eq]
  split
  · next e => rw [e]
  · rfl

theorem State.ctx_goesOn (s : State) (p uid k : Nat) : (s.goesOn p uid).ctx p k = (s.ctx p k).accepted uid := by
  rw [State.ctx, State.goesOn, State.core_updCore]
  exact Map.get_map {} (Ctx.accepted · uid) rfl _ _

section
variable {s : State} {f : Flight} (hm : f.mig = none)
include hm

theorem State.senderAccepted_core {p : Nat} (hs : f.sender = .core p) : ∃ saves hints, s.senderAccepted f =
    { ((if f.counted then s else s.countUp f.launch).goesOn p f.uid) with saves := saves, hints := hints } := by
  rw [State.senderAccepted, hs]
  dsimp only
  rw [if_neg (by simp [hm])]
  by_cases hv : f.via.isSome = true
  · rw [if_pos hv]
    exact ⟨_, _, rfl⟩
  · rw [if_neg hv]
    exact ⟨_, (if f.counted then s else s.countUp f.launch).hints, rfl⟩

theorem State.acceptAside_sender : s.AcceptAside (s.senderAccepted f) := by
  by_cases hs : ∃ p, f.sender = .core p
  · obtain ⟨p, hs⟩ := hs
    obtain ⟨saves, hints, e⟩ := State.senderAccepted_core (s := s) hm hs
    have hcount : s.AcceptAside (if f.counted then s else s.countUp f.launch) := by
      split
      · exact .refl s
      · exact s.acceptAside_countUp _
    rw [e]
    exact (hcount.trans (State.acceptAside_goesOn ..)).trans ⟨rfl, fun _ => rfl⟩
  · have e : s.senderAccepted f = match f.hire with | some hid => s.clearMark hid | none => s := by
      rw [State.senderAccepted]
      split
      · next p hp => exact absurd ⟨p, hp⟩ hs
      · rfl
    rw [e]
    split
    · exact ⟨rfl, fun _ => rfl⟩
    · exact .refl s

theorem State.ctx_senderAccepted {p : Nat} (hs : f.sender = .core p) (k : Nat) :
    (s.senderAccepted f).ctx p k = (s.ctx p k).accepted f.uid := by
  obtain ⟨saves, hints, e⟩ := State.senderAccepted_core (s := s) hm hs
  have hctx : (if f.counted then s else s.countUp f.launch).ctx p k = s.ctx p k := by
    split
    · rfl
    · exact State.ctx_updLaunch ..
  rw [e, ← hctx]
  exact State.ctx_goesOn ..

theorem State.launch?_senderAccepted {p : Nat} {l : Launch} (hs : f.sender = .core p) (hc : f.counted = false)
    (hl : s.launch? f.launch = some l) : (s.senderAccepted f).launch? f.launch = some { l with outstanding := l.outstanding + 1 } := by
  obtain ⟨saves, hints, e⟩ := State.senderAccepted_core (s := s) hm hs
  rw [e, hc]
  exact State.launch?_countUp hl

end

/-- A task that waited for this message to be accepted goes on (R127); `spawnb` has the result 0. -/
theorem Ctx.accepted_spec {t : Ctx} {uid : Nat} {reg : Option Reg} (hu : t.uid = uid) (hw : t.wait = .message reg) :
    (t.accepted uid).wait = .settle ∧ (t.accepted uid).phase = .running ∧ (reg = none → (t.accepted uid).x = t.x) ∧
      ∀ r, reg = some r → (t.accepted uid).x = (t.put r (.word 0)).x := by
  rw [Ctx.accepted, hw]
  dsimp only
  rw [if_pos hu]
  cases reg with
  | none => exact ⟨rfl, rfl, fun _ => rfl, nofun⟩
  | some r => exact ⟨rfl, rfl, nofun, fun _ e => by cases e; rfl⟩

/-- What the statement says of the sender of a message that has been accepted. -/
def Flight.SenderGoesOn (f : Flight) (s t : State) : Prop :=
  (∀ p k reg, f.sender = .core p → (s.ctx p k).uid = f.uid → (s.ctx p k).wait = .message reg →
    (t.ctx p k).wait = .settle ∧ (t.ctx p k).phase = .running ∧ (reg = none → (t.ctx p k).x = (s.ctx p k).x) ∧
      (∀ r, reg = some r → (t.ctx p k).x = ((s.ctx p k).put r (.word 0)).x)) ∧
  (∀ p l, f.sender = .core p → f.counted = false → s.launch? f.launch = some l →
    ∃ m, t.launch? f.launch = some m ∧ m.outstanding = l.outstanding + 1)

theorem State.senderGoesOn {s t : State} {f : Flight} (hm : f.mig = none) (hctx : ∀ p k, t.ctx p k = (s.senderAccepted f).ctx p k)
    (hl : ∀ id, t.launch? id = (s.senderAccepted f).launch? id) : f.SenderGoesOn s t := by
  refine ⟨fun p k reg hs hu hw => ?_, fun p l hs hc h => ⟨_, (hl _).trans (State.launch?_senderAccepted hm hs hc h), rfl⟩⟩
  rw [hctx, State.ctx_senderAccepted hm hs]
  exact Ctx.accepted_spec hu hw

theorem State.msgs_updLaunch (s : State) (id : Nat) (f : Launch → Launch) : (s.updLaunch id f).msgs = s.msgs := by
  unfold State.updLaunch
  split <;> rfl

/-! ### A message enters its core (R127, R136) -/

section
variable (s : State) (f : Flight)

/-- What a message does that finds room in the run queue, room in the overflow area alone, or no room. -/
theorem State.enter_runq (h : (s.core f.target).runq.length < 256 ∧ (s.core f.target).ovf = []) : s.enter f =
    (s.senderAccepted f).updCore f.target (fun h => { h with runq := h.runq ++ [s.entryOf f] }) := by
  rw [State.enter]
  dsimp only
  rw [if_pos (by simp [h.1, h.2])]

theorem State.enter_overflow {a : Nat} (h : ¬((s.core f.target).runq.length < 256 ∧ (s.core f.target).ovf = []))
    (ha : s.ovfSlot f.target = some a) : s.enter f =
    ((s.senderAccepted f).updCore f.target (fun h => { h with ovf := h.ovf ++ [{ s.entryOf f with addr := some a }] })).memWrite a
      (PByte.clean (bytesOfWords f.msg.words)) := by
  rw [State.enter]
  dsimp only
  rw [if_neg (by simpa using h), ha]
  rfl

theorem State.enter_held (h : ¬((s.core f.target).runq.length < 256 ∧ (s.core f.target).ovf = [])) (ha : s.ovfSlot f.target = none) :
    s.enter f = { s with msgs := s.msgs ++ [{ f with held := true, back := true }] } := by
  rw [State.enter]
  dsimp only
  rw [if_neg (by simpa using h), ha]

end

/-! ### The cases of an arrival -/

/-- The state without the message that arrives. -/
def State.withoutMsg (s : State) (i : Nat) : State := { s with msgs := dropNth s.msgs i }

theorem State.forwardTo_withoutMsg (s : State) (i : Nat) (f : Flight) : (s.withoutMsg i).forwardTo f = s.forwardTo f := rfl

section
variable {s : State} {i : Nat} {f : Flight} (hi : s.msgs[i]? = some f) (hb : f.back = false)
include hi hb

theorem execMessageArrive_eq : execMessageArrive i s = .next (
    if NatSet.has (s.core f.target).cancels f.launch then (s.withoutMsg i).dropArriving f
    else match (s.withoutMsg i).forwardTo f with
      | some t => { (s.withoutMsg i) with msgs := (s.withoutMsg i).msgs ++ [{ f with target := t, via := some f.target }] }
      | none => (s.withoutMsg i).enter f) := by
  rw [execMessageArrive, hi]
  dsimp only
  rw [if_neg (by simp [hb])]
  rfl

theorem execMessageArrive_cancelled (hc : NatSet.has (s.core f.target).cancels f.launch = true) :
    execMessageArrive i s = .next ((s.withoutMsg i).dropArriving f) := by
  rw [execMessageArrive_eq hi hb, if_pos hc]

theorem execMessageArrive_enters (hc : ¬NatSet.has (s.core f.target).cancels f.launch = true) (hf : s.forwardTo f = none) :
    execMessageArrive i s = .next ((s.withoutMsg i).enter f) := by
  rw [execMessageArrive_eq hi hb, if_neg hc, State.forwardTo_withoutMsg, hf]

theorem execMessageArrive_forwarded {d : Nat} (hc : ¬NatSet.has (s.core f.target).cancels f.launch = true) (hf : s.forwardTo f = some d) :
    execMessageArrive i s = .next { s with msgs := dropNth s.msgs i ++ [{ f with target := d, via := some f.target }] } := by
  rw [execMessageArrive_eq hi hb, if_neg hc, State.forwardTo_withoutMsg, hf]
  rfl

end

/-! ### A message that arrives after the cancel of its job (R146) -/

section
variable {s : State} {f : Flight}

theorem State.dropArriving_message (hm : f.mig = none) : ∃ arrays, s.dropArriving f =
    if f.counted then ({ s with arrays := arrays } : State).dropEntry f.target f
    else ({ s with arrays := arrays } : State).updLaunch f.launch (fun l => { l with killed := l.killed + 1 }) := by
  rw [State.dropArriving, hm]
  dsimp only
  cases hh : f.hire with
  | none => exact ⟨s.arrays, rfl⟩
  | some hid => exact ⟨_, rfl⟩

theorem State.dropArriving_counted {l : Launch} (hm : f.mig = none) (hc : f.counted = true) (hl : s.launch? f.launch = some l) :
    s.LeftAside (s.dropArriving f) ∧ (s.dropArriving f).msgs = s.msgs ∧ (s.dropArriving f).launch? f.launch = some (l.ended .killed) := by
  obtain ⟨arrays, e⟩ := State.dropArriving_message (s := s) hm
  rw [e, if_pos hc, State.dropEntry, State.endEntry_message hm]
  have hl' : ({ s with arrays := arrays } : State).launch? f.launch = some l := hl
  refine ⟨?_, ?_, State.launch?_tally_countDown .killed hl'⟩
  · exact State.LeftAside.trans (t := { s with arrays := arrays }) ⟨rfl, fun _ => rfl⟩ ((State.left_tally ..).trans (State.left_countDown ..))
  · rw [State.countDown, State.msgs_updLaunch, State.tally, State.msgs_updLaunch]

theorem State.dropArriving_uncounted {l : Launch} (hm : f.mig = none) (hc : f.counted = false) (hl : s.launch? f.launch = some l) :
    s.LeftAside (s.dropArriving f) ∧ (s.dropArriving f).msgs = s.msgs ∧
      (s.dropArriving f).launch? f.launch = some { l with killed := l.killed + 1 } := by
  obtain ⟨arrays, e⟩ := State.dropArriving_message (s := s) hm
  rw [e, if_neg (by simp [hc])]
  refine ⟨?_, State.msgs_updLaunch .., ?_⟩
  · exact State.LeftAside.trans (t := { s with arrays := arrays }) ⟨rfl, fun _ => rfl⟩ (State.left_updLaunch ..)
  · rw [State.launch?_updLaunch, if_pos rfl]
    exact congrArg (Option.map _) hl

/-! ### A task that moves (R146, R370, R422) -/

section
variable {p : Nat} (hm : f.mig.isSome = true) (hs : f.sender = .core p) (hu : (s.ctx p f.ctx).uid = f.uid)
include hm hs hu

/-- The context that a task has left is free. -/
theorem State.senderAccepted_moved (hw : (s.ctx p f.ctx).wait = .message none) (hpools : s.pools = []) :
    s.senderAccepted f = s.setCtx p f.ctx (s.ctx p f.ctx).freed := by
  have hpools' : (s.setCtx p f.ctx (s.ctx p f.ctx).freed).pools = [] := hpools
  rw [State.senderAccepted, hs]
  dsimp only
  rw [if_pos hm, if_pos ⟨hu, hw⟩, State.vacate, State.leavePool_none hpools', State.poolRun_none hpools']

theorem State.dropArriving_moved : s.dropArriving f = s.killTask p f.ctx := by
  obtain ⟨m, hm⟩ := Option.isSome_iff_exists.mp hm
  rw [State.dropArriving, hm, hs]
  exact if_pos hu

end

theorem State.forwardTo_moved (hm : f.mig.isSome = true) : s.forwardTo f = none := if_pos (.inr (.inr hm))

end

/-! ### Re-home hints (R416) -/

/-- Three words written from an offset on are read back as they are. -/
theorem Memory.words_setBytes (m : List Host.Cell) (a : Nat) (u v w : W64) :
    let t := Memory.setBytes m a (bytesOfWords [u, v] ++ leBytes w.toNat 8)
    leNat (Memory.bytes t a 8) = u.toNat ∧ leNat (Memory.bytes t (a + 8) 8) = v.toNat ∧ leNat (Memory.bytes t (a + 16) 8) = w.toNat := by
  have e : bytesOfWords [u, v] ++ leBytes w.toNat 8 = leBytes u.toNat 8 ++ (leBytes v.toNat 8 ++ leBytes w.toNat 8) := by
    simp [bytesOfWords]
  have hrest := Memory.bytes_setBytes_append m a (leBytes u.toNat 8) (leBytes v.toNat 8 ++ leBytes w.toNat 8)
  obtain ⟨hu, htail⟩ := hrest
  simp only [length_leBytes, List.length_append] at hu htail
  rw [Memory.bytes_add] at htail
  obtain ⟨hv, hw⟩ := List.append_inj htail (by simp [Memory.length_bytes])
  dsimp only
  rw [e, hu, hv]
  rw [show a + 16 = a + 8 + 8 by omega, hw]
  exact ⟨leNat_word u, leNat_word v, leNat_word w⟩

/-- The words that a hint writes in the table. -/
def Hint.bytes (x : Hint) (count : Nat) (bad : Bool) : List PByte :=
  PByte.clean (bytesOfWords [x.key, w64 x.target]) ++ (leBytes count 8).map (fun b => ⟨b, bad⟩)

theorem Hint.vals_bytes (x : Hint) (count : Nat) (bad : Bool) :
    PByte.vals (x.bytes (count % 2 ^ 64) bad) = bytesOfWords [x.key, w64 x.target] ++ leBytes (w64 count).toNat 8 := by
  have hcount : (w64 count).toNat = count % 2 ^ 64 := BitVec.toNat_ofNat ..
  rw [Hint.bytes, PByte.vals_append, PByte.vals_clean, hcount]
  simp [PByte.vals, Function.comp_def]

theorem execRehomeHint_eq {s : State} {i : Nat} {x : Hint} (hi : s.hints[i]? = some x) : execRehomeHint i s = .next (
    if (s.core x.core).tableOk then
      ({ s with hints := dropNth s.hints i } : State).spWrite x.core (s.core x.core).tableOff
        (x.bytes (((s.core x.core).word ((s.core x.core).tableOff + 16) + 1) % 2 ^ 64)
          (poisonedIn (s.core x.core).spadPoison ((s.core x.core).tableOff + 16) 8))
    else { s with hints := dropNth s.hints i }) := by
  rw [execRehomeHint, hi]
  rfl

end Sys2Proof.Machine

namespace Sys2Proof
open Machine

/-- Settles O34: a message enters, is held, forwarded or dropped as the cases of its arrival say; a task that moves takes its context with
it; a hint writes three words. -/
theorem messageArrivals : Obligations.MessageArrivals := by
  refine ⟨?_, ?_, ?_⟩
  · intro s i f hi hb hm c h rest cancelled room sender entry
    have hrest : dropNth s.msgs i = rest := dropNth_eq_take_drop ..
    have haside := State.acceptAside_sender (s := s.withoutMsg i) hm
    have hmsgs : ((s.withoutMsg i).senderAccepted f).msgs = rest := (haside.keeps (f := State.msgs) fun _ _ => rfl).trans hrest
    have hmem : ((s.withoutMsg i).senderAccepted f).mem = s.mem := haside.keeps (f := State.mem) fun _ _ => rfl
    refine ⟨fun hc hf hr => ?_, fun a hc hf hr ha => ?_, fun hc hf hr ha => ?_, fun d hc hf => ?_, fun l hc hcount hl => ?_,
      fun l hc hcount hl => ?_⟩
    · refine ⟨_, (s.withoutMsg i).entryOf f,
        (execMessageArrive_enters hi hb hc hf).trans (congrArg Host.Outcome.next (State.enter_runq _ _ hr)), hmsgs, ?_, ?_, rfl,
        State.senderGoesOn (s := s.withoutMsg i) hm (fun p k => State.ctx_updCore _ rfl p k) fun id => rfl, hmem⟩
      · rw [State.core_updCore, haside.core]
        rfl
      · exact ⟨rfl, rfl, rfl, rfl, rfl, rfl, rfl, by rw [State.entryOf, hm]; rfl⟩
    · have hwrite := State.memoryAside_memWrite (((s.withoutMsg i).senderAccepted f).updCore f.target
        (fun h => { h with ovf := h.ovf ++ [{ (s.withoutMsg i).entryOf f with addr := some a }] })) a (PByte.clean (bytesOfWords f.msg.words))
      have hcore := hwrite.keeps (f := fun t => t.core c) fun _ _ => rfl
      have hmem' := State.mem_memWrite (((s.withoutMsg i).senderAccepted f).updCore f.target
        (fun h => { h with ovf := h.ovf ++ [{ (s.withoutMsg i).entryOf f with addr := some a }] })) a (PByte.clean (bytesOfWords f.msg.words))
      rw [PByte.vals_clean, show (State.updCore _ _ _).mem = s.mem from hmem] at hmem'
      rw [State.core_updCore, haside.core] at hcore
      have hlength : (bytesOfWords f.msg.words).length = 64 := length_bytesOfWords _
      refine ⟨_, { (s.withoutMsg i).entryOf f with addr := some a },
        (execMessageArrive_enters hi hb hc hf).trans (congrArg Host.Outcome.next (State.enter_overflow _ _ hr ha)), ?_, ?_, ?_, rfl, ?_, ?_, ?_,
        fun b hb => ?_⟩
      · exact (hwrite.keeps (f := State.msgs) fun _ _ => rfl).trans hmsgs
      · rw [hcore]
        rfl
      · exact ⟨rfl, rfl, rfl, rfl, rfl, rfl, rfl, by rw [State.entryOf, hm]; rfl⟩
      · rw [hcore]
        rfl
      · refine State.senderGoesOn (s := s.withoutMsg i) hm (fun p k => ?_) fun id => hwrite.keeps (f := fun t => t.launch? id) fun _ _ => rfl
        exact (hwrite.keeps (f := fun t => t.ctx p k) fun _ _ => rfl).trans (State.ctx_updCore _ rfl p k)
      · rw [hmem', ← hlength]
        exact Memory.bytes_setBytes_same ..
      · rw [hmem', Memory.byte_setBytes, if_neg (by omega)]
    · refine ⟨_, (execMessageArrive_enters hi hb hc hf).trans (congrArg Host.Outcome.next (State.enter_held _ _ hr ha)), ?_, rfl⟩
      rw [← hrest]
      rfl
    · refine ⟨_, execMessageArrive_forwarded hi hb hc hf, ?_, rfl⟩
      rw [← hrest]
    · obtain ⟨hleft, hmsgs, hlaunch⟩ := State.dropArriving_counted (s := s.withoutMsg i) hm hcount hl
      refine ⟨_, l.ended .killed, execMessageArrive_cancelled hi hb hc, hmsgs.trans hrest, ?_, ?_, hlaunch, rfl, rfl⟩ <;>
        rw [hleft.core c] <;> rfl
    · obtain ⟨hleft, hmsgs, hlaunch⟩ := State.dropArriving_uncounted (s := s.withoutMsg i) hm hcount hl
      refine ⟨_, _, execMessageArrive_cancelled hi hb hc, hmsgs.trans hrest, ?_, hlaunch, rfl, rfl⟩
      rw [hleft.core c]
      rfl
  · intro s i f m p l hi hb hm hs hu hw hlaunch hg hpools hl c rest cancelled room
    have hrest : dropNth s.msgs i = rest := dropNth_eq_take_drop ..
    have hsome : f.mig.isSome = true := by rw [hm]; rfl
    have hmoved := State.senderAccepted_moved (s := s.withoutMsg i) hsome hs hu hw hpools
    refine ⟨fun hc hr => ?_, fun hc hr ha => ?_, fun hc hcounted => ?_⟩
    · have henter := State.enter_runq (s.withoutMsg i) f hr
      rw [hmoved] at henter
      have hcore := ((s.withoutMsg i).task_setCtx p f.ctx ((s.withoutMsg i).ctx p f.ctx).freed).core c
      refine ⟨_, (s.withoutMsg i).entryOf f,
        (execMessageArrive_enters hi hb hc (State.forwardTo_moved hsome)).trans (congrArg Host.Outcome.next henter), hrest, ?_, hm, rfl, rfl,
        if_pos hsome, ?_, rfl, rfl⟩
      · rw [State.core_updCore, hcore]
        rfl
      · rw [State.ctx_updCore _ (by rfl), State.ctx_setCtx]
        rfl
    · refine ⟨_, (execMessageArrive_enters hi hb hc (State.forwardTo_moved hsome)).trans
        (congrArg Host.Outcome.next (State.enter_held _ _ hr ha)), ?_, rfl⟩
      rw [← hrest]
      rfl
    · have hq : ∀ o, (s.withoutMsg i).poolQueue o = [] := by
        intro o
        rw [State.poolQueue, show (s.withoutMsg i).pools = [] from hpools]
        rfl
      have hlaunch' := State.launch?_killTask (s := s.withoutMsg i) (c := p) (k := f.ctx) (l := l) (hq _) hg (fun g hmem hu' => ?_) ?_
      · refine ⟨_, l.ended .killed, execMessageArrive_cancelled hi hb hc, ?_, ?_, ?_, rfl, rfl⟩ <;>
          rw [State.dropArriving_moved (s := s.withoutMsg i) hsome hs hu]
        · rw [State.ctx_killTask_now (s := s.withoutMsg i) (hq _) hg]
          rfl
        · rw [((s.withoutMsg i).task_killTask p f.ctx).core c]
          rfl
        · rw [← hlaunch]
          exact hlaunch'
      · exact .inl (hcounted g (hrest ▸ hmem) (hu'.trans hu))
      · rw [show ((s.withoutMsg i).ctx p f.ctx).launch = f.launch from hlaunch]
        exact hl
  · intro s i x hi h word
    have hlength := length_dropNth hi
    by_cases hok : h.tableOk = true
    · refine ⟨_, (execRehomeHint_eq hi).trans (congrArg Host.Outcome.next (if_pos hok)), ?_, State.mem_spWrite .., fun hno => ?_, fun _ => ?_⟩
      · rw [(State.memoryAside_spWrite ..).keeps (f := State.hints) fun _ _ => rfl]
        exact hlength
      · rw [hok] at hno
        cases hno
      · have hwords := Memory.words_setBytes h.spad h.tableOff x.key (w64 x.target) (w64 (h.word (h.tableOff + 16) + 1))
        rw [← Hint.vals_bytes x _ (poisonedIn h.spadPoison (h.tableOff + 16) 8)] at hwords
        obtain ⟨hkey, htarget, hcount⟩ := hwords
        have hspad := State.core_spWrite { s with hints := dropNth s.hints i } x.core h.tableOff
          (x.bytes ((h.word (h.tableOff + 16) + 1) % 2 ^ 64) (poisonedIn h.spadPoison (h.tableOff + 16) 8))
        dsimp only [word]
        rw [hspad, HomeCore.spad_spWrite]
        refine ⟨hkey, htarget.trans (BitVec.toNat_ofNat ..), hcount.trans (BitVec.toNat_ofNat ..)⟩
    · refine ⟨_, (execRehomeHint_eq hi).trans (congrArg Host.Outcome.next (if_neg hok)), hlength, rfl, fun _ => rfl, fun hyes => absurd hyes hok⟩

end Sys2Proof
end

section
/-!
PROOF. How entries become tasks: the choice of an entry, allocation and reconfiguration, promotion, and the scrubs (O35).
-/
namespace Sys2Proof.Machine

/-! ### The choice of an entry (R137) -/

theorem oldestOf_mem {l : List (Nat × Flight)} {e : Nat × Flight} (h : oldestOf l = some e) : e ∈ l := by
  induction l generalizing e with
  | nil => cases h
  | cons x l ih =>
    unfold oldestOf at h
    split at h
    · obtain rfl : x = e := by simpa using h
      exact List.mem_cons_self
    · next b hb =>
      split at h
      · obtain rfl : b = e := by simpa using h
        exact List.mem_cons_of_mem _ (ih hb)
      · obtain rfl : x = e := by simpa using h
        exact List.mem_cons_self

theorem State.chooseEligible_mem {s : State} {c : Nat} {es : List (Nat × Flight)} {e : Nat × Flight} (h : s.chooseEligible c es = some e) :
    e ∈ es := by
  have hok : ∀ p : Nat × Flight → Bool, e ∈ (es.filter p).filter (fun e => e.2.msg.role == 0) ∨
      e ∈ (es.filter p).filter (fun e => e.2.msg.role == 1) ∨ e ∈ es.filter p → e ∈ es := by
    intro p hmem
    rcases hmem with hmem | hmem | hmem
    · exact List.mem_of_mem_filter (List.mem_of_mem_filter hmem)
    · exact List.mem_of_mem_filter (List.mem_of_mem_filter hmem)
    · exact List.mem_of_mem_filter hmem
  refine hok (fun e => (s.matchesK c e.2 || !(s.core c).live) && s.meetsTpc c e.2 && ((s.core c).place e.2).isSome) ?_
  unfold State.chooseEligible at h
  dsimp only at h
  split at h
  · next x hx =>
    obtain rfl : x = e := by simpa using h
    exact .inl (oldestOf_mem hx)
  · split at h
    · next x hx =>
      obtain rfl : x = e := by simpa using h
      exact .inr (.inl (oldestOf_mem hx))
    · exact .inr (.inr (oldestOf_mem h))

theorem mem_numbered {l : List Flight} {i : Nat} {f : Flight} (h : (i, f) ∈ (List.range l.length).zip l) : l[i]? = some f := by
  obtain ⟨n, hn⟩ := List.mem_iff_getElem?.mp h
  rw [List.getElem?_zip_eq_some] at hn
  obtain ⟨hi, hf⟩ := hn
  obtain ⟨hlt, hn⟩ := List.getElem?_eq_some_iff.mp hi
  rw [List.getElem_range] at hn
  have e : n = i := hn
  exact e ▸ hf

/-- The entry chosen stands in the run queue, and no task of the core waits to be alone. -/
theorem State.choose_spec {s : State} {c i : Nat} {f : Flight} (h : s.choose c = some (i, f)) :
    (s.core c).runq[i]? = some f ∧ ∀ e ∈ (s.core c).ctxs, e.2.wait ≠ .alone := by
  unfold State.choose at h
  dsimp only at h
  split at h
  · cases h
  · next hno =>
    refine ⟨mem_numbered ?_, fun e he hw => hno ?_⟩
    · split at h
      · next j g hg =>
        split at h
        · exact List.mem_of_mem_filter (List.mem_of_mem_filter (State.chooseEligible_mem h))
        · split at h
          · cases h
          · cases h
            exact List.mem_of_mem_filter (List.mem_of_mem_filter (oldestOf_mem hg))
      · exact List.mem_of_mem_filter (State.chooseEligible_mem h)
    · have hany : (s.core c).ctxs.any (fun e => e.2.wait == .alone) = true := List.any_eq_true.mpr ⟨e, he, by simp [hw]⟩
      simp [hany]

/-! ### The core without the entry that it has chosen -/

/-- Two states that differ in the run queue of core `c` alone. -/
structure State.QueueAside (c : Nat) (s t : State) : Prop where
  rest : t = { s with cores := t.cores }
  core : t.core c = { (s.core c) with runq := (t.core c).runq }
  other : ∀ d, d ≠ c → t.core d = s.core d

theorem State.QueueAside.trans {c : Nat} {s t u : State} (h : s.QueueAside c t) (g : t.QueueAside c u) : s.QueueAside c u := by
  refine ⟨?_, ?_, fun d hd => (g.other d hd).trans (h.other d hd)⟩
  · rw [g.rest, h.rest]
  · rw [g.core, h.core]

theorem State.queueAside_updCore (s : State) (c : Nat) (f : List Flight → List Flight) :
    s.QueueAside c (s.updCore c (fun h => { h with runq := f h.runq })) := by
  refine ⟨rfl, ?_, fun d hd => ?_⟩
  · rw [State.core_updCore]
  · rw [State.core_updCore_eq, if_neg hd]

/-- The entries of a run queue, those that have waited long enough marked (R137). -/
def agedQueue (cycle : Nat) (q : List Flight) : List Flight := q.map (fun f => if f.since + 65536 ≤ cycle then { f with aged := true } else f)

theorem State.queueAside_markAged (s : State) (c : Nat) : s.QueueAside c (s.markAged c) := s.queueAside_updCore c (agedQueue s.cycle)

theorem State.runq_markAged (s : State) (c : Nat) : ((s.markAged c).core c).runq = agedQueue s.cycle (s.core c).runq := by
  rw [State.markAged, State.core_updCore]
  rfl

theorem State.takeEntry_eq {s : State} {c : Nat} (hovf : (s.core c).ovf = []) (i : Nat) :
    s.takeEntry c i = s.updCore c (fun h => { h with runq := dropNth h.runq i }) := by
  have hovf' : ((s.updCore c (fun h => { h with runq := dropNth h.runq i })).core c).ovf = [] := by
    rw [State.core_updCore]
    exact hovf
  rw [State.takeEntry, State.refill, hovf']

/-- The core with its aged entries marked and the chosen one taken out. -/
def State.entryTaken (s : State) (c i : Nat) : State := (s.markAged c).takeEntry c i

section
variable {s : State} {c i : Nat}

theorem State.queueAside_entryTaken (hovf : (s.core c).ovf = []) : s.QueueAside c (s.entryTaken c i) := by
  have haged := s.queueAside_markAged c
  have hovf' : ((s.markAged c).core c).ovf = [] := by rw [haged.core]; exact hovf
  rw [State.entryTaken, State.takeEntry_eq hovf']
  exact haged.trans (State.queueAside_updCore _ c (dropNth · i))

/-- What the choice says of the entry as it stood before the aged ones were marked. -/
theorem State.choose_markAged {f : Flight} (h : (s.markAged c).choose c = some (i, f)) :
    (∃ g, (s.core c).runq[i]? = some g ∧ g.msg = f.msg ∧ g.launch = f.launch) ∧ ∀ e ∈ (s.core c).ctxs, e.2.wait ≠ .alone := by
  obtain ⟨hf, halone⟩ := State.choose_spec h
  rw [(s.queueAside_markAged c).core] at halone
  rw [State.runq_markAged, agedQueue, List.getElem?_map, Option.map_eq_some_iff] at hf
  obtain ⟨g, hg, rfl⟩ := hf
  refine ⟨⟨g, hg, ?_, ?_⟩, halone⟩ <;> split <;> rfl

theorem State.length_entryTaken {g : Flight} (hovf : (s.core c).ovf = []) (hg : (s.core c).runq[i]? = some g) :
    ((s.entryTaken c i).core c).runq.length + 1 = (s.core c).runq.length := by
  have hovf' : ((s.markAged c).core c).ovf = [] := by rw [(s.queueAside_markAged c).core]; exact hovf
  have haged : (agedQueue s.cycle (s.core c).runq)[i]? = some (if g.since + 65536 ≤ s.cycle then { g with aged := true } else g) := by
    rw [agedQueue, List.getElem?_map, hg]
    rfl
  rw [State.entryTaken, State.takeEntry_eq hovf', State.core_updCore, State.runq_markAged]
  exact (length_dropNth haged).trans (List.length_map _)

end

/-! ### What the core says of an entry -/

section
variable {c : Nat} {s t : State} (h : s.QueueAside c t)
include h

theorem State.QueueAside.keeps {α : Type} {f : State → α} (hf : ∀ s t : State, f { s with cores := t.cores } = f s) : f t = f s := by
  rw [h.rest]
  exact hf s t

theorem State.QueueAside.ctxs (d : Nat) : (t.core d).ctxs = (s.core d).ctxs := by
  by_cases hd : d = c
  · subst hd
    rw [h.core]
  · rw [h.other d hd]

theorem State.QueueAside.ctx (d k : Nat) : t.ctx d k = s.ctx d k := by
  rw [State.ctx, State.ctx, HomeCore.ctx, HomeCore.ctx, h.ctxs]

theorem State.QueueAside.launch? (id : Nat) : t.launch? id = s.launch? id := h.keeps (f := fun s => s.launch? id) fun _ _ => rfl

theorem State.QueueAside.confOf (f : Flight) : t.confOf f = s.confOf f := h.keeps (f := fun s => s.confOf f) fun _ _ => rfl

theorem State.QueueAside.matchesK (f : Flight) : t.matchesK c f = s.matchesK c f := by
  rw [State.matchesK, State.matchesK, h.confOf, h.core]

theorem State.QueueAside.place (f : Flight) : (t.core c).place f = (s.core c).place f := by
  rw [h.core]
  rfl

theorem State.QueueAside.entryFails (f : Flight) : t.entryFails (t.core c).shadow f = s.entryFails (s.core c).shadow f := by
  rw [h.core]
  exact h.keeps (f := fun u => u.entryFails (s.core c).shadow f) fun _ _ => rfl

theorem State.QueueAside.granted (o : Nat) : t.granted o = s.granted o := by
  unfold State.granted
  simp only [h.ctxs]

end

/-- Whether the bound of an entry that carries no task fails. -/
theorem State.entryFails_message {s : State} {f : Flight} {l : Launch} (hm : f.mig = none) (hl : s.launch? f.launch = some l) (sh : Map Shadow) :
    s.entryFails sh f = true ↔ f.msg.bd = true ∧ boundCheck (sh.get {} f.msg.inc) l.asid f.msg.job f.msg.bound = true := by
  rw [State.entryFails, hl, hm]
  exact Bool.and_eq_true_iff

theorem State.entryFails_task {s : State} {f : Flight} {l : Launch} {m : Ctx} (hm : f.mig = some m) (hl : s.launch? f.launch = some l)
    (sh : Map Shadow) : s.entryFails sh f = true ↔ m.bd = true ∧ boundCheck (sh.get {} m.inc) l.asid m.job m.bound = true := by
  rw [State.entryFails, hl, hm]
  exact Bool.and_eq_true_iff

/-! ### The state in which a task starts (R109) -/

/-- What the spec says of the context of a task that starts. -/
def Flight.Starts (f : Flight) (l : Launch) (u : Ctx) : Prop :=
  u.phase = .running ∧ u.pc = BitVec.ofNat 16 f.msg.hnd ∧ u.readX 2 = w64 (0xFFFFFFFFFFF00000 + 16384 * l.n) ∧
    (∀ j, j < 4 → u.readX (10 + j) = nth 0 f.msg.args j) ∧ u.readX 14 = w64 (f.msg.group % 2 ^ 32 * 2 ^ 32 + f.msg.job % 2 ^ 32) ∧
    u.readX 15 = f.msg.key ∧ (∀ r, r < 32 → r ≠ 2 → r < 10 ∨ 15 < r → u.readX r = 0) ∧ u.sup = decide (l.asid = 0) ∧
    u.rm = l.w 0 / 2 ^ 28 % 4 ∧ (u.sbchk = true ↔ l.w 0 / 2 ^ 27 % 2 = 1) ∧ u.pp = false ∧ u.th = false ∧ u.tvec = 0 ∧ u.faulta = 0 ∧
    u.amax = 0 ∧ u.pend = [] ∧ u.var = [] ∧ u.claim = none ∧ u.groups = [] ∧ u.bd = f.msg.bd ∧ (f.msg.bd = true → u.bound = f.msg.bound) ∧
    u.asid = l.asid ∧ u.job = f.msg.job ∧ u.launch = f.launch ∧ u.paired = f.msg.pair

/-- STATUS of a task that starts, bit by bit. -/
def startStatus (sup : Bool) (rm sbchk : Nat) : W64 := w64 ((if sup = true then 2 ^ 15 else 0) + rm * 2 ^ 10 + sbchk * 2 ^ 8)

theorem startStatus_bits (sup : Bool) (rm : Fin 4) (sbchk : Fin 2) :
    (startStatus sup rm sbchk).getLsbD 15 = sup ∧ (startStatus sup rm sbchk).toNat / 2 ^ 10 % 4 = rm ∧
      (startStatus sup rm sbchk).getLsbD 8 = (sbchk == 1) ∧ (startStatus sup rm sbchk).getLsbD 7 = false ∧
      (startStatus sup rm sbchk).getLsbD 14 = false ∧ (startStatus sup rm sbchk).getLsbD 9 = false := by
  revert sup rm sbchk
  decide

theorem startCtx_starts (f : Flight) (l : Launch) (fseq uid cycle : Nat) : f.Starts l (startCtx l f l.n fseq uid cycle) := by
  have hstatus : (startCtx l f l.n fseq uid cycle).status =
      startStatus (decide (l.asid = 0)) (⟨bitsOf (l.w 0) 29 28, Nat.mod_lt _ (by norm_num)⟩ : Fin 4) (⟨bitsOf (l.w 0) 27 27, Nat.mod_lt _ (by norm_num)⟩ : Fin 2) := by
    simp [startCtx, startStatus]
  obtain ⟨hsup, hrm, hsb, hpp, hth, hxb⟩ := startStatus_bits (decide (l.asid = 0)) ⟨bitsOf (l.w 0) 29 28, Nat.mod_lt _ (by norm_num)⟩
    ⟨bitsOf (l.w 0) 27 27, Nat.mod_lt _ (by norm_num)⟩
  rw [← hstatus] at hsup hrm hsb hpp hth hxb
  have hbank : (startCtx l f l.n fseq uid cycle).bank = 0 := by
    rw [Ctx.bank, Ctx.xb, hxb, Bool.and_false]
    rfl
  have hread : ∀ r, r ≠ 0 → (startCtx l f l.n fseq uid cycle).readX r = (startCtx l f l.n fseq uid cycle).x.get 0 r := by
    intro r hr
    rw [Ctx.readX, if_neg hr, hbank, Nat.mul_zero, Nat.zero_add]
  refine ⟨rfl, rfl, ?_, fun j hj => ?_, ?_, ?_, fun r hr h2 hother => ?_, hsup, hrm, ?_, hpp, hth, rfl, rfl, rfl, rfl, rfl, rfl, rfl, rfl, ?_,
    rfl, rfl, rfl, rfl⟩
  · rw [hread 2 (by omega)]
    rfl
  · rw [hread _ (by omega)]
    interval_cases j <;> rfl
  · rw [hread 14 (by omega)]
    rfl
  · rw [hread 15 (by omega)]
    rfl
  · by_cases h0 : r = 0
    · rw [Ctx.readX, if_pos h0]
    · have hnot : r ≠ 10 ∧ r ≠ 11 ∧ r ≠ 12 ∧ r ≠ 13 ∧ r ≠ 14 ∧ r ≠ 15 := by omega
      obtain ⟨h10, h11, h12, h13, h14, h15⟩ := hnot
      rw [hread r h0]
      simp [startCtx, Map.get, h2, h10, h11, h12, h13, h14, h15]
  · rw [Ctx.sbchk, hsb, beq_iff_eq, Fin.ext_iff]
    rfl
  · intro hbd
    exact if_pos hbd

/-! ### The start of a task (R109, R173, R370, R422) -/

/-- Two states that differ in contexts, L1 lines, read-only domains, pools and numbers alone. -/
structure State.StartAside (s t : State) : Prop where
  rest : t = { s with cores := t.cores, rdc := t.rdc, nextId := t.nextId, pools := t.pools }
  core : ∀ d, t.core d = { (s.core d) with ctxs := (t.core d).ctxs, l1 := (t.core d).l1 }

theorem State.StartAside.refl (s : State) : s.StartAside s := ⟨rfl, fun _ => rfl⟩

theorem State.StartAside.trans {s t u : State} (h : s.StartAside t) (g : t.StartAside u) : s.StartAside u := by
  refine ⟨?_, fun d => ?_⟩
  · rw [g.rest, h.rest]
  · rw [g.core, h.core]

theorem State.StartAside.keeps {s t : State} (h : s.StartAside t) {α : Type} {f : State → α}
    (hf : ∀ s t : State, f { s with cores := t.cores, rdc := t.rdc, nextId := t.nextId, pools := t.pools } = f s) : f t = f s := by
  rw [h.rest]
  exact hf s t

/-- The invalidations of an acquire leave contexts as they are. -/
structure State.AcquireAside (s t : State) : Prop where
  rest : t = { s with cores := t.cores, rdc := t.rdc }
  core : ∀ d, t.core d = { (s.core d) with l1 := (t.core d).l1 }

theorem State.acquireAside_dropClean (s : State) (c : Nat) : s.AcquireAside (s.updCore c HomeCore.dropCleanL1) := by
  refine ⟨rfl, fun d => ?_⟩
  rw [State.core_updCore_eq]
  split
  · next e => rw [e]; exact rfl
  · rfl

theorem State.acquireAside (s : State) (c : Nat) (o : Option Scope) : s.AcquireAside (s.acquireAt c o) := by
  have hrefl : s.AcquireAside s := ⟨rfl, fun _ => rfl⟩
  have hdrop := s.acquireAside_dropClean c
  cases o with
  | none => exact hrefl
  | some sc =>
    cases sc
    · exact hrefl
    · exact hrefl
    · exact hdrop
    all_goals
      refine ⟨?_, hdrop.core⟩
      rfl

theorem State.AcquireAside.start {s t : State} (h : s.AcquireAside t) : s.StartAside t := by
  refine ⟨?_, fun d => ?_⟩
  · rw [h.rest]
  · rw [h.core]

theorem State.AcquireAside.ctx {s t : State} (h : s.AcquireAside t) (d k : Nat) : t.ctx d k = s.ctx d k := by
  rw [State.ctx, h.core]
  rfl

theorem State.AcquireAside.poolQueue {s t : State} (h : s.AcquireAside t) (o : Nat) : t.poolQueue o = s.poolQueue o := by
  unfold State.poolQueue
  rw [h.rest]

theorem Scope.wide_iff (sc : Scope) : sc.wide = true ↔ sc ≠ .task ∧ sc ≠ .core := by
  cases sc <;> decide

/-- An acquire at die scope or wider leaves dirty bytes alone in the L1 of its core (R166). -/
theorem State.acquireAt_dirty {s : State} {c : Nat} {sc : Scope} (h : sc.wide = true) :
    ∀ x ∈ ((s.acquireAt c (some sc)).core c).l1, ∀ b ∈ x.bytes, b.2.dirty = true := by
  have hl1 : ((s.acquireAt c (some sc)).core c).l1 = ((s.updCore c HomeCore.dropCleanL1).core c).l1 := by
    obtain ⟨htask, hcore⟩ := (Scope.wide_iff sc).mp h
    cases sc
    · exact absurd rfl htask
    · exact absurd rfl hcore
    all_goals rfl
  intro x hx b hb
  rw [hl1, State.core_updCore] at hx
  obtain ⟨y, -, rfl⟩ := List.mem_map.mp (List.mem_of_mem_filter hx)
  exact (List.mem_filter.mp hb).2

theorem State.startAside_setCtx (s : State) (c k : Nat) (t : Ctx) : s.StartAside (s.setCtx c k t) := by
  refine ⟨rfl, fun d => ?_⟩
  rw [State.setCtx, State.core_updCore_eq]
  split
  · next e => rw [e]; exact rfl
  · rfl

theorem State.startAside_poolGrant (o : Nat) (q : List PoolReq) : ∀ s : State, s.StartAside (s.poolGrant o q) := by
  have hset : ∀ (s : State) (l : List PoolReq), s.StartAside { s with pools := s.pools.set o l } := fun s l => ⟨rfl, fun _ => rfl⟩
  induction q with
  | nil => exact fun s => hset s []
  | cons r q ih =>
    intro s
    unfold State.poolGrant
    split
    · exact (s.startAside_setCtx ..).trans (ih _)
    · exact hset s _

theorem State.startAside_askClaim (s : State) (c k uid : Nat) (cl : Claim) (head : Bool) : s.StartAside (s.askClaim c k uid cl head) := by
  have hrun : ∀ t : State, t.StartAside (t.poolRun (c / 8)) := by
    intro t
    unfold State.poolRun
    split
    · exact .refl t
    · exact State.startAside_poolGrant ..
  unfold State.askClaim
  dsimp only
  refine State.StartAside.trans ?_ (hrun _)
  exact ⟨rfl, fun _ => rfl⟩

/-- The context that an entry receives, before its acquire. -/
def State.given (s : State) (c k : Nat) (f : Flight) (l : Launch) : State :=
  match f.mig with
  | some t =>
    let u := s.setCtx c k (t.landed (s.ctx c k).fseq s.cycle f.arrival)
    match t.claim with
    | some cl => u.askClaim c k t.uid cl false
    | none => u
  | none =>
    let u := { s with nextId := s.nextId + 1 }.setCtx c k (startCtx l f l.n (s.ctx c k).fseq s.nextId s.cycle)
    if f.msg.pair then u.updCtx c (k + 1) (fun t => { t with phase := .odd }) else u

theorem State.startTask_eq {s : State} {f : Flight} {l : Launch} (hl : s.launch? f.launch = some l) (c k : Nat) :
    s.startTask c k f = (s.given c k f l).acquireAt c f.acq := by
  rw [State.startTask, hl]
  rfl

theorem State.startAside_given (s : State) (c k : Nat) (f : Flight) (l : Launch) : s.StartAside (s.given c k f l) := by
  unfold State.given
  split
  · dsimp only
    split
    · exact (s.startAside_setCtx ..).trans (State.startAside_askClaim ..)
    · exact s.startAside_setCtx ..
  · dsimp only
    have hset := State.StartAside.trans (s := s) (t := { s with nextId := s.nextId + 1 }) ⟨rfl, fun _ => rfl⟩
      (State.startAside_setCtx _ c k (startCtx l f l.n (s.ctx c k).fseq s.nextId s.cycle))
    split
    · exact hset.trans (State.startAside_setCtx ..)
    · exact hset

section
variable {s : State} {c k : Nat} {f : Flight} {l : Launch} (hl : s.launch? f.launch = some l)
include hl

theorem State.startAside_startTask : s.StartAside (s.startTask c k f) := by
  rw [State.startTask_eq hl]
  exact (s.startAside_given ..).trans (State.acquireAside ..).start

/-- A message starts its task in the state of R109. -/
theorem State.startTask_message (hm : f.mig = none) : f.Starts l ((s.startTask c k f).ctx c k) ∧
    (f.msg.pair = true → ((s.startTask c k f).ctx c (k + 1)).phase = .odd) ∧
    (f.acq = none → ((s.startTask c k f).core c).l1 = (s.core c).l1) := by
  have hne : ¬(c = c ∧ k = k + 1) := by omega
  rw [State.startTask_eq hl, (State.acquireAside ..).ctx, (State.acquireAside ..).ctx, State.given, hm]
  dsimp only
  refine ⟨?_, fun hp => ?_, fun ha => ?_⟩
  · split
    · rw [State.updCtx, State.ctx_setCtx_ne _ _ hne, State.ctx_setCtx]
      exact startCtx_starts ..
    · rw [State.ctx_setCtx]
      exact startCtx_starts ..
  · rw [if_pos hp, State.updCtx, State.ctx_setCtx]
  · have hset : ∀ (u : State) (j : Nat) (t : Ctx), ((u.setCtx c j t).core c).l1 = (u.core c).l1 := by
      intro u j t
      rw [State.setCtx, State.core_updCore]
      rfl
    rw [ha, State.acquireAt]
    split
    · rw [State.updCtx, hset, hset]
      rfl
    · rw [hset]
      rfl

end

/-! ### A task that has moved (R422) -/

/-- What a list of entries gives under a test that neither the old nor the new entry of a key passes. -/
theorem Map.filterMap_set {α β : Type} (d : α) (g : α → Option β) (m : Map α) {k : Nat} {v : α} (hv : g v = none) (hold : g (m.get d k) = none) :
    (m.set k v).filterMap (fun e => g e.2) = m.filterMap (fun e => g e.2) := by
  induction m with
  | nil => simp [Map.set, hv]
  | cons e m ih =>
    obtain ⟨j, w⟩ := e
    unfold Map.set
    split
    · simp [hv]
    · split
      · next hk =>
        have hw : g w = none := by simpa [Map.get, hk] using hold
        simp [hv, hw]
      · next hk =>
        have hrest := ih (by simpa [Map.get, hk] using hold)
        simp only [List.filterMap_cons, hrest]

/-- A context without a claim that takes the place of another one changes nothing in the lanes granted. -/
theorem State.granted_setCtx {s : State} {c k : Nat} {t : Ctx} (hold : (s.ctx c k).claim = none) (hnew : t.claim = none) (o : Nat) :
    (s.setCtx c k t).granted o = s.granted o := by
  unfold State.granted
  congr 1
  funext d
  rw [State.setCtx, State.core_updCore_eq]
  split
  · next e =>
    subst e
    exact Map.filterMap_set {} (fun t : Ctx => t.claim.map (·.lanes)) _ (by rw [hnew]; rfl) (by
      rw [show (s.core d).ctxs.get {} k = s.ctx d k from rfl, hold]; rfl)
  · rfl

/-- A claim of one lane count is granted where its lanes are free. -/
theorem pickLanes_exact (n avail : Nat) :
    (pickLanes n n avail).isSome = true ↔ (n = 8 ∨ n = 16 ∨ n = 32 ∨ n = 64) ∧ n ≤ avail := by
  rw [pickLanes, List.find?_isSome]
  constructor
  · rintro ⟨x, hx, h⟩
    simp only [List.mem_cons, List.not_mem_nil, or_false, Bool.and_eq_true, decide_eq_true_eq] at hx h
    omega
  · rintro ⟨hn, ha⟩
    refine ⟨n, ?_, by simp [ha]⟩
    simp only [List.mem_cons, List.not_mem_nil, or_false]
    omega

/-- The request for the claim that a task has brought with it. -/
def Claim.request (cl : Claim) (c k uid : Nat) : PoolReq :=
  { core := c, ctx := k, uid := uid, lmin := cl.lanes, lmax := cl.lanes, saved := some cl }

/-- Whether a pool grants a claim of `n` lanes at once. -/
def State.grants (s : State) (o n : Nat) : Prop := s.poolSlot o = true ∧ (n = 8 ∨ n = 16 ∨ n = 32 ∨ n = 64) ∧ n ≤ s.poolFree o

section
variable {s : State} {c k uid : Nat} {cl : Claim} (hq : s.poolQueue (c / 8) = [])
include hq

theorem State.askClaim_eq : s.askClaim c k uid cl false =
    ({ s with pools := s.pools.set (c / 8) [cl.request c k uid] } : State).poolGrant (c / 8) [cl.request c k uid] := by
  have hone : ({ s with pools := s.pools.set (c / 8) [cl.request c k uid] } : State).poolQueue (c / 8) = [cl.request c k uid] :=
    Map.get_set_same ..
  rw [State.askClaim, if_neg (by decide), hq]
  exact (by rw [State.poolRun, hone] : ({ s with pools := s.pools.set (c / 8) [cl.request c k uid] } : State).poolRun (c / 8) = _)

theorem State.ctx_askClaim_granted (h : s.grants (c / 8) cl.lanes) :
    (s.askClaim c k uid cl false).ctx c k = { s.ctx c k with claim := some cl, reclaim := false } := by
  obtain ⟨hslot, hlanes, hfree⟩ := h
  obtain ⟨l, hl⟩ := Option.isSome_iff_exists.mp ((pickLanes_exact cl.lanes (s.poolFree (c / 8))).mpr ⟨hlanes, hfree⟩)
  have hpick : (if ({ s with pools := s.pools.set (c / 8) [cl.request c k uid] } : State).poolSlot (c / 8) then
      pickLanes cl.lanes cl.lanes (({ s with pools := s.pools.set (c / 8) [cl.request c k uid] } : State).poolFree (c / 8)) else none) = some l :=
    (if_pos hslot).trans hl
  rw [State.askClaim_eq hq, State.poolGrant]
  simp only [Claim.request] at hpick ⊢
  rw [hpick]
  exact State.ctx_setCtx ..

theorem State.askClaim_waits (h : ¬s.grants (c / 8) cl.lanes) :
    (s.askClaim c k uid cl false).ctx c k = s.ctx c k ∧ (s.askClaim c k uid cl false).poolQueue (c / 8) = [cl.request c k uid] := by
  have hpick : (if ({ s with pools := s.pools.set (c / 8) [cl.request c k uid] } : State).poolSlot (c / 8) then
      pickLanes cl.lanes cl.lanes (({ s with pools := s.pools.set (c / 8) [cl.request c k uid] } : State).poolFree (c / 8)) else none) = none := by
    by_cases hslot : s.poolSlot (c / 8) = true
    · refine (if_pos hslot).trans (Option.not_isSome_iff_eq_none.mp fun hsome => h ⟨hslot, ?_⟩)
      exact (pickLanes_exact ..).mp hsome
    · exact if_neg hslot
  rw [State.askClaim_eq hq, State.poolGrant]
  simp only [Claim.request] at hpick ⊢
  rw [hpick]
  exact ⟨rfl, Map.get_set_same ..⟩

end

/-- A task that has moved goes on as it was captured; its claim is granted or waits. -/
theorem State.startTask_task {s : State} {c k : Nat} {f : Flight} {l : Launch} {m : Ctx} (hl : s.launch? f.launch = some l)
    (hm : f.mig = some m) (hq : s.poolQueue (c / 8) = []) (hc : (s.ctx c k).claim = none) :
    let got := ∀ d, m.claim = some d → s.grants (c / 8) d.lanes
    ∃ claim reclaim, (s.startTask c k f).ctx c k =
        { m.landed (s.ctx c k).fseq s.cycle f.arrival with claim := claim, reclaim := reclaim } ∧
      (got → claim = m.claim ∧ reclaim = false) ∧
      (¬got → claim = none ∧ reclaim = true ∧ ∃ r, (s.startTask c k f).poolQueue (c / 8) = [r] ∧ r.core = c ∧ r.ctx = k ∧ r.saved = m.claim) := by
  have hland := State.ctx_setCtx s c k (m.landed (s.ctx c k).fseq s.cycle f.arrival)
  have hgranted : ∀ o, (s.setCtx c k (m.landed (s.ctx c k).fseq s.cycle f.arrival)).granted o = s.granted o := State.granted_setCtx hc rfl
  have hgrants : ∀ n, (s.setCtx c k (m.landed (s.ctx c k).fseq s.cycle f.arrival)).grants (c / 8) n ↔ s.grants (c / 8) n := by
    intro n
    unfold State.grants State.poolSlot State.poolFree
    rw [hgranted]
  have hq' : (s.setCtx c k (m.landed (s.ctx c k).fseq s.cycle f.arrival)).poolQueue (c / 8) = [] := hq
  dsimp only
  rw [State.startTask_eq hl, (State.acquireAside ..).ctx, (State.acquireAside ..).poolQueue, State.given, hm]
  dsimp only
  cases hcl : m.claim with
  | none =>
    refine ⟨none, false, ?_, fun _ => ⟨rfl, rfl⟩, fun hno => absurd nofun hno⟩
    dsimp only
    rw [hland]
    simp [Ctx.landed, hcl]
  | some cl =>
    dsimp only
    by_cases hg : s.grants (c / 8) cl.lanes
    · refine ⟨some cl, false, ?_, fun _ => ⟨rfl, rfl⟩, fun hno => absurd (fun d hd => by cases hd; exact hg) hno⟩
      rw [State.ctx_askClaim_granted hq' ((hgrants _).mpr hg), hland]
    · obtain ⟨hctx, hqueue⟩ := State.askClaim_waits (k := k) (uid := m.uid) hq' fun h => hg ((hgrants _).mp h)
      refine ⟨none, true, ?_, fun hyes => absurd (hyes cl rfl) hg, fun _ => ⟨rfl, rfl, _, hqueue, rfl, rfl, rfl⟩⟩
      rw [hctx, hland]
      simp [Ctx.landed, hcl]

/-! ### Allocation (R137, R138) -/

section
variable {s : State} {c i k : Nat} {f : Flight}

theorem State.dispatch_fails (h : s.entryFails (s.core c).shadow f = true) : s.dispatch c f = s.dropEntry c f := if_pos h

theorem State.dispatch_starts (h : ¬s.entryFails (s.core c).shadow f = true) (hp : (s.core c).place f = some k) :
    s.dispatch c f = s.startTask c k f := by
  rw [State.dispatch, if_neg h, hp]

theorem execContextAllocate_eq (h : (s.markAged c).choose c = some (i, f)) (hm : s.matchesK c f = true) :
    execContextAllocate c s = .next ((s.entryTaken c i).dispatch c f) := by
  have hm' : (s.markAged c).matchesK c f = true := ((s.queueAside_markAged c).matchesK f).trans hm
  rw [execContextAllocate, h]
  exact congrArg Host.Outcome.next (if_pos hm')

/-- The counts of its launch once an entry has left without a task that has groups left to leave. -/
theorem State.launch?_endEntry {l : Launch} (hl : s.launch? f.launch = some l)
    (hm : ∀ m, f.mig = some m → m.groups = [] ∧ m.launch = f.launch) (how : TaskEnd) :
    (s.endEntry c f how).launch? f.launch = some (l.ended how) := by
  cases hmig : f.mig with
  | none =>
    rw [State.endEntry_message hmig]
    exact State.launch?_tally_countDown how hl
  | some m =>
    obtain ⟨hg, hlaunch⟩ := hm m hmig
    rw [State.endEntry_task hmig hg, hlaunch]
    exact State.launch?_tally_countDown (s := { s with deadTasks := NatSet.add s.deadTasks m.uid }) how hl

end

/-! ### Reconfiguration (R129) -/

/-- Keeping the entries of keys that a test selects. -/
theorem Map.get_filter {α : Type} (d : α) (q : Nat → Bool) (m : Map α) (i : Nat) :
    Map.get d (m.filter (fun e => q e.1)) i = if q i then m.get d i else d := by
  induction m with
  | nil => simp [Map.get]
  | cons e m ih =>
    obtain ⟨j, v⟩ := e
    by_cases hi : i = j
    · subst hi
      cases hq : q i with
      | true => simp [hq, Map.get]
      | false => simpa [hq] using ih
    · cases hq : q j with
      | true => simpa [hq, Map.get, hi] using ih
      | false => simpa [hq, Map.get, hi] using ih

/-- The bytes of a scratchpad across a change of configuration. -/
theorem byte_keepSpad (m : List Host.Cell) (old : Option Conf) (new : Conf) (b : Nat) : Memory.byte (keepSpad m old new) b =
    if (∃ o, old = some o ∧ o.asid = new.asid ∧ b < 16384 * min o.n new.n) then Memory.byte m b else Memory.byte [] b := by
  cases old with
  | none => simp [keepSpad]
  | some o =>
    by_cases ha : o.asid = new.asid
    · rw [keepSpad, if_pos ha, Memory.byte_eq_get, Memory.byte_eq_get, Memory.byte_eq_get]
      refine (Map.get_filter 0 (fun a => decide (a < 16384 * min o.n new.n)) m b).trans ?_
      simp [ha, Map.get]
    · simp [keepSpad, ha]

/-- The words of a text from word `i` on: none before it, and those of its bytes. -/
theorem get_textWords (j : Nat) : ∀ (i : Nat) (x : List Byte), x.length % 4 = 0 → (textWords i x).get 0 j =
    if j < i then 0 else BitVec.ofNat 32 (leNat ((x.drop (4 * (j - i))).take 4))
  | i, a :: b :: c :: d :: rest, h => by
    have hrest := get_textWords j (i + 1) rest (by simp only [List.length_cons] at h; omega)
    unfold textWords
    dsimp only
    by_cases hj : j = i
    · subst hj
      rw [if_pos (Nat.lt_succ_self j)] at hrest
      rw [if_neg (Nat.lt_irrefl j), Nat.sub_self]
      split
      · next hw => rw [hrest]; exact hw.symm
      · simp [Map.get]
    · have hskip : ((if BitVec.ofNat 32 (leNat [a, b, c, d]) = 0 then textWords (i + 1) rest
          else (i, BitVec.ofNat 32 (leNat [a, b, c, d])) :: textWords (i + 1) rest) : Map W32).get 0 j = (textWords (i + 1) rest).get 0 j := by
        split
        · rfl
        · simp [Map.get, hj]
      rw [hskip, hrest]
      by_cases hlt : j < i
      · rw [if_pos hlt, if_pos (by omega)]
      · rw [if_neg hlt, if_neg (by omega), show 4 * (j - i) = 4 * (j - (i + 1)) + 4 by omega]
        simp [List.drop_succ_cons]
  | i, [], _ => by
    simp [textWords, Map.get, leNat]
  | i, [a], h => by simp at h
  | i, [a, b], h => by simp at h
  | i, [a, b, c], h => by simp at h

/-- The text of an overlay depends on HBM alone. -/
theorem State.overlay_congr {s t : State} (hm : t.mem = s.mem) (hp : t.poison = s.poison) (image k : Nat) :
    t.overlay image k = s.overlay image k := by
  have hbytes : ∀ pa n, t.cleanBytes pa n = s.cleanBytes pa n := by
    intro pa n
    unfold State.cleanBytes
    rw [hm, hp]
  have hdir : ∀ n pa, t.directory pa n = s.directory pa n := by
    intro n
    induction n with
    | zero => exact fun _ => rfl
    | succ n ih =>
      intro pa
      unfold State.directory State.cleanWords
      rw [hbytes, ih]
  unfold State.overlay
  simp only [hbytes, hdir]

/-- The text of an overlay is made of whole words. -/
theorem State.length_overlay {s : State} {image k : Nat} {x : List Byte} (h : s.overlay image k = some x) : x.length % 4 = 0 := by
  have hclean : ∀ pa n bs, s.cleanBytes pa n = some bs → bs.length = n := by
    intro pa n bs h
    unfold State.cleanBytes at h
    split at h
    · cases h
      exact Memory.length_bytes ..
    · cases h
  unfold State.overlay at h
  dsimp only at h
  split at h
  · cases h
  · split at h
    · cases h
    · split at h
      · cases h
      · split at h
        · cases h
        · split at h
          · cases h
          · next hsize =>
            split at h
            · cases h
            · next text htext =>
              split at h
              · cases h
                rw [hclean _ _ _ htext]
                simp only [Bool.or_eq_true, not_or, bne_iff_ne, ne_eq, Decidable.not_not] at hsize
                exact hsize.2
              · cases h

section
variable (h : HomeCore) (new : Conf) (text : Option (List Byte))

/-- What a new configuration gives a core, and what it leaves. -/
theorem HomeCore.reconfigure_spec : (h.reconfigure new text).conf = some new ∧ (h.reconfigure new text).kvring = 0 ∧
    (h.reconfigure new text).l1 = h.l1.filter (fun l => new.n ≤ l.way) ∧ (h.reconfigure new text).spad = keepSpad h.spad h.conf new ∧
    (h.reconfigure new text).ctxs = h.ctxs ∧ (h.reconfigure new text).shadow = h.shadow ∧
    ∀ x, text = some x → (h.reconfigure new text).istore = textWords 0 x := by
  cases text with
  | none => exact ⟨rfl, rfl, rfl, rfl, rfl, rfl, nofun⟩
  | some t => exact ⟨rfl, rfl, rfl, rfl, rfl, rfl, fun x e => by cases e; rfl⟩

end

/-- Whether an engine is at work on the scratchpad of a core does not depend on its run queue. -/
theorem State.spadBusy_markAged {s : State} {c : Nat} (h : s.spadBusy c = false) : (s.markAged c).spadBusy c = false := by
  have hcopy : (s.markAged c).copyTouches c = true → s.copyTouches c = true := by
    intro hany
    obtain ⟨e, he, hp⟩ := List.any_eq_true.mp hany
    rcases Map.mem_set he with rfl | hold
    · have hget : s.core c = (s.cores.find? c).getD {} := Map.get_eq_find? ..
      cases hfind : s.cores.find? c with
      | none =>
        rw [hfind] at hget
        have hnone : (s.core c).copies = [] := by rw [hget]; rfl
        exact absurd hp (by simp [hnone])
      | some g =>
        rw [hfind] at hget
        have hg : s.core c = g := hget
        exact List.any_eq_true.mpr ⟨(c, g), Map.mem_of_find? hfind, hg ▸ hp⟩
    · exact List.any_eq_true.mpr ⟨e, hold, hp⟩
  unfold State.spadBusy at h ⊢
  simp only [Bool.or_eq_false_iff] at h ⊢
  obtain ⟨⟨⟨⟨hcopies, hbde⟩, hdecode⟩, hpush⟩, hring⟩ := h
  refine ⟨⟨⟨⟨?_, hbde⟩, hdecode⟩, hpush⟩, hring⟩
  by_contra hno
  rw [hcopy (by simpa using hno)] at hcopies
  cases hcopies

/-- The core whose chosen entry waits for the reconfiguration. -/
def State.chosenFor (s : State) (c : Nat) (f : Flight) (text : Option (List Byte)) : State :=
  s.updCore c (fun h => { h with chosen := some f, chosenText := text })

/-- The core configured for its entry. -/
def State.configured (s : State) (c : Nat) (f : Flight) (new : Conf) (text : Option (List Byte)) : State :=
  (s.chosenFor c f text).updCore c (fun h => h.reconfigure new h.chosenText)

section
variable {s : State} {c i k : Nat} {f : Flight} {new : Conf}

theorem State.core_configured (text : Option (List Byte)) : (s.configured c f new text).core c =
    ({ (s.core c) with chosen := some f, chosenText := text } : HomeCore).reconfigure new text := by
  rw [State.configured, State.core_updCore, State.chosenFor, State.core_updCore]

theorem State.finishReconf_eq (hconf : s.confOf f = some new) (hcount : f.counted = true) (text : Option (List Byte)) :
    (s.chosenFor c f text).finishReconf c f = (s.configured c f new text).dispatch c f := by
  have hconf' : (s.chosenFor c f text).confOf f = some new := hconf
  rw [State.finishReconf, hconf']
  exact if_pos hcount

/-- An empty core without lines, or whose scratchpad does not grow, is configured in one step. -/
theorem State.beginReconf_ends {s : State} {text : Option (List Byte)} (hconf : s.confOf f = some new) (hcount : f.counted = true)
    (htext : text = if needsText (s.core c).conf new then s.overlay new.image new.ovl else none)
    (hgood : needsText (s.core c).conf new = true → text.isSome = true)
    (hgrow : new.n ≤ blocks (s.core c).conf ∨ ((s.core c).l1 = [] ∧ (s.core c).out = [])) {u : State}
    (hu : u.confOf f = some new) (htaken : u.takeEntry c i = s) : u.beginReconf c i f = (s.configured c f new text).dispatch c f := by
  have hfinish := State.finishReconf_eq (c := c) hconf hcount text
  rw [State.beginReconf, hu]
  dsimp only
  rw [htaken, ← htext]
  rw [if_neg (by
    intro h
    obtain ⟨hneeds, hnone⟩ := Bool.and_eq_true_iff.mp h
    have hsome := hgood hneeds
    rw [Option.isNone_iff_eq_none] at hnone
    rw [hnone] at hsome
    cases hsome)]
  by_cases hb : blocks (s.core c).conf < new.n
  · obtain ⟨hl1, hout⟩ := hgrow.resolve_left (by omega)
    have hcore : (s.chosenFor c f text).core c = { (s.core c) with chosen := some f, chosenText := text } := State.core_updCore ..
    have hwb : (s.chosenFor c f text).writeBackAll c (fun l => l.way < new.n) = s.chosenFor c f text := by
      rw [State.writeBackAll, hcore]
      dsimp only
      rw [hl1]
      rfl
    have hquiet : ((s.chosenFor c f text).core c).out.any (·.write) = false := by
      rw [hcore]
      dsimp only
      rw [hout]
      rfl
    rw [if_pos hb]
    have hstep : ((s.updCore c (fun h => { h with chosen := some f, chosenText := text })).writeBackAll c (fun l => decide (l.way < new.n))) =
        s.chosenFor c f text := hwb
    rw [hstep, if_neg (by rw [hquiet]; decide)]
    exact hfinish
  · rw [if_neg hb]
    exact hfinish

/-- An entry of a bad overlay is lost (R133). -/
theorem State.beginReconf_lost {s u : State} (hu : u.confOf f = some new) (htaken : u.takeEntry c i = s)
    (hneeds : needsText (s.core c).conf new = true) (hbad : s.overlay new.image new.ovl = none) : u.beginReconf c i f = s.loseEntry c f := by
  rw [State.beginReconf, hu]
  dsimp only
  rw [htaken, if_pos hneeds, hbad, hneeds]
  rfl

theorem execCoreReconfigure_eq (h : (s.markAged c).choose c = some (i, f)) (hm : s.matchesK c f = false) (hlive : (s.core c).live = false)
    (hbusy : s.spadBusy c = false) (hch : (s.core c).chosen = none) : execCoreReconfigure c s = .next ((s.markAged c).beginReconf c i f) := by
  have hcore := (s.queueAside_markAged c).core
  have hm' : (s.markAged c).matchesK c f = false := ((s.queueAside_markAged c).matchesK f).trans hm
  have hlive' : ((s.markAged c).core c).live = false := by rw [hcore]; exact hlive
  have hch' : ((s.markAged c).core c).chosen = none := by rw [hcore]; exact hch
  rw [execCoreReconfigure, hch']
  dsimp only
  rw [if_neg (by rw [hlive', State.spadBusy_markAged hbusy]; decide), h]
  exact congrArg Host.Outcome.next (if_neg (by rw [hm']; decide))

end

/-! ### Scrubs (R339) -/

section
variable {s : State} {c : Nat}

/-- The run queue of a core without the entries whose bounds fail. -/
def State.scrubbed (s : State) (c : Nat) : State :=
  (s.dropEntries c (fun f => s.entryFails (s.core c).shadow f) (s.core c).runq).updCore c
    (fun g => { g with runq := g.runq.filter (fun f => !s.entryFails (s.core c).shadow f) })

/-- The contexts whose parked tasks fail their bounds. -/
def HomeCore.failing (h : HomeCore) : List Nat :=
  (h.ctxs.filter (fun e => e.2.phase == .parked && (match e.2.wait with | .word .. => true | _ => false) && h.boundFails e.2)).map (·.1)

theorem State.scrubbed_spec : ((s.scrubbed c).core c).runq = (s.core c).runq.filter (fun f => !s.entryFails (s.core c).shadow f) ∧
    ((s.scrubbed c).core c).ovf = (s.core c).ovf ∧ (∀ k, (s.scrubbed c).ctx c k = s.ctx c k) ∧
    (s.scrubbed c).poolQueue (c / 8) = s.poolQueue (c / 8) := by
  have hdrop := s.left_dropEntries c (fun f => s.entryFails (s.core c).shadow f) (s.core c).runq
  have hcore := hdrop.core c
  unfold State.scrubbed
  refine ⟨?_, ?_, fun k => ?_, hdrop.poolQueue _⟩
  · rw [State.core_updCore, hcore]
  · rw [State.core_updCore, hcore]
  · rw [State.ctx_updCore _ (by rfl), hdrop.ctx]

theorem execRunQueueScrub_eq (hovf : (s.core c).ovf = []) :
    execRunQueueScrub c s = .next ((s.core c).failing.foldl (fun t k => t.killTask c k) (s.scrubbed c)) := by
  have hovf' : ((s.scrubbed c).core c).ovf = [] := s.scrubbed_spec.2.1.trans hovf
  have hrefill : (s.scrubbed c).refill c = s.scrubbed c := by rw [State.refill, hovf']
  rw [HomeCore.failing, List.foldl_map]
  conv_rhs => rw [← hrefill]
  rfl

theorem HomeCore.mem_failing {k off : Nat} {reg : Reg} (hp : (s.ctx c k).phase = .parked) (hw : (s.ctx c k).wait = .word off reg)
    (hf : (s.core c).boundFails (s.ctx c k) = true) : k ∈ (s.core c).failing := by
  have hget : s.ctx c k = ((s.core c).ctxs.find? k).getD {} := Map.get_eq_find? ..
  cases hfind : (s.core c).ctxs.find? k with
  | none =>
    rw [hget, hfind] at hp
    cases hp
  | some t =>
    rw [hfind] at hget
    have ht : s.ctx c k = t := hget
    rw [ht] at hp hw hf
    exact List.mem_map.mpr ⟨(k, t), List.mem_filter.mpr ⟨Map.mem_of_find? hfind, by simp [hp, hw, hf]⟩, rfl⟩

/-- The kills of several tasks of a core. -/
theorem State.kills_free {k : Nat} {ks : List Nat} (hk : k ∈ ks) : ∀ t : State, t.poolQueue (c / 8) = [] → (t.ctx c k).groups = [] →
    ((ks.foldl (fun t k => t.killTask c k) t).ctx c k).phase = .free := by
  have hover : ∀ (t : State) (j : Nat), t.poolQueue (c / 8) = [] → (t.ctx c k).groups = [] → ((t.killTask c j).ctx c k).groups = [] ∧
      ((t.ctx c k).phase = .free ∨ j = k → ((t.killTask c j).ctx c k).phase = .free) := by
    intro t j hq hg
    by_cases hj : k = j
    · subst hj
      rw [State.ctx_killTask_now hq hg]
      exact ⟨rfl, fun _ => rfl⟩
    · by_cases hpair : k = j + 1
      · subst hpair
        rcases State.ctx_killTask_pair (k := j) hq with e | e <;> rw [e]
        · exact ⟨hg, fun h => h.resolve_right (by omega)⟩
        · exact ⟨rfl, fun _ => rfl⟩
      · rw [State.ctx_killTask_ne hq (fun e => hj e.2) fun e => hpair e.2.1]
        exact ⟨hg, fun h => h.resolve_right (Ne.symm hj)⟩
  have hstays : ∀ (ks : List Nat) (t : State), t.poolQueue (c / 8) = [] → (t.ctx c k).groups = [] → (t.ctx c k).phase = .free →
      ((ks.foldl (fun t k => t.killTask c k) t).ctx c k).phase = .free := by
    intro ks
    induction ks with
    | nil => exact fun _ _ _ h => h
    | cons j ks ih =>
      intro t hq hg hp
      obtain ⟨hg', hp'⟩ := hover t j hq hg
      exact ih _ (State.poolQueue_killTask hq) hg' (hp' (.inl hp))
  induction ks with
  | nil => cases hk
  | cons j ks ih =>
    intro t hq hg
    obtain ⟨hg', hp'⟩ := hover t j hq hg
    by_cases hj : j = k
    · exact hstays ks _ (State.poolQueue_killTask hq) hg' (hp' (.inr hj))
    · exact ih ((List.mem_cons.mp hk).resolve_left (Ne.symm hj)) _ (State.poolQueue_killTask hq) hg'

end

/-- What the scrub of one core's overflow area does. -/
def State.overflowStep (s : State) (sh : Map Shadow) (t : State) (c : Nat) : State :=
  match (s.core c).ovf with
  | [] => t
  | l => (t.dropEntries c (fun f => s.entryFails sh f) l).updCore c (fun g => { g with ovf := g.ovf.filter (fun f => !s.entryFails sh f) })

section
variable (s : State) (sh : Map Shadow) (t : State) (d c : Nat)

theorem State.runq_overflowStep : ((s.overflowStep sh t d).core c).runq = (t.core c).runq := by
  unfold State.overflowStep
  split
  · rfl
  · have hcore := (t.left_dropEntries d (fun f => s.entryFails sh f) (s.core d).ovf).core c
    rw [State.core_updCore_eq]
    split
    · next e =>
      subst e
      rw [hcore]
    · rw [hcore]

theorem State.ovf_overflowStep_ne (h : c ≠ d) : ((s.overflowStep sh t d).core c).ovf = (t.core c).ovf := by
  unfold State.overflowStep
  split
  · rfl
  · rw [State.core_updCore_eq, if_neg h, (t.left_dropEntries d (fun f => s.entryFails sh f) (s.core d).ovf).core c]

theorem State.ovf_overflowStep (hsub : ∀ f ∈ (t.core c).ovf, f ∈ (s.core c).ovf) :
    ((s.overflowStep sh t c).core c).ovf = (t.core c).ovf.filter (fun f => !s.entryFails sh f) := by
  unfold State.overflowStep
  split
  · next hnil =>
    rw [hnil] at hsub
    rw [List.eq_nil_iff_forall_not_mem.mpr fun f hf => List.not_mem_nil (hsub f hf)]
    rfl
  · rw [State.core_updCore, (t.left_dropEntries c (fun f => s.entryFails sh f) (s.core c).ovf).core c]

end

/-- The scrubs of the overflow areas of a die's cores, one after another. -/
theorem State.ovf_overflowSteps (s : State) (sh : Map Shadow) (c : Nat) (ds : List Nat) : ∀ t : State,
    (∀ f ∈ (t.core c).ovf, f ∈ (s.core c).ovf) →
    ((ds.foldl (s.overflowStep sh) t).core c).runq = (t.core c).runq ∧
      ∀ f, f ∈ ((ds.foldl (s.overflowStep sh) t).core c).ovf ↔ f ∈ (t.core c).ovf ∧ (c ∈ ds → s.entryFails sh f = false) := by
  induction ds with
  | nil => exact fun t _ => ⟨rfl, fun f => by simp⟩
  | cons d ds ih =>
    intro t hsub
    by_cases hd : c = d
    · subst hd
      have hstep := s.ovf_overflowStep sh t c hsub
      obtain ⟨hrunq, hovf⟩ := ih (s.overflowStep sh t c) fun f hf => hsub f (List.mem_of_mem_filter (hstep ▸ hf))
      refine ⟨hrunq.trans (s.runq_overflowStep ..), fun f => (hovf f).trans ?_⟩
      rw [hstep, List.mem_filter]
      simp only [Bool.not_eq_true', List.mem_cons, true_or, forall_const]
      tauto
    · have hstep := s.ovf_overflowStep_ne sh t d c hd
      obtain ⟨hrunq, hovf⟩ := ih (s.overflowStep sh t d) (hstep ▸ hsub)
      refine ⟨hrunq.trans (s.runq_overflowStep ..), fun f => (hovf f).trans ?_⟩
      rw [hstep, List.mem_cons]
      simp [hd]

/-! ### The two ways of an entry to its context -/

section
variable {s : State} {c i k : Nat} {f : Flight} {l : Launch}

/-- An entry whose bound fails is dropped as it is given a context. -/
theorem State.allocate_fails (h : (s.markAged c).choose c = some (i, f)) (hm : s.matchesK c f = true) (hovf : (s.core c).ovf = [])
    (hl : s.launch? f.launch = some l) (hf : s.entryFails (s.core c).shadow f = true)
    (hmig : ∀ m, f.mig = some m → m.groups = [] ∧ m.launch = f.launch) :
    ∃ t n, execContextAllocate c s = .next t ∧ (t.core c).runq.length + 1 = (s.core c).runq.length ∧ (t.core c).ctxs = (s.core c).ctxs ∧
      t.launch? f.launch = some n ∧ n.killed = l.killed + 1 ∧ n.outstanding = l.outstanding - 1 := by
  obtain ⟨⟨g, hg, -, -⟩, -⟩ := State.choose_markAged h
  have haside := State.queueAside_entryTaken (i := i) hovf
  have hdrop := (s.entryTaken c i).left_dropEntry c f
  have hl' : (s.entryTaken c i).launch? f.launch = some l := (haside.launch? _).trans hl
  refine ⟨(s.entryTaken c i).dropEntry c f, l.ended .killed, ?_, ?_, ?_, State.launch?_endEntry hl' hmig .killed, rfl, rfl⟩
  · rw [execContextAllocate_eq h hm, State.dispatch_fails ((haside.entryFails f).trans hf)]
  · rw [hdrop.core c]
    exact State.length_entryTaken hovf hg
  · rw [hdrop.core c]
    exact haside.ctxs c

/-- An entry that passes its bound receives the context that is found for it. -/
theorem State.allocate_starts (h : (s.markAged c).choose c = some (i, f)) (hm : s.matchesK c f = true) (hovf : (s.core c).ovf = [])
    (hl : s.launch? f.launch = some l) (hf : ¬s.entryFails (s.core c).shadow f = true) (hp : (s.core c).place f = some k) :
    execContextAllocate c s = .next ((s.entryTaken c i).startTask c k f) ∧
      (((s.entryTaken c i).startTask c k f).core c).runq.length + 1 = (s.core c).runq.length ∧
      ((s.entryTaken c i).startTask c k f).mem = s.mem ∧ ((s.entryTaken c i).startTask c k f).launches = s.launches ∧
      (s.entryTaken c i).launch? f.launch = some l := by
  obtain ⟨⟨g, hg, -, -⟩, -⟩ := State.choose_markAged h
  have haside := State.queueAside_entryTaken (i := i) hovf
  have hl' : (s.entryTaken c i).launch? f.launch = some l := (haside.launch? _).trans hl
  have hstart := State.startAside_startTask (c := c) (k := k) hl'
  refine ⟨?_, ?_, ?_, ?_, hl'⟩
  · rw [execContextAllocate_eq h hm, State.dispatch_starts (fun e => hf ((haside.entryFails f).symm.trans e)) ((haside.place f).trans hp)]
  · rw [hstart.core c]
    exact State.length_entryTaken hovf hg
  · exact (hstart.keeps (f := State.mem) fun _ _ => rfl).trans (haside.keeps (f := State.mem) fun _ _ => rfl)
  · exact (hstart.keeps (f := State.launches) fun _ _ => rfl).trans (haside.keeps (f := State.launches) fun _ _ => rfl)

end

end Sys2Proof.Machine

namespace Sys2Proof
open Machine

/-- Settles O35: the entry chosen is taken out of the queue; what follows is the dispatch of it, after the configuration of its core where
that differs; the scrubs filter queues and kill tasks. -/
theorem taskStarts : Obligations.TaskStarts := by
  refine ⟨?_, ?_, ?_, ?_, ?_, ?_⟩
  · intro s c i f l h hm hl hovf fails starts
    have hfails := State.entryFails_message hm hl (s.core c).shadow
    obtain ⟨hentry, halone⟩ := State.choose_markAged h
    have haside := State.queueAside_entryTaken (i := i) hovf
    have hl' : (s.entryTaken c i).launch? f.launch = some l := (haside.launch? _).trans hl
    refine ⟨hentry, halone, fun hmatch hf => ?_, fun k hmatch hf hp => ?_, ?_⟩
    · exact State.allocate_fails h hmatch hovf hl (hfails.mpr hf) fun m e => by rw [hm] at e; cases e
    · obtain ⟨hexec, hlength, hmem, -, hl'⟩ := State.allocate_starts h hmatch hovf hl (fun e => hf (hfails.mp e)) hp
      obtain ⟨hstarts, hpair, -⟩ := State.startTask_message (c := c) (k := k) hl' hm
      exact ⟨_, hexec, hlength, hstarts, hpair, hmem⟩
    · intro new hmatch hlive hbusy hch hconf old text
      have hexec := execCoreReconfigure_eq h hmatch hlive hbusy hch
      have hconf' : (s.markAged c).confOf f = some new := ((s.queueAside_markAged c).confOf f).trans hconf
      have hold : ((s.entryTaken c i).core c).conf = old := by rw [haside.core]
      have htext : (s.entryTaken c i).overlay new.image new.ovl = text :=
        State.overlay_congr (haside.keeps (f := State.mem) fun _ _ => rfl) (haside.keeps (f := State.poison) fun _ _ => rfl) ..
      refine ⟨fun hneeds hbad => ?_, fun k hcount hgood hf hp hgrow => ?_⟩
      · have hlost := State.beginReconf_lost (u := s.markAged c) (c := c) (i := i) hconf' rfl (hold ▸ hneeds) (htext.trans hbad)
        refine ⟨_, l.ended .lost, hexec.trans (congrArg Host.Outcome.next hlost), ?_,
          State.launch?_endEntry hl' (fun m e => by rw [hm] at e; cases e) .lost, rfl, rfl⟩
        have hcore := ((s.entryTaken c i).left_endEntry c f .lost).core c
        exact (congrArg HomeCore.conf hcore).trans hold
      · have hbegin := State.beginReconf_ends (u := s.markAged c) (i := i) (s := s.entryTaken c i) ((haside.confOf f).trans hconf) hcount
          (text := if needsText old new then text else none) (by rw [hold, htext])
          (fun hneeds => by rw [hold] at hneeds; rw [if_pos hneeds]; exact hgood hneeds)
          (by rw [haside.core]; exact hgrow) hconf' rfl
        have hcore := State.core_configured (s := s.entryTaken c i) (c := c) (f := f) (new := new) (if needsText old new then text else none)
        obtain ⟨hconfX, hkv, hl1, hspad, hctxs, hshadow, histore⟩ := HomeCore.reconfigure_spec
          ({ ((s.entryTaken c i).core c) with chosen := some f, chosenText := if needsText old new then text else none } : HomeCore) new
          (if needsText old new then text else none)
        rw [← hcore] at hconfX hkv hl1 hspad hctxs hshadow histore
        generalize hX : (s.entryTaken c i).configured c f new (if needsText old new then text else none) = X at *
        have hlX : X.launch? f.launch = some l := by rw [← hX]; exact hl'
        have hfX : ¬X.entryFails (X.core c).shadow f = true := by
          rw [hshadow, State.entryFails_message hm hlX]
          rw [haside.core]
          exact hf
        have hpX : (X.core c).place f = some k := by
          rw [← hp, ← haside.place f]
          unfold HomeCore.place HomeCore.ctx
          rw [hctxs]
        have hdispatch := State.dispatch_starts hfX hpX
        obtain ⟨hstarts, -, hl1t⟩ := State.startTask_message (c := c) (k := k) hlX hm
        have hstart := (State.startAside_startTask (c := c) (k := k) hlX).core c
        refine ⟨_, hexec.trans (congrArg Host.Outcome.next (hbegin.trans hdispatch)), ?_, ?_, hstarts, fun ha x => ?_, fun b => ?_,
          fun x hneeds hx j => ?_⟩
        · rw [hstart]
          exact hconfX
        · rw [hstart]
          exact hkv
        · rw [hl1t ha, hl1, haside.core, List.mem_filter, decide_eq_true_eq]
        · rw [hstart]
          dsimp only
          rw [hspad, haside.core]
          exact byte_keepSpad ..
        · rw [hstart]
          dsimp only
          rw [histore x (by rw [if_pos hneeds, hx]), get_textWords j 0 x (State.length_overlay hx), if_neg (Nat.not_lt_zero j), Nat.sub_zero]
  · intro s c i f l m h hm hl hmatch hovf hq fails
    have hfails := State.entryFails_task hm hl (s.core c).shadow
    have haside := State.queueAside_entryTaken (i := i) hovf
    refine ⟨fun hf hg hlaunch => ?_, ?_⟩
    · exact State.allocate_fails h hmatch hovf hl (hfails.mpr hf) fun m' e => by rw [hm] at e; cases e; exact ⟨hg, hlaunch⟩
    · intro k hf hp hc got
      obtain ⟨hexec, hlength, hmem, hlaunches, hl'⟩ := State.allocate_starts h hmatch hovf hl (fun e => hf (hfails.mp e)) hp
      have hq' : (s.entryTaken c i).poolQueue (c / 8) = [] := (haside.keeps (f := fun s => s.poolQueue (c / 8)) fun _ _ => rfl).trans hq
      have hgrants : ∀ n, (s.entryTaken c i).grants (c / 8) n ↔ s.grants (c / 8) n := by
        intro n
        unfold State.grants State.poolSlot State.poolFree
        rw [haside.granted]
      obtain ⟨claim, reclaim, hctx, hgot, hwaits⟩ := State.startTask_task (c := c) (k := k) hl' hm hq' ((congrArg Ctx.claim (haside.ctx c k)).trans hc)
      simp only [hgrants] at hgot hwaits
      refine ⟨_, hexec, hlength, hmem, hlaunches, ?_, fun sc ha hwide => ?_⟩
      · rw [hctx]
        exact ⟨rfl, rfl, rfl, rfl, rfl, rfl, rfl, rfl, rfl, rfl, rfl, rfl, rfl, rfl, rfl, rfl, rfl, rfl, rfl, rfl, rfl, rfl, rfl, rfl, rfl,
          rfl, rfl, rfl, rfl, rfl, rfl, rfl, rfl, hgot, hwaits⟩
      · rw [State.startTask_eq hl', ha]
        exact State.acquireAt_dirty hwide
  · intro s c
    refine ⟨s.markAged c, rfl, ?_, rfl, fun i f hf => ?_⟩
    · rw [State.runq_markAged]
      exact List.length_map _
    · rw [State.runq_markAged, agedQueue, List.getElem?_map, hf]
      rfl
  · intro s c k
    refine ⟨fun hr hw ha => ⟨_, congrArg Host.Outcome.next (if_pos ?_), State.ctx_setCtx ..⟩, fun h => congrArg Host.Outcome.next (if_neg ?_)⟩
    · simpa [hr, hw, HomeCore.promoteAt] using ha
    · intro hall
      simp only [Bool.and_eq_true, Bool.not_eq_true', decide_eq_true_eq] at hall
      obtain ⟨⟨hr, hw⟩, ha⟩ := hall
      rcases h with e | e | e
      · rw [hr] at e; cases e
      · rw [hw] at e; cases e
      · exact absurd ha (Nat.not_le.mpr e)
  · intro s c hovf hq
    obtain ⟨hrunq, -, hctx, hpool⟩ := s.scrubbed_spec (c := c)
    have hkills := State.TaskAside.foldl (f := fun (t : State) k => t.killTask c k) (fun t k => t.task_killTask c k) (s.core c).failing (s.scrubbed c)
    refine ⟨_, execRunQueueScrub_eq hovf, fun f => ?_, fun k off reg hp hw hf hg => ?_⟩
    · rw [hkills.core c]
      refine (iff_of_eq (congrArg (f ∈ ·) hrunq)).trans ?_
      simp [List.mem_filter]
    · exact State.kills_free (HomeCore.mem_failing hp hw hf) _ (hpool.trans hq) ((congrArg Ctx.groups (hctx k)).trans hg)
  · intro s d c hd
    obtain ⟨hrunq, hovf⟩ := s.ovf_overflowSteps (s.agentShadow.get [] d) c (natsFrom (384 * d) 384) s fun f hf => hf
    have hmem : c ∈ natsFrom (384 * d) 384 := by
      rw [natsFrom, List.mem_map]
      refine ⟨c - 384 * d, List.mem_range.mpr ?_, ?_⟩ <;> unfold dieOf at hd <;> omega
    exact ⟨_, rfl, fun f => (hovf f).trans (by simp [hmem]), hrunq⟩

end Sys2Proof
end

section
/-!
PROOF. The agents of hardware queues: TAIL, the records taken, and the start of launches (O32).
-/
namespace Sys2Proof.Machine

/-! ### The registers of a queue (R115, R116) -/

/-- The registers of a queue are no registers of the device report queue. -/
theorem queueReg_ne_report {q : Nat} (hq : q < 256) {off : Nat} (ho : off < 2 ^ 18) :
    queueBase q + off ≠ pRq + 0x18 ∧ queueBase q + off ≠ pRq + 0x28 := by
  unfold queueBase pRq devBase
  omega

section
variable {s t : State} {q : Nat} (h : s.Recorded pRq t) (hq : q < 256)
include h hq

/-- A report leaves the registers of every queue. -/
theorem State.Recorded.queueReg {off : Nat} (ho : off < 2 ^ 18) : t.reg (queueBase q + off) = s.reg (queueBase q + off) :=
  h.regs _ (queueReg_ne_report hq ho).1 (queueReg_ne_report hq ho).2

theorem State.Recorded.qhead : t.qhead q = s.qhead q := by
  rw [State.qhead, State.qhead, State.regBits, State.regBits, pQhead, h.queueReg hq (by norm_num)]

theorem State.Recorded.qtail : t.qtail q = s.qtail q := by
  rw [State.qtail, State.qtail, State.regBits, State.regBits, pQtail, h.queueReg hq (by norm_num)]

theorem State.Recorded.qctl : t.reg (pQctl q) = s.reg (pQctl q) := h.queueReg (off := 0) hq (by norm_num)

end

section
variable (s : State) (q : Nat)

theorem State.qtail_setReg (n : Nat) : (s.setReg (pQtail q) (w64 (n % 2 ^ 32))).qtail q = n % 2 ^ 32 := by
  rw [State.qtail, State.regBits, State.reg_setReg_same, bitsOf_low, w64, BitVec.toNat_ofNat]
  omega

/-- TAIL and QCTL are other registers than HEAD. -/
theorem State.qhead_setReg {pa : Nat} (v : W64) (h : pa = pQtail q ∨ pa = pQctl q) : (s.setReg pa v).qhead q = s.qhead q := by
  have hne : pQhead q ≠ pa := by
    unfold pQtail pQctl at h
    unfold pQhead
    omega
  rw [State.qhead, State.regBits, State.reg_setReg_ne s v hne]
  rfl

theorem State.qen_setTail (v : W64) : (s.setReg (pQtail q) v).qen q = s.qen q ∧ (s.setReg (pQtail q) v).qlen q = s.qlen q := by
  have hctl : pQctl q ≠ pQtail q := by unfold pQctl pQtail; omega
  have hsize : pQsize q ≠ pQtail q := by unfold pQsize pQtail; omega
  rw [State.qen, State.regBits, State.reg_setReg_ne s v hctl, State.qlen, State.regBits, State.reg_setReg_ne s v hsize]
  exact ⟨rfl, rfl⟩

theorem State.qtail_setCtl (v : W64) : (s.setReg (pQctl q) v).qtail q = s.qtail q := by
  have hne : pQtail q ≠ pQctl q := by unfold pQctl pQtail; omega
  rw [State.qtail, State.regBits, State.reg_setReg_ne s v hne]
  rfl

theorem State.recorded_stopQueue : (s.setReg (pQctl q) (setBit (setBit (s.reg (pQctl q)) 0 false) 10 true)).Recorded pRq (s.stopQueue q) :=
  State.recorded_report ..

end

theorem bitsOf_one (w : W64) (i : Nat) : bitsOf w.toNat i i = if w.getLsbD i then 1 else 0 := by
  have h := bitOf_toNat w i
  unfold bitOf at h
  rw [bitsOf, Nat.sub_self, Nat.zero_add, Nat.pow_one]
  rw [← h]
  have hlt : w.toNat / 2 ^ i % 2 < 2 := Nat.mod_lt _ (by norm_num)
  split <;> simp_all

/-- A stopped queue is disabled and marked (R116, R121). -/
theorem State.stopQueue_spec (s : State) {q : Nat} (hq : q < 256) : (s.stopQueue q).qen q = false ∧ (s.stopQueue q).regBits (pQctl q) 10 10 = 1 ∧
    (s.stopQueue q).qtail q = s.qtail q ∧ (s.stopQueue q).qhead q = s.qhead q := by
  have hrec := s.recorded_stopQueue q
  refine ⟨?_, ?_, (hrec.qtail hq).trans (s.qtail_setCtl ..), (hrec.qhead hq).trans (s.qhead_setReg q _ (.inr rfl))⟩
  · have hbit : (setBit (setBit (s.reg (pQctl q)) 0 false) 10 true).getLsbD 0 = false := by
      rw [getLsbD_setBit _ _ _ _ (by norm_num), if_neg (by norm_num), getLsbD_setBit _ _ _ _ (by norm_num), if_pos rfl]
    rw [State.qen, State.regBits, hrec.qctl hq, State.reg_setReg_same, bitsOf_one, hbit]
    rfl
  · have hbit : (setBit (setBit (s.reg (pQctl q)) 0 false) 10 true).getLsbD 10 = true := by
      rw [getLsbD_setBit _ _ _ _ (by norm_num), if_pos rfl]
    rw [State.regBits, hrec.qctl hq, State.reg_setReg_same, bitsOf_one, hbit]
    rfl

/-! ### A record at HEAD (R118 to R121) -/

section
variable {s : State} {q : Nat}

/-- Whether the agent has no launch in hand in a queue. -/
theorem State.current?_isSome_iff : (s.current? q).isSome = true ↔ ∃ e ∈ s.launches, e.2.queue = q ∧ e.2.status = none ∧ e.2.sentAll = false := by
  unfold State.current?
  rw [List.find?_isSome]
  simp [and_assoc]

theorem State.current?_idle : (s.current? q).isSome = true ↔ ¬∀ e ∈ s.launches, e.2.queue = q → e.2.status.isSome = true ∨ e.2.sentAll = true := by
  rw [State.current?_isSome_iff]
  constructor
  · rintro ⟨e, he, hq, hst, hsent⟩ h
    rcases h e he hq with h | h
    · rw [hst] at h; cases h
    · rw [hsent] at h; cases h
  · intro h
    push Not at h
    obtain ⟨e, he, hq, hst, hsent⟩ := h
    exact ⟨e, he, hq, by simpa using hst, by simpa using hsent⟩

theorem State.queue_of_current? {id : Nat} {l : Launch} (h : s.current? q = some (id, l)) : l.queue = q := by
  have hp := List.find?_some h
  simp only [Bool.and_eq_true, beq_iff_eq] at hp
  exact hp.1.1

/-- The state in which the agent has the record at HEAD in hand, its mark taken off. -/
def State.unmarked (s : State) (q : Nat) : State := { s with marks := s.marks.set q (NatSet.del (s.marks.get [] q) (s.qhead q)) }

theorem State.effMask_unmarked (s : State) (q : Nat) (w : List W64) : (s.unmarked q).effMask q w = s.effMask q w := by
  unfold State.effMask
  rfl

/-- The words of the record at HEAD. -/
def State.headWords (s : State) (q : Nat) : List W64 := wordsOf (Memory.bytes s.mem (s.qaddr q (s.qhead q)) 128) 16

/-- The launch of the record at HEAD, of which the words are `w` and the cores those of `mask`. -/
def State.launchAt (s : State) (q : Nat) (w : List W64) (mask : Nat) : Launch :=
  { queue := q, index := s.qhead q, words := w, asid := (s.unmarked q).qasid q, job := bitsOf (nth 0 w 1).toNat 31 0,
    mask := mask, n := (bitsOf (nth 0 w 6).toNat 51 32 + 16383) / 16384,
    cancelled := NatSet.has (s.marks.get [] q) (s.qhead q) }

/-- The state in which the record at HEAD is a launch. -/
def State.launched (s : State) (q : Nat) (w : List W64) (mask : Nat) : State :=
  { (s.unmarked q) with nextId := s.nextId + 1, launches := s.launches.set s.nextId (s.launchAt q w mask) }

theorem State.launch?_launched (w : List W64) (mask : Nat) : (s.launched q w mask).launch? s.nextId = some (s.launchAt q w mask) := Map.find?_set_same ..

theorem State.recordStatus_congr {t : State} (hm : t.mem = s.mem) (hp : t.poison = s.poison) (w : List W64) (mask : Nat) :
    t.recordStatus w mask = s.recordStatus w mask := by
  have hspad : ∀ image, t.imageSpad image = s.imageSpad image := by
    intro image
    unfold State.imageSpad State.memWord
    rw [hm]
  unfold State.recordStatus
  simp only [hspad, State.overlay_congr hm hp]

variable (hen : s.qen q = true) (hfill : s.qfill q ≠ 0) (hlen : s.qfill q ≤ s.qlen q)
  (hidle : ∀ e ∈ s.launches, e.2.queue = q → e.2.status.isSome = true ∨ e.2.sentAll = true) (hq : q < 256)
include hen hfill hlen hidle hq

theorem execLaunchTake_eq : execLaunchTake q s = .next (s.takeRecord q) := by
  have hcurrent : (s.current? q).isSome = false := by
    by_contra h
    exact State.current?_idle.mp (Bool.eq_true_of_not_eq_false h) hidle
  rw [execLaunchTake, if_neg (by omega), if_neg (by simp [hen, hfill, hcurrent]), if_neg (by omega)]

end

section
variable {s : State} {q : Nat}

theorem State.takeRecord_eq {w : List W64} {mask : Nat} (hw : s.headWords q = w) (hm : (s.unmarked q).effMask q w = mask) : s.takeRecord q =
    if !inHbm (s.qaddr q (s.qhead q)) 128 then (s.unmarked q).stopQueue q
    else if poisonedIn s.poison (s.qaddr q (s.qhead q)) 128 then (s.unmarked q).unusable q (s.qhead q) 1
    else if !inHbm (bitsOf (nth 0 w 10).toNat 55 0) 64 then (s.unmarked q).unusable q (s.qhead q) 0
    else match (s.launched q w mask).recordStatus w mask with
      | some status => (s.launched q w mask).finishRecord s.nextId (s.launchAt q w mask) status
      | none => s.launched q w mask := by
  unfold State.takeRecord
  extract_lets i a v done marked u m
  have hv : v = w := hw
  have hm' : m = mask := by
    rw [← hm, ← hw]
    unfold m
    rfl
  clear_value m
  subst hm'
  clear_value v
  subst hv
  rfl

variable (ha : s.qaddr q (s.qhead q) + 128 ≤ 2 ^ 39)
include ha

/-- A record with poison, or whose DONE does not lie in HBM, is passed over (R121). -/
theorem State.takeRecord_unusable (h : poisonedIn s.poison (s.qaddr q (s.qhead q)) 128 = true ∨
    2 ^ 39 < bitsOf (nth 0 (s.headWords q) 10).toNat 55 0 + 64) : ∃ why, s.takeRecord q = (s.unmarked q).unusable q (s.qhead q) why := by
  have hin : inHbm (s.qaddr q (s.qhead q)) 128 = true := decide_eq_true ha
  rw [State.takeRecord_eq rfl rfl, if_neg (by rw [hin]; decide)]
  by_cases hp : poisonedIn s.poison (s.qaddr q (s.qhead q)) 128 = true
  · rw [if_pos hp]
    exact ⟨1, rfl⟩
  · have hout : inHbm (bitsOf (nth 0 (s.headWords q) 10).toNat 55 0) 64 = false := decide_eq_false (Nat.not_le.mpr (h.resolve_left hp))
    rw [if_neg hp, if_pos (by rw [hout]; rfl)]
    exact ⟨0, rfl⟩

/-- A usable record becomes a launch, which ends at once with the status of a check that fails (R120). -/
theorem State.takeRecord_usable {w : List W64} {mask : Nat} (hw : s.headWords q = w) (hm : s.effMask q w = mask) (hp : poisonedIn s.poison (s.qaddr q (s.qhead q)) 128 = false)
    (hd : bitsOf (nth 0 w 10).toNat 55 0 + 64 ≤ 2 ^ 39) :
    (s.recordStatus w mask = none → s.takeRecord q = s.launched q w mask) ∧
      ∀ st, s.recordStatus w mask = some st →
        s.takeRecord q = (s.launched q w mask).finishRecord s.nextId (s.launchAt q w mask) st := by
  have hin : inHbm (s.qaddr q (s.qhead q)) 128 = true := decide_eq_true ha
  have hin' : inHbm (bitsOf (nth 0 w 10).toNat 55 0) 64 = true := decide_eq_true hd
  have hmask : (s.unmarked q).effMask q w = mask := (s.effMask_unmarked q w).trans hm
  have hstatus : (s.launched q w mask).recordStatus w mask = s.recordStatus w mask :=
    State.recordStatus_congr (s := s) (t := s.launched q w mask) rfl rfl w mask
  rw [State.takeRecord_eq hw hmask, if_neg (by rw [hin]; decide), if_neg (by rw [hp]; decide), if_neg (by rw [hin']; decide), hstatus]
  refine ⟨fun h => ?_, fun st h => ?_⟩ <;> rw [h]

end

/-- A record that cannot be used is passed over. -/
theorem State.unusable_spec (s : State) {q : Nat} (hq : q < 256) (i why : Nat) : (s.unusable q i why).launches = s.launches ∧
    (s.unusable q i why).qhead q = (s.qhead q + 1) % 2 ^ 32 := by
  have hrec := s.recorded_report 0x1B 8 832 (q / 64) [w64 q, w64 i, w64 why]
  refine ⟨hrec.other.keeps (f := State.launches) fun _ _ => rfl, ?_⟩
  rw [State.unusable, State.qhead_advance, hrec.qhead hq]

/-- A launch that ends leaves its queue with its status. -/
theorem State.finishRecord_spec {s : State} {id : Nat} {l : Launch} (hl : s.launch? id = some l) (st : Nat) :
    (s.finishRecord id l st).launch? id = some (l.completed st s.nextId) ∧ (s.finishRecord id l st).qhead l.queue = (s.qhead l.queue + 1) % 2 ^ 32 ∧
      (s.finishRecord id l st).cores = s.cores ∧ (s.finishRecord id l st).rdc = s.rdc := by
  obtain ⟨hdev, hcores, hrdc⟩ := s.complete_rest id l st
  have hhead : (s.complete id l st).qhead l.queue = s.qhead l.queue := by
    rw [State.qhead, State.regBits, State.reg, hdev]
    rfl
  refine ⟨State.launch?_complete hl st, ?_, hcores, hrdc⟩
  rw [State.finishRecord, State.qhead_advance, hhead]

/-! ### The start of a launch (R124) -/

section
variable {s : State} {q id : Nat} {l : Launch}

/-- What the start of a launch that does not end at once does first. -/
def State.flushed (s : State) (d : Nat) (l : Launch) : List Nat × State :=
  l.edges.foldl (fun (x : List Nat × State) e => (x.1 ++ (x.2.edgeFlush d l.asid l.job e).1, (x.2.edgeFlush d l.asid l.job e).2)) ([], s)

/-- A launch that has started. -/
def Launch.begun (l : Launch) : Launch := { l with started := true }

/-- The state in which a launch starts. -/
def State.started (s : State) (d id : Nat) (l : Launch) : State :=
  let t := l.edges.foldl (fun t e => t.edgeInvalidate d l e) s
  { t with launches := t.launches.set id l.begun }

theorem State.launchStart_eq (h : s.current? q = some (id, l)) : s.launchStart q =
    if l.started || !s.waitsOver id l then s
    else if l.cancelled then s.finishRecord id l 0x02
    else if l.edges.any (fun e => Memory.byte s.mem e.1 != 1) then s.finishRecord id l 0x03
    else match l.flush with
      | none => (s.flushed (q / 64) l).2.updLaunch id (fun l' => { l' with flush := some (s.flushed (q / 64) l).1 })
      | some ids =>
        if !s.coresAcked ids then s
        else if bitsOf (l.w 6) 31 0 = 0 then (s.started (q / 64) id l).finishRecord id l.begun 0x01
        else s.started (q / 64) id l := by
  rw [State.launchStart, h]
  rfl

end

/-! ### Step 1 of an edge: what is dirty is written back (R178) -/

/-- No line of an L1 has dirty bytes. -/
def HomeCore.NoDirty (h : HomeCore) : Prop := ∀ x ∈ h.l1, x.isDirty = false

theorem L1Line.isDirty_clean (l : L1Line) : l.clean.isDirty = false := by
  simp [L1Line.isDirty, L1Line.clean]

theorem HomeCore.mem_putL1 {h : HomeCore} {l x : L1Line} (hx : x ∈ (h.putL1 l).l1) :
    x = l ∨ (x ∈ h.l1 ∧ ¬(x.asid = l.asid ∧ x.line = l.line)) := by
  have hrest : ∀ {x : L1Line}, x ∈ h.l1.filter (fun m => !(m.asid == l.asid && m.line == l.line)) →
      x ∈ h.l1 ∧ ¬(x.asid = l.asid ∧ x.line = l.line) := by
    intro x hx
    obtain ⟨hm, hk⟩ := List.mem_filter.mp hx
    refine ⟨hm, ?_⟩
    rintro ⟨ha, hl⟩
    simp [ha, hl] at hk
  unfold HomeCore.putL1 at hx
  dsimp only at hx
  split at hx
  · exact .inr (hrest hx)
  · rcases List.mem_cons.mp hx with e | hx
    · exact .inl e
    · exact .inr (hrest hx)

section
variable (s : State) (c : Nat)

/-- The write-back of a line that is dirty leaves it clean, and every other line as it was. -/
theorem State.core_writeBack {l : L1Line} (h : l.isDirty = true) :
    ∃ o oq, (s.writeBack c l).core c = ({ (s.core c) with oq := oq, out := o } : HomeCore).putL1 l.clean := by
  rw [State.writeBack, if_pos h]
  dsimp only
  rw [State.core_updCore, State.enqueueOut]
  dsimp only
  rw [State.core_updCore]
  exact ⟨_, _, rfl⟩

theorem State.core_writeBack_ne {d : Nat} (h : d ≠ c) (l : L1Line) : (s.writeBack c l).core d = s.core d := by
  unfold State.writeBack
  split
  · dsimp only
    rw [State.core_updCore_eq, if_neg h, State.enqueueOut]
    dsimp only
    rw [State.core_updCore_eq, if_neg h]
    rfl
  · rfl

/-- The write-backs of lines, one after another. -/
def State.writeBacks (s : State) (c : Nat) (p : L1Line → Bool) (ls : List L1Line) : State :=
  ls.foldl (fun s l => if p l then s.writeBack c l else s) s

theorem State.writeBackAll_eq (p : L1Line → Bool) : s.writeBackAll c p = s.writeBacks c p (s.core c).l1 := rfl

theorem State.sends_writeBacks (p : L1Line → Bool) (ls : List L1Line) : s.Sends (s.writeBacks c p ls) := by
  refine List.foldlRecOn ls _ (State.Sends.refl s) fun t ht l _ => ht.trans ?_
  split
  · exact t.sends_writeBack ..
  · exact .refl t

theorem State.core_writeBacks_ne {d : Nat} (h : d ≠ c) (p : L1Line → Bool) (ls : List L1Line) : (s.writeBacks c p ls).core d = s.core d := by
  refine List.foldlRecOn (motive := fun t => State.core t d = s.core d) ls _ rfl fun t ht l _ => ?_
  split
  · exact (t.core_writeBack_ne c h l).trans ht
  · exact ht

end

/-- Where the dirty lines are all among those that are still to be written back, none is dirty in the end. -/
theorem State.noDirty_writeBacks {c : Nat} {p : L1Line → Bool} (hp : ∀ l, p l = true) (ls : List L1Line) : ∀ s : State,
    (∀ x ∈ (s.core c).l1, x.isDirty = true → x ∈ ls) → ((s.writeBacks c p ls).core c).NoDirty := by
  induction ls with
  | nil =>
    intro s h x hx
    by_contra hd
    exact List.not_mem_nil (h x hx (by simpa using hd))
  | cons l ls ih =>
    intro s h
    have hstep : s.writeBacks c p (l :: ls) = (s.writeBack c l).writeBacks c p ls :=
      congrArg (fun t : State => t.writeBacks c p ls) (if_pos (hp l))
    rw [hstep]
    refine ih _ fun x hx hd => ?_
    by_cases hl : l.isDirty = true
    · obtain ⟨o, oq, e⟩ := s.core_writeBack c hl
      rw [e] at hx
      rcases HomeCore.mem_putL1 hx with rfl | ⟨hold, hkey⟩
      · rw [L1Line.isDirty_clean] at hd
        cases hd
      · refine (List.mem_cons.mp (h x hold hd)).resolve_left ?_
        rintro rfl
        exact hkey ⟨rfl, rfl⟩
    · rw [State.writeBack, if_neg hl] at hx
      refine (List.mem_cons.mp (h x hx hd)).resolve_left ?_
      rintro rfl
      exact hl hd

section
variable {s : State} {c : Nat} {p : L1Line → Bool} (hp : ∀ l, p l = true)
include hp

theorem State.noDirty_writeBackAll : ((s.writeBackAll c p).core c).NoDirty :=
  State.noDirty_writeBacks hp _ s fun _ hx _ => hx

/-- What is clean stays clean. -/
theorem State.noDirty_kept {d : Nat} (h : (s.core d).NoDirty) : ((s.writeBackAll c p).core d).NoDirty := by
  by_cases e : d = c
  · subst e
    exact State.noDirty_writeBackAll hp
  · rw [State.writeBackAll_eq, State.core_writeBacks_ne _ _ e]
    exact h

/-- The write-backs of several cores. -/
theorem State.flush_cores (cs : List Nat) : ∀ s : State, s.Sends (cs.foldl (fun s c => s.writeBackAll c p) s) ∧
    (∀ d, (s.core d).NoDirty → ((cs.foldl (fun s c => s.writeBackAll c p) s).core d).NoDirty) ∧
    ∀ d ∈ cs, ((cs.foldl (fun s c => s.writeBackAll c p) s).core d).NoDirty := by
  induction cs with
  | nil => exact fun s => ⟨.refl s, fun _ h => h, nofun⟩
  | cons c cs ih =>
    intro s
    obtain ⟨hsends, hkeep, hclean⟩ := ih (s.writeBackAll c p)
    refine ⟨(s.sends_writeBacks c p _).trans hsends, fun d h => hkeep d (State.noDirty_kept hp h), fun d hd => ?_⟩
    rcases List.mem_cons.mp hd with rfl | hd
    · exact hkeep d (State.noDirty_writeBackAll hp)
    · exact hclean d hd

end

theorem State.regionList_zero (s : State) (die asid : Nat) : s.regionList die asid 0 = (none, false) := rfl

theorem State.Sends.launch? {s t : State} (h : s.Sends t) (id : Nat) : t.launch? id = s.launch? id := by
  unfold State.launch?
  rw [h.rest]

theorem State.core_updLaunch (s : State) (id : Nat) (f : Launch → Launch) (c : Nat) : (s.updLaunch id f).core c = s.core c := by
  unfold State.updLaunch
  split <;> rfl

theorem State.producerCores_sends {s t : State} (h : s.Sends t) (prod : Nat) : t.producerCores prod = s.producerCores prod := by
  unfold State.producerCores
  rw [h.rest]

/-- An edge over all memory leaves the cores of its producer without dirty lines. -/
theorem State.edgeFlush_all (s : State) (d asid job : Nat) {e : Nat × Nat} (he : e.2 = 0) : s.Sends (s.edgeFlush d asid job e).2 ∧
    (∀ c, (s.core c).NoDirty → ((s.edgeFlush d asid job e).2.core c).NoDirty) ∧
    ∀ c ∈ s.producerCores e.1, ((s.edgeFlush d asid job e).2.core c).NoDirty := by
  have hflush := State.flush_cores (p := fun l => inRanges none l.pa) (fun _ => rfl) (s.producerCores e.1) s
  have heq : (s.edgeFlush d asid job e).2 = (s.producerCores e.1).foldl (fun s c => s.writeBackAll c (fun l => inRanges none l.pa)) s := by
    rw [State.edgeFlush, he, State.regionList_zero]
    rfl
  rw [heq]
  exact hflush

theorem State.flushed_edges (d asid job : Nat) (es : List (Nat × Nat)) (he : ∀ e ∈ es, e.2 = 0) : ∀ x : List Nat × State,
    let t := (es.foldl (fun (x : List Nat × State) e =>
      (x.1 ++ (x.2.edgeFlush d asid job e).1, (x.2.edgeFlush d asid job e).2)) x).2
    x.2.Sends t ∧ (∀ c, (x.2.core c).NoDirty → (t.core c).NoDirty) ∧ ∀ e ∈ es, ∀ c ∈ x.2.producerCores e.1, (t.core c).NoDirty := by
  induction es with
  | nil => exact fun x => ⟨.refl _, fun _ h => h, nofun⟩
  | cons e es ih =>
    intro x
    obtain ⟨hsends, hkeep, hclean⟩ := x.2.edgeFlush_all d asid job (he e List.mem_cons_self)
    obtain ⟨hsends', hkeep', hclean'⟩ := ih (fun e h => he e (List.mem_cons_of_mem _ h))
      (x.1 ++ (x.2.edgeFlush d asid job e).1, (x.2.edgeFlush d asid job e).2)
    refine ⟨hsends.trans hsends', fun c h => hkeep' c (hkeep c h), fun e' he' c hc => ?_⟩
    rcases List.mem_cons.mp he' with rfl | he'
    · exact hkeep' c (hclean c hc)
    · exact hclean' e' he' c (State.producerCores_sends hsends _ ▸ hc)

/-! ### Step 2 of an edge: clean copies are dropped (R178) -/

/-- Every byte of an L1 is dirty. -/
def HomeCore.AllDirty (h : HomeCore) : Prop := ∀ x ∈ h.l1, ∀ b ∈ x.bytes, b.2.dirty = true

/-- A core without the clean bytes of its L1. -/
def HomeCore.invalidated (h : HomeCore) (rs : Option (List (Nat × Nat))) : HomeCore :=
  { h with l1 := (h.l1.map (fun x => if inRanges rs x.pa then x.dropClean else x)).filter (fun x => !x.bytes.isEmpty) }

theorem HomeCore.allDirty_invalidated (h : HomeCore) : (h.invalidated none).AllDirty := by
  intro x hx b hb
  obtain ⟨y, -, rfl⟩ := List.mem_map.mp (List.mem_of_mem_filter hx)
  have hy : (if inRanges none y.pa then y.dropClean else y) = y.dropClean := if_pos rfl
  rw [hy] at hb
  exact (List.mem_filter.mp hb).2

theorem State.allDirty_cores (cs : List Nat) : ∀ (s : State) {c : Nat}, c ∈ cs ∨ (s.core c).AllDirty →
    ((cs.foldl (fun s c => s.updCore c (·.invalidated none)) s).core c).AllDirty := by
  induction cs with
  | nil => exact fun s c h => h.resolve_left List.not_mem_nil
  | cons d cs ih =>
    intro s c h
    refine ih _ ?_
    by_cases hd : c = d
    · subst hd
      rw [State.core_updCore]
      exact .inr (HomeCore.allDirty_invalidated _)
    · rw [State.core_updCore_eq, if_neg hd]
      exact h.imp_left fun hc => (List.mem_cons.mp hc).resolve_left hd

/-- The read-only copies of the dies of some cores are dropped. -/
theorem Map.get_dropped (m : Map (List RdcLine)) (q : Nat → Bool) {p : Nat} (h : q p = true) :
    Map.get [] (m.map (fun e => if q e.1 then (e.1, e.2.filter (fun _ => false)) else e)) p = [] := by
  have hmap : m.map (fun e => if q e.1 then (e.1, e.2.filter (fun _ => false)) else e) =
      m.map (fun e => (e.1, if q e.1 then e.2.filter (fun _ => false) else e.2)) := by
    refine List.map_congr_left fun e _ => ?_
    split <;> rfl
  have hfind := Map.find?_mapKey (fun k (v : List RdcLine) => if q k then v.filter (fun _ => false) else v) m p
  rw [hmap, Map.get_eq_find?, hfind]
  cases Map.find? m p <;> simp [h]

/-- Dropping lines from the L1s of some cores changes cores alone. -/
theorem State.invalidated_rest (cs : List Nat) : ∀ s : State, cs.foldl (fun s c => s.updCore c (·.invalidated none)) s =
    { s with cores := (cs.foldl (fun s c => s.updCore c (·.invalidated none)) s).cores } := by
  induction cs with
  | nil => exact fun s => rfl
  | cons c cs ih =>
    intro s
    rw [List.foldl_cons, ih]
    rfl

/-- The read-only copies without those of the dies of some cores. -/
def rdcDropped (rdc : Map (List RdcLine)) (cs : List Nat) : Map (List RdcLine) :=
  rdc.map (fun p => if (cs.map dieOf).dedup.contains (dieOf p.1) then (p.1, p.2.filter (fun _ => false)) else p)

theorem State.edgeInvalidate_eq (s : State) (d : Nat) (l : Launch) {e : Nat × Nat} (he : e.2 = 0) {cs : List Nat} (hcs : maskCores l.mask = cs) :
    s.edgeInvalidate d l e = { s with cores := (cs.foldl (fun s c => s.updCore c (·.invalidated none)) s).cores, rdc := rdcDropped s.rdc cs } := by
  have hrest := State.invalidated_rest cs s
  have hshape : s.edgeInvalidate d l e = { (cs.foldl (fun s c => s.updCore c (·.invalidated none)) s) with
      rdc := rdcDropped (cs.foldl (fun s c => s.updCore c (·.invalidated none)) s).rdc cs } := by
    unfold State.edgeInvalidate
    rw [hcs, he, State.regionList_zero]
    rfl
  rw [hshape]
  generalize cs.foldl (fun s c => s.updCore c (·.invalidated none)) s = t at hrest
  rw [hrest]

/-- Two states that differ in cores and read-only copies alone. -/
def State.CoresAside (s t : State) : Prop := t = { s with cores := t.cores, rdc := t.rdc }

theorem State.CoresAside.trans {s t u : State} (h : s.CoresAside t) (g : t.CoresAside u) : s.CoresAside u := by
  unfold State.CoresAside at *
  rw [g, h]

theorem State.CoresAside.dev {s t : State} (h : s.CoresAside t) : t.dev = s.dev := by
  unfold State.CoresAside at h
  rw [h]

theorem State.coresAside_edgeInvalidate (s : State) (d : Nat) (l : Launch) {e : Nat × Nat} (he : e.2 = 0) :
    s.CoresAside (s.edgeInvalidate d l e) := by
  generalize hcs : maskCores l.mask = cs
  rw [s.edgeInvalidate_eq d l he hcs]
  rfl

/-- An edge over all memory leaves the cores of its launch without clean bytes in their L1s, and their dies without read-only copies. -/
theorem State.edgeInvalidate_all (s : State) (d : Nat) (l : Launch) {e : Nat × Nat} (he : e.2 = 0) {c : Nat} (hc : c ∈ maskCores l.mask) :
    ((s.edgeInvalidate d l e).core c).AllDirty ∧ ∀ p, dieOf p = dieOf c → (s.edgeInvalidate d l e).rdc.get [] p = [] := by
  generalize hcs : maskCores l.mask = cs at hc
  rw [s.edgeInvalidate_eq d l he hcs]
  refine ⟨State.allDirty_cores cs s (.inl hc), fun p hp => ?_⟩
  refine Map.get_dropped s.rdc (fun k => (cs.map dieOf).dedup.contains (dieOf k)) ?_
  have hmem : dieOf p ∈ (cs.map dieOf).dedup := List.mem_dedup.mpr (List.mem_map.mpr ⟨c, hc, hp.symm⟩)
  simpa using hmem

/-- The edges of a launch change cores and read-only copies alone, and the last of them is carried out last. -/
theorem State.edges_invalidated (d : Nat) (l : Launch) (es : List (Nat × Nat)) (he : ∀ e ∈ es, e.2 = 0) : ∀ s : State,
    let t := es.foldl (fun t e => t.edgeInvalidate d l e) s
    s.CoresAside t ∧
      (es ≠ [] → ∀ c ∈ maskCores l.mask, (t.core c).AllDirty ∧ ∀ p, dieOf p = dieOf c → t.rdc.get [] p = []) := by
  induction es with
  | nil => exact fun s => ⟨rfl, fun h => absurd rfl h⟩
  | cons e es ih =>
    intro s
    have he0 := he e List.mem_cons_self
    obtain ⟨hrest, hspec⟩ := ih (fun e h => he e (List.mem_cons_of_mem _ h)) (s.edgeInvalidate d l e)
    dsimp only [List.foldl_cons]
    refine ⟨State.CoresAside.trans (s.coresAside_edgeInvalidate d l he0) hrest, fun _ c hc => ?_⟩
    · by_cases hes : es = []
      · subst hes
        dsimp only [List.foldl_cons, List.foldl_nil]
        exact s.edgeInvalidate_all d l he0 hc
      · exact hspec hes c hc

end Sys2Proof.Machine

namespace Sys2Proof
open Machine

/-- Settles O32: TAIL is written and the queue checked; the record at HEAD is taken as its checks say; the start of a launch ends it, flushes
its edges or carries them out. -/
theorem queueAgents : Obligations.QueueAgents := by
  intro s q hq head a w done mask clean idle next busy
  have hw : s.headWords q = w := by unfold State.headWords; rfl
  have hmask : s.effMask q w = mask := by unfold mask; rfl
  clear_value mask w
  have hdone : bitsOf (nth 0 w 10).toNat 55 0 = done := bitsOf_low ..
  have hclean : clean ↔ poisonedIn s.poison a 128 = false := by
    rw [← Bool.not_eq_true, poisonedIn, List.any_eq_true]
    constructor
    · rintro h ⟨b, hb, hin⟩
      simp only [Bool.and_eq_true, decide_eq_true_eq] at hin
      have hno := h b hin.1 hin.2
      rw [NatSet.has, List.any_eq_false] at hno
      exact hno b hb (beq_self_eq_true b)
    · intro h b h1 h2
      rw [NatSet.has, List.any_eq_false]
      intro x hx hxb
      obtain rfl : x = b := by simpa using hxb
      exact h ⟨x, hx, by simp [h1, h2]⟩
  refine ⟨fun v => ?_, fun h => ?_, fun hbusy hc hd => ?_, fun hbusy h => ?_, fun id l hcur hl hnew => ?_⟩
  · have htail := s.qtail_setReg q v.toNat
    have hhead := s.qhead_setReg q (w64 (v.toNat % 2 ^ 32)) (.inl rfl)
    obtain ⟨hen, hlen⟩ := s.qen_setTail q (w64 (v.toNat % 2 ^ 32))
    have hfill : (s.setReg (pQtail q) (w64 (v.toNat % 2 ^ 32))).qfill q = (v.toNat % 2 ^ 32 + 2 ^ 32 - head) % 2 ^ 32 := by
      rw [State.qfill, htail, hhead]
    by_cases hpast : s.qen q = true ∧ s.qlen q < (v.toNat % 2 ^ 32 + 2 ^ 32 - head) % 2 ^ 32
    · obtain ⟨hstop, herr, htail', hhead'⟩ := (s.setReg (pQtail q) (w64 (v.toNat % 2 ^ 32))).stopQueue_spec hq
      refine ⟨(s.setReg (pQtail q) (w64 (v.toNat % 2 ^ 32))).stopQueue q, ?_, htail'.trans htail, hhead'.trans hhead,
        fun hno => absurd hpast hno, fun _ => ⟨hstop, herr⟩⟩
      rw [exec_qtailWrite, execQtailWrite, if_pos hq, State.writeQtail, if_pos (by rw [hen, hlen, hfill]; simpa using hpast)]
    · refine ⟨s.setReg (pQtail q) (w64 (v.toNat % 2 ^ 32)), ?_, htail, hhead, fun _ => ⟨hen, rfl⟩, fun hyes => absurd hyes hpast⟩
      rw [exec_qtailWrite, execQtailWrite, if_pos hq, State.writeQtail, if_neg (by rw [hen, hlen, hfill]; simpa using hpast)]
  · rw [exec_launchTake, execLaunchTake, if_neg (by omega), if_pos]
    rcases h with h | h | h
    · simp [h]
    · simp [h]
    · simp [State.current?_idle.mpr h]
  · obtain ⟨hen, hfill, hlen, hidle, hin⟩ := hbusy
    have hexec := execLaunchTake_eq hen hfill hlen hidle hq
    obtain ⟨hgood, hbad⟩ := State.takeRecord_usable hin hw hmask (hclean.mp hc) (by rw [hdone]; exact hd)
    have hl := State.launch?_launched (s := s) (q := q) w mask
    refine ⟨fun hst => ?_, fun st hst => ?_⟩
    · exact ⟨_, s.launchAt q w mask, hexec.trans (congrArg Host.Outcome.next (hgood hst)), hl, rfl, rfl, rfl, rfl,
        bitsOf_low .., rfl, rfl, rfl, Iff.rfl, rfl, rfl⟩
    · obtain ⟨hlaunch, hhead, -, -⟩ := State.finishRecord_spec hl st
      obtain ⟨r, hlast, haddr, hop⟩ := State.chan_complete (s := s.launched q w mask) s.nextId (s.launchAt q w mask) st
      have hdone' : (s.launchAt q w mask).done = done := hdone
      have hwords : (s.launchAt q w mask).recordWords st ((s.launched q w mask).timeOf (q / 64)) =
          [w64 st, 0, w64 (s.timeOf (q / 64)), w64 (q * 2 ^ 32 + (nth 0 w 1).toNat % 2 ^ 32), 0, 0, 0, 0] := by
        have hjob : (s.launchAt q w mask).job % 2 ^ 32 = (nth 0 w 1).toNat % 2 ^ 32 := by
          rw [show (s.launchAt q w mask).job = (nth 0 w 1).toNat % 2 ^ 32 from bitsOf_low .., Nat.mod_mod]
        have hcounts : (s.launchAt q w mask).lost = 0 ∧ (s.launchAt q w mask).killed = 0 := ⟨rfl, rfl⟩
        have htime : (s.launched q w mask).timeOf (q / 64) = s.timeOf (q / 64) := rfl
        rw [Launch.recordWords, hjob, show (s.launchAt q w mask).queue = q from rfl, Nat.mod_eq_of_lt hq, hcounts.1, hcounts.2, htime]
        simp [w64]
      rw [hdone'] at hlast haddr
      refine ⟨_, _, r, hexec.trans (congrArg Host.Outcome.next (hbad st hst)), hlaunch, rfl, hhead, hlast, haddr, ?_⟩
      rw [hop, ← hwords]
      rfl
  · obtain ⟨hen, hfill, hlen, hidle, hin⟩ := hbusy
    obtain ⟨why, htake⟩ := State.takeRecord_unusable hin (by
      rw [hw, hdone]
      refine h.imp (fun hno => ?_) id
      by_contra hp
      exact hno (hclean.mpr (by simpa using hp)))
    obtain ⟨hlaunches, hhead⟩ := (s.unmarked q).unusable_spec hq head why
    exact ⟨_, (execLaunchTake_eq hen hfill hlen hidle hq).trans (congrArg Host.Outcome.next htake), hlaunches, hhead⟩
  · intro ends failed
    have hqueue := State.queue_of_current? hcur
    have hexec : exec (.launchStart q) s = .next (s.launchStart q) := by rw [exec_launchStart, execLaunchStart, if_pos hq]
    have heq := State.launchStart_eq hcur
    have hend : ∀ st, s.launchStart q = s.finishRecord id l st → ends st := by
      intro st e
      obtain ⟨hlaunch, hhead, -, -⟩ := State.finishRecord_spec hl st
      rw [hqueue] at hhead
      exact ⟨_, _, hexec.trans (congrArg Host.Outcome.next e), hlaunch, rfl, hhead⟩
    have hfailed : l.edges.any (fun e => Memory.byte s.mem e.1 != 1) = true ↔ failed := by
      rw [List.any_eq_true]
      simp only [bne_iff_ne]
      rfl
    refine ⟨fun hwait => ?_, fun hwait hc => ?_, fun hwait hc hf => ?_, fun hwait hc hf hflush he => ?_, fun ids hwait hc hf hflush hack he => ?_⟩
    · rw [hexec, heq, if_pos (by rw [hwait]; simp)]
    · exact hend 2 (by rw [heq, if_neg (by simp [hnew, hwait]), if_pos hc])
    · exact hend 3 (by rw [heq, if_neg (by simp [hnew, hwait]), if_neg (by simp [hc]), if_pos (hfailed.mpr hf)])
    · rw [if_neg (by simp [hnew, hwait]), if_neg (by simp [hc]), if_neg (fun h => hf (hfailed.mp h)), hflush] at heq
      obtain ⟨hsends, -, hclean⟩ := State.flushed_edges (q / 64) l.asid l.job l.edges he ([], s)
      have hlaunch : ((s.flushed (q / 64) l).2.updLaunch id (fun l' => { l' with flush := some (s.flushed (q / 64) l).1 })).launch? id =
          some { l with flush := some (s.flushed (q / 64) l).1 } := by
        have hl' : (s.flushed (q / 64) l).2.launch? id = some l := (hsends.launch? id).trans hl
        rw [State.launch?_updLaunch, if_pos rfl, hl']
        rfl
      refine ⟨_, _, _, hexec.trans (congrArg Host.Outcome.next heq), hlaunch, rfl, hnew, fun e hmem c hc => ?_⟩
      rw [State.core_updLaunch]
      exact hclean e hmem c hc
    · rw [if_neg (by simp [hnew, hwait]), if_neg (by simp [hc]), if_neg (fun h => hf (hfailed.mp h)), hflush] at heq
      dsimp only at heq
      rw [if_neg (by simp [hack])] at heq
      obtain ⟨hrest, hdropped⟩ := State.edges_invalidated (q / 64) l l.edges he s
      have hstarted : (s.started (q / 64) id l).launch? id = some l.begun := Map.find?_set_same ..
      have hhead : (s.started (q / 64) id l).qhead q = head := by
        have hkept := State.CoresAside.dev hrest
        have hdev : (s.started (q / 64) id l).dev = s.dev := hkept
        rw [State.qhead, State.regBits, State.reg, hdev]
        rfl
      have hcount : bitsOf (l.w 6) 31 0 = l.w 6 % 2 ^ 32 := bitsOf_low ..
      rw [hcount] at heq
      by_cases hzero : l.w 6 % 2 ^ 32 = 0
      · rw [if_pos hzero] at heq
        obtain ⟨hlaunch, hnext, hc1, hc2⟩ := State.finishRecord_spec hstarted 1
        refine ⟨_, _, hexec.trans (congrArg Host.Outcome.next heq), hlaunch, rfl, fun _ => ⟨rfl, ?_⟩, fun hno => absurd hzero hno, fun hes c hc => ?_⟩
        · rw [show l.begun.queue = q from hqueue, hhead] at hnext
          exact hnext
        · have hspec := hdropped hes c hc
          rw [State.core, hc1, hc2]
          exact hspec
      · rw [if_neg hzero] at heq
        exact ⟨_, _, hexec.trans (congrArg Host.Outcome.next heq), hstarted, rfl, fun hz => absurd hz hzero, fun _ => ⟨rfl, hhead⟩, hdropped⟩

end Sys2Proof
end

section
/-!
SUPPORT. Objects in the own scratchpad, task messages read there, and instructions whose task parks (R102, R217, R219).
-/
namespace Sys2Proof.Machine

/-! ### Objects in the own scratchpad (R217) -/

section
variable {s : State} {va align n off : Nat}

theorem State.OwnObject.ownObj (h : s.OwnObject va n off) : s.ownObj va n n = .ok off := by
  have hin : ¬s.here.spsize < off + n := Nat.not_lt.mpr h.inside
  simp only [State.ownObj, h.window, h.aligned, ne_eq, not_true_eq_false, if_false, if_neg hin]

theorem State.ownObj_outside (h : ∀ off, placeOf va ≠ .own off) : s.ownObj va align n = .error (0x11, 0) := by
  unfold State.ownObj
  split
  · next off hw => exact absurd hw (h off)
  · rfl

theorem State.ownObj_misaligned (hw : placeOf va = .own off) (ha : va % align ≠ 0) : s.ownObj va align n = .error (0x04, 0) := by
  simp only [State.ownObj, hw, if_pos ha]

theorem State.ownObj_beyond (hw : placeOf va = .own off) (ha : va % align = 0) (hb : s.here.spsize < off + n) :
    s.ownObj va align n = .error (0x14, 0) := by
  simp only [State.ownObj, hw, ha, ne_eq, not_true_eq_false, if_false, if_pos hb]

/-- An instruction whose operation traps with the cause that the checks of its object give has the traps of such an object. -/
theorem State.ownObjectTraps_of (hp : s.Plain) {i : Instr} {d : Desc} {body : State → Res} {va : W64} (he : exec i s = s.issueWith d body)
    (hd : d.Clear s) (hpool : d.pool = false) (ht : d.target = false)
    (hb : ∀ cause, s.ownObj va.toNat n n = .error (cause, 0) → body s = .trap cause 0 va) : s.OwnObjectTraps i va n :=
  have traps {cause : Nat} (h : s.ownObj va.toNat n n = .error (cause, 0)) : s.Traps i false cause 0 va :=
    State.traps_of_body hp he hd hpool ht (hb cause h)
  ⟨fun h => traps (State.ownObj_outside h), fun _ hw ha => traps (State.ownObj_misaligned hw ha),
    fun _ hw ha hb => traps (State.ownObj_beyond hw ha hb)⟩

theorem State.spClean.anyBad (h : s.spClean off n) : PByte.anyBad (s.here.spBytes off n) = false := by
  rw [Bool.eq_false_iff]
  intro hb
  obtain ⟨j, h1, h2, h3⟩ := (pbytes_bad ..).mp hb
  exact absurd (h j h1 h2) (by simp [h3])

theorem HomeCore.vals_spBytes (h : HomeCore) (off n : Nat) : PByte.vals (h.spBytes off n) = Memory.bytes h.spad off n :=
  pbytes_vals ..

end

/-! ### Words of bytes -/

theorem nth_wordsOf (m : List Host.Cell) {n i : Nat} (h : i < n) (a : Nat) :
    nth 0 (wordsOf (Memory.bytes m a (8 * n)) n) i = w64 (leNat (Memory.bytes m (a + 8 * i) 8)) := by
  induction n generalizing a i with
  | zero => omega
  | succ n ih =>
    have hsplit : Memory.bytes m a (8 * (n + 1)) = Memory.bytes m a 8 ++ Memory.bytes m (a + 8) (8 * n) := by
      rw [← Memory.bytes_add, Nat.mul_succ, Nat.add_comm]
    have hlen := Memory.length_bytes m a 8
    rw [hsplit, wordsOf, List.take_left' hlen, List.drop_left' hlen]
    cases i with
    | zero => rfl
    | succ i =>
      have e : a + 8 + 8 * i = a + 8 * (i + 1) := by omega
      rw [nth, ih (by omega), e]

/-- The words of a message read from the scratchpad of the task at issue are those of its object. -/
theorem State.wordsOf_spBytes (s : State) (off i : Nat) (h : i < 8) :
    nth 0 (wordsOf (PByte.vals (s.here.spBytes off 64)) 8) i = s.spWord off i := by
  rw [HomeCore.vals_spBytes]
  exact nth_wordsOf _ h _

/-- The message at an offset of the scratchpad of the task at issue. -/
def State.message (s : State) (off : Nat) : TaskMsg := TaskMsg.ofWords ((List.range 8).map (s.spWord off))

theorem TaskMsg.ofWords_congr {v w : List W64} (h : ∀ i, i < 8 → nth 0 v i = nth 0 w i) : TaskMsg.ofWords v = TaskMsg.ofWords w := by
  simp only [TaskMsg.ofWords, h 0 (by omega), h 1 (by omega), h 2 (by omega), h 3 (by omega), h 4 (by omega), h 5 (by omega),
    h 6 (by omega)]

theorem State.message_spBytes (s : State) (off : Nat) :
    TaskMsg.ofWords (wordsOf (PByte.vals (s.here.spBytes off 64)) 8) = s.message off := by
  refine TaskMsg.ofWords_congr fun i h => ?_
  rw [s.wordsOf_spBytes off i h]
  match i, h with
  | 0, _ | 1, _ | 2, _ | 3, _ | 4, _ | 5, _ | 6, _ | 7, _ => rfl

theorem State.message_hnd (s : State) (off : Nat) : (s.message off).hnd % 4 = (s.spWord off 0).toNat % 4 := by
  have e : (s.message off).hnd = (s.spWord off 0).toNat / 2 ^ 0 % 2 ^ 16 := rfl
  omega

theorem State.message_role (s : State) (off : Nat) : (s.message off).role = (s.spWord off 0).toNat / 2 ^ 24 % 4 := rfl

/-! ### The checks of `spawn` (R217) -/

/-- The core to which a message goes: the one that rs2 names, or the own one. -/
def State.spawnTarget (s : State) (tgt : W64) : Nat := if tgt = BitVec.allOnes 64 then s.curCore else tgt.toNat

section
variable {s : State} {va tgt : W64} {off : Nat}

theorem State.spawnCheck_error {cause : Nat} (h : s.ownObj va.toNat 64 64 = .error (cause, 0)) : s.spawnCheck va tgt = .trap cause 0 va := by
  simp only [State.spawnCheck, h]

section
variable (ho : s.OwnObject va.toNat 64 off) (hc : s.spClean off 64)
include ho hc

/-- The checks of `spawn` that follow those of its object. -/
theorem State.spawnCheck_object :
    s.spawnCheck va tgt =
      if (s.message off).hnd % 4 != 0 then .trap 0x04 0 va
      else if (s.message off).role == 3 || s.spWord off 7 != 0 then .trap 0x02 0 0
      else if 1535 < s.spawnTarget tgt || !s.inMask s.cur (s.spawnTarget tgt) then .trap 0x11 0 (w64 (s.spawnTarget tgt))
      else .ok { s.message off with job := s.cur.job } (s.spawnTarget tgt) := by
  have ht : (if (tgt == BitVec.allOnes 64) = true then s.curCore else tgt.toNat) = s.spawnTarget tgt := by
    simp only [beq_iff_eq, State.spawnTarget]
  unfold State.spawnCheck
  rw [ho.ownObj]
  dsimp only
  rw [hc.anyBad, s.wordsOf_spBytes off 7 (by omega), s.message_spBytes, ht]
  rfl

theorem State.spawnCheck_misaligned (h : (s.message off).hnd % 4 ≠ 0) : s.spawnCheck va tgt = .trap 0x04 0 va := by
  rw [State.spawnCheck_object ho hc, if_pos (by simpa using h)]

theorem State.spawnCheck_reserved (h : (s.message off).hnd % 4 = 0) (hr : (s.message off).role = 3 ∨ s.spWord off 7 ≠ 0) :
    s.spawnCheck va tgt = .trap 0x02 0 0 := by
  rw [State.spawnCheck_object ho hc, if_neg (by simpa using h), if_pos (by simpa using hr)]

theorem State.spawnCheck_target (h : (s.message off).hnd % 4 = 0) (hr : ¬((s.message off).role = 3 ∨ s.spWord off 7 ≠ 0))
    (ht : ¬(s.spawnTarget tgt ≤ 1535 ∧ s.inMask s.cur (s.spawnTarget tgt) = true)) :
    s.spawnCheck va tgt = .trap 0x11 0 (w64 (s.spawnTarget tgt)) := by
  have hout : 1535 < s.spawnTarget tgt ∨ s.inMask s.cur (s.spawnTarget tgt) = false := by
    rw [not_and_or, Nat.not_le, Bool.not_eq_true] at ht
    exact ht
  rw [State.spawnCheck_object ho hc, if_neg (by simpa using h), if_neg (by simpa using hr), if_pos (by simpa using hout)]

theorem State.spawnCheck_ok (h : (s.message off).hnd % 4 = 0) (hr : (s.message off).role ≠ 3) (hw : s.spWord off 7 = 0)
    (ht : s.spawnTarget tgt ≤ 1535) (hm : s.inMask s.cur (s.spawnTarget tgt) = true) :
    s.spawnCheck va tgt = .ok { s.message off with job := s.cur.job } (s.spawnTarget tgt) := by
  rw [State.spawnCheck_object ho hc, if_neg (by simpa using h), if_neg (by simp [hr, hw]), if_neg (by simp [hm, ht])]

end

end

/-! ### Tasks that park (R102) -/

theorem Ctx.settle_of_nil {t : Ctx} (h : t.pend = []) : t.settle = t := by
  unfold Ctx.settle
  rw [h, List.foldl_nil, ← h]

/-- A task without a result on the way that parks in its instruction. -/
theorem Ctx.settle_retire_parked {t : Ctx} (d : Desc) (next : Option Nat) (cycle : Nat) (hpend : t.pend = []) (hheld : t.wait.held = false)
    (hphase : t.phase = .parked) (htarget : d.target = false) :
    (t.retire d [] next cycle).settle =
      { t with pc := BitVec.ofNat 16 (next.getD (nextPc t.pc)), window := (t.retire d [] next cycle).window,
               readyAt := cycle + 1, hiring := none, age := 0, promoted := false } := by
  have helapse : t.elapse (d.st + 1) = t := by
    unfold Ctx.elapse
    simp only [hpend, List.filter_nil, List.foldl_nil, List.map_nil]
    rw [← hpend]
  have hpc : BitVec.ofNat 16 (next.getD (t.pc.toNat + 4)) = BitVec.ofNat 16 (next.getD (nextPc t.pc)) := by
    cases next with
    | some n => rfl
    | none => apply BitVec.eq_of_toNat_eq; simp [nextPc]
  unfold Ctx.retire
  simp only [List.foldl_nil, helapse, hheld, Bool.false_eq_true, if_false, htarget, hphase, if_true, Ctx.settle_of_nil hpend, hpc]
  exact Ctx.settle_of_nil hpend

/-- An instruction that parks its task has been performed (R102). -/
theorem State.completes_parked {s s' : State} (hc : s.Plain) {d : Desc} (hd : d.Clear s) (hpool : d.pool = false) (ht : d.target = false)
    {body : State → Res} (hb : body s = .done s' [] none) (hcyc : s'.cycle = s.cycle) (hpend : s'.cur.pend = [])
    (hheld : s'.cur.wait.held = false) (hphase : s'.cur.phase = .parked) :
    ∃ t, s.issueWith d body = .next t ∧ s.Performed t d.st (nextPc s'.cur.pc) s' := by
  refine ⟨_, State.issueWith_done hc.toCalm (Or.inr hc.pp) hd hb hpool, ?_⟩
  unfold State.Performed State.settled State.retire
  rw [State.slotUsed_updCur, State.updCur_updCur, State.slotUsed_cur, State.cur_updCur, hcyc]
  congr 1
  unfold State.updCur
  beta_reduce
  rw [Ctx.settle_retire_parked d none s.cycle hpend hheld hphase ht, if_pos hphase]
  rfl

end Sys2Proof.Machine
end

section
/-!
PROOF. The task instructions: what `spawn`, `spawnb`, `park`, `yield`, `qput` and `cancel` do, and what they trap with (R217 to
R223, R342).
-/
namespace Sys2Proof.Machine

/-- A frame whose only conditions are those of a kill point is clear for a task that nothing ends. -/
theorem State.Alive.clear {s : State} (h : s.Alive) (st : Nat) (reads writes : List RName) (kill bound : Bool) :
    Desc.Clear { st := st, reads := reads, writes := writes, kill := kill, bound := bound } s where
  early := rfl
  sup := nofun
  lanes := nofun
  pool := nofun
  kill _ := h.killed
  bound _ := h.bound

/-! ### `spawn` and `spawnb` -/

/-- The message of the task at issue that goes to a core (R217). -/
def State.child (s : State) (m : TaskMsg) (target : Nat) : Flight :=
  { msg := m, launch := s.cur.launch, target := target, sender := .core s.curCore, ctx := s.curCtx, uid := s.cur.uid,
    acq := some (s.spawnScope m target), counted := false }

theorem State.sendChild_eq (s : State) (m : TaskMsg) (target : Nat) (reg : Option Reg) :
    s.sendChild m target reg = ({ s with msgs := s.msgs ++ [s.child m target] } : State).updCur fun u =>
      { u with wait := .message reg, phase := .parked, waitFrom := some s.now } := rfl

/-- The result of an operation that sends a message. -/
theorem State.sendChild_performed {s : State} (h : s.Alive) {d : Desc} (hd : d.Clear s) (hpool : d.pool = false) (ht : d.target = false)
    {body : State → Res} {m : TaskMsg} {target : Nat} {reg : Option Reg} (hb : body s = .done (s.sendChild m target reg) [] none) :
    ∃ t, s.issueWith d body = .next t ∧ s.Performed t d.st (nextPc s.cur.pc) (s.sendChild m target reg) := by
  have hcur : (s.sendChild m target reg).cur = { s.cur with wait := .message reg, phase := .parked, waitFrom := some s.now } := by
    rw [State.sendChild_eq, State.cur_updCur]
    rfl
  obtain ⟨t, he, hperf⟩ := State.completes_parked h.toPlain hd hpool ht hb rfl (by rw [hcur]; exact h.pend) (by rw [hcur]; rfl)
    (by rw [hcur])
  rw [hcur] at hperf
  exact ⟨t, he, hperf⟩

section
variable {s : State} (h : s.Alive) {st : Fin 8} {rd rs1 rs2 : Fin 32} {m : TaskMsg} {target : Nat}
  (hcheck : s.spawnCheck (s.X rs1) (s.X rs2) = .ok m target)
include h hcheck

theorem State.spawn_sends (hopen : s.Open (s.spawnScope m target)) :
    ∃ t, exec (.spawn st rs1 rs2) s = .next t ∧
      s.Performed t st (nextPc s.cur.pc) (s.sendChild { m with bd := false, inc := 0, bound := 0 } target none) := by
  refine State.sendChild_performed h (h.clear ..) rfl rfl ?_
  rw [show s.cur.readX rs1 = s.X rs1 from rfl, show s.cur.readX rs2 = s.X rs2 from rfl, hcheck]
  exact State.afterGate_open h.wait fun _ e => Option.some.inj e ▸ hopen

theorem State.spawnb_sends (hbound : boundCheck (s.here.shadow.get {} m.inc) s.cur.asid s.cur.job m.bound = false)
    (hopen : s.Open (s.spawnScope m target)) :
    ∃ t, exec (.spawnb st rd rs1 rs2) s = .next t ∧
      s.Performed t st (nextPc s.cur.pc) (s.sendChild { m with bd := true } target (some (.x s.cur.bank rd))) := by
  refine State.sendChild_performed h (h.clear ..) rfl rfl ?_
  rw [show s.cur.readX rs1 = s.X rs1 from rfl, show s.cur.readX rs2 = s.X rs2 from rfl, hcheck]
  dsimp only
  rw [if_neg (ne_true_of_eq_false hbound)]
  exact State.afterGate_open h.wait fun _ e => Option.some.inj e ▸ hopen

theorem State.spawnb_refused (hbound : boundCheck (s.here.shadow.get {} m.inc) s.cur.asid s.cur.job m.bound = true) :
    s.Computes (.spawnb st rd rs1 rs2) st rd 1 := by
  refine State.xresult h.toPlain (h.clear ..) rfl (w := .now (.x rd) (.word 1)) ?_ (Or.inr rfl)
  rw [show s.cur.readX rs1 = s.X rs1 from rfl, show s.cur.readX rs2 = s.X rs2 from rfl, hcheck]
  exact if_pos hbound

end

/-- Both instructions that send a message trap with what its checks give. -/
theorem State.spawn_traps {s : State} (h : s.Alive) {st : Fin 8} {rd rs1 rs2 : Fin 32} {i : Instr}
    (hi : i = .spawn st rs1 rs2 ∨ i = .spawnb st rd rs1 rs2) {c k : Nat} {fb : W64}
    (hcheck : s.spawnCheck (s.X rs1) (s.X rs2) = .trap c k fb) : s.Traps i false c k fb := by
  obtain rfl | rfl := hi
  · refine State.traps_of_body h.toPlain (exec_spawn ..) (h.clear ..) rfl rfl ?_
    rw [show s.cur.readX rs1 = s.X rs1 from rfl, show s.cur.readX rs2 = s.X rs2 from rfl, hcheck]
  · refine State.traps_of_body h.toPlain (exec_spawnb ..) (h.clear ..) rfl rfl ?_
    rw [show s.cur.readX rs1 = s.X rs1 from rfl, show s.cur.readX rs2 = s.X rs2 from rfl, hcheck]

theorem State.spawn_objectTraps {s : State} (h : s.Alive) {st : Fin 8} {rd rs1 rs2 : Fin 32} {i : Instr}
    (hi : i = .spawn st rs1 rs2 ∨ i = .spawnb st rd rs1 rs2) : s.OwnObjectTraps i (s.X rs1) 64 :=
  ⟨fun hw => State.spawn_traps h hi (State.spawnCheck_error (State.ownObj_outside hw)),
    fun _ hw ha => State.spawn_traps h hi (State.spawnCheck_error (State.ownObj_misaligned hw ha)),
    fun _ hw ha hb => State.spawn_traps h hi (State.spawnCheck_error (State.ownObj_beyond hw ha hb))⟩

/-! ### `park` and `yield` -/

section
variable {s : State} (h : s.Alive) {st : Fin 8} {rd rs1 rs2 : Fin 32}
include h

theorem State.park_objectTraps : s.OwnObjectTraps (.park st rd rs1 rs2) (s.X rs1) 8 := by
  refine State.ownObjectTraps_of h.toPlain (exec_park ..) (h.clear ..) rfl rfl fun cause he => ?_
  dsimp only
  rw [show s.cur.readX rs1 = s.X rs1 from rfl, he]

/-- The operation of `park` on a clean word (R219). -/
def State.parkOn (s : State) (rd : Nat) (off : Nat) (w : W64) : Res :=
  if s.spWord off 0 ≠ w then .done s (nowX rd (s.spWord off 0)) none
  else .done (s.updCur fun t => { t with wait := .word off (.x t.bank rd), phase := .parked, waitFrom := some s.now }) [] none

theorem State.exec_park_clean {off : Nat} (ho : s.OwnObject (s.X rs1).toNat 8 off) (hc : s.spClean off 8) :
    ∃ (d : Desc) (body : State → Res), exec (.park st rd rs1 rs2) s = s.issueWith d body ∧ d.Clear s ∧ d.pool = false ∧ d.target = false ∧
      d.st = st ∧ body s = s.parkOn rd off (s.X rs2) := by
  refine ⟨_, _, exec_park .., h.clear .., rfl, rfl, rfl, ?_⟩
  dsimp only
  rw [show s.cur.readX rs1 = s.X rs1 from rfl, ho.ownObj]
  have hword : w64 (leNat (PByte.vals (s.here.spBytes off 8))) = s.spWord off 0 := by rw [HomeCore.vals_spBytes]; rfl
  dsimp only
  rw [hc.anyBad, if_neg (by decide), hword]
  rfl

theorem State.park_computes {off : Nat} (ho : s.OwnObject (s.X rs1).toNat 8 off) (hc : s.spClean off 8) (hne : s.spWord off 0 ≠ s.X rs2) :
    s.Computes (.park st rd rs1 rs2) st rd (s.spWord off 0) := by
  obtain ⟨d, body, he, hd, hpool, -, hst, hb⟩ := State.exec_park_clean h ho hc (st := st) (rd := rd) (rs2 := rs2)
  unfold State.Computes
  rw [he, ← hst]
  exact State.xresult h.toPlain hd hpool (hb.trans (if_pos hne)) (Or.inr rfl)

theorem State.park_parks {off : Nat} (ho : s.OwnObject (s.X rs1).toNat 8 off) (hc : s.spClean off 8) (heq : s.spWord off 0 = s.X rs2) :
    s.Completes (.park st rd rs1 rs2) st (nextPc s.cur.pc)
      (s.updCur fun t => { t with wait := .word off (.x t.bank rd), phase := .parked, waitFrom := some s.now }) := by
  obtain ⟨d, body, he, hd, hpool, ht, hst, hb⟩ := State.exec_park_clean h ho hc (st := st) (rd := rd) (rs2 := rs2)
  have hcur := State.cur_updCur s fun t => { t with wait := .word off (.x t.bank rd), phase := .parked, waitFrom := some s.now }
  obtain ⟨t, hnext, hperf⟩ := State.completes_parked h.toPlain hd hpool ht (hb.trans (if_neg (by simpa using heq))) rfl
    (by rw [hcur]; exact h.pend) (by rw [hcur]; rfl) (by rw [hcur])
  rw [hcur, hst] at hperf
  exact ⟨t, he.trans hnext, hperf⟩

theorem State.yield_completes :
    s.Completes (.yield st) st (nextPc s.cur.pc) (s.updCur (fun t => { t with yielded := some s.cycle })) := by
  have hcur := State.cur_updCur s fun t => { t with yielded := some s.cycle }
  obtain ⟨t, hnext, hperf⟩ := State.completes_none h.toCalm (Or.inr h.pp) (h.clear st [] [] false false) rfl
    (body := fun s => .done (s.updCur (fun t => { t with yielded := some s.cycle })) [] none) rfl rfl
    (by rw [hcur]; exact h.pend) ⟨by rw [hcur]; simp [h.wait, Wait.held], by rw [hcur]; simp [h.running]⟩
  rw [hcur] at hperf
  refine ⟨t, (exec_yield ..).trans hnext, ?_⟩
  rw [State.updCur_updCur] at hperf
  exact hperf

/-! ### `qput` and `cancel` -/

theorem State.qput_objectTraps : s.OwnObjectTraps (.qput st rd rs1 rs2) (s.X rs1) 128 := by
  refine State.ownObjectTraps_of h.toPlain (exec_qput ..) (h.clear ..) rfl rfl fun cause he => ?_
  dsimp only
  rw [show s.cur.readX rs1 = s.X rs1 from rfl, he]

/-- The operation of `qput` on an object (R221). -/
def State.qputOn (s : State) (rd off q : Nat) : Res :=
  if 255 < q then .done s (nowX rd 3) none
  else
    .done (s.sendUnit (.queueAgent (q / 64)) (.qput q (s.here.spBytes off 128) s.cur.sup) none (.value (.x s.cur.bank rd) 8 false))
      [.later (.x rd)] none

theorem State.exec_qput_open {off : Nat} (ho : s.OwnObject (s.X rs1).toNat 128 off) (hopen : s.Open .package) :
    ∃ (d : Desc) (body : State → Res), exec (.qput st rd rs1 rs2) s = s.issueWith d body ∧ d.Clear s ∧ d.pool = false ∧ d.target = false ∧
      d.st = st ∧ body s = s.qputOn rd off (s.X rs2).toNat := by
  refine ⟨_, _, exec_qput .., h.clear .., rfl, rfl, rfl, ?_⟩
  dsimp only
  rw [show s.cur.readX rs1 = s.X rs1 from rfl, ho.ownObj]
  exact State.afterGate_open h.wait fun _ e => Option.some.inj e ▸ hopen

theorem State.qput_refused {off : Nat} (ho : s.OwnObject (s.X rs1).toNat 128 off) (hopen : s.Open .package)
    (hq : 255 < (s.X rs2).toNat) : s.Computes (.qput st rd rs1 rs2) st rd 3 := by
  obtain ⟨d, body, he, hd, hpool, -, hst, hb⟩ := State.exec_qput_open h ho hopen (st := st) (rd := rd) (rs2 := rs2)
  unfold State.Computes
  rw [he, ← hst]
  exact State.xresult h.toPlain hd hpool (hb.trans (if_pos hq)) (Or.inr rfl)

end

/-- The cancel of the task at issue of a job that a register names (R223). -/
def State.cancelOp (s : State) (rd : Nat) (v : W64) : CancelOp :=
  { core := s.curCore, ctx := s.curCtx, uid := s.cur.uid, reg := .x s.cur.bank rd,
    asid := if s.cur.sup then bitsOf v.toNat 37 32 else s.cur.asid, job := bitsOf v.toNat 31 0, todo := [0, 1, 2, 3] }

/-! ### Requests to units -/

section
variable (s : State) (home : Home) (op : HomeOp) (acq : Option Scope) (dest : Dest)

/-- A request to a unit joins the outbound queue of the core; of the context at issue it changes nothing. -/
theorem State.sendUnit_eq : ∃ (r : Req) (o : Out) (n : Nat), r.home = home ∧ r.op = op ∧
    s.sendUnit home op acq dest = ({ s with nextId := n } : State).updHere fun h => { h with oq := h.oq ++ [r], out := h.out ++ [o] } :=
  ⟨_, _, _, rfl, rfl, rfl⟩

theorem State.cur_sendUnit : (s.sendUnit home op acq dest).cur = s.cur := by
  obtain ⟨r, o, n, -, -, e⟩ := s.sendUnit_eq home op acq dest
  rw [e]
  exact State.cur_updHere _ _ fun _ => rfl

theorem State.oq_sendUnit : ∃ r : Req, (s.sendUnit home op acq dest).here.oq = s.here.oq ++ [r] ∧ r.home = home ∧ r.op = op := by
  obtain ⟨r, o, n, hh, ho, e⟩ := s.sendUnit_eq home op acq dest
  refine ⟨r, ?_, hh, ho⟩
  rw [e]
  exact congrArg HomeCore.oq (State.core_updCore ..)

end

/-- What has been performed leaves the outbound queue that its effects leave. -/
theorem State.Performed.oq {s t w : State} {st next : Nat} (h : s.Performed t st next w) :
    t.here.oq = w.here.oq := by
  have hset : t.settled.here.oq = t.here.oq := by rw [State.settled, State.here_updCur]; rfl
  rw [← hset, h]
  unfold State.here State.slotUsed State.updHere
  rw [State.updCore_curCore, State.core_updCore]
  change (State.here _).oq = _
  rw [State.here_updCur]
  rfl

section
variable {s : State} (h : s.Alive) {st : Fin 8} {rd rs1 rs2 : Fin 32}
include h

theorem State.qput_sends {off : Nat} (ho : s.OwnObject (s.X rs1).toNat 128 off) (hopen : s.Open .package) (hq : (s.X rs2).toNat ≤ 255) :
    ∃ t, exec (.qput st rd rs1 rs2) s = .next t ∧
      s.Performed t st (nextPc s.cur.pc) ((s.sendUnit (.queueAgent ((s.X rs2).toNat / 64))
        (.qput (s.X rs2).toNat (s.here.spBytes off 128) s.cur.sup) none (.value (.x s.cur.bank rd) 8 false)).owing rd) ∧
      ∃ q : Req, t.here.oq = s.here.oq ++ [q] ∧ q.home = .queueAgent ((s.X rs2).toNat / 64) ∧
        q.op = .qput (s.X rs2).toNat (s.here.spBytes off 128) s.cur.sup := by
  obtain ⟨d, body, he, hd, hpool, ht, hst, hb⟩ := State.exec_qput_open h ho hopen (st := st) (rd := rd) (rs2 := rs2)
  have hcur := s.cur_sendUnit (.queueAgent ((s.X rs2).toNat / 64)) (.qput (s.X rs2).toNat (s.here.spBytes off 128) s.cur.sup) none
    (.value (.x s.cur.bank rd) 8 false)
  obtain ⟨t, hnext, hperf⟩ := State.completes_later h.toPlain hd hpool ht (hb.trans (if_neg (Nat.not_lt.mpr hq))) rfl
    (by rw [hcur]; exact h.pend) (by rw [hcur]; exact h.var) (by rw [hcur]; simp [h.wait, h.running, Wait.held])
  rw [hcur, hst] at hperf
  obtain ⟨r, hoq, hhome, hop⟩ := s.oq_sendUnit (.queueAgent ((s.X rs2).toNat / 64))
    (.qput (s.X rs2).toNat (s.here.spBytes off 128) s.cur.sup) none (.value (.x s.cur.bank rd) 8 false)
  refine ⟨t, he.trans hnext, hperf, r, ?_, hhome, hop⟩
  rw [hperf.oq, ← hoq, State.owing, State.here_updCur]
  rfl

theorem State.cancel_sends : ∃ t op, exec (.cancel st rd rs1) s = .next t ∧
    s.Performed t st (nextPc s.cur.pc) (({ s with cancelOps := s.cancelOps ++ [op] } : State).owing rd) ∧
    op.job = (s.X rs1).toNat % 2 ^ 32 ∧ op.todo = [0, 1, 2, 3] ∧ op.core = s.curCore ∧ op.ctx = s.curCtx ∧
    op.asid = (if s.cur.sup = true then (s.X rs1).toNat / 2 ^ 32 % 2 ^ 6 else s.cur.asid) := by
  obtain ⟨body, he, hb⟩ : ∃ body, exec (.cancel st rd rs1) s = s.issueWith { st := st, reads := [.x rs1], writes := [.x rd] } body ∧
      body s = .done { s with cancelOps := s.cancelOps ++ [s.cancelOp rd (s.X rs1)] } [.later (.x rd)] none := ⟨_, rfl, rfl⟩
  have hwait : s.cur.wait.held = false ∧ s.cur.phase ≠ .parked := by simp [h.wait, h.running, Wait.held]
  obtain ⟨t, hnext, hperf⟩ := State.completes_later h.toPlain (h.clear st [.x rs1] [.x rd] false false) rfl rfl hb rfl h.pend h.var hwait
  exact ⟨t, _, he.trans hnext, hperf, bitsOf_low _ 31, rfl, rfl, rfl, rfl⟩

end

end Sys2Proof.Machine
end

section
/-!
SUPPORT. What a translation depends on, and the context of a task that ends while requests stand at its pool (R142, R251, R349 to R354).
-/
namespace Sys2Proof.Machine

/-! ### What a translation depends on -/

/-- Two states in which every address translates alike: the same tables, leases and times. -/
structure State.TranslatesAs (s t : State) : Prop where
  mem    : t.mem = s.mem
  poison : t.poison = s.poison
  dev    : t.dev = s.dev
  leases : t.leases = s.leases
  skew   : t.skew = s.skew
  time   : t.time = s.time

section
variable {s t : State} (h : s.TranslatesAs t)
include h

theorem State.TranslatesAs.readEntry (va base lc level : Nat) : t.readEntry va base lc level = s.readEntry va base lc level := by
  simp only [State.readEntry, h.mem, h.poison]

theorem State.TranslatesAs.walkFrom (va : Nat) : ∀ (level base lc : Nat) (path : List Nat),
    t.walkFrom va base lc path level = s.walkFrom va base lc path level
  | 0, base, lc, path => by rw [State.walkFrom, State.walkFrom, h.readEntry]
  | level + 1, base, lc, path => by
    rw [State.walkFrom, State.walkFrom, h.readEntry]
    split
    · rfl
    · rfl
    · exact State.TranslatesAs.walkFrom va level _ _ _

theorem State.TranslatesAs.reg (a : Nat) : t.reg a = s.reg a := by rw [State.reg, State.reg, h.dev]

theorem State.TranslatesAs.timeOf (die : Nat) : t.timeOf die = s.timeOf die := by rw [State.timeOf, State.timeOf, h.time]

theorem State.TranslatesAs.walk (die asid va : Nat) : t.walk die asid va = s.walk die asid va := by
  rw [State.walk, State.walk, h.reg, h.walkFrom]

theorem State.TranslatesAs.walked (die asid va : Nat) : t.walked die asid va = s.walked die asid va := by
  have hdis : ∀ u, t.disabled die u = s.disabled die u := fun u => by rw [State.disabled, State.disabled, h.reg]
  rw [State.walked, State.walked, h.walk, h.timeOf, h.skew, hdis]

theorem State.TranslatesAs.refuses (tr : Tr) (va : Nat) (w : Bool) : t.refuses tr va w = s.refuses tr va w := by
  have hfabric : ∀ pa, t.fabricOk pa w = s.fabricOk pa w := fun pa => by simp only [State.fabricOk, State.regBits, h.reg]
  rw [State.refuses, State.refuses, State.badRegion, State.badRegion, hfabric]

theorem State.TranslatesAs.lookup (die asid va : Nat) (w : Bool) : t.lookup die asid va w = s.lookup die asid va w := by
  have hcached : t.cached die asid va = s.cached die asid va := by rw [State.cached, State.cached, h.skew, h.leases, h.timeOf]
  rw [State.lookup, State.lookup, hcached, h.walked]
  simp only [h.refuses]

theorem State.TranslatesAs.translate_read (die asid va : Nat) (c : Option Nat) :
    (t.translate die asid va false c).1 = (s.translate die asid va false c).1 := by
  unfold State.translate
  rw [h.lookup]
  split
  · rfl
  · rw [h.refuses]
    split
    · rfl
    · cases c <;> rfl

end

/-! ### What the end of a task leaves of translations -/

/-- Of two states that differ in tasks alone, the second has the leases of the first, so that it translates as the first. -/
theorem State.TaskAside.translatesAs {s t : State} (h : s.TaskAside t) (hl : t.leases = s.leases) : s.TranslatesAs t where
  mem := h.keeps (f := fun s => s.mem) fun _ _ => rfl
  poison := h.keeps (f := fun s => s.poison) fun _ _ => rfl
  dev := h.keeps (f := fun s => s.dev) fun _ _ => rfl
  leases := hl
  skew := h.keeps (f := fun s => s.skew) fun _ _ => rfl
  time := h.keeps (f := fun s => s.time) fun _ _ => rfl

section
variable {s : State} {c k : Nat}

theorem State.leases_withdraw (uid : Nat) (ldf : Option Req) : (s.withdraw c uid ldf).leases = s.leases := by
  cases ldf <;> rfl

theorem State.leases_updLaunch (id : Nat) (f : Launch → Launch) : (s.updLaunch id f).leases = s.leases := by
  unfold State.updLaunch
  split <;> rfl

theorem State.leases_countMessages (uid : Nat) : (s.countMessages uid).leases = s.leases := by
  have hup : ∀ (l : List Flight) (s : State), (l.foldl (fun s f => s.countUp f.launch) s).leases = s.leases := by
    intro l
    induction l with
    | nil => exact fun _ => rfl
    | cons f l ih =>
      exact fun s => (ih (s.countUp f.launch)).trans (State.leases_updLaunch ..)
  exact hup _ s

theorem State.leases_vacated : (s.vacated c k).leases = s.leases :=
  (State.leases_countMessages (s := (s.withdraw c (s.ctx c k).uid (s.waitingLdf c (s.ctx c k))).clearMarksOf (s.ctx c k).uid) _).trans
    (State.leases_withdraw ..)

/-! ### A task gives up its claim (R247, R251) -/

theorem State.poolQueue_leavePool (uid : Nat) : (s.leavePool c k uid).poolQueue (c / 8) =
    (s.poolQueue (c / 8)).filter (fun r => !(r.core == c && r.ctx == k && r.uid == uid)) := by
  unfold State.leavePool
  split
  · next h => rw [h]; rfl
  · next q _ => rw [State.poolQueue, Map.get_set, if_pos rfl]

/-- Grants of lanes leave a context of which no request stands in the queue, and the launches and the leases. -/
theorem State.poolGrant_spares (o : Nat) (q : List PoolReq) : ∀ s : State, (∀ r ∈ q, ¬(c = r.core ∧ k = r.ctx)) →
    (s.poolGrant o q).ctx c k = s.ctx c k ∧ (s.poolGrant o q).launches = s.launches ∧ (s.poolGrant o q).leases = s.leases := by
  induction q with
  | nil => exact fun _ _ => ⟨rfl, rfl, rfl⟩
  | cons r q ih =>
    intro s h
    unfold State.poolGrant
    split
    · next lanes _ =>
      obtain ⟨hctx, hlaunch, hlease⟩ := ih (s.updCtx r.core r.ctx (·.receive r lanes)) fun r' hr' => h r' (List.mem_cons_of_mem _ hr')
      refine ⟨hctx.trans ?_, hlaunch, hlease⟩
      exact State.ctx_setCtx_ne _ _ (h r List.mem_cons_self)
    · exact ⟨rfl, rfl, rfl⟩

theorem State.poolRun_spares (o : Nat) (h : ∀ r ∈ s.poolQueue o, ¬(c = r.core ∧ k = r.ctx)) :
    (s.poolRun o).ctx c k = s.ctx c k ∧ (s.poolRun o).launches = s.launches ∧ (s.poolRun o).leases = s.leases := by
  unfold State.poolRun
  split
  · exact ⟨rfl, rfl, rfl⟩
  · exact State.poolGrant_spares _ _ s h

/-- The state in which a task that ends has given up everything but its context and its groups. -/
def State.relinquished (s : State) (c k : Nat) : State := ((s.vacated c k).leavePool c k (s.ctx c k).uid).poolRun (c / 8)

theorem State.endTask_eq : s.endTask c k = (s.relinquished c k).leaveGroups (s.departure c k) (s.ctx c k).groups.reverse := rfl

theorem State.task_relinquished : s.TaskAside (s.relinquished c k) :=
  ((s.task_vacated c k).trans (State.task_leavePool ..)).trans (State.task_poolRun ..)

/-- Every request of the context at its pool is one of the task that ends. -/
theorem State.relinquished_spec (hq : ∀ q ∈ s.poolQueue (c / 8), q.core = c → q.ctx = k → q.uid = (s.ctx c k).uid)
    (hm : ∀ f ∈ s.msgs, f.uid ≠ (s.ctx c k).uid) :
    (s.relinquished c k).ctx c k = (s.ctx c k).departing ∧ (s.relinquished c k).launches = s.launches ∧
      s.TranslatesAs (s.relinquished c k) := by
  let v := (s.vacated c k).leavePool c k (s.ctx c k).uid
  have hqueue : (s.vacated c k).poolQueue (c / 8) = s.poolQueue (c / 8) := (s.left_deregistered c k).poolQueue _
  have hnone : ∀ r ∈ v.poolQueue (c / 8), ¬(c = r.core ∧ k = r.ctx) := by
    intro r hr ⟨hc, hk⟩
    rw [State.poolQueue_leavePool, hqueue, List.mem_filter] at hr
    have huid := hq r hr.1 hc.symm hk.symm
    simp [hc.symm, hk.symm, huid] at hr
  have hv : v.ctx c k = (s.ctx c k).departing ∧ v.launches = s.launches ∧ v.leases = s.leases := by
    have hpool : v.ctx c k = (s.vacated c k).ctx c k ∧ v.launches = (s.vacated c k).launches ∧ v.leases = (s.vacated c k).leases := by
      simp only [v]
      unfold State.leavePool
      split <;> exact ⟨rfl, rfl, rfl⟩
    obtain ⟨hctx, hlaunch, hlease⟩ := hpool
    exact ⟨hctx.trans (State.ctx_setCtx ..), hlaunch.trans (State.launches_deregistered fun f hf e => absurd e (hm f hf)),
      hlease.trans State.leases_vacated⟩
  obtain ⟨hctx, hlaunch, hlease⟩ := State.poolRun_spares (c / 8) hnone
  exact ⟨hctx.trans hv.1, hlaunch.trans hv.2.1, State.task_relinquished.translatesAs (hlease.trans hv.2.2)⟩

/-! ### The groups of a task that ends (R142) -/

/-- The request with which a core leaves a group whose address translates. -/
theorem State.sendLeave_ok {asid group : Nat} {tr : Tr} (h : (s.translate (dieOf c) asid group false (some c)).1 = .ok tr) :
    ∃ id u q, s.sendLeave c asid group = (some id, u) ∧ s.Sends u ∧ (u.core c).oq.getLast? = some q ∧ q.op = .leave ∧ q.addr = tr.pa ∧
      q.va = group := by
  have hsends := s.sends_sendLeave c asid group
  unfold State.sendLeave at hsends ⊢
  split
  · next e => rw [e] at h; cases h
  · next tr' t e =>
    rw [e] at h hsends
    cases h
    refine ⟨_, _, ?q, rfl, hsends, ?last, ?_, ?_, ?_⟩
    case last =>
      rw [State.enqueue, State.enqueueOut]
      dsimp only [State.fresh]
      rw [State.core_updCore, List.getLast?_append_of_ne_nil _ (by simp)]
      rfl
    all_goals rfl

end

/-- The context of a task that ends holds no claim, whether it is free or leaves groups. -/
theorem State.claim_leaveGroups {s : State} {l : Leaving} {k : Nat} (hk : l.ctx = some k) (hclaim : (s.ctx l.core k).claim = none)
    (gs : List Nat) : ((s.leaveGroups l gs).ctx l.core k).claim = none := by
  obtain ⟨u, hu, hend | ⟨rest, id, hend⟩⟩ := State.leaveGroups_cases l gs s
  · rw [hend, State.ctx_finishLeaving_self hk]
    rfl
  · rw [hend]
    exact (congrArg Ctx.claim (hu.left.ctx l.core k)).trans hclaim

end Sys2Proof.Machine
end

section
/-!
PROOF. `end` frees its context or leaves the groups of its task (R142, R218), and the task instructions together.
-/
namespace Sys2Proof.Machine

section
variable {s : State} {c k : Nat} (hq : ∀ q ∈ s.poolQueue (c / 8), q.core = c → q.ctx = k → q.uid = (s.ctx c k).uid)
  (hm : ∀ f ∈ s.msgs, f.uid ≠ (s.ctx c k).uid)
include hq hm

theorem State.endTask_claim : ((s.endTask c k).ctx c k).claim = none := by
  obtain ⟨hctx, -, -⟩ := State.relinquished_spec hq hm
  rw [State.endTask_eq]
  exact State.claim_leaveGroups (l := s.departure c k) rfl (congrArg Ctx.claim hctx) _

/-- A task that has joined no group is over at once. -/
theorem State.endTask_ungrouped (hg : (s.ctx c k).groups = []) :
    ((s.endTask c k).ctx c k).phase = .free ∧
      ∀ l, s.launch? (s.ctx c k).launch = some l →
        ∃ m, (s.endTask c k).launch? (s.ctx c k).launch = some m ∧ m.outstanding = l.outstanding - 1 := by
  obtain ⟨-, hlaunch, -⟩ := State.relinquished_spec hq hm
  have hend : s.endTask c k = (s.relinquished c k).finishLeaving (s.departure c k) := by
    rw [State.endTask_eq, hg]
    rfl
  rw [hend]
  constructor
  · exact congrArg Ctx.phase (State.ctx_finishLeaving_self (s := s.relinquished c k) (l := s.departure c k) rfl)
  · intro l hl
    have hkept : (s.relinquished c k).launch? (s.ctx c k).launch = some l :=
      (congrArg (fun x : Map Launch => x.find? (s.ctx c k).launch) hlaunch).trans hl
    exact ⟨_, (State.launches_finishLeaving ..).trans (State.launch?_countDown hkept), rfl⟩

/-- A task that has joined groups leaves the one joined last. -/
theorem State.endTask_grouped {rest : List Nat} {g : Nat} {tr : Tr} (hg : (s.ctx c k).groups = rest ++ [g])
    (htr : (s.translate (dieOf c) (s.ctx c k).asid g false (some c)).1 = .ok tr) :
    ((s.endTask c k).ctx c k).phase = .leaving ∧ (∀ id, (s.endTask c k).launch? id = s.launch? id) ∧
      (∃ l ∈ (s.endTask c k).leaving, l.uid = (s.ctx c k).uid ∧ l.ctx = some k ∧ l.groups = rest.reverse) ∧
      ∃ q, ((s.endTask c k).core c).oq.getLast? = some q ∧ q.op = .leave ∧ q.addr = tr.pa ∧ q.va = g := by
  obtain ⟨hctx, hlaunch, htrans⟩ := State.relinquished_spec hq hm
  obtain ⟨id, u, q, hsend, hu, hlast, hop, haddr, hva⟩ := State.sendLeave_ok ((htrans.translate_read ..).trans htr)
  have hend : s.endTask c k = { u with leaving := u.leaving ++ [{ s.departure c k with groups := rest.reverse, id := id }] } := by
    rw [State.endTask_eq, hg, List.reverse_append, List.reverse_singleton, List.singleton_append, State.leaveGroups]
    change (match (s.relinquished c k).sendLeave c (s.ctx c k).asid g with | (some id, s') => _ | (none, s') => _) = _
    rw [hsend]
  rw [hend]
  refine ⟨?_, fun j => ?_, ⟨_, List.mem_append_right _ List.mem_cons_self, rfl, rfl, rfl⟩, q, hlast, hop, haddr, hva⟩
  · exact congrArg Ctx.phase ((hu.left.ctx c k).trans hctx)
  · exact (hu.launch? j).trans (congrArg (fun x : Map Launch => x.find? j) hlaunch)

end

/-- `end` of a task without a result on the way (R218). -/
theorem State.exec_end {s : State} (h : s.Alive) (st : Fin 8) : exec (.endTask st) s = .next (s.slotUsed.endTask s.curCore s.curCtx) := by
  rw [exec_endTask]
  refine State.issueWith_gone h.toCalm (Or.inr h.pp) (h.clear st [] [] false false) ?_
  rw [h.var]
  rfl

/-- The issue slot that an instruction takes changes no translation. -/
theorem State.translatesAs_slotUsed (s : State) : s.TranslatesAs s.slotUsed := ⟨rfl, rfl, rfl, rfl, rfl, rfl⟩

theorem State.end_spec {s : State} (h : s.Alive) (st : Fin 8)
    (hq : ∀ q ∈ s.poolQueue (s.curCore / 8), q.core = s.curCore → q.ctx = s.curCtx → q.uid = s.cur.uid)
    (hm : ∀ f ∈ s.msgs, f.uid ≠ s.cur.uid) :
    ∃ t, exec (.endTask st) s = .next t ∧ (t.ctx s.curCore s.curCtx).claim = none ∧
      (s.cur.groups = [] → (t.ctx s.curCore s.curCtx).phase = .free ∧ t.mem = s.mem ∧
        (∀ l, s.launch? s.cur.launch = some l →
          ∃ m, t.launch? s.cur.launch = some m ∧ m.outstanding = l.outstanding - 1)) ∧
      (∀ rest g tr u, s.cur.groups = rest ++ [g] →
        s.translate s.die s.cur.asid g false (some s.curCore) = (.ok tr, u) →
        (t.ctx s.curCore s.curCtx).phase = .leaving ∧ t.launch? s.cur.launch = s.launch? s.cur.launch ∧
        (∃ l ∈ t.leaving, l.uid = s.cur.uid ∧ l.ctx = some s.curCtx ∧ l.groups = rest.reverse) ∧
        ∃ q, t.here.oq.getLast? = some q ∧ q.op = .leave ∧ q.addr = tr.pa ∧ q.va = g) := by
  have hcur : s.slotUsed.ctx s.curCore s.curCtx = s.cur := s.slotUsed_cur
  have hq' : ∀ q ∈ s.slotUsed.poolQueue (s.curCore / 8), q.core = s.curCore → q.ctx = s.curCtx →
      q.uid = (s.slotUsed.ctx s.curCore s.curCtx).uid := by rw [hcur]; exact hq
  have hm' : ∀ f ∈ s.slotUsed.msgs, f.uid ≠ (s.slotUsed.ctx s.curCore s.curCtx).uid := by rw [hcur]; exact hm
  have hcore : (s.slotUsed.endTask s.curCore s.curCtx).curCore = s.curCore :=
    (State.task_closeTask s.slotUsed s.curCore s.curCtx .ended).keeps (f := fun s => s.curCore) fun _ _ => rfl
  have hfree := State.endTask_ungrouped hq' hm'
  have hleave := fun rest g tr => State.endTask_grouped hq' hm' (rest := rest) (g := g) (tr := tr)
  rw [hcur] at hfree hleave
  refine ⟨_, State.exec_end h st, State.endTask_claim hq' hm', fun hg => ?_, fun rest g tr u hg htr => ?_⟩
  · obtain ⟨hphase, hcount⟩ := hfree hg
    exact ⟨hphase, State.mem_closeTask .., hcount⟩
  · obtain ⟨hphase, hkept, hgroups, hlast⟩ :=
      hleave rest g tr hg ((s.translatesAs_slotUsed.translate_read ..).trans (congrArg Prod.fst htr))
    refine ⟨hphase, hkept _, hgroups, ?_⟩
    rw [State.here, hcore]
    exact hlast

/-- The scope of a message does not depend on its job. -/
theorem State.spawnScope_job (s : State) (m : TaskMsg) (j target : Nat) :
    s.spawnScope { m with job := j } target = s.spawnScope m target := by
  unfold State.spawnScope
  rfl

/-- The message that stands at an offset is sent, or its bound fails at once (R217, R342). -/
theorem State.spawns {s : State} (h : s.Alive) (st : Fin 8) (rd rs1 rs2 : Fin 32) {off : Nat} (ho : s.OwnObject (s.X rs1).toNat 64 off)
    (hc : s.spClean off 64) (hhnd : (s.message off).hnd % 4 = 0) (hrole : (s.message off).role ≠ 3) (hword : s.spWord off 7 = 0)
    (ht : s.spawnTarget (s.X rs2) ≤ 1535) (hmask : s.inMask s.cur (s.spawnTarget (s.X rs2)) = true)
    (hopen : s.Open (s.spawnScope (s.message off) (s.spawnTarget (s.X rs2)))) :
    let m := s.message off
    let sends := fun (i : Instr) (m : TaskMsg) (reg : Option Reg) =>
      ∃ t, exec i s = .next t ∧ s.Performed t st (nextPc s.cur.pc) (s.sendChild m (s.spawnTarget (s.X rs2)) reg)
    sends (.spawn st rs1 rs2) { m with job := s.cur.job, bd := false, inc := 0, bound := 0 } none ∧
    (boundCheck (s.here.shadow.get {} m.inc) s.cur.asid s.cur.job m.bound = false →
      sends (.spawnb st rd rs1 rs2) { m with job := s.cur.job, bd := true } (some (.x s.cur.bank rd))) ∧
    (boundCheck (s.here.shadow.get {} m.inc) s.cur.asid s.cur.job m.bound = true → s.Computes (.spawnb st rd rs1 rs2) st rd 1) := by
  have hcheck := State.spawnCheck_ok ho hc (tgt := s.X rs2) hhnd hrole hword ht hmask
  clear hhnd hrole
  generalize s.message off = m at hcheck hopen ⊢
  rw [← s.spawnScope_job m s.cur.job] at hopen
  dsimp only at hcheck
  have hspawn := State.spawn_sends h hcheck hopen (st := st)
  have hspawnb := State.spawnb_sends h hcheck (st := st) (rd := rd)
  have href := State.spawnb_refused h hcheck (st := st) (rd := rd)
  generalize s.spawnTarget (s.X rs2) = T at *
  exact ⟨hspawn, fun hb => hspawnb hb hopen, href⟩

end Sys2Proof.Machine

namespace Sys2Proof
open Machine

/-- Settles O16: the checks of `spawn` answer the message of the object, or the trap of the first that fails; the operation of each
instruction then gives what is performed; a task that ends has given up its claim before its groups are left. -/
theorem taskInstructions : Obligations.TaskInstructions := by
  refine ⟨?_, ?_, ?_⟩
  · intro s h st rd rs1 rs2 off ho hc m target hhnd hrole hword ht hmask hnear hfar sends
    have hopen : s.Open (s.spawnScope (s.message off) target) := by
      unfold State.spawnScope
      split
      · next hk => exact hnear hk
      · next hk => exact hfar hk
    have hsends : ∀ (i : Instr) (m : TaskMsg) (reg : Option Reg),
        (∃ t, exec i s = .next t ∧ s.Performed t st (nextPc s.cur.pc) (s.sendChild m target reg)) → sends i m reg :=
      fun i m reg ⟨t, he, hperf⟩ => ⟨t, s.child m target, he, rfl, rfl, rfl, rfl, rfl, rfl, hperf⟩
    obtain ⟨hspawn, hspawnb, hrefused⟩ := State.spawns h st rd rs1 rs2 ho hc hhnd hrole hword ht hmask hopen
    exact ⟨hsends _ _ _ hspawn, fun hb => hsends _ _ _ (hspawnb hb), hrefused⟩
  · intro s h st rd rs1 rs2
    refine ⟨State.spawn_objectTraps h (.inl rfl) (rd := rd), State.spawn_objectTraps h (.inr rfl), State.park_objectTraps h,
      State.qput_objectTraps h, ?_⟩
    intro i hi off ho hc w0 target resv
    refine ⟨fun hw => ?_, fun hw hr => ?_, fun hw hr ht => ?_⟩
    · exact State.spawn_traps h hi (State.spawnCheck_misaligned ho hc (by rw [State.message_hnd]; exact hw))
    · exact State.spawn_traps h hi (State.spawnCheck_reserved ho hc (by rw [State.message_hnd]; exact hw) hr)
    · exact State.spawn_traps h hi (State.spawnCheck_target ho hc (by rw [State.message_hnd]; exact hw) hr ht)
  · intro s h st rd rs1 rs2
    refine ⟨State.end_spec h st, fun off ho hc => ?_, State.yield_completes h, fun off ho hopen => ?_, State.cancel_sends h⟩
    · exact ⟨State.park_computes h ho hc, State.park_parks h ho hc⟩
    · exact ⟨State.qput_sends h ho hopen, State.qput_refused h ho hopen⟩

end Sys2Proof
end

section
/-!
SUPPORT. What an instruction leaves in the registers themselves, once its one result has been written at issue (R91, R99, R102).
-/
namespace Sys2Proof.Machine

/-! ### A context whose instruction has written its result -/

/-- The context after an instruction without a stall that has written `v` to `rd` at its issue (R91, R100, R102). -/
def Ctx.gave (t : Ctx) (rd : Nat) (v : W64) (st cycle : Nat) : Ctx :=
  { t.put (.x t.bank rd) (.word v) with
    wait := (if t.wait.held then .none else t.wait), phase := (if t.wait.held then .running else t.phase),
    waitFrom := (if t.wait.held then none else t.waitFrom), pc := BitVec.ofNat 16 (t.pc.toNat + 4),
    window := t.window.filter (fun e => e.1 != t.pc.toNat), readyAt := cycle + st + 1, hiring := none, age := 0, promoted := false }

section
variable {t : Ctx} (rd : Nat) (v : W64)

/-- A result that is written at its issue by a task without a result on the way. -/
theorem Ctx.take_now (h : t.pend = []) : t.take (.now (.x rd) (.word v)) = t.put (.x t.bank rd) (.word v) := by
  by_cases h0 : rd = 0
  · subst h0
    rw [Ctx.put_x0]
    simp [Ctx.take, RName.reg, Reg.counts]
  · have hd : t.dropPend (.x t.bank rd) = t := by cases t; simp_all [Ctx.dropPend]
    simp only [Ctx.take, RName.reg, Reg.counts, bne_iff_ne, ne_eq, h0, not_false_eq_true, if_true, hd]

theorem Ctx.elapse_of_nil (h : t.pend = []) (n : Nat) : t.elapse n = t := by
  unfold Ctx.elapse
  simp only [h, List.filter_nil, List.foldl_nil, List.map_nil]
  rw [← h]

theorem Ctx.retire_gave (d : Desc) (cycle : Nat) (h : t.pend = []) (htarget : d.target = false) (hrun : t.wait.held = true ∨ t.phase ≠ .parked) :
    t.retire d (nowX rd v) none cycle = t.gave rd v d.st cycle := by
  have hput : (nowX rd v).foldl Ctx.take t = t.put (.x t.bank rd) (.word v) := Ctx.take_now rd v h
  have helapse := Ctx.elapse_of_nil (t := t.put (.x t.bank rd) (.word v)) (by rw [Ctx.put_pend, h]) (d.st + 1)
  have hwindow : (t.put (.x t.bank rd) (.word v)).window = t.window := by rw [Ctx.put_other]
  have hfrom : (t.put (.x t.bank rd) (.word v)).waitFrom = t.waitFrom := by rw [Ctx.put_other]
  unfold Ctx.retire Ctx.gave
  simp only [hput, helapse, htarget, Ctx.put_wait, Bool.false_eq_true, if_false]
  cases hw : t.wait.held with
  | true => simp only [if_true, reduceCtorEq, if_false, Ctx.put_pc, Option.getD_none, Option.isSome_none, Bool.false_eq_true, hwindow]
  | false =>
    have hphase : t.phase ≠ .parked := hrun.resolve_left (by simp [hw])
    simp only [Bool.false_eq_true, if_false, Ctx.put_phase, hphase, Ctx.put_pc, Ctx.put_wait, Option.getD_none, Option.isSome_none, hwindow,
      hfrom]

variable (st cycle : Nat)

theorem Ctx.readX_gave (i : Nat) : (t.gave rd v st cycle).readX i = if i = rd ∧ rd ≠ 0 then v else t.readX i := by
  rw [← Ctx.readX_put]
  rfl

theorem Ctx.pc_gave : (t.gave rd v st cycle).pc = t.pc + 4 := by
  apply BitVec.eq_of_toNat_eq
  simp [Ctx.gave, BitVec.toNat_add]

theorem Ctx.phase_gave (h : t.wait.held = true) : (t.gave rd v st cycle).phase = .running ∧ (t.gave rd v st cycle).wait = .none := by
  simp [Ctx.gave, h]

end

/-! ### The module once an instruction has been performed -/

/-- Core `g` is core `h` but for its contexts and the issues that it counts. -/
def HomeCore.IssueAside (h g : HomeCore) : Prop := g = { h with ctxs := g.ctxs, issuedAt := g.issuedAt, issued := g.issued }

theorem HomeCore.IssueAside.trans {h g f : HomeCore} (hg : h.IssueAside g) (gf : g.IssueAside f) : h.IssueAside f := by
  unfold HomeCore.IssueAside at *
  rw [gf, hg]

section
variable (s : State) (d : Desc) (ws : List Write) (next : Option Nat)

theorem State.ctx_slotUsed (c k : Nat) : s.slotUsed.ctx c k = s.ctx c k := State.ctx_updCore s rfl c k

theorem State.cur_retire : (s.retire d ws next).cur = s.cur.retire d ws next s.cycle := by
  rw [State.retire, State.slotUsed_cur, State.cur_updCur]

theorem State.ctx_retire_ne {c k : Nat} (h : ¬(c = s.curCore ∧ k = s.curCtx)) : (s.retire d ws next).ctx c k = s.ctx c k := by
  rw [State.retire, State.ctx_slotUsed]
  exact State.ctx_setCtx_ne s _ h

theorem State.issueAside_updCore (c : Nat) (f : HomeCore → HomeCore) (h : (s.core c).IssueAside (f (s.core c))) (e : Nat) :
    (s.core e).IssueAside ((s.updCore c f).core e) := by
  rw [State.core_updCore_eq]
  split
  · next he => rw [he]; exact h
  · exact rfl

theorem State.core_retire (c : Nat) : (s.core c).IssueAside ((s.retire d ws next).core c) := by
  have hctx := s.issueAside_updCore s.curCore (fun h => h.setCtx s.curCtx (s.cur.retire d ws next s.cycle)) rfl c
  have hslot := State.issueAside_updCore (s.updCur fun t => t.retire d ws next s.cycle) s.curCore
    (fun h => { h with issuedAt := some s.cycle, issued := h.issued + 1 }) rfl c
  exact hctx.trans hslot

/-- An instruction that gives a register a value at its issue, and otherwise leaves `u`. -/
structure State.Gives (s u t : State) (st rd : Nat) (v : W64) : Prop where
  rest : t = { u with cores := t.cores }
  core : ∀ c, (u.core c).IssueAside (t.core c)
  cur  : t.cur = u.cur.gave rd v st u.cycle
  ctx  : ∀ c k, ¬(c = u.curCore ∧ k = u.curCtx) → t.ctx c k = u.ctx c k

theorem State.gives_retire {u : State} {d : Desc} (rd : Nat) (v : W64) (hpend : u.cur.pend = []) (htarget : d.target = false)
    (hrun : u.cur.wait.held = true ∨ u.cur.phase ≠ .parked) : s.Gives u (u.retire d (nowX rd v) none) d.st rd v where
  rest := rfl
  core := u.core_retire d _ none
  cur := by rw [State.cur_retire, Ctx.retire_gave rd v d u.cycle hpend htarget hrun]
  ctx _ _ h := u.ctx_retire_ne d _ none h

end

section
variable {s u t : State} {st rd : Nat} {v : W64} (h : s.Gives u t st rd v)
include h

theorem State.Gives.keeps {α : Type} {f : State → α} (hf : ∀ s t : State, f { s with cores := t.cores } = f s) : f t = f u := by
  rw [h.rest]
  exact hf u t

theorem State.Gives.value (hrd : rd ≠ 0) : t.X rd = v := by
  rw [State.X, h.cur, Ctx.readX_gave, if_pos ⟨rfl, hrd⟩]

theorem State.Gives.others {i : Nat} (hi : i ≠ rd) : t.X i = u.X i := by
  rw [State.X, h.cur, Ctx.readX_gave, if_neg (fun e => hi e.1)]
  rfl

theorem State.Gives.pc : t.cur.pc = u.cur.pc + 4 := by rw [h.cur, Ctx.pc_gave]

end

/-! ### Operations that run -/

/-- The state that an operation with a clear frame comes to. -/
def State.concluded (s : State) (d : Desc) : Res → State
  | .done u ws next => u.retire d ws next
  | .trap cause info fb => s.takeTrap false cause info fb
  | .hold u => u
  | .gone u => u

/-- In a task without a result on the way the operation runs once the frame is clear, whatever the task waited for at its issue. -/
theorem State.run_clear {s : State} (hpend : s.cur.pend = []) (hvar : s.cur.var = []) (hpp : s.cur.pp = false) {d : Desc} (hd : d.Clear s)
    (hpool : d.pool = false) (ht : d.target = false) (body : State → Res) :
    s.run d body = s.concluded d (body s) := by
  have hi : d.interlocked s.cur = false := by simp [Desc.interlocked, hvar]
  have hs : d.stallShort s.cur = none := by
    simp only [Desc.stallShort, hpend]
    split <;> simp
  have hsup : (d.sup && !s.cur.sup) = false := by cases h : d.sup <;> simp [hd.sup, h]
  have hlanes : (d.lanes && s.cur.claim.isNone) = false := by
    cases h : d.lanes
    · rfl
    · exact Option.isNone_eq_false_iff.mpr (hd.lanes h)
  have hkill : (d.kill && s.cur.killed) = false := by cases h : d.kill <;> simp [hd.kill, h]
  have hbound : (d.bound && s.cur.hiring.isNone && s.here.boundFails s.cur) = false := by cases h : d.bound <;> simp [hd.bound, h]
  unfold State.run
  rw [hd.early]
  simp only [hi, hs, hsup, hlanes, hkill, hbound, hpp, hpool, ht, Bool.false_and, Bool.false_eq_true, if_false]
  cases body s <;> rfl

/-- An operation whose one result is written at its issue. -/
theorem State.issueWith_gives {s u : State} (hpend : s.cur.pend = []) (hvar : s.cur.var = []) (hpp : s.cur.pp = false) {d : Desc}
    (hd : d.Clear s) (hpool : d.pool = false) (ht : d.target = false) {body : State → Res} {rd : Nat} {v : W64}
    (hb : body s = .done u (nowX rd v) none) (hpend' : u.cur.pend = []) (hrun : u.cur.wait.held = true ∨ u.cur.phase ≠ .parked) :
    ∃ t, s.issueWith d body = .next t ∧ s.Gives u t d.st rd v := by
  refine ⟨_, ?_, s.gives_retire rd v hpend' ht hrun⟩
  rw [State.issueWith, State.run_clear hpend hvar hpp hd hpool ht, hb]
  rfl

end Sys2Proof.Machine
end

section
/-!
PROOF. `trap`, `brk`, `eret`, `ifence`, `ovld` and `lwait` (R131, R210 to R213, R372).
-/
namespace Sys2Proof.Machine

theorem State.Plain.clear {s : State} (_ : s.Plain) (st : Nat) (reads writes : List RName) :
    Desc.Clear { st := st, reads := reads, writes := writes } s := by
  constructor <;> simp

/-! ### `trap`, `eret` and `ifence` -/

section
variable {s : State} (h : s.Plain)
include h

/-- `trap` takes its trap at the offset after it (R210). -/
theorem State.exec_trap_now (st : Fin 8) (code : Fin 1024) : exec (.trap st code) s =
    .next (s.trapNow s.curCore s.curCtx 0x08 code 0 ((s.cur.pc.toNat + 4) % 65536) (s.wordAt s.curCore s.cur).toNat).slotLost := by
  rw [exec_trap]
  refine State.issueWith_gone h.toCalm (Or.inr h.pp) (h.clear st [] []) ?_
  rw [State.trapAt_now _ _ _ h.var]

theorem State.trap_spec (hk : s.cur.killed = false) (st : Fin 8) (code : Fin 1024) :
    ∃ t, exec (.trap st code) s = .next t ∧ t.cur.faulta.toNat % 2 ^ 8 = 0x08 ∧
      t.cur.faulta.toNat / 2 ^ 8 % 2 ^ 16 = (s.cur.pc.toNat + 4) % 65536 ∧ t.cur.faulta.toNat / 2 ^ 24 % 2 ^ 16 = code ∧ t.cur.faultb = 0 ∧
      t.cur.x = s.cur.x ∧ t.mem = s.mem ∧
      (s.cur.tvec.getLsbD 16 = true → s.cur.th = false → t.cur.pc.toNat = s.cur.tvec.toNat / 2 ^ 2 % 2 ^ 14 * 4 ∧ t.cur.th = true) ∧
      (s.cur.tvec.getLsbD 16 = false ∨ s.cur.th = true → t.cur.phase = .faulted ∧ t.faults.length = s.faults.length + 1) := by
  let epc := (s.cur.pc.toNat + 4) % 65536
  let insn := (s.wordAt s.curCore s.cur).toNat
  let u := s.trapNow s.curCore s.curCtx 0x08 code 0 epc insn
  have hk' : (s.ctx s.curCore s.curCtx).killed = false := hk
  obtain ⟨hcore, hcctx⟩ := State.curAt_trapNow (s := s) (c := s.curCore) (k := s.curCtx) (cause := 0x08) (info := code) 0 epc insn (.inr hk')
  have hcur : u.slotLost.cur = s.cur.trapped 0x08 code 0 epc := by
    rw [State.cur_slotLost, State.cur, hcore, hcctx]
    exact State.ctx_trapNow 0 epc insn (.inr hk')
  obtain ⟨hfa, hfb, hx, -⟩ := s.cur.trapped_recorded 0x08 code 0 epc
  have hcode : code.val < 2 ^ 16 := by omega
  have hepc : epc < 2 ^ 16 := Nat.mod_lt _ (by decide)
  have htask : inTask 0x08 code := by simp [inTask]
  refine ⟨u.slotLost, State.exec_trap_now h st code, ?_, ?_, ?_, ?_, ?_, ?_, fun htv hth => ?_, fun hno => ?_⟩
  · rw [hcur, hfa, faultaWord_cause _ (by decide) hcode hepc]
  · rw [hcur, hfa, faultaWord_epc _ (by decide) hcode hepc]
  · rw [hcur, hfa, faultaWord_info _ (by decide) hcode hepc]
  · rw [hcur, hfb]
  · rw [hcur, hx, Ctx.settle_of_nil h.pend]
  · exact State.mem_trapNow 0 epc insn (.inr hk')
  · obtain ⟨hpc, hth', -⟩ := s.cur.trapped_handled 0x08 code 0 epc ((s.cur.handles_iff ..).mpr ⟨htask, htv, hth⟩)
    rw [hcur]
    exact ⟨hpc, hth'⟩
  · have hunhandled : s.cur.handles 0x08 code = false := by
      rw [Bool.eq_false_iff]
      intro hh
      obtain ⟨-, htv, hth⟩ := (s.cur.handles_iff ..).mp hh
      rcases hno with e | e
      · rw [e] at htv; cases htv
      · rw [e] at hth; cases hth
    obtain ⟨-, -, hphase, -⟩ := s.cur.trapped_parked 0x08 code 0 epc hunhandled
    have hfaults : u.slotLost.faults = _ := State.faults_trapNow_parked 0 epc insn hunhandled hk'
    refine ⟨hcur ▸ hphase, ?_⟩
    rw [hfaults, List.length_append, List.length_singleton]

omit h in
theorem State.eret_clear (hth : s.cur.th = true) (st : Fin 8) :
    Desc.Clear { st := st, early := if s.cur.th then none else some 0x03 } s := by
  constructor <;> simp [hth]

theorem State.eret_completes (hth : s.cur.th = true) (hpc : s.cur.faulta.toNat / 2 ^ 8 % 4 = 0) (st : Fin 8) :
    s.Completes (.eret st) st (s.cur.faulta.toNat / 2 ^ 8 % 2 ^ 16)
      (s.updCur (fun t => { t with pfx := t.savedPfx, status := setBit (setBit t.status 7 t.savedPP) 14 false })) := by
  have hepc : s.cur.epc = s.cur.faulta.toNat / 2 ^ 8 % 2 ^ 16 := rfl
  have hcur := State.cur_updCur s Ctx.leaveHandler
  obtain ⟨body, he, hb⟩ : ∃ body, exec (.eret st) s = s.issueWith { st := st, early := if s.cur.th then none else some 0x03 } body ∧
      body s = .done (s.updCur Ctx.leaveHandler) [] (some s.cur.epc) := ⟨_, rfl, if_neg (by rw [hepc]; omega)⟩
  obtain ⟨t, hnext, hperf⟩ := State.completes_none h.toCalm (Or.inr h.pp) (State.eret_clear hth st) rfl hb rfl
    (by rw [hcur]; exact h.pend) ⟨by rw [hcur]; exact congrArg Wait.held h.wait, by rw [hcur]; simp [Ctx.leaveHandler, Ctx.setTh, Ctx.setPp, h.running]⟩
  rw [State.updCur_updCur] at hperf
  exact ⟨t, he.trans hnext, hperf⟩

theorem State.eret_traps (hth : s.cur.th = true) (hpc : s.cur.faulta.toNat / 2 ^ 8 % 4 ≠ 0) (st : Fin 8) :
    s.Traps (.eret st) false 0x04 0 (w64 (s.cur.faulta.toNat / 2 ^ 8 % 2 ^ 16)) := by
  have hepc : s.cur.epc % 4 ≠ 0 := by
    have e : s.cur.epc = s.cur.faulta.toNat / 2 ^ 8 % 2 ^ 16 := rfl
    omega
  exact State.traps_of_body h (exec_eret ..) (State.eret_clear hth st) rfl rfl (if_pos hepc)

/-- The target of `ifence` (R213). -/
def State.ifenceTarget (s : State) (rs1 : Fin 32) : Nat :=
  if rs1 = 0 then (s.cur.pc.toNat + 4) % 65536 else (s.X rs1).toNat % 65536

theorem State.ifence_completes (st : Fin 8) (rs1 : Fin 32) (hd : s.ifenceTarget rs1 % 4 = 0) :
    s.Completes (.ifence st rs1) st (s.ifenceTarget rs1) s := by
  obtain ⟨body, he, hb⟩ : ∃ body, exec (.ifence st rs1) s = s.issueWith { st := st, reads := [.x rs1] } body ∧
      body s = .done s [] (some (s.ifenceTarget rs1)) := ⟨_, rfl, if_neg (not_not.mpr hd)⟩
  obtain ⟨t, hnext, hperf⟩ := State.completes_none h.toCalm (Or.inr h.pp) (h.clear st [.x rs1] []) rfl hb rfl h.pend
    ⟨congrArg Wait.held h.wait, by simp [h.running]⟩
  refine ⟨t, he.trans hnext, ?_⟩
  unfold State.Performed at hperf ⊢
  rw [State.updCur_updCur] at hperf
  exact hperf

theorem State.ifence_traps (st : Fin 8) (rs1 : Fin 32) (hd : s.ifenceTarget rs1 % 4 ≠ 0) :
    s.Traps (.ifence st rs1) false 0x04 0 (w64 (s.ifenceTarget rs1)) :=
  State.traps_of_body h (exec_ifence ..) (h.clear st [.x rs1] []) rfl rfl (if_pos hd)

end

/-! ### `ovld` (R131, R212) -/

/-- What `ovld` of overlay `k` does on a configured core. -/
def State.ovldOn (s : State) (conf : Conf) (rd k : Nat) : Res :=
  if 255 < k then .done s (nowX rd 2) none
  else if k = conf.ovl then .done s (nowX rd 0) none
  else if s.here.othersLive s.curCtx then
    .hold (s.updCur (fun t => { t with wait := .alone, waitFrom := some (t.waitFrom.getD s.now) }))
  else
    match s.overlay conf.image k with
    | none => .done s (nowX rd 1) none
    | some text => .done ((s.updHere (fun h => h.loadText text k)).updCur (fun t => { t with window := s.oldWords })) (nowX rd 0) none

theorem HomeCore.othersLive_iff (h : HomeCore) (k : Nat) :
    h.othersLive k = true ↔ ∃ e ∈ h.ctxs, e.1 ≠ k ∧ e.2.phase ≠ .free ∧ e.2.phase ≠ .odd := by
  simp [HomeCore.othersLive, and_assoc]

/-- Of what is listed at the three offsets after one, each is found. -/
theorem find?_offsets {α : Type} (f : Nat → α) (p : Nat) {j : Nat} (h1 : 1 ≤ j) (h3 : j ≤ 3) :
    Map.find? ([1, 2, 3].map fun i => ((p + 4 * i) % 65536, f i)) ((p + 4 * j) % 65536) = some (f j) := by
  have h21 : (p + 8) % 65536 ≠ (p + 4) % 65536 := by omega
  have h31 : (p + 12) % 65536 ≠ (p + 4) % 65536 := by omega
  have h32 : (p + 12) % 65536 ≠ (p + 8) % 65536 := by omega
  have hj : j = 1 ∨ j = 2 ∨ j = 3 := by omega
  obtain rfl | rfl | rfl := hj
  · simp [Map.find?]
  · simp [Map.find?, h21]
  · simp [Map.find?, h31, h32]

/-- The old words stand in the window at the offsets after the pc. -/
theorem State.find_oldWords (s : State) {j : Nat} (h1 : 1 ≤ j) (h3 : j ≤ 3) {pc : Nat} (hpc : pc = s.cur.pc.toNat) :
    Map.find? (s.oldWords.filter (fun e => e.1 != pc)) ((pc + 4 * j) % 65536) =
      some (s.wordAt s.curCore { s.cur with pc := BitVec.ofNat 16 ((pc + 4 * j) % 65536) },
        s.fetchPoison s.curCore { s.cur with pc := BitVec.ofNat 16 ((pc + 4 * j) % 65536) }) := by
  subst hpc
  have hlt := s.cur.pc.isLt
  have hkeep : s.oldWords.filter (fun e => e.1 != s.cur.pc.toNat) = s.oldWords := by
    refine List.filter_eq_self.mpr fun e he => ?_
    obtain ⟨i, hi, rfl⟩ := List.mem_map.mp he
    have hi' : i = 1 ∨ i = 2 ∨ i = 3 := by simpa using hi
    simp only [bne_iff_ne, ne_eq]
    omega
  rw [hkeep]
  exact find?_offsets _ _ h1 h3

section
variable {s : State} (h : s.Plain) {st : Fin 8} {rd rs1 : Fin 32} {conf : Conf} (hconf : s.here.conf = some conf)
include h hconf

omit h in
theorem State.exec_ovld_on : ∃ body, exec (.ovld st rd rs1) s = s.issueWith { st := st, reads := [.x rs1], writes := [.x rd] } body ∧
    body s = s.ovldOn conf rd (s.X rs1).toNat := by
  refine ⟨_, rfl, ?_⟩
  dsimp only
  rw [hconf]
  rfl

theorem State.ovld_computes {v : W64} (hb : s.ovldOn conf rd (s.X rs1).toNat = .done s (nowX rd v) none) :
    s.Computes (.ovld st rd rs1) st rd v := by
  obtain ⟨body, he, hbody⟩ := State.exec_ovld_on hconf (st := st) (rd := rd) (rs1 := rs1)
  unfold State.Computes
  rw [he]
  exact State.xresult h (h.clear st [.x rs1] [.x rd]) rfl (hbody.trans hb) (Or.inr rfl)

theorem State.ovld_holds (hx : (s.X rs1).toNat ≤ 255) (hne : (s.X rs1).toNat ≠ conf.ovl) (hlive : s.here.othersLive s.curCtx = true) :
    s.Holds (.ovld st rd rs1) := by
  obtain ⟨body, he, hbody⟩ := State.exec_ovld_on hconf (st := st) (rd := rd) (rs1 := rs1)
  rw [State.ovldOn, if_neg (Nat.not_lt.mpr hx), if_neg hne, if_pos hlive] at hbody
  have hcur := State.cur_updCur s fun t => { t with wait := .alone, waitFrom := some (t.waitFrom.getD s.now) }
  refine ⟨_, he.trans (State.issueWith_hold h.toCalm (Or.inr h.pp) (h.clear st [.x rs1] [.x rd]) hbody), ?_, fun r => ?_, rfl, ?_, ?_⟩
  · rw [hcur]
  · rw [State.X, hcur]
    rfl
  · rw [State.here_updCur]
    rfl
  · rw [hcur]
    rfl

theorem State.ovld_loads {text : List Byte} (hx : (s.X rs1).toNat ≤ 255) (hne : (s.X rs1).toNat ≠ conf.ovl)
    (hlive : s.here.othersLive s.curCtx = false) (htext : s.overlay conf.image (s.X rs1).toNat = some text) :
    ∃ t, exec (.ovld st rd rs1) s = .next t ∧ (rd ≠ 0 → t.X rd = 0) ∧ (∀ i : Fin 32, i ≠ rd → t.X i = s.X i) ∧ t.cur.pc = s.cur.pc + 4 ∧
      t.here.conf = some { conf with ovl := (s.X rs1).toNat } ∧ t.mem = s.mem ∧ t.here.spad = s.here.spad ∧
      (∀ i, t.here.istore.get 0 i = BitVec.ofNat 32 (leNat ((text.drop (4 * i)).take 4))) ∧
      (∀ j, 1 ≤ j → j ≤ 3 → t.wordAt s.curCore { t.cur with pc := s.cur.pc + BitVec.ofNat 16 (4 * j) } =
        s.wordAt s.curCore { s.cur with pc := s.cur.pc + BitVec.ofNat 16 (4 * j) }) := by
  obtain ⟨body, he, hbody⟩ := State.exec_ovld_on hconf (st := st) (rd := rd) (rs1 := rs1)
  rw [State.ovldOn, if_neg (Nat.not_lt.mpr hx), if_neg hne, if_neg (by simp [hlive]), htext] at hbody
  let k := (s.X rs1).toNat
  let u := (s.updHere (fun h => h.loadText text k)).updCur (fun t => { t with window := s.oldWords })
  have hload : (s.updHere (fun h => h.loadText text k)).cur = s.cur := State.cur_updHere s _ fun _ => rfl
  have hcur : u.cur = { s.cur with window := s.oldWords } := by
    simp only [u]
    rw [State.cur_updCur, hload]
  have hhere : u.here = (s.here.loadText text k).setCtx s.curCtx { s.cur with window := s.oldWords } := by
    simp only [u]
    rw [State.here_updCur, hload]
    exact congrArg (HomeCore.setCtx · _ _) (State.core_updCore ..)
  obtain ⟨t, hnext, hg⟩ := State.issueWith_gives h.pend h.var h.pp (h.clear st [.x rs1] [.x rd]) rfl rfl hbody
    (by rw [hcur]; exact h.pend) (Or.inr (by rw [hcur]; simp [h.running]))
  have hcore : t.here = { u.here with ctxs := t.here.ctxs, issuedAt := t.here.issuedAt, issued := t.here.issued } := by
    have hsame : t.curCore = u.curCore := hg.keeps (f := fun s => s.curCore) fun _ _ => rfl
    unfold State.here
    rw [hsame]
    exact hg.core _
  refine ⟨t, he.trans hnext, fun hrd => hg.value (fun e => hrd (Fin.ext e)), fun i hi => ?_, ?_, ?_,
    hg.keeps (f := fun s => s.mem) fun _ _ => rfl, ?_, fun i => ?_, fun j h1 h3 => ?_⟩
  · rw [hg.others fun e => hi (Fin.ext e), State.X, hcur]
    rfl
  · rw [hg.pc, hcur]
  · rw [hcore, hhere]
    exact congrArg (Option.map fun c : Conf => { c with ovl := k }) hconf
  · rw [hcore, hhere]
    rfl
  · rw [hcore, hhere]
    exact get_textWords i 0 text (State.length_overlay htext)
  · have hpc : (s.cur.pc + BitVec.ofNat 16 (4 * j)).toNat = (s.cur.pc.toNat + 4 * j) % 65536 := by
      rw [BitVec.toNat_add, BitVec.toNat_ofNat]
      omega
    have hof : BitVec.ofNat 16 ((s.cur.pc.toNat + 4 * j) % 65536) = s.cur.pc + BitVec.ofNat 16 (4 * j) := by
      rw [← hpc, BitVec.ofNat_toNat, BitVec.setWidth_eq]
    have hwin : t.cur.window = s.oldWords.filter (fun e => e.1 != s.cur.pc.toNat) := by
      rw [hg.cur, hcur]
      rfl
    have hfind := s.find_oldWords h1 h3 (pc := s.cur.pc.toNat) rfl
    rw [hof] at hfind
    rw [State.wordAt]
    dsimp only
    rw [hpc, hwin, hfind]

end

/-! ### `lwait` (R372) -/

section
variable {s : State} (hpend : s.cur.pend = []) (hvar : s.cur.var = []) (hpp : s.cur.pp = false) (hkill : s.cur.killed = false)
  {st : Fin 8} {rd rs1 : Fin 32}
include hpend hvar hpp hkill

omit hpend hvar hpp in
theorem State.lwait_clear (st : Fin 8) (rd rs1 : Fin 32) :
    Desc.Clear { st := st, reads := [.x rs1], writes := [.x rd], kill := true } s := by
  constructor <;> simp [hkill]

/-- `lwait` parks before the time has come, and at its first issue whatever the time. -/
theorem State.lwait_parks (hwait : ¬(s.cur.wait = .cond ∧ max (s.X rs1).toNat s.cur.lastTime ≤ s.now)) :
    ∃ t, execLwait st rd rs1 s = .next t ∧ t.cur.phase = .parked ∧ t.cur.wait = .cond ∧ t.cur.pc = s.cur.pc ∧ (∀ r, t.X r = s.X r) ∧
      t.mem = s.mem ∧ t.curCore = s.curCore ∧ t.curCtx = s.curCtx := by
  have hcur : (s.waitCond true).cur = { s.cur with phase := .parked, wait := .cond, waitFrom := some (s.cur.waitFrom.getD s.now) } := by
    rw [State.waitCond, State.cur_updCur]
    simp only [if_true, Ctx.settle_of_nil hpend]
  refine ⟨s.waitCond true, ?_, by rw [hcur], by rw [hcur], by rw [hcur], fun r => by rw [State.X, hcur]; rfl, rfl, rfl, rfl⟩
  unfold execLwait
  rw [State.issueWith, State.run_clear hpend hvar hpp (State.lwait_clear hkill st rd rs1) rfl rfl]
  dsimp only
  rw [if_neg (show ¬(s.cur.wait = .cond ∧ max (s.cur.readX rs1).toNat s.cur.lastTime ≤ s.now) from hwait)]
  rfl

/-- `lwait` goes on once the time has come. -/
theorem State.lwait_goes (hwait : s.cur.wait = .cond) (htime : max (s.X rs1).toNat s.cur.lastTime ≤ s.now) :
    ∃ t, execLwait st rd rs1 s = .next t ∧ s.Gives (s.updCur (fun t => { t with lastTime := s.now })) t st rd (w64 s.now) := by
  have hcur := State.cur_updCur s fun t => { t with lastTime := s.now }
  refine State.issueWith_gives hpend hvar hpp (State.lwait_clear hkill st rd rs1) rfl rfl (if_pos ⟨hwait, htime⟩)
    (by rw [hcur]; exact hpend) (Or.inl ?_)
  rw [hcur]
  exact congrArg Wait.held hwait

end

section
variable {u : State} {c k : Nat} (hphase : (u.ctx c k).phase = .parked) (hwait : (u.ctx c k).wait = .cond) (hpend : (u.ctx c k).pend = [])
  (hvar : (u.ctx c k).var = []) (hpp : (u.ctx c k).pp = false) (hkill : (u.ctx c k).killed = false) (hready : u.ready c k = true)
  {st : Fin 8} {rd rs1 : Fin 32} (hword : decodeWord (u.wordAt c (u.ctx c k)).toNat = .ok (.lwait st rd rs1))
include hphase hwait hready hword

/-- LWAIT_WAKE issues the `lwait` of its context. -/
theorem State.exec_wake : exec (.lwaitWake c k) u = execLwait st rd rs1 { u with curCore := c, curCtx := k } := by
  rw [exec_lwaitWake, execLwaitWake]
  refine (if_pos ⟨hphase, hwait, hready⟩).trans ?_
  have hsame : ({ u with curCore := c, curCtx := k } : State).wordAt c ({ u with curCore := c, curCtx := k } : State).cur =
      u.wordAt c (u.ctx c k) := rfl
  rw [hsame, hword]

include hpend hvar hpp hkill

theorem State.wake_goes (htime : max ((u.ctx c k).readX rs1).toNat (u.ctx c k).lastTime ≤ u.timeOf (dieOf c)) :
    ∃ w, exec (.lwaitWake c k) u = .next w ∧ (w.ctx c k).phase = .running ∧ (w.ctx c k).wait = .none ∧
      (w.ctx c k).pc = (u.ctx c k).pc + 4 ∧ (w.ctx c k).lastTime = u.timeOf (dieOf c) ∧
      (rd ≠ 0 → (w.ctx c k).readX rd = w64 (u.timeOf (dieOf c))) ∧
      (∀ r : Fin 32, r ≠ rd → (w.ctx c k).readX r = (u.ctx c k).readX r) ∧ w.mem = u.mem := by
  let s : State := { u with curCore := c, curCtx := k }
  obtain ⟨w, he, hg⟩ := State.lwait_goes (s := s) hpend hvar hpp hkill hwait htime (st := st) (rd := rd)
  have hcore : w.curCore = c := hg.keeps (f := fun s => s.curCore) fun _ _ => rfl
  have hctx : w.curCtx = k := hg.keeps (f := fun s => s.curCtx) fun _ _ => rfl
  have hcur : w.ctx c k = ({ u.ctx c k with lastTime := u.timeOf (dieOf c) } : Ctx).gave rd (w64 (u.timeOf (dieOf c))) st s.cycle := by
    have hw : w.ctx c k = w.cur := by rw [State.cur, hcore, hctx]
    rw [hw, hg.cur, State.cur_updCur]
    rfl
  have hheld : ({ u.ctx c k with lastTime := u.timeOf (dieOf c) } : Ctx).wait.held = true := congrArg Wait.held hwait
  obtain ⟨hrun, hnone⟩ := Ctx.phase_gave (rd := rd) (w64 (u.timeOf (dieOf c))) st s.cycle hheld
  refine ⟨w, (State.exec_wake hphase hwait hready hword).trans he, ?_, ?_, ?_, ?_, fun hrd => ?_, fun r hr => ?_,
    hg.keeps (f := fun s => s.mem) fun _ _ => rfl⟩
  · rw [hcur, hrun]
  · rw [hcur, hnone]
  · rw [hcur, Ctx.pc_gave]
  · rw [hcur, Ctx.gave, Ctx.put_other]
  · rw [hcur, Ctx.readX_gave, if_pos ⟨rfl, fun e => hrd (Fin.ext e)⟩]
  · rw [hcur, Ctx.readX_gave, if_neg fun e => hr (Fin.ext e.1)]
    rfl

theorem State.wake_waits (htime : u.timeOf (dieOf c) < max ((u.ctx c k).readX rs1).toNat (u.ctx c k).lastTime) :
    ∃ w, exec (.lwaitWake c k) u = .next w ∧ (w.ctx c k).phase = .parked ∧ (w.ctx c k).wait = .cond ∧ (w.ctx c k).pc = (u.ctx c k).pc ∧
      (∀ r, (w.ctx c k).readX r = (u.ctx c k).readX r) := by
  let s : State := { u with curCore := c, curCtx := k }
  obtain ⟨w, he, hp, hw, hpc, hx, -, hcore, hctx⟩ :=
    State.lwait_parks (s := s) hpend hvar hpp hkill (fun e => absurd e.2 (Nat.not_le.mpr htime)) (st := st) (rd := rd)
  have hcur : w.cur = w.ctx c k := by rw [State.cur, hcore, hctx]
  unfold State.X at hx
  rw [hcur] at hp hw hpc hx
  exact ⟨w, (State.exec_wake hphase hwait hready hword).trans he, hp, hw, hpc, hx⟩

end

end Sys2Proof.Machine
end

section
/-!
SUPPORT. What the discard of saved launches changes (R454): records of saves lose launches, launches keep their job and address space, and
of a context no more than the slots of its hires.
-/
namespace Sys2Proof.Machine

/-! ### Launches keep their job and address space -/

/-- Every launch of the second state is one of the first, with its number, job and address space. -/
structure State.LaunchesFrom (s t : State) : Prop where
  origin : ∀ e ∈ t.launches, ∃ e0 ∈ s.launches, e0.1 = e.1 ∧ e0.2.job = e.2.job ∧ e0.2.asid = e.2.asid

theorem State.LaunchesFrom.refl (s : State) : s.LaunchesFrom s := ⟨fun e he => ⟨e, he, rfl, rfl, rfl⟩⟩

theorem State.LaunchesFrom.of_eq {s t : State} (h : t.launches = s.launches) : s.LaunchesFrom t :=
  ⟨fun e he => ⟨e, h ▸ he, rfl, rfl, rfl⟩⟩

theorem State.LaunchesFrom.trans {s t u : State} (h : s.LaunchesFrom t) (g : t.LaunchesFrom u) : s.LaunchesFrom u := by
  refine ⟨fun e he => ?_⟩
  obtain ⟨e1, he1, hid1, hjob1, hasid1⟩ := g.origin e he
  obtain ⟨e0, he0, hid, hjob, hasid⟩ := h.origin e1 he1
  exact ⟨e0, he0, hid.trans hid1, hjob.trans hjob1, hasid.trans hasid1⟩

section
variable (s : State)

theorem State.launchesFrom_updLaunch (id : Nat) (f : Launch → Launch) (hf : ∀ l, (f l).job = l.job ∧ (f l).asid = l.asid) :
    s.LaunchesFrom (s.updLaunch id f) := by
  unfold State.updLaunch
  split
  · next l hl =>
    refine ⟨fun e he => ?_⟩
    rcases Map.mem_set he with rfl | he
    · exact ⟨_, Map.mem_of_find? hl, rfl, (hf l).1.symm, (hf l).2.symm⟩
    · exact ⟨e, he, rfl, rfl, rfl⟩
  · exact .refl s

theorem State.launchesFrom_countDown (id : Nat) : s.LaunchesFrom (s.countDown id) :=
  s.launchesFrom_updLaunch id (fun l => { l with outstanding := l.outstanding - 1 }) fun _ => ⟨rfl, rfl⟩

theorem State.launchesFrom_tally (id : Nat) (how : TaskEnd) : s.LaunchesFrom (s.tally id how) := by
  cases how
  · exact .refl s
  · exact s.launchesFrom_updLaunch id (fun l => { l with killed := l.killed + 1 }) fun _ => ⟨rfl, rfl⟩
  · exact s.launchesFrom_updLaunch id (fun l => { l with lost := l.lost + 1 }) fun _ => ⟨rfl, rfl⟩

theorem State.launchesFrom_countMessages (uid : Nat) : s.LaunchesFrom (s.countMessages uid) := by
  have hup : ∀ (l : List Flight) (s : State), s.LaunchesFrom (l.foldl (fun s f => s.countUp f.launch) s) := by
    intro l
    induction l with
    | nil => exact State.LaunchesFrom.refl
    | cons f l ih =>
      exact fun s => (s.launchesFrom_updLaunch f.launch (fun l => { l with outstanding := l.outstanding + 1 }) fun _ => ⟨rfl, rfl⟩).trans (ih _)
  exact (hup _ s).trans (.of_eq rfl)

theorem State.Sends.launches {s t : State} (h : s.Sends t) : t.launches = s.launches := by
  rw [h.rest]

theorem State.launchesFrom_finishLeaving (l : Leaving) : s.LaunchesFrom (s.finishLeaving l) := by
  unfold State.finishLeaving
  refine State.LaunchesFrom.trans (.of_eq ?_) (State.launchesFrom_countDown ..)
  split
  · dsimp only
    split <;> rfl
  · rfl

theorem State.launchesFrom_leaveGroups (l : Leaving) (gs : List Nat) : s.LaunchesFrom (s.leaveGroups l gs) := by
  obtain ⟨u, hu, hend | ⟨rest, id, hend⟩⟩ := State.leaveGroups_cases l gs s
  · rw [hend]
    exact (State.LaunchesFrom.of_eq hu.launches).trans (u.launchesFrom_finishLeaving l)
  · rw [hend]
    exact .of_eq hu.launches

theorem State.launchesFrom_endAway (c : Nat) (t : Ctx) (how : TaskEnd) : s.LaunchesFrom (s.endAway c t how) := by
  unfold State.endAway
  refine State.LaunchesFrom.trans ?_ (State.launchesFrom_leaveGroups ..)
  exact State.LaunchesFrom.trans (t := { s with deadTasks := NatSet.add s.deadTasks t.uid }) (.of_eq rfl) (State.launchesFrom_tally ..)

theorem State.launchesFrom_endEntry (c : Nat) (f : Flight) (how : TaskEnd) : s.LaunchesFrom (s.endEntry c f how) := by
  unfold State.endEntry
  split
  · exact s.launchesFrom_endAway ..
  · exact (s.launchesFrom_tally ..).trans (State.launchesFrom_countDown ..)

end

/-! ### What a discard may change -/

/-- Two contexts that differ in the slots of hires alone. -/
def Ctx.HiresAside (t u : Ctx) : Prop := u = { t with hires := u.hires }

/-- Two states that differ in what the discard of saved launches changes. -/
structure State.DiscardAside (s t : State) : Prop where
  core     : t.curCore = s.curCore
  curCtx   : t.curCtx = s.curCtx
  ctx      : ∀ c k, (s.ctx c k).HiresAside (t.ctx c k)
  saves    : ∀ r ∈ t.saves, ∃ r0 ∈ s.saves, r0.core = r.core ∧ ∀ l ∈ r.launches, l ∈ r0.launches
  launches : s.LaunchesFrom t

/-- What changes neither tasks nor saves nor launches discards nothing. -/
theorem State.DiscardAside.of_eq {s t : State} (hcore : t.curCore = s.curCore) (hcur : t.curCtx = s.curCtx)
    (hctx : ∀ c k, t.ctx c k = s.ctx c k) (hsaves : t.saves = s.saves) (hlaunches : t.launches = s.launches) : s.DiscardAside t :=
  ⟨hcore, hcur, fun c k => by rw [hctx]; exact rfl, fun r hr => ⟨r, hsaves ▸ hr, rfl, fun _ h => h⟩, .of_eq hlaunches⟩

theorem State.DiscardAside.refl (s : State) : s.DiscardAside s := .of_eq rfl rfl (fun _ _ => rfl) rfl rfl

theorem State.DiscardAside.trans {s t u : State} (h : s.DiscardAside t) (g : t.DiscardAside u) : s.DiscardAside u where
  core := g.core.trans h.core
  curCtx := g.curCtx.trans h.curCtx
  ctx c k := by
    have hst := h.ctx c k
    have htu := g.ctx c k
    unfold Ctx.HiresAside at *
    rw [htu, hst]
  saves r hr := by
    obtain ⟨r1, hr1, hcore1, hsub1⟩ := g.saves r hr
    obtain ⟨r0, hr0, hcore, hsub⟩ := h.saves r1 hr1
    exact ⟨r0, hr0, hcore.trans hcore1, fun l hl => hsub l (hsub1 l hl)⟩
  launches := h.launches.trans g.launches

theorem State.DiscardAside.foldl {α : Type} {f : State → α → State} (h : ∀ (s : State) (a : α), s.DiscardAside (f s a)) (l : List α)
    (s : State) : s.DiscardAside (l.foldl f s) :=
  List.foldlRecOn l f (State.DiscardAside.refl s) fun _ ht a _ => ht.trans (h _ a)

theorem State.LeftAside.discard {s t : State} (h : s.LeftAside t) (hl : s.LaunchesFrom t) : s.DiscardAside t where
  core := h.keeps (f := fun s => s.curCore) fun _ _ => rfl
  curCtx := h.keeps (f := fun s => s.curCtx) fun _ _ => rfl
  ctx c k := by rw [h.ctx]; exact rfl
  saves r hr := ⟨r, (h.keeps (f := fun s => s.saves) fun _ _ => rfl) ▸ hr, rfl, fun _ h => h⟩
  launches := hl

section
variable (s : State)

theorem State.discard_updCore (c : Nat) (f : HomeCore → HomeCore) (h : ∀ x, (f x).ctxs = x.ctxs) : s.DiscardAside (s.updCore c f) :=
  .of_eq rfl rfl (s.ctx_updCore (h _)) rfl rfl

theorem State.discard_endSaved (c : Nat) (how : TaskEnd) (t : Ctx) : s.DiscardAside (s.endSaved c how t) := by
  unfold State.endSaved
  have hwithdraw := (s.left_withdraw c t.uid none).discard (.of_eq rfl)
  have hmarks := (State.left_clearMarksOf (s.withdraw c t.uid none) t.uid).discard (.of_eq rfl)
  exact ((hwithdraw.trans hmarks).trans ((State.left_countMessages ..).discard (State.launchesFrom_countMessages ..))).trans
    ((State.left_endAway ..).discard (State.launchesFrom_endAway ..))

theorem State.discard_endEntry (c : Nat) (f : Flight) (how : TaskEnd) : s.DiscardAside (s.endEntry c f how) :=
  (s.left_endEntry c f how).discard (s.launchesFrom_endEntry ..)

/-- The saves of a core once a launch is dropped. -/
theorem State.discard_without (c launch : Nat) : s.DiscardAside
    { s with saves := (s.saves.map (fun (r : SaveRec) => if r.core = c then r.without launch else r)).filter (fun r => !r.launches.isEmpty) } where
  core := rfl
  curCtx := rfl
  ctx _ _ := rfl
  saves r hr := by
    obtain ⟨r0, hr0, rfl⟩ := List.mem_map.mp (List.mem_of_mem_filter hr)
    refine ⟨r0, hr0, ?_, fun l hl => ?_⟩
    · split <;> rfl
    · split at hl
      · exact List.mem_of_mem_filter hl
      · exact hl
  launches := .of_eq rfl

/-- What follows the removal of a launch from the saves of a core. -/
theorem State.dropSaved_after (c launch : Nat) (how : TaskEnd) :
    State.DiscardAside
      { s with saves := (s.saves.map (fun (r : SaveRec) => if r.core = c then r.without launch else r)).filter (fun r => !r.launches.isEmpty) }
      (s.dropSaved c launch how) := by
  unfold State.dropSaved
  exact (State.discard_updCore _ c _ (by exact fun _ => rfl)).trans (.foldl (fun s t => s.discard_endSaved c how t) _ _)

theorem State.discard_dropSaved (c launch : Nat) (how : TaskEnd) : s.DiscardAside (s.dropSaved c launch how) :=
  (s.discard_without c launch).trans (s.dropSaved_after c launch how)

/-- No record of the core holds a launch that has been dropped. -/
theorem State.dropSaved_gone (c launch : Nat) (how : TaskEnd) : ∀ r ∈ (s.dropSaved c launch how).saves, r.core = c → launch ∉ r.launches := by
  intro r hr hc hmem
  obtain ⟨r1, hr1, hcore, hsub⟩ := (s.dropSaved_after c launch how).saves r hr
  obtain ⟨r0, -, rfl⟩ := List.mem_map.mp (List.mem_of_mem_filter hr1)
  have hin := hsub launch hmem
  by_cases e : r0.core = c
  · rw [if_pos e] at hin
    have hne := (List.mem_filter.mp hin).2
    simp at hne
  · rw [if_neg e] at hcore
    exact e (hcore.trans hc)

/-! ### Hires, entries and reports -/

theorem Ctx.hiresAside_finalSlot (t : Ctx) (h : Hire) (w : W64) : t.HiresAside (t.finalSlot h w) := by
  unfold Ctx.HiresAside Ctx.finalSlot
  split
  · split <;> rfl
  · rfl

theorem State.discard_setFinal (h : Hire) (w : W64) : s.DiscardAside (s.setFinal h w) where
  core := by
    unfold State.setFinal
    dsimp only
    split <;> rfl
  curCtx := by
    unfold State.setFinal
    dsimp only
    split <;> rfl
  ctx c k := by
    have hctx : (s.setFinal h w).ctx c k = (if (s.ctx h.core h.ctx).uid = h.uid ∧ (s.ctx h.core h.ctx).phase ≠ .free then
        s.setCtx h.core h.ctx ((s.ctx h.core h.ctx).finalSlot h w) else s).ctx c k := rfl
    rw [hctx]
    split
    · rw [State.ctx_setCtx_eq]
      split
      · next e =>
        rw [e.1, e.2]
        exact Ctx.hiresAside_finalSlot ..
      · exact rfl
    · exact rfl
  saves r hr := by
    have hsaves : (s.setFinal h w).saves = s.saves.map (fun r => { r with ctxs := r.ctxs.map (fun e => (e.1, e.2.finalSlot h w)) }) := by
      unfold State.setFinal
      dsimp only
      split <;> rfl
    rw [hsaves] at hr
    obtain ⟨r0, hr0, rfl⟩ := List.mem_map.mp hr
    exact ⟨r0, hr0, rfl, fun _ h => h⟩
  launches := .of_eq (by
    unfold State.setFinal
    dsimp only
    split <;> rfl)

theorem State.discard_sendContinuation (f : Flight) : s.DiscardAside (s.sendContinuation f) := by
  unfold State.sendContinuation
  split
  · have hdown := (s.left_countDown f.launch).discard (s.launchesFrom_countDown _)
    dsimp only
    split
    · exact hdown.trans (.of_eq rfl rfl (fun _ _ => rfl) rfl rfl)
    · exact hdown
  · exact .of_eq rfl rfl (fun _ _ => rfl) rfl rfl

theorem State.DiscardAside.continued {s t : State} (f : Flight) (p : Prop) [Decidable p] (h : s.DiscardAside t) :
    s.DiscardAside (if p then t.sendContinuation f else t) := by
  split
  · exact h.trans (t.discard_sendContinuation f)
  · exact h

theorem State.discard_sweepTiles (id : Nat) : s.DiscardAside (s.sweepTiles id) := by
  unfold State.sweepTiles
  split
  · exact .of_eq rfl rfl (fun _ _ => rfl) rfl rfl
  · exact .refl s

theorem State.discard_finishHire (hid state : Nat) : s.DiscardAside (s.finishHire hid state) := by
  unfold State.finishHire
  split
  · exact .refl s
  · next h _ =>
    refine State.DiscardAside.continued _ _ ?_
    refine State.DiscardAside.trans ?_ (State.discard_setFinal ..)
    refine State.DiscardAside.trans ?_ (State.discard_sweepTiles ..)
    exact .of_eq rfl rfl (fun _ _ => rfl) rfl rfl

theorem State.discard_discardHires (c launch : Nat) (uids : List Nat) : s.DiscardAside (s.discardHires c launch uids) := by
  unfold State.discardHires
  exact (State.DiscardAside.foldl (fun (s : State) (h : Hire) => s.discard_finishHire h.hid 0x22) _ s).trans
    (.of_eq rfl rfl (fun _ _ => rfl) rfl rfl)

end

end Sys2Proof.Machine
end

section
/-!
PROOF. `resume` and `tkill` (R452 to R454), and the system instructions together.
-/
namespace Sys2Proof.Machine

/-! ### The discard of the saved launches of a job -/

section
variable (s : State)

theorem State.Recorded.discard {s t : State} {q : Nat} (h : s.Recorded q t) : s.DiscardAside t := by
  have hkeep : ∀ {α : Type} (f : State → α), (∀ s t : State, f { s with
      dev := t.dev, mem := t.mem, poison := t.poison, order := t.order, l2 := t.l2, rchans := t.rchans, waiters := t.waiters,
      deferred := t.deferred } = f s) → f t = f s := by
    intro α f hf
    rw [h.other]
    exact hf s t
  exact .of_eq (hkeep (·.curCore) fun _ _ => rfl) (hkeep (·.curCtx) fun _ _ => rfl)
    (fun c k => hkeep (fun s => s.ctx c k) fun _ _ => rfl) (hkeep (·.saves) fun _ _ => rfl) (hkeep (·.launches) fun _ _ => rfl)

theorem State.discard_refillFrom (c : Nat) (l : List Flight) : ∀ s : State, s.DiscardAside (s.refillFrom c l) := by
  induction l with
  | nil => exact fun s => s.discard_updCore c (fun h => { h with ovf := [] }) fun _ => rfl
  | cons f rest ih =>
    intro s
    unfold State.refillFrom
    split
    · exact s.discard_updCore c (fun h => { h with ovf := f :: rest }) fun _ => rfl
    · dsimp only
      split
      · have hfree : s.DiscardAside s.freeWord.2 := .of_eq rfl rfl (fun _ _ => rfl) rfl rfl
        exact ((hfree.trans (State.recorded_report ..).discard).trans (State.discard_endEntry ..)).trans (ih _)
      · split
        · exact (s.discard_endEntry c f .lost).trans (ih _)
        · exact (s.discard_updCore c (fun h => { h with runq := h.runq ++ [_] }) fun _ => rfl).trans (ih _)

theorem State.discard_refill (c : Nat) : s.DiscardAside (s.refill c) := by
  unfold State.refill
  split
  · exact .refl s
  · exact State.discard_refillFrom ..

theorem State.discard_discardEntries (c launch : Nat) : s.DiscardAside (s.discardEntries c launch) := by
  unfold State.discardEntries
  refine State.DiscardAside.trans ?_ (State.discard_refill ..)
  exact (State.DiscardAside.foldl (fun s f => s.discard_endEntry c f .ended) _ s).trans
    (State.discard_updCore _ c _ (by exact fun _ => rfl))

/-- What follows the drop of the saved tasks of a launch. -/
theorem State.discardOn_after (launch c : Nat) : (s.dropSaved c launch .killed).DiscardAside (s.discardOn launch c) := by
  unfold State.discardOn
  exact (State.discard_discardHires ..).trans (State.discard_discardEntries ..)

theorem State.discard_discardOn (launch c : Nat) : s.DiscardAside (s.discardOn launch c) :=
  (s.discard_dropSaved c launch .killed).trans (s.discardOn_after launch c)

/-- No save of a core holds a launch that has been discarded there, then or later. -/
theorem State.discardOn_gone {t : State} {launch c : Nat} (h : (s.discardOn launch c).DiscardAside t) :
    ∀ r ∈ t.saves, r.core = c → launch ∉ r.launches := by
  intro r hr hc hmem
  obtain ⟨r0, hr0, hcore, hsub⟩ := ((s.discardOn_after launch c).trans h).saves r hr
  exact s.dropSaved_gone c launch .killed r0 hr0 (hcore.trans hc) (hsub _ hmem)

/-- Discards the launches of a list, each on the core named with it. -/
def State.discardAll (s : State) (l : List (Nat × Nat)) : State := l.foldl (fun s p => s.discardOn p.1 p.2) s

theorem State.discard_discardAll (l : List (Nat × Nat)) : s.DiscardAside (s.discardAll l) :=
  State.DiscardAside.foldl (fun (s : State) (p : Nat × Nat) => s.discard_discardOn p.1 p.2) l s

theorem State.discardAll_gone (l : List (Nat × Nat)) : ∀ (s : State), ∀ p ∈ l, ∀ r ∈ (s.discardAll l).saves, r.core = p.2 → p.1 ∉ r.launches := by
  induction l with
  | nil => exact fun _ p hp => absurd hp (by simp)
  | cons q l ih =>
    intro s p hp
    rcases List.mem_cons.mp hp with rfl | hp
    · exact s.discardOn_gone (State.discard_discardAll _ l)
    · exact ih (s.discardOn q.1 q.2) p hp

/-- A save holds a launch of a job of an address space. -/
def State.savedJob (s : State) (job asid : Nat) : Prop :=
  ∃ r ∈ s.saves, ∃ l ∈ r.launches, ∃ e ∈ s.launches, e.1 = l ∧ e.2.job = job ∧ e.2.asid = asid

/-- The saved launches of a job, each with the core of its record (R454). -/
def State.savedOf (s : State) (v : Nat) : List (Nat × Nat) :=
  let ids := (s.launches.filter fun e => e.2.job == bitsOf v 31 0 && e.2.asid == bitsOf v 37 32).map (·.1)
  s.saves.flatMap fun r => (r.launches.filter ids.contains).map fun l => (l, r.core)

theorem State.mem_savedOf {v : Nat} {p : Nat × Nat} : p ∈ s.savedOf v ↔
    ∃ r ∈ s.saves, r.core = p.2 ∧ p.1 ∈ r.launches ∧
      ∃ e ∈ s.launches, e.1 = p.1 ∧ e.2.job = v % 2 ^ 32 ∧ e.2.asid = v / 2 ^ 32 % 2 ^ 6 := by
  have hjob : bitsOf v 31 0 = v % 2 ^ 32 := bitsOf_low v 31
  have hasid : bitsOf v 37 32 = v / 2 ^ 32 % 2 ^ 6 := rfl
  obtain ⟨a, b⟩ := p
  simp only [State.savedOf, hjob, hasid, List.mem_flatMap, List.mem_map, List.mem_filter, List.contains_iff_mem, Bool.and_eq_true, beq_iff_eq,
    Prod.mk.injEq]
  constructor
  · rintro ⟨r, hr, l, ⟨hl, e, ⟨he, hj, ha⟩, hid⟩, rfl, rfl⟩
    exact ⟨r, hr, rfl, hl, e, he, hid, hj, ha⟩
  · rintro ⟨r, hr, hc, hl, e, he, hid, hj, ha⟩
    exact ⟨r, hr, a, ⟨hl, e, ⟨he, hj, ha⟩, hid⟩, rfl, hc⟩

theorem State.savedOf_empty {v : Nat} : s.savedOf v = [] ↔ ¬s.savedJob (v % 2 ^ 32) (v / 2 ^ 32 % 2 ^ 6) := by
  rw [List.eq_nil_iff_forall_not_mem]
  constructor
  · rintro h ⟨r, hr, l, hl, e, he, hid, hj, ha⟩
    exact h (l, r.core) (s.mem_savedOf.mpr ⟨r, hr, rfl, hl, e, he, hid, hj, ha⟩)
  · rintro h ⟨l, c⟩ hp
    obtain ⟨r, hr, -, hl, e, he, hid, hj, ha⟩ := s.mem_savedOf.mp hp
    exact h ⟨r, hr, l, hl, e, he, hid, hj, ha⟩

theorem State.discardJob_eq (v : Nat) :
    s.discardJob v = if (s.savedOf v).isEmpty then (s, 1) else (s.discardAll (s.savedOf v), 0) := rfl

/-- Nothing of the job is saved any more. -/
theorem State.discardAll_unsaved (v : Nat) : ¬(s.discardAll (s.savedOf v)).savedJob (v % 2 ^ 32) (v / 2 ^ 32 % 2 ^ 6) := by
  rintro ⟨r, hr, l, hl, e, he, hid, hj, ha⟩
  have haside := s.discard_discardAll (s.savedOf v)
  obtain ⟨r0, hr0, hcore, hsub⟩ := haside.saves r hr
  obtain ⟨e0, he0, hid0, hj0, ha0⟩ := haside.launches.origin e he
  have hmem : (l, r0.core) ∈ s.savedOf v := s.mem_savedOf.mpr ⟨r0, hr0, rfl, hsub l hl, e0, he0, hid0.trans hid, hj0.trans hj, ha0.trans ha⟩
  exact State.discardAll_gone _ s _ hmem r hr hcore.symm hl

end

/-! ### The task that a token names (R453) -/

/-- The core and the context of a token, and whether it names one. -/
def tokCore (tok : Nat) : Nat := tok / 2 ^ 4 % 2 ^ 11
def tokCtx (tok : Nat) : Nat := tok % 2 ^ 4
def tokNames (tok : Nat) : Prop := tok / 2 ^ 32 = 0 ∧ tok / 2 ^ 15 % 2 = 0 ∧ tokCore tok ≤ 1535

section
variable {tok : Nat} (hlt : tok < 2 ^ 64)
include hlt

omit hlt in
theorem tokenParts_named (h : tokNames tok) : tokenParts tok = some (tokCore tok, tokCtx tok, tok / 2 ^ 16 % 2 ^ 16) := by
  obtain ⟨hhigh, hbit, hcore⟩ := h
  have h1 : bitsOf tok 63 32 = 0 := by unfold bitsOf; omega
  have h2 : bitOf tok 15 = false := by rw [bitOf, hbit]; rfl
  have h3 : ¬1535 < bitsOf tok 14 4 := Nat.not_lt.mpr hcore
  have hctx : bitsOf tok 3 0 = tokCtx tok := bitsOf_low tok 3
  rw [tokenParts, if_neg (by simp [h1, h2, h3]), hctx]
  rfl

theorem tokenParts_unnamed (h : ¬tokNames tok) : tokenParts tok = none := by
  refine if_pos ?_
  by_contra hcon
  push Not at hcon
  obtain ⟨h1, h2, h3⟩ := hcon
  refine h ⟨?_, ?_, h3⟩
  · unfold bitsOf at h1
    omega
  · have hbit : ¬tok / 2 ^ 15 % 2 = 1 := fun e => h2 (beq_iff_eq.mpr e)
    omega

variable {s : State}

omit hlt in
theorem State.faultedTask_there (hn : tokNames tok) (hp : (s.ctx (tokCore tok) (tokCtx tok)).phase = .faulted)
    (hf : (s.ctx (tokCore tok) (tokCtx tok)).fseq = tok / 2 ^ 16 % 2 ^ 16) :
    s.faultedTask tok = some (tokCore tok, tokCtx tok, none, s.ctx (tokCore tok) (tokCtx tok)) := by
  rw [State.faultedTask, tokenParts_named hn]
  exact if_pos (by simp [Ctx.faultedAs, hp, hf])

theorem State.faultedTask_none
    (h : ¬(tokNames tok ∧ (s.ctx (tokCore tok) (tokCtx tok)).phase = .faulted ∧
      (s.ctx (tokCore tok) (tokCtx tok)).fseq = tok / 2 ^ 16 % 2 ^ 16))
    (hs : ¬tokNames tok ∨ s.saves = []) : s.faultedTask tok = none := by
  by_cases hn : tokNames tok
  · have hsaves : s.saves = [] := hs.resolve_left (not_not.mpr hn)
    have hno : ¬(s.ctx (tokCore tok) (tokCtx tok)).faultedAs (tok / 2 ^ 16 % 2 ^ 16) = true := by
      simp only [Ctx.faultedAs, Bool.and_eq_true, beq_iff_eq]
      exact fun e => h ⟨hn, e⟩
    rw [State.faultedTask, tokenParts_named hn]
    dsimp only
    rw [if_neg hno, hsaves]
    rfl
  · rw [State.faultedTask, tokenParts_unnamed hlt hn]

end

/-! ### `resume` and `tkill` -/

section
variable {s : State} (h : s.Plain) (hsup : s.cur.sup = true) (hopen : s.Open .package) {st : Fin 8} {rd rs1 rs2 : Fin 32}
include hsup

theorem State.sup_clear (st : Nat) (reads writes : List RName) :
    Desc.Clear { st := st, reads := reads, writes := writes, sup := true } s := by
  constructor <;> simp [hsup]

include h hopen

omit hsup in
theorem State.exec_resume_open : ∃ body,
    exec (.resume st rd rs1 rs2) s = s.issueWith { st := st, reads := [.x rs1, .x rs2], writes := [.x rd], sup := true } body ∧
    body s = .done (s.resumeTask (s.X rs1).toNat (if rs2 = 0 then none else some (s.X rs2).toNat)).1
      (nowX rd (w64 (s.resumeTask (s.X rs1).toNat (if rs2 = 0 then none else some (s.X rs2).toNat)).2)) none :=
  ⟨_, rfl, State.afterGate_open h.wait fun _ e => Option.some.inj e ▸ hopen⟩

/-- What `tkill` does with the operand of its job or token, in mode `m` (R454). -/
def State.tkillIn (s : State) (v m : Nat) : State × Nat := if m = 0 then s.killFaulted v else if m = 1 then s.discardJob v else (s, 3)

omit hsup in
theorem State.exec_tkill_open : ∃ body,
    exec (.tkill st rd rs1 rs2) s = s.issueWith { st := st, reads := [.x rs1, .x rs2], writes := [.x rd], sup := true } body ∧
    body s = .done (s.tkillIn (s.X rs1).toNat (if rs2 = 0 then 0 else (s.X rs2).toNat)).1
      (nowX rd (w64 (s.tkillIn (s.X rs1).toNat (if rs2 = 0 then 0 else (s.X rs2).toNat)).2)) none :=
  ⟨_, rfl, State.afterGate_open h.wait fun _ e => Option.some.inj e ▸ hopen⟩

theorem State.resume_computes {v : Nat} (hr : s.resumeTask (s.X rs1).toNat (if rs2 = 0 then none else some (s.X rs2).toNat) = (s, v)) :
    s.Computes (.resume st rd rs1 rs2) st rd (w64 v) := by
  obtain ⟨body, he, hb⟩ := State.exec_resume_open h hopen (st := st) (rd := rd) (rs1 := rs1) (rs2 := rs2)
  rw [hr] at hb
  unfold State.Computes
  rw [he]
  exact State.xresult h (State.sup_clear hsup ..) rfl hb (Or.inr rfl)

theorem State.tkill_computes {v : Nat} (hr : s.tkillIn (s.X rs1).toNat (if rs2 = 0 then 0 else (s.X rs2).toNat) = (s, v)) :
    s.Computes (.tkill st rd rs1 rs2) st rd (w64 v) := by
  obtain ⟨body, he, hb⟩ := State.exec_tkill_open h hopen (st := st) (rd := rd) (rs1 := rs1) (rs2 := rs2)
  rw [hr] at hb
  unfold State.Computes
  rw [he]
  exact State.xresult h (State.sup_clear hsup ..) rfl hb (Or.inr rfl)

/-- `resume` that changes the state, but not the task at issue, gives its result to that task. -/
theorem State.resume_gives {u : State} {v : Nat} (hr : s.resumeTask (s.X rs1).toNat (if rs2 = 0 then none else some (s.X rs2).toNat) = (u, v))
    (hcur : s.cur.HiresAside u.cur) : ∃ t, exec (.resume st rd rs1 rs2) s = .next t ∧ s.Gives u t st rd (w64 v) := by
  obtain ⟨body, he, hb⟩ := State.exec_resume_open h hopen (st := st) (rd := rd) (rs1 := rs1) (rs2 := rs2)
  rw [hr] at hb
  rw [he]
  exact State.issueWith_gives h.pend h.var h.pp (State.sup_clear hsup ..) rfl rfl hb (by rw [hcur]; exact h.pend)
    (Or.inr (by rw [hcur]; simp [h.running]))

theorem State.tkill_gives {u : State} {v : Nat} (hr : s.tkillIn (s.X rs1).toNat (if rs2 = 0 then 0 else (s.X rs2).toNat) = (u, v))
    (hcur : s.cur.HiresAside u.cur) : ∃ t, exec (.tkill st rd rs1 rs2) s = .next t ∧ s.Gives u t st rd (w64 v) := by
  obtain ⟨body, he, hb⟩ := State.exec_tkill_open h hopen (st := st) (rd := rd) (rs1 := rs1) (rs2 := rs2)
  rw [hr] at hb
  rw [he]
  exact State.issueWith_gives h.pend h.var h.pp (State.sup_clear hsup ..) rfl rfl hb (by rw [hcur]; exact h.pend)
    (Or.inr (by rw [hcur]; simp [h.running]))

omit h hopen hsup in
theorem State.Gives.after {u t : State} {st rd : Nat} {v : W64} (hg : s.Gives u t st rd v) (hcur : s.cur.HiresAside u.cur) :
    (rd ≠ 0 → t.X rd = v) ∧ t.cur.pc = s.cur.pc + 4 :=
  ⟨hg.value, hg.pc.trans (by rw [hcur])⟩

end

/-- The context of a task that `resume` sends on (R453). -/
def Ctx.resumed (t : Ctx) (pc cycle : Nat) : Ctx :=
  { t with pc := BitVec.ofNat 16 pc, phase := .running, wait := .settle, waitFrom := none, window := [], readyAt := cycle }

section
variable {s : State} (h : s.Plain) (hsup : s.cur.sup = true) (hopen : s.Open .package) {st : Fin 8} {rd rs1 rs2 : Fin 32} {c k : Nat}
  (hrun : (s.ctx c k).phase = .faulted) (hthere : s.faultedTask (s.X rs1).toNat = some (c, k, none, s.ctx c k))
include h hrun

/-- A faulted task is not the one at issue. -/
theorem State.Plain.elsewhere : ¬(s.curCore = c ∧ s.curCtx = k) := by
  rintro ⟨rfl, rfl⟩
  have hrunning : (s.ctx s.curCore s.curCtx).phase = .running := h.running
  rw [hrunning] at hrun
  cases hrun

include hsup hopen hthere

omit hrun in
theorem State.resume_bad (hbad : (if rs2 = 0 then none else some (s.X rs2).toNat).getD (s.ctx c k).epc % 4 ≠ 0 ∨
    65532 < (if rs2 = 0 then none else some (s.X rs2).toNat).getD (s.ctx c k).epc) : s.Computes (.resume st rd rs1 rs2) st rd 2 := by
  refine State.resume_computes h hsup hopen (v := 2) ?_
  rw [State.resumeTask, hthere]
  exact if_pos hbad

theorem State.resume_good {pc : Nat} (hpc : (if rs2 = 0 then none else some (s.X rs2).toNat).getD (s.ctx c k).epc = pc) (hal : pc % 4 = 0)
    (hle : pc ≤ 65532) : ∃ t, exec (.resume st rd rs1 rs2) s = .next t ∧ (t.ctx c k).phase = .running ∧ (t.ctx c k).pc.toNat = pc ∧
      (t.ctx c k).x = (s.ctx c k).x ∧ (t.ctx c k).status = (s.ctx c k).status ∧ (t.ctx c k).pfx = (s.ctx c k).pfx ∧
      (∀ l ∈ (t.core c).l1, ∀ e ∈ l.bytes, e.2.dirty = true) ∧ (rd ≠ 0 → t.X rd = 0) ∧ t.cur.pc = s.cur.pc + 4 ∧ t.mem = s.mem := by
  let v := s.setCtx c k ((s.ctx c k).resumed pc s.cycle)
  let u := v.acquireAt c (some .package)
  have haside : v.AcquireAside u := v.acquireAside c (some .package)
  have hres : s.resumeTask (s.X rs1).toNat (if rs2 = 0 then none else some (s.X rs2).toNat) = (u, 0) := by
    rw [State.resumeTask, hthere]
    dsimp only
    rw [hpc, if_neg (by omega)]
    rfl
  have hne := State.Plain.elsewhere h hrun
  have hplace : u.curCore = s.curCore ∧ u.curCtx = s.curCtx := by rw [haside.rest]; exact ⟨rfl, rfl⟩
  have hcur : u.cur = s.cur := by
    rw [State.cur, hplace.1, hplace.2, haside.ctx, State.ctx_setCtx_ne _ _ hne]
    rfl
  have hside : s.cur.HiresAside u.cur := by rw [hcur]; exact rfl
  obtain ⟨t, he, hg⟩ := State.resume_gives h hsup hopen hres hside (st := st) (rd := rd)
  obtain ⟨hvalue, hnext⟩ := hg.after hside
  have hctx : t.ctx c k = (s.ctx c k).resumed pc s.cycle := by
    rw [hg.ctx c k (fun e => hne (by rw [e.1, e.2]; exact ⟨hplace.1.symm, hplace.2.symm⟩)), haside.ctx, State.ctx_setCtx]
  have hl1 : (t.core c).l1 = (u.core c).l1 := by rw [hg.core c]
  have hmem : t.mem = s.mem := (hg.keeps (f := fun s => s.mem) fun _ _ => rfl).trans (by rw [haside.rest]; rfl)
  refine ⟨t, he, by rw [hctx]; rfl, ?_, by rw [hctx]; rfl, by rw [hctx]; rfl, by rw [hctx]; rfl, ?_, fun hrd => hvalue fun e => hrd (Fin.ext e),
    hnext, hmem⟩
  · rw [hctx]
    exact (BitVec.toNat_ofNat ..).trans (Nat.mod_eq_of_lt (by omega))
  · rw [hl1]
    exact State.acquireAt_dirty rfl

/-- `tkill` of a faulted task kills it (R454). -/
theorem State.tkill_kills (hm : (if rs2 = 0 then 0 else (s.X rs2).toNat) = 0) (hpair : (s.ctx c k).paired = false) (hpools : s.pools = [])
    (hgroups : (s.ctx c k).groups = []) (hmsgs : ∀ f ∈ s.msgs, f.uid = (s.ctx c k).uid → f.counted = true) :
    ∃ t, exec (.tkill st rd rs1 rs2) s = .next t ∧ (t.ctx c k).phase = .free ∧ (rd ≠ 0 → t.X rd = 0) ∧ t.cur.pc = s.cur.pc + 4 ∧
      (∀ l, s.launch? (s.ctx c k).launch = some l → ∃ n, t.launch? (s.ctx c k).launch = some n ∧
        n.outstanding = l.outstanding - 1 ∧ n.killed = l.killed + 1) := by
  let u := s.killTask c k
  have hq : s.poolQueue (c / 8) = [] := by rw [State.poolQueue, hpools]; rfl
  have hres : s.tkillIn (s.X rs1).toNat (if rs2 = 0 then 0 else (s.X rs2).toNat) = (u, 0) := by
    rw [State.tkillIn, if_pos hm, State.killFaulted, hthere]
  have hne := State.Plain.elsewhere h hrun
  have hcore : u.curCore = s.curCore := (s.task_killTask c k).keeps (f := fun s => s.curCore) fun _ _ => rfl
  have hcctx : u.curCtx = s.curCtx := (s.task_killTask c k).keeps (f := fun s => s.curCtx) fun _ _ => rfl
  have hcur : u.cur = s.cur := by
    rw [State.cur, hcore, hcctx, State.ctx_killTask_ne hq hne (by simp [hpair])]
    rfl
  have hside : s.cur.HiresAside u.cur := by rw [hcur]; exact rfl
  obtain ⟨t, he, hg⟩ := State.tkill_gives h hsup hopen hres hside (st := st) (rd := rd)
  obtain ⟨hvalue, hnext⟩ := hg.after hside
  refine ⟨t, he, ?_, fun hrd => hvalue fun e => hrd (Fin.ext e), hnext, fun l hl => ?_⟩
  · rw [hg.ctx c k (fun e => hne (by rw [e.1, e.2]; exact ⟨hcore.symm, hcctx.symm⟩)), State.ctx_killTask_now hq hgroups]
    rfl
  · have hkept : t.launch? (s.ctx c k).launch = u.launch? (s.ctx c k).launch := hg.keeps (f := fun t => t.launch? (s.ctx c k).launch) fun _ _ => rfl
    exact ⟨_, hkept.trans (State.launch?_killTask hq hgroups (fun f hf e => .inl (hmsgs f hf e)) hl), rfl, rfl⟩

end

section
variable {s : State} (h : s.Plain) (hsup : s.cur.sup = true) (hopen : s.Open .package) {st : Fin 8} {rd rs1 rs2 : Fin 32}
include h hsup hopen

/-- `tkill` of a job discards what is saved of it (R454). -/
theorem State.tkill_discards (hm : (if rs2 = 0 then 0 else (s.X rs2).toNat) = 1)
    (hsaved : s.savedJob ((s.X rs1).toNat % 2 ^ 32) ((s.X rs1).toNat / 2 ^ 32 % 2 ^ 6)) :
    ∃ t, exec (.tkill st rd rs1 rs2) s = .next t ∧ (rd ≠ 0 → t.X rd = 0) ∧ t.cur.pc = s.cur.pc + 4 ∧
      ¬t.savedJob ((s.X rs1).toNat % 2 ^ 32) ((s.X rs1).toNat / 2 ^ 32 % 2 ^ 6) := by
  let v := (s.X rs1).toNat
  let u := s.discardAll (s.savedOf v)
  have hne : ¬(s.savedOf v).isEmpty = true := by
    rw [List.isEmpty_iff, s.savedOf_empty]
    exact not_not.mpr hsaved
  have hres : s.tkillIn v (if rs2 = 0 then 0 else (s.X rs2).toNat) = (u, 0) := by
    rw [State.tkillIn, if_neg (by rw [hm]; decide), if_pos hm, State.discardJob_eq, if_neg hne]
  have haside := s.discard_discardAll (s.savedOf v)
  have hside : s.cur.HiresAside u.cur := by
    rw [State.cur, State.cur, haside.core, haside.curCtx]
    exact haside.ctx ..
  obtain ⟨t, he, hg⟩ := State.tkill_gives h hsup hopen hres hside (st := st) (rd := rd)
  obtain ⟨hvalue, hnext⟩ := hg.after hside
  have hkeep : ∀ j a, t.savedJob j a ↔ u.savedJob j a := by
    intro j a
    have hs : t.saves = u.saves := hg.keeps (f := fun s => s.saves) fun _ _ => rfl
    have hl : t.launches = u.launches := hg.keeps (f := fun s => s.launches) fun _ _ => rfl
    unfold State.savedJob
    rw [hs, hl]
  exact ⟨t, he, fun hrd => hvalue fun e => hrd (Fin.ext e), hnext, fun e => s.discardAll_unsaved v ((hkeep _ _).mp e)⟩

theorem State.tkill_unsaved (hm : (if rs2 = 0 then 0 else (s.X rs2).toNat) = 1)
    (hsaved : ¬s.savedJob ((s.X rs1).toNat % 2 ^ 32) ((s.X rs1).toNat / 2 ^ 32 % 2 ^ 6)) : s.Computes (.tkill st rd rs1 rs2) st rd 1 := by
  refine State.tkill_computes h hsup hopen (v := 1) ?_
  rw [State.tkillIn, if_neg (by rw [hm]; decide), if_pos hm, State.discardJob_eq, s.savedOf_empty.mpr hsaved]
  rfl

end

end Sys2Proof.Machine

namespace Sys2Proof
open Machine

/-- Settles O30: each operation runs in a task that no result holds back, and what it leaves of the task at issue is what one written
register changes; the discard of a job goes through the launches that are saved of it. -/
theorem systemInstructions : Obligations.SystemInstructions := by
  refine ⟨?_, ?_⟩
  · intro s h st rd rs1 code pc x dest ovld lwait others
    have hlive : s.here.othersLive s.curCtx = true ↔ others := HomeCore.othersLive_iff ..
    refine ⟨fun hk => State.trap_spec h hk st code, State.traps_of_body h (exec_brk ..) (h.clear st [] []) rfl rfl rfl,
      fun hth hpc => State.eret_completes h hth hpc st, fun hth hpc => State.eret_traps h hth hpc st,
      State.ifence_completes h st rs1, State.ifence_traps h st rs1, fun conf hconf => ⟨fun hx => ?_, fun hx he => ?_, fun hx hne ho => ?_,
        fun hx hne ho hnone => ?_, fun text hx hne ho htext => ?_⟩, fun hk => ⟨?_, ?_⟩⟩
    · exact State.ovld_computes h hconf (if_pos hx)
    · exact State.ovld_computes h hconf ((if_neg (Nat.not_lt.mpr hx)).trans (if_pos he))
    · exact State.ovld_holds h hconf hx hne (hlive.mpr ho)
    · refine State.ovld_computes h hconf ((if_neg (Nat.not_lt.mpr hx)).trans ((if_neg hne).trans ((if_neg (mt hlive.mp ho)).trans ?_)))
      rw [show s.overlay conf.image (s.X rs1).toNat = none from hnone]
    · exact State.ovld_loads h hconf hx hne (by rw [Bool.eq_false_iff]; exact mt hlive.mp ho) htext
    · obtain ⟨t, he, hphase, hwait, hpc, hx, hmem, -⟩ :=
        State.lwait_parks h.pend h.var h.pp hk (fun e => by rw [h.wait] at e; cases e.1) (st := st) (rd := rd) (rs1 := rs1)
      exact ⟨t, (exec_lwait ..).trans he, hphase, hwait, hpc, hx, hmem⟩
    · rintro u c k t rfl hphase hwait hpend hvar hpp hkill hready hword
      exact ⟨State.wake_goes hphase hwait hpend hvar hpp hkill hready hword, State.wake_waits hphase hwait hpend hvar hpp hkill hready hword⟩
  · intro s h hsup hopen st rd rs1 rs2 tok c k m resume tkill named there saved pc
    have hlt : tok < 2 ^ 64 := (s.X rs1).isLt
    have hfound : there → s.faultedTask tok = some (c, k, none, s.ctx c k) := fun ⟨hn, hp, hf⟩ => State.faultedTask_there hn hp hf
    have hpc : (if rs2 = 0 then none else some (s.X rs2).toNat).getD (s.ctx c k).epc = pc := by
      simp only [pc]
      split <;> rfl
    refine ⟨fun hno hs => ?_, fun ht hbad => ?_, fun ht hal hle => ?_, fun ht hm hpair hpools _ hgroups hmsgs => ?_, State.tkill_unsaved h hsup hopen,
      State.tkill_discards h hsup hopen, fun hm => ?_⟩
    · have hnone : s.faultedTask tok = none := State.faultedTask_none hlt hno hs
      refine ⟨State.resume_computes h hsup hopen (v := 1) ?_, fun hm => State.tkill_computes h hsup hopen (v := 1) ?_⟩
      · rw [State.resumeTask, hnone]
      · rw [State.tkillIn, if_pos hm, State.killFaulted, hnone]
    · exact State.resume_bad h hsup hopen (hfound ht) (by rw [hpc]; exact hbad)
    · exact State.resume_good h hsup hopen ht.2.1 (hfound ht) hpc hal hle
    · exact State.tkill_kills h hsup hopen ht.2.1 (hfound ht) hm hpair hpools hgroups hmsgs
    · refine State.tkill_computes h hsup hopen (v := 3) ?_
      have hm' : 2 ≤ (if rs2 = 0 then 0 else (s.X rs2).toNat) := hm
      rw [State.tkillIn, if_neg (by omega), if_neg (by omega)]

end Sys2Proof
end

section
/-!
SUPPORT. What the requests of engines change of a machine, and the single steps of moving (R154, R164, R382).
-/
namespace Sys2Proof.Machine

/-! ### What engines leave as it is -/

/-- Two states of which the second has sent requests of engines and been granted leases. -/
structure State.EngineAside (s t : State) : Prop where
  rest : t = { s with chans := t.chans, engOut := t.engOut, nextId := t.nextId, leases := t.leases, horizon := t.horizon }

theorem State.EngineAside.refl (s : State) : s.EngineAside s := ⟨rfl⟩

theorem State.EngineAside.trans {s t u : State} (h : s.EngineAside t) (g : t.EngineAside u) : s.EngineAside u := by
  refine ⟨?_⟩
  rw [g.rest, h.rest]

theorem State.EngineAside.mem {s t : State} (h : s.EngineAside t) : t.mem = s.mem := by rw [h.rest]

theorem State.EngineAside.cores {s t : State} (h : s.EngineAside t) : t.cores = s.cores := by rw [h.rest]

section
variable (s : State)

theorem State.engineAside_raiseHorizon (die t : Nat) : s.EngineAside (s.raiseHorizon die t) := by
  unfold State.raiseHorizon
  split
  · exact .refl s
  · exact ⟨rfl⟩

theorem State.engineAside_grant (die slice asid va : Nat) (tr : Tr) : s.EngineAside (s.grant die slice asid va tr) := by
  unfold State.grant
  dsimp only
  split
  · exact .refl s
  · split
    · exact s.engineAside_raiseHorizon ..
    · exact (s.engineAside_raiseHorizon die tr.exp).trans ⟨rfl⟩

theorem State.engineAside_translate (die asid va : Nat) (w : Bool) : s.EngineAside (s.translate die asid va w none).2 := by
  unfold State.translate
  split
  · exact .refl s
  · split
    · exact .refl s
    · exact s.engineAside_grant ..

theorem State.engineAside_walkPage (die asid va : Nat) (w : Bool) : s.EngineAside (s.walkPage die asid va w).2 := by
  unfold State.walkPage
  split
  · exact .refl s
  · split
    · exact .refl s
    · exact s.engineAside_grant ..

theorem State.engineAside_engineTr (held : Map Tr) (die asid va : Nat) (w : Bool) (need : Nat) (keep : Bool) :
    s.EngineAside (s.engineTr held die asid va w need keep).2.2 := by
  have hwalk := s.engineAside_walkPage die asid (va / 65536 * 65536) w
  have htr := s.engineAside_translate die asid (va / 65536 * 65536) w
  unfold State.engineTr
  dsimp only
  split
  · split
    · split
      · next e => rw [e] at hwalk; exact hwalk
      · next e => rw [e] at hwalk; exact hwalk
    · split
      · exact .refl s
      · split
        · exact s.engineAside_raiseHorizon ..
        · exact .refl s
  · split
    · next u e =>
      rw [e] at htr
      split
      · next e' =>
        split at e'
        · cases e'
        · have := u.engineAside_walkPage die asid (va / 65536 * 65536) w
          rw [e'] at this
          exact htr.trans this
      · next e' =>
        split at e'
        · cases e'
          exact htr
        · have := u.engineAside_walkPage die asid (va / 65536 * 65536) w
          rw [e'] at this
          exact htr.trans this
    · split
      · next e => rw [e] at htr; exact htr
      · next e => rw [e] at htr; exact htr

theorem State.engineAside_enginePlace (held : Map Tr) (die core asid launch va n : Nat) (w keep : Bool) :
    s.EngineAside (s.enginePlace held die core asid launch va n w keep).2.2 := by
  have htr := s.engineAside_engineTr held die asid va w (if w then 3000 else 0) keep
  unfold State.enginePlace
  split
  · split
    · exact .refl s
    · split <;> exact .refl s
  · split
    · exact .refl s
    · split
      · next e => rw [e] at htr; exact htr
      · next e => rw [e] at htr; exact htr

theorem State.engineAside_workPlace {w : Worker} {held : Map Tr} {va n : Nat} {write : Bool} {x : Except Nat EngPlace}
    {k : Map Tr} {u : State} (h : s.workPlace w held va n write = (x, k, u)) : s.EngineAside u := by
  have := s.engineAside_enginePlace held (agentDie w.agent) w.core w.asid w.launch va n write false
  unfold State.workPlace at h
  rwa [h] at this

theorem State.engineAside_engineSend (a : Agent) (h : Home) (op : HomeOp) (addr size va asid : Nat) (exp : Option Nat) :
    s.EngineAside (s.engineSend a h op addr size va asid exp).2 := ⟨rfl⟩

theorem State.engineAside_askUnit (w : Worker) (held : Map Tr) (l : EngLoad) : s.EngineAside (s.askUnit w held l).2.2 := by
  unfold State.askUnit
  split
  · exact .refl s
  · exact .refl s
  · dsimp only
    split
    · next e => exact s.engineAside_workPlace e
    · next e => exact (s.engineAside_workPlace e).trans (State.engineAside_engineSend ..)

theorem State.engineAside_askAll (w : Worker) (fuel : Nat) : ∀ (s : State) (held : Map Tr) (l : EngLoad),
    s.EngineAside (s.askAll w held l fuel).2.2 := by
  induction fuel with
  | zero => exact fun s _ _ => .refl s
  | succ fuel ih =>
    intro s held l
    unfold State.askAll
    split
    · exact .refl s
    · have hunit := s.engineAside_askUnit w held l
      split
      next e =>
      rw [e] at hunit
      exact hunit.trans (ih ..)

theorem State.engineAside_engineAsk (w : Worker) (held : Map Tr) (va n : Nat) : s.EngineAside (s.engineAsk w held va n).2.2 :=
  State.engineAside_askAll w _ s held _

end

/-! ### One request -/

/-- The request that an engine sends to a place. -/
theorem State.engineSend_last (s : State) (a : Agent) (h : Home) (op : HomeOp) (addr size va asid : Nat) (exp : Option Nat) :
    ∃ r, ((s.engineSend a h op addr size va asid exp).2.chan a h).getLast? = some r ∧
      r.id = (s.engineSend a h op addr size va asid exp).1 ∧ r.op = op ∧ r.addr = addr ∧ r.size = size ∧ r.exp = exp :=
  ⟨_, State.chan_add_last _ a h _, rfl, rfl, rfl, rfl, rfl⟩

section
variable {s u : State} {w : Worker} {held k : Map Tr}

/-- A unit of a read whose place is found is asked for there. -/
theorem State.askUnit_read {l : EngLoad} {va n : Nat} {rest : List EngUnit} {p : EngPlace} (hl : l.todo = .read va n :: rest)
    (hp : s.workPlace w held (normVa w.core va) n false = (.ok p, k, u)) :
    ∃ t r l', s.askUnit w held l = (l', k, t) ∧ (t.chan w.agent (u.placeHome p)).getLast? = some r ∧ r.op = .read ∧
      r.addr = p.addr ∧ r.size = n := by
  obtain ⟨r, hlast, -, hop, haddr, hsize, -⟩ :=
    u.engineSend_last w.agent (u.placeHome p) .read p.addr n (normVa w.core va) w.asid p.exp
  refine ⟨_, r, ?load, ?asks, hlast, hop, haddr, hsize⟩
  case asks =>
    unfold State.askUnit
    rw [hl]
    dsimp only
    rw [hp]

/-- A write of one piece whose place is found is appended there. -/
theorem State.engineWrite_one {va : Nat} {b : List PByte} {p : EngPlace}
    (hp : s.workPlace w held (normVa w.core (va % 2 ^ 64)) b.length true = (.ok p, k, u)) :
    ∃ t r, s.engineWrite w held [] [(va, b)] = (none, [r.id], k, t) ∧ (t.chan w.agent (u.placeHome p)).getLast? = some r ∧
      r.op = .write b ∧ r.addr = p.addr ∧ r.exp = p.exp := by
  obtain ⟨r, hlast, hid, hop, haddr, -, hexp⟩ :=
    u.engineSend_last w.agent (u.placeHome p) (.write b) p.addr b.length (normVa w.core (va % 2 ^ 64)) w.asid p.exp
  refine ⟨_, r, ?_, hlast, hop, haddr, hexp⟩
  simp only [State.engineWrite, hp]
  rw [hid]
  rfl

/-- A write of one piece whose place is not found faults there. -/
theorem State.engineWrite_refused {va d : Nat} {b : List PByte}
    (hp : s.workPlace w held (normVa w.core (va % 2 ^ 64)) b.length true = (.error d, k, u)) :
    s.engineWrite w held [] [(va, b)] = (some (d, normVa w.core (va % 2 ^ 64)), [], k, u) := by
  simp only [State.engineWrite, hp]

end

/-! ### Units of reads and writes (R164) -/

theorem readUnits_cons {a n : Nat} (hn : 0 < n) (fuel : Nat) :
    readUnits a n (fuel + 1) =
      .read (a % 2 ^ 64) (min n (8 - a % 8)) :: readUnits (a + min n (8 - a % 8)) (n - min n (8 - a % 8)) fuel := by
  simp [readUnits, Nat.ne_of_gt hn]

/-- Bytes within one aligned unit are one piece. -/
theorem cutUnits_one {a : Nat} {b : List PByte} (hb : b ≠ []) (h : a % 8 + b.length ≤ 8) (fuel : Nat) :
    cutUnits a b (fuel + 1) = [(a, b)] := by
  have hlen : b.length ≤ 8 - a % 8 := by omega
  have hrest (x : Nat) : cutUnits x [] fuel = [] := by cases fuel <;> rfl
  cases b with
  | nil => exact absurd rfl hb
  | cons y ys =>
    simp only [cutUnits]
    rw [List.take_of_length_le hlen, List.drop_of_length_le hlen, hrest]

theorem length_clean (b : List Byte) : (PByte.clean b).length = b.length := by simp [PByte.clean]

theorem length_scatterBytes (r : List W64) (cvt : Option Nat) (j : Nat) : ∀ b, (scatterBytes r cvt j b).length = j * recEb r := by
  induction j with
  | zero => intro b; simp [scatterBytes]
  | succ j ih =>
    intro b
    simp only [scatterBytes, List.length_append, length_leBytes, ih]
    rw [Nat.succ_mul, Nat.add_comm]

theorem scatterLen_outside {v : Win} {n k : Nat} (h : v.addr k = none) : scatterLen v n k = 1 := by
  simp [scatterLen, h]

theorem scatterLen_pos (v : Win) (n k : Nat) : 0 < scatterLen v n k := by
  unfold scatterLen
  split
  · exact Nat.one_pos
  · exact Nat.lt_of_lt_of_le Nat.one_pos (Nat.le_add_right ..)

/-! ### Writing what is read -/

/-- The bytes that the next write of a linear side takes: those of one aligned unit. -/
def linearPiece (dst n next : Nat) : Nat := min (n - next) (8 - (dst + next) % 2 ^ 64 % 8)

/-- Whether they have all been read. -/
def Mover.linearFull (m : Mover) (dst n : Nat) : Prop := m.next < n ∧ linearPiece dst n m.next ≤ m.buf.length

section
variable {m : Mover} {dst n : Nat}

theorem linearPiece_eq_zero : linearPiece dst n m.next = 0 ↔ ¬m.next < n := by
  unfold linearPiece
  omega

theorem linearWrite_full (h : m.linearFull dst n) : linearWrite dst n m =
    some ({ m with next := m.next + linearPiece dst n m.next, buf := m.buf.drop (linearPiece dst n m.next) },
      [((dst + m.next) % 2 ^ 64, PByte.clean (m.buf.take (linearPiece dst n m.next)))]) := by
  obtain ⟨hlt, hlen⟩ := h
  have hpos : ¬linearPiece dst n m.next = 0 := fun e => linearPiece_eq_zero.1 e hlt
  have hnone : (decide (linearPiece dst n m.next = 0) || decide (m.buf.length < linearPiece dst n m.next)) = false := by
    simp [hpos, hlen]
  unfold linearWrite
  dsimp only
  exact if_neg (ne_true_of_eq_false hnone)

theorem linearWrite_none (h : ¬m.linearFull dst n) : linearWrite dst n m = none := by
  have hnone : (decide (linearPiece dst n m.next = 0) || decide (m.buf.length < linearPiece dst n m.next)) = true := by
    simp only [Bool.or_eq_true, decide_eq_true_eq, linearPiece_eq_zero]
    by_cases hlt : m.next < n
    · exact .inr (Nat.lt_of_not_le fun hle => h ⟨hlt, hle⟩)
    · exact .inl hlt
  unfold linearWrite
  dsimp only
  exact if_pos hnone

theorem length_linearPiece (h : m.linearFull dst n) :
    (PByte.clean (m.buf.take (linearPiece dst n m.next))).length = linearPiece dst n m.next := by
  rw [length_clean, List.length_take, Nat.min_eq_left h.2]

end

/-! ### Reading the source -/

section
variable {s : State} {w : Worker} {held : Map Tr} {p : Plan} {m : Mover}

/-- With nothing on its way, the next read of the source goes out. -/
theorem State.moveAsk_first (hl : m.loads = []) (ha : m.ahead < p.sources) : s.moveAsk w held p m =
    (.ok { m with loads := [(s.askUnit w held (p.load m.ahead)).1], ahead := m.ahead + (p.load m.ahead).n } [],
      (s.askUnit w held (p.load m.ahead)).2) := by
  simp only [State.moveAsk, hl, List.getLast?_nil, if_pos ha, List.flatMap_nil, List.all_nil, List.nil_append]
  split <;> exact if_pos rfl

theorem State.moveStep_ask (hw : p.write m = none) (hl : m.loads = []) (ha : m.ahead < p.sources) : s.moveStep w held p m =
    (.ok { m with loads := [(s.askUnit w held (p.load m.ahead)).1], ahead := m.ahead + (p.load m.ahead).n } [],
      (s.askUnit w held (p.load m.ahead)).2) := by
  simp only [State.moveStep, hw]
  rw [hl]
  dsimp only
  exact State.moveAsk_first hl ha

theorem State.moveStep_take {l : EngLoad} {ls : List EngLoad} {b : List Byte} (hw : p.write m = none) (hl : m.loads = l :: ls)
    (hb : s.loadRead l = .ok b) :
    s.moveStep w held p m = (.ok { m with loads := ls, buf := m.buf ++ p.take b } [], held, s.dropLoad l) := by
  simp only [State.moveStep, hw]
  rw [hl]
  dsimp only
  rw [hb]

theorem State.moveStep_readFault {l : EngLoad} {ls : List EngLoad} {d va : Nat} (hw : p.write m = none) (hl : m.loads = l :: ls)
    (hb : s.loadRead l = .fault d va) : s.moveStep w held p m = (.fault 0 d va [], held, s) := by
  simp only [State.moveStep, hw]
  rw [hl]
  dsimp only
  rw [hb]

/-- A write of one piece whose place is found is made. -/
theorem State.moveStep_write {m' : Mover} {va : Nat} {b : List PByte} {u : State} {k : Map Tr} {q : EngPlace}
    (hw : p.write m = some (m', [(va, b)]))
    (hp : s.workPlace w held (normVa w.core (va % 2 ^ 64)) b.length true = (.ok q, k, u)) :
    ∃ t r, s.moveStep w held p m = (.ok m' [r.id], k, t) ∧ (t.chan w.agent (u.placeHome q)).getLast? = some r ∧
      r.op = .write b ∧ r.addr = q.addr ∧ r.exp = q.exp := by
  obtain ⟨t, r, hwrite, hr⟩ := State.engineWrite_one hp
  refine ⟨t, r, ?_, hr⟩
  simp only [State.moveStep, hw, hwrite]

theorem State.moveStep_writeFault {m' : Mover} {va d : Nat} {b : List PByte} {u : State} {k : Map Tr}
    (hw : p.write m = some (m', [(va, b)]))
    (hp : s.workPlace w held (normVa w.core (va % 2 ^ 64)) b.length true = (.error d, k, u)) :
    s.moveStep w held p m = (.fault 1 d (normVa w.core (va % 2 ^ 64)) [], k, u) := by
  simp only [State.moveStep, hw, State.engineWrite_refused hp]

/-- An element that lies outside is not written. -/
theorem State.moveStep_skip {m' : Mover} (hw : p.write m = some (m', [])) :
    s.moveStep w held p m = (.ok m' [], held, s) := by
  simp only [State.moveStep, hw, State.engineWrite]

end

end Sys2Proof.Machine
end

section
/-!
PROOF. The issues of a copy channel (R164, R378, R379, R382, R383).
-/
namespace Sys2Proof.Machine

/-! ### Channels -/

theorem State.copyChan_updCopy (s : State) (c ch : Nat) (f : CopyChan → CopyChan) :
    (s.updCopy c ch f).copyChan c ch = f (s.copyChan c ch) := by
  simp [State.copyChan, State.updCopy]

theorem State.copyChan_of_cores {s t : State} (h : t.cores = s.cores) (c ch : Nat) : t.copyChan c ch = s.copyChan c ch := by
  unfold State.copyChan State.core
  rw [h]

/-- A copy stands at the head of its channel in the place of the one before, and the watermark is as it was. -/
def State.Heads (s t : State) (c ch : Nat) (g : CopyOp) : Prop :=
  (t.copyChan c ch).queue = g :: (s.copyChan c ch).queue.drop 1 ∧ (t.copyChan c ch).wm = (s.copyChan c ch).wm

theorem State.heads_setHead {s u : State} (h : u.cores = s.cores) (c ch : Nat) (g : CopyOp) :
    s.Heads (u.updCopy c ch (·.setHead g)) c ch g := by
  unfold State.Heads
  rw [State.copyChan_updCopy, State.copyChan_of_cores h]
  exact ⟨rfl, rfl⟩

theorem State.cores_dropLoad (s : State) (l : EngLoad) : (s.dropLoad l).cores = s.cores :=
  List.foldlRecOn (motive := fun t : State => t.cores = s.cores) l.pieces _ rfl fun _ ht p _ => by
    cases p <;> exact ht

theorem State.cores_dropLoads (s : State) (ls : List EngLoad) : (s.dropLoads ls).cores = s.cores :=
  List.foldlRecOn (motive := fun t : State => t.cores = s.cores) ls _ rfl fun t ht l _ => (t.cores_dropLoad l).trans ht

theorem State.engineAside_engineWrite (w : Worker) (ws : List (Nat × List PByte)) : ∀ (s : State) (held : Map Tr) (ids : List Nat),
    s.EngineAside (s.engineWrite w held ids ws).2.2.2 := by
  induction ws with
  | nil => exact fun s _ _ => .refl s
  | cons x ws ih =>
    intro s held ids
    unfold State.engineWrite
    dsimp only
    split
    · next e => exact s.engineAside_workPlace e
    · next e => exact ((s.engineAside_workPlace e).trans (State.engineAside_engineSend ..)).trans (ih ..)

theorem State.cores_moveAsk (s : State) (w : Worker) (held : Map Tr) (p : Plan) (m : Mover) :
    (s.moveAsk w held p m).2.2.cores = s.cores := by
  have hgo (free : Bool) (x : Mover) (l : EngLoad) :
      (if free then (Moved.ok x [], (s.askUnit w held l).2) else (Moved.wait, held, s)).2.2.cores = s.cores := by
    cases free
    · rfl
    · exact (s.engineAside_askUnit w held l).cores
  unfold State.moveAsk
  dsimp only
  split
  · split
    · rfl
    · split
      · exact hgo ..
      · split
        · exact hgo ..
        · rfl
  · split
    · exact hgo ..
    · rfl

theorem State.cores_moveStep (s : State) (w : Worker) (held : Map Tr) (p : Plan) (m : Mover) :
    (s.moveStep w held p m).2.2.cores = s.cores := by
  unfold State.moveStep
  split
  · next m' ws _ =>
    have hwrite := (State.engineAside_engineWrite w ws s held []).cores
    split
    · next e => rw [e] at hwrite; exact hwrite
    · next e => rw [e] at hwrite; exact hwrite
  · split
    · exact s.cores_moveAsk ..
    · split
      · exact s.cores_moveAsk ..
      · rfl
      · exact s.cores_dropLoad _

/-! ### Which step an issue takes -/

/-- A copy that an issue of its channel goes on with. -/
def CopyOp.Works (o : CopyOp) (s : State) (c ch : Nat) : Prop :=
  o.state = 2 ∧ o.stopped = none ∧ s.holdsFor (.copyCh c ch) o.uid = false

/-- A copy after a step of moving. -/
def CopyOp.moved (o : CopyOp) (held : Map Tr) (m : Mover) (ids : List Nat) : CopyOp :=
  { o with leases := held, mov := m, writes := o.appended m.next ids }

/-- A copy whose step of moving meets the first fault. -/
def CopyOp.refused (o : CopyOp) (held : Map Tr) (side d va : Nat) : CopyOp :=
  { o with leases := held, writes := o.appended o.mov.next [] }.fault side d va

/-- A channel takes what a step of moving comes to. -/
def State.copyMoved (s : State) (c ch : Nat) (o : CopyOp) : Moved × Map Tr × State → State
  | (.wait, _, _) => s
  | (.fault side d va ids, held, u) =>
    u.updCopy c ch (·.setHead ({ o with leases := held, writes := o.appended o.mov.next ids }.fault side d va))
  | (.ok m ids, held, u) => u.updCopy c ch (·.setHead (o.moved held m ids))

section
variable {s : State} {c ch : Nat} {o : CopyOp} {rest : List CopyOp}

theorem State.exec_copyIssue (hc : c < 1536) (hch : ch < 4) :
    exec (.engineIssue (.copyCh c ch)) s = .next (s.copyIssue c ch) := by
  rw [exec_engineIssue]
  have hexists : agentExists (.copyCh c ch) = true := by simp [agentExists, hc, hch]
  exact if_pos hexists

theorem State.copyIssue_empty (hq : (s.copyChan c ch).queue = []) : s.copyIssue c ch = s := by
  simp only [State.copyIssue, hq]

theorem CopyOp.works_iff : o.Works s c ch ↔ (o.state != 0x02 || o.stopped.isSome || s.holdsFor (.copyCh c ch) o.uid) = false := by
  simp only [CopyOp.Works, Bool.or_eq_false_iff, bne_eq_false_iff_eq, Option.isSome_eq_false_iff, Option.isNone_iff_eq_none,
    and_assoc]

theorem State.copyIssue_idle (hq : (s.copyChan c ch).queue = o :: rest) (h : ¬o.Works s c ch) : s.copyIssue c ch = s := by
  simp only [State.copyIssue, hq]
  rw [CopyOp.works_iff, Bool.not_eq_false] at h
  exact if_pos h

variable (hq : (s.copyChan c ch).queue = o :: rest) (hw : o.Works s c ch)
include hq hw

theorem State.copyIssue_record {l : EngLoad} (hl : o.recAsk = some l) : s.copyIssue c ch = s.copyRecord c ch o l := by
  simp only [State.copyIssue, hq, hl]
  exact if_neg (ne_true_of_eq_false (CopyOp.works_iff.1 hw))

theorem State.copyIssue_unread (hl : o.recAsk = none) (hu : o.unread = true) : s.copyIssue c ch = s.copyAsk c ch o := by
  simp only [State.copyIssue, hq, hl, hu, if_true]
  exact if_neg (ne_true_of_eq_false (CopyOp.works_iff.1 hw))

theorem State.copyIssue_reads (hl : o.recAsk = none) (hu : o.unread = false) :
    s.copyIssue c ch = s.copyMoved c ch o (s.moveStep (o.worker c ch) o.leases o.plan o.mov) := by
  unfold State.copyIssue
  rw [hq]
  dsimp only
  rw [if_neg (ne_true_of_eq_false (CopyOp.works_iff.1 hw))]
  split
  · next l e => cases hl.symm.trans e
  · rw [if_neg (ne_true_of_eq_false hu)]
    generalize s.moveStep (o.worker c ch) o.leases o.plan o.mov = step
    obtain ⟨_ | _ | _, held, u⟩ := step <;> rfl

theorem State.copyIssue_moved {m : Mover} {ids : List Nat} {held : Map Tr} {u : State} (hl : o.recAsk = none) (hu : o.unread = false)
    (hm : s.moveStep (o.worker c ch) o.leases o.plan o.mov = (.ok m ids, held, u)) :
    s.copyIssue c ch = u.updCopy c ch (·.setHead (o.moved held m ids)) ∧
      s.Heads (s.copyIssue c ch) c ch (o.moved held m ids) := by
  have hissue : s.copyIssue c ch = u.updCopy c ch (·.setHead (o.moved held m ids)) := by
    rw [State.copyIssue_reads hq hw hl hu, hm]
    rfl
  have hcores := s.cores_moveStep (o.worker c ch) o.leases o.plan o.mov
  rw [hm] at hcores
  exact ⟨hissue, hissue ▸ State.heads_setHead hcores ..⟩

theorem State.copyIssue_refused {side d va : Nat} {held : Map Tr} {u : State} (hl : o.recAsk = none) (hu : o.unread = false)
    (hm : s.moveStep (o.worker c ch) o.leases o.plan o.mov = (.fault side d va [], held, u)) :
    s.Heads (s.copyIssue c ch) c ch (o.refused held side d va) := by
  have hissue : s.copyIssue c ch = u.updCopy c ch (·.setHead (o.refused held side d va)) := by
    rw [State.copyIssue_reads hq hw hl hu, hm]
    rfl
  have hcores := s.cores_moveStep (o.worker c ch) o.leases o.plan o.mov
  rw [hm] at hcores
  rw [hissue]
  exact State.heads_setHead hcores ..

end

/-! ### The layout record (R378, R379) -/

theorem CopyOp.unread_of (o : CopyOp) (hm : o.mode ≠ 0) (hr : o.record = []) : o.unread = true := by
  simp [CopyOp.unread, hm, hr]

theorem normVa_lt {c va : Nat} (hc : c < 1536) (hva : va < 2 ^ 64) : normVa c va < 2 ^ 64 := by
  unfold normVa placeOf
  split
  · next off e =>
    split at e
    · cases e
      unfold otherVa
      omega
    · split at e <;> cases e
  · exact hva

theorem nth_setNth_zero {α : Type} (d v : α) (l : List α) {i : Nat} (h : 1 ≤ i) : nth d (setNth l 0 v) i = nth d l i := by
  obtain ⟨i, rfl⟩ := Nat.exists_eq_succ_of_ne_zero (Nat.ne_of_gt h)
  cases l <;> rfl

theorem recBits_setBase (r : List W64) (b : Nat) {i : Nat} (h : 1 ≤ i) (hi lo : Nat) :
    recBits (recSetBase r b) i hi lo = recBits r i hi lo := by
  unfold recBits recSetBase
  rw [nth_setNth_zero _ _ _ h]

/-- BASE is no part of the count of elements. -/
theorem recCount_setBase (r : List W64) (b : Nat) : recCount (recSetBase r b) = recCount r := by
  have hdims : recDims (recSetBase r b) = recDims r := by
    unfold recDims recNdim
    rw [recBits_setBase r b (by omega)]
  have hwin (j : Nat) : recWin (recSetBase r b) j = recWin r j := by
    unfold recWin
    rw [recBits_setBase r b (by omega), recBits_setBase r b (by omega)]
  unfold recCount
  rw [hdims]
  simp only [hwin]

theorem recBase_setBase {r : List W64} (hr : r ≠ []) {b : Nat} (hb : b < 2 ^ 64) : recBase (recSetBase r b) = b := by
  cases r with
  | nil => exact absurd rfl hr
  | cons x r =>
    change (w64 b).toNat = b
    exact Nat.mod_eq_of_lt hb

section
variable {o : CopyOp} {c : Nat} {r : List W64}

theorem CopyOp.withRecord_bad {word : Nat} (h : recBad r = some word) :
    o.withRecord c r = { o with recAsk := none, stopped := some 0x21, detail := word } := by
  simp only [CopyOp.withRecord, h]

theorem CopyOp.withRecord_good (h : recBad r = none) : o.withRecord c r =
    { o with recAsk := none, record := recSetBase r (normVa c (recBase r)), units := recCount r } := by
  simp only [CopyOp.withRecord, h, recCount_setBase]

end

section
variable {s : State} {c ch : Nat} {o : CopyOp} {rest : List CopyOp}

/-- A copy with a layout asks for its record. -/
theorem State.copyAsk_heads : ∃ l, s.Heads (s.copyAsk c ch o) c ch { o with recAsk := some l } ∧ (s.copyAsk c ch o).mem = s.mem := by
  have haside := s.engineAside_engineAsk (o.worker c ch) [] o.desc 96
  exact ⟨_, State.heads_setHead haside.cores .., haside.mem⟩

variable {l : EngLoad}

theorem State.copyRecord_wait (h : s.loadRead l = .wait) : s.copyRecord c ch o l = s := by
  simp only [State.copyRecord, h]

theorem State.copyRecord_fault {d va : Nat} (h : s.loadRead l = .fault d va) :
    s.Heads (s.copyRecord c ch o l) c ch (o.fault 0 d va) := by
  simp only [State.copyRecord, h]
  exact State.heads_setHead rfl ..

theorem State.copyRecord_ok {b : List Byte} (h : s.loadRead l = .ok b) :
    s.Heads (s.copyRecord c ch o l) c ch (o.withRecord c (wordsOf b 12)) := by
  simp only [State.copyRecord, h]
  exact State.heads_setHead (s.cores_dropLoad l) ..

end

/-! ### Reads and writes (R164, R379, R382, R383) -/

/-- What a copy comes to that meets its first fault on a side, at a page counted from the start of the side. -/
def State.FaultedAt (s t : State) (c ch : Nat) (o g : CopyOp) (side d page : Nat) : Prop :=
  s.Heads t c ch g ∧ g.stopped = some 0x20 ∧ g.side = side ∧ g.detail = d ∧ g.page = page ∧ g.writes = o.writes

theorem CopyOp.appended_nil (o : CopyOp) (next : Nat) : o.appended next [] = o.writes := by simp [CopyOp.appended]

theorem CopyOp.mem_appended_one (o : CopyOp) (next i : Nat) : i ∈ (o.appended next [i]).map (·.id) := by simp [CopyOp.appended]

section
variable {o : CopyOp}

theorem CopyOp.plan_linear (h : o.mode = 0) : o.plan = .linear o.src o.dst o.len := by simp [CopyOp.plan, h]

theorem CopyOp.plan_gather (h : o.mode = 1) : o.plan = .gather { r := o.record } o.cvt o.dst := by simp [CopyOp.plan, h]

theorem CopyOp.plan_scatter (h : o.mode = 2) : o.plan = .scatter { r := o.record } o.cvt o.src := by simp [CopyOp.plan, h]

/-- A copy that may move: it is linear or has its record. -/
theorem CopyOp.read_of (h : o.mode = 0 ∨ o.record ≠ []) : o.unread = false := by
  unfold CopyOp.unread
  rcases h with h | h
  · simp [h]
  · simp [h]

theorem CopyOp.start_linear_src (h : o.mode = 0) : o.start 0 = o.src := by simp [CopyOp.start, h]

theorem CopyOp.start_linear_dst (h : o.mode = 0) : o.start 1 = o.dst := by simp [CopyOp.start, h]

theorem CopyOp.start_layout (hm : o.mode = 1 ∨ o.mode = 2) (hr : o.record ≠ []) :
    o.start 0 = if o.mode = 1 then recBase o.record else o.src := by
  rcases hm with hm | hm <;> simp [CopyOp.start, hm, hr]

end

section
variable {s : State} {c ch : Nat} {o : CopyOp} {rest : List CopyOp}

/-- A copy that takes steps of moving. -/
structure State.Moves (s : State) (c ch : Nat) (o : CopyOp) (rest : List CopyOp) : Prop where
  queue : (s.copyChan c ch).queue = o :: rest
  works : o.Works s c ch
  asked : o.recAsk = none
  read  : o.unread = false

variable (h : s.Moves c ch o rest)
include h

theorem State.copyIssue_faults {side d va : Nat} {held : Map Tr} {u : State}
    (hm : s.moveStep (o.worker c ch) o.leases o.plan o.mov = (.fault side d va [], held, u)) :
    ∃ g, s.FaultedAt (s.copyIssue c ch) c ch o g side d (faultPage va (o.start side)) :=
  ⟨_, State.copyIssue_refused h.queue h.works h.asked h.read hm, rfl, rfl, rfl, rfl, o.appended_nil _⟩

/-- What has been read of the source is taken. -/
theorem State.copyIssue_takes {l : EngLoad} {ls : List EngLoad} {b : List Byte} (hwrite : o.plan.write o.mov = none)
    (hl : o.mov.loads = l :: ls) (hb : s.loadRead l = .ok b) :
    ∃ g, s.Heads (s.copyIssue c ch) c ch g ∧ g.mov = { o.mov with loads := ls, buf := o.mov.buf ++ o.plan.take b } ∧
      g.writes = o.writes := by
  have hm := State.moveStep_take (w := o.worker c ch) (held := o.leases) hwrite hl hb
  exact ⟨_, (State.copyIssue_moved h.queue h.works h.asked h.read hm).2, rfl, o.appended_nil _⟩

theorem State.copyIssue_readFaults {l : EngLoad} {ls : List EngLoad} {d va : Nat} (hwrite : o.plan.write o.mov = none)
    (hl : o.mov.loads = l :: ls) (hb : s.loadRead l = .fault d va) :
    ∃ g, s.FaultedAt (s.copyIssue c ch) c ch o g 0 d (faultPage va (o.start 0)) :=
  s.copyIssue_faults h (State.moveStep_readFault hwrite hl hb)

/-- The next unit of the source is asked for at its place. -/
theorem State.copyIssue_asks {va n : Nat} {more : List EngUnit} {p : EngPlace} {held : Map Tr} {u : State}
    (hwrite : o.plan.write o.mov = none) (hl : o.mov.loads = []) (ha : o.mov.ahead < o.plan.sources)
    (htodo : (o.plan.load o.mov.ahead).todo = .read va n :: more)
    (hp : s.workPlace (o.worker c ch) o.leases (normVa c va) n false = (.ok p, held, u)) :
    ∃ r g, s.Heads (s.copyIssue c ch) c ch g ∧ ((s.copyIssue c ch).chan (.copyCh c ch) (u.placeHome p)).getLast? = some r ∧
      r.op = .read ∧ r.addr = p.addr ∧ r.size = n ∧ g.mov.ahead = o.mov.ahead + (o.plan.load o.mov.ahead).n ∧
      g.mov.loads.length = 1 ∧ g.mov.buf = o.mov.buf ∧ g.writes = o.writes := by
  obtain ⟨t, r, l', hunit, hlast, hop, haddr, hsize⟩ := State.askUnit_read (w := o.worker c ch) htodo hp
  have hm := State.moveStep_ask (s := s) (w := o.worker c ch) (held := o.leases) hwrite hl ha
  rw [hunit] at hm
  obtain ⟨hissue, hheads⟩ := State.copyIssue_moved h.queue h.works h.asked h.read hm
  refine ⟨r, _, hheads, ?_, hop, haddr, hsize, rfl, rfl, rfl, o.appended_nil _⟩
  rw [hissue]
  exact hlast

/-- A write of one piece is appended at its place. -/
theorem State.copyIssue_writes {m : Mover} {va : Nat} {b : List PByte} {p : EngPlace} {held : Map Tr} {u : State}
    (hwrite : o.plan.write o.mov = some (m, [(va, b)]))
    (hp : s.workPlace (o.worker c ch) o.leases (normVa c (va % 2 ^ 64)) b.length true = (.ok p, held, u)) :
    ∃ r g, s.Heads (s.copyIssue c ch) c ch g ∧ ((s.copyIssue c ch).chan (.copyCh c ch) (u.placeHome p)).getLast? = some r ∧
      r.op = .write b ∧ r.addr = p.addr ∧ r.exp = p.exp ∧ g.mov = m ∧ r.id ∈ g.writes.map (·.id) := by
  obtain ⟨t, r, hm, hlast, hr⟩ := State.moveStep_write (w := o.worker c ch) hwrite hp
  obtain ⟨hissue, hheads⟩ := State.copyIssue_moved h.queue h.works h.asked h.read hm
  obtain ⟨hop, haddr, hexp⟩ := hr
  refine ⟨r, _, hheads, ?_, hop, haddr, hexp, rfl, o.mem_appended_one ..⟩
  rw [hissue]
  exact hlast

theorem State.copyIssue_writeFaults {m : Mover} {va d : Nat} {b : List PByte} {held : Map Tr} {u : State}
    (hwrite : o.plan.write o.mov = some (m, [(va, b)]))
    (hp : s.workPlace (o.worker c ch) o.leases (normVa c (va % 2 ^ 64)) b.length true = (.error d, held, u)) :
    ∃ g, s.FaultedAt (s.copyIssue c ch) c ch o g 1 d (faultPage (normVa c (va % 2 ^ 64)) (o.start 1)) :=
  s.copyIssue_faults h (State.moveStep_writeFault hwrite hp)

/-! #### A linear side -/

/-- The bytes of one aligned unit of a linear destination are written once they are read. -/
theorem State.copyIssue_linearWrites {n : Nat} {p : EngPlace} {held : Map Tr} {u : State}
    (hplan : o.plan.write o.mov = linearWrite o.dst n o.mov) (hfull : o.mov.linearFull o.dst n)
    (hp : s.workPlace (o.worker c ch) o.leases (normVa c ((o.dst + o.mov.next) % 2 ^ 64)) (linearPiece o.dst n o.mov.next) true =
      (.ok p, held, u)) :
    ∃ r g, s.Heads (s.copyIssue c ch) c ch g ∧ ((s.copyIssue c ch).chan (.copyCh c ch) (u.placeHome p)).getLast? = some r ∧
      r.op = .write (PByte.clean (o.mov.buf.take (linearPiece o.dst n o.mov.next))) ∧ r.addr = p.addr ∧ r.exp = p.exp ∧
      g.mov.next = o.mov.next + linearPiece o.dst n o.mov.next ∧ g.mov.buf = o.mov.buf.drop (linearPiece o.dst n o.mov.next) ∧
      r.id ∈ g.writes.map (·.id) := by
  have hwrite := hplan.trans (linearWrite_full hfull)
  obtain ⟨r, g, hheads, hlast, hop, haddr, hexp, hmov, hid⟩ := s.copyIssue_writes h hwrite (p := p) (held := held) (u := u) (by
    rw [Nat.mod_mod, length_linearPiece hfull]
    exact hp)
  exact ⟨r, g, hheads, hlast, hop, haddr, hexp, by rw [hmov], by rw [hmov], hid⟩

theorem State.copyIssue_linearWriteFaults {n d : Nat} {held : Map Tr} {u : State}
    (hplan : o.plan.write o.mov = linearWrite o.dst n o.mov) (hfull : o.mov.linearFull o.dst n)
    (hp : s.workPlace (o.worker c ch) o.leases (normVa c ((o.dst + o.mov.next) % 2 ^ 64)) (linearPiece o.dst n o.mov.next) true =
      (.error d, held, u)) :
    ∃ g, s.FaultedAt (s.copyIssue c ch) c ch o g 1 d (faultPage (normVa c ((o.dst + o.mov.next) % 2 ^ 64)) (o.start 1)) := by
  have hwrite := hplan.trans (linearWrite_full hfull)
  have hfault := s.copyIssue_writeFaults h hwrite (d := d) (held := held) (u := u) (by
    rw [Nat.mod_mod, length_linearPiece hfull]
    exact hp)
  rwa [Nat.mod_mod] at hfault

/-- The bytes of one aligned unit of a linear source are asked for. -/
theorem State.copyIssue_linearAsks {src n : Nat} {p : EngPlace} {held : Map Tr} {u : State}
    (hwrite : o.plan.write o.mov = none) (hl : o.mov.loads = []) (hsources : o.plan.sources = n) (ha : o.mov.ahead < n)
    (hload : o.plan.load o.mov.ahead = linearLoad src n o.mov.ahead)
    (hp : s.workPlace (o.worker c ch) o.leases (normVa c ((src + o.mov.ahead) % 2 ^ 64)) (linearPiece src n o.mov.ahead) false =
      (.ok p, held, u)) :
    ∃ r g, s.Heads (s.copyIssue c ch) c ch g ∧ ((s.copyIssue c ch).chan (.copyCh c ch) (u.placeHome p)).getLast? = some r ∧
      r.op = .read ∧ r.addr = p.addr ∧ r.size = linearPiece src n o.mov.ahead ∧
      g.mov.ahead = o.mov.ahead + linearPiece src n o.mov.ahead ∧ g.mov.loads.length = 1 ∧ g.mov.buf = o.mov.buf ∧
      g.writes = o.writes := by
  have hpos : 0 < linearPiece src n o.mov.ahead := Nat.pos_of_ne_zero fun e => by
    unfold linearPiece at e
    omega
  have hmin : min (linearPiece src n o.mov.ahead) (8 - (src + o.mov.ahead) % 2 ^ 64 % 8) = linearPiece src n o.mov.ahead :=
    Nat.min_eq_left (Nat.min_le_right ..)
  have hn : (o.plan.load o.mov.ahead).n = linearPiece src n o.mov.ahead := by rw [hload]; rfl
  have htodo := readUnits_cons (a := (src + o.mov.ahead) % 2 ^ 64) hpos (linearPiece src n o.mov.ahead / 8 + 1)
  rw [hmin, Nat.mod_mod] at htodo
  replace htodo := (congrArg EngLoad.todo hload).trans htodo
  have := s.copyIssue_asks h hwrite hl (hsources ▸ ha) htodo hp
  rwa [hn] at this

end

end Sys2Proof.Machine
end

section
/-!
PROOF. The layout side of a copy: what its reads ask for and what its writes take (R376, R379).
-/
namespace Sys2Proof.Machine

/-! ### The elements of a layout -/

section
variable {v : Win} {cvt : Option Nat} {src dst : Nat} {m : Mover}

/-- Whether the elements that go to a layout together have all been read. -/
def Mover.scatterFull (m : Mover) (v : Win) (cvt : Option Nat) : Prop :=
  m.next < recCount v.r ∧ scatterLen v (recCount v.r) m.next * linearEb v.r cvt ≤ m.buf.length

theorem Plan.write_scatter_none (h : ¬m.scatterFull v cvt) : (Plan.scatter v cvt src).write m = none := by
  have hnone : (decide (recCount v.r ≤ m.next) ||
      decide (m.buf.length < scatterLen v (recCount v.r) m.next * linearEb v.r cvt)) = true := by
    simp only [Bool.or_eq_true, decide_eq_true_eq]
    by_cases hlt : m.next < recCount v.r
    · exact .inr (Nat.lt_of_not_le fun hle => h ⟨hlt, hle⟩)
    · exact .inl (Nat.le_of_not_lt hlt)
  unfold Plan.write
  dsimp only
  exact if_pos hnone

/-- The pieces of the elements that go to a layout together. -/
def Mover.scatterPieces (m : Mover) (v : Win) (cvt : Option Nat) : List (Nat × List PByte) :=
  let b := scatterBytes v.r cvt (scatterLen v (recCount v.r) m.next) m.buf
  match v.addr m.next with
  | none => []
  | some a => cutUnits a (PByte.clean b) (b.length + 1)

theorem Plan.write_scatter_full (h : m.scatterFull v cvt) : (Plan.scatter v cvt src).write m =
    some ({ m with
      next := m.next + scatterLen v (recCount v.r) m.next,
      buf := m.buf.drop (scatterLen v (recCount v.r) m.next * linearEb v.r cvt) }, m.scatterPieces v cvt) := by
  obtain ⟨hlt, hlen⟩ := h
  have hsome : (decide (recCount v.r ≤ m.next) ||
      decide (m.buf.length < scatterLen v (recCount v.r) m.next * linearEb v.r cvt)) = false := by
    simp [hlt, hlen]
  unfold Plan.write
  dsimp only
  exact if_neg (ne_true_of_eq_false hsome)

/-- An element that lies outside is passed over alone, and nothing is written. -/
theorem Plan.write_scatter_outside (h : m.scatterFull v cvt) (ha : v.addr m.next = none) : (Plan.scatter v cvt src).write m =
    some ({ m with next := m.next + 1, buf := m.buf.drop (linearEb v.r cvt) }, []) := by
  rw [Plan.write_scatter_full h, scatterLen_outside ha, Nat.one_mul]
  simp only [Mover.scatterPieces, ha]

/-- Elements that lie in one aligned unit are written as one piece. -/
theorem Plan.write_scatter_unit {a : Nat} (h : m.scatterFull v cvt) (ha : v.addr m.next = some a) (heb : 0 < recEb v.r)
    (hunit : a % 8 + scatterLen v (recCount v.r) m.next * recEb v.r ≤ 8) : (Plan.scatter v cvt src).write m =
    some ({ m with
      next := m.next + scatterLen v (recCount v.r) m.next,
      buf := m.buf.drop (scatterLen v (recCount v.r) m.next * linearEb v.r cvt) },
      [(a, PByte.clean (scatterBytes v.r cvt (scatterLen v (recCount v.r) m.next) m.buf))]) := by
  have hlen : (PByte.clean (scatterBytes v.r cvt (scatterLen v (recCount v.r) m.next) m.buf)).length =
      scatterLen v (recCount v.r) m.next * recEb v.r := by
    rw [length_clean, length_scatterBytes]
  have hne : PByte.clean (scatterBytes v.r cvt (scatterLen v (recCount v.r) m.next) m.buf) ≠ [] := by
    refine List.ne_nil_of_length_pos ?_
    rw [hlen]
    exact Nat.mul_pos (scatterLen_pos ..) heb
  rw [Plan.write_scatter_full h]
  simp only [Mover.scatterPieces, ha]
  rw [cutUnits_one hne (hlen ▸ hunit)]

/-- The first unit of an element that lies inside. -/
theorem Plan.load_inside {a k : Nat} (ha : v.addr k = some a) (heb : 0 < recEb v.r) :
    ∃ more, ((Plan.gather v cvt dst).load k).todo = .read (a % 2 ^ 64) (min (recEb v.r) (8 - a % 8)) :: more ∧
      ((Plan.gather v cvt dst).load k).n = 1 := by
  refine ⟨readUnits (a + min (recEb v.r) (8 - a % 8)) (recEb v.r - min (recEb v.r) (8 - a % 8)) (recEb v.r / 8 + 1), ?_, ?_⟩
  · simp only [Plan.load, ha]
    exact readUnits_cons heb _
  · simp only [Plan.load, ha]

theorem Plan.load_outside {k : Nat} (ha : v.addr k = none) :
    (Plan.gather v cvt dst).load k = { n := 1, todo := [.fill (leBytes (recFill v.r) (recEb v.r))] } := by
  simp only [Plan.load, ha]

end

/-- Bytes that are known without a read are there at once. -/
theorem State.loadRead_filled (s : State) (n : Nat) (b : List Byte) : s.loadRead { n := n, pieces := [.bytes b] } = .ok b := by
  simp [State.loadRead, State.collect, EngRead.after]

/-! ### Issues of a copy with a layout -/

section
variable {s : State} {c ch : Nat} {o : CopyOp} {rest : List CopyOp} (h : s.Moves c ch o rest)

/-- The bytes of the linear side of a copy with a layout. -/
def CopyOp.total (o : CopyOp) : Nat := recCount o.record * linearEb o.record o.cvt

theorem CopyOp.write_gather (hm : o.mode = 1) : o.plan.write o.mov = linearWrite o.dst o.total o.mov := by
  rw [CopyOp.plan_gather hm]
  rfl

/-- Whether the next write of a copy with a layout is read. -/
def CopyOp.Full (o : CopyOp) : Prop :=
  if o.mode = 1 then o.mov.linearFull o.dst o.total else o.mov.scatterFull { r := o.record } o.cvt

theorem CopyOp.full_gather (hm : o.mode = 1) : o.Full ↔ o.mov.linearFull o.dst o.total := by
  unfold CopyOp.Full
  rw [if_pos hm]

theorem CopyOp.full_scatter (hm : o.mode = 2) : o.Full ↔ o.mov.scatterFull { r := o.record } o.cvt := by
  unfold CopyOp.Full
  rw [if_neg (by omega)]

theorem CopyOp.write_none (hm : o.mode = 1 ∨ o.mode = 2) (hf : ¬o.Full) : o.plan.write o.mov = none := by
  rcases hm with hm | hm
  · rw [CopyOp.full_gather hm] at hf
    rw [CopyOp.write_gather hm]
    exact linearWrite_none hf
  · rw [CopyOp.full_scatter hm] at hf
    rw [CopyOp.plan_scatter hm]
    exact Plan.write_scatter_none hf

theorem CopyOp.take_layout (hm : o.mode = 1 ∨ o.mode = 2) (b : List Byte) : o.plan.take b =
    if o.mode = 1 then leBytes (convert (recFmt o.record) (linearFmt o.record o.cvt) o.cvt (leNat b)) (linearEb o.record o.cvt)
    else b := by
  rcases hm with hm | hm
  · rw [CopyOp.plan_gather hm, if_pos hm]
    rfl
  · rw [CopyOp.plan_scatter hm, if_neg (by omega)]
    rfl

include h

theorem State.copyIssue_skips (hm : o.mode = 2) (hf : o.Full) (ha : ({ r := o.record } : Win).addr o.mov.next = none) :
    ∃ g, s.Heads (s.copyIssue c ch) c ch g ∧ g.mov.next = o.mov.next + 1 ∧
      g.mov.buf = o.mov.buf.drop (linearEb o.record o.cvt) ∧ g.writes = o.writes ∧ (s.copyIssue c ch).chans = s.chans := by
  have hwrite := Plan.write_scatter_outside (src := o.src) ((CopyOp.full_scatter hm).1 hf) ha
  rw [← CopyOp.plan_scatter hm] at hwrite
  have hstep := State.moveStep_skip (s := s) (w := o.worker c ch) (held := o.leases) hwrite
  obtain ⟨hissue, hheads⟩ := State.copyIssue_moved h.queue h.works h.asked h.read hstep
  exact ⟨_, hheads, rfl, rfl, o.appended_nil _, by rw [hissue]; rfl⟩

theorem State.copyIssue_scatters {a : Nat} {p : EngPlace} {held : Map Tr} {u : State} (hm : o.mode = 2) (hf : o.Full)
    (heb : 0 < recEb o.record) (ha : ({ r := o.record } : Win).addr o.mov.next = some a)
    (hunit : a % 8 + scatterLen { r := o.record } (recCount o.record) o.mov.next * recEb o.record ≤ 8)
    (hp : s.workPlace (o.worker c ch) o.leases (normVa c (a % 2 ^ 64))
      (scatterLen { r := o.record } (recCount o.record) o.mov.next * recEb o.record) true = (.ok p, held, u)) :
    ∃ r g, s.Heads (s.copyIssue c ch) c ch g ∧ ((s.copyIssue c ch).chan (.copyCh c ch) (u.placeHome p)).getLast? = some r ∧
      r.op = .write (PByte.clean
        (scatterBytes o.record o.cvt (scatterLen { r := o.record } (recCount o.record) o.mov.next) o.mov.buf)) ∧
      r.addr = p.addr ∧ g.mov.next = o.mov.next + scatterLen { r := o.record } (recCount o.record) o.mov.next ∧
      g.mov.buf = o.mov.buf.drop (scatterLen { r := o.record } (recCount o.record) o.mov.next * linearEb o.record o.cvt) := by
  have hwrite := Plan.write_scatter_unit (src := o.src) ((CopyOp.full_scatter hm).1 hf) ha heb hunit
  rw [← CopyOp.plan_scatter hm] at hwrite
  obtain ⟨r, g, hheads, hlast, hop, haddr, -, hmov, -⟩ := s.copyIssue_writes h hwrite (p := p) (held := held) (u := u) (by
    rw [length_clean, length_scatterBytes]
    exact hp)
  exact ⟨r, g, hheads, hlast, hop, haddr, by rw [hmov], by rw [hmov]⟩

/-- An element that lies outside is FILL. -/
theorem State.copyIssue_fills (hm : o.mode = 1) (hf : ¬o.Full) (hl : o.mov.loads = []) (hlt : o.mov.ahead < recCount o.record)
    (ha : ({ r := o.record } : Win).addr o.mov.ahead = none) :
    ∃ g, s.Heads (s.copyIssue c ch) c ch g ∧
      (g.mov.ahead = o.mov.ahead + 1 ∧ g.mov.loads.length = 1 ∧ g.mov.buf = o.mov.buf ∧ g.writes = o.writes) ∧
      (s.copyIssue c ch).chans = s.chans ∧ ∀ l ∈ g.mov.loads, s.loadRead l = .ok (leBytes (recFill o.record) (recEb o.record)) := by
  have hload := Plan.load_outside (cvt := o.cvt) (dst := o.dst) ha
  rw [← CopyOp.plan_gather hm] at hload
  have hsources : o.mov.ahead < o.plan.sources := by
    rw [CopyOp.plan_gather hm]
    exact hlt
  have hstep := State.moveStep_ask (s := s) (w := o.worker c ch) (held := o.leases) (CopyOp.write_none (.inl hm) hf) hl hsources
  rw [hload] at hstep
  obtain ⟨hissue, hheads⟩ := State.copyIssue_moved h.queue h.works h.asked h.read hstep
  refine ⟨_, hheads, ⟨rfl, rfl, rfl, o.appended_nil _⟩, by rw [hissue]; rfl, fun l hmem => ?_⟩
  rw [List.mem_singleton.1 hmem]
  exact s.loadRead_filled ..

/-- An element that lies inside is asked for at its address. -/
theorem State.copyIssue_gathers {a : Nat} {p : EngPlace} {held : Map Tr} {u : State} (hm : o.mode = 1) (hf : ¬o.Full)
    (hl : o.mov.loads = []) (hlt : o.mov.ahead < recCount o.record) (heb : 0 < recEb o.record)
    (ha : ({ r := o.record } : Win).addr o.mov.ahead = some a)
    (hp : s.workPlace (o.worker c ch) o.leases (normVa c (a % 2 ^ 64)) (min (recEb o.record) (8 - a % 8)) false =
      (.ok p, held, u)) :
    ∃ r g, s.Heads (s.copyIssue c ch) c ch g ∧
      (g.mov.ahead = o.mov.ahead + 1 ∧ g.mov.loads.length = 1 ∧ g.mov.buf = o.mov.buf ∧ g.writes = o.writes) ∧
      ((s.copyIssue c ch).chan (.copyCh c ch) (u.placeHome p)).getLast? = some r ∧ r.op = .read ∧ r.addr = p.addr ∧
      r.size = min (recEb o.record) (8 - a % 8) := by
  have hsources : o.mov.ahead < o.plan.sources := by
    rw [CopyOp.plan_gather hm]
    exact hlt
  obtain ⟨more, htodo, hn⟩ := Plan.load_inside (cvt := o.cvt) (dst := o.dst) ha heb
  rw [← CopyOp.plan_gather hm] at htodo hn
  obtain ⟨r, g, hheads, hlast, hop, haddr, hsize, hahead, hrest⟩ :=
    s.copyIssue_asks h (CopyOp.write_none (.inl hm) hf) hl hsources htodo hp
  rw [hn] at hahead
  exact ⟨r, g, hheads, ⟨hahead, hrest⟩, hlast, hop, haddr, hsize⟩

/-- The bytes of one aligned unit of the linear side are asked for. -/
theorem State.copyIssue_scatterAsks {p : EngPlace} {held : Map Tr} {u : State} (hm : o.mode = 2) (hf : ¬o.Full)
    (hl : o.mov.loads = []) (hlt : o.mov.ahead < o.total)
    (hp : s.workPlace (o.worker c ch) o.leases (normVa c ((o.src + o.mov.ahead) % 2 ^ 64)) (linearPiece o.src o.total o.mov.ahead)
      false = (.ok p, held, u)) :
    ∃ r g, s.Heads (s.copyIssue c ch) c ch g ∧
      (g.mov.ahead = o.mov.ahead + linearPiece o.src o.total o.mov.ahead ∧ g.mov.loads.length = 1 ∧ g.mov.buf = o.mov.buf ∧
        g.writes = o.writes) ∧
      ((s.copyIssue c ch).chan (.copyCh c ch) (u.placeHome p)).getLast? = some r ∧ r.op = .read ∧ r.addr = p.addr ∧
      r.size = linearPiece o.src o.total o.mov.ahead := by
  have hsources : o.plan.sources = o.total := by
    rw [CopyOp.plan_scatter hm]
    rfl
  have hload : o.plan.load o.mov.ahead = linearLoad o.src o.total o.mov.ahead := by
    rw [CopyOp.plan_scatter hm]
    rfl
  obtain ⟨r, g, hheads, hlast, hop, haddr, hsize, hrest⟩ :=
    s.copyIssue_linearAsks h (CopyOp.write_none (.inr hm) hf) hl hsources hlt hload hp
  exact ⟨r, g, hheads, hrest, hlast, hop, haddr, hsize⟩

end

end Sys2Proof.Machine
end

section
/-!
PROOF. The start of a copy, the acknowledgements of its writes, and its events (R173 to R175, R373, R382, R384, R385).
-/
namespace Sys2Proof.Machine

/-! ### Starting (R373) -/

section
variable {s : State} {c ch : Nat} {o : CopyOp} {rest : List CopyOp}

theorem State.exec_start (hc : c < 1536) (hch : ch < 4) :
    exec (.copyStart (.copyCh c ch)) s = .next (s.copyStart c ch) := by
  rw [exec_copyStart]
  have hexists : (decide (c < 1536) && decide (ch < 4)) = true := by simp [hc, hch]
  exact if_pos hexists

theorem State.copyStart_empty (hq : (s.copyChan c ch).queue = []) : s.copyStart c ch = s := by
  simp only [State.copyStart, hq]

theorem State.copyStart_idle (hq : (s.copyChan c ch).queue = o :: rest) (h : o.state ≠ 1) : s.copyStart c ch = s := by
  simp only [State.copyStart, hq]
  exact if_neg h

theorem State.copyStart_begins (hq : (s.copyChan c ch).queue = o :: rest) (h : o.state = 1) :
    s.copyStart c ch = s.updCopy c ch (fun k => { k.setHead o.begun with wm := w64 o.dst }) := by
  simp only [State.copyStart, hq]
  exact if_pos h

/-- A copy that is launched begins, and the watermark is its CPDST. -/
theorem State.copyStart_launched (hq : (s.copyChan c ch).queue = o :: rest) (h : o.state = 1) :
    (s.copyStart c ch).mem = s.mem ∧ ((s.copyStart c ch).copyChan c ch).wm = w64 o.dst ∧
      ((s.copyStart c ch).copyChan c ch).queue = { o with state := 2, units := if o.mode = 0 then o.len else 0 } :: rest := by
  rw [State.copyStart_begins hq h, State.copyChan_updCopy]
  refine ⟨rfl, rfl, ?_⟩
  change o.begun :: (s.copyChan c ch).queue.drop 1 = _
  rw [hq]
  rfl

end

/-! ### Acknowledgements (R382, R385) -/

/-- What is dropped of a list of writes is acknowledged, what stays begins with one that is not, and the bytes passed are the
greatest end of what is dropped. -/
theorem settledTo_spec (acked : Nat → Bool) (ws : List EngWrite) : ∀ b, ∃ pre, ws = pre ++ (settledTo acked b ws).2 ∧
    (∀ e ∈ pre, acked e.id = true) ∧ (∀ e, (settledTo acked b ws).2.head? = some e → acked e.id = false) ∧
    b ≤ (settledTo acked b ws).1 ∧ (∀ e ∈ pre, e.fin ≤ (settledTo acked b ws).1) ∧
    ((settledTo acked b ws).1 = b ∨ ∃ e ∈ pre, e.fin = (settledTo acked b ws).1) := by
  induction ws with
  | nil => exact fun b => ⟨[], rfl, by simp, by simp [settledTo], le_refl b, by simp, .inl rfl⟩
  | cons w ws ih =>
    intro b
    by_cases h : acked w.id = true
    · obtain ⟨pre, hws, hgone, hhead, hle, hfin, hmax⟩ := ih (max b w.fin)
      have heq : settledTo acked b (w :: ws) = settledTo acked (max b w.fin) ws := by
        rw [settledTo]
        exact if_pos h
      rw [heq]
      generalize settledTo acked (max b w.fin) ws = x at hws hgone hhead hle hfin hmax ⊢
      refine ⟨w :: pre, by rw [hws]; rfl, List.forall_mem_cons.2 ⟨h, hgone⟩, hhead, le_trans (le_max_left ..) hle,
        List.forall_mem_cons.2 ⟨le_trans (le_max_right ..) hle, hfin⟩, ?_⟩
      rcases hmax with hmax | ⟨e, he, hmax⟩
      · rcases max_choice b w.fin with hb | hw
        · exact .inl (hmax.trans hb)
        · exact .inr ⟨w, List.mem_cons_self, (hmax.trans hw).symm⟩
      · exact .inr ⟨e, List.mem_cons_of_mem _ he, hmax⟩
    · have heq : settledTo acked b (w :: ws) = (b, w :: ws) := by
        rw [settledTo]
        exact if_neg h
      rw [heq]
      refine ⟨[], rfl, by simp, fun e he => ?_, le_refl b, by simp, .inl rfl⟩
      obtain rfl : w = e := by simpa using he
      simpa using h

/-- A copy whose channel has taken an acknowledgement. -/
def CopyOp.settled (o : CopyOp) (acked : Nat → Bool) : CopyOp :=
  { o with
    writes := (settledTo acked o.acked o.writes).2,
    acked := if o.mode = 2 then 0 else (settledTo acked o.acked o.writes).1 }

section
variable {s : State} {c ch : Nat} {o : CopyOp} {rest : List CopyOp}

theorem State.copyAck_running (hq : (s.copyChan c ch).queue = o :: rest) (h : o.state = 2) :
    s.copyAck c ch = s.updCopy c ch (fun k =>
      { k.setHead (o.settled fun i => s.acked [i]) with wm := w64 (o.dst + (o.settled fun i => s.acked [i]).acked) }) := by
  unfold State.copyAck
  rw [hq]
  simp only [if_pos h]
  rfl

theorem State.exec_respond_copy {x : Resp} {more : List Resp} (hx : s.rchan x.req.home (.copyCh c ch) = x :: more) :
    exec (.respond x.req.home (.copyCh c ch)) s =
      .next (({ s with rchans := popResp s.rchans x.req.home (.copyCh c ch) }.engineAck x).copyAck c ch) := by
  rw [exec_respond]
  unfold execRespond State.respondHead
  rw [hx]
  rfl

/-- A request that has just been acknowledged, or was before. -/
theorem State.acked_engineAck (s : State) (x : Resp) (i : Nat) :
    (s.engineAck x).acked [i] = true ↔ i = x.req.id ∨ NatSet.has s.engOut i = false := by
  simp only [State.acked, State.engineAck, List.all_cons, List.all_nil, Bool.and_true, NatSet.has_del]
  by_cases h : i = x.req.id <;> simp [h]

theorem State.engOut_engineAck (s : State) (x : Resp) (i : Nat) :
    NatSet.has (s.engineAck x).engOut i = true ↔ NatSet.has s.engOut i = true ∧ i ≠ x.req.id := by
  simp only [State.engineAck, NatSet.has_del, Bool.and_eq_true, bne_iff_ne]
  exact and_comm

theorem State.engIn_engineAck {s : State} {x : Resp} (h : x.req.op = .read) :
    (s.engineAck x).engIn.find? x.req.id = some x.bytes := by
  simp only [State.engineAck, h]
  exact Map.find?_set_same ..

/-- An acknowledgement takes the writes that are done off the front, and the watermark passes their bytes. -/
theorem State.respond_copy {x : Resp} {more : List Resp} (hq : (s.copyChan c ch).queue = o :: rest)
    (hx : s.rchan x.req.home (.copyCh c ch) = x :: more) (hs : o.state = 2) :
    ∃ t g, exec (.respond x.req.home (.copyCh c ch)) s = .next t ∧ (t.copyChan c ch).queue = g :: rest ∧ t.mem = s.mem ∧
      (∀ i, NatSet.has t.engOut i = true ↔ NatSet.has s.engOut i = true ∧ i ≠ x.req.id) ∧
      (x.req.op = .read → t.engIn.find? x.req.id = some x.bytes) ∧ (t.copyChan c ch).wm = w64 (o.dst + g.acked) ∧
      ∃ pre, o.writes = pre ++ g.writes ∧ (∀ e ∈ pre, e.id = x.req.id ∨ NatSet.has s.engOut e.id = false) ∧
        (∀ e, g.writes.head? = some e → ¬(e.id = x.req.id ∨ NatSet.has s.engOut e.id = false)) ∧
        (o.mode = 2 → g.acked = 0) ∧
        (o.mode ≠ 2 → o.acked ≤ g.acked ∧ (∀ e ∈ pre, e.fin ≤ g.acked) ∧ (g.acked = o.acked ∨ ∃ e ∈ pre, e.fin = g.acked)) := by
  have hgone (i : Nat) := State.acked_engineAck { s with rchans := popResp s.rchans x.req.home (.copyCh c ch) } x i
  have hout := State.engOut_engineAck { s with rchans := popResp s.rchans x.req.home (.copyCh c ch) } x
  have hin := State.engIn_engineAck (s := { s with rchans := popResp s.rchans x.req.home (.copyCh c ch) }) (x := x)
  have hv : ({ s with rchans := popResp s.rchans x.req.home (.copyCh c ch) }.engineAck x).copyChan c ch = s.copyChan c ch := rfl
  have hmem : ({ s with rchans := popResp s.rchans x.req.home (.copyCh c ch) }.engineAck x).mem = s.mem := rfl
  rw [State.exec_respond_copy hx]
  generalize ({ s with rchans := popResp s.rchans x.req.home (.copyCh c ch) } : State).engineAck x = v at hgone hout hin hv hmem ⊢
  obtain ⟨pre, hws, hpre, hhead, hle, hfin, hmax⟩ := settledTo_spec (fun i => v.acked [i]) o.writes o.acked
  have hack := State.copyAck_running (s := v) (hv ▸ hq) hs
  refine ⟨_, o.settled fun i => v.acked [i], rfl, ?_, ?_, ?_, ?_, ?_, pre, hws, fun e he => (hgone e.id).1 (hpre e he),
    fun e he hg => ?_, fun hm => if_pos hm, fun hm => ?_⟩
  · rw [hack, State.copyChan_updCopy, hv]
    change _ :: (s.copyChan c ch).queue.drop 1 = _
    rw [hq]
    rfl
  · rw [hack]
    exact hmem
  · rw [hack]
    exact hout
  · rw [hack]
    exact hin
  · rw [hack, State.copyChan_updCopy]
  · exact Bool.false_ne_true ((hhead e he).symm.trans ((hgone e.id).2 hg))
  · have hb : (o.settled fun i => v.acked [i]).acked = (settledTo (fun i => v.acked [i]) o.acked o.writes).1 := if_neg hm
    rw [hb]
    exact ⟨hle, hfin, hmax⟩

end

/-! ### Final states (R381, R384) -/

section
variable (o : CopyOp)

theorem CopyOp.status_toNat : o.status.toNat = o.page % 2 ^ 32 * 2 ^ 32 + o.side % 2 * 2 ^ 18 + (if o.vis then 2 ^ 17 else 0) +
    (if o.sf then 2 ^ 16 else 0) + o.detail % 256 * 2 ^ 8 + o.state % 256 := by
  unfold CopyOp.status w64
  rw [BitVec.toNat_ofNat]
  refine Nat.mod_eq_of_lt ?_
  have := Nat.mod_lt o.page (show 0 < 2 ^ 32 by omega)
  split <;> split <;> omega

theorem CopyOp.status_state : o.status.toNat % 256 = o.state % 256 := by
  rw [CopyOp.status_toNat]
  split <;> split <;> omega

theorem CopyOp.status_detail : o.status.toNat / 2 ^ 8 % 256 = o.detail % 256 := by
  rw [CopyOp.status_toNat]
  split <;> split <;> omega

theorem CopyOp.status_vis : o.status.getLsbD 17 = o.vis := by
  have hbit : o.status.toNat / 2 ^ 17 % 2 = if o.vis then 1 else 0 := by
    rw [CopyOp.status_toNat]
    split <;> split <;> omega
  rw [BitVec.getLsbD, Nat.testBit_eq_decide_div_mod_eq, hbit]
  cases o.vis <;> rfl

end

/-- The copy that stood at the head of a channel is final. -/
def State.Final (s t : State) (c ch : Nat) (o : CopyOp) (state : Nat) (vis : Bool) : Prop :=
  (t.copyChan c ch).queue = (s.copyChan c ch).queue.drop 1 ∧ (t.copyChan c ch).wm = (s.copyChan c ch).wm ∧
    ∃ d, (t.copyChan c ch).recent.head? = some d ∧ d.seq = o.seq ∧ d.asid = o.asid ∧ d.status.toNat % 256 = state ∧
      d.status.toNat / 2 ^ 8 % 256 = o.detail % 256 ∧ d.status.getLsbD 17 = vis

theorem State.cores_countDown (s : State) (id : Nat) : (s.countDown id).cores = s.cores := by
  unfold State.countDown State.updLaunch
  split <;> rfl

theorem State.cores_sendContinuation (s : State) (f : Flight) : (s.sendContinuation f).cores = s.cores := by
  unfold State.sendContinuation
  split
  · split
    · exact s.cores_countDown _
    · exact s.cores_countDown _
  · rfl

theorem State.sendContinuation_alive {s : State} {f : Flight} (h : NatSet.has s.deadTasks f.uid = false) :
    s.sendContinuation f = { s with msgs := s.msgs ++ [f] } :=
  if_neg (ne_true_of_eq_false h)

section
variable {s u : State} {c ch : Nat} {o : CopyOp}

theorem State.cores_finishCopy (u : State) (c ch : Nat) (o : CopyOp) : (u.finishCopy c ch o).cores =
    (u.updCopy c ch (fun k => { k with queue := k.queue.drop 1, recent := (o.done :: k.recent).take 16 })).cores := by
  unfold State.finishCopy
  dsimp only
  split
  · exact State.cores_sendContinuation ..
  · rfl

theorem State.finishCopy_final (hu : u.cores = s.cores) (hst : o.state < 256) : s.Final (u.finishCopy c ch o) c ch o o.state o.vis := by
  unfold State.Final
  rw [State.copyChan_of_cores (u.cores_finishCopy c ch o), State.copyChan_updCopy, State.copyChan_of_cores hu]
  exact ⟨rfl, rfl, o.done, rfl, rfl, rfl, o.status_state.trans (Nat.mod_eq_of_lt hst), o.status_detail, o.status_vis⟩

theorem State.finishCopy_silent (h : bitOf o.flag 12 = false) : (u.finishCopy c ch o).msgs = u.msgs := by
  unfold State.finishCopy
  dsimp only
  rw [if_neg (ne_true_of_eq_false h)]
  rfl

/-- The continuation that a copy asks for is sent. -/
theorem State.finishCopy_continues (h : bitOf o.flag 12 = true) (hd : NatSet.has u.deadTasks o.uid = false) :
    (u.finishCopy c ch o).msgs = u.msgs ++ [o.continuation c ch] := by
  unfold State.finishCopy
  dsimp only
  rw [if_pos h]
  exact congrArg State.msgs (State.sendContinuation_alive hd)

end

/-! ### Events (R173 to R175, R382) -/

section
variable {s : State} {c ch : Nat} {o : CopyOp} {rest : List CopyOp}

theorem State.exec_copyEvent (hc : c < 1536) (hch : ch < 4) :
    exec (.engineEvent (.copyCh c ch)) s = .next (s.copyEvent c ch) := by
  rw [exec_engineEvent]
  have hexists : agentExists (.copyCh c ch) = true := by simp [agentExists, hc, hch]
  exact if_pos hexists

theorem State.copyEvent_empty (hq : (s.copyChan c ch).queue = []) : s.copyEvent c ch = s := by
  simp only [State.copyEvent, hq]

/-- Whether a copy that has met its fault waits for nothing more. -/
def CopyOp.Quiet (o : CopyOp) (s : State) : Prop := o.writes = [] ∧ ∀ l ∈ o.reads, s.allIn l = true

/-- Whether the source-free event of a copy is to be signalled. -/
def CopyOp.ReadDone (o : CopyOp) (s : State) : Prop := o.sf = false ∧ o.unread = false ∧ s.moveRead o.plan o.mov = true

/-- Whether its visible event is. -/
def CopyOp.WriteDone (o : CopyOp) : Prop := o.vis = false ∧ o.written = true

/-- The events of a copy that are due are signalled, of both the one that the engine chooses. -/
def State.copyDue (s : State) (c ch : Nat) (o : CopyOp) (sf vis : Bool) : State :=
  if sf && vis then
    let (k, s) := s.freeChoice
    if k % 2 = 0 then s.copySignal c ch { o with sf := true } else s.copySignal c ch { o with vis := true }
  else if sf then s.copySignal c ch { o with sf := true }
  else if vis then s.copySignal c ch { o with vis := true }
  else s

theorem CopyOp.quiet_iff : o.Quiet s ↔ (o.writes.isEmpty && o.reads.all s.allIn) = true := by
  simp [CopyOp.Quiet]

theorem CopyOp.readDone_iff : o.ReadDone s ↔ (!o.sf && !o.unread && s.moveRead o.plan o.mov) = true := by
  simp [CopyOp.ReadDone, and_assoc]

theorem CopyOp.writeDone_iff : o.WriteDone ↔ (!o.vis && o.written) = true := by
  simp [CopyOp.WriteDone]

theorem CopyOp.not_readDone_iff : ¬o.ReadDone s ↔ (!o.sf && !o.unread && s.moveRead o.plan o.mov) = false := by
  rw [CopyOp.readDone_iff, Bool.not_eq_true]

theorem CopyOp.not_writeDone_iff : ¬o.WriteDone ↔ (!o.vis && o.written) = false := by
  rw [CopyOp.writeDone_iff, Bool.not_eq_true]

variable (hq : (s.copyChan c ch).queue = o :: rest) (hs : o.state = 2)
include hq hs

theorem State.copyEvent_stopped {st : Nat} (hst : o.stopped = some st) (h : o.Quiet s) :
    s.copyEvent c ch = (s.dropLoads o.reads).finishCopy c ch { o with state := st } := by
  unfold State.copyEvent
  rw [hq]
  dsimp only
  rw [if_neg (by simp [hs])]
  split
  · next st' e =>
    cases hst.symm.trans e
    rw [if_pos (CopyOp.quiet_iff.1 h)]
  · next e => cases hst.symm.trans e

theorem State.copyEvent_unquiet {st : Nat} (hst : o.stopped = some st) (h : ¬o.Quiet s) : s.copyEvent c ch = s := by
  unfold State.copyEvent
  rw [hq]
  dsimp only
  rw [if_neg (by simp [hs])]
  split
  · rw [CopyOp.quiet_iff] at h
    rw [if_neg h]
  · next e => cases hst.symm.trans e

variable (hn : o.stopped = none)
include hn

/-- The event of a copy that has met no fault, by which of its two events is due. -/
theorem State.copyEvent_running : s.copyEvent c ch = s.copyDue c ch o (!o.sf && !o.unread && s.moveRead o.plan o.mov)
    (!o.vis && o.written) := by
  unfold State.copyEvent
  rw [hq]
  dsimp only
  rw [if_neg (by simp [hs])]
  split
  · next e => cases hn.symm.trans e
  · rfl

end

end Sys2Proof.Machine
end

section
/-!
PROOF. The steps of a copy (O40).
-/
namespace Sys2Proof.Machine

/-! ### The events of a copy that runs -/

/-- A copy of which both events are signalled. -/
def CopyOp.complete (o : CopyOp) : CopyOp := { o with sf := true, vis := true, state := 0x10 }

section
variable {s : State} {c ch : Nat} {o : CopyOp} {rest : List CopyOp}

theorem State.copySignal_one (h : (o.sf && o.vis) = false) : s.Heads (s.copySignal c ch o) c ch o := by
  unfold State.copySignal
  rw [if_neg (ne_true_of_eq_false h)]
  exact State.heads_setHead rfl ..

theorem State.copySignal_both (hsf : o.sf = true) (hvis : o.vis = true) :
    s.copySignal c ch o = s.finishCopy c ch o.complete := by
  obtain ⟨⟩ := o
  cases hsf
  cases hvis
  rfl

variable (hq : (s.copyChan c ch).queue = o :: rest) (hs : o.state = 2) (hn : o.stopped = none)
include hq hs hn

theorem State.copyEvent_idle (hr : ¬o.ReadDone s) (hw : ¬o.WriteDone) : s.copyEvent c ch = s := by
  rw [State.copyEvent_running hq hs hn, CopyOp.not_readDone_iff.1 hr, CopyOp.not_writeDone_iff.1 hw]
  rfl

theorem State.copyEvent_read (hr : o.ReadDone s) (hw : ¬o.WriteDone) :
    s.copyEvent c ch = s.copySignal c ch { o with sf := true } := by
  rw [State.copyEvent_running hq hs hn, CopyOp.readDone_iff.1 hr, CopyOp.not_writeDone_iff.1 hw]
  rfl

theorem State.copyEvent_written (hr : ¬o.ReadDone s) (hw : o.WriteDone) :
    s.copyEvent c ch = s.copySignal c ch { o with vis := true } := by
  rw [State.copyEvent_running hq hs hn, CopyOp.not_readDone_iff.1 hr, CopyOp.writeDone_iff.1 hw]
  rfl

/-- Of two events that are due, one is signalled. -/
theorem State.copyEvent_either (hr : o.ReadDone s) (hw : o.WriteDone) :
    s.Heads (s.copyEvent c ch) c ch { o with sf := true } ∨ s.Heads (s.copyEvent c ch) c ch { o with vis := true } := by
  rw [State.copyEvent_running hq hs hn, CopyOp.readDone_iff.1 hr, CopyOp.writeDone_iff.1 hw]
  obtain ⟨hsf, -⟩ := hr
  obtain ⟨hvis, -⟩ := hw
  unfold State.copyDue State.freeChoice
  rw [if_pos (by rfl)]
  dsimp only
  split
  · exact .inl (State.copySignal_one (s := { s with free := s.free + 1 }) (by simp [hvis]))
  · exact .inr (State.copySignal_one (s := { s with free := s.free + 1 }) (by simp [hsf]))

/-- The second of the two events ends the copy. -/
theorem State.copyEvent_last (h : (o.ReadDone s ∧ o.vis = true) ∨ (o.WriteDone ∧ o.sf = true)) :
    s.copyEvent c ch = s.finishCopy c ch o.complete := by
  rcases h with ⟨hr, hvis⟩ | ⟨hw, hsf⟩
  · have hw : ¬o.WriteDone := fun hw => Bool.false_ne_true (hw.1.symm.trans hvis)
    rw [State.copyEvent_read hq hs hn hr hw]
    exact State.copySignal_both (o := { o with sf := true }) rfl hvis
  · have hr : ¬o.ReadDone s := fun hr => Bool.false_ne_true (hr.1.symm.trans hsf)
    rw [State.copyEvent_written hq hs hn hr hw]
    exact State.copySignal_both (o := { o with vis := true }) hsf rfl

end

end Sys2Proof.Machine

namespace Sys2Proof
open Machine

/-- Settles O40: start, issue, acknowledgement and event, case by case of the copy at the head of the channel. -/
theorem copySteps : Obligations.CopySteps := by
  intro s c ch hc hch k agent start issue event head final page faulted
  have hstart : exec start s = .next (s.copyStart c ch) := State.exec_start hc hch
  have hissue : exec issue s = .next (s.copyIssue c ch) := State.exec_copyIssue hc hch
  have hevent : exec event s = .next (s.copyEvent c ch) := State.exec_copyEvent hc hch
  refine ⟨fun hq => ?empty, fun o rest hq => ?_⟩
  case empty =>
    exact ⟨by rw [hstart, State.copyStart_empty hq], by rw [hissue, State.copyIssue_empty hq],
      by rw [hevent, State.copyEvent_empty hq]⟩
  intro w m works
  refine ⟨fun h => ?idle, fun h => ?begins, fun h => ?waits, fun hw hl hm hr => ?asks, fun l hw hl => ?record,
    fun hw hl hm => ?linear, fun hw hl hr hm heb => ?layout, fun x more hx hs => State.respond_copy hq hx hs,
    fun st hs hst hlt => ?stopped, fun hs hn => ?running⟩
  case idle => rw [hstart, State.copyStart_idle hq h]
  case begins => exact ⟨_, hstart, State.copyStart_launched hq h⟩
  case waits => rw [hissue, State.copyIssue_idle hq h]
  case asks =>
    obtain ⟨l, hheads, hmem⟩ := State.copyAsk_heads (s := s) (c := c) (ch := ch) (o := o)
    exact ⟨_, l, hissue.trans (by rw [State.copyIssue_unread hq hw hl (o.unread_of hm hr)]), hheads, hmem⟩
  case record =>
    rw [hissue, State.copyIssue_record hq hw hl]
    refine ⟨fun h => by rw [State.copyRecord_wait h], fun d va h => ⟨_, _, rfl, State.copyRecord_fault h, rfl, rfl, rfl⟩,
      fun b h => ?_⟩
    have hheads := State.copyRecord_ok (c := c) (ch := ch) (o := o) h
    refine ⟨fun word hbad => ⟨_, rfl, CopyOp.withRecord_bad hbad ▸ hheads⟩, fun hgood => ?_⟩
    rw [CopyOp.withRecord_good hgood] at hheads
    exact ⟨_, _, rfl, hheads, hw.2.1, rfl, recBase_setBase (by simp [wordsOf]) (normVa_lt hc (BitVec.isLt _)),
      fun i hi => nth_setNth_zero _ _ _ hi⟩
  case linear =>
    have h : s.Moves c ch o rest := ⟨hq, hw, hl, CopyOp.read_of (.inl hm)⟩
    have hplan : o.plan.write o.mov = linearWrite o.dst o.len o.mov := by
      rw [CopyOp.plan_linear hm]
      rfl
    rw [hissue]
    intro n dest q src full
    refine ⟨fun hf => ⟨fun d held u hp => ?_, fun p held u hp => ?_⟩, fun l ls hf hloads => ⟨fun b hb => ?_, fun d va hb => ?_⟩,
      fun p held u hf hloads ha hp => ?_⟩
    · obtain ⟨g, hg⟩ := s.copyIssue_linearWriteFaults h hplan hf hp
      rw [CopyOp.start_linear_dst hm] at hg
      exact ⟨_, g, rfl, hg⟩
    · obtain ⟨r, g, hg⟩ := s.copyIssue_linearWrites h hplan hf hp
      exact ⟨_, r, g, rfl, hg⟩
    · obtain ⟨g, hheads, hmov, hwrites⟩ := s.copyIssue_takes h (hplan.trans (linearWrite_none hf)) hloads hb
      rw [CopyOp.plan_linear hm] at hmov
      exact ⟨_, g, rfl, hheads, hmov, hwrites⟩
    · obtain ⟨g, hg⟩ := s.copyIssue_readFaults h (hplan.trans (linearWrite_none hf)) hloads hb
      rw [CopyOp.start_linear_src hm] at hg
      exact ⟨_, g, rfl, hg⟩
    · obtain ⟨r, g, hheads, hlast, hop, haddr, hsize, hahead, hlen, hbuf, -⟩ :=
        s.copyIssue_linearAsks h (hplan.trans (linearWrite_none hf)) hloads (by rw [CopyOp.plan_linear hm]; rfl) ha
          (by rw [CopyOp.plan_linear hm]; rfl) hp
      exact ⟨_, r, g, rfl, hheads, hlast, hop, haddr, hsize, hahead, hlen, hbuf⟩
  case layout =>
    have h : s.Moves c ch o rest := ⟨hq, hw, hl, CopyOp.read_of (.inr hr)⟩
    rw [hissue]
    intro v eb leb count total n q j full ahead
    have hfull : full ↔ o.Full := Iff.rfl
    refine ⟨fun hm' hf p held u hp => ?_, fun hm' hf ha => ?_, fun hm' hf a p held u ha hunit hp => ?_,
      fun l ls b hf hloads hb => ?_, fun l ls d va hf hloads hb => ?_, fun hf hloads =>
        ⟨fun hm' hlt ha => ?_, fun a p held u hm' hlt ha hp => ?_, fun p held u hm' hlt hp => ?_⟩⟩
    · obtain ⟨r, g, hheads, hlast, hop, haddr, -, hnext, hbuf, -⟩ :=
        s.copyIssue_linearWrites h (CopyOp.write_gather hm') ((CopyOp.full_gather hm').1 (hfull.1 hf)) hp
      exact ⟨_, r, g, rfl, hheads, hlast, hop, haddr, hnext, hbuf⟩
    · obtain ⟨g, hg⟩ := s.copyIssue_skips h hm' (hfull.1 hf) ha
      exact ⟨_, g, rfl, hg⟩
    · obtain ⟨r, g, hg⟩ := s.copyIssue_scatters h hm' (hfull.1 hf) heb ha hunit hp
      exact ⟨_, r, g, rfl, hg⟩
    · obtain ⟨g, hheads, hmov, hwrites⟩ := s.copyIssue_takes h (CopyOp.write_none hm (mt hfull.2 hf)) hloads hb
      rw [CopyOp.take_layout hm] at hmov
      exact ⟨_, g, rfl, hheads, hwrites, hmov⟩
    · obtain ⟨g, hg⟩ := s.copyIssue_readFaults h (CopyOp.write_none hm (mt hfull.2 hf)) hloads hb
      rw [CopyOp.start_layout hm hr] at hg
      exact ⟨_, g, rfl, hg⟩
    · obtain ⟨g, hg⟩ := s.copyIssue_fills h hm' (mt hfull.2 hf) hloads hlt ha
      exact ⟨_, g, rfl, hg⟩
    · obtain ⟨r, g, hg⟩ := s.copyIssue_gathers h hm' (mt hfull.2 hf) hloads hlt heb ha hp
      exact ⟨_, r, g, rfl, hg⟩
    · obtain ⟨r, g, hg⟩ := s.copyIssue_scatterAsks h hm' (mt hfull.2 hf) hloads hlt hp
      exact ⟨_, r, g, rfl, hg⟩
  case stopped =>
    rw [hevent]
    refine ⟨fun h => ⟨_, rfl, ?_⟩, fun h => by rw [State.copyEvent_unquiet hq hs hst h]⟩
    rw [State.copyEvent_stopped hq hs hst h]
    exact State.finishCopy_final (o := { o with state := st }) (s.cores_dropLoads _) hlt
  case running =>
    rw [hevent]
    refine ⟨fun hr hw => by rw [State.copyEvent_idle hq hs hn hr hw], fun hr hw => ⟨_, rfl, State.copyEvent_either hq hs hn hr hw⟩,
      fun hr hw hvis => ⟨_, rfl, ?_⟩, fun hw hr hsf => ⟨_, rfl, ?_⟩, fun h => ⟨_, rfl, ?_⟩⟩
    · rw [State.copyEvent_read hq hs hn hr hw]
      exact State.copySignal_one (by simp [hvis])
    · rw [State.copyEvent_written hq hs hn hr hw]
      exact State.copySignal_one (by simp [hsf])
    · rw [State.copyEvent_last hq hs hn h]
      refine ⟨State.finishCopy_final (s := s) (o := o.complete) rfl (show 0x10 < 256 by decide), fun hb => ?_, fun hb hd =>
        ⟨o.complete.continuation c ch, ?_, rfl, rfl, rfl, rfl, rfl, rfl⟩⟩
      · exact State.finishCopy_silent (o := o.complete) hb
      · exact State.finishCopy_continues (o := o.complete) hb hd

end Sys2Proof
end

section
/-!
SUPPORT. The canonical form of the memories (R149, R151, R486): what keeps it, said once for each operation of the model.
-/
namespace Sys2Proof

/-! ### The entries of a finite table -/

theorem Map.forall_set {α : Type} {p : α → Prop} {m : Map α} (h : ∀ e ∈ m, p e.2) (i : Nat) {v : α} (hv : p v) :
    ∀ e ∈ m.set i v, p e.2 := by
  induction m with
  | nil => simpa [Map.set] using hv
  | cons e m ih =>
    obtain ⟨k, w⟩ := e
    rw [List.forall_mem_cons] at h
    simp only [Map.set]
    split
    · exact List.forall_mem_cons.2 ⟨hv, List.forall_mem_cons.2 h⟩
    · split
      · exact List.forall_mem_cons.2 ⟨hv, h.2⟩
      · exact List.forall_mem_cons.2 ⟨h.1, ih h.2⟩

theorem Map.get_of_forall {α : Type} {p : α → Prop} {m : Map α} (h : ∀ e ∈ m, p e.2) {d : α} (hd : p d) (i : Nat) : p (m.get d i) := by
  induction m with
  | nil => exact hd
  | cons e m ih =>
    obtain ⟨k, w⟩ := e
    rw [List.forall_mem_cons] at h
    simp only [Map.get]
    split
    · exact h.1
    · exact ih h.2

theorem forall_setNth {α : Type} {p : α → Prop} : ∀ {l : List α}, (∀ x ∈ l, p x) → ∀ (i : Nat) {v : α}, p v → ∀ x ∈ setNth l i v, p x
  | [], h, _, _, _ => h
  | _ :: _, h, 0, _, hv => List.forall_mem_cons.2 ⟨hv, (List.forall_mem_cons.1 h).2⟩
  | _ :: _, h, i + 1, _, hv =>
    List.forall_mem_cons.2 ⟨(List.forall_mem_cons.1 h).1, forall_setNth (List.forall_mem_cons.1 h).2 i hv⟩

end Sys2Proof

namespace Sys2Proof.Machine

/-! ### Results that carry a state -/

/-- The state of an operation's result has canonical memories. -/
def Res.MemoryForm : Res → Prop
  | .done s _ _ => s.MemoryForm
  | .trap .. => True
  | .hold s => s.MemoryForm
  | .gone s => s.MemoryForm

/-- The state that a gate goes on with has canonical memories. -/
def Gate.MemoryForm : Gate → Prop
  | .passed s => s.MemoryForm
  | .closed s => s.MemoryForm

/-- The next state of a step has canonical memories. -/
def Out1.MemoryForm : Out1 → Prop
  | .next s => s.MemoryForm
  | _ => True

theorem Res.MemoryForm.ite {c : Prop} {_ : Decidable c} {a b : Res} (ha : a.MemoryForm) (hb : b.MemoryForm) :
    Res.MemoryForm (if c then a else b) := by
  split
  · exact ha
  · exact hb

/-! ### The scratchpad of a core, and what pre-emption saves -/

theorem HomeCore.spSet_wf {x : HomeCore} (h : Memory.wf x.spad = true) {off : Nat} {bs : List PByte} :
    Memory.wf (x.spSet off bs).spad = true := wf_setPBytes h ..

theorem wf_keepSpad {m : List Host.Cell} (h : Memory.wf m = true) {old : Option Conf} {new : Conf} :
    Memory.wf (keepSpad m old new) = true := by
  unfold keepSpad
  split
  · split
    · exact Memory.wfFrom_filter _ h
    · rfl
  · rfl

theorem HomeCore.reconfigure_spad (x : HomeCore) (new : Conf) (text : Option (List Byte)) :
    (x.reconfigure new text).spad = keepSpad x.spad x.conf new := by
  unfold HomeCore.reconfigure
  cases text <;> rfl

theorem State.bestRec_mem {s : State} {c : Nat} {r : SaveRec} (h : s.bestRec c = some r) : r ∈ s.saves := by
  refine List.foldlRecOn (motive := fun (b : Option SaveRec) => ∀ x ∈ b, x ∈ s.saves) _ _ (by simp) (fun b hb x hx => ?_) r h
  cases b with
  | none => simpa using List.mem_of_mem_filter hx
  | some y =>
    dsimp only
    split
    · simpa using List.mem_of_mem_filter hx
    · exact hb

theorem HomeCore.waPut_wf {x : HomeCore} (h : Memory.wf x.spad = true) {off : Nat} {ws : List W32} :
    Memory.wf (x.waPut off ws).spad = true := wf_setPBytes h ..

theorem HomeCore.waFlip_wf {x : HomeCore} (h : Memory.wf x.spad = true) {a : WaSlot} {cfg : WaCfg} {base k : Nat} :
    Memory.wf (x.waFlip a cfg base k).spad = true := by
  induction k generalizing x with
  | zero => exact h
  | succ k ih => exact ih (HomeCore.waPut_wf h)

theorem HomeCore.waExpire_wf {x : HomeCore} (h : Memory.wf x.spad = true) {a : WaSlot} {cfg : WaCfg} :
    Memory.wf (x.waExpire a cfg).1.spad = true := by
  unfold HomeCore.waExpire
  split
  · exact HomeCore.waFlip_wf h
  · exact h

theorem HomeCore.waPush_wf {x : HomeCore} (h : Memory.wf x.spad = true) {a : WaSlot} {cfg : WaCfg} {v : List W32} :
    Memory.wf (x.waPush a cfg v).1.spad = true := by
  unfold HomeCore.waPush
  split
  next e =>
    refine HomeCore.waPut_wf (HomeCore.waPut_wf ?_)
    split at e
    · obtain rfl : (x.waExpire a cfg).1 = _ := congrArg Prod.fst e
      exact HomeCore.waExpire_wf h
    · cases e
      exact h

namespace State.MemoryForm

/-! ### Choices, pairs and folds -/

theorem ite {s t : State} {c : Prop} {_ : Decidable c} (hs : s.MemoryForm) (ht : t.MemoryForm) : (if c then s else t).MemoryForm := by
  split
  · exact hs
  · exact ht

theorem of_snd {α : Type} {p : α × State} (h : p.2.MemoryForm) {a : α} {t : State} (e : p = (a, t)) : t.MemoryForm := by
  subst e; exact h

theorem of_fst {α : Type} {p : State × α} (h : p.1.MemoryForm) {a : α} {t : State} (e : p = (t, a)) : t.MemoryForm := by
  subst e; exact h

theorem of_third {α β : Type} {p : α × β × State} (h : p.2.2.MemoryForm) {a : α} {b : β} {t : State} (e : p = (a, b, t)) :
    t.MemoryForm := by
  subst e; exact h

theorem of_fourth {α β γ : Type} {p : α × β × γ × State} (h : p.2.2.2.MemoryForm) {a : α} {b : β} {c : γ} {t : State}
    (e : p = (a, b, c, t)) : t.MemoryForm := by
  subst e; exact h

theorem of_passed {g : Gate} (h : g.MemoryForm) {t : State} (e : g = .passed t) : t.MemoryForm := by
  subst e; exact h

theorem of_closed {g : Gate} (h : g.MemoryForm) {t : State} (e : g = .closed t) : t.MemoryForm := by
  subst e; exact h

theorem foldl {α : Type} {f : State → α → State} (hf : ∀ {t : State} (a : α), t.MemoryForm → (f t a).MemoryForm) {l : List α} {s : State}
    (h : s.MemoryForm) : (l.foldl f s).MemoryForm :=
  List.foldlRecOn l f h fun _ ht a _ => hf a ht

/-! ### The state's own fields -/

/-- A change of other fields of the state. -/
theorem congr {s t : State} (h : s.MemoryForm) (hm : t.mem = s.mem) (hc : t.cores = s.cores) (hs : t.saves = s.saves) : t.MemoryForm :=
  ⟨hm ▸ h.hbm, hc ▸ h.spads, hs ▸ h.saved⟩

/-- A change of other fields, made or not. -/
theorem ite_congr {s t : State} {c : Prop} {_ : Decidable c} (h : s.MemoryForm) (hm : t.mem = s.mem) (hc : t.cores = s.cores)
    (hs : t.saves = s.saves) : (if c then t else s).MemoryForm :=
  (h.congr hm hc hs).ite h

variable {s : State}

theorem core (h : s.MemoryForm) (c : Nat) : Memory.wf (s.core c).spad = true :=
  Map.get_of_forall (p := fun (x : HomeCore) => Memory.wf x.spad = true) h.spads rfl c

theorem setCore_of_wf {c : Nat} {x : HomeCore} (h : s.MemoryForm) (hx : Memory.wf x.spad = true) : (s.setCore c x).MemoryForm :=
  ⟨h.hbm, Map.forall_set (p := fun (x : HomeCore) => Memory.wf x.spad = true) h.spads c hx, h.saved⟩

theorem updCore_of_wf {c : Nat} {f : HomeCore → HomeCore} (h : s.MemoryForm) (hf : Memory.wf (f (s.core c)).spad = true) :
    (s.updCore c f).MemoryForm := h.setCore_of_wf hf

theorem setCore {c : Nat} {x : HomeCore} (h : s.MemoryForm) (hx : x.spad = (s.core c).spad) : (s.setCore c x).MemoryForm :=
  h.setCore_of_wf (hx ▸ h.core c)

theorem updCore {c : Nat} {f : HomeCore → HomeCore} (h : s.MemoryForm) (hf : (f (s.core c)).spad = (s.core c).spad) :
    (s.updCore c f).MemoryForm := h.setCore hf

theorem updHere {f : HomeCore → HomeCore} (h : s.MemoryForm) (hf : (f s.here).spad = s.here.spad) : (s.updHere f).MemoryForm :=
  h.updCore hf

theorem setCtx {c k : Nat} {t : Ctx} (h : s.MemoryForm) : (s.setCtx c k t).MemoryForm := h.updCore rfl
theorem updCtx {c k : Nat} {f : Ctx → Ctx} (h : s.MemoryForm) : (s.updCtx c k f).MemoryForm := h.setCtx
theorem setCur {t : Ctx} (h : s.MemoryForm) : (s.setCur t).MemoryForm := h.setCtx
theorem updCur {f : Ctx → Ctx} (h : s.MemoryForm) : (s.updCur f).MemoryForm := h.setCur

/-- Changes of what pre-emptions have saved. -/
theorem withSaves {l : List SaveRec} (h : s.MemoryForm) (hl : ∀ r ∈ l, Memory.wf r.spad = true) :
    ({ s with saves := l } : State).MemoryForm :=
  ⟨h.hbm, h.spads, hl⟩

/-- Changes of saved tasks that keep the saved scratchpads. -/
theorem mapSaves {f : SaveRec → SaveRec} (h : s.MemoryForm) (hf : ∀ r, (f r).spad = r.spad) :
    ({ s with saves := s.saves.map f } : State).MemoryForm :=
  h.withSaves (List.forall_mem_map.2 fun r hr => hf r ▸ h.saved r hr)

theorem filterSaves {p : SaveRec → Bool} (h : s.MemoryForm) : ({ s with saves := s.saves.filter p } : State).MemoryForm :=
  h.withSaves fun r hr => h.saved r (List.mem_of_mem_filter hr)

theorem setSave {i : Nat} {r r' : SaveRec} (h : s.MemoryForm) (hi : s.saves[i]? = some r) (hr : r'.spad = r.spad) :
    ({ s with saves := setNth s.saves i r' } : State).MemoryForm :=
  h.withSaves (forall_setNth (p := fun (x : SaveRec) => Memory.wf x.spad = true) h.saved i (hr ▸ h.saved r (List.mem_of_getElem? hi)))

/-! ### Writes at the homes -/

theorem respond {r : Resp} (h : s.MemoryForm) : (s.respond r).MemoryForm := h.congr rfl rfl rfl
theorem bumpOrder {pa : Nat} (h : s.MemoryForm) : (s.bumpOrder pa).MemoryForm := h.congr rfl rfl rfl
theorem bumpLines {pa n : Nat} (h : s.MemoryForm) : (s.bumpLines pa n).MemoryForm := h.foldl fun _ ht => ht.bumpOrder

end State.MemoryForm

end Sys2Proof.Machine
end

section
/-!
SUPPORT. What keeps the canonical form of the memories:
writes, translation, accesses, the vector pool, tasks and the run of an instruction.
Each lemma says it of the operation that it is named after, in the order of the model.
-/
namespace Sys2Proof.Machine

namespace State.MemoryForm

variable {s : State}

/-! ### Machine/Ops.lean -/

theorem fresh (h : s.MemoryForm) : s.fresh.2.MemoryForm := h.congr rfl rfl rfl

theorem freeWord (h : s.MemoryForm) : s.freeWord.2.MemoryForm := h.congr rfl rfl rfl

theorem freeChoice (h : s.MemoryForm) : s.freeChoice.2.MemoryForm := h.congr rfl rfl rfl

/-! ### Machine/DevRegs.lean -/

theorem setReg {pa : Nat} {v : W64} (h : s.MemoryForm) : (s.setReg pa v).MemoryForm := h.congr rfl rfl rfl

/-! ### Machine/Write.lean -/

theorem answerWaita {home : Home} {a n : Nat} {word : Nat → List PByte} (h : s.MemoryForm) : (s.answerWaita home a n word).MemoryForm :=
  foldl (fun _ ht => ht.respond) (h.congr rfl rfl rfl)

theorem spAnswer {c off n : Nat} (h : s.MemoryForm) : (s.spAnswer c off n).MemoryForm := h.answerWaita

theorem spWrite {c off : Nat} {bs : List PByte} (h : s.MemoryForm) : (s.spWrite c off bs).MemoryForm :=
  have hw : Memory.wf ((s.core c).spWrite off bs).spad = true := wf_setPBytes (h.core c) ..
  (h.updCore_of_wf hw).spAnswer

theorem spTouched {c : Nat} {ranges : List (Nat × Nat)} (h : s.MemoryForm) : (s.spTouched c ranges).MemoryForm :=
  foldl (fun _ ht => spAnswer (ht.updCore rfl)) h

theorem answerFutures {a n : Nat} (h : s.MemoryForm) : (s.answerFutures a n).MemoryForm :=
  foldl (fun _ ht => ht.respond) (h.congr rfl rfl rfl)

theorem afterWrite {pa n : Nat} (h : s.MemoryForm) : (s.afterWrite pa n).MemoryForm := h.answerWaita.answerFutures

theorem memWrite {pa : Nat} {bs : List PByte} (h : s.MemoryForm) : (s.memWrite pa bs).MemoryForm :=
  afterWrite (bumpLines ⟨wf_setPBytes h.hbm .., h.spads, h.saved⟩)

theorem memSetWord {pa : Nat} {v : W64} (h : s.MemoryForm) : (s.memSetWord pa v).MemoryForm := h.memWrite

theorem wf_scatter {base : Nat} {bs : Map PByte} {mp : List Host.Cell × NatSet} (h : Memory.wf mp.1 = true) :
    Memory.wf (bs.foldl (fun (mp : List Host.Cell × NatSet) e => setPBytes mp.1 mp.2 (base + e.1) [e.2]) mp).1 = true :=
  List.foldlRecOn (motive := fun (x : List Host.Cell × NatSet) => Memory.wf x.1 = true) bs _ h fun _ hm _ _ => wf_setPBytes hm ..

theorem memScatter {base : Nat} {bs : Map PByte} (h : s.MemoryForm) : (s.memScatter base bs).MemoryForm :=
  foldl (fun _ ht => ht.afterWrite) (bumpOrder ⟨wf_scatter h.hbm, h.spads, h.saved⟩)

/-! ### Machine/Translate.lean -/

theorem raiseHorizon {die t : Nat} (h : s.MemoryForm) : (s.raiseHorizon die t).MemoryForm := h.ite (h.congr rfl rfl rfl)

theorem setDirtyBit {leaf : Nat} (h : s.MemoryForm) : (s.setDirtyBit leaf).MemoryForm := by
  unfold State.setDirtyBit
  exact h.memWrite

theorem logDirty {c asid : Nat} {l : Tr} (h : s.MemoryForm) : (s.logDirty c asid l).MemoryForm := h.spWrite.setReg.ite h.setDirtyBit

theorem grant {die slice asid va : Nat} {tr : Tr} (h : s.MemoryForm) : (s.grant die slice asid va tr).MemoryForm :=
  h.ite (h.raiseHorizon.ite (h.raiseHorizon.congr rfl rfl rfl))

theorem translate {die asid va : Nat} {write : Bool} {c : Option Nat} (h : s.MemoryForm) :
    (s.translate die asid va write c).2.MemoryForm := by
  unfold State.translate
  split
  · exact h
  · split
    · exact h
    · dsimp only
      split
      · split
        · exact h.logDirty.grant
        · exact h.grant
      · exact h.grant

/-! ### Machine/Access.lean -/

theorem enqueueOut {c : Nat} {o : Out} (h : s.MemoryForm) : (s.enqueueOut c o).MemoryForm := by
  unfold State.enqueueOut
  exact h.fresh.updCore rfl

theorem enqueue {c : Nat} {r : Req} {write own : Bool} (h : s.MemoryForm) : (s.enqueue c r write own).MemoryForm := h.enqueueOut

theorem writeBack {c : Nat} {l : L1Line} (h : s.MemoryForm) : (s.writeBack c l).MemoryForm := (h.enqueueOut.updCore rfl).ite h

theorem evictWhole {c : Nat} {l : L1Line} (h : s.MemoryForm) : (s.evictWhole c l).MemoryForm := h.writeBack.updCore rfl

theorem wayFor {c va : Nat} (h : s.MemoryForm) : (s.wayFor c va).2.MemoryForm := by
  unfold State.wayFor
  dsimp only
  split
  · exact h
  · split
    · exact h.freeChoice.evictWhole
    · exact h.freeChoice

theorem writeBackAt {c asid va : Nat} (h : s.MemoryForm) : (s.writeBackAt c asid va).MemoryForm := by
  unfold State.writeBackAt
  split
  · exact h.writeBack
  · exact h

theorem writeBackAll {c : Nat} {p : L1Line → Bool} (h : s.MemoryForm) : (s.writeBackAll c p).MemoryForm :=
  foldl (fun _ ht => ht.writeBack.ite ht) h

theorem acquire {c : Nat} {sc : Scope} (h : s.MemoryForm) : (s.acquire c sc).MemoryForm := by
  unfold State.acquire
  split
  · exact h
  · exact h
  · exact h.updCore rfl
  · exact (h.updCore rfl).congr rfl rfl rfl

theorem release {sc : Scope} (h : s.MemoryForm) : (s.release sc).1.MemoryForm := by
  unfold State.release
  split
  · exact h.writeBackAll
  · exact h

theorem raiseGate {sc : Scope} (h : s.MemoryForm) : (s.raiseGate sc).MemoryForm := by
  unfold State.raiseGate
  split
  · next e =>
      split
      · exact h.release.of_fst e
      · exact (h.release.of_fst e).updCur

theorem gate {sc : Scope} (h : s.MemoryForm) : (s.gate sc).MemoryForm := by
  unfold State.gate
  split
  · split
    · exact h
    · dsimp only
      split
      · exact h.updCur.raiseGate
      · exact h.updCur
  · exact h.raiseGate

theorem xlate {va : Nat} {write : Bool} (h : s.MemoryForm) : (s.xlate va write).2.MemoryForm := by
  unfold State.xlate
  split
  · next e => exact h.translate.of_snd e
  · next e => exact h.translate.of_snd e

theorem holdFor {id : Nat} (h : s.MemoryForm) : (s.holdFor id).MemoryForm := h.updCur

theorem acceptLine {c asid va : Nat} {tr : Tr} (h : s.MemoryForm) : (s.acceptLine c asid va tr).MemoryForm := by
  unfold State.acceptLine
  split
  · exact (h.writeBack.updCore rfl).ite (h.updCore rfl)
  · exact h

theorem lineFor {c asid va : Nat} {tr : Tr} {sc : Scope} (h : s.MemoryForm) : (s.lineFor c asid va tr sc).2.MemoryForm := by
  unfold State.lineFor
  dsimp only
  split
  · exact h.acceptLine
  · exact h.acceptLine.wayFor

theorem returned {c uid asid va n : Nat} (h : s.MemoryForm) : (s.returned c uid asid va n).MemoryForm := by
  unfold State.returned
  split
  · exact h
  · exact h.updCore rfl

theorem hit {va n : Nat} (h : s.MemoryForm) : (s.hit va n).MemoryForm := by
  unfold State.hit
  exact h.returned.updCur

theorem sendLoad {va n : Nat} {tr : Tr} {sc : Scope} {acq : Option Scope} {dest : Dest} (h : s.MemoryForm) :
    (s.sendLoad va n tr sc acq dest).MemoryForm :=
  (h.writeBackAt.ite h).enqueue

theorem storeL1 {va : Nat} {tr : Tr} {sc : Scope} {bs : List Byte} (h : s.MemoryForm) : (s.storeL1 va tr sc bs).MemoryForm := by
  unfold State.storeL1
  exact h.lineFor.updCore rfl

theorem storeThrough {va : Nat} {tr : Tr} {sc : Scope} {bs : List Byte} (h : s.MemoryForm) : (s.storeThrough va tr sc bs).MemoryForm := by
  unfold State.storeThrough
  dsimp only
  refine enqueue ?_
  split
  · exact h.writeBackAt.updCore rfl
  · exact h.writeBackAt

/-! ### Machine/Pool.lean -/

theorem poolGrant {o : Nat} {l : List PoolReq} (h : s.MemoryForm) : (s.poolGrant o l).MemoryForm := by
  induction l generalizing s with
  | nil => exact h.congr rfl rfl rfl
  | cons r rest ih =>
    unfold State.poolGrant
    split
    · exact ih h.updCtx
    · exact h.congr rfl rfl rfl

theorem poolRun {o : Nat} (h : s.MemoryForm) : (s.poolRun o).MemoryForm := by
  unfold State.poolRun
  split
  · exact h
  · exact h.poolGrant

theorem leavePool {c k uid : Nat} (h : s.MemoryForm) : (s.leavePool c k uid).MemoryForm := by
  unfold State.leavePool
  split
  · exact h
  · exact h.congr rfl rfl rfl

theorem poolTake (h : s.MemoryForm) : s.poolTake.MemoryForm := h.congr rfl rfl rfl

/-! ### Machine/Tasks.lean -/

theorem updLaunch {id : Nat} {f : Launch → Launch} (h : s.MemoryForm) : (s.updLaunch id f).MemoryForm := by
  unfold State.updLaunch
  split
  · exact h.congr rfl rfl rfl
  · exact h

theorem countUp {id : Nat} (h : s.MemoryForm) : (s.countUp id).MemoryForm := h.updLaunch

theorem countDown {id : Nat} (h : s.MemoryForm) : (s.countDown id).MemoryForm := h.updLaunch

theorem tally {id : Nat} {e : TaskEnd} (h : s.MemoryForm) : (s.tally id e).MemoryForm := by
  cases e with
  | ended => exact h
  | killed => exact h.updLaunch
  | lost => exact h.updLaunch

theorem sendLeave {c asid group : Nat} (h : s.MemoryForm) : (s.sendLeave c asid group).2.MemoryForm := by
  unfold State.sendLeave
  split
  · next e => exact h.translate.of_snd e
  · next e => exact ((h.translate.of_snd e).writeBackAt).enqueue

theorem finishLeaving {l : Leaving} (h : s.MemoryForm) : (s.finishLeaving l).MemoryForm := by
  unfold State.finishLeaving
  dsimp only
  refine countDown ?_
  split
  · exact h.setCtx.updCtx.ite h.setCtx
  · exact h

theorem leaveGroups {l : Leaving} {gs : List Nat} (h : s.MemoryForm) : (s.leaveGroups l gs).MemoryForm := by
  induction gs generalizing s with
  | nil => exact h.finishLeaving
  | cons g rest ih =>
    unfold State.leaveGroups
    split
    · next e => exact (h.sendLeave.of_snd e).congr rfl rfl rfl
    · next e => exact ih (h.sendLeave.of_snd e)

theorem leftGroup {id : Nat} (h : s.MemoryForm) : (s.leftGroup id).MemoryForm := by
  unfold State.leftGroup
  split
  · exact h
  · refine leaveGroups ?_
    exact h.congr rfl rfl rfl

theorem endAway {c : Nat} {t : Ctx} {how : TaskEnd} (h : s.MemoryForm) : (s.endAway c t how).MemoryForm := by
  unfold State.endAway
  dsimp only
  refine leaveGroups ?_
  exact tally (h.congr rfl rfl rfl)

theorem sendWithdraw {c : Nat} {r : Req} (h : s.MemoryForm) : (s.sendWithdraw c r).MemoryForm := h.enqueue

theorem withdraw {c uid : Nat} {ldf : Option Req} (h : s.MemoryForm) : (s.withdraw c uid ldf).MemoryForm := by
  unfold State.withdraw
  dsimp only
  split
  · refine sendWithdraw ?_
    refine updCore ?_ rfl
    exact h.congr rfl rfl rfl
  · refine updCore ?_ rfl
    exact h.congr rfl rfl rfl

theorem clearMarksOf {uid : Nat} (h : s.MemoryForm) : (s.clearMarksOf uid).MemoryForm := h.congr rfl rfl rfl

theorem countMessages {uid : Nat} (h : s.MemoryForm) : (s.countMessages uid).MemoryForm :=
  (foldl (fun _ ht => ht.countUp) h).congr rfl rfl rfl

theorem closeTask {c k : Nat} {how : TaskEnd} (h : s.MemoryForm) : (s.closeTask c k how).MemoryForm := by
  unfold State.closeTask
  exact leaveGroups (tally (poolRun (leavePool (setCtx (h.withdraw.clearMarksOf.countMessages.updCore rfl)))))

theorem endTask {c k : Nat} (h : s.MemoryForm) : (s.endTask c k).MemoryForm := h.closeTask

theorem killTask {c k : Nat} (h : s.MemoryForm) : (s.killTask c k).MemoryForm := closeTask (h.congr rfl rfl rfl)

theorem trapNow {c k cause info : Nat} {fb : W64} {epc insn : Nat} (h : s.MemoryForm) :
    (s.trapNow c k cause info fb epc insn).MemoryForm :=
  h.setCtx.ite (h.killTask.ite (h.setCtx.congr rfl rfl rfl))

theorem raise {c k : Nat} {req : Option Nat} {cause info : Nat} {fb : W64} {epc insn : Nat} (h : s.MemoryForm) :
    (s.raise c k req cause info fb epc insn).MemoryForm :=
  h.trapNow.ite h.updCtx

theorem trapAt {c k cause info : Nat} {fb : W64} {epc insn : Nat} (h : s.MemoryForm) : (s.trapAt c k cause info fb epc insn).MemoryForm :=
  h.raise

theorem unwait {c k : Nat} (h : s.MemoryForm) : (s.unwait c k).MemoryForm := by
  unfold State.unwait
  dsimp only
  refine updCtx ?_
  exact h.withdraw.leavePool.poolRun.congr rfl rfl rfl

theorem trapCur {cause info : Nat} {fb : W64} (h : s.MemoryForm) : (s.trapCur cause info fb).MemoryForm := h.trapAt

theorem migrateTask {c k : Nat} {f : Flight} (h : s.MemoryForm) : (s.migrateTask c k f).MemoryForm := by
  unfold State.migrateTask
  dsimp only
  refine updCtx ?_
  exact h.congr rfl rfl rfl

/-! ### Machine/Run.lean -/

theorem waitCond {parks : Bool} (h : s.MemoryForm) : (s.waitCond parks).MemoryForm := h.updCur

theorem waitStall (h : s.MemoryForm) : s.waitStall.MemoryForm := h.updCur

theorem slotUsed (h : s.MemoryForm) : s.slotUsed.MemoryForm := h.updHere rfl

theorem slotLost (h : s.MemoryForm) : s.slotLost.MemoryForm := h.updHere rfl

theorem retire {d : Desc} {ws : List Write} {next : Option Nat} (h : s.MemoryForm) : (s.retire d ws next).MemoryForm := h.updCur.slotUsed

theorem takeTrap {consumed : Bool} {cause info : Nat} {fb : W64} (h : s.MemoryForm) : (s.takeTrap consumed cause info fb).MemoryForm :=
  ((h.updCur.ite h).trapCur).slotLost

theorem takeKill (h : s.MemoryForm) : s.takeKill.MemoryForm := h.killTask.slotLost

theorem run {d : Desc} {body : State → Res} (h : s.MemoryForm) (hb : (body s).MemoryForm) : (s.run d body).MemoryForm := by
  have hp : ∀ {t : State}, t.MemoryForm → (if d.pool then t.poolTake else t).MemoryForm := fun ht => ht.poolTake.ite ht
  unfold State.run
  refine h.ite ?_
  split
  · exact h.takeTrap
  refine h.takeTrap.ite (h.takeTrap.ite ?_)
  split
  · exact h.takeTrap
  refine h.takeTrap.ite (h.slotLost.ite ((hp h).takeKill.ite ((hp h).takeKill.ite ?_)))
  split
  · next e => exact (hp (show Res.MemoryForm (.done ..) from e ▸ hb)).retire
  · exact (hp h).takeTrap
  · next e => exact show Res.MemoryForm (.hold _) from e ▸ hb
  · next e => exact show Res.MemoryForm (.gone _) from e ▸ hb

theorem issueWith {d : Desc} {body : State → Res} (h : s.MemoryForm) (hb : (body s).MemoryForm) : Out1.MemoryForm (s.issueWith d body) :=
  h.run hb

end State.MemoryForm

end Sys2Proof.Machine
end

section
/-!
SUPPORT. What keeps the canonical form of the memories:
the scalar instructions, loads and stores, special registers, reports and reads of device registers.
Each lemma says it of the operation that it is named after, in the order of the model.
-/
namespace Sys2Proof.Machine

namespace State.MemoryForm

variable {s : State}

/-! ### Machine/Operands.lean -/

theorem rrr {st rd rs1 rs2 : Nat} {lat : Option Nat} {f : W64 → W64 → W64} (h : s.MemoryForm) :
    Out1.MemoryForm (Machine.rrr st rd rs1 rs2 lat f s) := by
  unfold Machine.rrr
  refine h.issueWith ?_
  cases lat <;> exact h

theorem rr {st rd rs1 : Nat} {f : W64 → W64} (h : s.MemoryForm) : Out1.MemoryForm (Machine.rr st rd rs1 f s) := h.issueWith h

/-! ### Machine/ArrayOps.lean -/

theorem updHire {hid : Nat} {f : Hire → Hire} (h : s.MemoryForm) : (s.updHire hid f).MemoryForm := h.congr rfl rfl rfl

theorem updArray {id : Nat} {f : ArrayUnit → ArrayUnit} (h : s.MemoryForm) : (s.updArray id f).MemoryForm := h.congr rfl rfl rfl

theorem clearMark {hid : Nat} (h : s.MemoryForm) : (s.clearMark hid).MemoryForm := h.congr rfl rfl rfl

theorem setFinal {x : Hire} {w : W64} (h : s.MemoryForm) : (s.setFinal x w).MemoryForm :=
  (h.setCtx.ite h).mapSaves fun _ => rfl

theorem sendContinuation {f : Flight} (h : s.MemoryForm) : (s.sendContinuation f).MemoryForm := by
  unfold State.sendContinuation
  split
  · dsimp only
    split
    · exact h.countDown.clearMark
    · exact h.countDown
  · exact h.congr rfl rfl rfl

theorem sweepTiles {id : Nat} (h : s.MemoryForm) : (s.sweepTiles id).MemoryForm := h.updArray.ite h

theorem finishHire {hid state : Nat} (h : s.MemoryForm) : (s.finishHire hid state).MemoryForm := by
  unfold State.finishHire
  split
  · exact h
  · refine ite (sendContinuation ?_) ?_
    · exact setFinal (sweepTiles (updArray (h.congr rfl rfl rfl)))
    · exact setFinal (sweepTiles (updArray (h.congr rfl rfl rfl)))

theorem abortChain {h : Hire} (hs : s.MemoryForm) : (s.abortChain h).MemoryForm := by
  unfold State.abortChain
  split
  · exact hs.updArray
  · exact hs

theorem bounceOrder {hid : Nat} (h : s.MemoryForm) : (s.bounceOrder hid).MemoryForm := by
  unfold State.bounceOrder
  split
  · exact h
  · exact h.abortChain.finishHire

theorem bounce {hid detail off : Nat} (h : s.MemoryForm) : (s.bounce hid detail off).MemoryForm := by
  unfold State.bounce
  split
  · exact h
  · exact foldl (fun _ ht => ht.bounceOrder) h.updHire.updArray.abortChain.finishHire

/-! ### Machine/LoadStore.lean -/

theorem peeked {va : Nat} (h : s.MemoryForm) : (s.peeked va).MemoryForm := h.translate

theorem leaveFor {home : Nat} (h : s.MemoryForm) : (s.leaveFor home).MemoryForm := by
  unfold State.leaveFor
  split
  · next e => exact of_closed h.gate e
  · next e =>
    have ht := of_passed h.gate e
    split
    · exact ht
    · exact ht.migrateTask

theorem loadMiss {rd n : Nat} {signed : Bool} {sc : Scope} {acq : Option Scope} {va : W64} (h : s.MemoryForm) :
    (s.loadMiss rd n signed sc acq va).MemoryForm := by
  unfold State.loadMiss
  dsimp only
  split
  · exact h.peeked.leaveFor
  · split
    · trivial
    · next e =>
        split
        · trivial
        · exact ((h.xlate.of_snd e).sendLoad).holdFor.ite (h.xlate.of_snd e).sendLoad

theorem load {rd n : Nat} {signed : Bool} {sc : Scope} {acq : Bool} {va : W64} (h : s.MemoryForm) :
    (s.load rd n signed sc acq va).MemoryForm := by
  unfold State.load
  dsimp only
  split
  · trivial
  · split
    · exact h.waitStall
    · split
      · trivial
      · exact h.acquire.ite h
  · split
    · exact h.waitStall
    · split
      · trivial
      · exact h.enqueue.holdFor.ite h.enqueue
  · split
    · exact h.waitStall
    · split
      · split
        · exact h
        · split
          · trivial
          · exact h.hit.acquire.ite h.hit
      · exact h.loadMiss

theorem storeMiss {sc : Scope} {va : W64} {bs : List Byte} (h : s.MemoryForm) : (s.storeMiss sc va bs).MemoryForm := by
  unfold State.storeMiss
  dsimp only
  split
  · exact h.peeked.leaveFor
  · split
    · trivial
    · next e =>
        split
        · exact (h.xlate.of_snd e).storeThrough
        · exact (h.xlate.of_snd e).storeL1

theorem store {n : Nat} {sc : Scope} {va v : W64} (h : s.MemoryForm) : (s.store n sc va v).MemoryForm := by
  unfold State.store
  dsimp only
  split
  · trivial
  · split
    · exact h.waitStall
    · exact h.spWrite
  · split
    · exact h.waitStall
    · exact h.enqueue
  · split
    · exact h.waitStall
    · split
      · exact h.updHere rfl
      · exact h.storeMiss

theorem storeRel {n : Nat} {sc : Scope} {va v : W64} (h : s.MemoryForm) : (s.storeRel n sc va v).MemoryForm := by
  unfold State.storeRel
  dsimp only
  split
  · exact h.store
  · split
    · next e => exact of_closed h.gate e
    · next e => exact (of_passed h.gate e).store

theorem loadOp {st rd rs1 : Nat} {imm : BitVec 13} {n : Nat} {signed : Bool} (h : s.MemoryForm) :
    Out1.MemoryForm (loadOp st rd rs1 imm n signed s) :=
  h.issueWith h.load

theorem storeOp {st rs1 rs2 : Nat} {imm : BitVec 13} {n : Nat} (h : s.MemoryForm) : Out1.MemoryForm (storeOp st rs1 rs2 imm n s) :=
  h.issueWith h.store

theorem execLdx {st : Fin 8} {rd rs1 : Fin 32} {ord : Fin 2} {scope : Fin 8} {uns : Fin 2} {size : Fin 4} (h : s.MemoryForm) :
    Out1.MemoryForm (execLdx st rd rs1 ord scope uns size s) :=
  h.issueWith h.load

theorem execStx {st : Fin 8} {rs1 rs2 : Fin 32} {ord : Fin 2} {scope : Fin 8} {size : Fin 4} (h : s.MemoryForm) :
    Out1.MemoryForm (execStx st rs1 rs2 ord scope size s) := by
  unfold Machine.execStx
  refine h.issueWith ?_
  dsimp only
  split
  · exact h.storeRel
  · exact h.store

/-! ### Machine/CopyGo.lean -/

theorem cpgo {rd : Nat} (h : s.MemoryForm) : (s.cpgo rd).MemoryForm := by
  unfold State.cpgo
  dsimp only
  split
  · trivial
  · split
    · trivial
    · split
      · exact h.waitCond
      · exact (countUp (h.updHere rfl)).ite (h.updHere rfl)

/-! ### Machine/Csr.lean -/

theorem csrWrite {num : Nat} {v : W64} (h : s.MemoryForm) : (s.csrWrite num v).MemoryForm := by
  unfold State.csrWrite
  split
  · exact h.updCur
  · exact h.updCur
  · exact h.updCur
  · exact h.updCur
  · exact h.updCur
  · exact h.updCur
  · exact h.updCur
  · exact h.updCur
  · exact h.updCur
  · exact h.updCur
  · exact h.updCur
  · exact h.updCur
  · exact h.updCur
  · exact h.updHere rfl
  · exact h.congr rfl rfl rfl
  · exact h.updHere rfl
  · exact h

theorem csrOp {st rd : Nat} {rs1 : Option Nat} {num : Nat} {upd : Option (W64 → W64 → W64)} (h : s.MemoryForm) :
    Out1.MemoryForm (csrOp st rd rs1 num upd s) := by
  unfold Machine.csrOp
  refine h.issueWith ?_
  split
  · split
    · exact h.cpgo
    · split
      · exact h.waitStall
      · exact h.updCur.ite h
  · split
    · exact h
    · split
      · exact h.waitStall
      · exact ((h.updCur.ite h).updCur).csrWrite

theorem execCsrr {st : Fin 8} {rd : Fin 32} {num : Fin 2048} (h : s.MemoryForm) : Out1.MemoryForm (execCsrr st rd num s) := h.csrOp

theorem execCsrw {st : Fin 8} {rd rs1 : Fin 32} {num : Fin 2048} (h : s.MemoryForm) : Out1.MemoryForm (execCsrw st rd rs1 num s) :=
  h.csrOp

theorem execCsrs {st : Fin 8} {rd rs1 : Fin 32} {num : Fin 2048} (h : s.MemoryForm) : Out1.MemoryForm (execCsrs st rd rs1 num s) :=
  h.csrOp

theorem execCsrc {st : Fin 8} {rd rs1 : Fin 32} {num : Fin 2048} (h : s.MemoryForm) : Out1.MemoryForm (execCsrc st rd rs1 num s) :=
  h.csrOp

/-! ### Machine/Reports.lean -/

theorem writeRecord {q : Nat} {words : List W64} (h : s.MemoryForm) : (s.writeRecord q words).MemoryForm :=
  (h.memWrite.ite h).setReg.ite ((h.memWrite.ite h).setReg).memSetWord

theorem reportOf {kind unitType unit die n : Nat} {words : List W64} (h : s.MemoryForm) :
    (s.reportOf kind unitType unit die n words).MemoryForm :=
  h.setReg.ite h.writeRecord

theorem report {kind unitType unit die : Nat} {words : List W64} (h : s.MemoryForm) :
    (s.report kind unitType unit die words).MemoryForm :=
  h.reportOf

/-! ### Machine/DevRead.lean -/

/-- What `devRead` leaves keeps the form, whatever register stands at the address (opened as `State.devRead_readAs` is). -/
theorem devRead {pa : Nat} (h : s.MemoryForm) : (s.devRead pa).2.MemoryForm := by
  obtain ⟨f, hf⟩ : ∃ f, f = State.devRead := ⟨_, rfl⟩
  obtain ⟨g, hg⟩ : ∃ g, g = devRegAt := ⟨_, rfl⟩
  rw [← hf]
  delta State.devRead at hf
  rw [← hg] at hf
  rw [hf]
  beta_reduce
  clear hf hg
  cases g pa with
  | rqlost => exact h.setReg
  | issued c => exact h.updCore (f := fun e => { e with issued := 0 }) rfl
  | spoob c => exact h.updCore (f := fun e => { e with spoob := 0 }) rfl
  | corr c => exact h.updCore (f := fun e => { e with corr := 0 }) rfl
  | _ => exact h

/-- `devRead` is opened as a function, as in `devRead` above: unfolded at an address, the kernel would evaluate it. -/
theorem devLoad {pa n : Nat} (h : s.MemoryForm) : (s.devLoad pa n).2.MemoryForm := by
  have hr : ∀ {t : State} {pa : Nat}, t.MemoryForm → (t.devRead pa).2.MemoryForm := devRead
  obtain ⟨f, hf⟩ : ∃ f, f = State.devLoad := ⟨_, rfl⟩
  obtain ⟨g, hg⟩ : ∃ g, g = State.devRead := ⟨_, rfl⟩
  rw [← hf]
  delta State.devLoad at hf
  rw [← hg] at hf hr
  rw [hf]
  exact hr h

/-- The recursion is opened with a variable in the place of `devLoad`, for the same reason. -/
theorem devBytes {pa n fuel : Nat} (h : s.MemoryForm) : (s.devBytes pa n fuel).2.MemoryForm := by
  have hr : ∀ {t : State} {pa n : Nat}, t.MemoryForm → (t.devLoad pa n).2.MemoryForm := devLoad
  obtain ⟨f, hf⟩ : ∃ f, f = State.devBytes := ⟨_, rfl⟩
  obtain ⟨g, hg⟩ : ∃ g, g = State.devLoad := ⟨_, rfl⟩
  rw [← hf]
  delta State.devBytes State.devBytes._f at hf
  rw [← hg] at hf hr
  rw [hf]
  clear hf hg
  induction fuel generalizing s pa n with
  | zero => exact h
  | succ fuel ih =>
    change (if n = 0 then (([], s) : List Byte × State) else _).2.MemoryForm
    split
    · exact h
    · exact ih (hr h)

end State.MemoryForm

end Sys2Proof.Machine
end

section
/-!
SUPPORT. What keeps the canonical form of the memories:
the engines and the dense arrays.
Each lemma says it of the operation that it is named after, in the order of the model.
-/
namespace Sys2Proof.Machine

namespace State.MemoryForm

variable {s : State}

/-! ### Machine/Engine.lean -/

theorem engineSend {agent : Agent} {home : Home} {op : HomeOp} {addr size va asid : Nat} {exp : Option Nat} (h : s.MemoryForm) :
    (s.engineSend agent home op addr size va asid exp).2.MemoryForm :=
  h.fresh.congr rfl rfl rfl

theorem walkPage {die asid va : Nat} {write : Bool} (h : s.MemoryForm) : (s.walkPage die asid va write).2.MemoryForm := by
  unfold State.walkPage
  split
  · exact h
  · split
    · exact h
    · exact h.grant

theorem engineTr {held : Map Tr} {die asid va : Nat} {write : Bool} {need : Nat} {keep : Bool} (h : s.MemoryForm) :
    (s.engineTr held die asid va write need keep).2.2.MemoryForm := by
  unfold State.engineTr
  dsimp only
  split
  · split
    · split
      · next e => exact h.walkPage.of_snd e
      · next e => exact h.walkPage.of_snd e
    · split
      · exact h
      · split
        · exact h.raiseHorizon
        · exact h
  · split
    · next ht =>
      have ht := h.translate.of_snd ht
      split
      · next e =>
        split at e
        · cases e
        · exact ht.walkPage.of_snd e
      · next e =>
        split at e
        · cases e; exact ht
        · exact ht.walkPage.of_snd e
    · split
      · next e => exact h.translate.of_snd e
      · next e => exact h.translate.of_snd e

theorem enginePlace {held : Map Tr} {die core asid launch va n : Nat} {write keep : Bool} (h : s.MemoryForm) :
    (s.enginePlace held die core asid launch va n write keep).2.2.MemoryForm := by
  unfold State.enginePlace
  split
  · split
    · exact h
    · split
      · exact h
      · exact h
  · split
    · exact h
    · split
      · next e => exact h.engineTr.of_third e
      · next e => exact h.engineTr.of_third e

/-! ### Machine/Tensor.lean -/

theorem workPlace {w : Worker} {held : Map Tr} {va n : Nat} {write : Bool} (h : s.MemoryForm) :
    (s.workPlace w held va n write).2.2.MemoryForm :=
  h.enginePlace

theorem askUnit {w : Worker} {held : Map Tr} {l : EngLoad} (h : s.MemoryForm) : (s.askUnit w held l).2.2.MemoryForm := by
  unfold State.askUnit
  split
  · exact h
  · exact h
  · dsimp only
    split
    · next e => exact h.workPlace.of_third e
    · next e => exact (h.workPlace.of_third e).engineSend

theorem askAll {w : Worker} {held : Map Tr} {l : EngLoad} {fuel : Nat} (h : s.MemoryForm) : (s.askAll w held l fuel).2.2.MemoryForm := by
  induction fuel generalizing s held l with
  | zero => exact h
  | succ fuel ih =>
    unfold State.askAll
    split
    · exact h
    · exact ih h.askUnit

theorem engineAsk {w : Worker} {held : Map Tr} {va n : Nat} (h : s.MemoryForm) : (s.engineAsk w held va n).2.2.MemoryForm := h.askAll

theorem dropLoad {l : EngLoad} (h : s.MemoryForm) : (s.dropLoad l).MemoryForm := by
  unfold State.dropLoad
  refine foldl (fun _ ht => ?_) h
  split
  · exact ht.congr rfl rfl rfl
  · exact ht

theorem dropLoads {l : List EngLoad} (h : s.MemoryForm) : (s.dropLoads l).MemoryForm := foldl (fun _ ht => ht.dropLoad) h

theorem engineWrite {w : Worker} {held : Map Tr} {ids : List Nat} {l : List (Nat × List PByte)} (h : s.MemoryForm) :
    (s.engineWrite w held ids l).2.2.2.MemoryForm := by
  induction l generalizing s held ids with
  | nil => exact h
  | cons x rest ih =>
    unfold State.engineWrite
    dsimp only
    split
    · next e => exact h.workPlace.of_third e
    · next e => exact ih (h.workPlace.of_third e).engineSend

theorem moveAsk {w : Worker} {held : Map Tr} {p : Plan} {m : Mover} (h : s.MemoryForm) : (s.moveAsk w held p m).2.2.MemoryForm := by
  have ha : ∀ {l : EngLoad} {b : Bool} {x : Moved},
      (if b = true then (x, (s.askUnit w held l).2) else (.wait, held, s)).2.2.MemoryForm := by
    intro l b x
    split
    · exact h.askUnit
    · exact h
  unfold State.moveAsk
  dsimp only
  split
  · split
    · exact h
    · split
      · exact ha
      · split
        · exact ha
        · exact h
  · split
    · exact ha
    · exact h

theorem moveStep {w : Worker} {held : Map Tr} {p : Plan} {m : Mover} (h : s.MemoryForm) : (s.moveStep w held p m).2.2.MemoryForm := by
  unfold State.moveStep
  split
  · split
    · next e => exact h.engineWrite.of_fourth e
    · next e => exact h.engineWrite.of_fourth e
  · split
    · exact h.moveAsk
    · split
      · exact h.moveAsk
      · exact h
      · exact h.dropLoad

/-! ### Machine/Arrays.lean -/

theorem stepOf {ok : Bool} {f : State → State} (h : s.MemoryForm) (hf : (f s).MemoryForm) : Out1.MemoryForm (Machine.stepOf ok s f) := by
  unfold Machine.stepOf
  split
  · exact hf
  · trivial

theorem landPlace {h : Hire} {held : Map Tr} {va n : Nat} {write : Bool} (hs : s.MemoryForm) :
    (s.landPlace h held va n write).2.2.MemoryForm :=
  hs.enginePlace

theorem reserve {x : Hire} {held : Map Tr} {l : List (Nat × Nat)} (h : s.MemoryForm) : (s.reserve x held l).2.MemoryForm := by
  induction l generalizing s held with
  | nil => exact h
  | cons a rest ih =>
    unfold State.reserve
    split
    · next e => exact h.landPlace.of_third e
    · next e => exact ih (h.landPlace.of_third e)

theorem reserveBar {h : Hire} {held : Map Tr} (hs : s.MemoryForm) : (s.reserveBar h held).2.MemoryForm := by
  unfold State.reserveBar
  split
  · split
    · next e => exact hs.landPlace.of_third e
    · next e => exact hs.landPlace.of_third e
  · exact hs

theorem reserveHire {h : Hire} (hs : s.MemoryForm) : (s.reserveHire h).2.MemoryForm := by
  unfold State.reserveHire
  split
  · next e => exact hs.reserve.of_snd e
  · next e =>
      split
      · exact (hs.reserve.of_snd e).reserveBar
      · exact hs.reserve.of_snd e

theorem admitHire {id c : Nat} (h : s.MemoryForm) : (s.admitHire id c).MemoryForm := by
  unfold State.admitHire
  dsimp only
  split
  · exact h
  · split
    · exact h
    · split
      · exact h
      · split
        · exact h.updArray.updHire.bounceOrder
        · split
          · exact h.updArray.updHire.bounce
          · split
            · exact h.updArray.updHire
            · split
              · next e => exact (h.updArray.updHire.reserveHire.of_snd e).bounce
              · next e => exact (h.updArray.updHire.reserveHire.of_snd e).updHire

theorem execHireAdmit {array : Nat} {agent : Agent} (h : s.MemoryForm) : Out1.MemoryForm (execHireAdmit array agent s) := by
  unfold Machine.execHireAdmit
  refine h.stepOf ?_
  split
  · exact h.admitHire
  · exact h

theorem pushTake {h : Hire} {r : EngLoad} (hs : s.MemoryForm) : (s.pushTake h r).MemoryForm := by
  unfold State.pushTake
  dsimp only
  split
  · exact hs.dropLoad.updHire
  · split
    · exact hs.dropLoad.updHire.updHire
    · exact hs.dropLoad.updHire.bounce
    · exact hs.dropLoad.updHire

theorem pushStep {c : Nat} (h : s.MemoryForm) : (s.pushStep c).MemoryForm := by
  unfold State.pushStep
  split
  · exact h
  · split
    · exact h.pushTake
    · split
      · exact h.updHire
      · exact h.engineSend.updHire

theorem execOperandPush {core : Nat} (h : s.MemoryForm) : Out1.MemoryForm (execOperandPush core s) := h.stepOf h.pushStep

theorem makeReady {id entry : Nat} (h : s.MemoryForm) : (s.makeReady id entry).MemoryForm := by
  unfold State.makeReady
  dsimp only
  split
  · exact h
  · split
    · exact h
    · exact h.updHire.ite h

theorem execHireReady {array entry : Nat} (h : s.MemoryForm) : Out1.MemoryForm (execHireReady array entry s) := h.stepOf h.makeReady

theorem arrayStart {id : Nat} (h : s.MemoryForm) : (s.arrayStart id).MemoryForm := by
  unfold State.arrayStart
  dsimp only
  split
  · exact h
  · split
    · exact h
    · split
      · exact h.updArray.bounce
      · exact h.updArray.updArray.updHire

theorem execArrayStart {array : Nat} (h : s.MemoryForm) : Out1.MemoryForm (execArrayStart array s) := h.stepOf h.arrayStart

theorem computeEnd {id : Nat} (h : s.MemoryForm) : (s.computeEnd id).MemoryForm := by
  unfold State.computeEnd
  dsimp only
  split
  · exact h
  · exact h.ite (h.bounce.ite (h.updArray.finishHire.ite h.updArray.updHire))

theorem execHireComputeEnd {array : Nat} (h : s.MemoryForm) : Out1.MemoryForm (execHireComputeEnd array s) :=
  h.stepOf h.computeEnd.sweepTiles

theorem beginLanding {h : Hire} (hs : s.MemoryForm) : (s.beginLanding h).MemoryForm := by
  unfold State.beginLanding
  split
  · exact hs.bounce
  · split
    · next e => exact (hs.reserveHire.of_snd e).bounce
    · next e => exact (hs.reserveHire.of_snd e).updHire

theorem landBegin {id : Nat} (h : s.MemoryForm) : (s.landBegin id).MemoryForm := by
  unfold State.landBegin
  split
  · exact h
  · exact h.beginLanding

theorem execHireLanding {array : Nat} (h : s.MemoryForm) : Out1.MemoryForm (execHireLanding array s) := h.stepOf h.landBegin

theorem landOne {id : Nat} {h : Hire} (hs : s.MemoryForm) : (s.landOne id h).MemoryForm := by
  unfold State.landOne
  split
  · exact hs
  · split
    · exact hs.updHire
    · exact hs.engineSend.updHire

theorem landIssue {id : Nat} (h : s.MemoryForm) : (s.landIssue id).MemoryForm := by
  unfold State.landIssue
  split
  · exact h
  · exact h.landOne
  · exact h.freeChoice.landOne

theorem landArrive {id : Nat} (h : s.MemoryForm) : (s.landArrive id).MemoryForm := by
  unfold State.landArrive
  split
  · exact h
  · split
    · next e => exact (h.landPlace.of_third e).updHire
    · next e => exact ((h.landPlace.of_third e).engineSend).updHire

theorem execLandingArrive {array : Nat} (h : s.MemoryForm) : Out1.MemoryForm (execLandingArrive array s) := h.stepOf h.landArrive

theorem landEvent {id : Nat} (h : s.MemoryForm) : (s.landEvent id).MemoryForm := by
  unfold State.landEvent
  split
  · exact h
  · split
    · exact h.bounce
    · dsimp only
      refine finishHire ?_
      split
      · exact h.updHire.updArray
      · exact h.updHire

theorem renewHire {h : Hire} (hs : s.MemoryForm) : (s.renewHire h).MemoryForm := by
  unfold State.renewHire
  dsimp only
  split
  · exact hs.updHire.ite hs.bounce
  · exact updHire (foldl (fun _ ht => ht.raiseHorizon) hs)

theorem renewArray {id : Nat} (h : s.MemoryForm) : (s.renewArray id).MemoryForm := by
  unfold State.renewArray
  refine foldl (fun _ ht => ?_) h
  split
  · exact ht.renewHire
  · exact ht

theorem chainExpire {id bank : Nat} (h : s.MemoryForm) : (s.chainExpire id bank).MemoryForm := by
  unfold State.chainExpire
  dsimp only
  split
  · exact h
  · exact h.updArray.ite h

theorem execChainIdleExpire {array bank : Nat} (h : s.MemoryForm) : Out1.MemoryForm (execChainIdleExpire array bank s) :=
  h.stepOf h.chainExpire

theorem bindStore {id : Nat} (h : s.MemoryForm) : (s.bindStore id).MemoryForm := by
  unfold State.bindStore
  dsimp only
  split
  · exact h
  · split
    · exact h.bounce
    · split
      · exact h.bounce
      · split
        · exact h.bounce
        · exact h.updArray.finishHire

theorem execBindStore {array : Nat} (h : s.MemoryForm) : Out1.MemoryForm (execBindStore array s) := h.stepOf h.bindStore

theorem deliver {c k uid : Nat} {reg : Reg} {v : W64} (h : s.MemoryForm) : (s.deliver c k uid reg v).MemoryForm := h.setCtx.ite h

theorem unbindStep {id c : Nat} (h : s.MemoryForm) : (s.unbindStep id c).MemoryForm := by
  unfold State.unbindStep
  dsimp only
  split
  · exact h
  · exact h.updArray.deliver

theorem execUnbindPerform {array : Nat} {agent : Agent} (h : s.MemoryForm) : Out1.MemoryForm (execUnbindPerform array agent s) := by
  unfold Machine.execUnbindPerform
  refine h.stepOf ?_
  split
  · exact h.unbindStep
  · exact h

theorem arrayCool {id : Nat} (h : s.MemoryForm) : (s.arrayCool id).MemoryForm := h.updArray.ite h

theorem execArrayCool {array : Nat} (h : s.MemoryForm) : Out1.MemoryForm (execArrayCool array s) := h.stepOf h.arrayCool

theorem burstArrive {id c : Nat} (h : s.MemoryForm) : (s.burstArrive id c).MemoryForm := by
  unfold State.burstArrive
  dsimp only
  split
  · exact h
  · exact h.updArray.ite h.updArray.updArray

theorem execBurstArrive {array : Nat} {agent : Agent} (h : s.MemoryForm) : Out1.MemoryForm (execBurstArrive array agent s) := by
  unfold Machine.execBurstArrive
  refine h.stepOf ?_
  split
  · exact h.burstArrive
  · exact h

theorem warmExpire {id : Nat} (h : s.MemoryForm) : (s.warmExpire id).MemoryForm := by
  unfold State.warmExpire
  split
  · exact h.updArray.ite h
  · exact h

theorem execWarmHoldExpire {array : Nat} (h : s.MemoryForm) : Out1.MemoryForm (execWarmHoldExpire array s) := h.stepOf h.warmExpire

end State.MemoryForm

end Sys2Proof.Machine
end

section
/-!
SUPPORT. What keeps the canonical form of the memories:
atomics, copies, synchronisation, task and vector instructions.
Each lemma says it of the operation that it is named after, in the order of the model.
-/
namespace Sys2Proof.Machine

namespace State.MemoryForm

variable {s : State}

/-! ### Machine/Atomic.lean -/

theorem afterGate {sc : Option Scope} {act : State → Res} (h : s.MemoryForm) (ha : ∀ {t : State}, t.MemoryForm → (act t).MemoryForm) :
    (s.afterGate sc act).MemoryForm := by
  unfold State.afterGate
  split
  · exact ha h
  · dsimp only
    split
    · exact ha h
    · split
      · next e => exact of_closed h.gate e
      · next e => exact ha (of_passed h.gate e)

theorem dropLine {c asid va : Nat} (h : s.MemoryForm) : (s.dropLine c asid va).MemoryForm := by
  unfold State.dropLine
  split
  · exact h.updCore rfl
  · exact h

theorem sendRmw {va n : Nat} {tr : Tr} {op : HomeOp} {sc : Scope} {acq : Option Scope} {dest : Dest} (h : s.MemoryForm) :
    (s.sendRmw va n tr op sc acq dest).MemoryForm :=
  h.writeBackAt.dropLine.enqueue

theorem ownRmw {off n : Nat} {op : HomeOp} (h : s.MemoryForm) : (s.ownRmw off n op).MemoryForm := by
  unfold State.ownRmw
  split
  · exact h.spWrite
  · exact h

theorem rmw {rd n : Nat} {signed : Bool} {op : HomeOp} {ord : Nat} {va : W64} (h : s.MemoryForm) :
    (s.rmw rd n signed op ord va).MemoryForm := by
  unfold State.rmw
  dsimp only
  split
  · trivial
  · split
    · exact h.waitStall
    · split
      · trivial
      · change MemoryForm _
        split
        · exact h.ownRmw.acquire
        · exact h.ownRmw
  · split
    · exact h.waitStall
    · exact h.enqueue.holdFor.ite h.enqueue
  · split
    · exact h.waitStall
    · split
      · exact h.peeked.leaveFor
      · split
        · trivial
        · next e => exact ((h.xlate.of_snd e).sendRmw).holdFor.ite (h.xlate.of_snd e).sendRmw

theorem atomicOp {st rd rs1 rs2 ord : Nat} {op : AmoOp} {n : Nat} {signed : Bool} (h : s.MemoryForm) :
    Out1.MemoryForm (atomicOp st rd rs1 rs2 ord op n signed s) :=
  h.issueWith (h.afterGate fun ht => ht.rmw)

theorem execCas {st : Fin 8} {rd rs1 rs2 : Fin 32} {ord : Fin 8} {rs3 : Fin 32} (h : s.MemoryForm) :
    Out1.MemoryForm (execCas st rd rs1 rs2 ord rs3 s) :=
  h.issueWith (h.afterGate fun ht => ht.rmw)

theorem redReport {slice va detail : Nat} (h : s.MemoryForm) : (s.redReport slice va detail).MemoryForm := h.report

theorem red {rop f : Nat} {sc : Scope} {va d : W64} (h : s.MemoryForm) : (s.red rop f sc va d).MemoryForm := by
  unfold State.red
  dsimp only
  split
  · trivial
  · split
    · exact h.waitStall
    · split
      · exact h.report
      · exact h.ownRmw
  · split
    · exact h.waitStall
    · exact h.enqueue
  · split
    · exact h.waitStall
    · split
      · exact h.peeked.leaveFor
      · split
        · next e => exact ((h.translate.of_snd e).writeBackAt).redReport
        · next e => exact ((h.translate.of_snd e).writeBackAt).enqueue

theorem execRed {st ord : Fin 8} {rs1 rs2 : Fin 32} {rop fcode : Fin 16} (h : s.MemoryForm) :
    Out1.MemoryForm (execRed st ord rs1 rs2 rop fcode s) :=
  h.issueWith (h.afterGate fun ht => ht.red)

/-! ### Machine/Copy.lean -/

theorem updCopy {c ch : Nat} {f : CopyChan → CopyChan} (h : s.MemoryForm) : (s.updCopy c ch f).MemoryForm := h.updCore rfl

theorem finishCopy {c ch : Nat} {o : CopyOp} (h : s.MemoryForm) : (s.finishCopy c ch o).MemoryForm :=
  h.updCopy.sendContinuation.ite h.updCopy

theorem copyStart {c ch : Nat} (h : s.MemoryForm) : (s.copyStart c ch).MemoryForm := by
  unfold State.copyStart
  split
  · exact h.updCopy.ite h
  · exact h

theorem copyAsk {c ch : Nat} {o : CopyOp} (h : s.MemoryForm) : (s.copyAsk c ch o).MemoryForm := by
  unfold State.copyAsk
  split
  · next e => exact (h.engineAsk.of_third e).updCopy

theorem copyRecord {c ch : Nat} {o : CopyOp} {l : EngLoad} (h : s.MemoryForm) : (s.copyRecord c ch o l).MemoryForm := by
  unfold State.copyRecord
  split
  · exact h
  · exact h.updCopy
  · exact h.dropLoad.updCopy

theorem copyIssue {c ch : Nat} (h : s.MemoryForm) : (s.copyIssue c ch).MemoryForm := by
  unfold State.copyIssue
  split
  · exact h
  · split
    · exact h
    · split
      · exact h.copyRecord
      · split
        · exact h.copyAsk
        · split
          · exact h
          · next e => exact (h.moveStep.of_third e).updCopy
          · next e => exact (h.moveStep.of_third e).updCopy

theorem copyAck {c ch : Nat} (h : s.MemoryForm) : (s.copyAck c ch).MemoryForm := by
  unfold State.copyAck
  split
  · exact h
  · exact h.updCopy

theorem copySignal {c ch : Nat} {o : CopyOp} (h : s.MemoryForm) : (s.copySignal c ch o).MemoryForm := h.finishCopy.ite h.updCopy

theorem copyEvent {c ch : Nat} (h : s.MemoryForm) : (s.copyEvent c ch).MemoryForm := by
  unfold State.copyEvent
  split
  · exact h
  · split
    · exact h
    · split
      · exact h.dropLoads.finishCopy.ite h
      · exact (h.freeChoice.copySignal.ite h.freeChoice.copySignal).ite (h.copySignal.ite (h.copySignal.ite h))

theorem renewHeld {die asid : Nat} {held : Map Tr} (h : s.MemoryForm) : (s.renewHeld die asid held).2.MemoryForm := by
  unfold State.renewHeld
  split
  · exact h
  · exact foldl (fun _ ht => ht.raiseHorizon) h

theorem copyRenew {c ch : Nat} (h : s.MemoryForm) : (s.copyRenew c ch).MemoryForm := by
  unfold State.copyRenew
  split
  · exact h
  · split
    · exact h
    · split
      · next e => exact (h.renewHeld.of_snd e).updCopy
      · next e => exact (h.renewHeld.of_snd e).updCopy

theorem execCopyStart {agent : Agent} (h : s.MemoryForm) : Out1.MemoryForm (execCopyStart agent s) := by
  unfold Machine.execCopyStart
  split
  · exact h.stepOf h.copyStart
  · trivial

theorem updBde {u : Nat} {f : Bde → Bde} (h : s.MemoryForm) : (s.updBde u f).MemoryForm := h.congr rfl rfl rfl

theorem updBdeChan {u ch : Nat} {f : BdeChan → BdeChan} (h : s.MemoryForm) : (s.updBdeChan u ch f).MemoryForm := h.updBde

theorem execCpst {st : Fin 8} {rd rs1 : Fin 32} (h : s.MemoryForm) : Out1.MemoryForm (execCpst st rd rs1 s) := by
  unfold Machine.execCpst
  refine h.issueWith ?_
  dsimp only
  split
  · trivial
  · exact h

theorem execCpwait {st : Fin 8} {rd rs1 : Fin 32} {e : Fin 2} (h : s.MemoryForm) : Out1.MemoryForm (execCpwait st rd rs1 e s) := by
  unfold Machine.execCpwait
  refine h.issueWith ?_
  dsimp only
  split
  · trivial
  · split
    · split
      · exact h.acquire.ite h
      · exact h.waitCond
    · split
      · exact h.acquire.ite h
      · exact h.waitCond

/-! ### Machine/Sync.lean -/

theorem execFence {st : Fin 8} {rel acq : Fin 2} {scope : Fin 8} (h : s.MemoryForm) : Out1.MemoryForm (execFence st rel acq scope s) :=
  h.issueWith (h.afterGate fun ht => (ht.acquire.ite ht))

theorem execCln {st : Fin 8} {rs1 rs2 : Fin 32} (h : s.MemoryForm) : Out1.MemoryForm (execCln st rs1 rs2 s) := h.issueWith h.writeBackAll

theorem execInv {st : Fin 8} {rs1 rs2 : Fin 32} (h : s.MemoryForm) : Out1.MemoryForm (execInv st rs1 rs2 s) := h.issueWith (h.updHere rfl)

theorem parkFor {id : Nat} (h : s.MemoryForm) : (s.parkFor id).MemoryForm := h.updCur

theorem execWaita {st : Fin 8} {rd rs1 rs2 : Fin 32} {scope : Fin 8} (h : s.MemoryForm) :
    Out1.MemoryForm (execWaita st rd rs1 rs2 scope s) := by
  unfold Machine.execWaita
  refine h.issueWith ?_
  dsimp only
  split
  · trivial
  · split
    · trivial
    · trivial
    · split
      · exact h.waitStall
      · split
        · trivial
        · exact h.enqueue.parkFor
    · split
      · exact h.waitStall
      · split
        · exact h.peeked.leaveFor
        · split
          · trivial
          · next e =>
              split
              · trivial
              · exact (((h.xlate.of_snd e).writeBackAt).enqueue).parkFor

theorem objAddr {va align n : Nat} {write : Bool} (h : s.MemoryForm) : (s.objAddr va align n write).2.MemoryForm := by
  unfold State.objAddr
  split
  · exact h
  · split
    · exact h
    · exact h
    · split
      · exact h
      · split
        · next e => exact h.xlate.of_snd e
        · next e =>
            split
            · exact h.xlate.of_snd e
            · exact h.xlate.of_snd e

theorem sendObj {va n : Nat} {tr : Tr} {op : HomeOp} {sc : Scope} {acq : Option Scope} {dest : Dest} {write : Bool} (h : s.MemoryForm) :
    (s.sendObj va n tr op sc acq dest write).MemoryForm :=
  h.writeBackAt.enqueue

theorem execLdf {st : Fin 8} {rd rs1 : Fin 32} {ord : Fin 8} (h : s.MemoryForm) : Out1.MemoryForm (execLdf st rd rs1 ord s) := by
  unfold Machine.execLdf
  refine h.issueWith ?_
  dsimp only
  split
  · exact h.waitStall
  · split
    · trivial
    · next e =>
        split
        · exact h.peeked.leaveFor
        · exact ((h.objAddr.of_snd e).sendRmw).holdFor

theorem execStf {st : Fin 8} {rd rs1 rs2 : Fin 32} {ord : Fin 8} (h : s.MemoryForm) : Out1.MemoryForm (execStf st rd rs1 rs2 ord s) := by
  unfold Machine.execStf
  refine h.issueWith ?_
  refine h.afterGate fun ht => ?_
  dsimp only
  split
  · exact ht.waitStall
  · split
    · trivial
    · next e =>
        split
        · exact ht.peeked.leaveFor
        · exact (ht.objAddr.of_snd e).sendRmw

theorem execJoin {st : Fin 8} {rd rs1 : Fin 32} (h : s.MemoryForm) : Out1.MemoryForm (execJoin st rd rs1 s) := by
  unfold Machine.execJoin
  refine h.issueWith ?_
  dsimp only
  split
  · trivial
  · next e =>
      split
      · exact h.objAddr.of_snd e
      · split
        · exact h.objAddr.of_snd e
        · exact ((h.objAddr.of_snd e).sendObj).holdFor

theorem execLeave {st : Fin 8} {rd rs1 : Fin 32} (h : s.MemoryForm) : Out1.MemoryForm (execLeave st rd rs1 s) := by
  unfold Machine.execLeave
  refine h.issueWith ?_
  dsimp only
  split
  · trivial
  · next e =>
      split
      · exact h.objAddr.of_snd e
      · exact ((h.objAddr.of_snd e).sendObj).holdFor

theorem execBari {st : Fin 8} {rd rs1 rs2 : Fin 32} (h : s.MemoryForm) : Out1.MemoryForm (execBari st rd rs1 rs2 s) := by
  unfold Machine.execBari
  refine h.issueWith ?_
  refine h.afterGate fun ht => ?_
  dsimp only
  split
  · trivial
  · next e => exact (ht.objAddr.of_snd e).sendObj

theorem execBarv {st : Fin 8} {rd rs1 : Fin 32} {scope : Fin 8} (h : s.MemoryForm) : Out1.MemoryForm (execBarv st rd rs1 scope s) := by
  unfold Machine.execBarv
  refine h.issueWith ?_
  dsimp only
  refine h.afterGate fun ht => ?_
  split
  · trivial
  · next e => exact (ht.objAddr.of_snd e).sendObj

theorem execBarw {st : Fin 8} {rd rs1 rs2 : Fin 32} (h : s.MemoryForm) : Out1.MemoryForm (execBarw st rd rs1 rs2 s) := by
  unfold Machine.execBarw
  refine h.issueWith ?_
  dsimp only
  split
  · trivial
  · next e => exact ((h.objAddr.of_snd e).sendObj).parkFor

/-! ### Machine/TaskOps.lean -/

theorem sendChild {m : TaskMsg} {target : Nat} {reg : Option Reg} (h : s.MemoryForm) : (s.sendChild m target reg).MemoryForm := by
  unfold State.sendChild
  dsimp only
  refine updCur ?_
  exact h.congr rfl rfl rfl

theorem execSpawn {st : Fin 8} {rs1 rs2 : Fin 32} (h : s.MemoryForm) : Out1.MemoryForm (execSpawn st rs1 rs2 s) := by
  unfold Machine.execSpawn
  refine h.issueWith ?_
  split
  · trivial
  · exact h.afterGate fun ht => ht.sendChild

theorem execSpawnb {st : Fin 8} {rd rs1 rs2 : Fin 32} (h : s.MemoryForm) : Out1.MemoryForm (execSpawnb st rd rs1 rs2 s) := by
  unfold Machine.execSpawnb
  refine h.issueWith ?_
  split
  · trivial
  · split
    · exact h
    · exact h.afterGate fun ht => ht.sendChild

theorem execEndTask {st : Fin 8} (h : s.MemoryForm) : Out1.MemoryForm (execEndTask st s) := by
  unfold Machine.execEndTask
  refine h.issueWith ?_
  split
  · exact h.slotUsed.endTask
  · exact h

theorem execPark {st : Fin 8} {rd rs1 rs2 : Fin 32} (h : s.MemoryForm) : Out1.MemoryForm (execPark st rd rs1 rs2 s) := by
  unfold Machine.execPark
  refine h.issueWith ?_
  dsimp only
  split
  · trivial
  · split
    · trivial
    · generalize w64 (leNat (PByte.vals (s.here.spBytes _ 8))) = w
      exact .ite h h.updCur

theorem sendUnit {home : Home} {op : HomeOp} {acq : Option Scope} {dest : Dest} (h : s.MemoryForm) :
    (s.sendUnit home op acq dest).MemoryForm :=
  h.enqueue

theorem execQput {st : Fin 8} {rd rs1 rs2 : Fin 32} (h : s.MemoryForm) : Out1.MemoryForm (execQput st rd rs1 rs2 s) := by
  unfold Machine.execQput
  refine h.issueWith ?_
  dsimp only
  split
  · trivial
  · refine h.afterGate fun ht => ?_
    split
    · exact ht
    · exact ht.sendUnit

theorem execCancel {st : Fin 8} {rd rs1 : Fin 32} (h : s.MemoryForm) : Out1.MemoryForm (execCancel st rd rs1 s) :=
  h.issueWith (h.congr rfl rfl rfl)

theorem execSetbnd {st : Fin 8} {rd rs1 : Fin 32} {inc : Fin 16} (h : s.MemoryForm) : Out1.MemoryForm (execSetbnd st rd rs1 inc s) := by
  unfold Machine.execSetbnd
  refine h.issueWith ?_
  dsimp only
  split
  · exact h.updCur
  · split
    · exact h
    · exact h.updCur

theorem execImprove {st : Fin 8} {rd rs1 : Fin 32} {inc : Fin 16} (h : s.MemoryForm) : Out1.MemoryForm (execImprove st rd rs1 inc s) :=
  h.issueWith (h.afterGate fun ht => ht.sendUnit.holdFor)

theorem execRdinc {st : Fin 8} {rd : Fin 32} {inc : Fin 16} {acq hub : Fin 2} (h : s.MemoryForm) :
    Out1.MemoryForm (execRdinc st rd inc acq hub s) := by
  unfold Machine.execRdinc
  refine h.issueWith ?_
  dsimp only
  split
  · exact h.sendUnit.holdFor
  · split
    · trivial
    · exact h.acquire.ite h

theorem execIncset {st : Fin 8} {rd rs1 rs2 : Fin 32} (h : s.MemoryForm) : Out1.MemoryForm (execIncset st rd rs1 rs2 s) := by
  unfold Machine.execIncset
  refine h.issueWith ?_
  dsimp only
  split
  · exact h
  · exact h.afterGate fun ht => ht.sendUnit

/-! ### Machine/Vector.lean -/

theorem claimOp {st lmax lmin xd : Nat} {waits : Bool} (h : s.MemoryForm) : Out1.MemoryForm (claimOp st lmax lmin xd waits s) := by
  unfold Machine.claimOp
  refine h.issueWith ?_
  dsimp only
  split
  · exact h
  · split
    · exact h.updCur
    · split
      · exact h
      · split
        · exact h.takeKill
        · change MemoryForm _
          refine poolRun ?_
          refine updCur ?_
          exact h.congr rfl rfl rfl

theorem execVren {st : Fin 8} {lmax lmin : Fin 4} {xd : Fin 32} (h : s.MemoryForm) : Out1.MemoryForm (execVren st lmax lmin xd s) := by
  unfold Machine.execVren
  refine h.issueWith ?_
  dsimp only
  split
  · exact h
  · split
    · exact h.updCur
    · split
      · exact h.updCur
      · exact h.updCur.updCur.poolRun

theorem execVrel {st : Fin 8} (h : s.MemoryForm) : Out1.MemoryForm (execVrel st s) := by
  unfold Machine.execVrel
  refine h.issueWith ?_
  split
  · exact h
  · exact h.updCur.poolRun

theorem vInt {st vd vs1 : Nat} {b : VSrc} {mk lat : Nat} {f : W32 → W32 → W32} (h : s.MemoryForm) :
    Out1.MemoryForm (vInt st vd vs1 b mk lat f s) :=
  h.issueWith h

theorem vFloat {st vd vs1 : Nat} {b : VSrc} {mk : Nat} {readsVd : Bool} {f : Rounding → Nat → Nat → Nat → Nat} (h : s.MemoryForm) :
    Out1.MemoryForm (vFloat st vd vs1 b mk readsVd f s) := by
  unfold Machine.vFloat
  dsimp only
  refine h.issueWith ?_
  split
  · trivial
  · exact h.updCur

theorem vSfu {st vd vs1 mk : Nat} {f : Fp.Exact → Fp.Exact} (h : s.MemoryForm) : Out1.MemoryForm (vSfu st vd vs1 mk f s) := by
  unfold Machine.vSfu
  refine h.issueWith ?_
  dsimp only
  split
  · trivial
  · exact h.updCur

theorem vLoad {st vd base : Nat} {ix : VIdx} {mk sz : Nat} (h : s.MemoryForm) : Out1.MemoryForm (vLoad st vd base ix mk sz s) := by
  unfold Machine.vLoad
  refine h.issueWith ?_
  dsimp only
  split
  · trivial
  · split
    · exact h.waitStall
    · split
      · trivial
      · exact h

theorem vStore {st vs base : Nat} {ix : VIdx} {mk sz : Nat} (h : s.MemoryForm) : Out1.MemoryForm (vStore st vs base ix mk sz s) := by
  unfold Machine.vStore
  refine h.issueWith ?_
  dsimp only
  split
  · trivial
  · split
    · exact h.waitStall
    · exact foldl (fun _ ht => ht.spWrite) h

theorem vCmp {st kd vs1 : Nat} {b : VSrc} {mk cc : Nat} (h : s.MemoryForm) : Out1.MemoryForm (vCmp st kd vs1 b mk cc s) := h.issueWith h

theorem vSel {st vd vs1 : Nat} {b : VSrc} {mk : Nat} (h : s.MemoryForm) : Out1.MemoryForm (vSel st vd vs1 b mk s) := h.issueWith h

theorem vMask {st kd ka kb : Nat} {f : Bool → Bool → Bool} (h : s.MemoryForm) : Out1.MemoryForm (vMask st kd ka kb f s) := h.issueWith h

theorem vMove {st vd mk : Nat} {srcs : List RName} {f : Ctx → Nat → W32} (h : s.MemoryForm) : Out1.MemoryForm (vMove st vd mk srcs f s) :=
  h.issueWith h

theorem execVred {st : Fin 8} {vd vs1 : Fin 16} {mk : Fin 4} {rop : Fin 16} (h : s.MemoryForm) :
    Out1.MemoryForm (execVred st vd vs1 mk rop s) := by
  unfold Machine.execVred
  refine h.issueWith ?_
  dsimp only
  split
  · trivial
  · exact h.updCur

theorem execVcvt {st : Fin 8} {vd vs1 : Fin 16} {xs : Fin 32} {mk : Fin 4} {src dst : Fin 16} (h : s.MemoryForm) :
    Out1.MemoryForm (execVcvt st vd vs1 xs mk src dst s) := by
  unfold Machine.execVcvt
  dsimp only
  refine h.issueWith ?_
  split
  · trivial
  · exact h.updCur

end State.MemoryForm

end Sys2Proof.Machine
end

section
/-!
SUPPORT. What keeps the canonical form of the memories:
rings of keys and values, overlays, the L2, row commands and ring subscriptions.
Each lemma says it of the operation that it is named after, in the order of the model.
-/
namespace Sys2Proof.Machine

namespace State.MemoryForm

variable {s : State}

/-! ### Machine/Kv.lean -/

theorem execKvhome {st : Fin 8} {rd rs1 rs2 : Fin 32} (h : s.MemoryForm) : Out1.MemoryForm (execKvhome st rd rs1 rs2 s) := by
  unfold Machine.execKvhome
  refine h.issueWith ?_
  dsimp only
  split
  · exact h
  · split
    · trivial
    · split
      · exact h.waitStall
      · split
        · trivial
        · exact h

theorem spWords {c : Nat} {ws : List (Nat × W64)} (h : s.MemoryForm) : (s.spWords c ws).MemoryForm :=
  spTouched (h.updCore_of_wf (List.foldlRecOn ws _ (motive := fun (x : HomeCore) => Memory.wf x.spad = true) (h.core c)
    fun _ hx _ _ => HomeCore.spSet_wf hx))

theorem execStub {st : Fin 8} {rd rs1 rs2 : Fin 32} (h : s.MemoryForm) : Out1.MemoryForm (execStub st rd rs1 rs2 s) := by
  unfold Machine.execStub
  refine h.issueWith ?_
  dsimp only
  split
  · trivial
  · split
    · exact h
    · split
      · trivial
      · split
        · trivial
        · exact h.spWords

theorem execMigrate {st : Fin 8} {rs1 rs2 : Fin 32} (h : s.MemoryForm) : Out1.MemoryForm (execMigrate st rs1 rs2 s) := by
  unfold Machine.execMigrate
  refine h.issueWith ?_
  dsimp only
  split
  · trivial
  · split
    · exact h
    · split
      · next e => exact of_closed h.gate e
      · next e => exact (of_passed h.gate e).slotUsed.migrateTask

/-! ### Machine/L2.lean -/

theorem l2Show {line : Nat} {b : List PByte} (h : s.MemoryForm) : (s.l2Show line b).MemoryForm :=
  bumpOrder ⟨wf_setPBytes h.hbm .., h.spads, h.saved⟩

theorem l2Drop {lose : Bool} {line : Nat} (h : s.MemoryForm) : (s.l2Drop lose line).MemoryForm := by
  unfold State.l2Drop
  split
  · exact h
  · dsimp only
    split
    · split
      · exact l2Show (h.congr rfl rfl rfl)
      · exact h.congr rfl rfl rfl
    · exact h.congr rfl rfl rfl

theorem l2Clean {line : Nat} (h : s.MemoryForm) : (s.l2Clean line).MemoryForm := by
  unfold State.l2Clean
  split
  · split
    · exact h.congr rfl rfl rfl
    · exact h
  · exact h

theorem l2Line {n : Nat} {writes : Bool} {line : Nat} (h : s.MemoryForm) : (s.l2Line n writes line).MemoryForm := by
  unfold State.l2Line
  dsimp only
  split
  · exact h.congr rfl rfl rfl
  · split
    · exact h.congr rfl rfl rfl
    · split
      · exact h.l2Drop.congr rfl rfl rfl
      · exact h

theorem hbmWrite {line : Nat} {b : List PByte} (h : s.MemoryForm) : (s.hbmWrite line b).MemoryForm := by
  unfold State.hbmWrite
  split
  · exact h.congr rfl rfl rfl
  · exact h.memWrite

theorem l2Flush {slice : Nat} (h : s.MemoryForm) : (s.l2Flush slice).MemoryForm := foldl (fun _ ht => ht.l2Drop) h

/-! ### Machine/Rows.lean -/

theorem setBdeOp {u ch : Nat} {o : BdeOp} (h : s.MemoryForm) : (s.setBdeOp u ch o).MemoryForm := h.updBdeChan

theorem finishBde {u ch : Nat} {o : BdeOp} (h : s.MemoryForm) : (s.finishBde u ch o).MemoryForm := h.updBdeChan

theorem failBde {u ch : Nat} {o : BdeOp} {side detail page : Nat} (h : s.MemoryForm) : (s.failBde u ch o side detail page).MemoryForm :=
  h.finishBde

theorem enqueueBde {u ch : Nat} {o : BdeOp} (h : s.MemoryForm) : (s.enqueueBde u ch o).2.MemoryForm := by
  unfold State.enqueueBde
  dsimp only
  exact h.updBdeChan

theorem mrowOp {st rd rs1 : Nat} {rs2 : Option Nat} (h : s.MemoryForm) : Out1.MemoryForm (mrowOp st rd rs1 rs2 s) := by
  unfold Machine.mrowOp
  refine h.issueWith (.ite trivial (.ite trivial (.ite trivial ?_)))
  exact h.freeChoice.enqueueBde

theorem mrowPages {die asid va : Nat} {write : Bool} {i n : Nat} (h : s.MemoryForm) :
    (s.mrowPages die asid va write i n).2.MemoryForm := by
  induction n generalizing s i with
  | zero => exact h
  | succ n ih =>
    unfold State.mrowPages
    split
    · next e => exact h.translate.of_snd e
    · next e =>
      have ht := h.translate.of_snd e
      split
      · exact ht
      · split
        · next e' => exact (ih ht).of_snd e'
        · exact ih ht

theorem mrowBegin {u ch : Nat} {o : BdeOp} (h : s.MemoryForm) : (s.mrowBegin u ch o).MemoryForm := by
  unfold State.mrowBegin
  dsimp only
  split
  · exact h.failBde
  · split
    · next e => exact (h.mrowPages.of_snd e).failBde
    · next e =>
        split
        · next e1 => exact ((h.mrowPages.of_snd e).mrowPages.of_snd e1).failBde
        · next e1 =>
            split
            · exact ((h.mrowPages.of_snd e).mrowPages.of_snd e1).failBde
            · exact ((h.mrowPages.of_snd e).mrowPages.of_snd e1).setBdeOp

theorem mrowStart {u ch : Nat} (h : s.MemoryForm) : (s.mrowStart u ch).MemoryForm := by
  unfold State.mrowStart
  split
  · exact h.mrowBegin.ite h
  · exact h

theorem execMrowStart {agent : Agent} (h : s.MemoryForm) : Out1.MemoryForm (execMrowStart agent s) := by
  unfold Machine.execMrowStart
  split
  · exact h.stepOf h.mrowStart
  · trivial

theorem writeRow {pa : Nat} {b : List PByte} (h : s.MemoryForm) : (s.writeRow pa b).MemoryForm := foldl (fun _ ht => ht.hbmWrite) h

theorem rowWrite {u ch : Nat} {o : BdeOp} {i : Nat} {b : List PByte} (h : s.MemoryForm) : (s.rowWrite u ch o i b).MemoryForm :=
  h.setBdeOp.ite (h.setBdeOp.ite h.writeRow.setBdeOp)

theorem rcp {stack src dst : Nat} (h : s.MemoryForm) : (s.rcp stack src dst).MemoryForm := by
  unfold State.rcp
  split
  · exact h.rowWrite
  · exact h

theorem execRcp {stack src dst : Nat} (h : s.MemoryForm) : Out1.MemoryForm (execRcp stack src dst s) := h.stepOf h.rcp

theorem rzf {stack dst : Nat} (h : s.MemoryForm) : (s.rzf stack dst).MemoryForm := by
  unfold State.rzf
  split
  · exact h.rowWrite
  · exact h

theorem execRzf {stack dst : Nat} (h : s.MemoryForm) : Out1.MemoryForm (execRzf stack dst s) := h.stepOf h.rzf

theorem rbr {stack row : Nat} (h : s.MemoryForm) : (s.rbr stack row).MemoryForm := h.updBde.ite h

theorem execRbr {stack row : Nat} (h : s.MemoryForm) : Out1.MemoryForm (execRbr stack row s) := h.stepOf h.rbr

theorem rbw {stack row : Nat} (h : s.MemoryForm) : (s.rbw stack row).MemoryForm := by
  unfold State.rbw
  dsimp only
  split
  · exact h
  · split
    · exact h.updBde.rowWrite
    · exact h

theorem execRbw {stack row : Nat} (h : s.MemoryForm) : Out1.MemoryForm (execRbw stack row s) := h.stepOf h.rbw

theorem rowFlush {u ch : Nat} {o : BdeOp} (h : s.MemoryForm) : (s.rowFlush u ch o).MemoryForm :=
  setBdeOp (foldl (fun _ ht => ht.l2Drop) (foldl (fun _ ht => ht.l2Clean) h))

theorem rowTransfer {u ch : Nat} {o : BdeOp} (h : s.MemoryForm) : (s.rowTransfer u ch o).MemoryForm := by
  unfold State.rowTransfer
  split
  · exact h.rowFlush
  · split
    · exact h
    · exact h.setBdeOp.ite h.rowWrite

theorem rowClose {u ch : Nat} {o : BdeOp} (h : s.MemoryForm) : (s.rowClose u ch o).MemoryForm :=
  setBdeOp (foldl (fun _ ht => ht.l2Drop) h)

theorem rowEvent {u ch : Nat} {o : BdeOp} (h : s.MemoryForm) : (s.rowEvent u ch o).MemoryForm := by
  unfold State.rowEvent
  split
  · exact h.finishBde
  · exact h.finishBde.ite (h.rowClose.ite h)

theorem renewPages {die asid va i : Nat} {l : List Tr} (h : s.MemoryForm) : (s.renewPages die asid va i l).2.MemoryForm := by
  induction l generalizing s i with
  | nil => exact h
  | cons t ts ih =>
    unfold State.renewPages
    split
    · exact h
    · split
      · next e => exact (ih h.raiseHorizon).of_snd e
      · exact ih h.raiseHorizon

theorem rowRenew {u ch : Nat} {o : BdeOp} (h : s.MemoryForm) : (s.rowRenew u ch o).MemoryForm := by
  unfold State.rowRenew
  split
  · exact h
  · split
    · next e => exact (h.renewPages.of_snd e).setBdeOp
    · next e =>
        split
        · next e1 => exact ((h.renewPages.of_snd e).renewPages.of_snd e1).setBdeOp
        · next e1 => exact ((h.renewPages.of_snd e).renewPages.of_snd e1).setBdeOp

/-! ### Machine/Rings.lean -/

theorem setRing {u i : Nat} {r : Ring} (h : s.MemoryForm) : (s.setRing u i r).MemoryForm := h.updBde

theorem execRingsub {st : Fin 8} {rd rs1 : Fin 32} (h : s.MemoryForm) : Out1.MemoryForm (execRingsub st rd rs1 s) := by
  unfold Machine.execRingsub
  refine h.issueWith ?_
  dsimp only
  split
  · trivial
  · split
    · trivial
    · split
      · trivial
      · split
        · exact h
        · split
          · exact h
          · exact h.spWrite.spWrite.setRing

theorem execRingstop {st : Fin 8} {rd rs1 : Fin 32} (h : s.MemoryForm) : Out1.MemoryForm (execRingstop st rd rs1 s) := by
  unfold Machine.execRingstop
  refine h.issueWith ?_
  dsimp only
  split
  · exact h
  · split
    · exact h
    · exact h.setRing

theorem ringWrite {u i : Nat} {r : Ring} {word : Nat} {v : W64} (h : s.MemoryForm) : (s.ringWrite u i r word v).2.MemoryForm :=
  h.engineSend

theorem ringEnd {u i : Nat} {r : Ring} {w : W64} (h : s.MemoryForm) : (s.ringEnd u i r w).MemoryForm := (h.countDown.ite h).setRing

theorem ringFault {u i : Nat} {r : Ring} {side detail va : Nat} (h : s.MemoryForm) : (s.ringFault u i r side detail va).MemoryForm :=
  h.ringEnd

theorem ringChecked {u i : Nat} {r : Ring} {rec0 : List W64} (h : s.MemoryForm) : (s.ringChecked u i r rec0).MemoryForm := by
  unfold State.ringChecked
  split
  · exact h.ringEnd
  · exact h.ringEnd.ite h.setRing

theorem ringRecord {u i : Nat} {r : Ring} (h : s.MemoryForm) : (s.ringRecord u i r).MemoryForm := by
  unfold State.ringRecord
  split
  · split
    · next e => exact (h.engineAsk.of_third e).setRing
  · split
    · exact h
    · exact h.ringEnd
    · exact h.dropLoad.ringChecked

theorem ringAdvance {u i : Nat} {r : Ring} (h : s.MemoryForm) : (s.ringAdvance u i r).MemoryForm :=
  (h.ringWrite.ringEnd.ite h.ringWrite.setRing).sendContinuation.ite (h.ringWrite.ringEnd.ite h.ringWrite.setRing)

theorem ringFree {u i : Nat} {r : Ring} (h : s.MemoryForm) : (s.ringFree u i r).MemoryForm :=
  foldl (fun _ ht => ht.deliver) h.dropLoads.updBde

theorem ringStep {u i : Nat} (h : s.MemoryForm) : (s.ringStep u i).MemoryForm := by
  unfold State.ringStep
  split
  · exact h
  · split
    · exact h.ite (h.ringFree.ite h.ringWrite.setRing)
    · exact (h.ringAdvance.ite h).ite (h.ringEnd.ite (h.ringEnd.ite (h.ringRecord.ite (h.ite (h.countUp.ite h).setRing))))

theorem execRingSlot {stack ring : Nat} (h : s.MemoryForm) : Out1.MemoryForm (execRingSlot stack ring s) := h.stepOf h.ringStep

theorem ringIssue {u i : Nat} (h : s.MemoryForm) : (s.ringIssue u i).MemoryForm := by
  unfold State.ringIssue
  split
  · exact h
  · split
    · exact h
    · split
      · exact h
      · next e => exact (h.moveStep.of_third e).ringFault
      · next e => exact (h.moveStep.of_third e).setRing

theorem ringCounted {u i : Nat} {r : Ring} {v : Nat} (h : s.MemoryForm) : (s.ringCounted u i r v).MemoryForm := h.ringEnd.ite h.setRing

/-- The read that is asked for is generalised before the cases: its address is a number that the kernel would count down from. -/
theorem ringReread {u i : Nat} (h : s.MemoryForm) : (s.ringReread u i).MemoryForm := by
  unfold State.ringReread
  split
  · exact h
  · next r _ =>
    generalize he : s.engineAsk _ _ _ _ = x
    have hx : x.2.2.MemoryForm := he ▸ h.engineAsk
    clear he
    refine h.ite ?_
    generalize r.reread = y
    cases y with
    | none =>
      obtain ⟨l, held, t⟩ := x
      exact hx.setRing
    | some l =>
      dsimp only
      split
      · exact h
      · exact h.ringEnd
      · exact h.dropLoad.ringCounted

theorem execRingCounterReread {stack ring : Nat} (h : s.MemoryForm) : Out1.MemoryForm (execRingCounterReread stack ring s) :=
  h.stepOf h.ringReread

theorem ringRenew {u i : Nat} (h : s.MemoryForm) : (s.ringRenew u i).MemoryForm := by
  unfold State.ringRenew
  split
  · exact h
  · split
    · exact h
    · split
      · next e => exact (h.renewHeld.of_snd e).setRing
      · next e => exact (h.renewHeld.of_snd e).ringFault.ite (h.renewHeld.of_snd e).setRing

end State.MemoryForm

end Sys2Proof.Machine
end

section
/-!
SUPPORT. What keeps the canonical form of the memories:
landing zones, collectives and the decoders.
Each lemma says it of the operation that it is named after, in the order of the model.
-/
namespace Sys2Proof.Machine

namespace State.MemoryForm

variable {s : State}

/-! ### Machine/Zones.lean -/

theorem setZone {b i : Nat} {z : Zone} (h : s.MemoryForm) : (s.setZone b i z).MemoryForm := h.updBde

theorem dropZone {b i : Nat} (h : s.MemoryForm) : (s.dropZone b i).MemoryForm := h.updBde

theorem stopColl {u ch : Nat} {o : BdeOp} {side detail page : Nat} (h : s.MemoryForm) :
    (s.stopColl u ch o side detail page).MemoryForm := by
  unfold State.stopColl
  dsimp only
  refine setBdeOp ?_
  split
  · exact h.dropZone
  · exact h

theorem execLzput {st : Fin 8} {rd rs1 rs2 : Fin 32} (h : s.MemoryForm) : Out1.MemoryForm (execLzput st rd rs1 rs2 s) := by
  unfold Machine.execLzput
  refine h.issueWith ?_
  dsimp only
  split
  · trivial
  · split
    · exact h.sendUnit
    · split
      · trivial
      · split
        · exact h.waitStall
        · exact h.sendUnit

theorem contribute {asid z first : Nat} {vals : List W32} {bad : Bool} (h : s.MemoryForm) :
    (s.contribute asid z first vals bad).2.MemoryForm := by
  unfold State.contribute
  split
  · exact h
  · split
    · exact h
    · split
      · split
        · exact h.stopColl
        · exact h
      · exact h.setZone

theorem zoneStep {agent : Agent} {b : Nat} (h : s.MemoryForm) : (s.zoneStep agent b).MemoryForm := by
  unfold State.zoneStep
  split
  · split
    · split
      · next e =>
          dsimp only
          refine respond ?_
          exact (h.contribute.of_snd e).congr rfl rfl rfl
    · exact h
  · exact h

theorem execZoneContribution {agent : Agent} {home : Home} (h : s.MemoryForm) : Out1.MemoryForm (execZoneContribution agent home s) := by
  unfold Machine.execZoneContribution
  split
  · exact h.stepOf h.zoneStep
  · trivial

theorem zoneReadout {b i : Nat} (h : s.MemoryForm) : (s.zoneReadout b i).MemoryForm := by
  unfold State.zoneReadout
  split
  · exact h
  · split
    · exact h
    · exact h.ite h.setZone.setBdeOp

theorem execZoneReadout {stack zone : Nat} (h : s.MemoryForm) : Out1.MemoryForm (execZoneReadout stack zone s) := h.stepOf h.zoneReadout

theorem landNext {agent : Agent} {u ch : Nat} {o : BdeOp} {dst : Nat} (h : s.MemoryForm) : (s.landNext agent u ch o dst).MemoryForm := by
  unfold State.landNext
  split
  · exact h
  · split
    · next e => exact (h.workPlace.of_third e).stopColl
    · next e => exact ((h.workPlace.of_third e).engineSend).setBdeOp

theorem zoneIssue {b : Nat} (h : s.MemoryForm) : (s.zoneIssue b).MemoryForm := by
  unfold State.zoneIssue
  split
  · exact h
  · split
    · exact h.landNext
    · exact h

theorem zoneEvent {b : Nat} (h : s.MemoryForm) : (s.zoneEvent b).MemoryForm := by
  unfold State.zoneEvent
  split
  · exact h
  · split
    · exact h
    · split
      · exact h
      · dsimp only
        split
        · exact h.dropZone.finishBde
        · exact h.dropZone.finishBde

theorem execColl {st : Fin 8} {rd rs1 : Fin 32} (h : s.MemoryForm) : Out1.MemoryForm (execColl st rd rs1 s) := by
  unfold Machine.execColl
  refine h.issueWith ?_
  dsimp only
  split
  · trivial
  · split
    · trivial
    · exact h.freeChoice.enqueueBde

theorem openZone {u ch : Nat} {o : BdeOp} (h : s.MemoryForm) : (s.openZone u ch o).MemoryForm := by
  unfold State.openZone
  split
  · next e => exact (h.workPlace.of_third e).stopColl
  · next e =>
      dsimp only
      split
      · split
        · split
          · exact (h.workPlace.of_third e).stopColl
          · split
            · exact (h.workPlace.of_third e).stopColl
            · exact ((h.workPlace.of_third e).setZone).setBdeOp
        · split
          · exact (h.workPlace.of_third e).stopColl
          · split
            · exact (h.workPlace.of_third e).stopColl
            · exact ((h.workPlace.of_third e).setZone).setBdeOp
      · split
        · exact (h.workPlace.of_third e).stopColl
        · split
          · exact (h.workPlace.of_third e).stopColl
          · exact ((h.workPlace.of_third e).setZone).setBdeOp

theorem collBegin {u ch : Nat} {o : BdeOp} (h : s.MemoryForm) : (s.collBegin u ch o).MemoryForm := by
  unfold State.collBegin
  split
  · exact h.failBde
  · split
    · next e => exact (h.engineAsk.of_third e).setBdeOp

theorem collRelease {o : BdeOp} (h : s.MemoryForm) : (s.collRelease o).2.MemoryForm := h.writeBackAll

theorem collDescriptor {u ch : Nat} {o : BdeOp} (h : s.MemoryForm) : (s.collDescriptor u ch o).MemoryForm :=
  h.stopColl.ite (h.openZone.ite h.collRelease.engineAsk.setBdeOp)

theorem collPart {u ch : Nat} {o : BdeOp} (h : s.MemoryForm) : (s.collPart u ch o).MemoryForm := by
  unfold State.collPart
  split
  · exact h
  · split
    next e =>
      refine setBdeOp ?_
      split at e
      · exact h.engineAsk.of_third e
      · exact of_third (p := (_, _, s)) h e

theorem collReads {u ch : Nat} {o : BdeOp} (h : s.MemoryForm) : (s.collReads u ch o).MemoryForm := by
  unfold State.collReads
  split
  · exact h.ite h.collPart
  · split
    · exact h
    · split
      · exact h
      · exact h.stopColl
      · exact h.dropLoad.collDescriptor.ite (h.dropLoad.setBdeOp.ite h.dropLoad.stopColl)

theorem collStart {u ch : Nat} (h : s.MemoryForm) : (s.collStart u ch).MemoryForm := by
  unfold State.collStart
  split
  · exact h.collBegin.ite h
  · exact h

theorem execCollStart {agent : Agent} (h : s.MemoryForm) : Out1.MemoryForm (execCollStart agent s) := by
  unfold Machine.execCollStart
  split
  · exact h.stepOf h.collStart
  · trivial

theorem collTimeout {u ch : Nat} (h : s.MemoryForm) : (s.collTimeout u ch).MemoryForm := by
  unfold State.collTimeout
  split
  · exact h
  · exact h.ite h.stopColl

theorem execCollTimeout {agent : Agent} (h : s.MemoryForm) : Out1.MemoryForm (execCollTimeout agent s) := by
  unfold Machine.execCollTimeout
  split
  · exact h.stepOf h.collTimeout
  · trivial

theorem collSum {u ch : Nat} {o : BdeOp} {srcs : List (List Byte)} (h : s.MemoryForm) : (s.collSum u ch o srcs).MemoryForm := by
  unfold State.collSum
  split
  · split
    · exact h
    · exact h.stopColl
    · exact h.stopColl.ite h.dropLoad.setBdeOp
  · exact h

theorem collEnd {u ch : Nat} {o : BdeOp} (h : s.MemoryForm) : (s.collEnd u ch o).MemoryForm := by
  unfold State.collEnd
  split
  · exact h
  · split
    · exact h.dropLoads.finishBde
    · exact h.finishBde.ite h

theorem collComplete {u ch : Nat} {srcs : List (List Byte)} (h : s.MemoryForm) : (s.collComplete u ch srcs).MemoryForm := by
  unfold State.collComplete
  split
  · exact h
  · exact h.ite (h.collEnd.ite h.collSum)

theorem execCollComplete {agent : Agent} {srcs : List (List Byte)} (h : s.MemoryForm) :
    Out1.MemoryForm (execCollComplete agent srcs s) := by
  unfold Machine.execCollComplete
  split
  · exact h.stepOf h.collComplete
  · trivial

theorem bdeIssue {u ch : Nat} (h : s.MemoryForm) : (s.bdeIssue u ch).MemoryForm := by
  unfold State.bdeIssue
  split
  · exact h
  · exact h.ite ((h.ite (h.landNext.ite h.collReads)).ite h.rowTransfer)

theorem bdeEvent {u ch : Nat} (h : s.MemoryForm) : (s.bdeEvent u ch).MemoryForm := by
  unfold State.bdeEvent
  split
  · exact h
  · exact h.ite ((h.ite h.collEnd).ite h.rowEvent)

theorem bdeRenew {u ch : Nat} (h : s.MemoryForm) : (s.bdeRenew u ch).MemoryForm := by
  unfold State.bdeRenew
  split
  · exact h
  · split
    · exact h.rowRenew
    · split
      · exact h
      · dsimp only
        split
        · next e => exact (h.renewHeld.of_snd e).setBdeOp
        · next e => exact (h.renewHeld.of_snd e).stopColl

/-! ### Machine/Video.lean -/

theorem updVideo {v : Nat} {f : VideoUnit → VideoUnit} (h : s.MemoryForm) : (s.updVideo v f).MemoryForm := h.congr rfl rfl rfl

theorem setJob {v : Nat} {j : DecJob} (h : s.MemoryForm) : (s.setJob v j).MemoryForm := h.updVideo

theorem chooseVideo {g : Nat} (h : s.MemoryForm) : (s.chooseVideo g).2.MemoryForm := by
  unfold State.chooseVideo
  dsimp only
  split
  · exact h
  · split
    · exact h
    · exact h.freeChoice

theorem execVdec {st : Fin 8} {rd rs1 rs2 : Fin 32} (h : s.MemoryForm) : Out1.MemoryForm (execVdec st rd rs1 rs2 s) := by
  unfold Machine.execVdec
  refine h.issueWith ?_
  dsimp only
  split
  · trivial
  · split
    · trivial
    · split
      · trivial
      · split
        · exact h.chooseVideo.waitCond
        · exact h.chooseVideo.updVideo

theorem execVdstat {st : Fin 8} {rd rs1 : Fin 32} {e : Fin 2} (h : s.MemoryForm) : Out1.MemoryForm (execVdstat st rd rs1 e s) := by
  unfold Machine.execVdstat
  refine h.issueWith ?_
  dsimp only
  split
  · trivial
  · split
    · exact h.waitCond
    · exact h.acquire.ite h

theorem finishJob {v : Nat} {j : DecJob} (h : s.MemoryForm) : (s.finishJob v j).MemoryForm := by
  unfold State.finishJob
  dsimp only
  split
  · exact h.updVideo
  · exact h.updVideo.report

theorem jobRingWrite {v : Nat} {j : DecJob} {word : Nat} {x : W64} (h : s.MemoryForm) : (s.jobRingWrite v j word x).2.MemoryForm := by
  unfold State.jobRingWrite
  split
  · exact h
  · exact h.engineSend

theorem jobEnd {v : Nat} {j : DecJob} (h : s.MemoryForm) : (s.jobEnd v j).MemoryForm :=
  h.ite (h.dropLoads.finishJob.ite h.jobRingWrite.setJob)

theorem jobBegin {v : Nat} {j : DecJob} (h : s.MemoryForm) : (s.jobBegin v j).MemoryForm := by
  unfold State.jobBegin
  split
  · exact h.finishJob
  · split
    · next e => exact (h.engineAsk.of_third e).setJob

theorem jobJudged {v : Nat} {j : DecJob} {ringBad : Bool} (h : s.MemoryForm) : (s.jobJudged v j ringBad).MemoryForm := by
  unfold State.jobJudged
  split
  · exact h.finishJob
  · exact h.jobRingWrite.jobRingWrite.jobRingWrite.setJob

theorem jobRecord {v : Nat} {j : DecJob} {l : EngLoad} (h : s.MemoryForm) : (s.jobRecord v j l).MemoryForm := by
  unfold State.jobRecord
  split
  dsimp only
  split
  · exact h.dropLoad.jobJudged
  · refine setJob ?_
    exact h.dropLoad.engineAsk

theorem jobLayout {v : Nat} {j : DecJob} {l : EngLoad} (h : s.MemoryForm) : (s.jobLayout v j l).MemoryForm := by
  unfold State.jobLayout
  dsimp only
  split
  all_goals
    split
    · exact h.dropLoad.jobJudged
    · split
      · split
        · exact h.dropLoad.jobJudged
        · refine setJob ?_
          exact h.dropLoad.engineAsk
      · exact h.dropLoad.jobJudged

theorem jobHeader {v : Nat} {j : DecJob} {l : EngLoad} (h : s.MemoryForm) : (s.jobHeader v j l).MemoryForm := by
  unfold State.jobHeader
  dsimp only
  split
  · exact h.dropLoad.jobJudged
  · exact h.dropLoad.jobJudged

theorem jobReads {v : Nat} {j : DecJob} (h : s.MemoryForm) : (s.jobReads v j).MemoryForm := by
  unfold State.jobReads
  split
  · exact h
  · split
    · exact h
    · split
      · exact h.jobRecord
      · exact h.jobLayout
      · exact h.jobHeader
      · exact h

theorem jobStart {v : Nat} (h : s.MemoryForm) : (s.jobStart v).MemoryForm := by
  unfold State.jobStart
  split
  · exact h.jobBegin.ite (h.jobReads.ite h)
  · exact h

theorem execDecodeJobStart {engine : Nat} (h : s.MemoryForm) : Out1.MemoryForm (execDecodeJobStart engine s) := h.stepOf h.jobStart

theorem placesOk {w : Worker} {held : Map Tr} {l : List (Nat × List PByte)} (h : s.MemoryForm) :
    (s.placesOk w held l).2.2.MemoryForm := by
  induction l generalizing s held with
  | nil => exact h
  | cons x rest ih =>
    unfold State.placesOk
    dsimp only
    split
    · next e => exact h.workPlace.of_third e
    · next e => exact ih (h.workPlace.of_third e)

theorem placeFrame {v : Nat} {j : DecJob} {ftype : Nat} {status val : Nat → Nat} (h : s.MemoryForm) :
    (s.placeFrame v j ftype status val).MemoryForm := by
  unfold State.placeFrame
  dsimp only
  split
  · next e => exact (h.placesOk.of_third e).setJob
  · next e =>
      split
      · next e1 => exact ((h.placesOk.of_third e).engineWrite.of_fourth e1).setJob
      · next e1 => exact ((h.placesOk.of_third e).engineWrite.of_fourth e1).setJob

theorem decodeFrame {v : Nat} {j : DecJob} (h : s.MemoryForm) : (s.decodeFrame v j).MemoryForm :=
  h.placeFrame.ite (h.placeFrame.ite h.placeFrame)

theorem readStream {v : Nat} {j : DecJob} (h : s.MemoryForm) : (s.readStream v j).MemoryForm := by
  unfold State.readStream
  split
  · exact h.decodeFrame.ite h.engineAsk.setJob
  · exact h.ite h.dropLoad.setJob

theorem frameBegin {v : Nat} {j : DecJob} (h : s.MemoryForm) : (s.frameBegin v j).MemoryForm := by
  unfold State.frameBegin
  split
  · next e => exact (h.placesOk.of_third e).setJob
  · next e => exact (h.placesOk.of_third e).setJob

theorem frameDecode {v : Nat} (h : s.MemoryForm) : (s.frameDecode v).MemoryForm := by
  unfold State.frameDecode
  split
  · exact h
  · split
    · exact h
    · split
      · exact h.readStream
      · exact h.setJob.ite (h.setJob.ite (h.ite h.frameBegin))
      · exact h

theorem execFrameDecode {engine : Nat} (h : s.MemoryForm) : Out1.MemoryForm (execFrameDecode engine s) := h.stepOf h.frameDecode

theorem writeStatus {v : Nat} {j : DecJob} {o : FrameOut} {w : Nat} (h : s.MemoryForm) : (s.writeStatus v j o w).2.2.MemoryForm := by
  unfold State.writeStatus
  split
  · next e => exact h.engineWrite.of_fourth e
  · next e => exact h.engineWrite.of_fourth e

theorem frameStatus {v : Nat} {j : DecJob} {o : FrameOut} (h : s.MemoryForm) : (s.frameStatus v j o).MemoryForm := by
  have hj : (if j.ring.isSome && (bitsOf o.status 7 0 ≤ 3) then s.jobRingWrite v { j with own := j.own + 1 } 1 (w64 (j.own + 1))
      else (j, s)).2.MemoryForm := by
    split
    · exact h.jobRingWrite
    · exact h
  unfold State.frameStatus
  dsimp only
  exact hj.writeStatus.setJob

theorem frameArrive {v : Nat} {j : DecJob} {o : FrameOut} (h : s.MemoryForm) : (s.frameArrive v j o).MemoryForm := by
  unfold State.frameArrive
  dsimp only
  split
  · split
    · exact h.setJob
    · split
      · next e => exact (h.workPlace.of_third e).setJob
      · next e => exact ((h.workPlace.of_third e).engineSend).setJob
  · split
    · exact h.setJob
    · split
      · next e => exact (h.workPlace.of_third e).setJob
      · next e => exact ((h.workPlace.of_third e).engineSend).setJob

theorem frameRefused {v : Nat} {j : DecJob} {o : FrameOut} (h : s.MemoryForm) : (s.frameRefused v j o).MemoryForm := by
  unfold State.frameRefused
  exact h.writeStatus.setJob

theorem frameStep {v : Nat} (h : s.MemoryForm) : (s.frameStep v).MemoryForm := by
  unfold State.frameStep
  split
  · exact h
  · split
    · exact h
    · split
      · exact h.jobEnd.ite h
      · split
        · exact h
        · split
          · exact h.frameStatus
          · exact h.frameArrive
          · split
            · exact h.frameRefused
            · exact h.ite (h.frameRefused.ite h.setJob)
          · exact h.setJob

theorem execFrameStatus {engine : Nat} (h : s.MemoryForm) : Out1.MemoryForm (execFrameStatus engine s) := h.stepOf h.frameStep

/-- As `ringReread`. -/
theorem decodeReread {v : Nat} (h : s.MemoryForm) : (s.decodeReread v).MemoryForm := by
  unfold State.decodeReread
  split
  · exact h
  · next j _ =>
    split
    · exact h
    · generalize he : s.engineAsk _ _ _ _ = x
      have hx : x.2.2.MemoryForm := he ▸ h.engineAsk
      clear he
      refine h.ite ?_
      generalize j.reread = y
      cases y with
      | none =>
        obtain ⟨l, held, t⟩ := x
        exact hx.setJob
      | some l =>
        dsimp only
        split
        · exact h
        · exact h.dropLoad.setJob
        · exact h.dropLoad.setJob.ite h.dropLoad.setJob

theorem execDecodeRingReread {engine : Nat} (h : s.MemoryForm) : Out1.MemoryForm (execDecodeRingReread engine s) :=
  h.stepOf h.decodeReread

theorem videoRenew {v : Nat} (h : s.MemoryForm) : (s.videoRenew v).MemoryForm := by
  unfold State.videoRenew
  split
  · exact h
  · split
    · next e => exact (h.renewHeld.of_snd e).setJob
    · next e => exact (h.renewHeld.of_snd e).setJob.ite (h.renewHeld.of_snd e).setJob

end State.MemoryForm

end Sys2Proof.Machine
end

section
/-!
SUPPORT. What keeps the canonical form of the memories:
run queues, launches and queues.
Each lemma says it of the operation that it is named after, in the order of the model.
-/
namespace Sys2Proof.Machine

namespace State.MemoryForm

variable {s : State}

/-! ### Machine/RunQueue.lean -/

theorem endEntry {c : Nat} {f : Flight} {how : TaskEnd} (h : s.MemoryForm) : (s.endEntry c f how).MemoryForm := by
  unfold State.endEntry
  split
  · exact h.endAway
  · exact h.tally.countDown

theorem dropEntry {c : Nat} {f : Flight} (h : s.MemoryForm) : (s.dropEntry c f).MemoryForm := h.endEntry

theorem loseEntry {c : Nat} {f : Flight} (h : s.MemoryForm) : (s.loseEntry c f).MemoryForm := h.endEntry

theorem refillFrom {c : Nat} {l : List Flight} (h : s.MemoryForm) : (s.refillFrom c l).MemoryForm := by
  induction l generalizing s with
  | nil => exact h.updCore rfl
  | cons f rest ih =>
    unfold State.refillFrom
    split
    · exact h.updCore rfl
    · dsimp only
      split
      · exact ih h.freeWord.report.loseEntry
      · split
        · exact ih h.loseEntry
        · exact ih (h.updCore rfl)

theorem refill {c : Nat} (h : s.MemoryForm) : (s.refill c).MemoryForm := by
  unfold State.refill
  split
  · exact h
  · exact h.refillFrom

theorem vacate {c k : Nat} (h : s.MemoryForm) : (s.vacate c k).MemoryForm := h.setCtx.leavePool.poolRun

theorem senderAccepted {f : Flight} (h : s.MemoryForm) : (s.senderAccepted f).MemoryForm := by
  unfold State.senderAccepted
  split
  · split
    · exact h.vacate.ite h
    · refine ite_congr ?_ rfl rfl rfl
      exact mapSaves (updCore (h.ite h.countUp) rfl) fun r => by split <;> rfl
  · split
    · exact h.clearMark
    · exact h

theorem enter {f : Flight} (h : s.MemoryForm) : (s.enter f).MemoryForm := by
  unfold State.enter
  dsimp only
  split
  · exact h.senderAccepted.updCore rfl
  · split
    · exact memWrite (h.senderAccepted.updCore rfl)
    · exact h.congr rfl rfl rfl

theorem dropArriving {f : Flight} (h : s.MemoryForm) : (s.dropArriving f).MemoryForm := by
  unfold State.dropArriving
  split
  · exact h.killTask.ite h.dropEntry
  · dsimp only
    split
    · refine dropEntry ?_
      split
      · exact h.clearMark
      · exact h
    · refine updLaunch ?_
      split
      · exact h.clearMark
      · exact h

theorem execMessageArrive {msg : Nat} (h : s.MemoryForm) : Out1.MemoryForm (execMessageArrive msg s) := by
  unfold Machine.execMessageArrive
  change MemoryForm _
  split
  · exact h
  · refine h.ite (ite (dropArriving (h.congr rfl rfl rfl)) ?_)
    split
    · exact h.congr rfl rfl rfl
    · exact enter (h.congr rfl rfl rfl)

theorem execMessageResend {agent : Agent} (h : s.MemoryForm) : Out1.MemoryForm (execMessageResend agent s) := by
  unfold Machine.execMessageResend
  change MemoryForm _
  split
  · exact h
  · split
    · exact h.congr rfl rfl rfl
    · exact h

theorem execRehomeHint {hint : Nat} (h : s.MemoryForm) : Out1.MemoryForm (execRehomeHint hint s) := by
  unfold Machine.execRehomeHint
  change MemoryForm _
  split
  · exact h
  · exact ite (spWrite (h.congr rfl rfl rfl)) (h.congr rfl rfl rfl)

theorem markAged {c : Nat} (h : s.MemoryForm) : (s.markAged c).MemoryForm := h.updCore rfl

theorem execRqageExpire {core : Nat} (h : s.MemoryForm) : Out1.MemoryForm (execRqageExpire core s) := h.markAged

theorem takeEntry {c i : Nat} (h : s.MemoryForm) : (s.takeEntry c i).MemoryForm := refill (h.updCore rfl)

theorem askClaim {c k uid : Nat} {cl : Claim} {head : Bool} (h : s.MemoryForm) : (s.askClaim c k uid cl head).MemoryForm :=
  poolRun (h.congr rfl rfl rfl)

theorem acquireAt {c : Nat} {sc : Option Scope} (h : s.MemoryForm) : (s.acquireAt c sc).MemoryForm := by
  cases sc with
  | none => exact h
  | some sc => exact h.acquire

theorem startTask {c k : Nat} {f : Flight} (h : s.MemoryForm) : (s.startTask c k f).MemoryForm := by
  unfold State.startTask
  split
  · exact h
  · dsimp only
    refine acquireAt ?_
    split
    · split
      · exact h.setCtx.askClaim
      · exact h.setCtx
    · exact h.fresh.setCtx.updCtx.ite h.fresh.setCtx

theorem dispatch {c : Nat} {f : Flight} (h : s.MemoryForm) : (s.dispatch c f).MemoryForm := by
  unfold State.dispatch
  split
  · exact h.dropEntry
  · split
    · exact h.startTask
    · exact h

theorem execContextAllocate {core : Nat} (h : s.MemoryForm) : Out1.MemoryForm (execContextAllocate core s) := by
  unfold Machine.execContextAllocate
  dsimp only
  change MemoryForm _
  split
  · exact h.markAged.takeEntry.dispatch.ite h.markAged
  · exact h.markAged

theorem finishReconf {c : Nat} {f : Flight} (h : s.MemoryForm) : (s.finishReconf c f).MemoryForm := by
  unfold State.finishReconf
  split
  · exact h.updCore rfl
  · have ht := fun k x =>
      h.updCore_of_wf (f := fun (e : HomeCore) => e.reconfigure k x) (HomeCore.reconfigure_spad .. ▸ wf_keepSpad (h.core c))
    exact (ht _ _).dispatch.ite (ht _ _)

theorem beginReconf {c i : Nat} {f : Flight} (h : s.MemoryForm) : (s.beginReconf c i f).MemoryForm := by
  unfold State.beginReconf
  split
  · exact h
  · exact h.takeEntry.loseEntry.ite (((writeBackAll (h.takeEntry.updCore rfl)).ite
      (finishReconf (writeBackAll (h.takeEntry.updCore rfl)))).ite (finishReconf (h.takeEntry.updCore rfl)))

theorem execCoreReconfigure {core : Nat} (h : s.MemoryForm) : Out1.MemoryForm (execCoreReconfigure core s) := by
  unfold Machine.execCoreReconfigure
  dsimp only
  change MemoryForm _
  split
  · exact h.markAged.ite h.markAged.finishReconf
  · split
    · exact h.markAged
    · split
      · exact h.markAged.ite h.markAged.beginReconf
      · exact h.markAged

theorem dropEntries {c : Nat} {p : Flight → Bool} {l : List Flight} (h : s.MemoryForm) : (s.dropEntries c p l).MemoryForm :=
  foldl (fun _ ht => ht.dropEntry) h

theorem execRunQueueScrub {core : Nat} (h : s.MemoryForm) : Out1.MemoryForm (execRunQueueScrub core s) :=
  foldl (fun _ ht => ht.killTask) (refill (h.dropEntries.updCore rfl))

theorem execOverflowScrub {die : Nat} (h : s.MemoryForm) : Out1.MemoryForm (execOverflowScrub die s) := by
  unfold Machine.execOverflowScrub
  dsimp only
  change MemoryForm _
  refine foldl (fun _ ht => ?_) h
  split
  · exact ht
  · exact ht.dropEntries.updCore rfl

/-! ### Machine/Queue.lean -/

theorem stopQueue {q : Nat} (h : s.MemoryForm) : (s.stopQueue q).MemoryForm := h.setReg.report

theorem advance {q : Nat} (h : s.MemoryForm) : (s.advance q).MemoryForm := h.setReg

theorem writeQtail {q tail : Nat} (h : s.MemoryForm) : (s.writeQtail q tail).MemoryForm := h.setReg.stopQueue.ite h.setReg

theorem execQtailWrite {queue : Nat} {value : W64} (h : s.MemoryForm) : Out1.MemoryForm (execQtailWrite queue value s) := by
  unfold Machine.execQtailWrite
  split
  · exact h.writeQtail
  · trivial

theorem qputPerform {r : Req} {q : Nat} {bytes : List PByte} {sup : Bool} (h : s.MemoryForm) :
    (s.qputPerform r q bytes sup).MemoryForm := by
  unfold State.qputPerform
  split
  · exact h.respond
  · split
    · exact h.respond
    · split
      · exact h.respond
      · dsimp only
        refine respond ?_
        refine setReg ?_
        split
        · exact h.memWrite.congr rfl rfl rfl
        · exact h.congr rfl rfl rfl

theorem complete {id : Nat} {l : Launch} {status : Nat} (h : s.MemoryForm) : (s.complete id l status).MemoryForm := h.engineSend.updLaunch

theorem finishRecord {id : Nat} {l : Launch} {status : Nat} (h : s.MemoryForm) : (s.finishRecord id l status).MemoryForm :=
  h.complete.advance

theorem unusable {q i why : Nat} (h : s.MemoryForm) : (s.unusable q i why).MemoryForm := h.report.advance

theorem takeRecord {q : Nat} (h : s.MemoryForm) : (s.takeRecord q).MemoryForm := by
  unfold State.takeRecord
  dsimp only
  split
  · exact stopQueue (h.congr rfl rfl rfl)
  · split
    · exact unusable (h.congr rfl rfl rfl)
    · split
      · exact unusable (h.congr rfl rfl rfl)
      · split
        · exact finishRecord ((fresh (h.congr rfl rfl rfl)).congr rfl rfl rfl)
        · exact (fresh (h.congr rfl rfl rfl)).congr rfl rfl rfl

theorem execLaunchTake {queue : Nat} (h : s.MemoryForm) : Out1.MemoryForm (execLaunchTake queue s) := by
  unfold Machine.execLaunchTake
  split
  · trivial
  · exact h.ite (h.stopQueue.ite h.takeRecord)

theorem edgeFlush {die asid job : Nat} {e : Nat × Nat} (h : s.MemoryForm) : (s.edgeFlush die asid job e).2.MemoryForm :=
  foldl (fun _ ht => ht.writeBackAll) (h.report.ite h)

theorem edgeInvalidate {die : Nat} {l : Launch} {e : Nat × Nat} (h : s.MemoryForm) : (s.edgeInvalidate die l e).MemoryForm := by
  unfold State.edgeInvalidate
  generalize maskCores l.mask = cores
  exact (foldl (fun _ ht => ht.updCore rfl) h).congr rfl rfl rfl

theorem launchStart {q : Nat} (h : s.MemoryForm) : (s.launchStart q).MemoryForm := by
  unfold State.launchStart
  split
  · exact h
  · dsimp only
    split
    · exact h
    · split
      · exact h.finishRecord
      · split
        · exact h.finishRecord
        · split
          · refine updLaunch ?_
            exact List.foldlRecOn (motive := fun (x : List Nat × State) => x.2.MemoryForm) _ _ h fun _ ht _ _ => ht.edgeFlush
          · split
            · exact h
            · split
              · exact finishRecord ((foldl (fun _ ht => ht.edgeInvalidate) h).congr rfl rfl rfl)
              · exact (foldl (fun _ ht => ht.edgeInvalidate) h).congr rfl rfl rfl

theorem execLaunchStart {queue : Nat} (h : s.MemoryForm) : Out1.MemoryForm (execLaunchStart queue s) := by
  unfold Machine.execLaunchStart
  split
  · exact h.launchStart
  · trivial

theorem sendMessage {d : Nat} (h : s.MemoryForm) : (s.sendMessage d).MemoryForm := by
  unfold State.sendMessage
  split
  · exact h
  · dsimp only
    split
    · exact advance (updLaunch (h.countUp.congr rfl rfl rfl))
    · exact updLaunch (h.countUp.congr rfl rfl rfl)

theorem execTaskMessageSend {die : Nat} (h : s.MemoryForm) : Out1.MemoryForm (execTaskMessageSend die s) := by
  unfold Machine.execTaskMessageSend
  split
  · exact h.sendMessage
  · trivial

theorem completeLaunch {id : Nat} (h : s.MemoryForm) : (s.completeLaunch id).MemoryForm := by
  unfold State.completeLaunch
  split
  · exact h
  · exact h.ite (h.complete.ite h.finishRecord)

theorem execCompletionRecordWrite {launch : Nat} (h : s.MemoryForm) : Out1.MemoryForm (execCompletionRecordWrite launch s) :=
  h.completeLaunch

theorem cancelReach {d : Nat} {op : CancelOp} (h : s.MemoryForm) : (s.cancelReach d op).2.MemoryForm := h.congr rfl rfl rfl

theorem execCancelMark {die : Nat} (h : s.MemoryForm) : Out1.MemoryForm (execCancelMark die s) := by
  unfold Machine.execCancelMark
  change MemoryForm _
  split
  · exact h
  · split
    · exact h
    · split
      next e =>
        have ht := h.cancelReach.of_snd e
        exact ite (deliver (ht.congr rfl rfl rfl)) (ht.congr rfl rfl rfl)

end State.MemoryForm

end Sys2Proof.Machine
end

section
/-!
SUPPORT. What keeps the canonical form of the memories:
device registers, the fabric, the hub, leases and objects.
Each lemma says it of the operation that it is named after, in the order of the model.
-/
namespace Sys2Proof.Machine

namespace State.MemoryForm

variable {s : State}

/-! ### Machine/Device.lean -/

theorem markRoute {old : State} {m : Nat} (h : s.MemoryForm) : (s.markRoute old m).MemoryForm := by
  unfold State.markRoute
  split
  · exact h.congr rfl rfl rfl
  · exact h

theorem setLink {p : Nat} {up : Bool} (h : s.MemoryForm) : (s.setLink p up).MemoryForm :=
  report (foldl (fun _ ht => ht.markRoute) h.setReg)

theorem disableUnit {d u : Nat} (h : s.MemoryForm) : (s.disableUnit d u).MemoryForm := by
  unfold State.disableUnit
  split
  · exact l2Flush (h.congr rfl rfl rfl)
  · exact h.sweepTiles.ite ((h.setLink.ite h).ite h)

theorem writeDismask {d j : Nat} {v : W64} (h : s.MemoryForm) : (s.writeDismask d j v).MemoryForm :=
  foldl (fun _ ht => ht.disableUnit.ite ht) h.setReg

theorem writeDlcfg {core : Nat} {v : W64} (h : s.MemoryForm) : (s.writeDlcfg core v).MemoryForm := h.setReg.setReg.setReg

theorem writeDlharv {o : Nat} {v : W64} (h : s.MemoryForm) : (s.writeDlharv o v).MemoryForm := by
  unfold State.writeDlharv
  dsimp only
  split
  · exact h.congr rfl rfl rfl
  · exact h

theorem checkOverflow {d : Nat} (h : s.MemoryForm) : (s.checkOverflow d).MemoryForm := h.report.ite h

theorem setSvc {d u : Nat} (h : s.MemoryForm) : (s.setSvc d u).MemoryForm := h.setReg

theorem serviceRequest {d unitType u : Nat} {reason : W64} (h : s.MemoryForm) : (s.serviceRequest d unitType u reason).MemoryForm :=
  h.setSvc.report

theorem renewEngine {a : Agent} (h : s.MemoryForm) : (s.renewEngine a).MemoryForm := by
  unfold State.renewEngine
  split
  · exact h.copyRenew
  · exact h.renewArray
  · exact h.videoRenew
  · exact h.bdeRenew
  · exact h.ringRenew
  · exact foldl (fun _ ht => ht.bdeRenew) h
  · exact h

theorem expireDie {d : Nat} (h : s.MemoryForm) : (s.expireDie d).MemoryForm :=
  foldl (fun _ ht => ht.renewEngine) ⟨h.hbm, List.forall_mem_map.2 fun e he => by split <;> exact h.spads e he, h.saved⟩

theorem clockFault {d unitType u measured : Nat} (h : s.MemoryForm) : (s.clockFault d unitType u measured).MemoryForm :=
  h.report.freeWord.serviceRequest.expireDie.congr rfl rfl rfl

theorem writeSkewclr {d : Nat} {v : W64} (h : s.MemoryForm) : (s.writeSkewclr d v).MemoryForm := by
  unfold State.writeSkewclr
  split
  · split
    · next e =>
        dsimp only
        split
        · exact (h.freeChoice.of_snd e).congr rfl rfl rfl
        · exact (h.freeChoice.of_snd e).clockFault
  · exact h

theorem writeLagclr {d : Nat} {v : W64} (h : s.MemoryForm) : (s.writeLagclr d v).MemoryForm := by
  unfold State.writeLagclr
  dsimp only
  split
  · exact h.congr rfl rfl rfl
  · split
    · exact h.congr rfl rfl rfl
    · exact h

theorem writeFwctl {v : W64} (h : s.MemoryForm) : (s.writeFwctl v).MemoryForm := by
  unfold State.writeFwctl
  split
  · exact h
  · dsimp only
    split
    · split
      · exact (h.congr rfl rfl rfl).congr rfl rfl rfl
      · exact h.congr rfl rfl rfl
    · split
      · exact h.congr rfl rfl rfl
      · exact h

theorem writeTdctl {new : W64} (h : s.MemoryForm) : (s.writeTdctl new).MemoryForm := by
  unfold State.writeTdctl
  dsimp only
  split
  · split
    · exact h.congr rfl rfl rfl
    · exact h.congr rfl rfl rfl
  · refine setReg ?_
    split
    · exact h.congr rfl rfl rfl
    · exact h

theorem devWrite {pa : Nat} {v m : W64} (h : s.MemoryForm) : (s.devWrite pa v m).MemoryForm := by
  obtain ⟨f, hf⟩ : ∃ f, f = State.devWrite := ⟨_, rfl⟩
  obtain ⟨g, hg⟩ : ∃ g, g = devRegAt := ⟨_, rfl⟩
  rw [← hf]
  delta State.devWrite at hf
  rw [← hg] at hf
  rw [hf]
  beta_reduce
  clear hf hg
  cases g pa with
  | rw | qctl | qsize | logSize | fabctl | svcst | govctl => exact h.setReg
  | qtail => exact h.writeQtail
  | dov | dovs => exact h.setReg.checkOverflow
  | dlcfg => exact h.writeDlcfg
  | dlharv => exact h.writeDlharv
  | fqstat => exact h.setReg.ite h
  | tdctl => exact h.writeTdctl
  | route => exact h.setReg.markRoute
  | dismask => exact h.writeDismask
  | skewclr => exact h.writeSkewclr
  | lagclr => exact h.writeLagclr
  | fwctl => exact h.writeFwctl
  | none | ro | rqlost | fabsync | mgmtst | bootst | issued | spoob | corr => exact h

theorem devStore {pa : Nat} {bs : List Byte} (h : s.MemoryForm) : (s.devStore pa bs).MemoryForm := by
  unfold State.devStore
  exact h.devWrite

/-! ### Machine/Fabric.lean -/

theorem refuseReq {r : Req} (h : s.MemoryForm) : (s.refuseReq r).MemoryForm := h.respond

theorem refusalReport {port peer addr : Nat} {write : Bool} (h : s.MemoryForm) : (s.refusalReport port peer addr write).MemoryForm :=
  h.report

theorem setSession {m : Nat} {x : Session} (h : s.MemoryForm) : (s.setSession m x).MemoryForm := h.congr rfl rfl rfl

theorem sendPacket {m : Nat} {r : Req} {resp : Option Resp} (h : s.MemoryForm) : (s.sendPacket m r resp).MemoryForm := h.setSession

theorem handOff {m : Nat} {r : Req} (h : s.MemoryForm) : (s.handOff m r).MemoryForm := h.refusalReport.refuseReq.ite h.sendPacket

theorem deliverRequest {m seq : Nat} {p : InPacket} {op : HomeOp} (h : s.MemoryForm) : (s.deliverRequest m seq p op).MemoryForm :=
  h.fresh.refusalReport.refuseReq.ite (h.fresh.congr rfl rfl rfl)

theorem deliverAnswer {m : Nat} {p : InPacket} (h : s.MemoryForm) : (s.deliverAnswer m p).MemoryForm := by
  unfold State.deliverAnswer
  dsimp only
  split
  · exact h
  · exact ((h.setSession.refusalReport.ite h.setSession).fresh).respond

theorem deliverPacket {m seq : Nat} {p : InPacket} (h : s.MemoryForm) : (s.deliverPacket m seq p).MemoryForm := by
  unfold State.deliverPacket
  split
  · exact h.deliverRequest
  · exact h.deliverAnswer

theorem deliverHeld {m fuel : Nat} (h : s.MemoryForm) : (s.deliverHeld m fuel).MemoryForm := by
  induction fuel generalizing s with
  | zero => exact h
  | succ fuel ih =>
    unfold State.deliverHeld
    dsimp only
    split
    · exact h
    · exact ih h.setSession.deliverPacket

theorem execFabricPacketArrive {module epoch seq src kind addr size : Nat} {data : List Byte} (h : s.MemoryForm) :
    Out1.MemoryForm (execFabricPacketArrive module epoch seq src kind addr size data s) :=
  h.ite (h.setSession.deliverPacket.deliverHeld.ite (h.setSession.ite h))

theorem execFabricAck {module epoch seq : Nat} (h : s.MemoryForm) : Out1.MemoryForm (execFabricAck module epoch seq s) :=
  h.setSession.ite h

theorem execFabricResend {module seq port : Nat} (h : s.MemoryForm) : Out1.MemoryForm (execFabricResend module seq port s) :=
  h.setSession.ite h

theorem execSessionFail {module : Nat} (h : s.MemoryForm) : Out1.MemoryForm (execSessionFail module s) :=
  (foldl (fun _ ht => ht.refusalReport.refuseReq) h.report.setSession).ite h

theorem newEpochs {port : Nat} (h : s.MemoryForm) : (s.newEpochs port).MemoryForm := h.congr rfl rfl rfl

theorem execLinkChange {port : Nat} {up : Bool} (h : s.MemoryForm) : Out1.MemoryForm (execLinkChange port up s) := by
  unfold Machine.execLinkChange
  split
  · exact h.ite (h.setLink.newEpochs.ite h.setLink)
  · trivial

theorem execFlitReplay {port : Nat} (h : s.MemoryForm) : Out1.MemoryForm (execFlitReplay port s) := by
  unfold Machine.execFlitReplay
  split
  · exact h
  · trivial

theorem execFabctlWrite {value : W64} (h : s.MemoryForm) : Out1.MemoryForm (execFabctlWrite value s) := h.devWrite

theorem fabsyncDone (h : s.MemoryForm) : s.fabsyncDone.MemoryForm := by
  unfold State.fabsyncDone
  split
  · exact h
  · split
    · exact h
    · refine respond ?_
      exact h.congr rfl rfl rfl

theorem execFabsyncRead (h : s.MemoryForm) : Out1.MemoryForm (execFabsyncRead s) := h.fabsyncDone

theorem execTimePacketSend {die : Nat} (h : s.MemoryForm) : Out1.MemoryForm (execTimePacketSend die s) := by
  unfold Machine.execTimePacketSend
  split
  · dsimp only
    change MemoryForm _
    split
    · split
      · exact h.congr rfl rfl rfl
      · exact h
    · split
      · exact h.congr rfl rfl rfl
      · exact h
  · trivial

theorem execTimePacketArrive {die offset : Nat} (h : s.MemoryForm) : Out1.MemoryForm (execTimePacketArrive die offset s) := by
  unfold Machine.execTimePacketArrive
  split
  · exact ite (h.congr rfl rfl rfl) h
  · trivial

theorem execTimeHoldover {die : Nat} (h : s.MemoryForm) : Out1.MemoryForm (execTimeHoldover die s) := by
  unfold Machine.execTimeHoldover
  split
  · exact ite (report (h.congr rfl rfl rfl)) h
  · trivial

/-! ### Machine/Hub.lean -/

theorem setShadow {i inc : Nat} {x : Shadow} (h : s.MemoryForm) : (s.setShadow i inc x).MemoryForm :=
  (h.updCore rfl).ite (h.congr rfl rfl rfl)

theorem hubImprove {r : Req} {inc : Nat} {key : W64} {sup : Bool} {job : Nat} (h : s.MemoryForm) :
    (s.hubImprove r inc key sup job).MemoryForm := by
  unfold State.hubImprove
  dsimp only
  split
  · exact h.respond
  · refine respond ?_
    split
    · exact h.congr rfl rfl rfl
    · exact h

theorem hubRead {r : Req} {inc : Nat} {sup : Bool} {job : Nat} (h : s.MemoryForm) : (s.hubRead r inc sup job).MemoryForm :=
  h.respond.ite h.respond

theorem hubPerform {r : Req} (h : s.MemoryForm) : (s.hubPerform r).MemoryForm := by
  unfold State.hubPerform
  split
  · exact h
  · split
    · exact h.congr rfl rfl rfl
    · split
      · exact h.hubImprove
      · exact h.hubRead
      · exact h.congr rfl rfl rfl
      · exact h

theorem incsetDone {inc : Nat} {r : Req} (h : s.MemoryForm) : (s.incsetDone inc r).MemoryForm :=
  foldl (fun _ ht => ht.hubPerform) (h.congr rfl rfl rfl)

theorem incsetSwitch {inc : Nat} {i : IncSet} (h : s.MemoryForm) : (s.incsetSwitch inc i).MemoryForm := by
  unfold State.incsetSwitch
  dsimp only
  split
  · exact h.congr rfl rfl rfl
  · exact incsetDone (h.congr rfl rfl rfl)

theorem execIncumbentBroadcast {shadow bcast : Nat} (h : s.MemoryForm) : Out1.MemoryForm (execIncumbentBroadcast shadow bcast s) := by
  unfold Machine.execIncumbentBroadcast
  change MemoryForm _
  split
  · exact h
  · exact h.ite (h.setShadow.congr rfl rfl rfl)

theorem execShadowUnbind {shadow : Nat} (h : s.MemoryForm) : Out1.MemoryForm (execShadowUnbind shadow s) := by
  unfold Machine.execShadowUnbind
  change MemoryForm _
  split
  · exact h
  · exact h.ite (h.setShadow.incsetSwitch.ite (h.setShadow.congr rfl rfl rfl))

theorem installAll {shadow : Nat} (h : s.MemoryForm) : (s.installAll shadow).MemoryForm := by
  refine foldl (fun inc ht => ?_) h
  split
  · exact ht.ite ht.setShadow
  · exact ht.setShadow

theorem execShadowStateInstall {shadow : Nat} (h : s.MemoryForm) : Out1.MemoryForm (execShadowStateInstall shadow s) := by
  unfold Machine.execShadowStateInstall
  change MemoryForm _
  split
  · exact h.ite (h.setShadow.incsetDone.ite (h.setShadow.congr rfl rfl rfl))
  · have hi := h.installAll (shadow := shadow)
    generalize s.installAll shadow = u at hi ⊢
    exact ite (hi.congr rfl rfl rfl) h

theorem execShadowLag {shadow inc : Nat} (h : s.MemoryForm) : Out1.MemoryForm (execShadowLag shadow inc s) := h.setShadow.report.ite h

/-! ### Machine/Ready.lean -/

theorem atIssue {c k : Nat} (h : s.MemoryForm) : (s.atIssue c k).MemoryForm := by
  unfold State.atIssue
  refine updCur ?_
  exact h.congr rfl rfl rfl

theorem execAgePromotion {core ctx : Nat} (h : s.MemoryForm) : Out1.MemoryForm (execAgePromotion core ctx s) := h.setCtx.ite h

/-! ### Machine/Lease.lean -/

theorem execTranslationWalk {slice asid : Nat} {va : W64} (h : s.MemoryForm) : Out1.MemoryForm (execTranslationWalk slice asid va s) := by
  unfold Machine.execTranslationWalk
  split
  · exact h.translate.ite h
  · trivial

theorem execLeaseExpire {slice asid page : Nat} (h : s.MemoryForm) : Out1.MemoryForm (execLeaseExpire slice asid page s) :=
  h.congr rfl rfl rfl

theorem renewLine {c : Nat} {l : L1Line} (h : s.MemoryForm) : (s.renewLine c l).MemoryForm := by
  unfold State.renewLine
  dsimp only
  split
  · exact h.updCore rfl
  · exact h.ite (h.raiseHorizon.updCore rfl)

theorem renewAgent {a : Agent} (h : s.MemoryForm) : (s.renewAgent a).MemoryForm := by
  unfold State.renewAgent
  split
  · exact foldl (fun _ ht => ht.renewLine.ite ht) h
  · exact h.renewEngine

theorem execLeaseRenew {agent : Agent} (h : s.MemoryForm) : Out1.MemoryForm (execLeaseRenew agent s) := h.renewAgent

theorem evictLine {c i : Nat} (h : s.MemoryForm) : (s.evictLine c i).MemoryForm := by
  unfold State.evictLine
  split
  · exact h
  · exact writeBack (h.updCore rfl)

theorem execL1LeaseWriteback {core line : Nat} (h : s.MemoryForm) : Out1.MemoryForm (execL1LeaseWriteback core line s) := by
  unfold Machine.execL1LeaseWriteback
  split
  · change MemoryForm _
    split
    · exact h.evictLine.ite h
    · exact h
  · trivial

theorem execSkewCompare {die unit measured : Nat} (h : s.MemoryForm) : Out1.MemoryForm (execSkewCompare die unit measured s) := by
  unfold Machine.execSkewCompare
  split
  · exact h.clockFault.ite h
  · trivial

theorem issueCsr {c k num : Nat} (h : s.MemoryForm) : Out1.MemoryForm (s.issueCsr c k num) := by
  unfold State.issueCsr
  split
  · split
    · split
      · exact h.atIssue.execCsrr
      · exact h
    · split
      · exact h.atIssue.execCsrw
      · exact h
    · split
      · exact h.atIssue.execCsrs
      · exact h
    · split
      · exact h.atIssue.execCsrc
      · exact h
    · exact h
  · exact h

theorem execDlcfgWrite {core : Nat} {value : W64} (h : s.MemoryForm) : Out1.MemoryForm (execDlcfgWrite core value s) := by
  unfold Machine.execDlcfgWrite
  split
  · exact h.writeDlcfg
  · trivial

theorem execHarvest {octant : Nat} {value : W64} (h : s.MemoryForm) : Out1.MemoryForm (execHarvest octant value s) := by
  unfold Machine.execHarvest
  split
  · exact h.writeDlharv
  · trivial

theorem dlAdvance {c i : Nat} (h : s.MemoryForm) : (s.dlAdvance c i).MemoryForm := h.setReg

theorem logRead {o c : Nat} (h : s.MemoryForm) : (s.logRead o c).MemoryForm := h.congr rfl rfl rfl

theorem startMerge {o c i : Nat} {b : List PByte} (h : s.MemoryForm) : (s.startMerge o c i b).MemoryForm :=
  (h.dlAdvance.ite h).ite (h.congr rfl rfl rfl)

theorem octStep {o : Nat} (h : s.MemoryForm) : (s.octStep o).MemoryForm := by
  unfold State.octStep
  dsimp only
  split
  · split
    · exact (h.dlAdvance.ite h).congr rfl rfl rfl
    · exact h
  · split
    · exact startMerge (h.congr rfl rfl rfl)
    · exact h
  · split
    · exact h.logRead
    · exact h

theorem execDirtyLogMerge {octant : Nat} (h : s.MemoryForm) : Out1.MemoryForm (execDirtyLogMerge octant s) := by
  unfold Machine.execDirtyLogMerge
  split
  · exact h.octStep
  · trivial

theorem execHarvestDone {octant : Nat} (h : s.MemoryForm) : Out1.MemoryForm (execHarvestDone octant s) := by
  unfold Machine.execHarvestDone
  split
  · dsimp only
    change MemoryForm _
    split
    · exact h
    · split
      · exact h.congr rfl rfl rfl
      · exact h
  · trivial

/-! ### Machine/Objects.lean -/

theorem ldfAt {r : Req} (h : s.MemoryForm) : (s.ldfAt r).MemoryForm := by
  unfold State.ldfAt
  dsimp only
  split
  · exact h.respond
  · split
    · exact h.respond
    · split
      · exact h.respond
      · split
        · exact h.congr rfl rfl rfl
        · exact h.respond

theorem stfAt {r : Req} {v : W64} (h : s.MemoryForm) : (s.stfAt r v).MemoryForm := h.respond.ite (h.respond.ite h.memWrite.respond)

theorem withdrawAt {r : Req} {target : Nat} (h : s.MemoryForm) : (s.withdrawAt r target).MemoryForm := by
  unfold State.withdrawAt
  dsimp only
  refine respond ?_
  split
  · refine respond ?_
    exact h.congr rfl rfl rfl
  · exact h

theorem dropBarCont {pa : Nat} (h : s.MemoryForm) : (s.dropBarCont pa).MemoryForm := by
  unfold State.dropBarCont
  split
  · exact countDown (h.congr rfl rfl rfl)
  · exact h

theorem sendBarCont {slice pa w1 : Nat} (h : s.MemoryForm) : (s.sendBarCont slice pa w1).MemoryForm := by
  unfold State.sendBarCont
  split
  · exact h
  · split
    · dsimp only
      split
      · exact h.congr rfl rfl rfl
      · exact h.dropBarCont

theorem barRelease {slice pa g w1 : Nat} {engine : Bool} (h : s.MemoryForm) : (s.barRelease slice pa g w1 engine).MemoryForm := by
  unfold State.barRelease
  dsimp only
  split
  · exact memSetWord (sendBarCont (foldl (fun _ ht => ht.respond) (h.memSetWord.congr rfl rfl rfl)))
  · exact foldl (fun _ ht => ht.respond) (h.memSetWord.congr rfl rfl rfl)

theorem arrive {slice pa : Nat} {sc : Option Scope} (h : s.MemoryForm) : (s.arrive slice pa sc).2.MemoryForm := by
  unfold State.arrive
  dsimp only
  split
  · split
    · exact h
    · split
      · exact h.barRelease
      · exact h.memSetWord
  · split
    · exact h
    · split
      · exact h.barRelease
      · exact h.memSetWord

theorem barvAt {slice : Nat} {r : Req} (h : s.MemoryForm) : (s.barvAt slice r).MemoryForm := by
  unfold State.barvAt
  split
  · exact h.respond
  · split
    · next e => exact (h.arrive.of_snd e).respond
    · next e => exact (h.arrive.of_snd e).respond

theorem arriveAt {slice : Nat} {r : Req} (h : s.MemoryForm) : (s.arriveAt slice r).MemoryForm := by
  unfold State.arriveAt
  split
  · exact h.respond
  · split
    · next e => exact (h.arrive.of_snd e).respond
    · next e => exact (h.arrive.of_snd e).respond

theorem barwAt {r : Req} {gen : W64} (h : s.MemoryForm) : (s.barwAt r gen).MemoryForm :=
  h.respond.ite (h.respond.ite (h.respond.ite (h.congr rfl rfl rfl)))

theorem bariAt {r : Req} {c : W64} {coreOk : Bool} {job launch : Nat} (h : s.MemoryForm) :
    (s.bariAt r c coreOk job launch).MemoryForm := by
  unfold State.bariAt
  dsimp only
  split
  · exact h.respond
  · split
    · exact h.respond
    · split
      · exact h.respond
      · refine respond ?_
        split
        · exact countUp ((h.dropBarCont.ite h).memSetWord.memSetWord.memSetWord.memSetWord.congr rfl rfl rfl)
        · exact (h.dropBarCont.ite h).memSetWord.memSetWord

theorem adjustAt {slice : Nat} {r : Req} {up : Bool} (h : s.MemoryForm) : (s.adjustAt slice r up).MemoryForm :=
  h.respond.ite ((h.ite h.memSetWord).barRelease.ite (h.ite h.memSetWord)).respond

theorem adjustReport {slice group bar : Nat} (h : s.MemoryForm) : (s.adjustReport slice group bar).MemoryForm := h.report

theorem sendAdjust {slice : Nat} {r : Req} {up : Bool} {bar : Nat} (h : s.MemoryForm) : (s.sendAdjust slice r up bar).MemoryForm := by
  unfold State.sendAdjust
  dsimp only
  split
  · split
    · next e => exact ((h.translate.of_snd e).adjustReport).respond
    · next e =>
        split
        · exact engineSend ((h.translate.of_snd e).congr rfl rfl rfl)
        · exact ((h.translate.of_snd e).adjustReport).respond
  · exact h.adjustReport.respond

theorem groupAt {slice : Nat} {r : Req} {up : Bool} (h : s.MemoryForm) : (s.groupAt slice r up).MemoryForm :=
  h.respond.ite (h.respond.ite (h.respond.ite (h.memSetWord.respond.ite h.memSetWord.sendAdjust)))

theorem adjusted {slice join : Nat} {ok : Bool} (h : s.MemoryForm) : (s.adjusted slice join ok).MemoryForm := by
  unfold State.adjusted
  split
  · exact h
  · dsimp only
    refine respond ?_
    split
    · exact h.congr rfl rfl rfl
    · exact adjustReport (h.congr rfl rfl rfl)

end State.MemoryForm

end Sys2Proof.Machine
end

section
/-!
SUPPORT. What keeps the canonical form of the memories:
the homes and pre-emption.
Each lemma says it of the operation that it is named after, in the order of the model.
-/
namespace Sys2Proof.Machine

namespace State.MemoryForm

variable {s : State}

/-! ### Machine/Homes.lean -/

theorem drain {c : Nat} (h : s.MemoryForm) : (s.drain c).MemoryForm := by
  unfold State.drain
  split
  · exact h
  · next r rest _ =>
    have hu : (s.updCore c fun e => { e with oq := rest }).MemoryForm := h.updCore rfl
    exact hu.congr rfl rfl rfl

theorem execDrain {core : Nat} (h : s.MemoryForm) : Out1.MemoryForm (execDrain core s) := by
  unfold Machine.execDrain
  split
  · exact h.drain
  · trivial

theorem answerLoad {c : Nat} {h : Home} (hs : s.MemoryForm) : (s.answerLoad c h).MemoryForm := by
  unfold State.answerLoad
  split
  · exact hs
  · split
    · split
      · split
        · refine respond ?_
          exact hs.congr rfl rfl rfl
        · exact hs
      · exact hs
    · exact hs

theorem execAnswer {core : Nat} {home : Home} (h : s.MemoryForm) : Out1.MemoryForm (execAnswer core home s) := by
  unfold Machine.execAnswer
  split
  · exact h.answerLoad
  · trivial

theorem landReport {r : Req} (h : s.MemoryForm) : (s.landReport r).MemoryForm := by
  unfold State.landReport
  split
  · exact h.report
  · exact h

theorem rmwAt {slice : Nat} {r : Req} {new : Nat → Option Nat} (h : s.MemoryForm) : (s.rmwAt slice r new).MemoryForm := by
  unfold State.rmwAt
  dsimp only
  split
  · split
    · exact h.redReport.respond
    · exact h.landReport.respond
    · exact h.respond
  · refine respond ?_
    split
    · exact h.memWrite
    · exact h

theorem l2Access {slice : Nat} {r : Req} (h : s.MemoryForm) : (s.l2Access slice r).MemoryForm := by
  unfold State.l2Access
  split
  · exact h
  · generalize linesOf _ _ = l
    exact foldl (fun _ ht => ht.l2Line) h

theorem performSlice {slice : Nat} {r : Req} (h : s.MemoryForm) : (s.performSlice slice r).MemoryForm := by
  unfold State.performSlice
  generalize r.op = op
  cases op with
  | read => exact h.respond
  | write => exact h.memWrite.respond
  | writeBack => exact h.memScatter.respond
  | ldf => exact h.ldfAt
  | stf => exact h.stfAt
  | withdraw => exact h.withdrawAt
  | waita => exact h.respond.ite (h.respond.ite (h.congr rfl rfl rfl))
  | join | leave => exact h.groupAt
  | adjust => exact h.adjustAt
  | bari => exact h.bariAt
  | barv => exact h.barvAt
  | barw => exact h.barwAt
  | arrive => exact h.arriveAt
  | _ => exact h.rmwAt

theorem noAccess {c : Nat} {r : Req} (h : s.MemoryForm) : (s.noAccess c r).MemoryForm := respond (h.updCore rfl)

theorem spadRmw {c : Nat} {r : Req} {new : Nat → Option Nat} (h : s.MemoryForm) : (s.spadRmw c r new).MemoryForm := by
  unfold State.spadRmw
  dsimp only
  split
  · split
    · exact h.report.respond
    · exact h.landReport.respond
    · exact h.respond
  · refine respond ?_
    split
    · exact h.spWrite
    · exact h

theorem performSpad {c : Nat} {r : Req} (h : s.MemoryForm) : (s.performSpad c r).MemoryForm := by
  unfold State.performSpad
  split
  · exact h.noAccess
  · split
    · exact h.respond
    · exact h.spWrite.respond
    · exact h.spadRmw
    · exact h.spadRmw
    · exact h.spadRmw
    · exact h.spadRmw
    · exact h.respond.ite (h.respond.ite (h.congr rfl rfl rfl))
    · exact h.respond

theorem devStores {pa : Nat} {bs : List Byte} (h : s.MemoryForm) : (s.devStores pa bs).MemoryForm := foldl (fun _ ht => ht.devStore) h

/-- The reads of the registers are generalised first: their address is a number that the kernel would count down from. -/
theorem performDevice {r : Req} (h : s.MemoryForm) : (s.performDevice r).MemoryForm := by
  have hb : ∀ pa n k, (s.devBytes pa n k).2.MemoryForm := fun _ _ _ => h.devBytes
  have hr : ∀ pa, (s.devRead pa).2.MemoryForm := fun _ => h.devRead
  have hl : ∀ pa n, (s.devLoad pa n).2.MemoryForm := fun _ _ => h.devLoad
  unfold State.performDevice
  generalize s.devBytes = fb at hb ⊢
  generalize s.devRead = fr at hr ⊢
  generalize s.devLoad = fl at hl ⊢
  have hx := hl r.addr r.size
  generalize fl r.addr r.size = x at hx ⊢
  obtain ⟨b, t⟩ := x
  generalize r.op = op
  cases op with
  | read => exact (hb ..).respond
  | write data => exact h.devStores.answerWaita.respond
  | waita expect =>
    have hy := hr (r.addr / 8 * 8)
    generalize fr (r.addr / 8 * 8) = y at hy ⊢
    obtain ⟨v, t⟩ := y
    exact hy.respond.ite (hy.congr rfl rfl rfl)
  | amo | cas | red =>
    dsimp only
    generalize HomeOp.newValue _ _ _ = v
    refine respond ?_
    cases v with
    | none => exact hx
    | some v => exact hx.devStore
  | _ => exact h.respond

theorem performHost {r : Req} (h : s.MemoryForm) : (s.performHost r).MemoryForm := by
  unfold State.performHost
  split
  · exact h.congr rfl rfl rfl
  · exact h.report.refuseReq

theorem performAt {h : Home} {r : Req} (hs : s.MemoryForm) : (s.performAt h r).MemoryForm := by
  unfold State.performAt
  split
  · exact hs.l2Access.performSlice
  · exact hs.performSpad
  · exact hs.hubPerform
  · split
    · exact hs.qputPerform
    · exact hs.respond
  · split
    · exact hs.contribute.respond
    · exact hs.respond
  · split
    · exact hs.congr rfl rfl rfl
    · exact hs.performDevice
  · exact hs.performHost
  · exact hs.handOff

theorem retranslate {r : Req} (h : s.MemoryForm) : (s.retranslate r).2.MemoryForm := by
  unfold State.retranslate
  split
  · next e => exact h.translate.of_snd e
  · next e => exact h.translate.of_snd e

theorem sentTo {r : Req} (h : s.MemoryForm) : (s.sentTo r).MemoryForm := by
  unfold State.sentTo
  split
  · exact h.updCore rfl
  · exact h

theorem passOn {r : Req} (h : s.MemoryForm) : (s.passOn r).MemoryForm := h.congr rfl rfl rfl

theorem performHead {a : Agent} {x : Home} (h : s.MemoryForm) : (s.performHead a x).MemoryForm := by
  have hc : ({ s with chans := popReq s.chans a x } : State).MemoryForm := h.congr rfl rfl rfl
  unfold State.performHead
  split
  · exact h
  · refine h.ite (hc.performAt.ite ?_)
    split
    · next e => exact (hc.retranslate.of_snd e).refuseReq
    · next e =>
      have ht := hc.retranslate.of_snd e
      exact ht.performAt.ite ht.sentTo.passOn

theorem execPerform {agent : Agent} {home : Home} (h : s.MemoryForm) : Out1.MemoryForm (execPerform agent home s) := h.performHead

theorem execBarrierAdjust {agent : Agent} {home : Home} (h : s.MemoryForm) : Out1.MemoryForm (execBarrierAdjust agent home s) := by
  unfold Machine.execBarrierAdjust
  change MemoryForm _
  split
  · split
    · exact h.performHead
    · exact h
  · exact h

theorem execFutureWithdraw {agent : Agent} {home : Home} (h : s.MemoryForm) : Out1.MemoryForm (execFutureWithdraw agent home s) := by
  unfold Machine.execFutureWithdraw
  change MemoryForm _
  split
  · split
    · exact h.performHead
    · exact h
  · exact h

theorem execEvict {core line : Nat} (h : s.MemoryForm) : Out1.MemoryForm (execEvict core line s) := by
  unfold Machine.execEvict
  split
  · exact h.evictLine
  · trivial

theorem execDrop {portion line : Nat} (h : s.MemoryForm) : Out1.MemoryForm (execDrop portion line s) := by
  unfold Machine.execDrop
  split
  · exact h.congr rfl rfl rfl
  · trivial

theorem engineIssue {a : Agent} (h : s.MemoryForm) : (s.engineIssue a).MemoryForm := by
  unfold State.engineIssue
  split
  · exact h.copyIssue
  · exact h.pushStep
  · exact h.landIssue
  · exact h.frameDecode
  · exact h.bdeIssue
  · exact h.ringIssue
  · exact h.zoneIssue
  · exact h.octStep
  · exact h

theorem execEngineIssue {agent : Agent} (h : s.MemoryForm) : Out1.MemoryForm (execEngineIssue agent s) := by
  unfold Machine.execEngineIssue
  split
  · exact h.engineIssue
  · trivial

theorem engineEvent {a : Agent} (h : s.MemoryForm) : (s.engineEvent a).MemoryForm := by
  unfold State.engineEvent
  split
  · exact h.copyEvent
  · exact h.landEvent
  · exact h.frameStep
  · exact h.bdeEvent
  · exact h.ringStep
  · exact h.zoneEvent
  · exact h.octStep
  · exact h

theorem execEngineEvent {agent : Agent} (h : s.MemoryForm) : Out1.MemoryForm (execEngineEvent agent s) := by
  unfold Machine.execEngineEvent
  split
  · exact h.engineEvent
  · trivial

/-! ### Machine/Preempt.lean -/

theorem memFill {pa : Nat} {bs : List Byte} (h : s.MemoryForm) : (s.memFill pa bs).MemoryForm :=
  afterWrite (foldl (fun _ ht => ht.bumpOrder) ⟨Memory.wf_replace h.hbm .., h.spads, h.saved⟩)

theorem writeSlot {c n launch : Nat} (h : s.MemoryForm) : (s.writeSlot c n launch).2.MemoryForm := by
  unfold State.writeSlot
  split
  · exact h
  · exact foldl (fun _ ht => ht.memFill) (h.congr rfl rfl rfl)

theorem endSaved {c : Nat} {how : TaskEnd} {t : Ctx} (h : s.MemoryForm) : (s.endSaved c how t).MemoryForm :=
  h.withdraw.clearMarksOf.countMessages.endAway

theorem unfreeze {c launch : Nat} (h : s.MemoryForm) : (s.unfreeze c launch).MemoryForm := h.congr rfl rfl rfl

theorem dropSaved {c launch : Nat} {how : TaskEnd} (h : s.MemoryForm) : (s.dropSaved c launch how).MemoryForm := by
  have hs : ∀ r ∈ (s.saves.map (fun (r : SaveRec) => if r.core = c then r.without launch else r)).filter (fun r => !r.launches.isEmpty),
      Memory.wf r.spad = true := fun r hr => by
    obtain ⟨x, hx, rfl⟩ := List.mem_map.1 (List.mem_of_mem_filter hr)
    split <;> exact h.saved x hx
  exact foldl (fun _ ht => ht.endSaved) ((h.withSaves hs).updCore rfl)

theorem takeBack {c k : Nat} {t : Ctx} (h : s.MemoryForm) : (s.takeBack c k t).MemoryForm := h.leavePool.congr rfl rfl rfl

theorem freeze {c : Nat} {launches : List Nat} (h : s.MemoryForm) : (s.freeze c launches).MemoryForm := h.congr rfl rfl rfl

theorem saveCore {c : Nat} (h : s.MemoryForm) : (s.saveCore c).MemoryForm := by
  unfold State.saveCore
  dsimp only
  generalize hf : List.foldl _ (s.freeze c _) _ = u
  have hu : u.MemoryForm := hf ▸ foldl (fun _ ht => ht.takeBack) h.freeze
  generalize hw : List.foldl _ (([] : List SaveArea), u) _ = p
  have hp : p.2.MemoryForm :=
    hw ▸ List.foldlRecOn (motive := fun (x : List SaveArea × State) => x.2.MemoryForm) _ _ hu fun _ ht _ _ => ht.writeSlot
  exact poolRun (updCore (hp.withSaves (List.forall_mem_append.2 ⟨hp.saved, List.forall_mem_singleton.2 (h.core c)⟩)) rfl)

theorem recallTask {c k : Nat} (h : s.MemoryForm) : (s.recall c k).MemoryForm := by
  unfold State.recall
  dsimp only
  split
  · exact h
  · split
    · exact h.sendWithdraw.updCtx.ite h
    · exact h

theorem execPreemption {core : Nat} (h : s.MemoryForm) : Out1.MemoryForm (execPreemption core s) :=
  (h.saveCore.ite (foldl (fun _ ht => ht.recallTask) h)).ite h

theorem loseRec {r : SaveRec} (h : s.MemoryForm) : (s.loseRec r).MemoryForm := report (foldl (fun _ ht => ht.dropSaved.unfreeze) h)

theorem restoreRec {r : SaveRec} {text : Option (List Byte)} (h : s.MemoryForm) (hr : Memory.wf r.spad = true) :
    (s.restoreRec r text).MemoryForm := by
  unfold State.restoreRec
  dsimp only
  generalize hf : List.foldl _ (State.updCore _ _ _) r.launches = u
  have hu : u.MemoryForm := hf ▸ foldl (fun _ ht => ht.unfreeze) (h.filterSaves.updCore_of_wf hr)
  refine foldl (fun _ ht => ?_) (hu.congr rfl rfl rfl)
  split
  · exact ht.askClaim
  · exact ht

theorem resumeRec {r : SaveRec} (h : s.MemoryForm) (hr : Memory.wf r.spad = true) : (s.resumeRec r).MemoryForm :=
  h.loseRec.ite ((h.writeBackAll.ite (h.writeBackAll.restoreRec hr)).ite (h.restoreRec hr))

theorem execLaunchResume {core : Nat} (h : s.MemoryForm) : Out1.MemoryForm (execLaunchResume core s) := by
  unfold Machine.execLaunchResume
  change MemoryForm _
  split
  · exact h
  · next e => exact h.ite (h.resumeRec (h.saved _ (State.bestRec_mem e)))

theorem discardHires {c launch : Nat} {uids : List Nat} (h : s.MemoryForm) : (s.discardHires c launch uids).MemoryForm :=
  (foldl (fun _ ht => ht.finishHire) h).congr rfl rfl rfl

theorem discardEntries {c launch : Nat} (h : s.MemoryForm) : (s.discardEntries c launch).MemoryForm :=
  refill (updCore (foldl (fun _ ht => ht.endEntry) h) rfl)

theorem discardOn {launch c : Nat} (h : s.MemoryForm) : (s.discardOn launch c).MemoryForm := by
  unfold State.discardOn
  exact h.dropSaved.discardHires.discardEntries

theorem cancelTask {c k : Nat} (h : s.MemoryForm) : (s.cancelTask c k).MemoryForm := by
  unfold State.cancelTask
  dsimp only
  split
  · exact killTask (h.congr rfl rfl rfl)
  · exact h.setCtx

theorem cancelAt {c launch : Nat} (h : s.MemoryForm) : (s.cancelAt c launch).MemoryForm := by
  unfold State.cancelAt
  dsimp only
  generalize hf : State.refill _ c = u
  have hu : u.MemoryForm := by
    rw [← hf]
    refine refill (updCore ?_ rfl)
    exact foldl (fun _ ht => ht.dropEntry) (h.updCore rfl)
  refine foldl (fun _ ht => ht.cancelTask) (unfreeze (dropSaved ?_))
  split
  · exact (hu.dropEntry.updCore rfl).ite hu
  · exact hu

theorem execCancelArrive {core launch : Nat} (h : s.MemoryForm) : Out1.MemoryForm (execCancelArrive core launch s) := by
  unfold Machine.execCancelArrive
  change MemoryForm _
  split
  · exact h
  · exact h.cancelAt.ite h

theorem watchdogTrap {c k : Nat} (h : s.MemoryForm) : (s.watchdogTrap c k).MemoryForm := h.unwait.updCtx.trapAt

theorem execWatchdog {core ctx : Nat} (h : s.MemoryForm) : Out1.MemoryForm (execWatchdog core ctx s) := by
  unfold Machine.execWatchdog
  dsimp only
  change MemoryForm _
  split
  · exact h
  · split
    · exact h.sendWithdraw.setCtx
    · exact h.watchdogTrap

end State.MemoryForm

end Sys2Proof.Machine
end

section
/-!
SUPPORT. What keeps the canonical form of the memories:
errors, hires, responses and the port of the host.
Each lemma says it of the operation that it is named after, in the order of the model.
-/
namespace Sys2Proof.Machine

namespace State.MemoryForm

variable {s : State}

/-! ### Machine/Errors.lean -/

theorem setOvf {a : Nat} (h : s.MemoryForm) : (s.setOvf a).MemoryForm := h.setReg

theorem faultArrive {a : Nat} (h : s.MemoryForm) : (s.faultArrive a).MemoryForm := by
  unfold State.faultArrive
  split
  · exact h
  · dsimp only
    split
    · exact setOvf (h.congr rfl rfl rfl)
    · exact writeRecord (h.congr rfl rfl rfl)

theorem execFaultRecordWrite {asid : Nat} (h : s.MemoryForm) : Out1.MemoryForm (execFaultRecordWrite asid s) := by
  unfold Machine.execFaultRecordWrite
  split
  · exact h.faultArrive
  · trivial

theorem execHeldRecordWrite {core : Nat} (h : s.MemoryForm) : Out1.MemoryForm (execHeldRecordWrite core s) := by
  unfold Machine.execHeldRecordWrite
  split
  · change MemoryForm _
    split
    · exact h
    · exact writeRecord (h.congr rfl rfl rfl)
  · trivial

theorem setErrs {d u : Nat} {e : UnitErrs} (h : s.MemoryForm) : (s.setErrs d u e).MemoryForm := h.congr rfl rfl rfl

theorem corrected {d u : Nat} (h : s.MemoryForm) : (s.corrected d u).MemoryForm :=
  (serviceRequest (freeWord ((reportOf (setErrs (freeWord ((h.updCore rfl).ite h)))).ite (setErrs ((h.updCore rfl).ite h))))).ite
    ((reportOf (setErrs (freeWord ((h.updCore rfl).ite h)))).ite (setErrs ((h.updCore rfl).ite h)))

theorem execCorrectedError {die unit index : Nat} (h : s.MemoryForm) : Out1.MemoryForm (execCorrectedError die unit index s) := by
  unfold Machine.execCorrectedError
  split
  · exact h.corrected
  · trivial

theorem dataError {d u at_ : Nat} (h : s.MemoryForm) : (s.dataError d u at_).MemoryForm := h.freeWord.report

theorem controlError {d u op : Nat} (h : s.MemoryForm) : (s.controlError d u op).MemoryForm := h.freeWord.freeWord.report.serviceRequest

theorem poisonRdc {portion line off n : Nat} (h : s.MemoryForm) : (s.poisonRdc portion line off n).MemoryForm := by
  unfold State.poisonRdc
  dsimp only
  split
  · exact h
  · exact h.congr rfl rfl rfl

theorem copyError {c ch i : Nat} (h : s.MemoryForm) : (s.copyError c ch i).MemoryForm := by
  unfold State.copyError
  split
  · exact h
  · exact (h.updCopy.ite (h.updCopy.sendContinuation.ite h.updCopy)).controlError

theorem coreError {c index detail : Nat} (h : s.MemoryForm) : (s.coreError c index detail).MemoryForm := by
  unfold State.coreError
  dsimp only
  split
  · exact (dataError (h.updCore rfl)).ite h
  · exact (dataError (h.updCore rfl)).ite h
  · split
    · exact dataError (h.updCore rfl)
    · exact h
  · exact h.ite h.updCtx.controlError
  · split
    · exact controlError (h.updCore rfl)
    · exact h
  · exact h.copyError
  · split
    · exact controlError (refill (loseEntry (h.updCore rfl)))
    · exact h

theorem sliceError {i index detail : Nat} (h : s.MemoryForm) : (s.sliceError i index detail).MemoryForm := by
  unfold State.sliceError
  dsimp only
  split
  · split
    · exact dataError (h.congr rfl rfl rfl)
    · exact h
  · exact h.poisonRdc.dataError.ite h
  · split
    · exact controlError (h.congr rfl rfl rfl)
    · exact h
  · exact h.poisonRdc.controlError.ite h
  · split
    · refine controlError ?_
      refine respond ?_
      exact h.congr rfl rfl rfl
    · exact h

theorem arrayError {a index detail : Nat} (h : s.MemoryForm) : (s.arrayError a index detail).MemoryForm := by
  unfold State.arrayError
  dsimp only
  split
  · split
    · exact (h.updHire.ite h.bounce).controlError
    · exact h
  · split
    · exact h.updHire.dataError
    · exact h
  · split
    · exact h.updArray.dataError
    · exact h
  · split
    · exact h.updArray.dataError
    · exact h

theorem bdeOpError {b ch i : Nat} (h : s.MemoryForm) : (s.bdeOpError b ch i).MemoryForm := by
  unfold State.bdeOpError
  split
  · exact h
  · exact (h.stopColl.ite h.setBdeOp).ite h.updBdeChan

theorem bdeError {b index detail : Nat} (h : s.MemoryForm) : (s.bdeError b index detail).MemoryForm := by
  unfold State.bdeError
  dsimp only
  split
  · next e =>
    refine controlError ?_
    split at e
    · obtain ⟨o, -, rfl⟩ := Option.map_eq_some_iff.1 e
      exact h.bdeOpError
    · obtain ⟨r, -, rfl⟩ := Option.map_eq_some_iff.1 e
      exact h.ringEnd
    · obtain ⟨z, -, e⟩ := Option.bind_eq_some_iff.1 e
      obtain ⟨o, -, rfl⟩ := Option.map_eq_some_iff.1 e
      exact h.stopColl
  · exact h

theorem videoError {v i : Nat} (h : s.MemoryForm) : (s.videoError v i).MemoryForm := by
  unfold State.videoError
  split
  · exact h
  · exact (h.setJob.ite h.updVideo).controlError

theorem execUncorrectableError {die unit index detail : Nat} (h : s.MemoryForm) :
    Out1.MemoryForm (execUncorrectableError die unit index detail s) := by
  unfold Machine.execUncorrectableError
  split
  · change MemoryForm _
    split
    · exact h.coreError
    · exact h.sliceError
    · exact h.arrayError
    · exact h.videoError
    · exact h.bdeError
    · split
      · exact dataError (h.congr rfl rfl rfl)
      · exact h
    · exact h.controlError
  · trivial

/-! ### Machine/Hire.lean -/

theorem tileTrap {va : W64} {align extent : Nat} : ∀ x ∈ s.tileTrap va align extent, x.MemoryForm := by
  intro x hx
  unfold State.tileTrap at hx
  split at hx
  · split at hx
    · cases hx; trivial
    · split at hx
      · cases hx; trivial
      · cases hx
  · cases hx; trivial

theorem firstRes : ∀ {l : List (Option Res)}, (∀ o ∈ l, ∀ x ∈ o, x.MemoryForm) → ∀ x ∈ Machine.firstRes l, x.MemoryForm
  | [], _, _, hx => by cases hx
  | some r :: _, h, _, hx => h (some r) List.mem_cons_self _ hx
  | none :: l, h, x, hx => firstRes (fun o ho => h o (List.mem_cons_of_mem _ ho)) x hx

theorem mem_none : ∀ x ∈ (none : Option Res), x.MemoryForm := fun _ h => by cases h

theorem mem_ite {c : Prop} {_ : Decidable c} {a b : Option Res} (ha : ∀ x ∈ a, x.MemoryForm) (hb : ∀ x ∈ b, x.MemoryForm) :
    ∀ x ∈ if c then a else b, x.MemoryForm := by
  split
  · exact ha
  · exact hb

theorem countUp_ite {c : Prop} {_ : Decidable c} {l : Nat} (h : s.MemoryForm) : (if c then s.countUp l else s).MemoryForm :=
  h.countUp.ite h

theorem issueHire {x : Hire} {rd : Nat} (h : s.MemoryForm) : (s.issueHire x rd).MemoryForm := by
  unfold State.issueHire
  split
  · exact h.waitCond.updCur
  · next slot _ =>
    extract_lets prev u
    clear_value prev
    have hu : u.MemoryForm := by
      unfold u
      split
      · exact h.clearMark
      · exact h
    clear_value u
    dsimp only
    generalize List.filter _ (natsFrom 0 36) = enabled
    generalize hp : (if x.arr = 0xFF then _ else _ : Nat × State) = p
    have hp : p.2.MemoryForm := by
      rw [← hp]
      split
      · split
        · exact hu.fresh
        · exact hu.fresh.freeChoice
      · exact hu.fresh
    exact updCur (countUp_ite (updArray (hp.congr rfl rfl rfl)))

theorem execHire {st : Fin 8} {rd rs1 rs2 : Fin 32} (h : s.MemoryForm) : Out1.MemoryForm (execHire st rd rs1 rs2 s) := by
  unfold Machine.execHire
  refine h.issueWith ?_
  split
  · exact h.issueHire
  · dsimp only
    split
    · trivial
    split
    · next e =>
      refine firstRes ?_ _ e
      simp only [List.forall_mem_cons]
      exact ⟨tileTrap, mem_ite mem_none tileTrap, mem_ite tileTrap mem_none, mem_ite tileTrap mem_none, by simp⟩
    · exact .ite trivial (.ite trivial (.ite trivial h.issueHire))

theorem execBind {st : Fin 8} {rd rs1 rs2 : Fin 32} (h : s.MemoryForm) : Out1.MemoryForm (execBind st rd rs1 rs2 s) := by
  unfold Machine.execBind
  refine h.issueWith ?_
  split
  · exact h.issueHire
  · dsimp only
    split
    · trivial
    · split
      · next e => exact tileTrap _ e
      · exact h.issueHire

theorem readSlot {slot rd : Nat} (h : s.MemoryForm) : (s.readSlot slot rd).MemoryForm := by
  have hm : (match s.cur.hires.find? slot with | some e => s.clearMark e.hid | none => s).MemoryForm := by
    split
    · exact h.clearMark
    · exact h
  exact (hm.ite h).acquire.ite (hm.ite h)

theorem execHwait {st : Fin 8} {rd rs1 : Fin 32} {e : Fin 2} (h : s.MemoryForm) : Out1.MemoryForm (execHwait st rd rs1 e s) := by
  unfold Machine.execHwait
  refine h.issueWith ?_
  dsimp only
  split
  · trivial
  · split
    · exact h.readSlot
    · exact h.waitCond

theorem execHstat {st : Fin 8} {rd rs1 : Fin 32} (h : s.MemoryForm) : Out1.MemoryForm (execHstat st rd rs1 s) := by
  unfold Machine.execHstat
  refine h.issueWith ?_
  dsimp only
  split
  · trivial
  · exact h.readSlot

theorem execUnbind {st : Fin 8} {rd rs1 rs2 : Fin 32} (h : s.MemoryForm) : Out1.MemoryForm (execUnbind st rd rs1 rs2 s) := by
  unfold Machine.execUnbind
  refine h.issueWith ?_
  dsimp only
  split
  · trivial
  · exact h.updArray

theorem execBurst {st : Fin 8} {rs1 rs2 : Fin 32} (h : s.MemoryForm) : Out1.MemoryForm (execBurst st rs1 rs2 s) := by
  unfold Machine.execBurst
  refine h.issueWith ?_
  dsimp only
  split
  · trivial
  · exact h.updArray

/-! ### Machine/Respond.lean -/

theorem withTask {c k uid : Nat} {f : State → State} (h : s.MemoryForm) (hf : ∀ {t : State}, t.MemoryForm → (f t).MemoryForm) :
    (s.withTask c k uid f).MemoryForm := by
  unfold State.withTask
  dsimp only
  split
  · exact hf h
  · split
    · exact h
    · split
      · exact h
      · next r hr =>
        have hx : (f (s.setCtx c k (r.ctxs.get {} k))).MemoryForm := hf h.setCtx
        refine setCtx (hx.withSaves (forall_setNth (p := fun (x : SaveRec) => Memory.wf x.spad = true) hx.saved _ ?_))
        exact h.saved r (List.mem_of_getElem? hr)

theorem answerTrap {r : Req} {c cause info : Nat} {fb : W64} {regs : List Reg} (h : s.MemoryForm) :
    (s.answerTrap r c cause info fb regs).MemoryForm := by
  unfold State.answerTrap
  dsimp only
  split
  · exact h.updCtx
  · exact h.updCtx.ite h.updCtx.updCtx.raise
  · exact h.updCtx.unwait.updCtx.raise

theorem acquireFor {c : Nat} {sc : Option Scope} (h : s.MemoryForm) : (s.acquireFor c sc).MemoryForm := by
  unfold State.acquireFor
  split
  · exact h.acquire
  · exact h

theorem putRdc {p n : Nat} {y : RdcLine} (h : s.MemoryForm) : (s.putRdc p n y).MemoryForm := h.congr rfl rfl rfl

theorem fillRdc {c : Nat} {x : Resp} (h : s.MemoryForm) : (s.fillRdc c x).MemoryForm := by
  unfold State.fillRdc
  split
  · exact h
  · exact h.ite h.putRdc

theorem ackRdc {c : Nat} {x : Resp} (h : s.MemoryForm) : (s.ackRdc c x).MemoryForm := by
  unfold State.ackRdc
  split
  · split
    · exact h
    · exact h.putRdc
  · exact h

theorem ackL1 {c : Nat} {x : Resp} (h : s.MemoryForm) : (s.ackL1 c x).MemoryForm := by
  unfold State.ackL1
  dsimp only
  split
  · exact h
  · exact h.ite (h.updCore rfl)

theorem taskSaw {c pos : Nat} {e : Nat × Nat} (h : s.MemoryForm) : (s.taskSaw c pos e).MemoryForm :=
  (h.updCore rfl).mapSaves fun r => by split <;> rfl

theorem ackWrite {c : Nat} {o : Out} {x : Resp} (h : s.MemoryForm) : (s.ackWrite c o x).MemoryForm :=
  h.ite ((foldl (fun _ ht => ht.taskSaw) (h.ackRdc.ite h).ackL1).ite (h.ackRdc.ite h).ackL1)

theorem fillL1 {c : Nat} {x : Resp} (h : s.MemoryForm) : (s.fillL1 c x).MemoryForm := by
  unfold State.fillL1
  split
  · exact h
  · exact h.lineFor.updCore rfl

theorem resend {c : Nat} {o : Out} (h : s.MemoryForm) : (s.resend c o).MemoryForm := by
  unfold State.resend
  exact h.updCore rfl

theorem loadValue {c : Nat} {x : Resp} {reg : Reg} {b : List PByte} {n : Nat} {signed : Bool} (h : s.MemoryForm) :
    (s.loadValue c x reg b n signed).MemoryForm :=
  h.answerTrap.ite h.updCtx.acquireFor

theorem finishLoad {c : Nat} {x : Resp} {reg : Reg} {b : List PByte} {n : Nat} {signed : Bool} (h : s.MemoryForm) :
    (s.finishLoad c x reg b n signed).MemoryForm :=
  h.withTask fun ht => ht.loadValue

theorem finishValue {c : Nat} {x : Resp} {reg : Reg} {n : Nat} {signed : Bool} (h : s.MemoryForm) :
    (s.finishValue c x reg n signed).MemoryForm :=
  h.withTask fun ht => (ht.answerTrap.ite ht.updCtx.acquireFor)

theorem finishFuture {c : Nat} {x : Resp} {reg : Reg} (h : s.MemoryForm) : (s.finishFuture c x reg).MemoryForm := by
  unfold State.finishFuture
  exact h.withTask fun ht => (ht.answerTrap.ite (ht.setCtx.watchdogTrap.ite (ht.setCtx.acquireFor.ite ht.setCtx.acquireFor)))

theorem finishAnswer {c : Nat} {x : Resp} {reg : Reg} (h : s.MemoryForm) : (s.finishAnswer c x reg).MemoryForm := by
  unfold State.finishAnswer
  exact h.withTask fun ht => (ht.ite (ht.answerTrap.ite (ht.answerTrap.ite ht.updCtx.acquireFor)))

theorem finishGroup {c : Nat} {x : Resp} {reg : Reg} {addr : Nat} {up : Bool} (h : s.MemoryForm) :
    (s.finishGroup c x reg addr up).MemoryForm :=
  h.withTask fun ht => (ht.answerTrap.ite ht.updCtx)

theorem lineLoad {c : Nat} {o : Out} {x : Resp} {reg : Reg} {n : Nat} {signed : Bool} (h : s.MemoryForm) :
    (s.lineLoad c o x reg n signed).MemoryForm := by
  unfold State.lineLoad
  exact ((h.fillRdc.ite h).fillL1).withTask fun ht => (ht.resend.ite ht.returned.updCtx.loadValue)

theorem coreRespond {c : Nat} {x : Resp} (h : s.MemoryForm) : (s.coreRespond c x).MemoryForm := by
  unfold State.coreRespond
  dsimp only
  split
  · exact ackWrite (h.updCore rfl)
  · exact (lineLoad (ackWrite (h.updCore rfl))).ite (finishLoad (ackWrite (h.updCore rfl)))
  · exact finishLoad (ackWrite (h.updCore rfl))
  · exact finishValue (ackWrite (h.updCore rfl))
  · exact finishFuture (ackWrite (h.updCore rfl))
  · exact finishAnswer (ackWrite (h.updCore rfl))
  · exact finishGroup (ackWrite (h.updCore rfl))
  · exact leftGroup (ackWrite (h.updCore rfl))

theorem engineAck {x : Resp} (h : s.MemoryForm) : (s.engineAck x).MemoryForm := h.congr rfl rfl rfl

theorem hostRespond {x : Resp} (h : s.MemoryForm) : (s.hostRespond x).MemoryForm := h.congr rfl rfl rfl

theorem deliverTo {a : Agent} {x : Resp} (h : s.MemoryForm) : (s.deliverTo a x).MemoryForm := by
  unfold State.deliverTo
  split
  · exact h.coreRespond
  · exact h.engineAck.copyAck
  · split
    · exact h.engineAck.adjusted
    · exact h.engineAck
  · exact h.hostRespond
  · exact h.hostRespond
  · exact h.ite h.sendPacket
  · exact h.engineAck

theorem respondHead {h : Home} {a : Agent} (hs : s.MemoryForm) : (s.respondHead h a).MemoryForm := by
  unfold State.respondHead
  split
  · exact hs
  · split
    · exact deliverTo (hs.congr rfl rfl rfl)
    · exact hs

theorem execRespond {home : Home} {agent : Agent} (h : s.MemoryForm) : Out1.MemoryForm (execRespond home agent s) := h.respondHead

/-! ### Machine/HostPort.lean -/

theorem toHost {o : HostOut} (h : s.MemoryForm) : (s.toHost o).MemoryForm := h.congr rfl rfl rfl

theorem hostSend {a : Agent} {home : Home} {op : HomeOp} {addr size : Nat} (h : s.MemoryForm) :
    (s.hostSend a home op addr size).MemoryForm :=
  h.fresh.congr rfl rfl rfl

theorem execCxlMemRead {pa size : Nat} (h : s.MemoryForm) : Out1.MemoryForm (execCxlMemRead pa size s) :=
  h.toHost.ite (h.fresh.toHost.ite h.hostSend)

theorem execCxlMemWrite {pa : Nat} {data : List Byte} (h : s.MemoryForm) : Out1.MemoryForm (execCxlMemWrite pa data s) :=
  h.toHost.ite (h.fresh.toHost.ite h.hostSend)

/-- As `performDevice`: the pairs are taken apart one by one, with the read of the register generalised. -/
theorem execCxlIoAccess {pa size : Nat} {write : Bool} {data : List Byte} (h : s.MemoryForm) :
    Out1.MemoryForm (execCxlIoAccess pa size write data s) := by
  unfold Machine.execCxlIoAccess
  extract_lets n
  refine ite h.toHost (ite ?_ h.hostSend)
  have ht := h.fresh
  generalize s.fresh = x at ht ⊢
  obtain ⟨id, t⟩ := x
  have hl := ht.devLoad (pa := pa) (n := n)
  refine ite (ite ht.devStore ht).toHost (ite ?_ ht.toHost)
  generalize t.devLoad pa n = y at hl ⊢
  obtain ⟨b, t'⟩ := y
  exact hl.toHost

theorem execHostApertureCompletion {id : Nat} {data : List Byte} (h : s.MemoryForm) :
    Out1.MemoryForm (execHostApertureCompletion id data s) := by
  unfold Machine.execHostApertureCompletion
  change MemoryForm _
  split
  · exact h
  · refine respond ?_
    exact h.congr rfl rfl rfl

theorem execSnoop {addr : W64} (h : s.MemoryForm) : Out1.MemoryForm (execSnoop addr s) := h.toHost

theorem execCxlLinkTraining {width rate : Nat} (h : s.MemoryForm) : Out1.MemoryForm (execCxlLinkTraining width rate s) := by
  unfold Machine.execCxlLinkTraining
  change MemoryForm _
  split
  · exact h.congr rfl rfl rfl
  · exact h

theorem spdmExchange {code : Nat} {req extra : List Byte} {allowed : Bool} {upd : SpdmState → SpdmState} (h : s.MemoryForm) :
    Out1.MemoryForm (s.spdmExchange code req extra allowed upd) :=
  toHost (h.congr rfl rfl rfl)

theorem execIdeKeyProgramming {stream : Nat} {key : List Byte} (h : s.MemoryForm) :
    Out1.MemoryForm (execIdeKeyProgramming stream key s) := by
  unfold Machine.execIdeKeyProgramming
  change MemoryForm _
  split
  · exact h.congr rfl rfl rfl
  · exact h

/-! ### Machine/Illegal.lean -/

theorem execIllegalEncoding {word : W32} (h : s.MemoryForm) : Out1.MemoryForm (execIllegalEncoding word s) := h.trapAt

theorem reservedWord {word : W32} (h : s.MemoryForm) : (s.reservedWord word).MemoryForm := h.trapAt

end State.MemoryForm

end Sys2Proof.Machine
end

section
/-!
SUPPORT. What keeps the canonical form of the memories:
the remaining instructions, their dispatch and one step.
Each lemma says it of the operation that it is named after, in the order of the model.
-/
namespace Sys2Proof.Machine

namespace State.MemoryForm

variable {s : State}

/-! ### Machine/Manage.lean -/

theorem execModuleReset : Out1.MemoryForm (execModuleReset s) := reset_memoryForm.congr rfl rfl rfl

theorem execFwCheckDone (h : s.MemoryForm) : Out1.MemoryForm (execFwCheckDone s) := by
  unfold Machine.execFwCheckDone
  dsimp only
  change MemoryForm _
  split
  · exact h.congr rfl rfl rfl
  · exact h

theorem execGovernorWindow {average : Nat} (h : s.MemoryForm) : Out1.MemoryForm (execGovernorWindow average s) :=
  ite (h.congr rfl rfl rfl) h

theorem execDeviceRegisterWrite {pa : Nat} {value : W64} (h : s.MemoryForm) : Out1.MemoryForm (execDeviceRegisterWrite pa value s) :=
  h.devWrite.ite h

/-- As `devLoad`. -/
theorem readToHost {pa : Nat} (h : s.MemoryForm) : (s.readToHost pa).MemoryForm := by
  have hr : ∀ {t : State}, t.MemoryForm → (t.devRead pa).2.MemoryForm := devRead
  obtain ⟨f, hf⟩ : ∃ f, f = State.readToHost := ⟨_, rfl⟩
  obtain ⟨g, hg⟩ : ∃ g, g = State.devRead := ⟨_, rfl⟩
  rw [← hf]
  delta State.readToHost at hf
  rw [← hg] at hf hr
  rw [hf]
  exact (hr h.fresh).toHost

theorem execDeviceRegisterRead {pa : Nat} (h : s.MemoryForm) : Out1.MemoryForm (execDeviceRegisterRead pa s) := by
  unfold Machine.execDeviceRegisterRead
  refine ite ?_ h
  split
  · exact h.fresh.congr rfl rfl rfl
  · exact h.readToHost.ite h
  · exact h.readToHost

theorem execDismaskWrite {die reg : Nat} {value : W64} (h : s.MemoryForm) : Out1.MemoryForm (execDismaskWrite die reg value s) := by
  unfold Machine.execDismaskWrite
  split
  · exact h.writeDismask
  · trivial

theorem execDismaskRead {die reg : Nat} (h : s.MemoryForm) : Out1.MemoryForm (execDismaskRead die reg s) := by
  unfold Machine.execDismaskRead
  split
  · exact h.fresh.toHost.ite h
  · trivial

theorem execSkewclr {die : Nat} {value : W64} (h : s.MemoryForm) : Out1.MemoryForm (execSkewclr die value s) := by
  unfold Machine.execSkewclr
  split
  · exact h.writeSkewclr
  · trivial

theorem execLagclr {die : Nat} {value : W64} (h : s.MemoryForm) : Out1.MemoryForm (execLagclr die value s) := by
  unfold Machine.execLagclr
  split
  · exact h.writeLagclr
  · trivial

/-! ### Machine/Scalar.lean -/

theorem fpOp {st : Nat} {reads : List RName} {rd : Nat} {lat : Option Nat} {op : Ctx → Rounding → W64 × List Fp.Exact} (h : s.MemoryForm) :
    Out1.MemoryForm (fpOp st reads rd lat op s) := by
  unfold Machine.fpOp
  refine h.issueWith ?_
  split
  · trivial
  · split
    · dsimp only
      split
      · exact h.updCur
      · exact h.updCur

theorem fp2 {st rd rs1 rs2 : Nat} {lat : Option Nat} {op : Rounding → Nat → Nat → W64 × List Fp.Exact} (h : s.MemoryForm) :
    Out1.MemoryForm (fp2 st rd rs1 rs2 lat op s) :=
  h.fpOp

theorem fp1 {st rd rs1 : Nat} {lat : Option Nat} {op : Rounding → Nat → W64 × List Fp.Exact} (h : s.MemoryForm) :
    Out1.MemoryForm (fp1 st rd rs1 lat op s) :=
  h.fpOp

theorem branch {st rs1 rs2 : Nat} {off : BitVec 13} {taken : W64 → W64 → Bool} (h : s.MemoryForm) :
    Out1.MemoryForm (branch st rs1 rs2 off taken s) :=
  h.issueWith h

theorem execJalr {st : Fin 8} {rd rs1 : Fin 32} {imm : BitVec 13} (h : s.MemoryForm) : Out1.MemoryForm (execJalr st rd rs1 imm s) := by
  unfold Machine.execJalr
  refine h.issueWith ?_
  dsimp only
  split
  · trivial
  · exact h

/-! ### Machine/Sys.lean -/

theorem execTrap {st : Fin 8} {code : Fin 1024} (h : s.MemoryForm) : Out1.MemoryForm (execTrap st code s) := h.issueWith h.trapAt.slotLost

theorem execEret {st : Fin 8} (h : s.MemoryForm) : Out1.MemoryForm (execEret st s) := by
  unfold Machine.execEret
  refine h.issueWith ?_
  dsimp only
  split
  · trivial
  · exact h.updCur

theorem execIfence {st : Fin 8} {rs1 : Fin 32} (h : s.MemoryForm) : Out1.MemoryForm (execIfence st rs1 s) := by
  unfold Machine.execIfence
  refine h.issueWith ?_
  dsimp only
  split
  · split
    · trivial
    · exact h
  · split
    · trivial
    · exact h

theorem execOvld {st : Fin 8} {rd rs1 : Fin 32} (h : s.MemoryForm) : Out1.MemoryForm (execOvld st rd rs1 s) := by
  unfold Machine.execOvld
  refine h.issueWith ?_
  dsimp only
  split
  · exact h
  · split
    · exact h
    · split
      · exact h
      · split
        · exact h.updCur
        · split
          · exact h
          · exact updCur (h.updHere rfl)

theorem execLwait {st : Fin 8} {rd rs1 : Fin 32} (h : s.MemoryForm) : Out1.MemoryForm (execLwait st rd rs1 s) := by
  unfold Machine.execLwait
  refine h.issueWith ?_
  dsimp only
  split
  · exact h.updCur
  · exact h.waitCond

theorem execLwaitWake {core ctx : Nat} (h : s.MemoryForm) : Out1.MemoryForm (execLwaitWake core ctx s) := by
  unfold Machine.execLwaitWake
  dsimp only
  split
  · split
    · exact execLwait (h.congr rfl rfl rfl)
    · exact h
  · exact h

theorem putTask {c k : Nat} {saved : Option Nat} {t : Ctx} (h : s.MemoryForm) : (s.putTask c k saved t).MemoryForm := by
  unfold State.putTask
  split
  · exact h.setCtx
  · split
    · next e => exact h.setSave e rfl
    · exact h

theorem resumeTask {tok : Nat} {target : Option Nat} (h : s.MemoryForm) : (s.resumeTask tok target).1.MemoryForm := by
  unfold State.resumeTask
  split
  · exact h
  · dsimp only
    split
    · exact h
    · dsimp only
      refine acquire ?_
      exact h.putTask

theorem execResume {st : Fin 8} {rd rs1 rs2 : Fin 32} (h : s.MemoryForm) : Out1.MemoryForm (execResume st rd rs1 rs2 s) :=
  h.issueWith (h.afterGate fun ht => ht.resumeTask)

theorem killFaulted {tok : Nat} (h : s.MemoryForm) : (s.killFaulted tok).1.MemoryForm := by
  unfold State.killFaulted
  split
  · exact h
  · exact h.killTask
  · split
    · exact h
    · next e =>
      refine endSaved (updCore ?_ rfl)
      exact h.setSave e rfl

theorem discardJob {v : Nat} (h : s.MemoryForm) : (s.discardJob v).1.MemoryForm := by
  unfold State.discardJob
  dsimp only
  split
  · exact h
  · exact foldl (fun _ ht => ht.discardOn) h

theorem execTkill {st : Fin 8} {rd rs1 rs2 : Fin 32} (h : s.MemoryForm) : Out1.MemoryForm (execTkill st rd rs1 rs2 s) := by
  unfold Machine.execTkill
  refine h.issueWith ?_
  refine h.afterGate fun ht => ?_
  dsimp only
  change MemoryForm _
  split
  · split
    · exact ht.killFaulted
    · split
      · exact ht.discardJob
      · exact ht
  · split
    · exact ht.killFaulted
    · split
      · exact ht.discardJob
      · exact ht

/-! ### Machine/Wacc.lean -/

theorem waPush {c : Nat} {a : WaSlot} {cfg : WaCfg} {x : List W32} (h : s.MemoryForm) : (s.waPush c a cfg x).1.MemoryForm :=
  (h.setCore_of_wf (HomeCore.waPush_wf (h.core c))).spTouched

theorem setWa {wa : Nat} {a : WaSlot} {cycles : Nat} (h : s.MemoryForm) : (s.setWa wa a cycles).MemoryForm := h.updHere rfl

theorem waSlot {wa : Nat} {act : WaSlot → Res} (h : s.MemoryForm) (ha : ∀ a, (act a).MemoryForm) : (s.waSlot wa act).MemoryForm := by
  unfold State.waSlot
  split
  · trivial
  · split
    · exact h.waitStall
    · exact ha _

theorem waOwned {wa : Nat} {act : State → WaSlot → Res} (h : s.MemoryForm) (ha : ∀ {t : State}, t.MemoryForm → ∀ a, (act t a).MemoryForm) :
    (s.waOwned wa act).MemoryForm :=
  h.waSlot fun a => by
    split
    · trivial
    · exact ha h a

theorem waUsable {wa : Nat} {act : State → WaSlot → WaCfg → Res} (h : s.MemoryForm)
    (ha : ∀ {t : State}, t.MemoryForm → ∀ a c, (act t a c).MemoryForm) : (s.waUsable wa act).MemoryForm :=
  h.waSlot fun a => by
    split
    · trivial
    · split
      · trivial
      · exact ha h ..

theorem waLanes {v : Nat} {a : WaSlot} {cfg : WaCfg} {reads : List Nat} {act : State → Res} (h : s.MemoryForm)
    (ha : ∀ {t : State}, t.MemoryForm → (act t).MemoryForm) : (s.waLanes v a cfg reads act).MemoryForm := by
  unfold State.waLanes
  split
  · trivial
  split
  · trivial
  split
  · trivial
  split
  · trivial
  split
  · exact h.waitStall
  split
  · trivial
  · exact ha h

theorem execWaalloc {st : Fin 8} {xs : Fin 32} {wa : Fin 8} (h : s.MemoryForm) : Out1.MemoryForm (execWaalloc st xs wa s) := by
  unfold Machine.execWaalloc
  refine h.issueWith ?_
  dsimp only
  split
  · exact h.waitStall
  · split
    · trivial
    · split
      · trivial
      · split
        · trivial
        · exact h.setWa

theorem execWafree {st wa : Fin 8} (h : s.MemoryForm) : Out1.MemoryForm (execWafree st wa s) := by
  unfold Machine.execWafree
  refine h.issueWith ?_
  refine h.waOwned fun ht a => ?_
  exact ht.updHere rfl

theorem execWaset {st : Fin 8} {xs : Fin 32} {wa : Fin 8} (h : s.MemoryForm) : Out1.MemoryForm (execWaset st xs wa s) := by
  unfold Machine.execWaset
  refine h.issueWith ?_
  refine h.waOwned fun ht a => ?_
  dsimp only
  split
  · trivial
  · split
    · trivial
    · exact ht.setWa

theorem execWapush {st : Fin 8} {vs1 : Fin 16} {w : Fin 8} (h : s.MemoryForm) : Out1.MemoryForm (execWapush st vs1 w s) :=
  h.issueWith (h.waUsable fun ht _ _ => ht.waLanes fun ht => ht.waPush.setWa)

theorem execWaread {st : Fin 8} {vd : Fin 16} {w : Fin 8} (h : s.MemoryForm) : Out1.MemoryForm (execWaread st vd w s) :=
  h.issueWith (h.waUsable fun ht _ _ => ht.waLanes fun ht => ht.setWa)

theorem execWaclr {st wa : Fin 8} (h : s.MemoryForm) : Out1.MemoryForm (execWaclr st wa s) := by
  unfold Machine.execWaclr
  refine h.issueWith ?_
  refine h.waUsable fun ht a c => ?_
  exact ht.setWa

/-! ### Machine/Dispatch.lean -/

theorem exec {i : Instr} (h : s.MemoryForm) : Out1.MemoryForm (exec i s) := by
  cases i with
  | add | sub | and | or | xor | sll | srl | sra | min | max | minu | maxu | cset | csetm | add32 | sub32 | sll32 | srl32 | sra32
  | add32z | sub32z | sll32z | srl32z | sra32z | mul | mulh | mulhu | div | divu | rem | remu =>
    unfold Machine.exec
    exact h.rrr
  | clz | ctz | popc | bext | addi | andi | ori | xori | slli | srli | srai | clti | cltiu | addi32 =>
    unfold Machine.exec
    exact h.rr
  | bins | immhi | pcofs | jal | killpt | hgr | vmvxv | vmvvx | vsgn | vham =>
    unfold Machine.exec
    exact h.issueWith h
  | fadd | fsub | fmul | fmin | fmax | feq | flt | fle | fsign | fdiv =>
    unfold Machine.exec
    exact h.fp2
  | fclass | fsqrt | fabs | fneg =>
    unfold Machine.exec
    exact h.fp1
  | fcvt | fmadd =>
    unfold Machine.exec
    exact h.fpOp
  | beq | bne | blt | bge | bltu | bgeu =>
    unfold Machine.exec
    exact h.branch
  | jalr => exact h.execJalr
  | lb | lh | lw | ld | lbu | lhu | lwu =>
    unfold Machine.exec
    exact h.loadOp
  | ldx => exact h.execLdx
  | sb | sh | sw | sd =>
    unfold Machine.exec
    exact h.storeOp
  | stx => exact h.execStx
  | amoadd | amoaddw | amoand | amoandw | amoor | amoorw | amoxor | amoxorw | amomin | amominw | amomax | amomaxw | amominu
  | amominuw | amomaxu | amomaxuw | amoswap | amoswapw | amofadd =>
    unfold Machine.exec
    exact h.atomicOp
  | cas => exact h.execCas
  | red => exact h.execRed
  | fence => exact h.execFence
  | cln => exact h.execCln
  | inv => exact h.execInv
  | waita => exact h.execWaita
  | ldf => exact h.execLdf
  | stf => exact h.execStf
  | spawn => exact h.execSpawn
  | endTask => exact h.execEndTask
  | park => exact h.execPark
  | yield | hgw | fmt =>
    unfold Machine.exec
    exact h.issueWith h.updCur
  | qput => exact h.execQput
  | cancel => exact h.execCancel
  | join => exact h.execJoin
  | leave => exact h.execLeave
  | bari => exact h.execBari
  | barv => exact h.execBarv
  | barw => exact h.execBarw
  | spawnb => exact h.execSpawnb
  | setbnd => exact h.execSetbnd
  | improve => exact h.execImprove
  | rdinc => exact h.execRdinc
  | incset => exact h.execIncset
  | hire => exact h.execHire
  | hwait => exact h.execHwait
  | hstat => exact h.execHstat
  | bind => exact h.execBind
  | unbind => exact h.execUnbind
  | burst => exact h.execBurst
  | cpwait => exact h.execCpwait
  | cpst => exact h.execCpst
  | ringsub => exact h.execRingsub
  | ringstop => exact h.execRingstop
  | mrowCopy | mrowZero =>
    unfold Machine.exec
    exact h.mrowOp
  | lzput => exact h.execLzput
  | coll => exact h.execColl
  | vclaimTry | vclaimWait =>
    unfold Machine.exec
    exact h.claimOp
  | vren => exact h.execVren
  | vrel => exact h.execVrel
  | vld | vlds | vldx =>
    unfold Machine.exec
    exact h.vLoad
  | vst | vsts | vstx =>
    unfold Machine.exec
    exact h.vStore
  | vaddVv | vaddVx | vsubVv | vsubVx | vmulVv | vmulVx | vmulhVv | vmulhVx | vminVv | vminVx | vmaxVv | vmaxVx | vminuVv
  | vminuVx | vmaxuVv | vmaxuVx | vandVv | vandVx | vorVv | vorVx | vxorVv | vxorVx | vsllVv | vsllVx | vsrlVv | vsrlVx | vsraVv
  | vsraVx =>
    unfold Machine.exec
    exact h.vInt
  | vfaddVv | vfaddVx | vfsubVv | vfsubVx | vfmulVv | vfmulVx | vfmaVv | vfmaVx | vfnmaVv | vfnmaVx | vfminVv | vfminVx | vfmaxVv
  | vfmaxVx =>
    unfold Machine.exec
    exact h.vFloat
  | vcmpVv | vcmpVx =>
    unfold Machine.exec
    exact h.vCmp
  | vselVv | vselVx =>
    unfold Machine.exec
    exact h.vSel
  | vmand | vmor =>
    unfold Machine.exec
    exact h.vMask
  | vperm | vslide | vbcast =>
    unfold Machine.exec
    exact h.vMove
  | vred => exact h.execVred
  | vexp2 | vlog2 | vrcp | vrsq | vsqrt =>
    unfold Machine.exec
    exact h.vSfu
  | vcvt => exact h.execVcvt
  | waalloc => exact h.execWaalloc
  | wafree => exact h.execWafree
  | waset => exact h.execWaset
  | wapush => exact h.execWapush
  | waread => exact h.execWaread
  | waclr => exact h.execWaclr
  | kvhome => exact h.execKvhome
  | stub => exact h.execStub
  | migrate => exact h.execMigrate
  | vdec => exact h.execVdec
  | vdstat => exact h.execVdstat
  | csrr => exact h.execCsrr
  | csrw => exact h.execCsrw
  | csrs => exact h.execCsrs
  | csrc => exact h.execCsrc
  | trap => exact h.execTrap
  | eret => exact h.execEret
  | brk =>
    unfold Machine.exec
    exact h.issueWith trivial
  | ifence => exact h.execIfence
  | ovld => exact h.execOvld
  | lwait => exact h.execLwait
  | resume => exact h.execResume
  | tkill => exact h.execTkill
  | drain => exact h.execDrain
  | answer => exact h.execAnswer
  | perform => exact h.execPerform
  | respond => exact h.execRespond
  | evict => exact h.execEvict
  | drop => exact h.execDrop
  | engineIssue => exact h.execEngineIssue
  | engineEvent => exact h.execEngineEvent
  | barrierAdjust => exact h.execBarrierAdjust
  | futureWithdraw => exact h.execFutureWithdraw
  | qtailWrite => exact h.execQtailWrite
  | launchTake => exact h.execLaunchTake
  | launchStart => exact h.execLaunchStart
  | taskMessageSend => exact h.execTaskMessageSend
  | messageResend => exact h.execMessageResend
  | completionRecordWrite => exact h.execCompletionRecordWrite
  | cancelMark => exact h.execCancelMark
  | cancelArrive => exact h.execCancelArrive
  | messageArrive => exact h.execMessageArrive
  | rehomeHint => exact h.execRehomeHint
  | contextAllocate => exact h.execContextAllocate
  | coreReconfigure => exact h.execCoreReconfigure
  | rqageExpire => exact h.execRqageExpire
  | agePromotion => exact h.execAgePromotion
  | runQueueScrub => exact h.execRunQueueScrub
  | overflowScrub => exact h.execOverflowScrub
  | incumbentBroadcast => exact h.execIncumbentBroadcast
  | shadowUnbind => exact h.execShadowUnbind
  | shadowStateInstall => exact h.execShadowStateInstall
  | shadowLag => exact h.execShadowLag
  | hireAdmit => exact h.execHireAdmit
  | operandPush => exact h.execOperandPush
  | hireReady => exact h.execHireReady
  | arrayStart => exact h.execArrayStart
  | hireComputeEnd => exact h.execHireComputeEnd
  | hireLanding => exact h.execHireLanding
  | landingArrive => exact h.execLandingArrive
  | chainIdleExpire => exact h.execChainIdleExpire
  | bindStore => exact h.execBindStore
  | unbindPerform => exact h.execUnbindPerform
  | arrayCool => exact h.execArrayCool
  | burstArrive => exact h.execBurstArrive
  | warmHoldExpire => exact h.execWarmHoldExpire
  | translationWalk => exact h.execTranslationWalk
  | leaseExpire => exact h.execLeaseExpire
  | leaseRenew => exact h.execLeaseRenew
  | l1LeaseWriteback => exact h.execL1LeaseWriteback
  | skewCompare => exact h.execSkewCompare
  | lhznRead | dtimeRead | cpgoRead =>
    unfold Machine.exec
    exact h.issueCsr
  | dlcfgWrite => exact h.execDlcfgWrite
  | dirtyLogMerge => exact h.execDirtyLogMerge
  | harvest => exact h.execHarvest
  | harvestDone => exact h.execHarvestDone
  | copyStart => exact h.execCopyStart
  | ringSlot => exact h.execRingSlot
  | ringCounterReread => exact h.execRingCounterReread
  | mrowStart => exact h.execMrowStart
  | rcp => exact h.execRcp
  | rzf => exact h.execRzf
  | rbr => exact h.execRbr
  | rbw => exact h.execRbw
  | zoneContribution => exact h.execZoneContribution
  | zoneReadout => exact h.execZoneReadout
  | collStart => exact h.execCollStart
  | collTimeout => exact h.execCollTimeout
  | collComplete => exact h.execCollComplete
  | decodeJobStart => exact h.execDecodeJobStart
  | frameDecode => exact h.execFrameDecode
  | frameStatus => exact h.execFrameStatus
  | decodeRingReread => exact h.execDecodeRingReread
  | faultRecordWrite => exact h.execFaultRecordWrite
  | heldRecordWrite => exact h.execHeldRecordWrite
  | watchdog => exact h.execWatchdog
  | correctedError =>
    unfold Machine.exec
    exact h.execCorrectedError
  | uncorrectableError => exact h.execUncorrectableError
  | preemption => exact h.execPreemption
  | launchResume => exact h.execLaunchResume
  | lwaitWake => exact h.execLwaitWake
  | governorWindow => exact h.execGovernorWindow
  | linkChange => exact h.execLinkChange
  | flitReplay => exact h.execFlitReplay
  | fabricPacketArrive => exact h.execFabricPacketArrive
  | fabricAck => exact h.execFabricAck
  | fabricResend => exact h.execFabricResend
  | sessionFail => exact h.execSessionFail
  | fabsyncRead => exact h.execFabsyncRead
  | fabctlWrite => exact h.execFabctlWrite
  | timePacketSend => exact h.execTimePacketSend
  | timePacketArrive => exact h.execTimePacketArrive
  | timeHoldover => exact h.execTimeHoldover
  | cxlMemRead => exact h.execCxlMemRead
  | cxlMemWrite => exact h.execCxlMemWrite
  | cxlIoAccess => exact h.execCxlIoAccess
  | moduleReset => exact execModuleReset
  | fwGo | fwCommit =>
    unfold Machine.exec
    exact h.writeFwctl
  | fwCheckDone => exact h.execFwCheckDone
  | dismaskWrite => exact h.execDismaskWrite
  | dismaskRead => exact h.execDismaskRead
  | skewclr => exact h.execSkewclr
  | lagclr => exact h.execLagclr
  | spdmVersion | spdmCapabilities | spdmAlgorithms | spdmDigests | spdmCertificate | challenge | spdmMeasurements | keyExchange
  | finish | keyUpdate | endSession =>
    unfold Machine.exec
    exact h.spdmExchange
  | deviceRegisterWrite => exact h.execDeviceRegisterWrite
  | illegalEncoding => exact h.execIllegalEncoding
  | hostApertureCompletion => exact h.execHostApertureCompletion
  | snoop => exact h.execSnoop
  | cxlLinkTraining => exact h.execCxlLinkTraining
  | ideKeyProgramming => exact h.execIdeKeyProgramming
  | deviceRegisterRead =>
    unfold Machine.exec
    exact h.execDeviceRegisterRead

/-! ### Machine/Schedule.lean -/

theorem issueFrom {c k : Nat} (h : s.MemoryForm) : Out1.MemoryForm (s.issueFrom c k) := by
  unfold State.issueFrom
  dsimp only
  split
  · exact h.atIssue.trapNow.slotLost
  · split
    · exact h.atIssue.updCur.trapCur.slotLost
    · split
      · exact h.atIssue.trapAt.slotLost
      · split
        · exact h.atIssue.exec
        · exact h.atIssue.execIllegalEncoding
        · exact h.atIssue.reservedWord

theorem tryIssue {c k : Nat} (h : s.MemoryForm) : Out1.MemoryForm (s.tryIssue c k) := by
  unfold State.tryIssue
  split
  · split
    · next e => exact h.ite (show Out1.MemoryForm (.next _) from e ▸ h.issueFrom)
    · exact h.issueFrom
  · exact h

theorem growAges {cycles : Nat} (h : s.MemoryForm) : (s.growAges cycles).MemoryForm := ⟨h.hbm, List.forall_mem_map.2 h.spads, h.saved⟩

theorem tick {cycles : Nat} {ns : List Nat} (h : s.MemoryForm) : (s.tick cycles ns).MemoryForm := by
  unfold State.tick
  split
  · exact h.growAges.congr rfl rfl rfl
  · exact h

theorem takePick {p : Pick} (h : s.MemoryForm) : Out1.MemoryForm (s.takePick p) := by
  cases p with
  | issue c k =>
    change Out1.MemoryForm (if s.mayIssue c k then s.issueFrom c k else .next s)
    split
    · exact h.issueFrom
    · exact h
  | event i => exact h.exec
  | tick cycles ns => exact h.tick

end State.MemoryForm

/-- Every step of a list keeps the form. -/
def KeepForm (l : List Step) : Prop := ∀ f ∈ l, ∀ s : State, s.MemoryForm → Out1.MemoryForm (f s)

namespace KeepForm

theorem nil : KeepForm [] := fun _ hf => by cases hf

theorem cons {f : Step} {l : List Step} (hf : ∀ s : State, s.MemoryForm → Out1.MemoryForm (f s)) (hl : KeepForm l) : KeepForm (f :: l) :=
  List.forall_mem_cons.2 ⟨hf, hl⟩

theorem append {l l' : List Step} (h : KeepForm l) (h' : KeepForm l') : KeepForm (l ++ l') := List.forall_mem_append.2 ⟨h, h'⟩

theorem map {α : Type} {f : α → Step} {l : List α} (h : ∀ a, ∀ s : State, s.MemoryForm → Out1.MemoryForm (f a s)) : KeepForm (l.map f) :=
  List.forall_mem_map.2 fun a _ => h a

theorem flatMap {α : Type} {f : α → List Step} {l : List α} (h : ∀ a, KeepForm (f a)) : KeepForm (l.flatMap f) := fun g hg => by
  obtain ⟨a, -, ha⟩ := List.mem_flatMap.1 hg
  exact h a g ha

theorem ite {c : Prop} {_ : Decidable c} {l l' : List Step} (h : KeepForm l) (h' : KeepForm l') : KeepForm (if c then l else l') := by
  split
  · exact h
  · exact h'

end KeepForm

namespace State.MemoryForm

variable {s : State}

theorem corePicks (s : State) (c : Nat) : KeepForm (s.corePicks c) :=
  .ite .nil <| .append (.append (.map fun _ _ h => h.tryIssue)
    (.cons (fun _ h => h.execDrain) <| .cons (fun _ h => h.execContextAllocate) <| .cons (fun _ h => h.execCoreReconfigure) <|
      .cons (fun _ h => h.execRunQueueScrub) <| .cons (fun _ h => h.execPreemption) .nil))
    (.flatMap fun _ => .cons (fun _ h => h.execLwaitWake) <| .cons (fun _ h => h.execWatchdog) .nil)

theorem copyPicks (s : State) (c : Nat) : KeepForm (s.copyPicks c) :=
  .flatMap fun _ => .cons (fun _ h => h.execCopyStart) <| .cons (fun _ h => h.execEngineEvent) <| .cons (fun _ h => h.execEngineIssue) .nil

theorem heldPicks (s : State) : KeepForm s.heldPicks :=
  .append (.append (.map fun _ _ h => h.execOperandPush) (.map fun _ _ h => h.execHeldRecordWrite)) (.map fun _ _ h => h.execLaunchResume)

theorem movePicks (s : State) : KeepForm s.movePicks := by
  refine .append (.append (.append (.append (.append (.append (.append (.append (.append (.append (.append (.append ?_ ?_) ?_) ?_) ?_) ?_) ?_)
    ?_) ?_) ?_) ?_) ?_) ?_
  · exact .map fun _ _ h => h.execPerform
  · exact .map fun _ _ h => h.execRespond
  · exact .map fun _ _ h => h.execMessageArrive
  · exact .map fun _ _ h => h.execMessageResend
  · exact .map fun _ _ h => h.execRehomeHint
  · exact .map fun _ _ h => h.execFabsyncRead
  · exact .map fun _ _ h => h.execFaultRecordWrite
  · exact .flatMap fun _ => .cons (fun _ h => h.execCancelMark) <| .cons (fun _ h => h.execTaskMessageSend) <|
      .cons (fun _ h => h.execOverflowScrub) .nil
  · exact .flatMap fun _ => .ite (.map fun _ _ h => h.execCancelArrive) .nil
  · exact .map fun _ _ h => h.execCompletionRecordWrite
  · exact .flatMap fun _ => .ite (.cons (fun _ h => h.execLaunchTake) .nil) .nil
  · exact .map fun _ _ h => h.execLaunchStart
  · exact .map fun _ _ h => h.execIncumbentBroadcast

theorem rowPicks (s : State) (u : Nat) (o : BdeOp) : KeepForm (s.rowPicks u o) := by
  unfold State.rowPicks
  split
  · exact .nil
  · dsimp only
    split
    · exact .cons (fun _ h => h.execRzf) .nil
    · exact .cons (fun _ h => h.execRcp) .nil
    · exact .cons (fun _ h => h.execRbr) <| .cons (fun _ h => h.execRbw) .nil

theorem unitPicks (s : State) : KeepForm s.unitPicks := by
  refine .append (.append (.append (.flatMap fun e => ?_) (.flatMap fun e => ?_)) (.flatMap fun v => ?_)) (.flatMap fun o => ?_)
  · refine .append (.append (.append (.append (.append ?_ ?_) ?_) ?_) ?_) ?_
    · refine .flatMap fun _ => ?_
      split
      · exact .cons (fun _ h => h.execHireAdmit) .nil
      · exact .nil
    · exact .map fun _ _ h => h.execHireReady
    · exact .map fun _ _ h => h.execUnbindPerform
    · exact .map fun _ _ h => h.execBurstArrive
    · exact .cons (fun _ h => h.execArrayStart) <| .cons (fun _ h => h.execBindStore) <| .cons (fun _ h => h.execHireComputeEnd) <|
        .cons (fun _ h => h.execHireLanding) <| .cons (fun _ h => h.execEngineIssue) <| .cons (fun _ h => h.execEngineEvent) <|
        .cons (fun _ h => h.execLandingArrive) <| .cons (fun _ h => h.execWarmHoldExpire) <| .cons (fun _ h => h.execArrayCool) .nil
    · exact .map fun _ _ h => h.execChainIdleExpire
  · refine .append (.append (.append (.append ?_ ?_) ?_) ?_) ?_
    · exact .flatMap fun _ => .cons (fun _ h => h.execMrowStart) <| .cons (fun _ h => h.execCollStart) <|
        .cons (fun _ h => h.execEngineIssue) <| .cons (fun _ h => h.execEngineEvent) <| .cons (fun _ h => h.execCollTimeout) .nil
    · exact .flatMap fun _ => .cons (fun _ h => h.execRingSlot) <| .cons (fun _ h => h.execEngineIssue) <|
        .cons (fun _ h => h.execEngineEvent) <| .cons (fun _ h => h.execRingCounterReread) .nil
    · refine .flatMap fun _ => ?_
      split
      · exact rowPicks s _ _
      · exact .nil
    · exact .map fun _ _ h => h.execZoneReadout
    · exact .cons (fun _ h => h.execEngineIssue) <| .cons (fun _ h => h.execEngineEvent) .nil
  · exact .cons (fun _ h => h.execDecodeJobStart) <| .cons (fun _ h => h.execFrameDecode) <| .cons (fun _ h => h.execFrameStatus) <|
      .cons (fun _ h => h.execDecodeRingReread) .nil
  · exact .cons (fun _ h => h.execDirtyLogMerge) <| .cons (fun _ h => h.execHarvestDone) .nil

theorem shadowPicks (s : State) : KeepForm s.shadowPicks :=
  .flatMap fun _ => .cons (fun _ h => h.execShadowUnbind) <| .cons (fun _ h => h.execShadowStateInstall) .nil

theorem backPicks (s : State) : KeepForm s.backPicks :=
  .append (.flatMap fun _ => .map fun _ _ h => h.execL1LeaseWriteback) (.map fun _ _ h => h.execLeaseRenew)

theorem cachePicks (s : State) : KeepForm s.cachePicks :=
  .append (.flatMap fun _ => .map fun _ _ h => h.execEvict) (.flatMap fun _ => .map fun _ _ h => h.execDrop)

theorem oneCycle (h : s.MemoryForm) : s.oneCycle.MemoryForm := h.tick

theorem idle (h : s.MemoryForm) : Out1.MemoryForm s.idle := by
  unfold State.idle
  have ht := h.freeChoice
  generalize s.freeChoice = x at ht ⊢
  obtain ⟨k, t⟩ := x
  dsimp only
  split
  · next f e =>
    split at e
    · cases e
    · exact cachePicks _ f (List.mem_of_getElem? e) _ ht
  · exact ht.oneCycle

theorem defaultStep (h : s.MemoryForm) : Out1.MemoryForm s.defaultStep := by
  have hp : KeepForm (s.cores.keys.flatMap s.corePicks ++ s.heldPicks ++ s.movePicks ++ s.cores.keys.flatMap s.copyPicks ++ s.unitPicks ++
      s.shadowPicks) :=
    .append (.append (.append (.append (.append (.flatMap (corePicks s)) (heldPicks s)) (movePicks s)) (.flatMap (copyPicks s)))
      (unitPicks s)) (shadowPicks s)
  unfold State.defaultStep
  split
  · next f e => exact hp f (List.mem_of_find?_eq_some e) s h
  · split
    · split
      · next f e => exact backPicks s f (List.mem_of_find?_eq_some e) s h
      · exact h
    · exact h.idle

/-! ### Machine/Step.lean -/

theorem step (h : s.MemoryForm) : Out1.MemoryForm (step s) := by
  unfold Machine.step
  split
  · exact takePick (h.congr rfl rfl rfl)
  · exact h.defaultStep

end State.MemoryForm

end Sys2Proof.Machine
end

section
/-!
PROOF of O60 (R149, R151, R486): every step keeps the canonical form of every memory.
-/
namespace Sys2Proof
open Machine

/-- Settles O60: a step is a pick of the agenda or of the model's own order, and each of these keeps the form. -/
theorem memoryFormKept : Obligations.MemoryFormKept := by
  intro s t h e
  exact show Out1.MemoryForm (.next t) from e ▸ h.step

end Sys2Proof
end

section
/-!
SUPPORT. Instructions as frames around one operation: what each outcome of the operation leaves (R91, R100, R102), and the loads, stores and
read-modify-writes as such frames.
-/
namespace Sys2Proof.Machine

/-! ### An instruction is a frame around one operation -/

/-- Instruction `i` of stall count `st` is a frame whose conditions hold in `s`, and its operation has the outcome `r` there. -/
def State.Issues (s : State) (i : Instr) (st : Nat) (r : Res) : Prop :=
  ∃ (d : Desc) (body : State → Res), exec i s = s.issueWith d body ∧ body s = r ∧ d.st = st ∧ d.Clear s ∧ d.pool = false ∧ d.target = false

/-- The task at issue goes on in `u` from the place where it was in `s`, or parks there. -/
structure State.GoesOn (s u : State) : Prop where
  cycle : u.cycle = s.cycle
  pc    : u.cur.pc = s.cur.pc
  pend  : u.cur.pend = []
  held  : u.cur.wait.held = false

theorem State.Plain.goesOn {s u : State} (hp : s.Plain) (h : s.Kept u) : s.GoesOn u where
  cycle := h.cycle
  pc := by rw [h.cur]
  pend := by rw [h.cur, hp.pend]
  held := by rw [h.cur]; exact hp.toCalm.waits.1

/-! ### What the frame of an instruction leaves of the module -/

/-- State `t` is state `u` but for what the frame of an instruction changes of the task at issue and of its core. -/
structure State.Leaves (u t : State) : Prop where
  rest : t = { u with cores := t.cores }
  core : ∀ c, (u.core c).IssueAside (t.core c)
  cur  : t.cur = { u.cur with pc := u.cur.pc + 4, window := t.cur.window, readyAt := t.cur.readyAt, hiring := none, age := 0, promoted := false }

theorem Ctx.retire_none {t : Ctx} (d : Desc) (cycle : Nat) (hpend : t.pend = []) (htarget : d.target = false) (hheld : t.wait.held = false) :
    t.retire d [] none cycle =
      { t with pc := t.pc + 4, window := t.window.filter (fun e => e.1 != t.pc.toNat),
               readyAt := cycle + (if t.phase = .parked then 0 else d.st) + 1, hiring := none, age := 0, promoted := false } := by
  have hpc : BitVec.ofNat 16 (t.pc.toNat + 4) = t.pc + 4 := by
    apply BitVec.eq_of_toNat_eq
    simp [BitVec.toNat_add]
  unfold Ctx.retire
  simp only [List.foldl_nil, Ctx.elapse_of_nil hpend, htarget, hheld, Ctx.settle_of_nil hpend, ite_self, Bool.false_eq_true, if_false,
    Option.getD_none, Option.isSome_none, hpc]
  split <;> rfl

section
variable {s u : State} {d : Desc} (ht : d.target = false)
include ht

theorem State.leaves_retire (hpend : u.cur.pend = []) (hheld : u.cur.wait.held = false) : u.Leaves (u.retire d [] none) where
  rest := rfl
  core := u.core_retire d [] none
  cur := by
    rw [State.cur_retire, Ctx.retire_none d u.cycle hpend ht hheld]

/-- An instruction without a register result has been performed. -/
theorem State.GoesOn.performed (g : s.GoesOn u) : s.Performed (u.retire d [] none) d.st (nextPc s.cur.pc) u := by
  have hctx := Ctx.retire_none d u.cycle g.pend ht g.held
  have hpc : u.cur.pc + 4 = BitVec.ofNat 16 (nextPc s.cur.pc) := by
    rw [g.pc]
    apply BitVec.eq_of_toNat_eq
    simp [nextPc, BitVec.toNat_add]
  unfold State.Performed State.settled
  rw [State.cur_retire, State.retire, State.slotUsed_updCur, State.updCur_updCur]
  congr 1
  apply State.updCur_congr
  rw [hctx, Ctx.settle_of_nil (by exact g.pend), hpc, g.cycle]

end

/-- A result that an answer brings makes the task wait for its register. -/
theorem State.GoesOn.retire_later {s u : State} {d : Desc} (g : s.GoesOn u) (hvar : u.cur.var = []) (rd : Nat) :
    u.retire d [.later (.x rd)] none = (u.owing rd).retire d [] none := by
  have htake : u.cur.take (.later (.x rd)) = if rd = 0 then u.cur else { u.cur with var := [.x u.cur.bank rd] } := by
    have hdrop : u.cur.dropPend (.x u.cur.bank rd) = u.cur := by
      unfold Ctx.dropPend
      rw [g.pend, List.map_nil, ← g.pend]
    by_cases h : rd = 0 <;> simp [Ctx.take, RName.reg, Reg.counts, h, hdrop, hvar]
  unfold State.retire State.owing
  rw [State.updCur_updCur]
  congr 1
  apply State.updCur_congr
  rw [← htake]
  rfl

theorem State.cur_owing (u : State) (rd : Nat) : (u.owing rd).cur = { u.cur with var := (u.owing rd).cur.var } := by
  rw [State.owing, State.cur_updCur]
  split <;> rfl

theorem State.GoesOn.owing {s u : State} (g : s.GoesOn u) (rd : Nat) : s.GoesOn (u.owing rd) := by
  constructor
  · exact g.cycle
  all_goals rw [u.cur_owing]
  exacts [g.pc, g.pend, g.held]

section
variable {u t : State} (h : u.Leaves t)
include h

theorem State.Leaves.keeps {α : Type} {f : State → α} (hf : ∀ s t : State, f { s with cores := t.cores } = f s) : f t = f u := by
  rw [h.rest]
  exact hf u t

theorem State.Leaves.mem : t.mem = u.mem := h.keeps fun _ _ => rfl
theorem State.Leaves.rdc : t.rdc = u.rdc := h.keeps fun _ _ => rfl
theorem State.Leaves.curCore : t.curCore = u.curCore := h.keeps fun _ _ => rfl
theorem State.Leaves.curCtx : t.curCtx = u.curCtx := h.keeps fun _ _ => rfl
theorem State.Leaves.spad (c : Nat) : (t.core c).spad = (u.core c).spad := by rw [h.core c]
theorem State.Leaves.oq : t.here.oq = u.here.oq := by rw [State.here, h.curCore, h.core]; rfl
theorem State.Leaves.l1 : t.here.l1 = u.here.l1 := by rw [State.here, h.curCore, h.core]; rfl
theorem State.Leaves.pc : t.cur.pc = u.cur.pc + 4 := by rw [h.cur]
theorem State.Leaves.X (r : Nat) : t.X r = u.X r := by rw [State.X, h.cur]; rfl

end

/-! ### The outcomes of an operation -/

section
variable {s u : State} {i : Instr} {st : Nat}

theorem State.Issues.traps (hp : s.Plain) {c k : Nat} {fb : W64} (h : s.Issues i st (.trap c k fb)) : s.Traps i false c k fb := by
  obtain ⟨d, body, he, hb, -, hd, hpool, ht⟩ := h
  exact State.traps_of_body hp he hd hpool ht hb

theorem State.Issues.holds (hp : s.Plain) (h : s.Issues i st (.hold u)) : exec i s = .next u := by
  obtain ⟨d, body, he, hb, -, hd, hpool, ht⟩ := h
  exact he.trans (State.issueWith_hold hp.toCalm (.inr hp.pp) hd hb)

/-- An operation without a register result. -/
theorem State.Issues.leaves (hp : s.Plain) (h : s.Issues i st (.done u [] none)) (g : s.GoesOn u) :
    ∃ t, exec i s = .next t ∧ s.Performed t st (nextPc s.cur.pc) u ∧ u.Leaves t := by
  obtain ⟨d, body, he, hb, rfl, hd, hpool, ht⟩ := h
  exact ⟨_, he.trans (State.issueWith_done hp.toCalm (.inr hp.pp) hd hb hpool), g.performed ht, State.leaves_retire ht g.pend g.held⟩

theorem State.Issues.completes (hp : s.Plain) (h : s.Issues i st (.done u [] none)) (g : s.GoesOn u) :
    s.Completes i st (nextPc s.cur.pc) u := by
  obtain ⟨t, ht, hperf, -⟩ := h.leaves hp g
  exact ⟨t, ht, hperf⟩

/-- An operation whose result is there at issue. -/
theorem State.Issues.gives_running (hp : s.Plain) {rd : Nat} {v : W64} (h : s.Issues i st (.done u (nowX rd v) none)) (g : s.GoesOn u)
    (hphase : u.cur.phase = .running) : s.Completes i st (nextPc s.cur.pc) (u.putX rd v) := by
  obtain ⟨d, body, he, hb, rfl, hd, hpool, ht⟩ := h
  obtain ⟨t, hi, hperf⟩ := State.completes_x hp.toCalm (.inr hp.pp) hd hpool hb (.inr rfl) g.cycle g.pend ⟨g.held, by simp [hphase]⟩
  rw [State.putX_spent _ _ _ _ (by simp [ht]), Option.getD_none, g.pc] at hperf
  exact ⟨t, he.trans hi, hperf⟩

theorem State.Issues.gives (hp : s.Plain) {rd : Nat} {v : W64} (h : s.Issues i st (.done u (nowX rd v) none)) (hk : s.Kept u) :
    s.Completes i st (nextPc s.cur.pc) (u.putX rd v) :=
  h.gives_running hp (hp.goesOn hk) (by rw [hk.cur]; exact hp.running)

/-- An operation whose result an answer brings. -/
theorem State.Issues.owes_leaves (hp : s.Plain) {rd : Nat} (h : s.Issues i st (.done u [.later (.x rd)] none)) (g : s.GoesOn u)
    (hvar : u.cur.var = []) : ∃ t, exec i s = .next t ∧ s.Performed t st (nextPc s.cur.pc) (u.owing rd) ∧ (u.owing rd).Leaves t := by
  obtain ⟨d, body, he, hb, rfl, hd, hpool, ht⟩ := h
  have ho := g.owing rd
  refine ⟨_, he.trans (State.issueWith_done hp.toCalm (.inr hp.pp) hd hb hpool), ?_⟩
  rw [g.retire_later hvar]
  exact ⟨ho.performed ht, State.leaves_retire ht ho.pend ho.held⟩

theorem State.Issues.owes (hp : s.Plain) {rd : Nat} (h : s.Issues i st (.done u [.later (.x rd)] none)) (g : s.GoesOn u)
    (hvar : u.cur.var = []) : s.Completes i st (nextPc s.cur.pc) (u.owing rd) := by
  obtain ⟨t, ht, hperf, -⟩ := h.owes_leaves hp g hvar
  exact ⟨t, ht, hperf⟩

end

/-! ### Loads, stores and read-modify-writes as frames -/

section
variable {s : State} {i : Instr}

theorem State.loadForm_issues {f : LoadForm} (h : s.loadForm i = some f) :
    s.Issues i f.st (s.load f.rd f.n f.signed f.scope f.acq f.va) := State.load_exec h

/-- An outcome that waits behind the gate of a release, and finds it open. -/
theorem State.storeRel_open (hp : s.Plain) {n : Nat} {sc : Scope} {va v : W64} (h : s.Open sc) : s.storeRel n sc va v = s.store n sc va v := by
  unfold State.storeRel
  rw [State.gate_open hp.wait h]
  exact ite_self _

/-- A store, once its release is open. -/
theorem State.storeForm_issues (hp : s.Plain) {f : StoreForm} (h : s.storeForm i = some f) (hr : f.rel = true → s.Open f.scope) :
    s.Issues i f.st (s.store f.n f.scope f.va f.val) := by
  cases hrel : f.rel with
  | false => exact State.store_exec h hrel
  | true =>
    unfold State.storeForm at h
    split at h <;> cases h
    case h_5 st rs1 rs2 ord scope size =>
      refine ⟨_, _, rfl, ?_, rfl, Desc.clear_plain .., rfl, rfl⟩
      dsimp only at hrel hr ⊢
      rw [hrel, if_pos rfl]
      exact State.storeRel_open hp (hr hrel)
    all_goals cases hrel

/-- A read-modify-write, once its release is open. -/
theorem State.rmwForm_issues (hp : s.Plain) {f : RmwForm} (h : s.rmwForm i = some f) (hr : s.OpenFor (ordRelease f.ord)) :
    s.Issues i f.st (s.rmw f.rd f.n f.signed f.op f.ord f.va) := by
  unfold State.rmwForm at h
  split at h <;> cases h
  all_goals exact ⟨_, _, rfl, State.afterGate_open hp.wait hr, rfl, Desc.clear_plain .., rfl, rfl⟩

/-- `red`, once its release is open. -/
theorem State.red_issues (hp : s.Plain) (st ord : Fin 8) (rs1 rs2 : Fin 32) (rop f : Fin 16) (hr : s.OpenFor (ordRelease ord)) :
    s.Issues (.red st ord rs1 rs2 rop f) st (s.red rop f ((ordRelease ord).getD .core) (s.X rs1) (s.X rs2)) :=
  ⟨_, _, exec_red .., State.afterGate_open hp.wait hr, rfl, Desc.clear_plain .., rfl, rfl⟩

end

end Sys2Proof.Machine
end

section
/-!
PROOF of O4 (R170, R195, R200, R237 to R239): accesses of the own scratchpad.
-/
namespace Sys2Proof.Machine

/-! ### Poison of an access to the own scratchpad -/

theorem HomeCore.anyBad_spBytes {h : HomeCore} {off n : Nat} (hc : ∀ j, off ≤ j → j < off + n → h.spadPoison.has j = false) :
    PByte.anyBad (h.spBytes off n) = false := by
  rw [Bool.eq_false_iff]
  intro hb
  obtain ⟨j, h1, h2, h3⟩ := (pbytes_bad ..).1 hb
  rw [hc j h1 h2] at h3
  cases h3

theorem HomeCore.anyBad_spBytes_of {h : HomeCore} {off n : Nat} (hc : ∃ j, off ≤ j ∧ j < off + n ∧ h.spadPoison.has j = true) :
    PByte.anyBad (h.spBytes off n) = true := (pbytes_bad ..).2 hc

theorem HomeCore.extend_spBytes (h : HomeCore) (signed : Bool) (off n : Nat) :
    extend signed n (leNat (PByte.vals (h.spBytes off n))) =
      if signed then BitVec.ofInt 64 (sgnOf (8 * n) (leNat (Memory.bytes h.spad off n))) else w64 (leNat (Memory.bytes h.spad off n)) := by
  rw [HomeCore.vals_spBytes]
  exact extend_eq _ _ _ (Memory.bytes_lt ..)

/-! ### Accesses to the own scratchpad -/

section
variable {s : State} {n off : Nat} {va : W64} (h : s.OwnAccess va.toNat n off)
include h

theorem State.store_own (sc : Scope) (v : W64) :
    s.store n sc va v = .done (s.spWrite s.curCore off (PByte.clean (leBytes v.toNat n))) [] none := by
  unfold State.store
  simp only [State.reach_own h, h.free, Bool.false_eq_true, if_false]

theorem State.rmw_own_poisoned (rd : Nat) (signed : Bool) (op : HomeOp) (ord : Nat) (hb : PByte.anyBad (s.here.spBytes off n) = true) :
    s.rmw rd n signed op ord va = .trap 0x13 0 va := by
  unfold State.rmw
  simp only [State.reach_own h, h.free, hb, Bool.false_eq_true, if_false, if_true]

theorem State.rmw_own (rd : Nat) (signed : Bool) (op : HomeOp) (ord : Nat) (hb : PByte.anyBad (s.here.spBytes off n) = false) :
    s.rmw rd n signed op ord va =
      .done (match ordAcquire ord with | some sc => (s.ownRmw off n op).acquire (s.ownRmw off n op).curCore sc | none => s.ownRmw off n op)
        (nowX rd (extend signed n (leNat (PByte.vals (s.here.spBytes off n))))) none := by
  unfold State.rmw
  simp only [State.reach_own h, h.free, hb, Bool.false_eq_true, if_false] <;> rfl

end

theorem State.ownRmw_eq (s : State) (off n : Nat) (op : HomeOp) : s.ownRmw off n op =
    match op.newValue n (leNat (Memory.bytes s.here.spad off n)) with
    | some v => s.spWrite s.curCore off (PByte.clean (leBytes v n))
    | none => s := by
  rw [State.ownRmw, HomeCore.vals_spBytes] <;> rfl

theorem State.kept_ownRmw {s : State} (off n : Nat) (op : HomeOp) (h : s.cur.wait = .none) : s.Kept (s.ownRmw off n op) := by
  unfold State.ownRmw
  split
  · exact s.kept_spWrite _ _ _ h
  · exact .refl s

theorem State.core_spWrite_ne (s : State) {c d : Nat} (off : Nat) (bs : List PByte) (h : d ≠ c) : (s.spWrite c off bs).core d = s.core d := by
  have ha := (s.memoryAside_spWrite c off bs).keeps (f := fun t => t.core d) fun _ _ => rfl
  rw [ha, State.updCore, State.core_setCore_ne _ _ _ _ h]

end Sys2Proof.Machine

namespace Sys2Proof
open Machine

/-- Settles O4: a load of the own scratchpad reads and acquires at its issue, a store writes, and a read-modify-write does both. -/
theorem ownScratchpadAccesses : Obligations.OwnScratchpadAccesses := by
  refine ⟨?_, fun s hp i f hf hrel off ho => ?_, ?_⟩
  · intro s hp i f hf off ho v
    have hi := State.loadForm_issues hf
    rw [State.load_own ho] at hi
    refine ⟨fun hc => ?_, fun hb => ?_⟩
    · rw [HomeCore.anyBad_spBytes hc, if_neg Bool.false_ne_true, HomeCore.extend_spBytes] at hi
      refine hi.gives hp ?_
      split
      · exact s.kept_acquire _ _
      · exact .refl s
    · rw [HomeCore.anyBad_spBytes_of hb, if_pos rfl] at hi
      exact hi.traps hp
  · have hi := State.storeForm_issues hp hf hrel
    rw [State.store_own ho] at hi
    have hk := s.kept_spWrite s.curCore off (PByte.clean (leBytes f.val.toNat f.n)) hp.wait
    obtain ⟨t, ht, hperf, hl⟩ := hi.leaves hp (hp.goesOn hk)
    have hspad : t.here.spad = Memory.setBytes s.here.spad off (leBytes f.val.toNat f.n) := by
      rw [State.here, hl.spad, hl.curCore, hk.core, State.core_spWrite, HomeCore.spad_spWrite, PByte.vals_clean]
      rfl
    refine ⟨t, ht, hperf, ?_, fun a ha => ?_, fun c a hc => ?_, fun a => ?_, fun r => ?_⟩
    · have hread := Memory.bytes_setBytes_same s.here.spad off (leBytes f.val.toNat f.n)
      rwa [length_leBytes, ← hspad] at hread
    · rw [hspad, Memory.byte_setBytes, length_leBytes, if_neg (by omega)]
    · rw [hl.spad, State.core_spWrite_ne _ _ _ hc]
    · rw [hl.mem, State.mem_spWrite]
    · rw [hl.X, State.X, hk.cur]
      rfl
  · intro s hp i f hf hrel off ho old w w'
    have hi := State.rmwForm_issues hp hf hrel
    refine ⟨fun hc => ?_, fun hb => ?_⟩
    · have hk := s.kept_ownRmw off f.n f.op hp.wait
      rw [State.rmw_own ho _ _ _ _ (HomeCore.anyBad_spBytes hc), HomeCore.extend_spBytes, hk.core, State.ownRmw_eq] at hi
      rw [State.ownRmw_eq] at hk
      refine hi.gives hp ?_
      cases ordAcquire f.ord with
      | none => exact hk
      | some sc => exact hk.trans (State.kept_acquire ..)
    · rw [State.rmw_own_poisoned ho _ _ _ _ (HomeCore.anyBad_spBytes_of hb)] at hi
      exact hi.traps hp

end Sys2Proof
end

section
/-!
SUPPORT. Where an access leads, what a request leaves in the outbound queue, and that an access which is translated finds where its task
migrates to (R149, R153, R354, R369).
-/
namespace Sys2Proof.Machine

/-! ### Where an access leads -/

theorem State.reach_other {s : State} {va n core off : Nat} {w : Bool} (h : s.OtherAccess va n core off) : s.reach va n w = .other core off := by
  unfold State.reach
  simp [h.aligned, h.window, h.allowed]

theorem State.reach_global {s : State} {va n : Nat} {w : Bool} (h : s.GlobalAccess va n) : s.reach va n w = .global := by
  unfold State.reach
  simp [h.aligned, h.window, h.canon]

/-! ### What is sent -/

theorem State.Sends.keeps {s t : State} (h : s.Sends t) {α : Type} {f : State → α}
    (hf : ∀ s t : State, f { s with cores := t.cores, nextId := t.nextId, leases := t.leases, horizon := t.horizon } = f s) : f t = f s := by
  rw [h.rest]
  exact hf s t

theorem State.Sends.homeOf {s t : State} (h : s.Sends t) (pa : Nat) : t.homeOf pa = s.homeOf pa :=
  h.keeps (f := fun t => t.homeOf pa) fun _ _ => rfl

/-- A request of a core as it stands in the outbound queue: with its number, its agent and its window. -/
def State.stamped (s : State) (c : Nat) (r : Req) : Req := { r with id := s.nextId, agent := .core c, fwin := s.fabWin r.addr }

/-- A request joins the end of the outbound queue. -/
theorem State.oq_enqueue (s : State) (c : Nat) (r : Req) (w o : Bool) :
    ((s.enqueue c r w o).core c).oq = (s.core c).oq ++ [s.stamped c r] := by
  unfold State.enqueue State.enqueueOut
  rw [State.core_updCore]
  rfl

theorem State.here_oq_enqueue (s : State) (r : Req) (w o : Bool) :
    (s.enqueue s.curCore r w o).here.oq = s.here.oq ++ [s.stamped s.curCore r] := s.oq_enqueue s.curCore r w o

theorem State.here_oq_last (s : State) {c : Nat} (r : Req) (w o : Bool) (h : s.curCore = c) :
    (s.enqueue c r w o).here.oq.getLast? = some (s.stamped c r) := by
  subst h
  rw [State.here_oq_enqueue, List.getLast?_append]
  rfl

theorem State.mem_enqueue (s : State) (c : Nat) (r : Req) (w o : Bool) : (s.enqueue c r w o).mem = s.mem := rfl

theorem State.kept_report (s : State) (kind unitType unit die : Nat) (words : List W64) : s.Kept (s.report kind unitType unit die words) := by
  have h := (s.recorded_report kind unitType unit die words).other
  unfold State.MemoryAside at h
  rw [h]
  exact ⟨rfl, rfl, rfl, rfl⟩

theorem State.kept_redReport (s : State) (slice va detail : Nat) : s.Kept (s.redReport slice va detail) := s.kept_report ..

/-! ### Translation and migration (R354, R369) -/

/-- Two states whose launches and cores pin their tasks alike. -/
structure State.PinsAlike (s u : State) : Prop where
  launches : u.launches = s.launches
  wa       : ∀ c, (u.core c).wa = (s.core c).wa
  copies   : ∀ c, (u.core c).copies = (s.core c).copies

theorem State.PinsAlike.refl (s : State) : s.PinsAlike s := ⟨rfl, fun _ => rfl, fun _ => rfl⟩

theorem State.PinsAlike.trans {s t u : State} (h : s.PinsAlike t) (g : t.PinsAlike u) : s.PinsAlike u :=
  ⟨g.launches.trans h.launches, fun c => (g.wa c).trans (h.wa c), fun c => (g.copies c).trans (h.copies c)⟩

theorem State.MemoryAside.pinsAlike {s t : State} (h : s.MemoryAside t) : s.PinsAlike t := by
  rw [h]
  exact ⟨rfl, fun _ => rfl, fun _ => rfl⟩

theorem State.pinsAlike_grant (s : State) (die slice asid va : Nat) (tr : Tr) : s.PinsAlike (s.grant die slice asid va tr) := by
  unfold State.grant State.raiseHorizon
  dsimp only
  split
  · exact .refl s
  · split <;> exact ⟨rfl, fun _ => rfl, fun _ => rfl⟩

theorem State.pinsAlike_spWrite (s : State) (c off : Nat) (bs : List PByte) : s.PinsAlike (s.spWrite c off bs) := by
  refine State.PinsAlike.trans ?_ (s.memoryAside_spWrite c off bs).pinsAlike
  refine ⟨rfl, fun d => ?_, fun d => ?_⟩ <;> rw [State.core_updCore_eq] <;> split
  any_goals rfl
  all_goals subst_vars; rfl

theorem State.pinsAlike_setReg (s : State) (pa : Nat) (v : W64) : s.PinsAlike (s.setReg pa v) := ⟨rfl, fun _ => rfl, fun _ => rfl⟩

theorem State.pinsAlike_logDirty (s : State) (c asid : Nat) (tr : Tr) : s.PinsAlike (s.logDirty c asid tr) := by
  unfold State.logDirty
  cases s.logHasRoom c with
  | false =>
    simp only [Bool.false_eq_true, if_false]
    unfold State.setDirtyBit
    exact (s.memoryAside_memWrite _ _).pinsAlike
  | true =>
    simp only [if_true]
    generalize PByte.clean _ = bs
    generalize bitsOf _ 19 6 * 64 + _ = off
    generalize w64 _ = v
    exact (s.pinsAlike_spWrite c off bs).trans (State.pinsAlike_setReg ..)

/-- A task migrates alike from two states that hold it and pin it alike. -/
theorem State.migrateTo_congr {s u : State} (h : s.Kept u) (g : s.PinsAlike u) (va : Nat) (tr : Tr) : u.migrateTo va tr = s.migrateTo va tr := by
  have hmask : ∀ core, u.inMask u.cur core = s.inMask s.cur core := by
    intro core
    rw [State.inMask, State.inMask, State.launch?, State.launch?, h.cur, g.launches]
  have hpin : u.here.pinned u.curCtx u.cur = s.here.pinned s.curCtx s.cur := by
    rw [HomeCore.pinned, HomeCore.pinned, HomeCore.copying, HomeCore.copying, State.here, h.core, g.wa, g.copies, h.ctx, h.cur]
    rfl
  rw [State.migrateTo, State.migrateTo, h.core, hpin]
  simp only [hmask]

/-- A translated access finds where its task migrates to, as the state does once it is translated. -/
theorem State.movesTo_of_translate {s u : State} {va : Nat} {w : Bool} {tr : Tr} (hw : s.cur.wait = .none)
    (e : s.translate s.die s.cur.asid va w (some s.curCore) = (.ok tr, u)) : s.movesTo va w = u.migrateTo va tr := by
  have hk := s.kept_translate s.die s.cur.asid va w (some s.curCore) hw
  rw [e] at hk
  unfold State.translate at e
  unfold State.movesTo
  split at e
  · cases e
  · next t hl =>
    rw [hl]
    split at e
    · cases e
    · next hr =>
      simp only [hr, Option.isNone_none, if_true]
      dsimp only at e
      split at e <;> cases e
      · exact (State.migrateTo_congr hk ((s.pinsAlike_logDirty ..).trans (State.pinsAlike_grant ..)) va _).symm
      · exact (State.migrateTo_congr hk (s.pinsAlike_grant ..) va _).symm

/-- A refused access finds no place to migrate to, and leaves the state as it is. -/
theorem State.movesTo_of_refused {s u : State} {va d : Nat} {w : Bool} (e : s.translate s.die s.cur.asid va w (some s.curCore) = (.error d, u)) :
    s.movesTo va w = none ∧ u = s := by
  unfold State.translate at e
  unfold State.movesTo
  split at e
  · next hl =>
    cases e
    rw [hl]
    exact ⟨rfl, rfl⟩
  · next t hl =>
    rw [hl]
    split at e
    · next hr =>
      cases e
      simp [hr]
    · dsimp only at e
      split at e <;> cases e

end Sys2Proof.Machine
end

section
/-!
PROOF of O8 (R165, R170, R240, R241): `red`.
-/
namespace Sys2Proof.Machine

/-! ### `red` -/

section
variable {s : State} {rop f : Nat} {sc : Scope} {va d : W64}

theorem State.red_own {off : Nat} (h : s.OwnAccess va.toNat (Fp.fmtBits f / 8) off)
    (hb : PByte.anyBad (s.here.spBytes off (Fp.fmtBits f / 8)) = false) :
    s.red rop f sc va d = .done (s.ownRmw off (Fp.fmtBits f / 8) (.red rop f d)) [] none := by
  unfold State.red
  simp only [State.reach_own h, h.free, hb, Bool.false_eq_true, if_false]

theorem State.red_own_poisoned {off : Nat} (h : s.OwnAccess va.toNat (Fp.fmtBits f / 8) off)
    (hb : PByte.anyBad (s.here.spBytes off (Fp.fmtBits f / 8)) = true) :
    s.red rop f sc va d = .done (s.report 0x04 0 (s.curCore % 384) s.die [w64 (otherVa s.curCore off), w64 dPoison]) [] none := by
  unfold State.red
  simp only [State.reach_own h, h.free, hb, Bool.false_eq_true, if_false, if_true]

theorem State.red_other {core off : Nat} (h : s.OtherAccess va.toNat (Fp.fmtBits f / 8) core off) :
    s.red rop f sc va d = .done (s.enqueue s.curCore
      { s.taskReq (.spad core) (.red rop f d) off (Fp.fmtBits f / 8) sc .ack with va := va.toNat } true true) [] none := by
  unfold State.red
  simp only [State.reach_other h, h.free, Bool.false_eq_true, if_false]

variable {u : State}

/-- The request of a `red` for a translated address. -/
def State.redSent (u : State) (rop f : Nat) (sc : Scope) (va : Nat) (tr : Tr) (d : W64) : State :=
  let w := u.writeBackAt u.curCore u.cur.asid va
  w.enqueue w.curCore
    { w.taskReq (w.homeOf tr.pa) (.red rop f d) tr.pa (Fp.fmtBits f / 8) sc .ack with va := va, exp := some tr.exp, rdc := tr.rdc } true true

theorem State.red_global {tr : Tr} (hw : s.cur.wait = .none) (h : s.GlobalAccess va.toNat (Fp.fmtBits f / 8))
    (e : s.translate s.die s.cur.asid va.toNat true (some s.curCore) = (.ok tr, u)) (hm : u.migrateTo va.toNat tr = none) :
    s.red rop f sc va d = .done (u.redSent rop f sc va.toNat tr d) [] none := by
  unfold State.red
  simp only [State.reach_global h, h.free, State.movesTo_of_translate hw e, hm, e, Bool.false_eq_true, if_false] <;> rfl

theorem State.red_refused {k : Nat} (h : s.GlobalAccess va.toNat (Fp.fmtBits f / 8))
    (e : s.translate s.die s.cur.asid va.toNat true (some s.curCore) = (.error k, u)) :
    s.red rop f sc va d = .done ((s.writeBackAt s.curCore s.cur.asid va.toNat).redReport
      (transSlice s.die s.cur.asid va.toNat) va.toNat k) [] none := by
  obtain ⟨hm, hu⟩ := State.movesTo_of_refused e
  subst hu
  unfold State.red
  simp only [State.reach_global h, h.free, hm, e, Bool.false_eq_true, if_false]

end

end Sys2Proof.Machine

namespace Sys2Proof
open Machine

/-- Settles O8, case by case of where the address of the `red` leads. -/
theorem reduceOnWrite : Obligations.ReduceOnWrite := by
  intro s hp st ord rs1 rs2 rop f hopen i va n op
  have hi := State.red_issues hp st ord rs1 rs2 rop f hopen
  refine ⟨fun off ho hc => ?_, fun off ho hb => ?_, fun core off ho => ?_, fun hg u tr e hm => ?_, fun hg u d e => ?_⟩
  · rw [State.red_own ho (HomeCore.anyBad_spBytes hc)] at hi
    have h := hi.completes hp (hp.goesOn (State.kept_ownRmw _ _ _ hp.wait))
    rwa [State.ownRmw_eq] at h
  · rw [State.red_own_poisoned ho (HomeCore.anyBad_spBytes_of hb)] at hi
    exact hi.completes hp (hp.goesOn (State.kept_report ..))
  · rw [State.red_other ho] at hi
    have hk := s.kept_enqueue s.curCore
      { s.taskReq (.spad core) op off n ((ordRelease ord).getD .core) .ack with va := va.toNat } true true
    obtain ⟨t, ht, -, hl⟩ := hi.leaves hp (hp.goesOn hk)
    refine ⟨t, ht, by rw [hl.pc, hk.cur], fun r => ?_, hl.mem, _, hl.oq.trans (State.here_oq_enqueue ..), rfl, rfl, rfl, rfl, rfl⟩
    rw [hl.X, State.X, hk.cur]
    rfl
  · rw [State.red_global hp.wait hg e hm] at hi
    have hku := s.kept_translate s.die s.cur.asid va.toNat true (some s.curCore) hp.wait
    rw [e] at hku
    have hk : s.Kept (u.redSent rop f ((ordRelease ord).getD .core) va.toNat tr (s.X rs2)) :=
      (hku.trans (State.kept_writeBackAt ..)).trans (State.kept_enqueue ..)
    obtain ⟨t, ht, -, hl⟩ := hi.leaves hp (hp.goesOn hk)
    refine ⟨t, ht, by rw [hl.pc, hk.cur], fun r => ?_, _, (congrArg List.getLast? hl.oq).trans (State.here_oq_last _ _ _ _ rfl), rfl,
      (State.sends_writeBackAt u u.curCore u.cur.asid va.toNat).homeOf _, rfl, rfl, rfl⟩
    rw [hl.X, State.X, hk.cur]
    rfl
  · rw [State.red_refused hg e] at hi
    obtain ⟨-, hu⟩ := State.movesTo_of_refused e
    subst hu
    have hw := u.kept_writeBackAt u.curCore u.cur.asid va.toNat
    exact hi.completes hp (hp.goesOn (hw.trans (State.kept_redReport ..)))

end Sys2Proof
end

section
/-!
PROOF of O14 (R154, R157, R158, R356): evictions, dropped copies and loads that a portion answers.
-/
namespace Sys2Proof.Machine

/-! ### EVICT and L1_LEASE_WRITEBACK (R154, R356) -/

theorem L1Line.isDirty_dropClean (l : L1Line) : l.dropClean.isDirty = l.isDirty := by
  simp [L1Line.isDirty, L1Line.dropClean, List.any_filter]

theorem L1Line.dirtyBytes_dropClean (l : L1Line) : l.dropClean.dirtyBytes = l.dirtyBytes := by
  simp [L1Line.dirtyBytes, L1Line.dropClean]

/-- The bytes of an evicted line are the dirty ones, clean from now on. -/
theorem L1Line.mem_bytes_evicted (l : L1Line) (e : Nat × L1Byte) : e ∈ l.dropClean.clean.bytes ↔
    ∃ b, (e.1, b) ∈ l.bytes ∧ b.dirty = true ∧ e.2 = { b with dirty := false, owners := [] } := by
  obtain ⟨i, b⟩ := e
  simp only [L1Line.clean, L1Line.dropClean, List.mem_map, List.mem_filter, Prod.exists, Prod.mk.injEq]
  constructor
  · rintro ⟨j, x, ⟨hx, hd⟩, rfl, rfl⟩
    exact ⟨x, hx, hd, rfl⟩
  · rintro ⟨x, hx, hd, rfl⟩
    exact ⟨i, x, ⟨hx, hd⟩, rfl, rfl⟩

/-- The lines of a core other than the one for the address of `l`. -/
def HomeCore.othersThan (h : HomeCore) (l : L1Line) : List L1Line := h.l1.filter (fun m => !(m.asid == l.asid && m.line == l.line))

theorem HomeCore.mem_othersThan (h : HomeCore) (l m : L1Line) : m ∈ h.othersThan l ↔ m ∈ h.l1 ∧ (m.asid, m.line) ≠ (l.asid, l.line) := by
  simp [HomeCore.othersThan, imp_iff_not_or]

theorem HomeCore.l1_putL1 (h : HomeCore) (l : L1Line) : (h.putL1 l).l1 = if l.bytes.isEmpty then h.othersThan l else l :: h.othersThan l := rfl

theorem HomeCore.othersThan_putL1 (h : HomeCore) (l m : L1Line) (ha : m.asid = l.asid) (hl : m.line = l.line) :
    (h.putL1 l).othersThan m = h.othersThan m := by
  rw [HomeCore.othersThan, HomeCore.l1_putL1, HomeCore.othersThan, HomeCore.othersThan, ha, hl]
  split <;> simp

theorem L1Line.isEmpty_of_clean (l : L1Line) (h : l.isDirty = false) : l.dropClean.bytes = [] := by
  simpa [L1Line.isDirty, L1Line.dropClean] using h

theorem L1Line.nonempty_of_dirty (l : L1Line) (h : l.isDirty = true) : l.dropClean.clean.bytes ≠ [] := by
  simpa [L1Line.isDirty, L1Line.dropClean, L1Line.clean] using h

/-- The write-back of a dirty line: its request joins OQ(c), and the line is clean. -/
theorem State.core_writeBack_dirty (s : State) (c : Nat) (l : L1Line) (h : l.isDirty = true) :
    (∃ q : Req, ((s.writeBack c l).core c).oq = (s.core c).oq ++ [q] ∧ q.op = .writeBack l.dirtyBytes ∧ q.home = s.homeOf l.pa ∧ q.addr = l.pa) ∧
      ((s.writeBack c l).core c).l1 = ((s.core c).putL1 l.clean).l1 := by
  unfold State.writeBack State.enqueueOut
  rw [if_pos h]
  dsimp only
  rw [State.updCore_updCore, State.core_updCore]
  exact ⟨⟨_, rfl, rfl, rfl, rfl⟩, rfl⟩

/-- What the eviction of a line leaves of its core. -/
theorem State.core_evictLine {s : State} {c i : Nat} {l : L1Line} (hl : (s.core c).l1[i]? = some l) :
    (l.isDirty = true → ((s.evictLine c i).core c).l1 = l.dropClean.clean :: (s.core c).othersThan l ∧
      ∃ q : Req, ((s.evictLine c i).core c).oq = (s.core c).oq ++ [q] ∧ q.op = .writeBack l.dirtyBytes ∧ q.home = s.homeOf l.pa ∧
        q.addr = l.pa) ∧
    (l.isDirty = false → ((s.evictLine c i).core c).l1 = (s.core c).othersThan l ∧ ((s.evictLine c i).core c).oq = (s.core c).oq) := by
  unfold State.evictLine
  rw [hl]
  dsimp only
  constructor <;> intro hd
  · obtain ⟨⟨q, hq, hop, hhome, haddr⟩, hl1⟩ :=
      (s.updCore c (·.putL1 l.dropClean)).core_writeBack_dirty c l.dropClean (by rw [L1Line.isDirty_dropClean, hd])
    rw [State.core_updCore] at hq hl1
    refine ⟨?_, q, hq, by rw [hop, L1Line.dirtyBytes_dropClean], hhome, haddr⟩
    rw [hl1, HomeCore.l1_putL1, HomeCore.othersThan_putL1 _ l.dropClean l.dropClean.clean rfl rfl, if_neg]
    · rfl
    · simpa using l.nonempty_of_dirty hd
  · rw [State.writeBack, L1Line.isDirty_dropClean, hd, if_neg Bool.false_ne_true, State.core_updCore, HomeCore.l1_putL1,
      l.isEmpty_of_clean hd]
    exact ⟨rfl, rfl⟩

/-! ### DROP (R154) -/

/-- An empty portion is not listed, and reads as empty. -/
theorem Map.get_set_or_erase {α : Type} (m : Map (List α)) (l : List α) (p q : Nat) :
    Map.get [] (if l.isEmpty then Map.erase m p else Map.set m p l) q = if q = p then l else Map.get [] m q := by
  cases l with
  | nil => exact Map.get_erase [] m p q
  | cons x l => exact Map.get_set [] m p q (x :: l)

/-! ### ANSWER (R154, R157) -/

theorem answerScope_of_slice {r : Req} {i : Nat} (h : r.home = .slice i) : answerScope r = decide (r.scope.rank ≤ 2) := by
  unfold answerScope
  rw [h]
  cases r.scope <;> rfl

section
variable {s : State} {c i : Nat} {r : Req} (hdie : dieOf i ≠ dieOf c) (hhead : (s.chan (.core c) (.slice i)).head? = some r)
  (hop : r.op = .read)
include hdie hhead hop

/-- A load of a line that is homed in another die, at the head of its channel. -/
theorem State.answerLoad_eq (hhome : r.home = .slice i) (hsize : r.size = 128) : s.answerLoad c (.slice i) =
    match s.rdcLine (dieOf c * 384 + i % 384) (.slice i) r.addr with
    | some x =>
      if r.scope.rank ≤ 2 then
        ({ s with chans := popReq s.chans (.core c) (.slice i) } : State).respond { req := r, bytes := x.data, base := r.addr, poss := x.poss }
      else s
    | none => s := by
  obtain ⟨rest, hchan⟩ := List.head?_eq_some_iff.1 hhead
  unfold State.answerLoad
  rw [hchan]
  simp only [hop, rdcPortion, hdie, if_false, answerScope_of_slice hhome, hsize, beq_self_eq_true, Bool.and_true, decide_eq_true_eq] <;> rfl

end

end Sys2Proof.Machine

namespace Sys2Proof
open Machine

/-- Settles O14: an evicted line keeps its dirty bytes alone, and a portion answers with the copy that it holds. -/
theorem evictionsAndPortions : Obligations.EvictionsAndPortions := by
  refine ⟨⟨?_, ?_⟩, ?_⟩
  · intro s c i l hc hl _ evicted
    obtain ⟨hdirty, hclean⟩ := State.core_evictLine hl
    have key : ∀ step, exec step s = .next (s.evictLine c i) → evicted step := by
      intro step hstep
      refine ⟨_, hstep, ?_, fun m hm => ?_, fun hd => (hdirty hd).2, fun hd => (hclean hd).2⟩
      · intro m hm ha hline
        have hout : m ∉ (s.core c).othersThan l := fun h => ((HomeCore.mem_othersThan _ l m).1 h).2 (by rw [ha, hline])
        cases hd : l.isDirty with
        | true =>
          rw [(hdirty hd).1] at hm
          rw [(List.mem_cons.1 hm).resolve_right hout]
          exact l.mem_bytes_evicted
        | false => exact absurd ((hclean hd).1 ▸ hm) hout
      · have hin := HomeCore.mem_othersThan (s.core c) l m
        cases hd : l.isDirty with
        | true =>
          rw [(hdirty hd).1, List.mem_cons, hin]
          refine ⟨fun h => (h.resolve_left ?_).1, fun h => .inr ⟨h, hm⟩⟩
          rintro rfl
          exact hm rfl
        | false =>
          rw [(hclean hd).1, hin]
          exact ⟨And.left, fun h => ⟨h, hm⟩⟩
    refine ⟨key _ (if_pos hc), fun hd => key _ ((if_pos hc).trans ?_), fun hd => (if_pos hc).trans ?_⟩
    · simp only [hl, hd, if_true]
    · simp only [hl, hd, Bool.false_eq_true, if_false]
  · intro s p i hp
    refine ⟨_, if_pos hp, fun q hq => ?_, fun x _ _ => ?_⟩
    · exact (Map.get_set_or_erase ..).trans (if_neg hq)
    · exact ((Map.get_set_or_erase ..).trans (if_pos rfl)).trans (dropNth_eq_take_drop ..)
  · intro s c i r hc hdie hhead hagent hhome hop hsize portion
    have hstep : exec (.answer c (.slice i)) s = .next (s.answerLoad c (.slice i)) := if_pos hc
    rw [State.answerLoad_eq hdie hhead hop hhome hsize] at hstep
    refine ⟨fun x hx hrank => ?_, fun hno => ?_⟩
    · simp only [portion, hx, hrank, if_true] at hstep
      refine ⟨_, hstep, by rw [State.taken, hagent, hhome]; rfl, rfl, rfl, _, State.rchan_respond_last .., rfl, rfl, rfl⟩
    · rw [hstep]
      split
      · next x hx =>
        rw [if_neg]
        rcases hno with h | h
        · omega
        · cases h.symm.trans hx
      · rfl

end Sys2Proof
end

section
/-!
SUPPORT. Lines written back one after the other, and the gate of a release (R161, R165, R235).
-/
namespace Sys2Proof.Machine

/-! ### Writing back several lines (R161, R165, R235) -/

theorem State.mem_out_writeBack {s : State} {c : Nat} {o : Out} (h : o ∈ (s.core c).out) (l : L1Line) : o ∈ ((s.writeBack c l).core c).out := by
  unfold State.writeBack
  split
  · unfold State.enqueueOut
    rw [State.updCore_updCore, State.core_updCore]
    exact List.mem_append_left _ h
  · exact h

/-- Lines `ls` of a core have been written back. -/
structure State.WroteBack (s t : State) (c : Nat) (ls : List L1Line) : Prop where
  oq     : ∀ q ∈ (s.core c).oq, q ∈ (t.core c).oq
  sent   : ∀ l ∈ ls, l.isDirty = true → ∃ q ∈ (t.core c).oq, q.op = .writeBack l.dirtyBytes ∧ q.addr = l.pa
  out    : ∀ o ∈ (s.core c).out, o ∈ (t.core c).out
  dirty  : ∀ m ∈ (t.core c).l1, m.isDirty = true → m ∈ (s.core c).l1 ∧ m ∉ ls
  others : ∀ m, (∀ l ∈ ls, (m.asid, m.line) ≠ (l.asid, l.line)) → (m ∈ (t.core c).l1 ↔ m ∈ (s.core c).l1)

theorem State.wroteBack_nil (s : State) (c : Nat) : s.WroteBack s c [] :=
  ⟨fun _ h => h, nofun, fun _ h => h, fun _ h _ => ⟨h, List.not_mem_nil⟩, fun _ _ => .rfl⟩

theorem State.wroteBack_one (s : State) (c : Nat) (l : L1Line) : s.WroteBack (s.writeBack c l) c [l] := by
  cases hd : l.isDirty with
  | false =>
    have hsame : s.writeBack c l = s := by rw [State.writeBack, hd, if_neg Bool.false_ne_true]
    rw [hsame]
    refine ⟨fun _ h => h, fun m hm hdm => ?_, fun _ h => h, fun m hm hdm => ⟨hm, fun hml => ?_⟩, fun _ _ => .rfl⟩
    all_goals
      rw [List.mem_singleton.1 ‹m ∈ [l]›, hd] at hdm
      cases hdm
  | true =>
    obtain ⟨⟨q, hq, hop, -, haddr⟩, hl1⟩ := s.core_writeBack_dirty c l hd
    have hne : l.clean.bytes.isEmpty = false := by
      have : l.bytes ≠ [] := by rintro h; simp [L1Line.isDirty, h] at hd
      simpa [L1Line.clean] using this
    rw [HomeCore.l1_putL1, hne, if_neg Bool.false_ne_true] at hl1
    refine ⟨fun r hr => ?_, fun m hm _ => ⟨q, ?_, ?_⟩, fun o ho => State.mem_out_writeBack ho l, fun m hm hdm => ?_, fun m hm => ?_⟩
    · rw [hq]
      exact List.mem_append_left _ hr
    · rw [hq]
      exact List.mem_append_right _ (List.mem_singleton_self q)
    · rw [List.mem_singleton.1 hm]
      exact ⟨hop, haddr⟩
    · rw [hl1] at hm
      rcases List.mem_cons.1 hm with rfl | hm
      · rw [L1Line.isDirty_clean] at hdm
        cases hdm
      · obtain ⟨hin, hkey⟩ := (HomeCore.mem_othersThan ..).1 hm
        refine ⟨hin, fun hml => hkey ?_⟩
        rw [List.mem_singleton.1 hml]
        rfl
    · have hkey := hm l (List.mem_singleton_self l)
      rw [hl1, List.mem_cons, HomeCore.mem_othersThan]
      refine ⟨fun h => (h.resolve_left ?_).1, fun h => .inr ⟨h, hkey⟩⟩
      rintro rfl
      exact hkey rfl

theorem State.WroteBack.append {s t u : State} {c : Nat} {ls ms : List L1Line} (h : s.WroteBack t c ls) (g : t.WroteBack u c ms) :
    s.WroteBack u c (ls ++ ms) where
  oq q hq := g.oq q (h.oq q hq)
  sent l hl hd := by
    rcases List.mem_append.1 hl with hl | hl
    · obtain ⟨q, hq, hspec⟩ := h.sent l hl hd
      exact ⟨q, g.oq q hq, hspec⟩
    · exact g.sent l hl hd
  out o ho := g.out o (h.out o ho)
  dirty m hm hd := by
    obtain ⟨hmt, hms⟩ := g.dirty m hm hd
    obtain ⟨hmm, hls⟩ := h.dirty m hmt hd
    exact ⟨hmm, by simp [hms, hls]⟩
  others m hm :=
    (g.others m fun l hl => hm l (List.mem_append_right _ hl)).trans (h.others m fun l hl => hm l (List.mem_append_left _ hl))

theorem State.wroteBack_list (c : Nat) (ls : List L1Line) : ∀ s : State, s.WroteBack (ls.foldl (fun s l => s.writeBack c l) s) c ls := by
  induction ls with
  | nil => exact fun s => s.wroteBack_nil c
  | cons l ls ih => exact fun s => (s.wroteBack_one c l).append (ih _)

theorem State.wroteBack_all (s : State) (c : Nat) (p : L1Line → Bool) : s.WroteBack (s.writeBackAll c p) c ((s.core c).l1.filter p) := by
  rw [State.writeBackAll, ← List.foldl_filter]
  exact State.wroteBack_list ..

theorem State.mem_writeBackAll (s : State) (c : Nat) (p : L1Line → Bool) : (s.writeBackAll c p).mem = s.mem := by
  rw [State.writeBackAll_eq, (s.sends_writeBacks c p _).keeps (f := State.mem) fun _ _ => rfl]

/-! ### The gate of a release (R165) -/

theorem State.here_oq_updCur (s : State) (f : Ctx → Ctx) : (s.updCur f).here.oq = s.here.oq := by
  rw [State.here_updCur]
  rfl

theorem State.here_l1_updCur (s : State) (f : Ctx → Ctx) : (s.updCur f).here.l1 = s.here.l1 := by
  rw [State.here_updCur]
  rfl

/-- Once every line is written back, the gate of a release at die scope or wider is closed by a write of the core that is outstanding. -/
theorem State.gate_closed {s : State} {sc : Scope} (hw : s.cur.wait = .none) (hwide : sc.wide = true) {o : Out} (ho : o ∈ s.here.out)
    (hwr : o.write = true) : ∃ w ids, w = s.writeBackAll s.curCore (fun _ => true) ∧ o.req.id ∈ ids ∧
      s.gate sc = .closed (w.updCur (fun t => { t with wait := .gate sc ids, waitFrom := some w.now })) := by
  let w := s.writeBackAll s.curCore (fun _ => true)
  have hk : s.Kept w := s.kept_writeBackAll ..
  have hout : o ∈ w.here.out := by
    rw [State.here, hk.core]
    exact (s.wroteBack_all s.curCore fun _ => true).out o ho
  have hin : o.req.id ∈ w.ownOut ++ w.writesOut :=
    List.mem_append_right _ (List.mem_map.2 ⟨o, List.mem_filter.2 ⟨hout, hwr⟩, rfl⟩)
  have hclosed : w.answered (w.ownOut ++ w.writesOut) = false := by
    rw [State.answered, List.all_eq_false]
    exact ⟨_, hin, by simpa using ⟨o, hout, rfl⟩⟩
  refine ⟨w, _, rfl, hin, ?_⟩
  unfold State.gate
  rw [hw]
  simp only [State.raiseGate, State.release, hwide, if_true]
  rw [if_neg]
  simpa using hclosed

theorem State.answered_false {s : State} {ids : List Nat} (h : ∃ o ∈ s.here.out, o.req.id ∈ ids) : s.answered ids = false := by
  obtain ⟨o, ho, hid⟩ := h
  rw [State.answered, List.all_eq_false]
  exact ⟨_, hid, by simpa using ⟨o, ho, rfl⟩⟩

theorem State.answered_true {s : State} {ids : List Nat} (h : ∀ o ∈ s.here.out, o.req.id ∉ ids) : s.answered ids = true := by
  rw [State.answered, List.all_eq_true]
  intro i hi
  rw [Bool.not_eq_true', List.any_eq_false]
  intro o ho hid
  exact h o ho (by rwa [beq_iff_eq.1 hid])

/-- The state in which the task at issue has gone through its gate. -/
def State.through (s : State) : State := s.updCur (fun t => { t with wait := .none, waitFrom := none })

/-- A raised gate, tested again at its own scope. -/
theorem State.gate_again {s : State} {sc : Scope} {ids : List Nat} (hw : s.cur.wait = .gate sc ids) :
    s.gate sc = if s.answered ids then .passed s.through else .closed s := by
  unfold State.gate
  rw [hw]
  cases h : s.answered ids <;> simp [h, State.through]

section
variable {s w : State} {sc : Scope} {act : State → Res} (hb : (act s).beforeGate = false)
include hb

theorem State.afterGate_closed (h : s.gate sc = .closed w) : s.afterGate (some sc) act = .hold w := by
  unfold State.afterGate
  dsimp only
  rw [hb, if_neg Bool.false_ne_true, h]

theorem State.afterGate_passed (h : s.gate sc = .passed w) : s.afterGate (some sc) act = act w := by
  unfold State.afterGate
  dsimp only
  rw [hb, if_neg Bool.false_ne_true, h]

end

end Sys2Proof.Machine
end

section
/-!
PROOF of O9 (R165 to R167, R178, R234 to R236): `fence`, `cln`, `inv` and `waita`.
-/
namespace Sys2Proof.Machine

/-! ### `fence` -/

/-- What `fence` does behind its gate (R167, R234). -/
def State.fenced (s : State) (acq : Fin 2) (sc : Scope) : State := if acq == 1 then s.acquire s.curCore sc else s

theorem State.kept_fenced (s : State) (acq : Fin 2) (sc : Scope) : s.Kept (s.fenced acq sc) := by
  unfold State.fenced
  split
  · exact s.kept_acquire ..
  · exact .refl s

theorem State.fence_issues (s : State) (st : Fin 8) (rel acq : Fin 2) (scope : Fin 8) : s.Issues (.fence st rel acq scope) st
    (s.afterGate (if rel == 1 then some (Scope.ofBits scope) else none) fun s => .done (s.fenced acq (Scope.ofBits scope)) [] none) :=
  ⟨_, _, exec_fence .., rfl, rfl, Desc.clear_plain .., rfl, rfl⟩

/-- A fence that finds a write of its core outstanding waits at its pc, every dirty line on its way to its home. -/
theorem State.fence_waits {s : State} (hp : s.Plain) (st : Fin 8) (acq : Fin 2) (scope : Fin 8) (hwide : (Scope.ofBits scope).wide = true) {o : Out}
    (ho : o ∈ s.here.out) (hwr : o.write = true) :
    ∃ t ids, exec (.fence st 1 acq scope) s = .next t ∧ t.cur.wait = .gate (Scope.ofBits scope) ids ∧ o.req.id ∈ ids ∧ t.cur.pc = s.cur.pc ∧
      (∀ r, t.X r = s.X r) ∧ (∀ l ∈ t.here.l1, l.isDirty = false) ∧
      (∀ l ∈ s.here.l1, l.isDirty = true → ∃ q ∈ t.here.oq, q.op = .writeBack l.dirtyBytes ∧ q.addr = l.pa) := by
  obtain ⟨w, ids, rfl, hid, hgate⟩ := State.gate_closed hp.wait hwide ho hwr
  have hi := s.fence_issues st 1 acq scope
  rw [beq_self_eq_true, if_pos rfl, State.afterGate_closed rfl hgate] at hi
  have hk : s.Kept (s.writeBackAll s.curCore fun _ => true) := s.kept_writeBackAll ..
  have hall := s.wroteBack_all s.curCore fun _ => true
  rw [List.filter_true] at hall
  refine ⟨_, ids, hi.holds hp, by rw [State.cur_updCur], hid, by rw [State.cur_updCur, hk.cur], fun r => ?_, fun l hl => ?_, fun l hl hd => ?_⟩
  · rw [State.X, State.cur_updCur, hk.cur]
    rfl
  · rw [State.here_l1_updCur, State.here, hk.core] at hl
    by_contra hd
    obtain ⟨hin, hout⟩ := hall.dirty l hl (by simpa using hd)
    exact hout hin
  · rw [State.here_oq_updCur, State.here, hk.core]
    exact hall.sent l hl hd

/-- A fence at its raised gate. -/
theorem State.fence_again {s : State} (hpend : s.cur.pend = []) (hvar : s.cur.var = []) (hpp : s.cur.pp = false) (st : Fin 8) (acq : Fin 2)
    (scope : Fin 8) {ids : List Nat} (hw : s.cur.wait = .gate (Scope.ofBits scope) ids) :
    ∃ d : Desc, d.target = false ∧ exec (.fence st 1 acq scope) s =
      if s.answered ids then .next ((s.through.fenced acq (Scope.ofBits scope)).retire d [] none) else .next s := by
  refine ⟨{ st := st }, rfl, (exec_fence ..).trans ?_⟩
  unfold execFence State.issueWith
  rw [State.run_clear hpend hvar hpp (Desc.clear_plain ..) rfl rfl]
  cases ha : s.answered ids with
  | true =>
    rw [if_pos rfl]
    dsimp only
    rw [beq_self_eq_true, if_pos rfl, State.afterGate_passed rfl ((State.gate_again hw).trans (by rw [ha, if_pos rfl]))]
    rfl
  | false =>
    rw [if_neg Bool.false_ne_true]
    dsimp only
    rw [beq_self_eq_true, if_pos rfl, State.afterGate_closed rfl ((State.gate_again hw).trans (by rw [ha, if_neg Bool.false_ne_true]))]
    rfl

/-! ### What an acquire leaves (R166) -/

theorem State.core_acquire {sc : Scope} (h : sc.wide = true) (s : State) (c : Nat) : (s.acquire c sc).core c = (s.core c).dropCleanL1 := by
  cases sc with
  | task => cases h
  | core => cases h
  | die => exact State.core_updCore ..
  | package => exact State.core_updCore ..
  | fabric => exact State.core_updCore ..

theorem HomeCore.dropCleanL1_dirty (x : HomeCore) : ∀ l ∈ x.dropCleanL1.l1, ∀ e ∈ l.bytes, e.2.dirty = true := by
  intro l hl e he
  obtain ⟨hl, -⟩ := List.mem_filter.1 hl
  obtain ⟨m, -, rfl⟩ := List.mem_map.1 hl
  exact (List.mem_filter.1 he).2

theorem State.rdc_acquire {sc : Scope} (h : 3 ≤ sc.rank) (s : State) {c p : Nat} (hp : dieOf p = dieOf c) :
    (s.acquire c sc).rdc.find? p = none := by
  have hrdc : (s.acquire c sc).rdc = s.rdc.filter (fun e => dieOf e.1 != dieOf c) := by
    cases sc with
    | task => simp [Scope.rank] at h
    | core => simp [Scope.rank] at h
    | die => simp [Scope.rank] at h
    | package => rfl
    | fabric => rfl
  rw [hrdc, Option.eq_none_iff_forall_not_mem]
  intro v hv
  have := (List.mem_filter.1 (Map.mem_of_find? hv)).2
  simp [hp] at this

/-! ### Regions (R235) -/

/-- A line overlaps a region when a byte of it lies there. -/
theorem L1Line.inRegion_iff (l : L1Line) (asid : Nat) (base : W64) (len : Nat) : l.inRegion asid base.toNat len = true ↔
    l.asid = asid ∧ ∃ a, l.line * 128 ≤ a ∧ a < l.line * 128 + 128 ∧ base.toNat ≤ a ∧ a < base.toNat + len ∧ a < 2 ^ 64 := by
  have hb := base.isLt
  simp only [L1Line.inRegion, overlap, Bool.and_eq_true, beq_iff_eq, bne_iff_ne, decide_eq_true_eq, and_assoc]
  refine and_congr_right fun _ => ⟨?_, ?_⟩
  · rintro ⟨h0, h1, h2⟩
    exact ⟨max (l.line * 128) base.toNat, by omega⟩
  · rintro ⟨a, ha⟩
    omega

theorem L1Line.inRegion_key {l m : L1Line} (h : (m.asid, m.line) = (l.asid, l.line)) (asid base len : Nat) :
    m.inRegion asid base len = l.inRegion asid base len := by
  obtain ⟨ha, hl⟩ := Prod.mk.inj h
  rw [L1Line.inRegion, L1Line.inRegion, ha, hl]

theorem HomeCore.mem_invRegion {h : HomeCore} {asid base len : Nat} {l : L1Line} : l ∈ (h.invRegion asid base len).l1 ↔
    ∃ m ∈ h.l1, (if m.inRegion asid base len then m.dropClean else m) = l ∧ l.bytes ≠ [] := by
  simp only [HomeCore.invRegion, List.mem_filter, List.mem_map, Bool.not_eq_true', List.isEmpty_eq_false_iff]
  constructor
  · rintro ⟨⟨m, hm, e⟩, hne⟩
    exact ⟨m, hm, e, hne⟩
  · rintro ⟨m, hm, e, hne⟩
    exact ⟨⟨m, hm, e⟩, hne⟩

theorem State.cln_issues (s : State) (st : Fin 8) (rs1 rs2 : Fin 32) : s.Issues (.cln st rs1 rs2) st
    (.done (s.writeBackAll s.curCore (fun l => l.inRegion s.cur.asid (s.X rs1).toNat (s.X rs2).toNat)) [] none) :=
  ⟨_, _, exec_cln .., rfl, rfl, Desc.clear_plain .., rfl, rfl⟩

theorem State.inv_issues (s : State) (st : Fin 8) (rs1 rs2 : Fin 32) : s.Issues (.inv st rs1 rs2) st
    (.done (s.updHere (·.invRegion s.cur.asid (s.X rs1).toNat (s.X rs2).toNat)) [] none) :=
  ⟨_, _, exec_inv .., rfl, rfl, Desc.clear_plain .., rfl, rfl⟩

/-! ### `waita` (R236) -/

theorem State.translate_of_xlate {s u : State} {va : Nat} {w : Bool} {tr : Tr} (e : s.xlate va w = (.ok tr, u)) :
    s.translate s.die s.cur.asid va w (some s.curCore) = (.ok tr, u) := by
  unfold State.xlate at e
  revert e
  generalize s.translate s.die s.cur.asid va w (some s.curCore) = p
  obtain ⟨r, t⟩ := p
  cases r <;> simp

section
variable {s : State} (h : s.Alive) (st : Fin 8) (rd rs1 rs2 : Fin 32) (scope : Fin 8)
include h

theorem State.waita_own {off : Nat} (ho : placeOf (s.X rs1).toNat = .own off) :
    s.Issues (.waita st rd rs1 rs2 scope) st (.trap 0x11 0 (s.X rs1)) := by
  refine ⟨_, _, exec_waita .., ?_, rfl, h.clear .., rfl, rfl⟩
  dsimp only
  rw [State.X] at ho
  rw [ho]
  rfl

theorem State.waita_other {core off : Nat} (ho : s.OtherAccess (s.X rs1).toNat 8 core off) (hp : s.otherPoison core off 8 = false) :
    s.Issues (.waita st rd rs1 rs2 scope) st (.done
      ((s.enqueue s.curCore { s.taskReq (.spad core) (.waita (s.X rs2)) off 8 (Scope.ofBits scope) (.answer (.x s.cur.bank rd)) with
        va := (s.X rs1).toNat, acq := some (Scope.ofBits scope) } false true).parkFor s.nextId) [.later (.x rd)] none) := by
  refine ⟨_, _, exec_waita .., ?_, rfl, h.clear .., rfl, rfl⟩
  have hw := ho.window
  have hr := State.reach_other (w := false) ho
  have hf := ho.free
  rw [State.X] at hw hr hf
  dsimp only
  simp only [hw, hr, hf, hp, Bool.false_eq_true, if_false] <;> rfl

/-- The request of a `waita` for a translated address, and its task parked. -/
def State.waitaSent (u : State) (va : Nat) (tr : Tr) (expect : W64) (sc : Scope) (dest : Dest) : State :=
  let w := u.writeBackAt u.curCore u.cur.asid va
  (w.enqueue w.curCore
    { w.taskReq (w.homeOf tr.pa) (.waita expect) tr.pa 8 sc dest with va := va, exp := some tr.exp, acq := some sc, rdc := tr.rdc }
    false true).parkFor w.nextId

theorem State.waita_global {u : State} {tr : Tr} (hg : s.GlobalAccess (s.X rs1).toNat 8) (e : s.xlate (s.X rs1).toNat false = (.ok tr, u))
    (hm : u.migrateTo (s.X rs1).toNat tr = none) (hp : u.loadPoison (s.X rs1).toNat 8 tr.pa = false) :
    s.Issues (.waita st rd rs1 rs2 scope) st
      (.done (u.waitaSent (s.X rs1).toNat tr (s.X rs2) (Scope.ofBits scope) (.answer (.x s.cur.bank rd))) [.later (.x rd)] none) := by
  refine ⟨_, _, exec_waita .., ?_, rfl, h.clear .., rfl, rfl⟩
  have hw := hg.window
  have hr := State.reach_global (w := false) hg
  have hf := hg.free
  have hmove := State.movesTo_of_translate h.wait (State.translate_of_xlate e)
  rw [hm] at hmove
  rw [State.X] at hw hr hf hmove e hp
  dsimp only
  simp only [hw, hr, hf, hmove, e, hp, Bool.false_eq_true, if_false] <;> rfl

end

theorem State.here_oq_parkFor (s : State) (id : Nat) : (s.parkFor id).here.oq = s.here.oq := s.here_oq_updCur _

/-- A task that has parked for an answer goes on from its place. -/
theorem State.Plain.goesOn_parked {s u : State} (hp : s.Plain) (h : s.Kept u) (id : Nat) : s.GoesOn (u.parkFor id) where
  cycle := h.cycle
  pc := by rw [State.parkFor, State.cur_updCur, h.cur]
  pend := by rw [State.parkFor, State.cur_updCur, h.cur]; exact hp.pend
  held := by rw [State.parkFor, State.cur_updCur]; rfl

end Sys2Proof.Machine

namespace Sys2Proof
open Machine

/-- Settles O9: what a fence, a region's write-back or invalidation, and a `waita` leave. -/
theorem fencesAndWaits : Obligations.FencesAndWaits := by
  refine ⟨?_, ?_, ?_⟩
  · intro s st rel acq scope i sc after
    have hi := s.fence_issues st rel acq scope
    have hafter : ∀ u : State, u.fenced acq sc = after u := fun u => by
      simp [State.fenced, after]
    refine ⟨fun hp hopen => ?_, fun hp hrel hwide o ho hwr => ?_, fun ids hpend hvar hpp hw hrel => ?_,
      fun hp hrel hacq hwide t ht => ?_⟩
    · rw [State.afterGate_open hp.wait] at hi
      · rw [← hafter]
        exact hi.completes hp (hp.goesOn (s.kept_fenced acq sc))
      · intro x hx
        split at hx
        · next h => cases hx; exact hopen (beq_iff_eq.1 h)
        · cases hx
    · obtain rfl := hrel
      exact State.fence_waits hp st acq scope hwide ho hwr
    · obtain rfl := hrel
      obtain ⟨d, hd, hexec⟩ := State.fence_again hpend hvar hpp st acq scope hw
      refine ⟨fun hout => ?_, fun hout => ?_⟩
      · rw [hexec, State.answered_false hout, if_neg Bool.false_ne_true]
      · rw [State.answered_true hout, if_pos rfl] at hexec
        have hcur : (s.through.fenced acq sc).cur = { s.cur with wait := .none, waitFrom := none } := by
          rw [(s.through.kept_fenced acq sc).cur, State.through, State.cur_updCur]
        have hl := (s.through.fenced acq sc).leaves_retire hd (by rw [hcur, hpend]) (by rw [hcur]; rfl)
        refine ⟨_, hexec, by rw [hl.pc, hcur], by rw [hl.cur, hcur], fun r => ?_⟩
        rw [hl.X, State.X, hcur]
        rfl
    · obtain rfl := hrel
      obtain ⟨u, hu, -, hl⟩ := State.Issues.leaves hp hi (hp.goesOn (s.kept_fenced acq sc))
      cases ht.symm.trans hu
      have hf : s.fenced acq sc = s.acquire s.curCore sc := (hafter s).trans (if_pos hacq)
      refine ⟨?_, fun hrank p hdie => ?_⟩
      · rw [hl.l1, State.here, hf, (s.kept_acquire _ _).core, State.core_acquire hwide]
        exact HomeCore.dropCleanL1_dirty _
      · rw [hl.rdc, hf]
        exact s.rdc_acquire hrank hdie
  · intro s hp st rs1 rs2 base len inside
    have hin : ∀ l : L1Line, l.inRegion s.cur.asid base len = true ↔ inside l := fun l => l.inRegion_iff ..
    refine ⟨?_, ?_⟩
    · have hk := s.kept_writeBackAll s.curCore (fun l => l.inRegion s.cur.asid base len)
      have hall := s.wroteBack_all s.curCore (fun l => l.inRegion s.cur.asid base len)
      obtain ⟨t, ht, hperf, hl⟩ := (s.cln_issues st rs1 rs2).leaves hp (hp.goesOn hk)
      refine ⟨t, ht, hperf, fun l hm hi => ?_, fun l hout => ?_, fun l hm hi hd => ?_, fun a => ?_, fun r => ?_⟩
      · rw [hl.l1, State.here, hk.core] at hm
        by_contra hd
        obtain ⟨hold, hnot⟩ := hall.dirty l hm (by simpa using hd)
        exact hnot (List.mem_filter.2 ⟨hold, (hin l).2 hi⟩)
      · rw [hl.l1, State.here, hk.core]
        refine hall.others l fun m hm hkey => hout ((hin l).1 ?_)
        rw [L1Line.inRegion_key hkey]
        exact (List.mem_filter.1 hm).2
      · rw [hl.oq, State.here, hk.core]
        exact hall.sent l (List.mem_filter.2 ⟨hm, (hin l).2 hi⟩) hd
      · rw [hl.mem, State.mem_writeBackAll]
      · rw [hl.X, State.X, hk.cur]
        rfl
    · have hk := s.kept_updHere (·.invRegion s.cur.asid base len) rfl
      obtain ⟨t, ht, hperf, hl⟩ := (s.inv_issues st rs1 rs2).leaves hp (hp.goesOn hk)
      have hhere : (s.updHere (·.invRegion s.cur.asid base len)).here = s.here.invRegion s.cur.asid base len := State.core_updCore ..
      refine ⟨t, ht, hperf, fun l hm hi e he => ?_, fun l hm e he hd => ?_, by rw [hl.oq, hhere]; rfl, fun a => by rw [hl.mem]; rfl, fun r => ?_⟩
      · rw [hl.l1, hhere] at hm
        obtain ⟨m, -, rfl, -⟩ := HomeCore.mem_invRegion.1 hm
        split at hi
        · next h =>
          rw [if_pos h] at he
          exact (List.mem_filter.1 he).2
        · next h => exact absurd ((hin m).2 hi) h
      · rw [hl.l1, hhere]
        have hkeep : e ∈ (if l.inRegion s.cur.asid base len then l.dropClean else l).bytes := by
          split
          · exact List.mem_filter.2 ⟨he, hd⟩
          · exact he
        refine ⟨_, HomeCore.mem_invRegion.2 ⟨l, hm, rfl, List.ne_nil_of_mem hkeep⟩, ?_, hkeep⟩
        split <;> rfl
      · rw [hl.X, State.X, hk.cur]
        rfl
  · intro s h st rd rs1 rs2 scope i va sc dest
    have hp := h.toPlain
    refine ⟨fun off ho => (State.waita_own h st rd rs1 rs2 scope ho).traps hp, fun core off ho hpoison => ?_, fun hg u tr e hm hpoison => ?_⟩
    · have hk := s.kept_enqueue s.curCore
        { s.taskReq (.spad core) (.waita (s.X rs2)) off 8 sc dest with va := va.toNat, acq := some sc } false true
      refine (State.waita_other h st rd rs1 rs2 scope ho hpoison).owes hp (hp.goesOn_parked hk _) ?_
      rw [State.parkFor, State.cur_updCur, hk.cur]
      exact hp.var
    · have hku := State.kept_xlate e hp.wait
      let w := u.writeBackAt u.curCore u.cur.asid va.toNat
      let r : Req := { w.taskReq (w.homeOf tr.pa) (.waita (s.X rs2)) tr.pa 8 sc dest with
        va := va.toNat, exp := some tr.exp, acq := some sc, rdc := tr.rdc }
      have hkw : s.Kept w := hku.trans (u.kept_writeBackAt ..)
      have hk : s.Kept (w.enqueue w.curCore r false true) := hkw.trans (w.kept_enqueue ..)
      obtain ⟨t, ht, -, hl⟩ := (State.waita_global h st rd rs1 rs2 scope hg e hm hpoison).owes_leaves hp (hp.goesOn_parked hk w.nextId) (by
        show ((w.enqueue w.curCore r false true).parkFor w.nextId).cur.var = []
        rw [State.parkFor, State.cur_updCur, hk.cur]
        exact hp.var)
      have hcur := hl.cur
      rw [State.cur_owing] at hcur
      dsimp only [State.waitaSent] at hcur
      rw [State.parkFor, State.cur_updCur, hk.cur] at hcur
      have hlast : t.here.oq.getLast? = some (w.stamped w.curCore r) := by
        rw [hl.oq, State.owing, State.here_oq_updCur, State.waitaSent, State.here_oq_parkFor]
        exact State.here_oq_last _ _ _ _ rfl
      have hhome : w.homeOf tr.pa = u.homeOf tr.pa := (u.sends_writeBackAt ..).homeOf _
      refine ⟨t, ht, by rw [hcur], by rw [hcur], fun x => by rw [State.X, hcur]; rfl,
        ⟨_, hlast, rfl, hhome, rfl, rfl, rfl, ?_, ?_, ?_, ?_⟩, fun q hq => ?_⟩
      · rw [hl.curCore]
        rfl
      · rw [hl.curCtx]
        rfl
      · rw [hcur]
        exact (congrArg Ctx.uid hkw.cur : w.cur.uid = s.cur.uid)
      · rw [hcur]
        exact (congrArg Ctx.asid hkw.cur : w.cur.asid = s.cur.asid)
      · cases hlast.symm.trans hq
        exact ⟨by rw [hcur]; rfl, rfl⟩

end Sys2Proof
end

section
/-!
PROOF of O6 (R156 to R161, R165, R355): loads and stores of translated addresses.
-/
namespace Sys2Proof.Machine

/-! ### A load that the L1 serves (R156, R158) -/

theorem State.acquire_narrow {sc : Scope} (h : sc.wide = false) (s : State) (c : Nat) : s.acquire c sc = s := by
  cases sc with
  | task => rfl
  | core => rfl
  | die => cases h
  | package => cases h
  | fabric => cases h

/-- What a task sees changes nothing else of it. -/
theorem Ctx.sawAll_eq (l : List (Nat × Nat)) (t : Ctx) : ∃ m, t.sawAll l = { t with seen := m } := by
  refine List.foldlRecOn (motive := fun u : Ctx => ∃ m, u = { t with seen := m }) l _ ⟨t.seen, rfl⟩ ?_
  rintro _ ⟨m, rfl⟩ e -
  obtain ⟨m', h⟩ := Ctx.saw_eq { t with seen := m } e.1 e.2
  exact ⟨m', h⟩

theorem State.kept_returned (s : State) (c uid asid va n : Nat) : s.Kept (s.returned c uid asid va n) := by
  unfold State.returned
  split
  · exact .refl s
  · exact s.kept_updCore _ _ rfl

theorem State.cur_hit (s : State) (va n : Nat) : ∃ m, (s.hit va n).cur = { s.cur with seen := m } := by
  obtain ⟨m, hm⟩ := Ctx.sawAll_eq (s.hitSeen s.curCore s.cur.asid va n) s.cur
  refine ⟨m, ?_⟩
  unfold State.hit
  dsimp only
  rw [State.cur_updCur, (s.kept_returned ..).cur, hm]

/-- A task goes on from a hit. -/
theorem State.Plain.goesOn_hit {s : State} (hp : s.Plain) (va n : Nat) : s.GoesOn (s.hit va n) := by
  obtain ⟨m, hm⟩ := s.cur_hit va n
  constructor
  · exact (s.kept_returned s.curCore s.cur.uid s.cur.asid va n).cycle
  all_goals rw [hm]
  · exact hp.pend
  · exact hp.toCalm.waits.1

theorem leNat_lt (b : List Byte) : leNat b < 2 ^ (8 * b.length) := by
  induction b with
  | nil => simp [leNat]
  | cons x b ih =>
    have hx := x.isLt
    have hpow : 2 ^ (8 * (b.length + 1)) = 256 * 2 ^ (8 * b.length) := by rw [Nat.mul_succ, Nat.pow_add]; omega
    rw [leNat, List.length_cons, hpow]
    omega

theorem State.length_l1Hit {s : State} {c asid va n : Nat} {b : List PByte} (h : s.l1Hit c asid va n = some b) : b.length = n := by
  unfold State.l1Hit at h
  split at h
  · split at h
    · cases h
      simp [L1Line.read, natsFrom]
    · cases h
  · cases h

/-! ### Loads -/

section
variable {s : State} {n : Nat} {va : W64} (h : s.GlobalAccess va.toNat n) (rd : Nat) (signed : Bool) (sc : Scope) (acq : Bool)
include h

theorem State.load_hit (hsc : sc.wide = false) {b : List PByte} (hb : s.l1Hit s.curCore s.cur.asid va.toNat n = some b)
    (hl : s.loading va.toNat n = false) (hp : PByte.anyBad b = false) :
    s.load rd n signed sc acq va = .done (s.hit va.toNat n)
      (nowX rd (if signed then BitVec.ofInt 64 (sgnOf (8 * n) (leNat (PByte.vals b))) else w64 (leNat (PByte.vals b)))) none := by
  have hlt : leNat (PByte.vals b) < 2 ^ (8 * n) := by
    have hlen := leNat_lt (PByte.vals b)
    rwa [PByte.vals, List.length_map, State.length_l1Hit hb] at hlen
  unfold State.load
  simp only [State.reach_global h, h.free, hsc, hb, hl, hp, State.acquire_narrow hsc, ite_self, Bool.false_eq_true, if_false]
  rw [extend_eq _ _ _ hlt]

theorem State.load_miss (hw : s.cur.wait = .none) (hmiss : sc.wide = true ∨ s.l1Hit s.curCore s.cur.asid va.toNat n = none) {u : State} {tr : Tr}
    (e : s.xlate va.toNat false = (.ok tr, u)) (hm : u.migrateTo va.toNat tr = none) (hp : u.loadPoison va.toNat n tr.pa = false) :
    let w := u.sendLoad va.toNat n tr sc (if acq then some sc else none)
      (if cacheable tr.pa then .load (.x s.cur.bank rd) n signed else .direct (.x s.cur.bank rd) n signed)
    s.load rd n signed sc acq va = .done (if acq then w.holdFor (w.nextId - 1) else w) [.later (.x rd)] none := by
  have hno : (if sc.wide then none else s.l1Hit s.curCore s.cur.asid va.toNat n) = none := by
    rcases hmiss with hm | hm <;> simp [hm]
  have hmove := (State.movesTo_of_translate hw (State.translate_of_xlate e)).trans hm
  unfold State.load
  simp only [State.reach_global h, h.free, hno, Bool.false_eq_true, if_false]
  unfold State.loadMiss
  simp only [hmove, e, hp, Bool.false_eq_true, if_false]
  cases acq <;> rfl

end

/-- The load that a task sends is the last request of its core. -/
theorem State.sendLoad_last (u : State) (va n : Nat) (tr : Tr) (sc : Scope) (acq : Option Scope) (dest : Dest) :
    ∃ q, (u.sendLoad va n tr sc acq dest).here.oq.getLast? = some q ∧ q.op = .read ∧ q.home = u.homeOf tr.pa ∧ q.scope = sc ∧ q.acq = acq ∧
      q.va = va ∧ q.dest = dest ∧ q.exp = some tr.exp ∧
      (if cacheable tr.pa then q.addr = tr.pa / 128 * 128 ∧ q.size = 128 else q.addr = tr.pa ∧ q.size = n) := by
  have hs : u.Sends (if sc.wide then u.writeBackAt u.curCore u.cur.asid va else u) := by
    split
    · exact u.sends_writeBackAt ..
    · exact .refl u
  unfold State.sendLoad
  dsimp only
  refine ⟨_, State.here_oq_last _ _ _ _ (hs.keeps (f := State.curCore) fun _ _ => rfl), rfl, hs.homeOf _, rfl, rfl, rfl, rfl, rfl, ?_⟩
  split <;> exact ⟨rfl, rfl⟩

/-- A task whose acquire waits for an answer goes on from its place. -/
theorem State.Plain.goesOn_holding {s u : State} (hp : s.Plain) (h : s.Kept u) (id : Nat) : s.GoesOn (u.holdFor id) where
  cycle := h.cycle
  pc := by rw [State.holdFor, State.cur_updCur, h.cur]
  pend := by rw [State.holdFor, State.cur_updCur, h.cur]; exact hp.pend
  held := by rw [State.holdFor, State.cur_updCur]; rfl

/-! ### Stores -/

/-- A store writes at least one byte. -/
theorem State.storeForm_pos {s : State} {i : Instr} {f : StoreForm} (h : s.storeForm i = some f) : 0 < f.n := by
  unfold State.storeForm at h
  split at h <;> cases h <;> simp

section
variable {s : State} {n : Nat} {va : W64} (h : s.GlobalAccess va.toNat n) (sc : Scope) (v : W64)
include h

theorem State.store_line (hsc : sc.wide = false) {l : L1Line} (hl : s.here.l1At s.cur.asid va.toNat = some l)
    (hcur : s.current s.curCore l = true) (hw : l.w = true) :
    s.store n sc va v =
      .done (s.updHere (·.putL1 { (l.write (va.toNat % 128) s.cur.who (leBytes v.toNat n)) with tag := sc })) [] none := by
  unfold State.store
  simp only [State.reach_global h, h.free, hsc, hl, Option.filter, hcur, hw, Bool.and_self, if_true, Bool.false_eq_true, if_false]

variable {u : State} {tr : Tr} (hw : s.cur.wait = .none)
  (hmiss : sc.wide = true ∨ ∀ l, s.here.l1At s.cur.asid va.toNat = some l → s.current s.curCore l = false ∨ l.w = false)
  (e : s.xlate va.toNat true = (.ok tr, u)) (hm : u.migrateTo va.toNat tr = none)
include hw hmiss e hm

theorem State.store_miss : s.store n sc va v =
    if sc.wide || !cacheable tr.pa then .done (u.storeThrough va.toNat tr sc (leBytes v.toNat n)) [] none
    else .done (u.storeL1 va.toNat tr sc (leBytes v.toNat n)) [] none := by
  have hno : (if sc.wide then none else (s.here.l1At s.cur.asid va.toNat).filter (fun l => s.current s.curCore l && l.w)) = none := by
    rcases hmiss with hm | hm
    · rw [if_pos hm]
    · rw [ite_eq_left_iff]
      intro _
      rw [Option.filter_eq_none_iff]
      intro l hl
      rcases hm l hl with h | h <;> simp [h]
  have hmove := (State.movesTo_of_translate hw (State.translate_of_xlate e)).trans hm
  unfold State.store
  simp only [State.reach_global h, h.free, hno, Bool.false_eq_true, if_false]
  unfold State.storeMiss
  simp only [hmove, e]

end

/-! ### What a store leaves in a line (R159) -/

theorem L1Line.write_frame (bs : List Byte) (who : Nat × Option Nat) : ∀ (l : L1Line) (off : Nat),
    l.write off who bs = { l with bytes := (l.write off who bs).bytes } := by
  induction bs with
  | nil => exact fun _ _ => rfl
  | cons b bs ih =>
    intro l off
    unfold L1Line.write
    dsimp only
    rw [ih]

/-- Bytes below a store are as they were. -/
theorem L1Line.find?_write_below (bs : List Byte) (who : Nat × Option Nat) : ∀ (l : L1Line) (off i : Nat), i < off →
    (l.write off who bs).bytes.find? i = l.bytes.find? i := by
  induction bs with
  | nil => exact fun _ _ _ _ => rfl
  | cons b bs ih =>
    intro l off i hi
    unfold L1Line.write
    dsimp only
    rw [ih _ _ _ (by omega), Map.find?_set_ne _ _ _ _ (by omega)]

/-- The bytes of a store stand in its line, dirty and clean of poison. -/
theorem L1Line.find?_write (bs : List Byte) (who : Nat × Option Nat) : ∀ (l : L1Line) (off j : Nat) (h : j < bs.length),
    ∃ b, (l.write off who bs).bytes.find? (off + j) = some b ∧ b.val = bs[j] ∧ b.dirty = true ∧ b.bad = false := by
  induction bs with
  | nil => exact fun _ _ _ h => absurd h (by simp)
  | cons b bs ih =>
    intro l off j h
    unfold L1Line.write
    dsimp only
    cases j with
    | zero =>
      rw [L1Line.find?_write_below _ _ _ _ _ (by omega), Nat.add_zero, Map.find?_set_same]
      exact ⟨_, rfl, rfl, rfl, rfl⟩
    | succ j =>
      obtain ⟨x, hx, hspec⟩ := ih { l with bytes := l.bytes.set off { val := b, dirty := true, bad := false, owners := _ } } (off + 1) j
        (by simpa using h)
      exact ⟨x, by rw [← hx]; congr 1; omega, hspec⟩

theorem State.lineFor_isFor (s : State) (c asid va : Nat) (tr : Tr) (sc : Scope) : (s.lineFor c asid va tr sc).1.isFor asid va = true := by
  unfold State.lineFor
  dsimp only
  split
  · next l hl =>
    rw [HomeCore.l1At] at hl
    exact List.find?_some (p := fun l : L1Line => l.isFor asid va) hl
  · simp [freshLine, L1Line.isFor]

/-- A store written into its line of L1(c). -/
theorem State.storeL1_line (u : State) (va : Nat) (tr : Tr) (sc : Scope) {bs : List Byte} (hbs : bs ≠ []) :
    ∃ l, (u.storeL1 va tr sc bs).here.l1At u.cur.asid va = some l ∧ l.tag = sc ∧
      ∀ j (h : j < bs.length), ∃ b, l.bytes.find? (va % 128 + j) = some b ∧ b.val = bs[j] ∧ b.dirty = true ∧ b.bad = false := by
  unfold State.storeL1
  have hfor := u.lineFor_isFor u.curCore u.cur.asid va tr sc
  have hk := u.kept_lineFor u.curCore u.cur.asid va tr sc
  generalize u.lineFor u.curCore u.cur.asid va tr sc = p at hfor hk
  obtain ⟨l, w⟩ := p
  dsimp only at hfor hk ⊢
  have hwritten := L1Line.find?_write bs w.cur.who l (va % 128)
  refine ⟨{ (l.write (va % 128) w.cur.who bs) with tag := sc }, ?_, rfl, hwritten⟩
  rw [State.here, State.updCore_curCore, State.core_updCore]
  have hkey : l.asid = u.cur.asid ∧ l.line = va / 128 := by simpa [L1Line.isFor] using hfor
  refine HomeCore.l1At_putL1 _ ?_ ?_ ?_
  · rw [L1Line.write_frame]
    exact hkey.1
  · rw [L1Line.write_frame]
    exact hkey.2
  · intro h0
    obtain ⟨b, hb, -⟩ := hwritten 0 (List.length_pos_iff.2 hbs)
    dsimp only at h0
    rw [h0] at hb
    cases hb

/-! ### What a store sends (R160, R161) -/

/-- The copy of a line that a store has gone past: its valid bytes are updated and clean. -/
def State.copyUpdated (s : State) (va : Nat) (sc : Scope) (bs : List Byte) : State :=
  match (s.core s.curCore).l1At s.cur.asid va with
  | some l => s.updCore s.curCore (·.putL1 { (l.update (va % 128) bs) with tag := sc })
  | none => s

theorem State.sends_copyUpdated (s : State) (va : Nat) (sc : Scope) (bs : List Byte) : s.Sends (s.copyUpdated va sc bs) := by
  unfold State.copyUpdated
  split
  · exact s.sends_updCore _ _ rfl
  · exact .refl s

theorem State.oq_copyUpdated (s : State) (va : Nat) (sc : Scope) (bs : List Byte) (c : Nat) :
    ((s.copyUpdated va sc bs).core c).oq = (s.core c).oq := by
  unfold State.copyUpdated
  split
  · rw [State.core_updCore_eq]
    split
    · next h => rw [h]; rfl
    · rfl
  · rfl

/-- The write that a store sends joins OQ(c) behind the write-back of its line. -/
theorem State.storeThrough_oq (u : State) (va : Nat) (tr : Tr) (sc : Scope) (bs : List Byte) :
    ∃ q, (u.storeThrough va tr sc bs).here.oq = (u.writeBackAt u.curCore u.cur.asid va).here.oq ++ [q] ∧ q.op = .write (PByte.clean bs) ∧
      q.home = u.homeOf tr.pa ∧ q.addr = tr.pa ∧ q.size = bs.length ∧ q.scope = sc ∧ q.va = va ∧ q.dest = .ack := by
  have hs : u.Sends (u.writeBackAt u.curCore u.cur.asid va) := u.sends_writeBackAt ..
  have hk : u.Kept (u.writeBackAt u.curCore u.cur.asid va) := u.kept_writeBackAt ..
  have hc := (u.writeBackAt u.curCore u.cur.asid va).sends_copyUpdated va sc bs
  have hcore : ((u.writeBackAt u.curCore u.cur.asid va).copyUpdated va sc bs).curCore = u.curCore :=
    (hc.keeps (f := State.curCore) fun _ _ => rfl).trans hk.core
  have heq : u.storeThrough va tr sc bs =
      let w := (u.writeBackAt u.curCore u.cur.asid va).copyUpdated va sc bs
      w.enqueue w.curCore { w.taskReq (w.homeOf tr.pa) (.write (PByte.clean bs)) tr.pa bs.length sc .ack with
        va := va, exp := some tr.exp, rdc := tr.rdc } true true := by
    unfold State.storeThrough State.copyUpdated at *
    dsimp only
    rw [hk.core] at *
    rw [hcore] <;> rfl
  have hoq : ((u.writeBackAt u.curCore u.cur.asid va).copyUpdated va sc bs).here.oq = (u.writeBackAt u.curCore u.cur.asid va).here.oq := by
    rw [State.here, hcore, State.oq_copyUpdated, State.here, hk.core]
  rw [heq]
  dsimp only
  rw [State.here_oq_enqueue, hoq]
  exact ⟨_, rfl, rfl, (hs.trans hc).homeOf _, rfl, rfl, rfl, rfl, rfl⟩

/-- The write-back of a dirty line stands in OQ(c). -/
theorem State.writeBackAt_sent {s : State} {asid va : Nat} {l : L1Line} (hl : s.here.l1At asid va = some l) (hd : l.isDirty = true) :
    ∃ q ∈ (s.writeBackAt s.curCore asid va).here.oq, q.op = .writeBack l.dirtyBytes ∧ q.addr = l.pa := by
  have hk := s.kept_writeBackAt s.curCore asid va
  have heq : s.writeBackAt s.curCore asid va = s.writeBack s.curCore l := by
    unfold State.writeBackAt
    rw [State.here] at hl
    rw [hl]
  obtain ⟨⟨q, hq, hop, -, haddr⟩, -⟩ := s.core_writeBack_dirty s.curCore l hd
  refine ⟨q, ?_, hop, haddr⟩
  rw [State.here, hk.core, heq, hq]
  exact List.mem_append_right _ (List.mem_singleton_self q)

end Sys2Proof.Machine

namespace Sys2Proof
open Machine

/-- Settles O6: a load or a store that the L1 serves, and one that goes to its home. -/
theorem loadsAndStores : Obligations.LoadsAndStores := by
  refine ⟨?_, ?_, ?_, ?_, ?_⟩
  · intro s hp i f hf hsc hg b hb hl hbad
    have hi := State.loadForm_issues hf
    rw [State.load_hit hg _ _ _ _ hsc hb hl hbad] at hi
    obtain ⟨m, hm⟩ := s.cur_hit f.va.toNat f.n
    exact hi.gives_running hp (hp.goesOn_hit _ _) (by rw [hm]; exact hp.running)
  · intro s u hp i f hf hg hmiss tr e hm hpoison acq dest w
    have hi := State.loadForm_issues hf
    rw [State.load_miss hg _ _ _ _ hp.wait hmiss e hm hpoison] at hi
    have hk : s.Kept w := (State.kept_xlate e hp.wait).trans (u.kept_sendLoad ..)
    refine ⟨?_, u.sendLoad_last ..⟩
    have hgo : s.GoesOn (if f.acq then w.holdFor (w.nextId - 1) else w) ∧ (if f.acq then w.holdFor (w.nextId - 1) else w).cur.var = [] := by
      split
      · exact ⟨hp.goesOn_holding hk _, by rw [State.holdFor, State.cur_updCur, hk.cur]; exact hp.var⟩
      · exact ⟨hp.goesOn hk, by rw [hk.cur]; exact hp.var⟩
    exact hi.owes hp hgo.1 hgo.2
  · intro s hp i f hf hrel hsc hg l hl hcur hw
    have hi := State.storeForm_issues hp hf hrel
    rw [State.store_line hg _ _ hsc hl hcur hw] at hi
    exact hi.completes hp (hp.goesOn (s.kept_updHere _ rfl))
  · intro s u hp i f hf hrel hsc hg hline tr e hm hcache w
    have hi := State.storeForm_issues hp hf hrel
    rw [State.store_miss hg _ _ hp.wait (.inr hline) e hm, hsc, hcache] at hi
    have hku := State.kept_xlate e hp.wait
    have hbs : leBytes f.val.toNat f.n ≠ [] := List.length_pos_iff.1 (by rw [length_leBytes]; exact State.storeForm_pos hf)
    exact ⟨hi.completes hp (hp.goesOn (hku.trans (u.kept_storeL1 ..))), hku.cur ▸ u.storeL1_line f.va.toNat tr f.scope hbs⟩
  · intro s u hp i f hf hrel hg hmiss tr e hm hthrough w
    have hi := State.storeForm_issues hp hf hrel
    have hwide : (f.scope.wide || !cacheable tr.pa) = true := by simpa using hthrough
    rw [State.store_miss hg _ _ hp.wait hmiss e hm, hwide, if_pos rfl] at hi
    have hku := State.kept_xlate e hp.wait
    obtain ⟨q, hq, hop, hhome, haddr, hsize, hspec⟩ := u.storeThrough_oq f.va.toNat tr f.scope (leBytes f.val.toNat f.n)
    refine ⟨hi.completes hp (hp.goesOn (hku.trans (u.kept_storeThrough ..))), ⟨q, ?_, hop, hhome, haddr, ?_, hspec⟩, fun l hl hd => ?_⟩
    · rw [hq, List.getLast?_append]
      rfl
    · rw [hsize, length_leBytes]
    · rw [← hku.cur] at hl
      obtain ⟨r, hr, hspec⟩ := State.writeBackAt_sent hl hd
      exact ⟨r, hq ▸ List.mem_append_left _ hr, hspec⟩

end Sys2Proof
end

section
/-!
SUPPORT. What the lines of a request change of HBM (R20, R30), and what a write leaves of bytes, poison and orders (R151, R458).
-/
namespace Sys2Proof.Machine

/-! ### Lines of the L2 slices -/

/-- Every byte of HBM, its poison and the order of its line is as it was. -/
structure State.SameHbm (s t : State) : Prop where
  mem    : t.mem = s.mem
  poison : t.poison = s.poison
  order  : t.order = s.order

theorem State.SameHbm.refl (s : State) : s.SameHbm s := ⟨rfl, rfl, rfl⟩

theorem State.SameHbm.trans {s t u : State} (h : s.SameHbm t) (g : t.SameHbm u) : s.SameHbm u :=
  ⟨g.mem.trans h.mem, g.poison.trans h.poison, g.order.trans h.order⟩

theorem Map.find?_erase {α : Type} (m : Map α) (i j : Nat) : Map.find? (Map.erase m i) j = if j = i then none else Map.find? m j := by
  induction m with
  | nil => simp [Map.erase, Map.find?]
  | cons e m ih =>
    obtain ⟨k, v⟩ := e
    simp only [Map.erase] at ih
    simp only [Map.erase, List.filter_cons]
    by_cases hk : k = i
    · subst hk
      simp only [bne_self_eq_false, Bool.false_eq_true, if_false, ih, Map.find?]
      split <;> rfl
    · have hb : (k != i) = true := by simpa using hk
      simp only [hb, if_true, Map.find?, ih]
      by_cases hj : j = k
      · subst hj; simp [hk]
      · simp [hj]

section
variable {s : State} (h : s.L2True)
include h

/-- A line that is given up leaves HBM as accesses see it: it is dirty where HBM differs beneath it. -/
theorem State.L2True.l2Drop (line : Nat) : s.SameHbm (s.l2Drop false line) ∧ (s.l2Drop false line).L2True := by
  unfold State.l2Drop
  split
  · exact ⟨.refl s, h⟩
  · next e he =>
    have herase : ({ s with l2 := s.l2.erase line } : State).L2True := by
      intro k d hd hclean
      rw [Map.find?_erase] at hd
      split at hd
      · cases hd
      · exact h k d hd hclean
    dsimp only
    split
    · next b hb =>
      have hdirty : e.dirty = true := by
        by_contra hd
        rw [h line e he (by simpa using hd)] at hb
        cases hb
      rw [hdirty, if_neg (by decide)]
      exact ⟨⟨rfl, rfl, rfl⟩, herase⟩
    · exact ⟨⟨rfl, rfl, rfl⟩, herase⟩

/-- A line that is taken, or marked dirty, where it hides nothing. -/
theorem State.L2True.set (line : Nat) {e : L2Line} (he : e.dirty = false → e.under = none) : ({ s with l2 := s.l2.set line e } : State).L2True := by
  intro k d hd hclean
  by_cases hk : k = line
  · subst hk
    rw [Map.find?_set_same] at hd
    cases hd
    exact he hclean
  · rw [Map.find?_set_ne _ _ _ _ hk] at hd
    exact h k d hd hclean

theorem State.L2True.l2Line (n : Nat) (writes : Bool) (line : Nat) : s.SameHbm (s.l2Line n writes line) ∧ (s.l2Line n writes line).L2True := by
  have hentry : ∀ (e : L2Line) (b : List PByte), (e.dirty = false → e.under = none) →
      (if writes then ({ dirty := true, under := some (e.under.getD b) } : L2Line) else e).dirty = false →
      (if writes then ({ dirty := true, under := some (e.under.getD b) } : L2Line) else e).under = none := by
    intro e b he hclean
    cases writes with
    | true => cases hclean
    | false => exact he hclean
  unfold State.l2Line
  dsimp only
  split
  · next e he => exact ⟨⟨rfl, rfl, rfl⟩, h.set line (hentry e _ (h line e he))⟩
  · split
    · split
      · exact ⟨⟨rfl, rfl, rfl⟩, h.set line (hentry {} _ fun _ => rfl)⟩
      · exact ⟨.refl s, h⟩
    · split
      · obtain ⟨hsame, htrue⟩ := h.l2Drop (nth 0 (s.l2Mates line) (Config.victim n % (s.l2Mates line).length))
        exact ⟨⟨hsame.mem, hsame.poison, hsame.order⟩, htrue.set line (hentry {} _ fun _ => rfl)⟩
      · exact ⟨.refl s, h⟩

theorem State.L2True.l2Access (i : Nat) (r : Req) : s.SameHbm (s.l2Access i r) ∧ (s.l2Access i r).L2True := by
  unfold State.l2Access
  split
  · exact ⟨.refl s, h⟩
  · refine List.foldlRecOn (motive := fun t : State => s.SameHbm t ∧ t.L2True) _ _ ⟨.refl s, h⟩ fun t ht l _ => ?_
    obtain ⟨hsame, htrue⟩ := ht.2.l2Line r.id r.op.writes l
    exact ⟨ht.1.trans hsame, htrue⟩

end

/-! ### The lines of a request that has left its channel -/

theorem State.l2Line_chans (s : State) (ch : List Chan) (n : Nat) (writes : Bool) (line : Nat) :
    ({ s with chans := ch } : State).l2Line n writes line = { s.l2Line n writes line with chans := ch } := by
  have hdrop : ∀ k, ({ s with chans := ch } : State).l2Drop false k = { s.l2Drop false k with chans := ch } := by
    intro k
    unfold State.l2Drop
    dsimp only
    split
    · rfl
    · split
      · split <;> rfl
      · rfl
  have hmates : ({ s with chans := ch } : State).l2Mates line = s.l2Mates line := rfl
  unfold State.l2Line
  rw [hmates]
  dsimp only
  split
  · rfl
  · split
    · rfl
    · split
      · rw [hdrop] <;> rfl
      · rfl

theorem State.l2Access_taken (s : State) (i : Nat) (r : Req) : (s.taken r).l2Access i r = (s.l2Access i r).taken r := by
  have hfold : ∀ (ls : List Nat) (t : State) (ch : List Chan),
      ls.foldl (fun s l => s.l2Line r.id r.op.writes l) { t with chans := ch } =
        { ls.foldl (fun s l => s.l2Line r.id r.op.writes l) t with chans := ch } := by
    intro ls
    induction ls with
    | nil => exact fun _ _ => rfl
    | cons l ls ih =>
      intro t ch
      rw [List.foldl_cons, List.foldl_cons, State.l2Line_chans, ih]
  have hchans : (s.l2Access i r).chans = s.chans := by
    unfold State.l2Access
    split
    · rfl
    · refine List.foldlRecOn (motive := fun t : State => t.chans = s.chans) _ _ rfl fun t ht l _ => ?_
      rw [← ht]
      have h := congrArg State.chans (t.l2Line_chans t.chans r.id r.op.writes l)
      exact h
  rw [State.taken, State.taken, hchans]
  have hoff : ({ s with chans := popReq s.chans r.agent r.home } : State).disabled (dieOf i) (384 + i % 384) =
    s.disabled (dieOf i) (384 + i % 384) := rfl
  unfold State.l2Access
  rw [hoff]
  split
  · rfl
  · exact hfold ..

/-! ### Bytes, poison and orders after a write -/

/-- Two states that differ in the waits and answers of HBM alone. -/
def State.AnswersAside (s t : State) : Prop := t = { s with rchans := t.rchans, waiters := t.waiters, deferred := t.deferred }

theorem State.AnswersAside.trans {s t u : State} (h : s.AnswersAside t) (g : t.AnswersAside u) : s.AnswersAside u := by
  unfold State.AnswersAside at *
  rw [g, h]

theorem State.AnswersAside.foldl {α : Type} {f : State → α → State} (h : ∀ (s : State) (a : α), s.AnswersAside (f s a)) (l : List α) (s : State) :
    s.AnswersAside (l.foldl f s) :=
  List.foldlRecOn l f rfl fun _ ht a _ => State.AnswersAside.trans ht (h _ a)

theorem State.AnswersAside.sameHbm {s t : State} (h : s.AnswersAside t) : s.SameHbm t := by
  rw [h]
  exact ⟨rfl, rfl, rfl⟩

theorem State.answersAside_afterWrite (s : State) (pa n : Nat) : s.AnswersAside (s.afterWrite pa n) := by
  unfold State.afterWrite State.answerWaita State.answerFutures
  dsimp only
  have hrespond : ∀ (s : State) (x : Resp), s.AnswersAside (s.respond x) := fun _ _ => rfl
  refine State.AnswersAside.trans ?_ (State.AnswersAside.foldl (fun t r => hrespond t _) _ _)
  refine State.AnswersAside.trans (State.AnswersAside.trans ?_ (State.AnswersAside.foldl (fun t r => hrespond t _) _ _)) rfl
  rfl

theorem State.poison_bumpLines (s : State) (pa n : Nat) : (s.bumpLines pa n).poison = s.poison := by
  unfold State.bumpLines
  exact List.foldlRecOn (motive := fun t : State => t.poison = s.poison) _ _ rfl fun _ ht _ _ => ht

theorem State.posOf_bumpOrder (s : State) (l pa : Nat) : (s.bumpOrder (l * 128)).posOf pa = s.posOf pa + if pa / 128 = l then 1 else 0 := by
  have hdiv : l * 128 / 128 = l := Nat.mul_div_cancel l (by norm_num)
  unfold State.posOf State.bumpOrder
  dsimp only
  rw [Map.get_set, hdiv]
  split
  · next h => rw [State.posOf, hdiv, h]
  · rfl

theorem State.posOf_bumps (pa : Nat) (ls : List Nat) (hnd : ls.Nodup) : ∀ s : State,
    (ls.foldl (fun s l => s.bumpOrder (l * 128)) s).posOf pa = s.posOf pa + if pa / 128 ∈ ls then 1 else 0 := by
  induction ls with
  | nil => exact fun _ => rfl
  | cons l ls ih =>
    intro s
    obtain ⟨hl, hnd⟩ := List.nodup_cons.1 hnd
    rw [List.foldl_cons, ih hnd, State.posOf_bumpOrder]
    by_cases h : pa / 128 = l
    · rw [if_pos h, if_neg (h ▸ hl), if_pos (h ▸ List.mem_cons_self)]
    · simp [h]

/-- The order of the line at the address of a write goes on by one. -/
theorem State.posOf_bumpLines (s : State) (pa : Nat) {n : Nat} (hn : 0 < n) : (s.bumpLines pa n).posOf pa = s.posOf pa + 1 := by
  have hnd : (linesOf pa n).Nodup := by
    unfold linesOf
    split
    · exact List.nodup_nil
    · exact List.Nodup.map (fun _ _ h => Nat.add_left_cancel h) List.nodup_range
  have hin : pa / 128 ∈ linesOf pa n := by
    simp only [linesOf, Nat.pos_iff_ne_zero.1 hn, if_false, natsFrom, List.mem_map, List.mem_range]
    exact ⟨0, Nat.succ_pos _, rfl⟩
  unfold State.bumpLines
  rw [State.posOf_bumps pa _ hnd, if_pos hin]

section
variable (s : State) (pa : Nat) (bs : List PByte)

theorem State.poison_memWrite : (s.memWrite pa bs).poison = (setPBytes s.mem s.poison pa bs).2 := by
  unfold State.memWrite
  dsimp only
  rw [(State.answersAside_afterWrite ..).sameHbm.poison, State.poison_bumpLines]

theorem State.posOf_memWrite (h : bs ≠ []) : (s.memWrite pa bs).posOf pa = s.posOf pa + 1 := by
  unfold State.memWrite
  dsimp only
  rw [State.posOf, (State.answersAside_afterWrite ..).sameHbm.order]
  exact State.posOf_bumpLines _ pa (List.length_pos_iff.2 h)

/-- Each byte of a write stands in its place, with its poison. -/
theorem State.memWrite_inside {j : Nat} (h : j < bs.length) :
    Memory.byte (s.memWrite pa bs).mem (pa + j) = bs[j].val ∧ NatSet.has (s.memWrite pa bs).poison (pa + j) = bs[j].bad := by
  rw [State.mem_memWrite, State.poison_memWrite, Memory.byte_setBytes, setPBytes_snd, PByte.vals, List.length_map, if_pos (by omega),
    if_pos (by omega), Nat.add_sub_cancel_left, nth_eq_getElem _ _ _ h, nth_eq_getElem _ _ _ (by simpa using h), List.getElem_map]
  exact ⟨rfl, rfl⟩

theorem State.memWrite_outside {a : Nat} (h : a < pa ∨ pa + bs.length ≤ a) :
    Memory.byte (s.memWrite pa bs).mem a = Memory.byte s.mem a ∧ NatSet.has (s.memWrite pa bs).poison a = NatSet.has s.poison a := by
  rw [State.mem_memWrite, State.poison_memWrite, Memory.byte_setBytes, setPBytes_snd, PByte.vals, List.length_map, if_neg (by omega),
    if_neg (by omega)]
  exact ⟨rfl, rfl⟩

end

/-! ### Scattered bytes (R164) -/

/-- What a write-back leaves of HBM and of its poison. -/
def scattered (base : Nat) (bs : Map PByte) (mp : List Host.Cell × NatSet) : List Host.Cell × NatSet :=
  bs.foldl (fun mp e => setPBytes mp.1 mp.2 (base + e.1) [e.2]) mp

theorem State.memScatter_hbm (s : State) (base : Nat) (bs : Map PByte) :
    (s.memScatter base bs).mem = (scattered base bs (s.mem, s.poison)).1 ∧
      (s.memScatter base bs).poison = (scattered base bs (s.mem, s.poison)).2 := by
  unfold State.memScatter
  dsimp only
  have h := State.AnswersAside.foldl (fun (t : State) (e : Nat × PByte) => t.answersAside_afterWrite (base + e.1) 1) bs
    (({ s with mem := (scattered base bs (s.mem, s.poison)).1, poison := (scattered base bs (s.mem, s.poison)).2 } : State).bumpOrder base)
  exact ⟨h.sameHbm.mem, h.sameHbm.poison⟩

theorem scattered_outside (base a : Nat) (bs : Map PByte) (h : ∀ o ∈ Map.keys bs, a ≠ base + o) : ∀ mp,
    Memory.byte (scattered base bs mp).1 a = Memory.byte mp.1 a ∧ NatSet.has (scattered base bs mp).2 a = NatSet.has mp.2 a := by
  induction bs with
  | nil => exact fun _ => ⟨rfl, rfl⟩
  | cons e bs ih =>
    intro mp
    have hne : a ≠ base + e.1 := h e.1 List.mem_cons_self
    obtain ⟨hm, hp⟩ := ih (fun o ho => h o (List.mem_cons_of_mem _ ho)) (setPBytes mp.1 mp.2 (base + e.1) [e.2])
    refine ⟨hm.trans ?_, hp.trans ?_⟩
    · exact (Memory.byte_set ..).trans (if_neg hne)
    · exact (NatSet.has_mark ..).trans (if_neg hne)

theorem scattered_inside (base : Nat) (bs : Map PByte) (hnd : (Map.keys bs).Nodup) {o : Nat} {b : PByte} (h : (o, b) ∈ bs) : ∀ mp,
    Memory.byte (scattered base bs mp).1 (base + o) = b.val ∧ NatSet.has (scattered base bs mp).2 (base + o) = b.bad := by
  induction bs with
  | nil => cases h
  | cons e bs ih =>
    intro mp
    obtain ⟨he, hnd⟩ := List.nodup_cons.1 hnd
    rcases List.mem_cons.1 h with rfl | h
    · have hout : ∀ k ∈ Map.keys bs, base + o ≠ base + k := by
        intro k hk heq
        exact he (Nat.add_left_cancel heq ▸ hk)
      obtain ⟨hm, hp⟩ := scattered_outside base (base + o) bs hout (setPBytes mp.1 mp.2 (base + o) [b])
      refine ⟨hm.trans ?_, hp.trans ?_⟩
      · exact (Memory.byte_set ..).trans (if_pos rfl)
      · exact (NatSet.has_mark ..).trans (if_pos rfl)
    · exact ih hnd h _

end Sys2Proof.Machine
end

section
/-!
PROOF of O11 (R150, R151, R153, R154, R170, R237 to R241, R459): requests drained, and performed at HBM and at scratchpads.
-/
namespace Sys2Proof.Machine

/-! ### A request at the front of its channel -/

section
variable {s : State} {r : Req} (h : s.Front r)
include h

theorem State.Front.performing : s.Performing r ((s.taken r).performAt r.home r) := by
  obtain ⟨rest, hchan⟩ := List.head?_eq_some_iff.1 h.head
  have hlease : (r.isPacket || r.exp.all (fun e => s.timeOf (agentDie r.agent) < e)) = true := by
    cases hexp : r.exp with
    | none => simp
    | some e => simpa using h.lease e hexp
  unfold State.Performing
  have hexec : exec (.perform r.agent r.home) s = .next (s.performHead r.agent r.home) := rfl
  rw [hexec, State.performHead, hchan]
  dsimp only
  rw [h.free, if_neg (by decide)]
  exact congrArg Host.Outcome.next (if_pos hlease)

/-- A request of a slice finds its lines in the L2 of the slice. -/
theorem State.Front.performing_slice {i : Nat} (hh : r.home = .slice i) : s.Performing r (((s.l2Access i r).taken r).performSlice i r) := by
  have hp := h.performing
  rw [hh] at hp
  rw [← State.l2Access_taken]
  exact hp

theorem State.Front.performing_spad {c : Nat} (hh : r.home = .spad c) : s.Performing r ((s.taken r).performSpad c r) := by
  have hp := h.performing
  rw [hh] at hp
  exact hp

end

theorem poisonedIn_iff (p : NatSet) (a n : Nat) : poisonedIn p a n = true ↔ ∃ x, a ≤ x ∧ x < a + n ∧ NatSet.has p x = true := by
  simp only [poisonedIn, NatSet.has, List.any_eq_true, Bool.and_eq_true, decide_eq_true_eq, beq_iff_eq]
  constructor
  · rintro ⟨x, hx, h1, h2⟩
    exact ⟨x, h1, h2, x, hx, rfl⟩
  · rintro ⟨x, h1, h2, y, hy, rfl⟩
    exact ⟨y, hy, h1, h2⟩

/-! ### DRAIN (R154) -/

theorem State.drain_of {s : State} {c : Nat} {r : Req} {rest : List Req} (h : (s.core c).oq = r :: rest) :
    s.drain c = { s.updCore c (fun h => { h with oq := rest }) with chans := addReq s.chans (.core c) r.home r } := by
  unfold State.drain
  rw [h] <;> rfl

/-! ### An access beyond a scratchpad (R150) -/

theorem State.core_noAccess (s : State) (c : Nat) (r : Req) :
    ((s.noAccess c r).core c).spad = (s.core c).spad ∧ ((s.noAccess c r).core c).spoob = (s.core c).spoob + 1 := by
  have hcore : (s.noAccess c r).core c = _ := s.core_updCore c fun h => { h with spoob := h.spoob + 1 }
  rw [hcore]
  exact ⟨rfl, rfl⟩

/-! ### A read-modify-write at HBM (R237 to R241, R459) -/

/-- The read-modify-writes of tasks. -/
def HomeOp.TaskRmw (op : HomeOp) : Prop :=
  (∃ a d, op = .amo a d) ∨ (∃ expect value, op = .cas expect value) ∨ ∃ rop f d, op = .red rop f d

section
variable {s : State} {i : Nat} {r : Req} {new : Nat → Option Nat}

theorem State.rmwAt_clean (h : poisonedIn s.poison r.addr r.size = false) : s.rmwAt i r new =
    let w := match new (leNat (Memory.bytes s.mem r.addr r.size)) with
      | some v => s.memWrite r.addr (PByte.clean (leBytes v r.size))
      | none => s
    w.respond { req := r, val := w64 (leNat (Memory.bytes s.mem r.addr r.size)), pos := w.posOf r.addr } := by
  unfold State.rmwAt
  dsimp only
  rw [h, if_neg Bool.false_ne_true] <;> rfl

section
variable (h : poisonedIn s.poison r.addr r.size = true)
include h

theorem State.rmwAt_poisoned (hop : (∃ a d, r.op = .amo a d) ∨ ∃ expect value, r.op = .cas expect value) :
    s.rmwAt i r new = s.respond { req := r, poison := true } := by
  unfold State.rmwAt
  dsimp only
  rw [h, if_pos rfl]
  rcases hop with ⟨_, _, hop⟩ | ⟨_, _, hop⟩ <;> rw [hop]

theorem State.rmwAt_red_poisoned {rop f : Nat} {d : W64} (hop : r.op = .red rop f d) :
    s.rmwAt i r new = (s.redReport i r.va dPoison).respond { req := r } := by
  unfold State.rmwAt
  dsimp only
  rw [h, if_pos rfl, hop]

end

theorem State.performSlice_rmw (hop : r.op.TaskRmw) : s.performSlice i r = s.rmwAt i r (r.op.newValue r.size) := by
  unfold State.performSlice
  rcases hop with ⟨_, _, hop⟩ | ⟨_, _, hop⟩ | ⟨_, _, _, hop⟩ <;> rw [hop]

end

end Sys2Proof.Machine

namespace Sys2Proof
open Machine

/-- Settles O11, home by home and operation by operation. -/
theorem accessesAtHomes : Obligations.AccessesAtHomes := by
  refine ⟨⟨?_, ?_, ?_⟩, ?_, ?_⟩
  · intro s c r rest hc hoq
    have hexec : exec (.drain c) s = .next (s.drain c) := if_pos hc
    rw [State.drain_of hoq] at hexec
    refine ⟨_, hexec, ?_, ?_, fun a h hne => ?_, rfl⟩
    · have hcore := congrArg HomeCore.oq (s.core_updCore c fun h => { h with oq := rest })
      exact hcore
    · exact (State.chan_add (s.updCore c fun h => { h with oq := rest }) ..).trans (by rw [if_pos ⟨rfl, rfl⟩]; rfl)
    · refine (State.chan_add (s.updCore c fun h => { h with oq := rest }) ..).trans ?_
      rw [if_neg fun e => hne (by rw [e.1, e.2]), List.append_nil]
      rfl
  · intro s r i h w
    obtain ⟨hsame, htrue⟩ := h.l2Access i r
    exact ⟨hsame.mem, hsame.poison, hsame.order, htrue⟩
  · intro s r i h hh w
    have hp := h.performing_slice hh
    refine ⟨fun hop => ?_, fun data hop => ?_, fun bytes hop hnd => ?_⟩
    · rw [State.performSlice, hop] at hp
      refine ⟨_, hp, rfl, rfl, _, State.rchan_respond_last .., rfl, pbytes_vals .., rfl, pbytes_bad ..⟩
    · rw [State.performSlice, hop] at hp
      refine ⟨_, hp, fun j hj => ?_, fun a ha => ?_, fun hne => ?_, _, State.rchan_respond_last .., rfl, rfl⟩
      · exact State.memWrite_inside (w.taken r) r.addr data hj
      · exact State.memWrite_outside (w.taken r) r.addr data ha
      · exact State.posOf_memWrite (w.taken r) r.addr data hne
    · rw [State.performSlice, hop] at hp
      obtain ⟨hm, hpoison⟩ := (w.taken r).memScatter_hbm r.addr bytes
      refine ⟨_, hp, fun o b hb => ?_, fun a ha => ?_, _, State.rchan_respond_last .., rfl⟩
      · have hin := scattered_inside r.addr bytes hnd hb (w.mem, w.poison)
        exact ⟨(congrArg (Memory.byte · _) hm).trans hin.1, (congrArg (NatSet.has · _) hpoison).trans hin.2⟩
      · have hout := scattered_outside r.addr a bytes ha (w.mem, w.poison)
        exact ⟨(congrArg (Memory.byte · _) hm).trans hout.1, (congrArg (NatSet.has · _) hpoison).trans hout.2⟩
  · intro s r c h hh
    have hp := h.performing_spad hh
    refine ⟨fun hin hop => ?_, fun data hin hop => ?_, fun hout => ?_⟩
    · have hin' : ¬((s.taken r).core c).spsize ≤ r.addr := not_le.2 hin
      rw [State.performSpad, if_neg hin', hop] at hp
      exact ⟨_, hp, rfl, _, State.rchan_respond_last .., rfl, HomeCore.vals_spBytes ..⟩
    · have hin' : ¬((s.taken r).core c).spsize ≤ r.addr := not_le.2 hin
      rw [State.performSpad, if_neg hin', hop] at hp
      have hspad : (((s.taken r).spWrite c r.addr data).core c).spad = Memory.setBytes (s.core c).spad r.addr (PByte.vals data) := by
        rw [State.core_spWrite, HomeCore.spad_spWrite]
        rfl
      refine ⟨_, hp, fun j hj => ?_, fun a ha => ?_, fun d a hd => ?_, State.mem_spWrite .., _, State.rchan_respond_last .., rfl⟩
      · refine (congrArg (Memory.byte · _) hspad).trans ?_
        rw [Memory.byte_setBytes, PByte.vals, List.length_map, if_pos (by omega), Nat.add_sub_cancel_left,
          nth_eq_getElem _ _ _ (by simpa using hj), List.getElem_map]
      · refine (congrArg (Memory.byte · _) hspad).trans ?_
        rw [Memory.byte_setBytes, PByte.vals, List.length_map, if_neg (by omega)]
      · exact congrArg (fun x : HomeCore => Memory.byte x.spad a) ((s.taken r).core_spWrite_ne r.addr data hd)
    · have hout' : ((s.taken r).core c).spsize ≤ r.addr := hout
      rw [State.performSpad, if_pos hout'] at hp
      refine ⟨_, hp, ?_, rfl, ?_, _, State.rchan_respond_last .., rfl, rfl, fun b hb => ?_⟩
      · exact ((s.taken r).core_noAccess c r).1
      · exact ((s.taken r).core_noAccess c r).2
      · dsimp only at hb
        split at hb
        · rw [List.eq_of_mem_replicate hb]
          exact ⟨rfl, rfl⟩
        · cases hb
  · intro s r i h hh hop w old
    have hkind : r.op.TaskRmw := by
      revert hop
      generalize r.op = op
      intro hop
      cases op
      case amo => exact .inl ⟨_, _, rfl⟩
      case cas => exact .inr (.inl ⟨_, _, rfl⟩)
      case red => exact .inr (.inr ⟨_, _, _, rfl⟩)
      all_goals exact hop.elim
    have hp := h.performing_slice hh
    rw [State.performSlice_rmw hkind] at hp
    have hclean : (∀ a, r.addr ≤ a → a < r.addr + r.size → NatSet.has w.poison a = false) →
        poisonedIn (w.taken r).poison r.addr r.size = false := by
      intro hc
      rw [Bool.eq_false_iff]
      intro hbad
      obtain ⟨a, h1, h2, h3⟩ := (poisonedIn_iff ..).1 hbad
      exact absurd h3 (by rw [show (w.taken r).poison = w.poison from rfl, hc a h1 h2]; decide)
    refine ⟨fun hc v hv => ?_, fun hc hv => ?_, fun hbad => ?_⟩
    · have hv' : r.op.newValue r.size (leNat (Memory.bytes (w.taken r).mem r.addr r.size)) = some v := hv
      rw [State.rmwAt_clean (hclean hc)] at hp
      dsimp only at hp
      rw [hv'] at hp
      have hmem := (w.taken r).mem_memWrite r.addr (PByte.clean (leBytes v r.size))
      rw [PByte.vals_clean] at hmem
      refine ⟨_, hp, ?_, fun a ha => ?_, _, State.rchan_respond_last .., rfl, rfl, rfl⟩
      · refine (congrArg (Memory.bytes · r.addr r.size) hmem).trans ?_
        have hread := Memory.bytes_setBytes_same (w.taken r).mem r.addr (leBytes v r.size)
        rwa [length_leBytes] at hread
      · refine (congrArg (Memory.byte · a) hmem).trans ?_
        rw [Memory.byte_setBytes, length_leBytes, if_neg (by omega)]
        rfl
    · have hv' : r.op.newValue r.size (leNat (Memory.bytes (w.taken r).mem r.addr r.size)) = none := hv
      rw [State.rmwAt_clean (hclean hc)] at hp
      dsimp only at hp
      rw [hv'] at hp
      exact ⟨_, hp, rfl, _, State.rchan_respond_last .., rfl, rfl, rfl⟩
    · have hbad' : poisonedIn (w.taken r).poison r.addr r.size = true := (poisonedIn_iff ..).2 hbad
      rcases hkind with ⟨a, d, hop⟩ | ⟨a, d, hop⟩ | ⟨a, f, d, hop⟩
      · rw [State.rmwAt_poisoned hbad' (.inl ⟨a, d, hop⟩)] at hp
        refine ⟨_, hp, _, State.rchan_respond_last .., rfl, ?_⟩
        rw [hop]
        exact ⟨rfl, rfl⟩
      · rw [State.rmwAt_poisoned hbad' (.inr ⟨a, d, hop⟩)] at hp
        refine ⟨_, hp, _, State.rchan_respond_last .., rfl, ?_⟩
        rw [hop]
        exact ⟨rfl, rfl⟩
      · rw [State.rmwAt_red_poisoned hbad' hop] at hp
        refine ⟨_, hp, _, State.rchan_respond_last .., rfl, ?_⟩
        rw [hop]
        exact ⟨rfl, rfl⟩

end Sys2Proof
end

section
/-!
SUPPORT. The head of a channel of a BDE: what replaces it and what ends it (R380, R381, R383).
-/
namespace Sys2Proof.Machine

/-! ### Channels and zones of a BDE -/

section
variable (s : State) (u ch : Nat)

theorem State.bdeChan_updBdeChan (f : BdeChan → BdeChan) : (s.updBdeChan u ch f).bdeChan u ch = f (s.bdeChan u ch) := by
  simp [State.bdeChan, State.updBdeChan, State.updBde, State.bde]

theorem State.bdeChan_of_bdes {s t : State} (h : t.bdes = s.bdes) (u ch : Nat) : t.bdeChan u ch = s.bdeChan u ch := by
  unfold State.bdeChan State.bde
  rw [h]

/-- A change of an engine that keeps its channels. -/
theorem State.bdeChan_updBde (b : Nat) {f : Bde → Bde} (hf : ∀ e, (f e).chans = e.chans) : (s.updBde b f).bdeChan u ch = s.bdeChan u ch := by
  unfold State.bdeChan State.bde State.updBde
  rw [Map.get_set]
  split
  · next h => rw [hf, h]; rfl
  · rfl

theorem State.bdeChan_setZone (b i : Nat) (z : Zone) : (s.setZone b i z).bdeChan u ch = s.bdeChan u ch :=
  s.bdeChan_updBde u ch b fun _ => rfl

theorem State.bdeChan_dropZone (b i : Nat) : (s.dropZone b i).bdeChan u ch = s.bdeChan u ch :=
  s.bdeChan_updBde u ch b fun _ => rfl

theorem State.zone?_setZone (b i : Nat) (z : Zone) : (s.setZone b i z).zone? b i = some z := by
  simp [State.zone?, State.setZone, State.updBde, State.bde]

theorem State.zone?_setBdeOp (b i : Nat) (o : BdeOp) : (s.setBdeOp u ch o).zone? b i = s.zone? b i := by
  unfold State.zone? State.bde State.setBdeOp State.updBdeChan State.updBde
  rw [Map.get_set]
  split
  · next h => rw [h]; rfl
  · rfl

end

/-! ### What the reads of engines leave of a BDE -/

theorem State.EngineAside.bdes {s t : State} (h : s.EngineAside t) : t.bdes = s.bdes := by rw [h.rest]

theorem State.EngineAside.timeOf {s t : State} (h : s.EngineAside t) (d : Nat) : t.timeOf d = s.timeOf d := by rw [h.rest]; rfl

theorem State.dropLoad_rest (s : State) (l : EngLoad) : s.dropLoad l = { s with engIn := (s.dropLoad l).engIn } :=
  List.foldlRecOn (motive := fun t : State => t = { s with engIn := t.engIn }) l.pieces _ rfl fun t ht p _ => by
    cases p with
    | bytes _ => exact ht
    | req id _ _ => exact congrArg (fun v : State => { v with engIn := t.engIn.erase id }) ht

theorem State.dropLoads_rest (s : State) (ls : List EngLoad) : s.dropLoads ls = { s with engIn := (s.dropLoads ls).engIn } :=
  List.foldlRecOn (motive := fun t : State => t = { s with engIn := t.engIn }) ls _ rfl fun t ht l _ =>
    (t.dropLoad_rest l).trans (congrArg (fun v : State => { v with engIn := (t.dropLoad l).engIn }) ht)

theorem State.mem_dropLoad (s : State) (l : EngLoad) : (s.dropLoad l).mem = s.mem := by rw [s.dropLoad_rest l]

theorem State.bdes_dropLoad (s : State) (l : EngLoad) : (s.dropLoad l).bdes = s.bdes := by rw [s.dropLoad_rest l]

theorem State.bdes_dropLoads (s : State) (ls : List EngLoad) : (s.dropLoads ls).bdes = s.bdes := by rw [s.dropLoads_rest ls]

theorem State.modId_dropLoad (s : State) (l : EngLoad) : (s.dropLoad l).modId = s.modId := by rw [s.dropLoad_rest l]; rfl

theorem State.bdes_writeBackAll (s : State) (c : Nat) (p : L1Line → Bool) : (s.writeBackAll c p).bdes = s.bdes := by
  rw [State.writeBackAll_eq, (s.sends_writeBacks c p _).keeps (f := State.bdes) fun _ _ => rfl]

/-! ### The head of a channel -/

/-- `g` stands at the head of a channel in the place of the operation before, and memory is as it was. -/
structure State.HeadsBde (s t : State) (u ch : Nat) (g : BdeOp) : Prop where
  queue : (t.bdeChan u ch).queue = g :: (s.bdeChan u ch).queue.drop 1
  mem   : t.mem = s.mem

section
variable {s v : State} {u ch : Nat}

theorem State.HeadsBde.head {t : State} {g : BdeOp} (h : s.HeadsBde t u ch g) : t.bdeHead u ch = some g := by
  rw [State.bdeHead, h.queue, List.head?_cons]

theorem State.bdeHead_setBdeOp (s : State) (u ch : Nat) (g : BdeOp) : (s.setBdeOp u ch g).bdeHead u ch = some g := by
  rw [State.bdeHead, State.setBdeOp, State.bdeChan_updBdeChan, List.head?_cons]

section
variable (hc : v.bdeChan u ch = s.bdeChan u ch) (hm : v.mem = s.mem)
include hc hm

theorem State.headsBde_setBdeOp (g : BdeOp) : s.HeadsBde (v.setBdeOp u ch g) u ch g where
  queue := by rw [State.setBdeOp, State.bdeChan_updBdeChan, hc]
  mem := hm

theorem State.headsBde_stopColl (o : BdeOp) (side detail page : Nat) :
    s.HeadsBde (v.stopColl u ch o side detail page) u ch { o.fault side detail page with todo := [], zone := none } := by
  unfold State.stopColl
  dsimp only
  split
  · exact State.headsBde_setBdeOp ((v.bdeChan_dropZone u ch ..).trans hc) hm _
  · exact State.headsBde_setBdeOp hc hm _

end

/-- A step ends the collective at the head of a channel, which waits for its acknowledgements. -/
def State.Stops (s : State) (u ch : Nat) (x : Host.Outcome State Fault Refusal) (side detail : Nat) : Prop :=
  ∃ t g, x = .next t ∧ t.mem = s.mem ∧ t.bdeHead u ch = some g ∧ g.stopped = some 0x22 ∧ g.side = side ∧ g.detail = detail ∧ g.todo = []

theorem State.stops_stopColl (hc : v.bdeChan u ch = s.bdeChan u ch) (hm : v.mem = s.mem) {o : BdeOp} (hk : o.kind = .coll)
    (side detail page : Nat) : s.Stops u ch (.next (v.stopColl u ch o side detail page)) side detail := by
  have h := State.headsBde_stopColl hc hm o side detail page
  exact ⟨_, _, rfl, h.mem, h.head, congrArg some (if_pos hk), rfl, rfl, rfl⟩

/-- The head of a channel has ended. -/
def State.EndsBde (t : State) (u ch : Nat) (o : BdeOp) (rest : List BdeOp) (state detail : Nat) : Prop :=
  (t.bdeChan u ch).queue = rest ∧ ∃ d, (t.bdeChan u ch).recent.head? = some d ∧ d.seq = o.seq ∧ d.status.toNat % 256 = state ∧
    d.status.toNat / 2 ^ 8 % 256 = detail % 256

theorem BdeOp.status_fields (o : BdeOp) : o.status.toNat % 256 = o.state % 256 ∧ o.status.toNat / 2 ^ 8 % 256 = o.detail % 256 := by
  unfold BdeOp.status w64
  rw [BitVec.toNat_ofNat]
  constructor <;> split <;> split <;> split <;> omega

theorem State.endsBde_finishBde {o : BdeOp} {rest : List BdeOp} (hq : (v.bdeChan u ch).queue = o :: rest) (g : BdeOp) (hseq : g.seq = o.seq) :
    (v.finishBde u ch g).EndsBde u ch o rest (g.state % 256) g.detail := by
  unfold State.EndsBde State.finishBde
  rw [State.bdeChan_updBdeChan, hq]
  exact ⟨rfl, g.done, rfl, hseq, g.status_fields.1, g.status_fields.2⟩

end

end Sys2Proof.Machine
end

section
/-!
SUPPORT. The steps of a collective (R176, R397 to R399).
-/
namespace Sys2Proof.Machine

/-! ### Values of a collective (R398) -/

theorem findIdx_beq_getD {l : List Nat} {a : Nat} (h : a ∈ l) : (findIdx (· == a) l).getD 0 = l.idxOf a := by
  obtain ⟨pre, post, rfl, hpre⟩ := List.eq_append_cons_of_mem h
  have hne : ∀ y ∈ pre, (y == a) = false := fun y hy => beq_false_of_ne fun e => hpre (e ▸ hy)
  rw [findIdx_append hne (beq_self_eq_true a), List.idxOf_append_of_notMem hpre, List.idxOf_cons_self]
  rfl

theorem natsFrom_map {β : Type} (a n : Nat) (f : Nat → β) : (natsFrom a n).map f = (List.range n).map (fun k => f (a + k)) := by
  rw [natsFrom, List.map_map]
  rfl

section
variable {s : State} {u ch : Nat} {o : BdeOp} {rest : List BdeOp}

/-! ### Steps at the head of a channel -/

section
variable (hq : (s.bdeChan u ch).queue = o :: rest)
include hq

theorem State.bdeHead_of_queue : s.bdeHead u ch = some o := by
  rw [State.bdeHead, hq, List.head?_cons]

theorem State.headsBde_queue {t : State} {g : BdeOp} (h : s.HeadsBde t u ch g) : (t.bdeChan u ch).queue = g :: rest := by
  rw [h.queue, hq, List.drop_one, List.tail_cons]

variable (hu : u < 8) (hch : ch < 16) (hk : o.kind = .coll)
include hu hch hk

theorem State.exec_collStart : exec (.collStart (.bde u ch)) s = .next (if o.state = 1 then s.collBegin u ch o else s) := by
  have hexec : exec (.collStart (.bde u ch)) s = .next (s.collStart u ch) := if_pos (by simp [hu, hch])
  rw [hexec, State.collStart, State.bdeHead_of_queue hq]
  simp only [hk, and_true]

theorem State.exec_collTimeout : exec (.collTimeout (.bde u ch)) s = .next
    (if o.state = 2 ∧ o.tout ≠ 0 ∧ o.stopped = none ∧ o.began + o.tout * 1000 ≤ s.timeOf (u / 2) then s.stopColl u ch o 0 0xD 0 else s) := by
  have hexec : exec (.collTimeout (.bde u ch)) s = .next (s.collTimeout u ch) := if_pos (by simp [hu, hch])
  rw [hexec, State.collTimeout, State.bdeHead_of_queue hq]
  dsimp only
  rw [← ite_not]
  refine congrArg _ (if_congr ?_ rfl rfl)
  simp [hk, Option.isSome_iff_ne_none]

theorem State.exec_collComplete (srcs : List (List Byte)) (hst : o.state = 2) (hz : o.zone = none) :
    exec (.collComplete (.bde u ch) srcs) s = .next (if o.summed || o.stopped.isSome then s.collEnd u ch o else s.collSum u ch o srcs) := by
  have hexec : exec (.collComplete (.bde u ch) srcs) s = .next (s.collComplete u ch srcs) := if_pos (by simp [hu, hch])
  rw [hexec, State.collComplete, State.bdeHead_of_queue hq]
  dsimp only
  rw [if_neg (by simp [hk, hst, hz])]

theorem State.exec_collEvent (hst : o.state = 2) (hz : o.zone = none) : exec (.engineEvent (.bde u ch)) s = .next (s.collEnd u ch o) := by
  have hexec : exec (.engineEvent (.bde u ch)) s = .next (s.bdeEvent u ch) := if_pos (by simp [agentExists, hu, hch])
  rw [hexec, State.bdeEvent, State.bdeHead_of_queue hq]
  dsimp only
  rw [if_neg (by simp [hst]), if_pos hk, if_neg (by simp [hz])]

theorem State.exec_collIssue (hst : o.state = 2) (hz : o.zone = none) (hstop : o.stopped = none) : exec (.engineIssue (.bde u ch)) s = .next
    (if o.summed = true then s.landNext (.bde u ch) u ch o o.dstBuf else s.collReads u ch o) := by
  have hexec : exec (.engineIssue (.bde u ch)) s = .next (s.bdeIssue u ch) := if_pos (by simp [agentExists, hu, hch])
  rw [hexec, State.bdeIssue, State.bdeHead_of_queue hq]
  dsimp only
  rw [if_neg (by simp [hst]), if_pos hk, if_neg (by simp [hz, hstop])]

end

/-! ### COLL_START and the end of a collective (R398) -/

section
variable (hq : (s.bdeChan u ch).queue = o :: rest)
include hq

theorem State.collBegin_off (hk : o.kind = .coll) (hoff : s.bdeOff u = true) : (s.collBegin u ch o).EndsBde u ch o rest 0x22 0 := by
  rw [State.collBegin, if_pos hoff, State.failBde]
  have h := State.endsBde_finishBde hq { o.fault 0 0 0 with state := (o.fault 0 0 0).stopped.getD 0x20 } rfl
  have hstate : (o.fault 0 0 0).stopped.getD 0x20 = 0x22 := by rw [BdeOp.fault, if_pos hk, Option.getD_some]
  rw [hstate] at h
  rw [hstate]
  exact h

theorem State.collEnd_ends (htodo : o.todo = []) (hacked : s.acked o.sent = true) (hask : ∀ l, o.ask = some l → s.allIn l = true)
    (hdone : o.summed = true ∨ o.stopped.isSome = true) : (s.collEnd u ch o).EndsBde u ch o rest (o.stopped.getD 0x10 % 256) o.detail := by
  have hall : o.ask.toList.all s.allIn = true := by
    rw [List.all_eq_true]
    exact fun l hl => hask l (Option.mem_toList.1 hl)
  unfold State.collEnd
  rw [if_neg (by simp [htodo, hacked, hall])]
  cases hstop : o.stopped with
  | some st =>
    refine State.endsBde_finishBde ((congrArg BdeChan.queue ?_).trans hq) { o with state := st } rfl
    exact State.bdeChan_of_bdes (s.bdes_dropLoads _) u ch
  | none =>
    have hsum : o.summed = true := hdone.resolve_right (by simp [hstop])
    rw [if_pos hsum]
    exact State.endsBde_finishBde hq { o with state := 0x10, sf := true, vis := true } rfl

end

theorem State.collEnd_waits (h : ¬(o.todo = [] ∧ s.acked o.sent = true ∧ ∀ l, o.ask = some l → s.allIn l = true)) : s.collEnd u ch o = s := by
  unfold State.collEnd
  refine if_pos ?_
  by_contra hgo
  simp only [Bool.or_eq_true, Bool.not_eq_true', not_or, Bool.not_eq_false, List.isEmpty_iff, List.all_eq_true] at hgo
  obtain ⟨⟨htodo, hacked⟩, hask⟩ := hgo
  exact h ⟨htodo, hacked, fun l hl => hask l (Option.mem_toList.2 hl)⟩

theorem State.collBegin_asks (hoff : s.bdeOff u = false) :
    ∃ l, s.HeadsBde (s.collBegin u ch o) u ch { o with state := 2, ask := some l, began := s.timeOf (u / 2) } := by
  have haside := s.engineAside_engineAsk (o.worker u ch) [] o.src 64
  rw [State.collBegin, hoff, if_neg Bool.false_ne_true, ← haside.timeOf]
  exact ⟨_, State.headsBde_setBdeOp (State.bdeChan_of_bdes haside.bdes u ch) haside.mem _⟩

/-! ### The reads of a collective (R397 to R399) -/

section
variable {l : EngLoad} (hask : o.ask = some l) (hlist : o.plist = [])
include hask hlist

theorem State.collReads_wait (h : s.loadRead l = .wait) : s.collReads u ch o = s := by
  unfold State.collReads
  rw [hask]
  dsimp only
  rw [hlist, h] <;> rfl

theorem State.collReads_fault {d va : Nat} (h : s.loadRead l = .fault d va) : ∃ page, s.collReads u ch o = s.stopColl u ch o 0 d page := by
  refine ⟨faultPage va (if o.words.isEmpty then o.src else recBits o.words 4 63 0), ?_⟩
  unfold State.collReads
  rw [hask]
  dsimp only
  rw [hlist, h] <;> rfl

theorem State.collReads_descriptor {b : List Byte} (h : s.loadRead l = .ok b) (hw : o.words = []) :
    s.collReads u ch o = (s.dropLoad l).collDescriptor u ch { o with words := wordsOf b 8, ask := none } := by
  unfold State.collReads
  rw [hask]
  dsimp only
  rw [hlist, h, hw] <;> rfl

theorem State.collReads_list {b : List Byte} (h : s.loadRead l = .ok b) (hw : o.words ≠ []) : s.collReads u ch o =
    if (halves o.npart b).count s.modId = 1 then (s.dropLoad l).setBdeOp u ch { o with plist := halves o.npart b, ask := none }
    else (s.dropLoad l).stopColl u ch { o with ask := none } 0 0 0 := by
  have hne : o.words.isEmpty = false := by simpa using hw
  unfold State.collReads
  rw [hask]
  dsimp only
  rw [hlist, h]
  dsimp only
  rw [hne, s.modId_dropLoad, List.count_eq_length_filter] <;> rfl

end

end

end Sys2Proof.Machine
end

section
/-!
SUPPORT. The descriptor, the zone, the part and the sum of a collective (R176, R396 to R399).
-/
namespace Sys2Proof.Machine

section
variable {s : State} {u ch : Nat} {o : BdeOp}

/-! ### The descriptor (R397, R399) -/

theorem State.collDescriptor_bad (h : badDescriptor o = true) : s.collDescriptor u ch o = s.stopColl u ch o 0 0 0 := if_pos h

/-- The descriptor of a collective of parts: the release of the issuing core, and the module list asked for (R176, R398). -/
theorem State.collDescriptor_parts (hb : badDescriptor o = false) (hop : o.op ≠ 4) :
    ∃ f, s.HeadsBde (s.collDescriptor u ch o) u ch f ∧ f.words = o.words ∧ f.plist = o.plist ∧ f.ask.isSome = true ∧
      (∀ w ∈ ((s.collDescriptor u ch o).core o.core).out, w.write = true → w.req.asid = o.asid → o.named w.req.va w.req.size = true →
        w.req.id ∈ f.flush) ∧
      ∀ m ∈ ((s.collDescriptor u ch o).core o.core).l1, m.asid = o.asid → o.named (m.line * 128) 128 = true → m.isDirty = false := by
  let p := fun (m : L1Line) => m.asid == o.asid && o.named (m.line * 128) 128
  let w := s.writeBackAll o.core p
  have haside := w.engineAside_engineAsk (o.worker u ch) [] (recBits o.words 4 63 0) (2 * o.npart)
  have hback := s.wroteBack_all o.core p
  have hcore : (s.collDescriptor u ch o).core o.core = w.core o.core := by
    rw [State.collDescriptor, hb, if_neg Bool.false_ne_true, if_neg hop]
    exact congrArg (fun cs : Map HomeCore => cs.get {} o.core) haside.cores
  let ids := ((w.core o.core).out.filter fun x => x.write && x.req.asid == o.asid && o.named x.req.va x.req.size).map (·.req.id)
  let l := (w.engineAsk (o.worker u ch) [] (recBits o.words 4 63 0) (2 * o.npart)).1
  refine ⟨{ o with ask := some l, flush := ids }, ?_, rfl, rfl, rfl, fun x hx hw ha hn => ?_, fun m hm ha hn => ?_⟩
  · rw [State.collDescriptor, hb, if_neg Bool.false_ne_true, if_neg hop]
    exact State.headsBde_setBdeOp (State.bdeChan_of_bdes (haside.bdes.trans (s.bdes_writeBackAll ..)) u ch)
      (haside.mem.trans (s.mem_writeBackAll ..)) _
  · rw [hcore] at hx
    exact List.mem_map.2 ⟨x, List.mem_filter.2 ⟨hx, by simp [hw, ha, hn]⟩, rfl⟩
  · rw [hcore] at hm
    rw [← Bool.not_eq_true]
    intro hd
    obtain ⟨hin, hnot⟩ := hback.dirty m hm hd
    exact hnot (List.mem_filter.2 ⟨hin, by simp [p, ha, hn]⟩)

theorem State.collDescriptor_zone (hb : badDescriptor o = false) (hop : o.op = 4) : s.collDescriptor u ch o = s.openZone u ch o := by
  rw [State.collDescriptor, hb, if_neg Bool.false_ne_true, if_pos hop]

theorem State.openZone_fault {d : Nat} {held : Map Tr} {v : State} (h : s.workPlace (o.worker u ch) [] o.dstBuf 1 true = (.error d, held, v)) :
    s.openZone u ch o = v.stopColl u ch o 1 d 0 := by
  unfold State.openZone
  rw [h]

theorem Bde.place_free {b : Bde} {n i a : Nat} (h : b.place n = some (i, a)) :
    a + n ≤ 65536 ∧ ∀ e ∈ b.zones, e.2.first + e.2.count ≤ a ∨ a + n ≤ e.2.first := by
  unfold Bde.place at h
  split at h
  · cases h
  · obtain ⟨x, hx, hpair⟩ := Option.map_eq_some_iff.1 h
    cases hpair
    have hfree := List.find?_some hx
    simp only [Bde.freeRun, Bool.and_eq_true, decide_eq_true_eq, List.all_eq_true, Bool.or_eq_true] at hfree
    exact hfree

section
variable {tr : Tr} {held : Map Tr} {v : State} (h : s.workPlace (o.worker u ch) [] o.dstBuf 1 true = (.ok (.mem tr), held, v))
  (hbm : inHbm tr.pa 1 = true) (hon : v.bdeOff (stackOf tr.pa) = false)
include h hbm hon

theorem State.openZone_full (hp : (v.bde (stackOf tr.pa)).place o.count = none) : s.openZone u ch o = v.stopColl u ch o 0 0xC 0 := by
  unfold State.openZone
  simp only [h, hbm, if_true, hon, Bool.false_eq_true, if_false, hp]

/-- The zone that a collective opens. -/
def BdeOp.newZone (o : BdeOp) (u ch a : Nat) : Zone :=
  { unit := u, chan := ch, seq := o.seq, asid := o.asid, first := a, fmt := o.fmt, frac := o.frac, e := o.ecount, dst := o.dstBuf, count := o.count }

theorem State.openZone_opens {i a : Nat} (hp : (v.bde (stackOf tr.pa)).place o.count = some (i, a)) :
    s.openZone u ch o = (v.setZone (stackOf tr.pa) i (o.newZone u ch a)).setBdeOp u ch { o with zone := some (stackOf tr.pa, i) } := by
  unfold State.openZone
  simp only [h, hbm, if_true, hon, Bool.false_eq_true, if_false, hp, BdeOp.newZone]

end

/-! ### The part of this module (R176, R398) -/

section
variable (hask : o.ask = none) (hlist : o.plist ≠ [])
include hask hlist

theorem State.collReads_part : s.collReads u ch o = s.collPart u ch o := by
  have hne : o.plist.isEmpty = false := by simpa using hlist
  unfold State.collReads
  rw [hask]
  dsimp only
  rw [hne, if_neg Bool.false_ne_true]

theorem State.collReads_part_waits (h : ∃ i ∈ o.flush, ∃ w ∈ (s.core o.core).out, w.req.id = i) : s.collReads u ch o = s := by
  rw [State.collReads_part hask hlist]
  refine if_pos ?_
  obtain ⟨i, hi, w, hw, hid⟩ := h
  exact List.any_eq_true.2 ⟨i, hi, List.any_eq_true.2 ⟨w, hw, beq_iff_eq.2 hid⟩⟩

/-- This module asks for its SRC, except where a broadcast has another root. -/
theorem State.collReads_part_asks (h : ¬∃ i ∈ o.flush, ∃ w ∈ (s.core o.core).out, w.req.id = i) :
    ∃ l f, s.HeadsBde (s.collReads u ch o) u ch f ∧ f.ask = some l ∧ f.plist = o.plist ∧
      (o.op = 3 → o.plist.head? ≠ some s.modId → l.pieces = [] ∧ l.todo = [] ∧ (s.collReads u ch o).chans = s.chans) := by
  have hopen : (o.flush.any fun i => (s.core o.core).out.any fun w => w.req.id == i) = false := by
    rw [← Bool.not_eq_true]
    intro hany
    obtain ⟨i, hi, hw⟩ := List.any_eq_true.1 hany
    obtain ⟨w, hw, hid⟩ := List.any_eq_true.1 hw
    exact h ⟨i, hi, w, hw, beq_iff_eq.1 hid⟩
  rw [State.collReads_part hask hlist, State.collPart, hopen, if_neg Bool.false_ne_true]
  cases hpart : o.hasPart s.modId with
  | true =>
    have haside := s.engineAside_engineAsk (o.worker u ch) o.leases o.srcBuf o.srcLen
    rw [if_pos rfl]
    refine ⟨_, _, State.headsBde_setBdeOp (State.bdeChan_of_bdes haside.bdes u ch) haside.mem _, rfl, rfl, fun hop hroot => ?_⟩
    simp [BdeOp.hasPart, hop, hroot] at hpart
  | false =>
    rw [if_neg Bool.false_ne_true]
    exact ⟨_, _, State.headsBde_setBdeOp rfl rfl _, rfl, rfl, fun _ _ => ⟨rfl, rfl, rfl⟩⟩

end

/-! ### The parts come together (R176, R398) -/

section
variable {l : EngLoad} (hask : o.ask = some l) (hlist : o.plist ≠ []) {srcs : List (List Byte)}
include hask hlist

theorem State.collSum_wait (h : s.loadRead l = .wait) : s.collSum u ch o srcs = s := by
  obtain ⟨m, ms, hl⟩ := List.exists_cons_of_ne_nil hlist
  unfold State.collSum
  rw [hask, hl]
  dsimp only
  rw [h]

theorem State.collSum_fault {d va : Nat} (h : s.loadRead l = .fault d va) :
    s.collSum u ch o srcs = s.stopColl u ch o 0 d (faultPage va o.srcBuf) := by
  obtain ⟨m, ms, hl⟩ := List.exists_cons_of_ne_nil hlist
  unfold State.collSum
  rw [hask, hl]
  dsimp only
  rw [h]

/-- The participants' SRC buffers in the order of PLIST, this module's own as it has been read. -/
def State.collParts (s : State) (o : BdeOp) (srcs : List (List Byte)) (b : List Byte) : List (List Byte) :=
  List.zipWith (fun m x => if m = s.modId then b else x) o.plist srcs

/-- Every part has the size that the descriptor gives; of a broadcast, the root's. -/
def State.PartsFit (s : State) (o : BdeOp) (srcs : List (List Byte)) (b : List Byte) : Prop :=
  srcs.length = o.npart ∧ ∀ x ∈ (if o.op = 3 then (s.collParts o srcs b).take 1 else s.collParts o srcs b), x.length = o.count * o.eb

section
variable {b : List Byte} (h : s.loadRead l = .ok b)
include h

theorem State.collSum_misfit (hfit : ¬s.PartsFit o srcs b) : s.collSum u ch o srcs = s.stopColl u ch o 0 0 0 := by
  obtain ⟨m, ms, hl⟩ := List.exists_cons_of_ne_nil hlist
  have hbad : srcs.length ≠ o.npart ∨
      ((if o.op = 3 then (s.collParts o srcs b).take 1 else s.collParts o srcs b).any fun x => x.length != o.srcLen) = true := by
    by_contra hgood
    obtain ⟨hlen, hall⟩ := not_or.1 hgood
    refine hfit ⟨not_not.1 hlen, fun x hx => ?_⟩
    have := List.any_eq_false.1 (Bool.not_eq_true _ ▸ hall) x hx
    simpa [BdeOp.srcLen] using this
  unfold State.collSum
  rw [hask]
  unfold State.collParts at hbad
  rw [hl] at hbad ⊢
  dsimp only
  rw [h]
  exact if_pos hbad

theorem State.collSum_sums (hfit : s.PartsFit o srcs b) : s.collSum u ch o srcs = (s.dropLoad l).setBdeOp u ch
    { o with
      summed := true, sf := true, ovf := (o.result s.modId (s.collParts o srcs b)).2
      todo := landList o.dstBuf o.eb (o.result s.modId (s.collParts o srcs b)).1, ask := none } := by
  obtain ⟨m, ms, hl⟩ := List.exists_cons_of_ne_nil hlist
  have hgood : ¬(srcs.length ≠ o.npart ∨
      ((if o.op = 3 then (s.collParts o srcs b).take 1 else s.collParts o srcs b).any fun x => x.length != o.srcLen) = true) := by
    rintro (hlen | hany)
    · exact hlen hfit.1
    · obtain ⟨x, hx, hne⟩ := List.any_eq_true.1 hany
      exact (bne_iff_ne.1 hne) (hfit.2 x hx)
  unfold State.collSum
  rw [hask]
  unfold State.collParts at hgood ⊢
  rw [hl] at hgood ⊢
  dsimp only
  rw [h]
  exact if_neg hgood

end

end

section
variable {own : Nat} {all : List (List Byte)}

/-- The read-out of the sum of elements `k` of every participant (R396). -/
def BdeOp.sumAt (o : BdeOp) (all : List (List Byte)) (k : Nat) : Nat :=
  (sumElem o.fmt o.frac k (all.map (elemsOf o.eb o.count))).read o.fmt o.frac

theorem BdeOp.readOut_sums (o : BdeOp) (all : List (List Byte)) (a n : Nat) :
    ((natsFrom a n).map fun k => sumElem o.fmt o.frac k (all.map (elemsOf o.eb o.count))).map (fun e => e.read o.fmt o.frac) =
      (List.range n).map fun k => o.sumAt all (a + k) := by
  rw [List.map_map, natsFrom_map]
  rfl

theorem BdeOp.result_sum (h : o.op = 0) : (o.result own all).1 = (List.range o.count).map (o.sumAt all) := by
  unfold BdeOp.result
  rw [h]
  exact (o.readOut_sums all 0 o.count).trans (List.map_congr_left fun k _ => by rw [Nat.zero_add])

theorem BdeOp.result_scatter (h : o.op = 1) (hin : own ∈ o.plist) : (o.result own all).1 =
    (List.range (o.count / o.npart)).map (fun k => o.sumAt all (o.plist.idxOf own * (o.count / o.npart) + k)) := by
  unfold BdeOp.result
  rw [h, findIdx_beq_getD hin]
  exact o.readOut_sums all ..

theorem BdeOp.result_gather (h : o.op = 2) : (o.result own all).1 = (all.map (elemsOf o.eb o.count)).flatten := by
  unfold BdeOp.result
  rw [h] <;> rfl

theorem BdeOp.result_broadcast (h : o.op = 3) (hne : all ≠ []) : (o.result own all).1 = elemsOf o.eb o.count (all.headD []) := by
  obtain ⟨x, xs, rfl⟩ := List.exists_cons_of_ne_nil hne
  unfold BdeOp.result
  rw [h] <;> rfl

end

/-! ### The writes of a collective (R383) -/

theorem State.landNext_appends {agent : Agent} {dst : Nat} {w : LandWrite} {ws : List LandWrite} {p : EngPlace} {held : Map Tr} {v : State}
    (htodo : o.todo = w :: ws) (h : s.workPlace { o.worker u ch with agent := agent } o.leases w.va w.len true = (.ok p, held, v)) :
    ∃ r g, s.HeadsBde (s.landNext agent u ch o dst) u ch g ∧ ((s.landNext agent u ch o dst).chan agent (v.placeHome p)).getLast? = some r ∧
      r.op = w.op ∧ r.addr = p.addr ∧ g.todo = ws ∧ r.id ∈ g.sent := by
  have haside := (s.engineAside_workPlace h).trans (v.engineAside_engineSend agent (v.placeHome p) w.op p.addr w.len w.va o.asid p.exp)
  obtain ⟨r, hlast, hid, hop, haddr, -, -⟩ := v.engineSend_last agent (v.placeHome p) w.op p.addr w.len w.va o.asid p.exp
  have hland : s.landNext agent u ch o dst = (v.engineSend agent (v.placeHome p) w.op p.addr w.len w.va o.asid p.exp).2.setBdeOp u ch
      { o with
        todo := ws, leases := held
        sent := o.sent ++ [(v.engineSend agent (v.placeHome p) w.op p.addr w.len w.va o.asid p.exp).1] } := by
    unfold State.landNext
    rw [htodo]
    dsimp only
    rw [h]
  rw [hland]
  exact ⟨r, _, State.headsBde_setBdeOp (State.bdeChan_of_bdes haside.bdes u ch) haside.mem _, hlast, hop, haddr, rfl,
    List.mem_append_right _ (List.mem_singleton.2 hid)⟩

end

end Sys2Proof.Machine
end

section
/-!
PROOF of O44 (R176, R397 to R399): a collective from its start to its end.
-/
namespace Sys2Proof
open Machine

/-- Settles O44: the start, the reads one after another, the time limit, and the parts and writes of a collective. -/
theorem collectives : Obligations.Collectives := by
  intro s u ch o rest hu hch hq hk
  have hstart := State.exec_collStart hq hu hch hk
  have htimeout := State.exec_collTimeout hq hu hch hk
  have hzone := fun h : o.state = 2 ∧ o.zone = none ∧ o.stopped = none => State.exec_collIssue hq hu hch hk h.1 h.2.1 h.2.2
  refine ⟨fun h => ?_, fun h hoff => ?_, fun h hoff => ?_, fun l hrun hsum hask hlist => ?_, fun hrun hsum hask hlist => ?_, ?_,
    fun srcs hst hz => ?_⟩
  · exact hstart.trans (congrArg _ (if_neg h))
  · exact ⟨_, hstart.trans (congrArg _ (if_pos h)), State.collBegin_off hq hk hoff⟩
  · obtain ⟨l, hl⟩ := State.collBegin_asks (o := o) (ch := ch) hoff
    exact ⟨_, l, hstart.trans (congrArg _ (if_pos h)), hl.mem, State.headsBde_queue hq hl⟩
  · have hissue := hzone hrun
    rw [hsum, if_neg Bool.false_ne_true] at hissue
    have hdrop := State.bdeChan_of_bdes (s.bdes_dropLoad l) u ch
    have hmem := s.mem_dropLoad l
    refine ⟨fun h => ?_, fun d va h => ?_, fun b h hw => ?_, fun b h hw => ?_⟩
    · exact hissue.trans (congrArg _ (State.collReads_wait hask hlist h))
    · obtain ⟨page, hstop⟩ := State.collReads_fault (u := u) (ch := ch) hask hlist h
      rw [hissue, hstop]
      exact State.stops_stopColl rfl rfl hk 0 d page
    · rw [State.collReads_descriptor hask hlist h hw] at hissue
      refine ⟨fun hb => ?_, fun hb hop => ?_, fun d held v' hb hop hp => ?_, fun tr held v' hb hop hp hbm hon => ⟨fun hfull => ?_, fun i a hfree => ?_⟩⟩
      · rw [hissue, State.collDescriptor_bad hb]
        exact State.stops_stopColl hdrop hmem (by exact hk) 0 0 0
      · obtain ⟨f, hf, hwords, hplist, hfask, hflush, hclean⟩ := State.collDescriptor_parts (s := s.dropLoad l) (u := u) (ch := ch) hb hop
        exact ⟨_, f, hissue, hf.mem.trans hmem, hf.head, hwords, hplist.trans hlist, hfask,
          fun w hw' hh => hflush w hw' hh.1 hh.2.1 hh.2.2, hclean⟩
      · have haside := State.engineAside_workPlace _ hp
        rw [hissue, State.collDescriptor_zone hb hop, State.openZone_fault hp]
        exact State.stops_stopColl ((State.bdeChan_of_bdes haside.bdes u ch).trans hdrop) (haside.mem.trans hmem) (by exact hk) 1 d 0
      · have haside := State.engineAside_workPlace _ hp
        rw [hissue, State.collDescriptor_zone hb hop, State.openZone_full hp hbm hon hfull]
        exact State.stops_stopColl ((State.bdeChan_of_bdes haside.bdes u ch).trans hdrop) (haside.mem.trans hmem) (by exact hk) 0 0xC 0
      · rw [hissue, State.collDescriptor_zone hb hop, State.openZone_opens hp hbm hon hfree]
        obtain ⟨hfit, hothers⟩ := Bde.place_free hfree
        exact ⟨_, _, _, rfl, State.bdeHead_setBdeOp .., hrun.1, rfl, (State.zone?_setBdeOp ..).trans (State.zone?_setZone ..), rfl, rfl, rfl, rfl, rfl, rfl,
          rfl, rfl, hfit, hothers⟩
    · rw [State.collReads_list hask hlist h hw] at hissue
      refine ⟨fun hin => ?_, fun hout => ?_⟩
      · rw [if_pos hin] at hissue
        exact ⟨_, hissue, State.headsBde_queue hq (State.headsBde_setBdeOp hdrop hmem _)⟩
      · rw [hissue, if_neg hout]
        exact State.stops_stopColl hdrop hmem (by exact hk) 0 0 0
  · have hissue := hzone hrun
    rw [hsum, if_neg Bool.false_ne_true] at hissue
    refine ⟨fun hopen => ?_, fun hopen => ?_⟩
    · exact hissue.trans (congrArg _ (State.collReads_part_waits hask hlist hopen))
    · obtain ⟨l, f, hf, hfask, hplist, hother⟩ := State.collReads_part_asks (u := u) (ch := ch) hask hlist hopen
      exact ⟨_, l, hissue, hf.mem, ⟨f, hf.head, hfask, hplist⟩, hother⟩
  · refine ⟨fun h => ?_, fun h => ?_⟩
    · rw [htimeout, if_pos h]
      exact State.stops_stopColl rfl rfl hk 0 0xD 0
    · exact htimeout.trans (congrArg _ (if_neg h))
  · have hcomplete := State.exec_collComplete hq hu hch hk srcs hst hz
    have hevent := State.exec_collEvent hq hu hch hk hst hz
    refine ⟨fun l hsum hstop hlist hask => ?_, fun w ws p held v hsum hstop htodo hp => ?_, fun hdone => ⟨fun h => ?_, fun h => ?_⟩⟩
    · rw [hsum, hstop, Option.isSome_none, Bool.or_false, if_neg Bool.false_ne_true] at hcomplete
      refine ⟨fun h => ?_, fun d va h => ?_, fun b h => ⟨fun hmis => ?_, fun hfit hin hlen => ?_⟩⟩
      · exact hcomplete.trans (congrArg _ (State.collSum_wait hask hlist h))
      · rw [hcomplete, State.collSum_fault hask hlist h]
        exact State.stops_stopColl rfl rfl hk 0 d _
      · rw [hcomplete, State.collSum_misfit hask hlist h hmis]
        exact State.stops_stopColl rfl rfl hk 0 0 0
      · have hne : s.collParts o srcs b ≠ [] := by
          have hpos : 0 < o.plist.length := List.length_pos_iff.2 hlist
          rw [← List.length_pos_iff, State.collParts, List.length_zipWith, hfit.1, hlen]
          omega
        have hsums := State.collSum_sums (u := u) (ch := ch) hask hlist h hfit
        rw [hcomplete, hsums]
        have hhead := State.headsBde_setBdeOp (State.bdeChan_of_bdes (s.bdes_dropLoad l) u ch) (s.mem_dropLoad l)
          { o with
            summed := true, sf := true, ovf := (o.result s.modId (s.collParts o srcs b)).2
            todo := landList o.dstBuf o.eb (o.result s.modId (s.collParts o srcs b)).1, ask := none }
        exact ⟨_, _, _, rfl, hhead.mem, hhead.head, rfl, rfl, rfl, rfl, BdeOp.result_sum, fun hop => BdeOp.result_scatter hop hin,
          BdeOp.result_gather, fun hop => BdeOp.result_broadcast hop hne⟩
    · have hissue := hzone ⟨hst, hz, hstop⟩
      rw [if_pos hsum] at hissue
      obtain ⟨r, g, hg, hlast, hop, haddr, htd, hsent⟩ := State.landNext_appends (dst := o.dstBuf) htodo hp
      exact ⟨_, r, g, hissue, hlast, hop, haddr, hg.head, htd, hsent⟩
    · have hor : (o.summed || o.stopped.isSome) = true := by simpa using hdone
      rw [hor, if_pos rfl, State.collEnd_waits h] at hcomplete
      exact ⟨hcomplete, hevent.trans (congrArg _ (State.collEnd_waits h))⟩
    · have hor : (o.summed || o.stopped.isSome) = true := by simpa using hdone
      rw [hor, if_pos rfl] at hcomplete
      have hends := State.collEnd_ends hq h.1 h.2.1 h.2.2 hdone
      exact ⟨⟨_, hcomplete, hends⟩, _, hevent, hends⟩

end Sys2Proof
end

section
/-!
PROOF of O51 (R181, R469 to R472, R486, R489): what the host port answers, and what it sends on.
-/
namespace Sys2Proof.Machine

/-! ### The registers that answer before the module is in service (R486) -/

theorem DevReg.ite_ne {p : Prop} [Decidable p] {a b x : DevReg} (ha : p → a ≠ x) (hb : b ≠ x) : (if p then a else b) ≠ x := by
  split
  · exact ha ‹p›
  · exact hb

theorem recordReg_ne_bootst {o : Nat} {last : DevReg} (h : last ≠ .bootst) : recordReg o last ≠ .bootst := by
  unfold recordReg
  split
  case h_6 => exact h
  all_goals exact nofun

theorem queueReg_ne_bootst (q o : Nat) : queueReg q o ≠ .bootst := by
  unfold queueReg
  split
  case h_6 => exact DevReg.ite_ne nofun nofun
  all_goals exact nofun

theorem octantReg_ne_bootst (oct o : Nat) : octantReg oct o ≠ .bootst := by
  refine DevReg.ite_ne nofun (DevReg.ite_ne nofun ?_)
  split <;> exact nofun

theorem dieZeroReg_ne_bootst {o : Nat} (h : o ≠ 0x00D00200) : dieZeroReg o ≠ .bootst :=
  have record {o : Nat} {last : DevReg} (h : last ≠ .bootst) := recordReg_ne_bootst (o := o) h
  DevReg.ite_ne (fun _ => record nofun) <| DevReg.ite_ne (fun _ => record nofun) <| DevReg.ite_ne nofun <| DevReg.ite_ne nofun <|
    DevReg.ite_ne nofun <| DevReg.ite_ne nofun <| DevReg.ite_ne nofun <| DevReg.ite_ne nofun <| DevReg.ite_ne nofun <|
    DevReg.ite_ne (fun e => absurd e h) <| DevReg.ite_ne nofun <| DevReg.ite_ne nofun <| DevReg.ite_ne nofun <| DevReg.ite_ne nofun nofun

theorem anyDieReg_ne_bootst (d o : Nat) : anyDieReg d o ≠ .bootst :=
  DevReg.ite_ne (fun _ => queueReg_ne_bootst _ _) <| DevReg.ite_ne nofun <| DevReg.ite_ne nofun <| DevReg.ite_ne nofun <|
    DevReg.ite_ne (fun _ => octantReg_ne_bootst _ _) <| DevReg.ite_ne nofun <| DevReg.ite_ne nofun <| DevReg.ite_ne nofun <|
    DevReg.ite_ne nofun <| DevReg.ite_ne nofun <| DevReg.ite_ne nofun <| DevReg.ite_ne nofun <|
    DevReg.ite_ne (fun _ => by dsimp only; split <;> exact nofun) nofun

theorem eq_of_devOff {pa off : Nat} (hlow : 2 ^ 39 ≤ pa) (hdie : devDie pa = 0) (hoff : devOff pa = off) : pa = 0x8000000000 + off := by
  unfold devDie at hdie
  unfold devOff at hoff
  omega

/-- The registers of one die and those of every die, opened as `State.devRead_readAs` opens its own. -/
theorem devRegAt_ne {pa : Nat} {r : DevReg} (hany : anyDieReg (devDie pa) (devOff pa) ≠ r) (hzero : devDie pa = 0 → dieZeroReg (devOff pa) ≠ r)
    (hnone : .none ≠ r) : devRegAt pa ≠ r := by
  obtain ⟨f, hf⟩ : ∃ f, f = devRegAt := ⟨_, rfl⟩
  obtain ⟨die, hdie⟩ : ∃ die, die = devDie := ⟨_, rfl⟩
  obtain ⟨off, hoff⟩ : ∃ off, off = devOff := ⟨_, rfl⟩
  rw [← hdie, ← hoff] at hany hzero
  rw [← hf]
  delta devRegAt at hf
  rw [← hdie, ← hoff] at hf
  rw [hf]
  beta_reduce
  clear hf hdie hoff
  split
  · exact DevReg.ite_ne hzero hnone
  · exact hany

/-- BOOTST is one register. -/
theorem devRegAt_ne_bootst {pa : Nat} (hlow : 2 ^ 39 ≤ pa) (hne : pa ≠ 0x8000D00200) : devRegAt pa ≠ .bootst :=
  devRegAt_ne (anyDieReg_ne_bootst _ _) (fun hdie => dieZeroReg_ne_bootst fun ho => hne (eq_of_devOff hlow hdie ho)) nofun

/-- Whether a register answers before the module is in service, by the register. -/
def State.answersEarly (s : State) (pa : Nat) : DevReg → Bool
  | .bootst => true
  | .fwctl => s.boot.stage == 5
  | .rw _ => s.boot.stage == 5 && devDie pa == 0 && 0x01000000 ≤ devOff pa && devOff pa < 0x02000000
  | _ => false

theorem State.earlyReg_of (s : State) (pa : Nat) : s.earlyReg pa = s.answersEarly pa (devRegAt (pa / 8 * 8)) := by
  obtain ⟨f, hf⟩ : ∃ f, f = State.earlyReg := ⟨_, rfl⟩
  obtain ⟨g, hg⟩ : ∃ g, g = devRegAt := ⟨_, rfl⟩
  rw [← hf, ← hg]
  delta State.earlyReg at hf
  rw [← hg] at hf
  rw [hf]
  beta_reduce
  clear hf hg
  generalize g (pa / 8 * 8) = r
  cases r <;> rfl

/-- Outside recovery only BOOTST answers. -/
theorem State.answersEarly_ne {s : State} {pa : Nat} {r : DevReg} (hst : s.boot.stage ≠ 5) (h : r ≠ .bootst) : s.answersEarly pa r = false := by
  have hstage : (s.boot.stage == 5) = false := beq_false_of_ne hst
  cases r
  case bootst => exact absurd rfl h
  case fwctl => exact hstage
  case rw m => simp only [State.answersEarly, hstage, Bool.false_and]
  all_goals rfl

theorem State.devRead_bootst {s : State} {pa : Nat} (h : devRegAt pa = .bootst) : s.devRead pa = (s.boot.word, s) := by
  obtain ⟨f, hf⟩ : ∃ f, f = State.devRead := ⟨_, rfl⟩
  obtain ⟨g, hg⟩ : ∃ g, g = devRegAt := ⟨_, rfl⟩
  rw [← hf]
  delta State.devRead at hf
  rw [← hg] at hf h
  rw [hf]
  beta_reduce
  rw [h]

theorem State.devLoad_of {s t : State} {pa n : Nat} {v : W64} (h : s.devRead (pa / 8 * 8) = (v, t)) :
    s.devLoad pa n = (leBytes (v.toNat / 2 ^ (8 * (pa % 8))) n, t) := by
  obtain ⟨f, hf⟩ : ∃ f, f = State.devLoad := ⟨_, rfl⟩
  obtain ⟨g, hg⟩ : ∃ g, g = State.devRead := ⟨_, rfl⟩
  rw [← hf]
  delta State.devLoad at hf
  rw [← hg] at hf h
  rw [hf]
  beta_reduce
  rw [h]

/-! ### Accesses of the host -/

/-- One answer is handed to the host, and nothing is sent. -/
def State.Answers (s t : State) (o : HostOut) : Prop := t.hostOut = s.hostOut ++ [o] ∧ t.mem = s.mem ∧ t.chans = s.chans

/-- A request of an agent of the host port stands last in its channel. -/
def State.HostSent (s t : State) (agent : Agent) (op : HomeOp) (pa n : Nat) : Prop :=
  t.hostOut = s.hostOut ∧ ∃ r, (t.chan agent (s.homeOf pa)).getLast? = some r ∧ r.op = op ∧ r.addr = pa ∧ r.size = n ∧ r.scope = .package ∧
    r.home = s.homeOf pa

theorem State.hostSent_hostSend (s : State) (a : Agent) (op : HomeOp) (pa n : Nat) : s.HostSent (s.hostSend a (s.homeOf pa) op pa n) a op pa n :=
  ⟨rfl, _, State.chan_add_last _ a (s.homeOf pa) _, rfl, rfl, rfl, rfl, rfl⟩

theorem oneLine_iff (pa n : Nat) : oneLine pa n = true ↔ pa + n ≤ 2 ^ 39 ∧ n ≠ 0 ∧ pa / 128 = (pa + n - 1) / 128 := by
  simp [oneLine, inHbm, and_assoc]

/-- Where BAR0 takes an access: one naturally aligned value outside the apertures. -/
def InBar (pa n : Nat) : Prop :=
  2 ^ 39 ≤ pa ∧ pa < 2 ^ 40 ∧ inFabric pa = false ∧ inHostAp pa = false ∧ (n = 1 ∨ n = 2 ∨ n = 4 ∨ n = 8) ∧ pa % n = 0

theorem outsideBar_iff (pa n : Nat) :
    (pa < 2 ^ 39 || 2 ^ 40 ≤ pa || inFabric pa || inHostAp pa || !([1, 2, 4, 8].contains n) || pa % n != 0) = true ↔ ¬InBar pa n := by
  have hcontains : [1, 2, 4, 8].contains n = true ↔ n = 1 ∨ n = 2 ∨ n = 4 ∨ n = 8 := by simp
  unfold InBar
  rw [← hcontains]
  simp only [Bool.or_eq_true, decide_eq_true_eq, bne_iff_ne, Bool.not_eq_true', ne_eq, not_and_or, not_le, not_lt, Bool.not_eq_false,
    Bool.not_eq_true, or_assoc]

/-! ### The access by its class -/

section
variable {s : State}

theorem State.exec_cxlMemRead (s : State) (pa n : Nat) : exec (.cxlMemRead pa n) s = .next
    (if oneLine pa n = true then
      (if s.boot.ready = true then s.hostSend .hostMem (s.homeOf pa) .read pa n
      else s.fresh.2.toHost (.data s.nextId (List.replicate n ⟨0, true⟩)))
    else s.toHost .unsupported) := by
  have hexec : exec (.cxlMemRead pa n) s = execCxlMemRead pa n s := rfl
  rw [hexec]
  unfold execCxlMemRead
  cases oneLine pa n <;> cases s.boot.ready <;> rfl

theorem State.exec_cxlMemWrite (s : State) (pa : Nat) (data : List Byte) : exec (.cxlMemWrite pa data) s = .next
    (if oneLine pa data.length = true then
      (if s.boot.ready = true then s.hostSend .hostMem (s.homeOf pa) (.write (PByte.clean data)) pa data.length
      else s.fresh.2.toHost (.done s.nextId))
    else s.toHost .unsupported) := by
  have hexec : exec (.cxlMemWrite pa data) s = execCxlMemWrite pa data s := rfl
  rw [hexec]
  unfold execCxlMemWrite
  cases oneLine pa data.length <;> cases s.boot.ready <;> rfl

section
variable {pa size : Nat} {write : Bool} {data : List Byte}

theorem State.exec_cxlIo_outside (h : ¬InBar pa (if write = true then data.length else size)) :
    exec (.cxlIoAccess pa size write data) s = .next (s.toHost .unsupported) := by
  have hexec : exec (.cxlIoAccess pa size write data) s = execCxlIoAccess pa size write data s := rfl
  rw [hexec]
  exact congrArg _ (if_pos ((outsideBar_iff ..).2 h))

section
variable (h : InBar pa (if write = true then data.length else size))
include h

theorem State.exec_cxlIo_inside : exec (.cxlIoAccess pa size write data) s = .next
    (if s.boot.ready = true then s.hostSend .hostIo (s.homeOf pa) (if write = true then .write (PByte.clean data) else .read) pa
      (if write = true then data.length else size)
    else if write = true then (if s.fresh.2.earlyReg pa = true then s.fresh.2.devStore pa data else s.fresh.2).toHost (.done s.nextId)
    else if s.fresh.2.earlyReg pa = true then
      (s.fresh.2.devLoad pa size).2.toHost (.data s.nextId (PByte.clean (s.fresh.2.devLoad pa size).1))
    else s.fresh.2.toHost (.data s.nextId (List.replicate size ⟨0, false⟩))) := by
  have hexec : exec (.cxlIoAccess pa size write data) s = execCxlIoAccess pa size write data s := rfl
  obtain ⟨f, hf⟩ : ∃ f, f = execCxlIoAccess := ⟨_, rfl⟩
  obtain ⟨early, hearly⟩ : ∃ g, g = State.earlyReg := ⟨_, rfl⟩
  obtain ⟨load, hload⟩ : ∃ g, g = State.devLoad := ⟨_, rfl⟩
  rw [hexec, ← hf, ← hearly, ← hload]
  delta execCxlIoAccess at hf
  rw [← hearly, ← hload] at hf
  rw [hf]
  clear hexec hf hearly hload
  refine congrArg _ ((if_neg fun e => (outsideBar_iff ..).1 e h).trans ?_)
  cases s.boot.ready <;> cases write <;> rfl

variable (hready : s.boot.ready = false) (hst : s.boot.stage ≠ 5)
include hready hst

omit hready in
/-- Outside recovery no register but BOOTST answers before the module is in service. -/
theorem State.earlyReg_other (hne : pa / 8 * 8 ≠ 0x8000D00200) : s.fresh.2.earlyReg pa = false := by
  have hlow : 2 ^ 39 ≤ pa / 8 * 8 := by have := h.1; omega
  rw [State.earlyReg_of]
  exact State.answersEarly_ne hst (devRegAt_ne_bootst hlow hne)

theorem State.exec_cxlIo_dropped (hw : write = true) (hne : pa / 8 * 8 ≠ 0x8000D00200) :
    exec (.cxlIoAccess pa size write data) s = .next (s.fresh.2.toHost (.done s.nextId)) := by
  rw [State.exec_cxlIo_inside h, hready, if_neg Bool.false_ne_true, if_pos hw, State.earlyReg_other h hst hne, if_neg Bool.false_ne_true]

theorem State.exec_cxlIo_zero (hw : write = false) (hne : pa / 8 * 8 ≠ 0x8000D00200) :
    exec (.cxlIoAccess pa size write data) s = .next (s.fresh.2.toHost (.data s.nextId (List.replicate size ⟨0, false⟩))) := by
  rw [State.exec_cxlIo_inside h, hready, if_neg Bool.false_ne_true, if_neg (Bool.eq_false_iff.1 hw), State.earlyReg_other h hst hne,
    if_neg Bool.false_ne_true]

omit hst in
theorem State.exec_cxlIo_bootst (hw : write = false) (heq : pa / 8 * 8 = 0x8000D00200) : exec (.cxlIoAccess pa size write data) s =
    .next (s.fresh.2.toHost (.data s.nextId (PByte.clean (leBytes (s.boot.word.toNat / 2 ^ (8 * (pa % 8))) size)))) := by
  have hreg : devRegAt (pa / 8 * 8) = .bootst := by
    rw [heq]
    decide
  have hload := State.devLoad_of (n := size) (State.devRead_bootst (s := s.fresh.2) hreg)
  have hearly : s.fresh.2.earlyReg pa = true := by rw [State.earlyReg_of, hreg]; rfl
  rw [State.exec_cxlIo_inside h, hready, if_neg Bool.false_ne_true, if_neg (Bool.eq_false_iff.1 hw), if_pos hearly, hload]
  rfl

end

end

/-! ### The host aperture (R472) -/

theorem Req.hostAnswer_read {r : Req} {data : List Byte} (hop : r.op = .read) (hlen : data.length = r.size) :
    (r.hostAnswer data).bytes = PByte.clean data := by
  have htake : (data ++ List.replicate r.size 0).take r.size = data := by rw [← hlen, List.take_left]
  unfold Req.hostAnswer
  rw [hop, htake]

theorem Req.hostAnswer_other {r : Req} {data : List Byte} (hop : r.op ≠ .read) (hlen : data.length = r.size) :
    (r.hostAnswer data).val = w64 (leNat data) := by
  have htake : (data ++ List.replicate r.size 0).take r.size = data := by rw [← hlen, List.take_left]
  unfold Req.hostAnswer
  rw [htake]
  dsimp only
  split
  · exact absurd ‹_› hop
  · rfl

theorem Req.hostAnswer_req (r : Req) (data : List Byte) : (r.hostAnswer data).req = r ∧ (r.hostAnswer data).ok = true := by
  unfold Req.hostAnswer
  dsimp only
  split <;> exact ⟨rfl, rfl⟩

end

end Sys2Proof.Machine

namespace Sys2Proof
open Machine

/-- Settles O51, port by port. -/
theorem hostPort : Obligations.HostPort := by
  intro s
  refine ⟨fun pa n => ?_, fun pa data => ?_, fun pa size write data => ?_, fun id data => ?_, fun a => ?_, fun width rate => ?_⟩
  · have hgo := s.exec_cxlMemRead pa n
    refine ⟨fun h => ?_, fun h hready => ?_, fun h hready => ?_⟩
    · rw [if_neg fun e => h ((oneLine_iff ..).1 e)] at hgo
      exact ⟨_, hgo, rfl, rfl, rfl⟩
    · rw [if_pos ((oneLine_iff ..).2 h), hready, if_neg Bool.false_ne_true] at hgo
      exact ⟨_, _, hgo, rfl, rfl, rfl⟩
    · rw [if_pos ((oneLine_iff ..).2 h), if_pos hready] at hgo
      exact ⟨_, hgo, s.hostSent_hostSend ..⟩
  · have hgo := s.exec_cxlMemWrite pa data
    refine ⟨fun h => ?_, fun h hready => ?_, fun h hready => ?_⟩
    · rw [if_neg fun e => h ((oneLine_iff ..).1 e)] at hgo
      exact ⟨_, hgo, rfl, rfl, rfl⟩
    · rw [if_pos ((oneLine_iff ..).2 h), hready, if_neg Bool.false_ne_true] at hgo
      exact ⟨_, _, hgo, rfl, rfl, rfl⟩
    · rw [if_pos ((oneLine_iff ..).2 h), if_pos hready] at hgo
      exact ⟨_, hgo, s.hostSent_hostSend ..⟩
  · refine ⟨fun h => ⟨_, State.exec_cxlIo_outside h, rfl, rfl, rfl⟩, fun h hready => ?_,
      fun h hready hst => ⟨fun hw hne => ?_, fun hw hne => ?_, fun hw heq => ?_⟩⟩
    · exact ⟨_, (State.exec_cxlIo_inside h).trans (congrArg _ (if_pos hready)), s.hostSent_hostSend ..⟩
    · exact ⟨_, _, State.exec_cxlIo_dropped h hready hst hw hne, ⟨rfl, rfl, rfl⟩, rfl, rfl⟩
    · refine ⟨_, s.nextId, State.exec_cxlIo_zero h hready hst hw hne, ?_, rfl, rfl⟩
      rw [if_neg (Bool.eq_false_iff.1 hw)]
      rfl
    · refine ⟨_, s.nextId, State.exec_cxlIo_bootst h hready hw heq, ?_, rfl, rfl⟩
      rw [if_neg (Bool.eq_false_iff.1 hw)]
      rfl
  · have hexec : exec (.hostApertureCompletion id data) s = execHostApertureCompletion id data s := rfl
    unfold execHostApertureCompletion at hexec
    refine ⟨fun hnone => ?_, fun r hr => ?_⟩
    · rw [hexec, hnone]
    · rw [hr] at hexec
      obtain ⟨hreq, hok⟩ := r.hostAnswer_req data
      have hlast := State.rchan_respond_last { s with hostReqs := s.hostReqs.filter (fun x => x.id != id) } (r.hostAnswer data)
      rw [hreq] at hlast
      exact ⟨_, _, hexec, fun q => by simp [State.respond], hlast, hreq, hok, Req.hostAnswer_read, Req.hostAnswer_other⟩
  · exact ⟨_, rfl, ⟨rfl, rfl, rfl⟩, rfl⟩
  · have hexec : exec (.cxlLinkTraining width rate) s = execCxlLinkTraining width rate s := rfl
    have hiff : ([16, 8, 4].contains width && [128, 64, 32].contains rate) = true ↔
        (width = 16 ∨ width = 8 ∨ width = 4) ∧ (rate = 128 ∨ rate = 64 ∨ rate = 32) := by simp
    exact ⟨fun h => hexec.trans (congrArg _ (if_pos (hiff.2 h))), fun h => hexec.trans (congrArg _ (if_neg fun e => h (hiff.1 e)))⟩

end Sys2Proof
end
